-- ==== Sys2Proof/Word.lean ====
section
/-! DEFINITION. The word types of the QZC-8100 and their plainest arithmetic (00 R6, R8, R9). -/
namespace Sys2Proof

/-- One byte of memory; multi-byte values are little-endian (00 R6). -/
abbrev Byte := BitVec 8
abbrev Half := BitVec 16
abbrev Word := BitVec 32
abbrev Dword := BitVec 64
/-- A device address of the 48-bit map (00 R9, 01 R17). -/
abbrev Addr := BitVec 48

/-- A counter of `max` at most, one event later: it stops at its limit (24 R507, R515). -/
def bump (max n : Nat) : Nat := if n < max then n + 1 else n

/-- A counter of `max` at most, `k` events later. -/
def bumpBy (max n k : Nat) : Nat := min max (n + k)

/-- 2^32 − 1, the limit of the 32-bit counters of 24 R515. -/
def top32 : Nat := 4294967295

/-- 2^64 − 1. -/
def top64 : Nat := 18446744073709551615

end Sys2Proof
end

