-- ==== Sys2Proof/Command/Common.lean ====
section
/-! DEFINITION. Operand types shared by many commands: unit numbers, domains, classes, the QCP header (00 R13, 01 R20, 19 R417). -/
namespace Sys2Proof

/-- The four secrecy domains (01 R20). -/
inductive Domain where | anchor | radio | inference | management
deriving DecidableEq, Repr

/-- The kind of a task; semaphores and sluice credits are owned by class (00 Table 6). -/
inductive JobClass where | radio | inference | assured
deriving DecidableEq, Repr

/-- Tile number T0–T95. -/
abbrev TileId := Fin 96
/-- Cluster number C0–C11. -/
abbrev ClusterId := Fin 12
/-- NR cell index 0–7. -/
abbrev CellId := Fin 8
/-- Absolute slot index, 48 bits (02 R30). -/
abbrev AbsSlot := BitVec 48

/-- Reset levels, L0 the coldest (22). -/
inductive Level where | l0 | l1 | l2 | l3
deriving DecidableEq, Repr

/-- QCP roles in ascending order of authority; `none` before SESSION_AUTH (19 R420). -/
inductive Role where | none | read | operate | admin
deriving DecidableEq, Repr

/-- The header fields of a QCP request that reached a command port, with where it came from (19 R416, R417).
`session` 0 stands before SESSION_OPEN; `raw` is the message as received, which capture writes (16 R359). -/
structure QcpHdr where
  port    : Fin 2
  addr    : BitVec 128
  udp     : Half
  session : Half
  seq     : Word
  major   : Byte
  minor   : Byte
  tag     : Dword
  raw     : List Byte
deriving DecidableEq, Repr

/-- Which cluster a tile belongs to: Cn holds T8n to T8n+7 (00 R13). -/
def clusterOf (t : TileId) : Nat := t.val / 8

end Sys2Proof
end

