-- ==== Sys2Proof/Command/Csp.lean ====
section
/-! DEFINITION. Operands of the cluster signal processor's operations (10). -/
namespace Sys2Proof

/-- Where a CSP operation issues: its cluster, and whether it joins the bundle of the operation before it (10 R220). -/
structure CspIssue where
  cluster : ClusterId
  joint   : Bool
deriving DecidableEq, Repr

/-- Data register d0–d15, address register i0–i7, modifier m0–m3, accumulator acc0–acc3 (10 Table 1). -/
abbrev CspD := Fin 16
abbrev CspI := Fin 8
abbrev CspM := Fin 4
abbrev CspA := Fin 4

/-- A post-modified memory operand: `(i)`, then `i := i + m` (10 R227). -/
structure CspMem where
  i : CspI
  m : CspM
deriving DecidableEq, Repr

/-- The operations RPT may repeat, with their fields (10 Table 3, R232). -/
inductive CspRep where
  | cmac (acc : CspA) (a b : CspMem) (conj neg : Bool)
  | cmacr (acc : CspA) (a b : CspD) (conj neg : Bool)
  | ftap (acc : CspA) (a : CspMem) (conj neg : Bool) (mv : BitVec 2)
  | tupd (a : CspMem) (dq dh : CspD) (neg : Bool)
  | tcopy (a b : CspMem)
  | cpow (acc : CspA) (a b : CspMem) (neg : Bool)
deriving DecidableEq, Repr

/-- RPT's count: an immediate, or a data register (10 R232). -/
inductive CspCount where
  | imm (n : BitVec 16)
  | reg (d : CspD)
deriving DecidableEq, Repr

/-- An external block's access to data memory (10 R223): a write of bytes, or a read of `n` bytes. -/
inductive CspAccess where
  | write (addr : BitVec 18) (bytes : List Byte)
  | read (addr : BitVec 18) (n : Fin 17)
deriving DecidableEq, Repr

/-- What an external access, or an event without one, tells the CSP: the causes of its interrupt sources 0 to 5 (10 R234). -/
inductive CspCause where | none | sweepInput | sweepDecision | prachExtracted | mailbox | timer | transfer
deriving DecidableEq, Repr

/-- A program image: its bundles, and the semaphores that its signals release (10 R228, R237). -/
structure CspImage where
  bundles : List Dword
  signals : List (BitVec 4 × Fin 1024)
deriving DecidableEq, Repr

/-- The faults of 10 R238. -/
inductive CspFault where | illegal | align | dmemUe | pmemParity | rptLimit | loopDepth
deriving DecidableEq, Repr

end Sys2Proof
end

