-- ==== Sys2Proof/Command/Radio.lean ====
section
/-! DEFINITION. Operands of the uplink and downlink commands: cell records, slot configurations, sections (02, 03). -/
namespace Sys2Proof

/-- Cell uplink configuration record (02 R28, Table 2). -/
structure UlCell where
  pci           : Half
  cellIndex     : Byte
  mu            : Byte
  nPrb          : Half
  nRx           : Byte
  maxLayers     : Byte
  gridEngine    : Byte
  decoderBank   : Byte
  rxMode        : Byte
  fallbackRank  : Byte
  eaxcBase      : Half
  iqWidth       : Byte
  resultPort    : Byte
  harqPoolBase  : Dword
  harqPoolPages : Word
  ldpcMaxIter   : Byte
  msOffset      : Byte
  polarList     : Byte
  rsvd1f        : Byte
  rsvd20        : BitVec 256
deriving DecidableEq, Repr

/-- Cell downlink configuration record (03 R67, Table 2). -/
structure DlCell where
  pci          : Half
  cellIndex    : Byte
  mu           : Byte
  nPrb         : Half
  nTx          : Byte
  maxLayers    : Byte
  gridEngine   : Byte
  decoderBank  : Byte
  precodePlace : Byte
  compMethod   : Byte
  eaxcBase     : Half
  iqWidth      : Byte
  srsMaxAge    : Byte
  t1aMaxNs     : Word
  t1aMinNs     : Word
  tcpAdvNs     : Word
  mib          : Word
  ssbBitmap    : Dword
  bcastPhase   : List Byte
  ssbPrbOffset : Half
  ssbPeriod    : BitVec 3
  ssbCase      : BitVec 2
  kSsb         : Byte
  ssbRsvd      : BitVec 3
  rsvd3c       : Word
deriving DecidableEq, Repr

/-- PUSCH record (02 R32, Table 3). -/
structure Pusch where
  rnti       : Half
  ueCtx      : Half
  prbStart   : Half
  prbCount   : Half
  symStart   : Byte
  symCount   : Byte
  layers     : Byte
  qm         : Byte
  rateX1024  : Half
  harqId     : Byte
  ndi        : Bool
  rv         : BitVec 2
  tp         : Bool
  lbrm       : Bool
  flagsRsvd  : BitVec 3
  tbsBits    : Word
  dmrsSymMask : BitVec 14
  maskRsvd   : BitVec 2
  dmrsPorts  : Half
  dmrsScrId  : Half
  dmrsType   : BitVec 4
  cdmGroups  : BitVec 2
  nscid      : Bool
  cfgRsvd    : Bool
  rsvd1b     : Byte
  dataScrId  : Half
  ackBits    : Half
  csi1Bits   : Half
  csi2Bits   : Half
  betaAck    : Byte
  betaCsi1   : Byte
  betaCsi2   : Byte
  alpha      : Byte
  rsvd28     : Dword
deriving DecidableEq, Repr

/-- PUCCH record: what 02 R51 says it names. -/
structure Pucch where
  rnti        : Half
  ueCtx       : Half
  format      : Byte
  prbStart    : Half
  prbCount    : Half
  symStart    : Byte
  symCount    : Byte
  shift       : Byte
  payloadBits : Half
deriving DecidableEq, Repr

/-- PRACH formats of 02 R52, long then short; a format the device does not support is `other`. -/
inductive PrachFormat where | f0 | f3 | a1 | a2 | a3 | b1 | b4 | c0 | c2 | other
deriving DecidableEq, Repr

/-- Preamble sets of 02 R52. -/
inductive PrachSet where | unrestricted | typeA | typeB
deriving DecidableEq, Repr

structure Prach where
  format   : PrachFormat
  set      : PrachSet
  prbStart : Half
  symStart : Byte
deriving DecidableEq, Repr

/-- SRS record: comb and ports of one user (02 R53). -/
structure Srs where
  ueCtx : Half
  comb  : Byte
  ports : Byte
  prbStart : Half
  prbCount : Half
deriving DecidableEq, Repr

/-- Uplink slot configuration (02 R30). -/
structure UlSlotCfg where
  absSlot : AbsSlot
  cell    : CellId
  pusch   : List Pusch
  pucch   : List Pucch
  prach   : List Prach
  srs     : List Srs
deriving DecidableEq, Repr

/-- One compressed PRB of a BFP section: exponent and 24 mantissas, I then Q, in their low `iq_width` bits (02 R35). -/
structure BfpPrb where
  exp  : BitVec 4
  mant : List Half
deriving DecidableEq, Repr

/-- A U-plane section of one stream, symbol and PRB range (02 R34). -/
structure USection where
  eaxc     : Half
  absSlot  : AbsSlot
  sym      : Fin 14
  prbStart : Half
  prbs     : List BfpPrb
deriving DecidableEq, Repr

/-- The stages an uplink slot passes through, as 02 Table 6 times them. -/
inductive UlStage where | grid | estimation | detection | demapping
deriving DecidableEq, Repr

/-- One detected preamble (02 R52): index, timing advance in units of 16 × 64 Tc, power in units of 0.25 dB. -/
structure Preamble where
  index   : BitVec 6
  advance : Half
  power   : Half
deriving DecidableEq, Repr

/-- PDSCH record (03 R70). -/
structure Pdsch where
  rnti      : Half
  ueCtx     : Half
  prbStart  : Half
  prbCount  : Half
  symStart  : Byte
  symCount  : Byte
  layers    : Byte
  qm        : Byte
  rateX1024 : Half
  harqId    : Byte
  rv        : BitVec 2
  lbrm      : Bool
  precodeType : BitVec 2
  flagsRsvd : BitVec 3
  tbsBits   : Word
  dmrsSymMask : BitVec 14
  maskRsvd  : BitVec 2
  dmrsPorts : Half
  dmrsScrId : Half
  dmrsType  : BitVec 4
  cdmGroups : BitVec 2
  nscid     : Bool
  cfgRsvd   : Bool
  power     : Byte
  dataScrId : Half
  prg       : Byte
  rsvd1f    : Byte
deriving DecidableEq, Repr

/-- PDCCH record with its DCI payload (03 R76). -/
structure Pdcch where
  rnti      : Half
  prbStart  : Half
  prbCount  : Half
  symStart  : Byte
  symCount  : Byte
  aggLevel  : Byte
  cceIndex  : Byte
  dciBits   : Half
  scrId     : Half
  bundle    : BitVec 4
  interleaved : Bool
  mapRsvd   : BitVec 3
  power     : Byte
  dci       : List Byte
deriving DecidableEq, Repr

/-- CSI-RS record (03 R78). -/
structure CsiRs where
  row       : Byte
  density   : Byte
  freqAlloc : Half
  prbStart  : Half
  prbCount  : Half
  sym0      : Byte
  sym1      : Byte
  scrId     : Half
  power     : Byte
  rsvd0d    : BitVec 24
deriving DecidableEq, Repr

/-- Downlink slot configuration with its payloads and supplied precoder blocks (03 R68, R72). -/
structure DlSlotCfg where
  absSlot  : AbsSlot
  cell     : CellId
  pdsch    : List Pdsch
  pdcch    : List Pdcch
  csirs    : List CsiRs
  payloads : List (List Byte)
  precoders : List (List Half)
deriving DecidableEq, Repr

/-- One precoded PRB of one symbol and stream, 24 Q1.15 components, as the tiles leave it in radio buffers (03 R75). -/
structure DlPrb where
  stream : Fin 16
  sym    : Fin 14
  prb    : Half
  comps  : List Half
deriving DecidableEq, Repr

end Sys2Proof
end

