-- ==== Sys2Proof/Command/Sweep.lean ====
section
/-! DEFINITION. Operands of the sweep link commands (04) and the adaptation commands (05). -/
namespace Sys2Proof

/-- Sweep channel 0–3. -/
abbrev ChanId := Fin 4

/-- Sweep channel record (04 R97, Table 3). -/
structure SweepRec where
  bw          : Byte
  orderMask   : Half
  nRx         : Byte
  eqMode      : Byte
  muShift     : Byte
  resultPort  : Byte
  carrierHz   : Word
  ulEaxcBase  : Half
  dlEaxc      : Half
  netId       : Half
  cspMask     : BitVec 12
  maskRsvd    : BitVec 4
  rxDelayMs   : Half
  dlBackoff   : Byte
  rsvd17      : Byte
  holdPpmX100 : Half
  rsvd1a      : BitVec 48
deriving DecidableEq, Repr

/-- A complex Q1.15 sample. -/
structure Cplx16 where
  re : Half
  im : Half
deriving DecidableEq, Repr

/-- A time-domain section with its samples already unpacked by its iq_format: plain, or groups of 16 with one exponent
and 12-bit mantissas in the low bits (04 R95). -/
inductive SweepSamples where
  | plain (xs : List Cplx16)
  | bfp (groups : List (BitVec 4 × List Cplx16))
deriving DecidableEq, Repr

/-- Time-domain section (04 Table 2): stream, sequence number, bandwidth code, first sample's second and index, sample count. -/
structure SweepSection where
  eaxc    : Half
  seqId   : Byte
  bwCode  : BitVec 2
  flagsRsvd : BitVec 5
  secLo   : Half
  sample  : Word
  count   : Half
  rsvd0c  : Word
  samples : SweepSamples
deriving DecidableEq, Repr

/-- What the sweep engine measured of a detection (04 R101): the order, the bins b_up and b_dn in 1/256 of a bin, and the peak power that
R102 compares. -/
structure Detection where
  order   : Nat
  bUp     : Int
  bDn     : Int
  power   : Nat
deriving DecidableEq, Repr

/-- The detector's scores for one symbol (04 R100, R107): eight peaks with the value each stands for, and the rest score. -/
structure PeakScores where
  peaks : List (Nat × Byte)
  rest  : Byte
deriving DecidableEq, Repr

/-- Sweep header fields (04 R90). -/
structure SweepHdr where
  ver  : BitVec 2
  type : BitVec 3
  rate : BitVec 2
  rsvd : Bool
  len  : Byte
  addr : Word
  fcnt : Half
deriving DecidableEq, Repr

/-- What the reception measured by its end (04 R111, R116): Δf in 1/16 Hz, drift in 0.01 ppm, RSSI, SNR, and t_end. -/
structure SweepMeasure where
  freqX16 : Int
  driftX100 : Int
  rssi    : Half
  snr     : Half
  endSec  : Word
  endNs   : Word
deriving DecidableEq, Repr

/-- Adaptation set 0–11: cells then sweep channels (05 R119). -/
abbrev SetId := Fin 12

/-- Adaptation configuration record (05 R123, Table 1). -/
structure AdaptRec where
  set               : Byte
  enable            : Bool
  guardCheck        : Bool
  pinActive         : Bool
  flagsRsvd         : BitVec 5
  samplePerMille    : Half
  shadowPerMille    : Half
  marginBp          : Half
  evalSlots         : Word
  probationSlots    : Word
  regionBase        : Dword
  poolRecords       : Half
  rollbackBp        : Half
  minSamples        : Half
  stepsPerCandidate : Half
  lr                : Half
  momentum          : Half
  genBase           : BitVec 27
  genRsvd           : BitVec 5
  seed              : Dword
  guardWindow       : Word
  guardLimit        : Half
  batch             : Half
  rsvd38            : Dword
deriving DecidableEq, Repr

/-- The operations of ADAPT_CONTROL (05 R138). -/
inductive AdaptOp where
  | freeze | unfreeze | select (version : Word) | pin (version : Word) | unpin (version : Word) | discardPool
deriving DecidableEq, Repr

/-- What ADAPT_LOAD names in device memory (05 R139): a sealed blob, or a signed weight bundle and its length. -/
inductive VersionSource where
  | blob (addr : Dword)
  | bundle (addr : Dword) (len : Word)
deriving DecidableEq, Repr

end Sys2Proof
end

