-- ==== Sys2Proof/Command/System.lean ====
section
/-! DEFINITION. Operands of the QCP, security, array, time, power, reset, network and register commands (15–24). -/
namespace Sys2Proof

/-- A segment of an Aqmor message (23 R487, Table 3). `inf` tells EtherType 0x88B6 from 0x88B5. -/
structure AqmorSeg where
  inf     : Bool
  version : Byte
  type    : Byte
  rsvd    : BitVec 14
  first   : Bool
  last    : Bool
  seq     : Word
  length  : Word
  offset  : Word
  data    : List Byte
deriving DecidableEq, Repr

/-- What a frame on NP0–NP7 carries (01 R21, 23 R485, R487). -/
inductive FrameKind where
  | ecpri (eaxc : Half)
  | aqmor (seg : AqmorSeg)
  | ptp
  | other
deriving DecidableEq, Repr

/-- A frame arriving on NP0–NP7: its length, its VLAN tags, whether it is flow control, its sender (MAC and VLAN bytes), its
content (23 R485, R488). `bytes` is the frame as received, for capture (16 R359). -/
structure NpFrame where
  len    : Nat
  tags   : Nat
  pause  : Bool
  sender : List Byte
  kind   : FrameKind
  bytes  : List Byte
deriving DecidableEq, Repr

/-- A flit on an Obdo link: the header fields of 15 Table 3 and the payload. -/
structure Flit where
  seq     : Half
  ack     : Half
  nak     : Bool
  cls     : BitVec 2
  vc      : Bool
  kind    : BitVec 4
  dst     : BitVec 4
  src     : BitVec 4
  first   : Bool
  last    : Bool
  rsvd    : BitVec 46
  payload : List Byte
deriving DecidableEq, Repr

/-- How a flit arrived: whether its FEC codeword and CRC were good, and whether the tag of the message it ends verifies
(15 R340, 18 R401). -/
structure FlitCheck where
  fec  : Bool
  crc  : Bool
  auth : Bool
deriving DecidableEq, Repr

/-- What a neighbour reports and proves at admission (15 R338, 18 R401). -/
structure LinkIdentity where
  nx        : Byte
  ny        : Byte
  device    : Byte
  serial    : Dword
  modulus   : List Byte
  cert      : List Byte
  random    : List Byte
  sig       : List Byte
  measure   : List Byte
  opRsa     : List Byte
  sealed    : Bool
deriving DecidableEq, Repr

/-- A capture entry: header fields of 16 Table 3 and payload. Device time as ns and the 16-bit fraction. -/
structure CapEntry where
  kind    : Nat
  port    : Nat
  domain  : Nat
  ns      : Nat
  frac    : Nat
  seq     : Nat
  payload : List Byte
deriving DecidableEq, Repr

/-- CROSSING_CONFIG body (18 R388). -/
structure CrossRec where
  ringBase : Dword
  records  : Word
  periodMs : Word
  kinds    : Byte
  cells    : Byte
  channels : Byte
  minCount : Byte
deriving DecidableEq, Repr

/-- A field a FUSE_WRITE names (18 R402, 22 R472, R479); `other` is any field of OTP that no rule lets FUSE_WRITE write. -/
inductive FuseField where
  | debugDisabled
  | requireMldsa
  | opRsa (hash : List Byte)
  | opMldsa (hash : List Byte)
  | resetMap (source : Fin 8) (code : BitVec 2)
  | bermRecord (ul : UlCell) (dl : DlCell)
  | bermControl (auto : Bool) (port : Bool) (domain : Byte)
  | other (bit : Nat)
deriving DecidableEq, Repr

/-- SESSION_AUTH body (19 R420). -/
structure AuthBody where
  role     : Byte
  modulus  : List Byte
  rsaSig   : List Byte
  mldsaKey : List Byte
  mldsaSig : List Byte
deriving DecidableEq, Repr

/-- DEBUG_UNLOCK body: each party's modulus and signatures (18 R405). -/
structure UnlockBody where
  aqModulus : List Byte
  aqSig     : List Byte
  opModulus : List Byte
  opSig     : List Byte
  aqMldsaKey : List Byte
  aqMldsaSig : List Byte
  opMldsaKey : List Byte
  opMldsaSig : List Byte
deriving DecidableEq, Repr

/-- SUBMIT body (19 R423, Table 6). -/
structure SubmitBody where
  graph     : Dword
  seed      : Dword
  arrayJob  : Word
  modelSlot : Byte
  nPorts    : Byte
  rsvd16    : Half
  dumpAddr  : Dword
  portAddr  : List Dword
deriving DecidableEq, Repr

/-- TIME_CONFIG body: the RW fields it writes (20 R448, Table 6). -/
structure TimeCfg where
  mode      : BitVec 2
  source    : BitVec 4
  refFreq   : BitVec 2
  freqRef   : BitVec 4
  domain    : Byte
  synEn     : Bool
  oneStep   : Bool
  levee     : Word
  ki        : Half
  slewMax   : Half
  holdLimit : Word
  fcwWidth  : BitVec 6
  prefixLen : BitVec 5
  div       : Byte
  prefixVal : BitVec 24
  gain      : Word
deriving DecidableEq, Repr

/-- The settings a PPS output is given (20 Table 6). -/
structure PpsSet where
  sec      : BitVec 48
  ns       : Word
  period   : Word
  width    : BitVec 24
  unit256  : Bool
  polarity : Bool
  mode     : BitVec 2
deriving DecidableEq, Repr

/-- A firmware core that traps (19 R411). -/
inductive FwCore where | security | power | scheduler | cluster (c : ClusterId)
deriving DecidableEq, Repr

/-- What training of a memory PHY reported: for a DDR5 channel its module's capacity per DIMM in GiB, DIMMs and speed code
(0: no module; supported tells 23 R493's list). -/
structure Training where
  gib       : Nat
  dimms     : Nat
  rate      : Nat
  supported : Bool
deriving DecidableEq, Repr

/-- Who writes a register (24 R506, Table 2). -/
inductive Master where | host | power | scheduler | cluster (c : ClusterId) | security
deriving DecidableEq, Repr

/-- A block whose clock monitor did not report stable (22 R478). -/
inductive StuckClock where | domain (d : Fin 136) | radioPll | devicePll
deriving DecidableEq, Repr

/-- Messages the PTP engine sends (20 R443). -/
inductive PtpMsg where | sync | delayReq | delayResp | announce
deriving DecidableEq, Repr

/-- BERM_START body: the two cell records and the control word (22 R482, R479). -/
structure BermBody where
  ul     : UlCell
  dl     : DlCell
  auto   : Bool
  port   : Bool
  domain : Byte
deriving DecidableEq, Repr

end Sys2Proof
end

