-- ==== Sys2Proof/Command/Tile.lean ====
section
/-! DEFINITION. Operands of the tile operations and tile commands (06–09, 11–13). -/
namespace Sys2Proof

abbrev SReg := Fin 32
abbrev AReg := Fin 16
abbrev VReg := Fin 16
abbrev PReg := Fin 8
abbrev QReg := Fin 8

/-- Where an operation issues: its tile, and whether it joins the bundle of the operation before it (11 R244–R246). An
operation that does not join starts the next bundle (DESIGN CHOICE, log 69). -/
structure Issue where
  tile  : TileId
  joint : Bool
deriving DecidableEq, Repr

/-- Bundle slots, in the order of 14 Table 4 (11 R244). -/
inductive Slot where | m | v | s | c
deriving DecidableEq, Repr

/-- ALU functions f of 11 Table 6. -/
inductive AluFn where | add | sub | mul | and | or | xor | shl | shr | min | max | slt | seq
deriving DecidableEq, Repr

/-- Branch conditions c of 11 Table 6. -/
inductive Cond where | always | eqz | nez | ltz | gez | gtz | lez
deriving DecidableEq, Repr

/-- Task attributes f of RDTASK (11 Table 7). -/
inductive TaskAttr where | taskId | rank | groupSize | cls | stepCounter | seed | tile
deriving DecidableEq, Repr

/-- Lane types (08 R187). -/
inductive LaneTy where | fp32 | int32 | complex
deriving DecidableEq, Repr

/-- Accumulator entry types (06 R145, R165). -/
inductive AccTy where | unused | int48 | fp32 | complex
deriving DecidableEq, Repr

/-- Element formats by their 4-bit codes (11 R248, Table 5). -/
inductive Fmt where
  | int8 | uint8 | int4 | int16 | bf16 | e4m3 | e5m2 | mxfp4 | e2m3 | e3m2 | mxint8 | fp32 | cint16 | int32 | int48
deriving DecidableEq, Repr

/-- MOUT paths m (11 Table 10). -/
inductive OutPath where | requantised | converted | raw
deriving DecidableEq, Repr

/-- Operand selects of the vector slot: a vector register or a stream (11 before R252). -/
inductive VSel where | v (r : VReg) | q (r : QReg)
deriving DecidableEq, Repr

/-- VRED operations o. -/
inductive RedOp where | sum | max | min | maxAbs
deriving DecidableEq, Repr

/-- PLOGIC functions. -/
inductive PredFn where | and | or | xor | andNot
deriving DecidableEq, Repr

/-- PSET modes. -/
inductive PredSet where | zeros | ones | upTo
deriving DecidableEq, Repr

/-- VEXPAND fill f: a register, the value 0, or the zero code of the stream (11 Table 9). -/
inductive Fill where | v (r : VReg) | zero | zeroCode
deriving DecidableEq, Repr

/-- The task a tile is loaded with: a task of a graph copy, or a task of a cycle-table entry by its rank in the set. -/
inductive TaskRef where
  | graph (job : Word) (copy : Fin 3) (task : Nat)
  | entry (n : Fin 4096)
  | training (set : Fin 12)
deriving DecidableEq, Repr

/-- Hardware faults that no operation of the program raises by itself: uncorrectable words and parity (06 Table 7, 08
Table 7, 12 R266). -/
inductive HwFault where | operandUe | accParity | vectorUe | spUe | memUe
deriving DecidableEq, Repr

/-- The fields a TIL_POLDERn write allocates a polder with (12 R270, Table 4). -/
structure PolderSet where
  cls       : BitVec 2
  tagged    : Bool
  accRemote : Bool
  winCount  : BitVec 9
  winBase   : BitVec 8
  job       : Word
deriving DecidableEq, Repr

/-- Who asks for credits: a stream of a tile, or a device of the array (12 R276, 15 R346). -/
inductive Writer where
  | stream (tile : TileId) (q : QReg)
  | device (d : Fin 16) (tile : Nat)
  | engine
deriving DecidableEq, Repr

/-- A sluice credit request (12 R277). -/
structure CreditReq where
  polder : Byte
  first  : Nat
  count  : Nat
  acc    : Bool
  fmt    : Fmt
  cls    : JobClass
  job    : Word
  writer : Writer
deriving DecidableEq, Repr

/-- A remote write arriving at a tile's sluice: a byte offset in the tile window, bytes with the mask of the bits written,
the credit it claims, and whether it closes (12 R276, 13 R287). -/
structure RemoteWr where
  off     : Nat
  bytes   : List (Byte × Byte)
  acc     : Bool
  closing : Bool
  writer  : Writer
deriving DecidableEq, Repr

/-- Who reads a tile window from outside (12 R269). -/
inductive Reader where
  | task (tile : TileId)
  | host | firmware | debug
deriving DecidableEq, Repr

/-- A long or short vector operation with its operands (11 Table 9): what one vector of it does depends on these alone. -/
inductive VecOp where
  | chain (ch : Fin 16) (x y dst : VSel)
  | red (o : RedOp) (t : LaneTy) (s : SReg) (x : VSel) (pred : Option PReg)
  | quant (x : VSel) (q : QReg) (s : SReg) (a : AReg) (stats : Option (Fin 8))
  | mxquant (x : VSel) (q : QReg) (stats : Option (Fin 8))
  | requant (x : VSel) (q : QReg) (a : AReg) (s : SReg)
  | upn (qi qo : QReg) (fy fx : Fin 8) (dm : SReg) (t : LaneTy)
  | upb (qi qo : QReg) (fy fx : Fin 8) (dm : SReg) (t : LaneTy)
deriving DecidableEq, Repr

end Sys2Proof
end

