-- ==== Sys2Proof/Syntax.lean ====
section
/-! DEFINITION. The commands of the QZC-8100, one constructor per row of the opcode table, in the table's order. What an
event brings with it that the device does not compute in this model (samples, scores, decode results) is its operand (DESIGN
CHOICE, log 80). -/
namespace Sys2Proof

inductive Instr where
  /-- NP_FRAME_RECEIVE (R21). -/
  | npFrameReceive (port : Fin 8) (f : NpFrame)
  /-- PORT_LINK_LOSS (R489). -/
  | portLinkLoss (port : Fin 10)
  /-- MKA_EXCHANGE (R490). -/
  | mkaExchange (port : Fin 2) (cak : List Byte)
  /-- ARP_ND_REPLY (R491). -/
  | arpNdReply (port : Fin 2) (v6 : Bool) (target : List Byte)
  /-- CLAIM_PRE_WAKE (R23). -/
  | claimPreWake (entry : Fin 4096)
  /-- CLAIM_PREEMPT_REQUEST (R23). -/
  | claimPreemptRequest (entry : Fin 4096)
  /-- CLAIM_REASSIGN (R23). -/
  | claimReassign (entry : Fin 4096)
  /-- CLAIM_ENTRY_OFFSET (R23). -/
  | claimEntryOffset (entry : Fin 4096) (slot : AbsSlot)
  /-- CLAIM_TASK_END (R23). -/
  | claimTaskEnd (entry : Fin 4096)
  /-- CELL_CONFIG (R28). -/
  | cellConfig (h : QcpHdr) (ul : UlCell) (dl : DlCell)
  /-- UL_SLOT_CONFIG (R31). -/
  | ulSlotConfig (cfg : UlSlotCfg) (t0 : Nat)
  /-- UPLANE_SECTION (R34). -/
  | uplaneSection (sec : USection) (t0 : Nat)
  /-- HARQ_STAGING_START (R56). -/
  | harqStagingStart (cell : CellId) (slot : AbsSlot)
  /-- HARQ_STAGING_COMPLETE (R46). -/
  | harqStagingComplete (cell : CellId) (slot : AbsSlot) (pusch : Nat)
  /-- UL_STAGE_COMPLETE (R22). -/
  | ulStageComplete (cell : CellId) (slot : AbsSlot) (part : Nat) (stage : UlStage) (upto : Nat)
  /-- PRACH_DETECTION (R52). -/
  | prachDetection (cell : CellId) (slot : AbsSlot) (occasion : Nat)
  /-- CODE_BLOCK_DECODED (R50). -/
  | codeBlockDecoded (cell : CellId) (slot : AbsSlot) (pusch : Nat) (block : Nat)
  /-- UL_SLOT_DECIDED (R58). -/
  | ulSlotDecided (cell : CellId) (slot : AbsSlot)
  /-- HARQ_WRITEBACK_COMPLETE (R47). -/
  | harqWritebackComplete (ue : Fin 4096) (harq : Fin 16)
  /-- UL_SLOT_DEADLINE (R59). -/
  | ulSlotDeadline (cell : CellId) (slot : AbsSlot)
  /-- DL_SLOT_CONFIG (R68). -/
  | dlSlotConfig (cfg : DlSlotCfg) (t0 : Nat)
  /-- DL_ENCODE_COMPLETE (R71). -/
  | dlEncodeComplete (cell : CellId) (slot : AbsSlot)
  /-- PRECODER_COMPLETE (R83). -/
  | precoderComplete (cell : CellId) (slot : AbsSlot) (upto : Nat)
  /-- CPLANE_SEND (R82). -/
  | cplaneSend (cell : CellId) (slot : AbsSlot)
  /-- DL_SYMBOL_WINDOW_OPEN (R82). -/
  | dlSymbolWindowOpen (cell : CellId) (slot : AbsSlot) (sym : Fin 14)
  /-- DL_SYMBOL_WINDOW_CLOSE (R84). -/
  | dlSymbolWindowClose (cell : CellId) (slot : AbsSlot) (sym : Fin 14)
  /-- SWEEP_CONFIG (R97). -/
  | sweepConfig (h : QcpHdr) (chan : Byte) (r : SweepRec)
  /-- SWEEP_CTX (R109). -/
  | sweepCtx (h : QcpHdr) (ctx : Half) (addr : Word) (chan : Byte)
  /-- SWEEP_DOWNLINK_ITEM (R109). -/
  | sweepDownlinkItem (addr : Word) (item : List Byte)
  /-- SWEEP_SECTION (R96). -/
  | sweepSection (sec : SweepSection)
  /-- SWEEP_SAMPLE_ERASE (R96). -/
  | sweepSampleErase (chan : ChanId) (stream : Fin 16) (time : Nat)
  /-- SWEEP_WINDOW (R99). -/
  | sweepWindow (chan : ChanId) (order : Fin 16) (start : Nat) (dn : Bool)
  /-- SWEEP_RECEPTION_START (R101). -/
  | sweepReceptionStart (chan : ChanId) (order : Fin 16) (down : Nat) (bin : Nat) (dnBin : Nat)
  /-- SWEEP_SYMBOL_DECIDED (R106). -/
  | sweepSymbolDecided (chan : ChanId) (recep : Nat) (sym : Nat)
  /-- SWEEP_HEADER_DECODED (R108). -/
  | sweepHeaderDecoded (chan : ChanId) (recep : Nat)
  /-- SWEEP_PAYLOAD_DECODED (R110). -/
  | sweepPayloadDecoded (chan : ChanId) (recep : Nat)
  /-- SWEEP_ACK_TRANSMIT (R113). -/
  | sweepAckTransmit (chan : ChanId) (recep : Nat)
  /-- ADAPT_CONFIG (R123). -/
  | adaptConfig (h : QcpHdr) (r : AdaptRec)
  /-- SAMPLE_LABEL_WRITE (R126). -/
  | sampleLabelWrite (set : SetId)
  /-- SAMPLE_DROP_TIMEOUT (R126). -/
  | sampleDropTimeout (set : SetId)
  /-- TRAINING_STEP (R130). -/
  | trainingStep (set : SetId)
  /-- GUARD_WINDOW_END (R136). -/
  | guardWindowEnd (set : SetId)
  /-- ADAPT_CONTROL (R138). -/
  | adaptControl (h : QcpHdr) (set : Byte) (op : AdaptOp)
  /-- FREEZE (R138). -/
  | freeze (set : SetId)
  /-- UNFREEZE (R138). -/
  | unfreeze (set : SetId)
  /-- SELECT (R138). -/
  | select (set : SetId) (version : Word)
  /-- PIN (R138). -/
  | pin (set : SetId) (version : Word)
  /-- UNPIN (R138). -/
  | unpin (set : SetId) (version : Word)
  /-- DISCARD_POOL (R138). -/
  | discardPool (set : SetId)
  /-- ADAPT_STATUS (R140). -/
  | adaptStatus (h : QcpHdr) (set : Byte)
  /-- ADAPT_SAVE (R139). -/
  | adaptSave (h : QcpHdr) (set : Byte) (version : Word) (addr : Dword)
  /-- ADAPT_LOAD (R139). -/
  | adaptLoad (h : QcpHdr) (set : Byte) (src : VersionSource)
  /-- FRAME_BOUNDARY (R28). -/
  | frameBoundary
  /-- MCLR (R145). -/
  | mclr (i : Issue) (e : Fin 8) (t : AccTy)
  /-- MMAC (R147). -/
  | mmac (i : Issue) (e : Fin 8) (b : Fin 2) (fa : Fmt) (fw : Fmt) (q : QReg) (cj : Bool) (half : Bool)
  /-- MOUT (R145). -/
  | mout (i : Issue) (e : Fin 8) (m : OutPath) (q : QReg) (a : AReg) (s : SReg)
  /-- MWLD (R145). -/
  | mwld (i : Issue) (b : Fin 2) (q : QReg)
  /-- MWLDT (R155). -/
  | mwldt (i : Issue) (b : Fin 2) (q : QReg)
  /-- WEIGHT_LOAD_COMPLETE (R250). -/
  | weightLoadComplete (tile : TileId) (b : Fin 2)
  /-- ALU (R249). -/
  | alu (i : Issue) (d a b : SReg) (f : AluFn)
  /-- ALUI (R249). -/
  | alui (i : Issue) (d a : SReg) (f : AluFn) (imm : BitVec 12)
  /-- LI (R249). -/
  | li (i : Issue) (d : SReg) (imm : BitVec 21)
  /-- LIH (R249). -/
  | lih (i : Issue) (d : SReg) (k : Fin 4) (imm : Half)
  /-- AMOV (R249). -/
  | amov (i : Issue) (toScalar : Bool) (a : AReg) (s : SReg)
  /-- AADDI (R249). -/
  | aaddi (i : Issue) (d a : AReg) (imm : Half)
  /-- EXTR (R249). -/
  | extr (i : Issue) (d a : SReg) (pos w : Fin 64)
  /-- BR (R249). -/
  | br (i : Issue) (c : Cond) (a : SReg) (off : BitVec 12)
  /-- BDEC (R249). -/
  | bdec (i : Issue) (a : SReg) (off : BitVec 12)
  /-- JAL (R249). -/
  | jal (i : Issue) (d : SReg) (off : BitVec 12)
  /-- JR (R249). -/
  | jr (i : Issue) (a : SReg)
  /-- SEM_WAIT (R321). -/
  | semWait (i : Issue) (n : Fin 1024)
  /-- SEM_SIGNAL (R321). -/
  | semSignal (i : Issue) (n : Fin 1024)
  /-- SEM_TRY (R321). -/
  | semTry (i : Issue) (n : Fin 1024) (d : SReg)
  /-- FENCE (R249). -/
  | fence (i : Issue) (mout : Bool) (qmask : Byte)
  /-- POOLQ (R216). -/
  | poolq (i : Issue) (a : AReg)
  /-- ENDT (R243). -/
  | endt (i : Issue)
  /-- STEPINC (R249). -/
  | stepinc (i : Issue)
  /-- RDTASK (R249). -/
  | rdtask (i : Issue) (d : SReg) (f : TaskAttr)
  /-- XRED (R257). -/
  | xred (i : Issue) (a : AReg) (l : Fin 16)
  /-- XBC (R258). -/
  | xbc (i : Issue) (a : AReg) (l : Fin 16)
  /-- QLD (R289). -/
  | qld (i : Issue) (q : QReg) (a : AReg)
  /-- QCREST (R251). -/
  | qcrest (i : Issue) (q : QReg) (s : SReg)
  /-- QLIFT (R251). -/
  | qlift (i : Issue) (q : QReg)
  /-- QWAIT (R250). -/
  | qwait (i : Issue) (q : QReg)
  /-- SLD (R250). -/
  | sld (i : Issue) (d : SReg) (a : AReg) (off : Half)
  /-- SST (R250). -/
  | sst (i : Issue) (d : SReg) (a : AReg) (off : Half)
  /-- VLD (R250). -/
  | vld (i : Issue) (v : VReg) (q : QReg) (t : LaneTy)
  /-- VST (R250). -/
  | vst (i : Issue) (v : VReg) (q : QReg) (t : LaneTy)
  /-- VBCAST (R250). -/
  | vbcast (i : Issue) (v : VReg) (s : SReg)
  /-- VMOV (R250). -/
  | vmov (i : Issue) (v u : VReg)
  /-- PSET (R250). -/
  | pset (i : Issue) (p : PReg) (m : PredSet) (s : SReg)
  /-- PLOGIC (R250). -/
  | plogic (i : Issue) (p x y : PReg) (f : PredFn)
  /-- POPC (R250). -/
  | popc (i : Issue) (d : SReg) (p : PReg)
  /-- VCHAIN (R190). -/
  | vchain (i : Issue) (ch : Fin 16) (x y dst : VSel) (n : SReg)
  /-- VRED (R195). -/
  | vred (i : Issue) (o : RedOp) (t : LaneTy) (s : SReg) (x : VSel) (pred : Option PReg) (n : SReg)
  /-- VTSCALE (R175). -/
  | vtscale (i : Issue) (s : SReg) (int4 : Bool)
  /-- QUANT (R254). -/
  | quant (i : Issue) (x : VSel) (q : QReg) (s n : SReg) (a : AReg) (stats : Option (Fin 8))
  /-- MXQUANT (R182). -/
  | mxquant (i : Issue) (x : VSel) (q : QReg) (n : SReg) (stats : Option (Fin 8))
  /-- REQUANT (R255). -/
  | requant (i : Issue) (x : VSel) (q : QReg) (a : AReg) (s n : SReg)
  /-- VCOMPRESS (R196). -/
  | vcompress (i : Issue) (x : VSel) (p : PReg) (q : QReg) (d : SReg)
  /-- VEXPAND (R197). -/
  | vexpand (i : Issue) (q : QReg) (p : PReg) (f : Fill) (v : VReg)
  /-- VUPN (R198). -/
  | vupn (i : Issue) (qi qo : QReg) (fy fx : Fin 8) (dm n : SReg) (t : LaneTy)
  /-- VUPB (R199). -/
  | vupb (i : Issue) (qi qo : QReg) (fy fx : Fin 8) (dm n : SReg) (t : LaneTy)
  /-- VRNG (R355). -/
  | vrng (i : Issue) (v : VReg) (s : SReg)
  /-- LONG_OP_VECTOR_COMPLETE (R252). -/
  | longOpVectorComplete (tile : TileId)
  /-- ASSIGN (R261). -/
  | assign (tile : TileId) (d : Domain)
  /-- TILE_LOAD (R240). -/
  | tileLoad (tile : TileId) (ref : TaskRef)
  /-- IMAGE_LOAD_CHECK (R241). -/
  | imageLoadCheck (tile : TileId)
  /-- TILE_PREEMPT (R162). -/
  | tilePreempt (tile : TileId)
  /-- TILE_KILL (R261). -/
  | tileKill (tile : TileId)
  /-- TILE_ZEROISE (R261). -/
  | tileZeroise (tile : TileId)
  /-- DRAIN_COMPLETE (R162). -/
  | drainComplete (tile : TileId)
  /-- ZEROISE_COMPLETE (R261). -/
  | zeroiseComplete (tile : TileId)
  /-- TASK_FAULT (R163). -/
  | taskFault (tile : TileId) (f : HwFault)
  /-- TAG_WAIT_LIMIT (R273). -/
  | tagWaitLimit (tile : TileId)
  /-- SCRUB_STEP (R267). -/
  | scrubStep (tile : TileId) (polder : Fin 24)
  /-- POLDER_ALLOC (R270). -/
  | polderAlloc (tile : TileId) (polder : Fin 24) (p : PolderSet)
  /-- POLDER_RELEASE (R268). -/
  | polderRelease (tile : TileId) (polder : Fin 24)
  /-- LOCKED_POLDER_ZEROISE_START (R282). -/
  | lockedPolderZeroiseStart (tile : TileId) (polder : Fin 24)
  /-- POLDER_ZEROISE_COMPLETE (R268). -/
  | polderZeroiseComplete (tile : TileId) (polder : Fin 24)
  /-- CREDIT_REQUEST (R277). -/
  | creditRequest (tile : TileId) (r : CreditReq)
  /-- CREDIT_GRANT (R277). -/
  | creditGrant (tile : TileId)
  /-- REMOTE_WRITE (R279). -/
  | remoteWrite (tile : TileId) (w : RemoteWr)
  /-- SLUICE_NO_CREDIT (R279). -/
  | sluiceNoCredit (tile : TileId)
  /-- REMOTE_READ (R269). -/
  | remoteRead (tile : TileId) (off : Nat) (n : Nat) (who : Reader)
  /-- STREAM_FETCH (R291). -/
  | streamFetch (tile : TileId) (q : QReg) (n : Nat)
  /-- FETCH_RETURN (R291). -/
  | fetchReturn (tile : TileId) (q : QReg)
  /-- STREAM_WRITE_LAND (R285). -/
  | streamWriteLand (tile : TileId) (q : QReg) (n : Nat)
  /-- WC_LINE_FILL (R301). -/
  | wcLineFill (line : Nat)
  /-- MEM_REFRESH (R305). -/
  | memRefresh (chan : Fin 10) (hot : Bool)
  /-- PATROL_SCRUB_PASS (R306). -/
  | patrolScrubPass
  /-- CLUSTER_PAGE_RELEASE (R303). -/
  | clusterPageRelease (c : ClusterId) (page : Fin 56)
  /-- POOL_JOB_START (R216). -/
  | poolJobStart (c : ClusterId)
  /-- POOL_JOB_COMPLETE (R214). -/
  | poolJobComplete (c : ClusterId)
  /-- SUBMIT (R315). -/
  | submit (h : QcpHdr) (b : SubmitBody)
  /-- TASK_PLACE (R319). -/
  | taskPlace
  /-- TASK_YIELD (R323). -/
  | taskYield (tile : TileId)
  /-- GRAPH_END (R316). -/
  | graphEnd (job : Word)
  /-- COMPLETE (R424). -/
  | complete (job : Word)
  /-- NOTIFICATION_RESEND (R424). -/
  | notificationResend (session : Fin 8) (seq : Word)
  /-- NOTIFICATION_ACK (R424). -/
  | notificationAck (session : Fin 8) (ref : Word)
  /-- KILL (R316). -/
  | kill (h : QcpHdr) (job : Word)
  /-- JOB_STATUS (R424). -/
  | jobStatus (h : QcpHdr) (job : Word)
  /-- CYC_LOAD (R326). -/
  | cycLoad (h : QcpHdr) (addr : Dword)
  /-- GRAPH_DEADLINE (R333). -/
  | graphDeadline (job : Word)
  /-- ASSURED_TASK_DEADLINE (R375). -/
  | assuredTaskDeadline (job : Word) (task : Option Nat)
  /-- CMAC (R225). -/
  | cmac (i : CspIssue) (acc : CspA) (a b : CspMem) (conj neg : Bool)
  /-- CMACR (R225). -/
  | cmacr (i : CspIssue) (acc : CspA) (a b : CspD) (conj neg : Bool)
  /-- FTAP (R229). -/
  | ftap (i : CspIssue) (acc : CspA) (a : CspMem) (conj neg : Bool) (mv : BitVec 2)
  /-- TUPD (R230). -/
  | tupd (i : CspIssue) (a : CspMem) (dq dh : CspD) (neg : Bool)
  /-- TCOPY (R230). -/
  | tcopy (i : CspIssue) (a b : CspMem)
  /-- CPOW (R228). -/
  | cpow (i : CspIssue) (acc : CspA) (a b : CspMem) (neg : Bool)
  /-- ALD (R228). -/
  | ald (i : CspIssue) (acc : CspA) (a : CspMem) (sh : BitVec 6)
  /-- ANRW (R226). -/
  | anrw (i : CspIssue) (acc : CspA) (a : CspD) (sh : BitVec 6) (w32 : Bool)
  /-- CSP_CMUL (R228). -/
  | cspCmul (i : CspIssue) (dst a b : CspD) (sh : BitVec 6) (conj : Bool)
  /-- ACLR (R228). -/
  | aclr (i : CspIssue) (acc : CspA)
  /-- MOVI (R228). -/
  | movi (i : CspIssue) (dst : CspD) (imm : BitVec 22)
  /-- MOVHI (R228). -/
  | movhi (i : CspIssue) (dst : CspD) (imm : BitVec 22)
  /-- LD (R228). -/
  | ld (i : CspIssue) (d : CspD) (a : CspMem)
  /-- LD64 (R228). -/
  | ld64 (i : CspIssue) (d : CspD) (a : CspMem)
  /-- ST (R228). -/
  | st (i : CspIssue) (d : CspD) (a : CspMem)
  /-- ST2 (R228). -/
  | st2 (i : CspIssue) (d : CspD) (a b : CspMem)
  /-- CSP_ALU (R228). -/
  | cspAlu (i : CspIssue) (dst a b : CspD) (f : BitVec 4)
  /-- SETA (R228). -/
  | seta (i : CspIssue) (dst : CspI) (a : CspD) (imm : BitVec 13)
  /-- SETM (R228). -/
  | setm (i : CspIssue) (dst : CspM) (a : CspD) (imm : BitVec 13)
  /-- RCPN (R231). -/
  | rcpn (i : CspIssue) (dst a : CspD)
  /-- RPT (R232). -/
  | rpt (i : CspIssue) (n : CspCount) (clr : Bool)
  /-- LOOP (R233). -/
  | loop (i : CspIssue) (d : CspD) (off : BitVec 10)
  /-- CSP_BR (R228). -/
  | cspBr (i : CspIssue) (d : CspD) (cond : BitVec 3) (off : BitVec 12)
  /-- CALL (R228). -/
  | call (i : CspIssue) (off : BitVec 12)
  /-- RET (R228). -/
  | ret (i : CspIssue)
  /-- IRET (R234). -/
  | iret (i : CspIssue)
  /-- LSAVE (R236). -/
  | lsave (i : CspIssue) (a : CspI)
  /-- LREST (R236). -/
  | lrest (i : CspIssue) (a : CspI)
  /-- WAIT (R228). -/
  | wait (i : CspIssue) (mask : Byte)
  /-- SIG (R228). -/
  | sig (i : CspIssue) (n : BitVec 4)
  /-- EI (R228). -/
  | ei (i : CspIssue)
  /-- DI (R228). -/
  | di (i : CspIssue)
  /-- HALT (R228). -/
  | halt (i : CspIssue)
  /-- CSP_INTERRUPT (R234). -/
  | cspInterrupt (c : ClusterId)
  /-- CSP_RUN (R239). -/
  | cspRun (c : ClusterId) (image : CspImage)
  /-- CSP_FORCE_STOP (R237). -/
  | cspForceStop (c : ClusterId)
  /-- CSP_ZERO (R239). -/
  | cspZero (c : ClusterId)
  /-- CSP_ZEROISE_COMPLETE (R237). -/
  | cspZeroiseComplete (c : ClusterId)
  /-- CSP_EXTERNAL_ACCESS (R223). -/
  | cspExternalAccess (c : ClusterId) (cause : CspCause) (a : CspAccess)
  /-- CSP_EXTERNAL_STEAL (R223). -/
  | cspExternalSteal (c : ClusterId)
  /-- ARRAY_CONFIG (R338). -/
  | arrayConfig (h : QcpHdr) (nx : Byte) (ny : Byte) (x : Byte) (y : Byte) (master : Byte)
  /-- LINK_ADMISSION (R401). -/
  | linkAdmission (link : Fin 4) (ident : LinkIdentity)
  /-- LINK_ADMIT_TIMEOUT (R338). -/
  | linkAdmitTimeout (link : Fin 4)
  /-- FLIT_RECEIVE (R340). -/
  | flitReceive (link : Fin 4) (f : Flit) (chk : FlitCheck)
  /-- RETRAIN (R340). -/
  | retrain (link : Fin 4)
  /-- ARRAY_TIME_MESSAGE (R349). -/
  | arrayTimeMessage (link : Fin 4) (theta : Int) (replayed : Bool)
  /-- ARRAY_RESET_MESSAGE (R350). -/
  | arrayResetMessage (link : Fin 4)
  /-- RECORD_CONFIG (R358). -/
  | recordConfig (h : QcpHdr) (bases : Dword × Dword × Dword) (sizes : Dword × Dword × Dword)
  /-- RECORD_START (R358). -/
  | recordStart (h : QcpHdr) (slot : AbsSlot)
  /-- RECORD_STOP (R358). -/
  | recordStop (h : QcpHdr)
  /-- RECORD_SAVE (R361). -/
  | recordSave (h : QcpHdr) (ring : Byte) (addr : Dword)
  /-- RECORD_LOAD (R361). -/
  | recordLoad (h : QcpHdr) (ring : Byte) (addr : Dword)
  /-- REPLAY_START (R362). -/
  | replayStart (h : QcpHdr) (bases : Dword × Dword × Dword)
  /-- REPLAY_STATUS (R364). -/
  | replayStatus (h : QcpHdr)
  /-- REPLAY_STOP (R363). -/
  | replayStop (h : QcpHdr)
  /-- REPLAY_ENTRY_DELIVER (R363). -/
  | replayEntryDeliver
  /-- COPY_SIGNATURE (R371). -/
  | copySignature (job : Word) (copy : Fin 3)
  /-- SELFTEST_SLICE_START (R378). -/
  | selftestSliceStart (entry : Fin 4096)
  /-- SELFTEST_SEGMENT_END (R376). -/
  | selftestSegmentEnd (tile : TileId) (signature : Word)
  /-- FTTI_WINDOW_END (R377). -/
  | fttiWindowEnd
  /-- REGION_SET (R385). -/
  | regionSet (h : QcpHdr) (index : Byte) (domain : Byte) (rsvd02 : Half) (base : Word) (size : Word) (rsvd0c : Word)
  /-- REGION_ZEROISE_COMPLETE (R385). -/
  | regionZeroiseComplete (index : Fin 128)
  /-- CROSSING_PERIOD_END (R387). -/
  | crossingPeriodEnd
  /-- CROSSING_CONFIG (R388). -/
  | crossingConfig (h : QcpHdr) (r : CrossRec)
  /-- LOAD (R392). -/
  | load (h : QcpHdr) (offset : Dword) (length : Dword)
  /-- ROLLBACK_COMMIT (R393). -/
  | rollbackCommit (h : QcpHdr) (good : Nat)
  /-- MODEL_LOAD (R397). -/
  | modelLoad (h : QcpHdr) (addr : Dword) (region : Byte)
  /-- MODEL_UNLOAD (R399). -/
  | modelUnload (h : QcpHdr) (slot : Byte)
  /-- QUOTE (R400). -/
  | quote (h : QcpHdr) (nonce : List Byte)
  /-- FUSE_WRITE (R402). -/
  | fuseWrite (h : QcpHdr) (field : FuseField)
  /-- SEAL (R403). -/
  | sealFuse (h : QcpHdr)
  /-- DEBUG_CHALLENGE (R405). -/
  | debugChallenge (h : QcpHdr)
  /-- DEBUG_UNLOCK (R405). -/
  | debugUnlock (h : QcpHdr) (b : UnlockBody)
  /-- KEY_STORE_ACCESS (R505). -/
  | keyStoreAccess
  /-- SUPPLY_GLITCH (R497). -/
  | supplyGlitch
  /-- CLOCK_GLITCH (R407). -/
  | clockGlitch
  /-- EXTEST (R404). -/
  | extest
  /-- IDCODE (R499). -/
  | idcode
  /-- SAMPLE_PRELOAD (R499). -/
  | samplePreload
  /-- INTEST (R404). -/
  | intest
  /-- CLAMP (R404). -/
  | clamp
  /-- HIGHZ (R499). -/
  | highz
  /-- RSTREG (R499). -/
  | rstreg
  /-- DEBUG_ACCESS (R404). -/
  | debugAccess (code : Fin 16)
  /-- BYPASS (R499). -/
  | bypass
  /-- QCP_DATAGRAM_DROP (R416). -/
  | qcpDatagramDrop (port : Fin 2)
  /-- STATE_READ (R421). -/
  | stateRead (h : QcpHdr)
  /-- RECORDER_READ (R434). -/
  | recorderRead (h : QcpHdr) (first : Half) (count : Half)
  /-- RESET (R425). -/
  | reset (h : QcpHdr) (level : Level)
  /-- SESSION_OPEN (R420). -/
  | sessionOpen (h : QcpHdr)
  /-- SESSION_AUTH (R420). -/
  | sessionAuth (h : QcpHdr) (b : AuthBody)
  /-- SESSION_CLOSE (R420). -/
  | sessionClose (h : QcpHdr)
  /-- SESSION_TIMEOUT (R420). -/
  | sessionTimeout (session : Fin 8)
  /-- MEM_WRITE (R422). -/
  | memWrite (h : QcpHdr) (addr : Addr) (data : List Byte)
  /-- MEM_READ (R422). -/
  | memRead (h : QcpHdr) (addr : Addr) (n : Half)
  /-- BERM_START (R482). -/
  | bermStart (h : QcpHdr) (b : BermBody)
  /-- START (R419). -/
  | start (h : QcpHdr)
  /-- RUN (R414). -/
  | run (h : QcpHdr)
  /-- ROLE_KEY_SET (R420). -/
  | roleKeySet (h : QcpHdr) (entries : List (List Byte × Byte))
  /-- TIME_CONFIG (R448). -/
  | timeConfig (h : QcpHdr) (c : TimeCfg)
  /-- RELOCK (R445). -/
  | relock (h : QcpHdr)
  /-- LOG_CONFIG (R427). -/
  | logConfig (h : QcpHdr) (base : Dword) (records : Word) (level : Byte)
  /-- TRACE_SET (R428). -/
  | traceSet (h : QcpHdr) (mask : BitVec 256)
  /-- DUMP_READY (R429). -/
  | dumpReady (job : Word)
  /-- FW_FAULT (R411). -/
  | fwFault (core : FwCore) (cause : Word) (pcLo : Word) (pcHi : Word)
  /-- EVR_RECORD_WRITE (R432). -/
  | evrRecordWrite
  /-- REF_MONITOR_WINDOW (R438). -/
  | refMonitorWindow (count : Nat)
  /-- SYN_FCW_FRAME (R439). -/
  | synFcwFrame
  /-- SYNCE_MEASURE (R440). -/
  | synceMeasure (offset : Int)
  /-- PTP_OFFSET (R446). -/
  | ptpOffset (theta : Int)
  /-- ANNOUNCE_TIMEOUT (R445). -/
  | announceTimeout
  /-- HOLDOVER_LIMIT (R443). -/
  | holdoverLimit
  /-- TX_TIMESTAMP (R442). -/
  | txTimestamp (ident : Half) (port : Fin 10)
  /-- TXTS_POP (R451). -/
  | txtsPop
  /-- TIME_READ_LATCH (R451). -/
  | timeReadLatch
  /-- TIM_STEP_WRITE (R446). -/
  | timStepWrite (step : Dword)
  /-- PPS_ARM (R449). -/
  | ppsArm (n : Fin 4) (p : PpsSet)
  /-- PPS_EDGE (R449). -/
  | ppsEdge (n : Fin 4)
  /-- PPS_PULSE_END (R449). -/
  | ppsPulseEnd (n : Fin 4)
  /-- TILE_IDLE_RETAIN (R456). -/
  | tileIdleRetain (tile : TileId)
  /-- TILE_RETAIN_OFF (R456). -/
  | tileRetainOff (tile : TileId)
  /-- RETAIN_SCRUB_WAKE (R456). -/
  | retainScrubWake
  /-- DOMAIN_WAKE_COMPLETE (R453). -/
  | domainWakeComplete (d : Fin 136) (t : Option Training)
  /-- POWER_ESTIMATE (R461). -/
  | powerEstimate (deciwatts : Nat)
  /-- THERMAL_UPDATE (R462). -/
  | thermalUpdate (tj : Int)
  /-- THERMAL_TRIP (R462). -/
  | thermalTrip (sensor : Half)
  /-- AGEING_PLAN (R464). -/
  | ageingPlan (vreq : List Nat)
  /-- AGE_NEARMISS (R465). -/
  | ageNearmiss (c : ClusterId)
  /-- AGE_STEPDOWN (R466). -/
  | ageStepdown (c : ClusterId)
  /-- STBY_N_RISE (R459). -/
  | stbyNRise
  /-- POWER_ON (R471). -/
  | powerOn (cpRole : BitVec 2)
  /-- PWRGD_FALL (R476). -/
  | pwrgdFall
  /-- RESET_N_ASSERT (R471). -/
  | resetNAssert
  /-- SCH_WATCHDOG_EXPIRE (R473). -/
  | schWatchdogExpire
  /-- SEC_WATCHDOG_EXPIRE (R473). -/
  | secWatchdogExpire
  /-- WDT_ARM (R484). -/
  | wdtArm (period : Half)
  /-- WDT_KICK_SCH (R484). -/
  | wdtKickSch
  /-- WDT_KICK_SEC (R484). -/
  | wdtKickSec
  /-- TRIM_LOAD_ATTEMPT (R479). -/
  | trimLoadAttempt (pass : Bool)
  /-- BLOCK_RELEASE (R477). -/
  | blockRelease (d : Fin 136)
  /-- CLOCK_STUCK_TIMEOUT (R478). -/
  | clockStuckTimeout (b : StuckClock)
  /-- CLU_RELOAD (R513). -/
  | cluReload (c : ClusterId)
  /-- LDP_QUEUE_READ (R516). -/
  | ldpQueueRead (bank : Fin 4)
  /-- REGISTER_WRITE (R506). -/
  | registerWrite (master : Master) (addr : Addr) (four : Bool) (value : Dword)
  /-- RESET_N_RELEASE (R471). -/
  | resetNRelease
  /-- STBY_N_FALL (R459). -/
  | stbyNFall
  /-- PORT_LINK_UP (R485). -/
  | portLinkUp (port : Fin 10)
  /-- SWEEP_ACK_COMPLETE (R114). -/
  | sweepAckComplete (chan : ChanId) (recep : Nat)
  /-- SLEW_COMPLETE (R446). -/
  | slewComplete
  /-- SELFTEST_SLICE_END (R378). -/
  | selftestSliceEnd (entry : Fin 4096)
  /-- MODEL_LOAD_COMPLETE (R397). -/
  | modelLoadComplete
  /-- QCP_UNKNOWN_TYPE (R419). -/
  | qcpUnknownType (h : QcpHdr) (type : Half)
  /-- PTP_MESSAGE_TRANSMIT (R443). -/
  | ptpMessageTransmit (port : Fin 10) (msg : PtpMsg)
deriving DecidableEq, Repr

end Sys2Proof
end

