-- ==== Sys2Proof/Decode.lean ====
section
/-! DEFINITION. The command a word of the opcode table's bits spells. The table gives its rows no bits (every row's field list
is empty: the commands are messages and events), so no word spells a command. -/
namespace Sys2Proof

/-- No row of the table gives bits, so every word is refused (DEDUCED, log 7). -/
def decodeTableWord (_nbits _w : Nat) : Option Instr := none

end Sys2Proof
end

