-- ==== Sys2Proof/Machine/Table.lean ====
section
/-! DEFINITION. Tables: sparse plain data by a natural key, in ONE canonical form: the keys rise strictly and no entry
holds the value an unlisted key reads as. External memory, scratchpads and every numbered store of the machine are tables. -/
namespace Sys2Proof

/-- Key and value pairs; the default value is given at each read and write. -/
structure Table (α : Type) where
  entries : List (Nat × α)
deriving DecidableEq, Repr

namespace Table

variable {α : Type}

/-- The table that lists nothing. -/
def empty : Table α := ⟨[]⟩

/-- The first entry of key `k`. -/
def look (k : Nat) : List (Nat × α) → Option α
  | [] => none
  | (k', v) :: r => if k = k' then some v else look k r

/-- The listed value of key `k`, if any. -/
def find (t : Table α) (k : Nat) : Option α := look k t.entries

/-- The value of key `k`, `d` where nothing is listed. -/
def get (t : Table α) (d : α) (k : Nat) : α := (t.find k).getD d

/-- Insertion of a key that a rising list does not hold. -/
def put (k : Nat) (v : α) : List (Nat × α) → List (Nat × α)
  | [] => [(k, v)]
  | (k', v') :: r => if k < k' then (k, v) :: (k', v') :: r else (k', v') :: put k v r

/-- The entries of every other key. -/
def without (k : Nat) (l : List (Nat × α)) : List (Nat × α) := l.filter fun e => e.1 ≠ k

/-- The table with key `k` at `v`, `d` being what unlisted keys read as: a value equal to `d` is not listed. -/
def set [DecidableEq α] (t : Table α) (d : α) (k : Nat) (v : α) : Table α :=
  ⟨if v = d then without k t.entries else put k v (without k t.entries)⟩

/-- The table without the keys from `lo` on below `hi`: they read as the default. -/
def clearRange (t : Table α) (lo hi : Nat) : Table α := ⟨t.entries.filter fun e => e.1 < lo || hi ≤ e.1⟩

/-- The table with every listed value changed by `f`; one that becomes `d` is listed no longer. -/
def mapTo [DecidableEq α] (t : Table α) (d : α) (f : α → α) : Table α := t.entries.foldr (fun e a => a.set d e.1 (f e.2)) empty

/-- Are the keys of a list above `k` and strictly rising, and no value equal to `d`? -/
def okFrom [DecidableEq α] (d : α) (lo : Nat) : List (Nat × α) → Bool
  | [] => true
  | (k, v) :: r => lo ≤ k && v ≠ d && okFrom d (k + 1) r

/-- The canonical form: strictly rising keys, no default value listed. -/
def wf [DecidableEq α] (d : α) (t : Table α) : Bool := okFrom d 0 t.entries

/-- The listed keys, rising. -/
def keys (t : Table α) : List Nat := t.entries.map (·.1)

/-- The listed values, in key order. -/
def values (t : Table α) : List α := t.entries.map (·.2)

end Table
end Sys2Proof
end

