-- ==== Sys2Proof/Store/Core.lean ====
section
/-! DEFINITION. State shared by all blocks: event records, replies and frames that leave the device, the clocks. -/
namespace Sys2Proof

/-- One event record without its seqword: code, source block and unit, device time, four parameters (19 R430). -/
structure EvRec where
  code   : Half
  source : Half
  sec    : Nat
  ns     : Nat
  params : List Word
deriving DecidableEq, Repr

/-- A written record of the recorder's memory: its 31-bit count with the valid bit, and the record (19 R430, R432). -/
structure EvSlot where
  valid : Bool
  count : BitVec 31
  entry : EvRec
deriving DecidableEq, Repr

/-- The event recorder (19 R430–R433). -/
structure Recorder where
  count     : Nat
  dropped   : Nat
  lostSince : Nat
  queue     : List EvRec
  records   : Table (Option EvSlot)
deriving DecidableEq, Repr

/-- Cycle counter and the phase of the radio PLL against the arithmetic clock (00 R8, 20 R437). -/
structure Clock where
  cycle    : Nat
  radioAcc : Nat
deriving DecidableEq, Repr

/-- The body of a QCP reply or notification. -/
inductive ReplyBody where
  | empty
  /-- Numbered fields in the order of the layout's table. -/
  | nums (xs : List Nat)
  | bytes (bs : List Byte)
  /-- RECORDER_READ: EVR_COUNT and the records (19 R434). -/
  | records (count : Nat) (rs : List (Option EvSlot))
deriving DecidableEq, Repr

/-- A QCP reply as it leaves a command port (19 R417): `ref` names the request, `hw` says who served it. -/
structure QcpReply where
  port    : Fin 2
  addr    : BitVec 128
  udp     : Half
  session : Half
  ref     : Word
  tag     : Dword
  hw      : Bool
  major   : Byte
  minor   : Byte
  status  : Half
  body    : ReplyBody
deriving DecidableEq, Repr

/-- PUSCH or PUCCH result record (02 R58, Table 7); `status` as its bits, offsets inside the frame. -/
structure UlResult where
  rnti      : Half
  ueCtx     : Half
  harqId    : Byte
  status    : Byte
  iterations : Byte
  version   : Word
  sinr      : Half
  timing    : Half
  payloadOffset : Word
  uciOffset : Word
deriving DecidableEq, Repr

/-- One 8-byte downlink status record (03 R85). -/
structure DlStatus where
  rnti   : Half
  ueCtx  : Half
  status : Byte
deriving DecidableEq, Repr

/-- Sweep result record (04 R116, Table 4). -/
structure SweepResult where
  addr : Word
  fcnt : Half
  ctx  : Half
  channel : Byte
  order : Byte
  status : Byte
  len : Byte
  rssi : Half
  snr : Half
  freqOffset : Word
  drift : Half
  corrWord : Half
  endSec : Word
  endNs : Word
  version : Word
  payloadOffset : Word
deriving DecidableEq, Repr

/-- A compressed PRB of a sent U-plane section (03 R80). -/
structure TxPrb where
  stream : Nat
  prb    : Nat
  exp    : Nat
  mant   : List Int
deriving DecidableEq, Repr

/-- A section sent with modulation compression (03 R81): its record (PDSCHs, PDCCHs, CSI-RSs in order), the width per component,
the constellation shift, whether section extension 5 goes with extension 4, the RE amplitudes in units of 2^−60, and the points of each layer, RE by
RE. -/
structure ModSec where
  entry  : Nat
  width  : Nat
  shift  : Nat
  ext5   : Bool
  amps   : List Nat
  points : List (List (Int × Int))
deriving DecidableEq, Repr

/-- Beamforming weights of a section extension 1 (03 R75, R79): of PDSCH, PDCCH, CSI-RS or SSB (0–3), its place in the configuration, and for each
group an exponent and the mantissas. -/
structure Ext1 where
  kind   : Nat
  entry  : Nat
  groups : List (Nat × List Int)
deriving DecidableEq, Repr

/-- Frames the device sends on its network ports. -/
inductive TxFrame where
  | ulResults (cell : CellId) (slot : AbsSlot) (recs : List UlResult) (payloads : List (List Byte))
  | prachReport (cell : CellId) (slot : AbsSlot) (occasion : Nat) (found : List Preamble)
  | dlStatus (cell : CellId) (slot : AbsSlot) (recs : List DlStatus)
  /-- C-plane messages of a slot with their section extensions 1 (03 R75). -/
  | cplane (cell : CellId) (slot : AbsSlot) (ext1 : List Ext1)
  /-- U-plane messages of one symbol: whether it carries SSB, the BFP PRBs, the sections sent with modulation compression
  (03 R81). -/
  | uplane (cell : CellId) (slot : AbsSlot) (sym : Fin 14) (ssb : Bool) (prbs : List TxPrb) (mods : List ModSec)
  | sweepResult (r : SweepResult) (payload : List Byte)
  /-- Downlink chirp frame: channel, order, header, payload bytes, start time in ns, symbol values (04 R113). -/
  | sweepDown (chan : ChanId) (order : Nat) (hdr : SweepHdr) (payload : List Byte) (startNs : Nat) (backoff : Byte) (sections : List SweepSection)
  | infOutput (job : Word) (tensor : Half) (bytes : List Byte)
  | ptp (kind : Nat) (clockClass : Byte) (domain : Byte) (sec : Nat) (ns : Nat)
  | arp (v6 : Bool) (mac : List Byte) (ip : List Byte)
  | mka (ckn : List Byte)
deriving DecidableEq, Repr

/-- What leaves the device, oldest first: an output of the model, nothing reads it back. -/
inductive Out where
  | reply (r : QcpReply)
  | notify (session : Half) (type : Half) (seq : Word) (body : ReplyBody)
  /-- A frame on NPn (0–7) or CPn (8, 9). -/
  | frame (port : Nat) (f : TxFrame)
  /-- An Aqmor message, sent whole in segments of one `seq` to the peer of its EtherType (23 R487, R488). -/
  | aqmor (port : Nat) (peer : List Byte) (seq : Word) (f : TxFrame)
  /-- A frame of the synthesiser port: its bits, most significant first (20 R439). -/
  | spi (bits : List Bool)
  | pulse (n : Fin 4) (level : Bool)
  /-- A flit sent on link n (15 R339), its payload as the far side reads it. -/
  | flit (link : Fin 4) (f : Flit)
  | nak (link : Fin 4) (seq : Nat)
  /-- The identity message of 15 R338: device number, shape and serial number. -/
  | linkIdentity (link : Fin 4) (dev nx ny : Nat) (serial : Dword)
  | linkReset (link : Fin 4)
  | linkTime (link : Fin 4) (sec : Nat) (ns : Nat)
  | thermLow
  /-- An answer of an assured crossing, a debug port bit stream, and other words read by the reader of a pin. -/
  | tap (value : Nat)
  | word (tag : String) (value : Nat)
deriving DecidableEq, Repr

end Sys2Proof
end

