-- ==== Sys2Proof/Store/Radio.lean ====
section
/-! DEFINITION. Uplink and downlink state: cells, user contexts, HARQ, slots in progress, decoder banks (02, 03, 24 R515). -/
namespace Sys2Proof

/-- A HARQ process of a user context: the stored NDI, `none` while the context reads as empty (22 R475), the addresses of the
pages that hold its code blocks, and a write-back in progress (02 R38, R46, R47). -/
structure HarqProc where
  ndi       : Option Bool
  pages     : List Nat
  writeback : Option (List (List Byte))
deriving DecidableEq, Repr

/-- The latest SRS estimates of a user, the slot they were measured in, and where in HBM they lie (02 R38, R53, 03 R73). -/
structure SrsSet where
  absSlot : AbsSlot
  place   : Nat
  prbStart : Nat
  prbCount : Nat
  streams : Nat
  est     : List Byte
deriving DecidableEq, Repr

/-- A user context (02 R38), with the noise variance of the user's last estimation (03 R73). -/
structure UserCtx where
  rnti   : Half
  cell   : CellId
  harq   : Table HarqProc
  timing : Half
  power  : Half
  noise  : Half
  srs    : Option SrsSet
deriving DecidableEq, Repr

/-- Staging of a PUSCH's HARQ pages (02 R46, R47, R56). -/
inductive Staging where | idle | waiting | started | complete
deriving DecidableEq, Repr

/-- A decoded code block: whether its CRC passed, and its bits (02 R50). -/
structure CbOut where
  crc  : Bool
  bits : List Bool
deriving DecidableEq, Repr

/-- The channel estimates of one work unit, 14 symbols × 48 subcarriers, and the noise variances of its 4 PRBs (02 R39). -/
structure EstBlock where
  h     : List Word
  noise : List Half
deriving DecidableEq, Repr

/-- Layer symbols and error variances of one PRB and symbol, RE by RE (02 R39). -/
structure DetPrb where
  sym : List Word
  var : List Half
deriving DecidableEq, Repr

/-- A PUSCH of a slot in progress. `stage` counts the marks of 01 R22 (0 none … 4 demapped); `est`, `det` and `llrs` are what stages 3, 4 and
5 left, `demapped` the symbols whose LLRs have come; `soft` the combined code blocks. -/
structure PuschSt where
  cfg        : Pusch
  noConfig   : Bool
  noDmrs     : Bool
  noReceiver : Bool
  classical  : Bool
  notStored  : Bool
  uciFail    : Bool
  crcPass    : Bool
  decided    : Bool
  firstTx    : Bool
  stage      : Nat
  iterations : Nat
  staging    : Staging
  staged     : List (List Byte)
  est        : List EstBlock
  det        : List DetPrb
  demapped   : Nat
  llrs       : List Byte
  soft       : List (List Byte)
  cbs        : Table (Option CbOut)
  uci        : List Byte
  guardPass  : Option Bool
  otherPass  : Option Bool
  sinr       : Half
  timing     : Half
deriving DecidableEq, Repr

/-- A PUCCH of a slot in progress (02 R51); formats 2 to 4 pass through the stages as a PUSCH does. -/
structure PucchSt where
  cfg      : Pucch
  noConfig : Bool
  stage    : Nat
  est      : List EstBlock
  det      : List DetPrb
  demapped : Nat
  llrs     : List Byte
  uciFail  : Bool
  decided  : Bool
  uci      : List Byte
  sinr     : Half
  timing   : Half
  harqId   : Byte
deriving DecidableEq, Repr

/-- The part of the grid one accepted section covered: stream, symbol, first PRB, PRB count (02 R34, R36). -/
structure Cover where
  stream : Nat
  sym    : Nat
  prb    : Nat
  count  : Nat
deriving DecidableEq, Repr

/-- An uplink slot in progress of one cell, received under the record `config`. `t0` is its entry offset in device time, ns (02 R55); `intake` says that its window
has closed, `closed` that its results have gone; `times` are the six stage times of RAD_STAGE_TIME. -/
structure UlSlot where
  absSlot  : AbsSlot
  t0       : Nat
  accepted : Bool
  lateCfg  : Bool
  pusch    : List PuschSt
  pucch    : List PucchSt
  prach    : List (Prach × List Preamble)
  srs      : List Srs
  config   : UlCell
  covers   : List Cover
  grid     : Table Word
  intake   : Bool
  closed   : Bool
  erased   : Nat
  version  : Word
  classical : Bool
  guard     : Bool
  shadow    : Bool
  times     : List Half
deriving DecidableEq, Repr

/-- A PDSCH of a slot in progress with its status bits (03 R85), its coded bits (03 R71) and its precoder: for each group an n_tx × layers matrix,
column by column (03 R72). -/
structure PdschSt where
  cfg       : Pdsch
  payload   : List Byte
  noConfig  : Bool
  noSrs     : Bool
  lateSyms  : Bool
  saturated : Bool
  coded     : List Bool
  weights   : List (List Word)
deriving DecidableEq, Repr

structure PdcchSt where
  cfg      : Pdcch
  coded    : List Bool
  noConfig : Bool
  lateSyms : Bool
deriving DecidableEq, Repr

/-- A downlink slot in progress of one cell (03 R68–R85); `built` counts its symbols that are precoded. -/
structure DlSlot where
  config    : DlCell
  resultPort : Nat
  absSlot   : AbsSlot
  t0        : Nat
  accepted  : Bool
  pdsch     : List PdschSt
  pdcch     : List PdcchSt
  csirs     : List CsiRs
  srsHeld   : List (Nat × Option SrsSet)
  encoded   : Bool
  precoded  : Bool
  built     : Nat
  cplane    : Bool
  grid      : List DlPrb
  sent      : List Nat
  closedTo  : Nat
deriving DecidableEq, Repr

/-- A cell: its records in force and pending, its slots in progress, the addresses of its HARQ pool pages in use, the slots
whose configuration has come, its counters (02 R28, 24 Table 9). -/
structure CellSt where
  ul        : Option UlCell
  dl        : Option DlCell
  pending   : Option (UlCell × DlCell)
  ulSlots   : Table (Option UlSlot)
  dlSlots   : Table (Option DlSlot)
  pagesUsed : List Nat
  ulServed  : List Nat
  dlServed  : List Nat
  early     : Nat
  late      : Nat
  dup       : Nat
  erasedSlot : Nat
  erasedRe  : Nat
  cfgDup    : Nat
  lateSlots : Nat
  guardLoss : Nat
  guardGain : Nat
  dlSat     : Nat
  dlLate    : Nat
  stageA    : List Half
  stageB    : List Half
  stageSlot : Word
deriving DecidableEq, Repr

/-- A decoder bank's counters (24 R516) and its queue, of which `sweep` blocks are the sweep link's (04 R108). -/
structure BankSt where
  blocks  : Nat
  crcFail : Nat
  iter    : Nat
  now     : Nat
  peak    : Nat
  sweep   : Nat
deriving DecidableEq, Repr

/-- What a byte of radio buffers can belong to: a byte of a grid's RE, an LLR, a byte of a staged block; each of the n-th uplink slot in
progress of a cell (02 R38). -/
inductive BufferItem where
  | grid (cell n key k : Nat)
  | llr (cell n pusch i : Nat)
  | staged (cell n pusch block i : Nat)
deriving DecidableEq, Repr

/-- The radio blocks: whether radio service waits for the frame boundary after an L3 reset (22 R475), cells, user contexts, decoder banks, and the bytes of radio buffers that hold nothing of a
slot in progress (02 R38). -/
structure Radio where
  paused   : Bool
  cells    : Table CellSt
  users    : Table UserCtx
  banks    : Table BankSt
  buffers  : Table Byte
deriving DecidableEq, Repr

def CellSt.init : CellSt :=
  { ul := none, dl := none, pending := none, ulSlots := .empty, dlSlots := .empty, pagesUsed := [], ulServed := [], dlServed := [], early := 0, late := 0,
    dup := 0, erasedSlot := 0, erasedRe := 0, cfgDup := 0, lateSlots := 0, guardLoss := 0, guardGain := 0, dlSat := 0,
    dlLate := 0, stageA := [0, 0, 0, 0], stageB := [0, 0], stageSlot := 0 }

def HarqProc.init : HarqProc := { ndi := none, pages := [], writeback := none }

def UserCtx.init : UserCtx := { rnti := 0, cell := 0, harq := .empty, timing := 0, power := 0, noise := 0, srs := none }

def BankSt.init : BankSt := { blocks := 0, crcFail := 0, iter := 0, now := 0, peak := 0, sweep := 0 }

def Radio.init : Radio := { paused := false, cells := .empty, users := .empty, banks := .empty, buffers := .empty }

end Sys2Proof
end

