-- ==== Sys2Proof/Store/Tile.lean ====
section
/-! DEFINITION. A tile's state: registers, accumulators, weight buffers, streams, scratchpad, polders, sluice (06–13). -/
namespace Sys2Proof

/-- A decoded stream descriptor (13 R286, Table 2). `raw` keeps its 128 bytes. -/
structure StreamDesc where
  farAddr  : Nat
  farDev   : Nat
  dirWrite : Bool
  handle   : Bool
  tag      : Nat
  compress : Bool
  decrypt  : Bool
  conv     : Bool
  length   : Nat
  fmt      : Nat
  copy     : Bool
  wc       : Bool
  gather   : Bool
  rate     : Nat
  n0 : Nat
  n1 : Nat
  n2 : Nat
  n3 : Nat
  s1 : Int
  s2 : Int
  s3 : Int
  nearAddr : Nat
  nearSlots : Nat
  keySlot  : Nat
  auxAddr  : Nat
  convP    : List Nat
  rowCount : Nat
  rowBytes : Nat
  gOp      : Nat
  idxAddr  : Nat
  nBags    : Nat
  scaleAddr : Nat
  rsvdBad  : Bool
deriving DecidableEq, Repr

/-- An element as it moves: its stored code, the E8M0 scale of its block for an MX format, and whether its scratchpad word
could not be corrected, which faults the operation that takes it (12 R266). -/
structure Elem where
  code  : Nat
  scale : Nat
  bad   : Bool := false
deriving DecidableEq, Repr

/-- A write handed over and not yet landed: its element's index in the walk, the byte address it starts at (an address of
the map, or one of the buffer handles' spaces), the code, its bits and their place in the first byte; `leaves` where the
stream leaves the scratchpad slot with it (12 R271); `mout` the number of the MOUT it is of, 0 for none; `sent` where it landed in a slot of another tile whose credit is open,
which the stream keeps until the slot closes (14 R329). -/
structure PendWr where
  idx    : Nat
  addr   : Nat
  code   : Nat
  bits   : Nat
  shift  : Nat
  leaves : Bool
  mout   : Nat
  sent   : Bool := false
deriving DecidableEq, Repr

/-- A fetch in flight: the elements it brings, or the code of the fault it will raise (0 for none). -/
structure Flight where
  elems : List Elem
  fault : Nat
deriving DecidableEq, Repr

/-- A stream q0–q7 (13 R286–R299). For a read stream `fetched` counts elements whose fetch has issued and `buf` holds those
that returned and were not taken. For a write stream `pend` holds what has been handed over and has not landed; `dense`, `unit`
and `rows` the open unit of a compressing stream and where the next one goes; `granted` the slots of other devices' tiles it
holds credits for, `asked` those it has asked for. -/
structure StreamSt where
  valid    : Bool
  descOff  : Nat
  desc     : StreamDesc
  pos      : Nat
  crest    : Option Nat
  fetched  : Nat
  inflight : List Flight
  buf      : List Elem
  pend     : List PendWr
  dense    : List Nat
  unit     : Nat
  rows     : Nat
  granted  : List Nat
  asked    : List Nat
deriving DecidableEq, Repr

/-- A weight buffer: its format of fill and its elements, row-major by lane position; `loading` names the
stream, its format and whether transposed while an MWLD or MWLDT fills it; `src` the descriptor offset, the first element and
whether transposed of the last fill, from which a resumed task reloads it (06 R145, R152, R165). -/
structure WBuf where
  fmt     : Fmt
  perLane : Nat
  elems   : List Elem
  loading : Option (Nat × Fmt × Bool)
  src     : Option (Nat × Nat × Bool)
deriving DecidableEq, Repr

/-- A tile's registers for its task (11 Table 2). Vector lanes are keyed register × 128 + lane. -/
structure TRegs where
  s : Table Dword
  a : Table Addr
  v : Table Word
  p : Table (BitVec 128)
deriving DecidableEq, Repr

/-- A chain stage word and a chain entry (08 R189). -/
structure ChainEntry where
  header : Word
  stages : List Word
  rest   : Bool
deriving DecidableEq, Repr

/-- TIL_POLDERn.state (12 R270). -/
inductive PolderState where | free | held | locked | zeroising
deriving DecidableEq, Repr

structure Polder where
  state     : PolderState
  cls       : JobClass
  tagged    : Bool
  accRemote : Bool
  winCount  : Nat
  winBase   : Nat
  job       : Word
deriving DecidableEq, Repr

/-- An outstanding sluice credit: polder, slot, mode, class, job, writer (12 R276). -/
structure Credit where
  polder : Nat
  slot   : Nat
  acc    : Bool
  cls    : JobClass
  job    : Word
  writer : Writer
deriving DecidableEq, Repr

/-- A pending credit request: the slots not yet granted are `next` up to `stop` (12 R277). -/
structure PendReq where
  req  : CreditReq
  next : Nat
  stop : Nat
deriving DecidableEq, Repr

/-- Tile states (11 R261). -/
inductive TileState where | idle | loading | running | draining | faulted | zeroising
deriving DecidableEq, Repr

/-- Why the tile's current bundle is held before issue (11 R245). -/
inductive Hold where
  | semaphore (n : Nat)
  | stream (q : Nat)
  | tag (slot : Nat)
  | weights (b : Nat)
  | writes
  | poolQueue
  | writeBuffer (q : Nat)
deriving DecidableEq, Repr

/-- A long vector operation in progress (11 R252): the operation, its count register, the elements done so far, its bundle, the predicates its
compares will write with the last vector (08 R191), the registers as they stood when it first issued (11 R246, 08 R201), and the bytes of the
block or map it read at issue, `none` until it has issued again after a drain. -/
structure LongOp where
  op    : VecOp
  n     : SReg
  total : Nat
  done  : Nat
  bundle : Nat
  preds  : List (Nat × BitVec 128)
  regs   : TRegs
  block  : Option (List Byte)
deriving DecidableEq, Repr

/-- The weight buffer a progress record names for the next MMAC, with its K-group and where it is reloaded from (06 R165). -/
structure Reload where
  buf        : Nat
  kgroup     : Nat
  descOff    : Nat
  elemOff    : Nat
  transposed : Bool
deriving DecidableEq, Repr

/-- What is saved of a preempted task (06 R164, R165): a save area holds this record. `loads` are the MWLDs and MWLDTs cancelled on the way into a
buffer that the record does not name, to be done again: buffer, stream, format, transposed; `lost` the filled buffers it does not name, with their
formats: what they hold on resume is open (log 114). -/
structure Saved where
  valid   : Bool
  ref     : TaskRef
  regs    : TRegs
  acc     : Table (BitVec 48)
  accTy   : Table AccTy
  kgroups : Table Nat
  streams : Table StreamSt
  pc      : Nat
  accSat  : Bool
  step    : Dword
  longOp  : Option LongOp
  wbuf    : Option Reload
  outliers : Table Nat
  upHist  : List Elem
  loads   : List (Nat × Nat × Fmt × Bool)
  lost    : List (Nat × Fmt)
  mouts   : Nat
deriving DecidableEq, Repr

/-- Where a part of an MOUT landed. -/
inductive MoutAt where
  | ext (a : Nat)
  | tile (t off : Nat)
  | cache (c off : Nat)
deriving DecidableEq, Repr

/-- A part of an MOUT that is not complete: the number of the MOUT, where the part landed, the bytes and the tags that it replaced, which a fault
puts back (06 R163). -/
structure MoutPart where
  mout : Nat
  at'  : MoutAt
  old  : List Byte
  tags : List (Nat × Bool)
deriving DecidableEq, Repr

/-- What a bundle of the program can change: registers, accumulators, weight buffers, streams, flags, scratchpad and tags. `stats`
holds what its quantising operations add to the statistics record: pair, sum, count (07 R184, R185); `outliers` the outlier vector of its last QUANT with a map, by K-group × 32 + slot (07 R180);
`upHist` the elements of the plane that an up-sampling in progress has taken (08 R198, R199); `mouts` counts the MOUTs handed over and `moutParts`
holds what those not complete have replaced, newest first. -/
structure TileBody where
  pc       : Nat
  cur      : Nat
  regs     : TRegs
  acc      : Table (BitVec 48)
  accTy    : Table AccTy
  poison   : Table Bool
  kgroups  : Table Nat
  wbufs    : Table WBuf
  streams  : Table StreamSt
  qSat     : Bool
  nanSeen  : Bool
  accSat   : Bool
  longOp   : Option LongOp
  sp       : Table Byte
  spBad    : List Nat
  tags     : Table Bool
  step     : Dword
  stats    : List (Nat × Dword × Nat)
  outliers : Table Nat
  upHist   : List Elem
  mouts    : Nat
  moutParts : List MoutPart
deriving DecidableEq, Repr

/-- A tile. `before` is its body as it stood when the running bundle issued: every slot reads its registers there (11 R246),
and a bundle that is held or faults at issue goes back to it (11 R245, R260). `slots` lists the slots of that bundle. `pjob` is the job number its polders carry: the array job's in an array (14 R314). `saveInf` and `saveRad` are its two save
areas (06 R164), each with the record last drained into it; `loadFault` what a load found wrong, 0 for nothing (11 R241); `notices` the writers whose discards are
announced to this tile (12 R279); `yielding` a drain that a yield asked for (14 R323). -/
structure Tile where
  state    : TileState
  domain   : Domain
  nextDomain : Domain
  ref      : Option TaskRef
  cls      : JobClass
  job      : Word
  pjob     : Word
  taskId   : Nat
  rank     : Nat
  groupSize : Nat
  grouped  : Bool
  seed     : Dword
  compat   : Bool
  statsAt  : Nat
  sems     : List Nat
  faultCode : Half
  faultBundle : Nat
  faultSlot : Nat
  faultImage : Bool
  nBundles : Nat
  bundles  : List (BitVec 128)
  chains   : List ChainEntry
  body     : TileBody
  before   : TileBody
  slots    : List Slot
  semSat   : Bool
  hold     : Option Hold
  holdSince : Nat
  polders  : Table Polder
  tagLimit : Nat
  splitA   : Nat
  splitI   : Nat
  splitR   : Nat
  refused  : Nat
  credits  : List Credit
  requests : List PendReq
  ecc      : Nat
  eccUe    : Nat
  scrub    : Nat
  saveInf  : Option Saved
  saveRad  : Option Saved
  loadFault : Half
  notices  : List TaskRef
  yielding : Bool
  since    : Nat
deriving DecidableEq, Repr

def StreamDesc.init : StreamDesc :=
  { farAddr := 0, farDev := 255, dirWrite := false, handle := false, tag := 0, compress := false, decrypt := false,
    conv := false, length := 0, fmt := 0, copy := false, wc := false, gather := false, rate := 0, n0 := 0, n1 := 0,
    n2 := 0, n3 := 0, s1 := 0, s2 := 0, s3 := 0, nearAddr := 0, nearSlots := 0, keySlot := 0, auxAddr := 0, convP := [],
    rowCount := 0, rowBytes := 0, gOp := 0, idxAddr := 0, nBags := 0, scaleAddr := 0, rsvdBad := false }

/-- Streams are invalid at task start (11 Table 2). -/
def StreamSt.init : StreamSt :=
  { valid := false, descOff := 0, desc := StreamDesc.init, pos := 0, crest := none, fetched := 0, inflight := [],
    buf := [], pend := [], dense := [], unit := 0, rows := 0, granted := [], asked := [] }

def WBuf.init : WBuf := { fmt := .int8, perLane := 32, elems := [], loading := none, src := none }

/-- Registers start at 0 (11 Table 2). -/
def TRegs.init : TRegs := { s := .empty, a := .empty, v := .empty, p := .empty }

/-- TIL_POLDERn at reset: every field 0 (12 Table 4). -/
def Polder.init : Polder :=
  { state := .free, cls := .radio, tagged := false, accRemote := false, winCount := 0, winBase := 0, job := 0 }

def TileBody.init : TileBody :=
  { pc := 0, cur := 0, regs := TRegs.init, acc := .empty, accTy := .empty, poison := .empty, kgroups := .empty,
    wbufs := .empty, streams := .empty, qSat := false, nanSeen := false, accSat := false, longOp := none, sp := .empty,
    spBad := [], tags := .empty, step := 0, stats := [],
    outliers := .empty, upHist := [], mouts := 0, moutParts := [] }

/-- A tile at reset: IDLE, nothing loaded, every register at its reset value (11 R261, 12 Tables 4, 6, 8, 10). -/
def Tile.init : Tile :=
  { state := .idle, domain := .radio, nextDomain := .radio, ref := none, cls := .radio, job := 0, pjob := 0, taskId := 0, rank := 0,
    groupSize := 1, grouped := false, seed := 0, compat := false, statsAt := 0, sems := [], faultCode := 0,
    faultBundle := 0, faultSlot := 0, faultImage := false, nBundles := 0, bundles := [], chains := [],
    body := TileBody.init, before := TileBody.init, slots := [], semSat := false, hold := none, holdSince := 0,
    polders := .empty, tagLimit := 0x01000000, splitA := 8, splitI := 24, splitR := 16, refused := 0, credits := [],
    requests := [], ecc := 0, eccUe := 0, scrub := 0, saveInf := none, saveRad := none, loadFault := 0, notices := [], yielding := false, since := 0 }

end Sys2Proof
end

