-- ==== Sys2Proof/Store/Sched.lean ====
section
/-! DEFINITION. Graphs, tasks, semaphores, the slot cycle table, batches (14). -/
namespace Sys2Proof

/-- Graph header (14 R311, Table 1). -/
structure GraphHdr where
  kind       : Nat
  nTasks     : Nat
  nTensors   : Nat
  cls        : Nat
  killAtDeadline : Bool
  batch      : Bool
  rsvdBad    : Bool
  nSems      : Nat
  taskTable  : Nat
  tensorTable : Nat
  semList    : Nat
  batchRecord : Nat
  deadlineUs : Nat
  maxPolders : Nat
  spillPages : Nat
deriving DecidableEq, Repr

/-- Task descriptor (14 R312, Table 2). -/
structure TaskDesc where
  taskId    : Nat
  compat    : Bool
  inbound   : Bool
  stats     : Bool
  rsvdBad   : Bool
  polders   : Nat
  predCount : Nat
  image     : Nat
  args      : Nat
  stage     : List Nat
  nStage    : Nat
  group     : Nat
  rank      : Nat
  succ      : List Nat
  stepCounter : Nat
  status    : Nat
  sems      : List Nat
  inTensor  : List Nat
  outTensor : List Nat
  credits   : Nat
  groupSize : Nat
  peers     : List Nat
  deadlineUs : Nat
deriving DecidableEq, Repr

/-- Tensor table entry (14 R313). -/
structure Tensor where
  backing  : Nat
  bytes    : Nat
  resident : Bool
  polder   : Nat
  firstSlot : Nat
  tagged   : Bool
  remote   : Bool
  accRemote : Bool
  nSlots   : Nat
  rsvdBad  : Bool
deriving DecidableEq, Repr

/-- Task states (14 R324, Table 4). -/
inductive TaskState where | pending | ready | running | preempted | done | faulted | killed
deriving DecidableEq, Repr

/-- A task of an admitted graph, one run of it: its descriptor, progress and status (14 R317, R324). `spill` gives the
spill page of a preempted inbound task, cluster × 56 + page, and the tile slots it holds (14 R329). -/
structure TaskSt where
  desc    : TaskDesc
  preds   : Nat
  state   : TaskState
  stamp   : Nat
  qSat    : Bool
  nanSeen : Bool
  accSat  : Bool
  semSat  : Bool
  late    : Bool
  fault   : Half
  bundle  : Half
  slot    : Byte
  preemptions : Nat
  yields  : Nat
  restage : Nat
  started : Bool
  startNs : Nat
  endNs   : Nat
  tile    : Nat
  spill   : Option (Nat × List Nat)
deriving DecidableEq, Repr

/-- A member of a batch: its sequence, length, pages, slot (14 R331). -/
structure Member where
  seq    : Nat
  len    : Nat
  pages  : List Nat
  slot   : Nat
  leaving : Bool
deriving DecidableEq, Repr

/-- A batch record with its page state (14 R331, R332). -/
structure Batch where
  kvBase    : Nat
  kvPages   : Nat
  slots     : Nat
  pageTokens : Nat
  seqTable  : Nat
  members   : List Member
  refused   : List Nat
deriving DecidableEq, Repr

/-- Outcomes of a graph (14 R316). -/
inductive GraphOutcome where | done | faulted | killed
deriving DecidableEq, Repr

/-- Verdicts on an assured graph (17 R372; 19 Table 7). -/
inductive Verdict where | released | recovered | disagree | late | laneSafe
deriving DecidableEq, Repr

/-- One copy of an assured graph (17 R369–R373): its tasks, the tiles they ran on, its signature. A graph of the inference
class has one copy. `valid` lists the tiles with the tensors whose polder copy is valid there (14 R318). -/
structure GraphCopy where
  tasks     : List TaskSt
  tilesUsed : List Nat
  signature : Option (List Byte)
  startNs   : Nat
  endNs     : Option Nat
  faulted   : Bool
  valid     : List (Nat × Nat)
deriving DecidableEq, Repr

/-- An admitted graph (14 R315). -/
structure Graph where
  job       : Word
  arrayJob  : Word
  session   : Nat
  header    : Nat
  hdr       : GraphHdr
  seed      : Dword
  modelSlot : Option (Fin 64)
  ports     : List Nat
  dumpAddr  : Nat
  tensors   : List Tensor
  sems      : List (Nat × Nat)
  copies    : List GraphCopy
  batch     : Option Nat
  refused   : List Nat
  submitNs  : Nat
  late      : Bool
  outcome   : Option GraphOutcome
  faultTask : Nat
  faultCode : Half
  verdict   : Option Verdict
  degraded  : Bool
  deciding  : Bool
  disagreeNs : Nat
  patches   : List (Nat × Nat)
deriving DecidableEq, Repr

/-- A transfer of a collective that its receiver has not taken: graph and copy, level, what it carries (11 R257). -/
structure Transfer where
  job   : Word
  copy  : Nat
  group : Nat
  rank  : Nat
  level : Nat
  op    : Nat
  ty    : Nat
  count : Nat
deriving DecidableEq, Repr

/-- Who has claimed a semaphore (14 R321). -/
inductive SemClaim where | job (j : Word) | table
deriving DecidableEq, Repr

structure Sem where
  count : Nat
  owner : BitVec 2
  claim : Option SemClaim
deriving DecidableEq, Repr

/-- Cycle table entry (14 R325, Table 5). -/
structure CycEntry where
  offsetNs : Nat
  kind     : Nat
  mu       : Nat
  owner    : Nat
  task     : Nat
  tiles    : BitVec 96
  deadlineNs : Nat
deriving DecidableEq, Repr

structure CycTable where
  addr    : Nat
  entries : List CycEntry
  sems    : List (Nat × Nat)
deriving DecidableEq, Repr

/-- What was captured of a faulted task of a sealed model's job: the task and its tile as it stood (19 R429). -/
structure Dump where
  job  : Word
  task : Nat
  tile : Tile
deriving DecidableEq, Repr

/-- The dispatch fabric and graph scheduler (14, 24 R512). `claims` gives the entry that claims a tile; `tileTasks` the run of
a cycle table entry's task on each tile, `training` that of each set's training task; `entrySlot` the absolute
slot each entry serves, `ranOn` on which tiles it has run its task; `halt` the frame in which CYC_CTL.halt was set; `dumps` the crash dumps not written yet. -/
structure Sched where
  graphs   : List Graph
  nextJob  : Word
  sems     : Table Sem
  yieldLimit : Nat
  table    : Option CycTable
  nextTable : Option CycTable
  halt     : Option Nat
  claims   : Table (Option Nat)
  batches  : Table (Option Batch)
  frame    : Nat
  tileTasks : Table (Option TaskSt)
  training : Table (Option TaskSt)
  entrySlot : Table (Option Nat)
  ranOn    : List (Nat × Nat)
  transfers : List Transfer
  dumps    : List Dump
deriving DecidableEq, Repr

/-- Semaphores are unowned with count 0 at reset (14 Table 4a). -/
def Sem.init : Sem := { count := 0, owner := 3, claim := none }

def Sched.init : Sched :=
  { graphs := [], nextJob := 1, sems := .empty, yieldLimit := 0x10000, table := none, nextTable := none, halt := none,
    claims := .empty, batches := .empty, frame := 0, tileTasks := .empty, training := .empty, entrySlot := .empty, ranOn := [],
    transfers := [], dumps := [] }

def TaskSt.init (d : TaskDesc) : TaskSt :=
  { desc := d, preds := d.predCount, state := .pending, stamp := 0, qSat := false, nanSeen := false, accSat := false,
    semSat := false, late := false, fault := 0, bundle := 0, slot := 0, preemptions := 0, yields := 0, restage := 0,
    started := false, startNs := 0, endNs := 0, tile := 0, spill := none }

end Sys2Proof
end

