-- ==== Sys2Proof/Store/Sweep.lean ====
section
/-! DEFINITION. Sweep link and adaptation state (04, 05). -/
namespace Sys2Proof

/-- A complex tap held as Q2.30 (04 R106). -/
structure Tap where
  re : Word
  im : Word
deriving DecidableEq, Repr

/-- Equaliser of a reception: its CSP, the taps in use, and updates that have not taken effect yet (04 R106). -/
structure Equaliser where
  csp  : Nat
  f    : List Tap
  b    : List Tap
  next : List (List Tap × List Tap)
deriving DecidableEq, Repr

/-- A reception in progress (04 R101–R110), under the record it began with. `freqBins` is b_up + b_dn and `timing` b_dn − b_up, so the offsets in
1/512 of a bin and of a chip; the frame begins at `startSample` and `startFrac`/256 of a sample at 2B. `mrc` are the combining weights, `peaks` the
combined peak of each decided symbol. Symbols are numbered from the frame's first up-sweep; `inputs` is what the detector got of each (tensor, noise
floor), `scores` what it gave. `llrs` are the LLRs placed
so far: header position i at i, payload position i at 2^20 + i. `bank` is the decoder bank in whose queue its code block waits. -/
structure Reception where
  id       : Nat
  admitted : Nat
  record   : SweepRec
  det      : Detection
  freqBins : Int
  timing   : Int
  startSample : Int
  startFrac : Nat
  mrc      : List (Int × Int)
  peaks    : List (Int × Int)
  eq       : Option Equaliser
  unequalised : Bool
  symbols  : List (Nat × Nat)
  scores   : List (Nat × PeakScores)
  inputs   : List (Nat × List Half × Half)
  llrs     : Table Byte
  header   : Option SweepHdr
  ctx      : Option (Fin 32768)
  duplicate : Bool
  version  : Word
  bank     : Option Nat
deriving DecidableEq, Repr

/-- An acknowledgement reserved or in transmission (04 R113, R114): `again` for a duplicate; `sent` gives the payload bytes of the
frame in transmission. -/
structure Ack where
  recep   : Nat
  record  : SweepRec
  order   : Nat
  ctx     : Nat
  upFcnt  : Half
  corr    : Half
  again   : Bool
  hold    : Bool
  startNs : Nat
  sent    : Option Nat
deriving DecidableEq, Repr

/-- A sample of a stream's store: its value and whether it is erased (04 R96). -/
structure SampleSt where
  value  : Cplx16
  erased : Bool
deriving DecidableEq, Repr

/-- A window that the sweep engine has passed to the detector: its order, its first sample, whether it was dechirped against an up-sweep; of each
of its peaks the bin, the power, the presence decision and the fraction of a bin in 1/256 (04 R99, R100). -/
structure SweepWin where
  order : Nat
  start : Nat
  dn    : Bool
  peaks : List (Nat × Nat × Bool × Int)
deriving DecidableEq, Repr

/-- A sweep channel (04 R97, R117; 24 R517). Samples are keyed by stream × 2^64 + sample number since device time 0; `pending` is a record that
changes n_rx and waits for the frame boundary (05 R141); `windows` are the latest windows of the search; `dlSeq` numbers the next
section of its downlink stream. -/
structure ChanSt where
  cfg      : Option SweepRec
  pending  : Option SweepRec
  samples  : Table (Option SampleSt)
  windows  : List SweepWin
  dlSeq    : Byte
  recep    : List Reception
  acks     : List Ack
  nextId   : Nat
  lastPeaks : List Nat
  late     : Nat
  netidMismatch : Nat
  overflow : Nat
  hdrFail  : Nat
deriving DecidableEq, Repr

/-- An endpoint context (04 R109). -/
structure EndCtx where
  bound   : Bool
  addr    : Word
  channel : ChanId
  heard   : Bool
  ulFcnt  : Half
  dlFcnt  : Half
  freq    : Word
  drift   : Half
  corr    : Half
  rssi    : Half
  snr     : Half
  item    : Option (List Byte)
deriving DecidableEq, Repr

structure Sweep where
  chans : Table ChanSt
  ctxs  : Table EndCtx
deriving DecidableEq, Repr

/-- States of an adaptation set (05 R137, Table 3). -/
inductive AdaptState where | off | collect | train | shadow | probation | frozen
deriving DecidableEq, Repr

/-- A stored weight version (05 R122): its number, pin, origin, arrival order and the shape it was made for. -/
structure Version where
  number  : Word
  pinned  : Bool
  device  : Bool
  arrival : Nat
  mu      : Nat
  nRx     : Nat
  layers  : Nat
  weights : List Byte
deriving DecidableEq, Repr

/-- A taken unit with its labels, waiting to be written (05 R124–R127). -/
structure PoolUnit where
  kind    : Nat
  version : Word
  stamp   : Nat
  info    : List Byte
  y       : List Byte
  x       : List Byte
  bits    : List Byte
  due     : Nat
deriving DecidableEq, Repr

/-- An ADAPT_CONTROL operation waiting for the boundary after the slot it came in, with the request to answer (05 R138). -/
structure PendingCtl where
  op   : AdaptOp
  hdr  : Option QcpHdr
  slot : Nat
deriving DecidableEq, Repr

/-- An adaptation set (05 R119–R143). `base` holds the weights training began from; a master weight no step has changed is the
dequantised one of `base`. -/
structure AdaptSet where
  cfg          : Option AdaptRec
  pendingCfg   : Option AdaptRec
  state        : AdaptState
  store        : List (Option Version)
  active       : Option Word
  previous     : Option Word
  candidate    : Option Word
  nextGen      : Nat
  arrivals     : Nat
  fill         : Nat
  ringPos      : Nat
  taken        : Nat
  dropped      : Nat
  steps        : Nat
  stepCounter  : Nat
  evalCount    : Nat
  evalBlocks   : Nat
  passActive   : Nat
  passOther    : Nat
  promotions   : Nat
  rollbacks    : Nat
  rejections   : Nat
  noTiles      : Bool
  guardTripped : Bool
  genExhausted : Bool
  lossStart    : Nat
  gainStart    : Nat
  guardStart   : Nat
  controls     : List PendingCtl
  units        : List PoolUnit
  base         : List Byte
  master       : Table (Option Word)
  momentum     : Table Word
deriving DecidableEq, Repr

def SampleSt.init : SampleSt := { value := ⟨0, 0⟩, erased := false }

def ChanSt.init : ChanSt :=
  { cfg := none, pending := none, samples := .empty, windows := [], dlSeq := 0, recep := [], acks := [], nextId := 0, lastPeaks := [], late := 0,
    netidMismatch := 0, overflow := 0, hdrFail := 0 }

def EndCtx.init : EndCtx :=
  { bound := false, addr := 0, channel := 0, heard := false, ulFcnt := 0, dlFcnt := 0, freq := 0, drift := 0, corr := 0,
    rssi := 0, snr := 0, item := none }

def Sweep.init : Sweep := { chans := .empty, ctxs := .empty }

/-- Every reset leaves a set OFF with an empty store (05 R143). -/
def AdaptSet.init : AdaptSet :=
  { cfg := none, pendingCfg := none, state := .off, store := List.replicate 8 none, active := none, previous := none,
    candidate := none, nextGen := 0, arrivals := 0, fill := 0, ringPos := 0, taken := 0, dropped := 0, steps := 0,
    stepCounter := 0, evalCount := 0, evalBlocks := 0, passActive := 0, passOther := 0, promotions := 0, rollbacks := 0,
    rejections := 0, noTiles := false, guardTripped := false, genExhausted := false, lossStart := 0, gainStart := 0, guardStart := 0,
    controls := [], units := [], base := [], master := .empty, momentum := .empty }

end Sys2Proof
end

