-- ==== Sys2Proof/Config.lean ====
section
/-! DEFINITION. What the manual leaves open, and the cryptographic functions it takes from other standards: constants
with no body, so that nothing proved about the machine rests on a value of theirs (cryptography: log 2). -/
namespace Sys2Proof.Config

/-- The n-th free value a run draws, its bits cut to the width needed (DESIGN CHOICE, log 1). -/
opaque freeValue : Nat → Nat

/-- The code that a write stream stores of an element that the MOUT's path formed in another format: codes of the two formats, the code (log 116). -/
opaque mixedCode : Nat → Nat → Nat → Nat

/-- What a weight buffer holds that a resumed task's progress record does not name: buffer, element (06 R167, log 114). -/
opaque lostWeight : Nat → Nat → Nat

/-- A byte read under another key than the one it was written under (13 R307): unit bytes, address, key written, key read (log 8). -/
opaque staleByte : List Byte → Nat → Nat → Nat → Byte

/-- SHA-256 of a byte string (FIPS 180-4), 18 R390. -/
opaque sha256 : List Byte → List Byte

/-- Does an RSASSA-PSS signature verify: modulus, message, signature (18 R390)? -/
opaque rsaVerify : List Byte → List Byte → List Byte → Bool

/-- Does an ML-DSA-65 signature verify: public key, message, signature (18 R390)? -/
opaque mldsaVerify : List Byte → List Byte → List Byte → Bool

/-- RSA signature by the device key (18 R394). -/
opaque deviceSign : List Byte → List Byte

/-- The device modulus and the Aqmor certificate held in fuses (18 R394, R400). -/
opaque deviceModulus : List Byte

/-- Aqmor's device-certification public key (18 R394). -/
opaque certificationKey : List Byte

/-- The octets that a link's sides sign, of this side's random value and the far side's: their order is not stated (18 R401, log 68). -/
opaque bothRandoms : List Byte → List Byte → List Byte
opaque deviceCertificate : List Byte

/-- RSAES-OAEP unwrap under the device key, `none` where it fails (18 R390, R397). -/
opaque unwrap : List Byte → Option (List Byte)

/-- RSAES-OAEP wrap to a modulus (18 R390). -/
opaque wrap : List Byte → List Byte → List Byte

/-- AES-256-GCM: key, IV, additional data, text; opening gives `none` where the tag fails. -/
opaque gcmSeal : List Byte → List Byte → List Byte → List Byte → List Byte
opaque gcmOpen : List Byte → List Byte → List Byte → List Byte → Option (List Byte)

/-- The sealing key of a purpose byte, from the device secret by HKDF-SHA-256 (18 R395). -/
opaque sealKey : Nat → List Byte

/-- The CAK of CPn, from the device secret by HKDF-SHA-256 with info "QZC8100 cak" and one byte n (23 R490). -/
opaque cak : Nat → List Byte

/-! ## Adaptation: what the layout of a version's weights and of the training area, which the manual does not give, decides (log 8, log 111) -/

/-- Weight `i` of a version's bytes as FP32, and how many weights there are (05 R130). -/
opaque dequantised : List Byte → Nat → Word
opaque weightCount : List Byte → Nat

/-- The gradient that a step's batch gives a weight: the version training began from and the masters changed since, the records, their estimator
labels, the decoder's iterations (05 R130). -/
opaque gradient : List Byte × List (Nat × Word) → List (List Byte) → List (List (Rat × Rat)) → Nat → Nat → Word

/-- The weights of each output channel, and those that are scales of S (05 R131). -/
opaque channels : List Byte → List (List Nat)
opaque scaleIndices : List Byte → List Nat

/-- The entry of S of a scale that is a NaN (05 R131). -/
opaque nanScale : Int

/-- A version's bytes from those it began from, each channel's scale and codes, and S (05 R131). -/
opaque packWeights : List Byte → List (Word × List Byte) → List Byte → List Byte

/-- The bytes of an entry of the version store, and of the training area from the masters, the momentum and the gradients (05 R123). -/
opaque storedVersion : List Byte → List Byte
opaque trainingArea : List Byte × List (Nat × Word) → List (Nat × Word) → List Byte

/-- What a weight bundle holds: message, modulus and RSA signature; ML-DSA key and signature; the version with its number and shape (05 R139). -/
opaque weightBundle : List Byte → (List Byte × List Byte × List Byte) × (List Byte × List Byte) × List Byte

/-- The coded bits of a PUSCH's UCI (TS 38.212; 05 R126, log 88). -/
opaque uciCoded : Pusch → List Bool → List Bool

/-- The exponential average of c with its 100 s time constant (20 R440): the average so far, c since then, and for how long (log 8). -/
opaque expAverage : Int → Int → Nat → Int

/-- c after a SyncE measurement in HARD mode (20 R440): c before, the offset measured (log 8). -/
opaque synceUpdate : Int → Int → Int

/-- The network port that carries a cell's or channel's downlink fronthaul messages (cells 0–7, channels 8–11): no record names it (DESIGN CHOICE, log 38). -/
opaque fronthaulPort : Nat → Nat

/-- The digest word of an output frame whose R352-excluded fields are zeros (16 R364; log 9). -/
opaque frameDigest : TxFrame → Nat

/-- The expected signature of a self-test segment, which a firmware bundle carries at a place that no rule gives (17 R376, log 70). -/
opaque segmentSig : List Byte → Nat → BitVec 32

/-- The digest word of a job's COMPLETE: the job and what the message holds (16 R364; log 9). -/
opaque completeDigest : Word → List Nat → Nat

/-! ## Tables and functions of other standards that the chapters name and do not repeat (log 88) -/

/-- The edges of a check row of a base graph for a set of lifting sizes, column and shift (TS 38.212, Tables 5.3.2-2, 5.3.2-3). -/
opaque baseGraph : Nat → Nat → Nat → List (Nat × Nat)

/-- The order in which a decoder bank takes the layers of a base graph (02 R48; log 89). -/
opaque layerOrder : Nat → List Nat

/-- What a decoder bank keeps of a belief outside its range (02 R48; log 89). -/
opaque beliefLimit : Int → Int

/-- The small-block code word of a payload of k bits (TS 38.212, clause 5.3.3.3). -/
opaque smallBlock : Nat → Nat → List Bool

/-- TBS_LBRM of TS 38.212, clause 5.4.2.1, for a carrier's PRBs and layers. -/
opaque tbsLbrm : Nat → Nat → Nat

/-- Which of a PUSCH's coded bits carry what under the UCI-on-PUSCH mapping of TS 38.212: 0 data, 1 HARQ-ACK, 2 CSI part 1, 3 CSI part 2. -/
opaque uciPlan : Pusch → Nat → List Nat

/-- Polar decoding with a list size of k bits from LLRs: does the CRC check, and the bits (TS 38.212; 02 R51). -/
opaque polarDecode : Nat → Nat → List Int → Bool × List Bool

/-- Polar encoding with rate matching to E bits (TS 38.212; 03 R76, R77). -/
opaque polarEncode : Nat → List Bool → List Bool

/-- The low-PAPR reference value of a DMRS RE under transform precoding (TS 38.211): record, slot in the frame, symbol, subcarrier; Q1.15. -/
opaque lowPapr : Pusch → Nat → Nat → Nat → Int × Int

/-- The values that a PUCCH of format 0 or 1 with a payload has over its REs (TS 38.211), Q1.15, and the symbols of its DMRS in formats 2 to 4. -/
opaque pucchSequence : Pucch → Nat → List (Int × Int)
opaque pucchDmrs : Pucch → Nat

/-! ## Receiver nets (02 R39, R40; 04 R100): functions of their weights and inputs that the manual does not give (log 90) -/

/-- The estimation net: weights, the tensor [3, 14, 72], its block exponent; 14 × 48 channel estimates and 4 noise variances. -/
opaque estNet : List Byte → List Int → Nat → List Word × List Half

/-- A stage of the detection net: weights, stage, matched-filter product, Gram product, noise variances, erasure bits, what the stage
before gave; layer symbols and error variances. -/
opaque detStage : List Byte → Nat → List (Int × Int) × List (Int × Int) → List Half × List Bool → List Word × List Half → List Word × List Half

/-- The demapping net: weights, bits a symbol, layer symbols, error variances; LLRs. -/
opaque demapNet : List Byte → Nat → List Word → List Half → List Byte

/-- The estimation net in single-layer form for an SRS port: weights (none for the classical receiver), record, port, the extracted REs; one
estimate for each PRB and stream. -/
opaque srsNet : Option (List Byte) → Srs → Nat → List Word → List Word

/-- The scaling table S inside a version's bytes. -/
opaque tableOf : List Byte → List Byte

/-- The preambles that the CSP finds in the REs of a PRACH occasion (02 R52). -/
opaque prachDetect : Prach → List Word → List Preamble

/-! ## Precision that the manual leaves open (log 91) -/

/-- The integer that a step of the radio arithmetic takes for a quotient: the step, numerator, denominator. -/
opaque rounded : Nat → Int → Nat → Int

/-- The BF16 value that a step takes for a quotient. -/
opaque bfRounded : Nat → Int → Nat → Half

/-- The inverse DFT of a symbol's values on the vector engine (02 R42). -/
opaque inverseDft : List Word → List Word

/-- The DFT of a symbol's values in the grid engine (05 R126). -/
opaque forwardDft : List Word → List Word

/-- The classical detector's noise estimate of a PRB from its LS values and the interpolated ones at the same REs (02 R61). -/
opaque noiseOf : List (Int × Int) → List (Int × Int) → Half

/-- The HBM region of a user's SRS estimates, which the user context names: its address (02 R53; log 92). -/
opaque srsRegion : Nat → Nat

/-- What a byte of radio buffers belongs to, if to a grid, an LLR queue or a staged HARQ buffer of a slot in progress (02 R38; log 99). -/
opaque bufferPlace : Nat → Option BufferItem

/-- A byte of a user context and of an endpoint context as its items give it, and the context after a byte of it has been written (02 R38, 04
R109; log 99). -/
opaque userByte : UserCtx → Nat → Byte
opaque userPut : UserCtx → Nat → Byte → Option UserCtx
opaque endByte : EndCtx → Nat → Byte
opaque endPut : EndCtx → Nat → Byte → Option EndCtx

/-! ## Sweep link (log 42, log 90, log 103) -/

/-- A sample at a fraction, in 1/256, after the eighth of 16 held samples (04 R101). -/
opaque fractional : List Word → Nat → Word

/-- Maximum-ratio combining weights of the streams, 15 fraction bits: from their peak values, and tracked from a decided symbol's peak (04 R103). -/
opaque mrcWeights : List (Int × Int) → List (Int × Int)
opaque mrcTrack : List (Int × Int) → List (Int × Int) → List (Int × Int)

/-- The detector's input in Q1.15 from an order's combined bins, and the noise floor of a window's powers in BF16 (04 R100). -/
opaque peakTensor : Nat → List (Int × Int) → List Half
opaque noiseFloor : List Nat → Half

/-- The learned detector: weights, tensor, noise floor. In search mode a presence decision and a fraction of a bin in 1/256 for each peak; in
symbol mode a score for each peak and the rest score (04 R100). -/
opaque sweepSearch : List Byte → List Half → Half → List (Bool × Int)
opaque sweepSymbol : List Byte → List Half → Half → List Byte × Byte

/-- The step factor q and the shift h that the equaliser program forms of an error, nrm and mu_shift (04 R106, 10 R230). -/
opaque stepFactor : Word → Int → Nat → Word × BitVec 6

/-- What is tracked over a reception: Δf in 1/16 Hz from bandwidth and order, the offset at its start in 1/512 bins and its peaks; D in 0.01 ppm
from the same; RSSI and SNR (04 R111, R116). -/
opaque freqTrack : Nat × Nat × Int → List (Int × Int) → Int
opaque driftTrack : Nat × Nat × Int → List (Int × Int) → Int
opaque rssiOf : Nat × Nat × Int → List (Int × Int) → Half
opaque snrOf : Nat × Nat × Int → List (Int × Int) → Half

/-! ## Downlink (log 88, log 100) -/

/-- The REGs of a PDCCH's CCEs in mapping order, symbol and PRB, with the shift index of the cell (TS 38.211; 03 R76). -/
opaque coresetRegs : Pdcch → Nat → List (Nat × Nat)

/-- The initial value of a PDCCH's scrambling (TS 38.211; 03 R76). -/
opaque pdcchInit : Pdcch → Nat

/-- The REs of a CSI-RS and their values for a slot of the frame: port, symbol, subcarrier, value in Q1.15 at unit power (TS 38.211; 03 R78). -/
opaque csirsRes : CsiRs → Nat → List ((Nat × Nat) × Nat × Int × Int)

/-- The PBCH payload of MIB bits, SFN, half-frame bit, SSB index and k_ssb, before its CRC (TS 38.212; 03 R77). -/
opaque pbchPayload : Nat → Nat → Bool → Nat → Nat → List Bool

/-- The channel that a precoding group takes from the estimates of its PRBs (03 R73). -/
opaque groupChannel : List Word → Word

/-- What the bytes at the address of a CSP program image hold: the manual does not give its layout (log 101). -/
opaque cspImage : List Byte → List Dword × List (BitVec 4 × Fin 1024)

/-- The slot, counted from the start of the frame it lies in, that a cycle table entry builds downlink for: no field of it says so (log 95). -/
opaque downlinkSlot : CycEntry → Option Nat

end Sys2Proof.Config
end

