-- ==== Sys2Proof/Machine/Arith.lean ====
section
/-! DEFINITION. Small arithmetic helpers of the manual's pseudocode: clamp, rhu, saturation, sign extension, byte order. -/
namespace Sys2Proof

/-- `v` limited to [lo, hi] (the manual's `clamp`). -/
def clampInt (lo hi v : Int) : Int := max lo (min hi v)

/-- Ceiling of a quotient of naturals. -/
def ceilDiv (a b : Nat) : Nat := (a + b - 1) / b

/-- `rhu`: round half up of a quotient with a positive divisor (07 R169 usage; floor of x + 1/2). -/
def rhuDiv (a : Int) (b : Nat) : Int := Int.fdiv (2 * a + b) (2 * b)

/-- Is an address or count a multiple of `k`? -/
def aligned (k n : Nat) : Bool := n % k == 0

/-- Signed saturation to `w` bits, as an integer. -/
def satInt (w : Nat) (v : Int) : Int := clampInt (-(2 ^ (w - 1) : Int)) (2 ^ (w - 1) - 1) v

/-- Little-endian value of a byte list (00 R6). -/
def leNat : List Byte → Nat
  | [] => 0
  | b :: r => b.toNat + 256 * leNat r

/-- The `n` little-endian bytes of a value (00 R6). -/
def leBytes : Nat → Nat → List Byte
  | 0, _ => []
  | n + 1, v => BitVec.ofNat 8 v :: leBytes n (v / 256)

/-- The sign-extended value of the low `w` bits of a natural. -/
def signedOf (w v : Nat) : Int := (BitVec.ofNat w v).toInt

/-- Replace element `i` of a list, if there is one. -/
def setAt {α : Type} (l : List α) (i : Nat) (v : α) : List α := l.set i v

/-- Change element `i` of a list, if there is one. -/
def modAt {α : Type} (l : List α) (i : Nat) (f : α → α) : List α := l.modify i f

/-- The naturals below `n`, rising. -/
def upTo (n : Nat) : List Nat := List.range n

end Sys2Proof
end

