-- ==== Sys2Proof/Machine/Codes.lean ====
section
/-! DEFINITION. Result, event and fault codes: the high byte names the block (24 R508), the low byte is that of 24 R509 or of
the chapter that defines the code. -/
namespace Sys2Proof.Machine.Code

/-! QCP results and DEV codes (19 Table 10, 24 Table 5). -/
def ok : Half := 0x0000
def addrUnmapped : Half := 0x0101
def cfgRange : Half := 0x0102
def cfgCapacity : Half := 0x0103
def badState : Half := 0x0901
def roleDenied : Half := 0x0902
def msgRange : Half := 0x0903
def unknownType : Half := 0x0904
def versionMismatch : Half := 0x0905
def sessionFull : Half := 0x0906
def fwVersion : Half := 0x0910

/-! SEC (18 R409). -/
def authFail : Half := 0x0801
def secRollback : Half := 0x0802
def secFuseFail : Half := 0x0803
def secSlotFull : Half := 0x0804
def secBootFail : Half := 0x0805
def secStepping : Half := 0x0806

/-! SCH, RAD, MEM, NET, OBD, EVR, SAF (24 Table 5; 14, 15, 17). -/
def admitRange : Half := 0x0A10
def admitDomain : Half := 0x0A11
def admitCycle : Half := 0x0A12
def admitSem : Half := 0x0A13
def admitCredit : Half := 0x0A14
def admitFull : Half := 0x0A15
def batchKvFull : Half := 0x0A16
def schSemClaim : Half := 0x0A01
def schPeer : Half := 0x0A02
def cfgSlotRange : Half := 0x0F01
def ulLate : Half := 0x0F02
def versionDup : Half := 0x0F10
def versionUnknown : Half := 0x0F11
def adaptPromote : Half := 0x0F20
def adaptReject : Half := 0x0F21
def adaptRollback : Half := 0x0F22
def adaptFreeze : Half := 0x0F23
def adaptState : Half := 0x0F24
def adaptGuard : Half := 0x0F25
def memUnequal : Half := 0x1201
def memUeEvent : Half := 0x1202
def capFull : Half := 0x1510
def replayMismatch : Half := 0x1511
def replayBusy : Half := 0x1512
def obAuth : Half := 0x1404
def arrayTimeLost : Half := 0x1405
def evrLost : Half := 0x0701
def safState : Half := 0x1610
def safDisagree : Half := 0x1611
def safRecovered : Half := 0x1612
def safWithheld : Half := 0x1613
def safTileOut : Half := 0x1614
def safCoverage : Half := 0x1615
def safStestFail : Half := 0x1616
def safLaneSafe : Half := 0x1617

/-- FW_FAULT under the high byte of the trapping core's block (19 R411). -/
def fwFault (block : Nat) : Half := BitVec.ofNat 16 (block * 256 + 0xF0)

/-! TIL (11 Table 15, 12 Table 14, 13 Table 5, 24 Table 5). -/
def tileBadState : Half := 0x0C80
def spDenied : Half := 0x0C81
def sluiceRevoked : Half := 0x0C82
def spScrubUe : Half := 0x0C83

/-- A task fault of the TIL block by its low byte. -/
def til (low : Nat) : Half := BitVec.ofNat 16 (0x0C00 + low)

/-- A CSP fault by its low byte. -/
def csp (low : Nat) : Half := BitVec.ofNat 16 (0x0E00 + low)

end Sys2Proof.Machine.Code
end

