-- ==== Sys2Proof/Store/Csp.lean ====
section
/-! DEFINITION. A cluster signal processor's state (10). -/
namespace Sys2Proof

/-- An accumulator: two int40 parts (10 Table 1). -/
structure CspAcc where
  re : BitVec 40
  im : BitVec 40
deriving DecidableEq, Repr

/-- The status register's fields sat, ie, lpen, level (10 R219). -/
structure CspStatus where
  sat   : Bool
  ie    : Bool
  lpen  : Bool
  level : BitVec 2
deriving DecidableEq, Repr

/-- A deferred write: the cycles until it is due in slot B, its address, its bytes, whether the bundle now in issue made it
(10 R229, R230). -/
structure CspDefer where
  due   : Nat
  addr  : BitVec 18
  bytes : List Byte
  own   : Bool
deriving DecidableEq, Repr

/-- External accesses (10 R223, R224): those that wait with the cycles each has waited, whether one takes slot B of the next cycle, the writes
served since the bundle in issue began, what served accesses have answered, and the data words with a correctable or an uncorrectable error. -/
structure CspExt where
  waiting : List (CspAccess × Nat)
  stolen  : Bool
  written : List (Nat × List Byte)
  answers : List (Bool × Nat)
  weak    : List Nat
  bad     : List Nat
deriving DecidableEq, Repr

/-- What a bundle can change: registers, data memory, deferred writes, a repeat and a wait in progress. -/
structure CspCore where
  d     : Table Word
  i     : Table (BitVec 18)
  m     : Table (BitVec 18)
  acc   : Table CspAcc
  lc0   : Word
  ls0   : BitVec 12
  le0   : BitVec 12
  lc1   : Word
  ls1   : BitVec 12
  le1   : BitVec 12
  depth : BitVec 2
  pc    : BitVec 12
  st    : CspStatus
  lr    : BitVec 12
  epc1  : BitVec 12
  est1  : CspStatus
  epc2  : BitVec 12
  est2  : CspStatus
  dmem  : Table Byte
  defers : List CspDefer
  /-- A repeat that RPT set up for the next bundle: its count and clr. -/
  rpt   : Option (Nat × Bool)
  /-- The iterations of the running bundle's repeat that are still to come. -/
  rep   : Option (Nat × CspRep)
  /-- Is a bundle issued and not ended, are its M-slot and X-slot filled, does it repeat, how many memory slots has it taken in
  this cycle, where does a taken branch of it go, and behind which bundle does a loop that is skipped end? -/
  busy  : Bool
  mUsed : Bool
  xUsed : Bool
  repeats : Bool
  slots : Nat
  target : Option (BitVec 12)
  skip  : Option (BitVec 12)
  /-- The signal that its SIG gives when it ends. -/
  signal : Option (BitVec 4)
  /-- The event mask a WAIT stalls for. -/
  waiting : Option Byte
  ext   : CspExt
deriving DecidableEq, Repr

/-- CSP_STAT.state (10 Table 8). -/
inductive CspState where | empty | loaded | running | stopped | faulted | zeroising
deriving DecidableEq, Repr

/-- A CSP. `atIssue` is its core as it stood before the running bundle: operands are read there (R220), and a fault goes
back to it (R238). -/
structure Csp where
  state    : CspState
  domain   : Option Domain
  fault    : Option CspFault
  stopPc   : BitVec 12
  prog     : Table Dword
  signals  : List (BitVec 4 × Fin 1024)
  badBundles : List Nat
  core     : CspCore
  atIssue  : CspCore
  pending  : BitVec 8
  rptMax   : Half
  irqLevel : BitVec 8
  run      : Bool
  ecc      : Nat
  mailbox  : Option (BitVec 4)
  /-- Signals of ended bundles that have not yet gone out. -/
  signalled : List (BitVec 4)
  /-- The program that the control core loads again after a fault (10 R238). -/
  again    : Option (Table Dword × List (BitVec 4 × Fin 1024))
deriving DecidableEq, Repr

def CspAcc.init : CspAcc := { re := 0, im := 0 }

def CspExt.init : CspExt := { waiting := [], stolen := false, written := [], answers := [], weak := [], bad := [] }

def CspStatus.init : CspStatus := { sat := false, ie := false, lpen := false, level := 0 }

/-- Zeroised registers and data memory (10 R237). -/
def CspCore.init : CspCore :=
  { d := .empty, i := .empty, m := .empty, acc := .empty, lc0 := 0, ls0 := 0, le0 := 0, lc1 := 0, ls1 := 0, le1 := 0,
    depth := 0, pc := 0, st := CspStatus.init, lr := 0, epc1 := 0, est1 := CspStatus.init, epc2 := 0,
    est2 := CspStatus.init, dmem := .empty, defers := [], rpt := none, rep := none, busy := false, mUsed := false, xUsed := false,
    repeats := false, slots := 0, target := none, skip := none, signal := none, waiting := none, ext := CspExt.init }

/-- CSP_CTL's reset values and an empty CSP (10 Tables 7, 8). -/
def Csp.init : Csp :=
  { state := .empty, domain := none, fault := none, stopPc := 0, prog := .empty, signals := [], badBundles := [], core := CspCore.init,
    atIssue := CspCore.init, pending := 0, rptMax := 0xFFFF, irqLevel := 0, run := false, ecc := 0, mailbox := none, signalled := [],
    again := none }

end Sys2Proof
end

