-- ==== Sys2Proof/Store/Host.lean ====
section
/-! DEFINITION. QCP state, firmware state, the log ring (19) and the time unit (20). -/
namespace Sys2Proof

/-- QCP device states (19 R412, Table 2). -/
inductive DevState where | anchor | berm | loaded | started | running | faulted
deriving DecidableEq, Repr

/-- A session of the session table (19 R420): its binding, role, nonce, last accepted seq and cached replies (R418). -/
structure Session where
  port    : Fin 2
  addr    : BitVec 128
  udp     : Half
  role    : Role
  nonce   : List Byte
  lastSeq : Option Word
  cache   : List QcpReply
  idleNs  : Nat
  nextSeq : Word
deriving DecidableEq, Repr

/-- A notification waiting for its acknowledgement (19 R424). -/
structure Notice where
  session : Nat
  seq     : Word
  type    : Half
  body    : ReplyBody
  sends   : Nat
  sentNs  : Nat
deriving DecidableEq, Repr

/-- The log ring (19 R427). -/
structure LogRing where
  base    : Nat
  records : Nat
  level   : Nat
  write   : Nat
deriving DecidableEq, Repr

/-- The firmware bundle in force (18 R392): its version, security version, measurement, and the SHA-256 of each image. -/
structure Bundle where
  major    : Nat
  minor    : Nat
  security : Nat
  measure  : List Byte
  images   : List (List Byte)
  segSigs  : List Word
deriving DecidableEq, Repr

/-- QCP, mailbox and firmware state (19). `faultedCore` is MBX_STATE.faulted_core, `secFault` says the security core has trapped;
`bermPending`: berm service waits for LOCKED; `takeover`: the scheduler core takes its cell over at the next frame boundary. -/
structure HostPort where
  state     : DevState
  berm      : Bool
  faultedCore : Nat
  secFault  : Bool
  fwMajor   : Byte
  fwMinor   : Byte
  drop      : Nat
  notifyLost : Nat
  sessions  : Table (Option Session)
  roleKeys  : List (List Byte × Role)
  notices   : List Notice
  done      : List (Word × ReplyBody)
  bundle    : Option Bundle
  coresHalted : Bool
  log       : Option LogRing
  trace     : BitVec 256
  bermPending : Bool
  takeover  : Bool
deriving DecidableEq, Repr

/-- Clock states (20 R445). -/
inductive ClockState where | free | acquire | locked | holdover
deriving DecidableEq, Repr

/-- A pulse output (20 R449, Table 6). `next` is the device time, in ns, of the next edge of an armed output, `until'` that of
the end of the pulse in progress. -/
structure Pps where
  sec      : Nat
  ns       : Nat
  period   : Nat
  width    : Nat
  unit256  : Bool
  polarity : Bool
  mode     : Nat
  missed   : Bool
  armed    : Bool
  high     : Bool
  next     : Nat
  until'   : Nat
deriving DecidableEq, Repr

/-- An entry of the transmit timestamp queue (20 R442). -/
structure Txts where
  ident : Half
  port  : Nat
  sec   : Nat
  ns    : Nat
  frac  : Nat
deriving DecidableEq, Repr

/-- The time unit (20 R436–R451). `now` is device time in units of 2^−40 ns; corrections are in 2^−16 ns, a slew
that is left in units of `now`; `avgAt` is when the average of c was last brought up to date, `heldNs` when HOLDOVER began. -/
structure TimeUnit where
  now       : Nat
  latch     : Nat
  mode      : Nat
  source    : Nat
  refFreq   : Nat
  freqRef   : Nat
  domain    : Nat
  synEn     : Bool
  oneStep   : Bool
  nextMode  : Option Nat
  state     : ClockState
  leveeFlag : Bool
  txtsOvf   : Bool
  synSat    : Bool
  refLost   : Bool
  goodWins  : Nat
  clockClass : Nat
  levee     : Nat
  ki        : Nat
  slewMax   : Nat
  incr      : Nat
  c         : Int
  cAvg      : Int
  fcwWidth  : Nat
  prefixLen : Nat
  div       : Nat
  prefixVal : Nat
  gain      : Nat
  last      : Nat
  meas      : Int
  holdLimit : Nat
  pps       : List Pps
  queue     : List Txts
  txHi      : Nat
  txDropped : Nat
  delays    : Table (Half × Half)
  slew      : Int
  okRun     : Nat
  lastTheta : Option Nat
  avgAt     : Nat
  heldNs    : Nat
deriving DecidableEq, Repr

def Pps.init : Pps :=
  { sec := 0, ns := 0, period := 0, width := 0, unit256 := false, polarity := false, mode := 0, missed := false,
    armed := false, high := false, next := 0, until' := 0 }

/-- The TIM block's reset values (20 Table 6). -/
def TimeUnit.init : TimeUnit :=
  { now := 0, latch := 0, mode := 0, source := 15, refFreq := 0, freqRef := 15, domain := 24, synEn := false,
    oneStep := false, nextMode := none, state := .free, leveeFlag := false, txtsOvf := false, synSat := false,
    refLost := false, goodWins := 0, clockClass := 248, levee := 1000, ki := 0x400, slewMax := 100, incr := 0x1046AAAAAAB,
    c := 0, cAvg := 0, fcwWidth := 24, prefixLen := 0, div := 24, prefixVal := 0, gain := 0, last := 0, meas := 0,
    holdLimit := 14400, pps := List.replicate 4 Pps.init, queue := [], txHi := 0, txDropped := 0, delays := .empty,
    slew := 0, okRun := 0, lastTheta := none, avgAt := 0, heldNs := 0 }

/-- The MBX registers' reset values (19 Table 10): state ANCHOR, major 1 of the ROM. -/
def HostPort.init : HostPort :=
  { state := .anchor, berm := false, faultedCore := 0, secFault := false, fwMajor := 1, fwMinor := 0, drop := 0, notifyLost := 0,
    sessions := .empty, roleKeys := [], notices := [], done := [], bundle := none, coresHalted := true, log := none,
    trace := 0, bermPending := false, takeover := false }

def Recorder.init : Recorder := { count := 0, dropped := 0, lostSince := 0, queue := [], records := .empty }

end Sys2Proof
end

