-- ==== Sys2Proof/Store/Memory.lean ====
section
/-! DEFINITION. External memory, the weight cache, clusters and their caches (13, 09 R214, 24 R513, R518, R519). -/
namespace Sys2Proof

/-- External memory (13 R304–R307). `bytes` holds plaintext as the key it was written under shows it; `unitKey` is the key
each 64-byte unit was last written under (0: never written); `bad` lists the units that hold an uncorrectable error; `modules`
what each DDR5 channel reported at training. -/
structure ExtMem where
  bytes     : Table Byte
  unitKey   : Table Nat
  bad       : List Nat
  modules   : Table (Option Training)
  ddrGib    : Nat
  ddrTrained : Byte
  unequal   : Bool
  hbmTrained : BitVec 2
  ddrRate   : Nat
  dpc       : Nat
  hot       : Byte
  hbmHot    : BitVec 2
  eccCorr   : Table Nat
  eccUncorr : Table Nat
  patrolSec : Nat
  patrolOn  : Bool
deriving DecidableEq, Repr

/-- A weight-cache line: the domain that filled it and its last use (13 R301). -/
structure WcLine where
  domain : Domain
  used   : Nat
deriving DecidableEq, Repr

/-- The device weight cache and the STR counters (13 R301, 24 R519). Lines are keyed by address / 1,024; `inflight` lists
the lines being fetched with the domain they are fetched for. -/
structure WeightCache where
  lines      : Table (Option WcLine)
  inflight   : List (Nat × Domain)
  hit        : Nat
  miss       : Nat
  merged     : Nat
  domainMiss : Nat
  decryptFail : Nat
deriving DecidableEq, Repr

/-- A cluster-cache page: owner job, domain, class; LOCKED until its zeroisation (13 R303). -/
structure Page where
  job    : Word
  domain : Domain
  cls    : JobClass
  spill  : Bool
  locked : Bool
deriving DecidableEq, Repr

/-- A pooling descriptor with the task it came from; `stopped` where that task faulted or was killed while it ran
(09 R214, R217). -/
structure PoolJob where
  ref     : TaskRef
  cls     : JobClass
  bytes   : List Byte
  stopped : Bool
deriving DecidableEq, Repr

/-- Cluster control core states (24 R513). -/
inductive CoreState where | halted | rom | image | faulted
deriving DecidableEq, Repr

/-- A cluster's own parts: cache bytes and pages, pooling unit, control core (13 R303, 09 R214, 24 R513). -/
structure ClusterSt where
  cache     : Table Byte
  badWords  : List Nat
  pages     : Table (Option Page)
  spillReserved : Nat
  poolQueue : List PoolJob
  poolRun   : Option PoolJob
  core      : CoreState
  reload    : Bool
deriving DecidableEq, Repr

def ExtMem.init : ExtMem :=
  { bytes := .empty, unitKey := .empty, bad := [], modules := .empty, ddrGib := 0, ddrTrained := 0, unequal := false, hbmTrained := 0,
    ddrRate := 0, dpc := 0, hot := 0, hbmHot := 0, eccCorr := .empty, eccUncorr := .empty, patrolSec := 0,
    patrolOn := true }

def WeightCache.init : WeightCache :=
  { lines := .empty, inflight := [], hit := 0, miss := 0, merged := 0, domainMiss := 0, decryptFail := 0 }

def ClusterSt.init : ClusterSt :=
  { cache := .empty, badWords := [], pages := .empty, spillReserved := 0, poolQueue := [], poolRun := none,
    core := .halted, reload := false }

end Sys2Proof
end

