-- ==== Sys2Proof/Store/System.lean ====
section
/-! DEFINITION. Array, capture and replay, assured lane, security, power, reset, network and test-port state
(15, 16, 17, 18, 21, 22, 23). -/
namespace Sys2Proof

/-- OBD_LINKn_STAT.state (15 Table 6). -/
inductive LinkState where | unused | training | admitted | down
deriving DecidableEq, Repr

/-- An Obdo link (15 R338–R340). `replay` holds the flits sent and not yet acknowledged, oldest first, each with the source tile
of its message (256 for one forwarded); `queue` those that wait for room; `tries` counts the replays of the oldest one, `recent`
gives the times of recent replays, `sinceNs` when admission began. -/
structure Link where
  random    : List Byte
  state     : LinkState
  neighbour : Nat
  replays   : Nat
  sendSeq   : Nat
  expect    : Nat
  replay    : List (Nat × Flit)
  queue     : List (Nat × Flit)
  tries     : Nat
  recent    : List (Nat × Nat)
  sinceNs   : Nat
  keyed     : Bool
deriving DecidableEq, Repr

/-- The array (15 R336–R350). `inbound` maps array job × 128 + inbound number to the tile that runs the task; `waiting`
lists credit requests to clear entries; `partials` the flits of messages that have not ended; `via` the link on which a message
being forwarded leaves, plus 1; `ivs` the 64-bit message counter of each pair and class (18 R401). -/
structure ArrayState where
  nx       : Nat
  ny       : Nat
  x        : Nat
  y        : Nat
  master   : Nat
  configured : Bool
  links    : List Link
  keys     : Bool
  inbound  : Table (Option TileId)
  waiting  : List Flit
  partials : List Flit
  via      : Table Nat
  ivs      : Table Nat
  timeLost : Bool
deriving DecidableEq, Repr

/-- Assured lane states (17 R367). -/
inductive LaneState where | off | active | degraded | safe
deriving DecidableEq, Repr

/-- The assured lane (17 R366–R381). Tile sets are 96-bit masks; `passed` lists tile and segment. -/
structure Assured where
  fttiFrames : Nat
  fttiNext   : Nat
  enable     : Bool
  enableNext : Bool
  state      : LaneState
  reasonRemoved : Bool
  reasonMissed  : Bool
  reasonFailed  : Bool
  reasonFew     : Bool
  excl       : BitVec 96
  untested   : BitVec 96
  twinBase   : Nat
  twinSize   : Nat
  countDis   : Nat
  countRec   : Nat
  countWh    : Nat
  windowEnd  : Nat
  windows    : Nat
  passed     : List (Nat × Nat)
  nextSeg    : Table Nat
  running    : Table (Option Nat)
  slice      : BitVec 96
  disagree   : List (Nat × Nat)
  twins      : List (Word × Nat × Nat)
deriving DecidableEq, Repr

/-- A region table entry (18 R384, Table 10): domain code 3 is unused. -/
structure Region where
  domain   : BitVec 2
  sealed   : Bool
  changing : Bool
  base     : Nat
  size     : Nat
deriving DecidableEq, Repr

/-- A filled key slot (18 R397): the bundle with its graph and weight chunks, where the weight area and the relocated graph lie, the
owner's key hash and modulus, the job bound to it. -/
structure KeySlot where
  bundle     : Nat
  nGraph     : Nat
  nWeight    : Nat
  ivPrefix   : List Byte
  weightArea : Nat
  region     : Nat
  graph      : Nat
  bundleId   : List Byte
  owner      : List Byte
  ownerMod   : List Byte
  ports      : List (Nat × Bool × Nat × Nat)
  job        : Option Word
  modelKey   : List Byte
deriving DecidableEq, Repr

/-- Lifecycle states (18 R403). -/
inductive Lifecycle where | opened | sealed | debug
deriving DecidableEq, Repr

/-- The trim and option fields that an L0 load reads into shadow registers (22 R472, R479): the reset source map, the berm record and
control word, the cluster voltage of the trim in mV. -/
structure Options where
  resetMap   : Table (Option (BitVec 2))
  bermRecord : Option (UlCell × DlCell)
  bermAuto   : Bool
  bermBlown  : Bool
  ptpPort    : Bool
  ptpDomain  : Byte
  trimMv     : Nat
deriving DecidableEq, Repr

/-- OTP fields a command or a rule names (18 R402, 22 R472, R479). The secrets are opaque words nothing can read. -/
structure Fuses where
  debugDisabled : Bool
  requireMldsa  : Bool
  sealBlown     : Bool
  rollback      : Nat
  opMldsa       : Option (List Byte)
  opRsa         : Option (List Byte)
  aqMldsa       : List Byte
  aqRsa         : List Byte
  serial        : Dword
  options       : Options
deriving DecidableEq, Repr

/-- The dike crossing (18 R387–R389): configuration, ring position, the counters of the period. -/
structure CrossCfg where
  ringBase : Nat
  records  : Nat
  periodMs : Nat
  kinds    : BitVec 2
  cells    : BitVec 8
  channels : BitVec 4
  minCount : Nat
deriving DecidableEq, Repr

/-- One cell's or channel's counts of the running crossing period (18 Table 2): the RNTIs or addresses seen, bits and PRBs, sums
of SINR or SNR and of RSSI, the blocks or receptions they cover, and those that failed. -/
structure CrossCount where
  seen     : List Nat
  upBits   : Nat
  downBits : Nat
  upPrbs   : Nat
  downPrbs : Nat
  quality  : Int
  rssi     : Int
  n        : Nat
  failed   : Nat
deriving DecidableEq, Repr

structure Crossing where
  cfg      : Option CrossCfg
  running  : Bool
  startNs  : Nat
  write    : Nat
  cells    : Table CrossCount
  chans    : Table CrossCount
deriving DecidableEq, Repr

/-- One of the three capture rings in external memory (16 R358): its place, the bytes and the entries written to it. -/
structure Ring where
  base  : Nat
  size  : Nat
  used  : Nat
  count : Nat
deriving DecidableEq, Repr

/-- A replay in progress (16 R362–R364): the entries left in seq order, whether device time was set, the entry delivered now, the version in force that the last
kind 4 entry of each set named, the recording's start time in units of device time, the digests and frame counts, and what the device goes back to at the end,
with its device time and clock mode. -/
structure Replay where
  left      : List CapEntry
  started   : Bool
  current   : Option CapEntry
  versions  : List (Nat × Word)
  origin    : Nat
  digest    : Nat
  frames    : Nat
  recDigest : Nat
  recFrames : Nat
  savedNow  : Nat
  savedMode : Nat
  radio     : Radio
  sweep     : Sweep
  adapt     : Table AdaptSet
  sched     : Sched
  assured   : Assured
  crossing  : Crossing
deriving DecidableEq, Repr

/-- Capture and replay (16). Rings in the order radio, inference, management; `pend` lists the entries of one moment, in the order of
their ports (16 R360). -/
structure Capture where
  rings    : List Ring
  armed    : Option AbsSlot
  on       : Bool
  stopping : Bool
  full     : Bool
  seq      : Nat
  digest   : Nat
  frames   : Nat
  pend     : List CapEntry
  replay   : Option Replay
  lastReplay : Option (Nat × Nat × Nat × Nat)
deriving DecidableEq, Repr

/-- A MODEL_LOAD in progress, with the request to answer; a reset leaves none (19 R425). -/
structure ModelLoad where
  slot   : Nat
  region : Nat
  hdr    : Option QcpHdr
  filled : KeySlot
deriving DecidableEq, Repr

/-- A region change that still zeroises, with the request to answer. -/
structure RegionChange where
  index : Nat
  hdr   : Option QcpHdr
deriving DecidableEq, Repr

/-- The security core (18). -/
structure Security where
  lifecycle : Lifecycle
  fuses     : Fuses
  regions   : Table Region
  slots     : Table (Option KeySlot)
  keyGen    : Nat
  challenge : Option (List Byte)
  loading   : Option ModelLoad
  changes   : List RegionChange
  crossing  : Crossing
  debugOpen : Bool
  bermRegion : Option Nat
deriving DecidableEq, Repr

/-- Power states of a domain (21 R453). -/
inductive PowerSt where | off | retain | on | waking
deriving DecidableEq, Repr

/-- A cluster's supply and ageing (21 R463–R466). -/
structure Ageing where
  vdd      : Nat
  vreq     : Nat
  stepped  : Bool
  stepNext : Bool
  stepFrame : Nat
deriving DecidableEq, Repr

/-- The power core (21). `hotSince` and `driftSince` are the arithmetic-clock cycles since which Tj is at 115 °C or more, and away from its value
at the last plan by TEMP_DELTA or more. -/
structure Power where
  domains     : Table PowerSt
  offAfter    : Nat
  retainAfter : Nat
  cap         : Nat
  est         : Nat
  tj          : Int
  level       : Nat
  duty        : Nat
  dutyTherm   : Nat
  tHot        : Nat
  tCrit       : Nat
  guardMv     : Nat
  tempDelta   : Nat
  lastPlan    : Nat
  planTj      : Int
  fresh       : Bool
  ages        : Table Ageing
  cluLock     : BitVec 12
  refclkOk    : Bool
  radioLock   : Bool
  devLock     : Bool
  xtalOk      : Bool
  stby        : Bool
  pwrgd       : Bool
  thermLow    : Bool
  cpRole      : BitVec 2
  hotSince    : Option Nat
  driftSince  : Option Nat
deriving DecidableEq, Repr

/-- The reset controller (22). `assertCycle` is the arithmetic-clock cycle of the last
reset's assertion, `shadow` what the last L0 load applied. -/
structure ResetCtl where
  source   : Nat
  level    : Level
  merged   : Bool
  detail   : Half
  phase    : Nat
  trimFail : Bool
  loads    : Nat
  thermalHold : Bool
  refclkWait  : Bool
  held     : List Nat
  heldRadio : Bool
  heldDevice : Bool
  pinLow   : Bool
  schEn    : Bool
  schPeriod : Nat
  schKick  : Nat
  secKick  : Nat
  assertCycle : Nat
  shadow   : Options
deriving DecidableEq, Repr

/-- A message being reassembled (23 R489). -/
structure Reasm where
  seq    : Word
  type   : Byte
  length : Nat
  got    : List Byte
deriving DecidableEq, Repr

/-- A network or command port (23 R485–R491, 24 R520). Peers and reassembly are per EtherType: 0 transport block, 1
inference. -/
structure Port where
  up        : Bool
  fecLock   : Bool
  mode      : Nat
  macsec    : Bool
  unclassified : Nat
  dropDomain : Nat
  noPeer    : Nat
  reasmDrop : Nat
  dropReplay : Nat
  fecCorr   : Nat
  fecUncorr : Nat
  peerTb    : Option (List Byte)
  peerInf   : Option (List Byte)
  /-- The number of the next Aqmor message sent, per EtherType (23 Table 3). -/
  seqTb     : Word
  seqInf    : Word
  reasmTb   : Option Reasm
  reasmInf  : Option Reasm
deriving DecidableEq, Repr

structure Net where
  ports    : Table Port
  pairMode : Table Nat
  lastInf  : Option Nat
deriving DecidableEq, Repr

/-- The test access port (23 R499): the selected instruction code and what the data register last captured. -/
structure TestPort where
  code     : Byte
  captured : Nat
deriving DecidableEq, Repr

def Link.init : Link :=
  { random := [], state := .unused, neighbour := 0, replays := 0, sendSeq := 0, expect := 0, replay := [], queue := [],
    tries := 0, recent := [], sinceNs := 0, keyed := false }

def ArrayState.init : ArrayState :=
  { nx := 1, ny := 1, x := 0, y := 0, master := 0, configured := false,
    links := List.replicate 4 Link.init, keys := false, inbound := .empty, waiting := [], partials := [],
    via := .empty, ivs := .empty, timeLost := false }

def Capture.init : Capture :=
  { rings := [], armed := none, on := false, stopping := false, full := false, seq := 0, digest := 0,
    frames := 0, pend := [], replay := none, lastReplay := none }

/-- The SAF registers' reset values (17 Table 5). -/
def Assured.init : Assured :=
  { fttiFrames := 1, fttiNext := 1, enable := false, enableNext := false, state := .off, reasonRemoved := false,
    reasonMissed := false, reasonFailed := false, reasonFew := false, excl := 0, untested := 0, twinBase := 0,
    twinSize := 0, countDis := 0, countRec := 0, countWh := 0, windowEnd := 0, windows := 0, passed := [],
    nextSeg := .empty, running := .empty, slice := 0, disagree := [], twins := [] }

def Region.init : Region := { domain := 3, sealed := false, changing := false, base := 0, size := 0 }

/-- Unblown trim and options; the trim is a DESIGN CHOICE value (log 6). -/
def Options.init : Options :=
  { resetMap := .empty, bermRecord := none, bermAuto := false, bermBlown := false, ptpPort := false, ptpDomain := 24, trimMv := 720 }

/-- Unblown fuses; hashes, serial and trim of manufacture are DESIGN CHOICE values (log 6). -/
def Fuses.init : Fuses :=
  { debugDisabled := false, requireMldsa := false, sealBlown := false, rollback := 0, opMldsa := none, opRsa := none,
    aqMldsa := List.replicate 32 0, aqRsa := List.replicate 32 0, serial := 0,
    options := Options.init }

def CrossCount.init : CrossCount := 
  { seen := [], upBits := 0, downBits := 0, upPrbs := 0, downPrbs := 0, quality := 0, rssi := 0, n := 0, failed := 0 }

def Crossing.init : Crossing := { cfg := none, running := false, startNs := 0, write := 0, cells := .empty, chans := .empty }

def Security.init : Security :=
  { lifecycle := .opened, fuses := Fuses.init, regions := .empty, slots := .empty, keyGen := 0, challenge := none,
    loading := none, changes := [], crossing := Crossing.init, debugOpen := false, bermRegion := none }

def Ageing.init : Ageing := { vdd := 720, vreq := 0, stepped := false, stepNext := false, stepFrame := 0 }

/-- The PWR and AGE registers' reset values (21 Table 7), every domain OFF. -/
def Power.init : Power :=
  { domains := .empty, offAfter := 0x01000000, retainAfter := 0x1000, cap := 320, est := 0, tj := 0, level := 0,
    duty := 0, dutyTherm := 0, tHot := 105, tCrit := 110, guardMv := 15, tempDelta := 20, lastPlan := 0, planTj := 0,
    fresh := true, ages := .empty, cluLock := 0, refclkOk := false, radioLock := false, devLock := false,
    xtalOk := false, stby := false, pwrgd := true, thermLow := false, cpRole := 0,
    hotSince := none, driftSince := none }

/-- A power-on reset writes source 0 at L0 (22 R480). -/
def ResetCtl.init : ResetCtl :=
  { source := 0, level := .l0, merged := false, detail := 0, phase := 0, trimFail := false, loads := 0,
    thermalHold := false, refclkWait := false, held := [], heldRadio := false, heldDevice := false, pinLow := false,
    schEn := false, schPeriod := 1000, schKick := 0, secKick := 0, assertCycle := 0,
    shadow := Options.init }

def Port.init : Port :=
  { up := false, fecLock := false, mode := 0, macsec := false, unclassified := 0, dropDomain := 0, noPeer := 0,
    reasmDrop := 0, dropReplay := 0, fecCorr := 0, fecUncorr := 0, peerTb := none, peerInf := none, seqTb := 0, seqInf := 0, reasmTb := none,
    reasmInf := none }

def Net.init : Net := { ports := .empty, pairMode := .empty, lastInf := none }

/-- The instruction register after test-logic reset: IDCODE is PRESUMED from IEEE 1149.1 (log 6). -/
def TestPort.init : TestPort := { code := 1, captured := 0 }

end Sys2Proof
end

