-- ==== Sys2Proof/Machine/State.lean ====
section
/-! DEFINITION. The state of the device, the reasons a step can stop, and the state right after reset. -/
namespace Sys2Proof.Machine

/-- The whole device as plain data, with the queue of commands that wait. Tables give, for a unit number, its state;
an unlisted unit is in its `init` state. `free` counts the free values drawn (the model's own field). -/
structure State where
  pending  : List Instr
  clock    : Clock
  out      : List Out
  events   : Recorder
  host     : HostPort
  time     : TimeUnit
  radio    : Radio
  sweep    : Sweep
  adapt    : Table AdaptSet
  tiles    : Table Tile
  clusters : Table ClusterSt
  csps     : Table Csp
  mem      : ExtMem
  wcache   : WeightCache
  sched    : Sched
  array    : ArrayState
  capture  : Capture
  assured  : Assured
  sec      : Security
  power    : Power
  rst      : ResetCtl
  net      : Net
  port     : TestPort
  free     : Nat
deriving DecidableEq, Repr

/-- Reasons the block stops with a fault. No command of this block ends so: what the device reports, it reports in a QCP
reply, a task fault or an event record, all of which are next states. -/
inductive Fault where
deriving DecidableEq, Repr

/-- Reasons a command has no meaning. -/
inductive Refusal where
  /-- Raised by the dispatch for a command that has no meaning yet; safe: the machine stops. -/
  | notModelled (mnemonic : String)
deriving DecidableEq, Repr

/-- The machine right after a power-on reset (22 R471, R480): every block at its reset values, no command waiting. A register without a stated value is 0 (DESIGN CHOICE, log 5). -/
def State.reset : State :=
  { pending := [], clock := { cycle := 0, radioAcc := 0 }, out := [], events := Recorder.init, host := HostPort.init,
    time := TimeUnit.init, radio := Radio.init, sweep := Sweep.init, adapt := .empty, tiles := .empty,
    clusters := .empty, csps := .empty, mem := ExtMem.init, wcache := WeightCache.init, sched := Sched.init,
    array := ArrayState.init, capture := Capture.init, assured := Assured.init, sec := Security.init,
    power := Power.init, rst := ResetCtl.init, net := Net.init, port := TestPort.init, free := 0 }

end Sys2Proof.Machine
end

