-- ==== Sys2Proof/Machine/Ops.lean ====
section
/-! DEFINITION. The named operations over the state: units by number, device time, the event recorder's queue, outputs,
free values, the address map and external memory. -/
namespace Sys2Proof.Machine

/-! ## Columns and units -/

def State.setRadio (s : State) (x : Radio) : State := { s with radio := x }
def State.setSweep (s : State) (x : Sweep) : State := { s with sweep := x }
def State.setHost (s : State) (x : HostPort) : State := { s with host := x }
def State.setTime (s : State) (x : TimeUnit) : State := { s with time := x }
def State.setMem (s : State) (x : ExtMem) : State := { s with mem := x }
def State.setWcache (s : State) (x : WeightCache) : State := { s with wcache := x }
def State.setSched (s : State) (x : Sched) : State := { s with sched := x }
def State.setArray (s : State) (x : ArrayState) : State := { s with array := x }
def State.setCapture (s : State) (x : Capture) : State := { s with capture := x }
def State.setAssured (s : State) (x : Assured) : State := { s with assured := x }
def State.setSec (s : State) (x : Security) : State := { s with sec := x }
def State.setPower (s : State) (x : Power) : State := { s with power := x }
def State.setRst (s : State) (x : ResetCtl) : State := { s with rst := x }
def State.setNet (s : State) (x : Net) : State := { s with net := x }

def State.tile (s : State) (t : Nat) : Tile := s.tiles.get Tile.init t
def State.setTile (s : State) (t : Nat) (x : Tile) : State := { s with tiles := s.tiles.set Tile.init t x }
def State.modTile (s : State) (t : Nat) (f : Tile → Tile) : State := s.setTile t (f (s.tile t))
def State.cluster (s : State) (c : Nat) : ClusterSt := s.clusters.get ClusterSt.init c
def State.setCluster (s : State) (c : Nat) (x : ClusterSt) : State :=
  { s with clusters := s.clusters.set ClusterSt.init c x }
def State.csp (s : State) (c : Nat) : Csp := s.csps.get Csp.init c
def State.setCsp (s : State) (c : Nat) (x : Csp) : State := { s with csps := s.csps.set Csp.init c x }
def State.cell (s : State) (c : Nat) : CellSt := s.radio.cells.get CellSt.init c
def State.setCell (s : State) (c : Nat) (x : CellSt) : State :=
  s.setRadio { s.radio with cells := s.radio.cells.set CellSt.init c x }
def State.modCell (s : State) (c : Nat) (f : CellSt → CellSt) : State := s.setCell c (f (s.cell c))
def State.user (s : State) (u : Nat) : UserCtx := s.radio.users.get UserCtx.init u
def State.setUser (s : State) (u : Nat) (x : UserCtx) : State :=
  s.setRadio { s.radio with users := s.radio.users.set UserCtx.init u x }
def State.bank (s : State) (b : Nat) : BankSt := s.radio.banks.get BankSt.init b
def State.setBank (s : State) (b : Nat) (x : BankSt) : State :=
  s.setRadio { s.radio with banks := s.radio.banks.set BankSt.init b x }
def State.chan (s : State) (c : Nat) : ChanSt := s.sweep.chans.get ChanSt.init c
def State.setChan (s : State) (c : Nat) (x : ChanSt) : State :=
  s.setSweep { s.sweep with chans := s.sweep.chans.set ChanSt.init c x }
def State.modChan (s : State) (c : Nat) (f : ChanSt → ChanSt) : State := s.setChan c (f (s.chan c))
def State.ctx (s : State) (e : Nat) : EndCtx := s.sweep.ctxs.get EndCtx.init e
def State.setCtx (s : State) (e : Nat) (x : EndCtx) : State :=
  s.setSweep { s.sweep with ctxs := s.sweep.ctxs.set EndCtx.init e x }
def State.aset (s : State) (a : Nat) : AdaptSet := s.adapt.get AdaptSet.init a
def State.setAset (s : State) (a : Nat) (x : AdaptSet) : State := { s with adapt := s.adapt.set AdaptSet.init a x }
def State.netPort (s : State) (p : Nat) : Port := s.net.ports.get Port.init p
def State.setPort (s : State) (p : Nat) (x : Port) : State :=
  s.setNet { s.net with ports := s.net.ports.set Port.init p x }
def State.modPort (s : State) (p : Nat) (f : Port → Port) : State := s.setPort p (f (s.netPort p))
def State.sem (s : State) (n : Nat) : Sem := s.sched.sems.get Sem.init n
def State.setSem (s : State) (n : Nat) (x : Sem) : State :=
  s.setSched { s.sched with sems := s.sched.sems.set Sem.init n x }

/-! ## Power domains by number (21 R452, R453, R456, R457) -/

def State.powerOf (s : State) (d : Nat) : PowerSt := s.power.domains.get .off d
def State.setPowerOf (s : State) (d : Nat) (p : PowerSt) : State :=
  s.setPower { s.power with domains := s.power.domains.set .off d p }

/-- Is a tile's fabric, or the tile itself, held in reset: it counts as OFF and is never woken (22 R478)? -/
def State.tileHeld (s : State) (t : Nat) : Bool := s.rst.held.contains (96 + t / 8) || s.rst.held.contains t

/-- A domain that is off or retained begins to wake, unless its clock holds it in reset. -/
def State.wakeDomain (s : State) (d : Nat) : State :=
  if s.rst.held.contains d then s
  else match s.powerOf d with
    | .off | .retain => s.setPowerOf d .waking
    | _ => s

/-- A tile wakes, its cluster fabric with it. -/
def State.wakeTile (s : State) (t : Nat) : State :=
  if s.tileHeld t then s else (s.wakeDomain (96 + t / 8)).wakeDomain t

/-! ## Time (20 R436): device time is held in units of 2^−40 ns -/

def State.nowNs (s : State) : Nat := s.time.now / 2 ^ 40
def State.nowSec (s : State) : Nat := s.nowNs / 1000000000
def State.nowSub (s : State) : Nat := s.nowNs % 1000000000
/-- The 16-bit fraction of a ns of device time. -/
def State.nowFrac (s : State) : Nat := s.time.now % 2 ^ 40 / 2 ^ 24

/-- One slot in ns at a numerology: 500 µs at μ = 1, 125 µs at μ = 3 (01 R23). -/
def slotNs (mu : Nat) : Nat := 1000000 / 2 ^ mu

/-- The frame, of 10 ms of device time, that device time lies in (24 Table 7). -/
def State.frameNow (s : State) : Nat := s.nowNs / 10000000

/-! ## Outputs, free values, event records -/

def State.emit (s : State) (o : Out) : State := { s with out := s.out ++ [o] }

/-- A free value: the value and the state that will draw the next one (DESIGN CHOICE, log 1). -/
def State.draw (s : State) : Nat × State := (Config.freeValue s.free, { s with free := s.free + 1 })

/-- A block's event record enters the recorder's queue, or is dropped and counted where 64 wait (19 R430, R433). -/
def State.record (s : State) (code : Half) (unit : Nat) (params : List Nat) : State :=
  let e := s.events
  let r : EvRec :=
    { code, source := BitVec.ofNat 16 (code.toNat / 256 * 256 + unit % 256), sec := s.nowSec, ns := s.nowSub,
      params := (params ++ [0, 0, 0, 0]).take 4 |>.map (BitVec.ofNat 32) }
  if e.queue.length < 64 then { s with events := { e with queue := e.queue ++ [r] } }
  else { s with events := { e with dropped := bump top32 e.dropped, lostSince := e.lostSince + 1 } }

/-! ## Address map (01 R17, R18) -/

/-- What an address of the 48-bit map reaches. -/
inductive Place where
  | ext (a : Nat)
  | tile (t off : Nat)
  | cache (c off : Nat)
  | window (off : Nat)
  | reg (off : Nat)
  | none
deriving DecidableEq, Repr

def hbmSize : Nat := 48 * 2 ^ 30
def ddrBase : Nat := 0x010000000000
def tileBase : Nat := 0xF00000000000
def cacheBase : Nat := 0xF10000000000
def windowBase : Nat := 0xF20000000000
def regBase : Nat := 0xFF0000000000

/-- Installed DDR5 in bytes; 0 while the population is unequal (01 R19). -/
def State.ddrSize (s : State) : Nat := if s.mem.unequal then 0 else s.mem.ddrGib * 2 ^ 30

/-- Decoding of an address (01 Table 2). -/
def State.place (s : State) (a : Nat) : Place :=
  if a < hbmSize then .ext a
  else if ddrBase ≤ a ∧ a < ddrBase + s.ddrSize then .ext a
  else if tileBase ≤ a ∧ a < tileBase + 96 * 0x200000 then
    (if (a - tileBase) % 0x200000 < 0x180000 then .tile ((a - tileBase) / 0x200000) ((a - tileBase) % 0x200000) else .none)
  else if cacheBase ≤ a ∧ a < cacheBase + 12 * 0x400000 then .cache ((a - cacheBase) / 0x400000) ((a - cacheBase) % 0x400000)
  else if windowBase ≤ a ∧ a < windowBase + 0x4000000 then .window (a - windowBase)
  else if regBase ≤ a ∧ a < regBase + 0x100000000 then .reg (a - regBase)
  else .none

/-- Does [a, a + n) lie wholly in HBM or wholly in installed DDR5 (18 R385)? -/
def State.extRange (s : State) (a n : Nat) : Bool :=
  a + n ≤ hbmSize || (ddrBase ≤ a && a + n ≤ ddrBase + s.ddrSize)

/-! ## Regions (18 R384) -/

def State.region (s : State) (i : Nat) : Region := s.sec.regions.get Region.init i

def regionHi (r : Region) : Nat := (r.base + r.size) * 2 ^ 20
def regionHas (r : Region) (a : Nat) : Bool := r.base * 2 ^ 20 ≤ a && a < regionHi r

/-- The entry that covers an address, with its index: a used one, or one whose change still zeroises (18 R385). -/
def State.regionOf (s : State) (a : Nat) : Option (Nat × Region) :=
  s.sec.regions.entries.find? fun e => (e.2.domain ≠ 3 || e.2.changing) && regionHas e.2 a

def domainCode : Domain → Nat
  | .radio => 0 | .inference => 1 | .management => 2 | .anchor => 3

def domainOfCode (n : Nat) : Domain :=
  if n = 0 then .radio else if n = 1 then .inference else .management

/-- The domain of an external address; what no entry covers is the management domain's. -/
def State.domainAt (s : State) (a : Nat) : Domain :=
  match s.regionOf a with
  | some (_, r) => domainOfCode r.domain.toNat
  | none => .management

/-- May a requester of domain `d` reach [a, a + n): one domain, no region changing or sealed? Checked per MiB touched. -/
def State.domainOk (s : State) (d : Domain) (a n : Nat) : Bool :=
  (upTo ((a + n - 1) / 2 ^ 20 + 1 - a / 2 ^ 20)).all fun i =>
    let x := max a ((a / 2 ^ 20 + i) * 2 ^ 20)
    s.domainAt x = d && (match s.regionOf x with | some (_, r) => !r.changing && !r.sealed | none => true)

/-- Does [a, a + n) lie wholly in one region entry of domain `d`, unsealed and not changing? -/
def State.inRegion (s : State) (d : Domain) (a n : Nat) : Bool :=
  match s.regionOf a with
  | some (_, r) => domainOfCode r.domain.toNat = d && r.domain ≠ 3 && !r.changing && !r.sealed && a + n ≤ regionHi r
  | none => false

/-! ## External memory (13 R304–R307) -/

/-- The XTS key of an address: its domain's key of the present generation. -/
def State.keyAt (s : State) (a : Nat) : Nat := 1 + s.sec.keyGen * 4 + domainCode (s.domainAt a)

/-- The stored bytes of the 64-byte unit that holds an address. -/
def State.unitBytes (s : State) (u : Nat) : List Byte := (upTo 64).map fun i => s.mem.bytes.get 0 (u * 64 + i)

/-- One byte as a read returns it: the stored byte under its own key, an unrelated byte under another (13 R307); a unit
never written reads 0 (DESIGN CHOICE, log 3). -/
def State.extByte (s : State) (a : Nat) : Byte :=
  let k := s.mem.unitKey.get 0 (a / 64)
  if k = 0 || k = s.keyAt a then s.mem.bytes.get 0 a else Config.staleByte (s.unitBytes (a / 64)) a k (s.keyAt a)

def State.extRead (s : State) (a n : Nat) : List Byte := (upTo n).map fun i => s.extByte (a + i)

/-- Little-endian value of `n` bytes of external memory. -/
def State.extNat (s : State) (a n : Nat) : Nat := leNat (s.extRead a n)

/-- Does a read of [a, a + n) find an uncorrectable error (13 R306)? -/
def State.extBad (s : State) (a n : Nat) : Bool := s.mem.bad.any fun u => u * 64 < a + n && a < u * 64 + 64

/-- One unit of a write, `bs` landing from `a` on inside it (13 R306, R307): a partial write decrypts the unit first. -/
def State.writeUnit (s : State) (a : Nat) (bs : List Byte) : State :=
  let u := a / 64
  let whole := bs.length = 64
  if s.mem.bad.contains u && !whole then s
  else
    let old := if whole then [] else s.extRead (u * 64) 64
    let t0 := (old.zipIdx).foldl (fun t e => t.set 0 (u * 64 + e.2) e.1) s.mem.bytes
    let t1 := (bs.zipIdx).foldl (fun t e => t.set 0 (a + e.2) e.1) t0
    s.setMem { s.mem with bytes := t1, unitKey := s.mem.unitKey.set 0 u (s.keyAt a), bad := s.mem.bad.filter (· ≠ u) }

/-- A write cut at the 64-byte units; `fuel` bounds their number. -/
def State.writeUnits (fuel : Nat) (s : State) (a : Nat) (bs : List Byte) : State :=
  match fuel, bs with
  | 0, _ => s
  | _, [] => s
  | f + 1, b :: r =>
    let k := 64 - a % 64
    State.writeUnits f (s.writeUnit a ((b :: r).take k)) (a + k) ((b :: r).drop k)

/-- The weight-cache lines that hold bytes of [a, a + n) are invalidated (13 R302). -/
def State.wcInvalidate (s : State) (a n : Nat) : State :=
  s.setWcache { s.wcache with lines := s.wcache.lines.clearRange (a / 1024) ((a + n + 1023) / 1024) }

/-- Would a write of `n` bytes at `a` merge into a unit that cannot be read (13 R306)? -/
def State.mergeBad (s : State) (a n : Nat) : Bool :=
  s.mem.bad.any fun u => u * 64 < a + n && a < u * 64 + 64 && !(a ≤ u * 64 && u * 64 + 64 ≤ a + n)

/-- The memory channel of an address: DC0–DC7 are 0–7, HB0 and HB1 are 8 and 9 (01 R19, 24 R518). -/
def memChannel (a : Nat) : Nat := if a < ddrBase then 8 + a / 1024 % 2 else (a - ddrBase) / 4096 % 8

/-- An uncorrectable error met at an address is counted and recorded (13 R306). -/
def State.memUe (s : State) (a : Nat) : State :=
  let c := memChannel a
  (s.setMem { s.mem with eccUncorr := s.mem.eccUncorr.set 0 c (bump top32 (s.mem.eccUncorr.get 0 c)) }).record
    Code.memUeEvent 0 [a % 2 ^ 32, a / 2 ^ 32]

/-- A write of external memory by any requester: whole, merged or withheld by unit, cache lines invalidated, MEM_UE recorded
where a merge failed. -/
def State.extWrite (s : State) (a : Nat) (bs : List Byte) : State :=
  if bs.isEmpty then s else
    let s1 := State.writeUnits (bs.length / 64 + 2) s a bs
    let s2 := s1.wcInvalidate a bs.length
    if s.mergeBad a bs.length then s2.memUe a else s2

/-- Zeros written over a range under the domain's present key: the range reads 0 (18 R385). -/
def State.extZero (s : State) (a n : Nat) : State :=
  (s.setMem { s.mem with bytes := s.mem.bytes.clearRange a (a + n),
                         unitKey := s.mem.unitKey.clearRange (a / 64) ((a + n + 63) / 64),
                         bad := s.mem.bad.filter fun u => u * 64 < a || a + n ≤ u * 64 }).wcInvalidate a n

end Sys2Proof.Machine
end

