-- ==== Sys2Proof/Machine/Capture.lean ====
section
/-! DEFINITION. Capture entries and the output digest (16 R358–R360, R364), and the frames that leave the device. -/
namespace Sys2Proof.Machine

/-- Bytes an entry takes in its ring: header and padded payload (16 R359). -/
def entrySize (e : CapEntry) : Nat := 32 + ceilDiv e.payload.length 32 * 32

/-- Bytes of the management ring kept for the stop marker (16 R360). -/
def stopReserve : Nat := 65536

/-- An entry as it stands in its ring (16 R359, Table 3). -/
def entryBytes (e : CapEntry) : List Byte :=
  leBytes 2 e.kind ++ leBytes 1 e.port ++ leBytes 1 e.domain ++ leBytes 4 e.payload.length ++
  leBytes 6 (e.ns / 1000000000) ++ leBytes 4 (e.ns % 1000000000) ++ leBytes 2 e.frac ++ leBytes 4 0 ++ leBytes 8 e.seq ++
  e.payload ++ List.replicate (ceilDiv e.payload.length 32 * 32 - e.payload.length) 0

def Ring.none : Ring := { base := 0, size := 0, used := 0, count := 0 }

/-- The ring of a domain: radio, inference, management. -/
def State.ring (s : State) (domain : Nat) : Ring := s.capture.rings.getD domain Ring.none

/-- An entry is written at the end of its ring, and takes the next seq. -/
def State.ringPut (s : State) (domain : Nat) (e0 : CapEntry) : State :=
  let r := s.ring domain
  let e := { e0 with seq := s.capture.seq }
  let s1 := s.extWrite (r.base + r.used) (entryBytes e)
  s1.setCapture { s1.capture with
    seq := s.capture.seq + 1, rings := setAt s.capture.rings domain { r with used := r.used + entrySize e, count := r.count + 1 } }

/-- An entry of this moment. -/
def State.entryNow (s : State) (kind port domain : Nat) (payload : List Byte) : CapEntry :=
  { kind, port, domain, ns := s.nowNs, frac := s.nowFrac, seq := s.capture.seq, payload }

/-- Payload of the stop marker: the entry counts per ring, and the output digest with its frame count (16 Table 3). -/
def stopPayload (c : Capture) : List Byte :=
  (c.rings.map fun r => leBytes 8 r.count).flatten ++ leBytes 32 c.digest ++ leBytes 8 c.frames

/-- Entries of one moment: ascending port, 0xFF last, of one port the first one first (16 R360). -/
def insertPort (e : CapEntry) : List CapEntry → List CapEntry
  | [] => [e]
  | x :: r => if e.port < x.port then e :: x :: r else x :: insertPort e r

/-- Does an entry fit in its ring? -/
def State.ringFits (s : State) (e : CapEntry) : Bool :=
  let r := s.ring e.domain
  decide (r.used + entrySize e ≤ if e.domain = 2 then r.size - stopReserve else r.size)

/-- Entries are written in order up to the first one that does not fit; the result says whether all did. -/
def State.capturePut : List CapEntry → State → State × Bool
  | [], s => (s, true)
  | e :: r, s => if s.ringFits e then State.capturePut r (s.ringPut e.domain e) else (s, false)

/-- The entries of the last moment are written. -/
def State.captureFlush (s : State) : State :=
  let s1 := (State.capturePut s.capture.pend s).1
  s1.setCapture { s1.capture with pend := [] }

/-- Capture ends and the stop marker is written in the management ring (16 R360). -/
def State.captureEnd (s0 : State) : State :=
  let s := s0.captureFlush
  let s1 := s.ringPut 2 (s.entryNow 6 0xFF 2 (stopPayload s.capture))
  s1.setCapture { s1.capture with on := false, stopping := false }

/-- An item that R358 lists joins the entries of its moment; an entry that does not fit in its ring ends capture with CAP_FULL (16 R360). -/
def State.captureItem (s : State) (kind port domain : Nat) (payload : List Byte) : State :=
  if !s.capture.on then s else
    let e := s.entryNow kind port domain payload
    let s1 := if s.capture.pend.any fun p => p.ns ≠ e.ns ∨ p.frac ≠ e.frac then s.captureFlush else s
    let all := insertPort e s1.capture.pend
    let put := State.capturePut all s1
    if put.2 then s1.setCapture { s1.capture with pend := all }
    else
      let c := put.1.capture
      ((put.1.setCapture { c with pend := [], full := true }).record Code.capFull 0 [c.seq % 2 ^ 32]).captureEnd

/-- A deadline decision of 16 Table 1 as capture writes it (16 Table 3, kind 3). -/
def State.captureDecision (s : State) (domain slot unit code index num : Nat) : State :=
  s.captureItem 3 0xFF domain (leBytes 6 slot ++ leBytes 1 unit ++ leBytes 1 code ++ leBytes 2 index ++ leBytes 4 num)

/-- A change of the receiver weight version in force for a set (16 Table 3, kind 4). -/
def State.captureVersion (s : State) (set version slot : Nat) : State :=
  s.captureItem 4 0xFF 0 (leBytes 1 set ++ leBytes 3 0 ++ leBytes 4 version ++ leBytes 6 slot ++ leBytes 2 0)

/-- Is an output frame one that the digest counts (16 R364)? -/
def digested : TxFrame → Bool
  | .ulResults .. | .dlStatus .. | .cplane .. | .uplane .. | .sweepResult .. | .sweepDown .. | .infOutput .. => true
  | .prachReport .. | .ptp .. | .arp .. | .mka .. => false

/-- The digest sum takes in an output of weight `d` while a recording or a replay runs. -/
def State.digestAdd (s : State) (d : Nat) : State :=
  let c := s.capture
  let c1 := if c.on then { c with digest := (c.digest + d) % 2 ^ 256, frames := (c.frames + 1) % 2 ^ 64 } else c
  s.setCapture { c1 with replay := c1.replay.map fun r =>
    { r with digest := (r.digest + d) % 2 ^ 256, frames := (r.frames + 1) % 2 ^ 64 } }

/-- A frame as the digest takes it: the fields that R352 excludes are zeros (16 R364). -/
def digestForm : TxFrame → TxFrame
  | .sweepResult r p => .sweepResult { r with endSec := 0, endNs := 0 } p
  | .sweepDown c o h p _ b ss => .sweepDown c o h p 0 b (ss.map fun x => { x with secLo := 0, sample := 0 })
  | f => f

/-- The digest takes in a frame that it counts. -/
def State.digestFrame (s : State) (f : TxFrame) : State :=
  if digested f then s.digestAdd (Config.frameDigest (digestForm f)) else s

/-- A frame leaves on a port. -/
def State.send (s : State) (port : Nat) (f : TxFrame) : State := (s.emit (.frame port f)).digestFrame f

/-- An Aqmor message goes to the peer of its EtherType on a port; with no peer yet, nothing is sent and the message is counted
(23 R488). -/
def State.sendAqmor (s : State) (port : Nat) (inf : Bool) (f : TxFrame) : State :=
  let p := s.netPort port
  match (if inf then p.peerInf else p.peerTb) with
  | none => s.modPort port fun p => { p with noPeer := bump top32 p.noPeer }
  | some d =>
    let n := if inf then p.seqInf else p.seqTb
    ((s.modPort port fun p => if inf then { p with seqInf := n + 1 } else { p with seqTb := n + 1 }).emit
      (.aqmor port d n f)).digestFrame f

/-- Does a replay run? -/
def State.replaying (s : State) : Bool := s.capture.replay.isSome

/-- The entry that a replay delivers now, where it is of a kind (16 R363). -/
def State.replayEntry (s : State) (kind : Nat) : Option CapEntry :=
  (s.capture.replay.bind (·.current)).filter (·.kind = kind)

/-- Is a message, by its bytes, the recorded one that a replay delivers now? -/
def State.replayQcp (s : State) (raw : List Byte) : Bool := (s.replayEntry 2).any (·.payload == raw)

/-- The entry is delivered. -/
def State.replayTaken (s : State) : State :=
  s.setCapture { s.capture with replay := s.capture.replay.map fun r => { r with current := none } }

/-- Is an entry the decision of a code about one slot of a cell, or about a number within a unit? -/
def decides (code slot unit num : Nat) (e : CapEntry) : Bool :=
  e.kind == 3 && leNat (e.payload.take 6) == slot && leNat ((e.payload.drop 6).take 1) == unit &&
    leNat ((e.payload.drop 7).take 1) == code && leNat ((e.payload.drop 10).take 4) == num

/-- Does the device make a deadline decision now: at its own watch, or in a replay where the entry delivered now says so (16 R363)? `due` is
what its own watch says. -/
def State.watchedAt (s : State) (code slot unit num : Nat) (due : Bool) : Bool :=
  if s.replaying then (s.replayEntry 3).any (decides code slot unit num) else due

/-- Does the recording hold the decision, delivered now or still to come? The item is then not on time, complete or not (16 R363, R365). -/
def State.fated (s : State) (code slot unit num : Nat) : Bool :=
  match s.capture.replay with
  | some r => (r.current.toList ++ r.left).any (decides code slot unit num)
  | none => false

end Sys2Proof.Machine
end

