-- ==== Sys2Proof/Machine/Qcp.lean ====
section
/-! DEFINITION. A QCP request: the checks of 19 R421 in their order, its effect, and its one reply. -/
namespace Sys2Proof.Machine

/-- How a request's body check and effect end: an answer at once, or a reply that a later command sends. -/
inductive Answer where
  | now (code : Half) (body : ReplyBody)
  | later
deriving DecidableEq, Repr

def Answer.ok : Answer := .now Code.ok .empty
def Answer.err (c : Half) : Answer := .now c .empty

/-- Is the message refused: capture takes in only what the device accepts (16 R358)? -/
def Answer.refuses : Answer → Bool
  | .now c _ => c != Code.ok
  | .later => false

/-- A row of 19 Table 5: the role, the states, who serves it, and whether it reads only. -/
structure MsgRow where
  role   : Role
  legal  : List DevState
  hw     : Bool := false
  reads  : Bool := false
deriving DecidableEq, Repr

def roleRank : Role → Nat
  | .none => 0 | .read => 1 | .operate => 2 | .admin => 3

def roleOfCode (n : Nat) : Role :=
  if n = 1 then .read else if n = 2 then .operate else if n = 3 then .admin else .none

def allStates : List DevState := [.anchor, .berm, .loaded, .started, .running, .faulted]

/-- How a request stands against the last accepted seq of its session (19 R418). -/
inductive SeqCheck where | fresh | again | old
deriving DecidableEq, Repr

def seqCheck (last : Option Word) (seq : Word) : SeqCheck :=
  match last with
  | none => .fresh
  | some l =>
    let d := (seq - l).toNat
    if 1 ≤ d ∧ d < 2 ^ 31 then .fresh else if d = 0 ∨ 2 ^ 32 - 15 ≤ d then .again else .old

def State.session (s : State) (n : Nat) : Option Session := s.host.sessions.get none n

def State.setSession (s : State) (n : Nat) (x : Option Session) : State :=
  s.setHost { s.host with sessions := s.host.sessions.set none n x }

/-- Datagrams dropped are counted in MBX_DROP (19 R416, R418). -/
def State.mbxDrop (s : State) : State := s.setHost { s.host with drop := bump top32 s.host.drop }

def replyOf (s : State) (h : QcpHdr) (hw : Bool) (code : Half) (body : ReplyBody) : QcpReply :=
  { port := h.port, addr := h.addr, udp := h.udp, session := h.session, ref := h.seq, tag := h.tag, hw,
    major := s.host.fwMajor, minor := s.host.fwMinor, status := code, body }

/-- The reply leaves, and the session keeps its last 16 (19 R418). -/
def State.reply (s : State) (h : QcpHdr) (hw : Bool) (code : Half) (body : ReplyBody) : State :=
  let r := replyOf s h hw code body
  let s1 := match s.session h.session.toNat with
    | some x => s.setSession h.session.toNat (some { x with cache := (r :: x.cache).take 16 })
    | none => s
  s1.emit (.reply r)

/-- The session of a request that came from the port, address and UDP port the session is bound to (19 R420). -/
def State.boundSession (s : State) (h : QcpHdr) : Option Session :=
  match s.session h.session.toNat with
  | some x => if x.port = h.port ∧ x.addr = h.addr ∧ x.udp = h.udp then some x else none
  | none => none

/-- Checks 2 to 5 of 19 R421, with the role the request has, and its answer. `start` marks START (19 R419). -/
def serveAs (s : State) (h : QcpHdr) (m : MsgRow) (role : Role) (start : Bool) (body : State → State × Answer) : State :=
  if s.host.state = .faulted ∧ !m.hw ∧ !(m.legal.contains .faulted) then s.reply h true Code.badState .empty
  else if !m.hw ∧ h.major ≠ s.host.fwMajor then
    let s1 := if start ∧ s.host.state = .loaded then
      s.record Code.fwVersion 0 [h.major.toNat, s.host.fwMajor.toNat] else s
    s1.reply h false Code.versionMismatch .empty
  else if roleRank role < roleRank m.role then s.reply h m.hw Code.roleDenied .empty
  else if !(m.legal.contains s.host.state) then s.reply h m.hw Code.badState .empty
  else
    let s1 := if m.reads || (body s).2.refuses then s else s.captureItem 2 (8 + h.port.val) 2 h.raw
    match body s1 with
    | (s2, .now code b) => s2.reply h m.hw code b
    | (s2, .later) => s2

/-- Does the command port drop a message because it is not MACsec-protected (23 R491)? A session runs over the port's own
state; a recorded message that a replay delivers passed its port when it was recorded. -/
def State.portDrops (s : State) (h : QcpHdr) : Bool :=
  s.sec.lifecycle != .opened && !s.replayQcp h.raw && !(s.netPort (8 + h.port.val)).macsec

/-- A request of a session: check 1 first, then the rest (19 R421); a replay refuses all but reads (16 R363). -/
def serve (s : State) (h : QcpHdr) (m : MsgRow) (body : State → State × Answer) (start : Bool := false) : State :=
  if s.portDrops h then s
  else if s.replayQcp h.raw then serveAs s.replayTaken h m .admin start body
  else match s.boundSession h with
    | none => s.mbxDrop
    | some x =>
      match seqCheck x.lastSeq h.seq with
      | .old => s.mbxDrop
      | .again => (match x.cache.find? (·.ref = h.seq) with | some r => s.emit (.reply r) | none => s)
      | .fresh =>
        let s1 := s.setSession h.session.toNat (some { x with lastSeq := some h.seq, idleNs := s.nowNs })
        if s1.replaying ∧ !m.reads then s1.reply h m.hw Code.replayBusy .empty
        else serveAs s1 h m x.role start body

/-- A body function that answers at once without an effect, or refuses. -/
def refuse (c : Half) : State → State × Answer := fun s => (s, .err c)

/-- The outcome every command of this block has. -/
abbrev Out' := Host.Outcome State Fault Refusal

/-- The lowest-numbered session of role OPERATE or above (19 R424). -/
def State.operateSession (s : State) : Option Nat :=
  (s.host.sessions.entries.find? fun e => match e.2 with | some x => 2 ≤ roleRank x.role | none => false).map (·.1)

/-- A notification leaves for a session, or for the one R424 names where that has closed; with none it is counted lost. -/
def State.notify (s : State) (session : Nat) (type : Half) (body : ReplyBody) : State :=
  match (if (s.session session).isSome then some session else s.operateSession) with
  | none => s.setHost { s.host with notifyLost := bump top32 s.host.notifyLost }
  | some n =>
    match s.session n with
    | none => s
    | some x =>
      let s1 := s.setSession n (some { x with nextSeq := x.nextSeq + 1 })
      let s2 := s1.setHost { s1.host with
        notices := s1.host.notices ++ [{ session := n, seq := x.nextSeq, type, body, sends := 1, sentNs := s.nowNs }] }
      s2.emit (.notify (BitVec.ofNat 16 n) type x.nextSeq body)

end Sys2Proof.Machine
end

