-- ==== Sys2Proof/Machine/Time.lean ====
section
/-! DEFINITION. The time unit: corrections and clock states, the synthesiser port, timestamps, pulse outputs (20). Offsets θ
and steps are in 2^−16 ns, c in 2^−16 ppb. -/
namespace Sys2Proof.Machine

namespace Tim
def levee : Half := 0x0601
def txtsOvf : Half := 0x0602
end Tim

/-! ## The increment and c (20 R437–R440) -/

/-- 3,125/3,072 ns in units of 2^−40 ns. -/
def nominalIncr : Nat := 0x1046AAAAAAB

/-- The increment outside slews of every mode but SOFT (20 R439), rounded to the nearest unit (DEDUCED, log 44). -/
def steeredIncr (t : TimeUnit) : Nat :=
  if t.synEn then nominalIncr else (nominalIncr + rhuDiv (nominalIncr * t.c) (2 ^ 16 * 1000000000)).toNat

def reIncr (t : TimeUnit) : TimeUnit := if t.mode = 0 then t else { t with incr := steeredIncr t }

/-- The average of c brought up to now. -/
def averaged (t : TimeUnit) : TimeUnit :=
  { t with cAvg := Config.expAverage t.cAvg t.c (t.now - t.avgAt), avgAt := t.now }

/-- c takes a value; one that its 48 bits cannot hold is not stated and is a free value. -/
def State.setC (s : State) (c : Int) : State :=
  let fits := decide (-(2 ^ 47) ≤ c ∧ c < 2 ^ 47)
  let (v, s1) := s.draw
  if fits then s.setTime (reIncr { averaged s.time with c }) else s1.setTime (reIncr { averaged s.time with c := signedOf 48 v })

/-- What a slew changes a radio-PLL tick by (20 R437), rounded to the nearest unit (DEDUCED, log 44). -/
def slewShare (t : TimeUnit) : Nat := (nominalIncr * t.slewMax + 500000000) / 1000000000

/-- What one radio-PLL tick adds to device time, and the slew then left (20 R437). -/

def timeTick (t : TimeUnit) : TimeUnit :=
  if t.slew = 0 then { t with now := t.now + t.incr }
  else
    let d := clampInt (-(slewShare t : Int)) (slewShare t) t.slew
    { t with now := (t.now + nominalIncr + d).toNat, slew := t.slew - d }

/-! ## Pulse outputs (20 R449) -/

def State.pps (s : State) (n : Nat) : Pps := s.time.pps.getD n Pps.init
def State.setPps (s : State) (n : Nat) (p : Pps) : State := s.setTime { s.time with pps := setAt s.time.pps n p }

def ppsStart (p : Pps) : Nat := p.sec * 1000000000 + p.ns
def ppsWidth (p : Pps) : Nat := p.width * (if p.unit256 then 256 else 1)

/-- The first edge of a periodic output after a time. -/
def firstAfter (p : Pps) (now : Nat) : Nat :=
  if now < ppsStart p then ppsStart p else ppsStart p + ((now - ppsStart p) / p.period + 1) * p.period

/-- An armed output whose edge is due raises it; a one-shot is then done, a periodic one goes to its next future edge. -/
def State.raiseEdge (s : State) (n : Nat) : State :=
  let p := s.pps n
  if p.armed ∧ p.next ≤ s.nowNs then
    let again := p.mode = 2 ∧ 0 < p.period
    let p1 := { p with high := true, until' := p.next + ppsWidth p, armed := again, next := if again then firstAfter p s.nowNs else p.next }
    (s.setPps n p1).emit (.pulse (Fin.ofNat 4 n) (!p.polarity))
  else s

def execPpsEdge (n : Fin 4) (s : State) : Host.Outcome State Fault Refusal := .next (s.raiseEdge n.val)

/-- The pulse ends after its width. -/
def State.pulseEnd (s : State) (n : Nat) : State :=
  let p := s.pps n
  if p.high ∧ p.until' ≤ s.nowNs then (s.setPps n { p with high := false }).emit (.pulse (Fin.ofNat 4 n) p.polarity) else s

def execPpsPulseEnd (n : Fin 4) (s : State) : Host.Outcome State Fault Refusal := .next (s.pulseEnd n.val)

/-- May a pulse output take these settings (20 R449, Table 6)? -/
def ppsOk (p : PpsSet) : Bool :=
  let w := p.width.toNat * (if p.unit256 then 256 else 1)
  p.mode != 3 && w != 0 && (p.mode != 2 || (decide (1000 ≤ p.period.toNat) && decide (w < p.period.toNat)))

/-- A pulse output is written: an edge due goes out under the old settings first (20 R450). -/
def State.ppsArm (s : State) (n : Nat) (p : PpsSet) : State :=
  let s1 := s.raiseEdge n
  let o := s1.pps n
  if !ppsOk p then s1
  else
    let q : Pps := { o with sec := p.sec.toNat, ns := p.ns.toNat, period := p.period.toNat, width := p.width.toNat,
                            unit256 := p.unit256, polarity := p.polarity, mode := p.mode.toNat, armed := false }
    if p.mode = 0 then s1.setPps n q
    else if p.mode = 1 then
      (if ppsStart q ≤ s1.nowNs then s1.setPps n { q with missed := true }
       else s1.setPps n { q with armed := true, next := ppsStart q })
    else s1.setPps n { q with armed := true, next := firstAfter q s1.nowNs }

def execPpsArm (n : Fin 4) (p : PpsSet) (s : State) : Host.Outcome State Fault Refusal := .next (s.ppsArm n.val p)

/-! ## Steps and slews (20 R446) -/

/-- Device time stands at a value modulo 2^48 s; what it stepped forward over is emitted at once. -/
def State.stepTime (s : State) (d : Int) : State :=
  let span : Int := 2 ^ 48 * 1000000000 * 2 ^ 40
  let t := s.time
  let now := ((t.now + d) % span).toNat
  let s1 := s.setTime { t with now, slew := 0, lastTheta := t.lastTheta.map fun x => (x + d).toNat, avgAt := (t.avgAt + d).toNat }
  (upTo 4).foldl State.raiseEdge s1

/-- Is a cell or sweep channel active, or does capture or replay run? -/
def State.timeHeld (s : State) : Bool :=
  s.radio.cells.values.any (·.ul.isSome) || s.sweep.chans.values.any (·.cfg.isSome) || s.capture.on || s.replaying

/-- An accepted correction: a slew while service runs, else a step; it replaces what is left of the one before. -/
def State.correct (s : State) (x : Int) : State :=
  if s.timeHeld then s.setTime { s.time with slew := x * 2 ^ 24 } else s.stepTime (x * 2 ^ 24)

/-- The slew ends, once what is left is no more than one tick's share. -/
def State.slewEnd (s : State) : State :=
  let t := s.time
  if t.slew.natAbs ≤ slewShare t then s.setTime { t with now := (t.now + t.slew).toNat, slew := 0 } else s

def execSlewComplete (s : State) : Host.Outcome State Fault Refusal := .next s.slewEnd

/-- A correction beyond TIM_LEVEE is refused; θ in p0 to p2, its low word first (DESIGN CHOICE, log 45). -/
def State.leveeRefuse (s : State) (x : Int) : State :=
  let w := (BitVec.ofInt 96 x).toNat
  (s.setTime { s.time with leveeFlag := true }).record Tim.levee 0 [w % 2 ^ 32, w / 2 ^ 32 % 2 ^ 32, w / 2 ^ 64]

def beyondLevee (t : TimeUnit) (x : Int) : Bool := decide (t.levee * 2 ^ 16 < x.natAbs)

/-! ## Clock states (20 R445) -/

/-- LOCKED: the received class is sent; no command brings it, so it is a free value. -/
def State.lock (s : State) : State :=
  let (v, s1) := s.draw
  s1.setTime { s1.time with state := .locked, clockClass := v % 256 }

/-- HOLDOVER: c is frozen at its average. -/
def State.holdover (s : State) : State :=
  if s.time.state = .holdover then s else
    let t := averaged s.time
    s.setTime (reIncr { t with state := .holdover, c := t.cAvg, clockClass := 135, heldNs := s.nowNs, okRun := 0 })

/-- FREE: no source, a RELOCK, an L0 or L1 reset. -/
def freed (t : TimeUnit) : TimeUnit := { t with state := .free, clockClass := 248, okRun := 0, lastTheta := none }

/-- A mode written during a slew applies from the next θ (20 R450). -/
def nextMode (t : TimeUnit) : TimeUnit :=
  match t.nextMode with
  | some m => reIncr { t with mode := m, nextMode := none }
  | none => t

/-- c after an accepted θ of the PTP servo: ki × (θ / t_s), rounded half up (DEDUCED, log 44). -/
def State.servo (s : State) (theta : Int) : State :=
  let t := s.time
  match t.lastTheta with
  | none => s
  | some at' =>
    if t.mode ≠ 1 ∨ t.freqRef ≠ 14 then s
    else if t.now ≤ at' then (let (v, s1) := s.draw; s1.setC (signedOf 48 v))
    else s.setC (t.c - rhuDiv (t.ki * theta * 2 ^ 24 * 1000000000) (t.now - at'))

/-- A θ: the first of all is stepped in full; a later one is checked, moves c and the phase, and counts toward LOCKED (DEDUCED, log 44, log 74). -/
def State.offset (s : State) (theta : Int) : State :=
  let s0 := s.setTime (nextMode s.time)
  let t := s0.time
  let small := decide (theta.natAbs ≤ 100 * 2 ^ 16)
  let taken (s : State) : State := s.setTime { s.time with lastTheta := some s.time.now }
  if t.source = 15 ∨ s.replaying ∨ (t.state = .holdover ∧ t.refLost) then s
  else if t.state = .free then
    let s1 := if t.mode = 0 then s0 else s0.stepTime (-theta * 2 ^ 24)
    taken (s1.setTime { s1.time with state := .acquire, okRun := if small then 1 else 0 })
  else if beyondLevee t theta then s0.leveeRefuse theta
  else
    let s1 := s0.servo theta
    let s2 := if t.mode = 0 then s1 else s1.correct (-theta)
    let run := if small then s2.time.okRun + 1 else 0
    let s3 := taken (s2.setTime { s2.time with okRun := run })
    if t.state = .holdover ∨ (t.state = .acquire ∧ 16 ≤ run) then s3.lock else s3

/-- The PTP engine's offset; a device that takes time from its parent link takes none from PTP. -/
def ptpOffset (theta : Int) (s : State) : State := if s.time.source ≤ 9 then s.offset theta else s

def execPtpOffset (theta : Int) (s : State) : Host.Outcome State Fault Refusal := .next (ptpOffset theta s)

def announceTimeout (s : State) : State := if s.time.state = .free then s else s.holdover

def execAnnounceTimeout (s : State) : Host.Outcome State Fault Refusal := .next (announceTimeout s)

def holdoverLimit (s : State) : State :=
  let t := s.time
  if t.state = .holdover ∧ t.heldNs + t.holdLimit * 1000000000 ≤ s.nowNs then s.setTime { t with clockClass := 165 } else s

def execHoldoverLimit (s : State) : Host.Outcome State Fault Refusal := .next (holdoverLimit s)

/-- A TIM_STEP write: in SOFT alone; checked and applied as a θ is (DEDUCED, log 74). -/
def stepWrite (step : Dword) (s : State) : State :=
  let t := s.time
  let x := step.toInt
  if t.mode ≠ 0 then s
  else if t.state ≠ .free ∧ beyondLevee t x then s.leveeRefuse x
  else s.correct x

def execTimStepWrite (step : Dword) (s : State) : Host.Outcome State Fault Refusal := .next (stepWrite step s)

/-! ## Reference, SyncE, synthesiser (20 R438–R440) -/

/-- REFCLK cycles of a 1 ms window. -/
def refNominal (ref : Nat) : Nat := if ref = 0 then 10000 else if ref = 1 then 25000 else 122880

/-- The device PLL starts once REFCLK is qualified, outside standby, in a reset that has passed its load or has none (21 R455,
22 R477). -/
def State.pllStart (s : State) : State :=
  let ok := decide (2 ≤ s.rst.phase) && s.power.refclkOk && s.power.stby && !s.rst.heldDevice
  if ok then (s.setPower { s.power with devLock := true }).setRst { s.rst with refclkWait := false } else s

def refWindow (count : Nat) (s : State) : State :=
  let t := s.time
  let n := refNominal t.refFreq
  let bad := count = 0 ∨ 1000 * n < (if count < n then n - count else count - n) * 1000000
  if bad then
    let s1 := s.setPower { s.power with refclkOk := false }
    (s1.setTime { t with refLost := true, goodWins := 0 }).holdover
  else
    let k := min 16 (t.goodWins + 1)
    let s1 := if k = 16 then (s.setPower { s.power with refclkOk := true }).pllStart else s
    s1.setTime { t with goodWins := k, refLost := t.refLost && k < 16 }

def execRefMonitorWindow (count : Nat) (s : State) : Host.Outcome State Fault Refusal := .next (refWindow count s)

/-- Bits of a value, most significant first. -/
def bitsOf (v w : Nat) : List Bool := (upTo w).map fun i => v / 2 ^ (w - 1 - i) % 2 == 1

/-- The frame of a millisecond: the low prefix_len bits of the prefix (DEDUCED, log 46), then fcw. -/
def synFrame (s : State) : State :=
  let t := s.time
  if !t.synEn ∨ s.replaying ∨ s.host.berm then s
  else
    let raw := rhuDiv (t.c * t.gain) (2 ^ 32)
    let f := satInt t.fcwWidth raw
    let v := (BitVec.ofInt 40 f).toNat
    let s1 := s.setTime { t with synSat := t.synSat || f ≠ raw, last := v }
    s1.emit (.spi (bitsOf (t.prefixVal % 2 ^ t.prefixLen) t.prefixLen ++ bitsOf (v % 2 ^ t.fcwWidth) t.fcwWidth))

def execSynFcwFrame (s : State) : Host.Outcome State Fault Refusal := .next (synFrame s)

/-- The REFCLK offset against the recovered clock: c in HARD, a report in HYBRID; in HOLDOVER c stays frozen. -/
def synceMeasure (offset : Int) (s : State) : State :=
  let t := s.time
  if 7 < t.freqRef ∨ s.replaying then s
  else if t.mode = 2 then s.setTime { t with meas := signedOf 48 (BitVec.ofInt 48 offset).toNat }
  else if t.mode = 1 ∧ t.state ≠ .holdover then s.setC (Config.synceUpdate t.c offset)
  else s

def execSynceMeasure (offset : Int) (s : State) : Host.Outcome State Fault Refusal := .next (synceMeasure offset s)

/-! ## Timestamps and reads (20 R441, R442, R451) -/

/-- A delay of a port, in units of device time. -/
def delayUnits (ps : Half) : Int := rhuDiv (ps.toInt * 2 ^ 40) 1000

/-- An egress timestamp, corrected by the port's egress delay, or its loss where 64 wait. -/
def txTimestamp (ident : Half) (port : Nat) (s : State) : State :=
  let t := s.time
  if 64 ≤ t.queue.length then
    (s.setTime { t with txtsOvf := true, txDropped := bump 65535 t.txDropped }).record Tim.txtsOvf 0 [ident.toNat, port]
  else
    let at' := (t.now + delayUnits (t.delays.get (0, 0) port).1).toNat
    let e : Txts := { ident, port, sec := at' / 2 ^ 40 / 1000000000 % 2 ^ 48, ns := at' / 2 ^ 40 % 1000000000,
                      frac := at' % 2 ^ 40 / 2 ^ 24 }
    s.setTime { t with queue := t.queue ++ [e] }

def execTxTimestamp (ident : Half) (port : Fin 10) (s : State) : Host.Outcome State Fault Refusal :=
  .next (txTimestamp ident port.val s)

/-- A read of TIM_TXTS_LO: the head entry goes, its other half is latched. -/
def txtsPop (s : State) : Nat × State :=
  match s.time.queue with
  | [] => (0, s)
  | e :: r => (2 ^ 63 + e.port * 2 ^ 59 + e.ns * 2 ^ 16 + e.frac,
               s.setTime { s.time with queue := r, txHi := e.ident.toNat * 2 ^ 48 + e.sec })

def execTxtsPop (s : State) : Host.Outcome State Fault Refusal :=
  .next ((txtsPop s).2.emit (.word "TIM_TXTS_LO" (txtsPop s).1))

/-- A read of TIM_NOW_S latches ns and fraction. -/
def timeLatch (s : State) : State := s.setTime { s.time with latch := s.nowSub * 2 ^ 16 + s.nowFrac }

def execTimeReadLatch (s : State) : Host.Outcome State Fault Refusal :=
  .next ((timeLatch s).emit (.word "TIM_NOW_S" (s.nowSec % 2 ^ 48)))

/-! ## TIME_CONFIG, RELOCK (20 R445, R448) -/

/-- Is this a device of an array other than its master (15 R349)? -/
def State.follows (s : State) : Bool :=
  s.array.configured && s.array.nx * s.array.ny != 1 && s.array.y * s.array.nx + s.array.x != s.array.master

def timeCfgOk (c : TimeCfg) : Bool :=
  let le (a b : Nat) : Bool := decide (a ≤ b)
  c.mode != 3 && (le c.source.toNat 10 || c.source == 15) && c.refFreq != 3 && (le c.freqRef.toNat 7 || le 14 c.freqRef.toNat) &&
  le 24 c.domain.toNat && le c.domain.toNat 43 && le 1 c.levee.toNat && le c.levee.toNat 1000000000 && le 1 c.slewMax.toNat &&
  le c.slewMax.toNat 1000 && le 1 c.holdLimit.toNat && le 8 c.fcwWidth.toNat && le c.fcwWidth.toNat 40 &&
  le c.prefixLen.toNat 24 && le 12 c.div.toNat

def timeConfigBody (c : TimeCfg) (s : State) : State × Answer :=
  if !timeCfgOk c then (s, .err Code.cfgRange)
  else if s.follows ∧ (c.source ≠ 10 ∨ c.mode ≠ 1) then (s, .err Code.badState)
  else
    let t := s.time
    let later := t.slew ≠ 0 ∧ t.mode ≠ c.mode.toNat
    let t1 : TimeUnit := { t with
      mode := if later then t.mode else c.mode.toNat, nextMode := if later then some c.mode.toNat else none,
      source := c.source.toNat, refFreq := c.refFreq.toNat, freqRef := c.freqRef.toNat, domain := c.domain.toNat,
      synEn := c.synEn, oneStep := c.oneStep, levee := c.levee.toNat, ki := c.ki.toNat, slewMax := c.slewMax.toNat,
      holdLimit := c.holdLimit.toNat, fcwWidth := c.fcwWidth.toNat, prefixLen := c.prefixLen.toNat, div := c.div.toNat,
      prefixVal := c.prefixVal.toNat, gain := c.gain.toNat }
    let s1 := s.setTime (reIncr (if c.source = 15 then freed t1 else t1))
    (if c.source = 15 then s1 else s1.setPower { s1.power with radioLock := s1.power.radioLock || !s1.rst.heldRadio }, .ok)

def timeStates : MsgRow := { role := .admin, legal := [.started, .running] }

def execTimeConfig (h : QcpHdr) (c : TimeCfg) (s : State) : Host.Outcome State Fault Refusal :=
  .next (serve s h timeStates (timeConfigBody c))

def relockBody (s : State) : State × Answer :=
  if s.timeHeld then (s, .err Code.badState) else (s.setTime (freed s.time), .ok)

def execRelock (h : QcpHdr) (s : State) : Host.Outcome State Fault Refusal := .next (serve s h timeStates relockBody)

/-! ## PTP messages sent (20 R443) -/

/-- Delay_Req on the slave port; Sync, Delay_Resp and Announce on the others, the master ports, which berm service has none of. A Follow_Up
goes after a two-step Sync: on every port but NP0–NP7 with one_step (20 Table 3). -/
def ptpTransmit (port : Nat) (m : PtpMsg) (s : State) : State :=
  let t := s.time
  let go (k : Nat) : State := s.send port (.ptp k (BitVec.ofNat 8 t.clockClass) (BitVec.ofNat 8 t.domain) s.nowSec s.nowSub)
  if !(s.netPort port).up then s
  else match m with
    | .delayReq => if t.source = port then go 1 else s
    | .sync => if t.source = port ∨ s.host.berm then s else if t.oneStep ∧ port < 8 then go 0
        else (go 0).send port (.ptp 8 (BitVec.ofNat 8 t.clockClass) (BitVec.ofNat 8 t.domain) s.nowSec s.nowSub)
    | .delayResp => if t.source = port ∨ s.host.berm then s else go 9
    | .announce => if t.source = port ∨ s.host.berm then s else go 11

def execPtpMessageTransmit (port : Fin 10) (msg : PtpMsg) (s : State) : Host.Outcome State Fault Refusal :=
  .next (ptpTransmit port.val msg s)

end Sys2Proof.Machine
end

