-- ==== Sys2Proof/Machine/Clock.lean ====
section
/-! DEFINITION. What the block does when no command waits: one cycle of the arithmetic clock passes. -/
namespace Sys2Proof.Machine

/-- Ticks of the radio PLL per cycle of the arithmetic clock, 983.04 MHz over 1.25 GHz, as 12,288 to 15,625 (00 R8, 20 R437). -/
def radioTicks : Nat := 12288
def radioCycles : Nat := 15625

/-- A cycle passes; device time advances on each tick of a radio PLL that runs. -/
def idle (s : State) : State :=
  let acc := s.clock.radioAcc + radioTicks
  let s1 := { s with clock := { cycle := s.clock.cycle + 1, radioAcc := acc % radioCycles } }
  if radioCycles ≤ acc ∧ s.power.radioLock then s1.setTime (timeTick s1.time) else s1

end Sys2Proof.Machine
end

