-- ==== Sys2Proof/Machine/Fixed.lean ====
section
/-! DEFINITION. Roots, sines and complex numbers in fixed point with 60 fraction bits, for the amplitudes and phases that the manual
gives as formulas (03 R71, R79; 04 R88, R113). A real number is taken to within 2^−60 of it before the rounding the manual names
(DESIGN CHOICE, log 87). -/
namespace Sys2Proof.Machine

/-- The largest number of at most `k` bits above `a` at which a falling test still holds. -/
def bisect (f : Nat → Bool) : Nat → Nat → Nat
  | 0, a => a
  | k + 1, a => if f (a + 2 ^ k) then bisect f k (a + 2 ^ k) else bisect f k a

/-- The integer part of the k-th root of a number below 2^(k × bits). -/
def rootNat (k bits n : Nat) : Nat := bisect (fun x => decide (x ^ k ≤ n)) bits 0

/-- 1 in fixed point. -/
def fixOne : Nat := 2 ^ 60

/-- 1/√n in fixed point. -/
def invSqrtFix (n : Nat) : Nat := rootNat 2 61 (2 ^ 120 / n)

/-- 10^(k/40) in fixed point: half a decibel of amplitude a unit. -/
def dbFix (k : Int) : Nat :=
  match k with
  | .ofNat n => rootNat 40 70 (10 ^ n * 2 ^ 2400)
  | .negSucc n => rootNat 40 61 (2 ^ 2400 / 10 ^ (n + 1))

/-- π with 80 fraction bits. -/
def piFix80 : Int := 3141592653589793238462643383279502884197 * 2 ^ 80 / 10 ^ 39

/-- The terms of the cosine series from the n-th on: 80 fraction bits. -/
def cosTerms : Nat → Int → Int → Nat → Int
  | 0, _, _, _ => 0
  | f + 1, x2, term, n => term + cosTerms f x2 (-(term * x2 / 2 ^ 80 / ((2 * n + 1) * (2 * n + 2)))) (n + 1)

/-- cos(2π × num/den) in fixed point. -/
def cosTurn (num : Int) (den : Nat) : Int :=
  let m := num % den
  let r := if (den : Int) < 2 * m then (den : Int) - m else m
  let x := 2 * piFix80 * r / den
  cosTerms 30 (x * x / 2 ^ 80) (2 ^ 80) 0 / 2 ^ 20

/-- sin(2π × num/den) in fixed point. -/
def sinTurn (num : Int) (den : Nat) : Int := cosTurn (4 * num - den) (4 * den)

/-- A complex number of integers. -/
structure CInt where
  re : Int
  im : Int
deriving DecidableEq, Repr

namespace CInt
def zero : CInt := ⟨0, 0⟩
def add (a b : CInt) : CInt := ⟨a.re + b.re, a.im + b.im⟩
def sub (a b : CInt) : CInt := ⟨a.re - b.re, a.im - b.im⟩
def mul (a b : CInt) : CInt := ⟨a.re * b.re - a.im * b.im, a.re * b.im + a.im * b.re⟩
def conj (a : CInt) : CInt := ⟨a.re, -a.im⟩
def norm (a : CInt) : Nat := (a.re * a.re + a.im * a.im).toNat
def sum (l : List CInt) : CInt := l.foldl CInt.add CInt.zero
end CInt

/-- A point of the unit circle in fixed point: e^(2πi × num/den). -/
def unitTurn (num : Int) (den : Nat) : CInt := ⟨cosTurn num den, sinTurn num den⟩

/-- A complex number of fixed point rounded half up to Q1.15 and saturated (00 R12, 07 R171). -/
def q15Of (z : CInt) : CInt := ⟨satInt 16 (rhuDiv z.re (2 ^ 45)), satInt 16 (rhuDiv z.im (2 ^ 45))⟩

/-- The complex number that a grid word holds: real part in the low half. -/
def cintOf (w : Word) : CInt := ⟨signedOf 16 w.toNat, signedOf 16 (w.toNat / 65536)⟩

/-- The grid word of a complex number, each part saturated to 16 bits. -/
def cwordOf (z : CInt) : Word := BitVec.ofInt 16 (satInt 16 z.im) ++ BitVec.ofInt 16 (satInt 16 z.re)

/-! ## Complex rationals and the solution of a linear system -/

structure CRat where
  re : Rat
  im : Rat
deriving DecidableEq, Repr

namespace CRat
def zero : CRat := ⟨0, 0⟩
def one : CRat := ⟨1, 0⟩
def ofInt (z : CInt) : CRat := ⟨z.re, z.im⟩
def add (a b : CRat) : CRat := ⟨a.re + b.re, a.im + b.im⟩
def sub (a b : CRat) : CRat := ⟨a.re - b.re, a.im - b.im⟩
def mul (a b : CRat) : CRat := ⟨a.re * b.re - a.im * b.im, a.re * b.im + a.im * b.re⟩
def conj (a : CRat) : CRat := ⟨a.re, -a.im⟩
def norm (a : CRat) : Rat := a.re * a.re + a.im * a.im
def scale (k : Rat) (a : CRat) : CRat := ⟨k * a.re, k * a.im⟩
def inv (a : CRat) : CRat := let n := a.norm; ⟨a.re / n, -(a.im / n)⟩
def sum (l : List CRat) : CRat := l.foldl CRat.add CRat.zero
end CRat

/-- Rows of a complex matrix. -/
abbrev CMat := List (List CRat)

def cEntry (m : CMat) (i j : Nat) : CRat := (m.getD i []).getD j CRat.zero

/-- The conjugate transpose of a matrix with `cols` columns. -/
def cHerm (cols : Nat) (m : CMat) : CMat := (upTo cols).map fun j => m.map fun r => (r.getD j CRat.zero).conj

def cMul (cols : Nat) (a b : CMat) : CMat :=
  a.map fun r => (upTo cols).map fun j => CRat.sum (r.zipIdx.map fun e => e.1.mul (cEntry b e.2 j))

/-- Adds k to the diagonal. -/
def cDiag (k : Rat) (m : CMat) : CMat := m.zipIdx.map fun e => modAt e.1 e.2 fun x => x.add ⟨k, 0⟩

/-- One column of the elimination: the row with a pivot there is normalised and taken out of the others. -/
def elimCol (st : CMat × CMat) (j : Nat) : CMat × CMat :=
  match st.2.findIdx? fun r => r.getD j CRat.zero != CRat.zero with
  | none => st
  | some i =>
    let p := st.2.getD i []
    let q := p.map fun x => x.mul (p.getD j CRat.zero).inv
    let clear (r : List CRat) : List CRat := (r.zip q).map fun e => e.1.sub ((r.getD j CRat.zero).mul e.2)
    (st.1.map clear ++ [q], (st.2.eraseIdx i).map clear)

/-- The solution X of A X = B for a square A of n rows. -/
def cSolve (n : Nat) (a b : CMat) : CMat :=
  (((upTo n).foldl elimCol ([], (a.zip b).map fun e => e.1 ++ e.2)).1).map fun r => r.drop n

end Sys2Proof.Machine
end

