-- ==== Sys2Proof/Machine/Float.lean ====
section
/-! DEFINITION. Floating-point values, formats and rounding (07 R169, R172, R173). Every value but a quotient is dyadic, so
operations are exact and round once. -/
namespace Sys2Proof.Machine

/-- A float value: a NaN with its sign, an infinity, or ±m × 2^e. -/
inductive FVal where
  | nan (neg : Bool)
  | inf (neg : Bool)
  | fin (neg : Bool) (m : Nat) (e : Int)
deriving DecidableEq, Repr

/-- A binary format: exponent bits, mantissa bits, bias; `ieee` has infinities and NaNs, `nanTop` only the NaN of E4M3. -/
structure FloatFmt where
  eb     : Nat
  mb     : Nat
  bias   : Nat
  ieee   : Bool
  nanTop : Bool
deriving DecidableEq, Repr

def fmt32 : FloatFmt := { eb := 8, mb := 23, bias := 127, ieee := true, nanTop := false }
def fmt64 : FloatFmt := { eb := 11, mb := 52, bias := 1023, ieee := true, nanTop := false }
def fmtBf16 : FloatFmt := { eb := 8, mb := 7, bias := 127, ieee := true, nanTop := false }
def fmtE5M2 : FloatFmt := { eb := 5, mb := 2, bias := 15, ieee := true, nanTop := false }
def fmtE4M3 : FloatFmt := { eb := 4, mb := 3, bias := 7, ieee := false, nanTop := true }
def fmtE3M2 : FloatFmt := { eb := 3, mb := 2, bias := 3, ieee := false, nanTop := false }
def fmtE2M3 : FloatFmt := { eb := 2, mb := 3, bias := 1, ieee := false, nanTop := false }
def fmtE2M1 : FloatFmt := { eb := 2, mb := 1, bias := 1, ieee := false, nanTop := false }

/-- The value of a stored code (07 Table 1). -/
def decodeF (f : FloatFmt) (code : Nat) : FVal :=
  let neg := code / 2 ^ (f.eb + f.mb) % 2 = 1
  let ex := code / 2 ^ f.mb % 2 ^ f.eb
  let m := code % 2 ^ f.mb
  if f.ieee && ex == 2 ^ f.eb - 1 then (if m = 0 then .inf neg else .nan neg)
  else if f.nanTop && ex == 2 ^ f.eb - 1 && m == 2 ^ f.mb - 1 then .nan neg
  else if ex = 0 then .fin neg m (1 - (f.bias : Int) - f.mb)
  else .fin neg (m + 2 ^ f.mb) ((ex : Int) - f.bias - f.mb)

/-- n / d rounded to the nearest integer, ties to even. -/
def rneDiv (n d : Nat) : Nat :=
  let q := n / d
  let r := n % d
  if 2 * r < d then q else if 2 * r = d then q + q % 2 else q + 1

/-- n × 2^k / d with a rational shift, rounded to nearest even. -/
def rneScaled (n d : Nat) (k : Int) : Nat :=
  match k with
  | .ofNat j => rneDiv (n * 2 ^ j) d
  | .negSucc j => rneDiv n (d * 2 ^ (j + 1))

/-- floor(log2(n / d)) for positive n and d. -/
def log2Quot (n d : Nat) : Int :=
  let k : Int := (Nat.log2 n : Int) - Nat.log2 d
  let below : Bool := match k with
    | .ofNat j => decide (n < d * 2 ^ j)
    | .negSucc j => decide (n * 2 ^ (j + 1) < d)
  if below then k - 1 else k

/-- The magnitude code (sign aside) that n/d × 2^e rounds to in a format with an unbounded exponent range (07 R172). -/
def magCode (f : FloatFmt) (n d : Nat) (e : Int) : Nat :=
  if n = 0 then 0 else
    let emin : Int := 1 - (f.bias : Int)
    let ex := max (log2Quot n d + e) emin
    let r := rneScaled n d (e - (ex - f.mb))
    (ex - emin).toNat * 2 ^ f.mb + r

/-- The largest finite magnitude code. -/
def maxCode (f : FloatFmt) : Nat :=
  if f.ieee then (2 ^ f.eb - 1) * 2 ^ f.mb - 1 else if f.nanTop then 2 ^ (f.eb + f.mb) - 2 else 2 ^ (f.eb + f.mb) - 1

def signBit (f : FloatFmt) (neg : Bool) : Nat := if neg then 2 ^ (f.eb + f.mb) else 0

/-- The one NaN code of a format, with a sign (07 R172). -/
def nanCode (f : FloatFmt) (neg : Bool) : Nat :=
  signBit f neg + (if f.nanTop then 2 ^ (f.eb + f.mb) - 1 else (2 ^ f.eb - 1) * 2 ^ f.mb + 2 ^ (f.mb - 1))

def infCode (f : FloatFmt) (neg : Bool) : Nat := signBit f neg + (2 ^ f.eb - 1) * 2 ^ f.mb

/-- Round n/d × 2^e to an IEEE format: overflow goes to infinity (07 R172, Table 2 for BF16). -/
def roundIeee (f : FloatFmt) (neg : Bool) (n d : Nat) (e : Int) : Nat :=
  let c := magCode f n d e
  if c ≤ maxCode f then signBit f neg + c else infCode f neg

/-- The FP32 NaN (06 R149). -/
def nan32 : Word := 0x7FC00000

/-- fp32_rne of a value; a NaN is written as 0x7FC0_0000. -/
def rne32 : FVal → Word
  | .nan _ => nan32
  | .inf neg => BitVec.ofNat 32 (infCode fmt32 neg)
  | .fin neg m e => BitVec.ofNat 32 (roundIeee fmt32 neg m 1 e)

/-- The value of an FP32 word. -/
def val32 (w : Word) : FVal := decodeF fmt32 w.toNat

def isNan : FVal → Bool
  | .nan _ => true
  | _ => false

def isFin : FVal → Bool
  | .fin .. => true
  | _ => false

def FVal.isZero : FVal → Bool
  | .fin _ m _ => m == 0
  | _ => false

def FVal.negative : FVal → Bool
  | .nan n => n | .inf n => n | .fin n _ _ => n

def FVal.neg : FVal → FVal
  | .nan n => .nan !n | .inf n => .inf !n | .fin n m e => .fin (!n) m e

def FVal.abs : FVal → FVal
  | .nan _ => .nan false | .inf _ => .inf false | .fin _ m e => .fin false m e

/-- The signed integer m × 2^(e − lo) of a finite value, for lo ≤ e. -/
def scaledInt (neg : Bool) (m : Nat) (e lo : Int) : Int :=
  let v : Int := m * 2 ^ (e - lo).toNat
  if neg then -v else v

/-- Exact sum; a zero sum of unlike signs is +0, of two −0 is −0 (IEEE 754, to nearest). -/
def FVal.add : FVal → FVal → FVal
  | .nan n, _ => .nan n
  | _, .nan n => .nan n
  | .inf a, .inf b => if a = b then .inf a else .nan false
  | .inf a, _ => .inf a
  | _, .inf b => .inf b
  | .fin na ma ea, .fin nb mb eb =>
    let lo := min ea eb
    let v := scaledInt na ma ea lo + scaledInt nb mb eb lo
    if v = 0 then .fin (na && nb) 0 0 else .fin (decide (v < 0)) v.natAbs lo

def FVal.sub (a b : FVal) : FVal := a.add b.neg

/-- Exact product; ∞ × 0 is a NaN (06 R149). -/
def FVal.mul : FVal → FVal → FVal
  | .nan n, _ => .nan n
  | _, .nan n => .nan n
  | .inf a, .inf b => .inf (a != b)
  | .inf a, .fin b m _ => if m = 0 then .nan false else .inf (a != b)
  | .fin a m _, .inf b => if m = 0 then .nan false else .inf (a != b)
  | .fin a ma ea, .fin b mb eb => .fin (a != b) (ma * mb) (ea + eb)

/-- fp32_rne of a quotient. -/
def div32 : FVal → FVal → Word
  | .nan _, _ => nan32
  | _, .nan _ => nan32
  | .inf _, .inf _ => nan32
  | .inf a, .fin b _ _ => BitVec.ofNat 32 (infCode fmt32 (a != b))
  | .fin a _ _, .inf b => BitVec.ofNat 32 (signBit fmt32 (a != b))
  | .fin a ma ea, .fin b mb eb =>
    if mb = 0 then (if ma = 0 then nan32 else BitVec.ofNat 32 (infCode fmt32 (a != b)))
    else BitVec.ofNat 32 (roundIeee fmt32 (a != b) ma mb (ea - eb))

def add32 (a b : Word) : Word := rne32 ((val32 a).add (val32 b))
def sub32 (a b : Word) : Word := rne32 ((val32 a).sub (val32 b))
def mul32 (a b : Word) : Word := rne32 ((val32 a).mul (val32 b))

/-- An integer converted exactly and rounded once. -/
def ofInt32 (v : Int) : Word := rne32 (.fin (decide (v < 0)) v.natAbs 0)

/-- Is a < b, both not NaN, −0 = +0? -/
def FVal.lt : FVal → FVal → Bool
  | .nan _, _ => false
  | _, .nan _ => false
  | .inf a, .inf b => a && !b
  | .inf a, .fin .. => a
  | .fin .., .inf b => !b
  | .fin na ma ea, .fin nb mb eb =>
    let lo := min ea eb
    decide (scaledInt na ma ea lo < scaledInt nb mb eb lo)

/-- IEEE equality, −0 = +0. -/
def FVal.eqv (a b : FVal) : Bool := !isNan a && !isNan b && !a.lt b && !b.lt a

/-- Smaller of two in the order of MIN: −0 < +0, a NaN wins (08 R190). -/
def min32 (a b : Word) : Word :=
  let x := val32 a
  let y := val32 b
  if isNan x || isNan y then nan32
  else if x.lt y then a else if y.lt x then b else if x.negative then a else b

def max32 (a b : Word) : Word :=
  let x := val32 a
  let y := val32 b
  if isNan x || isNan y then nan32
  else if x.lt y then b else if y.lt x then a else if x.negative then b else a

/-- floor(v) of ±m × 2^e. -/
def floorF (neg : Bool) (m : Nat) (e : Int) : Int :=
  match e with
  | .ofNat k => if neg then -((m * 2 ^ k : Nat) : Int) else m * 2 ^ k
  | .negSucc k => Int.fdiv (if neg then -(m : Int) else m) (2 ^ (k + 1))

/-- rhu(v) = floor(v + 1/2) of a finite value (07 R171). -/
def rhuF (neg : Bool) (m : Nat) (e : Int) : Int :=
  match e with
  | .ofNat k => if neg then -((m * 2 ^ k : Nat) : Int) else m * 2 ^ k
  | .negSucc k => Int.fdiv ((if neg then -(m : Int) else m) * 2 + 2 ^ (k + 1)) (2 ^ (k + 2))

/-- rhu_shift of 07 R171; a shift of 0 leaves the value. -/
def rhuShift (x : Int) (n : Nat) : Int := if n = 0 then x else Int.fdiv (x + 2 ^ (n - 1)) (2 ^ n)

/-! FP64 sums of the quantisation statistics (07 R184). -/

def rne64 : FVal → Dword
  | .nan _ => BitVec.ofNat 64 (nanCode fmt64 false)
  | .inf neg => BitVec.ofNat 64 (infCode fmt64 neg)
  | .fin neg m e => BitVec.ofNat 64 (roundIeee fmt64 neg m 1 e)

def val64 (w : Dword) : FVal := decodeF fmt64 w.toNat

def add64 (a b : Dword) : Dword := rne64 ((val64 a).add (val64 b))

end Sys2Proof.Machine
end

