-- ==== Sys2Proof/Machine/Flags.lean ====
section
/-! DEFINITION. The sticky flags an operation raises, and saturating narrowings that raise them (07 R173, R186). -/
namespace Sys2Proof.Machine

/-- The sticky flags one operation adds (07 R173, 06 R148). -/
structure Raised where
  q   : Bool
  nan : Bool
  acc : Bool
deriving DecidableEq, Repr

def Raised.none : Raised := { q := false, nan := false, acc := false }
def Raised.sat : Raised := { q := true, nan := false, acc := false }
def Raised.nanSeen : Raised := { q := false, nan := true, acc := false }
def Raised.or (a b : Raised) : Raised := { q := a.q || b.q, nan := a.nan || b.nan, acc := a.acc || b.acc }

/-- Saturation to [lo, hi], setting q_sat. -/
def satFlag (lo hi v : Int) : Int × Raised := if v < lo then (lo, .sat) else if hi < v then (hi, .sat) else (v, .none)

/-- Saturation to a signed width, setting q_sat. -/
def satBits (w : Nat) (v : Int) : Int × Raised := satFlag (-(2 ^ (w - 1))) (2 ^ (w - 1) - 1) v

/-- sat48 of an accumulator, setting acc_sat (06 R148). -/
def sat48 (v : Int) : BitVec 48 × Raised :=
  let r := satBits 48 v
  (BitVec.ofInt 48 r.1, { q := false, nan := false, acc := r.2.q })

/-- FP8 E5M2 keeps infinities and saturates finite overflow (07 Table 2). -/
def narrowE5M2 : FVal → Nat × Raised
  | .nan n => (nanCode fmtE5M2 n, .none)
  | .inf n => (infCode fmtE5M2 n, .none)
  | .fin n m e =>
    let c := magCode fmtE5M2 m 1 e
    if c ≤ maxCode fmtE5M2 then (signBit fmtE5M2 n + c, .none) else (signBit fmtE5M2 n + maxCode fmtE5M2, .sat)

/-- FP8 E4M3 saturates infinities too. -/
def narrowE4M3 : FVal → Nat × Raised
  | .nan n => (nanCode fmtE4M3 n, .none)
  | .inf n => (signBit fmtE4M3 n + maxCode fmtE4M3, .sat)
  | .fin n m e =>
    let c := magCode fmtE4M3 m 1 e
    if c ≤ maxCode fmtE4M3 then (signBit fmtE4M3 n + c, .none) else (signBit fmtE4M3 n + maxCode fmtE4M3, .sat)

/-- BF16 rounds to infinity under IEEE rules and raises nothing. -/
def narrowBf16 : FVal → Nat × Raised
  | .nan n => (nanCode fmtBf16 n, .none)
  | .inf n => (infCode fmtBf16 n, .none)
  | .fin n m e => (roundIeee fmtBf16 n m 1 e, .none)

/-- A float MX element: rounded to nearest even, clamped to ± the element maximum. -/
def narrowMx (f : FloatFmt) (neg : Bool) (m : Nat) (e : Int) : Nat × Raised :=
  let c := magCode f m 1 e
  if c ≤ maxCode f then (signBit f neg + c, .none) else (signBit f neg + maxCode f, .sat)

/-- MXINT8: the nearest multiple of 2^−6, ties to even code. -/
def narrowMxInt8 (neg : Bool) (m : Nat) (e : Int) : Nat × Raised :=
  let c := rneScaled m 1 (e + 6)
  let v : Int := if neg then -(c : Int) else c
  let r := satFlag (-127) 127 v
  ((BitVec.ofInt 8 r.1).toNat, r.2)

/-- A quotient in integer units: rhu, then zero point, then saturation; an infinity takes the end of the range, a NaN 0
(07 R175, Table 2, 11 R254). -/
def quantInt (lo hi zp : Int) (x : FVal) : Int × Raised :=
  match x with
  | .nan _ => (0, .nanSeen)
  | .inf n => (if n then lo else hi, .sat)
  | .fin n m e => satFlag lo hi (rhuF n m e + zp)

end Sys2Proof.Machine
end

