-- ==== Sys2Proof/Machine/Log.lean ====
section
/-! DEFINITION. The log ring and the trace points (19 R427, R428). The codes, sources and parameters of log records and the numbers of trace
points inside their groups are not stated: they are free values (DESIGN CHOICE, log 63). -/
namespace Sys2Proof.Machine

/-- A 64-byte record at the ring's write place, then write_index; the oldest record is overwritten. -/
def State.logWrite (s : State) (r : LogRing) (level v : Nat) : State :=
  let bs := leBytes 3 v ++ leBytes 1 level ++ leBytes 4 r.write ++ leBytes 8 s.nowNs ++ leBytes 48 (v / 2 ^ 24)
  let s1 := s.extWrite (r.base + 64 + r.write % r.records * 64) bs
  (s1.setHost { s1.host with log := some { r with write := r.write + 1 } }).extWrite r.base (leBytes 8 (r.write + 1))

/-- A record of the firmware's, at a level that is free, where a ring takes that level. -/
def State.logRecord (s : State) : State :=
  match s.host.log with
  | none => s
  | some r =>
    let (v, s1) := s.draw
    if v % 4 ≤ r.level then s1.logWrite r (v % 4) (v / 4) else s1

/-- Is a trace point of [lo, hi) enabled, with a ring that takes level 3? -/
def State.tracing (s : State) (lo hi : Nat) : Bool :=
  (match s.host.log with | some r => r.level == 3 | none => false) && (upTo (hi - lo)).any fun i => s.host.trace.getLsbD (lo + i)

/-- A trace point of a group is reached. -/
def State.tracePoint (s : State) (lo hi : Nat) : State :=
  match s.tracing lo hi, s.host.log with
  | true, some r =>
    let (v, s1) := s.draw
    if s.host.trace.getLsbD (lo + v % (hi - lo)) then s1.logWrite r 3 (v / (hi - lo)) else s1
  | _, _ => s

/-- A command that changed anything has reached a trace point of its group. -/
def traced (lo hi : Nat) (s s1 : State) : State := if s1.tracing lo hi then (if s1 = s then s1 else s1.tracePoint lo hi) else s1

end Sys2Proof.Machine
end

