-- ==== Sys2Proof/Machine/Random.lean ====
section
/-! DEFINITION. AES-128, the random blocks formed with it, and CRC-32C (16 R355, R356, 11 R240). -/
namespace Sys2Proof.Machine

/-- The substitution box of FIPS 197. -/
def aesBox : List Byte :=
  [0x63, 0x7c, 0x77, 0x7b, 0xf2, 0x6b, 0x6f, 0xc5, 0x30, 0x01, 0x67, 0x2b, 0xfe, 0xd7, 0xab, 0x76] ++
  [0xca, 0x82, 0xc9, 0x7d, 0xfa, 0x59, 0x47, 0xf0, 0xad, 0xd4, 0xa2, 0xaf, 0x9c, 0xa4, 0x72, 0xc0] ++
  [0xb7, 0xfd, 0x93, 0x26, 0x36, 0x3f, 0xf7, 0xcc, 0x34, 0xa5, 0xe5, 0xf1, 0x71, 0xd8, 0x31, 0x15] ++
  [0x04, 0xc7, 0x23, 0xc3, 0x18, 0x96, 0x05, 0x9a, 0x07, 0x12, 0x80, 0xe2, 0xeb, 0x27, 0xb2, 0x75] ++
  [0x09, 0x83, 0x2c, 0x1a, 0x1b, 0x6e, 0x5a, 0xa0, 0x52, 0x3b, 0xd6, 0xb3, 0x29, 0xe3, 0x2f, 0x84] ++
  [0x53, 0xd1, 0x00, 0xed, 0x20, 0xfc, 0xb1, 0x5b, 0x6a, 0xcb, 0xbe, 0x39, 0x4a, 0x4c, 0x58, 0xcf] ++
  [0xd0, 0xef, 0xaa, 0xfb, 0x43, 0x4d, 0x33, 0x85, 0x45, 0xf9, 0x02, 0x7f, 0x50, 0x3c, 0x9f, 0xa8] ++
  [0x51, 0xa3, 0x40, 0x8f, 0x92, 0x9d, 0x38, 0xf5, 0xbc, 0xb6, 0xda, 0x21, 0x10, 0xff, 0xf3, 0xd2] ++
  [0xcd, 0x0c, 0x13, 0xec, 0x5f, 0x97, 0x44, 0x17, 0xc4, 0xa7, 0x7e, 0x3d, 0x64, 0x5d, 0x19, 0x73] ++
  [0x60, 0x81, 0x4f, 0xdc, 0x22, 0x2a, 0x90, 0x88, 0x46, 0xee, 0xb8, 0x14, 0xde, 0x5e, 0x0b, 0xdb] ++
  [0xe0, 0x32, 0x3a, 0x0a, 0x49, 0x06, 0x24, 0x5c, 0xc2, 0xd3, 0xac, 0x62, 0x91, 0x95, 0xe4, 0x79] ++
  [0xe7, 0xc8, 0x37, 0x6d, 0x8d, 0xd5, 0x4e, 0xa9, 0x6c, 0x56, 0xf4, 0xea, 0x65, 0x7a, 0xae, 0x08] ++
  [0xba, 0x78, 0x25, 0x2e, 0x1c, 0xa6, 0xb4, 0xc6, 0xe8, 0xdd, 0x74, 0x1f, 0x4b, 0xbd, 0x8b, 0x8a] ++
  [0x70, 0x3e, 0xb5, 0x66, 0x48, 0x03, 0xf6, 0x0e, 0x61, 0x35, 0x57, 0xb9, 0x86, 0xc1, 0x1d, 0x9e] ++
  [0xe1, 0xf8, 0x98, 0x11, 0x69, 0xd9, 0x8e, 0x94, 0x9b, 0x1e, 0x87, 0xe9, 0xce, 0x55, 0x28, 0xdf] ++
  [0x8c, 0xa1, 0x89, 0x0d, 0xbf, 0xe6, 0x42, 0x68, 0x41, 0x99, 0x2d, 0x0f, 0xb0, 0x54, 0xbb, 0x16]

def subByte (b : Byte) : Byte := aesBox.getD b.toNat 0

/-- Multiplication by x in the field of FIPS 197. -/
def xtime (b : Byte) : Byte := if b.getLsbD 7 then (b <<< 1) ^^^ 0x1b else b <<< 1

def xorBytes (a b : List Byte) : List Byte := (a.zip b).map fun p => p.1 ^^^ p.2

/-- The key schedule: the round keys after `k`, with the round constant of the next one. -/
def nextKeys : Nat → Byte → List Byte → List (List Byte)
  | 0, _, _ => []
  | n + 1, rc, k =>
    let w (i : Nat) : List Byte := (k.drop (4 * i)).take 4
    let l := w 3
    let r := (l.drop 1 ++ l.take 1).map subByte
    let t := (r.headD 0 ^^^ rc) :: r.drop 1
    let w0 := xorBytes (w 0) t
    let w1 := xorBytes (w 1) w0
    let w2 := xorBytes (w 2) w1
    let w3 := xorBytes (w 3) w2
    let k' := w0 ++ w1 ++ w2 ++ w3
    k' :: nextKeys n (xtime rc) k'

/-- Byte i of row r is column-major byte 4c + r; row r turns left by r columns. -/
def shiftRows (b : List Byte) : List Byte :=
  (upTo 16).map fun i => b.getD ((i / 4 + i % 4) % 4 * 4 + i % 4) 0

def mixColumn (c : List Byte) : List Byte :=
  let a (i : Nat) : Byte := c.getD (i % 4) 0
  (upTo 4).map fun i => xtime (a i) ^^^ (xtime (a (i + 1)) ^^^ a (i + 1)) ^^^ a (i + 2) ^^^ a (i + 3)

def mixColumns (b : List Byte) : List Byte := (upTo 4).flatMap fun c => mixColumn ((b.drop (4 * c)).take 4)

/-- The rounds after the first key addition. -/
def aesRounds : List (List Byte) → List Byte → List Byte
  | [], b => b
  | [k], b => xorBytes (shiftRows (b.map subByte)) k
  | k :: r, b => aesRounds r (xorBytes (mixColumns (shiftRows (b.map subByte))) k)

/-- AES-128 encryption of a 16-byte block (FIPS 197). -/
def aes128 (key block : List Byte) : List Byte := aesRounds (nextKeys 10 1 key) (xorBytes block key)

/-- The 16 bytes c[j] of a random block (16 R355). -/
def randomPart (seed counter stream block j : Nat) : List Byte :=
  aes128 (leBytes 8 seed ++ leBytes 4 stream ++ leBytes 4 0) (leBytes 8 counter ++ leBytes 4 block ++ leBytes 4 j)

/-- Word i of a random block. -/
def randomWord (seed counter stream block i : Nat) : Word :=
  BitVec.ofNat 32 (leNat (((randomPart seed counter stream block (i / 4)).drop (4 * (i % 4))).take 4))

/-- The 128 words of a random block. -/
def randomBlock (seed counter stream block : Nat) : List Word :=
  (upTo 32).flatMap fun j =>
    let c := randomPart seed counter stream block j
    (upTo 4).map fun i => BitVec.ofNat 32 (leNat ((c.drop (4 * i)).take 4))

/-- A share test against p per mille (16 R356). -/
def shareTest (draw : Word) (perMille : Nat) : Bool := draw.toNat * 1000 / 2 ^ 32 < perMille

/-- An index drawn from n values. -/
def drawIndex (w : Word) (n : Nat) : Nat := w.toNat * n / 2 ^ 32

/-! ## CRC-32C: polynomial 0x1EDC6F41 reflected, start and final inversion -/

def crcBit (c : Word) : Word := if c.getLsbD 0 then (c >>> 1) ^^^ 0x82F63B78 else c >>> 1

def crcByte (c : Word) (b : Byte) : Word :=
  let x := c ^^^ b.setWidth 32
  crcBit (crcBit (crcBit (crcBit (crcBit (crcBit (crcBit (crcBit x)))))))

def crc32c (bs : List Byte) : Word := ~~~(bs.foldl crcByte 0xFFFFFFFF)

end Sys2Proof.Machine
end

