-- ==== Sys2Proof/Machine/Seal.lean ====
section
/-! DEFINITION. AES-256-GCM with the lengths it keeps, and blobs sealed to this device (18 R395). -/
namespace Sys2Proof.Machine

/-- A byte string of a length. -/
def sized (n : Nat) (bs : List Byte) : List Byte := (upTo n).map fun i => bs.getD i 0

/-- AES-256-GCM: the ciphertext, as long as the text, and its 16-byte tag. -/
def sealText (key iv aad text : List Byte) : List Byte := sized (text.length + 16) (Config.gcmSeal key iv aad text)

/-- The text of a ciphertext and its tag, `none` where the tag fails. -/
def openText (key iv aad sealed : List Byte) : Option (List Byte) := (Config.gcmOpen key iv aad sealed).map (sized (sealed.length - 16))

/-- The header of a sealed blob: kind, purpose, plaintext length, IV. -/
def blobHeader (purpose len : Nat) (iv : List Byte) : List Byte :=
  leBytes 4 7 ++ leBytes 4 purpose ++ leBytes 8 len ++ iv ++ leBytes 4 0

/-- Bytes sealed under a purpose with a random IV, and the state that drew it. -/
def State.sealBlob (s : State) (purpose : Nat) (plain : List Byte) : List Byte × State :=
  let (v, s1) := s.draw
  let hd := blobHeader purpose plain.length (leBytes 12 v)
  (hd ++ sealText (Config.sealKey purpose) (leBytes 12 v) hd plain, s1)

/-- The text of a blob at an address, `none` where it is not one of the purpose sealed to this device. -/
def State.openBlob (s : State) (purpose addr : Nat) : Option (List Byte) :=
  let hd := s.extRead addr 32
  let n := leNat ((hd.drop 8).take 8)
  if leNat (hd.take 4) = 7 ∧ leNat ((hd.drop 4).take 4) = purpose then
    openText (Config.sealKey purpose) ((hd.drop 16).take 12) hd (s.extRead (addr + 32) (n + 16))
  else none

end Sys2Proof.Machine
end

