-- ==== Sys2Proof/Machine/Adapt.lean ====
section
/-! DEFINITION. In-service adaptation: versions, samples, training, shadow evaluation, decisions and control (05). -/
namespace Sys2Proof.Machine

/-! ## Versions and states (05 R120–R122, R137) -/

def adaptCode : AdaptState → Nat
  | .off => 0 | .collect => 1 | .train => 2 | .shadow => 3 | .probation => 4 | .frozen => 5

def storeOf (a : AdaptSet) : List Version := a.store.filterMap id
def hasVersion (a : AdaptSet) (v : Word) : Bool := (storeOf a).any (·.number = v)

/-- The weights of a version in a set's store. -/
def State.weightsOf (s : State) (n : Nat) (v : Word) : List Byte := (((storeOf (s.aset n)).find? fun e => e.number = v).map (·.weights)).getD []

/-- The version without a candidate's entry. -/
def freeEntry (a : AdaptSet) (v : Word) : AdaptSet :=
  { a with store := a.store.map fun e => match e with | some x => if x.number = v then none else some x | none => none }

def dropCandidate (a : AdaptSet) : AdaptSet :=
  match a.candidate with
  | some v => { freeEntry a v with candidate := none, steps := 0 }
  | none => { a with steps := 0 }

/-- The versions involved in a change where none is replaced: the active one and the candidate. -/
def versionsOf (a : AdaptSet) : Word × Word := (a.active.getD 0, a.candidate.getD 0)

/-- A change of state with its event: set, old and new states, the versions involved (05 R137). A set that leaves OFF counts its samples anew
(05 R140). -/
def State.adaptTo (s : State) (n : Nat) (code : Half) (st : AdaptState) (vs : Word × Word) : State :=
  let a := s.aset n
  if a.state = st then s
  else ((s.setAset n { a with state := st, noTiles := a.noTiles && st != .off, taken := if a.state = .off then 0 else a.taken }).record code n
    [n, adaptCode a.state * 256 + adaptCode st, vs.1.toNat, vs.2.toNat]).tracePoint 96 112

/-- A change that its event ADAPT_STATE reports, with the versions as they stand. -/
def State.adaptMove (s : State) (n : Nat) (st : AdaptState) : State := s.adaptTo n Code.adaptState st (versionsOf (s.aset n))

/-- The absolute slot of this moment for a set (02 R30). -/
def State.slotNow (s : State) (n : Nat) : Nat :=
  let mu := if n < 8 then (match (s.cell n).ul with | some u => u.mu.toNat | none => 1) else 1
  s.nowNs / slotNs mu

/-- The first slot that a version active from now on serves: that of a cell is the first whose entry offset has not come (02 R43); a
channel has the slot of this moment (DEDUCED, log 50). -/
def State.firstServed (s : State) (n : Nat) : Nat :=
  if n < 8 then (s.cell n).ulSlots.entries.foldl (fun m e => match e.2 with
    | some x => if s.nowNs < x.t0 then min m e.1 else m
    | none => m) (s.slotNow n)
  else s.slotNow n

/-- Another version is in force: capture notes it with the slot from which it applies (16 R358, R359). -/
def State.activate (s : State) (n : Nat) (v : Option Word) : State :=
  let a := s.aset n
  if a.active = v then s
  else (s.setAset n { a with active := v }).captureVersion n (v.getD 0).toNat (s.firstServed n)

/-- Does a standing entry of the table in force name the set (05 R129)? -/
def State.standing (s : State) (n : Nat) : Bool :=
  match s.sched.table with
  | some t => t.entries.any fun e => e.kind == 1 && e.owner == n
  | none => false

def State.minSamples (s : State) (n : Nat) : Nat :=
  match (s.aset n).cfg with | some r => r.minSamples.toNat | none => 0

/-- The state a set leaves FROZEN or SELECT for. -/
def State.restState (s : State) (n : Nat) (standing : Bool) : AdaptState :=
  if s.minSamples n ≤ (s.aset n).fill ∧ standing then .train else .collect

def zeroEval (a : AdaptSet) : AdaptSet := { a with evalCount := 0, evalBlocks := 0, passActive := 0, passOther := 0 }

/-! ## Configuration (05 R123) -/

/-- The ranges of 05 Table 1: BF16 codes of positive numbers rise with their values. -/
def adaptInRange (r : AdaptRec) : Bool :=
  let in' (lo hi n : Nat) : Bool := lo ≤ n && n ≤ hi
  r.flagsRsvd == 0 && r.genRsvd == 0 && r.rsvd38 == 0 && r.set.toNat ≤ 11 && (r.set.toNat ≤ 7 || !r.guardCheck) && in' 1 1000 r.samplePerMille.toNat && in' 1 500 r.shadowPerMille.toNat &&
  in' 1 1000 r.marginBp.toNat && in' 1000 1000000 r.evalSlots.toNat && in' 1000 1000000 r.probationSlots.toNat &&
  r.regionBase.toNat % 2 ^ 20 == 0 && in' 256 16384 r.poolRecords.toNat && in' 1 1000 r.rollbackBp.toNat &&
  in' 64 r.poolRecords.toNat r.minSamples.toNat && 100 ≤ r.stepsPerCandidate.toNat && in' 1 0x3F80 r.lr.toNat &&
  r.momentum.toNat ≤ 0x3F7D &&
  in' 1000 1000000 r.guardWindow.toNat && 1 ≤ r.guardLimit.toNat && [16, 32, 64, 128, 256].contains r.batch.toNat

/-- The set's HBM region: base and size. -/
def adaptRegion (r : AdaptRec) : Nat × Nat := (r.regionBase.toNat, r.poolRecords.toNat * 0x10000 + 64 * 2 ^ 20)

def rangesMeet (a b : Nat × Nat) : Bool := decide (a.1 < b.1 + b.2 ∧ b.1 < a.1 + a.2)

/-- HARQ pools of the cells, records in force and pending. -/
def State.harqPools (s : State) (except : Nat) : List (Nat × Nat) :=
  (upTo 8).flatMap fun c =>
    if c = except then [] else
      let x := s.cell c
      let pool (u : UlCell) : Nat × Nat := (u.harqPoolBase.toNat, u.harqPoolPages.toNat * 0x8000)
      (match x.ul with | some u => [pool u] | none => []) ++ (match x.pending with | some p => [pool p.1] | none => [])

def State.adaptRegions (s : State) (except : Nat) : List (Nat × Nat) :=
  (upTo 12).flatMap fun n =>
    if n = except then [] else
      let a := s.aset n
      (match a.cfg with | some r => [adaptRegion r] | none => []) ++ (match a.pendingCfg with | some r => [adaptRegion r] | none => [])

def adaptConfigBody (r : AdaptRec) (s : State) : State × Answer :=
  let reg := adaptRegion r
  let n := r.set.toNat
  if !adaptInRange r then (s, .err Code.cfgRange)
  else if hbmSize < reg.1 + reg.2 ∨ !s.domainOk .radio reg.1 reg.2 ∨
      (s.adaptRegions n ++ s.harqPools 8).any (rangesMeet reg) then (s, .err Code.cfgCapacity)
  else (s.setAset n { (s.aset n) with pendingCfg := some r }, .ok)

def execAdaptConfig (h : QcpHdr) (r : AdaptRec) (s : State) : Host.Outcome State Fault Refusal :=
  .next (serve s h { role := .operate, legal := [.running] } (adaptConfigBody r))

/-- The pool emptied (05 R128). -/
def emptyPool (a : AdaptSet) : AdaptSet := { a with fill := 0, ringPos := 0, units := [] }

def State.pinVersion (s : State) (n : Nat) (v : Word) (on : Bool) : State :=
  let a := s.aset n
  let mark (x : Version) : Version := if x.number = v then { x with pinned := on } else x
  s.setAset n { a with store := a.store.map fun e => e.map mark }

/-- A set in COLLECT with enough samples and a standing entry trains. -/
def State.collectDone (s : State) (n : Nat) : State :=
  let a := s.aset n
  let s1 := s.setAset n { a with noTiles := a.state != .off && !s.standing n }
  if a.state = .collect ∧ s.restState n (s.standing n) = .train then s1.adaptMove n .train else s1

/-- The version with its number and shape as the sealed bytes carry it (layout DESIGN CHOICE, log 27). -/
def versionBytes (v : Version) : List Byte :=
  leBytes 4 v.number.toNat ++ leBytes 1 v.mu ++ leBytes 1 v.nRx ++ leBytes 1 v.layers ++ leBytes 1 (if v.device then 1 else 0) ++ v.weights

/-- The version that such bytes hold. -/
def versionOf (b : List Byte) : Version :=
  let at' (i : Nat) : Nat := (b.getD i 0).toNat
  { number := BitVec.ofNat 32 (leNat (b.take 4)), pinned := false, device := at' 7 == 1, arrival := 0, mu := at' 4, nRx := at' 5, layers := at' 6,
    weights := b.drop 8 }

/-- The version store in HBM: entry i at region_base + i × 4 MiB (05 R122, R123; an entry's layout is free, log 111). -/
def State.writeStore (s : State) (n : Nat) : State :=
  match (s.aset n).cfg with
  | some r => (s.aset n).store.zipIdx.foldl (fun s e => match e.1 with
      | some v => s.extWrite (r.regionBase.toNat + e.2 * 0x400000) ((Config.storedVersion (versionBytes v)).take 0x400000)
      | none => s) s
  | none => s

/-- The set goes to OFF: its pool is emptied and its candidate discarded (05 R128, R137, R141). -/
def State.shapeOff (s : State) (n : Nat) : State :=
  (s.setAset n (dropCandidate (emptyPool (s.aset n)))).adaptTo n Code.adaptState .off (versionsOf (s.aset n))

/-- An accepted record is applied at a frame boundary: the pool and the version store go where the region moved, a guard window begins, the set
is enabled or goes to OFF (05 R123, R128, R136, R137). -/
def adaptApply (n : Nat) (s : State) : State :=
  let a := s.aset n
  match a.pendingCfg with
  | none => s
  | some r =>
    let moved := match a.cfg with
      | some o => o.regionBase != r.regionBase || o.poolRecords != r.poolRecords
      | none => false
    let c := s.cell n
    let a1 := { (if moved then emptyPool a else a) with
      cfg := some r, pendingCfg := none, guardStart := s.slotNow n, lossStart := c.guardLoss, gainStart := c.guardGain }
    let a2 := if a.cfg.isNone ∨ a.state = .off then { a1 with nextGen := r.genBase.toNat } else a1
    let s1 := (s.setAset n a2).writeStore n
    let s2 := if r.pinActive then (match a.active with | some v => s1.pinVersion n v true | none => s1) else s1
    if !r.enable then s2.shapeOff n
    else if a.state = .off ∧ a.active.isSome then (s2.adaptMove n .collect).collectDone n
    else s2.collectDone n

/-! ## Samples (05 R124–R128) -/

/-- Does a set take samples now? -/
def State.sampling (s : State) (n : Nat) : Bool :=
  !s.replaying && (match (s.aset n).state with | .collect | .train | .shadow | .probation => true | _ => false)

/-- The draw of unit `u` of a slot. -/
def unitDraw (seed counter stream u : Nat) : Word := randomWord seed counter stream (u / 128) (u % 128)

def State.takeUnit (s : State) (n : Nat) (x : PoolUnit) : State :=
  let a := s.aset n
  s.setAset n { a with units := a.units ++ [x], taken := bump top64 a.taken }

/-- Bytes cut or padded to `n`. -/
def padTo (n : Nat) (bs : List Byte) : List Byte := (bs ++ List.replicate n 0).take n

/-- The bytes of a sample record (05 Table 2). -/
def unitRecord (u : PoolUnit) : List Byte :=
  leBytes 4 u.kind ++ leBytes 4 u.version.toNat ++ leBytes 8 u.stamp ++ padTo 16 u.info ++ leBytes 224 0 ++
    padTo 0xA800 u.y ++ padTo 0x2A00 u.x ++ padTo 0xA80 u.bits ++ leBytes 0x2280 0

/-- Where a record of the pool lies. -/
def recordPlace (r : AdaptRec) (i : Nat) : Nat := r.regionBase.toNat + 64 * 2 ^ 20 + i * 0x10000

/-- The oldest unit, within its time, becomes a record of the pool, in place of the oldest record where the pool is full. -/
def sampleWrite (n : Nat) (s : State) : State :=
  let a := s.aset n
  match a.units, a.cfg with
  | u :: rest, some r =>
    if u.due < s.nowNs then s
    else
      ((s.extWrite (recordPlace r a.ringPos) (unitRecord u)).setAset n { a with
        units := rest, fill := min r.poolRecords.toNat (a.fill + 1), ringPos := (a.ringPos + 1) % r.poolRecords.toNat }).collectDone n
  | _, _ => s

def execSampleLabelWrite (set : SetId) (s : State) : Host.Outcome State Fault Refusal := .next (sampleWrite set.val s)

/-- A unit not written within 2 ms of its slot's deadline is dropped and counted. -/
def sampleDrop (n : Nat) (s : State) : State :=
  let a := s.aset n
  match a.units with
  | u :: rest => if u.due < s.nowNs then s.setAset n { a with units := rest, dropped := bump top32 a.dropped } else s
  | [] => s

def execSampleDropTimeout (set : SetId) (s : State) : Host.Outcome State Fault Refusal := .next (sampleDrop set.val s)

/-! ## Training (05 R130, R131) -/

/-- The entry evicted for a candidate: the oldest made by the device that nothing protects. -/
def evictable (a : AdaptSet) : Option Version :=
  ((storeOf a).filter fun v => v.device && !v.pinned && a.active != some v.number && a.previous != some v.number && a.candidate != some v.number).foldl
    (fun o v => match o with | none => some v | some w => if v.arrival < w.arrival then some v else some w) none

/-- The store with room for one more version, if there is any. -/
def makeRoom (a : AdaptSet) : Option AdaptSet :=
  if a.store.any (·.isNone) then some a else (evictable a).map fun v => freeEntry a v.number

/-- A version put into the first free entry. -/
def putVersion (a : AdaptSet) (v : Version) : AdaptSet :=
  match a.store.findIdx? (·.isNone) with
  | some i => { a with store := a.store.set i (some { v with arrival := a.arrivals }), arrivals := a.arrivals + 1 }
  | none => a

/-- The shape a set's receiver has now: numerology, streams, layers. -/
def State.shapeOf (s : State) (n : Nat) : Nat × Nat × Nat :=
  if n < 8 then (match (s.cell n).ul with | some u => (u.mu.toNat, u.nRx.toNat, u.maxLayers.toNat) | none => (0, 0, 0))
  else (match (s.chan (n - 8)).cfg with | some r => (0, r.nRx.toNat, 0) | none => (0, 0, 0))

/-- The next candidate's number: origin 1, set, generation (05 R120). -/
def candidateNumber (n gen : Nat) : Word := BitVec.ofNat 32 (2 ^ 31 + n * 2 ^ 27 + gen % 2 ^ 27)

/-- After the last step of a candidate: formed, numbered, stored; without room none is, and past the last generation the set is frozen (05 R121,
R122, R131). A number that the store holds is refused: the candidate is given up, the next one takes the next number (DESIGN CHOICE, log 110). -/
def formCandidate (n : Nat) (weights : List Byte) (s : State) : State :=
  let a := s.aset n
  let num := candidateNumber n a.nextGen
  if 2 ^ 27 ≤ a.nextGen then (s.setAset n { dropCandidate a with genExhausted := true }).adaptTo n Code.adaptFreeze .frozen (versionsOf a)
  else if hasVersion a num then s.setAset n { a with nextGen := a.nextGen + 1, steps := 0 }
  else match makeRoom a with
    | none => s
    | some b =>
      let (mu, nRx, layers) := s.shapeOf n
      let c := putVersion b { number := num, pinned := false, device := true, arrival := 0, mu, nRx, layers, weights }
      let s1 := (s.setAset n { c with candidate := some num, nextGen := a.nextGen + 1, steps := 0 }).writeStore n
      if a.state = .train then (s1.setAset n (zeroEval (s1.aset n))).adaptMove n .shadow else s1

/-- A master weight: the one that steps have changed, else the dequantised one of the version training began from. -/
def masterOf (a : AdaptSet) (i : Nat) : Word := (a.master.get none i).getD (Config.dequantised a.base i)

/-- The masters that steps have changed. -/
def mastersOf (a : AdaptSet) : List (Nat × Word) := a.master.entries.filterMap fun e => e.2.map (e.1, ·)

/-- One weight's update: v := momentum × v + g, w := w − lr × v in FP32. -/
def updateWeight (lr mom : Word) (a : AdaptSet) (i : Nat) (g : Word) : AdaptSet :=
  let v := add32 (mul32 mom (a.momentum.get 0 i)) g
  { a with momentum := a.momentum.set 0 i v, master := a.master.set none i (some (sub32 (masterOf a i) (mul32 lr v))) }

/-- BF16 as FP32. -/
def bfWord (w : Half) : Word := BitVec.ofNat 32 (w.toNat * 65536)

/-- The records of a step's batch, counted from the oldest (16 R356): places in the ring. -/
def batchRecords (n : Nat) (r : AdaptRec) (a : AdaptSet) : List Nat :=
  let size := r.poolRecords.toNat
  (upTo r.batch.toNat).map fun k => (a.ringPos + size - a.fill + drawIndex (unitDraw r.seed.toNat a.stepCounter (n + 16) k) a.fill) % size

/-- The least-squares channel of layers from the values of 12 REs (05 R126). -/
def fitChannel (layers : Nat) (y : List CInt) (x : List (List CInt)) : List CRat :=
  let m : CMat := x.map fun r => r.map CRat.ofInt
  let h := cHerm layers m
  (cSolve layers (cMul layers h m) (cMul 1 h (y.map fun z => [CRat.ofInt z]))).map fun r => r.getD 0 CRat.zero

/-- A complex value of a record's bytes. -/
def recordValue (b : List Byte) (i : Nat) : CInt := cintOf (BitVec.ofNat 32 (leNat ((b.drop (4 * i)).take 4)))

/-- The estimator labels that a step forms of a record of an NR set: for each stream, symbol and PRB the channel of each layer (05 R126). -/
def estimatorLabels (b : List Byte) : List (Rat × Rat) :=
  let streams := (b.getD 0x11 0).toNat
  let layers := (b.getD 0x12 0).toNat
  let ys := b.drop 0x100
  let xs := b.drop 0xA900
  (upTo streams).flatMap fun k => (upTo 14).flatMap fun m => (upTo 4).flatMap fun p =>
    let re (i : Nat) : Nat := m * 48 + 12 * p + i
    (fitChannel layers ((upTo 12).map fun i => recordValue ys (k * 672 + re i))
      ((upTo 12).map fun i => (upTo layers).map fun l => recordValue xs (re i * layers + l))).map fun z => (z.re, z.im)

/-- An output channel's scale and INT8 codes: its greatest magnitude over 127, as 07 R175 derives a row's (DEDUCED, log 110). -/
def channelCodes (a : AdaptSet) (ws : List Nat) : Word × List Byte :=
  let top := (ws.map fun i => rne32 (val32 (masterOf a i)).abs).foldl max32 0
  let scale := if top = 0 then ofInt32 1 else div32 (val32 top) (val32 (ofInt32 127))
  (scale, ws.map fun i => BitVec.ofInt 8 (quantInt (-128) 127 0 (val32 (div32 (val32 (masterOf a i)) (val32 scale)))).1)

/-- An entry of S: clamp(rhu(128 × s), 32, 160). -/
def scaleEntry (w : Word) : Byte :=
  match (val32 w).mul (val32 (ofInt32 128)) with
  | .fin n m e => BitVec.ofInt 8 (clampInt 32 160 (rhuF n m e))
  | .inf n => if n then 32 else 160
  | .nan _ => BitVec.ofInt 8 (clampInt 32 160 Config.nanScale)

/-- The bytes of the candidate that the masters make (05 R131). -/
def candidateBytes (a : AdaptSet) : List Byte :=
  Config.packWeights a.base ((Config.channels a.base).map (channelCodes a)) ((Config.scaleIndices a.base).map fun i => scaleEntry (masterOf a i))

/-- Does shadow work of a set stand: it comes before training (05 R132)? -/
def State.shadowBusy (s : State) (n : Nat) : Bool :=
  decide (n < 8) && (s.cell n).ulSlots.values.any fun x => match x with | some y => y.shadow && y.intake | none => false

/-- Does a training task of the set run on a tile, which is so idle of radio and shadow work (05 R129)? -/
def State.trainingRuns (s : State) (n : Nat) : Bool :=
  s.standing n && !s.shadowBusy n && (upTo 96).any fun t => (s.tile t).ref == some (.training (Fin.ofNat 12 n)) && (s.tile t).state == .running

/-- The state of a set with its masters and momentum as a new candidate starts (05 R130). -/
def freshTraining (a : AdaptSet) : AdaptSet :=
  let active := (storeOf a).find? fun v => a.active == some v.number
  { a with momentum := .empty, master := .empty, base := (active.map (·.weights)).getD [] }

/-- The set after one step on a batch: every weight updated by its gradient. -/
def afterStep (n : Nat) (r : AdaptRec) (iters : Nat) (records : List (List Byte)) (a : AdaptSet) : AdaptSet :=
  let a0 := if a.steps = 0 then freshTraining a else a
  let labels := if n < 8 then records.map estimatorLabels else []
  let g (i : Nat) : Word := Config.gradient (a0.base, mastersOf a0) records labels iters i
  let a1 := (upTo (Config.weightCount a0.base)).foldl (fun x i => updateWeight (bfWord r.lr) (bfWord r.momentum) x i (g i)) a0
  { a1 with steps := min r.stepsPerCandidate.toNat (a.steps + 1), stepCounter := (a.stepCounter + 1) % 2 ^ 64 }

/-- One step, with the training area after it (05 R123, R130); the last step of a candidate forms it. -/
def trainStep (n : Nat) (s : State) : State :=
  let a := s.aset n
  match a.cfg with
  | none => s
  | some r =>
    if s.replaying ∨ !(a.state = .train ∨ a.state = .probation) ∨ a.fill = 0 ∨ !s.trainingRuns n ∨ a.candidate.isSome then s
    else if r.stepsPerCandidate.toNat ≤ a.steps then formCandidate n (candidateBytes a) s
    else
      let records := (batchRecords n r a).map fun i => s.extRead (recordPlace r i) 0x10000
      let iters := match (s.cell n).ul with | some u => u.ldpcMaxIter.toNat | none => 0
      let b := afterStep n r iters records a
      let s1 := (s.extWrite (r.regionBase.toNat + 32 * 2 ^ 20)
        ((Config.trainingArea (b.base, mastersOf b) b.momentum.entries).take (2 ^ 25))).setAset n b
      if r.stepsPerCandidate.toNat ≤ b.steps then formCandidate n (candidateBytes b) s1 else s1

def execTrainingStep (set : SetId) (s : State) : Host.Outcome State Fault Refusal := .next (trainStep set.val s)

/-! ## Operations of ADAPT_CONTROL (05 R138) -/

/-- A version made active, the old one previous; a set not in OFF or FROZEN starts over. -/
def State.selectVersion (s : State) (n : Nat) (v : Word) : State × Half :=
  let a := s.aset n
  if !hasVersion a v then (s, Code.versionUnknown)
  else
    let a1 := if a.candidate = some v then { a with candidate := none, steps := 0 } else dropCandidate a
    let s1 := (s.setAset n { zeroEval a1 with previous := a.active }).activate n (some v)
    if a.state = .off ∨ a.state = .frozen then (s1, Code.ok)
    else (s1.adaptMove n (s1.restState n (s1.standing n)), Code.ok)

/-- The effect of an operation and the result it is answered with. -/
def applyControl (n : Nat) (op : AdaptOp) (s : State) : State × Half :=
  let a := s.aset n
  match op with
  | .freeze => ((s.setAset n (dropCandidate a)).adaptTo n Code.adaptFreeze .frozen (versionsOf a), Code.ok)
  | .unfreeze =>
    if a.state ≠ .frozen then (s, Code.badState)
    else (s.adaptMove n (s.restState n true), Code.ok)
  | .select v => s.selectVersion n v
  | .pin v => if hasVersion a v then (s.pinVersion n v true, Code.ok) else (s, Code.versionUnknown)
  | .unpin v => if hasVersion a v then (s.pinVersion n v false, Code.ok) else (s, Code.versionUnknown)
  | .discardPool =>
    let s1 := s.setAset n (dropCandidate (emptyPool a))
    (match a.state with
     | .train | .shadow | .probation => s1.adaptTo n Code.adaptState .collect (versionsOf a)
     | _ => s1, Code.ok)

/-- The operations that wait for a boundary that has come, in order: applied and answered. -/
def State.controlsDue (s : State) (n : Nat) : State :=
  let a := s.aset n
  let due (c : PendingCtl) : Bool := decide (c.slot < s.slotNow n)
  (a.controls.filter due).foldl (fun s c =>
      let (s1, code) := applyControl n c.op s
      match c.hdr with
      | some h => s1.reply h false code .empty
      | none => s1)
    (s.setAset n { a with controls := a.controls.filter fun c => !due c })

/-! ## Evaluation and decisions (05 R132–R136, R142) -/

/-- The rollback of R135: the previous version active again, a waiting candidate discarded. -/
def State.rollback (s : State) (n : Nat) : State :=
  let a := s.aset n
  let s1 := s.setAset n { zeroEval (dropCandidate a) with rollbacks := bump 65535 a.rollbacks, previous := a.active }
  let s2 := match a.active with | some v => s1.pinVersion n v false | none => s1
  (s2.activate n a.previous).adaptTo n Code.adaptRollback .train (a.previous.getD 0, a.active.getD 0)

/-- The device promotes the candidate: the old active version becomes previous. -/
def State.promote (s : State) (n : Nat) : State :=
  let a := s.aset n
  let s1 := s.setAset n { zeroEval a with promotions := bump 65535 a.promotions, previous := a.active, candidate := none, steps := 0 }
  (s1.activate n a.candidate).adaptTo n Code.adaptPromote .probation (a.candidate.getD 0, a.active.getD 0)

/-- The device rejects the candidate: its entry is freed. -/
def State.rejectCandidate (s : State) (n : Nat) : State :=
  let a := s.aset n
  (s.setAset n { zeroEval (dropCandidate a) with rejections := bump 65535 a.rejections }).adaptTo n Code.adaptReject .train (versionsOf a)

def adaptDecide (n : Nat) (s : State) : State :=
  let a := s.aset n
  match a.cfg with
  | none => s
  | some r =>
    let d : Int := (a.passOther : Int) - a.passActive
    match a.state with
    | .shadow =>
      if a.evalCount < r.evalSlots.toNat then s
      else if 0 < a.evalBlocks ∧ (r.marginBp.toNat : Int) * a.evalBlocks ≤ d * 10000 then s.promote n
      else s.rejectCandidate n
    | .probation =>
      if a.evalCount < r.probationSlots.toNat then s
      else if 0 < a.evalBlocks ∧ (r.rollbackBp.toNat : Int) * a.evalBlocks ≤ d * 10000 then s.rollback n
      else (s.setAset n (zeroEval a)).adaptMove n (if a.candidate.isSome then .shadow else .train)
    | _ => s

/-- A guard window that is over: the counts of it are judged, the next one begins (05 R136). -/
def State.guardTrip (s : State) (n : Nat) : State :=
  let a := s.aset n
  let c := s.cell n
  match a.cfg, c.ul with
  | some r, some u =>
    if s.slotNow n < a.guardStart + r.guardWindow.toNat then s
    else
      let loss := c.guardLoss - a.lossStart
      let gain := c.guardGain - a.gainStart
      let s1 := s.setAset n { a with lossStart := c.guardLoss, gainStart := c.guardGain, guardStart := a.guardStart + r.guardWindow.toNat }
      if n < 8 ∧ r.guardCheck ∧ u.rxMode = 2 ∧ !s.replaying ∧ gain + r.guardLimit.toNat ≤ loss then
        let s2 := (s1.setAset n { (s1.aset n) with guardTripped := true }).record Code.adaptGuard n [n, loss, gain]
        if a.state = .probation then s2.rollback n
        else (s2.setAset n (dropCandidate (s2.aset n))).adaptTo n Code.adaptFreeze .frozen (versionsOf a)
      else s1
  | _, _ => s

/-- What falls on one slot boundary of a set, in the order of 05 R142: operations, a guard trip, a decision. -/
def State.setBoundary (s : State) (n : Nat) : State := adaptDecide n ((s.controlsDue n).guardTrip n)

/-- A shadowed slot or reception is counted, and a due decision taken. -/
def State.shadowCount (s : State) (n blocks active other : Nat) : State :=
  let a := s.aset n
  (s.setAset n { a with evalCount := bump top32 a.evalCount, evalBlocks := bumpBy top32 a.evalBlocks blocks,
                        passActive := bumpBy top32 a.passActive active, passOther := bumpBy top32 a.passOther other }).setBoundary n

/-- Is a slot or reception shadowed: the generator's draw on stream set + 32, and a standing entry gives its tiles (05 R132)? -/
def State.shadowDraw (s : State) (n counter : Nat) : Bool :=
  let a := s.aset n
  match a.cfg with
  | some r => !s.replaying && s.standing n && (a.state == .shadow || a.state == .probation) &&
      shareTest (randomWord r.seed.toNat (counter % 2 ^ 64) (n + 32) 0 0) r.shadowPerMille.toNat
  | none => false

/-- The version that the comparison runs beside the active one: the candidate, or in PROBATION the previous one (05 R132, R135). -/
def State.shadowVersion (s : State) (n : Nat) : Word :=
  let a := s.aset n
  (match a.state with | .probation => a.previous | _ => a.candidate).getD 0

/-- A guard window ends. -/
def guardEnd (n : Nat) (s : State) : State := s.setBoundary n

def execGuardWindowEnd (set : SetId) (s : State) : Host.Outcome State Fault Refusal := .next (guardEnd set.val s)

/-! ## Control (05 R138) -/

/-- ADAPT_CONTROL is answered when its operation is applied, at the set's next slot boundary. -/
def adaptControlBody (h : QcpHdr) (set : Nat) (op : AdaptOp) (s : State) : State × Answer :=
  if 11 < set then (s, .err Code.msgRange)
  else
    let a := s.aset set
    (s.setAset set { a with controls := a.controls ++ [{ op, hdr := some h, slot := s.slotNow set }] }, .later)

def execAdaptControl (h : QcpHdr) (set : Byte) (op : AdaptOp) (s : State) : Host.Outcome State Fault Refusal :=
  .next (serve s h { role := .operate, legal := [.running] } (adaptControlBody h set.toNat op))

/-- The slot boundary of the operation that waits first: applied and answered. Another operation has none of its effect. -/
def controlBoundary (n : Nat) (op : AdaptOp) (s : State) : State :=
  let a := s.aset n
  match a.controls with
  | [] => s
  | c :: rest =>
    if c.op ≠ op ∨ s.slotNow n ≤ c.slot then s else
      let (s1, code) := applyControl n op (s.setAset n { a with controls := rest })
      match c.hdr with
      | some h => s1.reply h false code .empty
      | none => s1

def execFreeze (set : SetId) (s : State) : Host.Outcome State Fault Refusal := .next (controlBoundary set.val .freeze s)
def execUnfreeze (set : SetId) (s : State) : Host.Outcome State Fault Refusal := .next (controlBoundary set.val .unfreeze s)
def execSelect (set : SetId) (version : Word) (s : State) : Host.Outcome State Fault Refusal :=
  .next (controlBoundary set.val (.select version) s)
def execPin (set : SetId) (version : Word) (s : State) : Host.Outcome State Fault Refusal :=
  .next (controlBoundary set.val (.pin version) s)
def execUnpin (set : SetId) (version : Word) (s : State) : Host.Outcome State Fault Refusal :=
  .next (controlBoundary set.val (.unpin version) s)
def execDiscardPool (set : SetId) (s : State) : Host.Outcome State Fault Refusal := .next (controlBoundary set.val .discardPool s)

/-! ## Status, save and load (05 R139, R140) -/

/-- The fields of 05 Table 4. -/
def adaptStatusFields (n : Nat) (a : AdaptSet) : List Nat :=
  [n, adaptCode a.state, (if a.noTiles then 128 else 0) + (if a.guardTripped then 64 else 0) + (if a.genExhausted then 32 else 0),
   (a.active.getD 0).toNat, (a.previous.getD 0).toNat, (a.candidate.getD 0).toNat, a.nextGen % 2 ^ 27, a.fill, a.taken, a.dropped, a.steps,
   a.evalCount, a.evalBlocks, a.passActive, a.passOther, a.promotions, a.rollbacks, a.rejections]

def adaptStatusBody (set : Nat) (s : State) : State × Answer :=
  if 11 < set then (s, .err Code.msgRange) else (s, .now Code.ok (.nums (adaptStatusFields set (s.aset set))))

def execAdaptStatus (h : QcpHdr) (set : Byte) (s : State) : Host.Outcome State Fault Refusal :=
  .next (serve s h { role := .read, legal := [.running], reads := true } (adaptStatusBody set.toNat))

/-- ADAPT_SAVE writes a stored version at an address of the management domain, sealed to this device under purpose 1 (18 R395). -/
def adaptSaveBody (set : Nat) (version : Word) (addr : Nat) (s : State) : State × Answer :=
  if 11 < set then (s, .err Code.msgRange)
  else match (storeOf (s.aset set)).find? (·.number = version) with
    | none => (s, .err Code.versionUnknown)
    | some v =>
      let (blob, s1) := s.sealBlob 1 (versionBytes v)
      if s.extRange addr blob.length ∧ s.domainOk .management addr blob.length then
        (s1.extWrite addr blob, .now Code.ok (.nums [blob.length]))
      else (s, .err Code.addrUnmapped)

def execAdaptSave (h : QcpHdr) (set : Byte) (version : Word) (addr : Dword) (s : State) : Host.Outcome State Fault Refusal :=
  .next (serve s h { role := .operate, legal := [.running] } (adaptSaveBody set.toNat version addr.toNat))

/-- Was a version made for the shape a set's receiver has now? -/
def State.fitsShape (s : State) (n : Nat) (v : Version) : Bool :=
  let (mu, nRx, layers) := s.shapeOf n
  v.nRx == nRx && (8 ≤ n || (v.mu == mu && v.layers == layers))

/-- Does a loaded version go into force: the first of a set (DEDUCED, log 28), or one that fits the shape where the active one does not
(05 R141)? -/
def State.loadTakes (s : State) (n : Nat) (v : Version) : Bool :=
  let a := s.aset n
  match (storeOf a).find? fun w => a.active == some w.number with
  | some w => !s.fitsShape n w && s.fitsShape n v
  | none => a.active.isNone

/-- Is a weight bundle signed by Aqmor or by the operator (18 R390; which of their fused keys, and ML-DSA where it is required, DEDUCED, log 28)? -/
def bundleSigned (f : Fuses) (b : (List Byte × List Byte × List Byte) × (List Byte × List Byte) × List Byte) : Bool :=
  let (msg, modulus, sig) := b.1
  let (key, mlSig) := b.2.1
  let ml (h : Option (List Byte)) : Bool := !f.requireMldsa || (h == some (Config.sha256 key) && Config.mldsaVerify key msg mlSig)
  Config.rsaVerify modulus msg sig &&
    ((f.aqRsa == Config.sha256 modulus && ml (some f.aqMldsa)) || (f.opRsa == some (Config.sha256 modulus) && ml f.opMldsa))

/-- Where ADAPT_LOAD finds what it names, and how many bytes. -/
def State.sourceSpan (s : State) (src : VersionSource) : Nat × Nat :=
  match src with
  | .blob a => (a.toNat, 48 + s.extNat (a.toNat + 8) 8)
  | .bundle a n => (a.toNat, n.toNat)

/-- The version that a blob sealed here or a signed bundle holds. A bundle's is not made by the device. -/
def State.loadedVersion (s : State) (src : VersionSource) : Option Version :=
  match src with
  | .blob a => (s.openBlob 1 a.toNat).map versionOf
  | .bundle a n =>
    let b := Config.weightBundle (s.extRead a.toNat n.toNat)
    if bundleSigned s.sec.fuses b then some { versionOf b.2.2 with device := false } else none

/-- A version enters the store under its own number; the first of a set goes into force, and may take the set out of OFF. -/
def takeVersion (set : Nat) (v : Version) (s : State) : State × Answer :=
  let a := s.aset set
  if v.number = 0 ∨ (!v.device ∧ v.number.getLsbD 31) then (s, .err Code.msgRange)
  else if hasVersion a v.number then (s, .err Code.versionDup)
  else if a.store.all (·.isSome) then (s, .err Code.cfgCapacity)
  else
    let s1 := (s.setAset set (putVersion a v)).writeStore set
    if s.loadTakes set v then
      let s2 := (s1.setAset set { (s1.aset set) with previous := a.active }).activate set (some v.number)
      let on : Bool := match a.cfg with | some r => r.enable | none => false
      if a.state = .off ∧ a.active.isNone ∧ on = true then ((s2.adaptMove set .collect).collectDone set, .ok) else (s2, .ok)
    else (s1, .ok)

/-- ADAPT_LOAD: a blob sealed here or a signed bundle, at an address of the management domain. -/
def adaptLoadBody (set : Nat) (src : VersionSource) (s : State) : State × Answer :=
  let (a, n) := s.sourceSpan src
  if 11 < set then (s, .err Code.msgRange)
  else if !s.extRange a 32 ∨ !s.extRange a n ∨ !s.domainOk .management a n then (s, .err Code.addrUnmapped)
  else match s.loadedVersion src with
    | none => (s, .err Code.authFail)
    | some v => takeVersion set v s

def execAdaptLoad (h : QcpHdr) (set : Byte) (src : VersionSource) (s : State) : Host.Outcome State Fault Refusal :=
  .next (serve s h { role := .operate, legal := [.running] } (adaptLoadBody set.toNat src))

end Sys2Proof.Machine
end

