-- ==== Sys2Proof/Machine/Handles.lean ====
section
/-! DEFINITION. What stands behind buffer handles: radio buffers and context memory as bytes (02 R38). Where grids, LLRs and staged buffers
lie in radio buffers, and how a context's items are laid out, is not stated (free functions, log 99). -/
namespace Sys2Proof.Machine

/-- The n-th uplink slot in progress of a cell. -/
def State.nthSlot (s : State) (cell n : Nat) : Option (Nat × UlSlot) :=
  match (s.cell cell).ulSlots.entries[n]? with
  | some (k, some x) => some (k, x)
  | _ => none

def byteOfWord (w : Word) (k : Nat) : Byte := BitVec.ofNat 8 (w.toNat / 2 ^ (8 * k))
def withByte (w : Word) (k : Nat) (b : Byte) : Word :=
  BitVec.ofNat 32 (w.toNat - w.toNat / 2 ^ (8 * k) % 256 * 2 ^ (8 * k) + b.toNat * 2 ^ (8 * k))

/-- A byte of radio buffers. -/
def State.bufferByte (s : State) (a : Nat) : Byte :=
  match Config.bufferPlace a with
  | some (.grid c n key k) => (match s.nthSlot c n with | some (_, x) => byteOfWord (x.grid.get 0 key) (k % 4) | none => 0)
  | some (.llr c n i j) => (match s.nthSlot c n with | some (_, x) => ((x.pusch[i]?).map fun p => p.llrs.getD j 0).getD 0 | none => 0)
  | some (.staged c n i b j) =>
    (match s.nthSlot c n with | some (_, x) => ((x.pusch[i]?).map fun p => (p.staged.getD b []).getD j 0).getD 0 | none => 0)
  | none => s.radio.buffers.get 0 a

/-- A slot in progress changed where it stands. -/
def State.putNth (s : State) (cell k : Nat) (x : UlSlot) : State :=
  s.modCell cell fun c => { c with ulSlots := c.ulSlots.set none k (some x) }

/-- A byte of radio buffers written. -/
def State.bufferPut (s : State) (a : Nat) (b : Byte) : State :=
  match Config.bufferPlace a with
  | some (.grid c n key k) =>
    (match s.nthSlot c n with
     | some (i, x) => s.putNth c i { x with grid := x.grid.set 0 key (withByte (x.grid.get 0 key) (k % 4) b) }
     | none => s)
  | some (.llr c n i j) =>
    (match s.nthSlot c n with
     | some (k, x) => s.putNth c k { x with pusch := modAt x.pusch i fun p => { p with llrs := p.llrs.set j b } }
     | none => s)
  | some (.staged c n i m j) =>
    (match s.nthSlot c n with
     | some (k, x) => s.putNth c k { x with pusch := modAt x.pusch i fun p => { p with staged := modAt p.staged m fun l => l.set j b } }
     | none => s)
  | none => s.setRadio { s.radio with buffers := s.radio.buffers.set 0 a b }

/-- Endpoint contexts follow the 8 MiB of user contexts. -/
def userSpace : Nat := 0x800000

/-- A byte of context memory: what the context's items give at its place. -/
def State.contextByte (s : State) (a : Nat) : Byte :=
  if a < userSpace then Config.userByte (s.user (a / 2048)) (a % 2048) else Config.endByte (s.ctx ((a - userSpace) / 128)) ((a - userSpace) % 128)

/-- A byte of context memory written: the context as it then stands. -/
def State.contextPut (s : State) (a : Nat) (b : Byte) : State :=
  if a < userSpace then
    match Config.userPut (s.user (a / 2048)) (a % 2048) b with
    | some u => s.setUser (a / 2048) u
    | none => s
  else match Config.endPut (s.ctx ((a - userSpace) / 128)) ((a - userSpace) % 128) b with
    | some e => s.setCtx ((a - userSpace) / 128) e
    | none => s

end Sys2Proof.Machine
end

