-- ==== Sys2Proof/Machine/SchedOps.lean ====
section
/-! DEFINITION. Graphs, tasks, status records and semaphores as shared operations (14 R316, R317, R321, R324). -/
namespace Sys2Proof.Machine

def State.graph (s : State) (job : Word) : Option Graph := s.sched.graphs.find? (·.job = job)

/-- Is a job one of a sealed model (18 R397, R398)? -/
def State.sealedJob (s : State) (job : Word) : Bool :=
  s.sec.slots.values.any fun k => match k with | some y => y.job == some job | none => false

def State.modGraph (s : State) (job : Word) (f : Graph → Graph) : State :=
  s.setSched { s.sched with graphs := s.sched.graphs.map fun g => if g.job = job then f g else g }

/-- The run of a task that a tile holds or held. -/
def State.taskSt (s : State) (ref : TaskRef) (tile : Nat) : Option TaskSt :=
  match ref with
  | .graph job copy task => (s.graph job).bind fun g => (g.copies[copy.val]?).bind fun c => c.tasks[task]?
  | .entry _ => s.sched.tileTasks.get none tile
  | .training set => s.sched.training.get none set.val

def taskStateCode : TaskState → Nat
  | .pending => 0 | .ready => 1 | .running => 2 | .preempted => 3 | .done => 4 | .faulted => 5 | .killed => 6

def bitIf (b : Bool) (k : Nat) : Nat := if b then 2 ^ k else 0

/-- The 64 bytes of a task status record (14 Table 4). -/
def statusBytes (t : TaskSt) : List Byte :=
  leBytes 1 (taskStateCode t.state) ++
  leBytes 1 (bitIf t.qSat 7 + bitIf t.nanSeen 6 + bitIf t.accSat 5 + bitIf t.semSat 4 + bitIf t.late 3) ++
  leBytes 2 t.fault.toNat ++ leBytes 2 t.bundle.toNat ++ leBytes 1 t.slot.toNat ++ leBytes 1 0 ++
  leBytes 4 t.preemptions ++ leBytes 4 t.yields ++ leBytes 8 t.restage ++ leBytes 8 t.startNs ++ leBytes 8 t.endNs ++
  leBytes 2 t.tile ++ leBytes 22 0

/-- Far addresses of copies 1 and 2 that lie in the graph's span go to the copy's twin region (17 R369): span start, length
and twin base, by the graph's `patches`. -/
def State.twinAddr (s : State) (ref : TaskRef) (a : Nat) : Nat :=
  match ref with
  | .graph job copy _ =>
    if copy.val = 0 then a else
      match s.graph job with
      | some g =>
        (match g.patches, g.patches[copy.val]? with
         | (lo, n) :: _, some (base, _) => if lo ≤ a ∧ a < lo + n then base + (a - lo) else a
         | _, _ => a)
      | none => a
  | _ => a

/-- The status record of a run is written where its descriptor says. -/
def State.writeStatus (s : State) (ref : TaskRef) (t : TaskSt) : State :=
  match s.place (s.twinAddr ref t.desc.status) with
  | .ext a => s.extWrite a (statusBytes t)
  | _ => s

/-- A run changes and its status record with it (14 R324). -/
def State.modTask (s : State) (ref : TaskRef) (tile : Nat) (f : TaskSt → TaskSt) : State :=
  match s.taskSt ref tile with
  | none => s
  | some t =>
    let s1 := match ref with
      | .graph job copy task => s.modGraph job fun g =>
          { g with copies := modAt g.copies copy.val fun c => { c with tasks := setAt c.tasks task (f t) } }
      | .entry _ => s.setSched { s.sched with tileTasks := s.sched.tileTasks.set none tile (some (f t)) }
      | .training set => s.setSched { s.sched with training := s.sched.training.set none set.val (some (f t)) }
    s1.writeStatus ref (f t)

/-- Flags a tile hands to its task's status at ENDT, at a drain and at a fault (11 R243). -/
def taskMerge (t : TaskSt) (q nan acc sem : Bool) : TaskSt :=
  { t with qSat := t.qSat || q, nanSeen := t.nanSeen || nan, accSat := t.accSat || acc, semSat := t.semSat || sem }

def classCode : JobClass → Nat
  | .radio => 0 | .inference => 1 | .assured => 2

/-! ## Semaphores (14 R321, R322) -/

/-- Why a task may not use a semaphore: another class's (TI_SEM_CLASS, `true`), or not claimed by its job (SCH_SEM_CLAIM). -/
def State.semRefused (s : State) (n : Nat) (cls : JobClass) (claim : SemClaim) : Option Bool :=
  let x := s.sem n
  if x.owner.toNat ≠ classCode cls then some true else if x.claim ≠ some claim then some false else none

/-- SIGNAL: one up, to 65,535 at most; `true` where it was already there (sem_sat). -/
def State.semSignal (s : State) (n : Nat) : State × Bool :=
  let x := s.sem n
  if x.count < 65535 then (s.setSem n { x with count := x.count + 1 }, false) else (s, true)

/-- WAIT and TRY: one down where the count is above 0. -/
def State.semTake (s : State) (n : Nat) : Option State :=
  let x := s.sem n
  if 0 < x.count then some (s.setSem n { x with count := x.count - 1 }) else none

/-! ## Ends of tasks -/

/-- A task becomes ready: its stamp is the cycle number (14 R317). -/
def taskReady (t : TaskSt) (cycle : Nat) : TaskSt := { t with state := .ready, stamp := cycle }

/-- The successors of an ended task lose one predecessor each, and those with none left become ready. -/
def releaseSuccessors (cycle : Nat) (succ : List Nat) (tasks : List TaskSt) : List TaskSt :=
  tasks.zipIdx.map fun (t, i) =>
    let k := (succ.filter (· = i)).length
    if k = 0 then t else
      let left := t.preds - k
      if left = 0 ∧ t.state = .pending then taskReady { t with preds := 0 } cycle else { t with preds := left }

/-- Is a tile's polder or cluster page of a job not yet FREE (14 R316)? -/
def State.jobHolds (s : State) (job : Word) : Bool :=
  s.tiles.values.any (fun x => x.polders.values.any fun p => p.job = job && p.state ≠ .free && p.cls ≠ .radio) ||
  s.clusters.values.any fun c => c.pages.values.any fun p => match p with | some x => x.job = job | none => false

/-- The claim a tile's task has on semaphores: its job's, or the loaded cycle table's. -/
def claimOf (ref : TaskRef) : SemClaim :=
  match ref with
  | .graph job _ _ => .job job
  | _ => .table

def verdictCode : Option Verdict → Nat
  | none => 0 | some .released => 0 | some .recovered => 1 | some .disagree => 2 | some .late => 3 | some .laneSafe => 4

/-- A verdict that releases nothing: counted, recorded with the job and the reason, and the graph ended (17 R372). -/
def State.withhold (s : State) (job : Word) (v : Verdict) (o : GraphOutcome) : State :=
  match s.graph job with
  | none => s
  | some g =>
    if g.outcome.isSome then s else
      let s1 := s.modGraph job fun g => { g with outcome := some o, verdict := some v, late := g.late || v == .late }
      (s1.setAssured { s1.assured with countWh := bump top32 s1.assured.countWh }).record Code.safWithheld 0
        [job.toNat, verdictCode (some v)]

/-- A graph ends by a fault (14 R316, R334): only the first cause stands. A fault of copy 2 withholds the result (17 R373). -/
def State.graphFaulted (s : State) (job : Word) (copy task : Nat) (code : Half) : State :=
  if copy = 2 then s.withhold job .disagree .done
  else s.modGraph job fun g =>
    if g.outcome.isSome then g else { g with outcome := some .faulted, faultTask := task, faultCode := code }

/-- Does the fabric start entries: radio service does not wait after an L3 reset, and no halt stands from an earlier frame
(19 R415, 22 R475, 24 R512)? -/
def State.tableRuns (s : State) : Bool :=
  !s.radio.paused && (match s.sched.halt with
    | some f => decide (s.frameNow ≤ f)
    | none => true)

/-- Nanoseconds to the next offset of an entry, and since the last one: it comes once in each frame. -/
def toOffset (e : CycEntry) (now : Nat) : Nat := (e.offsetNs + 10000000 - now % 10000000) % 10000000
def sinceOffset (e : CycEntry) (now : Nat) : Nat := (now % 10000000 + 10000000 - e.offsetNs) % 10000000

end Sys2Proof.Machine
end

