-- ==== Sys2Proof/Machine/Classical.lean ====
section
/-! DEFINITION. The classical receiver serves a slot: by configuration (02 R61–R64), or after a tile fault (02 R60). -/
namespace Sys2Proof.Machine

/-- Device time from a slot's entry offset to its deadline (02 R55): 350 µs at μ = 1, 110 µs at μ = 3. -/
def ulDeadlineNs (mu : Nat) : Nat := if mu = 3 then 110000 else 350000

/-- At μ = 3 the classical detector takes each PUSCH to be received that still fits within 132 PRBs, in record order (02 R63). -/
def classicalTakes (mu : Nat) : Nat → List PuschSt → List (PuschSt × Bool)
  | _, [] => []
  | left, p :: r =>
    if p.noConfig || p.noDmrs || p.noReceiver then (p, true) :: classicalTakes mu left r
    else if mu = 3 ∧ left < p.cfg.prbCount.toNat then (p, false) :: classicalTakes mu left r
    else (p, true) :: classicalTakes mu (left - p.cfg.prbCount.toNat) r

/-- The slot's PUSCHs as the classical receiver serves them: a PUSCH passed over is reported with no_receiver (02 R63). -/
def classicalServe (mu : Nat) (ps : List PuschSt) : List PuschSt :=
  (classicalTakes mu 132 ps).map fun (p, taken) =>
    if taken then { p with classical := true }
    else { p with noReceiver := true, decided := true, crcPass := false }

/-- A PUSCH whose learned run is dropped starts again after the grid stage, whether it had passed or not. -/
def restartPusch (p : PuschSt) : PuschSt :=
  { p with decided := p.noReceiver || p.noConfig || p.noDmrs, crcPass := false, stage := min p.stage 1, est := [], det := [], demapped := 0,
           llrs := [], soft := [], cbs := .empty, iterations := 0, uci := [], uciFail := false, guardPass := none, otherPass := none }

/-- A PUCCH of formats 2 to 4 is run again as well. -/
def restartPucch (q : PucchSt) : PucchSt :=
  if q.noConfig || decide (q.cfg.format.toNat ≤ 1) then q
  else { q with decided := false, stage := min q.stage 1, est := [], det := [], demapped := 0, llrs := [], uci := [], uciFail := false }

/-- Code blocks of a slot that still wait in the bank's queue. -/
def queuedBlocks (x : UlSlot) : Nat :=
  (x.pusch.map fun p => if p.decided then 0 else p.soft.length - p.cbs.entries.length).foldl (· + ·) 0

/-- Code blocks wait in a decoder bank's queue, or leave it. -/
def State.bankQueue (s : State) (b add sub : Nat) : State :=
  let x := s.bank b
  let n := min 65535 (x.now + add - sub)
  s.setBank b { x with now := n, peak := max x.peak n }

/-- A bank's counters take in one decoded block. -/
def State.bankCount (s : State) (b iterations : Nat) (crc : Bool) : State :=
  let x := s.bank b
  s.setBank b { x with blocks := bump top64 x.blocks, crcFail := if crc then x.crcFail else bump top64 x.crcFail,
                       iter := bumpBy top64 x.iter iterations }

/-- Does the grid engine of a cell run its classical detector for another cell's slot (02 R62)? -/
def State.classicalBusy (s : State) (cell engine : Nat) : Bool :=
  s.radio.cells.entries.any fun (i, c) =>
    decide (i ≠ cell) && c.ulSlots.values.any fun x => match x with
      | some y => y.config.gridEngine.toNat == engine && (y.classical || y.guard) && !y.closed
      | none => false

/-- A receiver-net tile faulted while it served a cell's slot (02 R60). A detector that runs the slot's guard side is not idle. -/
def State.classicalRerun (s : State) (cell slot : Nat) : State :=
  let c := s.cell cell
  match c.ulSlots.get none slot with
  | some x =>
    let mu := x.config.mu.toNat
    let need := if mu = 3 then 40000 else 160000
    if x.classical || x.guard || x.closed || s.classicalBusy cell x.config.gridEngine.toNat ||
       x.t0 + ulDeadlineNs mu < s.nowNs + need then s
    else
      (s.setCell cell { c with ulSlots := c.ulSlots.set none slot (some
        { x with classical := true, version := 0, pusch := classicalServe mu (x.pusch.map restartPusch), pucch := x.pucch.map restartPucch })
        }).bankQueue x.config.decoderBank.toNat 0 (queuedBlocks x)
  | none => s

end Sys2Proof.Machine
end

