-- ==== Sys2Proof/Machine/Operands.lean ====
section
/-! DEFINITION. Operand forms of the tile: element formats, packing, lane widening and narrowing, token scales, requantisation
parameter blocks, outlier maps, MX blocks (07, 08 R187, R188). -/
namespace Sys2Proof.Machine

/-- The 4-bit code of a format (11 Table 5). -/
def fmtCode : Fmt → Nat
  | .int8 => 0 | .uint8 => 1 | .int4 => 2 | .int16 => 3 | .bf16 => 4 | .e4m3 => 5 | .e5m2 => 6 | .mxfp4 => 7
  | .e2m3 => 8 | .e3m2 => 9 | .mxint8 => 10 | .fp32 => 11 | .cint16 => 12 | .int32 => 13 | .int48 => 14

/-- The format of a code; 15 is refused. -/
def fmtOf (n : Nat) : Option Fmt :=
  [.int8, .uint8, .int4, .int16, .bf16, .e4m3, .e5m2, .mxfp4, .e2m3, .e3m2, .mxint8, .fp32, .cint16, .int32, .int48][n]?

/-- Bits of a stored element (07 Table 1; the int48 word takes 8 bytes). -/
def fmtBits : Fmt → Nat
  | .int8 | .uint8 | .e4m3 | .e5m2 | .mxint8 => 8
  | .int4 | .mxfp4 => 4
  | .int16 | .bf16 => 16
  | .e2m3 | .e3m2 => 6
  | .fp32 | .cint16 | .int32 => 32
  | .int48 => 64

def isMx : Fmt → Bool
  | .mxfp4 | .e2m3 | .e3m2 | .mxint8 => true
  | _ => false

/-- Bytes of `n` packed elements (07 R170). -/
def packedBytes (f : Fmt) (n : Nat) : Nat := ceilDiv (n * fmtBits f) 8

/-- The integer a code of an integer format stands for. -/
def intOf (f : Fmt) (c : Nat) : Int :=
  match f with
  | .uint8 => c % 256
  | .int8 | .mxint8 => signedOf 8 c
  | .int4 => signedOf 4 c
  | .int16 => signedOf 16 c
  | .int48 => signedOf 48 c
  | _ => signedOf 32 c

/-- The range of an integer format. -/
def intRange : Fmt → Int × Int
  | .uint8 => (0, 255)
  | .int8 => (-128, 127)
  | .int4 => (-8, 7)
  | .int16 => (-32768, 32767)
  | .int48 => (-140737488355328, 140737488355327)
  | _ => (-2147483648, 2147483647)

/-- The code of an integer in a format. -/
def intCode (f : Fmt) (v : Int) : Nat := (BitVec.ofInt (fmtBits f) v).toNat

/-- A value times a block scale; a scale of 0xFF makes the block NaN (07 R169, R183). -/
def scaled (scale : Nat) (v : FVal) : FVal :=
  if scale = 255 then .nan false else v.mul (.fin false 1 ((scale : Int) - 127))

/-- The unscaled value of a float or MX element. -/
def elemVal (f : Fmt) (c : Nat) : FVal :=
  match f with
  | .bf16 => decodeF fmtBf16 c
  | .e4m3 => decodeF fmtE4M3 c
  | .e5m2 => decodeF fmtE5M2 c
  | .mxfp4 => decodeF fmtE2M1 c
  | .e2m3 => decodeF fmtE2M3 c
  | .e3m2 => decodeF fmtE3M2 c
  | .mxint8 => .fin (decide (signedOf 8 c < 0)) (signedOf 8 c).natAbs (-6)
  | _ => val32 (BitVec.ofNat 32 c)

/-- Formats a lane type reads and writes (08 Table 1). -/
def laneReads : LaneTy → List Fmt
  | .fp32 => [.fp32, .bf16, .e4m3, .e5m2, .mxfp4, .e2m3, .e3m2, .mxint8]
  | .int32 => [.int32, .int16, .int8, .uint8, .int4]
  | .complex => [.cint16]

def laneWrites : LaneTy → List Fmt
  | .fp32 => [.fp32, .bf16, .e4m3, .e5m2]
  | .int32 => [.int32, .int16, .int8, .uint8, .int4]
  | .complex => [.cint16]

/-- An element widened to its lane, exactly (08 R188); an FP32 element is taken bit for bit. -/
def widen (f : Fmt) (t : LaneTy) (x : Elem) : Word :=
  match t with
  | .complex => BitVec.ofNat 32 x.code
  | .int32 => BitVec.ofInt 32 (intOf f x.code)
  | .fp32 =>
    if f = .fp32 then BitVec.ofNat 32 x.code
    else if isMx f then rne32 (scaled x.scale (elemVal f x.code))
    else rne32 (elemVal f x.code)

/-- A lane narrowed to a storage format (08 R188, 07 R172, R173). -/
def narrow (f : Fmt) (t : LaneTy) (w : Word) : Nat × Raised :=
  match t with
  | .complex => (w.toNat, .none)
  | .int32 =>
    let r := satFlag (intRange f).1 (intRange f).2 w.toInt
    (intCode f r.1, r.2)
  | .fp32 =>
    match f with
    | .bf16 => narrowBf16 (val32 w)
    | .e4m3 => narrowE4M3 (val32 w)
    | .e5m2 => narrowE5M2 (val32 w)
    | _ => (w.toNat, .none)

/-! ## Token scales (07 R175) -/

/-- The token scale of an amax: the FP32 scale and its record. `a` is a finite non-negative value or is taken as 0. -/
def tokenScale (int4 : Bool) (amax : Word) : Word × Word × Raised :=
  let v := val32 amax
  let bad := !isFin v
  let s : Word := if bad || v.isZero then 0x3F800000 else
    max32 (div32 v.abs (.fin false (if int4 then 7 else 127) 0)) 0x00800000
  let sig : Nat := s.toNat % 2 ^ 23 + 2 ^ 23
  let e : Int := ((s.toNat / 2 ^ 23 % 256 : Nat) : Int) - 127
  let mt := rhuShift sig 8
  let r : Int × Int := if mt = 65536 then (32768, e + 1) else (mt, e)
  (s, BitVec.ofInt 32 (r.1 * 65536 + ((BitVec.ofInt 9 r.2).toNat : Int)), if bad then .nanSeen else .none)

/-- mt and et of a token scale record. -/
def tokenParts (w : Word) : Nat × Int := (w.toNat / 65536, signedOf 9 (w.toNat % 512))

/-! ## Requantisation parameter blocks (07 R176) -/

structure Rqb where
  out     : Fmt
  token   : Bool
  merge   : Bool
  stats   : Bool
  slot    : Nat
  zp      : Int
  entry   : Nat
  chan    : List Nat
  corr    : List Nat
deriving DecidableEq, Repr

def isIntOut (f : Fmt) : Bool := decide (fmtCode f ≤ 3)

/-- Parts of a byte list. -/
def field (b : List Byte) (off n : Nat) : Nat := leNat ((b.drop off).take n)

/-- The block's fields, `none` where one lies outside its values (RQ_TABLE_RANGE). -/
def parseRqb (b : List Byte) : Option Rqb :=
  match fmtOf (field b 0 1) with
  | none => none
  | some out =>
    let fl := field b 1 1
    let chan := (upTo 64).map fun c => field b (0x20 + 4 * c) 4
    let corr := (upTo 64).map fun c => field b (0x120 + 8 * c) 8
    let zp := signedOf 16 (field b 2 2)
    let int := isIntOut out
    let ok := decide (fmtCode out ≤ 11) && fl % 4 == 0 && field b 4 1 ≤ 7 && field b 5 27 == 0 && field b 0x320 224 == 0 &&
      (if int then decide ((intRange out).1 ≤ zp) && decide (zp ≤ (intRange out).2) &&
          chan.all (fun c => c / 2 ^ 14 % 4 == 0 && c % 256 == 0) &&
          corr.all (fun w => decide (signedOf 64 w = signedOf 48 w))
        else zp == 0 && corr.all (· == 0))
    if ok then
      some { out, token := fl / 128 == 1, merge := fl / 64 % 2 == 1, stats := fl / 32 % 2 == 1, slot := fl / 4 % 8, zp,
             entry := field b 4 1, chan, corr }
    else none

/-- The requantised path (07 R177): entry, outlier entry, lane position, token scale record of the row. -/
def requantise (r : Rqb) (acc accO : Int) (c : Nat) (record : Word) : Int × Raised :=
  let w := r.chan.getD c 0
  let m := w / 65536
  let sh := w / 256 % 64
  let (mt, et) := if r.token then tokenParts record else (32768, 0)
  let a := acc - signedOf 48 (r.corr.getD c 0) + accO
  let p := a * m * mt
  let n : Int := sh + 15 - et
  let v := if 1 ≤ n then rhuShift p n.toNat else p * 2 ^ (-n).toNat
  let x := satFlag ((intRange r.out).1 - r.zp) ((intRange r.out).2 - r.zp) v
  (x.1 + r.zp, x.2)

/-! ## Outlier maps (07 R179) -/

/-- A map's indices for a group of `size` channels, `none` where it breaks R179. -/
def parseMap (b : List Byte) (size : Nat) : Option (List Nat) :=
  let n := field b 0 1
  let idx := (upTo 8).map fun i => field b (1 + i) 1
  let used := idx.take n
  if n ≤ 8 && (idx.drop n).all (· == 0) && field b 9 7 == 0 && used.all (fun i => decide (i < size)) &&
     (used.zip (used.drop 1)).all (fun p => decide (p.1 < p.2)) then some used else none

/-! ## MX blocks (07 R182) -/

def mxEmax : Fmt → Int
  | .e3m2 => 4
  | .mxint8 => 0
  | _ => 2

/-- The format of a float MX element. -/
def mxFmt : Fmt → FloatFmt
  | .e2m3 => fmtE2M3
  | .e3m2 => fmtE3M2
  | _ => fmtE2M1

/-- floor(log2 |x|) of a finite value, `none` for 0. -/
def exponentOf : FVal → Option Int
  | .fin _ m e => if m = 0 then none else some ((Nat.log2 m : Int) + e)
  | _ => none

/-- One block: its elements with the shared scale. -/
def mxQuantise (f : Fmt) (xs : List FVal) : List Elem × Raised :=
  if xs.any (fun x => !isFin x) then (xs.map fun _ => { code := 0, scale := 255 }, .nanSeen)
  else
    let xe := match (xs.filterMap exponentOf) with
      | [] => -127
      | e :: r => clampInt (-127) 127 (r.foldl max e - mxEmax f)
    let one (x : FVal) : Nat × Raised := match x with
      | .fin n m e => if f = .mxint8 then narrowMxInt8 n m (e - xe) else narrowMx (mxFmt f) n m (e - xe)
      | _ => (0, .none)
    let ys := xs.map one
    (ys.map fun y => { code := y.1, scale := (xe + 127).toNat }, ys.foldl (fun a y => a.or y.2) .none)

end Sys2Proof.Machine
end

