-- ==== Sys2Proof/Machine/TileOps.lean ====
section
/-! DEFINITION. How an operation of a tile's program issues, is held or faults (11 R244–R246, R260, 06 R163), and the tile's
registers, scratchpad and tags as the operations use them (12). -/
namespace Sys2Proof.Machine

/-- What an operation does at issue: its effect, a hold of its bundle, or a task fault with its code. -/
inductive OpRes where
  | ok (s : State)
  | hold (h : Hold)
  | fault (code : Half)

def slotCode : Slot → Nat
  | .m => 0 | .v => 1 | .s => 2 | .c => 3

/-! ## Registers -/

def sReg (r : TRegs) (i : Nat) : Dword := r.s.get 0 i
def aReg (r : TRegs) (i : Nat) : Addr := r.a.get 0 i
def vLane (r : TRegs) (v l : Nat) : Word := r.v.get 0 (v * 128 + l)
def pReg (r : TRegs) (i : Nat) : BitVec 128 := r.p.get 0 i
def vLanes (r : TRegs) (v : Nat) : List Word := (upTo 128).map (vLane r v)

def setS (r : TRegs) (i : Nat) (x : Dword) : TRegs := { r with s := r.s.set 0 i x }
def setA (r : TRegs) (i : Nat) (x : Addr) : TRegs := { r with a := r.a.set 0 i x }
def setP (r : TRegs) (i : Nat) (x : BitVec 128) : TRegs := { r with p := r.p.set 0 i x }
def setV (r : TRegs) (v : Nat) (xs : List Word) : TRegs :=
  { r with v := (xs.zipIdx).foldl (fun t e => t.set 0 (v * 128 + e.2) e.1) r.v }

def State.body (s : State) (t : Nat) : TileBody := (s.tile t).body
def State.modBody (s : State) (t : Nat) (f : TileBody → TileBody) : State :=
  s.modTile t fun x => { x with body := f x.body }
def State.modRegs (s : State) (t : Nat) (f : TRegs → TRegs) : State :=
  s.modBody t fun b => { b with regs := f b.regs }
def State.raise (s : State) (t : Nat) (r : Raised) : State :=
  s.modBody t fun b => { b with qSat := b.qSat || r.q, nanSeen := b.nanSeen || r.nan, accSat := b.accSat || r.acc }

/-! ## Statistics (07 R184, R185) -/

/-- What quantising operations added lands in the task's statistics record: the sum by one FP64 addition, the count up to
2^64 − 1. A task without the stats flag has no record (`statsAt` 0). -/
def State.flushStats (s : State) (t : Nat) : State :=
  let x := s.tile t
  if x.body.stats.isEmpty then s
  else if x.statsAt = 0 then s.modBody t fun b => { b with stats := [] }
  else
    let add (s : State) (e : Nat × Dword × Nat) : State :=
      match s.place (x.statsAt + 16 * e.1) with
      | .ext a =>
        let old := BitVec.ofNat 64 (s.extNat a 8)
        let cnt := min (2 ^ 64 - 1) (s.extNat (a + 8) 8 + e.2.2)
        s.extWrite a (leBytes 8 (add64 old e.2.1).toNat ++ leBytes 8 cnt)
      | _ => s
    (x.body.stats.foldl add s).modBody t fun b => { b with stats := [] }

/-! ## Pooling jobs of an ended task (09 R217) -/

/-- A fault or kill discards the task's queued pooling jobs and stops its running one. -/
def poolDrop (ref : TaskRef) (c : ClusterSt) : ClusterSt :=
  { c with poolQueue := c.poolQueue.filter (·.ref ≠ ref),
           poolRun := c.poolRun.map fun p => if p.ref = ref then { p with stopped := true } else p }

def State.poolStop (s : State) (ref : TaskRef) : State :=
  { s with clusters := s.clusters.entries.foldl (fun t e => t.set ClusterSt.init e.1 (poolDrop ref e.2)) s.clusters }

/-! ## An MOUT that is not complete writes nothing (06 R163) -/

/-- A part of an MOUT is undone: bytes and tags as before it landed. -/
def State.undoPart (s : State) (p : MoutPart) : State :=
  match p.at' with
  | .ext a => s.extWrite a p.old
  | .tile t off => s.modBody t fun b =>
      { b with sp := (p.old.zipIdx).foldl (fun m e => m.set 0 (off + e.2) e.1) b.sp
               tags := p.tags.foldl (fun m k => m.set false k.1 k.2) b.tags }
  | .cache c off =>
    let cl := s.cluster c
    s.setCluster c { cl with cache := (p.old.zipIdx).foldl (fun m e => m.set 0 (off + e.2) e.1) cl.cache }

/-- Every part that MOUTs of tile `t` not yet complete have landed is undone, newest first. -/
def State.undoMouts (s : State) (t : Nat) : State :=
  ((s.body t).moutParts.foldl State.undoPart s).modBody t fun b => { b with moutParts := [] }

/-! ## Faults and issue -/

/-- The registers of a faulted task of a sealed model's job are captured for its crash dump (19 R429). -/
def State.keepDump (s : State) (job : Word) (task : Nat) (x : Tile) : State :=
  match (s.graph job).bind (·.modelSlot) with
  | some _ => s.setSched { s.sched with dumps := s.sched.dumps ++ [{ job, task, tile := x }] }
  | none => s

/-- A task faults (06 R163, 11 R260, 14 R334): accumulators poisoned, writes not yet landed dropped, MOUTs not complete undone, flags handed to the status,
the tile FAULTED, the graph ended; a receiver net's slot is rerun (02 R60). `issue` goes back to the state before the bundle. -/
def State.taskFault (s : State) (t : Nat) (code : Half) (slot : Nat) (issue : Bool) (image : Bool := false) : State :=
  let s := (if issue then s.modTile t fun x => { x with body := x.before } else s.flushStats t).undoMouts t
  let x := s.tile t
  let b := x.body
  let poison := (upTo 8).foldl (fun p e => p.set false e true) b.poison
  let body := { b with poison, longOp := none, qSat := false, nanSeen := false, accSat := false, stats := [],
                       streams := b.streams.mapTo StreamSt.init fun st => { st with pend := [] } }
  let s1 := s.setTile t { x with state := .faulted, faultCode := code, faultBundle := if image then 0 else b.cur,
                                 faultSlot := if image then 0 else slot, faultImage := image, body, before := body,
                                 hold := none, semSat := false }
  match x.ref with
  | none => s1
  | some ref =>
    let s2 := (s1.poolStop ref).modTask ref t fun k =>
      { taskMerge k b.qSat b.nanSeen b.accSat x.semSat with
        state := .faulted, fault := code, bundle := if image then 0xFFFF else BitVec.ofNat 16 b.cur,
        slot := if image then 0xFF else BitVec.ofNat 8 slot, endNs := s.nowNs }
    match ref with
    | .graph job copy task => (s2.graphFaulted job copy.val task code).keepDump job task (s1.tile t)
    | .entry n =>
      (match s2.sched.table.bind (·.entries[n.val]?), s2.sched.entrySlot.get none n.val with
       | some e, some slotNo => if e.kind = 0 ∧ e.owner < 8 then s2.classicalRerun e.owner slotNo else s2
       | _, _ => s2)
    | .training _ => s2

/-- The bundle that holds pc begins: its registers are read as they stand now (11 R246). -/
def beginBundle (x : Tile) (slot : Slot) : Tile :=
  let b := { x.body with cur := x.body.pc }
  { x with before := b, body := { b with pc := b.pc + 1 }, slots := [slot] }

/-- The effect of an operation on the bundle it belongs to: done; held, with the bundle as if not issued; or a fault at
issue, with no slot having any effect (11 R245, R260). -/
def settle (s : State) (t : Nat) (slot : Slot) (r : OpRes) : State :=
  match r with
  | .ok s' => s'.modTile t fun x => { x with hold := none }
  | .hold h => s.modTile t fun x =>
      { x with body := x.before, hold := some h, holdSince := if x.hold = some h then x.holdSince else s.clock.cycle
               slots := if x.state = .draining then [] else x.slots }
  | .fault code =>
    let s1 := s.taskFault t code (slotCode slot) true
    if code = Code.til 0x60 then s1.modTile t fun x => { x with eccUe := bump top32 x.eccUe } else s1

/-- An event of the tile's streams or scratchpad ends the joining of operations: the next one begins a bundle. -/
def State.closeBundle (s : State) (t : Nat) : State := s.modTile t fun x => { x with slots := [] }

/-- Does the tile still take operations of the bundle in issue? A drain lets that bundle complete (11 R260). -/
def bundleOpen (x : Tile) : Bool :=
  x.state == .running || (x.state == .draining && !x.slots.isEmpty && x.hold.isNone)

/-- An operation of a tile's program. It acts only while the tile runs, or completes the bundle that a drain found in issue; an operation that does
not join begins the next bundle, and waits while a long operation is under way; one that joins a held bundle has no effect, and beside a long
operation faults with TI_LONG (11 R252). The operations of a bundle come in the order M, V, S, C, at most one a slot: one that comes out of that
order joins nothing (DESIGN CHOICE, log 113). A pc beyond the last bundle faults with TI_PC (11 R253). -/
def runOp (s : State) (i : Issue) (slot : Slot) (f : State → Nat → OpRes) : State :=
  let t := i.tile.val
  let s := if i.joint && !(s.tile t).slots.isEmpty then s else s.flushStats t
  let x := s.tile t
  if !bundleOpen x then s
  else if i.joint && (x.hold.isSome || !x.slots.isEmpty) then
    (if x.hold.isSome || !x.slots.all (fun k => slotCode k < slotCode slot) then s
     else if x.body.longOp.isSome then s.taskFault t (Code.til 0x04) 1 true
     else
       let s1 := s.setTile t { x with slots := x.slots ++ [slot] }
       settle s1 t slot (f s1 t))
  else if x.state ≠ .running ∨ x.body.longOp.isSome then s
  else if x.nBundles ≤ x.body.pc then s.taskFault t (Code.til 0x02) (slotCode slot) false
  else
    let s1 := s.setTile t (beginBundle x slot)
    settle s1 t slot (f s1 t)

/-- Registers as they stood before the bundle. -/
def State.regsAt (s : State) (t : Nat) : TRegs := (s.tile t).before.regs

/-- A branch of the bundle in issue to a target, or TI_PC (11 R253). -/
def branchTo (s : State) (t : Nat) (target : Int) : OpRes :=
  if 0 ≤ target ∧ target < (s.tile t).nBundles then .ok (s.modBody t fun b => { b with pc := target.toNat })
  else .fault (Code.til 0x02)

/-! ## Scratchpad (12 R264–R274) -/

/-- A scratchpad address as a tile-window offset: an offset, or an address of the tile's own window (DEDUCED, log 11). -/
def windowOff (t : Nat) (a : Nat) : Nat :=
  let base := tileBase + t * 0x200000
  if base ≤ a ∧ a < base + 0x200000 then a - base else a

def polderAt (x : Tile) (off : Nat) : Polder := x.polders.get Polder.init (off / 0x10000)

/-- Does [off, off + n) of a tile lie in HELD polders of a job (12 R269)? -/
def heldBy (x : Tile) (job : Word) (off n : Nat) : Bool :=
  off + n ≤ 0x180000 &&
  (upTo ((off + n - 1) / 0x10000 + 1 - off / 0x10000)).all fun k =>
    let p := x.polders.get Polder.init (off / 0x10000 + k)
    p.state = .held && p.job = job

/-- Does [off, off + n) lie in HELD polders of the task's own job? -/
def heldRange (x : Tile) (off n : Nat) : Bool := heldBy x x.pjob off n

def spBytes (b : TileBody) (off n : Nat) : List Byte := (upTo n).map fun i => b.sp.get 0 (off + i)

/-- Does a read touch an uncorrectable word (12 R266)? -/
def spUnreadable (b : TileBody) (off n : Nat) : Bool := b.spBad.any fun w => w * 8 < off + n && off < w * 8 + 8

/-- Would a write of [off, off + n) merge into an uncorrectable word? -/
def spMergeBad (b : TileBody) (off n : Nat) : Bool :=
  b.spBad.any fun w => w * 8 < off + n && off < w * 8 + 8 && !(off ≤ w * 8 && w * 8 + 8 ≤ off + n)

/-- A write under R266: whole words replace what they held; bytes of an uncorrectable word that is written in part do not
land. Each byte carries the mask of the bits written (13 R287). -/
def spWriteMasked (b : TileBody) (off : Nat) (bytes : List (Byte × Byte)) : TileBody :=
  let n := bytes.length
  let partBad := fun a => b.spBad.contains (a / 8) && !(off ≤ a / 8 * 8 && a / 8 * 8 + 8 ≤ off + n)
  let sp := (bytes.zipIdx).foldl (fun t e =>
    let a := off + e.2
    if partBad a then t else t.set 0 a ((t.get 0 a &&& ~~~e.1.2) ||| (e.1.1 &&& e.1.2))) b.sp
  { b with sp, spBad := b.spBad.filter fun w => !(off ≤ w * 8 && w * 8 + 8 ≤ off + n) }

def spWrite (b : TileBody) (off : Nat) (bytes : List Byte) : TileBody :=
  spWriteMasked b off (bytes.map fun y => (y, 0xFF))

def tagFull (b : TileBody) (slot : Nat) : Bool := b.tags.get false slot
def setTag (b : TileBody) (slot : Nat) (full : Bool) : TileBody := { b with tags := b.tags.set false slot full }

def slotTagged (x : Tile) (slot : Nat) : Bool := (x.polders.get Polder.init (slot / 256)).tagged

/-- The first slot of [off, off + n) whose tag keeps a reader (`full` wanted) or a fill writer waiting (12 R271). -/
def tagWait (x : Tile) (off n : Nat) (full : Bool) : Option Nat :=
  ((upTo ((off + n - 1) / 256 + 1 - off / 256)).map (off / 256 + ·)).find? fun k =>
    slotTagged x k && tagFull x.body k != full

/-- A peek read by the program (12 R272): SP_POLDER outside the job's polders, a wait on an empty slot, `ue` where a word
cannot be corrected. It finds the scratchpad as it stood before the bundle (11 R246). -/
def peek (x : Tile) (off n ue : Nat) (k : List Byte → OpRes) : OpRes :=
  let y := { x with body := x.before }
  if !heldRange y off n then .fault (Code.til 0x61)
  else match tagWait y off n true with
    | some slot => .hold (.tag slot)
    | none => if spUnreadable y.body off n then .fault (Code.til ue) else k (spBytes y.body off n)

end Sys2Proof.Machine
end

