-- ==== Sys2Proof/Machine/Links.lean ====
section
/-! DEFINITION. Obdo links: shape, routes, flits sent and their replay buffer (15 R336, R339, R340, R342). -/
namespace Sys2Proof.Machine

/-! ## Shape and routes -/

/-- Number of this device in the array, and whether a device number names a device of its shape (15 R336). -/
def State.devNumber (s : State) : Nat := s.array.y * s.array.nx + s.array.x
def State.devInShape (s : State) (n : Nat) : Bool := decide (n < s.array.nx * s.array.ny)

/-- The link by which a message for device `dst` leaves (x, y): along x first, by the shorter way; half a ring by the parity of
the source tile (15 R342). -/
def hopLink (nx ny x y dst tile : Nat) : Nat :=
  let dx := (dst % nx + nx - x) % nx
  let dy := (dst / nx + ny - y) % ny
  let ahead (d n : Nat) : Bool := decide (d * 2 < n) || (d * 2 == n && tile % 2 == 0)
  if dx ≠ 0 then (if ahead dx nx then 1 else 3) else if ahead dy ny then 2 else 0

/-- The device at the far end of a link (15 R336). -/
def neighbourOf (nx ny x y link : Nat) : Nat :=
  if link = 1 then y * nx + (x + 1) % nx
  else if link = 3 then y * nx + (x + nx - 1) % nx
  else if link = 2 then (y + 1) % ny * nx + x
  else (y + ny - 1) % ny * nx + x

/-- The link at the far end of a link. -/
def oppositeLink (link : Nat) : Nat := (link + 2) % 4

/-- Does a link join the ends of a ring, the dateline of 15 R342? -/
def wrapLink (nx ny x y link : Nat) : Bool :=
  (link == 1 && x + 1 == nx) || (link == 3 && x == 0) || (link == 2 && y + 1 == ny) || (link == 0 && y == 0)

/-- The last link of the route from one device to another, taken as an even source tile (DEDUCED, log 47). -/
def lastHop (nx ny : Nat) : Nat → Nat → Nat → Option Nat
  | 0, _, _ => none
  | f + 1, at', dst =>
    if at' = dst then none
    else
      let k := hopLink nx ny (at' % nx) (at' / nx) dst 0
      let n := neighbourOf nx ny (at' % nx) (at' / nx) k
      if n = dst then some k else lastHop nx ny f n dst

/-- The link to a device's parent in the tree of the array master (15 R349). -/
def parentOf (nx ny master dev : Nat) : Option Nat := (lastHop nx ny 8 master dev).map oppositeLink

def State.parentLink (s : State) : Option Nat := parentOf s.array.nx s.array.ny s.array.master s.devNumber

/-- The links to the devices whose parent this one is. -/
def State.childLinks (s : State) : List Nat :=
  let a := s.array
  (upTo 4).filter fun k =>
    let n := neighbourOf a.nx a.ny a.x a.y k
    n != s.devNumber && parentOf a.nx a.ny a.master n == some (oppositeLink k)

def State.link (s : State) (k : Nat) : Link := s.array.links.getD k Link.init
def State.setLink (s : State) (k : Nat) (l : Link) : State := s.setArray { s.array with links := setAt s.array.links k l }

def State.routeLink (s : State) (dst tile : Nat) : Nat := hopLink s.array.nx s.array.ny s.array.x s.array.y dst tile

/-- Does a device lie beyond a link that is down? -/
def State.beyondDown (s : State) (dev tile : Nat) : Bool := (s.link (s.routeLink dev tile)).state == .down

/-! ## Flits sent -/

/-- A message of kinds 1 to 5: its header's fields and data bytes (15 R339). -/
structure FarMsg where
  cls     : JobClass
  kind    : Nat
  dst     : Nat
  addr    : Nat
  tile    : Nat
  closing : Bool
  job     : Word
  credit  : Nat
  data    : List Byte

/-- The class a link carries it in: 1 assured, 2 inference. -/
def linkClass : JobClass → Nat
  | .assured => 1
  | _ => 2

/-- Payloads: 16 bytes of header and 224 data bytes in the first flit, 240 in the others. -/
def payloads : Nat → List Byte → List (List Byte)
  | 0, b => [b]
  | f + 1, b => if b.length ≤ 240 then [b] else b.take 240 :: payloads f (b.drop 240)

def farFlits (own : Nat) (vc : Bool) (m : FarMsg) : List Flit :=
  let body := leBytes 6 m.addr ++ leBytes 2 m.data.length ++ leBytes 1 m.tile ++ leBytes 1 (if m.closing then 1 else 0) ++
    leBytes 4 m.job.toNat ++ leBytes 2 m.credit ++ m.data
  let ps := payloads 300 body
  ps.zipIdx.map fun p =>
    { seq := 0, ack := 0, nak := false, cls := BitVec.ofNat 2 (linkClass m.cls), vc, kind := BitVec.ofNat 4 m.kind,
      dst := BitVec.ofNat 4 m.dst, src := BitVec.ofNat 4 own, first := p.2 == 0, last := p.2 + 1 == ps.length, rsvd := 0, payload := p.1 }

/-- A flit leaves on a link, numbered, into the replay buffer of 512; without room, or before admission, it waits. -/
def State.putFlit (s : State) (k : Nat) (tile : Nat) (f : Flit) : State :=
  let l := s.link k
  if l.state = .admitted ∧ l.replay.length < 512 then
    let g := { f with seq := BitVec.ofNat 16 l.sendSeq, ack := BitVec.ofNat 16 l.expect }
    (s.setLink k { l with sendSeq := (l.sendSeq + 1) % 65536, replay := l.replay ++ [(tile, g)] }).emit (.flit (Fin.ofNat 4 k) g)
  else s.setLink k { l with queue := l.queue ++ [(tile, f)] }

def State.sendFlit (s : State) (k tile : Nat) (f : Flit) : State :=
  let l := s.link k
  if l.queue.isEmpty then s.putFlit k tile f else s.setLink k { l with queue := l.queue ++ [(tile, f)] }

/-- The flit the arbiter takes first and the others: management before assured before inference, within a class the oldest
(15 R341; the lead of R295 is timing, scope). -/
def nextFlit (q : List (Nat × Flit)) : Option ((Nat × Flit) × List (Nat × Flit)) :=
  let best := q.foldl (fun m e => min m e.2.cls.toNat) 3
  (q.find? (·.2.cls.toNat = best)).map fun e => (e, q.erase e)

/-- Flits that wait leave while there is room. -/
def State.flushLink (k : Nat) : Nat → State → State
  | 0, s => s
  | n + 1, s =>
    let l := s.link k
    match nextFlit l.queue with
    | none => s
    | some ((t, f), r) =>
      if l.state = .admitted ∧ l.replay.length < 512 then
        State.flushLink k n ((s.setLink k { l with queue := r }).putFlit k t f)
      else s

/-- A message of a pair of devices and a class is counted: the counter is in its IV (18 R401). -/
def State.countIv (s : State) (src dst cls : Nat) : State :=
  let k := (src * 16 + dst) * 4 + cls
  s.setArray { s.array with ivs := s.array.ivs.set 0 k ((s.array.ivs.get 0 k + 1) % 2 ^ 64) }

/-- A message to another device is sent by its route. -/
def State.sendFar (s : State) (m : FarMsg) : State :=
  let a := s.array
  let k := s.routeLink m.dst m.tile
  (farFlits s.devNumber (wrapLink a.nx a.ny a.x a.y k) m).foldl (fun s f => s.sendFlit k m.tile f)
    (s.countIv s.devNumber m.dst (linkClass m.cls))

/-- The address by which another device of the array names a slot of a tile here: the inbound number stands in place of the tile
(15 R345). -/
def State.inboundAddr (s : State) (job : Word) (t slot : Nat) : Nat :=
  let n := (upTo 96).find? fun n => s.array.inbound.get none (job.toNat * 128 + n) == some (Fin.ofNat 96 t)
  tileBase + n.getD 0 * 0x200000 + slot * 256

/-- What a device of the array is told about a slot it asked for or wrote: kind 3 a grant, kind 4 a revocation, or a refusal with
the fault its task takes. The data bytes are its tile and the code (layout DESIGN CHOICE, log 19). -/
def State.tellDevice (s : State) (kind : Nat) (cls : JobClass) (job : Word) (dev tile addr code : Nat) : State :=
  s.sendFar { cls, kind, dst := dev, addr, tile := 0, closing := false, job, credit := 0, data := leBytes 1 tile ++ leBytes 2 code }

end Sys2Proof.Machine
end

