-- ==== Sys2Proof/Machine/Streams.lean ====
section
/-! DEFINITION. Stream descriptors: their layout, their checks, the walk of their elements (13 R286–R290, 09 R202–R213). -/
namespace Sys2Proof.Machine

/-- Buffer handles stand above the 48-bit map: radio buffers, then context memory (02 R38). -/
def bufferSpace : Nat := 2 ^ 48
def contextSpace : Nat := 2 ^ 49

/-- Where a buffer handle reaches: `none` where its fields are out of range. A stream is no block of one kind, so each kind suits it (DEDUCED, log
99; 02 R38). -/
def handleAddr (h : Nat) : Option Nat :=
  let kind := h / 2 ^ 28 % 16
  let unit := h / 2 ^ 24 % 16
  let rsvd := h / 2 ^ 17 % 128
  let idx := h % 2 ^ 17
  if rsvd ≠ 0 then none
  else if 1 ≤ kind ∧ kind ≤ 3 then (if unit < 4 ∧ idx ≤ 98303 then some (bufferSpace + idx * 256) else none)
  else if kind = 4 then (if unit = 0 ∧ idx < 4096 then some (contextSpace + idx * 2048) else none)
  else if kind = 5 then (if unit = 0 ∧ idx < 32768 then some (contextSpace + 0x800000 + idx * 128) else none)
  else none

/-- The descriptor's fields (13 Table 2); `rsvdBad` where one that must be 0 is not. -/
def parseDesc (b : List Byte) : StreamDesc :=
  let f := field b
  let fl := f 7 1
  let mode := f 0x0D 1
  let conv := fl % 2 == 1
  let compress := fl / 4 % 2 == 1
  let decrypt := fl / 2 % 2 == 1
  let copy := mode % 2 == 1
  let gather := mode / 4 % 2 == 1
  let fmt := f 0x0C 1
  let mx := 7 ≤ fmt % 16 && fmt % 16 ≤ 10
  let bad := f 0x0B 1 != 0 || 16 ≤ fmt || 8 ≤ mode || f 0x2B 21 != 0 || f 0x24 4 / 2 ^ 21 != 0 || f 0x46 2 != 0 ||
    (!copy && (f 0x0E 2 != 0 || f 0x24 4 != 0 || f 0x28 2 != 0)) || (!decrypt && f 0x2A 1 != 0) ||
    (!compress && !gather && f 0x40 6 != 0) || (!conv && !gather && f 0x48 24 != 0) ||
    (conv && f 0x5E 2 != 0) || (gather && !conv && (f 0x4F 1 != 0 || f 0x58 8 != 0)) || (!mx && f 0x60 6 != 0) ||
    f 0x66 26 != 0
  { farAddr := f 0 6, farDev := f 6 1, dirWrite := fl / 128 == 1, handle := fl / 64 % 2 == 1, tag := fl / 8 % 8, compress,
    decrypt, conv, length := f 8 3, fmt := fmt % 16, copy, wc := mode / 2 % 2 == 1, gather, rate := f 0x0E 2,
    n0 := f 0x10 2, n1 := f 0x12 2, n2 := f 0x14 2, n3 := f 0x16 2, s1 := signedOf 32 (f 0x18 4),
    s2 := signedOf 32 (f 0x1C 4), s3 := signedOf 32 (f 0x20 4), nearAddr := f 0x24 4, nearSlots := f 0x28 2,
    keySlot := f 0x2A 1, auxAddr := f 0x40 6,
    convP := (upTo 10).map (fun i => f (0x48 + i) 1) ++ (upTo 6).map (fun i => f (0x52 + 2 * i) 2),
    rowCount := f 0x48 4, rowBytes := f 0x4C 2, gOp := f 0x4E 1, idxAddr := f 0x50 6, nBags := f 0x56 2,
    scaleAddr := f 0x60 6, rsvdBad := bad }

def descFmt (d : StreamDesc) : Fmt := (fmtOf d.fmt).getD .int8

/-- The format a consumer sees: a gather stream delivers int32 or fp32 lanes (13 R308). -/
def deliveredFmt (d : StreamDesc) : Fmt :=
  if d.gather then (if descFmt d = .int8 then .int32 else .fp32) else descFmt d

/-- Convolution parameters by name (13 Table 2): kh kw sy sx dy dx padTop padLeft padBottom padRight zp H W Cin oy0 ox0. -/
def cv (d : StreamDesc) (i : Nat) : Nat := d.convP.getD i 0
def convK (d : StreamDesc) : Nat := cv d 0 * cv d 1 * cv d 13
def convGroups (d : StreamDesc) : Nat := ceilDiv (convK d) 32
/-- zp_a as its code's value. -/
def convZp (d : StreamDesc) : Int := signedOf 16 (cv d 10)

/-- Elements the dimensions give. -/
def descTotal (d : StreamDesc) : Nat :=
  if d.conv then d.n0 * d.n1 * d.n2 * convGroups d * 32 else d.n0 * d.n1 * d.n2 * d.n3

/-- Byte and bit offset of element (i0, i1, i2, i3) of the plain walk (13 R287). -/
def walkOff (d : StreamDesc) (k : Nat) : Int × Nat :=
  let i0 := k % d.n0
  let r := k / d.n0
  let bits := i0 * fmtBits (descFmt d)
  let off : Int := ((bits / 8 : Nat) : Int) + (r % d.n1 : Nat) * d.s1 + (r / d.n1 % d.n2 : Nat) * d.s2 +
    (r / d.n1 / d.n2 : Nat) * d.s3
  (off, bits % 8)

/-- The input position that element `k` of a convolution walk reads: `none` beyond K, or a padding position (09 R203). -/
inductive ConvPos where
  | fill | pad | at (off : Int) (shift : Nat)
deriving DecidableEq, Repr

def convPos (d : StreamDesc) (k : Nat) : ConvPos :=
  let per := convGroups d * 32
  let pixel := k / per
  let idx := k % per
  if convK d ≤ idx then .fill
  else
    let tap := idx / cv d 13
    let c := idx % cv d 13
    let oy := cv d 14 + pixel / d.n0 % d.n1
    let ox := cv d 15 + pixel % d.n0
    let n := pixel / d.n0 / d.n1
    let iy : Int := (oy * cv d 2 + tap / cv d 1 * cv d 4 : Nat) - (cv d 6 : Int)
    let ix : Int := (ox * cv d 3 + tap % cv d 1 * cv d 5 : Nat) - (cv d 7 : Int)
    if iy < 0 ∨ (cv d 11 : Int) ≤ iy ∨ ix < 0 ∨ (cv d 12 : Int) ≤ ix then .pad
    else
      let bits := ix.toNat * fmtBits (descFmt d)
      .at ((n : Int) * d.s3 + (c : Int) * d.s2 + iy * d.s1 + ((bits / 8 : Nat) : Int)) (bits % 8)

/-- Bytes of the map that the far extent covers, from its lowest to its highest (13 R289). -/
def farExtent (d : StreamDesc) : Int × Int :=
  let term (n : Nat) (s : Int) : Int := ((n : Int) - 1) * s
  if d.conv then
    let row : Int := (ceilDiv (cv d 12 * fmtBits (descFmt d)) 8 : Nat)
    (d.farAddr, (d.farAddr : Int) + term d.n2 d.s3 + term (cv d 13) d.s2 + term (cv d 11) d.s1 + row - 1)
  else
    let ts := [term d.n1 d.s1, term d.n2 d.s2, term d.n3 d.s3]
    let lo := ts.foldl (fun a t => a + min 0 t) (d.farAddr : Int)
    let hi := ts.foldl (fun a t => a + max 0 t) ((d.farAddr : Int) + (packedBytes (descFmt d) d.n0 : Nat) - 1)
    (lo, hi)

/-! ## Checks at QLD (13 R289) -/

/-- Item 1: a field outside Table 2, or a packing, MX or conv condition of R287 broken. -/
def descIllFormed (d : StreamDesc) (radio : Bool) : Bool :=
  let f := descFmt d
  let w := fmtBits f
  let group := if w = 6 then 3 else 1
  let divides (s : Int) : Bool := s % group == 0
  d.rsvdBad || d.fmt == 15 || 5 ≤ d.tag || (d.handle && (!radio || 2 ^ 32 ≤ d.farAddr)) ||
  d.n0 == 0 || d.n1 == 0 || d.n2 == 0 || d.n3 == 0 || descTotal d < d.length ||
  (d.copy && (d.rate == 0 || 16384 < d.rate || d.nearAddr % 256 != 0 || d.nearSlots == 0 || 256 < d.nearSlots)) ||
  (d.decrypt && 64 ≤ d.keySlot) ||
  (!d.conv && ((w == 4 && d.n0 % 2 != 0) || (w == 6 && d.n0 % 4 != 0) || !divides d.s1 || !divides d.s2 || !divides d.s3)) ||
  (isMx f && d.n0 % 32 != 0) ||
  (d.conv && (d.n3 != 1 || (upTo 6).any (fun i => cv d i == 0 || 16 < cv d i) ||
    (cv d 0 - 1) * cv d 4 < cv d 6 || (cv d 1 - 1) * cv d 5 < cv d 7 || (cv d 0 - 1) * cv d 4 < cv d 8 ||
    (cv d 1 - 1) * cv d 5 < cv d 9 || cv d 11 == 0 || cv d 12 == 0 || cv d 13 == 0 ||
    !(match f with
      | .uint8 => decide (0 ≤ convZp d ∧ convZp d ≤ 255)
      | .int8 => decide (-128 ≤ convZp d ∧ convZp d ≤ 127)
      | _ => decide (convZp d = 0)))) ||
  (d.gather && (d.rowCount == 0 || d.rowBytes < 32 || 1024 < d.rowBytes || d.rowBytes % 32 != 0 || 1 < d.gOp ||
    d.idxAddr % 8 != 0 || d.nBags == 0 || d.auxAddr % 4096 != 0 || d.auxAddr < ddrBase ||
    !([Fmt.int8, .bf16, .e4m3, .e5m2, .fp32].contains f) || d.length * w != d.nBags * d.rowBytes * 8))

/-- Is an address a scratchpad address of the map? -/
def isTileAddr (a : Int) : Bool := decide ((tileBase : Int) ≤ a ∧ a < tileBase + 96 * 0x200000)

/-- Item 2: modes combined unlawfully. -/
def modesUnlawful (d : StreamDesc) (own : Nat) (thisDev : Bool) : Bool :=
  let inTile := isTileAddr d.farAddr && !d.handle
  let ownTile := inTile && thisDev && decide ((d.farAddr - tileBase) / 0x200000 = own)
  (d.gather && (d.copy || d.wc || d.compress || d.decrypt || d.conv || d.dirWrite)) ||
  (d.decrypt && (d.dirWrite || d.copy || d.gather || d.compress || d.conv || d.handle)) ||
  (d.compress && d.conv && d.dirWrite) || (d.copy && d.dirWrite) || (!d.dirWrite && !thisDev) ||
  (d.dirWrite && (d.tag == 1 || d.tag == 2)) || (!d.dirWrite && (d.tag == 3 || d.tag == 4)) ||
  (d.tag != 0 && !inTile) || (d.dirWrite && inTile && !ownTile && d.tag != 3 && d.tag != 4)

/-- Item 3: the planar layout (09 R202), and formats that compression does not take (09 R211). -/
def layoutBad (d : StreamDesc) : Bool :=
  (d.conv && (d.s1 % 32 != 0 || d.s3 % d.s2 != 0 || d.s2 % 32 != 0 ||
    (isTileAddr d.farAddr && !d.handle && d.s2 / 32 % 2 == 0))) ||
  (d.compress && !([Fmt.int8, .uint8, .int16, .bf16, .e4m3, .e5m2].contains (descFmt d)))

/-- Is a whole extent backed memory that streams may reach (01 R17, R18; save areas are refused, 13 R303)? On another device that is its HBM, DDR5
and scratchpads, which 15 R345 names as targets: its cluster caches are not mapped (DESIGN CHOICE, log 112). -/
def State.extentMapped (s : State) (lo hi : Int) (remote : Bool) : Bool :=
  if lo < 0 then false else
    let a := lo.toNat
    let b := hi.toNat
    if remote then
      decide (b < hbmSize) || decide (ddrBase ≤ a ∧ b < ddrBase + 2 ^ 40) ||
      decide (tileBase ≤ a ∧ b < tileBase + 96 * 0x200000 ∧ (a - tileBase) / 0x200000 = (b - tileBase) / 0x200000 ∧
        (b - tileBase) % 0x200000 < 0x180000)
    else match s.place a, s.place b with
      | .ext _, .ext _ => s.extRange a (b + 1 - a)
      | .tile t _, .tile u _ => t == u
      | .cache c _, .cache e y => c == e && decide (y < 0x380000)
      | _, _ => false

/-- May a task reach a range of external memory: its domain's region, or the sealed region of its own job (18 R398)? -/
def State.taskReach (s : State) (d : Domain) (job : Word) (a n : Nat) : Bool :=
  s.domainOk d a n ||
  match s.regionOf a with
  | some (i, r) => r.sealed && !r.changing && decide (a + n ≤ regionHi r) &&
      s.sec.slots.values.any fun k => match k with | some y => y.region == i && y.job == some job | none => false
  | none => false

/-- Is every page of a cache range allocated to the job and unlocked (13 R303)? -/
def State.cacheReach (s : State) (c : Nat) (job : Word) (d : Domain) (a n : Nat) : Bool :=
  (upTo ((a + n - 1) / 0x10000 + 1 - a / 0x10000)).all fun k =>
    match (s.cluster c).pages.get none (a / 0x10000 + k) with
    | some p => p.job == job && p.domain == d && !p.locked
    | none => false

/-- Item 6: the far extent against the task's domain. -/
def State.extentDenied (s : State) (x : Tile) (lo n : Nat) : Bool :=
  match s.place lo with
  | .ext a => !s.taskReach x.domain x.job a n
  | .cache c off => !s.cacheReach c x.job x.domain off n
  | _ => false

/-- Does [off, off + n) lie in one HELD polder of the task's job? -/
def onePolder (x : Tile) (off n : Nat) : Bool :=
  off / 0x10000 == (off + n - 1) / 0x10000 && heldRange x off n

/-- The ring of a copy stream lies in one HELD polder (13 R289 item 7). -/
def ringOk (x : Tile) (d : StreamDesc) : Bool := onePolder x d.nearAddr (d.nearSlots * 256)

/-- All checks of R289 in order: the fault, or none. -/
def State.descFault (s : State) (t : Nat) (d : StreamDesc) : Option Half :=
  let x := s.tile t
  let dev := d.farDev
  let here := dev == 255 || dev == s.devNumber
  let (lo, hi) := farExtent d
  let n := (hi + 1 - lo).toNat
  if descIllFormed d (x.cls == .radio) then some (Code.til 0x70)
  else if modesUnlawful d t here then some (Code.til 0x70)
  else if layoutBad d then some (Code.til 0x79)
  else if d.tag == 4 && !([Fmt.int32, .fp32].contains (descFmt d)) then some (Code.til 0x63)
  else if !here && (16 ≤ dev || !s.devInShape dev || s.beyondDown dev t) then some 0x1403
  else if !here then
    (if !s.extentMapped lo hi true then some Code.addrUnmapped
     else if x.cls == .radio || d.handle then some (Code.til 0x72) else none)
  else if d.handle then (if (handleAddr d.farAddr).isNone then some Code.addrUnmapped else
      if d.copy && !ringOk x d then some (Code.til 0x71) else none)
  else if !s.extentMapped lo hi false then some Code.addrUnmapped
  else if s.extentDenied x lo.toNat n then some (Code.til 0x72)
  else if (match s.place lo.toNat with | .tile u off => u == t && !onePolder x off n | _ => false) then some (Code.til 0x71)
  else if d.copy && !ringOk x d then some (Code.til 0x71)
  else none

/-- Does a decrypting descriptor name an empty slot, or another job's (13 R300)? -/
def State.keyRefused (s : State) (x : Tile) (d : StreamDesc) : Bool :=
  d.decrypt && (match s.sec.slots.get none d.keySlot with
    | some k => k.job != some x.job
    | none => true)

end Sys2Proof.Machine
end

