-- ==== Sys2Proof/Machine/StreamOps.lean ====
section
/-! DEFINITION. What streams move: reading an element from where it lies, fetching ahead, taking, handing over and landing
(13 R285–R303, R308, R309, 09 R203–R213, 12 R271, R274, R276). -/
namespace Sys2Proof.Machine

/-! ## Reading -/

/-- What a read of a stream finds: bytes, an uncorrectable word of the tile's own scratchpad, or a fault. -/
inductive Got where
  | bytes (l : List Byte)
  | bad
  | fault (code : Half)

/-- Sizes of the spaces behind buffer handles (02 R38). -/
def bufferSize : Nat := 98304 * 256
def contextSize : Nat := 0xC00000

/-- `n` bytes at an address as a stream of tile `t` reads them (12 R266, R269, 13 R303, R306, 02 R38). -/
def State.farRead (s : State) (t a n : Nat) : Got :=
  let x := s.tile t
  if contextSpace ≤ a then
    (if a + n ≤ contextSpace + contextSize then .bytes ((upTo n).map fun i => s.contextByte (a - contextSpace + i))
     else .fault Code.addrUnmapped)
  else if bufferSpace ≤ a then
    (if a + n ≤ bufferSpace + bufferSize then .bytes ((upTo n).map fun i => s.bufferByte (a - bufferSpace + i))
     else .fault Code.addrUnmapped)
  else match s.place a with
    | .ext b =>
      if !s.extRange b n then .fault Code.addrUnmapped
      else if !s.taskReach x.domain x.job b n then .fault (Code.til 0x72)
      else
        let b' := match x.ref with | some r => s.twinAddr r b | none => b
        if s.extBad b' n then .fault (Code.til 0x78) else .bytes (s.extRead b' n)
    | .tile u off =>
      let y := s.tile u
      if u = t then
        (if !heldRange x off n then .fault (Code.til 0x61)
         else if spUnreadable x.body off n then .bad else .bytes (spBytes x.body off n))
      else if !heldBy y x.pjob off n then .fault (Code.til 0x77)
      else if spUnreadable y.body off n then .fault (Code.til 0x60) else .bytes (spBytes y.body off n)
    | .cache c off =>
      let cl := s.cluster c
      if !s.cacheReach c x.job x.domain off n then .fault (Code.til 0x72)
      else if cl.badWords.any (fun w => w * 8 < off + n && off < w * 8 + 8) then .fault (Code.til 0x60)
      else .bytes ((upTo n).map fun i => cl.cache.get 0 (off + i))
    | _ => .fault Code.addrUnmapped

/-- `bits` bits from bit `shift` of a byte list on. -/
def cutBits (bs : List Byte) (shift bits : Nat) : Nat := leNat bs / 2 ^ shift % 2 ^ bits

/-- Bytes that `bits` bits from bit `shift` on touch. -/
def touched (shift bits : Nat) : Nat := (shift + bits + 7) / 8

/-- The code a fetched element brings, or the fault its fetch raises. -/
inductive Fetched where
  | elem (code : Nat) (bad : Bool)
  | fault (code : Half)

/-- An element at a byte address and bit. -/
def State.codeAt (s : State) (t a shift bits : Nat) : Fetched :=
  match s.farRead t a (touched shift bits) with
  | .bytes l => .elem (cutBits l shift bits) false
  | .bad => .elem 0 true
  | .fault c => .fault c

/-- The byte address a descriptor's far address stands for. -/
def farBase (d : StreamDesc) : Nat := if d.handle then (handleAddr d.farAddr).getD 0 else d.farAddr

/-- The code of a padding position (09 R204): zp_a, +0.0 for a float format. -/
def padCode (d : StreamDesc) : Nat :=
  match descFmt d with
  | .int8 | .uint8 => intCode (descFmt d) (convZp d)
  | _ => 0

/-- Place of element `k`: its byte address and bit, `none` where it lies nowhere (fill beyond K and padding). -/
def elemPlace (d : StreamDesc) (k : Nat) : Option (Nat × Nat) :=
  if d.conv then
    match convPos d k with
    | .at off shift => some (((farBase d : Int) + off).toNat, shift)
    | _ => none
  else
    let (off, shift) := walkOff d k
    some (((farBase d : Int) + off).toNat, shift)

/-! ## Zero compression (09 R211–R213) -/

/-- Index of element `k` of the walk in the dense tensor. -/
def denseIndex (d : StreamDesc) (k : Nat) : Option Nat :=
  if d.conv then
    let per := convGroups d * 32
    let idx := k % per
    match convPos d k with
    | .at _ _ =>
      let pixel := k / per
      let tap := idx / cv d 13
      let c := idx % cv d 13
      let n := pixel / d.n0 / d.n1
      let iy := (cv d 14 + pixel / d.n0 % d.n1) * cv d 2 + tap / cv d 1 * cv d 4 - cv d 6
      let ix := (cv d 15 + pixel % d.n0) * cv d 3 + tap % cv d 1 * cv d 5 - cv d 7
      some (((n * cv d 13 + c) * cv d 11 + iy) * cv d 12 + ix)
    | _ => none
  else some k

/-- Elements of a unit of 256 dense bytes. -/
def unitElems (d : StreamDesc) : Nat := 2048 / fmtBits (descFmt d)

/-- Element `j` of a unit: its directory word is checked against R212; `z` where the bitmap says so. -/
def State.unitElem (s : State) (t : Nat) (d : StreamDesc) (u j : Nat) : Fetched :=
  match s.farRead t (d.auxAddr + 4 * u) 4 with
  | .bad => .elem 0 true
  | .fault c => .fault c
  | .bytes l =>
    let w := leNat l
    let rows := w / 2 ^ 27 % 16
    let start := farBase d + w % 2 ^ 27 * 32
    let e := fmtBits (descFmt d) / 8
    if rows = 0 ∨ 8 < rows then .fault (Code.til 0x7A)
    else if w / 2 ^ 31 = 1 then
      (if rows ≠ 8 then .fault (Code.til 0x7A) else s.codeAt t (start + j * e) 0 (8 * e))
    else match s.farRead t start 32 with
      | .bad => .elem 0 true
      | .fault c => .fault c
      | .bytes m =>
        let bit (i : Nat) : Bool := leNat m / 2 ^ i % 2 == 1
        let nnz := ((upTo (unitElems d)).filter bit).length
        if rows ≠ 1 + ceilDiv (nnz * e) 32 then .fault (Code.til 0x7A)
        else if bit j then s.codeAt t (start + 32 + ((upTo j).filter bit).length * e) 0 (8 * e)
        else .elem (padCode d) false

/-- The rows a compressed unit occupies: address and bytes. -/
def State.unitSpan (s : State) (t : Nat) (d : StreamDesc) (u : Nat) : Option (Nat × Nat) :=
  match s.farRead t (d.auxAddr + 4 * u) 4 with
  | .bytes l => some (farBase d + leNat l % 2 ^ 27 * 32, leNat l / 2 ^ 27 % 16 * 32)
  | _ => none

/-! ## Decryption (13 R300, 18 R396) -/

/-- The weight chunk that holds an address of a key slot's weight area. -/
def chunkOf (k : KeySlot) (a : Nat) : Nat := (a - k.weightArea) / 4096

/-- The plaintext of a weight chunk, or the fault: ST_KEY for a slot that is not the job's, ST_AUTH where the tag fails. -/
def State.chunkPlain (s : State) (t : Nat) (d : StreamDesc) (a : Nat) : Got :=
  match s.sec.slots.get none d.keySlot with
  | none => .fault (Code.til 0x74)
  | some k =>
    if k.job ≠ some (s.tile t).job then .fault (Code.til 0x74)
    else if a < k.weightArea then .fault (Code.til 0x73)
    else
      let n := chunkOf k a
      match s.farRead t (k.weightArea + n * 4096) 4096 with
      | .bytes c =>
        let tag := s.extRead (k.bundle + 0x700 + 16 * (k.nGraph + n)) 16
        (match openText k.modelKey (k.ivPrefix ++ leBytes 4 (k.nGraph + n)) k.bundleId (c ++ tag) with
         | some p => .bytes p
         | none => .fault (Code.til 0x73))
      | g => g

/-- An element, or a scale byte, of a decrypting stream. -/
def State.codeOpen (s : State) (t : Nat) (d : StreamDesc) (a shift bits : Nat) : Fetched :=
  match s.chunkPlain t d a, s.chunkPlain t d (a + touched shift bits - 1) with
  | .fault c, _ => .fault c
  | _, .fault c => .fault c
  | .bytes p, .bytes p' =>
    let base := match s.sec.slots.get none d.keySlot with | some k => k.weightArea | none => 0
    let at' (i : Nat) : Byte :=
      let o := (a + i - base) % 4096
      if (a + i - base) / 4096 = (a - base) / 4096 then p.getD o 0 else p'.getD o 0
    .elem (cutBits ((upTo (touched shift bits)).map at') shift bits) false
  | _, _ => .elem 0 true

/-! ## Gather-pool (13 R308, R309) -/

/-- The bytes of bag `b` in the index list lie after those of the bags before it: its offset. -/
def State.bagAt (s : State) (t : Nat) (d : StreamDesc) : Nat → Option Nat
  | 0 => some 0
  | b + 1 =>
    (s.bagAt t d b).bind fun o =>
      match s.farRead t (d.idxAddr + o) 4 with
      | .bytes l => if 256 < leNat l then none else some (o + (4 + 4 * leNat l + 7) / 8 * 8)
      | _ => none

/-- A row's padded size: row_bytes rounded up to a power of two. -/
def rowPitch (n : Nat) : Nat := if n ≤ 32 then 32 else if n ≤ 64 then 64 else if n ≤ 128 then 128 else if n ≤ 256 then 256
  else if n ≤ 512 then 512 else 1024

/-- Sum of one element of the bag's rows: each row joins the partial of the controller that holds it. -/
def gatherAdd (int : Bool) (x y : Word) : Word := if int then x + y else add32 x y

/-- Rounding of a mean over `c` rows. -/
def gatherMean (int : Bool) (x : Word) (c : Nat) : Word :=
  if int then BitVec.ofInt 32 (rhuDiv x.toInt c) else div32 (val32 x) (.fin false c 0)

/-- One pooled element: bag and column of the row. -/
def State.gatherElem (s : State) (t : Nat) (d : StreamDesc) (k : Nat) : Fetched :=
  let f := descFmt d
  let e := fmtBits f / 8
  let int := f == .int8
  let per := d.rowBytes / e
  match s.bagAt t d (k / per) with
  | none => .fault (Code.til 0x76)
  | some o =>
    match s.farRead t (d.idxAddr + o) 4 with
    | .fault c => .fault c
    | .bad => .elem 0 true
    | .bytes l =>
      let c := leNat l
      if 256 < c then .fault (Code.til 0x76)
      else match s.farRead t (d.idxAddr + o + 4) (4 * c) with
        | .fault c => .fault c
        | .bad => .elem 0 true
        | .bytes li =>
          let rows := (upTo c).map fun i => field li (4 * i) 4
          let step (acc : Option (List Word) × Half) (r : Nat) : Option (List Word) × Half :=
            match acc.1 with
            | none => acc
            | some parts =>
              if d.rowCount ≤ r then (none, Code.til 0x76)
              else
                let a := d.auxAddr + r * rowPitch d.rowBytes
                match s.codeAt t (a + k % per * e) 0 (8 * e) with
                | .fault c => (none, c)
                | .elem v _ =>
                  let ch := (a - ddrBase) / 4096 % 8
                  let w := widen f (if int then .int32 else .fp32) { code := v, scale := 127 }
                  (some (parts.set ch (gatherAdd int (parts.getD ch 0) w)), acc.2)
          match rows.foldl step (some (List.replicate 8 0), 0) with
          | (none, c) => .fault c
          | (some p, _) =>
            let g (i : Nat) : Word := p.getD i 0
            let a := gatherAdd int
            let sum := a (a (a (g 0) (g 1)) (a (g 2) (g 3))) (a (a (g 4) (g 5)) (a (g 6) (g 7)))
            .elem (if d.gOp = 1 ∧ 0 < c then gatherMean int sum c else sum).toNat false

/-! ## One element of a read stream -/

/-- Element `k` of a stream: the source its modes name (13 R287, R300, R308, 09 R203, R204, R213). -/
def State.elemCode (s : State) (t : Nat) (d : StreamDesc) (k : Nat) : Fetched :=
  let bits := fmtBits (descFmt d)
  if d.gather then s.gatherElem t d k
  else if d.conv && convPos d k == .fill then .elem 0 false
  else if d.compress then
    match denseIndex d k with
    | none => .elem (padCode d) false
    | some i => s.unitElem t d (i / unitElems d) (i % unitElems d)
  else match elemPlace d k with
    | none => .elem (padCode d) false
    | some (a, shift) => if d.decrypt then s.codeOpen t d a shift bits else s.codeAt t a shift bits

/-- The scale of the block that holds element `k` of an MX stream (13 R287). -/
def State.elemScale (s : State) (t : Nat) (d : StreamDesc) (k : Nat) : Fetched :=
  if !isMx (descFmt d) then .elem 127 false
  else
    let a := d.scaleAddr + k / 32
    if d.decrypt then s.codeOpen t d a 0 8 else s.codeAt t a 0 8

/-- The bytes element `k` occupies, for the tags and the weight cache. -/
def State.elemSpan (s : State) (t : Nat) (d : StreamDesc) (k : Nat) : Option (Nat × Nat) :=
  if d.gather then none
  else if d.compress then (denseIndex d k).bind fun i => s.unitSpan t d (i / unitElems d)
  else (elemPlace d k).map fun p =>
    if d.decrypt then
      match s.sec.slots.get none d.keySlot with
      | some y => (y.weightArea + chunkOf y p.1 * 4096, 4096)
      | none => (p.1, touched p.2 (fmtBits (descFmt d)))
    else (p.1, touched p.2 (fmtBits (descFmt d)))

/-! ## Tags of a span (12 R271) -/

/-- Tile and slots of a span that lies in the scratchpad region. -/
def spanSlots (sp : Option (Nat × Nat)) : List (Nat × Nat) :=
  match sp with
  | some (a, n) =>
    if isTileAddr a && n ≠ 0 then
      (upTo ((a - tileBase + n - 1) / 256 + 1 - (a - tileBase) / 256)).map fun i =>
        let k := (a - tileBase) / 256 + i
        (k / 8192, k % 8192)
    else []
  | none => []

/-- The first slot whose tag is not as wanted. -/
def State.slotWait (s : State) (slots : List (Nat × Nat)) (full : Bool) : Option (Nat × Nat) :=
  slots.find? fun k => slotTagged (s.tile k.1) k.2 && tagFull (s.tile k.1).body k.2 != full

/-- Tags of tagged slots set. -/
def State.setTags (s : State) (slots : List (Nat × Nat)) (full : Bool) : State :=
  slots.foldl (fun s k => if slotTagged (s.tile k.1) k.2 then (s.modBody k.1 fun b => setTag b k.2 full).closeBundle k.1 else s) s

/-! ## Fetching ahead (13 R291) -/

/-- Is an MWLD or MWLDT moving elements from stream `q` into a weight buffer? -/
def loadingFrom (b : TileBody) (q : Nat) : Bool :=
  b.wbufs.values.any fun w => match w.loading with | some (r, _) => r == q | none => false

/-- Elements a fetch may still bring: buffer room, length, crest. -/
def fetchRoom (b : TileBody) (st : StreamSt) (q : Nat) : Nat :=
  let cap := 32768 / fmtBits (deliveredFmt st.desc)
  let room := if loadingFrom b q then st.desc.length else cap - (st.fetched - st.pos)
  let limit := match st.crest with | some c => min c st.desc.length | none => st.desc.length
  min room (limit - st.fetched)

/-- What a fetch of some elements brought: the elements, the fault that ended it (0 none). -/
structure FetchRun where
  st    : State
  elems : List Elem
  fault : Nat

/-- Elements fetched in walk order, at most `n`; a drain stream empties the slots its fetch pointer passes. -/
def State.fetchRun (s : State) (t : Nat) (d : StreamDesc) : Nat → Nat → FetchRun
  | 0, _ => { st := s, elems := [], fault := 0 }
  | n + 1, k =>
    let slots := spanSlots (s.elemSpan t d k)
    if (d.tag = 1 ∨ d.tag = 2) ∧ (s.slotWait slots true).isSome then { st := s, elems := [], fault := 0 }
    else match s.elemCode t d k, s.elemScale t d k with
      | .fault c, _ => { st := s, elems := [], fault := c.toNat }
      | _, .fault c => { st := s, elems := [], fault := c.toNat }
      | .elem v b, .elem sc b' =>
        let next := if k + 1 < d.length then spanSlots (s.elemSpan t d (k + 1)) else []
        let s1 := if d.tag = 1 then s.setTags (slots.filter (!next.contains ·)) false else s
        let s2 := if b || b' then s1.modTile t fun x => { x with eccUe := bump top32 x.eccUe } else s1
        let r := State.fetchRun s2 t d n (k + 1)
        { r with elems := { code := v, scale := sc, bad := b || b' } :: r.elems }

/-! ## Weight cache (13 R301) -/

/-- One line asked for by a stream of a domain: a hit, a merge with the fetch in flight, or a miss. -/
def State.wcAsk (s : State) (dom : Domain) (line : Nat) : State :=
  let w := s.wcache
  match w.lines.get none line with
  | some l =>
    if l.domain = dom then
      s.setWcache { w with hit := bump top64 w.hit, lines := w.lines.set none line (some { l with used := s.clock.cycle }) }
    else if w.inflight.contains (line, dom) then s.setWcache { w with merged := bump top64 w.merged }
    else s.setWcache { w with miss := bump top64 w.miss, domainMiss := bump top64 w.domainMiss, inflight := w.inflight ++ [(line, dom)] }
  | none =>
    if w.inflight.contains (line, dom) then s.setWcache { w with merged := bump top64 w.merged }
    else s.setWcache { w with miss := bump top64 w.miss, inflight := w.inflight ++ [(line, dom)] }

/-- The lines of a run of elements, each once. -/
def State.wcLines (s : State) (t : Nat) (d : StreamDesc) (from' n : Nat) : List Nat :=
  ((upTo n).flatMap fun i =>
    match s.elemSpan t d (from' + i) with
    | some (a, m) => (upTo ((a + m - 1) / 1024 + 1 - a / 1024)).map (a / 1024 + ·)
    | none => []).eraseDups

/-- A run through the weight cache: only wc = 1 streams of HBM or DDR5. -/
def State.wcRun (s : State) (t : Nat) (d : StreamDesc) (from' n : Nat) : State :=
  if d.wc && !d.handle && (match s.place d.farAddr with | .ext _ => true | _ => false) then
    (s.wcLines t d from' n).foldl (fun s l => s.wcAsk (s.tile t).domain l) s
  else s

/-! ## Taking and handing over -/

/-- How many elements a K-group consumer may take where the length ends inside a K-group (06 R158). -/
def fillable (d : StreamDesc) (pos n : Nat) : Bool := n ≤ ceilDiv (d.length - pos) 32 * 32 && pos < d.length

/-- Why elements are not there: the next fetch waits for its slot's tag, which counts as a wait on the tag (12 R273), or they are on the way. -/
def State.fetchHold (s : State) (t q : Nat) (st : StreamSt) : Hold :=
  if st.inflight.isEmpty ∧ (st.desc.tag = 1 ∨ st.desc.tag = 2) ∧ st.fetched < st.desc.length then
    match s.slotWait (spanSlots (s.elemSpan t st.desc st.fetched)) true with
    | some k => .tag k.2
    | none => .stream q
  else .stream q

/-- The next `n` elements of read stream `q`: direction, loaded, length before crest, then a hold until they are there
(11 R250, R251, 13 R290). With `fill` the positions beyond the length are 0 (06 R158). An element whose scratchpad word
cannot be corrected faults with `ue`. -/
def takeElems (s : State) (t q n ue : Nat) (fill : Bool) (endCode : Half) (k : State → List Elem → OpRes) : OpRes :=
  let b := s.body t
  let st := b.streams.get StreamSt.init q
  if 4 ≤ q then .fault (Code.til 0x06)
  else if !st.valid then .fault (Code.til 0x05)
  else if n = 0 then k s []
  else if st.desc.length < st.pos + n ∧ !(fill && fillable st.desc st.pos n) then .fault endCode
  else
    let m := min n (st.desc.length - st.pos)
    if (match st.crest with | some c => decide (c < st.pos + m) | none => false) then .fault (Code.til 0x07)
    else if st.buf.length < m then .hold (s.fetchHold t q st)
    else if loadingFrom b q ∨ st.desc.copy then .hold (.stream q)
    else
      let got := st.buf.take m
      if got.any (·.bad) then .fault (Code.til ue)
      else
        let last := (got.getLast?).getD { code := 0, scale := 127 }
        let s1 := s.modBody t fun b =>
          { b with streams := b.streams.set StreamSt.init q { st with pos := st.pos + m, buf := st.buf.drop m } }
        k s1 (got ++ List.replicate (n - m) { code := 0, scale := last.scale })

/-- Has a write of the stream not landed? -/
def unlanded (st : StreamSt) : Bool := st.pend.any fun w => !w.sent

/-- Bytes a write stream holds: what has not landed, and the parts of slots not yet closed (13 R285, 14 R329). -/
def pendBytes (st : StreamSt) : Nat := (st.pend.map fun w => (w.bits + 7) / 8).foldl (· + ·) 0

/-- The slots of the elements after `k`: does the stream leave a slot with element `k` (12 R271)? -/
def leavesSlot (s : State) (t : Nat) (d : StreamDesc) (k : Nat) : Bool :=
  k + 1 = d.length || spanSlots (s.elemSpan t d (k + 1)) != spanSlots (s.elemSpan t d k)

/-- The writes of one element: its code, and the scale of its block with the block's first element. -/
def elemWrites (s : State) (t : Nat) (d : StreamDesc) (mout : Nat) (k : Nat) (e : Elem) : List PendWr :=
  let w := fmtBits (descFmt d)
  let (a, shift) := (elemPlace d k).getD (0, 0)
  let sc : List PendWr :=
    if isMx (descFmt d) && k % 32 == 0 then
      [{ idx := k, addr := d.scaleAddr + k / 32, code := e.scale, bits := 8, shift := 0, leaves := false, mout }] else []
  sc ++ [{ idx := k, addr := a, code := e.code % 2 ^ w, bits := w, shift, leaves := leavesSlot s t d k, mout }]

/-- The writes of a finished unit of a compressing stream and the rows it takes (09 R212). -/
def unitWrites (d : StreamDesc) (u rows : Nat) (codes : List Nat) (raw0 last : Bool) (mout : Nat) : List PendWr × Nat :=
  let e := fmtBits (descFmt d) / 8
  let z := padCode d
  let full := codes ++ List.replicate (unitElems d - codes.length) z
  let nz := full.filter (· ≠ z)
  let packed := 1 + ceilDiv (nz.length * e) 32
  let raw := raw0 || 8 < packed
  let n := if raw then 8 else packed
  let join (cs : List Nat) : Nat := cs.foldr (fun c a => c + a * 2 ^ (8 * e)) 0
  let bitmap := (full.zipIdx).foldl (fun a p => if p.1 ≠ z then a + 2 ^ p.2 else a) 0
  let body := if raw then join full else bitmap + join nz * 2 ^ 256
  let dir := (if raw then 2 ^ 31 else 0) + n * 2 ^ 27 + rows
  let pad := if last then (8 - (u + 1) % 8) % 8 else 0
  let a := farBase d + rows * 32
  let cut := min (n * 32) (256 - a % 256)
  let rest : List PendWr := if cut = n * 32 then [] else
    [{ idx := u, addr := a + cut, code := body / 2 ^ (8 * cut), bits := 8 * (n * 32 - cut), shift := 0, leaves := last, mout }]
  let da := d.auxAddr + 4 * u
  ({ idx := u, addr := a, code := body % 2 ^ (8 * cut), bits := 8 * cut, shift := 0,
     leaves := last || (a + cut) % 256 == 0, mout } :: rest ++
   [{ idx := u, addr := da, code := dir, bits := 32 * (1 + pad), shift := 0, leaves := last || (da + 4) % 256 == 0, mout }], n)

/-- Elements handed over to a compressing stream, one at a time. -/
def unitRun (d : StreamDesc) (mout : Nat) : List Elem → StreamSt → StreamSt
  | [], st => st
  | e :: r, st =>
    let dense := st.dense ++ [e.code % 2 ^ fmtBits (descFmt d)]
    let last := st.pos + 1 = d.length
    let st1 := { st with pos := st.pos + 1, dense }
    if dense.length = unitElems d ∨ last then
      let (ws, n) := unitWrites d st.unit st.rows dense false last mout
      unitRun d mout r { st1 with pend := st1.pend ++ ws, dense := [], unit := st.unit + 1, rows := st.rows + n }
    else unitRun d mout r st1

/-- Why the oldest write of a full buffer has not landed: a tag of the tile's own scratchpad, or the buffer alone. -/
def State.bufferHold (s : State) (t q : Nat) (st : StreamSt) : Hold :=
  match st.pend.find? (fun w => !w.sent) with
  | some w =>
    let here := st.desc.farDev = 255 ∨ st.desc.farDev = s.devNumber
    let slots := if here then (spanSlots (some (w.addr, touched w.shift w.bits))).filter (·.1 = t) else []
    (match (if st.desc.tag = 3 then s.slotWait slots false else if st.desc.tag = 4 then s.slotWait slots true else none) with
     | some k => .tag k.2
     | none => .writeBuffer q)
  | none => .writeBuffer q

/-- Elements handed over to write stream `q` (11 R250, 13 R285, R290): direction, loaded, length, buffer room. The writes of an MOUT carry its number. -/
def handOver (s : State) (t q : Nat) (es : List Elem) (endCode : Half) (mout : Bool) (k : State → OpRes) : OpRes :=
  let st := (s.body t).streams.get StreamSt.init q
  if q < 4 then .fault (Code.til 0x06)
  else if !st.valid then .fault (Code.til 0x05)
  else if es.isEmpty then k s
  else if st.desc.length < st.pos + es.length then .fault endCode
  else if 512 ≤ pendBytes st then .hold (s.bufferHold t q st)
  else
    let d := st.desc
    let no := if mout then (s.body t).mouts + 1 else 0
    let st1 := if d.compress then unitRun d no es st
      else { st with pos := st.pos + es.length,
                     pend := st.pend ++ (es.zipIdx.flatMap fun p => elemWrites s t d no (st.pos + p.2) p.1) }
    k (s.modBody t fun b => { b with streams := b.streams.set StreamSt.init q st1, mouts := if mout then b.mouts + 1 else b.mouts })

/-! ## Landing -/

/-- The bytes and masks of a write. -/
def maskBytes (w : PendWr) : List (Byte × Byte) :=
  let n := touched w.shift w.bits
  (leBytes n (w.code * 2 ^ w.shift)).zip (leBytes n ((2 ^ w.bits - 1) * 2 ^ w.shift))

def mergeByte (old : Byte) (x : Byte × Byte) : Byte := (old &&& ~~~x.2) ||| (x.1 &&& x.2)

/-- One accumulate-on-write addition (12 R274): int32 wraps, fp32 rounds. -/
def accumulate (fp : Bool) (old new : Word) : Word := if fp then add32 old new else old + new

/-- Four-byte elements of a write added to what is stored. -/
def accBytes (fp : Bool) (old new : List Byte) : List Byte :=
  (upTo (new.length / 4)).flatMap fun i =>
    leBytes 4 (accumulate fp (BitVec.ofNat 32 (field old (4 * i) 4)) (BitVec.ofNat 32 (field new (4 * i) 4))).toNat

/-- A write into a tile's scratchpad: added or masked in; `true` where a part met an uncorrectable word (12 R266, R274). -/
def spLand (b : TileBody) (off : Nat) (bs : List (Byte × Byte)) (acc fp : Bool) : TileBody × Bool :=
  let n := bs.length
  if acc then
    (if spUnreadable b off n then (b, true)
     else (spWrite b off (accBytes fp (spBytes b off n) (bs.map (·.1))), false))
  else (spWriteMasked b off bs, spMergeBad b off n)

/-- What became of a remote write at a sluice (12 R276, R279). -/
inductive SluiceRes where
  | noCredit
  | done (s : State) (ue : Bool)

/-- The index in the tile of a credit's slot. -/
def creditSlot (c : Credit) : Nat := c.polder * 256 + c.slot

/-- A remote write under its credit: it lies in the credit's slot; the closing write returns the credit and, in a tagged
polder, a fill closes the slot (12 R271, R276). -/
def State.sluiceWrite (s : State) (u off : Nat) (bs : List (Byte × Byte)) (acc closing : Bool) (w : Writer) : SluiceRes :=
  let x := s.tile u
  match x.credits.find? (fun c => c.writer = w && c.acc = acc && creditSlot c = off / 256) with
  | none => .noCredit
  | some c =>
    if off % 256 + bs.length ≤ 256 ∧ (x.polders.get Polder.init c.polder).state = .held then
      let (b, ue) := spLand x.body off bs acc false
      let b1 := if closing && !acc && slotTagged x (off / 256) then setTag b (off / 256) true else b
      SluiceRes.done ((s.setTile u { x with body := b1, credits := if closing then x.credits.erase c else x.credits }).closeBundle u) ue
    else .noCredit

/-- External memory with masked bytes merged in. -/
def State.extMerge (s : State) (a : Nat) (bs : List (Byte × Byte)) : State :=
  if bs.all (·.2 = 0xFF) then s.extWrite a (bs.map (·.1))
  else s.extWrite a ((bs.zipIdx).map fun p => mergeByte (s.extByte (a + p.2)) p.1)

/-- A write into a cluster cache (13 R303). -/
def State.cacheWrite (s : State) (c off : Nat) (bs : List (Byte × Byte)) : State :=
  let cl := s.cluster c
  let n := bs.length
  let cover (w : Nat) : Bool := off ≤ w * 8 && w * 8 + 8 ≤ off + n
  let cache := (bs.zipIdx).foldl (fun m p =>
    let a := off + p.2
    if cl.badWords.contains (a / 8) && !cover (a / 8) then m else m.set 0 a (mergeByte (m.get 0 a) p.1)) cl.cache
  s.setCluster c { cl with cache, badWords := cl.badWords.filter fun w => !cover w }

def cacheMergeBad (cl : ClusterSt) (off n : Nat) : Bool :=
  cl.badWords.any fun w => w * 8 < off + n && off < w * 8 + 8 && !(off ≤ w * 8 && w * 8 + 8 ≤ off + n)

/-- What became of one write of a stream: it waits, it landed, or it faults the task once what could land has. -/
inductive Landing where
  | wait
  | ok (s : State)
  | fault (s : State) (code : Half)

/-- Is an address outside the span of an assured copy's graph (17 R369)? -/
def State.outOfSpan (s : State) (x : Tile) (a : Nat) : Bool :=
  match x.ref with
  | some (.graph job _ _) =>
    (match s.graph job with
     | some g => (match g.patches with | (lo, n) :: _ => !(lo ≤ a && a < lo + n) | [] => false)
     | none => false)
  | _ => false

/-- Has the peer that a task writes to in tile `u` ended or faulted, with no other peer of it running there (14 Table 8)? Such a write
is one that its task still had for the peer (DEDUCED, log 85). -/
def State.peerEnded (s : State) (x : Tile) (u : Nat) : Bool :=
  match x.ref with
  | some (.graph job copy k) =>
    (match (s.graph job).bind fun g => g.copies[copy.val]? with
     | some c =>
       let peers := ((c.tasks[k]?).map (·.desc.peers)).getD []
       let there := (peers.filterMap (c.tasks[·]?)).filter fun p => p.started && p.tile == u
       !there.isEmpty && there.all fun p => p.state == .done || p.state == .faulted
     | none => false)
  | _ => false

/-- Is the task a copy of an assured graph, whose span lies in this device's memory (17 R369)? -/
def State.assuredCopy (s : State) (x : Tile) : Bool :=
  match x.ref with
  | some (.graph job _ _) => (match s.graph job with | some g => !g.patches.isEmpty | none => false)
  | _ => false

/-- The oldest write of a write stream lands at its target (14 Table 8, 12 R271, R274, R276, 13 R303, R306, 15 R345, 17 R369). -/
def State.landWrite (s : State) (t q : Nat) (d : StreamDesc) (granted : List Nat) (w : PendWr) : Landing :=
  let x := s.tile t
  let bs := maskBytes w
  let n := bs.length
  let here := d.farDev == 255 || d.farDev == s.devNumber
  if !here then
    (if s.assuredCopy x && !isTileAddr w.addr then .fault s 0x1601
     else if s.beyondDown d.farDev t then .fault s 0x1401
     else if isTileAddr w.addr ∧ !granted.contains (w.addr / 256) then .wait
     else .ok (s.sendFar { cls := x.cls, kind := 1, dst := d.farDev, addr := w.addr, tile := t, closing := w.leaves, job := x.pjob,
                           credit := w.addr / 256 % 6144, data := bs.map (·.1) ++ bs.map (·.2) }))
  else if contextSpace ≤ w.addr then
    (if contextSpace + contextSize < w.addr + n then .fault s Code.addrUnmapped
     else
      .ok ((bs.zipIdx).foldl (fun s p =>
        let a := w.addr - contextSpace + p.2
        s.contextPut a (mergeByte (s.contextByte a) p.1)) s))
  else if bufferSpace ≤ w.addr then
    (if bufferSpace + bufferSize < w.addr + n then .fault s Code.addrUnmapped
     else
      .ok ((bs.zipIdx).foldl (fun s p =>
        let a := w.addr - bufferSpace + p.2
        s.bufferPut a (mergeByte (s.bufferByte a) p.1)) s))
  else match s.place w.addr with
    | .ext a =>
      if s.outOfSpan x a then .fault s 0x1601
      else
        let a' := match x.ref with | some r => s.twinAddr r a | none => a
        if !s.taskReach x.domain x.job a' n ∧ a' = a then .fault s (Code.til 0x72)
        else
          let s1 := s.extMerge a' bs
          if s.mergeBad a' n then .fault s1 (Code.til 0x78) else .ok s1
    | .cache c off =>
      if !s.cacheReach c x.job x.domain off n then .fault s (Code.til 0x72)
      else
        let s1 := s.cacheWrite c off bs
        if cacheMergeBad (s.cluster c) off n then .fault s1 (Code.til 0x60) else .ok s1
    | .tile u off =>
      if u = t then
        (if !heldRange x off n then .fault s (Code.til 0x61)
         else
          let slots := spanSlots (some (w.addr, n))
          if (d.tag = 3 ∧ (s.slotWait slots false).isSome) ∨ (d.tag = 4 ∧ (s.slotWait slots true).isSome) then .wait
          else
            let (b, ue) := spLand x.body off bs (d.tag = 4) (descFmt d = .fp32)
            let s1 := s.setTile t { x with body := b }
            let s2 := if d.tag = 3 ∧ w.leaves then s1.setTags slots true else s1
            if ue then .fault s2 (Code.til 0x60) else .ok s2)
      else if s.peerEnded x u then .fault s Code.schPeer
      else match s.sluiceWrite u off bs (d.tag = 4) w.leaves (.stream (Fin.ofNat 96 t) (Fin.ofNat 8 q)) with
        | .noCredit => .wait
        | .done s1 ue => if ue then .fault s1 (Code.til 0x60) else .ok s1
    | _ => .fault s Code.addrUnmapped

/-- Slot number that the fault record of a stream gives: the stream/move slot. -/
def streamSlot : Nat := 2

/-- Does a write go to a slot of another tile, here or on another device? -/
def toOtherTile (t : Nat) (here : Bool) (a : Nat) : Bool := isTileAddr a && !(here && (a - tileBase) / 0x200000 == t)

/-- The first write not yet landed has landed: it leaves the buffer, or stays until its slot of another tile closes; a closing
write takes along what the stream kept of the slot. -/
def landed (other : Bool) (w : PendWr) : List PendWr → List PendWr
  | [] => []
  | v :: r =>
    if v.sent then (if other && w.leaves && v.addr / 256 == w.addr / 256 then landed other w r else v :: landed other w r)
    else if other && !w.leaves then { v with sent := true } :: r else r

/-- Stream `q` after one of its writes has landed. -/
def State.writeLanded (s : State) (t q : Nat) (w : PendWr) : State := s.modBody t fun b =>
  let st := b.streams.get StreamSt.init q
  let here := st.desc.farDev = 255 ∨ st.desc.farDev = s.devNumber
  { b with streams := b.streams.set StreamSt.init q { st with
    pend := landed (toOtherTile t here w.addr) w st.pend
    granted := if !here && w.leaves then st.granted.erase (w.addr / 256) else st.granted } }

/-- What a write of an MOUT replaces where it lands: nothing is kept of an accumulating write, of radio buffers and of other devices (log 117). -/
def State.moutPart (s : State) (t : Nat) (d : StreamDesc) (w : PendWr) : Option MoutPart :=
  let n := touched w.shift w.bits
  if w.mout = 0 ∨ d.tag = 4 ∨ ¬(d.farDev = 255 ∨ d.farDev = s.devNumber) then none
  else match s.place w.addr with
    | .ext a =>
      let a' := match (s.tile t).ref with | some r => s.twinAddr r a | none => a
      some { mout := w.mout, at' := .ext a', old := s.extRead a' n, tags := [] }
    | .tile u off =>
      let b := s.body u
      some { mout := w.mout, at' := .tile u off, old := spBytes b off n
             tags := (spanSlots (some (w.addr, n))).map fun k => (k.2, tagFull b k.2) }
    | .cache c off => some { mout := w.mout, at' := .cache c off, old := (upTo n).map fun i => (s.cluster c).cache.get 0 (off + i), tags := [] }
    | _ => none

/-- A part of an MOUT whose landing faults the task is undone with the others. -/
def State.addPart (s : State) (t : Nat) (p : Option MoutPart) : State := s.modBody t fun b => { b with moutParts := p.toList ++ b.moutParts }

/-- A part of an MOUT has landed: it is kept until no write of that MOUT waits. -/
def State.keepPart (s : State) (t : Nat) (no : Nat) (p : Option MoutPart) : State :=
  if no = 0 then s
  else s.modBody t fun b =>
    if [4, 5, 6, 7].any fun q => (b.streams.get StreamSt.init q).pend.any fun w => w.mout = no && !w.sent then
      { b with moutParts := p.toList ++ b.moutParts }
    else { b with moutParts := b.moutParts.filter (·.mout ≠ no) }

/-- A write that waits for a slot of another device's tile has its credit asked for, once (15 R346). -/
def State.askFar (s : State) (t q : Nat) (w : PendWr) : State :=
  let x := s.tile t
  let st := x.body.streams.get StreamSt.init q
  let d := st.desc
  if d.farDev = 255 ∨ d.farDev = s.devNumber ∨ !isTileAddr w.addr ∨ st.asked.contains (w.addr / 256) ∨ st.granted.contains (w.addr / 256) then s
  else
    let s1 := s.modBody t fun b => { b with streams := b.streams.set StreamSt.init q { st with asked := w.addr / 256 :: st.asked } }
    s1.sendFar { cls := x.cls, kind := 2, dst := d.farDev, addr := w.addr / 256 * 256, tile := t, closing := false, job := x.pjob,
                 credit := 0, data := leBytes 2 1 ++ leBytes 1 (if d.tag = 4 then 1 else 0) ++ leBytes 1 d.fmt }

/-- Up to `n` writes of stream `q` land, oldest first, until one must wait. -/
def State.landRun (t q : Nat) : Nat → State → State
  | 0, s => s
  | n + 1, s =>
    let st := (s.body t).streams.get StreamSt.init q
    match st.pend.find? (fun w => !w.sent) with
    | none => s
    | some w =>
      match s.landWrite t q st.desc st.granted w with
      | .wait => s.askFar t q w
      | .ok s1 => State.landRun t q n ((s1.writeLanded t q w).keepPart t w.mout (s.moutPart t st.desc w))
      | .fault s1 code => ((s1.writeLanded t q w).addPart t (s.moutPart t st.desc w)).taskFault t code streamSlot false

/-! ## The landing ring of a copy stream (13 R288) -/

/-- Byte offset in the ring and bit of element `k`. -/
def ringPlace (d : StreamDesc) (k : Nat) : Nat × Nat :=
  let b := k * fmtBits (descFmt d)
  (b / 8, b % 8)

/-- The slots of the tile that element `k` touches in the ring. -/
def ringSlots (d : StreamDesc) (k : Nat) : List Nat :=
  let (o, sh) := ringPlace d k
  ((upTo (touched sh (fmtBits (descFmt d)))).map fun i => d.nearAddr / 256 + (o + i) / 256 % d.nearSlots).eraseDups

/-- One element lands in the ring, in fill mode: `none` while its slot is full. -/
def State.ringLand (s : State) (t : Nat) (d : StreamDesc) (k : Nat) (e : Elem) : Option State :=
  let slots := (ringSlots d k).map fun i => (t, i)
  if (s.slotWait slots false).isSome then none
  else
    let (o, sh) := ringPlace d k
    let w : PendWr := { idx := k, addr := 0, code := e.code, bits := fmtBits (descFmt d), shift := sh, leaves := false, mout := 0 }
    let s1 := ((maskBytes w).zipIdx).foldl (fun s p => s.modBody t fun b =>
      spWriteMasked b (d.nearAddr + (o + p.2) % (d.nearSlots * 256)) [p.1]) s
    let next := if k + 1 < d.length then ringSlots d (k + 1) else []
    some (s1.setTags (slots.filter fun i => !next.contains i.2) true)

/-- Up to `n` returned elements of a copy stream land. -/
def State.ringRun (t q : Nat) : Nat → State → State
  | 0, s => s
  | n + 1, s =>
    let st := (s.body t).streams.get StreamSt.init q
    match st.buf with
    | [] => s
    | e :: r =>
      if e.bad then s.taskFault t (Code.til 0x60) streamSlot false
      else match s.ringLand t st.desc st.pos e with
        | none => s
        | some s1 => State.ringRun t q n (s1.modBody t fun b =>
            { b with streams := b.streams.set StreamSt.init q { st with pos := st.pos + 1, buf := r } })

/-- Where fetching of a copy stream resumes: the first element of the oldest ring slot that is not empty (13 R297). -/
def ringPos (x : Tile) (st : StreamSt) : Nat :=
  let d := st.desc
  let bits := fmtBits (descFmt d)
  let at' := st.pos * bits / 2048
  let lo := at' - d.nearSlots
  match ((upTo (at' - lo)).map (lo + ·)).find? fun i =>
      tagFull x.body (d.nearAddr / 256 + i % d.nearSlots) with
  | some i => ceilDiv (i * 2048) bits
  | none => at' * 2048 / bits

end Sys2Proof.Machine
end

