-- ==== Sys2Proof/Machine/Pool.lean ====
section
/-! DEFINITION. Pooling units: descriptor, window arithmetic, start of a job (09 R214–R216). -/
namespace Sys2Proof.Machine

/-- The fields of a pooling descriptor (09 Table 4). -/
structure PoolDesc where
  op : Nat
  fmt : Fmt
  kh : Nat
  kw : Nat
  sy : Nat
  sx : Nat
  padTop : Nat
  padLeft : Nat
  zp : Int
  channels : Nat
  hIn : Nat
  wIn : Nat
  hOut : Nat
  wOut : Nat
  src : Nat
  dst : Nat
  srcPlane : Nat
  dstPlane : Nat
  srcRow : Nat
  dstRow : Nat
  waitSem : Nat
  signalSem : Nat

/-- Formats of a pooling descriptor by code. -/
def poolFmt (n : Nat) : Option Fmt := [Fmt.int8, .uint8, .int16, .bf16, .e4m3, .e5m2, .fp32][n]?

/-- The descriptor, `none` where a field lies outside Table 4 or an output size is not the formula's. -/
def parsePool (b : List Byte) : Option PoolDesc :=
  let f := field b
  match poolFmt (f 1 1) with
  | none => none
  | some fmt =>
    let kh := f 2 1; let kw := f 3 1; let sy := f 4 1; let sx := f 5 1
    let pt := f 6 1; let pl := f 7 1; let pb := f 8 1; let pr := f 9 1
    let zp := if fmt = .uint8 then (f 0xA 2 : Int) else signedOf 16 (f 0xA 2)
    let hIn := f 0x10 2; let wIn := f 0x12 2
    let unit (v : Nat) : Bool := 1 ≤ v && v ≤ 16
    let semOk (v : Nat) : Bool := v < 1024 || v == 0xFFFF
    let ok := f 0 1 ≤ 2 && unit kh && unit kw && unit sy && unit sx && pt < kh && pb < kh && pl < kw && pr < kw &&
      (match fmt with
       | .int8 => decide (-128 ≤ zp ∧ zp ≤ 127)
       | .uint8 => decide (zp ≤ 255)
       | _ => decide (zp = 0)) &&
      f 0xC 2 != 0 && f 0xE 2 == 0 && hIn != 0 && wIn != 0 && kh ≤ hIn + pt + pb && kw ≤ wIn + pl + pr &&
      f 0x14 2 == (hIn + pt + pb - kh) / sy + 1 && f 0x16 2 == (wIn + pl + pr - kw) / sx + 1 &&
      f 0x18 8 % 32 == 0 && f 0x20 8 % 32 == 0 && f 0x28 4 % 32 == 0 && f 0x2C 4 % 32 == 0 && f 0x30 2 % 32 == 0 &&
      f 0x32 2 % 32 == 0 && semOk (f 0x34 2) && semOk (f 0x36 2) && f 0x38 8 == 0
    if ok then
      some { op := f 0 1, fmt, kh, kw, sy, sx, padTop := pt, padLeft := pl, zp, channels := f 0xC 2, hIn, wIn,
             hOut := f 0x14 2, wOut := f 0x16 2, src := f 0x18 8, dst := f 0x20 8, srcPlane := f 0x28 4,
             dstPlane := f 0x2C 4, srcRow := f 0x30 2, dstRow := f 0x32 2, waitSem := f 0x34 2, signalSem := f 0x36 2 }
    else none

/-- Bytes from a base that a map of planes and rows covers. -/
def planeBytes (d : PoolDesc) (plane row h w : Nat) : Nat :=
  (d.channels - 1) * plane + (h - 1) * row + w * (fmtBits d.fmt / 8)

/-- Offset in cluster `c`'s cache of a range the task of tile `x` may use there (13 R303). -/
def State.poolRange (s : State) (x : Tile) (c a n : Nat) : Bool :=
  match s.place a with
  | .cache c' off => c' == c && off + n ≤ 0x380000 && s.cacheReach c x.job x.domain off n
  | _ => false

def State.poolOk (s : State) (x : Tile) (c : Nat) (d : PoolDesc) : Bool :=
  s.poolRange x c d.src (planeBytes d d.srcPlane d.srcRow d.hIn d.wIn) &&
  s.poolRange x c d.dst (planeBytes d d.dstPlane d.dstRow d.hOut d.wOut)

/-- The valid window positions of an output in row-major order, `none` for a padding position. -/
def windowOf (d : PoolDesc) (oy ox : Nat) : List (Option (Nat × Nat)) :=
  (upTo d.kh).flatMap fun ky => (upTo d.kw).map fun kx =>
    let y := oy * d.sy + ky
    let x := ox * d.sx + kx
    if d.padTop ≤ y ∧ y - d.padTop < d.hIn ∧ d.padLeft ≤ x ∧ x - d.padLeft < d.wIn then
      some (y - d.padTop, x - d.padLeft) else none

/-- The NaN of a float format with a sign bit (07 R172). -/
def poolNan (f : Fmt) (sign : Nat) : Nat :=
  match f with
  | .bf16 => sign * 0x8000 + 0x7FC0
  | .e5m2 => sign * 0x80 + 0x7E
  | .e4m3 => sign * 0x80 + 0x7F
  | _ => 0x7FC00000

/-- One output from the codes of its window (09 R215). A NaN has the sign of the first one in the window (07 R172; DEDUCED, log 118). -/
def poolValue (d : PoolDesc) (win : List (Option Nat)) : Nat :=
  let vals := win.filterMap id
  let n : Nat := if d.op = 2 then d.kh * d.kw else vals.length
  if [Fmt.int8, .uint8, .int16].contains d.fmt then
    if d.op = 0 then
      match vals with
      | [] => 0
      | v :: r => intCode d.fmt (r.foldl (fun a w => max a (intOf d.fmt w)) (intOf d.fmt v))
    else
      let sum := win.foldl (fun a o => match o with
        | some v => a + intOf d.fmt v
        | none => if d.op = 2 then a + d.zp else a) (0 : Int)
      intCode d.fmt (rhuDiv sum n)
  else
    let lane (v : Nat) : Word := widen d.fmt .fp32 { code := v, scale := 127 }
    if d.op = 0 then
      match vals.find? (fun v => match elemVal d.fmt v with | .nan _ => true | _ => false), vals with
      | some v, _ => poolNan d.fmt (v / 2 ^ (fmtBits d.fmt - 1))
      | none, [] => 0
      | none, v :: r => (narrow d.fmt .fp32 (r.foldl (fun a w => max32 a (lane w)) (lane v))).1
    else
      let terms := win.filterMap fun o => match o with
        | some v => some (lane v)
        | none => if d.op = 2 then some (0 : Word) else none
      let sum := match terms with
        | [] => 0
        | v :: r => r.foldl add32 v
      (narrow d.fmt .fp32 (div32 (val32 sum) (.fin false n 0))).1

/-- Byte offset in a cluster cache of an address. -/
def cacheOff (a : Nat) : Nat := (a - cacheBase) % 0x400000

/-- One output row of one channel: its bytes. -/
def poolRow (cl : ClusterSt) (d : PoolDesc) (ch oy : Nat) : List Byte :=
  let e := fmtBits d.fmt / 8
  let at' (y x : Nat) : Nat :=
    leNat ((upTo e).map fun i => cl.cache.get 0 (cacheOff d.src + ch * d.srcPlane + y * d.srcRow + x * e + i))
  (upTo d.wOut).flatMap fun ox => leBytes e (poolValue d ((windowOf d oy ox).map fun p => p.map fun q => at' q.1 q.2))

/-- Rows in the order they are produced: channel by channel. -/
def poolRows (d : PoolDesc) : List (Nat × Nat) := (upTo d.channels).flatMap fun c => (upTo d.hOut).map fun y => (c, y)

/-- The first `n` rows of a job written, each computed from the cache as the job found it. -/
def State.poolWrite (s : State) (c : Nat) (d : PoolDesc) (n : Nat) : State :=
  let cl := s.cluster c
  ((poolRows d).take n).foldl (fun s p =>
    s.cacheWrite c (cacheOff d.dst + p.1 * d.dstPlane + p.2 * d.dstRow) ((poolRow cl d p.1 p.2).map fun b => (b, 0xFF))) s

/-- The oldest queued job starts when the unit is free and its semaphore can be taken (09 R214, R216). -/
def poolStart (c : Nat) (s : State) : State :=
  let cl := s.cluster c
  match cl.poolRun, cl.poolQueue with
  | none, p :: r =>
    let run (s : State) : State := s.setCluster c { (s.cluster c) with poolQueue := r, poolRun := some p }
    match parsePool p.bytes with
    | none => s.setCluster c { cl with poolQueue := r }
    | some d => if d.waitSem = 0xFFFF then run s else
        (match s.semTake d.waitSem with | some s1 => run s1 | none => s)
  | _, _ => s

def execPoolJobStart (c : ClusterId) (s : State) : Host.Outcome State Fault Refusal := .next (poolStart c.val s)

/-- Does the map a job reads hold an uncorrectable word (13 R303)? -/
def poolUnreadable (cl : ClusterSt) (d : PoolDesc) : Bool :=
  let lo := cacheOff d.src
  let n := planeBytes d d.srcPlane d.srcRow d.hIn d.wIn
  cl.badWords.any fun w => w * 8 < lo + n && lo < w * 8 + 8

end Sys2Proof.Machine
end

