-- ==== Sys2Proof/Machine/Stats.lean ====
section
/-! DEFINITION. Checks of stream operands, the lane reduction tree, and the statistics of quantising operations
(11 R250, 08 R195, 07 R184, R185). -/
namespace Sys2Proof.Machine

/-- Direction before loadedness for an operation that reads stream `q` (11 R250). -/
def readCheck (x : Tile) (q : Nat) : Option Half :=
  if 4 ≤ q then some (Code.til 0x06)
  else if !(x.body.streams.get StreamSt.init q).valid then some (Code.til 0x05) else none

/-- Direction before loadedness for an operation that writes stream `q`. -/
def writeCheck (x : Tile) (q : Nat) : Option Half :=
  if q < 4 then some (Code.til 0x06)
  else if !(x.body.streams.get StreamSt.init q).valid then some (Code.til 0x05) else none

/-- The format of the elements that stream `q` moves. -/
def streamFmt (x : Tile) (q : Nat) : Fmt := deliveredFmt (x.body.streams.get StreamSt.init q).desc

/-! ## The lane tree (08 R195): an inactive lane contributes nothing -/

/-- A node of the tree. -/
def node {α : Type} (f : α → α → α) : Option α → Option α → Option α
  | some a, some b => some (f a b)
  | some a, none => some a
  | none, b => b

/-- One level of the tree. -/
def level {α : Type} (f : α → α → α) : List (Option α) → List (Option α)
  | a :: b :: r => node f a b :: level f r
  | l => l

/-- The seven levels over 128 lanes, lanes beyond the list inactive. -/
def laneFold {α : Type} (f : α → α → α) (xs : List (Option α)) : Option α :=
  let l0 := xs ++ List.replicate (128 - xs.length) none
  ((level f (level f (level f (level f (level f (level f (level f l0))))))).head?).join

/-! ## Statistics (07 R184) -/

/-- d² of one element as FP64, `none` where it is not counted: source and stored value as reals. -/
def squaredError (p : FVal × FVal) : Option Dword :=
  if isFin p.1 && isFin p.2 then
    let d := val32 (rne32 (p.1.add p.2.neg))
    some (rne64 (d.mul d))
  else none

/-- One vector's sum of d² by the tree and the number of elements counted, for the pair of a slot; a vector that counts none
adds nothing. -/
def State.addStats (s : State) (t slot : Nat) (items : List (Option (FVal × FVal))) : State :=
  let sq := items.map fun i => i.bind squaredError
  match laneFold add64 sq with
  | some v => s.modBody t fun b => { b with stats := b.stats ++ [(slot, v, (sq.filter (·.isSome)).length)] }
  | none => s

end Sys2Proof.Machine
end

