-- ==== Sys2Proof/Machine/Control.lean ====
section
/-! DEFINITION. The control slot of a tile's program (11 R249, R253, R257–R259, R262, 14 R316–R322). -/
namespace Sys2Proof.Machine

/-! ## Scalar arithmetic (11 Table 6) -/

/-- ALU function f on 64-bit scalars, modulo 2^64. -/
def aluOp (f : AluFn) (a b : Dword) : Dword :=
  let n := b.toNat % 64
  match f with
  | .add => a + b
  | .sub => a - b
  | .mul => a * b
  | .and => a &&& b
  | .or => a ||| b
  | .xor => a ^^^ b
  | .shl => a <<< n
  | .shr => BitVec.ofInt 64 (rhuShift a.toInt n)
  | .min => if a.slt b then a else b
  | .max => if a.slt b then b else a
  | .slt => if a.slt b then 1 else 0
  | .seq => if a = b then 1 else 0

/-- Branch conditions on a scalar read as signed. -/
def condOp (c : Cond) (a : Dword) : Bool :=
  match c with
  | .always => true
  | .eqz => a == 0
  | .nez => a != 0
  | .ltz => decide (a.toInt < 0)
  | .gez => decide (0 ≤ a.toInt)
  | .gtz => decide (0 < a.toInt)
  | .lez => decide (a.toInt ≤ 0)

/-- An operation that writes scalar register `d` from the registers before the bundle. -/
def scalarOp (d : SReg) (f : TRegs → Dword) (s : State) (t : Nat) : OpRes :=
  .ok (s.modRegs t fun r => setS r d.val (f (s.regsAt t)))

def execAlu (i : Issue) (d a b : SReg) (f : AluFn) (s : State) : Host.Outcome State Fault Refusal :=
  .next (runOp s i .c (scalarOp d fun r => aluOp f (sReg r a.val) (sReg r b.val)))

def execAlui (i : Issue) (d a : SReg) (f : AluFn) (imm : BitVec 12) (s : State) : Host.Outcome State Fault Refusal :=
  .next (runOp s i .c (scalarOp d fun r => aluOp f (sReg r a.val) (imm.signExtend 64)))

def execLi (i : Issue) (d : SReg) (imm : BitVec 21) (s : State) : Host.Outcome State Fault Refusal :=
  .next (runOp s i .c (scalarOp d fun _ => imm.signExtend 64))

/-- Bits [16k + 15 : 16k] replaced. -/
def lihOp (v : Dword) (k : Nat) (imm : Half) : Dword :=
  (v &&& ~~~(BitVec.ofNat 64 (0xFFFF * 2 ^ (16 * k)))) ||| (BitVec.ofNat 64 (imm.toNat * 2 ^ (16 * k)))

def execLih (i : Issue) (d : SReg) (k : Fin 4) (imm : Half) (s : State) : Host.Outcome State Fault Refusal :=
  .next (runOp s i .c (scalarOp d fun r => lihOp (sReg r d.val) k.val imm))

/-- AMOV dir 0: a := s[47:0]; dir 1: s := a, zero-extended. -/
def amovOp (toScalar : Bool) (a : AReg) (sr : SReg) (s : State) (t : Nat) : OpRes :=
  if toScalar then scalarOp sr (fun r => (aReg r a.val).setWidth 64) s t
  else .ok (s.modRegs t fun r => setA r a.val ((sReg (s.regsAt t) sr.val).setWidth 48))

def execAmov (i : Issue) (toScalar : Bool) (a : AReg) (sr : SReg) (s : State) : Host.Outcome State Fault Refusal :=
  .next (runOp s i .c (amovOp toScalar a sr))

/-- Address arithmetic wraps modulo 2^48 (11 R242). -/
def aaddiOp (d a : AReg) (imm : Half) (s : State) (t : Nat) : OpRes :=
  .ok (s.modRegs t fun r => setA r d.val (aReg (s.regsAt t) a.val + imm.signExtend 48))

def execAaddi (i : Issue) (d a : AReg) (imm : Half) (s : State) : Host.Outcome State Fault Refusal :=
  .next (runOp s i .c (aaddiOp d a imm))

/-- `w − 1` is the operand; pos + w > 64 is refused at load, so an image that holds it issues nothing (11 R241). -/
def extrOp (d a : SReg) (pos w : Nat) (s : State) (t : Nat) : OpRes :=
  if 64 < pos + (w + 1) then .fault (Code.til 0x01)
  else scalarOp d (fun r => BitVec.ofNat 64 ((sReg r a.val).toNat / 2 ^ pos % 2 ^ (w + 1))) s t

def execExtr (i : Issue) (d a : SReg) (pos w : Fin 64) (s : State) : Host.Outcome State Fault Refusal :=
  .next (runOp s i .c (extrOp d a pos.val w.val))

/-! ## Branches (11 R253): offsets count bundles from the branch's own -/

/-- A taken branch by an offset. -/
def branchBy (s : State) (t : Nat) (off : BitVec 12) : OpRes := branchTo s t (((s.body t).cur : Int) + off.toInt)

def brOp (c : Cond) (a : SReg) (off : BitVec 12) (s : State) (t : Nat) : OpRes :=
  if condOp c (sReg (s.regsAt t) a.val) then branchBy s t off else .ok s

def execBr (i : Issue) (c : Cond) (a : SReg) (off : BitVec 12) (s : State) : Host.Outcome State Fault Refusal :=
  .next (runOp s i .c (brOp c a off))

def bdecOp (a : SReg) (off : BitVec 12) (s : State) (t : Nat) : OpRes :=
  let v := sReg (s.regsAt t) a.val
  if v = 0 then .ok s
  else
    let s1 := s.modRegs t fun r => setS r a.val (v - 1)
    if v - 1 ≠ 0 then branchBy s1 t off else .ok s1

def execBdec (i : Issue) (a : SReg) (off : BitVec 12) (s : State) : Host.Outcome State Fault Refusal :=
  .next (runOp s i .c (bdecOp a off))

def jalOp (d : SReg) (off : BitVec 12) (s : State) (t : Nat) : OpRes :=
  branchBy (s.modRegs t fun r => setS r d.val (BitVec.ofNat 64 ((s.body t).cur + 1))) t off

def execJal (i : Issue) (d : SReg) (off : BitVec 12) (s : State) : Host.Outcome State Fault Refusal :=
  .next (runOp s i .c (jalOp d off))

/-- JR: the whole register is compared with n_bundles; the target is its low 11 bits (DEDUCED, log 12). -/
def jrOp (a : SReg) (s : State) (t : Nat) : OpRes :=
  let v := (sReg (s.regsAt t) a.val).toNat
  if (s.tile t).nBundles ≤ v then .fault (Code.til 0x02) else branchTo s t ((v % 2048 : Nat) : Int)

def execJr (i : Issue) (a : SReg) (s : State) : Host.Outcome State Fault Refusal := .next (runOp s i .c (jrOp a))

/-! ## Semaphores (14 R321, R322) -/

/-- Fault of a task that may not use a semaphore. -/
def State.semFault (s : State) (x : Tile) (n : Nat) : Option Half :=
  match x.ref with
  | none => none
  | some ref => (s.semRefused n x.cls (claimOf ref)).map fun other => if other then Code.til 0x08 else Code.schSemClaim

def semWaitOp (n : Nat) (s : State) (t : Nat) : OpRes :=
  match s.semFault (s.tile t) n with
  | some c => .fault c
  | none => match s.semTake n with
    | some s1 => .ok s1
    | none => .hold (.semaphore n)

def execSemWait (i : Issue) (n : Fin 1024) (s : State) : Host.Outcome State Fault Refusal :=
  .next (runOp s i .c (semWaitOp n.val))

/-- SIGNAL at 65,535 sets sem_sat of the task. -/
def semSignalOp (n : Nat) (s : State) (t : Nat) : OpRes :=
  match s.semFault (s.tile t) n with
  | some c => .fault c
  | none =>
    let (s1, sat) := s.semSignal n
    .ok (if sat then s1.modTile t fun x => { x with semSat := true } else s1)

def execSemSignal (i : Issue) (n : Fin 1024) (s : State) : Host.Outcome State Fault Refusal :=
  .next (runOp s i .c (semSignalOp n.val))

def semTryOp (n : Nat) (d : SReg) (s : State) (t : Nat) : OpRes :=
  match s.semFault (s.tile t) n with
  | some c => .fault c
  | none => match s.semTake n with
    | some s1 => .ok (s1.modRegs t fun r => setS r d.val 1)
    | none => .ok (s.modRegs t fun r => setS r d.val 0)

def execSemTry (i : Issue) (n : Fin 1024) (d : SReg) (s : State) : Host.Outcome State Fault Refusal :=
  .next (runOp s i .c (semTryOp n.val d))

/-! ## FENCE, POOLQ, STEPINC, RDTASK, ENDT -/

/-- Has a write of a stream in the mask, or with `mout` any of an MOUT, not landed? -/
def writesPending (b : TileBody) (mask : Nat) (mout : Bool) : Bool :=
  [4, 5, 6, 7].any fun q =>
    let st := b.streams.get StreamSt.init q
    (mask / 2 ^ q % 2 == 1 && unlanded st) || (mout && st.pend.any fun w => w.mout != 0 && !w.sent)

def fenceOp (mout : Bool) (mask : Byte) (s : State) (t : Nat) : OpRes :=
  if writesPending (s.tile t).before mask.toNat mout then .hold .writes else .ok s

def execFence (i : Issue) (mout : Bool) (qmask : Byte) (s : State) : Host.Outcome State Fault Refusal :=
  .next (runOp s i .c (fenceOp mout qmask))

/-- POOLQ a: alignment, descriptor in peek mode, its checks and its semaphores, room in the queue of 8 (09 R214, R216). -/
def poolqOp (a : AReg) (s : State) (t : Nat) : OpRes :=
  let x := s.tile t
  let off := windowOff t (aReg x.before.regs a.val).toNat
  let c := t / 8
  if off % 32 ≠ 0 then .fault (Code.til 0x0B)
  else peek x off 64 0x60 fun bytes =>
    match parsePool bytes, x.ref with
    | some d, some ref =>
      if !s.poolOk x c d then .fault (Code.til 0x50)
      else
        let sems := [d.waitSem, d.signalSem].filter (· ≠ 0xFFFF)
        match sems.findSome? (s.semFault x) with
        | some f => .fault f
        | none =>
          let cl := s.cluster c
          if 8 ≤ cl.poolQueue.length then .hold .poolQueue
          else .ok (s.setCluster c { cl with
            poolQueue := cl.poolQueue ++ [{ ref, cls := x.cls, bytes, stopped := false }] })
    | _, _ => .fault (Code.til 0x50)

def execPoolq (i : Issue) (a : AReg) (s : State) : Host.Outcome State Fault Refusal := .next (runOp s i .c (poolqOp a))

def execStepinc (i : Issue) (s : State) : Host.Outcome State Fault Refusal :=
  .next (runOp s i .c fun s t => .ok (s.modBody t fun b => { b with step := b.step + 1 }))

/-- Task attributes of RDTASK; the code of the class is that of TIL_POLDERn (DEDUCED, log 13). -/
def taskAttr (x : Tile) (t : Nat) (f : TaskAttr) : Dword :=
  match f with
  | .taskId => BitVec.ofNat 64 x.taskId
  | .rank => BitVec.ofNat 64 x.rank
  | .groupSize => BitVec.ofNat 64 x.groupSize
  | .cls => BitVec.ofNat 64 (classCode x.cls)
  | .stepCounter => x.before.step
  | .seed => x.seed
  | .tile => BitVec.ofNat 64 t

def rdtaskOp (d : SReg) (f : TaskAttr) (s : State) (t : Nat) : OpRes :=
  scalarOp d (fun _ => taskAttr (s.tile t) t f) s t

def execRdtask (i : Issue) (d : SReg) (f : TaskAttr) (s : State) : Host.Outcome State Fault Refusal :=
  .next (runOp s i .c (rdtaskOp d f))

/-- The tensors of a task that stand in polders: tensor number and place (polder, first slot, slots). -/
def residentOuts (g : Graph) (d : TaskDesc) : List (Nat × Nat × Nat × Nat) :=
  d.outTensor.filterMap fun n => (g.tensors[n]?).bind fun x =>
    if x.resident then some (n, x.polder, x.firstSlot, x.nSlots) else none

/-- Does a tensor's place overlap the place of one just written? -/
def placeHit (g : Graph) (n : Nat) (w : Nat × Nat × Nat × Nat) : Bool :=
  match g.tensors[n]? with
  | some x => x.resident && x.polder == w.2.1 && decide (x.firstSlot < w.2.2.1 + w.2.2.2 ∧ w.2.2.1 < x.firstSlot + x.nSlots)
  | none => false

/-- The end of a graph task on tile `t`: successors released, polder copies of its outputs valid there, others they overwrote
no longer (14 R317, R318). -/
def graphTaskDone (g : Graph) (copy task t cycle now : Nat) : Graph :=
  { g with copies := modAt g.copies copy fun c =>
      match c.tasks[task]? with
      | none => c
      | some k =>
        let outs := residentOuts g k.desc
        let kept := c.valid.filter fun v => !(v.1 = t && outs.any (placeHit g v.2))
        let tasks := releaseSuccessors cycle k.desc.succ c.tasks
        { c with tasks, valid := kept ++ outs.map (fun o => (t, o.1)),
                 endNs := if tasks.all (·.state == .done) then some now else c.endNs } }

/-- The task of tile `t` ends well: flags to its status, which shows the end, and the tile IDLE in its domain
(11 R243, R261, 14 R317, R324). -/
def State.taskDone (s : State) (t : Nat) : State :=
  let s := s.flushStats t
  let x := s.tile t
  let b := x.body
  let b1 := { b with qSat := false, nanSeen := false, accSat := false }
  let s1 := s.setTile t { x with state := .idle, ref := none, hold := none, semSat := false, since := s.clock.cycle, body := b1 }
  match x.ref with
  | none => s1
  | some ref =>
    let s2 := s1.modTask ref t fun k =>
      { taskMerge k b.qSat b.nanSeen b.accSat x.semSat with state := .done, endNs := s.nowNs }
    match ref with
    | .graph job copy task => s2.modGraph job fun g => graphTaskDone g copy.val task t s.clock.cycle s.nowNs
    | _ => s2

/-! ## Canonical reduction and broadcast (11 R257–R259) -/

/-- The fields of a reduction descriptor (11 Table 11). -/
structure RedDesc where
  group : Nat
  op    : Nat
  ty    : Nat
  count : Nat
  src   : Nat
  dst   : Nat
  recv  : Nat
  stride : Nat

/-- A field outside Table 11 faults with TI_COUNT, or with TI_ALIGN for alignment. -/
def parseRed (b : List Byte) (group : Nat) : RedDesc ⊕ Half :=
  let f := field b
  let r : RedDesc := { group := f 0 2, op := f 2 1, ty := f 3 1, count := f 4 4, src := f 8 8, dst := f 0x10 8,
                       recv := f 0x18 8, stride := f 0x20 4 }
  let n := r.count * 4
  if r.group ≠ group ∨ 2 < r.op ∨ 1 < r.ty ∨ 393216 < r.count ∨ r.stride < n ∨ f 0x24 28 ≠ 0 ∨
     (0 < n ∧ r.src < r.dst + n ∧ r.dst < r.src + n) then .inr (Code.til 0x03)
  else if r.src % 32 ≠ 0 ∨ r.dst % 32 ≠ 0 ∨ r.recv % 256 ≠ 0 ∨ r.stride % 256 ≠ 0 then .inr (Code.til 0x0B)
  else .inl r

/-- One node of the reduction: own, partner (11 R257). -/
def redNode (d : RedDesc) (a b : Word) : Word × Raised :=
  if d.ty = 1 then
    (match d.op with
     | 0 => let v := satBits 32 (a.toInt + b.toInt); (BitVec.ofInt 32 v.1, v.2)
     | 1 => (if a.slt b then b else a, .none)
     | _ => (if a.slt b then a else b, .none))
  else
    (match d.op with
     | 0 => (add32 a b, .none)
     | 1 => (max32 a b, .none)
     | _ => (min32 a b, .none))

/-- The group and its members: the run of the task with a rank in this task's graph copy, with its descriptor. -/
def State.rankTask (s : State) (x : Tile) (rank : Nat) : Option TaskDesc :=
  match x.ref with
  | some (.graph job copy task) =>
    (s.graph job).bind fun g => (g.copies[copy.val]?).bind fun c =>
      (c.tasks[task]?).bind fun me =>
        (c.tasks.find? fun k => k.desc.group = me.desc.group && k.desc.rank = rank).map (·.desc)
  | some ref => (s.taskSt ref 0).map (·.desc)
  | none => none

/-- A rank's semaphore: the first its descriptor names (DESIGN CHOICE, log 14). -/
def rankSem (d : TaskDesc) : Option Nat := (d.sems.head?).filter (· < 1024)

/-- The job and copy that key a transfer. -/
def refKey (ref : TaskRef) : Word × Nat :=
  match ref with
  | .graph job copy _ => (job, copy.val)
  | .entry n => (BitVec.ofNat 32 n.val, 0)
  | .training set => (BitVec.ofNat 32 set.val, 1)

/-- The sender's side: its elements go to the receiving rank's memory, then that rank's semaphore is signalled. A rank that no task
of this device has is reached by messages (15 R347), on the device of its number (DEDUCED, log 48). -/
def State.redSend (s : State) (t : Nat) (d : RedDesc) (level peer off : Nat) (ref : TaskRef) : OpRes :=
  let x := s.tile t
  let n := d.count * 4
  let send (bytes : List Byte) : OpRes :=
    match s.rankTask x peer with
    | none =>
      let put (s : State) (i : Nat) : State :=
        let part := (bytes.drop (i * 16384)).take 16384
        s.sendFar { cls := x.cls, kind := 1, dst := peer % 16, addr := d.recv + level * d.stride + i * 16384, tile := t,
                    closing := true, job := x.pjob, credit := 0, data := part ++ part.map fun _ => 0xFF }
      .ok (((upTo (ceilDiv n 16384)).foldl put s).sendFar
        { cls := x.cls, kind := 5, dst := peer % 16, addr := 0, tile := t, closing := true, job := x.pjob, credit := 0,
          data := leBytes 2 d.group ++ leBytes 2 peer ++ leBytes 2 level ++ leBytes 1 d.op ++ leBytes 1 d.ty ++ leBytes 4 d.count })
    | some desc =>
      let a := s.twinAddr ref (d.recv + level * d.stride)
      let (job, copy) := refKey ref
      let tr : Transfer := { job, copy, group := d.group, rank := peer, level, op := d.op, ty := d.ty, count := d.count }
      if 0 < n ∧ !s.taskReach x.domain x.job (d.recv + level * d.stride) n then .fault (Code.til 0x72)
      else if 0 < n ∧ s.outOfSpan x (d.recv + level * d.stride) then .fault 0x1601
      else
        let s1 := if n = 0 then s else s.extWrite a bytes
        let s2 := s1.setSched { s1.sched with transfers := s1.sched.transfers ++ [tr] }
        match rankSem desc with
        | some k =>
          let (s3, sat) := s2.semSignal k
          .ok (if sat then s3.modTile t fun x => { x with semSat := true } else s3)
        | none => .ok s2
  if n = 0 then send [] else peek x (windowOff t off) n 0x60 send

/-- The receiver's side: held until its own semaphore can be taken; a transfer of its level before one of another, which differs in l (DEDUCED, log
119); then every element is formed and lands in fill mode. -/
def State.redReceive (s : State) (t : Nat) (d : RedDesc) (level : Nat) (copyOnly : Bool) (ref : TaskRef) : OpRes :=
  let x := s.tile t
  let n := d.count * 4
  match (s.rankTask x x.rank).bind rankSem with
  | none => .fault Code.schSemClaim
  | some k =>
    match s.semFault x k, s.semTake k with
    | some c, _ => .fault c
    | none, none => .hold (.semaphore k)
    | none, some s1 =>
      let (job, copy) := refKey ref
      let mine (tr : Transfer) : Bool :=
        tr.job == job && tr.copy == copy && tr.group == d.group && tr.rank == x.rank
      let own := s.sched.transfers.filter mine
      let tr := (own.find? (·.level == level)).orElse fun _ => own.head?
      if (match tr with | some y => y.level != level || y.op != d.op || y.ty != d.ty || y.count != d.count | none => false) then .fault (Code.til 0x0A)
      else
        let s2 := s1.setSched { s1.sched with transfers := match tr with
          | some y => s1.sched.transfers.erase y | none => s1.sched.transfers }
        if n = 0 then .ok s2
        else
          let dst := windowOff t d.dst
          let a := s.twinAddr ref (d.recv + level * d.stride)
          let finish (own : List Byte) : OpRes :=
            if !heldRange x dst n then .fault (Code.til 0x61)
            else match tagWait x dst n false with
              | some slot => .hold (.tag slot)
              | none =>
                if !s.taskReach x.domain x.job (d.recv + level * d.stride) n then .fault (Code.til 0x72)
                else if s.extBad a n then .fault (Code.til 0x78)
                else if spMergeBad x.body dst n then .fault (Code.til 0x60)
                else
                  let partner := s.extRead a n
                  let ys := (upTo d.count).map fun i =>
                    let p := BitVec.ofNat 32 (field partner (4 * i) 4)
                    if copyOnly then (p, Raised.none) else redNode d (BitVec.ofNat 32 (field own (4 * i) 4)) p
                  let bytes := ys.flatMap fun y => leBytes 4 y.1.toNat
                  let s3 := s2.modBody t fun b => spWrite b dst bytes
                  let slots := spanSlots (some (tileBase + t * 0x200000 + dst, n))
                  .ok ((s3.setTags slots true).raise t (ys.foldl (fun f y => f.or y.2) .none))
          if copyOnly then finish [] else peek x (windowOff t d.src) n 0x60 finish

/-- Level l of the reduction or, in reverse, of the broadcast. -/
def levelOp (bc : Bool) (a : AReg) (l : Nat) (s : State) (t : Nat) : OpRes :=
  let x := s.tile t
  if !x.grouped then .fault (Code.til 0x09)
  else
    let off := windowOff t (aReg x.before.regs a.val).toNat
    peek x off 64 0x60 fun bytes =>
      match x.ref with
      | none => .ok s
      | some ref =>
        let group := ((s.taskSt ref t).map fun k => k.desc.group).getD 0
        match parseRed bytes group with
        | .inr c => .fault c
        | .inl d =>
          let h := 2 ^ l
          let r := x.rank
          if bc then
            (if r % (2 * h) = 0 ∧ r + h < x.groupSize then s.redSend t d l (r + h) d.dst ref
             else if r % (2 * h) = h then s.redReceive t d l true ref else .ok s)
          else
            (if r % (2 * h) = h then s.redSend t d l (r - h) d.src ref
             else if r % (2 * h) = 0 ∧ r + h < x.groupSize then s.redReceive t d l false ref else .ok s)

def execXred (i : Issue) (a : AReg) (l : Fin 16) (s : State) : Host.Outcome State Fault Refusal :=
  .next (runOp s i .c (levelOp false a l.val))

def execXbc (i : Issue) (a : AReg) (l : Fin 16) (s : State) : Host.Outcome State Fault Refusal :=
  .next (runOp s i .c (levelOp true a l.val))

end Sys2Proof.Machine
end

