-- ==== Sys2Proof/Machine/GraphForm.lean ====
section
/-! DEFINITION. Graphs, task descriptors, tensors and batches as they lie in device memory (14 R311–R313, R331). -/
namespace Sys2Proof.Machine

/-- 16-bit numbers of a field of `n`, unused ones left out. -/
def usedHalves (b : List Byte) (off n : Nat) : List Nat :=
  ((upTo n).map fun i => field b (off + 2 * i) 2).filter (· ≠ 0xFFFF)

/-- Words of `k` bytes of a list at an address. -/
def State.extList (s : State) (a n k : Nat) : List Nat := (upTo n).map fun i => s.extNat (a + k * i) k

/-- Graph header (14 Table 1). -/
def State.readGraphHdr (s : State) (a : Nat) : GraphHdr :=
  let b := s.extRead a 64
  let f := field b
  let fl := f 0xD 1
  { kind := f 0 4, nTasks := f 4 4, nTensors := f 8 4, cls := f 0xC 1, killAtDeadline := fl / 128 == 1,
    batch := fl / 64 % 2 == 1, rsvdBad := fl % 64 != 0 || f 0x36 10 != 0, nSems := f 0xE 2, taskTable := f 0x10 8,
    tensorTable := f 0x18 8, semList := f 0x20 8, batchRecord := f 0x28 8, deadlineUs := f 0x30 4, maxPolders := f 0x34 1,
    spillPages := f 0x35 1 }

/-- Task descriptor (14 Table 2) with its stage and successor lists. -/
def State.readTask (s : State) (a : Nat) : TaskDesc :=
  let b := s.extRead a 128
  let f := field b
  let fl := f 4 1
  { taskId := f 0 4, compat := fl / 128 == 1, inbound := fl / 64 % 2 == 1, stats := fl / 32 % 2 == 1, rsvdBad := fl % 32 != 0,
    polders := f 5 1, predCount := f 6 2, image := f 8 8, args := f 0x10 8, stage := s.extList (f 0x18 8) (f 0x20 2) 2,
    nStage := f 0x20 2, group := f 0x24 2, rank := f 0x26 2, succ := s.extList (f 0x28 8) (f 0x22 2) 4,
    stepCounter := f 0x30 8, status := f 0x38 8, sems := usedHalves b 0x40 8, inTensor := usedHalves b 0x50 8,
    outTensor := usedHalves b 0x60 4, credits := f 0x68 2, groupSize := f 0x6A 2,
    peers := (upTo 4).map fun i => f (0x6C + 4 * i) 4, deadlineUs := f 0x7C 4 }

/-- Tensor table entry (14 R313). -/
def State.readTensor (s : State) (a : Nat) : Tensor :=
  let b := s.extRead a 32
  let f := field b
  let fl := f 0x10 1
  { backing := f 0 8, bytes := f 8 4, resident := f 0xC 1 == 1, polder := f 0xD 1, firstSlot := f 0xE 2,
    tagged := fl / 128 == 1, remote := fl / 64 % 2 == 1, accRemote := fl / 32 % 2 == 1, nSlots := f 0x12 2,
    rsvdBad := fl % 32 != 0 || f 0x11 1 != 0 || f 0x14 12 != 0 || 1 < f 0xC 1 }

/-- Words of a semaphore list: number and initial count; `none` where a reserved field is not 0 (14 Table 1). -/
def State.readSems (s : State) (a n : Nat) : Option (List (Nat × Nat)) :=
  let ws := s.extList a n 4
  if ws.any fun w => w / 2 ^ 10 % 64 != 0 then none else some (ws.map fun w => (w % 1024, w / 65536))

/-- The named peers of a task: their place in the list and their task. -/
def namedPeers (d : TaskDesc) : List (Nat × Nat) :=
  ((d.peers.zipIdx).filter fun p => p.1 ≠ 0xFFFFFFFF).map fun p => (p.2, p.1)

/-- The fields of job polder `p` (14 R314). -/
def polderOf (g : Graph) (p : Nat) : Polder :=
  let xs := g.tensors.filter fun x => x.resident && x.polder == p
  let open' := xs.filter (·.remote)
  let lo := open'.foldl (fun a x => min a x.firstSlot) 256
  let hi := open'.foldl (fun a x => max a (x.firstSlot + x.nSlots)) 0
  { state := .held, cls := if g.hdr.cls = 2 then .assured else .inference, tagged := xs.any (·.tagged),
    accRemote := open'.any (·.accRemote), winCount := hi - lo, winBase := if open'.isEmpty then 0 else lo,
    job := if g.arrayJob = 0 then g.job else g.arrayJob }

/-- Inbound number of a task: its place among the inbound tasks in table order (15 R345). -/
def inboundNumber (tasks : List TaskSt) (k : Nat) : Nat := ((tasks.take k).filter fun t => t.desc.inbound).length

end Sys2Proof.Machine
end

