-- ==== Sys2Proof/Machine/RowEngine.lean ====
section
/-! DEFINITION. Row engines: MCLR, MMAC, MOUT, MWLD, MWLDT and the end of a weight load (06 R144–R163, 07 R176–R184, 11 R256). -/
namespace Sys2Proof.Machine

/-! ## Accumulators -/

/-- Accumulator entry `e` of lane position `l` (0–255, RE0.L0 first). -/
def accAt (b : TileBody) (e l : Nat) : BitVec 48 := b.acc.get 0 (e * 256 + l)
def setAcc (b : TileBody) (e : Nat) (xs : List (BitVec 48)) : TileBody :=
  { b with acc := (xs.zipIdx).foldl (fun t p => t.set 0 (e * 256 + p.2) p.1) b.acc }
def tyOf (b : TileBody) (e : Nat) : AccTy := b.accTy.get .unused e
def setTy (b : TileBody) (e : Nat) (t : AccTy) : TileBody := { b with accTy := b.accTy.set .unused e t }
def poisoned (b : TileBody) (e : Nat) : Bool := b.poison.get false e
def kgroupsOf (b : TileBody) (e : Nat) : Nat := b.kgroups.get 0 e

/-- The other entry of a complex pair. -/
def pairOf (e : Nat) : Nat := if e % 2 = 0 then e + 1 else e - 1

/-- One entry cleared and typed, its poison and its K-group count gone; the broken half of a complex pair becomes unused. -/
def clearEntry (b : TileBody) (e : Nat) (t : AccTy) : TileBody :=
  let b1 := if t ≠ .complex ∧ tyOf b e = .complex then setTy b (pairOf e) .unused else b
  let b2 := setTy b1 e t
  { b2 with acc := b2.acc.clearRange (e * 256) (e * 256 + 256), poison := b2.poison.set false e false,
            kgroups := b2.kgroups.set 0 e 0 }

/-- MCLR e, t (06 R145, R163). A complex entry must be even. -/
def mclrOp (e : Nat) (ty : AccTy) (s : State) (t : Nat) : OpRes :=
  match ty with
  | .unused => .fault (Code.til 0x01)
  | .complex =>
    if e % 2 = 1 then .fault (Code.til 0x22)
    else .ok (s.modBody t fun b => clearEntry (clearEntry b e .complex) (e + 1) .complex)
  | ty => .ok (s.modBody t fun b => clearEntry b e ty)

def execMclr (i : Issue) (e : Fin 8) (t : AccTy) (s : State) : Host.Outcome State Fault Refusal :=
  .next (runOp s i .m (mclrOp e.val t))

/-! ## MMAC (06 R147–R150) -/

/-- An operand pair of 06 Table 3: entry type, K-groups of one MMAC, whether `half` chooses among two in the buffer. -/
structure PairInfo where
  ty     : AccTy
  groups : Nat
  halves : Bool

def pairInfo (fa fw : Fmt) : Option PairInfo :=
  if (fa = .int8 ∨ fa = .uint8) ∧ (fw = .int8 ∨ fw = .int4) then some { ty := .int48, groups := 1, halves := fw == .int4 }
  else if fa = .int4 ∧ fw = .int4 then some { ty := .int48, groups := 2, halves := false }
  else if (fa = .e4m3 ∨ fa = .e5m2) ∧ (fw = .e4m3 ∨ fw = .e5m2) then some { ty := .fp32, groups := 1, halves := false }
  else if fa = .mxfp4 ∧ fw = .mxfp4 then some { ty := .fp32, groups := 2, halves := false }
  else if isMx fa && isMx fw then some { ty := .fp32, groups := 1, halves := fw == .mxfp4 }
  else if fa = .bf16 ∧ fw = .bf16 then some { ty := .fp32, groups := 1, halves := false }
  else if fa = .int16 ∧ (fw = .int16 ∨ fw = .int8) then some { ty := .int48, groups := 1, halves := false }
  else if fa = .cint16 ∧ fw = .cint16 then some { ty := .complex, groups := 1, halves := false }
  else none

/-- The exact sum of an integer K-group (06 R148). -/
def intGroup (fa fw : Fmt) (ps : List (Elem × Elem)) : Int :=
  ps.foldl (fun a p => a + intOf fa p.1.code * intOf fw p.2.code) 0

/-- Adjacent pairs summed: one level of the lane's tree. -/
def addPairs : List Word → List Word
  | a :: b :: r => add32 a b :: addPairs r
  | l => l

/-- The five levels of the adder tree over 32 products. -/
def laneTree (ps : List Word) : Word := (addPairs (addPairs (addPairs (addPairs (addPairs ps))))).headD 0

/-- One float K-group (06 R149): rounded products, the tree, then the two block scales of an MX pair. -/
def floatGroup (fa fw : Fmt) (ps : List (Elem × Elem)) : Word :=
  let p := laneTree (ps.map fun q => rne32 ((elemVal fa q.1.code).mul (elemVal fw q.2.code)))
  if isMx fa then
    let xa := ((ps.head?).map (·.1.scale)).getD 127
    let xw := ((ps.head?).map (·.2.scale)).getD 127
    if xa = 255 ∨ xw = 255 then nan32 else rne32 ((val32 p).mul (.fin false 1 ((xa : Int) + xw - 254)))
  else p

/-- The real and imaginary parts of a complex element, codes of Q1.15. -/
def partsOf (e : Elem) : Int × Int := (signedOf 16 (e.code % 65536), signedOf 16 (e.code / 65536))

/-- The exact sums of a complex K-group (06 R150). -/
def complexGroup (cj : Bool) (ps : List (Elem × Elem)) : Int × Int :=
  ps.foldl (fun a p =>
    let (ar, ai) := partsOf p.1
    let (wr, wi0) := partsOf p.2
    let wi := if cj then -wi0 else wi0
    (a.1 + (ar * wr - ai * wi), a.2 + (ar * wi + ai * wr))) (0, 0)

/-- Weights of lane position `l` from element `start` on. -/
def laneWeights (w : WBuf) (l start : Nat) : List Elem :=
  (upTo 32).map fun i => w.elems.getD (l * w.perLane + start + i) { code := 0, scale := 127 }

/-- One K-group of all 256 lanes into entry `e`: activations `acts` of the four row engines, 32 each. -/
def groupStep (fa fw : Fmt) (ty : AccTy) (cj : Bool) (e : Nat) (acts : List (List Elem)) (w : WBuf) (start : Nat)
    (br : TileBody × Raised) : TileBody × Raised :=
  let b := br.1
  let lane (k : Nat) : List (Elem × Elem) := (acts.getD (k / 64) []).zip (laneWeights w (k % 64) start)
  match ty with
  | .int48 =>
    let r := (upTo 256).map fun k => sat48 ((accAt b e k).toInt + intGroup fa fw (lane k))
    (setAcc b e (r.map (·.1)), r.foldl (fun a x => a.or x.2) br.2)
  | .fp32 =>
    let r := (upTo 256).map fun k => BitVec.ofNat 48 (add32 (BitVec.ofNat 32 (accAt b e k).toNat) (floatGroup fa fw (lane k))).toNat
    (setAcc b e r, br.2)
  | .complex =>
    let g := (upTo 256).map fun k => complexGroup cj (lane k)
    let re := (g.zipIdx).map fun p => sat48 ((accAt b e p.2).toInt + p.1.1)
    let im := (g.zipIdx).map fun p => sat48 ((accAt b (e + 1) p.2).toInt + p.1.2)
    (setAcc (setAcc b e (re.map (·.1))) (e + 1) (im.map (·.1)), (re ++ im).foldl (fun a x => a.or x.2) br.2)
  | .unused => br

/-- MMAC (06 R145, R147–R150, R160, 11 R256): the weights are those the buffer held before the bundle (06 R153). -/
def mmacOp (e b : Nat) (fa fw : Fmt) (q : Nat) (cj half : Bool) (s : State) (t : Nat) : OpRes :=
  let x := s.tile t
  match readCheck x q with
  | some c => .fault c
  | none =>
    match pairInfo fa fw with
    | none => .fault (Code.til 0x22)
    | some p =>
      let w := x.before.wbufs.get WBuf.init b
      if half && !p.halves then .fault (Code.til 0x01)
      else if p.ty = .complex ∧ e % 2 = 1 then .fault (Code.til 0x22)
      else if streamFmt x q ≠ fa then .fault (Code.til 0x22)
      else if w.loading.isSome then .hold (.weights b)
      else if !w.elems.isEmpty ∧ w.fmt ≠ fw then .fault (Code.til 0x22)
      else if tyOf x.body e ≠ p.ty then .fault (Code.til 0x23)
      else if 16777215 < kgroupsOf x.body e + p.groups then .fault (Code.til 0x24)
      else takeElems s t q (128 * p.groups) 0x20 true (Code.til 0x75) fun s1 es =>
        let per := 32 * p.groups
        let acts (g : Nat) : List (List Elem) := (upTo 4).map fun r => (es.drop (r * per + 32 * g)).take 32
        let start := if half then 32 else 0
        let r0 := groupStep fa fw p.ty cj e (acts 0) w start (s1.body t, .none)
        let r := if p.groups = 2 then groupStep fa fw p.ty cj e (acts 1) w 32 r0 else r0
        let b1 := { r.1 with kgroups := r.1.kgroups.set 0 e (kgroupsOf r.1 e + p.groups) }
        .ok ((s1.modBody t fun _ => b1).raise t r.2)

def execMmac (i : Issue) (e : Fin 8) (b : Fin 2) (fa fw : Fmt) (q : QReg) (cj half : Bool) (s : State) :
    Host.Outcome State Fault Refusal :=
  .next (runOp s i .m (mmacOp e.val b.val fa fw q.val cj half))

/-! ## MOUT (06 R146, 07 R176–R178, R181, R184) -/

/-- Raw elements of an entry, in lane order (06 R146). -/
def rawElems (b : TileBody) (e : Nat) : List Elem :=
  let word (e l : Nat) : Elem := { code := ((accAt b e l).signExtend 64).toNat, scale := 127 }
  (upTo 256).flatMap fun l =>
    match tyOf b e with
    | .fp32 => [{ code := (accAt b e l).toNat % 2 ^ 32, scale := 127 }]
    | .complex => [word e l, word (e + 1) l]
    | _ => [word e l]

/-- The token scale of a row as an FP32 value (07 R178). -/
def tokenValue (record : Word) : Word :=
  let (mt, et) := tokenParts record
  rne32 (.fin false mt (et - 15))

/-- z of the converted path for lane `l` (07 R178). -/
def convertedZ (b : TileBody) (e : Nat) (r : Rqb) (tokens : List Word) (l : Nat) : Word :=
  let fp (e : Nat) : Word := BitVec.ofNat 32 (accAt b e l).toNat
  let v := if tyOf b e = .fp32 then (if r.merge then add32 (fp e) (fp r.entry) else fp e)
    else ofInt32 (accAt b e l).toInt
  let sr := if r.token then tokenValue (tokens.getD (l / 64) 0) else 0x3F800000
  mul32 (mul32 v (BitVec.ofNat 32 (r.chan.getD (l % 64) 0))) sr

/-- The elements of the converted path with their flags: MX formats by blocks of 32 lanes (07 R182). -/
def convertedElems (f : Fmt) (zs : List Word) : List Elem × Raised :=
  if isMx f then
    let blocks := (upTo 8).map fun k => mxQuantise f (((zs.drop (32 * k)).take 32).map val32)
    (blocks.flatMap (·.1), blocks.foldl (fun a p => a.or p.2) .none)
  else
    let ys := zs.map fun z => narrow f .fp32 z
    (ys.map fun y => { code := y.1, scale := 127 }, ys.foldl (fun a y => a.or y.2) .none)

/-- The real value a stored element stands for. -/
def storedVal (f : Fmt) (e : Elem) : FVal := if isMx f then scaled e.scale (elemVal f e.code) else elemVal f e.code

/-- Checks of the block against the path and the entry types (07 R176, R181). -/
def rqbFault (b : TileBody) (e : Nat) (m : OutPath) (r : Rqb) : Option Half :=
  let int := isIntOut r.out
  if (m = .requantised ∧ !int) ∨ (m = .converted ∧ int) then some (Code.til 0x40)
  else
    let want : AccTy := if m = .requantised then .int48 else .fp32
    if r.merge ∧ (tyOf b e ≠ want ∨ tyOf b r.entry ≠ want) then some (Code.til 0x42)
    else if r.merge ∧ poisoned b r.entry then some (Code.til 0x25) else none

/-- The elements of an MOUT as the write stream takes them: what a stream of another storage format makes of a code is not stated (free, log 116). -/
def storedAs (x : Tile) (q : Nat) (f : Fmt) (es : List Elem) : List Elem :=
  let g := streamFmt x q
  if g = f then es else es.map fun e => { e with code := Config.mixedCode (fmtCode f) (fmtCode g) e.code }

/-- Format of an entry's raw elements (06 R146). -/
def rawFmt (b : TileBody) (e : Nat) : Fmt := if tyOf b e = .fp32 then .fp32 else .int48

/-- MOUT e, m, q, a, s: type and poison of the entry, its requantisation block, then the write stream. -/
def moutOp (e : Nat) (m : OutPath) (q a sr : Nat) (s : State) (t : Nat) : OpRes :=
  let x := s.tile t
  let b := x.body
  match writeCheck x q with
  | some c => .fault c
  | none =>
    if tyOf b e = .complex ∧ e % 2 = 1 then .fault (Code.til 0x22)
    else if poisoned b e ∨ (tyOf b e = .complex ∧ poisoned b (e + 1)) then .fault (Code.til 0x25)
    else if tyOf b e = .unused ∨ (m = .requantised ∧ tyOf b e ≠ .int48) ∨ (m = .converted ∧ tyOf b e = .complex) then
      .fault (Code.til 0x23)
    else
      let out (s : State) (es : List Elem) (k : State → OpRes) : OpRes := handOver s t q es (Code.til 0x75) true k
      match m with
      | .raw => out s (storedAs x q (rawFmt b e) (rawElems b e)) fun s1 => .ok s1
      | _ =>
        peek x (windowOff t (aReg x.before.regs a).toNat) 1024 0x60 fun bytes =>
          match parseRqb bytes with
          | none => .fault (Code.til 0x40)
          | some r =>
            match rqbFault b e m r with
            | some c => .fault c
            | none =>
              let tokens := (upTo 4).map fun k => BitVec.ofNat 32 (sReg x.before.regs (sr + k)).toNat
              if m = .requantised then
                let ys := (upTo 256).map fun l =>
                  requantise r (accAt b e l).toInt (if r.merge then (accAt b r.entry l).toInt else 0) (l % 64)
                    (tokens.getD (l / 64) 0)
                out s (storedAs x q r.out (ys.map fun y => { code := intCode r.out y.1, scale := 127 })) fun s1 =>
                  .ok (s1.raise t (ys.foldl (fun f y => f.or y.2) .none))
              else
                let zs := (upTo 256).map (convertedZ b e r tokens)
                let (es, fl) := convertedElems r.out zs
                out s (storedAs x q r.out es) fun s1 =>
                  let items := (zs.zip es).map fun p => some (val32 p.1, storedVal r.out p.2)
                  let s2 := if r.stats then (s1.addStats t r.slot (items.take 128)).addStats t r.slot (items.drop 128) else s1
                  .ok (s2.raise t fl)

def execMout (i : Issue) (e : Fin 8) (m : OutPath) (q : QReg) (a : AReg) (sr : SReg) (s : State) :
    Host.Outcome State Fault Refusal :=
  .next (runOp s i .m (moutOp e.val m q.val a.val sr.val))

/-! ## Weight loads (06 R145, R152, R155) -/

/-- Weight formats of 06 Table 3. -/
def weightFmt (f : Fmt) : Bool :=
  isMx f || [Fmt.int8, .int4, .e4m3, .e5m2, .bf16, .int16, .cint16].contains f

/-- Elements per lane position a load of a format fills. -/
def weightsPerLane (f : Fmt) : Nat := if f = .int4 ∨ f = .mxfp4 then 64 else 32

/-- May a load begin where its stream stands? Positions beyond the length are 0: of an MWLD in the last K-group, of an MWLDT, whose K-groups run
across the rows, in every column (06 R158). -/
def loadFits (d : StreamDesc) (pos n : Nat) (tr : Bool) : Bool :=
  decide (pos + n ≤ d.length) || (if tr then decide (pos < d.length) else fillable d pos n)

/-- MWLD and MWLDT: formats, buffer and stream free, the elements within length and crest; the fill then runs in the background. -/
def weightLoad (b q : Nat) (tr : Bool) (s : State) (t : Nat) : OpRes :=
  let x := s.tile t
  match readCheck x q with
  | some c => .fault c
  | none =>
    let st := x.body.streams.get StreamSt.init q
    let f := deliveredFmt st.desc
    let n := 64 * weightsPerLane f
    if !weightFmt f || (tr && (f == .int4 || isMx f)) then .fault (Code.til 0x22)
    else if !loadFits st.desc st.pos n tr then .fault (Code.til 0x75)
    else if (match st.crest with | some c => decide (c < min (st.pos + n) st.desc.length) | none => false) then .fault (Code.til 0x07)
    else if (x.body.wbufs.get WBuf.init b).loading.isSome then .hold (.weights b)
    else if loadingFrom x.body q then .hold (.stream q)
    else .ok (s.modBody t fun y =>
      { y with wbufs := y.wbufs.set WBuf.init b { (y.wbufs.get WBuf.init b) with loading := some (q, f, tr) } })

def execMwld (i : Issue) (b : Fin 2) (q : QReg) (s : State) : Host.Outcome State Fault Refusal :=
  .next (runOp s i .s (weightLoad b.val q.val false))

def execMwldt (i : Issue) (b : Fin 2) (q : QReg) (s : State) : Host.Outcome State Fault Refusal :=
  .next (runOp s i .s (weightLoad b.val q.val true))

/-- Lane order of a block: rows as they come, or column `l` of 32 rows of 64 to lane position `l` (06 R155). -/
def laneOrder (tr : Bool) (es : List Elem) : List Elem :=
  if tr then (upTo 64).flatMap fun l => (upTo 32).map fun r => es.getD (64 * r + l) { code := 0, scale := 127 } else es

/-- The elements of a load have come: the buffer holds them and the stream has moved on. -/
def weightsArrive (x : Tile) (b q : Nat) (f : Fmt) (tr : Bool) : TileBody :=
  let y := x.body
  let st := y.streams.get StreamSt.init q
  let n := 64 * weightsPerLane f
  let m := min n (st.desc.length - st.pos)
  let got := st.buf.take m
  let last := (got.getLast?).getD { code := 0, scale := 127 }
  let es := got ++ List.replicate (n - m) { code := 0, scale := last.scale }
  { y with
    streams := y.streams.set StreamSt.init q { st with pos := st.pos + m, buf := st.buf.drop m }
    wbufs := y.wbufs.set WBuf.init b
      { fmt := f, perLane := weightsPerLane f, elems := laneOrder tr es, loading := none, src := some (st.descOff, st.pos, tr) } }

/-- Once every element of the block is in the stream's buffer the load completes; one that cannot be corrected faults the
task with RE_OPERAND_UE. -/
def weightLoadEnd (t b : Nat) (s : State) : State :=
  let x := s.tile t
  match (x.body.wbufs.get WBuf.init b).loading with
  | none => s
  | some (q, f, tr) =>
    let st := x.body.streams.get StreamSt.init q
    let m := min (64 * weightsPerLane f) (st.desc.length - st.pos)
    if x.state ≠ .running ∨ st.buf.length < m then s
    else if (st.buf.take m).any (·.bad) then s.taskFault t (Code.til 0x20) streamSlot false
    else s.setTile t { x with body := weightsArrive x b q f tr }

def execWeightLoadComplete (tile : TileId) (b : Fin 2) (s : State) : Host.Outcome State Fault Refusal :=
  .next (weightLoadEnd tile.val b.val s)

end Sys2Proof.Machine
end

