-- ==== Sys2Proof/Machine/Image.lean ====
section
/-! DEFINITION. The tile program image: its layout and the check of its bundles (11 R240, R241, R244). -/
namespace Sys2Proof.Machine

/-- Register files a slot may write. -/
inductive RegFile where | s | a | v | p
deriving DecidableEq, Repr

/-- What the image check asks of one slot: destinations, streams, a branch offset, and whether it must stand alone. -/
structure SlotInfo where
  dests   : List (RegFile × Nat)
  streams : List Nat
  branch  : Option Int
  alone   : Bool
  nop     : Bool

/-- Bits [lo + n − 1 : lo] of a slot word. -/
def bits (w lo n : Nat) : Nat := w / 2 ^ lo % 2 ^ n

def plainSlot : SlotInfo := { dests := [], streams := [], branch := none, alone := false, nop := false }

/-- A slot accepted where its fields are in range. -/
def slotIf (ok : Bool) (dests : List (RegFile × Nat)) (streams : List Nat) : Option SlotInfo :=
  if ok then some { plainSlot with dests, streams } else none

/-- The signed 12-bit offset of a branch. -/
def branchSlot (ok : Bool) (dests : List (RegFile × Nat)) (w : Nat) : Option SlotInfo :=
  if ok then some { plainSlot with dests, branch := some (signedOf 12 (bits w 0 12)) } else none

/-- SYS operations (11 Table 7). Bits no field names are reserved (DEDUCED, log 17). -/
def sysSlot (w : Nat) : Option SlotInfo :=
  let g := bits w 22 4
  if g ≤ 1 then slotIf (bits w 0 22 == 0) [] []
  else if g = 2 then slotIf (bits w 13 4 ≤ 6 && bits w 0 13 == 0) [(.s, bits w 17 5)] []
  else if g ≤ 4 then (if bits w 0 14 = 0 then some { plainSlot with alone := true } else none)
  else none

/-- Control slot (11 Table 6). -/
def controlSlot (w : Nat) : Option SlotInfo :=
  let d := (RegFile.s, bits w 21 5)
  match bits w 26 6 with
  | 0x01 => slotIf (bits w 7 4 ≤ 11 && bits w 0 7 == 0) [d] []
  | 0x02 => slotIf (bits w 12 4 ≤ 11) [d] []
  | 0x03 => slotIf true [d] []
  | 0x04 => slotIf (bits w 16 3 == 0) [d] []
  | 0x05 => slotIf (bits w 0 16 == 0) [if bits w 25 1 = 0 then (.a, bits w 21 4) else (.s, bits w 16 5)] []
  | 0x06 => slotIf (bits w 16 2 == 0) [(.a, bits w 22 4)] []
  | 0x07 => slotIf (bits w 0 4 == 0 && bits w 10 6 + bits w 4 6 + 1 ≤ 64) [d] []
  | 0x08 => branchSlot (bits w 12 6 == 0 && bits w 18 3 ≤ 6) [] w
  | 0x09 => branchSlot (bits w 12 9 == 0) [d] w
  | 0x0A => branchSlot (bits w 12 9 == 0) [d] w
  | 0x0B => slotIf (bits w 21 5 == 0 && bits w 0 16 == 0) [] []
  | 0x0C => slotIf (bits w 24 2 ≤ 2 && bits w 0 9 == 0) (if bits w 24 2 = 2 then [(.s, bits w 9 5)] else []) []
  | 0x0D => slotIf (bits w 9 17 == 0) [] []
  | 0x0E => slotIf (bits w 0 22 == 0) [] []
  | 0x0F => sysSlot w
  | _ => none

/-- Stream/move slot (11 Table 8). -/
def moveSlot (w : Nat) : Option SlotInfo :=
  let d := (RegFile.s, bits w 21 5)
  let v := (RegFile.v, bits w 22 4)
  let p := (RegFile.p, bits w 23 3)
  match bits w 26 6 with
  | 0x10 => slotIf (bits w 0 22 == 0) [] [bits w 22 3]
  | 0x11 => slotIf (bits w 0 22 == 0) [] [bits w 22 3]
  | 0x12 => slotIf (bits w 0 19 == 0) [] [bits w 23 3]
  | 0x13 => slotIf (bits w 0 18 == 0) [] [bits w 23 3]
  | 0x14 => slotIf (bits w 0 23 == 0) [] [bits w 23 3]
  | 0x15 => slotIf (bits w 0 23 == 0) [] [bits w 23 3]
  | 0x16 => slotIf (bits w 16 1 == 0) [d] []
  | 0x17 => slotIf (bits w 16 1 == 0) [] []
  | 0x18 => slotIf (bits w 17 2 ≤ 2 && bits w 0 17 == 0) [v] [bits w 19 3]
  | 0x19 => slotIf (bits w 17 2 ≤ 2 && bits w 0 17 == 0) [] [bits w 19 3]
  | 0x1A => slotIf (bits w 0 17 == 0) [v] []
  | 0x1B => slotIf (bits w 0 18 == 0) [v] []
  | 0x1C => slotIf (bits w 21 2 ≤ 2 && bits w 0 16 == 0) [p] []
  | 0x1D => slotIf (bits w 0 15 == 0) [p] []
  | 0x1E => slotIf (bits w 0 18 == 0) [d] []
  | _ => none

/-- An operand select: is it lawful, which stream and which vector register does it name? -/
def selOk (n : Nat) : Bool := n < 24
def selStream (n : Nat) : List Nat := if 16 ≤ n then [n - 16] else []
def selDest (n : Nat) : List (RegFile × Nat) := if n < 16 then [(.v, n)] else []

/-- Vector slot (11 Table 9). -/
def vectorSlot (w : Nat) : Option SlotInfo :=
  let x := bits w 21 5
  match bits w 26 6 with
  | 0x20 => slotIf (selOk (bits w 17 5) && selOk (bits w 12 5) && selOk (bits w 7 5) && bits w 0 2 == 0) (selDest (bits w 7 5))
      (selStream (bits w 17 5) ++ selStream (bits w 12 5) ++ selStream (bits w 7 5))
  | 0x21 => slotIf (selOk (bits w 13 5) && bits w 0 4 == 0) [(.s, bits w 18 5)] (selStream (bits w 13 5))
  | 0x22 => slotIf (bits w 0 20 == 0 && x != 31) [(.s, x), (.s, x + 1)] []
  | 0x23 => slotIf (selOk x) [] (selStream x ++ [bits w 18 3])
  | 0x24 => slotIf (selOk x && bits w 0 9 == 0) [] (selStream x ++ [bits w 18 3])
  | 0x25 => slotIf (selOk x && bits w 9 5 ≤ 28 && bits w 0 4 == 0) [] (selStream x ++ [bits w 18 3])
  | 0x26 => slotIf (selOk x && bits w 0 10 == 0) [(.s, bits w 10 5)] (selStream x ++ [bits w 15 3])
  | 0x27 => slotIf (bits w 15 5 ≤ 17 && bits w 0 11 == 0) [(.v, bits w 11 4)] [bits w 23 3]
  | 0x28 => slotIf (bits w 0 3 == 0) [] [bits w 23 3, bits w 20 3]
  | 0x29 => slotIf (bits w 0 3 == 0) [] [bits w 23 3, bits w 20 3]
  | 0x2A => slotIf (bits w 0 17 == 0) [(.v, bits w 22 4), (.s, bits w 17 5)] []
  | _ => none

/-- May `half` be 1: a 4-bit weight format at 1 cycle per K-group (11 R256)? -/
def halfOk (fa fw : Nat) : Bool :=
  match fmtOf fa, fmtOf fw with
  | some a, some b => (match pairInfo a b with | some p => p.halves | none => false)
  | _, _ => false

/-- Matrix slot (11 Table 10). -/
def matrixSlot (w : Nat) : Option SlotInfo :=
  match bits w 26 6 with
  | 0x30 => slotIf (bits w 21 2 ≤ 2 && bits w 0 21 == 0) [] []
  | 0x31 => slotIf (bits w 18 4 ≤ 12 && bits w 14 4 ≤ 12 && bits w 0 9 == 0 &&
      (bits w 9 1 == 0 || halfOk (bits w 18 4) (bits w 14 4))) [] [bits w 11 3]
  | 0x32 => slotIf (bits w 21 2 ≤ 2 && bits w 9 5 ≤ 28 && bits w 0 9 == 0) [] [bits w 18 3]
  | _ => none

/-- A slot of a bundle; a NOP is all zeros. -/
def slotInfo (k : Slot) (w : Nat) : Option SlotInfo :=
  if w = 0 then some { plainSlot with nop := true }
  else match k with
    | .m => matrixSlot w
    | .v => vectorSlot w
    | .s => moveSlot w
    | .c => controlSlot w

/-- Do two slots name the same destination register or the same stream? -/
def slotsClash (a b : SlotInfo) : Bool :=
  a.dests.any (b.dests.contains ·) || a.streams.any (b.streams.contains ·)

/-- The first failing slot of bundle `i`, in the order M, V, S, C; of two that clash the later one fails (DEDUCED, log 17). -/
def bundleFault (n i : Nat) (word : BitVec 128) : Option Slot :=
  let part (k : Nat) : Nat := word.toNat / 2 ^ (32 * k) % 2 ^ 32
  let all := [(Slot.m, slotInfo .m (part 0)), (.v, slotInfo .v (part 1)), (.s, slotInfo .s (part 2)), (.c, slotInfo .c (part 3))]
  let inRange (o : Int) : Bool := decide (0 ≤ (i : Int) + o ∧ (i : Int) + o < n)
  let bad (k : Nat) (e : Slot × Option SlotInfo) : Bool :=
    match e.2 with
    | none => true
    | some y =>
      let others := (all.take k).filterMap (·.2)
      !((y.branch.map inRange).getD true) || others.any (slotsClash y) || (y.alone && others.any fun o => !o.nop)
  ((all.zipIdx).find? fun e => bad e.2 e.1).map (·.1.1)

/-- The first failing bundle and its slot. -/
def bundlesFault (n : Nat) : Nat → List (BitVec 128) → Option (Nat × Slot)
  | _, [] => none
  | i, w :: r =>
    match bundleFault n i w with
    | some k => some (i, k)
    | none => bundlesFault n (i + 1) r

/-- Bytes of an image of `n` bundles. -/
def imageSize (n : Nat) : Nat := 0x420 + 16 * n

/-- A header field outside 11 Table 1, or a CRC that fails. -/
def headerBad (b : List Byte) : Bool :=
  let n := field b 4 4
  field b 0 4 != 1 || n == 0 || 2048 < n || 16 < field b 8 4 || field b 0x10 16 != 0 ||
  (crc32c ((b.take (imageSize n)).drop 0x20)).toNat != field b 0xC 4

/-- Chain entry `k` of an image: those at and above n_chains read as zeros (11 Table 1). -/
def imageChain (b : List Byte) (k : Nat) : ChainEntry :=
  if field b 8 4 ≤ k then { header := 0, stages := List.replicate 8 0, rest := false }
  else
    let o := 0x20 + 64 * k
    { header := BitVec.ofNat 32 (field b o 4),
      stages := (upTo 8).map fun i => BitVec.ofNat 32 (field b (o + 4 + 4 * i) 4),
      rest := field b (o + 36) 28 != 0 }

def imageBundles (b : List Byte) : List (BitVec 128) :=
  (upTo (min 2048 (field b 4 4))).map fun i => BitVec.ofNat 128 (field b (0x420 + 16 * i) 16)

end Sys2Proof.Machine
end

