-- ==== Sys2Proof/Machine/Place.lean ====
section
/-! DEFINITION. Loading and resuming a task on a tile (11 R240–R242, 06 R166, 13 R298) and the placement of graph tasks
(14 R317–R319, R329, 17 R368). -/
namespace Sys2Proof.Machine

/-! ## Load (11 R240, R242) -/

/-- What a load takes from the task. -/
structure LoadPlan where
  desc   : TaskDesc
  cls    : JobClass
  job    : Word
  pjob   : Word
  taskId : Nat
  rank   : Nat
  size   : Nat
  grouped : Bool
  seed   : Dword

/-- `n` bytes the cluster control core reads for the task of a tile. -/
def State.coreRead (s : State) (x : Tile) (a n : Nat) : List Byte × Half :=
  match s.place a with
  | .ext b =>
    if !s.extRange b n then ([], Code.addrUnmapped)
    else if !s.taskReach x.domain x.job b n then ([], Code.til 0x72)
    else if s.extBad b n then ([], Code.til 0x78) else (s.extRead b n, 0)
  | _ => ([], Code.addrUnmapped)

/-- The whole image of a task, and what is wrong with it (0 nothing). -/
def State.readImage (s : State) (x : Tile) (a : Nat) : List Byte × Half :=
  match s.coreRead x a 0x20 with
  | (h, 0) =>
    (match s.coreRead x a (imageSize (min 2048 (field h 4 4))) with
     | (b, 0) => (b, if headerBad b then Code.til 0x01 else 0)
     | r => r)
  | r => r

/-- s0–s7 and a0–a7 of an argument block. -/
def argRegs (b : List Byte) : TRegs :=
  let r := (upTo 8).foldl (fun r i => setS r i (BitVec.ofNat 64 (field b (8 * i) 8))) TRegs.init
  (upTo 8).foldl (fun r i => setA r i (BitVec.ofNat 48 (field b (64 + 8 * i) 8))) r

/-- LOAD: the tile takes the task, its image and its first registers, and stands in LOADING; the run is marked as placed. -/
def State.loadTile (s : State) (t : Nat) (ref : TaskRef) (l : LoadPlan) : State :=
  let x := { s.tile t with job := l.job, pjob := l.pjob, cls := l.cls }
  let (img, bad) := s.readImage x l.desc.image
  let (args, bad2) := s.coreRead x l.desc.args 128
  let body := { TileBody.init with sp := x.body.sp, spBad := x.body.spBad, tags := x.body.tags, regs := argRegs args,
                                   step := BitVec.ofNat 64 l.desc.stepCounter }
  let y := { x with
    state := .loading, ref := some ref, taskId := l.taskId, rank := l.rank, groupSize := l.size, grouped := l.grouped
    seed := l.seed, compat := l.desc.compat, statsAt := if l.desc.stats then l.desc.status + 0x40 else 0, sems := l.desc.sems
    nBundles := field img 4 4, bundles := imageBundles img, chains := (upTo 16).map (imageChain img)
    loadFault := if bad ≠ 0 then bad else bad2, body, before := body, slots := [], semSat := false, hold := none
    yielding := false, since := s.clock.cycle }
  ((s.setTile t y).wakeTile t).modTask ref t fun k =>
    { k with state := .running, tile := t, started := true, startNs := if k.started then k.startNs else s.nowNs }

/-! ## Resume (06 R166, 13 R298) -/

/-- The tile and the record that keep a preempted task. -/
def State.savedOf (s : State) (ref : TaskRef) : Option (Nat × Saved) :=
  s.tiles.entries.findSome? fun e => ([e.2.saveInf, e.2.saveRad].findSome? fun v => v.filter (·.ref = ref)).map fun v => (e.1, v)

/-- May a task be placed where a drain of it would write this area? One that holds another preempted task's record is spared, for that task resumes
bit-exactly (06 R164, R167; DEDUCED, log 115). -/
def State.areaFree (s : State) (v : Option Saved) (ref : TaskRef) (t : Nat) : Bool :=
  match v with
  | none => true
  | some r => r.ref == ref || (match s.taskSt r.ref t with | some k => k.state != .preempted | none => true)

/-- The record of a task is in no save area any longer: it was restored, or is left to be overwritten (14 R334). -/
def dropSaved (ref : TaskRef) (x : Tile) : Tile :=
  { x with saveInf := x.saveInf.filter (·.ref ≠ ref), saveRad := x.saveRad.filter (·.ref ≠ ref) }

def State.dropSaved (s : State) (ref : TaskRef) : State :=
  (s.tiles.keys).foldl (fun s t => s.modTile t (Machine.dropSaved ref)) s

/-- The address with the tile field of another tile's window. -/
def moveWindow (old new a : Nat) : Nat :=
  if tileBase ≤ a ∧ a < tileBase + 96 * 0x200000 ∧ (a - tileBase) / 0x200000 = old then
    tileBase + new * 0x200000 + (a - tileBase) % 0x200000 else a

/-- A saved stream on resume: its descriptor read and checked again, its far address as patched; a fault, or the stream. -/
def State.reviveStream (s : State) (t : Nat) (st : StreamSt) : StreamSt ⊕ Half :=
  let x := s.tile t
  if !st.valid then .inl st
  else if !heldRange x st.descOff 128 then .inr (Code.til 0x61)
  else if spUnreadable x.body st.descOff 128 then .inr (Code.til 0x60)
  else
    let d0 := parseDesc (spBytes x.body st.descOff 128)
    let d := if isTileAddr d0.farAddr && isTileAddr st.desc.farAddr then
      { d0 with farAddr := moveWindow ((d0.farAddr - tileBase) / 0x200000) ((st.desc.farAddr - tileBase) / 0x200000) d0.farAddr }
      else d0
    match s.descFault t d with
    | some c => .inr c
    | none => if s.keyRefused x d then .inr (Code.til 0x74) else .inl { st with desc := d }

/-- The elements of a weight buffer read again from its descriptor (06 R166). -/
def State.reloadBuffer (s : State) (t : Nat) (r : Reload) : WBuf ⊕ Half :=
  let x := s.tile t
  let d := parseDesc (spBytes x.body r.descOff 128)
  let f := deliveredFmt d
  let n := 64 * weightsPerLane f
  let read (i : Nat) : Elem ⊕ Half :=
    let k := r.elemOff + i
    if d.length ≤ k then .inl { code := 0, scale := 127 }
    else match s.elemCode t d k, s.elemScale t d k with
      | .fault c, _ => .inr c
      | _, .fault c => .inr c
      | .elem v b, .elem sc b' => if b || b' then .inr (Code.til 0x20) else .inl { code := v, scale := sc }
  let es := (upTo n).map read
  match es.findSome? (fun e => match e with | .inr c => some c | .inl _ => none) with
  | some c => .inr c
  | none =>
    let vs := es.filterMap fun e => match e with | .inl v => some v | .inr _ => none
    .inl { fmt := f, perLane := weightsPerLane f, elems := laneOrder r.transposed vs, loading := none,
           src := some (r.descOff, r.elemOff, r.transposed) }

/-- All streams of a record revived, or the first fault in stream order. -/
def State.reviveAll (s : State) (t : Nat) (ts : Table StreamSt) : Table StreamSt ⊕ Half :=
  ts.entries.foldl (fun a e => match a with
    | .inr c => .inr c
    | .inl m => match s.reviveStream t e.2 with
      | .inr c => .inr c
      | .inl st => .inl (m.set StreamSt.init e.1 st)) (.inl .empty)

/-- A weight buffer of a resumed task that its record does not name: its contents are open (06 R167; free, log 114). -/
def lostBuffer (k b : Nat) (f : Fmt) : WBuf :=
  { WBuf.init with fmt := f, perLane := weightsPerLane f
                   elems := (upTo (64 * weightsPerLane f)).map fun i =>
                     { code := Config.lostWeight (2 * k + b) i % 2 ^ fmtBits f, scale := Config.lostWeight (2 * k + b) (4096 + i) % 256 } }

/-- The weight buffers of a resumed task but for the one reloaded: cancelled loads begin anew, the others hold what is open. -/
def resumedBufs (k : Nat) (v : Saved) : Table WBuf :=
  let m := v.lost.foldl (fun m l => m.set WBuf.init l.1 (lostBuffer k l.1 l.2)) Table.empty
  v.loads.foldl (fun m l => m.set WBuf.init l.1 { WBuf.init with loading := some l.2 }) m

/-- The body of a resumed task on tile `t`; `k` numbers the free contents. -/
def resumedBody (b : TileBody) (v : Saved) (streams : Table StreamSt) (k : Nat) : TileBody :=
  { b with pc := v.pc, cur := (v.longOp.map (·.bundle)).getD v.pc, regs := v.regs, acc := v.acc, accTy := v.accTy,
           kgroups := v.kgroups, streams, accSat := v.accSat, step := v.step, longOp := v.longOp, outliers := v.outliers,
           upHist := v.upHist, mouts := v.mouts, wbufs := resumedBufs k v }

/-- A task whose image passed runs: from bundle 0, or from where it was stopped. -/
def State.beginTask (s : State) (t : Nat) (ref : TaskRef) : State :=
  let run (b : TileBody) (s : State) : State := s.modTile t fun x =>
    { x with state := .running, body := b, before := match b.longOp with | some o => { b with regs := o.regs } | none => b }
  match s.savedOf ref with
  | none => run (s.body t) s
  | some (_, v) =>
    let s0 := s.dropSaved ref
    if !v.valid then s0.taskFault t (Code.til 0x20) streamSlot false
    else match s0.reviveAll t v.streams with
      | .inr c => s0.taskFault t c streamSlot false
      | .inl streams =>
        let b := resumedBody (s0.body t) v streams s0.free
        let s0 := if v.lost.isEmpty then s0 else { s0 with free := s0.free + 1 }
        match v.wbuf with
        | none => run b s0
        | some r =>
          match s0.reloadBuffer t r with
          | .inr c => s0.taskFault t c streamSlot false
          | .inl w => run { b with wbufs := b.wbufs.set WBuf.init r.buf w } s0

/-- The loader's check, then the task runs (11 R241): a header or CRC fault names no bundle; of the bundles the first that
fails is named with its slot. -/
def imageCheck (t : Nat) (s : State) : State :=
  let x := s.tile t
  match x.ref with
  | none => s
  | some ref =>
    if x.state ≠ .loading ∨ s.powerOf t ≠ .on then s
    else if x.loadFault = Code.til 0x01 then s.taskFault t (Code.til 0x01) 0 false true
    else if x.loadFault ≠ 0 then s.taskFault t x.loadFault streamSlot false
    else match bundlesFault x.nBundles 0 x.bundles with
      | some (i, k) => (s.modBody t fun b => { b with cur := i }).taskFault t (Code.til 0x01) (slotCode k) false
      | none => s.beginTask t ref

def execImageLoadCheck (tile : TileId) (s : State) : Host.Outcome State Fault Refusal := .next (imageCheck tile.val s)

/-! ## Preparation of a graph task's tile (14 R319, R329) -/

/-- The job's polders 0 to n − 1 that the tile does not hold yet are allocated (14 R319 step 1). -/
def allocPolders (g : Graph) (n : Nat) (x : Tile) : Tile :=
  (upTo n).foldl (fun x p =>
    if (x.polders.get Polder.init p).state = .free then { x with polders := x.polders.set Polder.init p (polderOf g p) } else x) x

/-- One tensor copied from its backing to its place, through the weight cache; its slots of a tagged polder are set full. -/
def State.stageTensor (s : State) (t : Nat) (ref : TaskRef) (x : Tensor) : State :=
  if !x.resident then s else
    let a := s.twinAddr ref x.backing
    let off := x.polder * 0x10000 + x.firstSlot * 256
    let s1 := ((upTo ((a + x.bytes - 1) / 1024 + 1 - a / 1024)).map (a / 1024 + ·)).foldl (fun s l => s.wcAsk .inference l) s
    let s2 := s1.modBody t fun b => spWrite b off (s1.extRead a x.bytes)
    s2.setTags (spanSlots (some (tileBase + t * 0x200000 + off, x.bytes))) true

/-- The tensors of the stage list that are not valid on the tile. -/
def stageNeeds (g : Graph) (c : GraphCopy) (d : TaskDesc) (t : Nat) : List Tensor :=
  (d.stage.filter fun n => !c.valid.contains (t, n)).filterMap (g.tensors[·]?)

/-- Window slots copied back from the spill page of an inbound task, and set full; the page is released (14 R329). -/
def State.unspill (s : State) (t page : Nat) (slots : List Nat) : State :=
  let c := page / 56
  let cl := s.cluster c
  let s1 := (slots.zipIdx).foldl (fun s e =>
    let bytes := (upTo 256).map fun i => cl.cache.get 0 (page % 56 * 0x10000 + e.2 * 256 + i)
    (s.modBody t fun b => spWrite b (e.1 * 256) bytes).modBody t fun b => setTag b e.1 true) s
  s1.setCluster c { cl with pages := cl.pages.set none (page % 56) ((cl.pages.get none (page % 56)).map fun p => { p with locked := true }) }

/-- Write streams of a job that reach into a tile's window are pointed at another tile, in the tiles and in what is saved. -/
def patchStreams (old new : Nat) (ts : Table StreamSt) : Table StreamSt :=
  ts.mapTo StreamSt.init fun st => if st.desc.dirWrite then
    { st with desc := { st.desc with farAddr := moveWindow old new st.desc.farAddr },
              pend := st.pend.map fun w => { w with addr := moveWindow old new w.addr } } else st

def savedJob (ref : TaskRef) (job : Word) : Bool := match ref with | .graph j _ _ => j == job | _ => false

def patchTile (job : Word) (old new : Nat) (x : Tile) : Tile :=
  let save (v : Saved) : Saved := if savedJob v.ref job then { v with streams := patchStreams old new v.streams } else v
  let y := { x with saveInf := x.saveInf.map save, saveRad := x.saveRad.map save }
  match x.ref with
  | some ref =>
    if savedJob ref job then { y with body := { x.body with streams := patchStreams old new x.body.streams },
                                      before := { x.before with streams := patchStreams old new x.before.streams } } else y
  | none => y

def State.patchWriters (s : State) (job : Word) (old new : Nat) : State :=
  (s.tiles.keys).foldl (fun s t => s.modTile t (patchTile job old new)) s

/-- The inbound table's entry of an array job's task set or cleared (15 R345). -/
def State.setInbound (s : State) (g : Graph) (tasks : List TaskSt) (k : Nat) (tile : Option TileId) : State :=
  if g.arrayJob = 0 then s
  else s.setArray { s.array with
    inbound := s.array.inbound.set none (g.arrayJob.toNat * 128 + inboundNumber tasks k) tile }

def isWaitingTask (t : TaskSt) : Bool := t.state == .ready || t.state == .preempted

/-- A graph task prepared and loaded on a tile: polders, stage list, spilled windows, image and registers, peers' windows
(14 R319, R329). `peerTile` gives the tile that runs a peer. How many cycles the staging of a resume took is a free value
(timing, log 18). -/
def State.placeOn (s : State) (g : Graph) (copy : Fin 3) (k t : Nat) (peerTile : Nat → Option Nat) : State :=
  match g.copies[copy.val]? with
  | none => s
  | some c =>
    match c.tasks[k]? with
    | none => s
    | some task =>
      let d := task.desc
      let ref := TaskRef.graph g.job copy k
      let plan : LoadPlan :=
        { desc := d, cls := if g.hdr.cls = 2 then .assured else .inference, job := g.job
          pjob := if g.arrayJob = 0 then g.job else g.arrayJob, taskId := d.taskId, rank := d.rank, size := d.groupSize
          grouped := d.group ≠ 0xFFFF, seed := g.seed }
      let s1 := (s.modTile t (allocPolders g d.polders)).modTile t fun x => { x with pjob := plan.pjob, job := plan.job }
      let s2 := (stageNeeds g c d t).foldl (fun s x => s.stageTensor t ref x) s1
      let s3 := match task.spill with
        | some (page, slots) => s2.unspill t page slots
        | none => s2
      let resumed := task.state = .preempted
      let s4 := if resumed ∧ d.inbound then s3.patchWriters g.job task.tile t else s3
      let s5 := (s4.loadTile t ref plan).modTask ref t fun k => { k with spill := none }
      let s6 := (namedPeers d).foldl (fun s p => match peerTile p.2 with
        | some u => s.modRegs t fun r => setA r (4 + p.1) (BitVec.ofNat 48 (tileBase + u * 0x200000))
        | none => s) s5
      let s7 := s6.modTile t fun x => { x with before := x.body }
      let s8 := s7.modGraph g.job fun g =>
        { g with copies := modAt g.copies copy.val fun c =>
            { c with tilesUsed := (c.tilesUsed.filter (· ≠ t)) ++ [t], startNs := if c.tilesUsed.isEmpty then s.nowNs else c.startNs } }
      let s9 := if !resumed then s8 else
        let v := s8.draw
        v.2.modTask ref t fun x => { x with restage := min (2 ^ 64 - 1) (x.restage + v.1) }
      if d.inbound then s9.setInbound g c.tasks k (some (Fin.ofNat 96 t)) else s9

/-! ## Choice of tile (14 R317, R318, 17 R368) -/

/-- Does a claim of an entry on a tile meet `len` ns from `at'` ns of the frame on? -/
def claimMeets (e : CycEntry) (t at' len : Nat) : Bool :=
  let f := 10000000
  e.tiles.getLsbD t && (e.kind == 1 || (e.kind == 0 &&
    (decide (f ≤ len) || decide ((e.offsetNs + 2 * f - 2000 - at') % f < len) ||
     decide ((at' + f - (e.offsetNs + f - 2000) % f) % f < 2000 + e.deadlineNs))))

/-- A tile that may run assured work: not removed and covered (17 R367, R377). -/
def State.eligible (s : State) (t : Nat) : Bool :=
  !s.assured.excl.getLsbD t && !s.assured.untested.getLsbD t && !s.tileHeld t

/-- Is a tile free of claims for an assured task from now to its deadline, and of a table about to be loaded (01 R24, 14 R327)? -/
def State.unclaimed (s : State) (t : Nat) (deadline : Nat) : Bool :=
  let es := match s.sched.table with | some x => x.entries | none => []
  let ns := match s.sched.nextTable with | some x => x.entries | none => []
  !(es.any fun e => claimMeets e t (s.nowNs % 10000000) (deadline - s.nowNs)) &&
  !(ns.any fun e => e.tiles.getLsbD t && (e.kind == 0 || e.kind == 1))

/-- The tiles of the other copies of a task that are placed or were. -/
def otherTiles (g : Graph) (copy : Nat) (k : Nat) (upto : Nat) : List Nat :=
  (g.copies.zipIdx).filterMap fun p =>
    if p.2 = copy ∨ upto < p.2 then none else (p.1.tasks[k]?).bind fun t => if t.started then some t.tile else none

/-- Inbound tasks of a job that run in a cluster or are preempted from it (14 R329). -/
def inboundCount (g : Graph) (cluster copy k : Nat) : Nat :=
  ((g.copies.zipIdx).map fun p => ((p.1.tasks.zipIdx).filter fun q =>
    q.1.desc.inbound && !(p.2 = copy && q.2 = k) &&
    ((q.1.state == .running && q.1.tile / 8 == cluster) ||
     (q.1.state == .preempted && (match q.1.spill with | some (pg, _) => pg / 56 == cluster | none => q.1.tile / 8 == cluster)))).length).foldl (· + ·) 0

/-- May a task take tile `t` (14 R317)? `far` lists the tiles its other copies must differ from. -/
def State.tileSuits (s : State) (g : Graph) (copy k : Nat) (task : TaskSt) (far : List Nat) (t : Nat) : Bool :=
  let x := s.tile t
  let d := task.desc
  let job := if g.arrayJob = 0 then g.job else g.arrayJob
  x.state == .idle && x.ref.isNone && x.domain == .inference && (s.sched.claims.get none t).isNone && !s.tileHeld t &&
  !s.assured.slice.getLsbD t && (s.assured.running.get none t).isNone &&
  (g.hdr.cls != 2 || (s.eligible t && s.unclaimed t (g.submitNs + d.deadlineUs * 1000) &&
    far.all fun u => u / 8 != t / 8 && u % 8 != t % 8)) &&
  ((upTo d.polders).all fun p => let y := x.polders.get Polder.init p; y.state == .free || (y.state == .held && y.job == job)) &&
  s.areaFree x.saveInf (.graph g.job (Fin.ofNat 3 copy) k) t &&
  (!d.inbound || decide (inboundCount g (t / 8) copy k < g.hdr.spillPages))

/-- Bytes of the task's resident inputs whose copies on the tile are valid (14 R318) (DEDUCED, log 78). -/
def affinity (g : Graph) (c : GraphCopy) (d : TaskDesc) (t : Nat) : Nat :=
  (d.inTensor.map fun n => match g.tensors[n]? with
    | some x => if x.resident && c.valid.contains (t, n) then x.bytes else 0
    | none => 0).foldl (· + ·) 0

/-- The cluster that ran the producer of the task's largest input. -/
def producerCluster (g : Graph) (c : GraphCopy) (d : TaskDesc) : Option Nat :=
  let size (n : Nat) : Nat := ((g.tensors[n]?).map (·.bytes)).getD 0
  let big := d.inTensor.foldl (fun a n => match a with | some m => if size m < size n then some n else some m | none => some n) none
  big.bind fun n => (c.tasks.find? fun t => t.desc.outTensor.contains n && t.started).map fun t => t.tile / 8

/-- The tile a task takes among those not in `used`: largest affinity, then the producer's cluster, then the lowest number. -/
def State.chooseTile (s : State) (g : Graph) (copy : Nat) (k : Nat) (used : List Nat) : Option Nat :=
  match (g.copies[copy]?).bind fun c => (c.tasks[k]?).map fun t => (c, t) with
  | none => none
  | some (c, task) =>
    let prod := producerCluster g c task.desc
    let better (a b : Nat) : Bool :=
      let fa := affinity g c task.desc a
      let fb := affinity g c task.desc b
      decide (fb < fa) || (fa == fb && prod == some (a / 8) && prod != some (b / 8))
    let best (far : List Nat) : Option Nat :=
      ((upTo 96).filter fun t => !used.contains t && s.tileSuits g copy k task far t).foldl
        (fun a t => match a with | none => some t | some b => if better t b then some t else a) none
    if g.hdr.cls = 2 then
      (match best (otherTiles g copy k 2) with
       | some t => some t
       | none => if copy = 2 then best (otherTiles g copy k 0) else none)
    else best []

/-- Tasks reached from `front` through peers entries, at most `n` links away. -/
def peerReach (tasks : List TaskSt) : Nat → List Nat → List Nat
  | 0, seen => seen
  | n + 1, seen =>
    let more := seen.flatMap fun k => ((tasks[k]?).map fun t => (namedPeers t.desc).map (·.2)).getD []
    peerReach tasks n (seen ++ more.filter fun k => !seen.contains k).eraseDups

/-- The peer cycle of a task: the tasks that it reaches and that reach it. -/
def peerCycle (tasks : List TaskSt) (k : Nat) : List Nat :=
  let out := peerReach tasks (min 33 tasks.length) [k]
  let back := out.filter fun j => (peerReach tasks (min 33 tasks.length) [j]).contains k
  (upTo tasks.length).filter back.contains

/-- The tiles for a placement step of some tasks, each its own; `none` where one finds no tile. -/
def State.chooseAll (s : State) (g : Graph) (copy : Nat) : List Nat → List Nat → Option (List (Nat × Nat))
  | [], _ => some []
  | k :: r, used => (s.chooseTile g copy k used).bind fun t => (s.chooseAll g copy r (t :: used)).map fun l => (k, t) :: l

/-- The placement step that would place task `k`: the tasks with their tiles (14 R317). -/
def State.placementOf (s : State) (g : Graph) (copy k : Nat) : Option (List (Nat × Nat)) :=
  match g.copies[copy]? with
  | none => none
  | some c =>
    let running (j : Nat) : Bool := match c.tasks[j]? with | some t => t.state == .running | none => false
    let set := ((peerCycle c.tasks k).filter fun j => !running j)
    let ready := set.all fun j => match c.tasks[j]? with
      | some t => isWaitingTask t && (namedPeers t.desc).all fun p => running p.2 || set.contains p.2
      | none => false
    if set.contains k && ready then s.chooseAll g copy set [] else none

/-- A waiting task with its place in the order of R317 and R368. -/
structure ReadyTask where
  cls   : Nat
  stamp : Nat
  job   : Nat
  task  : Nat
  copy  : Nat

def readyBefore (a b : ReadyTask) : Bool :=
  let ka := [a.cls, a.stamp, a.job, a.task, a.copy]
  let kb := [b.cls, b.stamp, b.job, b.task, b.copy]
  decide (ka < kb)

/-- The tasks of an admitted graph that wait for a tile. -/
def readyOf (g : Graph) : List ReadyTask :=
  if g.outcome.isSome then [] else
    (g.copies.zipIdx).flatMap fun p => ((p.1.tasks.zipIdx).filter fun q => isWaitingTask q.1).map fun q =>
      { cls := if g.hdr.cls = 2 then 0 else 1, stamp := q.1.stamp, job := g.job.toNat, task := q.2, copy := p.2 }

def State.readyTasks (s : State) : List ReadyTask := s.sched.graphs.flatMap readyOf

/-- The first task in order that can be placed, with its placement step. -/
def State.nextPlacement (s : State) : Option (Graph × Nat × List (Nat × Nat)) :=
  let try' (r : ReadyTask) : Option (ReadyTask × Graph × List (Nat × Nat)) :=
    (s.graph (BitVec.ofNat 32 r.job)).bind fun g => (s.placementOf g r.copy r.task).map fun l => (r, g, l)
  let all := s.readyTasks.filterMap try'
  (all.foldl (fun a e => match a with
    | none => some e
    | some b => if readyBefore e.1 b.1 then some e else a) none).map fun e => (e.2.1, e.1.copy, e.2.2)

/-- One placement step of the graph scheduler. -/
def taskPlace (s : State) : State :=
  match s.nextPlacement with
  | none => s
  | some (g, copy, l) =>
    let peer (j : Nat) : Option Nat :=
      match l.find? (·.1 = j) with
      | some p => some p.2
      | none => ((g.copies[copy]?).bind fun c => c.tasks[j]?).map (·.tile)
    l.foldl (fun s p => match s.graph g.job with
      | some g' => s.placeOn g' (Fin.ofNat 3 copy) p.1 p.2 peer
      | none => s) s

end Sys2Proof.Machine
end

