-- ==== Sys2Proof/Machine/Sluice.lean ====
section
/-! DEFINITION. Sluice credits: requests, grants, revocation, remote writes and reads (12 R269, R276–R281). -/
namespace Sys2Proof.Machine

/-! ## Ends of credits (12 R280, R281) -/

/-- Slot of the tile windows, counted over the whole region. -/
def slotKey (t slot : Nat) : Nat := (tileBase + t * 0x200000) / 256 + slot

/-- What a write stream kept of a slot whose credit was revoked is to be sent again (14 R329). -/
def resendSlot (key : Nat) (st : StreamSt) : StreamSt :=
  { st with pend := st.pend.map fun w => if w.sent && w.addr / 256 == key then { w with sent := false } else w }

/-- A revoked credit's notice reaches its writer: a stream here sends the slot again, a device is told (15 R346). -/
def State.revokeNotice (s : State) (t slot : Nat) (cls : JobClass) (job : Word) (w : Writer) : State :=
  match w with
  | .stream u q => s.modBody u.val fun b =>
      { b with streams := b.streams.set StreamSt.init q.val (resendSlot (slotKey t slot) (b.streams.get StreamSt.init q.val)) }
  | .device d u => s.tellDevice 4 cls job d.val u (s.inboundAddr job t slot) 0
  | .engine => s.emit (.word "SLUICE_REVOKED" slot)

/-- A polder leaves HELD: its credits are revoked and its pending requests dropped, with notice to the writers (12 R281). -/
def State.revokePolder (s : State) (t p : Nat) : State :=
  let x := s.tile t
  let cs := x.credits.filter (·.polder = p)
  let rs := x.requests.filter (·.req.polder.toNat = p)
  let s1 := s.setTile t { x with credits := x.credits.filter (·.polder ≠ p), requests := x.requests.filter (·.req.polder.toNat ≠ p) }
  let s2 := cs.foldl (fun s c => s.revokeNotice t (creditSlot c) c.cls c.job c.writer) s1
  rs.foldl (fun s r => (upTo (r.stop - r.next)).foldl (fun s i => s.revokeNotice t (p * 256 + r.next + i) r.req.cls r.req.job r.req.writer) s) s2

def isWriter (t : Nat) (w : Writer) : Bool := match w with | .stream u _ => u.val == t | _ => false

/-- The credits and requests of a tile's streams end: its task was killed, or preempted and drained (12 R280). -/
def State.endCredits (s : State) (t : Nat) : State :=
  (s.tiles.keys).foldl (fun s u => s.modTile u fun x =>
    { x with credits := x.credits.filter fun c => !isWriter t c.writer,
             requests := x.requests.filter fun r => !isWriter t r.req.writer }) s

/-! ## Requests and grants (12 R277, R278) -/

/-- A writer is told that its request or write is refused: its task faults with the code, or it gets the code. -/
def State.refuseWriter (s : State) (w : Writer) (cls : JobClass) (job : Word) (code : Half) : State :=
  match w with
  | .stream u _ => if (s.tile u.val).state = .running then s.taskFault u.val code streamSlot false else s
  | .device d u => s.tellDevice 4 cls job d.val u 0 code.toNat
  | .engine => s.emit (.word "SLUICE" code.toNat)

/-- The first failing check of a credit request. -/
def creditRefusal (x : Tile) (r : CreditReq) : Option Half :=
  let p := x.polders.get Polder.init r.polder.toNat
  if r.count = 0 ∨ 256 < r.count then some (Code.til 0x03)
  else if p.state ≠ .held ∨ p.job ≠ r.job ∨ p.cls ≠ r.cls ∨ r.first < p.winBase ∨ p.winBase + p.winCount < r.first + r.count ∨
      (r.acc ∧ !p.accRemote) then some (Code.til 0x65)
  else if r.acc ∧ r.fmt = .fp32 then some (Code.til 0x66)
  else if r.acc ∧ r.fmt ≠ .int32 then some (Code.til 0x63) else none

def State.creditAsk (s : State) (t : Nat) (r : CreditReq) : State :=
  match creditRefusal (s.tile t) r with
  | some c => s.refuseWriter r.writer r.cls r.job c
  | none => s.modTile t fun x => { x with requests := x.requests ++ [{ req := r, next := r.first, stop := r.first + r.count }] }

def execCreditRequest (tile : TileId) (r : CreditReq) (s : State) : Host.Outcome State Fault Refusal :=
  .next (s.creditAsk tile.val r)

/-- A class's share of the 48 entries, and the entries it uses. -/
def shareOf (x : Tile) (c : JobClass) : Nat :=
  match c with
  | .radio => x.splitR | .inference => x.splitI | .assured => x.splitA

def usedBy (x : Tile) (c : JobClass) : Nat := (x.credits.filter (·.cls = c)).length

/-- The three conditions of a grant, tags as they stood when the cycle began. -/
def grantable (x : Tile) (r : PendReq) : Bool :=
  let slot := r.req.polder.toNat * 256 + r.next
  !(x.credits.any fun c => creditSlot c == slot) && (!slotTagged x slot || tagFull x.body slot == r.req.acc) &&
  decide (usedBy x r.req.cls < shareOf x r.req.cls)

/-- Does an older pending request name the slot? -/
def namedBefore (older : List PendReq) (r : PendReq) : Bool :=
  older.any fun o => o.req.polder == r.req.polder && decide (o.next ≤ r.next ∧ r.next < o.stop)

/-- One cycle of the sluice: the requests oldest first, each granted its next slot where it can be. The result lists what stays
pending, the credits, and the grants made. -/
def grantRound (x : Tile) : List PendReq → List PendReq → List Credit → List PendReq × List Credit × List Credit
  | _, [], new => ([], x.credits ++ new, new)
  | older, r :: rest, new =>
    if grantable { x with credits := x.credits ++ new } r && !namedBefore older r then
      let c : Credit := { polder := r.req.polder.toNat, slot := r.next, acc := r.req.acc, cls := r.req.cls, job := r.req.job,
                          writer := r.req.writer }
      let (p, cs, g) := grantRound x (older ++ [r]) rest (new ++ [c])
      (if r.next + 1 = r.stop then p else { r with next := r.next + 1 } :: p, cs, g)
    else
      let (p, cs, g) := grantRound x (older ++ [r]) rest new
      (r :: p, cs, g)

/-- The header of a credit request from another device: source device and tile, polder and slot, mode, job (15 R346, R339). The
data bytes of the message give the count and the format (layout DESIGN CHOICE, log 19). -/
def farRequest (f : Flit) (job : Word) : CreditReq :=
  let b := f.payload
  let off := field b 0 6 % 0x200000
  { polder := BitVec.ofNat 8 (off / 0x10000), first := off / 256 % 256, count := field b 16 2, acc := field b 18 1 % 2 == 1,
    fmt := (fmtOf (field b 19 1)).getD .int8, cls := if f.cls = 1 then .assured else .inference, job,
    writer := .device (Fin.ofNat 16 f.src.toNat) (field b 8 1) }

/-- Requests that wait for an inbound task enter the sluice of the tile that now runs it (15 R346). -/
def State.admitWaiting (s : State) (t : Nat) : State :=
  let here (f : Flit) : Bool :=
    s.array.inbound.get none (field f.payload 10 4 * 128 + field f.payload 0 6 / 0x200000 % 128) == some (Fin.ofNat 96 t)
  let mine := s.array.waiting.filter here
  mine.foldl (fun s f => s.creditAsk t (farRequest f (BitVec.ofNat 32 (field f.payload 10 4))))
    (s.setArray { s.array with waiting := s.array.waiting.filter fun f => !here f })

/-- A cycle of grants; grants to other devices travel as messages. -/
def State.grantCycle (s : State) (t : Nat) : State :=
  let s0 := s.admitWaiting t
  let x := s0.tile t
  let (p, cs, g) := grantRound x [] x.requests []
  g.foldl (fun s c => match c.writer with
    | .device d u => s.tellDevice 3 c.cls c.job d.val u (s.inboundAddr c.job t (creditSlot c)) 0
    | _ => s) (s0.setTile t { x with requests := p, credits := cs })

def execCreditGrant (tile : TileId) (s : State) : Host.Outcome State Fault Refusal := .next (s.grantCycle tile.val)

/-! ## Remote writes and reads -/

/-- A write without its credit is discarded and counted; the notice travels to the writer (12 R279). -/
def State.discardWrite (s : State) (t : Nat) (w : Writer) : State :=
  let s1 := s.modTile t fun x => { x with refused := bump 255 x.refused }
  match w with
  | .stream u _ => (match (s1.tile u.val).ref with
    | some ref => s1.modTile u.val fun x => { x with notices := x.notices ++ [ref] }
    | none => s1)
  | w => s1.refuseWriter w .inference 0 (Code.til 0x64)

/-- A remote write reaches a tile's sluice. -/
def State.remoteStore (s : State) (t : Nat) (w : RemoteWr) : State :=
  match s.sluiceWrite t w.off w.bytes w.acc w.closing w.writer with
  | .noCredit => s.discardWrite t w.writer
  | .done s1 ue => if ue then s1.refuseWriter w.writer .inference 0 (Code.til 0x60) else s1

def execRemoteWrite (tile : TileId) (w : RemoteWr) (s : State) : Host.Outcome State Fault Refusal :=
  .next (s.remoteStore tile.val w)

/-- A task that is not on a tile is marked faulted, its pooling jobs stop and its graph ends (12 R279, 09 R217). -/
def State.faultAway (s : State) (ref : TaskRef) (tile : Nat) (code : Half) : State :=
  match s.taskSt ref tile with
  | some k =>
    if k.state ≠ .preempted then s else
      let s1 := ((s.poolStop ref).dropSaved ref).modTask ref tile fun k =>
        { k with state := .faulted, fault := code, bundle := 0xFFFF, slot := 0xFF, endNs := s.nowNs }
      (match ref with | .graph job copy task => s1.graphFaulted job copy.val task code | _ => s1)
  | none => s

/-- The discard notice reaches the writer's tile: its task faults wherever it stands. -/
def State.discardNotice (s : State) (t : Nat) : State :=
  let x := s.tile t
  match x.notices with
  | [] => s
  | ref :: r =>
    let s1 := s.modTile t fun x => { x with notices := r }
    if x.ref = some ref ∧ (x.state = .running ∨ x.state = .draining) then s1.taskFault t (Code.til 0x64) streamSlot false
    else s1.faultAway ref t (Code.til 0x64)

def execSluiceNoCredit (tile : TileId) (s : State) : Host.Outcome State Fault Refusal := .next (s.discardNotice tile.val)

/-- May the host, a firmware core or debug read a held polder: radio data by unlocked debug alone, sealed jobs by nobody
(18 R383)? -/
def State.outsideMayRead (s : State) (who : Reader) (p : Polder) : Bool :=
  p.state == .held && !s.sealedJob p.job &&
  (match who with
   | .debug => s.sec.debugOpen
   | _ => p.cls != .radio)

/-- Is a range of a tile's window open to a requester that is no task: HELD polders it may read, on a tile that is not being zeroised? -/
def State.windowOpen (s : State) (t off n : Nat) (who : Reader) : Bool :=
  let x := s.tile t
  decide (off + n ≤ 0x180000) && x.state != .zeroising &&
    (upTo ((off + n - 1) / 0x10000 + 1 - off / 0x10000)).all fun k =>
      s.outsideMayRead who (x.polders.get Polder.init (off / 0x10000 + k))

/-- A read of a tile's window from outside: bytes, SP_DENIED, or SP_UE; a task that may not read faults with ST_DENIED, one
that meets an uncorrectable word with SP_UE. -/
def State.remoteRead (s : State) (t off n : Nat) (who : Reader) : State :=
  let x := s.tile t
  let ue := spUnreadable x.body off n
  match who with
  | .task u =>
    let y := s.tile u.val
    if y.state ≠ .running then s
    else if x.state = .zeroising ∨ !heldBy x y.pjob off n then s.taskFault u.val (Code.til 0x77) streamSlot false
    else if ue then s.taskFault u.val (Code.til 0x60) streamSlot false
    else s.emit (.word "SP_READ" (leNat (spBytes x.body off n)))
  | w =>
    if !s.windowOpen t off n w then s.emit (.word "SP_READ_REFUSED" Code.spDenied.toNat)
    else if ue then (s.modTile t fun x => { x with eccUe := bump top32 x.eccUe }).emit (.word "SP_READ_REFUSED" (Code.til 0x60).toNat)
    else s.emit (.word "SP_READ" (leNat (spBytes x.body off n)))

def execRemoteRead (tile : TileId) (off n : Nat) (who : Reader) (s : State) : Host.Outcome State Fault Refusal :=
  .next (s.remoteRead tile.val off n who)

end Sys2Proof.Machine
end

