-- ==== Sys2Proof/Machine/Tiles.lean ====
section
/-! DEFINITION. Tile commands, drains, zeroisation, polders and the tile's own events (11 R261, 06 R162–R166, 12 R266–R273,
R282, 13 R297). -/
namespace Sys2Proof.Machine

/-- TILE_BAD_STATE is returned and recorded with the tile as the source unit (11 R261, 24 R514). -/
def State.tileRefusal (s : State) (t : Nat) : State := s.record Code.tileBadState t []

/-- Polder copies on a tile are valid no longer (14 R318): `keep` says which polders' copies stay. -/
def State.dropValid (s : State) (t : Nat) (keep : Nat → Bool) : State :=
  s.setSched { s.sched with graphs := s.sched.graphs.map fun g => { g with copies := g.copies.map fun c =>
    { c with valid := c.valid.filter fun v => v.1 ≠ t || (match g.tensors[v.2]? with | some x => keep x.polder | none => false) } } }

/-- What a kill leaves of the polders: HELD ones LOCKED (12 R282); what ASSIGN or ZEROISE leaves: all ZEROISING (12 R268). -/
def poldersAt (kill : Bool) (ps : Table Polder) : Table Polder :=
  (upTo 24).foldl (fun m p =>
    let y := ps.get Polder.init p
    let st : PolderState := if kill then (if y.state = .held then .locked else y.state) else .zeroising
    m.set Polder.init p { y with state := st }) ps

/-- The tile goes to ZEROISING: its credits and those into it end, its copies are gone, its task has left. -/
def State.zeroiseStart (s : State) (t : Nat) (next : Domain) (kill : Bool) : State :=
  let s1 := (upTo 24).foldl (fun s p => s.revokePolder t p) s
  let s2 := (s1.endCredits t).dropValid t fun _ => false
  s2.modTile t fun x =>
    { x with state := .zeroising, nextDomain := next, ref := none, hold := none, slots := [], yielding := false, semSat := false,
             polders := poldersAt kill x.polders, since := s.clock.cycle, body := { x.body with longOp := none } }

/-- A graph is killed, unless it has ended already (14 R316). -/
def State.graphKilled (s : State) (job : Word) : State :=
  s.modGraph job fun g => if g.outcome.isSome then g else { g with outcome := some .killed }

/-- The task of a tile is killed: reported so, its pooling jobs dropped (11 R261, 09 R217). -/
def State.taskKilled (s : State) (t : Nat) : State :=
  match (s.tile t).ref with
  | none => s
  | some ref =>
    let s1 := (s.poolStop ref).modTask ref t fun k =>
      if k.state = .running ∨ k.state = .preempted then { k with state := .killed, endNs := s.nowNs } else k
    match ref with
    | .graph job copy task =>
      let s2 := s1.graphKilled job
      (match s2.graph job, (s2.graph job).bind (·.copies[copy.val]?) with
       | some g, some c => (match c.tasks[task]? with
         | some k => if k.desc.inbound then s2.setInbound g c.tasks task none else s2
         | none => s2)
       | _, _ => s2)
    | _ => s1

/-! ## ASSIGN, KILL, ZEROISE and the end of zeroisation -/

/-- ASSIGN (11 Table 13): the anchor domain has no tiles (01 R20). -/
def assignTile (t : Nat) (d : Domain) (s : State) : State :=
  let x := s.tile t
  if d = .anchor then s
  else match x.state with
    | .idle | .faulted => s.zeroiseStart t d false
    | _ => s.tileRefusal t

def execAssign (tile : TileId) (d : Domain) (s : State) : Host.Outcome State Fault Refusal := .next (assignTile tile.val d s)

/-- A record that says the drain was not completed (06 R163, 11 Table 13). -/
def Saved.void (ref : TaskRef) : Saved :=
  { valid := false, ref, regs := TRegs.init, acc := .empty, accTy := .empty, kgroups := .empty, streams := .empty, pc := 0,
    accSat := false, step := 0, longOp := none, wbuf := none, outliers := .empty, upHist := [], loads := [], lost := [], mouts := 0 }

def isRadio (c : JobClass) : Bool := c == .radio

/-- A record enters the save area of the task's class, over what stood there (06 R164). -/
def keepSaved (cls : JobClass) (v : Saved) (x : Tile) : Tile :=
  if isRadio cls then { x with saveRad := some v } else { x with saveInf := some v }

def State.voidDrain (s : State) (t : Nat) : State :=
  s.modTile t fun x => match x.state, x.ref with
    | .draining, some ref => keepSaved x.cls (Saved.void ref) x
    | _, _ => x

def killTile (t : Nat) (s : State) : State :=
  let x := s.tile t
  match x.state with
  | .idle | .zeroising => s
  | _ => (((s.voidDrain t).taskKilled t).zeroiseStart t x.domain true)

def execTileKill (tile : TileId) (s : State) : Host.Outcome State Fault Refusal := .next (killTile tile.val s)

def zeroiseTile (t : Nat) (s : State) : State :=
  let x := s.tile t
  match x.state with
  | .idle | .faulted => s.zeroiseStart t x.domain false
  | .zeroising => s
  | _ => s.tileRefusal t

def execTileZeroise (tile : TileId) (s : State) : Host.Outcome State Fault Refusal := .next (zeroiseTile tile.val s)

/-- After 1,536 cycles: scratchpad, registers, accumulators and weight buffers are 0, every polder FREE, the tile IDLE in its
domain. -/
def zeroised (x : Tile) (cycle : Nat) : Tile :=
  { x with state := .idle, domain := x.nextDomain, body := TileBody.init, before := TileBody.init, slots := [],
           polders := .empty, credits := [], requests := [], since := cycle }

def zeroiseEnd (t : Nat) (s : State) : State :=
  if (s.tile t).state = .zeroising then s.modTile t fun x => zeroised x s.clock.cycle else s

/-! ## Preemption and drain -/

/-- The task of an abandoned load returns unstarted, or as it was saved (11 Table 13). -/
def State.unload (s : State) (t : Nat) : State :=
  let x := s.tile t
  match x.ref with
  | none => s
  | some ref =>
    let back : TaskState := if (s.savedOf ref).isSome then .preempted else .ready
    let s1 := (s.modTile t fun x => { x with state := .idle, ref := none, since := s.clock.cycle }).modTask ref t fun k =>
      { k with state := back }
    match ref with
    | .entry _ => s1.setSched { s1.sched with tileTasks := s1.sched.tileTasks.set none t none }
    | _ => s1

/-- A drain begins: a bundle held before issue is given up, one in issue may complete (11 R260). -/
def drainBegin (x : Tile) : Tile :=
  { x with state := .draining, hold := none, slots := if x.hold.isSome then [] else x.slots }

def preemptTile (t : Nat) (s : State) : State :=
  match (s.tile t).state with
  | .loading => s.unload t
  | .running => s.modTile t drainBegin
  | _ => s

def execTilePreempt (tile : TileId) (s : State) : Host.Outcome State Fault Refusal := .next (if s.sealedJob (s.tile tile.val).job then preemptTile tile.val s else traced 64 80 s (preemptTile tile.val s))

/-- The open unit of a compressing stream written raw, its missing positions at z (13 R299). -/
def openUnit (st : StreamSt) : StreamSt :=
  if st.desc.compress && st.desc.dirWrite && !st.dense.isEmpty then
    { st with pend := st.pend ++ (unitWrites st.desc st.unit st.rows st.dense true false 0).1 }
  else st

/-- Every write of a list that needs no credit, or has one, lands; the others stay (13 R297). -/
def State.landEach (t q : Nat) : List PendWr → State → State
  | [], s => s
  | w :: r, s =>
    let st := (s.body t).streams.get StreamSt.init q
    if w.sent then State.landEach t q r s
    else
      let drop (s : State) : State := s.modBody t fun b =>
        let y := b.streams.get StreamSt.init q
        { b with streams := b.streams.set StreamSt.init q { y with pend := y.pend.erase w } }
      match s.landWrite t q st.desc st.granted w with
      | .wait => State.landEach t q r s
      | .ok s1 => State.landEach t q r ((drop s1).keepPart t w.mout (s.moutPart t st.desc w))
      | .fault s1 code => (((drop s1).addPart t (s.moutPart t st.desc w)).voidDrain t).taskFault t code streamSlot false

/-- A write stream empties its buffer at a drain. -/
def State.drainStream (s : State) (t q : Nat) : State :=
  if (s.tile t).state ≠ .draining then s
  else
    let s1 := s.modBody t fun b =>
      { b with streams := b.streams.set StreamSt.init q (openUnit (b.streams.get StreamSt.init q)) }
    State.landEach t q ((s1.body t).streams.get StreamSt.init q).pend s1

/-- A stream's state in the save area (13 Table 4): what was fetched is gone, a copy stream resumes at ring_pos. `past` elements are those of the
load that the progress record does again. -/
def savedStream (x : Tile) (past : Nat) (st : StreamSt) : StreamSt :=
  let pos := if st.desc.copy then ringPos x st else min (st.pos + past) (max st.pos st.desc.length)
  { st with pos, fetched := pos, inflight := [], buf := [], granted := [], asked := [], pend := st.pend.filter fun w => !w.sent }

/-- An MMAC of a bundle store: buffer, entry, weight format, half (11 Table 10). -/
structure MmacWord where
  buf   : Nat
  entry : Nat
  fmt   : Fmt
  half  : Bool

def mmacWord (w : Nat) : MmacWord :=
  { buf := bits w 22 1, entry := bits w 23 3, fmt := (fmtOf (bits w 14 4)).getD .int8, half := bits w 9 1 == 1 }

/-- ALU functions by code (11 Table 6). -/
def aluFn (n : Nat) : Option AluFn :=
  [AluFn.add, .sub, .mul, .and, .or, .xor, .shl, .shr, .min, .max, .slt, .seq][n]?

def condOf (n : Nat) : Option Cond := [Cond.always, .eqz, .nez, .ltz, .gez, .gtz, .lez][n]?

/-- A control-slot word on the way to the next MMAC: the scalar registers after it and the bundle that follows. Registers that other operations
write are taken as they stand at the drain (DEDUCED, log 114). -/
def ctlWalk (r : TRegs) (w pc : Nat) : TRegs × Int :=
  let a := sReg r (bits w 21 5)
  let off : Int := (pc : Int) + signedOf 12 (bits w 0 12)
  let next : Int := (pc : Int) + 1
  match bits w 26 6 with
  | 0x01 => (match aluFn (bits w 7 4) with
    | some f => (setS r (bits w 21 5) (aluOp f (sReg r (bits w 16 5)) (sReg r (bits w 11 5))), next)
    | none => (r, next))
  | 0x02 => (match aluFn (bits w 12 4) with
    | some f => (setS r (bits w 21 5) (aluOp f (sReg r (bits w 16 5)) ((BitVec.ofNat 12 (bits w 0 12)).signExtend 64)), next)
    | none => (r, next))
  | 0x03 => (setS r (bits w 21 5) ((BitVec.ofNat 21 (bits w 0 21)).signExtend 64), next)
  | 0x08 => (r, match condOf (bits w 18 3) with | some c => if condOp c a then off else next | none => next)
  | 0x09 => if a = 0 then (r, next) else (setS r (bits w 21 5) (a - 1), if a - 1 ≠ 0 then off else next)
  | 0x0A => (setS r (bits w 21 5) (BitVec.ofNat 64 (pc + 1)), off)
  | 0x0B => (r, ((sReg r (bits w 16 5)).toNat : Int))
  | _ => (r, next)

/-- The MMAC that issues next from a bundle on, at most `fuel` bundles ahead (06 R165). -/
def nextMmac (bs : List (BitVec 128)) : Nat → TRegs → Int → Option MmacWord
  | 0, _, _ => none
  | fuel + 1, r, pc =>
    if pc < 0 then none
    else match bs[pc.toNat]? with
      | none => none
      | some b =>
        let w := b.toNat % 2 ^ 32
        if bits w 26 6 = 0x31 then some (mmacWord w)
        else
          let (r', next) := ctlWalk r (b.toNat / 2 ^ 96) pc.toNat
          nextMmac bs fuel r' next

/-- The buffer a progress record names: that of the next MMAC, where it is filled or being filled, with the first of its K-groups and the
descriptor and element it is reloaded from (06 R147, Table 9). -/
def wantedBuffer (x : Tile) (bundle : Nat) : Option Reload :=
  (nextMmac x.bundles 4096 x.body.regs bundle).bind fun m =>
    let w := x.body.wbufs.get WBuf.init m.buf
    let from' := match w.loading with
      | some (q, _, tr) => let st := x.body.streams.get StreamSt.init q
                           some (st.descOff, st.pos, tr)
      | none => w.src
    from'.map fun (o, e, tr) =>
      { buf := m.buf, kgroup := kgroupsOf x.body m.entry - (if m.half then 1 else 0), descOff := o, elemOff := e, transposed := tr }

/-- Elements of stream `q` that a load into the named buffer has still to take: the reload takes them. -/
def reloadPast (x : Tile) (r : Option Reload) (q : Nat) : Nat :=
  match r with
  | some y => (match (x.body.wbufs.get WBuf.init y.buf).loading with
    | some (p, f, _) => if p = q then 64 * weightsPerLane f else 0
    | none => 0)
  | none => 0

/-- Loads cancelled into buffers that the record does not name (06 Table 10), and filled buffers that it does not name. -/
def otherLoads (x : Tile) (r : Option Reload) : List (Nat × Nat × Fmt × Bool) :=
  [0, 1].filterMap fun b =>
    if r.any (·.buf = b) then none else ((x.body.wbufs.get WBuf.init b).loading).map fun l => (b, l)

def lostBuffers (x : Tile) (r : Option Reload) : List (Nat × Fmt) :=
  [0, 1].filterMap fun b =>
    let w := x.body.wbufs.get WBuf.init b
    if r.any (·.buf = b) || w.loading.isSome || w.src.isNone then none else some (b, w.fmt)

/-- What is saved of the task. -/
def savedOfTile (x : Tile) (ref : TaskRef) : Saved :=
  let b := x.body
  let bundle := (b.longOp.map (·.bundle)).getD b.pc
  let wbuf := wantedBuffer x bundle
  { valid := true, ref, regs := (match b.longOp with | some o => o.preds.foldl (fun r p => setP r p.1 p.2) b.regs | none => b.regs)
    acc := b.acc, accTy := b.accTy, kgroups := b.kgroups
    streams := (b.streams.entries).foldl (fun m e => m.set StreamSt.init e.1 (savedStream x (reloadPast x wbuf e.1) e.2)) b.streams
    pc := b.pc, accSat := b.accSat, step := b.step
    longOp := b.longOp.map fun o => { o with preds := [], block := none }, wbuf, outliers := b.outliers
    upHist := b.upHist, loads := otherLoads x wbuf, lost := lostBuffers x wbuf, mouts := b.mouts }

/-- Full slots of the windows open to remote writes. -/
def fullWindow (x : Tile) : List Nat :=
  (upTo 24).flatMap fun p =>
    let y := x.polders.get Polder.init p
    if y.state ≠ .held then [] else
      ((upTo y.winCount).map fun i => p * 256 + y.winBase + i).filter fun k => y.tagged && tagFull x.body k

/-- The lowest free page of a cluster cache. -/
def freePage (cl : ClusterSt) : Option Nat := (upTo 56).find? fun p => (cl.pages.get none p).isNone

/-- The full window slots of a preempted inbound task are copied to a spill page of its job (14 R329). -/
def State.spillInbound (s : State) (t : Nat) (ref : TaskRef) : State :=
  let x := s.tile t
  let c := t / 8
  let cl := s.cluster c
  match s.taskSt ref t, freePage cl with
  | some k, some p =>
    if !k.desc.inbound then s else
      let slots := fullWindow x
      let bytes := slots.flatMap fun n => spBytes x.body (n * 256) 256
      let page : Page := { job := x.job, domain := x.domain, cls := x.cls, spill := true, locked := false }
      let s1 := s.setCluster c { cl with pages := cl.pages.set none p (some page) }
      (s1.cacheWrite c (p * 0x10000) (bytes.map fun y => (y, 0xFF))).modTask ref t fun k =>
        { k with spill := some (c * 56 + p, slots) }
  | _, _ => s

/-- The drain is complete: writes that can land have, the rest is saved with the registers, the writer's credits end, flags go
to the status, and the tile is IDLE (06 R162–R165, 11 R243, 13 R297, 12 R280). -/
def drainEnd (t : Nat) (s : State) : State :=
  let s0 := [4, 5, 6, 7].foldl (fun s q => s.drainStream t q) (s.flushStats t)
  let x := s0.tile t
  match x.state, x.ref with
  | .draining, some ref =>
    let b := x.body
    let y := keepSaved x.cls (savedOfTile x ref)
      { x with state := .idle, ref := none, hold := none, slots := [], semSat := false, yielding := false, since := s.clock.cycle
               body := { b with qSat := false, nanSeen := false, accSat := false, moutParts := [] } }
    let s1 := (((s0.spillInbound t ref).modTile t fun z => { y with polders := z.polders, saveInf := y.saveInf }).endCredits t)
    let s2 := s1.modTask ref t fun k =>
      { taskMerge k b.qSat b.nanSeen b.accSat x.semSat with
        state := .preempted, preemptions := bump top32 k.preemptions,
        yields := if x.yielding then bump top32 k.yields else k.yields }
    (match ref with
     | .graph job copy task =>
       (match s2.graph job, (s2.graph job).bind (·.copies[copy.val]?) with
        | some g, some c => (match c.tasks[task]? with
          | some k => if k.desc.inbound then s2.setInbound g c.tasks task none else s2
          | none => s2)
        | _, _ => s2)
     | _ => s2)
  | _, _ => s0

def execDrainComplete (tile : TileId) (s : State) : Host.Outcome State Fault Refusal := .next (drainEnd tile.val s)

/-! ## Faults that the hardware finds, and the limit of a tag wait -/

def hwCode : HwFault → Half
  | .operandUe => Code.til 0x20
  | .accParity => Code.til 0x21
  | .vectorUe => Code.til 0x33
  | .spUe => Code.til 0x60
  | .memUe => Code.til 0x78

def hwSlot : HwFault → Nat
  | .operandUe | .accParity => 0
  | .vectorUe => 1
  | .spUe | .memUe => streamSlot

/-- A fault during execution, during a drain, or while a saved task is restored (06 R163, Table 7). -/
def hwFault (t : Nat) (f : HwFault) (s : State) : State :=
  let x := s.tile t
  if x.state = .running ∨ x.state = .draining ∨ (x.state = .loading ∧ f = .operandUe ∧ x.ref.any fun r => (s.savedOf r).isSome) then
    let s1 := match f with
      | .accParity => s
      | .memUe => s.record Code.memUeEvent 0 []
      | _ => s.modTile t fun x => { x with eccUe := bump top32 x.eccUe }
    (s1.voidDrain t).taskFault t (hwCode f) (hwSlot f) false
  else s

def execTaskFault (tile : TileId) (f : HwFault) (s : State) : Host.Outcome State Fault Refusal := .next (hwFault tile.val f s)

/-- A tag wait beyond TIL_SP_TAGWAIT.LIMIT faults the task; the slot waited on leaves with the fault record (12 R273). -/
def tagLimit (t : Nat) (s : State) : State :=
  let x := s.tile t
  match x.hold with
  | some (.tag slot) =>
    if x.state = .running ∧ x.tagLimit ≠ 0 ∧ x.tagLimit < s.clock.cycle - x.holdSince then
      (s.taskFault t (Code.til 0x62) streamSlot false).emit (.word "SP_TAG_WAIT" slot)
    else s
  | _ => s

def execTagWaitLimit (tile : TileId) (s : State) : Host.Outcome State Fault Refusal := .next (tagLimit tile.val s)

/-- The scrubber reads one polder that is HELD or FREE: uncorrectable words stay, are recorded with tile and offset, and
counted; the last polder ends a pass (12 R267). -/
def scrubPolder (t p : Nat) (s : State) : State :=
  let x := s.tile t
  let st := (x.polders.get Polder.init p).state
  let s1 := if st = .held ∨ st = .free then
      (x.body.spBad.filter fun w => w * 8 / 0x10000 = p).foldl (fun s w =>
        (s.record Code.spScrubUe t [t, w * 8]).modTile t fun x => { x with eccUe := bump top32 x.eccUe }) s
    else s
  if p = 23 then s1.modTile t fun x => { x with scrub := bump top32 x.scrub } else s1

def execScrubStep (tile : TileId) (polder : Fin 24) (s : State) : Host.Outcome State Fault Refusal :=
  .next (scrubPolder tile.val polder.val s)

/-! ## Polders (12 R268, R270, R282) -/

/-- Does a class suit a tile of a domain? -/
def classSuits (d : Domain) (c : JobClass) : Bool :=
  match d, c with
  | .inference, .inference => true
  | .inference, .assured => true
  | .radio, .radio => true
  | _, _ => false

def classOf (n : Nat) : Option JobClass := [JobClass.radio, .inference, .assured][n]?

/-- A write of TIL_POLDERn with state HELD: range, then a FREE polder and a class that suits. -/
def polderAlloc (t n : Nat) (p : PolderSet) (s : State) : State :=
  let x := s.tile t
  match classOf p.cls.toNat with
  | none => s.emit (.word "POLDER_ALLOC" Code.cfgRange.toNat)
  | some c =>
    if 256 < p.winCount.toNat ∨ 256 < p.winBase.toNat + p.winCount.toNat then s.emit (.word "POLDER_ALLOC" Code.cfgRange.toNat)
    else if (x.polders.get Polder.init n).state ≠ .free ∨ !classSuits x.domain c then
      s.emit (.word "POLDER_ALLOC" Code.tileBadState.toNat)
    else
      let y : Polder := { state := .held, cls := c, tagged := p.tagged, accRemote := p.accRemote, winCount := p.winCount.toNat,
                          winBase := p.winBase.toNat, job := p.job }
      s.setTile t { x with polders := x.polders.set Polder.init n y }

def execPolderAlloc (tile : TileId) (polder : Fin 24) (p : PolderSet) (s : State) : Host.Outcome State Fault Refusal :=
  .next (polderAlloc tile.val polder.val p s)

def setPolderState (n : Nat) (st : PolderState) (x : Tile) : Tile :=
  { x with polders := x.polders.set Polder.init n { (x.polders.get Polder.init n) with state := st } }

/-- A HELD polder leaves for ZEROISING or LOCKED: credits into it are revoked, its copies are valid no longer. -/
def State.polderLeaves (s : State) (t n : Nat) (st : PolderState) : State :=
  if ((s.tile t).polders.get Polder.init n).state = .held then
    (((s.revokePolder t n).dropValid t (· ≠ n)).modTile t (setPolderState n st)).closeBundle t
  else s

def execPolderRelease (tile : TileId) (polder : Fin 24) (s : State) : Host.Outcome State Fault Refusal :=
  .next (s.polderLeaves tile.val polder.val .zeroising)

/-- The zeroiser starts on the lowest LOCKED polder, one at a time; a tile in ZEROISING clears all together. -/
def lockedStart (t n : Nat) (s : State) : State :=
  let x := s.tile t
  let st (k : Nat) : PolderState := (x.polders.get Polder.init k).state
  if x.state ≠ .zeroising ∧ st n = .locked ∧ (upTo n).all (fun k => st k != .locked) ∧ (upTo 24).all (fun k => st k != .zeroising) then
    s.setTile t (setPolderState n .zeroising x)
  else s

def execLockedPolderZeroiseStart (tile : TileId) (polder : Fin 24) (s : State) : Host.Outcome State Fault Refusal :=
  .next (lockedStart tile.val polder.val s)

/-- A polder's bytes read zero, its tags are empty, its words sound. -/
def clearPolder (b : TileBody) (n : Nat) : TileBody :=
  { b with sp := b.sp.clearRange (n * 0x10000) ((n + 1) * 0x10000), tags := b.tags.clearRange (n * 256) ((n + 1) * 256),
           spBad := b.spBad.filter fun w => w * 8 / 0x10000 ≠ n }

def polderZeroised (t n : Nat) (s : State) : State :=
  let x := s.tile t
  if x.state ≠ .zeroising ∧ (x.polders.get Polder.init n).state = .zeroising then
    (s.setTile t { x with polders := x.polders.set Polder.init n Polder.init, body := clearPolder x.body n,
                          before := clearPolder x.before n }).closeBundle t
  else s

def execPolderZeroiseComplete (tile : TileId) (polder : Fin 24) (s : State) : Host.Outcome State Fault Refusal :=
  .next (polderZeroised tile.val polder.val s)

end Sys2Proof.Machine
end

