-- ==== Sys2Proof/Machine/Lane.lean ====
section
/-! DEFINITION. The assured lane: its states, removal of tiles, self-test, signatures and verdicts (17 R366–R380). -/
namespace Sys2Proof.Machine

/-! ## Lane states (17 R367, R374, R379) -/

def laneCode : LaneState → Nat
  | .off => 0 | .active => 1 | .degraded => 2 | .safe => 3

/-- SAF_STATE bits [29:26] as a number. -/
def laneReasons (a : Assured) : Nat :=
  bitIf a.reasonRemoved 3 + bitIf a.reasonMissed 2 + bitIf a.reasonFailed 1 + bitIf a.reasonFew 0

/-- The lane enters a state; a change records SAF_STATE. -/
def State.laneTo (s : State) (st : LaneState) : State :=
  if s.assured.state = st then s
  else (s.setAssured { s.assured with state := st }).record Code.safState 0
    [laneCode s.assured.state, laneCode st, laneReasons s.assured]

/-- Do fewer than two clusters hold an eligible tile? -/
def State.fewClusters (s : State) : Bool :=
  ((upTo 12).filter fun c => (upTo 8).any fun i => s.eligible (8 * c + i)).length < 2

/-- A lane in service is DEGRADED after a loss, or SAFE where too few clusters are left. -/
def State.laneLoss (s : State) : State :=
  if s.assured.state = .active ∨ s.assured.state = .degraded then
    (if s.fewClusters then (s.setAssured { s.assured with reasonFew := true }).laneTo .safe else s.laneTo .degraded)
  else s

/-- A tile is removed from assured work. -/
def State.tileOut (s : State) (t : Nat) : State :=
  if s.assured.excl.getLsbD t then s
  else ((s.setAssured { s.assured with excl := s.assured.excl ||| BitVec.ofNat 96 (2 ^ t), reasonRemoved := true }).record
    Code.safTileOut t [t]).laneLoss

/-! ## Self-test (17 R376–R379) -/

/-- Length of a segment in ns (17 Table 3). -/
def segmentNs (k : Nat) : Nat := [18000, 16000, 20000, 14000].getD k 0

/-- Does `len` ns from now end before the tile's next claim preemption time, 2 µs before an entry's offset (01 R23)? -/
def State.beforeClaim (s : State) (t len : Nat) : Bool :=
  let f := 10000000
  let es := match s.sched.table with | some x => x.entries | none => []
  es.all fun e => !(e.kind == 0 && e.tiles.getLsbD t) || decide (len < (e.offsetNs + 2 * f - 2000 - s.nowNs % f) % f)

/-- A tile of a running slice starts its next segment once it is ON and IDLE. -/
def State.startSegment (s : State) (t : Nat) : State :=
  let seg := s.assured.nextSeg.get 0 t
  if s.assured.slice.getLsbD t ∧ s.powerOf t = .on ∧ (s.tile t).state = .idle ∧ (s.assured.running.get none t).isNone ∧ s.beforeClaim t (segmentNs seg) then
    s.setAssured { s.assured with running := s.assured.running.set none t (some seg) }
  else s

/-- Bit `t` of a tile set cleared. -/
def dropBit (m : BitVec 96) (t : Nat) : BitVec 96 := m &&& ~~~(BitVec.ofNat 96 (2 ^ t))

/-- The tile without its segment and its slice. -/
def State.withoutSegment (s : State) (t : Nat) : State :=
  s.setAssured { s.assured with running := s.assured.running.set none t none, slice := dropBit s.assured.slice t }

/-- The lowest tile whose segment keeps a waiting task from its place. -/
def State.segmentInWay (s : State) (r : ReadyTask) : Option Nat :=
  match s.graph (BitVec.ofNat 32 r.job) with
  | none => none
  | some g =>
    if (s.placementOf g r.copy r.task).isSome then none
    else s.assured.running.keys.find? fun t => ((s.withoutSegment t).placementOf g r.copy r.task).isSome

/-- A segment is aborted where an assured task is ready that no other eligible tile can take; its tile is zeroised. While an
eligible tile is being zeroised for the inference domain, that one will take the task (DEDUCED, log 79). -/
def State.abortSegments (s : State) : State :=
  if s.assured.running.entries.isEmpty then s
  else if (upTo 96).any fun t => (s.tile t).state == .zeroising && (s.tile t).nextDomain == .inference && s.eligible t then s
  else match (s.readyTasks.filter (·.cls = 0)).findSome? s.segmentInWay with
    | some t => (s.withoutSegment t).zeroiseStart t (s.tile t).domain false
    | none => s

/-- A slice begins at its offset: its tiles wake, take no new graph task and run their next segments (21 R456). -/
def sliceStart (n : Nat) (s : State) : State :=
  match s.sched.table.bind (·.entries[n]?) with
  | none => s
  | some e =>
    if e.kind ≠ 2 ∨ !s.tableRuns ∨ e.deadlineNs ≤ sinceOffset e s.nowNs then s else
      let s1 := s.setAssured { s.assured with slice := s.assured.slice ||| e.tiles }
      (((upTo 96).filter fun t => e.tiles.getLsbD t).foldl (fun s t => (s.wakeTile t).startSegment t) s1).abortSegments

def execSelftestSliceStart (entry : Fin 4096) (s : State) : Host.Outcome State Fault Refusal := .next (sliceStart entry.val s)

/-- The slice's length has passed: its tiles return to the graph scheduler once their segments have ended. -/
def sliceEnd (n : Nat) (s : State) : State :=
  match s.sched.table.bind (·.entries[n]?) with
  | none => s
  | some e => if e.kind ≠ 2 ∨ sinceOffset e s.nowNs < e.deadlineNs then s else (s.setAssured { s.assured with slice := s.assured.slice &&& ~~~e.tiles }).abortSegments

def execSelftestSliceEnd (entry : Fin 4096) (s : State) : Host.Outcome State Fault Refusal := .next (sliceEnd entry.val s)

/-- Have all four segments passed on a tile in this window? -/
def covered (a : Assured) (t : Nat) : Bool := (upTo 4).all fun k => a.passed.contains (t, k)

/-- A segment ends with its signature: the expected one, it counts for the window and the next one follows; another, its tile is removed. The tile leaves
the slice. -/
def segmentEnd (t : Nat) (signature : Word) (s : State) : State :=
  match s.assured.running.get none t with
  | none => s
  | some seg =>
    let s1 := s.withoutSegment t
    if (s.host.bundle.bind (·.segSigs[seg]?)) = some signature then
      let a := { s1.assured with passed := if s1.assured.passed.contains (t, seg) then s1.assured.passed else s1.assured.passed ++ [(t, seg)]
                                 nextSeg := s1.assured.nextSeg.set 0 t ((seg + 1) % 4) }
      s1.setAssured { a with untested := if covered a t then dropBit a.untested t else a.untested }
    else ((s1.setAssured { s1.assured with reasonFailed := true }).record Code.safStestFail t [t, seg]).tileOut t

def execSelftestSegmentEnd (tile : TileId) (signature : Word) (s : State) : Host.Outcome State Fault Refusal :=
  .next (segmentEnd tile.val signature s)

/-- A window ends: tiles outside SAF_EXCL without coverage are left out and recorded; the lane follows, and the next window
begins with the FTTI last written (17 R367, R377, R381). -/
def windowOver (s : State) : State :=
  let a := s.assured
  if !a.enable ∨ s.frameNow < a.windowEnd then s else
    let missing := (upTo 96).filter fun t => !a.excl.getLsbD t && !covered a t
    let untested := missing.foldl (fun m t => m ||| BitVec.ofNat 96 (2 ^ t)) (0 : BitVec 96)
    let all := missing.isEmpty
    let s1 := s.setAssured { a with untested, passed := [], reasonMissed := a.state != .off && !all, fttiFrames := a.fttiNext,
                                    windowEnd := a.windowEnd + a.fttiNext, windows := a.windows + 1 }
    let s2 := missing.foldl (fun s t => s.record Code.safCoverage t [t]) s1
    match a.state with
    | .off => if all then s2.laneTo .active else s2
    | .active => if all then s2 else s2.laneLoss
    | .degraded => if all ∧ !a.reasonRemoved ∧ !a.reasonFailed then s2.laneTo .active else s2.laneLoss
    | .safe => s2

def execFttiWindowEnd (s : State) : Host.Outcome State Fault Refusal := .next (windowOver s)

/-- ENABLE as last written is applied at a frame boundary; SAFE holds until a reset (17 R367, R377) (DEDUCED, log 70). -/
def laneFrame (s : State) : State :=
  let a := s.assured
  if a.enableNext ∧ !a.enable then
    s.setAssured { a with enable := true, passed := [], fttiFrames := a.fttiNext, windowEnd := s.frameNow + a.fttiNext }
  else if !a.enableNext ∧ a.enable then
    let s1 := s.setAssured { a with enable := false, passed := [], reasonMissed := false }
    if a.state = .safe then s1 else s1.laneTo .off
  else s

/-! ## Signatures and verdicts (17 R371–R375) -/

/-- The sink tensors: named in an out_tensor and in no in_tensor, in ascending number. -/
def sinkTensors (g : Graph) : List Nat :=
  match g.copies with
  | [] => []
  | c :: _ => (upTo g.tensors.length).filter fun n =>
      c.tasks.any (·.desc.outTensor.contains n) && !(c.tasks.any (·.desc.inTensor.contains n))

/-- The bytes of the sink tensors of a copy, and whether one of them could not be read. -/
def State.sinkBytes (s : State) (g : Graph) (copy : Fin 3) : List Byte × Bool :=
  let xs := (sinkTensors g).filterMap (g.tensors[·]?)
  let at' (x : Tensor) : Nat := s.twinAddr (.graph g.job copy 0) x.backing
  (xs.flatMap fun x => s.extRead (at' x) x.bytes, xs.any fun x => s.extBad (at' x) x.bytes)

/-- Copy `copy`'s sink tensors written over copy 0's. -/
def State.takeSinks (s : State) (g : Graph) (copy : Fin 3) : State :=
  ((sinkTensors g).filterMap (g.tensors[·]?)).foldl (fun s x =>
    s.extWrite x.backing (s.extRead (s.twinAddr (.graph g.job copy 0) x.backing) x.bytes)) s

/-- Run time of a copy in ns. -/
def runNs (c : GraphCopy) : Nat := (c.endNs.getD 0) - c.startNs

/-- Is the graph's deadline past? -/
def State.deadlineDue (s : State) (g : Graph) : Bool :=
  g.hdr.deadlineUs != 0 && decide (g.submitNs + g.hdr.deadlineUs * 1000 ≤ s.nowNs)

/-- A disagreement: counted and recorded, and marked on every tile of copies 0 and 1; a third mark within 1 s of the first
removes the tile. -/
def State.disagreement (s : State) (g : Graph) : State :=
  let sig (k : Nat) : Nat := ((g.copies[k]?).bind (·.signature)).elim 0 leNat
  let ts := ((g.copies.take 2).flatMap (·.tilesUsed)).eraseDups
  let now := s.nowNs
  let marks := (s.assured.disagree.filter fun d => now ≤ d.2 + 1000000000) ++ ts.map fun t => (t, now)
  let s1 := (s.setAssured { s.assured with disagree := marks, countDis := bump top32 s.assured.countDis }).record Code.safDisagree 0
    [g.job.toNat, sig 0, sig 1]
  let s2 := s1.modGraph g.job fun g => { g with deciding := true, disagreeNs := now }
  (ts.filter fun t => 3 ≤ (marks.filter (·.1 = t)).length).foldl State.tileOut s2

/-- The majority's tiles lose the mark of the graph's disagreement. -/
def State.clearMarks (s : State) (g : Graph) (copies : List Nat) : State :=
  let ts := (copies.filterMap (g.copies[·]?)).flatMap (·.tilesUsed)
  s.setAssured { s.assured with disagree := s.assured.disagree.filter fun d => !(d.2 == g.disagreeNs && ts.contains d.1) }

/-- A verdict that releases stands only while the lane releases. -/
def State.rule (s : State) (g : Graph) (v : Verdict) : State :=
  if s.assured.state = .active ∨ s.assured.state = .degraded then
    s.modGraph g.job fun g => { g with outcome := some .done, verdict := some v, degraded := s.assured.state == .degraded }
  else s.withhold g.job .laneSafe .done

/-- A graph that has passed its deadline without a verdict (17 R375): killed, late, nothing released. -/
def State.assuredLate (s : State) (job : Word) : State :=
  (s.withhold job .late .killed).captureDecision 1 0 0 4 0 job.toNat

/-- The third run: a copy of every task, those without predecessors ready. -/
def thirdCopy (g : Graph) (cycle : Nat) : GraphCopy :=
  let tasks := match g.copies with
    | c :: _ => c.tasks.map fun t =>
        let k := TaskSt.init t.desc
        if k.preds = 0 then taskReady k cycle else k
    | [] => []
  { tasks, tilesUsed := [], signature := none, startNs := 0, endNs := none, faulted := false, valid := [] }

/-- What the comparator does once another signature is known (DEDUCED, log 70). -/
def State.compare (s : State) (g : Graph) : State :=
  match g.copies with
  | [c0, c1] =>
    (match c0.signature, c1.signature with
     | some a, some b =>
       if s.deadlineDue g then s.assuredLate g.job
       else if a = b then s.rule g .released
       else
         let s1 := s.disagreement g
         let left := g.submitNs + g.hdr.deadlineUs * 1000 - s.nowNs
         if g.hdr.deadlineUs = 0 ∨ max (runNs c0) (runNs c1) ≤ left then
           (s1.modGraph g.job fun g => { g with copies := g.copies ++ [thirdCopy g s.clock.cycle] }).abortSegments
         else s1.withhold g.job .disagree .done
     | _, _ => s)
  | [c0, c1, c2] =>
    (match c2.signature with
     | none => s
     | some _ =>
       let agree (c : GraphCopy) : Bool := c.signature == c2.signature
       let won (k : Nat) (s : State) : State :=
         let s1 := (s.clearMarks g [k, 2]).setAssured
           { (s.clearMarks g [k, 2]).assured with countRec := bump top32 s.assured.countRec }
         (s1.record Code.safRecovered 0 [g.job.toNat, k]).rule g .recovered
       if s.deadlineDue g then s.assuredLate g.job
       else if agree c0 then won 0 s
       else if agree c1 then won 1 (if s.assured.state = .safe ∨ s.assured.state = .off then s else s.takeSinks g 1)
       else s.withhold g.job .disagree .done)
  | _ => s

/-- When every task of a copy has ended well its signature is formed; one that cannot be read in full has a free value. -/
def copySignature (job : Word) (copy : Fin 3) (s : State) : State :=
  match s.graph job with
  | none => s
  | some g =>
    match g.copies[copy.val]? with
    | none => s
    | some c =>
      if g.hdr.cls ≠ 2 ∨ g.outcome.isSome ∨ c.signature.isSome ∨ !(c.tasks.all (·.state == .done)) then s else
        let (bytes, bad) := s.sinkBytes g copy
        let (v, s1) := s.draw
        let sig := if bad then leBytes 4 v else leBytes 4 (crc32c bytes).toNat
        let s2 := (if bad then s1 else s).modGraph job fun g =>
          { g with copies := modAt g.copies copy.val fun c => { c with signature := some sig } }
        match s2.graph job with
        | some g' => s2.compare g'
        | none => s2

def execCopySignature (job : Word) (copy : Fin 3) (s : State) : Host.Outcome State Fault Refusal :=
  .next (copySignature job copy s)

end Sys2Proof.Machine
end

