-- ==== Sys2Proof/Machine/Admit.lean ====
section
/-! DEFINITION. Admission of graphs and batch steps (14 R311–R315, R331, R332, 17 R369, R370, 18 R398, R399, 19 R423). -/
namespace Sys2Proof.Machine

/-! ## Ranges: check 2 of 14 Table 3 -/

def between (lo hi n : Nat) : Bool := lo ≤ n && n ≤ hi

def hdrInRange (h : GraphHdr) : Bool :=
  h.kind == 2 && between 1 65536 h.nTasks && h.nTensors ≤ 65535 && between 1 2 h.cls && !h.rsvdBad && h.nSems ≤ 1024 &&
  aligned 128 h.taskTable && (h.batch || h.batchRecord == 0) && h.deadlineUs ≤ 10000000 && between 1 24 h.maxPolders &&
  h.spillPages ≤ 8

def taskInRange (h : GraphHdr) (k : Nat) (d : TaskDesc) : Bool :=
  d.taskId == k && !d.rsvdBad && between 1 h.maxPolders d.polders && d.nStage ≤ 256 && d.stage.all (· < h.nTensors) &&
  d.succ.all (· < h.nTasks) && between 1 1536 d.groupSize && d.rank < d.groupSize && (d.group != 0xFFFF || d.groupSize == 1) &&
  aligned 64 d.status && d.sems.all (· < 1024) && d.inTensor.all (· < h.nTensors) && d.outTensor.all (· < h.nTensors) &&
  d.credits ≤ 48 && (namedPeers d).all (fun p => p.2 < h.nTasks && p.2 != k) &&
  (if h.cls = 2 then between 1 10000000 d.deadlineUs else d.deadlineUs == 0)

def tensorInRange (h : GraphHdr) (x : Tensor) : Bool :=
  1 ≤ x.bytes && !x.rsvdBad && (x.remote || !x.accRemote) &&
  (if x.resident then x.polder < h.maxPolders && between 1 256 x.nSlots && x.firstSlot + x.nSlots ≤ 256 && x.bytes ≤ x.nSlots * 256
   else x.nSlots == 0)

/-- Tasks reached from a set along `next`, in at most `n` links. -/
def reach (next : Nat → List Nat) : Nat → List Nat → List Nat
  | 0, seen => seen
  | n + 1, seen =>
    let more := (seen.flatMap next).eraseDups.filter fun k => !seen.contains k
    if more.isEmpty then seen else reach next n (seen ++ more)

def succOf (ds : List TaskDesc) (k : Nat) : List Nat := ((ds[k]?).map (·.succ)).getD []
def peersOf (ds : List TaskDesc) (k : Nat) : List Nat := ((ds[k]?).map fun d => (namedPeers d).map (·.2)).getD []

/-- Peers in either direction. -/
def joinedTo (ds : List TaskDesc) (k : Nat) : List Nat :=
  peersOf ds k ++ (upTo ds.length).filter fun j => (peersOf ds j).contains k

def predsAgree (ds : List TaskDesc) : Bool :=
  ds.zipIdx.all fun e => e.1.predCount == ((ds.map fun d => (d.succ.filter (· = e.2)).length).foldl (· + ·) 0)

/-- No two tasks joined through peers are ordered by the successor lists. -/
def peersUnordered (ds : List TaskDesc) : Bool :=
  (upTo ds.length).all fun k =>
    let after := reach (succOf ds) ds.length [k]
    (reach (joinedTo ds) ds.length [k]).all fun j => j == k || !after.contains j

/-- No peer cycle of more than 32 tasks. -/
def peerCyclesSmall (ds : List TaskDesc) : Bool :=
  (upTo ds.length).all fun k =>
    ((reach (peersOf ds) ds.length [k]).filter fun j => (reach (peersOf ds) ds.length [j]).contains k).length ≤ 32

/-- The tensor table's rules of R314. -/
def tensorsMeet (h : GraphHdr) (ds : List TaskDesc) (xs : List Tensor) : Bool :=
  let res := xs.filter (·.resident)
  let window (p : Nat) : Nat :=
    let ys := res.filter fun x => x.polder == p && x.remote
    ys.foldl (fun a x => max a (x.firstSlot + x.nSlots)) 0 - (if ys.isEmpty then 0 else ys.foldl (fun a x => min a x.firstSlot) 256)
  (res.all fun x => res.all fun y => x.polder != y.polder || (x.tagged == y.tagged && (!x.remote || !y.remote || x.accRemote == y.accRemote))) &&
  (xs.zipIdx.all fun e => !e.1.remote || ds.any fun d => d.inbound && d.inTensor.contains e.2) &&
  Nat.ble (((upTo 24).map window).foldl (· + ·) 0) 256 &&
  (!(ds.any (·.inbound)) || decide (1 ≤ h.spillPages))

/-- The span of an assured graph: start and length (17 R369). -/
def spanOf (ds : List TaskDesc) (xs : List Tensor) : Nat × Nat :=
  let outs := (ds.flatMap (·.outTensor)).filterMap (xs[·]?)
  match outs with
  | [] => (0, 0)
  | y :: r =>
    let lo := r.foldl (fun a x => min a x.backing) y.backing / 0x10000 * 0x10000
    let hi := ceilDiv (outs.foldl (fun a x => max a (x.backing + x.bytes)) 0) 0x10000 * 0x10000
    (lo, hi - lo)

/-- No tensor outside every out_tensor overlaps the span (17 R370). -/
def spanClear (ds : List TaskDesc) (xs : List Tensor) : Bool :=
  let (lo, n) := spanOf ds xs
  xs.zipIdx.all fun e => ds.any (·.outTensor.contains e.2) || !(decide (e.1.backing < lo + n ∧ lo < e.1.backing + e.1.bytes))

/-- Do the successor lists form a cycle: does a task reach itself (check 4)? -/
def hasCycle (ds : List TaskDesc) : Bool :=
  (upTo ds.length).any fun k => (reach (succOf ds) ds.length (succOf ds k).eraseDups).contains k

/-! ## Batches (14 R331, R332) -/

/-- A batch record as read, with its step's joins (sequence, prompt) and leaves. -/
structure BatchRec where
  kvBase : Nat
  kvPages : Nat
  slots : Nat
  pageTokens : Nat
  seqTable : Nat
  stepList : Nat
  joins : List (Nat × Nat)
  leaves : List Nat
  rsvdBad : Bool

def State.readBatch (s : State) (a : Nat) : BatchRec :=
  let b := s.extRead a 64
  let f := field b
  let st := f 0x10 8
  let nj := s.extNat st 2
  let nl := s.extNat (st + 2) 2
  { kvBase := f 0 8, kvPages := f 8 4, slots := f 0xC 2, pageTokens := f 0xE 2, seqTable := f 0x18 8, stepList := st
    joins := (upTo nj).map fun i => (s.extNat (st + 8 + 8 * i) 4, s.extNat (st + 12 + 8 * i) 4)
    leaves := s.extList (st + 8 + 8 * nj) nl 4
    rsvdBad := f 0x20 32 != 0 || s.extNat (st + 4) 4 != 0 }

def batchInRange (r : BatchRec) : Bool :=
  aligned 0x10000 r.kvBase && between 1 1048576 r.kvPages && between 1 256 r.slots && between 1 4096 r.pageTokens && !r.rsvdBad

/-- Pages not in `used`, lowest first. -/
def takePages (total n : Nat) (used : List Nat) : List Nat := ((upTo total).filter fun p => !used.contains p).take n

def pagesUsed (ms : List Member) : List Nat := ms.flatMap (·.pages)

/-- Does a continuing member's next token need a page? -/
def grows (r : BatchRec) (m : Member) : Bool := !r.leaves.contains m.seq && m.len % r.pageTokens == 0

/-- Growth: each continuing member holds one token more, with a page where it needs one (the lowest free one, DESIGN CHOICE, log 35). -/
def growAll (r : BatchRec) : List Member → List Member → List Member
  | done, [] => done
  | done, m :: rest =>
    if r.leaves.contains m.seq then growAll r (done ++ [{ m with leaving := true }]) rest
    else
      let new := if grows r m then takePages r.kvPages 1 (pagesUsed (done ++ m :: rest)) else []
      growAll r (done ++ [{ m with len := m.len + 1, pages := m.pages ++ new }]) rest

/-- Joins in list order: members and refused sequences. -/
def joinAll (r : BatchRec) : List Member → List Nat → List (Nat × Nat) → List Member × List Nat
  | ms, bad, [] => (ms, bad)
  | ms, bad, (seq, prompt) :: rest =>
    let need := ceilDiv prompt r.pageTokens
    let pages := takePages r.kvPages need (pagesUsed ms)
    match (upTo r.slots).find? fun k => !(ms.any (·.slot = k)) with
    | some slot =>
      if pages.length = need then joinAll r (ms ++ [{ seq, len := prompt, pages, slot, leaving := false }]) bad rest
      else joinAll r ms (bad ++ [seq]) rest
    | none => joinAll r ms (bad ++ [seq]) rest

def membersOf (s : State) (r : BatchRec) : List Member :=
  match s.sched.batches.get none r.kvBase with
  | some b => b.members
  | none => []

/-- Check 8: a join of a member, one that joined earlier in the list included, or of a leaving sequence is out of range; growth that
finds no pages refuses the step. -/
def batchRefusal (s : State) (r : BatchRec) : Option Half :=
  let ms := membersOf s r
  let joined := (joinAll r (growAll r [] ms) [] r.joins).1
  if r.joins.any fun j => ms.any (·.seq = j.1) || r.leaves.contains j.1 || 1 < (joined.filter (·.seq = j.1)).length then
    some Code.admitRange
  else if r.kvPages < (pagesUsed ms).length + (ms.filter (grows r)).length then some Code.batchKvFull
  else none

/-- One entry of the sequence table; the page list's address is a free value (14 Table 6). -/
def State.seqEntry (s : State) (r : BatchRec) (m : Member) : State :=
  let a := r.seqTable + 16 * m.slot
  if m.leaving then s.extWrite a (leBytes 4 0)
  else
    let (v, s1) := s.draw
    s1.extWrite a (leBytes 4 m.seq ++ leBytes 4 m.len ++ leBytes 8 v)

/-- The step is applied: growth, leaves, joins; the refused joins. -/
def State.applyStep (s : State) (r : BatchRec) : State × List Nat :=
  let (ms, bad) := joinAll r (growAll r [] (membersOf s r)) [] r.joins
  let b : Batch := { kvBase := r.kvBase, kvPages := r.kvPages, slots := r.slots, pageTokens := r.pageTokens, seqTable := r.seqTable
                     members := ms, refused := bad }
  let s1 := s.setSched { s.sched with batches := s.sched.batches.set none r.kvBase (some b) }
  (ms.foldl (fun s m => s.seqEntry r m) s1, bad)

/-! ## Addresses, semaphores, credits, room: checks 3, 5, 6, 7 -/

/-- Does [a, a + n) lie in the inference domain; sealed only where it is the job's own sealed region? -/
def State.admitReach (s : State) (own : Option Nat) (a n : Nat) : Bool :=
  n == 0 || (s.extRange a n && (upTo ((a + n - 1) / 2 ^ 20 + 1 - a / 2 ^ 20)).all fun i =>
    match s.regionOf (max a ((a / 2 ^ 20 + i) * 2 ^ 20)) with
    | some (k, r) => r.domain == 1 && !r.changing && (!r.sealed || own == some k)
    | none => false)

/-- Every range a graph names. -/
def graphRanges (at' : Nat) (h : GraphHdr) (ds : List TaskDesc) (xs : List Tensor) (b : Option BatchRec) : List (Nat × Nat) :=
  [(at', 64), (h.taskTable, 128 * h.nTasks), (h.tensorTable, 32 * h.nTensors), (h.semList, 4 * h.nSems)] ++
  (ds.flatMap fun d => [(d.image, 0x20), (d.args, 128)] ++
    [(d.status, if d.stats then 192 else 64)]) ++
  xs.map (fun x => (x.backing, x.bytes)) ++
  (match b with
   | some r => [(h.batchRecord, 64), (r.kvBase, r.kvPages * 0x10000), (r.seqTable, 16 * r.slots),
                (r.stepList, 8 + 8 * r.joins.length + 4 * r.leaves.length)]
   | none => [])

/-- The stage and successor lists of the task table. -/
def State.listRanges (s : State) (h : GraphHdr) : List (Nat × Nat) :=
  (upTo h.nTasks).flatMap fun k =>
    let a := h.taskTable + 128 * k
    [(s.extNat (a + 0x18) 8, 2 * s.extNat (a + 0x20) 2), (s.extNat (a + 0x28) 8, 4 * s.extNat (a + 0x22) 2)]

def semsFree (s : State) (cls : Nat) (sems : List (Nat × Nat)) (ds : List TaskDesc) : Bool :=
  (sems.all fun e => (s.sem e.1).owner.toNat == cls && (s.sem e.1).claim.isNone) &&
  ds.all fun d => d.sems.all fun n => sems.any (·.1 = n)

/-- Free pages of a cluster cache: those neither allocated nor kept for spills. -/
def pagesLeft (c : ClusterSt) : Nat :=
  56 - ((c.pages.values.filter fun p => match p with | some x => !x.spill | none => false).length + c.spillReserved)

/-- Task entries the dispatch fabric holds. -/
def State.taskEntries (s : State) : Nat := (s.sched.graphs.map (·.hdr.nTasks)).foldl (· + ·) 0

/-- The lowest free place of `n` bytes in the twin pool, beside `taken`. -/
def twinPlace (lo hi n : Nat) (taken : List (Nat × Nat)) : Option Nat :=
  (((lo :: taken.map fun e => e.1 + e.2).filter fun a =>
    decide (lo ≤ a ∧ a + n ≤ hi) && taken.all fun e => decide (e.1 + e.2 ≤ a ∨ a + n ≤ e.1)).foldl
    (fun (m : Option Nat) a => match m with | none => some a | some b => some (min a b)) none)

/-- Two twin regions of the span's length in inference-domain HBM. -/
def State.twinRooms (s : State) (n : Nat) : Option (Nat × Nat) :=
  let a := s.assured
  let taken := a.twins.map fun e => (e.2.1, e.2.2)
  let hi := a.twinBase + a.twinSize * 0x10000
  (twinPlace a.twinBase hi n taken).bind fun t1 => (twinPlace a.twinBase hi n ((t1, n) :: taken)).bind fun t2 =>
    if t1 + n ≤ hbmSize ∧ t2 + n ≤ hbmSize ∧ s.admitReach none t1 n ∧ s.admitReach none t2 n then some (t1, t2) else none

/-! ## SUBMIT -/

/-- What admission has read and chosen. -/
structure Admission where
  hdr    : GraphHdr
  tasks  : List TaskDesc
  tensors : List Tensor
  sems   : List (Nat × Nat)
  batch  : Option BatchRec
  own    : Option Nat

/-- The tensor table with the port backings of a sealed model's job in place. -/
def withPorts (ports : List (Nat × Bool × Nat × Nat)) (addrs : List Nat) (xs : List Tensor) : List Tensor :=
  (ports.zipIdx).foldl (fun xs e => modAt xs e.1.2.2.1 fun x => { x with backing := addrs.getD e.2 0 }) xs

/-- Is the body itself in range (19 Table 6)? -/
def submitInRange (s : State) (b : SubmitBody) (nTasks : Nat) : Bool :=
  let slot := b.modelSlot.toNat
  if b.rsvd16 ≠ 0 then false
  else if slot = 255 then b.nPorts == 0 && b.dumpAddr == 0 && b.portAddr.all (· == 0)
  else match s.sec.slots.get none slot with
    | none => slot < 64
    | some k =>
      slot < 64 && b.nPorts.toNat == k.ports.length && (b.portAddr.drop k.ports.length).all (· == 0) &&
      s.inRegion .inference b.dumpAddr.toNat (2048 + 64 * nTasks)

/-- The checks of 14 Table 3 with those of 17 R370 and 18 R399, in order. Check 1's device state is the QCP row's. -/
def State.admission (s : State) (b : SubmitBody) : Admission ⊕ Half :=
  let a := b.graph.toNat
  let h := s.readGraphHdr a
  let slot := if b.modelSlot.toNat < 64 then s.sec.slots.get none b.modelSlot.toNat else none
  if !submitInRange s b h.nTasks then .inr Code.msgRange
  else if b.modelSlot.toNat < 64 && (match slot with | some k => k.job.isSome | none => true) then .inr Code.badState
  else if h.cls = 2 ∧ s.assured.state = .off then .inr Code.badState
  else if h.cls = 2 ∧ s.assured.state = .safe then .inr Code.safLaneSafe
  else if !hdrInRange h then .inr Code.admitRange
  else
    let ds := (upTo h.nTasks).map fun k => s.readTask (h.taskTable + 128 * k)
    let xs0 := (upTo h.nTensors).map fun k => s.readTensor (h.tensorTable + 32 * k)
    let xs := match slot with | some k => withPorts k.ports (b.portAddr.map (·.toNat)) xs0 | none => xs0
    let batch := if h.batch then some (s.readBatch h.batchRecord) else none
    let own := slot.map (·.region)
    match s.readSems h.semList h.nSems with
    | none => .inr Code.admitRange
    | some sems =>
      if !(ds.zipIdx.all fun e => taskInRange h e.2 e.1) ∨ !(xs.all (tensorInRange h)) ∨ !predsAgree ds ∨ !tensorsMeet h ds xs ∨
          !peersUnordered ds ∨ !peerCyclesSmall ds ∨ !((batch.map batchInRange).getD true) ∨ (h.cls = 2 ∧ !spanClear ds xs) then
        .inr Code.admitRange
      else if (match slot with
          | some k => k.ports.zipIdx.any fun p => !(s.inRegion .inference (b.portAddr.getD p.2 0).toNat p.1.2.2.2)
          | none => false) then .inr Code.admitRange
      else if !((graphRanges a h ds xs batch ++ s.listRanges h).all fun r => s.admitReach own r.1 r.2) then .inr Code.admitDomain
      else if hasCycle ds then .inr Code.admitCycle
      else if !semsFree s h.cls sems ds then .inr Code.admitSem
      else if ds.any fun d => (upTo 96).any fun t => shareOf (s.tile t) (if h.cls = 2 then .assured else .inference) < d.credits then
        .inr Code.admitCredit
      else if !((upTo 12).all fun c => h.spillPages ≤ pagesLeft (s.cluster c)) ∨ 131072 < s.taskEntries + h.nTasks ∨
          (h.cls = 2 ∧ (s.twinRooms (spanOf ds xs).2).isNone) then .inr Code.admitFull
      else match batch.bind (batchRefusal s) with
        | some c => .inr c
        | none => .inl { hdr := h, tasks := ds, tensors := xs, sems, batch, own }

def newTask (cycle : Nat) (d : TaskDesc) : TaskSt :=
  let k := TaskSt.init d
  if k.preds = 0 then taskReady k cycle else k

def newCopy (cycle : Nat) (ds : List TaskDesc) : GraphCopy :=
  { tasks := ds.map (newTask cycle), tilesUsed := [], signature := none, startNs := 0, endNs := none, faulted := false, valid := [] }

/-- A job number, in ascending order, never 0 (19 R423). -/
def State.takeJob (s : State) : Word × State :=
  let j := s.sched.nextJob
  (j, s.setSched { s.sched with nextJob := if j = 0xFFFFFFFF then 1 else j + 1 })

/-- An admitted graph takes its semaphores, spill pages, twin regions and slot, and its first tasks are ready. -/
def State.admitGraph (s : State) (h : QcpHdr) (b : SubmitBody) (a : Admission) : State × Word :=
  let (job, s1) := s.takeJob
  let (s2, refused) := match a.batch with
    | some r => s1.applyStep r
    | none => (s1, [])
  let s3 := a.sems.foldl (fun s e => s.setSem e.1 { (s.sem e.1) with count := e.2, claim := some (.job job) }) s2
  let s4 := (upTo 12).foldl (fun s c => s.setCluster c { (s.cluster c) with spillReserved := (s.cluster c).spillReserved + a.hdr.spillPages }) s3
  let span := spanOf a.tasks a.tensors
  let rooms := if a.hdr.cls = 2 then s.twinRooms span.2 else none
  let s5 := match rooms with
    | some (t1, t2) => s4.setAssured { s4.assured with twins := s4.assured.twins ++ [(job, t1, span.2), (job, t2, span.2)] }
    | none => s4
  let slotNo := b.modelSlot.toNat
  let s6 := if slotNo < 64 then s5.setSec { s5.sec with
      slots := s5.sec.slots.set none slotNo ((s5.sec.slots.get none slotNo).map fun k => { k with job := some job }) } else s5
  let cycle := s.clock.cycle
  let copies := if a.hdr.cls = 2 then [newCopy cycle a.tasks, newCopy cycle a.tasks] else [newCopy cycle a.tasks]
  let g : Graph :=
    { job, arrayJob := b.arrayJob, session := h.session.toNat, header := b.graph.toNat, hdr := a.hdr, seed := b.seed
      modelSlot := if slotNo < 64 then some (Fin.ofNat 64 slotNo) else none, ports := b.portAddr.map (·.toNat)
      dumpAddr := b.dumpAddr.toNat, tensors := a.tensors, sems := a.sems, copies, batch := a.batch.map (·.kvBase), refused
      submitNs := s.nowNs, late := false, outcome := none, faultTask := 0, faultCode := 0, verdict := none, degraded := false
      deciding := false, disagreeNs := 0
      patches := match rooms with | some (t1, t2) => [span, (t1, 0), (t2, 0)] | none => [] }
  ((s6.setSched { s6.sched with graphs := s6.sched.graphs ++ [g] }).abortSegments, job)

def submitBody (h : QcpHdr) (b : SubmitBody) (s : State) : State × Answer :=
  match s.admission b with
  | .inr c => (s, .err c)
  | .inl a =>
    let (s1, job) := s.admitGraph h b a
    (if b.modelSlot.toNat < 64 then s1 else s1.tracePoint 80 96, .now Code.ok (.nums [job.toNat]))

def execSubmit (h : QcpHdr) (b : SubmitBody) (s : State) : Host.Outcome State Fault Refusal :=
  .next (serve s h { role := .operate, legal := [.running] } (submitBody h b))

end Sys2Proof.Machine
end

