-- ==== Sys2Proof/Machine/Array.lean ====
section
/-! DEFINITION. Arrays of devices: shape, admission, flits received, forwarding, remote writes, credits and signals, time from the
array master (15, 18 R401). -/
namespace Sys2Proof.Machine

namespace Ob
def linkDown : Half := 0x1401
def topology : Half := 0x1402
end Ob

/-! ## Links going down (15 R340, R349, Table 5) -/

/-- A device whose link to its parent is down keeps its own time. -/
def State.parentLost (s : State) (k : Nat) : State :=
  if s.follows ∧ s.parentLink = some k then
    ((s.setArray { s.array with timeLost := true }).record Code.arrayTimeLost k []).holdover
  else s

/-- A link goes down: each task with a transfer on it faults; nothing of it is kept but its count (DEDUCED, log 68). -/
def State.linkFalls (s : State) (k : Nat) : State :=
  let l := s.link k
  let tiles := ((l.replay ++ l.queue).map (·.1)).eraseDups.filter (· < 96)
  let s1 := s.setLink k { Link.init with state := .down, neighbour := l.neighbour, replays := l.replays }
  let s2 := tiles.foldl (fun s t => if (s.tile t).state = .running then s.taskFault t Ob.linkDown streamSlot false else s) s1
  s2.parentLost k

def State.linkDown (s : State) (k : Nat) : State := (s.linkFalls k).record Ob.linkDown k []

/-! ## ARRAY_CONFIG and admission (15 R336, R338, 18 R401) -/

/-- Is a link used: does its dimension hold more than one device? -/
def usedLink (nx ny link : Nat) : Bool := if link % 2 = 1 then nx != 1 else ny != 1

/-- A link that trains draws its random value and sends the identity message (15 R338, 18 R401). -/
def State.sendIdentity (s0 : State) (k : Nat) : State :=
  let v := s0.draw
  let s := v.2.setLink k { v.2.link k with random := leBytes 32 v.1 }
  s.emit (.linkIdentity (Fin.ofNat 4 k) s.devNumber s.array.nx s.array.ny s.sec.fuses.serial)

def arrayConfigBody (nx ny x y master : Nat) (s : State) : State × Answer :=
  if !([1, 2, 4].contains nx) ∨ !([1, 2, 4].contains ny) ∨ nx ≤ x ∨ ny ≤ y ∨ nx * ny ≤ master then (s, .err Code.msgRange)
  else
    let link (k : Nat) : Link :=
      if usedLink nx ny k then { Link.init with state := .training, sinceNs := s.nowNs, replays := (s.link k).replays }
      else { Link.init with replays := (s.link k).replays }
    let s1 := s.setArray { s.array with nx, ny, x, y, master, configured := true, links := (upTo 4).map link, keys := master == y * nx + x,
                                        partials := [], waiting := [], via := .empty, ivs := .empty, timeLost := false }
    let s2 := (upTo 4).foldl (fun s k => if usedLink nx ny k then (s.wakeDomain (132 + k)).sendIdentity k else s.setPowerOf (132 + k) .off) s1
    (if s2.follows then s2.setTime (reIncr { s2.time with source := 10, mode := 1, nextMode := none, freqRef := 14 }) else s2, .ok)

def execArrayConfig (h : QcpHdr) (nx : Byte) (ny : Byte) (x : Byte) (y : Byte) (master : Byte) (s : State) :
    Host.Outcome State Fault Refusal :=
  .next (serve s h { role := .admin, legal := [.started] }
    (arrayConfigBody nx.toNat ny.toNat x.toNat y.toNat master.toNat))

/-- Does the certificate name the neighbour's serial and key, of a device of this stepping, and its signature cover both random values
(18 R394, R401)? -/
def State.authentic (s : State) (k : Nat) (i : LinkIdentity) : Bool :=
  Config.rsaVerify Config.certificationKey (leBytes 8 i.serial.toNat ++ leBytes 4 0xB0 ++ Config.sha256 i.modulus) i.cert &&
  Config.rsaVerify i.modulus (Config.bothRandoms (s.link k).random i.random) i.sig

/-- Do shape, number and authentication of a neighbour hold? -/
def State.neighbourOk (s : State) (k : Nat) (i : LinkIdentity) : Bool :=
  let a := s.array
  i.nx.toNat == a.nx && i.ny.toNat == a.ny && i.device.toNat == neighbourOf a.nx a.ny a.x a.y k && s.authentic k i &&
  some i.measure == s.host.bundle.map (·.measure) && some i.opRsa == s.sec.fuses.opRsa && i.sealed && s.sec.lifecycle == .sealed

/-- Flits of the replay buffer are sent again, from the oldest not accepted. The link goes down where the oldest has been
replayed 16 times, or where more than 1,000 replays fall within 1 ms (15 R340). -/
def State.replayLink (s : State) (k : Nat) : State :=
  let l := s.link k
  if l.replay.isEmpty then s
  else if 16 ≤ l.tries then s.linkDown k
  else
    let n := l.replay.length
    let recent := (l.recent.filter fun r => s.nowNs < r.1 + 1000000) ++ [(s.nowNs, n)]
    let s1 := s.setLink k { l with replays := bumpBy top32 l.replays n, tries := l.tries + 1, recent }
    let s2 := l.replay.foldl (fun s p => s.emit (.flit (Fin.ofNat 4 k) p.2)) s1
    let total : Nat := (recent.map (·.2)).sum
    if 1000 < total then s2.linkDown k else s2

/-- A trained link is admitted, or held down. -/
def linkAdmit (k : Nat) (i : LinkIdentity) (s : State) : State :=
  let l := s.link k
  if l.state ≠ .training then s
  else
    let l1 := { l with neighbour := i.device.toNat % 16 }
    if s.neighbourOk k i then
      let s1 := s.setLink k { l1 with state := .admitted, keyed := true }
      let s2 := if s.parentLink = some k then s1.setArray { s1.array with keys := true, timeLost := false } else s1
      (s2.replayLink k).flushLink k 512
    else (s.setLink k { l1 with state := .down }).record Ob.topology k []

def execLinkAdmission (link : Fin 4) (ident : LinkIdentity) (s : State) : Host.Outcome State Fault Refusal :=
  .next (linkAdmit link.val ident s)

/-- 250 ms after acceptance a link not admitted is reported down. -/
def admitTimeout (k : Nat) (s : State) : State :=
  let l := s.link k
  if l.state = .training ∧ l.sinceNs + 250000000 ≤ s.nowNs then s.linkFalls k else s

def execLinkAdmitTimeout (link : Fin 4) (s : State) : Host.Outcome State Fault Refusal := .next (admitTimeout link.val s)

/-- RETRAIN: admission runs again; what is unacknowledged is sent again once the link is admitted. -/
def retrain (k : Nat) (s : State) : State :=
  if (s.link k).state = .unused then s
  else
    (s.setLink k { (s.link k) with state := .training, sinceNs := s.nowNs, keyed := false }).sendIdentity k

def execRetrain (link : Fin 4) (s : State) : Host.Outcome State Fault Refusal := .next (retrain link.val s)

/-! ## Messages delivered (15 R345–R347) -/

/-- Bytes with masks of a write message: values, then masks (log 19). -/
def maskedData (b : List Byte) : List (Byte × Byte) :=
  let d := (b.drop 16).take (field b 6 2)
  (d.take (d.length / 2)).zip (d.drop (d.length / 2))

/-- The class of a message; class codes as the link carries them. -/
def classOfFlit (f : Flit) : JobClass := if f.cls = 1 then .assured else .inference

/-- A write from another device: into the window of the tile that runs the inbound task, under its credit; or into memory of the
inference domain, checked against what is installed and the region table here (13 R289, R306). A write for a clear entry is one for a revoked credit: it is discarded (12 R281) (DEDUCED, log 68). -/
def State.farWrite (s : State) (f : Flit) (b : List Byte) : State :=
  let a := field b 0 6
  let bs := maskedData b
  let job := field b 10 4
  let src := f.src.toNat
  let w : Writer := .device (Fin.ofNat 16 src) (field b 8 1)
  if isTileAddr a then
    match s.array.inbound.get none (job * 128 + (a - tileBase) / 0x200000 % 128) with
    | none => s
    | some t =>
      let off := (a - tileBase) % 0x200000
      let acc := (s.tile t.val).credits.any fun c => c.writer == w && c.acc && creditSlot c == off / 256
      s.remoteStore t.val { off, bytes := bs, acc, closing := field b 9 1 % 2 == 1, writer := w }
  else
    let tell (code : Half) (s : State) : State :=
      s.tellDevice 4 (classOfFlit f) (BitVec.ofNat 32 job) src (field b 8 1) a code.toNat
    if !s.extRange a bs.length then tell Code.addrUnmapped s
    else if !s.domainOk .inference a bs.length then tell (Code.til 0x72) s
    else
      let s1 := s.extMerge a bs
      if s.mergeBad a bs.length then tell (Code.til 0x78) s1 else s1

/-- A credit request from another device: decided by the tile's sluice, or waiting until its entry names a tile. -/
def State.farAsk (s : State) (f : Flit) : State :=
  let b := f.payload
  let job := field b 10 4
  match s.array.inbound.get none (job * 128 + field b 0 6 / 0x200000 % 128) with
  | some t => s.creditAsk t.val (farRequest f (BitVec.ofNat 32 job))
  | none => s.setArray { s.array with waiting := s.array.waiting ++ [f] }

/-- A grant reaches the stream of the tile that asked. -/
def grantStream (slot : Nat) (st : StreamSt) : StreamSt :=
  if st.asked.contains slot then { st with asked := st.asked.erase slot, granted := slot :: st.granted } else st

def revokeStream (slot : Nat) (st : StreamSt) : StreamSt :=
  resendSlot slot { st with asked := st.asked.erase slot, granted := st.granted.erase slot }

def mapStreams (f : StreamSt → StreamSt) (b : TileBody) : TileBody :=
  (upTo 4).foldl (fun b i => { b with streams := b.streams.set StreamSt.init (4 + i) (f (b.streams.get StreamSt.init (4 + i))) }) b

def State.farTold (s : State) (kind : Nat) (b : List Byte) : State :=
  let t := field b 16 1 % 96
  let slot := field b 0 6 / 256
  let code := field b 17 2
  let mine := (s.tile t).pjob == BitVec.ofNat 32 (field b 10 4)
  if kind = 3 then (if mine then s.modBody t (mapStreams (grantStream slot)) else s)
  else if code = 0 then (if mine then s.modBody t (mapStreams (revokeStream slot)) else s)
  else if (s.tile t).state = .running then s.taskFault t (BitVec.ofNat 16 code) streamSlot false
  else s

/-- A signal of a reduction level: the receiving rank's semaphore, once its data has landed (the order of the link). -/
def State.farSignal (s : State) (b : List Byte) : State :=
  let job := BitVec.ofNat 32 (field b 10 4)
  let group := field b 16 2
  let rank := field b 18 2
  match s.sched.graphs.find? (·.arrayJob = job) with
  | none => s
  | some g =>
    match (g.copies[0]?).bind fun c => c.tasks.find? fun k => k.desc.group = group && k.desc.rank = rank with
    | none => s
    | some k =>
      let tr : Transfer := { job := g.job, copy := 0, group, rank, level := field b 20 2, op := field b 22 1, ty := field b 23 1,
                             count := field b 24 4 }
      let s1 := s.setSched { s.sched with transfers := s.sched.transfers ++ [tr] }
      match rankSem k.desc with
      | some n => (s1.semSignal n).1
      | none => s1

def State.farMessage (s : State) (f : Flit) (b : List Byte) : State :=
  match f.kind.toNat with
  | 1 => s.farWrite f b
  | 2 => s.farAsk { f with payload := b }
  | 3 => s.farTold 3 b
  | 4 => s.farTold 4 b
  | 5 => s.farSignal b
  | _ => s

/-! ## FLIT_RECEIVE (15 R339, R340, R342) -/

/-- Flits of one message: those of one class and channel, source and destination. -/
def sameMessage (f g : Flit) : Bool := f.cls == g.cls && f.vc == g.vc && f.kind == g.kind && f.src == g.src && f.dst == g.dst

/-- A flit for this device joins its message; the last one delivers it, if its tag verifies (DEDUCED, log 68). -/
def State.joinFlit (s : State) (k : Nat) (f : Flit) (auth : Bool) : State :=
  let ps := if f.first then s.array.partials.filter (fun g => !sameMessage f g) ++ [f] else s.array.partials ++ [f]
  if !f.last then s.setArray { s.array with partials := ps }
  else
    let b := ((ps.filter (sameMessage f)).map (·.payload)).flatten
    let s1 := s.setArray { s.array with partials := ps.filter fun g => !sameMessage f g }
    if auth then (s1.countIv f.src.toNat f.dst.toNat f.cls.toNat).farMessage f b else (s1.linkFalls k).record Code.obAuth k []

/-- A flit for another device goes on by the route of its message, undecrypted; its vc changes at the dateline. -/
def State.forward (s : State) (k : Nat) (f : Flit) : State :=
  let a := s.array
  let key := (((k * 4 + f.cls.toNat) * 2 + (if f.vc then 1 else 0)) * 16 + f.src.toNat) * 16 + f.dst.toNat
  let out := if f.first then s.routeLink f.dst.toNat (field f.payload 8 1) else a.via.get 0 key - 1
  let s1 := s.setArray { a with via := a.via.set 0 key (if f.last then 0 else out + 1) }
  s1.sendFlit out 256 { f with vc := f.vc || wrapLink a.nx a.ny a.x a.y out }

/-- An acknowledgement frees the replay entries before it. -/
def freeAcked (ack : Half) (l : Link) : Link :=
  let rest := l.replay.filter fun p => 32768 ≤ (ack - p.2.seq - 1).toNat
  { l with replay := rest, tries := if rest.length = l.replay.length then l.tries else 0 }

/-- Is a flit accepted: codeword, CRC and sequence number good, and its header as 15 Table 3 has it? -/
def flitGood (l : Link) (f : Flit) (c : FlitCheck) : Bool :=
  c.fec && c.crc && f.seq.toNat == l.expect && f.cls != 3 && decide (f.kind.toNat ≤ 8) && f.rsvd == 0

/-- A flit arrives. Time, reset and identity flits act by the commands of their own rows. -/
def flitReceive (k : Nat) (f : Flit) (c : FlitCheck) (s : State) : State :=
  let l := s.link k
  if l.state ≠ .admitted then s
  else if !flitGood l f c then s.emit (.nak (Fin.ofNat 4 k) l.expect)
  else
    let s1 := s.setLink k (freeAcked f.ack { l with expect := (l.expect + 1) % 65536 })
    let s2 := if f.nak then s1.replayLink k else s1.flushLink k 512
    if f.kind.toNat = 0 ∨ 6 ≤ f.kind.toNat then s2
    else if f.dst.toNat = s.devNumber then s2.joinFlit k f c.auth
    else if s.devInShape f.dst.toNat then s2.forward k f
    else s2

def execFlitReceive (link : Fin 4) (f : Flit) (chk : FlitCheck) (s : State) : Host.Outcome State Fault Refusal :=
  .next (flitReceive link.val f chk s)

/-! ## Time from the array master (15 R349) -/

/-- The exchange on a link: this device sends its time, and takes the offset of its parent's message, unless replayed. -/
def arrayTime (k : Nat) (theta : Int) (replayed : Bool) (s : State) : State :=
  if (s.link k).state ≠ .admitted then s
  else
    let s1 := s.emit (.linkTime (Fin.ofNat 4 k) s.nowSec s.nowSub)
    if s.follows ∧ s.parentLink = some k ∧ !replayed ∧ s.time.source = 10 then s1.offset theta else s1

def execArrayTimeMessage (link : Fin 4) (theta : Int) (replayed : Bool) (s : State) : Host.Outcome State Fault Refusal :=
  .next (arrayTime link.val theta replayed s)

end Sys2Proof.Machine
end

