-- ==== Sys2Proof/Machine/Cell.lean ====
section
/-! DEFINITION. Cell configuration: the records of CELL_CONFIG, their checks, and when they take effect (02 R28, R29, R54;
03 R67, R86; 21 R458). -/
namespace Sys2Proof.Machine

/-! ## Ranges (02 Table 2, 03 Table 2) -/

def numerologyOk (mu n cell : Nat) : Bool :=
  (mu == 1 && decide (1 ≤ n ∧ n ≤ 273 ∧ cell ≤ 7)) || (mu == 3 && decide (1 ≤ n ∧ n ≤ 264 ∧ cell ≤ 3))

def widthOk (w : Nat) : Bool := [8, 9, 12, 14].contains w

/-- The HARQ pool of a record: base and size. -/
def poolOf (u : UlCell) : Nat × Nat := (u.harqPoolBase.toNat, u.harqPoolPages.toNat * 0x8000)

def ulCellOk (u : UlCell) : Bool :=
  let le (a b : Nat) : Bool := decide (a ≤ b)
  le u.pci.toNat 1007 && numerologyOk u.mu.toNat u.nPrb.toNat u.cellIndex.toNat && le 1 u.nRx.toNat && le u.nRx.toNat 16 &&
  le 1 u.maxLayers.toNat && le u.maxLayers.toNat 8 && le u.gridEngine.toNat 3 && le u.decoderBank.toNat 3 &&
  le u.rxMode.toNat 2 && le u.fallbackRank.toNat 7 && widthOk u.iqWidth.toNat && le u.resultPort.toNat 7 &&
  aligned 0x8000 u.harqPoolBase.toNat && le 1 u.harqPoolPages.toNat && le u.harqPoolPages.toNat 262144 &&
  le 1 u.ldpcMaxIter.toNat && le u.ldpcMaxIter.toNat 32 && le u.msOffset.toNat 31 && [1, 2, 4, 8].contains u.polarList.toNat && u.rsvd1f == 0 && u.rsvd20 == 0

def dlCellOk (d : DlCell) : Bool :=
  let le (a b : Nat) : Bool := decide (a ≤ b)
  let wide := d.mu.toNat == 1
  le d.pci.toNat 1007 && numerologyOk d.mu.toNat d.nPrb.toNat d.cellIndex.toNat && le 1 d.nTx.toNat &&
  le d.nTx.toNat (if wide then 16 else 8) && le 1 d.maxLayers.toNat && le d.maxLayers.toNat (if wide then 8 else 4) &&
  le d.gridEngine.toNat 3 && le d.decoderBank.toNat 3 && le d.precodePlace.toNat 1 && le d.compMethod.toNat 1 &&
  (d.compMethod == 0 || d.precodePlace == 1) && widthOk d.iqWidth.toNat && le 1 d.srsMaxAge.toNat && le d.srsMaxAge.toNat 80 &&
  le 20000 d.t1aMaxNs.toNat && le d.t1aMaxNs.toNat 1000000 && le (d.t1aMinNs.toNat + 40000) d.t1aMaxNs.toNat &&
  le d.tcpAdvNs.toNat 200000 && (!wide || le d.ssbBitmap.toNat 255) && le (d.ssbPrbOffset.toNat + 20) d.nPrb.toNat &&
  le d.ssbPeriod.toNat 5 && (if wide then le d.ssbCase.toNat 1 else d.ssbCase.toNat == 2) &&
  le d.kSsb.toNat (if wide then 23 else 11) && d.bcastPhase.length == 16 && decide (d.mib.toNat < 2 ^ 24) && d.ssbRsvd == 0 && d.rsvd3c == 0

/-! ## Capacity -/

/-- The records a cell has, or will have from the next frame. -/
def State.cellRecords (s : State) (except : Nat) : List (UlCell × DlCell) :=
  (upTo 8).filterMap fun c =>
    if c = except then none else
      let x := s.cell c
      match x.pending, x.ul, x.dl with
      | some p, _, _ => some p
      | none, some u, some d => some (u, d)
      | none, _, _ => none

/-- The share of an engine or bank that a cell of a numerology takes, in halves: two cells at μ = 1, one at μ = 3. -/
def loadOf (mu : Byte) : Nat := if mu = 3 then 2 else 1

/-- Would a unit serve more than its load? `pick` gives the unit and the numerology of each record. -/
def overloaded (rs : List (UlCell × DlCell)) (pick : UlCell × DlCell → Byte × Byte) : Bool :=
  rs.any fun r => 2 < ((rs.filter fun q => (pick q).1 = (pick r).1).map fun q => loadOf (pick q).2).foldl (· + ·) 0

def State.cellOver (s : State) (cell : Nat) (u : UlCell) (d : DlCell) : Bool :=
  let rs := (u, d) :: s.cellRecords cell
  overloaded rs (fun r => (r.1.gridEngine, r.1.mu)) || overloaded rs (fun r => (r.1.decoderBank, r.1.mu)) ||
  overloaded rs (fun r => (r.2.gridEngine, r.2.mu)) || overloaded rs (fun r => (r.2.decoderBank, r.2.mu)) ||
  (u.mu == 3 && (decide (8 < u.nRx.toNat) || decide (4 < u.maxLayers.toNat))) ||
  (s.harqPools cell).any (rangesMeet (poolOf u)) || s.rst.heldRadio ||
  [108 + u.gridEngine.toNat, 108 + d.gridEngine.toNat, 112 + u.decoderBank.toNat, 112 + d.decoderBank.toNat].any s.rst.held.contains

/-! ## Taking effect -/

/-- Grid engines and decoder banks named by a record: their power domains. -/
def radioDomains (r : UlCell × DlCell) : List Nat :=
  [108 + r.1.gridEngine.toNat, 112 + r.1.decoderBank.toNat, 108 + r.2.gridEngine.toNat, 112 + r.2.decoderBank.toNat]

/-- Engines and banks are on while a configured cell names them, and retained when their last cell is removed. -/
def State.radioPower (s : State) : State :=
  let used := (upTo 8).flatMap fun c =>
    match (s.cell c).ul, (s.cell c).dl with
    | some u, some d => radioDomains (u, d)
    | _, _ => []
  (upTo 8).foldl (fun s i =>
    let d := 108 + i
    if used.contains d then s.wakeDomain d
    else match s.powerOf d with
      | .on | .waking => s.setPowerOf d .retain
      | _ => s) s

/-- Records take effect on a cell; a change of shape takes its adaptation set to OFF (05 R141). -/
def State.cellApply (s : State) (cell : Nat) (u : UlCell) (d : DlCell) : State :=
  let c := s.cell cell
  let s1 := (s.setCell cell { c with ul := some u, dl := some d, pending := none }).radioPower
  match c.ul with
  | some o => if o.mu ≠ u.mu ∨ o.nRx ≠ u.nRx ∨ o.maxLayers ≠ u.maxLayers then s1.shapeOff cell else s1
  | none => s1

/-- At a frame boundary, a pending pair of records takes effect; that of berm service waits for LOCKED (22 R483). -/
def cellBoundary (cell : Nat) (s : State) : State :=
  match (s.cell cell).pending with
  | some (u, d) => if s.host.bermPending then s else s.cellApply cell u d
  | none => s

/-- CELL_CONFIG; a pair of records that name two cells is out of range (DEDUCED, log 29). -/
def cellConfigBody (u : UlCell) (d : DlCell) (s : State) : State × Answer :=
  let n := u.cellIndex.toNat
  if !ulCellOk u ∨ !dlCellOk d ∨ d.cellIndex ≠ u.cellIndex ∨ !s.inRegion .radio (poolOf u).1 (poolOf u).2 ∨
      hbmSize < (poolOf u).1 + (poolOf u).2 then (s, .err Code.cfgRange)
  else if s.cellOver n u d then (s, .err Code.cfgCapacity)
  else if (s.cell n).ul.isNone then (s.cellApply n u d, .ok)
  else (s.modCell n fun c => { c with pending := some (u, d) }, .ok)

def execCellConfig (h : QcpHdr) (ul : UlCell) (dl : DlCell) (s : State) : Host.Outcome State Fault Refusal :=
  .next (serve s h { role := .operate, legal := [.running] } (cellConfigBody ul dl))

/-! ## The record a slot is served under -/

/-- Does a slot lie in a later frame than the present one? -/
def State.nextFrame (s : State) (mu slot : Nat) : Bool := decide (s.frameNow < slot * slotNs mu / 10000000)

def State.recordsFor (s : State) (cell slot : Nat) : Option (UlCell × DlCell) :=
  let c := s.cell cell
  let now := match c.ul, c.dl with
    | some u, some d => some (u, d)
    | _, _ => none
  match c.pending with
  | some p => if s.nextFrame p.1.mu.toNat slot then some p else now
  | none => now

end Sys2Proof.Machine
end

