-- ==== Sys2Proof/Machine/CspOps.lean ====
section
/-! DEFINITION. The cluster signal processor's shared operations: arithmetic, data memory and its deferred writes, bundles,
repeats, loops, interrupts and faults (10 R219–R238). -/
namespace Sys2Proof.Machine

/-! ## Arithmetic (10 R225, R226, R231) -/

/-- The two signed 16-bit parts of a word: real in [15:0]. -/
def partRe (w : Word) : Int := signedOf 16 w.toNat
def partIm (w : Word) : Int := signedOf 16 (w.toNat / 65536)

/-- Saturation to `w` bits, and whether it took place. -/
def satTo (w : Nat) (v : Int) : Int × Bool := (satInt w v, satInt w v != v)

/-- Complex product of two words, the second conjugated or not, negated or not: exact parts. -/
def cmulParts (a b : Word) (conj neg : Bool) : Int × Int :=
  let bi := if conj then -(partIm b) else partIm b
  let pr := partRe a * partRe b - partIm a * bi
  let pi := partRe a * bi + partIm a * partRe b
  if neg then (-pr, -pi) else (pr, pi)

/-- Two parts packed in a word. -/
def packParts (re im : Int) : Word := BitVec.ofNat 32 ((BitVec.ofInt 16 re).toNat + 65536 * (BitVec.ofInt 16 im).toNat)

def accAdd (x : CspAcc) (p : Int × Int) : CspAcc × Bool :=
  let a := satTo 40 (x.re.toInt + p.1)
  let b := satTo 40 (x.im.toInt + p.2)
  ({ re := BitVec.ofInt 40 a.1, im := BitVec.ofInt 40 b.1 }, a.2 || b.2)

/-- RCPN: exponent and normalised reciprocal, and whether the operand was 0. -/
def rcpnOf (a : Word) : Word × Bool :=
  if a = 0 then (0, true)
  else
    let p := a.toNat.log2
    let r := rhuDiv (2 ^ (p + 15)) a.toNat
    (BitVec.ofNat 32 (r.toNat * 65536 + p), false)

/-! ## Registers -/

def cD (k : CspCore) (i : CspD) : Word := k.d.get 0 i.val
def setD (k : CspCore) (i : Nat) (v : Word) : CspCore := { k with d := k.d.set 0 i v }
def cI (k : CspCore) (i : CspI) : BitVec 18 := k.i.get 0 i.val
def setI (k : CspCore) (i : CspI) (v : BitVec 18) : CspCore := { k with i := k.i.set 0 i.val v }
def cM (k : CspCore) (m : CspM) : BitVec 18 := k.m.get 0 m.val
def cAcc (k : CspCore) (a : CspA) : CspAcc := k.acc.get CspAcc.init a.val
def putAcc (k : CspCore) (a : CspA) (v : CspAcc) : CspCore := { k with acc := k.acc.set CspAcc.init a.val v }
/-- A sticky saturation. -/
def raiseSat (k : CspCore) (f : Bool) : CspCore := { k with st := { k.st with sat := k.st.sat || f } }
/-- The operand `(i)` is post-modified by its modifier, both as the operation read them in `r`. -/
def postMod (r k : CspCore) (x : CspMem) : CspCore := setI k x.i (cI r x.i + cM r x.m)

/-! ## Encoding (10 R227, Table 3) -/

/-- A field of a slot word: its lowest bit and width. -/
def cf (w lo n : Nat) : Nat := w / 2 ^ lo % 2 ^ n

/-- Does a slot word hold an operation: the opcode in [31:26] and its fields, as lowest bit, width and value? -/
def slotIs (op : Nat) (fs : List (Nat × Nat × Nat)) (w : Nat) : Bool := cf w 26 6 == op && fs.all fun f => cf w f.1 f.2.1 == f.2.2

/-- May an M-slot word be issued: NOP, or an operation of Table 4 with its reserved fields 0 and its fields inside their values? -/
def mWordOk (w : Nat) : Bool :=
  let op := cf w 26 6
  if op = 0 then true
  else if [1, 3, 5, 6, 7].contains op then cf w 0 4 == 0 && cf w 10 2 != 3 && (op != 7 || decide (cf w 4 6 ≤ 24))
  else if [2, 8, 10].contains op then cf w 0 7 == 0 && (op != 8 || decide (cf w 10 6 ≤ 47))
  else if op = 4 then cf w 24 2 == 0 && cf w 0 10 == 0
  else op == 9 && cf w 0 7 == 0 && decide (cf w 8 6 ≤ 31)

/-- May an X-slot word be issued? Bits that an XC operation gives no field to are reserved (DEDUCED, log 101). -/
def xWordOk (w : Nat) : Bool :=
  let op := cf w 26 6
  let none2 := cf w 12 5 == 0
  match op with
  | 0x00 | 0x10 | 0x11 | 0x16 => true
  | 0x12 => cf w 0 11 == 0 && none2 && (cf w 11 1 == 0 || cf w 22 1 == 0)
  | 0x13 => cf w 0 11 == 0 && (cf w 11 1 == 1 || none2)
  | 0x14 => decide (cf w 0 4 ≤ 10)
  | 0x15 => if cf w 13 1 = 0 then decide (cf w 22 4 < 8) else decide (cf w 22 4 < 4)
  | 0x18 => cf w 16 4 == 0
  | 0x19 => cf w 10 12 == 0 && cf w 0 10 != 0
  | 0x1A => cf w 12 7 == 0 && decide (cf w 19 3 ≤ 4)
  | 0x1B => cf w 12 13 == 0 && (cf w 25 1 == 0 || cf w 0 12 == 0)
  | 0x1C => cf w 0 26 == 0
  | 0x1D => cf w 0 22 == 0
  | 0x1E => cf w 8 18 == 0
  | 0x1F => cf w 4 22 == 0
  | 0x20 => cf w 2 24 == 0 && cf w 0 2 != 3
  | _ => false

/-- The bundle at an address of program memory. -/
def bundleAt (x : Csp) (pc : BitVec 12) : Nat := (x.prog.get 0 pc.toNat).toNat

def bundleOk (b : Nat) : Bool := mWordOk (b % 2 ^ 32) && xWordOk (b / 2 ^ 32)

/-- Fields of the formats that more than one operation has. -/
def mmFields (acc : CspA) (a : CspMem) : List (Nat × Nat × Nat) := [(24, 2, acc.val), (21, 3, a.i.val), (19, 2, a.m.val)]
def mmSecond (b : CspMem) : List (Nat × Nat × Nat) := [(16, 3, b.i.val), (14, 2, b.m.val)]
def flagField (lo : Nat) (b : Bool) : Nat × Nat × Nat := (lo, 1, if b then 1 else 0)
def xaFields (dst : Nat) (a : CspD) : List (Nat × Nat × Nat) := [(22, 4, dst), (18, 4, a.val)]
def xmFields (d : CspD) (a : CspMem) (wide : Bool) : List (Nat × Nat × Nat) := [(22, 4, d.val), (19, 3, a.i.val), (17, 2, a.m.val), flagField 11 wide]

/-- The slot word of an operation that RPT may repeat. -/
def repIs : CspRep → Nat → Bool
  | .cmac acc a b conj neg => slotIs 1 (mmFields acc a ++ mmSecond b ++ [flagField 13 conj, flagField 12 neg])
  | .cmacr acc a b conj neg => slotIs 2 [(24, 2, acc.val), (20, 4, a.val), (16, 4, b.val), flagField 9 conj, flagField 8 neg]
  | .ftap acc a conj neg mv => slotIs 3 (mmFields acc a ++ [flagField 13 conj, flagField 12 neg, (10, 2, mv.toNat)])
  | .tupd a dq dh neg => slotIs 4 [(21, 3, a.i.val), (19, 2, a.m.val), (15, 4, dq.val), (11, 4, dh.val), flagField 10 neg]
  | .tcopy a b => slotIs 5 ((mmFields 0 a).drop 1 ++ mmSecond b)
  | .cpow acc a b neg => slotIs 6 (mmFields acc a ++ mmSecond b ++ [flagField 12 neg])

/-! ## Data memory (10 R221, R222, R224, R229, R230) -/

def dmemPut (t : Table Byte) (a : Nat) (bs : List Byte) : Table Byte := (bs.zipIdx).foldl (fun t e => t.set 0 (a + e.2) e.1) t

/-- `n` bytes as a read returns them: deferred writes of earlier bundles show. -/
def dmemRead (k : CspCore) (a n : Nat) : List Byte :=
  let t := (k.defers.filter (!·.own)).foldl (fun t w => dmemPut t w.addr.toNat w.bytes) k.dmem
  (upTo n).map fun i => t.get 0 (a + i)

/-- The words of 64 bits that `n` bytes at `a` touch, and those they cover. -/
def touches (a n w : Nat) : Bool := decide (w * 8 < a + n ∧ a < w * 8 + 8)
def coversWord (a n w : Nat) : Bool := decide (a ≤ w * 8 ∧ w * 8 + 8 ≤ a + n)

/-- An external access is served: a write lands and takes the errors of the words it covers away, a read answers, or is refused where a word
cannot be corrected. -/
def serveAccess (k : CspCore) : CspAccess → CspCore
  | .write addr bytes =>
    let a := addr.toNat
    let gone (l : List Nat) : List Nat := l.filter fun w => !coversWord a bytes.length w
    { k with dmem := dmemPut k.dmem a bytes,
             ext := { k.ext with written := k.ext.written ++ [(a, bytes)], weak := gone k.ext.weak, bad := gone k.ext.bad } }
  | .read addr n =>
    let a := addr.toNat
    let bad := k.ext.bad.any (touches a n.val)
    { k with ext := { k.ext with answers := k.ext.answers ++ [(bad, if bad then 0 else leNat (dmemRead k a n.val))] } }

/-- The oldest waiting accesses take the free slots of a cycle. -/
def serveFree : Nat → CspCore → CspCore
  | 0, k => k
  | n + 1, k =>
    match k.ext.waiting with
    | [] => k
    | e :: r => serveFree n (serveAccess { k with ext := { k.ext with waiting := r } } e.1)

/-- One cycle passes: deferred writes that are due land in slot B, waiting external accesses take the slots left free or wait on, the other
deferred writes come nearer. -/
def tick (k : CspCore) : CspCore :=
  let due := k.defers.filter (·.due = 0)
  let used := min 2 (k.slots + (if due.isEmpty && !k.ext.stolen then 0 else 1))
  let k1 := { k with dmem := due.foldl (fun t w => dmemPut t w.addr.toNat w.bytes) k.dmem,
                     defers := (k.defers.filter (·.due ≠ 0)).map fun w => { w with due := w.due - 1 },
                     slots := 0, ext := { k.ext with stolen := false } }
  let k2 := serveFree (2 - used) k1
  { k2 with ext := { k2.ext with waiting := k2.ext.waiting.map fun e => (e.1, e.2 + 1) } }

/-- The oldest access has found no free slot for 64 cycles: it takes slot B of the next one. -/
def stealSlot (k : CspCore) : CspCore :=
  match k.ext.waiting with
  | e :: r => if 64 ≤ e.2 then serveAccess { k with ext := { k.ext with waiting := r, stolen := true } } e.1 else k
  | [] => k

/-- Slot B is needed: the bundle stalls while a deferred write or an external access takes it. No write is deferred beyond two cycles. -/
def freeB (k : CspCore) : CspCore :=
  let wait (k : CspCore) : CspCore := if k.ext.stolen || k.defers.any (·.due = 0) then tick k else k
  wait (wait (wait (wait k)))

/-- All deferred writes landed. -/
def landAll (k : CspCore) : CspCore := tick (tick (tick k))

/-- An access of `n` bytes: misaligned, or a read of a word that cannot be corrected. -/
def accessFault (x : Csp) (a n : Nat) (read : Bool) : Option CspFault :=
  if a % n ≠ 0 then some .align
  else if read && x.core.ext.bad.any (touches a n) then some .dmemUe else none

/-- A correctable error that a read finds is corrected in place, counted, and pends source 6 (10 R224, R234). -/
def correctRead (a n : Nat) (y : Csp) : Csp :=
  let found := (y.core.ext.weak.filter (touches a n)).length
  if found = 0 then y
  else
    { y with ecc := bumpBy top32 y.ecc found, pending := y.pending ||| 0x40
             core := { y.core with ext := { y.core.ext with weak := y.core.ext.weak.filter fun w => !touches a n w } } }

/-! ## Bundles, repeats and loops (10 R220, R232, R233) -/

/-- What an operation makes of a CSP: its new state, or a fault. -/
abbrev CspRes := Csp ⊕ CspFault

/-- A read of `n` bytes at an address, or its fault. -/
def withRead (x : Csp) (a n : Nat) (f : List Byte → CspRes) : CspRes :=
  match accessFault x a n true with
  | some e => .inr e
  | none =>
    match f (dmemRead x.core a n) with
    | .inl y => .inl (correctRead a n y)
    | .inr e => .inr e

def okCore (x : Csp) (k : CspCore) : CspRes := .inl { x with core := k }

/-- A master tap after TUPD's arithmetic: sample, step factor, shift; and whether a part saturates (10 R230). -/
def tapUpdate (smp q : Word) (h : Nat) (neg : Bool) (m : Int × Int) : (Int × Int) × Bool :=
  let pr := partRe smp * partRe q + partIm smp * partIm q
  let pi := partRe smp * partIm q - partIm smp * partRe q
  let re := satTo 32 (m.1 + rhuShift (if neg then -pr else pr) h)
  let im := satTo 32 (m.2 + rhuShift (if neg then -pi else pi) h)
  ((re.1, im.1), re.2 || im.2)

/-- The operative coefficient of a master tap, as TCOPY narrows it, and whether a part saturates (10 R230). -/
def tapCoefficient (m : Int × Int) : Word × Bool :=
  let re := satTo 16 (rhuShift m.1 16)
  let im := satTo 16 (rhuShift m.2 16)
  (packParts re.1 im.1, re.2 || im.2)

/-- One iteration of a repeatable operation; `r` gives its data, address and modifier registers, the accumulator is the
current one. -/
def iterateCsp (x : Csp) (r : CspCore) : CspRep → CspRes
  | .cmac acc a b conj neg =>
    withRead x (cI r a.i).toNat 4 fun va => withRead x (cI r b.i).toNat 4 fun vb =>
      let k := freeB x.core
      let p := cmulParts (BitVec.ofNat 32 (leNat va)) (BitVec.ofNat 32 (leNat vb)) conj neg
      let y := accAdd (cAcc k acc) p
      okCore x { (postMod r (postMod r (raiseSat (putAcc k acc y.1) y.2) a) b) with slots := 2 }
  | .cmacr acc a b conj neg =>
    let y := accAdd (cAcc x.core acc) (cmulParts (cD r a) (cD r b) conj neg)
    okCore x (raiseSat (putAcc x.core acc y.1) y.2)
  | .ftap acc a conj neg mv =>
    if mv = 3 then .inr .illegal
    else
      let at' := (cI r a.i).toNat
      withRead x at' 16 fun v =>
        let c := BitVec.ofNat 32 (leNat (v.take 4))
        let smp := (v.drop 4).take 4
        let y := accAdd (cAcc x.core acc) (cmulParts (BitVec.ofNat 32 (leNat smp)) c conj neg)
        let k := postMod r (raiseSat (putAcc x.core acc y.1) y.2) a
        let w : CspDefer := { due := 1, addr := BitVec.ofNat 18 (at' + 16 * mv.toNat + 4), bytes := smp, own := true }
        okCore x (if mv = 0 then { k with slots := 1 } else { k with defers := k.defers ++ [w], slots := 2 })
  | .tupd a dq dh neg =>
    let at' := (cI r a.i).toNat
    let h := (cD r dh).toNat % 64
    if 47 < h then .inr .illegal
    else withRead x at' 16 fun v =>
      let u := tapUpdate (BitVec.ofNat 32 (leNat ((v.drop 4).take 4))) (cD r dq) h neg
        (signedOf 32 (leNat ((v.drop 8).take 4)), signedOf 32 (leNat (v.drop 12)))
      let w : CspDefer := { due := 2, addr := BitVec.ofNat 18 (at' + 8), own := true
                            bytes := leBytes 4 (BitVec.ofInt 32 u.1.1).toNat ++ leBytes 4 (BitVec.ofInt 32 u.1.2).toNat }
      let k := postMod r (raiseSat x.core u.2) a
      okCore x { k with defers := k.defers ++ [w], slots := 1 }
  | .tcopy a b =>
    let src := (cI r a.i).toNat
    let dst := (cI r b.i).toNat
    withRead x src 16 fun v =>
      match accessFault x dst 4 false with
      | some e => .inr e
      | none =>
        let u := tapCoefficient (signedOf 32 (leNat ((v.drop 8).take 4)), signedOf 32 (leNat (v.drop 12)))
        let k := raiseSat (freeB x.core) u.2
        let k1 := { k with dmem := dmemPut k.dmem dst (leBytes 4 u.1.toNat), slots := 2 }
        okCore x (postMod r (postMod r k1 a) b)
  | .cpow acc a b neg =>
    withRead x (cI r a.i).toNat 4 fun va => withRead x (cI r b.i).toNat 4 fun vb =>
      let k := freeB x.core
      let sq (v : List Byte) : Int :=
        let w := BitVec.ofNat 32 (leNat v)
        partRe w * partRe w + partIm w * partIm w
      let p := sq va + sq vb
      let y := satTo 40 ((cAcc k acc).re.toInt + if neg then -p else p)
      let k1 := raiseSat (putAcc k acc { (cAcc k acc) with re := BitVec.ofInt 40 y.1 }) y.2
      okCore x { (postMod r (postMod r k1 a) b) with slots := 2 }

/-- The accumulator that a repeated operation's clr clears. -/
def repAcc : CspRep → Option CspA
  | .cmac acc .. | .cmacr acc .. | .ftap acc .. | .cpow acc .. => some acc
  | .tupd .. | .tcopy .. => none

/-- An M-slot operation that RPT may repeat: once, or the first iteration of its repeat, whose count may be 0. -/
def repOp (op : CspRep) (x : Csp) : CspRes :=
  match x.core.repeats, x.core.rpt with
  | true, some (n, clr) =>
    let k := { x.core with rpt := none }
    let k1 := match clr, repAcc op with
      | true, some a => putAcc k a CspAcc.init
      | _, _ => k
    if n = 0 then okCore x k1
    else match iterateCsp { x with core := k1 } x.atIssue op with
      | .inl y => okCore y { y.core with rep := some (n - 1, op) }
      | .inr e => .inr e
  | _, _ => iterateCsp x x.atIssue op

/-- Any other M-slot operation: it cannot be repeated (10 R232). -/
def plainOp (f : CspCore → CspCore → CspRes) (x : Csp) : CspRes :=
  if x.core.repeats then .inr .illegal else f x.atIssue x.core

/-- The iterations left of a repeat, one cycle each; an external access that has waited 64 cycles takes slot B of the next. -/
def restIterations : Nat → Csp → CspRes
  | 0, x => .inl x
  | n + 1, x =>
    match x.core.rep with
    | none => .inl x
    | some (0, _) => .inl { x with core := { x.core with rep := none } }
    | some (m + 1, op) =>
      let k := stealSlot (tick x.core)
      match iterateCsp { x with core := k } k op with
      | .inl y => restIterations n { y with core := { y.core with rep := some (m, op) } }
      | .inr e => .inr e

/-- The pc after bundle `cur`: back to the start of the innermost loop that ends here while its count lasts, else on
(10 R233). -/
def loopEnd (cur : BitVec 12) : Nat → CspCore → CspCore
  | 0, k => { k with pc := cur + 1 }
  | n + 1, k =>
    if !k.st.lpen ∨ k.depth = 0 then { k with pc := cur + 1 }
    else
      let inner := k.depth = 2
      let le := if inner then k.le1 else k.le0
      let lc := if inner then k.lc1 else k.lc0
      if le ≠ cur then { k with pc := cur + 1 }
      else if lc - 1 ≠ 0 then
        (if inner then { k with lc1 := lc - 1, pc := k.ls1 } else { k with lc0 := lc - 1, pc := k.ls0 })
      else
        let k1 := if inner then { k with lc1 := 0, depth := 1 } else { k with lc0 := 0, depth := 0, st := { k.st with lpen := false } }
        loopEnd cur n k1

/-- The bundle in issue ends: the repeat runs out, its cycle passes, the pc moves. -/
def endBundle (x : Csp) : CspRes :=
  if !x.core.busy then .inl x
  else if x.core.repeats ∧ x.core.rpt.isSome then .inr .illegal
  else match restIterations 65536 x with
    | .inr e => .inr e
    | .inl y =>
      let k0 := tick { y.core with rep := none }
      let old := k0.defers.map fun (w : CspDefer) => { w with own := false }
      let k := { k0 with busy := false, mUsed := false, xUsed := false, repeats := false, skip := none, signal := none, defers := old,
                         ext := { k0.ext with written := [] } }
      let z := { y with signalled := y.signalled ++ k0.signal.toList }
      match k.target with
      | some t => okCore z { k with pc := t, target := none }
      | none => okCore z (loopEnd (k0.skip.getD y.atIssue.pc) 2 k)

/-- Bundles of two NOPs that lie before a later bundle of the program pass, one cycle each; a repeat of one is illegal (10 R227, R232). -/
def passNops : Nat → Csp → CspRes
  | 0, x => .inl x
  | n + 1, x =>
    if x.core.busy ∨ bundleAt x x.core.pc ≠ 0 ∨ !(x.prog.entries.any fun e => decide (x.core.pc.toNat < e.1)) then .inl x
    else if x.core.rpt.isSome then .inr .illegal
    else passNops n { x with core := loopEnd x.core.pc 2 (tick x.core) }

/-! ## Faults (10 R238) -/

def faultLow : CspFault → Nat
  | .illegal => 1 | .align => 2 | .dmemUe => 3 | .pmemParity => 4 | .rptLimit => 5 | .loopDepth => 6

/-- Receptions that the CSP equalises run on unequalised from their next symbol. -/
def unequalise (c : Nat) (r : Reception) : Reception :=
  match r.eq with
  | some e => if e.csp = c then { r with eq := none, unequalised := true } else r
  | none => r

/-- A fault: what the bundle wrote is undone, deferred writes of earlier bundles land, and external writes of its cycles stand. -/
def faultCore (x : Csp) : CspCore :=
  let k := landAll { x.atIssue with ext := { x.core.ext with waiting := [], stolen := false } }
  let mem := x.core.ext.written.foldl (fun t e => dmemPut t e.1 e.2) k.dmem
  let ext := { k.ext with waiting := x.core.ext.waiting, written := [] }
  { k with dmem := mem, busy := false, mUsed := false, xUsed := false, rep := none, rpt := none, defers := [], target := none, skip := none, signal := none,
           slots := 0, repeats := false, ext }

def State.cspFault (s : State) (c : Nat) (f : CspFault) : State :=
  let x := s.csp c
  let k := faultCore x
  let s1 := (s.setCsp c { x with state := .faulted, fault := some f, stopPc := x.atIssue.pc, core := k, atIssue := k, run := false
                                 again := some (x.prog, x.signals) }).record
    (Code.csp (faultLow f)) c [x.atIssue.pc.toNat]
  (upTo 4).foldl (fun s n => s.modChan n fun y => { y with recep := y.recep.map (unequalise c) }) s1

/-- A signal of an ended bundle releases the semaphore that the program image names for it, or stands in the mailbox (10 R228). -/
def State.cspSignal (c : Nat) (s : State) (n : BitVec 4) : State :=
  match (s.csp c).signals.find? (·.1 = n) with
  | some e => (s.semSignal e.2.val).1
  | none => s.setCsp c { (s.csp c) with mailbox := some n }

/-- Answers of external reads and signals of ended bundles go out. -/
def State.cspFlush (s : State) (c : Nat) : State :=
  let x := s.csp c
  let s1 := s.setCsp c { x with signalled := [], core := { x.core with ext := { x.core.ext with answers := [] } } }
  let s2 := x.core.ext.answers.foldl (fun s e =>
    s.emit (if e.1 then .word "CSP_READ_REFUSED" (Code.csp 3).toNat else .word "CSP_READ" e.2)) s1
  x.signalled.foldl (State.cspSignal c) s2

/-- A result put into the state. -/
def State.cspSettle (s : State) (c : Nat) (r : CspRes) : State :=
  match r with
  | .inl x =>
    let s1 := s.setCsp c x
    if x.signalled.isEmpty && x.core.ext.answers.isEmpty then s1 else s1.cspFlush c
  | .inr f => s.cspFault c f

/-- The bundle boundary. -/
def State.cspBoundary (s : State) (c : Nat) : State :=
  if (s.csp c).state = .running then s.cspSettle c (endBundle (s.csp c)) else s

/-! ## Issue -/

/-- A bundle begins at pc: its operands are the registers as they stand, and a RPT of the bundle before repeats it. -/
def beginCsp (x : Csp) : Csp :=
  let k := { x.core with busy := true, mUsed := false, xUsed := false, repeats := x.core.rpt.isSome, slots := 0, target := none, skip := none,
                         signal := none, waiting := none, ext := { x.core.ext with written := [] } }
  { x with core := k, atIssue := k }

/-- Which slot an operation takes, and how its slot word reads (10 R220, R227). -/
structure CspSlot where
  m  : Bool
  is : Nat → Bool

/-- Does the program's bundle hold the operation? A place that the program leaves empty holds whatever is commanded (DESIGN CHOICE, log 101). -/
def spells (x : Csp) (pc : BitVec 12) (o : CspSlot) : Bool :=
  let b := bundleAt x pc
  b == 0 || o.is (if o.m then b % 2 ^ 32 else b / 2 ^ 32)

/-- May an operation still join the bundle in issue: its slot is free, and an M-slot operation comes before the X-slot one, whose value for a
register both write stands (10 R220; log 101)? -/
def canJoin (k : CspCore) (o : CspSlot) : Bool := k.busy && !k.xUsed && (!o.m || !k.mUsed)

def takeSlot (o : CspSlot) (x : Csp) : Csp := { x with core := { x.core with mUsed := x.core.mUsed || o.m, xUsed := x.core.xUsed || !o.m } }

/-- An operation of a CSP program: joined to the bundle in issue, or the first of the next one. A CSP that waits issues
nothing until a named source pends (10 Table 5). -/
def runCsp (s : State) (i : CspIssue) (o : CspSlot) (f : Csp → CspRes) : State :=
  let c := i.cluster.val
  let x0 := s.csp c
  if x0.state ≠ .running then s
  else if i.joint ∧ canJoin x0.core o then
    (if spells x0 x0.atIssue.pc o then s.cspSettle c (f (takeSlot o x0)) else s)
  else
    let s0 := s.cspBoundary c
    let stalled (x : Csp) : Bool := match x.core.waiting with
      | some m => (m &&& x.pending) == 0
      | none => false
    if (s0.csp c).state ≠ .running ∨ stalled (s0.csp c) = true then s0
    else
      let s1 := s0.cspSettle c (passNops 4096 (s0.csp c))
      let x := s1.csp c
      if x.state ≠ .running then s1
      else
        let y := beginCsp x
        let s2 := s1.setCsp c y
        if y.badBundles.contains y.core.pc.toNat then s2.cspFault c .pmemParity
        else if !bundleOk (bundleAt y y.core.pc) then s2.cspFault c .illegal
        else if !spells y y.core.pc o then s1
        else s2.cspSettle c (f (takeSlot o y))

/-- A control operation may not stand beside a repeat (10 R232). -/
def controlOp (f : CspCore → CspCore → CspRes) (x : Csp) : CspRes :=
  if x.core.repeats then .inr .illegal else f x.atIssue x.core

/-! ## Interrupts (10 R234) -/

/-- The level of a source, and the source that is taken next. -/
def srcLevel (x : Csp) (n : Nat) : Nat := if x.irqLevel.getLsbD n then 2 else 1

def nextSource (x : Csp) : Option Nat :=
  let ok (lv : Nat) : Option Nat :=
    if lv ≤ x.core.st.level.toNat then none else (upTo 7).find? fun n => x.pending.getLsbD n && srcLevel x n == lv
  if !x.core.st.ie then none else match ok 2 with | some n => some n | none => ok 1

/-- Entry: pc and st saved at the source's level, the pending bit taken. A wait that no named source has ended is entered
again on return. -/
def takeInterrupt (x : Csp) (n : Nat) : Csp :=
  let k := x.core
  let waits := match k.waiting with
    | some m => (m &&& x.pending) == 0
    | none => false
  let epc := if waits then x.atIssue.pc else k.pc
  let k1 := if srcLevel x n = 2 then { k with epc2 := epc, est2 := k.st, pc := 0x020 } else { k with epc1 := epc, est1 := k.st, pc := 0x010 }
  { x with core := { k1 with st := { k.st with level := BitVec.ofNat 2 (srcLevel x n), ie := false, lpen := false }, waiting := none }
           pending := x.pending &&& ~~~(BitVec.ofNat 8 (2 ^ n)) }

/-- At a bundle boundary the next source is taken; a repeat in the next bundle is not interrupted before it has run. -/
def cspInterrupt (c : Nat) (s : State) : State :=
  let s0 := s.cspBoundary c
  let x := s0.csp c
  if x.state ≠ .running ∨ x.core.rpt.isSome then s0
  else match nextSource x with
    | some n => s0.setCsp c (takeInterrupt x n)
    | none => s0

/-- A source pends. -/
def State.cspPend (s : State) (c n : Nat) : State :=
  let x := s.csp c
  s.setCsp c { x with pending := x.pending ||| BitVec.ofNat 8 (2 ^ n) }

/-- The source of a cause (10 R234). -/
def causeSource : CspCause → Option Nat
  | .none => none | .sweepInput => some 0 | .sweepDecision => some 1 | .prachExtracted => some 2 | .mailbox => some 3 | .timer => some 4
  | .transfer => some 5

/-! ## External accesses (10 R223) -/

/-- Has an external access one of the sizes 4, 8 and 16, aligned to it (10 R221)? -/
def accessOk : CspAccess → Bool
  | .write a bs => [4, 8, 16].contains bs.length && a.toNat % bs.length == 0
  | .read a n => [4, 8, 16].contains n.val && a.toNat % n.val == 0

/-- An external access waits for a slot that the program leaves free; while the CSP issues nothing every slot is (DEDUCED, log 75). A misaligned
one is refused with CSP_ALIGN. -/
def State.cspAccess (s : State) (c : Nat) (a : CspAccess) : State :=
  let x := s.csp c
  if !accessOk a then s.emit (.word "CSP_ACCESS_REFUSED" (Code.csp 2).toNat)
  else if x.state ≠ .running ∨ x.core.waiting.isSome then s.cspSettle c (.inl { x with core := serveAccess x.core a })
  else s.setCsp c { x with core := { x.core with ext := { x.core.ext with waiting := x.core.ext.waiting ++ [(a, 0)] } } }

end Sys2Proof.Machine
end

