-- ==== Sys2Proof/Machine/CspProg.lean ====
section
/-! DEFINITION. The operations of a CSP program, and the control of a CSP (10 R228–R239). -/
namespace Sys2Proof.Machine

/-! ## M-slot operations (10 Table 4) -/

def execCmac (i : CspIssue) (acc : CspA) (a b : CspMem) (conj neg : Bool) (s : State) : Host.Outcome State Fault Refusal :=
  .next (runCsp s i ⟨true, repIs (.cmac acc a b conj neg)⟩ (repOp (.cmac acc a b conj neg)))

def execCmacr (i : CspIssue) (acc : CspA) (a b : CspD) (conj neg : Bool) (s : State) : Host.Outcome State Fault Refusal :=
  .next (runCsp s i ⟨true, repIs (.cmacr acc a b conj neg)⟩ (repOp (.cmacr acc a b conj neg)))

def execFtap (i : CspIssue) (acc : CspA) (a : CspMem) (conj neg : Bool) (mv : BitVec 2) (s : State) :
    Host.Outcome State Fault Refusal :=
  .next (runCsp s i ⟨true, repIs (.ftap acc a conj neg mv)⟩ (repOp (.ftap acc a conj neg mv)))

def execTupd (i : CspIssue) (a : CspMem) (dq dh : CspD) (neg : Bool) (s : State) : Host.Outcome State Fault Refusal :=
  .next (runCsp s i ⟨true, repIs (.tupd a dq dh neg)⟩ (repOp (.tupd a dq dh neg)))

def execTcopy (i : CspIssue) (a b : CspMem) (s : State) : Host.Outcome State Fault Refusal :=
  .next (runCsp s i ⟨true, repIs (.tcopy a b)⟩ (repOp (.tcopy a b)))

def execCpow (i : CspIssue) (acc : CspA) (a b : CspMem) (neg : Bool) (s : State) : Host.Outcome State Fault Refusal :=
  .next (runCsp s i ⟨true, repIs (.cpow acc a b neg)⟩ (repOp (.cpow acc a b neg)))

/-- ALD: both parts sign-extended and shifted up into the accumulator. -/
def aldOp (acc : CspA) (a : CspMem) (sh : BitVec 6) (x : Csp) : CspRes :=
  plainOp (fun r k =>
    if 24 < sh.toNat then .inr .illegal
    else withRead x (cI r a.i).toNat 4 fun v =>
      let w := BitVec.ofNat 32 (leNat v)
      let y : CspAcc := { re := BitVec.ofInt 40 (partRe w * 2 ^ sh.toNat), im := BitVec.ofInt 40 (partIm w * 2 ^ sh.toNat) }
      okCore x { (postMod r (putAcc k acc y) a) with slots := 1 }) x

def execAld (i : CspIssue) (acc : CspA) (a : CspMem) (sh : BitVec 6) (s : State) : Host.Outcome State Fault Refusal :=
  .next (runCsp s i ⟨true, slotIs 7 (mmFields acc a ++ [(4, 6, sh.toNat)])⟩ (aldOp acc a sh))

/-- ANRW: narrowed to two 16-bit parts, or the real part to 32 bits. -/
def anrwOp (acc : CspA) (a : CspD) (sh : BitVec 6) (w32 : Bool) (x : Csp) : CspRes :=
  plainOp (fun _ k =>
    if 47 < sh.toNat then .inr .illegal
    else
      let y := cAcc k acc
      if w32 then
        let v := satTo 32 (rhuShift y.re.toInt sh.toNat)
        okCore x (raiseSat (setD k a.val (BitVec.ofInt 32 v.1)) v.2)
      else
        let re := satTo 16 (rhuShift y.re.toInt sh.toNat)
        let im := satTo 16 (rhuShift y.im.toInt sh.toNat)
        okCore x (raiseSat (setD k a.val (packParts re.1 im.1)) (re.2 || im.2))) x

def execAnrw (i : CspIssue) (acc : CspA) (a : CspD) (sh : BitVec 6) (w32 : Bool) (s : State) : Host.Outcome State Fault Refusal :=
  .next (runCsp s i ⟨true, slotIs 8 ([(24, 2, acc.val), (20, 4, a.val), (10, 6, sh.toNat), flagField 7 w32])⟩ (anrwOp acc a sh w32))

/-- CMUL of the M-slot: a complex product narrowed to 16-bit parts. -/
def cspCmulOp (dst a b : CspD) (sh : BitVec 6) (conj : Bool) (x : Csp) : CspRes :=
  plainOp (fun r k =>
    if 31 < sh.toNat then .inr .illegal
    else
      let p := cmulParts (cD r a) (cD r b) conj false
      let re := satTo 16 (rhuShift p.1 sh.toNat)
      let im := satTo 16 (rhuShift p.2 sh.toNat)
      okCore x (raiseSat (setD k dst.val (packParts re.1 im.1)) (re.2 || im.2))) x

def execCspCmul (i : CspIssue) (dst a b : CspD) (sh : BitVec 6) (conj : Bool) (s : State) : Host.Outcome State Fault Refusal :=
  .next (runCsp s i ⟨true, slotIs 9 ([(22, 4, dst.val), (18, 4, a.val), (14, 4, b.val), (8, 6, sh.toNat), flagField 7 conj])⟩ (cspCmulOp dst a b sh conj))

def aclrOp (acc : CspA) (x : Csp) : CspRes := plainOp (fun _ k => okCore x (putAcc k acc CspAcc.init)) x

def execAclr (i : CspIssue) (acc : CspA) (s : State) : Host.Outcome State Fault Refusal := .next (runCsp s i ⟨true, slotIs 10 ([(24, 2, acc.val)])⟩ (aclrOp acc))

/-! ## X-slot operations (10 Table 5) -/

def moviOp (dst : CspD) (imm : BitVec 22) (x : Csp) : CspRes := okCore x (setD x.core dst.val (imm.signExtend 32))

def execMovi (i : CspIssue) (dst : CspD) (imm : BitVec 22) (s : State) : Host.Outcome State Fault Refusal :=
  .next (runCsp s i ⟨false, slotIs 0x10 ([(22, 4, dst.val), (0, 22, imm.toNat)])⟩ (moviOp dst imm))

def movhiOp (dst : CspD) (imm : BitVec 22) (x : Csp) : CspRes :=
  okCore x (setD x.core dst.val (BitVec.ofNat 32 ((cD x.atIssue dst).toNat % 65536 + imm.toNat % 65536 * 65536)))

def execMovhi (i : CspIssue) (dst : CspD) (imm : BitVec 22) (s : State) : Host.Outcome State Fault Refusal :=
  .next (runCsp s i ⟨false, slotIs 0x11 ([(22, 4, dst.val), (0, 16, imm.toNat % 65536)])⟩ (movhiOp dst imm))

/-- An X-slot operation takes the memory slots that remain: where they do not suffice its bundle stalls one cycle, and for slot B while a
deferred write or an external access holds it (10 R221, R222). -/
def takeX (need : Nat) (k : CspCore) : CspCore :=
  let k1 := if 2 < k.slots + need then tick k else k
  let k2 := if k1.slots + need = 2 then freeB k1 else k1
  { k2 with slots := k2.slots + need }

def ldOp (d : CspD) (a : CspMem) (x : Csp) : CspRes :=
  let k := takeX 1 x.core
  withRead { x with core := k } (cI x.atIssue a.i).toNat 4 fun v =>
    okCore x (postMod x.atIssue (setD k d.val (BitVec.ofNat 32 (leNat v))) a)

def execLd (i : CspIssue) (d : CspD) (a : CspMem) (s : State) : Host.Outcome State Fault Refusal :=
  .next (runCsp s i ⟨false, slotIs 0x12 (xmFields d a false)⟩ (ldOp d a))

def ld64Op (d : CspD) (a : CspMem) (x : Csp) : CspRes :=
  if d.val % 2 = 1 then .inr .illegal
  else
    let k := takeX 1 x.core
    withRead { x with core := k } (cI x.atIssue a.i).toNat 8 fun v =>
      let lo := BitVec.ofNat 32 (leNat (v.take 4))
      let hi := BitVec.ofNat 32 (leNat (v.drop 4))
      okCore x (postMod x.atIssue (setD (setD k d.val lo) (d.val + 1) hi) a)

def execLd64 (i : CspIssue) (d : CspD) (a : CspMem) (s : State) : Host.Outcome State Fault Refusal :=
  .next (runCsp s i ⟨false, slotIs 0x12 (xmFields d a true)⟩ (ld64Op d a))

/-- A store of one word. -/
def storeWord (k : CspCore) (a : Nat) (w : Word) : CspCore := { k with dmem := dmemPut k.dmem a (leBytes 4 w.toNat) }

def stOp (d : CspD) (a : CspMem) (x : Csp) : CspRes :=
  let at' := (cI x.atIssue a.i).toNat
  match accessFault x at' 4 false with
  | some e => .inr e
  | none =>
    okCore x (postMod x.atIssue (storeWord (takeX 1 x.core) at' (cD x.atIssue d)) a)

def execSt (i : CspIssue) (d : CspD) (a : CspMem) (s : State) : Host.Outcome State Fault Refusal :=
  .next (runCsp s i ⟨false, slotIs 0x13 (xmFields d a false)⟩ (stOp d a))

/-- ST2: two stores, the second in slot B; d + 1 wraps at d15 (DEDUCED, log 22). -/
def st2Op (d : CspD) (a b : CspMem) (x : Csp) : CspRes :=
  let p := (cI x.atIssue a.i).toNat
  let q := (cI x.atIssue b.i).toNat
  match accessFault x p 4 false, accessFault x q 4 false with
  | none, none =>
    let k1 := storeWord (storeWord (takeX 2 x.core) p (cD x.atIssue d)) q (cD x.atIssue (d + 1))
    okCore x (postMod x.atIssue (postMod x.atIssue k1 a) b)
  | some e, _ => .inr e
  | _, some e => .inr e

def execSt2 (i : CspIssue) (d : CspD) (a b : CspMem) (s : State) : Host.Outcome State Fault Refusal :=
  .next (runCsp s i ⟨false, slotIs 0x13 (xmFields d a true ++ [(14, 3, b.i.val), (12, 2, b.m.val)])⟩ (st2Op d a b))

/-- The ALU's functions in the order of 10 Table 5; shift amounts are the unsigned word of b (DEDUCED, log 23). -/
def cspAluVal (f : Nat) (a b : Word) : Option Word :=
  let int (v : Int) : Word := BitVec.ofInt 32 (satInt 32 v)
  let pair (g : Int → Int → Int) : Word := packParts (satInt 16 (g (partRe a) (partRe b))) (satInt 16 (g (partIm a) (partIm b)))
  let sh := min b.toNat 64
  match f with
  | 0 => some (int (a.toInt + b.toInt))
  | 1 => some (int (a.toInt - b.toInt))
  | 2 => some (a &&& b)
  | 3 => some (a ||| b)
  | 4 => some (a ^^^ b)
  | 5 => some (int (a.toInt * 2 ^ sh))
  | 6 => some (int (rhuShift a.toInt sh))
  | 7 => some (if b.slt a then b else a)
  | 8 => some (if a.slt b then b else a)
  | 9 => some (pair (· + ·))
  | 10 => some (pair (· - ·))
  | _ => none

def cspAluOp (dst a b : CspD) (f : BitVec 4) (x : Csp) : CspRes :=
  match cspAluVal f.toNat (cD x.atIssue a) (cD x.atIssue b) with
  | some v => okCore x (setD x.core dst.val v)
  | none => .inr .illegal

def execCspAlu (i : CspIssue) (dst a b : CspD) (f : BitVec 4) (s : State) : Host.Outcome State Fault Refusal :=
  .next (runCsp s i ⟨false, slotIs 0x14 (xaFields dst.val a ++ [(14, 4, b.val), (0, 4, f.toNat)])⟩ (cspAluOp dst a b f))

/-- The 18-bit sum of SETA and SETM. -/
def setSum (x : Csp) (a : CspD) (imm : BitVec 13) : BitVec 18 :=
  BitVec.ofNat 18 (cD x.atIssue a).toNat + imm.signExtend 18

def setaOp (dst : CspI) (a : CspD) (imm : BitVec 13) (x : Csp) : CspRes := okCore x (setI x.core dst (setSum x a imm))

def execSeta (i : CspIssue) (dst : CspI) (a : CspD) (imm : BitVec 13) (s : State) : Host.Outcome State Fault Refusal :=
  .next (runCsp s i ⟨false, slotIs 0x15 (xaFields dst.val a ++ [(0, 13, imm.toNat), (13, 1, 0)])⟩ (setaOp dst a imm))

def setmOp (dst : CspM) (a : CspD) (imm : BitVec 13) (x : Csp) : CspRes :=
  okCore x { x.core with m := x.core.m.set 0 dst.val (setSum x a imm) }

def execSetm (i : CspIssue) (dst : CspM) (a : CspD) (imm : BitVec 13) (s : State) : Host.Outcome State Fault Refusal :=
  .next (runCsp s i ⟨false, slotIs 0x15 (xaFields dst.val a ++ [(0, 13, imm.toNat), (13, 1, 1)])⟩ (setmOp dst a imm))

def rcpnOp (dst a : CspD) (x : Csp) : CspRes :=
  let y := rcpnOf (cD x.atIssue a)
  okCore x (raiseSat (setD x.core dst.val y.1) y.2)

def execRcpn (i : CspIssue) (dst a : CspD) (s : State) : Host.Outcome State Fault Refusal := .next (runCsp s i ⟨false, slotIs 0x16 (xaFields dst.val a)⟩ (rcpnOp dst a))

/-! ## Control operations -/

/-- The count fields of a RPT word. -/
def countFields : CspCount → List (Nat × Nat × Nat)
  | .imm n => [(25, 1, 0), (0, 16, n.toNat)]
  | .reg d => [(25, 1, 1), (21, 4, d.val)]

/-- RPT: the next bundle's M-slot operation is repeated. -/
def rptOp (n : CspCount) (clr : Bool) (x : Csp) : CspRes :=
  controlOp (fun r k =>
    let c := match n with | .imm v => v.toNat | .reg d => (cD r d).toNat
    if 65535 < c ∨ x.rptMax.toNat < c then .inr .rptLimit else okCore x { k with rpt := some (c, clr) }) x

def execRpt (i : CspIssue) (n : CspCount) (clr : Bool) (s : State) : Host.Outcome State Fault Refusal :=
  .next (runCsp s i ⟨false, slotIs 0x18 (countFields n ++ [flagField 20 clr])⟩ (rptOp n clr))

/-- LOOP: level 1 while level 0 is active. A count of 0 skips the body, and pc then passes its last bundle. Without lpen no loop is active (DEDUCED, log 24). -/
def loopOp (d : CspD) (off : BitVec 10) (x : Csp) : CspRes :=
  controlOp (fun r k =>
    let active := if r.st.lpen then r.depth.toNat else 0
    let n := cD r d
    let last := r.pc + off.zeroExtend 12
    if off = 0 then .inr .illegal
    else if 2 ≤ active then .inr .loopDepth
    else if n = 0 then okCore x { k with skip := some last, st := { k.st with lpen := true }, depth := BitVec.ofNat 2 active }
    else
      let k1 := { k with st := { k.st with lpen := true }, depth := BitVec.ofNat 2 (active + 1) }
      okCore x (if active = 0 then { k1 with lc0 := n, ls0 := r.pc + 1, le0 := last } else { k1 with lc1 := n, ls1 := r.pc + 1, le1 := last })) x

def execLoop (i : CspIssue) (d : CspD) (off : BitVec 10) (s : State) : Host.Outcome State Fault Refusal :=
  .next (runCsp s i ⟨false, slotIs 0x19 ([(22, 4, d.val), (0, 10, off.toNat)])⟩ (loopOp d off))

def cspBrOp (d : CspD) (cond : BitVec 3) (off : BitVec 12) (x : Csp) : CspRes :=
  controlOp (fun r k =>
    let v := cD r d
    if 4 < cond.toNat then .inr .illegal
    else
      let taken := match cond.toNat with
        | 0 => true
        | 1 => v == 0
        | 2 => v != 0
        | 3 => v.slt 0
        | _ => !(v.slt 0)
      okCore x (if taken then { k with target := some (r.pc + off) } else k)) x

def execCspBr (i : CspIssue) (d : CspD) (cond : BitVec 3) (off : BitVec 12) (s : State) : Host.Outcome State Fault Refusal :=
  .next (runCsp s i ⟨false, slotIs 0x1A ([(22, 4, d.val), (19, 3, cond.toNat), (0, 12, off.toNat)])⟩ (cspBrOp d cond off))

def callOp (off : BitVec 12) (x : Csp) : CspRes :=
  controlOp (fun r k => okCore x { k with lr := r.pc + 1, target := some (r.pc + off) }) x

def execCall (i : CspIssue) (off : BitVec 12) (s : State) : Host.Outcome State Fault Refusal := .next (runCsp s i ⟨false, slotIs 0x1B ([(25, 1, 0), (0, 12, off.toNat)])⟩ (callOp off))

def retOp (x : Csp) : CspRes := controlOp (fun r k => okCore x { k with target := some r.lr }) x

def execRet (i : CspIssue) (s : State) : Host.Outcome State Fault Refusal := .next (runCsp s i ⟨false, slotIs 0x1B ([(25, 1, 1)])⟩ retOp)

/-- IRET: pc and st of the current level's pair; at level 0 there is no pair and it only goes on (DEDUCED, log 25). -/
def iretOp (x : Csp) : CspRes :=
  controlOp (fun r k =>
    match r.st.level.toNat with
    | 1 => okCore x { k with st := r.est1, target := some r.epc1 }
    | 2 => okCore x { k with st := r.est2, target := some r.epc2 }
    | _ => okCore x k) x

def execIret (i : CspIssue) (s : State) : Host.Outcome State Fault Refusal := .next (runCsp s i ⟨false, slotIs 0x1C ([])⟩ iretOp)

/-- The loop registers as LSAVE lays them out (10 R236). -/
def loopBytes (k : CspCore) : List Byte :=
  leBytes 4 k.lc0.toNat ++ leBytes 2 k.ls0.toNat ++ leBytes 2 k.le0.toNat ++ leBytes 4 k.lc1.toNat ++ leBytes 2 k.ls1.toNat ++
  leBytes 2 k.le1.toNat ++ leBytes 1 k.depth.toNat ++ leBytes 15 0

def lsaveOp (a : CspI) (x : Csp) : CspRes :=
  controlOp (fun r _ =>
    let at' := (cI r a).toNat
    match accessFault x at' 16 false with
    | some e => .inr e
    | none =>
      let k1 := takeX 2 x.core
      let bs := (loopBytes r).zipIdx.map fun e => ((at' + e.2) % 2 ^ 18, e.1)
      okCore x { k1 with dmem := bs.foldl (fun t e => t.set 0 e.1 e.2) k1.dmem }) x

def execLsave (i : CspIssue) (a : CspI) (s : State) : Host.Outcome State Fault Refusal := .next (runCsp s i ⟨false, slotIs 0x1D ([(25, 1, 0), (22, 3, a.val)])⟩ (lsaveOp a))

def lrestOp (a : CspI) (x : Csp) : CspRes :=
  controlOp (fun r _ =>
    let at' := (cI r a).toNat
    let k := takeX 2 x.core
    withRead { x with core := k } at' 16 fun v => withRead { x with core := k } ((at' + 16) % 2 ^ 18) 16 fun w =>
      let f (o n : Nat) : Nat := leNat ((v.drop o).take n)
      let depth := BitVec.ofNat 2 (leNat (w.take 1))
      okCore x { k with lc0 := BitVec.ofNat 32 (f 0 4), ls0 := BitVec.ofNat 12 (f 4 2), le0 := BitVec.ofNat 12 (f 6 2),
                        lc1 := BitVec.ofNat 32 (f 8 4), ls1 := BitVec.ofNat 12 (f 12 2), le1 := BitVec.ofNat 12 (f 14 2),
                        depth, st := { k.st with lpen := k.st.lpen || depth != 0 } }) x

def execLrest (i : CspIssue) (a : CspI) (s : State) : Host.Outcome State Fault Refusal := .next (runCsp s i ⟨false, slotIs 0x1D ([(25, 1, 1), (22, 3, a.val)])⟩ (lrestOp a))

/-- WAIT: the CSP stalls after this bundle until a source of the mask pends. -/
def waitOp (mask : Byte) (x : Csp) : CspRes :=
  controlOp (fun _ k => okCore x (if (mask &&& x.pending) = 0 then { k with waiting := some mask } else k)) x

def execWait (i : CspIssue) (mask : Byte) (s : State) : Host.Outcome State Fault Refusal := .next (runCsp s i ⟨false, slotIs 0x1E ([(0, 8, mask.toNat)])⟩ (waitOp mask))

/-- SIG: its signal goes out when the bundle ends. -/
def sigOp (n : BitVec 4) (x : Csp) : CspRes := controlOp (fun _ k => okCore x { k with signal := some n }) x

def execSig (i : CspIssue) (n : BitVec 4) (s : State) : Host.Outcome State Fault Refusal := .next (runCsp s i ⟨false, slotIs 0x1F ([(0, 4, n.toNat)])⟩ (sigOp n))

def ieOp (on : Bool) (x : Csp) : CspRes := controlOp (fun _ k => okCore x { k with st := { k.st with ie := on } }) x

def execEi (i : CspIssue) (s : State) : Host.Outcome State Fault Refusal := .next (runCsp s i ⟨false, slotIs 0x20 ([(0, 2, 0)])⟩ (ieOp true))

def execDi (i : CspIssue) (s : State) : Host.Outcome State Fault Refusal := .next (runCsp s i ⟨false, slotIs 0x20 ([(0, 2, 1)])⟩ (ieOp false))

/-- HALT: the CSP stops, its bundle done. -/
def haltOp (x : Csp) : CspRes :=
  controlOp (fun r _ => match endBundle x with
    | .inl y => .inl { y with state := .stopped, stopPc := r.pc, run := false, core := landAll y.core }
    | .inr e => .inr e) x

def execHalt (i : CspIssue) (s : State) : Host.Outcome State Fault Refusal := .next (runCsp s i ⟨false, slotIs 0x20 ([(0, 2, 2)])⟩ haltOp)

/-! ## Control of the CSP (10 R234, R237, R239) -/

def execCspInterrupt (c : ClusterId) (s : State) : Host.Outcome State Fault Refusal := .next (cspInterrupt c.val s)

/-- A program image loaded into an empty CSP, which is in the radio domain from then on (10 R237). -/
def loadProg (p : CspImage) (x : Csp) : Csp :=
  if x.state = .empty ∧ !p.bundles.isEmpty then
    { x with state := .loaded, domain := some .radio, signals := p.signals, again := none
             prog := ((p.bundles.take 4096).zipIdx).foldl (fun t e => t.set 0 e.2 e.1) x.prog }
  else x

/-- RUN goes to 1: a program that is loaded or stopped starts at bundle 0x000. -/
def runProg (x : Csp) : Csp :=
  match x.state with
  | .loaded | .stopped =>
    let k := { x.core with pc := 0, busy := false, mUsed := false, xUsed := false, rep := none, rpt := none, repeats := false, target := none, skip := none,
                           signal := none, waiting := none, slots := 0 }
    { x with state := .running, run := true, domain := some .radio, fault := none, core := k, atIssue := k }
  | _ => { x with run := true }

def execCspRun (c : ClusterId) (image : CspImage) (s : State) : Host.Outcome State Fault Refusal :=
  .next (s.setCsp c.val (runProg (loadProg image (s.csp c.val))))

/-- FORCE_STOP: issue ends at once, deferred writes are discarded. -/
def forceStop (x : Csp) : Csp :=
  if x.state = .running then
    { x with state := .stopped, stopPc := if x.core.busy then x.atIssue.pc else x.core.pc, run := false
             core := { x.core with defers := [], rep := none, rpt := none, busy := false, mUsed := false, xUsed := false, repeats := false,
                                   waiting := none, target := none, skip := none, signal := none } }
  else x

def execCspForceStop (c : ClusterId) (s : State) : Host.Outcome State Fault Refusal :=
  .next (s.setCsp c.val (forceStop (s.csp c.val)))

def zeroCsp (x : Csp) : Csp := if x.state = .running then x else { x with state := .zeroising }

def execCspZero (c : ClusterId) (s : State) : Host.Outcome State Fault Refusal := .next (s.setCsp c.val (zeroCsp (s.csp c.val)))

/-- The end of zeroisation: memories, registers and pending interrupts are clear, CSP_CTL's settings too (DEDUCED, log 101). -/
def zeroedCsp (x : Csp) : Csp := if x.state = .zeroising then { Csp.init with again := x.again } else x

def execCspZeroiseComplete (c : ClusterId) (s : State) : Host.Outcome State Fault Refusal :=
  .next (s.setCsp c.val (zeroedCsp (s.csp c.val)))

/-- An external block accesses data memory; the cause it comes with makes its source pend. -/
def externalAccess (c : Nat) (cause : CspCause) (a : CspAccess) (s : State) : State :=
  (match causeSource cause with
   | some n => s.cspPend c n
   | none => s).cspAccess c a

def execCspExternalAccess (c : ClusterId) (cause : CspCause) (a : CspAccess) (s : State) : Host.Outcome State Fault Refusal :=
  .next (externalAccess c.val cause a s)

/-- The oldest waiting access, once it has waited 64 cycles, takes slot B of the next one. -/
def externalSteal (c : Nat) (s : State) : State :=
  let x := s.csp c
  s.cspSettle c (.inl { x with core := stealSlot x.core })

def execCspExternalSteal (c : ClusterId) (s : State) : Host.Outcome State Fault Refusal := .next (externalSteal c.val s)

/-- A faulted CSP, once zeroised, is loaded again at a frame boundary (10 R238). -/
def cspReload (x : Csp) : Csp :=
  match x.state, x.again with
  | .empty, some p => { x with state := .loaded, domain := some .radio, prog := p.1, signals := p.2, again := none }
  | _, _ => x

end Sys2Proof.Machine
end

