-- ==== Sys2Proof/Machine/Crossing.lean ====
section
/-! DEFINITION. The dike crossing: its counts, its records, its configuration and periods (18 R387–R389). -/
namespace Sys2Proof.Machine

def State.setCrossing (s : State) (x : Crossing) : State := s.setSec { s.sec with crossing := x }

/-- A cell's or channel's counts take in an event while a period runs. -/
def State.crossCell (s : State) (cell : Nat) (f : CrossCount → CrossCount) : State :=
  let x := s.sec.crossing
  if x.running then s.setCrossing { x with cells := x.cells.set CrossCount.init cell (f (x.cells.get CrossCount.init cell)) } else s

def State.crossChan (s : State) (chan : Nat) (f : CrossCount → CrossCount) : State :=
  let x := s.sec.crossing
  if x.running then s.setCrossing { x with chans := x.chans.set CrossCount.init chan (f (x.chans.get CrossCount.init chan)) } else s

def seeOne (n : Nat) (l : List Nat) : List Nat := if l.contains n then l else n :: l

/-- A share in per mille. -/
def perMille (a b : Nat) : Nat := if b = 0 then 0 else a * 1000 / b

def meanOf (sum : Int) (n : Nat) : Nat := if n = 0 then 0 else (BitVec.ofInt 16 (Int.fdiv sum n)).toNat

/-- The fields at 0x10 to 0x23 of a cell's record; PRB use is over the PRBs of every slot of the period (DEDUCED, log 40). -/
def cellFields (s : State) (cell period : Nat) (x : CrossCount) : List Byte :=
  let (up, down) := match (s.cell cell).ul, (s.cell cell).dl with
    | some u, some d => (u.nPrb.toNat * (period / slotNs u.mu.toNat), d.nPrb.toNat * (period / slotNs d.mu.toNat))
    | _, _ => (0, 0)
  leBytes 4 (x.seen.length / 8 * 8) ++ leBytes 4 (x.upBits / 1000000) ++ leBytes 4 (x.downBits / 1000000) ++
  leBytes 2 (perMille x.upPrbs up) ++ leBytes 2 (perMille x.downPrbs down) ++ leBytes 2 (meanOf x.quality x.n) ++
  leBytes 2 (perMille x.failed x.n)

def chanFields (x : CrossCount) : List Byte :=
  leBytes 4 (x.seen.length / 8 * 8) ++ leBytes 4 x.n ++ leBytes 4 (x.n - x.failed) ++ leBytes 2 (meanOf x.quality x.n) ++
  leBytes 2 (meanOf x.rssi x.n) ++ leBytes 4 0

/-- One record is written whole, then write_index (18 R389). -/
def crossWrite (c : CrossCfg) (partial' : Bool) (s : State) (r : Nat × Nat × CrossCount × List Byte) : State :=
  let (kind, unit, x, fields) := r
  let k := s.sec.crossing.write
  let small := decide (x.seen.length < c.minCount)
  let flags := (if small then 128 else 0) + (if partial' then 64 else 0)
  let rec' := leBytes 1 kind ++ leBytes 1 unit ++ leBytes 1 flags ++ leBytes 1 0 ++ leBytes 4 k ++ leBytes 8 s.nowNs ++
    (if small then leBytes 20 0 else fields) ++ leBytes 28 0
  let s1 := (s.extWrite (c.ringBase + 0x40 + k % c.records * 64) rec').extWrite c.ringBase (leBytes 8 (k + 1))
  s1.setCrossing { s1.sec.crossing with write := k + 1 }

/-- The records of a period that ends now: cells, then channels, of the kinds and masks configured. -/
def crossEnd (partial' : Bool) (s : State) : State :=
  let x := s.sec.crossing
  match x.cfg with
  | none => s
  | some c =>
    if !x.running then s else
      let period := s.nowNs - x.startNs
      let cells := ((upTo 8).filter fun i => c.kinds.getLsbD 0 && c.cells.getLsbD i).map fun i =>
        let y := x.cells.get CrossCount.init i
        (1, i, y, cellFields s i period y)
      let chans := ((upTo 4).filter fun i => c.kinds.getLsbD 1 && c.channels.getLsbD i).map fun i =>
        let y := x.chans.get CrossCount.init i
        (2, i, y, chanFields y)
      let s1 := (cells ++ chans).foldl (crossWrite c partial') s
      s1.setCrossing { s1.sec.crossing with cells := .empty, chans := .empty, startNs := s.nowNs }

def crossPeriod (s : State) : State :=
  match s.sec.crossing.cfg with
  | some c => if s.sec.crossing.running ∧ s.sec.crossing.startNs + c.periodMs * 1000000 ≤ s.nowNs then crossEnd false s else s
  | none => s

def execCrossingPeriodEnd (s : State) : Host.Outcome State Fault Refusal := .next (crossPeriod s)

/-- Periods start at a frame boundary (18 R388). -/
def crossStart (s : State) : State :=
  let x := s.sec.crossing
  if x.cfg.isSome ∧ !x.running then s.setCrossing { x with running := true, startNs := s.nowNs } else s

/-- A period cut short is written, and the crossing waits for the next frame boundary. -/
def crossCut (s : State) : State :=
  let s1 := crossEnd true s
  s1.setCrossing { s1.sec.crossing with running := false }

def crossConfigBody (r : CrossRec) (s : State) : State × Answer :=
  let n := r.records.toNat
  let base := r.ringBase.toNat
  if !aligned 0x10000 base ∨ n < 1024 ∨ 1048576 < n ∨ r.periodMs.toNat < 100 ∨ 60000 < r.periodMs.toNat ∨
      !aligned 100 r.periodMs.toNat ∨ 3 < r.kinds.toNat ∨ 15 < r.channels.toNat ∨ r.minCount.toNat < 8 then (s, .err Code.cfgRange)
  else if !s.extRange base (64 + 64 * n) ∨ !s.inRegion .inference base (64 + 64 * n) then (s, .err Code.cfgCapacity)
  else
    let s1 := crossCut s
    (s1.setCrossing { s1.sec.crossing with
      cells := .empty, chans := .empty, write := 0
      cfg := some { ringBase := base, records := n, periodMs := r.periodMs.toNat, kinds := r.kinds.setWidth 2, cells := r.cells,
                    channels := r.channels.setWidth 4, minCount := r.minCount.toNat } }, .ok)

def execCrossingConfig (h : QcpHdr) (r : CrossRec) (s : State) : Host.Outcome State Fault Refusal :=
  .next (serve s h { role := .admin, legal := [.running] } (crossConfigBody r))

end Sys2Proof.Machine
end

