-- ==== Sys2Proof/Machine/Coding.lean ====
section
/-! DEFINITION. Channel coding as 02 R44–R50, 03 R71 and 04 R91, R92 take it from TS 38.212: CRCs, segmentation, rate matching, LDPC
encoding and decoding. The chapters name that standard and do not repeat it: what is defined here of it is the family's
(PRESUMED, log 88), and its tables are constants without a body. Bits are lists, the first the one sent first. -/
namespace Sys2Proof.Machine

/-! ## Bits -/

/-- The `n` bits of a number, most significant first. -/
def msbBits (n v : Nat) : List Bool := (upTo n).map fun i => v.testBit (n - 1 - i)

/-- The number that bits spell, most significant first. -/
def natOf (l : List Bool) : Nat := l.foldl (fun a b => 2 * a + b.toNat) 0

/-- Bytes in order, each most significant bit first. -/
def byteBits (bs : List Byte) : List Bool := bs.flatMap fun b => msbBits 8 b.toNat

/-- Whole bytes of bits, each most significant bit first; a short last byte is padded with zeros. -/
def bytesOfBits (l : List Bool) : List Byte :=
  (upTo (ceilDiv l.length 8)).map fun i => BitVec.ofNat 8 (natOf ((upTo 8).map fun k => l.getD (8 * i + k) false))

def xorBits (a b : List Bool) : List Bool := (a.zip b).map fun e => e.1 != e.2

/-- The length-31 Gold sequence of TS 38.211, clause 5.2.1. -/
def goldStep1 (x : Nat) : Nat := x / 2 + (if x.testBit 3 != x.testBit 0 then 2 ^ 30 else 0)
def goldStep2 (x : Nat) : Nat :=
  x / 2 + (if (x.testBit 3 != x.testBit 2) != (x.testBit 1 != x.testBit 0) then 2 ^ 30 else 0)

def iterate (f : Nat → Nat) : Nat → Nat → Nat
  | 0, x => x
  | n + 1, x => iterate f n (f x)

def goldBits : Nat → Nat → Nat → List Bool
  | 0, _, _ => []
  | n + 1, a, b => (a.testBit 0 != b.testBit 0) :: goldBits n (goldStep1 a) (goldStep2 b)

/-- Its first n bits from an initial value. -/
def goldSeq (cInit n : Nat) : List Bool := goldBits n (iterate goldStep1 1600 1) (iterate goldStep2 1600 (cInit % 2 ^ 31))

/-! ## CRCs -/

def crcShift (len poly reg : Nat) (b : Bool) : Nat :=
  let r := reg * 2 % 2 ^ len
  if reg.testBit (len - 1) != b then r ^^^ poly else r

/-- The CRC bits of a message: generator without its leading term, register starting at 0. -/
def crcOf (len poly : Nat) (l : List Bool) : List Bool := msbBits len (l.foldl (crcShift len poly) 0)

def crc24a (l : List Bool) : List Bool := crcOf 24 0x864CFB l
def crc24b (l : List Bool) : List Bool := crcOf 24 0x800063 l
def crc24c (l : List Bool) : List Bool := crcOf 24 0xB2B117 l
def crc16 (l : List Bool) : List Bool := crcOf 16 0x1021 l

/-- Does a block with its CRC at the end check? -/
def crcPasses (len : Nat) (f : List Bool → List Bool) (l : List Bool) : Bool :=
  f (l.take (l.length - len)) == l.drop (l.length - len)

/-! ## Base graph, lifting and segmentation (TS 38.212, clauses 5.2.2, 5.3.2, 7.2.2) -/

def oddPart : Nat → Nat → Nat
  | 0, n => n
  | f + 1, n => if n % 2 = 0 then oddPart f (n / 2) else n

/-- The lifting sizes of Table 5.3.2-1. -/
def isLift (z : Nat) : Bool := decide (2 ≤ z ∧ z ≤ 384) && decide (oddPart 9 z ≤ 15)

/-- The index of a lifting size's set. -/
def liftSet (z : Nat) : Nat := let a := oddPart 9 z; if a = 1 then 0 else a / 2

/-- The smallest lifting size with kb × z ≥ k. -/
def liftFor (kb k : Nat) : Nat := ((upTo 385).find? fun z => isLift z && decide (k ≤ kb * z)).getD 384

/-- The base graph of a transport block of `a` bits at a rate in 1/1,024: 0 for base graph 1, 1 for base graph 2. -/
def baseGraphOf (a rate : Nat) : Nat :=
  if a ≤ 292 ∨ (a ≤ 3824 ∧ rate * 100 ≤ 67 * 1024) ∨ rate * 4 ≤ 1024 then 1 else 0

/-- A transport block's code: base graph, its CRC's length, code blocks, bits of each with its CRCs, lifting size. -/
structure Code38 where
  bg     : Nat
  a      : Nat
  tbCrc  : Nat
  blocks : Nat
  kPrime : Nat
  zc     : Nat
deriving DecidableEq, Repr

/-- Information columns of a base graph, all its columns, its check rows. -/
def infoCols (bg : Nat) : Nat := if bg = 0 then 22 else 10
def allCols (bg : Nat) : Nat := if bg = 0 then 68 else 52
def checkRows (bg : Nat) : Nat := if bg = 0 then 46 else 42

def Code38.k (c : Code38) : Nat := infoCols c.bg * c.zc
def Code38.filler (c : Code38) : Nat := c.k - c.kPrime
/-- Bits of a whole circular buffer. -/
def Code38.n (c : Code38) : Nat := (allCols c.bg - 2) * c.zc
/-- The CRC that each code block carries where there are several. -/
def Code38.cbCrc (c : Code38) : Nat := if 1 < c.blocks then 24 else 0

/-- Segmentation of a transport block. -/
def code38 (a rate : Nat) : Code38 :=
  let bg := baseGraphOf a rate
  let l := if 3824 < a then 24 else 16
  let b := a + l
  let kcb := if bg = 0 then 8448 else 3840
  let c := if b ≤ kcb then 1 else ceilDiv b (kcb - 24)
  let kPrime := (b + (if c = 1 then 0 else 24 * c)) / c
  let kb := if bg = 0 then 22 else if 640 < b then 10 else if 560 < b then 9 else if 192 < b then 8 else 6
  { bg, a, tbCrc := l, blocks := c, kPrime, zc := liftFor kb kPrime }

/-- N_cb of 02 R45: the whole buffer, or under lbrm what TS 38.212 leaves of it, `tbsLbrm` being the limit's transport block size. -/
def Code38.ncb (c : Code38) (lbrm : Bool) (tbsLbrm : Nat) : Nat :=
  if lbrm then min c.n (tbsLbrm * 3 / (2 * c.blocks)) else c.n

/-- The code blocks of a transport block with all CRCs attached. -/
def Code38.split (c : Code38) (bits : List Bool) : List (List Bool) :=
  let whole := bits ++ (if c.tbCrc = 24 then crc24a bits else crc16 bits)
  let each := c.kPrime - c.cbCrc
  (upTo c.blocks).map fun r =>
    let own := (whole.drop (r * each)).take each
    if 1 < c.blocks then own ++ crc24b own else own

/-! ## LDPC encoding -/

/-- A row of a lifted base graph: column and shift of each of its edges. -/
def ldpcRow (bg zc row : Nat) : List (Nat × Nat) := (Config.baseGraph bg (liftSet zc) row).map fun e => (e.1, e.2 % zc)

/-- The exclusive or of a check's bits, of the columns that `take` names. -/
def checkSum (zc : Nat) (bit : Nat → Bool) (row : List (Nat × Nat)) (take : Nat → Bool) (z : Nat) : Bool :=
  (row.filter fun e => take e.1).foldl (fun a e => a != bit (e.1 * zc + (z + e.2) % zc)) false

/-- One column of an elimination over bits: rows are numbers, bit n the right side. -/
def bitCol (st : List Nat × List Nat) (j : Nat) : List Nat × List Nat :=
  match st.2.find? (·.testBit j) with
  | none => st
  | some p =>
    let clear (r : Nat) : Nat := if r.testBit j then r ^^^ p else r
    (st.1.map clear ++ [p], (st.2.erase p).map clear)

/-- The solution of n linear equations over bits. -/
def bitSolve (n : Nat) (rows : List Nat) : List Bool :=
  let done := ((upTo n).foldl bitCol ([], rows)).1
  (upTo n).map fun j => match done.find? (·.testBit j) with | some r => r.testBit n | none => false

/-- The parity bits of the four core columns, which the first four rows fix together. -/
def coreParity (bg zc : Nat) (info : List Bool) : List Bool :=
  let kc := infoCols bg
  let bit (i : Nat) : Bool := info.getD i false
  bitSolve (4 * zc) ((upTo 4).flatMap fun r => (upTo zc).map fun z =>
    let row := ldpcRow bg zc r
    let lhs := (row.filter fun e => decide (kc ≤ e.1)).foldl (fun a e => a ^^^ 2 ^ ((e.1 - kc) * zc + (z + e.2) % zc)) 0
    lhs ^^^ (if checkSum zc bit row (fun c => decide (c < kc)) z then 2 ^ (4 * zc) else 0))

/-- The parity bits of one further row, which its last column holds. -/
def rowParity (bg zc r : Nat) (word : List Bool) : List Bool :=
  (upTo zc).map fun z => checkSum zc (fun i => word.getD i false) (ldpcRow bg zc r) (fun c => decide (c < infoCols bg + r)) z

/-- The codeword of K information bits, fillers as 0: all columns. -/
def ldpcEncode (bg zc : Nat) (info : List Bool) : List Bool :=
  (upTo (checkRows bg - 4)).foldl (fun w r => w ++ rowParity bg zc (r + 4) w) (info ++ coreParity bg zc info)

/-! ## Rate matching (TS 38.212, clause 5.4.2) -/

/-- Where the circular buffer is read from for a redundancy version. -/
def rvStart (bg zc ncb rv : Nat) : Nat :=
  let f := if bg = 0 then [0, 17, 33, 56] else [0, 13, 25, 43]
  let d := if bg = 0 then 66 else 50
  f.getD rv 0 * ncb / (d * zc) * zc

/-- Is a position of the circular buffer a filler bit's? The first two columns are not in the buffer. -/
def Code38.isFiller (c : Code38) (i : Nat) : Bool := decide (c.kPrime - 2 * c.zc ≤ i ∧ i < c.k - 2 * c.zc)

/-- The buffer positions that hold a bit, in the order they are read from `k0` on. -/
def Code38.readOrder (c : Code38) (ncb k0 : Nat) : List Nat :=
  ((upTo ncb).map fun j => (k0 + j) % ncb).filter fun i => !c.isFiller i

/-- The buffer position that each of `e` rate-matched bits comes from. -/
def Code38.selected (c : Code38) (ncb rv e : Nat) : List Nat :=
  let o := c.readOrder ncb (rvStart c.bg c.zc ncb rv)
  (upTo e).map fun j => o.getD (j % max 1 o.length) 0

/-- Rate-matched bits of each code block: G bits for L layers of qm bits. -/
def Code38.shares (c : Code38) (g layers qm : Nat) : List Nat :=
  let u := layers * qm
  let n := g / u
  (upTo c.blocks).map fun r => if r + n % c.blocks < c.blocks then u * (n / c.blocks) else u * (ceilDiv n c.blocks)

/-- Position of bit k of a block before interleaving, k counting the interleaved bits. -/
def interleavePos (e qm k : Nat) : Nat := k % qm * (e / qm) + k / qm

/-- The interleaved, rate-matched bits of a code block. -/
def Code38.matched (c : Code38) (ncb rv e qm : Nat) (block : List Bool) : List Bool :=
  let word := (ldpcEncode c.bg c.zc (block ++ List.replicate c.filler false)).drop (2 * c.zc)
  let sel := (c.selected ncb rv e).map fun i => word.getD i false
  (upTo e).map fun k => sel.getD (interleavePos e qm k) false

/-- A transport block's G coded bits. -/
def Code38.coded (c : Code38) (ncb rv g layers qm : Nat) (bits : List Bool) : List Bool :=
  ((c.split bits).zip (c.shares g layers qm)).flatMap fun e => c.matched ncb rv e.2 qm e.1

/-- Saturating sum of two LLRs, ±127 (02 R44, R46). -/
def llrSum (a b : Int) : Int := clampInt (-127) 127 (a + b)

/-- LLRs of one block de-interleaved and placed at their buffer positions; repetitions are added, positions not filled hold 0 (02
R44, step 3). -/
def Code38.placed (c : Code38) (ncb rv qm : Nat) (llrs : List Int) : List Int :=
  let e := llrs.length
  ((c.selected ncb rv e).zipIdx).foldl (fun buf p =>
    -- bit p.2 before interleaving is the interleaved bit with that position
    modAt buf p.1 fun x => llrSum x (llrs.getD (p.2 % max 1 (e / qm) * qm + p.2 / max 1 (e / qm)) 0)) (List.replicate ncb 0)

/-! ## Layered min-sum decoding (02 R48–R50, R61) -/

/-- The edge class of a check row (02 R49). -/
def edgeClass (r : Nat) : Nat :=
  if r ≤ 3 then 0 else if r ≤ 7 then 1 else if r ≤ 11 then 2 else if r ≤ 15 then 3 else if r ≤ 23 then 4 else if r ≤ 31 then 5
  else if r ≤ 41 then 6 else 7

/-- m_out of 02 R48: the magnitude scaled by s/128, rounded half up, at most 127, and the sign restored. -/
def scaledMsg (s : Nat) (m : Int) : Int :=
  let scaled := min (rhuDiv ((m.natAbs * s : Nat) : Int) 128) 127
  if m < 0 then -scaled else scaled

/-- The classical bank's message: the offset subtracted from the magnitude, with a floor of 0 (02 R61). -/
def offsetMsg (o : Nat) (m : Int) : Int :=
  let mag : Int := ((m.natAbs - o : Nat) : Int)
  if m < 0 then -mag else mag

/-- Entry S[bg][it][c] of a table of 512 bytes (02 R48). -/
def tableEntry (t : List Byte) (bg it c : Nat) : Nat := (t.getD (bg * 256 + it * 8 + c) 0).toNat

/-- How a bank changes a message of an iteration and edge class: by a table S, or by min-sum offset. -/
inductive MsgRule where
  | scaled (table : List Byte)
  | offset (o : Nat)
deriving DecidableEq, Repr

def MsgRule.apply (rule : MsgRule) (bg it c : Nat) (m : Int) : Int :=
  match rule with
  | .scaled t => scaledMsg (tableEntry t bg it c) m
  | .offset o => offsetMsg o m

/-- The min-sum message to each edge of a check: the least magnitude of the others, with the product of their signs; an int8. -/
def minSum (vs : List Int) : List Int :=
  vs.zipIdx.map fun e =>
    let o := vs.eraseIdx e.2
    let mag := o.foldl (fun (a : Nat) v => min a v.natAbs) 127
    if (o.filter fun v => decide (v < 0)).length % 2 = 1 then -(mag : Int) else mag

/-- Beliefs of the code bits, and the messages of each check: row × Zc + z. -/
structure Decoding where
  belief : List Int
  msgs   : List (List Int)
deriving DecidableEq, Repr

/-- One check updates the beliefs of its bits. How a belief is limited is not stated (free: `Config.beliefLimit`). -/
def checkStep (zc bg it r : Nat) (rule : MsgRule) (row : List (Nat × Nat)) (d : Decoding) (z : Nat) : Decoding :=
  let at' (e : Nat × Nat) : Nat := e.1 * zc + (z + e.2) % zc
  let old := d.msgs.getD (r * zc + z) []
  let vs := row.zipIdx.map fun e => d.belief.getD (at' e.1) 0 - old.getD e.2 0
  let new := (minSum vs).map (rule.apply bg it (edgeClass r))
  { belief := ((row.zip vs).zip new).foldl (fun b e => setAt b (at' e.1.1) (Config.beliefLimit (e.1.2 + e.2))) d.belief,
    msgs := setAt d.msgs (r * zc + z) new }

/-- One iteration over the layers, whose order is not stated (free: `Config.layerOrder`). -/
def decodeIter (bg zc it : Nat) (rule : MsgRule) (d : Decoding) : Decoding :=
  (Config.layerOrder bg).foldl (fun d r => (upTo zc).foldl (checkStep zc bg it r rule (ldpcRow bg zc r)) d) d

/-- The hard decision: positive values favour 0 (02 R41). -/
def hardBit (b : Int) : Bool := decide (b < 0)

def paritiesOk (bg zc : Nat) (d : Decoding) : Bool :=
  (upTo (checkRows bg)).all fun r => (upTo zc).all fun z =>
    !checkSum zc (fun i => hardBit (d.belief.getD i 0)) (ldpcRow bg zc r) (fun _ => true) z

/-- Iterations until every parity check is satisfied or none is left; how many were used (02 R50). -/
def decodeLoop (bg zc : Nat) (rule : MsgRule) : Nat → Nat → Decoding → Nat × Decoding
  | 0, it, d => (it, d)
  | f + 1, it, d =>
    let d1 := decodeIter bg zc it rule d
    if paritiesOk bg zc d1 then (it + 1, d1) else decodeLoop bg zc rule f (it + 1) d1

/-- The beliefs a decoder starts from: the two columns that are not sent know nothing, fillers are 0 for certain. -/
def Code38.start (c : Code38) (soft : List Int) : Decoding :=
  { belief := (upTo (allCols c.bg * c.zc)).map fun i =>
      if i < 2 * c.zc then 0 else if c.isFiller (i - 2 * c.zc) then 127 else soft.getD (i - 2 * c.zc) 0,
    msgs := List.replicate (checkRows c.bg * c.zc) [] }

/-- A code block decoded from its soft buffer: iterations used, and its K' bits. -/
def Code38.decode (c : Code38) (rule : MsgRule) (maxIt : Nat) (soft : List Int) : Nat × List Bool :=
  let (it, d) := decodeLoop c.bg c.zc rule maxIt 0 (c.start soft)
  (it, (d.belief.map hardBit).take c.kPrime)

/-- The code block's own CRC, where there is one. -/
def Code38.blockOk (c : Code38) (bits : List Bool) : Bool := c.blocks ≤ 1 || crcPasses 24 crc24b bits

/-- The transport block that code blocks hold together, with its CRC. -/
def Code38.join (c : Code38) (blocks : List (List Bool)) : List Bool := blocks.flatMap fun b => b.take (c.kPrime - c.cbCrc)

def Code38.tbOk (c : Code38) (tb : List Bool) : Bool :=
  if c.tbCrc = 24 then crcPasses 24 crc24a tb else crcPasses 16 crc16 tb

/-! ## Small payloads of UCI (02 R51) -/

/-- The coded bits of 1 to 11 UCI bits: repetition of 1 bit, the simplex word of 2, the small-block code from 3 on. -/
def smallWord (k payload : Nat) : List Bool :=
  if k = 1 then [payload.testBit 0]
  else if k = 2 then [payload.testBit 0, payload.testBit 1, payload.testBit 0 != payload.testBit 1]
  else Config.smallBlock k payload

/-- How well LLRs agree with a word that is repeated over them. -/
def agreement (word : List Bool) (llrs : List Int) : Int :=
  llrs.zipIdx.foldl (fun a e => if word.getD (e.2 % max 1 word.length) false then a - e.1 else a + e.1) 0

/-- The payload of k bits whose word agrees best; the lowest of equal ones. -/
def smallDecode (k : Nat) (llrs : List Int) : Nat :=
  ((upTo (2 ^ k)).foldl (fun (a : Nat × Int) p =>
    let v := agreement (smallWord k p) llrs
    if a.2 < v then (p, v) else a) (0, agreement (smallWord k 0) llrs)).1

end Sys2Proof.Machine
end

