-- ==== Sys2Proof/Machine/UlPhy.lean ====
section
/-! DEFINITION. What the receivers compute of an uplink slot from its grid: extraction, the learned nets' inputs and the stages around
them, the classical receiver, UCI separation and rate dematching (02 R36, R39–R44, R48, R51, R61). The resource mapping, the reference
sequences and the constellations are those of TS 38.211 (PRESUMED, log 88). -/
namespace Sys2Proof.Machine

/-! ## Resource elements -/

/-- Where an RE lies in the grid. -/
def reKey (stream sym prb re : Nat) : Nat := (stream * 14 + sym) * 3300 + prb * 12 + re

/-- The received value of a subcarrier. -/
def rxAt (x : UlSlot) (stream m sc : Nat) : CInt := cintOf (x.grid.get 0 (reKey stream m (sc / 12) (sc % 12)))

/-- Is a PRB of a stream and symbol covered by a section? -/
def coveredAt (cs : List Cover) (stream sym prb : Nat) : Bool :=
  cs.any fun c => c.stream == stream && c.sym == sym && decide (c.prb ≤ prb ∧ prb < c.prb + c.count)

/-- Has no stream received an RE: what is drawn from it is erased (DEDUCED, log 93)? -/
def erasedRe (x : UlSlot) (m sc : Nat) : Bool := (upTo x.config.nRx.toNat).all fun k => !coveredAt x.covers k m (sc / 12)

def isDmrsSym (p : Pusch) (m : Nat) : Bool :=
  p.dmrsSymMask.getLsbD m && decide (p.symStart.toNat ≤ m ∧ m < p.symStart.toNat + p.symCount.toNat)

/-- The CDM group that a subcarrier, or a port, of a DMRS type belongs to. -/
def scGroup (type sc : Nat) : Nat := if type = 2 then sc % 6 / 2 else sc % 2
def portGroup (type port : Nat) : Nat := if type = 2 then port / 2 % 3 else port / 2 % 2

/-- Does an RE of the allocation carry data? -/
def isDataRe (p : Pusch) (m sc : Nat) : Bool := !isDmrsSym p m || decide (p.cdmGroups.toNat ≤ scGroup p.dmrsType.toNat sc)

/-- The DMRS ports of a PUSCH, one for each layer. -/
def portsOf (p : Pusch) : List Nat := (upTo 12).filter fun i => p.dmrsPorts.getLsbD i

/-- First subcarrier and number of subcarriers of an allocation. -/
def firstSc (p : Pusch) : Nat := 12 * p.prbStart.toNat
def scCount (p : Pusch) : Nat := 12 * p.prbCount.toNat

/-- Data REs of symbol m in ascending order, as subcarriers. -/
def dataScs (p : Pusch) (m : Nat) : List Nat := ((upTo (scCount p)).map (firstSc p + ·)).filter (isDataRe p m)

def symsOf (p : Pusch) : List Nat := (upTo p.symCount.toNat).map (p.symStart.toNat + ·)

/-- Coded bits of a PUSCH, UCI and data together. -/
def codedBits (p : Pusch) : Nat :=
  ((symsOf p).map fun m => (dataScs p m).length).foldl (· + ·) 0 * p.layers.toNat * p.qm.toNat

/-! ## Reference values -/

/-- The value of a DMRS RE of a port, Q1.15: QPSK from the Gold sequence with the port's code, or the low-PAPR sequence. -/
def dmrsRef (slot : Nat) (mu : Nat) (p : Pusch) (port m sc : Nat) : CInt :=
  let inFrame := slot % (10 * 2 ^ mu)
  if p.tp then let v := Config.lowPapr p inFrame m sc; ⟨v.1, v.2⟩
  else
    let type := p.dmrsType.toNat
    let g := portGroup type port
    let i := if type = 2 then sc / 6 * 2 + (sc % 6 - 2 * g) else (sc - g) / 2
    let id := p.dmrsScrId.toNat
    let cInit := (2 ^ 17 * (14 * inFrame + m + 1) * (2 * id + 1) + 2 * id + p.nscid.toNat) % 2 ^ 31
    let c := goldSeq cInit (2 * i + 2)
    let sign (b : Bool) : Int := if b then -23170 else 23170
    let late := isDmrsSym p (m - 1) && decide (0 < m)
    let flip := (port % 2 = 1 ∧ i % 2 = 1) != ((if type = 2 then 6 else 4) ≤ port ∧ late)
    let r : CInt := ⟨sign (c.getD (2 * i) false), sign (c.getD (2 * i + 1) false)⟩
    if flip then ⟨-r.re, -r.im⟩ else r

/-- The least-squares estimate at a DMRS RE of a port, none elsewhere or where the RE is erased on the stream. -/
def lsAt (x : UlSlot) (p : Pusch) (stream port m sc : Nat) : Option CInt :=
  if isDmrsSym p m && scGroup p.dmrsType.toNat sc == portGroup p.dmrsType.toNat port && coveredAt x.covers stream m (sc / 12) then
    let v := (rxAt x stream m sc).mul (dmrsRef x.absSlot.toNat x.config.mu.toNat p port m sc).conj
    some ⟨Config.rounded 0 v.re 32768, Config.rounded 0 v.im 32768⟩
  else none

/-! ## Learned estimation (02 R39, R40) -/

/-- The REs of a work unit's 6 PRBs in symbol order: estimate and mask. What lies outside the allocation, and so outside the band, is 0 with
mask 0; between two blocks of a PUSCH the border PRB holds the neighbour's estimates. -/
def unitInput (x : UlSlot) (p : Pusch) (b stream port : Nat) : List (Int × Int × Bool) :=
  (upTo 14).flatMap fun m => (upTo 72).map fun (i : Nat) =>
    let rel : Int := ((48 * b + i : Nat) : Int) - 12
    if rel < 0 ∨ (scCount p : Int) ≤ rel then (0, 0, false)
    else match lsAt x p stream port m (firstSc p + rel.toNat) with
      | some v => (v.re, v.im, true)
      | none => (0, 0, false)

/-- The block exponent: the least that brings every estimate into INT8 (DEDUCED, log 93). -/
def unitExponent (t : List (Int × Int × Bool)) : Nat :=
  ((upTo 32).find? fun e => t.all fun v => decide (v.1.natAbs ≤ 127 * 2 ^ e ∧ v.2.1.natAbs ≤ 127 * 2 ^ e)).getD 31

/-- The tensor [3, 14, 72]: I, Q and mask planes. -/
def unitTensor (t : List (Int × Int × Bool)) (e : Nat) : List Int :=
  (t.map fun v => Config.rounded 1 v.1 (2 ^ e)) ++ (t.map fun v => Config.rounded 1 v.2.1 (2 ^ e)) ++ t.map fun v => if v.2.2 then 1 else 0

def learnedUnit (w : List Byte) (x : UlSlot) (p : Pusch) (b stream port : Nat) : EstBlock :=
  let t := unitInput x p b stream port
  let e := unitExponent t
  let (h, n) := Config.estNet w (unitTensor t e) e
  { h, noise := n }

/-! ## Classical estimation (02 R61) -/

/-- The mean of the LS values at a subcarrier over the DMRS symbols. -/
def lsMean (x : UlSlot) (p : Pusch) (stream port sc : Nat) : Option CRat :=
  let vs := (symsOf p).filterMap fun m => lsAt x p stream port m sc
  if vs.isEmpty then none else some ((CRat.ofInt (CInt.sum vs)).scale (1 / (vs.length : Rat)))

/-- Linear interpolation between the nearest subcarriers with a mean; beyond the outermost ones it holds (DEDUCED, log 93). -/
def interpolate (known : List (Nat × CRat)) (sc : Nat) : CRat :=
  let lo := (known.filter fun k => decide (k.1 ≤ sc)).getLast?
  let hi := known.find? fun k => decide (sc ≤ k.1)
  match lo, hi with
  | some a, some b =>
    if a.1 = b.1 then a.2
    else ((a.2.scale (b.1 - sc : Rat)).add (b.2.scale (sc - a.1 : Rat))).scale (1 / (b.1 - a.1 : Rat))
  | some a, none => a.2
  | none, some b => b.2
  | none, none => CRat.zero

/-- A rational estimate as Q1.15. -/
def roundC (step : Nat) (z : CRat) : CInt := ⟨Config.rounded step z.re.num z.re.den, Config.rounded step z.im.num z.im.den⟩

def classicalUnit (x : UlSlot) (p : Pusch) (b stream port : Nat) : EstBlock :=
  let scs := (upTo (scCount p)).map (firstSc p + ·)
  let known := scs.filterMap fun sc => (lsMean x p stream port sc).map fun v => (sc, v)
  let at' (sc : Nat) : CInt := roundC 2 (interpolate known sc)
  let row := (upTo 48).map fun i => cwordOf (at' (firstSc p + 48 * b + i))
  let pair (z : CInt) : Int × Int := (z.re, z.im)
  let noise := (upTo 4).map fun k =>
    let own := (upTo 14).flatMap fun m => (upTo 12).filterMap fun i =>
      let sc := firstSc p + 48 * b + 12 * k + i
      (lsAt x p stream port m sc).map fun v => (pair v, pair (at' sc))
    Config.noiseOf (own.map (·.1)) (own.map (·.2))
  { h := (List.replicate 14 row).flatten, noise }

/-! ## A receiver: the nets of a version, or the classical one -/

inductive Receiver where
  | learned (weights : List Byte)
  | classical
deriving DecidableEq, Repr

/-- 4-PRB blocks of an allocation. -/
def blocksOf (p : Pusch) : Nat := ceilDiv p.prbCount.toNat 4

/-- All work units of a PUSCH: block by block, for each stream and layer. -/
def estimate (rcv : Receiver) (x : UlSlot) (p : Pusch) : List EstBlock :=
  (upTo (blocksOf p)).flatMap fun b => (upTo x.config.nRx.toNat).flatMap fun k => (portsOf p).map fun port =>
    match rcv with
    | .learned w => learnedUnit w x p b k port
    | .classical => classicalUnit x p b k port

def unitAt (x : UlSlot) (p : Pusch) (est : List EstBlock) (b stream layer : Nat) : EstBlock :=
  est.getD ((b * x.config.nRx.toNat + stream) * p.layers.toNat + layer) { h := [], noise := [] }

/-- The channel estimate of a layer at an RE. -/
def chanAt (x : UlSlot) (p : Pusch) (est : List EstBlock) (stream layer m sc : Nat) : CInt :=
  let rel := sc - firstSc p
  cintOf ((unitAt x p est (rel / 48) stream layer).h.getD (m * 48 + rel % 48) 0)

/-- The noise variances of a PRB, one for each stream and layer. -/
def noiseAt (x : UlSlot) (p : Pusch) (est : List EstBlock) (prb : Nat) : List Half :=
  let rel := prb - p.prbStart.toNat
  (upTo x.config.nRx.toNat).flatMap fun k => (upTo p.layers.toNat).map fun l => (unitAt x p est (rel / 4) k l).noise.getD (rel % 4) 0

/-! ## Detection (02 R40, R61): the users of a PRB jointly -/

abbrev User := Pusch × List EstBlock

/-- Does a PUSCH lie on a PRB and symbol? -/
def liesOn (p : Pusch) (prb m : Nat) : Bool :=
  decide (p.prbStart.toNat ≤ prb ∧ prb < p.prbStart.toNat + p.prbCount.toNat ∧ p.symStart.toNat ≤ m ∧ m < p.symStart.toNat + p.symCount.toNat)

/-- The channel matrix at an RE: for each stream the layers of all users, in record order. -/
def chanMatrix (x : UlSlot) (us : List User) (m sc : Nat) : List (List CInt) :=
  (upTo x.config.nRx.toNat).map fun k => us.flatMap fun u => (upTo u.1.layers.toNat).map fun l => chanAt x u.1 u.2 k l m sc

def column (h : List (List CInt)) (j : Nat) : List CInt := h.map fun r => r.getD j CInt.zero

/-- conj(a) · b summed over the streams. -/
def inner (a b : List CInt) : CInt := CInt.sum ((a.zip b).map fun e => e.1.conj.mul e.2)

/-- Matched-filter and Gram products at an RE, in complex INT16 mode. -/
def matched (n : Nat) (h : List (List CInt)) (y : List CInt) : List CInt := (upTo n).map fun j => inner (column h j) y
def gram (n : Nat) (h : List (List CInt)) : List CInt := (upTo n).flatMap fun i => (upTo n).map fun j => inner (column h i) (column h j)

/-- The rational value of a BF16 code. -/
def bfRat (b : Half) : Rat :=
  match decodeF fmtBf16 b.toNat with
  | .fin neg m (.ofNat k) => (if neg then -1 else 1) * (m * 2 ^ k : Nat)
  | .fin neg m (.negSucc k) => (if neg then -1 else 1) * ((m : Rat) / (2 ^ (k + 1) : Nat))
  | _ => 0

/-- The mean of variances. -/
def meanBf (l : List Half) : Rat := if l.isEmpty then 0 else (l.map bfRat).foldl (· + ·) 0 / (l.length : Rat)

/-- LMMSE of an RE: x̂ = (HᴴH + σ²I)⁻¹Hᴴy, and the error variance σ²((HᴴH + σ²I)⁻¹) of each layer. -/
def lmmse (n : Nat) (h : List (List CInt)) (y : List CInt) (noise : List Half) : List (Word × Half) :=
  let hm : CMat := h.map fun r => r.map CRat.ofInt
  let s2 := meanBf noise * (2 ^ 30 : Nat)
  let hh := cHerm n hm
  let a := cDiag s2 (cMul n hh hm)
  let unit : CMat := (upTo n).map fun i => (upTo n).map fun j => if i = j then CRat.one else CRat.zero
  let rhs := cMul 1 hh (y.map fun z => [CRat.ofInt z])
  let sol := cSolve n a ((rhs.zip unit).map fun e => e.1 ++ e.2)
  (upTo n).map fun i =>
    let v := s2 * (cEntry sol i (1 + i)).re
    (cwordOf (roundC 3 ((cEntry sol i 0).scale (2 ^ 15 : Nat))), Config.bfRounded 3 v.num v.den)

/-- Layer symbols and error variances of a PRB and symbol, RE by RE, the layers of all its users together. -/
def detectPrb (rcv : Receiver) (x : UlSlot) (us : List User) (m prb : Nat) : DetPrb :=
  let n := (us.map fun u => u.1.layers.toNat).foldl (· + ·) 0
  let scs := (upTo 12).map (12 * prb + ·)
  let y (sc : Nat) : List CInt := (upTo x.config.nRx.toNat).map fun k => rxAt x k m sc
  let noise := us.flatMap fun u => noiseAt x u.1 u.2 prb
  match rcv with
  | .learned w =>
    let pair (z : CInt) : Int × Int := (z.re, z.im)
    let mf := scs.flatMap fun sc => (matched n (chanMatrix x us m sc) (y sc)).map pair
    let gr := scs.flatMap fun sc => (gram n (chanMatrix x us m sc)).map pair
    let er := scs.map (erasedRe x m)
    let (a, b) := (upTo 4).foldl (fun v k => Config.detStage w k (mf, gr) (noise, er) v) ([], [])
    { sym := a, var := b }
  | .classical =>
    let l := scs.flatMap fun sc => lmmse n (chanMatrix x us m sc) (y sc) noise
    { sym := l.map (·.1), var := l.map (·.2) }

/-- What a PUSCH takes of a jointly detected PRB: its own layers, which begin at layer `first` of `n`. -/
def ownLayers (n first k : Nat) (d : DetPrb) : DetPrb :=
  let pick {α : Type} (z : α) (l : List α) : List α := (upTo 12).flatMap fun i => (upTo k).map fun j => l.getD (i * n + first + j) z
  { sym := pick 0 d.sym, var := pick 0 d.var }

/-- Detection of a PUSCH with the users that share its PRBs: symbol by symbol, PRB by PRB. -/
def detect (rcv : Receiver) (x : UlSlot) (us : List User) (i : Nat) (p : Pusch) : List DetPrb :=
  (symsOf p).flatMap fun m => (upTo p.prbCount.toNat).map fun q =>
    let prb := p.prbStart.toNat + q
    let on := us.zipIdx.filter fun u => liesOn u.1.1 prb m
    let layers (l : List (User × Nat)) : Nat := (l.map fun u => u.1.1.layers.toNat).foldl (· + ·) 0
    ownLayers (layers on) (layers (on.filter fun u => decide (u.2 < i))) p.layers.toNat (detectPrb rcv x (on.map (·.1)) m prb)

/-! ## Constellations and demapping (02 R41, R42, R61) -/

/-- The level of the bits of one component (TS 38.211, clause 5.1). -/
def qamLevel : List Bool → Int
  | [] => 0
  | b :: r => (if b then -1 else 1) * ((2 ^ r.length : Nat) - qamLevel r)

/-- The power of a constellation in its levels. -/
def qamNorm (qm : Nat) : Nat := if qm ≤ 2 then 2 else if qm = 4 then 10 else if qm = 6 then 42 else 170

def evens (l : List Bool) : List Bool := (upTo ((l.length + 1) / 2)).map fun i => l.getD (2 * i) false
def odds (l : List Bool) : List Bool := (upTo (l.length / 2)).map fun i => l.getD (2 * i + 1) false

/-- The point of the bits of the i-th symbol: levels of I and Q. π/2-BPSK turns every second symbol. -/
def qamPoint (qm i : Nat) (bits : List Bool) : CInt :=
  if qm = 1 then
    let v := qamLevel (bits.take 1)
    if i % 2 = 0 then ⟨v, v⟩ else ⟨-v, v⟩
  else ⟨qamLevel (evens bits), qamLevel (odds bits)⟩

/-- The squared distance of a layer symbol from a point, 90 fraction bits less than exact fixed point. -/
def pointDistance (qm i : Nat) (bits : List Bool) (z : CInt) : Nat :=
  let p := qamPoint qm i bits
  let k : Int := invSqrtFix (qamNorm qm)
  CInt.norm ⟨z.re * 2 ^ 45 - p.re * k, z.im * 2 ^ 45 - p.im * k⟩

def minOf (l : List Nat) : Nat := match l with | [] => 0 | a :: r => r.foldl min a

/-- Max-log LLRs of a layer symbol, in units of 1/4 (02 R41). -/
def maxLog (qm i : Nat) (z : CInt) (var : Half) : List Byte :=
  (upTo qm).map fun b =>
    let far (v : Bool) : Nat := minOf (((upTo (2 ^ qm)).map (msbBits qm)).filterMap fun w =>
      if w.getD b false == v then some (pointDistance qm i w z) else none)
    let q := (4 * ((far true : Int) - far false) : Rat) / (bfRat var * (2 ^ 120 : Nat))
    BitVec.ofInt 8 (clampInt (-127) 127 (Config.rounded 4 q.num q.den))

/-- An LLR as the demapper emits it (02 R41). -/
def llrOut (b : Byte) : Byte := if b = 0x80 then 0x81 else b

/-- The layer symbols of a PUSCH's symbol before demapping: the inverse DFT is applied under transform precoding (02 R42). -/
def symbolsIn38 (p : Pusch) (det : List DetPrb) (s : Nat) : List Word :=
  let own := (upTo p.prbCount.toNat).flatMap fun q => (det.getD (s * p.prbCount.toNat + q) { sym := [], var := [] }).sym
  if p.tp then Config.inverseDft own else own

/-- The LLRs of the s-th symbol of a PUSCH in coded-bit order: its data REs, their layers, the bits; 0 for what is drawn from an erased RE (02
R36). -/
def demapSymbol (rcv : Receiver) (x : UlSlot) (p : Pusch) (det : List DetPrb) (s : Nat) : List Byte :=
  let m := p.symStart.toNat + s
  let n := p.layers.toNat
  let qm := p.qm.toNat
  let z := symbolsIn38 p det s
  let var (i : Nat) : Half := (det.getD (s * p.prbCount.toNat + i / 12 / max 1 n) { sym := [], var := [] }).var.getD (i % (12 * max 1 n)) 0
  let prb (q : Nat) : List Byte :=
    match rcv with
    | .learned w => Config.demapNet w qm ((z.drop (12 * n * q)).take (12 * n)) ((upTo (12 * n)).map fun i => var (12 * n * q + i))
    | .classical => (upTo (12 * n)).flatMap fun i => maxLog qm (12 * q + i / max 1 n) (cintOf (z.getD (12 * n * q + i) 0)) (var (12 * n * q + i))
  (dataScs p m).flatMap fun sc =>
    let rel := sc - firstSc p
    (upTo (n * qm)).map fun b =>
      if erasedRe x m sc then 0 else llrOut ((prb (rel / 12)).getD (rel % 12 * n * qm + b) 0)

/-! ## UCI separation, descrambling, rate dematching (02 R44) -/

/-- LLRs descrambled: those whose scrambling bit is 1 are negated. -/
def descramble (cInit : Nat) (l : List Byte) : List Int :=
  (l.zip (goldSeq cInit l.length)).map fun e => if e.2 then -e.1.toInt else e.1.toInt

/-- What a PUSCH's LLRs so far give of one kind: 0 data, 1 HARQ-ACK, 2 and 3 the CSI parts. -/
def separated (p : Pusch) (llrs : List Byte) (kind : Nat) : List Int :=
  let plan := Config.uciPlan p (codedBits p)
  let d := descramble (p.rnti.toNat * 2 ^ 15 + p.dataScrId.toNat) llrs
  (d.zipIdx.filter fun e => plan.getD e.2 0 == kind).map (·.1)

/-- Coded bits of a PUSCH that carry data. -/
def dataBits (p : Pusch) : Nat :=
  let plan := Config.uciPlan p (codedBits p)
  ((upTo (codedBits p)).filter fun i => plan.getD i 0 == 0).length

def codeOf (p : Pusch) : Code38 := code38 p.tbsBits.toNat p.rateX1024.toNat

def ncbOf (u : UlCell) (p : Pusch) : Nat := (codeOf p).ncb p.lbrm (Config.tbsLbrm u.nPrb.toNat u.maxLayers.toNat)

/-- The rate-matched bits of each code block, and where each begins among the data bits. -/
def blockShares (p : Pusch) : List Nat := (codeOf p).shares (dataBits p) p.layers.toNat p.qm.toNat
def blockStart (p : Pusch) (r : Nat) : Nat := ((blockShares p).take r).foldl (· + ·) 0

/-- Code blocks whose LLRs have all come. -/
def blocksReady (p : Pusch) (llrs : List Byte) : Nat :=
  let n := (separated p llrs 0).length
  ((upTo (codeOf p).blocks).filter fun r => decide (blockStart p (r + 1) ≤ n)).length

/-- The new LLRs of a code block at their positions in its circular buffer. -/
def newBlock (u : UlCell) (p : Pusch) (llrs : List Byte) (r : Nat) : List Byte :=
  let own := ((separated p llrs 0).drop (blockStart p r)).take ((blockShares p).getD r 0)
  ((codeOf p).placed (ncbOf u p) p.rv.toNat p.qm.toNat own).map (BitVec.ofInt 8)

/-- The message rule of the bank for a receiver. -/
def ruleOf (rcv : Receiver) (u : UlCell) : MsgRule :=
  match rcv with
  | .learned w => .scaled (Config.tableOf w)
  | .classical => .offset u.msOffset.toNat

/-- A code block decoded: iterations, whether its CRC checks, its bits. -/
def decodeBlock (rcv : Receiver) (u : UlCell) (p : Pusch) (soft : List Byte) : Nat × Bool × List Bool :=
  let (it, bits) := (codeOf p).decode (ruleOf rcv u) u.ldpcMaxIter.toNat (soft.map (·.toInt))
  (it, (codeOf p).blockOk bits, bits)

/-- Does a transport block of decoded blocks pass? -/
def transportOk (p : Pusch) (blocks : List (Bool × List Bool)) : Bool :=
  blocks.all (·.1) && (codeOf p).tbOk ((codeOf p).join (blocks.map (·.2)))

/-- Saturating sum of two LLRs (02 R46). -/
def llrAdd (a b : Byte) : Byte := BitVec.ofInt 8 (llrSum a.toInt b.toInt)

/-- New LLRs with those staged for the block, position by position. -/
def combine (new staged : List Byte) : List Byte := new.zipIdx.map fun e => llrAdd e.1 (staged.getD e.2 0)

/-- The outcome of a PUSCH in another receiver of the same grid, with what was staged for it (02 R65; 05 R132, R133). -/
def passIn (rcv : Receiver) (x : UlSlot) (ps : List Pusch) (i : Nat) (p : Pusch) (staged : List (List Byte)) : Bool :=
  let us := ps.map fun q => (q, estimate rcv x q)
  let det := detect rcv x us i p
  let llrs := (upTo p.symCount.toNat).flatMap (demapSymbol rcv x p det)
  transportOk p ((upTo (codeOf p).blocks).map fun r =>
    (decodeBlock rcv x.config p (combine (newBlock x.config p llrs r) (staged.getD r []))).2)

/-! ## UCI (02 R51) -/

/-- A payload of k bits from its LLRs: repetition or the small-block code below 12 bits, else the polar decoder; whether its check failed. -/
def decodeUci (list k : Nat) (llrs : List Int) : Bool × List Bool :=
  if k = 0 then (false, [])
  else if k ≤ 11 then
    let v := smallDecode k llrs
    (false, (upTo k).map fun i => v.testBit i)
  else
    let (ok, bits) := Config.polarDecode list k llrs
    (!ok, bits)

/-- The UCI of a PUSCH. -/
def puschUci (u : UlCell) (p : Pusch) (llrs : List Byte) : Bool × List Bool :=
  let parts := [(p.ackBits.toNat, 1), (p.csi1Bits.toNat, 2), (p.csi2Bits.toNat, 3)].map fun e =>
    decodeUci u.polarList.toNat e.1 (separated p llrs e.2)
  (parts.any (·.1), parts.flatMap (·.2))

/-- A PUCCH of formats 2 to 4 as the nets take it: a single-layer PUSCH. -/
def pucchAsPusch (u : UlCell) (q : Pucch) : Pusch :=
  { rnti := q.rnti, ueCtx := q.ueCtx, prbStart := q.prbStart, prbCount := q.prbCount, symStart := q.symStart, symCount := q.symCount, layers := 1,
    qm := 2, rateX1024 := 0, harqId := 0, ndi := false, rv := 0, tp := decide (3 ≤ q.format.toNat), lbrm := false, flagsRsvd := 0, tbsBits := 0,
    dmrsSymMask := BitVec.ofNat 14 (Config.pucchDmrs q), maskRsvd := 0, dmrsPorts := 1, dmrsScrId := u.pci, dmrsType := 1, cdmGroups := 2, nscid := false, cfgRsvd := false,
    rsvd1b := 0, dataScrId := u.pci, ackBits := 0, csi1Bits := 0, csi2Bits := 0, betaAck := 0, betaCsi1 := 0, betaCsi2 := 0, alpha := 0, rsvd28 := 0 }

/-- Its REs, symbol by symbol. -/
def pucchRes (x : UlSlot) (q : Pucch) (stream : Nat) : List CInt :=
  (upTo q.symCount.toNat).flatMap fun m => (upTo (12 * q.prbCount.toNat)).map fun i =>
    rxAt x stream (q.symStart.toNat + m) (12 * q.prbStart.toNat + i)

/-- Formats 0 and 1: the payload whose sequence correlates best over all streams. -/
def correlate (x : UlSlot) (q : Pucch) : List Bool :=
  let score (v : Nat) : Nat :=
    ((upTo x.config.nRx.toNat).map fun k =>
      (inner ((Config.pucchSequence q v).map fun z => ⟨z.1, z.2⟩) (pucchRes x q k)).norm).foldl (· + ·) 0
  let n := q.payloadBits.toNat % 12
  let best := ((upTo (2 ^ n)).foldl (fun (a : Nat × Nat) v => if a.2 < score v then (v, score v) else a) (0, score 0)).1
  (upTo n).map fun i => best.testBit i

/-- The UCI of a PUCCH of formats 2 to 4 from its LLRs. -/
def pucchUci (u : UlCell) (q : Pucch) (llrs : List Byte) : Bool × List Bool :=
  decodeUci u.polarList.toNat q.payloadBits.toNat (descramble (q.rnti.toNat * 2 ^ 15 + u.pci.toNat) llrs)

/-! ## SRS and PRACH -/

/-- The REs of a PRB range over all streams and symbols. -/
def rangeRes (x : UlSlot) (prb n : Nat) : List Word :=
  (upTo x.config.nRx.toNat).flatMap fun k => (upTo 14).flatMap fun m => (upTo (12 * n)).map fun i =>
    x.grid.get 0 (reKey k m (prb + i / 12) (i % 12))

/-- REs of an SRS port: every comb-th subcarrier of its PRBs. -/
def srsRes (x : UlSlot) (r : Srs) : List Word :=
  ((rangeRes x r.prbStart.toNat r.prbCount.toNat).zipIdx.filter fun e => e.2 % r.comb.toNat == 0).map (·.1)

/-- The per-PRB estimates of a user's ports, 4 bytes each: port by port, PRB by PRB, stream by stream. -/
def srsEstimates (rcv : Receiver) (x : UlSlot) (r : Srs) : List Byte :=
  (upTo r.ports.toNat).flatMap fun port =>
    let w := match rcv with | .learned w => some w | .classical => none
    let e := Config.srsNet w r port (srsRes x r)
    (upTo (r.prbCount.toNat * x.config.nRx.toNat)).flatMap fun i => leBytes 4 (e.getD i 0).toNat

/-- The REs of a PRACH occasion, of its PRBs to the carrier's end. -/
def prachRes (x : UlSlot) (r : Prach) : List Word := rangeRes x r.prbStart.toNat (x.config.nPrb.toNat - r.prbStart.toNat)

end Sys2Proof.Machine
end

