-- ==== Sys2Proof/Machine/DlPhy.lean ====
section
/-! DEFINITION. What the encoder, the grid engine and the precoder tasks compute of a downlink slot: coded bits, symbols, precoders, control and
reference signals, SSB, compression (03 R71–R81). TS 38.211 and TS 38.212 give what the chapter takes from them (PRESUMED, log 88). -/
namespace Sys2Proof.Machine

/-! ## PDSCH: coding, symbols, mapping (03 R71) -/

/-- A PDSCH as far as its mapping is that of a PUSCH (03 R70). -/
def pdschAsPusch (p : Pdsch) : Pusch :=
  { rnti := p.rnti, ueCtx := p.ueCtx, prbStart := p.prbStart, prbCount := p.prbCount, symStart := p.symStart, symCount := p.symCount,
    layers := p.layers, qm := p.qm, rateX1024 := p.rateX1024, harqId := p.harqId, ndi := false, rv := p.rv, tp := false, lbrm := p.lbrm,
    flagsRsvd := 0, tbsBits := p.tbsBits, dmrsSymMask := p.dmrsSymMask, maskRsvd := 0, dmrsPorts := p.dmrsPorts, dmrsScrId := p.dmrsScrId,
    dmrsType := p.dmrsType, cdmGroups := p.cdmGroups, nscid := p.nscid, cfgRsvd := false, rsvd1b := 0, dataScrId := p.dataScrId, ackBits := 0,
    csi1Bits := 0, csi2Bits := 0, betaAck := 0, betaCsi1 := 0, betaCsi2 := 0, alpha := 0, rsvd28 := 0 }

/-- Bits scrambled with a Gold sequence from position `skip` on. -/
def scramble (cInit skip : Nat) (l : List Bool) : List Bool := xorBits l ((goldSeq cInit (skip + l.length)).drop skip)

/-- The scrambled coded bits of a PDSCH. -/
def encodePdsch (d : DlCell) (p : Pdsch) (payload : List Byte) : List Bool :=
  let c := code38 p.tbsBits.toNat p.rateX1024.toNat
  let ncb := c.ncb p.lbrm (Config.tbsLbrm d.nPrb.toNat d.maxLayers.toNat)
  let bits := ((byteBits payload) ++ List.replicate p.tbsBits.toNat false).take p.tbsBits.toNat
  scramble (p.rnti.toNat * 2 ^ 15 + p.dataScrId.toNat) 0
    (c.coded ncb p.rv.toNat (codedBits (pdschAsPusch p)) p.layers.toNat p.qm.toNat bits)

/-- A value of the unit circle or of a constellation, times 1/4 and a power in 0.5 dB, as Q1.15: `z` has `frac` fraction bits. -/
def scaledQ15 (power : Int) (frac : Nat) (z : CInt) : CInt :=
  let one (v : Int) : Int := satInt 16 (Config.rounded 7 (Config.rounded 6 (v * 2 ^ 15) (2 ^ (frac + 2)) * dbFix power) (2 ^ 60))
  ⟨one z.re, one z.im⟩

/-- A constellation point in Q1.15 with the back-off and the power (03 R71). -/
def pointQ15 (qm : Nat) (power : Int) (bits : List Bool) : CInt :=
  let p := qamPoint qm 0 bits
  let k : Int := invSqrtFix (qamNorm qm)
  scaledQ15 power 60 ⟨p.re * k, p.im * k⟩

/-- Data REs of a PDSCH in mapping order: symbol and subcarrier. -/
def dataRes (p : Pdsch) : List (Nat × Nat) :=
  let u := pdschAsPusch p
  (symsOf u).flatMap fun m => (dataScs u m).map fun sc => (m, sc)

/-- The constellation bits of layer l at the i-th data RE. -/
def reBits (p : Pdsch) (coded : List Bool) (i l : Nat) : List Bool := (coded.drop ((i * p.layers.toNat + l) * p.qm.toNat)).take p.qm.toNat

/-- What each layer carries at an RE of a PDSCH: data, or its port's DMRS, or nothing. -/
def layersOf (d : DlCell) (slot : Nat) (p : Pdsch) (coded : List Bool) (m sc : Nat) : List CInt :=
  let u := pdschAsPusch p
  match (dataRes p).findIdx? (· = (m, sc)) with
  | some i => (upTo p.layers.toNat).map fun l => pointQ15 p.qm.toNat p.power.toInt (reBits p coded i l)
  | none =>
    if isDmrsSym u m && decide (firstSc u ≤ sc ∧ sc < firstSc u + scCount u) then
      (portsOf u).map fun port =>
        if scGroup p.dmrsType.toNat sc = portGroup p.dmrsType.toNat port then scaledQ15 p.power.toInt 15 (dmrsRef slot d.mu.toNat u port m sc)
        else CInt.zero
    else List.replicate p.layers.toNat CInt.zero

/-! ## Precoders (03 R72–R74) -/

/-- PRBs of a precoding group; groups are counted from the allocation's first PRB (DEDUCED, log 100). -/
def groupSize (p : Pdsch) : Nat := if p.prg = 0 then p.prbCount.toNat else p.prg.toNat
def groupCount (p : Pdsch) : Nat := ceilDiv p.prbCount.toNat (max 1 (groupSize p))
def groupOf (p : Pdsch) (prb : Nat) : Nat := (prb - p.prbStart.toNat) / max 1 (groupSize p)

/-- Halves of a supplied precoder block: real and imaginary parts in turn. -/
def blockLength (d : DlCell) (p : Pdsch) : Nat := groupCount p * d.nTx.toNat * p.layers.toNat * 2

/-- A supplied block as one matrix for each group. -/
def suppliedMatrices (d : DlCell) (p : Pdsch) (b : List Half) : List (List Word) :=
  let n := d.nTx.toNat * p.layers.toNat
  (upTo (groupCount p)).map fun g => (upTo n).map fun k => b.getD (2 * (g * n + k) + 1) 0 ++ b.getD (2 * (g * n + k)) 0

/-- The estimate of an SRS port for a PRB and stream. -/
def srsAt (e : SrsSet) (port prb n : Nat) : Word :=
  if e.prbStart ≤ prb ∧ prb < e.prbStart + e.prbCount ∧ n < e.streams then
    BitVec.ofNat 32 (leNat ((e.est.drop ((((port * e.prbCount) + (prb - e.prbStart)) * e.streams + n) * 4)).take 4))
  else 0

/-- The rows of H that a PDSCH contributes to a range of PRBs: SRS ports 0 to layers − 1 of its user. -/
def channelRows (d : DlCell) (p : Pdsch) (e : SrsSet) (prbs : List Nat) : List (List CInt) :=
  (upTo p.layers.toNat).map fun port => (upTo d.nTx.toNat).map fun n => cintOf (Config.groupChannel (prbs.map fun k => srsAt e port k n))

/-- A column scaled to unit norm and quantised to Q1.15. -/
def unitColumn (c : List CRat) : List Word :=
  let s := c.foldl (fun a z => a + z.norm) 0
  let one (v : Rat) : Int :=
    let r : Int := rootNat 2 62 ((v * v / s * (2 ^ 120 : Nat)).floor.toNat)
    Config.rounded 8 (if v < 0 then -r else r) (2 ^ 45)
  c.map fun z => cwordOf ⟨one z.re, one z.im⟩

/-- W = Hᴴ(HHᴴ + σ²I)⁻¹ by columns, each of unit norm. -/
def regularised (nTx : Nat) (h : List (List CInt)) (s2 : Rat) : List (List Word) :=
  let hm : CMat := h.map fun r => r.map CRat.ofInt
  let n := h.length
  let hh := cHerm nTx hm
  let a := cDiag (s2 * (2 ^ 30 : Nat)) (cMul n hm hh)
  let unit : CMat := (upTo n).map fun i => (upTo n).map fun j => if i = j then CRat.one else CRat.zero
  let w := cMul n hh (cSolve n a unit)
  (upTo n).map fun j => unitColumn ((upTo nTx).map fun i => cEntry w i j)

/-! ## Precoding (03 R75) -/

/-- What a PDSCH adds to transmit stream n at an RE, 15 fraction bits more than Q1.15; type 0 sends layer l on stream l. -/
def streamPart (d : DlCell) (p : PdschSt) (prb n : Nat) (v : List CInt) : CInt :=
  if p.cfg.precodeType = 0 then let z := v.getD n CInt.zero; ⟨z.re * 2 ^ 15, z.im * 2 ^ 15⟩
  else
    let w := p.weights.getD (groupOf p.cfg prb) []
    CInt.sum (v.zipIdx.map fun e => (cintOf (w.getD (e.2 * d.nTx.toNat + n) 0)).mul e.1)

/-- The PDSCHs on a PRB and symbol; what one without a usable SRS set carries there is 0 (03 R74). -/
def lyingOn (x : DlSlot) (prb m : Nat) : List PdschSt := x.pdsch.filter fun p => !p.noConfig && liesOn (pdschAsPusch p.cfg) prb m
def sendingOn (x : DlSlot) (prb m : Nat) : List PdschSt := (lyingOn x prb m).filter fun p => !p.noSrs

/-- The precoded value of an RE for a stream, and whether it saturates. -/
def precodedRe (x : DlSlot) (prb m sc n : Nat) : CInt × Bool :=
  let z := CInt.sum ((sendingOn x prb m).map fun p => streamPart x.config p prb n (layersOf x.config x.absSlot.toNat p.cfg p.coded m sc))
  let v : CInt := ⟨Config.rounded 9 z.re (2 ^ 15), Config.rounded 9 z.im (2 ^ 15)⟩
  let r : CInt := ⟨satInt 16 v.re, satInt 16 v.im⟩
  (r, decide (r ≠ v))

/-- The value of a layer stream: the layers of the PRB's PDSCHs follow each other in record order (DEDUCED, log 100). -/
def layerRe (x : DlSlot) (prb m sc n : Nat) : CInt :=
  ((lyingOn x prb m).flatMap fun p =>
    if p.noSrs then List.replicate p.cfg.layers.toNat CInt.zero else layersOf x.config x.absSlot.toNat p.cfg p.coded m sc).getD n CInt.zero

def compsOf (l : List CInt) : List Half := l.flatMap fun z => [BitVec.ofInt 16 z.re, BitVec.ofInt 16 z.im]

/-- PRBs of a symbol on which PDSCHs lie. -/
def usedPrbs (x : DlSlot) (m : Nat) : List Nat := (upTo x.config.nPrb.toNat).filter fun k => !(lyingOn x k m).isEmpty

/-- Streams of a PRB: transmit streams, or with precode_place = 1 its layers. -/
def streamsOn (x : DlSlot) (prb m : Nat) : Nat :=
  if x.config.precodePlace = 0 then x.config.nTx.toNat else ((lyingOn x prb m).map fun p => p.cfg.layers.toNat).foldl (· + ·) 0

/-- The PDSCH part of a symbol. -/
def symbolPrbs (x : DlSlot) (m : Nat) : List DlPrb :=
  (usedPrbs x m).flatMap fun prb => (upTo (streamsOn x prb m)).map fun n =>
    { stream := Fin.ofNat 16 n, sym := Fin.ofNat 14 m, prb := BitVec.ofNat 16 prb,
      comps := compsOf ((upTo 12).map fun i =>
        if x.config.precodePlace = 0 then (precodedRe x prb m (12 * prb + i) n).1 else layerRe x prb m (12 * prb + i) n) }

/-- REs of a symbol that saturate on a stream, as PRB and subcarrier; each is counted once. -/
def saturatedRes (x : DlSlot) (m : Nat) : List (Nat × Nat) :=
  if x.config.precodePlace ≠ 0 then []
  else (usedPrbs x m).flatMap fun prb => ((upTo 12).map (12 * prb + ·)).filterMap fun sc =>
    if (upTo x.config.nTx.toNat).any fun n => (precodedRe x prb m sc n).2 then some (prb, sc) else none

/-- Does a PDSCH put anything on an RE? -/
def hasRe (x : DlSlot) (p : PdschSt) (m sc : Nat) : Bool :=
  (layersOf x.config x.absSlot.toNat p.cfg p.coded m sc).any fun z => z != CInt.zero

/-! ## PDCCH (03 R76) -/

/-- The scrambled bits of a PDCCH: CRC with the RNTI in its last 16 bits, polar code, aggregation level × 108 bits. -/
def encodePdcch (p : Pdcch) : List Bool :=
  let a := (byteBits p.dci).take p.dciBits.toNat
  let crc := crc24c (List.replicate 24 true ++ a)
  let masked := crc.take 8 ++ xorBits (crc.drop 8) (msbBits 16 p.rnti.toNat)
  scramble (Config.pdcchInit p) 0 (Config.polarEncode (p.aggLevel.toNat * 108) (a ++ masked))

/-- QPSK value of a pair of Gold bits with 15 fraction bits. -/
def goldQpsk (cInit i : Nat) : CInt :=
  let c := goldSeq cInit (2 * i + 2)
  let sign (b : Bool) : Int := if b then -23170 else 23170
  ⟨sign (c.getD (2 * i) false), sign (c.getD (2 * i + 1) false)⟩

/-- Its REs: symbol, subcarrier, value before the broadcast weights; every fourth subcarrier from 1 on carries DMRS. -/
def pdcchRes (d : DlCell) (slot : Nat) (p : PdcchSt) : List (Nat × Nat × CInt) :=
  let inFrame := slot % (10 * 2 ^ d.mu.toNat)
  let power := p.cfg.power.toInt
  (Config.coresetRegs p.cfg d.pci.toNat).zipIdx.flatMap fun e =>
    let m := e.1.1
    let id := p.cfg.scrId.toNat
    let cInit := (2 ^ 17 * (14 * inFrame + m + 1) * (2 * id + 1) + 2 * id) % 2 ^ 31
    (upTo 12).map fun k =>
      let v := if k % 4 = 1 then scaledQ15 power 15 (goldQpsk cInit (3 * e.1.2 + k / 4))
        else pointQ15 2 power ((p.coded.drop (2 * (9 * e.2 + (k - (k + 2) / 4)))).take 2)
      (m, 12 * e.1.2 + k, v)

/-! ## SSB (03 R77): TS 38.211, clauses 7.4.2 and 7.4.3 -/

/-- A linear recurrence of length 7: x(i+7) = x(i+a) + x(i). -/
def lfsr7 (a : Nat) (init : List Bool) (n : Nat) : List Bool :=
  (upTo n).foldl (fun l _ => let k := l.length - 7; l ++ [l.getD (k + a) false != l.getD k false]) init

def pssBit (pci n : Nat) : Bool :=
  (lfsr7 4 [false, true, true, false, true, true, true] 120).getD ((n + 43 * (pci % 3)) % 127) false

def sssBit (pci n : Nat) : Bool :=
  let x0 := lfsr7 4 [true, false, false, false, false, false, false] 120
  let x1 := lfsr7 1 [true, false, false, false, false, false, false] 120
  let n1 := pci / 3
  x0.getD ((n + 15 * (n1 / 112) + 5 * (pci % 3)) % 127) false != x1.getD ((n + n1 % 112) % 127) false

/-- The scrambled 864 bits of an SSB's PBCH. -/
def pbchBits (d : DlCell) (sfn : Nat) (half : Bool) (i : Nat) : List Bool :=
  let a := Config.pbchPayload (d.mib.toNat % 2 ^ 24) sfn half i d.kSsb.toNat
  scramble d.pci.toNat (i % 8 * 864) (Config.polarEncode 864 (a ++ crc24c a))

/-- The DMRS value of the n-th PBCH DMRS RE of an SSB. -/
def pbchDmrs (pci i n : Nat) : CInt := goldQpsk (2 ^ 11 * (i % 8 + 1) * (pci / 4 + 1) + 2 ^ 6 * (i % 8 + 1) + pci % 4) n

/-- Is subcarrier k of symbol l of an SSB a PBCH RE? -/
def isPbch (l k : Nat) : Bool := l == 1 || l == 3 || (l == 2 && decide (k < 48 ∨ 192 ≤ k))

/-- PBCH REs before one, DMRS and data together, in mapping order. -/
def pbchBefore (l k : Nat) : Nat :=
  if l = 1 then k else if l = 2 then 240 + (if k < 48 then k else k - 144) else 336 + k

/-- The value of an RE of an SSB: PSS, SSS, PBCH or its DMRS; none where the SSB sets 0. -/
def ssbRe (d : DlCell) (bits : List Bool) (i l k : Nat) : Option CInt :=
  let pci := d.pci.toNat
  let bpsk (b : Bool) : CInt := scaledQ15 0 15 ⟨if b then -32768 else 32768, 0⟩
  if l = 0 then (if 56 ≤ k ∧ k < 183 then some (bpsk (pssBit pci (k - 56))) else some CInt.zero)
  else if l = 2 ∧ 56 ≤ k ∧ k < 183 then some (bpsk (sssBit pci (k - 56)))
  else if isPbch l k then
    let b := pbchBefore l k
    if k % 4 = pci % 4 then some (scaledQ15 0 15 (pbchDmrs pci i (b / 4)))
    else some (pointQ15 2 0 ((bits.drop (2 * (b / 4 * 3 + (b % 4 - if pci % 4 < b % 4 then 1 else 0)))).take 2))
  else some CInt.zero

/-- First symbols in a half-frame of the SSB indices of a case (TS 38.213; PRESUMED, log 39). -/
def ssbFirst (c : Nat) : List Nat :=
  if c = 0 then [0, 1].flatMap fun n => [4, 8, 16, 20].map (· + 28 * n)
  else if c = 1 then (upTo 4).flatMap fun n => [2, 8].map (· + 14 * n)
  else [0, 1, 2, 3, 5, 6, 7, 8, 10, 11, 12, 13, 15, 16, 17, 18].flatMap fun n => [4, 8, 16, 20].map (· + 28 * n)

/-- The SSB that lies on a symbol of a slot, in the first half-frame of each period: its index and its symbol there. -/
def ssbIndex (d : DlCell) (slot sym : Nat) : Option (Nat × Nat) :=
  let half := 5 * 2 ^ d.mu.toNat
  let pos := slot % (half * 2 ^ d.ssbPeriod.toNat)
  if pos < half then
    ((ssbFirst d.ssbCase.toNat).zipIdx.find? fun (f, i) => d.ssbBitmap.getLsbD i && decide (f ≤ pos * 14 + sym ∧ pos * 14 + sym < f + 4)).map
      fun (f, i) => (i, pos * 14 + sym - f)
  else none

def ssbAt (d : DlCell) (slot sym : Nat) : Bool := (ssbIndex d slot sym).isSome
def hasSsb (d : DlCell) (slot : Nat) : Bool := (upTo 14).any (ssbAt d slot)

/-- The first subcarrier of the SSB: ssb_prb_offset and k_ssb (unit DEDUCED, log 100). -/
def ssbStart (d : DlCell) : Nat := 12 * d.ssbPrbOffset.toNat + d.kSsb.toNat

/-- The SSB's value at a subcarrier of a symbol, before the broadcast weights. -/
def ssbValue (d : DlCell) (slot m sc : Nat) : Option CInt :=
  match ssbIndex d slot m with
  | some (i, l) =>
    let k := sc - ssbStart d
    if sc < ssbStart d ∨ 240 ≤ k then none
    else
      let frame := slot / (10 * 2 ^ d.mu.toNat)
      ssbRe d (pbchBits d (frame % 1024) (decide (5 * 2 ^ d.mu.toNat ≤ slot % (10 * 2 ^ d.mu.toNat))) i) i l k
  | none => none

/-! ## Broadcast weights and the grid (03 R77, R79) -/

/-- SSB and PDCCH go on every transmit stream n with amplitude 1/√n_tx and phase bcast_phase[n]. -/
def bcastWeight (d : DlCell) (n : Nat) : CInt :=
  let u := unitTurn (d.bcastPhase.getD n 0).toNat 256
  let k : Int := invSqrtFix d.nTx.toNat
  ⟨u.re * k / 2 ^ 60, u.im * k / 2 ^ 60⟩

def onStream (d : DlCell) (n : Nat) (z : CInt) : CInt :=
  let v := z.mul (bcastWeight d n)
  ⟨satInt 16 (Config.rounded 10 v.re (2 ^ 60)), satInt 16 (Config.rounded 10 v.im (2 ^ 60))⟩

/-- A value sent on every transmit stream by its broadcast weight, or unweighted on layer stream 0 alone, the weights going in section extension 1. -/
def broadcast (d : DlCell) (n : Nat) (z : CInt) : Option CInt :=
  if d.precodePlace = 0 then (if n < d.nTx.toNat then some (onStream d n z) else none) else if n = 0 then some z else none

/-- The value of an RE of a stream as it is sent: SSB first, then CSI-RS, PDCCH, PDSCH (the order among the last three DEDUCED, log 100). -/
def gridRe (x : DlSlot) (m n sc : Nat) : Option CInt :=
  let d := x.config
  let slot := x.absSlot.toNat
  match ssbValue d slot m sc with
  | some z => broadcast d n z
  | none =>
    if !x.accepted then none
    else
      let csi := x.csirs.flatMap fun r => (Config.csirsRes r (slot % (10 * 2 ^ d.mu.toNat))).filterMap fun e =>
        if e.1.1 = n ∧ e.1.2 = m ∧ e.2.1 = sc then some (scaledQ15 r.power.toInt 15 ⟨e.2.2.1, e.2.2.2⟩) else none
      match csi.head? with
      | some z => some z
      | none =>
        match (x.pdcch.flatMap (pdcchRes d slot)).find? fun e => e.1 == m && e.2.1 == sc with
        | some e => broadcast d n e.2.2
        | none =>
          (x.grid.find? fun g => g.stream.val == n && g.sym.val == m && g.prb.toNat == sc / 12).map fun g =>
            ⟨(g.comps.getD (2 * (sc % 12)) 0).toInt, (g.comps.getD (2 * (sc % 12) + 1) 0).toInt⟩

/-- The PRBs of a symbol that carry anything, stream by stream; REs that carry nothing are 0. -/
def assembled (x : DlSlot) (m : Nat) : List DlPrb :=
  (upTo 16).flatMap fun n => (upTo x.config.nPrb.toNat).filterMap fun prb =>
    let vs := (upTo 12).map fun i => gridRe x m n (12 * prb + i)
    if vs.all (·.isNone) then none
    else some { stream := Fin.ofNat 16 n, sym := Fin.ofNat 14 m, prb := BitVec.ofNat 16 prb, comps := compsOf (vs.map fun v => v.getD CInt.zero) }

/-- The SSB's PRBs of a symbol alone: they are never sent with modulation compression (03 R81). -/
def ssbPrbs (x : DlSlot) (m : Nat) : List DlPrb := assembled { x with accepted := false } m

/-! ## Compression (03 R80, R81) -/

/-- rhu(x / 2^e). -/
def rhuScale (x : Int) (e : Nat) : Int := rhuDiv x (2 ^ e)

/-- The smallest exponent at which every component fits, 15 where none does. -/
def bfpExp (w : Nat) (xs : List Int) : Nat :=
  ((upTo 15).find? fun e => xs.all fun x => satInt w (rhuScale x e) == rhuScale x e).getD 15

def bfpBlock (w : Nat) (xs : List Int) : Nat × List Int :=
  let e := bfpExp w xs
  (e, xs.map fun x => satInt w (rhuScale x e))

/-- A PRB compressed to width w. -/
def bfpTx (w : Nat) (g : DlPrb) : TxPrb :=
  let (exp, mant) := bfpBlock w (g.comps.map (·.toInt))
  { stream := g.stream.val, prb := g.prb.toNat, exp, mant }

/-- Does a PDSCH's DMRS symbol carry data as well? -/
def sharesDmrs (p : Pdsch) (m : Nat) : Bool :=
  p.dmrsSymMask.getLsbD m && decide (p.cdmGroups.toNat < (if p.dmrsType = 2 then 3 else 2))

/-- The amplitude of a constellation level with the back-off and power, in units of 2^−60. -/
def levelAmp (qm : Nat) (power : Byte) : Nat := invSqrtFix (qamNorm qm) * dbFix power.toInt / 2 ^ 62

def intPair (z : CInt) : Int × Int := (z.re, z.im)

/-- The signs of a QPSK value. -/
def quadrant (z : CInt) : Int × Int := (if z.re < 0 then -1 else 1, if z.im < 0 then -1 else 1)

/-- The section of a PDSCH on a symbol: the points of each layer over its REs there, DMRS as QPSK points (03 R81). -/
def pdschSection (x : DlSlot) (m i : Nat) (p : PdschSt) : ModSec :=
  let u := pdschAsPusch p.cfg
  let res := (dataRes p.cfg).zipIdx.filter fun e => e.1.1 == m
  let ports := portsOf u
  let dm := isDmrsSym u m
  let points := (upTo p.cfg.layers.toNat).map fun l =>
    (res.map fun e => intPair (qamPoint p.cfg.qm.toNat 0 (reBits p.cfg p.coded e.2 l))) ++
    (if dm then (((upTo (scCount u)).map (firstSc u + ·)).filter fun sc =>
        scGroup p.cfg.dmrsType.toNat sc == portGroup p.cfg.dmrsType.toNat (ports.getD l 0)).map fun sc =>
          quadrant (dmrsRef x.absSlot.toNat x.config.mu.toNat u (ports.getD l 0) m sc) else [])
  { entry := i, width := p.cfg.qm.toNat / 2, shift := 1, ext5 := sharesDmrs p.cfg m,
    amps := levelAmp p.cfg.qm.toNat p.cfg.power :: (if sharesDmrs p.cfg m then [levelAmp 2 p.cfg.power] else []), points }

/-- Symbols of a CSI-RS by its row (TS 38.211 Table 7.4.1.5.3-1, PRESUMED, log 39). -/
def csirsSyms (p : CsiRs) : List Nat :=
  let a := p.sym0.toNat
  let b := p.sym1.toNat
  let r := p.row.toNat
  if [5, 7, 8, 10, 11, 12].contains r then [a, a + 1] else if [13, 14, 16, 17].contains r then [a, a + 1, b, b + 1]
  else if [15, 18].contains r then [a, a + 1, a + 2, a + 3] else [a]

/-- The sections that a symbol sends with modulation compression. -/
def modSections (x : DlSlot) (m : Nat) : List ModSec :=
  let n := x.pdsch.length
  let k := x.pdcch.length
  let inFrame := x.absSlot.toNat % (10 * 2 ^ x.config.mu.toNat)
  let onSym (a c : Byte) : Bool := decide (a.toNat ≤ m ∧ m < a.toNat + c.toNat)
  ((x.pdsch.zipIdx.filter fun (p, _) => !p.noSrs && onSym p.cfg.symStart p.cfg.symCount).map fun (p, i) => pdschSection x m i p) ++
  ((x.pdcch.zipIdx.filter fun (p, _) => onSym p.cfg.symStart p.cfg.symCount).map fun (p, i) =>
    { entry := n + i, width := 1, shift := 1, ext5 := false, amps := [levelAmp 2 p.cfg.power],
      points := [((pdcchRes x.config x.absSlot.toNat p).filter fun e => e.1 == m).map fun e => quadrant e.2.2] }) ++
  ((x.csirs.zipIdx.filter fun (p, _) => (csirsSyms p).contains m).map fun (p, i) =>
    { entry := n + k + i, width := 1, shift := 1, ext5 := false, amps := [levelAmp 2 p.power],
      points := [((Config.csirsRes p inFrame).filter fun e => e.1.2 == m).map fun e => quadrant ⟨e.2.2.1, e.2.2.2⟩] })

/-! ## Section extension 1 (03 R75, R79) -/

/-- A matrix as BFP weights of width w. -/
def bfpWeights (w : Nat) (m : List Word) : Nat × List Int := bfpBlock w (m.flatMap fun z => let c := cintOf z; [c.re, c.im])

/-- The broadcast weights of the n_tx streams in Q1.15. -/
def bcastWords (d : DlCell) : List Word := (upTo d.nTx.toNat).map fun n => cwordOf (q15Of (bcastWeight d n))

/-- The port weights of a CSI-RS: port p on stream p. -/
def portWords (d : DlCell) : List Word := (upTo d.nTx.toNat).map fun n => if n = 0 then 0x7FFF else 0

/-- With precode_place = 1: the weights of PDSCHs of types 1 and 2, and those of PDCCH, CSI-RS and SSB. -/
def ext1Of (x : DlSlot) : List Ext1 :=
  let d := x.config
  let w := d.iqWidth.toNat
  if d.precodePlace = 1 then
    ((x.pdsch.zipIdx.filter fun (p, _) => p.cfg.precodeType != 0 && !p.noSrs && !p.noConfig).map fun (p, i) =>
      ({ kind := 0, entry := i, groups := p.weights.map (bfpWeights w) } : Ext1)) ++
    (if x.accepted then
      (x.pdcch.zipIdx.map fun (_, i) => { kind := 1, entry := i, groups := [bfpWeights w (bcastWords d)] }) ++
      (x.csirs.zipIdx.map fun (_, i) => { kind := 2, entry := i, groups := [bfpWeights w (portWords d)] }) else []) ++
    (if hasSsb d x.absSlot.toNat then [{ kind := 3, entry := 0, groups := [bfpWeights w (bcastWords d)] }] else [])
  else []

end Sys2Proof.Machine
end

