-- ==== Sys2Proof/Machine/Uplink.lean ====
section
/-! DEFINITION. Uplink slots: configuration, fronthaul intake, the grid, HARQ staging, the stages' marks (02 R30–R53). -/
namespace Sys2Proof.Machine

/-! ## Slots of a cell -/

def State.ulSlot (s : State) (cell slot : Nat) : Option UlSlot := (s.cell cell).ulSlots.get none slot

def State.setUlSlot (s : State) (cell slot : Nat) (x : Option UlSlot) : State :=
  s.modCell cell fun c => { c with ulSlots := c.ulSlots.set none slot x }

def UlSlotEmpty (u : UlCell) (slot : AbsSlot) (t0 : Nat) : UlSlot :=
  { absSlot := slot, t0, accepted := false, lateCfg := false, pusch := [], pucch := [], prach := [], srs := [], config := u,
    covers := [], grid := .empty, intake := false, closed := false, erased := 0, version := 0, classical := false,
    guard := false, shadow := false, times := List.replicate 6 0xFFFF }

/-! ## Configuration (02 R30–R33, R51–R54) -/

/-- Lead of a configuration and of HARQ staging before the entry offset, in ns (02 R30, R56). -/
def ulConfigLead (mu : Nat) : Nat := if mu = 3 then 60000 else 200000
def stagingLead (mu : Nat) : Nat := if mu = 3 then 25000 else 100000

/-- Is a transform length permitted: 2^a × 3^b × 5^c (02 R42)? -/
def dftLength : Nat → Nat → Bool
  | 0, _ => false
  | f + 1, n =>
    if n = 0 then false else if n = 1 then true
    else if n % 2 = 0 then dftLength f (n / 2) else if n % 3 = 0 then dftLength f (n / 3)
    else if n % 5 = 0 then dftLength f (n / 5) else false

def popcount (w : Nat) (x : Nat) : Nat := ((upTo w).filter fun i => x.testBit i).length

/-- A PRB range and a symbol range inside the slot's grid. -/
def rangeOk (nPrb : Nat) (prb n sym k : Nat) : Bool :=
  decide (prb < nPrb ∧ 1 ≤ n ∧ prb + n ≤ nPrb ∧ sym ≤ 13 ∧ 1 ≤ k ∧ sym + k ≤ 14)

/-- Table 3 of 02. -/
def puschOk (u : UlCell) (p : Pusch) : Bool :=
  let le (a b : Nat) : Bool := decide (a ≤ b)
  le 1 p.rnti.toNat && le p.rnti.toNat 65519 && le p.ueCtx.toNat 4095 &&
  rangeOk u.nPrb.toNat p.prbStart.toNat p.prbCount.toNat p.symStart.toNat p.symCount.toNat &&
  le 1 p.layers.toNat && le p.layers.toNat (if p.tp then 1 else 4) &&
  ([2, 4, 6, 8].contains p.qm.toNat || (p.qm == 1 && p.tp)) && le 30 p.rateX1024.toNat && le p.rateX1024.toNat 948 &&
  le p.harqId.toNat 15 && le 24 p.tbsBits.toNat && le p.tbsBits.toNat 1277992 && le p.dmrsPorts.toNat 0xFFF &&
  popcount 16 p.dmrsPorts.toNat == p.layers.toNat && (p.dmrsType == 1 || p.dmrsType == 2) && p.cdmGroups != 0 &&
  le p.dataScrId.toNat 1023 && le p.ackBits.toNat 1706 && le p.csi1Bits.toNat 1706 && le p.csi2Bits.toNat 1706 &&
  le p.betaAck.toNat 15 && le p.betaCsi1.toNat 18 && le p.betaCsi2.toNat 18 && le p.alpha.toNat 3 &&
  (!p.tp || dftLength 20 p.prbCount.toNat) && p.flagsRsvd == 0 && p.maskRsvd == 0 && !p.cfgRsvd && p.rsvd1b == 0 && p.rsvd28 == 0

/-- The fields a PUCCH record names, in the ranges that the others of their name have (DEDUCED, log 32). -/
def pucchOk (u : UlCell) (p : Pucch) : Bool :=
  decide (1 ≤ p.rnti.toNat ∧ p.rnti.toNat ≤ 65519 ∧ p.ueCtx.toNat ≤ 4095 ∧ p.format.toNat ≤ 4) &&
  rangeOk u.nPrb.toNat p.prbStart.toNat p.prbCount.toNat p.symStart.toNat p.symCount.toNat

/-- The fields that a PRACH record has beyond format and set, its first PRB and symbol, and their ranges are the model's (DESIGN CHOICE, log 94).
02 R52: long formats at μ = 1 only, restricted set type B refused. -/
def prachOk (u : UlCell) (p : Prach) : Bool :=
  (match p.format with | .other => false | .f0 | .f3 => u.mu == 1 | _ => true) && p.set != .typeB &&
  decide (p.prbStart.toNat < u.nPrb.toNat ∧ p.symStart.toNat ≤ 13)

/-- 02 R53: comb 2, 4 or 8, up to 4 ports; the user and the PRB range that an SRS record names besides are the model's (DESIGN CHOICE, log 94). -/
def srsOk (u : UlCell) (p : Srs) : Bool :=
  decide (p.ueCtx.toNat ≤ 4095 ∧ 1 ≤ p.ports.toNat ∧ p.ports.toNat ≤ 4) && [2, 4, 8].contains p.comb.toNat &&
  rangeOk u.nPrb.toNat p.prbStart.toNat p.prbCount.toNat 0 1

/-- Layers of the PUSCHs on a PRB and symbol. -/
def layersAt (ps : List Pusch) (prb sym : Nat) : Nat :=
  ((ps.filter fun p => decide (p.prbStart.toNat ≤ prb ∧ prb < p.prbStart.toNat + p.prbCount.toNat ∧
      p.symStart.toNat ≤ sym ∧ sym < p.symStart.toNat + p.symCount.toNat)).map (·.layers.toNat)).foldl (· + ·) 0

/-- Does a configuration exceed a limit of 02 Table 5 or the cell's max_layers (02 R40, R54)? -/
def ulSlotOver (u : UlCell) (c : UlSlotCfg) : Bool :=
  let wide := u.mu == 1
  let more (l a b : Nat) : Bool := decide ((if wide then a else b) < l)
  more c.pusch.length 32 16 || more c.pucch.length 128 64 || more c.prach.length 4 2 || more c.srs.length 64 32 ||
  (!wide && c.pusch.any fun p => 2 < p.layers.toNat) ||
  (upTo u.nPrb.toNat).any fun prb => (upTo 14).any fun sym => decide (u.maxLayers.toNat < layersAt c.pusch prb sym)

/-- The PUSCHs of a slot with the free values of what no stage has measured; a second record of one HARQ process is not
received (02 R33), and of a late configuration none is (02 R31). -/
def newPuschs (late : Bool) : List Pusch → List Pusch → State → List PuschSt × State
  | _, [], s => ([], s)
  | seen, p :: r, s =>
    let (v, s1) := s.draw
    let out := late || seen.any fun q => q.ueCtx == p.ueCtx && q.harqId == p.harqId
    let x : PuschSt :=
      { cfg := p, noConfig := out, noDmrs := false, noReceiver := false, classical := false, notStored := false,
        uciFail := false, crcPass := false, decided := out, firstTx := false, stage := 0, iterations := 0, staging := .idle,
        staged := [], est := [], det := [], demapped := 0, llrs := [], soft := [], cbs := .empty, uci := [], guardPass := none, otherPass := none,
        sinr := BitVec.ofNat 16 v, timing := BitVec.ofNat 16 (v / 65536) }
    let (xs, s2) := newPuschs late (if out then seen else p :: seen) r s1
    (x :: xs, s2)

def newPucchs (late : Bool) : List Pucch → State → List PucchSt × State
  | [], s => ([], s)
  | p :: r, s =>
    let (v, s1) := s.draw
    let x : PucchSt := { cfg := p, noConfig := late, stage := 0, est := [], det := [], demapped := 0, llrs := [], uciFail := false, decided := late, uci := [], sinr := BitVec.ofNat 16 v,
                         timing := BitVec.ofNat 16 (v / 65536), harqId := BitVec.ofNat 8 (v / 2 ^ 32) }
    let (xs, s2) := newPucchs late r s1
    (x :: xs, s2)

/-- An accepted configuration, or a late one whose slot is not received. -/
def ulAccept (u : UlCell) (c : UlSlotCfg) (t0 : Nat) (late : Bool) (s : State) : State :=
  let cell := c.cell.val
  let slot := c.absSlot.toNat
  let x := (s.ulSlot cell slot).getD (UlSlotEmpty u c.absSlot t0)
  let (ps, s1) := newPuschs late [] c.pusch s
  let (qs, s2) := newPucchs late c.pucch s1
  let y := { x with accepted := !late, lateCfg := late, pusch := ps, pucch := qs, config := u, t0 }
  let y := if late then { y with covers := [], grid := .empty }
           else { y with prach := c.prach.map fun p => (p, []), srs := c.srs }
  (s2.modCell cell fun c => { c with ulServed := slot :: c.ulServed }).setUlSlot cell slot (some y)

/-- `t0` is the slot's entry offset in device time: no field of a cycle table entry says which slot it serves, so the command brings it
(DESIGN CHOICE, log 95). A slot configuration of a cell without records, or out of a range, is discarded with CFG_SLOT_RANGE (DEDUCED, log 30), one beyond
capacity with CFG_CAPACITY (DEDUCED, log 31). -/
def ulSlotConfig (c : UlSlotCfg) (t0 : Nat) (s : State) : State :=
  let cell := c.cell.val
  let slot := c.absSlot.toNat
  if s.radio.paused then s
  else if (s.cell cell).ulServed.contains slot then s.modCell cell fun x => { x with cfgDup := bump top32 x.cfgDup }
  else match s.recordsFor cell slot with
    | none => s.record Code.cfgSlotRange cell [slot % 2 ^ 32, slot / 2 ^ 32, cell]
    | some (u, _) =>
      if !(c.pusch.all (puschOk u) && c.pucch.all (pucchOk u) && c.prach.all (prachOk u) && c.srs.all (srsOk u)) ∨
          (s.host.berm ∧ !c.srs.isEmpty) then s.record Code.cfgSlotRange cell [slot % 2 ^ 32, slot / 2 ^ 32, cell]
      else if ulSlotOver u c then s.record Code.cfgCapacity cell [slot % 2 ^ 32, slot / 2 ^ 32, cell]
      else ulAccept u c t0 (decide (t0 < s.nowNs + ulConfigLead u.mu.toNat)) s

def execUlSlotConfig (cfg : UlSlotCfg) (t0 : Nat) (s : State) : Host.Outcome State Fault Refusal := .next (ulSlotConfig cfg t0 s)

/-! ## Fronthaul intake (02 R34–R36) -/

/-- One component of a BFP PRB. -/
def bfpComp (w : Nat) (e : Nat) (m : Half) : Half := BitVec.ofInt 16 (satInt 16 (signedOf w m.toNat * 2 ^ e))

/-- One RE as the grid holds it: real part in the low half. -/
def reWord (re im : Half) : Word := im ++ re

/-- The 12 REs of a PRB. -/
def bfpPrb (w : Nat) (p : BfpPrb) : List Word :=
  (upTo 12).map fun k => reWord (bfpComp w p.exp.toNat (p.mant.getD (2 * k) 0)) (bfpComp w p.exp.toNat (p.mant.getD (2 * k + 1) 0))

def gridPut (u : UlCell) (stream sym prb : Nat) (g : Table Word) (p : BfpPrb) : Table Word :=
  (bfpPrb u.iqWidth.toNat p).zipIdx.foldl (fun g e => g.set 0 (reKey stream sym prb e.2) e.1) g

/-- The cell that receives an eAxC, with its record for a slot and the stream. -/
def State.ulCellOf (s : State) (eaxc slot : Nat) : Option (Nat × UlCell × Nat) :=
  (upTo 8).findSome? fun c =>
    match s.recordsFor c slot with
    | some (u, _) =>
      if u.eaxcBase.toNat ≤ eaxc ∧ eaxc < u.eaxcBase.toNat + u.nRx.toNat then some (c, u, eaxc - u.eaxcBase.toNat) else none
    | none => none

/-- PRBs of a section that lie in the cell's carrier; one beyond it is ignored (DEDUCED, log 33). -/
def inCarrier (u : UlCell) (start : Nat) (ps : List BfpPrb) : List BfpPrb := ps.take (u.nPrb.toNat - start)

/-- A section that overlaps an earlier one without the same PRB range is taken: on the shared PRBs the later one stands (DESIGN CHOICE, log 96). -/
def uplaneSection (sec : USection) (t0 : Nat) (s : State) : State :=
  let slot := sec.absSlot.toNat
  match s.ulCellOf sec.eaxc.toNat slot with
  | none => s
  | some (cell, u, stream) =>
    let x := (s.ulSlot cell slot).getD (UlSlotEmpty u sec.absSlot t0)
    if s.radio.paused ∨ x.lateCfg then s
    else if s.nowNs + 2 * slotNs u.mu.toNat < x.t0 then s.modCell cell fun c => { c with early := bump top32 c.early }
    else if x.t0 < s.nowNs ∨ x.intake then s.modCell cell fun c => { c with late := bump top32 c.late }
    else
      let ps := inCarrier u sec.prbStart.toNat sec.prbs
      let cover : Cover := { stream, sym := sec.sym.val, prb := sec.prbStart.toNat, count := sec.prbs.length }
      if x.covers.contains cover then s.modCell cell fun c => { c with dup := bump top32 c.dup }
      else
        let grid := ps.zipIdx.foldl (fun g e => gridPut u stream sec.sym.val (sec.prbStart.toNat + e.2) g e.1) x.grid
        s.setUlSlot cell slot (some { x with covers := x.covers ++ [cover], grid })

def execUplaneSection (sec : USection) (t0 : Nat) (s : State) : Host.Outcome State Fault Refusal := .next (uplaneSection sec t0 s)

/-- Erased REs of a slot: of every configured stream, symbol and PRB that no section covered. -/
def erasedRes (u : UlCell) (cs : List Cover) : Nat :=
  12 * ((upTo u.nRx.toNat).flatMap fun k => (upTo 14).map fun m =>
    let own := cs.filter fun c => c.stream == k && c.sym == m
    ((upTo u.nPrb.toNat).filter fun p => !coveredAt own k m p).length).foldl (· + ·) 0

/-- Is every DMRS RE of a PUSCH on every stream erased (02 R37)? -/
def noDmrsAt (u : UlCell) (cs : List Cover) (p : Pusch) : Bool :=
  (upTo u.nRx.toNat).all fun k => (upTo 14).all fun m =>
    !(p.dmrsSymMask.getLsbD m && decide (p.symStart.toNat ≤ m ∧ m < p.symStart.toNat + p.symCount.toNat)) ||
    (upTo p.prbCount.toNat).all fun i => !coveredAt cs k m (p.prbStart.toNat + i)

/-! ## The receiver that serves a slot (02 R43, R63–R65) -/

/-- The weight version in force for a cell, 0 where none fits its shape; in a replay the recorded one. -/
def State.versionInForce (s : State) (cell : Nat) (u : UlCell) : Word :=
  match s.capture.replay with
  | some r => ((r.versions.find? (·.1 = cell)).map (·.2)).getD 0
  | none =>
    let a := s.aset cell
    match (storeOf a).find? fun v => a.active == some v.number with
    | some v => if v.mu = u.mu.toNat ∧ v.nRx = u.nRx.toNat ∧ v.layers = u.maxLayers.toNat then v.number else 0
    | none => 0

/-- Does a cell need the classical detector for its own results: by rx_mode, or with no version in force? -/
def State.needsClassical (s : State) (cell : Nat) (u : UlCell) : Bool := u.rxMode == 1 || s.versionInForce cell u == 0

/-- Does another cell of the grid engine take the classical detector in a slot: one in guard mode, or one that needs it there
with the lower rank, or at equal rank the lower index? -/
def State.detectorTaken (s : State) (cell slot : Nat) (u : UlCell) : Bool :=
  (upTo 8).any fun o =>
    decide (o ≠ cell) && (match s.recordsFor o slot with
      | some (v, _) =>
        let first := decide (v.fallbackRank.toNat < u.fallbackRank.toNat ∨ (v.fallbackRank = u.fallbackRank ∧ o < cell))
        let there : Bool := match s.ulSlot o slot with | some y => y.accepted | none => false
        v.gridEngine == u.gridEngine &&
          (if v.rxMode = 2 then u.rxMode != 2 || first else there && s.needsClassical o v && u.rxMode != 2 && first)
      | none => false)

/-- Training tasks of a set give way to its shadow work (05 R132). -/
def State.yieldTraining (s : State) (n : Nat) : State :=
  (upTo 96).foldl (fun s t => if (s.tile t).ref == some (.training (Fin.ofNat 12 n)) then preemptTile t s else s) s

/-- The window of a slot closes: what no section covered is erased, PUSCHs without DMRS are decided, and the receiver of the slot
stands (02 R36, R37, R43, R64, R65); the shadow draw is made (05 R132). -/
def closeIntake (cell slot : Nat) (s : State) : State :=
  match s.ulSlot cell slot with
  | none => s
  | some x =>
    if !x.accepted ∨ x.intake ∨ s.nowNs < x.t0 then s else
      let u := x.config
      let erased := erasedRes u x.covers
      let version := s.versionInForce cell u
      let classical := s.needsClassical cell u
      let taken := s.detectorTaken cell slot u
      let mark (p : PuschSt) : PuschSt :=
        if p.decided then p else if noDmrsAt u x.covers p.cfg then { p with noDmrs := true, decided := true }
        else if classical && taken then { p with noReceiver := true, decided := true } else p
      let ps := x.pusch.map mark
      let y := { x with
        intake := true, erased, version := if classical then 0 else version, classical,
        guard := !classical && u.rxMode == 2 && !taken, shadow := !classical && s.shadowDraw cell slot,
        pusch := if classical then classicalServe u.mu.toNat ps else ps }
      let s1 := (s.modCell cell fun c => { c with erasedSlot := slot % 2 ^ 32, erasedRe := min top32 erased }).setUlSlot cell slot (some y)
      if y.shadow then s1.yieldTraining cell else s1

/-! ## HARQ buffers (02 R45–R47) -/

def State.harq (s : State) (ue h : Nat) : HarqProc := (s.user ue).harq.get HarqProc.init h

def State.setHarq (s : State) (ue h : Nat) (p : HarqProc) : State :=
  let u := s.user ue
  s.setUser ue { u with harq := u.harq.set HarqProc.init h p }

/-- LLRs of one code block of a soft buffer at most (02 R45). -/
def softMax : Nat := 25344

/-- What staging reads of a page; a page that cannot be read gives no information (DEDUCED, log 34). -/
def State.readPage (s : State) (a : Nat) : List Byte × State :=
  if s.extBad a softMax then (List.replicate softMax 0, s.memUe a) else (s.extRead a softMax, s)

def State.readPages : List Nat → State → List (List Byte) × State
  | [], s => ([], s)
  | a :: r, s =>
    let (b, s1) := s.readPage a
    let (bs, s2) := State.readPages r s1
    (b :: bs, s2)

/-- Does a PUSCH take part in HARQ? -/
def inHarq (p : PuschSt) : Bool := !p.noConfig && !p.noDmrs && !p.noReceiver

/-- Staging of a PUSCH starts: new data needs none; a process still written back waits (02 R46, R47). The user context takes its
RNTI and cell. -/
def stageOne (cell : Nat) (p : PuschSt) (s : State) : PuschSt × State :=
  let ue := p.cfg.ueCtx.toNat
  let h := s.harq ue p.cfg.harqId.toNat
  let s1 := s.setUser ue { (s.user ue) with rnti := p.cfg.rnti, cell := Fin.ofNat 8 cell }
  if p.staging ≠ .idle ∨ !inHarq p then (p, s)
  else if h.ndi ≠ some p.cfg.ndi then ({ p with firstTx := p.cfg.rv == 0, staging := .complete }, s1)
  else ({ p with staging := if h.writeback.isSome then .waiting else .started }, s1)

def stageAll (cell : Nat) : List PuschSt → State → List PuschSt × State
  | [], s => ([], s)
  | p :: r, s =>
    let (q, s1) := stageOne cell p s
    let (qs, s2) := stageAll cell r s1
    (q :: qs, s2)

def harqStart (cell slot : Nat) (s : State) : State :=
  match s.ulSlot cell slot with
  | some x =>
    if !x.accepted ∨ s.nowNs + stagingLead x.config.mu.toNat < x.t0 then s else
      let (ps, s1) := stageAll cell x.pusch s
      s1.setUlSlot cell slot (some { x with pusch := ps })
  | none => s

def execHarqStagingStart (cell : CellId) (slot : AbsSlot) (s : State) : Host.Outcome State Fault Refusal :=
  .next (harqStart cell.val slot.toNat s)

/-- A PUSCH of a slot changes. -/
def State.modPusch (s : State) (cell slot i : Nat) (f : PuschSt → PuschSt) : State :=
  match s.ulSlot cell slot with
  | some x => s.setUlSlot cell slot (some { x with pusch := modAt x.pusch i f })
  | none => s

def State.pusch (s : State) (cell slot i : Nat) : Option PuschSt := (s.ulSlot cell slot).bind fun x => x.pusch[i]?

/-- Pages go back to the pool. -/
def State.freePages (s : State) (cell : Nat) (ps : List Nat) : State :=
  s.modCell cell fun c => { c with pagesUsed := c.pagesUsed.filter fun a => !ps.contains a }

/-- The process holds nothing any more. -/
def State.releaseHarq (s : State) (cell ue h : Nat) : State :=
  let p := s.harq ue h
  (s.freePages cell p.pages).setHarq ue h { p with pages := [], writeback := none }

/-- The code blocks whose LLRs have come are combined with what is staged, and wait in the bank's queue. The first releases the process's pages
where the data is new, and its NDI is stored (02 R46, steps 1 and 2). A PUSCH that is never demapped changes nothing (DEDUCED, log 71). -/
def combineBlocks (cell slot i : Nat) (s : State) : State :=
  match s.ulSlot cell slot, s.pusch cell slot i with
  | some x, some p =>
    if p.staging ≠ .complete ∨ p.llrs.isEmpty ∨ p.decided ∨ blocksReady p.cfg p.llrs ≤ p.soft.length then s else
      let ue := p.cfg.ueCtx.toNat
      let h := p.cfg.harqId.toNat
      let s1 := if p.soft.isEmpty ∧ (s.harq ue h).ndi ≠ some p.cfg.ndi then s.releaseHarq cell ue h else s
      let s2 := s1.setHarq ue h { (s1.harq ue h) with ndi := some p.cfg.ndi }
      let n := blocksReady p.cfg p.llrs - p.soft.length
      let more := (upTo n).map fun k =>
        let r := p.soft.length + k
        combine (newBlock x.config p.cfg p.llrs r) (p.staged.getD r [])
      (s2.modPusch cell slot i fun p => { p with soft := p.soft ++ more }).bankQueue x.config.decoderBank.toNat n 0
  | _, _ => s

def harqStaged (cell slot i : Nat) (s : State) : State :=
  match s.pusch cell slot i with
  | some p =>
    if p.staging ≠ .started then s else
      let (bs, s1) := s.readPages (s.harq p.cfg.ueCtx.toNat p.cfg.harqId.toNat).pages
      combineBlocks cell slot i (s1.modPusch cell slot i fun p => { p with staging := .complete, staged := bs })
  | none => s

def execHarqStagingComplete (cell : CellId) (slot : AbsSlot) (pusch : Nat) (s : State) : Host.Outcome State Fault Refusal :=
  .next (harqStaged cell.val slot.toNat pusch s)

/-! ## Marks of the stages (02 R22, R27, R51, R53, R57) -/

def stageNo : UlStage → Nat
  | .grid => 1 | .estimation => 2 | .detection => 3 | .demapping => 4

/-- The completion time of a stage, in 0.1 µs from t = 0. -/
def State.stageTime (s : State) (t0 : Nat) : Half := BitVec.ofNat 16 (min 65535 ((s.nowNs - t0) / 100))

def State.markTime (s : State) (cell slot k : Nat) : State :=
  match s.ulSlot cell slot with
  | some x => s.setUlSlot cell slot (some { x with times := setAt x.times k (s.stageTime x.t0) })
  | none => s

/-- The receiver that serves a slot. -/
def State.receiverOf (s : State) (cell : Nat) (x : UlSlot) : Receiver :=
  if x.classical then .classical else .learned (s.weightsOf cell x.version)

/-- Does an entry of the cell that serves the slot run its task on a tile of its set (01 R22, R23; 02 R27)? -/
def State.entryRuns (s : State) (cell slot : Nat) : Bool :=
  match s.sched.table with
  | none => false
  | some tb => tb.entries.zipIdx.any fun e => e.1.kind == 0 && e.1.owner == cell && s.sched.entrySlot.get none e.2 == some slot &&
      (upTo 96).any fun t => e.1.tiles.getLsbD t && (s.tile t).ref == some (.entry (Fin.ofNat 4096 e.2)) && (s.tile t).state == .running

/-- May a stage end now in the place that 02 Table 1 names: stages 3 to 5 on the entry's tiles, or in the classical detector? -/
def State.stagePlace (s : State) (cell slot : Nat) (x : UlSlot) (stage : UlStage) : Bool :=
  stage == .grid || x.classical || s.entryRuns cell slot

/-- The user's timing, power and noise are those of the PUSCH estimated last; timing and power are measured by rules the manual does not give
(free values). -/
def State.userEstimate (s : State) (p : PuschSt) (est : List EstBlock) : State :=
  let (v, s1) := s.draw
  let ue := p.cfg.ueCtx.toNat
  let noise := meanBf (est.flatMap (·.noise))
  s1.setUser ue { (s1.user ue) with timing := p.timing, power := BitVec.ofNat 16 v, noise := Config.bfRounded 5 noise.num noise.den }

/-- The PUSCHs that stages 3 to 5 work on. -/
def received (x : UlSlot) : List PuschSt := x.pusch.filter inHarq

/-- Have all users of a PUSCH's PRBs and symbols been estimated: they are detected jointly (02 R40)? -/
def usersEstimated (x : UlSlot) (p : Pusch) : Bool :=
  (received x).all fun q => decide (2 ≤ q.stage) || q.decided ||
    !(upTo p.prbCount.toNat).any fun k => (symsOf p).any fun m => liesOn q.cfg (p.prbStart.toNat + k) m

/-- The place of PUSCH `i` among those that are received. -/
def receivedIndex (x : UlSlot) (i : Nat) : Nat := ((x.pusch.take i).filter inHarq).length

/-- Stage 5 gives the LLRs of the symbols below `upto` that have not come yet: they stream to the bank at once (01 R22). -/
def demapPusch (rcv : Receiver) (x : UlSlot) (upto : Nat) (p : PuschSt) : PuschSt :=
  let n := min upto p.cfg.symCount.toNat
  let more := (upTo (n - p.demapped)).flatMap fun k => demapSymbol rcv x p.cfg p.det (p.demapped + k)
  let q := { p with demapped := max n p.demapped, llrs := p.llrs ++ more }
  if q.demapped < p.cfg.symCount.toNat then q
  else let (bad, bits) := puschUci x.config p.cfg q.llrs; { q with stage := 4, uciFail := bad, uci := bytesOfBits bits }

/-- A stage ends on a PUSCH: each begins on it only after the one before has marked it. -/
def stagePusch (cell slot i : Nat) (stage : UlStage) (upto : Nat) (x : UlSlot) (p : PuschSt) (s : State) : State :=
  let rcv := s.receiverOf cell x
  if p.decided then s
  else match stage with
    | .grid => if p.stage = 0 then (s.modPusch cell slot i fun p => { p with stage := 1 }).markTime cell slot 0 else s
    | .estimation =>
      if p.stage = 1 then
        let est := estimate rcv x p.cfg
        ((s.modPusch cell slot i fun p => { p with stage := 2, est }).userEstimate p est).markTime cell slot 1
      else s
    | .detection =>
      if p.stage = 2 ∧ usersEstimated x p.cfg then
        let det := detect rcv x ((received x).map fun q => (q.cfg, q.est)) (receivedIndex x i) p.cfg
        (s.modPusch cell slot i fun p => { p with stage := 3, det }).markTime cell slot 2
      else s
    | .demapping =>
      if p.stage = 3 ∧ p.demapped < upto then
        let s1 := s.modPusch cell slot i (demapPusch rcv x upto)
        combineBlocks cell slot i (if p.cfg.symCount.toNat ≤ upto then s1.markTime cell slot 3 else s1)
      else s

/-- A stage ends on a PUCCH: formats 0 and 1 are decided in the grid engine, the others as a single-layer PUSCH (02 R51). -/
def stagePucch (rcv : Receiver) (x : UlSlot) (stage : UlStage) (upto : Nat) (q : PucchSt) : PucchSt :=
  let p := pucchAsPusch x.config q.cfg
  if q.decided then q
  else match stage with
    | .grid =>
      if q.stage ≠ 0 then q
      else if q.cfg.format.toNat ≤ 1 then { q with stage := 1, decided := true, uci := bytesOfBits (correlate x q.cfg) }
      else { q with stage := 1 }
    | .estimation => if q.stage = 1 then { q with stage := 2, est := estimate rcv x p } else q
    | .detection => if q.stage = 2 then { q with stage := 3, det := detect rcv x [(p, q.est)] 0 p } else q
    | .demapping =>
      if q.stage ≠ 3 ∨ upto ≤ q.demapped then q
      else
        let n := min upto p.symCount.toNat
        let more := (upTo (n - q.demapped)).flatMap fun k => demapSymbol rcv x p q.det (q.demapped + k)
        let r := { q with demapped := max n q.demapped, llrs := q.llrs ++ more }
        if r.demapped < p.symCount.toNat then r
        else let (bad, bits) := pucchUci x.config q.cfg r.llrs; { r with stage := 4, decided := true, uciFail := bad, uci := bytesOfBits bits }

/-- The SRS estimates of a user replace the set before, and go to the HBM region that the user context names (02 R53). -/
def storeSrs (rcv : Receiver) (x : UlSlot) (r : Srs) (s : State) : State :=
  let ue := r.ueCtx.toNat
  let est := srsEstimates rcv x r
  let a := Config.srsRegion ue
  let set : SrsSet := { absSlot := x.absSlot, place := a, prbStart := r.prbStart.toNat, prbCount := r.prbCount.toNat, streams := x.config.nRx.toNat, est }
  let s1 := s.setUser ue { (s.user ue) with srs := some set }
  if a + est.length ≤ hbmSize ∧ s.inRegion .radio a est.length then s1.extWrite a est else s1

/-- Is a CSP in the csp_mask of a configured channel: it serves only the sweep link (04 R98)? -/
def State.cspMasked (s : State) (c : Nat) : Bool := (upTo 4).any fun k => match (s.chan k).cfg with | some r => r.cspMask.getLsbD c | none => false

/-- The CSPs of the first clusters of the entries that serve a cell's slot; where none does any more, of all entries of the cell (02 R52; log 102). -/
def State.prachCsps (s : State) (cell slot : Nat) : List Nat :=
  let all := match s.sched.table with | some t => t.entries.zipIdx | none => []
  let es := all.filter fun p => p.1.kind == 0 && p.1.owner == cell
  let serving := es.filter fun p => s.sched.entrySlot.get none p.2 == some slot
  (if serving.isEmpty then es else serving).filterMap fun p => ((upTo 96).find? fun t => p.1.tiles.getLsbD t).map (· / 8)

/-- Has the CSP faulted and not been loaded again, or does it serve only the sweep link: it reports no preambles (10 R238, 04 R98). -/
def State.prachDown (s : State) (cell slot : Nat) : Bool :=
  let cs := s.prachCsps cell slot
  !cs.isEmpty && cs.all fun c => decide ((s.csp c).state = .faulted) || (s.csp c).again.isSome || s.cspMasked c

/-- A grid engine has extracted the occasions of a slot: source 2 of their CSPs pends (10 R234). -/
def State.prachReady (s : State) (cell slot : Nat) (x : UlSlot) : State :=
  if x.prach.isEmpty then s else (s.prachCsps cell slot).eraseDups.foldl (fun s c => if s.cspMasked c then s else s.cspPend c 2) s

/-- A stage marks a part complete, or for demapping its symbols below `upto`: PUSCHs in record order, then PUCCHs, then SRS records, which
the estimation stage turns into estimates. -/
def stageComplete (cell slot i : Nat) (stage : UlStage) (upto : Nat) (s : State) : State :=
  let s0 := if stage = .grid then closeIntake cell slot s else s
  match s0.ulSlot cell slot with
  | some x =>
    if !x.intake ∨ x.closed ∨ !s0.stagePlace cell slot x stage then s0
    else match x.pusch[i]? with
      | some p => stagePusch cell slot i stage upto x p s0
      | none =>
        let j := i - x.pusch.length
        match x.pucch[j]? with
        | some _ =>
          let s1 := s0.setUlSlot cell slot (some { x with pucch := modAt x.pucch j (stagePucch (s0.receiverOf cell x) x stage upto) })
          if stage = .grid then s1.markTime cell slot 0 else s1
        | none =>
          match stage, x.srs[j - x.pucch.length]? with
          | .estimation, some r => storeSrs (s0.receiverOf cell x) x r s0
          | .grid, _ => (s0.markTime cell slot 0).prachReady cell slot x
          | _, _ => s0
  | none => s0

def execUlStageComplete (cell : CellId) (slot : AbsSlot) (part : Nat) (stage : UlStage) (upto : Nat) (s : State) :
    Host.Outcome State Fault Refusal :=
  .next (traced 0 32 s (stageComplete cell.val slot.toNat part stage upto s))

/-- The CSP of the entry's first cluster reports the preambles it finds in an occasion, 64 at most (02 R52). Where and in what frame is not stated:
the model sends them in a frame of their own on the cell's result_port (DESIGN CHOICE, log 97). -/
def prachFound (cell slot k : Nat) (s : State) : State :=
  match s.ulSlot cell slot with
  | some x =>
    (match x.prach[k]? with
     | some (p, _) =>
       if !x.intake then s else
         let f := if s.prachDown cell slot then [] else (Config.prachDetect p (prachRes x p)).take 64
         (s.setUlSlot cell slot (some { x with prach := setAt x.prach k (p, f) })).sendAqmor x.config.resultPort.toNat false
           (.prachReport (Fin.ofNat 8 cell) x.absSlot k f)
     | none => s)
  | none => s

def execPrachDetection (cell : CellId) (slot : AbsSlot) (occasion : Nat) (s : State) : Host.Outcome State Fault Refusal :=
  .next (prachFound cell.val slot.toNat occasion s)

end Sys2Proof.Machine
end

