-- ==== Sys2Proof/Machine/Downlink.lean ====
section
/-! DEFINITION. Downlink slots: configuration, encoding, precoding, sections, transmit windows, status (03). -/
namespace Sys2Proof.Machine

def State.dlSlot (s : State) (cell slot : Nat) : Option DlSlot := (s.cell cell).dlSlots.get none slot

def State.setDlSlot (s : State) (cell slot : Nat) (x : Option DlSlot) : State :=
  s.modCell cell fun c => { c with dlSlots := c.dlSlots.set none slot x }

/-! ## Air times (03 R82, TS 38.211) -/

/-- The start of a symbol of a slot in device time, ns: 30,720 units of 1/30.72 µs a subframe; symbols 0 and 7·2^μ of a subframe
have the longer cyclic prefix. Slot 0 starts at device time 0: the manual gives the absolute slot index no origin (DESIGN CHOICE, log 95). -/
def airStart (mu slot sym : Nat) : Nat :=
  let l := slot % 2 ^ mu * 14 + sym
  let ts := l * (2192 / 2 ^ mu) + (if 1 ≤ l then 16 else 0) + (if 7 * 2 ^ mu < l then 16 else 0)
  slot / 2 ^ mu * 1000000 + ts * 1000000 / 30720

/-! ## Configuration (03 R68–R78) -/

def dlConfigLead (mu : Nat) : Nat := if mu = 3 then 50000 else 150000

/-- Power in 0.5 dB: −32 to +12. -/
def powerOk (p : Byte) : Bool := decide (-32 ≤ p.toInt ∧ p.toInt ≤ 12)

def pdschOk (d : DlCell) (p : Pdsch) : Bool :=
  let le (a b : Nat) : Bool := decide (a ≤ b)
  le 1 p.rnti.toNat && le p.rnti.toNat 65519 && le p.ueCtx.toNat 4095 &&
  rangeOk d.nPrb.toNat p.prbStart.toNat p.prbCount.toNat p.symStart.toNat p.symCount.toNat &&
  le 1 p.layers.toNat && le p.layers.toNat (if d.mu = 3 then 2 else 4) && [2, 4, 6, 8].contains p.qm.toNat &&
  le 30 p.rateX1024.toNat && le p.rateX1024.toNat 948 && le p.harqId.toNat 15 && p.precodeType != 3 &&
  le 24 p.tbsBits.toNat && le p.tbsBits.toNat 1277992 && le p.dmrsPorts.toNat 0xFFF &&
  popcount 16 p.dmrsPorts.toNat == p.layers.toNat && (p.dmrsType == 1 || p.dmrsType == 2) && p.cdmGroups != 0 &&
  powerOk p.power && le p.dataScrId.toNat 1023 && [0, 2, 4].contains p.prg.toNat && p.flagsRsvd == 0 && p.maskRsvd == 0 && !p.cfgRsvd && p.rsvd1f == 0

def pdcchOk (d : DlCell) (p : Pdcch) : Bool :=
  decide (1 ≤ p.rnti.toNat ∧ p.rnti.toNat ≤ 65519 ∧ p.prbStart.toNat + 6 ≤ d.nPrb.toNat ∧ 6 ≤ p.prbCount.toNat ∧
    p.prbStart.toNat + p.prbCount.toNat ≤ d.nPrb.toNat ∧ p.symStart.toNat ≤ 2 ∧ 1 ≤ p.symCount.toNat ∧ p.symCount.toNat ≤ 3 ∧
    12 ≤ p.dciBits.toNat ∧ p.dciBits.toNat ≤ 140) &&
  aligned 6 p.prbStart.toNat && aligned 6 p.prbCount.toNat && [1, 2, 4, 8, 16].contains p.aggLevel.toNat &&
  aligned p.aggLevel.toNat p.cceIndex.toNat && [2, 3, 6].contains p.bundle.toNat && powerOk p.power && p.mapRsvd == 0 && p.dci.length == 8 * ceilDiv p.dciBits.toNat 64

def csirsOk (d : DlCell) (p : CsiRs) : Bool :=
  decide (1 ≤ p.row.toNat ∧ p.row.toNat ≤ 18 ∧ p.density.toNat ≤ 3 ∧ p.prbStart.toNat < d.nPrb.toNat ∧ 4 ≤ p.prbCount.toNat ∧
    p.prbStart.toNat + p.prbCount.toNat ≤ d.nPrb.toNat ∧ p.sym0.toNat ≤ 13 ∧ 2 ≤ p.sym1.toNat ∧ p.sym1.toNat ≤ 12 ∧
    p.scrId.toNat ≤ 1023) && powerOk p.power && p.rsvd0d == 0

def prbOf (p : Pdsch) (k : Nat) : Bool := decide (p.prbStart.toNat ≤ k ∧ k < p.prbStart.toNat + p.prbCount.toNat)

/-- PDSCHs that share a PRB are both of type 2, and the layers of no PRB exceed max_layers (03 R72). -/
def sharesOk (d : DlCell) (ps : List Pdsch) : Bool :=
  (upTo d.nPrb.toNat).all fun k =>
    let on := ps.filter fun p => prbOf p k
    decide (on.length ≤ 1 ∨ on.all (·.precodeType = 2)) && decide ((on.map (·.layers.toNat)).foldl (· + ·) 0 ≤ d.maxLayers.toNat)

def dlSlotOver (d : DlCell) (c : DlSlotCfg) : Bool :=
  let more (l a b : Nat) : Bool := decide ((if d.mu = 3 then b else a) < l)
  more c.pdsch.length 32 16 || more c.pdcch.length 64 32 || more c.csirs.length 16 8

/-- Each PDSCH with its payload and, for type 1, the precoder block that stands for it, in record order. -/
def newPdschs (d : DlCell) (late : Bool) : List Pdsch → List (List Byte) → List (List Half) → List PdschSt
  | [], _, _ => []
  | p :: r, pays, pres =>
    let own := p.precodeType == 1
    { cfg := p, payload := pays.headD [], noConfig := late, noSrs := false, lateSyms := false, saturated := false, coded := [],
      weights := if own then suppliedMatrices d p (pres.headD []) else [] } :: newPdschs d late r pays.tail (if own then pres.tail else pres)

/-- Do the payloads, each padded to 8 bytes, and the precoder blocks of R72 have the lengths that the records give (03 R68)? -/
def tailOk (d : DlCell) (c : DlSlotCfg) : Bool :=
  c.payloads.map (·.length) == c.pdsch.map (fun p => 8 * ceilDiv p.tbsBits.toNat 64) &&
  c.precoders.map (·.length) == (c.pdsch.filter (·.precodeType = 1)).map (blockLength d)

/-- The records of a cell when a downlink slot of its numerology is sent (03 R67). -/
def State.dlRecordsFor (s : State) (cell slot : Nat) : Option (UlCell × DlCell) :=
  let c := s.cell cell
  let now := match c.ul, c.dl with
    | some u, some d => some (u, d)
    | _, _ => none
  match c.pending with
  | some p => if s.nextFrame p.2.mu.toNat slot then some p else now
  | none => now

def dlAccept (u : UlCell) (d : DlCell) (c : DlSlotCfg) (t0 : Nat) (late : Bool) (s : State) : State :=
  let old := s.dlSlot c.cell.val c.absSlot.toNat
  let x : DlSlot :=
    { config := d, resultPort := u.resultPort.toNat, absSlot := c.absSlot, t0, accepted := !late,
      pdsch := newPdschs d late c.pdsch c.payloads c.precoders, pdcch := c.pdcch.map fun p => { cfg := p, coded := [], noConfig := late, lateSyms := false },
      csirs := c.csirs, srsHeld := [], encoded := false, precoded := false, built := 0, cplane := (old.map (·.cplane)).getD false, grid := [],
      sent := (old.map (·.sent)).getD [], closedTo := (old.map (·.closedTo)).getD 0 }
  let sum (f : Pdsch → Nat) : Nat := (c.pdsch.map f).foldl (· + ·) 0
  let s := if late then s else s.crossCell c.cell.val fun y =>
    { y with downBits := y.downBits + sum (·.tbsBits.toNat), downPrbs := y.downPrbs + sum (·.prbCount.toNat) }
  (s.modCell c.cell.val fun y => { y with dlServed := c.absSlot.toNat :: y.dlServed }).setDlSlot c.cell.val c.absSlot.toNat (some x)

/-- Checked as an uplink configuration is (DEDUCED, log 30, log 31). -/
def dlSlotConfig (c : DlSlotCfg) (t0 : Nat) (s : State) : State :=
  let cell := c.cell.val
  let slot := c.absSlot.toNat
  let where' := [slot % 2 ^ 32, slot / 2 ^ 32, cell]
  if s.radio.paused then s
  else if (s.cell cell).dlServed.contains slot then s.modCell cell fun x => { x with cfgDup := bump top32 x.cfgDup }
  else match s.dlRecordsFor cell slot with
    | none => s.record Code.cfgSlotRange cell where'
    | some (u, d) =>
      if !(c.pdsch.all (pdschOk d) && c.pdcch.all (pdcchOk d) && c.csirs.all (csirsOk d) && sharesOk d c.pdsch && tailOk d c) ∨
          (s.host.berm ∧ c.pdsch.any (·.precodeType = 2)) then s.record Code.cfgSlotRange cell where'
      else if dlSlotOver d c then s.record Code.cfgCapacity cell where'
      else dlAccept u d c t0 (decide (t0 < s.nowNs + dlConfigLead d.mu.toNat)) s

def execDlSlotConfig (cfg : DlSlotCfg) (t0 : Nat) (s : State) : Host.Outcome State Fault Refusal := .next (dlSlotConfig cfg t0 s)

/-- The encoder has encoded the slot's PDSCHs and PDCCHs; it ends no later than the entry offset (03 R71, R76). -/
def dlEncoded (cell slot : Nat) (s : State) : State :=
  match s.dlSlot cell slot with
  | some x =>
    if x.accepted ∧ !x.encoded ∧ s.nowNs ≤ x.t0 then
      s.setDlSlot cell slot (some { x with
        encoded := true
        pdsch := x.pdsch.map fun p => { p with coded := encodePdsch x.config p.cfg p.payload }
        pdcch := x.pdcch.map fun p => { p with coded := encodePdcch p.cfg } })
    else s
  | none => s

def execDlEncodeComplete (cell : CellId) (slot : AbsSlot) (s : State) : Host.Outcome State Fault Refusal :=
  .next (dlEncoded cell.val slot.toNat s)

/-! ## Precoding (03 R72–R75) -/

/-- At the entry offset the SRS sets that the precoders read are those the user contexts hold then: a newer one leaves them
intact (03 R73). -/
def holdSrs (cell slot : Nat) (s : State) : State :=
  match s.dlSlot cell slot with
  | some x =>
    if !x.accepted ∨ s.nowNs < x.t0 ∨ !x.srsHeld.isEmpty then s
    else
      let ues := (x.pdsch.filter fun p => p.cfg.precodeType = 2).map (·.cfg.ueCtx.toNat)
      s.setDlSlot cell slot (some { x with srsHeld := ues.eraseDups.map fun u => (u, (s.user u).srs) })
  | none => s

/-- Has a type-2 PDSCH no set, or one that is too old (03 R74)? -/
def srsMissing (x : DlSlot) (p : Pdsch) : Bool :=
  p.precodeType == 2 && (match x.srsHeld.find? (·.1 = p.ueCtx.toNat) with
    | some (_, some e) => decide (e.absSlot.toNat + x.config.srsMaxAge.toNat < x.absSlot.toNat)
    | _ => true)

/-- The PDSCHs that give rows to H on a range of PRBs: type 2, with a set, and a PRB in it. -/
def onGroup (x : DlSlot) (prbs : List Nat) : List (Pdsch × SrsSet) :=
  x.pdsch.filterMap fun p =>
    match x.srsHeld.find? fun e => e.1 == p.cfg.ueCtx.toNat with
    | some (_, some e) =>
      let own : Bool := p.cfg.precodeType == (2 : BitVec 2)
      if own && !srsMissing x p.cfg && prbs.any (prbOf p.cfg) then some (p.cfg, e) else none
    | _ => none

/-- PRBs of the g-th precoding group of a PDSCH. -/
def groupPrbs (p : Pdsch) (g : Nat) : List Nat :=
  ((upTo p.prbCount.toNat).map (p.prbStart.toNat + ·)).filter fun k => groupOf p k == g

/-- The matrix of a type-2 PDSCH for its g-th group: its columns of W. `noise` gives each user's latest noise variance. -/
def groupMatrix (noise : Nat → Half) (x : DlSlot) (p : Pdsch) (g : Nat) : List Word :=
  let prbs := groupPrbs p g
  let on := onGroup x prbs
  let h := on.flatMap fun e => channelRows x.config e.1 e.2 prbs
  let s2 := (on.map fun e => bfRat (noise e.1.ueCtx.toNat)).foldl max 0
  let w := regularised x.config.nTx.toNat h s2
  let skip := ((on.takeWhile fun e => e.1 != p).map fun e => e.1.layers.toNat).foldl (· + ·) 0
  ((w.drop skip).take p.layers.toNat).flatten

/-- The precoders of the slot: those of type 2 are computed, a PDSCH without a usable set is marked (03 R73, R74). -/
def precoders (noise : Nat → Half) (x : DlSlot) : DlSlot :=
  { x with
    precoded := true
    pdsch := x.pdsch.map fun p =>
      if srsMissing x p.cfg then { p with noSrs := true }
      else if p.cfg.precodeType = 2 then { p with weights := (upTo (groupCount p.cfg)).map (groupMatrix noise x p.cfg) }
      else p }

/-- Symbol m is precoded: its REs go into the grid, PDSCHs with a saturated RE there are marked (03 R75). -/
def buildSymbol (x : DlSlot) (m : Nat) : DlSlot :=
  let sat := saturatedRes x m
  { x with
    built := m + 1
    grid := x.grid ++ symbolPrbs x m
    pdsch := x.pdsch.map fun p => if sat.any fun e => prbOf p.cfg e.1 && !p.noSrs && hasRe x p m e.2 then { p with saturated := true } else p }

/-- The tiles of the entry have computed the precoders and precoded the symbols below `upto` (03 R66, R75). -/
def precoded (cell slot upto : Nat) (s : State) : State :=
  let s0 := holdSrs cell slot s
  match s0.dlSlot cell slot with
  | some x =>
    if !x.accepted ∨ s0.nowNs < x.t0 ∨ !s0.entryRuns cell slot then s0
    else
      let y := if x.precoded then x else precoders (fun u => (s0.user u).noise) x
      let ms := if y.encoded then (upTo (min upto 14)).filter (y.built ≤ ·) else []
      let n := (ms.map fun m => (saturatedRes y m).length).foldl (· + ·) 0
      (s0.modCell cell fun c => { c with dlSat := bumpBy top32 c.dlSat n }).setDlSlot cell slot (some (ms.foldl buildSymbol y))
  | none => s0

def execPrecoderComplete (cell : CellId) (slot : AbsSlot) (upto : Nat) (s : State) : Host.Outcome State Fault Refusal :=
  .next (traced 32 64 s (precoded cell.val slot.toNat upto s))

/-! ## What a window acts on -/

/-- The slot that CPLANE_SEND and a window act on. One without a configuration sends the SSB of R77 all the same, as one whose configuration
came late does (DEDUCED, log 83). -/
def State.slotToSend (s : State) (cell slot : Nat) : Option DlSlot :=
  match s.dlSlot cell slot, s.dlRecordsFor cell slot with
  | some x, _ => some x
  | none, some (u, d) =>
    if hasSsb d slot && !s.radio.paused && !s.rst.heldRadio && !s.rst.held.contains (108 + d.gridEngine.toNat) &&
        !(s.cell cell).dlServed.contains slot &&
        decide (s.nowNs + d.t1aMinNs.toNat < airStart d.mu.toNat slot 13) then
      some { config := d, resultPort := u.resultPort.toNat, absSlot := BitVec.ofNat 48 slot, t0 := 0, accepted := false, pdsch := [], pdcch := [],
             csirs := [], srsHeld := [], encoded := false, precoded := false, built := 0, cplane := false, grid := [], sent := [], closedTo := 0 }
    else none
  | none, none => none

theorem State.slotToSend_held (s : State) (cell slot : Nat) (x : DlSlot) (h : s.dlSlot cell slot = some x) : s.slotToSend cell slot = some x := by
  simp [State.slotToSend, h]

/-! ## Sections (03 R75, R79–R82) -/

/-- Are the C-plane messages of the slot ready: or does it, with a late configuration, carry SSB alone (03 R69)? -/
def dlReady (x : DlSlot) : Bool := !x.accepted || (x.encoded && (x.precoded || x.pdsch.isEmpty))

/-- Is a symbol of the slot ready to be sent (03 R83, R84)? -/
def symbolReady (x : DlSlot) (m : Nat) : Bool := !x.accepted || (x.encoded && (decide (m < x.built) || x.pdsch.isEmpty))

/-- The latest time of the slot's C-plane messages. -/
def cplaneLimit (x : DlSlot) : Nat :=
  airStart x.config.mu.toNat x.absSlot.toNat 0 - x.config.t1aMaxNs.toNat - x.config.tcpAdvNs.toNat

def cplane (cell slot : Nat) (s : State) : State :=
  match s.slotToSend cell slot with
  | some x =>
    if x.cplane ∨ !dlReady x ∨ cplaneLimit x < s.nowNs ∨ (!x.accepted ∧ !hasSsb x.config slot) then s
    else (s.send (Config.fronthaulPort cell) (.cplane (Fin.ofNat 8 cell) x.absSlot (ext1Of x))).setDlSlot cell slot
      (some { x with cplane := true })
  | none => s

def execCplaneSend (cell : CellId) (slot : AbsSlot) (s : State) : Host.Outcome State Fault Refusal :=
  .next (cplane cell.val slot.toNat s)

/-- The U-plane messages of a symbol leave; one without any RE sends none. -/
def sendSymbol (cell slot m : Nat) (x : DlSlot) (s : State) : State :=
  let comp := x.config.compMethod == 1
  let prbs := (if comp then ssbPrbs x m else assembled x m).map (bfpTx x.config.iqWidth.toNat)
  let mods := if comp && x.accepted then modSections x m else []
  let s1 := if prbs.isEmpty && mods.isEmpty then s
    else s.send (Config.fronthaulPort cell) (.uplane (Fin.ofNat 8 cell) x.absSlot (Fin.ofNat 14 m) (ssbAt x.config slot m) prbs mods)
  s1.setDlSlot cell slot (some { x with sent := m :: x.sent })

/-! ## Windows (03 R82, R84, R85) -/

/-- The ends of a symbol's window: t_air − t1a_max and t_air − t1a_min, compared with the time without going below 0. -/
def windowBegun (x : DlSlot) (slot m now : Nat) : Bool := decide (airStart x.config.mu.toNat slot m ≤ now + x.config.t1aMaxNs.toNat)
def windowPast (x : DlSlot) (slot m now : Nat) : Bool := decide (airStart x.config.mu.toNat slot m < now + x.config.t1aMinNs.toNat)
def windowEnded (x : DlSlot) (slot m now : Nat) : Bool := decide (airStart x.config.mu.toNat slot m ≤ now + x.config.t1aMinNs.toNat)

/-- The window of a symbol is open, and a symbol that is ready goes. -/
def windowOpen (cell slot m : Nat) (s : State) : State :=
  match s.slotToSend cell slot with
  | some x =>
    if !symbolReady x m ∨ x.sent.contains m ∨ m < x.closedTo ∨ !windowBegun x slot m s.nowNs ∨ windowPast x slot m s.nowNs ∨ s.fated 2 slot cell m then s
    else sendSymbol cell slot m x s
  | none => s

def execDlSymbolWindowOpen (cell : CellId) (slot : AbsSlot) (sym : Fin 14) (s : State) : Host.Outcome State Fault Refusal :=
  .next (traced 32 64 s (windowOpen cell.val slot.toNat sym.val s))

/-- A symbol that was not sent marks every PDSCH and PDCCH with REs in it. -/
def lateSymbol (x : DlSlot) (m : Nat) : DlSlot :=
  let onSym (a c : Byte) : Bool := decide (a.toNat ≤ m ∧ m < a.toNat + c.toNat)
  let pd := x.pdsch.map fun p => if onSym p.cfg.symStart p.cfg.symCount then { p with lateSyms := true } else p
  let pc := x.pdcch.map fun p => if onSym p.cfg.symStart p.cfg.symCount then { p with lateSyms := true } else p
  { x with pdsch := pd, pdcch := pc }

def dlStatusOf (x : DlSlot) : List DlStatus :=
  let b (v : Bool) (k : Nat) : Nat := if v then 2 ^ k else 0
  let pd (p : PdschSt) : Byte := BitVec.ofNat 8 (b p.noConfig 7 + b p.noSrs 6 + b p.lateSyms 5 + b p.saturated 4)
  let pc (p : PdcchSt) : Byte := BitVec.ofNat 8 (b p.noConfig 7 + b p.lateSyms 5)
  (x.pdsch.map fun p => { rnti := p.cfg.rnti, ueCtx := p.cfg.ueCtx, status := pd p }) ++
  (x.pdcch.map fun p => { rnti := p.cfg.rnti, ueCtx := 0xFFFF, status := pc p })

/-- The window of a symbol closes: what is ready goes at its last moment, and is not sent after it. With the slot's last one, the status frame goes to layer 2 and the slot ends. -/
def windowClose (cell slot m : Nat) (s : State) : State :=
  match s.dlSlot cell slot with
  | none => s
  | some x =>
    if m < x.closedTo ∨ !windowEnded x slot m s.nowNs then s
    else
      let sent := x.sent.contains m
      let due := x.accepted || ssbAt x.config slot m
      let late := !sent && due && s.watchedAt 2 slot cell m (!symbolReady x m || windowPast x slot m s.nowNs)
      if !sent && !late && (!symbolReady x m || s.fated 2 slot cell m) then s
      else
        let s1 := if late then
            (((s.modCell cell fun c => { c with dlLate := bump top32 c.dlLate }).captureDecision 0 slot cell 2 0 m).setDlSlot cell slot
              (some (lateSymbol x m))).replayTaken
          else if sent || !due then s else sendSymbol cell slot m x s
        match s1.dlSlot cell slot with
        | some y =>
          if m < 13 then s1.setDlSlot cell slot (some { y with closedTo := m + 1 })
          else (s1.sendAqmor y.resultPort false (.dlStatus (Fin.ofNat 8 cell) y.absSlot (dlStatusOf y))).setDlSlot cell slot none
        | none => s1

def execDlSymbolWindowClose (cell : CellId) (slot : AbsSlot) (sym : Fin 14) (s : State) : Host.Outcome State Fault Refusal :=
  .next (windowClose cell.val slot.toNat sym.val s)

end Sys2Proof.Machine
end

