-- ==== Sys2Proof/Machine/Graphs.lean ====
section
/-! DEFINITION. Placement, ends of tasks and graphs, deadlines, COMPLETE and notifications (11 R243, 14 R316–R334, 17 R375,
19 R424). -/
namespace Sys2Proof.Machine

/-! ## Steps at which a task becomes ready or a tile free -/

def execTaskPlace (s : State) : Host.Outcome State Fault Refusal := .next (taskPlace s).abortSegments

/-- The tile and task of an inbound task that leaves it: its entry is cleared (15 R345). -/
def State.leaveInbound (s : State) (ref : TaskRef) : State :=
  match ref with
  | .graph job copy task =>
    (match (s.graph job).bind fun g => (g.copies[copy.val]?).map fun c => (g, c) with
     | some (g, c) => (match c.tasks[task]? with
       | some k => if k.desc.inbound then s.setInbound g c.tasks task none else s
       | none => s)
     | none => s)
  | _ => s

/-- ENDT: held until every write and MOUT has landed, then the task ends; a successor may be ready now, and a slice's tile runs
its segment. -/
def endtOp (s : State) (t : Nat) : OpRes :=
  if writesPending (s.tile t).before 0xF0 true then .hold .writes
  else
    let s1 := match (s.tile t).ref with
      | some ref => s.leaveInbound ref
      | none => s
    .ok (((s1.taskDone t).startSegment t).abortSegments)

/-- The end of a task may write a log record, such as its restage cycles (19 R427). -/
def endtLogged (i : Issue) (s : State) : State :=
  let s1 := runOp s i .c endtOp
  if (s.tile i.tile.val).state ≠ .idle ∧ (s1.tile i.tile.val).state = .idle then s1.logRecord else s1

def execEndt (i : Issue) (s : State) : Host.Outcome State Fault Refusal := .next (endtLogged i s)

def execZeroiseComplete (tile : TileId) (s : State) : Host.Outcome State Fault Refusal :=
  .next (((zeroiseEnd tile.val s).startSegment tile.val).abortSegments)

/-! ## Yield (14 R323) -/

/-- Is a task of a class ready that no tile can take? -/
def State.starved (s : State) (cls : JobClass) : Bool :=
  s.readyTasks.any fun r =>
    (r.cls == 0) == (cls == .assured) && (match s.graph (BitVec.ofNat 32 r.job) with
      | some g => (s.placementOf g r.copy r.task).isNone
      | none => false)

/-- A task held on one SEM WAIT beyond SCH_YIELD.LIMIT yields: it drains, and its stamp is that of now. -/
def yieldTask (t : Nat) (s : State) : State :=
  let x := s.tile t
  match x.hold, x.ref with
  | some (.semaphore _), some ref =>
    if x.state = .running ∧ s.sched.yieldLimit ≠ 0 ∧ s.sched.yieldLimit < s.clock.cycle - x.holdSince ∧ x.cls ≠ .radio ∧
        s.starved x.cls then
      (s.modTile t fun x => { drainBegin x with yielding := true }).modTask ref t fun k =>
        { k with stamp := s.clock.cycle }
    else s
  | _, _ => s

def execTaskYield (tile : TileId) (s : State) : Host.Outcome State Fault Refusal := .next (if s.sealedJob (s.tile tile.val).job then yieldTask tile.val s else traced 64 80 s (yieldTask tile.val s))

/-! ## The end of a graph (14 R316) -/

/-- The job number a graph's polders carry (14 R314). -/
def polderJob (g : Graph) : Word := if g.arrayJob = 0 then g.job else g.arrayJob

/-- A cluster page of a graph is released: LOCKED until zeroised (13 R303). -/
def State.lockPage (s : State) (page : Nat) : State :=
  let cl := s.cluster (page / 56)
  s.setCluster (page / 56) { cl with
    pages := cl.pages.set none (page % 56) ((cl.pages.get none (page % 56)).map fun p => { p with locked := true }) }

/-- A task not running is dropped: marked killed, nothing of it kept, its pooling jobs stopped (09 R217, 14 R334). -/
def State.dropTask (s : State) (ref : TaskRef) (k : TaskSt) : State :=
  match k.state with
  | .pending | .ready | .preempted =>
    let s1 := match k.spill with | some (p, _) => s.lockPage p | none => s
    ((s1.poolStop ref).dropSaved ref).modTask ref k.tile fun k => { k with state := .killed, endNs := s.nowNs, spill := none }
  | _ => s

/-- Every task of a graph that runs is killed, every other one that has not ended is dropped. -/
def State.endTasks (s : State) (g : Graph) : State :=
  let s1 := s.tiles.keys.foldl (fun s t => match (s.tile t).ref with
    | some (.graph job _ _) => if job = g.job then killTile t s else s
    | _ => s) s
  match s1.graph g.job with
  | none => s1
  | some g1 => (g1.copies.zipIdx).foldl (fun s c => (c.1.tasks.zipIdx).foldl (fun s k =>
      s.dropTask (.graph g.job (Fin.ofNat 3 c.2) k.2) k.1) s) s1

/-- The graph is killed with its tasks (DEDUCED, log 76). -/
def State.killGraph (s : State) (g : Graph) : State := (s.graphKilled g.job).endTasks g

/-- HELD polders of the job leave: released after a good end, LOCKED otherwise (12 R268, R282). -/
def State.leavePolders (s : State) (g : Graph) (st : PolderState) : State :=
  s.tiles.keys.foldl (fun s t => (upTo 24).foldl (fun s p =>
    let y := (s.tile t).polders.get Polder.init p
    if y.state = .held ∧ y.cls ≠ .radio ∧ y.job = polderJob g then s.polderLeaves t p st else s) s) s

/-- Pages of the job are locked until zeroised. -/
def State.leavePages (s : State) (g : Graph) : State :=
  let lock (x : Page) : Page := if x.job = g.job ∧ x.cls ≠ .radio then { x with locked := true } else x
  s.clusters.keys.foldl (fun s c =>
    let cl := s.cluster c
    s.setCluster c { cl with pages := cl.pages.mapTo none fun p => p.map lock }) s

/-- Entries of the inbound table and untaken transfers of the job are gone. -/
def State.leaveArray (s : State) (g : Graph) : State :=
  let lo := g.arrayJob.toNat * 128
  let s1 := if g.arrayJob = 0 then s else s.setArray { s.array with inbound := s.array.inbound.clearRange lo (lo + 128) }
  s1.setSched { s1.sched with transfers := s1.sched.transfers.filter (·.job ≠ g.job) }

/-- Has every task of a graph ended well? An assured graph ends with its verdict (17 R371). -/
def allDone (g : Graph) : Bool := g.hdr.cls != 2 && g.copies.all fun c => c.tasks.all (·.state == .done)

/-- Step 1 of R316, once the graph has ended. -/
def graphEnd (job : Word) (s : State) : State :=
  match s.graph job with
  | none => s
  | some g =>
    if g.outcome.isNone ∧ !allDone g then s else
      let o := g.outcome.getD .done
      let s1 := (s.modGraph job fun g => { g with outcome := some o }).endTasks g
      ((s1.leavePolders g (if o = .done then .zeroising else .locked)).leavePages g).leaveArray g

def execGraphEnd (job : Word) (s : State) : Host.Outcome State Fault Refusal := .next (graphEnd job s)

/-! ## COMPLETE (14 R316, 17 R370, R372, 18 R399, 19 R424, 23 R487, R488) -/

/-- One sink tensor goes to the layer above on the port of the most recent inference frame. -/
def State.sendSink (s : State) (g : Graph) (n : Nat) : State :=
  match g.tensors[n]? with
  | none => s
  | some x =>
    match s.net.lastInf with
    | some p =>
      s.sendAqmor p true (.infOutput g.job (BitVec.ofNat 16 n) (s.extRead x.backing x.bytes))
    | none => s.modPort 0 fun y => { y with noPeer := bump top32 y.noPeer }

/-- Do a graph's outputs leave: done, released where assured, not of a sealed model? -/
def releases (g : Graph) : Bool :=
  g.outcome == some .done && g.modelSlot.isNone &&
  (match g.verdict with | none => true | some .released => true | some .recovered => true | _ => false)

/-- The fields of 19 Table 7. -/
def completeBody (s : State) (g : Graph) : ReplyBody :=
  let sealed := g.modelSlot.isSome
  let faulted := g.outcome == some .faulted && !sealed
  let o := match g.outcome with | some .faulted => 1 | some .killed => 2 | _ => 0
  .nums ([g.job.toNat, o, bitIf g.late 7 + bitIf g.degraded 6 + bitIf sealed 5, verdictCode g.verdict,
    if g.hdr.cls = 2 then laneCode s.assured.state else 0, if faulted then g.faultTask else 0,
    if faulted then g.faultCode.toNat else 0, g.refused.length] ++ g.refused)

/-- Members that left with this step give up their slots and pages. -/
def State.batchDone (s : State) (g : Graph) : State :=
  match g.batch with
  | none => s
  | some kv =>
    let left := (s.sched.batches.get none kv).map fun b => { b with members := b.members.filter (fun m => !m.leaving) }
    s.setSched { s.sched with batches := s.sched.batches.set none kv left }

/-- The decision code of a graph's deadline (16 R358). -/
def deadlineCode (g : Graph) : Nat := if g.hdr.cls = 2 then 4 else 5

/-- Steps 2 to 4 of R316, once nothing of the job is left on tiles and in caches. -/
def complete (job : Word) (s : State) : State :=
  match s.graph job with
  | none => s
  | some g =>
    let busy := g.copies.any fun c => c.tasks.any fun k => k.state == .running || k.state == .ready || k.state == .pending || k.state == .preempted
    if g.outcome.isNone ∨ busy ∨ s.jobHolds job ∨ s.jobHolds (polderJob g) ∨ s.fated (deadlineCode g) 0 0 job.toNat then s else
      let s1 := if releases g then (sinkTensors g).foldl (fun s n => s.sendSink g n) s else s
      let mine := s1.assured.twins.filter (·.1 = job)
      let s2 := mine.foldl (fun s e => s.extZero e.2.1 e.2.2) s1
      let s3 := s2.setAssured { s2.assured with twins := s2.assured.twins.filter (·.1 ≠ job) }
      let s4 := g.sems.foldl (fun s e => s.setSem e.1 { (s.sem e.1) with count := 0, claim := none }) s3
      let give (c : ClusterSt) : ClusterSt := { c with spillReserved := c.spillReserved - g.hdr.spillPages }
      let s5 := (upTo 12).foldl (fun s c => s.setCluster c (give (s.cluster c))) s4
      let s6 := match g.modelSlot with
        | some k => s5.setSec { s5.sec with slots := s5.sec.slots.set none k.val ((s5.sec.slots.get none k.val).map fun (y : KeySlot) => { y with job := none }) }
        | none => s5
      let s7 := (s6.batchDone g).setSched { (s6.batchDone g).sched with graphs := (s6.batchDone g).sched.graphs.filter (·.job ≠ job) }
      let body := completeBody s g
      let s8 := s7.setHost { s7.host with done := ((job, body) :: s7.host.done).take 4096 }
      let s9 := s8.notify g.session 0x8001 body
      match body with
      | .nums xs => s9.digestAdd (Config.completeDigest job xs)
      | _ => s9

def execComplete (job : Word) (s : State) : Host.Outcome State Fault Refusal := .next (if s.sealedJob job then complete job s else traced 80 96 s (complete job s))

/-! ## Notifications (19 R424) -/

def State.setNotices (s : State) (ns : List Notice) : State := s.setHost { s.host with notices := ns }

/-- A notification not acknowledged goes again every 10 ms, up to 8 times; then it is counted as lost. Sessions are numbered 1 to 8. -/
def resend (session : Nat) (seq : Word) (s : State) : State :=
  let own (n : Notice) : Bool := n.session == session && n.seq == seq
  match s.host.notices.find? own with
  | none => s
  | some n =>
    if s.nowNs < n.sentNs + 10000000 then s
    else if 9 ≤ n.sends then
      let s1 := s.setNotices (s.host.notices.filter (fun m => !own m))
      s1.setHost { s1.host with notifyLost := bump top32 s1.host.notifyLost }
    else if (s.session session).isNone then (s.setNotices (s.host.notices.filter (fun m => !own m))).notify session n.type n.body
    else (s.setNotices (s.host.notices.map fun m => if own m then { m with sends := m.sends + 1, sentNs := s.nowNs } else m)).emit
      (.notify (BitVec.ofNat 16 session) n.type n.seq n.body)

def execNotificationResend (session : Fin 8) (seq : Word) (s : State) : Host.Outcome State Fault Refusal :=
  .next (resend (session.val + 1) seq s)

/-- An acknowledgement delivers the notification, and keeps the session open (19 R420). -/
def acknowledge (session : Nat) (ref : Word) (s : State) : State :=
  let own (n : Notice) : Bool := n.session == session && n.seq == ref
  if s.host.notices.any own then
    let s1 := s.setNotices (s.host.notices.filter (fun m => !own m))
    s1.setSession session ((s1.session session).map fun x => { x with idleNs := s.nowNs })
  else s

def execNotificationAck (session : Fin 8) (ref : Word) (s : State) : Host.Outcome State Fault Refusal :=
  .next (acknowledge (session.val + 1) ref s)

/-! ## KILL, JOB_STATUS, deadlines -/

/-- KILL ends the graph killed; one in its third run is withheld as well (14 R334, 17 R380). A number of no admitted graph is out of
range (DESIGN CHOICE, log 21). -/
def killBody (job : Word) (s : State) : State × Answer :=
  match s.graph job with
  | none => (s, .err Code.msgRange)
  | some g =>
    if g.outcome.isSome then (s, .ok)
    else if g.hdr.cls = 2 ∧ g.copies.length = 3 then ((s.withhold job .disagree .killed).endTasks g, .ok)
    else (s.killGraph g, .ok)

def execKill (h : QcpHdr) (job : Word) (s : State) : Host.Outcome State Fault Refusal :=
  .next (serve s h { role := .operate, legal := [.running] } (killBody job))

def statusBody (job : Word) (s : State) : State × Answer :=
  match s.host.done.find? (·.1 = job) with
  | some d => (s, .now Code.ok d.2)
  | none => (s, .err Code.msgRange)

def execJobStatus (h : QcpHdr) (job : Word) (s : State) : Host.Outcome State Fault Refusal :=
  .next (serve s h { role := .read, legal := [.running], reads := true } (statusBody job))

/-- A recorded decision is applied also to a graph that has ended in the replay (16 R365). -/
def State.undecided (s : State) (job : Word) : State :=
  if s.replaying then s.modGraph job fun g => { g with outcome := none, verdict := none } else s

/-- A graph's deadline falls due (14 R333, 17 R375). -/
def graphDeadline (job : Word) (s : State) : State :=
  match s.graph job with
  | none => s
  | some g =>
    let late (s : State) : State := s.modGraph job fun g => { g with late := true }
    if g.hdr.cls ≠ 2 ∧ !g.hdr.killAtDeadline then (if g.outcome.isNone ∧ s.deadlineDue g then late s else s)
    else if (g.outcome.isSome ∧ !s.replaying) ∨ !(s.watchedAt (deadlineCode g) 0 0 job.toNat (s.deadlineDue g)) then s
    else
      let s := (s.undecided job).replayTaken
      if g.hdr.cls = 2 then (s.assuredLate job).endTasks g
      else ((late s).killGraph g).captureDecision 1 0 0 5 0 job.toNat

def execGraphDeadline (job : Word) (s : State) : Host.Outcome State Fault Refusal := .next (graphDeadline job s)

/-- Has a task of an assured graph not ended in copy 0 or 1, its deadline past? -/
def State.taskOverdue (s : State) (g : Graph) (k : Nat) : Bool :=
  (g.copies.take 2).any fun c => match c.tasks[k]? with
    | some t => t.state != .done && decide (g.submitNs + t.desc.deadlineUs * 1000 ≤ s.nowNs)
    | none => false

/-- An assured task's deadline falls due; without a task named, the graph's (17 R375). -/
def assuredDeadline (job : Word) (task : Option Nat) (s : State) : State :=
  match s.graph job with
  | none => s
  | some g =>
    let due : Bool := match task with
      | some k => s.taskOverdue g k
      | none => s.deadlineDue g
    if g.hdr.cls = 2 ∧ (g.outcome.isNone ∨ s.replaying) ∧ s.watchedAt 4 0 0 job.toNat due = true then
      let s := (s.undecided job).replayTaken
      let s1 := match task with
        | some k => (upTo g.copies.length).foldl (fun (s : State) c => s.modTask (.graph job (Fin.ofNat 3 c) k) 0 fun (t : TaskSt) =>
            { t with late := t.late || t.state != TaskState.done }) s
        | none => s
      (s1.assuredLate job).endTasks g
    else s

def execAssuredTaskDeadline (job : Word) (task : Option Nat) (s : State) : Host.Outcome State Fault Refusal :=
  .next (assuredDeadline job task s)

end Sys2Proof.Machine
end

