-- ==== Sys2Proof/Machine/Claims.lean ====
section
/-! DEFINITION. The slot cycle table: its load, the claims of its entries, the tasks they run (01 R23–R25, 14 R325–R328,
04 R98). -/
namespace Sys2Proof.Machine

/-! ## CYC_LOAD (14 R325, R326) -/

def State.readEntry (s : State) (a : Nat) : CycEntry :=
  let b := s.extRead a 32
  { offsetNs := field b 0 4, kind := field b 4 1, mu := field b 5 1, owner := field b 6 1, task := field b 8 8,
    tiles := BitVec.ofNat 96 (field b 0x10 12), deadlineNs := field b 0x1C 4 }

/-- Tiles of a set, rising. -/
def tilesOf (m : BitVec 96) : List Nat := (upTo 96).filter fun t => m.getLsbD t

/-- May a radio task of an entry be read: its descriptor lies in a radio-domain region? -/
def State.entryReach (s : State) (a n : Nat) : Bool := s.extRange a n && s.inRegion .radio a n

def entryInRange (s : State) (e : CycEntry) : Bool :=
  e.offsetNs < 10000000 && e.kind ≤ 3 && (e.mu == 1 || e.mu == 3) &&
  (match e.kind with
   | 0 => e.owner ≤ 11 && s.entryReach e.task 128
   | 1 => e.owner ≤ 11 && s.entryReach e.task 128 && e.deadlineNs == 0
   | 2 => between 1 20000 e.deadlineNs
   | _ => e.deadlineNs == 0 && e.tiles.toNat / 2 ^ 12 == 0)

def isTask (e : CycEntry) : Bool := e.kind ≤ 1

/-- Does an image hold a POOLQ? -/
def State.imageHasPoolq (s : State) (a : Nat) : Bool :=
  (upTo (min 2048 (s.extNat (a + 4) 4))).any fun i => s.extNat (a + 0x420 + 16 * i + 12) 4 / 2 ^ 26 == 0x0E

/-- The part of the frame an entry claims its tiles for: start and length in ns (01 R23, R25). -/
def claimSpan (e : CycEntry) : Nat × Nat :=
  if e.kind = 1 then (0, 10000000) else ((e.offsetNs + 10000000 - 2000) % 10000000, 2000 + e.deadlineNs)

def claimsMeet (a b : CycEntry) : Bool :=
  let (p, n) := claimSpan a
  let (q, m) := claimSpan b
  isTask a && isTask b && (a.tiles &&& b.tiles) != 0 &&
  (decide ((q + 10000000 - p) % 10000000 < n) || decide ((p + 10000000 - q) % 10000000 < m))

/-- Tiles a cell may claim in a slot: for uplink (02 Table 5), for downlink (03 Table 3). -/
def tileLimit (mu : Nat) (down : Bool) : Nat := if down then (if mu = 3 then 8 else 4) else if mu = 3 then 20 else 10

/-- The downlink record that a cell has, or will have from the next frame. -/
def State.dlRecord (s : State) (cell : Nat) : Option DlCell :=
  match (s.cell cell).pending with
  | some p => some p.2
  | none => (s.cell cell).dl

/-- The build allowance B of 03 R83, in ns. -/
def buildAllowance (mu : Nat) : Nat := if mu = 3 then 18000 else 60000

/-- Does a downlink entry start too late for its slot (03 R83)? Which slot it builds for is not stated (free, log 95). -/
def entryLate (s : State) (e : CycEntry) : Bool :=
  if e.kind = 0 ∧ e.owner < 8 then
    match Config.downlinkSlot e, s.dlRecord e.owner with
    | some k, some d =>
      decide (airStart d.mu.toNat k 0 < e.offsetNs + d.t1aMaxNs.toNat + d.tcpAdvNs.toNat + buildAllowance d.mu.toNat)
    | _, _ => false
  else false

/-- Does an entry break a capacity limit (DEDUCED, log 77) or 03 R83, name a tile that is held or of a stepped cluster (21 R466, 22 R478), or
break 04 R98: the first cluster of a CSP program serves no sweep channel (log 102)? -/
def overCapacity (s : State) (e : CycEntry) : Bool :=
  (tilesOf e.tiles).any (fun t => isTask e && (s.tileHeld t || (s.power.ages.get Ageing.init (t / 8)).stepped)) ||
  (e.kind == 0 && e.owner < 8 && tileLimit e.mu (Config.downlinkSlot e).isSome < (tilesOf e.tiles).length) ||
  (e.kind == 3 && (match (upTo 12).find? fun c => e.tiles.getLsbD c with
    | some c => s.cspMasked c
    | none => false)) || entryLate s e

/-- The table at an address, or the code it is refused with. -/
def State.readTable (s : State) (a : Nat) : CycTable ⊕ Half :=
  let b := s.extRead a 32
  let n := field b 4 4
  let nSems := field b 8 4
  let mgmt (a n : Nat) : Bool := s.extRange a n && s.domainOk .management a n
  if !mgmt a 32 ∨ field b 0 4 ≠ 3 ∨ 4096 < n ∨ 1024 < nSems ∨ field b 0xC 4 ≠ 0 ∨ field b 0x18 8 ≠ 0 then .inr Code.cfgRange
  else if !mgmt a (32 + 32 * n) ∨ (0 < nSems ∧ !mgmt (field b 0x10 8) (4 * nSems)) then .inr Code.cfgRange
  else
    let es := (upTo n).map fun i => s.readEntry (a + 32 + 32 * i)
    match s.readSems (field b 0x10 8) nSems with
    | none => .inr Code.cfgRange
    | some sems =>
      let tasks := (es.filter isTask).map fun e => s.readTask e.task
      let semOk (k : Nat) : Bool := k < 1024 && (s.sem k).owner == 0 && sems.any (·.1 = k)
      let rising := (es.zip (es.drop 1)).all fun p => p.1.offsetNs ≤ p.2.offsetNs
      let rsvd := (upTo n).any fun i => s.extNat (a + 32 + 32 * i + 7) 1 != 0
      if !(es.all (entryInRange s)) ∨ !rising ∨ rsvd ∨ !(tasks.all fun d => d.sems.all semOk) ∨
          (tasks.any fun d => s.imageHasPoolq d.image) then .inr Code.cfgRange
      else if (es.zipIdx.any fun p => (es.drop (p.2 + 1)).any (claimsMeet p.1)) ∨ es.any (overCapacity s) then .inr Code.cfgCapacity
      else .inl { addr := a, entries := es, sems }

def cycLoadBody (addr : Dword) (s : State) : State × Answer :=
  match s.readTable addr.toNat with
  | .inr c => (s, .err c)
  | .inl t => (s.setSched { s.sched with nextTable := some t }, .ok)

def execCycLoad (h : QcpHdr) (addr : Dword) (s : State) : Host.Outcome State Fault Refusal :=
  .next (serve s h { role := .operate, legal := [.started, .running] } (cycLoadBody addr))

/-! ## Claims (01 R23) -/

/-- An entry of the table in force that claims tiles. -/
def State.claimEntry (s : State) (n : Nat) : Option CycEntry :=
  if s.tableRuns then (s.sched.table.bind (·.entries[n]?)).filter isTask else none

/-- Does the time lie within `lead` before an entry's offset? -/
def before (e : CycEntry) (lead now : Nat) : Bool := decide (0 < toOffset e now ∧ toOffset e now ≤ lead)

/-- One slot duration before the offset: tiles of the set that are not ON wake. -/
def preWake (n : Nat) (s : State) : State :=
  match s.claimEntry n with
  | some e => if before e (slotNs e.mu) s.nowNs then (tilesOf e.tiles).foldl State.wakeTile s else s
  | none => s

def execClaimPreWake (entry : Fin 4096) (s : State) : Host.Outcome State Fault Refusal := .next (preWake entry.val s)

/-- 2 µs before the offset: the set is claimed, and inference tasks on it are preempted; assured ones never are. A claim's
preemption decides over a yield under way (14 Table 7). -/
def claimTile (n : Nat) (s : State) (t : Nat) : State :=
  let s1 := s.setSched { s.sched with claims := s.sched.claims.set none t (some n) }
  let x := s1.tile t
  if x.cls = .inference ∧ (x.state = .running ∨ x.state = .loading) then preemptTile t s1
  else if x.cls = .inference ∧ x.state = .draining ∧ x.yielding then s1.modTile t fun x => { x with yielding := false }
  else s1

def preempts (n : Nat) (s : State) : State :=
  match s.claimEntry n with
  | some e => if before e 2000 s.nowNs then (tilesOf e.tiles).foldl (claimTile n) s else s
  | none => s

def execClaimPreemptRequest (entry : Fin 4096) (s : State) : Host.Outcome State Fault Refusal := .next (traced 64 80 s (preempts entry.val s))

/-- After the drain: each tile of the set that is free, its claim made, goes to the radio domain, zeroised first. -/
def toRadio (n : Nat) (s : State) (t : Nat) : State :=
  let x := s.tile t
  if s.sched.claims.get none t = some n ∧ (x.state = .idle ∨ x.state = .faulted) ∧ x.domain ≠ .radio then assignTile t .radio s
  else s

def reassigns (n : Nat) (s : State) : State :=
  match s.claimEntry n with
  | some e => (tilesOf e.tiles).foldl (toRadio n) s
  | none => s

def execClaimReassign (entry : Fin 4096) (s : State) : Host.Outcome State Fault Refusal := .next (reassigns entry.val s)

/-! ## Tasks of entries (14 R325, 11 R240) -/

/-- The radio polders of an entry's task that the tile does not hold: allocated untagged, without a window (DESIGN CHOICE,
log 16). -/
def allocRadio (n d : Nat) (x : Tile) : Tile :=
  (upTo d).foldl (fun x p =>
    if (x.polders.get Polder.init p).state = .free then
      { x with polders := x.polders.set Polder.init p { Polder.init with state := .held, job := BitVec.ofNat 32 n } }
    else x) x

/-- Rank of a tile: its place among the set bits. -/
def rankIn (m : BitVec 96) (t : Nat) : Nat := ((tilesOf m).filter (· < t)).length

/-- A radio task loaded on an IDLE radio tile of its entry's set. -/
def State.loadRadio (s : State) (n : Nat) (e : CycEntry) (ref : TaskRef) (seed : Dword) (t : Nat) : State :=
  let d := s.readTask e.task
  let fresh := (if s.savedOf ref |>.isSome then s.taskSt ref t else none).getD (newTask s.clock.cycle d)
  let s1 := match ref with
    | .training set => s.setSched { s.sched with training := s.sched.training.set none set.val (some fresh) }
    | _ => s.setSched { s.sched with tileTasks := s.sched.tileTasks.set none t (some fresh) }
  let size := (tilesOf e.tiles).length
  let job := BitVec.ofNat 32 n
  (s1.modTile t (allocRadio n d.polders)).loadTile t ref
    { desc := d, cls := .radio, job, pjob := job, taskId := d.taskId, rank := rankIn e.tiles t, size, grouped := true, seed }

/-- Is a tile ready for a radio task? -/
def State.radioFree (s : State) (t : Nat) : Bool :=
  let x := s.tile t
  x.state == .idle && x.ref.isNone && x.domain == .radio && (s.assured.running.get none t).isNone

/-- The entry's task on a tile that it claims and on which it has not run since its offset (14 R325). -/
def loadEntry (n : Nat) (e : CycEntry) (s : State) (t : Nat) : State :=
  if s.sched.claims.get none t = some n ∧ !s.sched.ranOn.contains (n, t) ∧ s.radioFree t then
    let s1 := s.loadRadio n e (.entry (Fin.ofNat 4096 n)) 0 t
    s1.setSched { s1.sched with ranOn := (n, t) :: s1.sched.ranOn }
  else s

/-- The CSP program of a kind-3 entry on one of its clusters: the image is loaded into an empty CSP, and what is loaded or stopped with it runs;
a CSP that serves only the sweep link is left alone (10 R237, 14 Table 5, 04 R98). The layout of the image is not stated (log 101). -/
def startProgram (e : CycEntry) (s : State) (c : Nat) : State :=
  if s.cspMasked c then s
  else
    let (bundles, signals) := Config.cspImage (s.extRead e.task 65536)
    s.setCsp c (runProg (loadProg { bundles, signals } (s.csp c)))

/-- From the offset on, within the slot: the entry's task starts on each tile of its set, for the slot it serves; the slot's intake window closes.
A CSP program starts on its clusters. -/
def entryOffset (n : Nat) (slot : AbsSlot) (s : State) : State :=
  match if s.tableRuns then s.sched.table.bind (·.entries[n]?) else none with
  | some e =>
    if slotNs e.mu ≤ sinceOffset e s.nowNs then s
    else if e.kind = 0 ∧ (s.sched.entrySlot.get none n = none ∨ s.sched.entrySlot.get none n = some slot.toNat) then
      let s1 := if e.owner < 8 then holdSrs e.owner slot.toNat (closeIntake e.owner slot.toNat s) else s
      (tilesOf e.tiles).foldl (loadEntry n e) (s1.setSched { s1.sched with entrySlot := s1.sched.entrySlot.set none n (some slot.toNat) })
    else if e.kind = 3 then ((upTo 12).filter fun c => e.tiles.getLsbD c).foldl (startProgram e) s
    else s
  | none => s

def execClaimEntryOffset (entry : Fin 4096) (slot : AbsSlot) (s : State) : Host.Outcome State Fault Refusal :=
  .next (traced 64 80 s (entryOffset entry.val slot s))

/-- Does a tile of the set still work on the entry's task? -/
def busyOn (s : State) (n t : Nat) : Bool :=
  let x := s.tile t
  x.ref == some (.entry (Fin.ofNat 4096 n)) && x.state != .faulted

/-- A tile returned to the graph scheduler: in the inference domain, zeroised first. -/
def toInference (n : Nat) (s : State) (t : Nat) : State :=
  if s.sched.claims.get none t = some n then
    let s1 := s.setSched { s.sched with claims := s.sched.claims.set none t none }
    if (s1.tile t).state = .idle ∨ (s1.tile t).state = .faulted then assignTile t .inference s1 else s1
  else s

/-- Tiles that still carry the claim of entry `n` of an earlier table and work on it no more (14 R327). -/
def staleTiles (s : State) (n : Nat) : List Nat :=
  let now : BitVec 96 := match (s.sched.table.bind (·.entries[n]?)).filter isTask with | some e => e.tiles | none => 0
  (upTo 96).filter fun t => s.sched.claims.get none t == some n && !now.getLsbD t && !busyOn s n t

/-- Has the entry's task ended: it has started, and on each tile it has run, or its deadline is past (01 R23)? -/
def entryEnded (s : State) (n : Nat) (e : CycEntry) : Bool :=
  (s.sched.entrySlot.get none n).isSome && (tilesOf e.tiles).all fun t =>
    !busyOn s n t && (s.sched.ranOn.contains (n, t) || decide (e.deadlineNs ≤ sinceOffset e s.nowNs))

/-- The end of the entry's task on all its tiles ends the claim. -/
def claimEnd (n : Nat) (s : State) : State :=
  let s := (staleTiles s n).foldl (toInference n) s
  match (s.sched.table.bind (·.entries[n]?)).filter isTask with
  | some e =>
    if e.kind = 0 ∧ entryEnded s n e then
      (tilesOf e.tiles).foldl (toInference n) (s.setSched { s.sched with
        entrySlot := s.sched.entrySlot.set none n none, ranOn := s.sched.ranOn.filter (·.1 ≠ n) })
    else s
  | none => s

def execClaimTaskEnd (entry : Fin 4096) (s : State) : Host.Outcome State Fault Refusal := .next (claimEnd entry.val s)

/-! ## LOAD as a tile command (11 R240, R261) -/

/-- The standing entry of an adaptation set that claims a tile. -/
def State.standingOf (s : State) (set t : Nat) : Option (Nat × CycEntry) :=
  match s.sched.table with
  | none => none
  | some tb => ((tb.entries.zipIdx).find? fun p => p.1.kind == 1 && p.1.owner == set && p.1.tiles.getLsbD t).map fun p => (p.2, p.1)

def loadCommand (t : Nat) (ref : TaskRef) (s : State) : State :=
  let x := s.tile t
  if x.state ≠ .idle ∨ x.ref.isSome then s.tileRefusal t
  else match ref with
    | .graph job copy k =>
      (match (s.graph job).bind fun g => ((g.copies[copy.val]?).bind fun c => c.tasks[k]?).map fun y => (g, y) with
       | some (g, y) =>
         let peer (j : Nat) : Option Nat := (g.copies[copy.val]?).bind fun c => (c.tasks[j]?).map (·.tile)
         if g.outcome.isNone ∧ isWaitingTask y ∧ s.tileSuits g copy.val k y (otherTiles g copy.val k 2) t then s.placeOn g copy k t peer
         else s
       | none => s)
    | .entry n =>
      (match s.claimEntry n.val with
       | some e => if e.tiles.getLsbD t ∧ (s.sched.entrySlot.get none n.val).isSome then loadEntry n.val e s t else s
       | none => s)
    | .training set =>
      (match s.standingOf set.val t with
       | some (n, e) =>
         let seed := match (s.aset set.val).cfg with | some r => r.seed | none => 0
         if s.radioFree t ∧ !s.shadowBusy set.val ∧ s.areaFree x.saveRad ref t then s.loadRadio n e ref seed t else s
       | none => s)

def execTileLoad (tile : TileId) (ref : TaskRef) (s : State) : Host.Outcome State Fault Refusal :=
  .next (loadCommand tile.val ref s)

/-! ## The switch of tables (14 R327) -/

/-- Does an assured task run on a tile that a table claims? -/
def State.assuredOn (s : State) (tb : CycTable) : Bool :=
  s.tiles.entries.any fun e => e.2.cls == .assured && e.2.ref.isSome && tb.entries.any fun x => isTask x && x.tiles.getLsbD e.1

def State.dropSems (s : State) (sems : List (Nat × Nat)) : State :=
  sems.foldl (fun s e => s.setSem e.1 { (s.sem e.1) with count := 0, claim := none }) s

def State.takeSems (s : State) (sems : List (Nat × Nat)) (c : SemClaim) : State :=
  sems.foldl (fun s e => s.setSem e.1 { (s.sem e.1) with count := e.2, claim := some c }) s

/-- Tiles of the old table's standing entries return to the graph scheduler; those of the new one are claimed. -/
def standingSwitch (old : Option CycTable) (new : CycTable) (s : State) : State :=
  let es := match old with | some t => t.entries.zipIdx | none => []
  let s1 := (es.filter (·.1.kind = 1)).foldl (fun s p => (tilesOf p.1.tiles).foldl (toInference p.2) s) s
  ((new.entries.zipIdx).filter (·.1.kind = 1)).foldl (fun s p =>
    (tilesOf p.1.tiles).foldl (fun s t => toRadio p.2 (claimTile p.2 s t) t) s) s1

/-- At a frame boundary a loaded table takes effect, unless an assured task runs where it claims; a claim of the old one ends with the task that
still runs under it. An adaptation set that a standing entry now names may train (05 R129, R137). -/
def tableSwitch (s : State) : State :=
  match s.sched.nextTable with
  | none => s
  | some tb =>
    if s.assuredOn tb then s else
      let old := s.sched.table
      let s1 := s.setSched { s.sched with table := some tb, nextTable := none, entrySlot := .empty, ranOn := [] }
      let s2 := (s1.dropSems (match old with | some t => t.sems | none => [])).takeSems tb.sems .table
      let s3 := (upTo (match old with | some t => t.entries.length | none => 0)).foldl (fun s n =>
        (staleTiles s n).foldl (toInference n) s) s2
      (upTo 12).foldl (fun s n => s.collectDone n) (standingSwitch old tb s3)

end Sys2Proof.Machine
end

