-- ==== Sys2Proof/Machine/SweepLoad.lean ====
section
/-! DEFINITION. Equalised receptions per CSP, and receptions that leave their CSP after a step-down (04 R104, R105). -/
namespace Sys2Proof.Machine

/-- The bandwidth of a channel record in Hz (04 Table 3). -/
def bandOf (r : SweepRec) : Nat := 200000 * 2 ^ (r.bw.toNat % 4)

/-- Chip rates of the receptions equalised on a CSP, summed. -/
def State.cspLoad (s : State) (c : Nat) : Nat :=
  ((upTo 4).flatMap fun k => (s.chan k).recep.filterMap fun r => match r.eq with
    | some e => if e.csp = c then some (bandOf r.record) else none
    | none => none).foldl (· + ·) 0

/-- The chip rate a CSP can carry at its cluster's clock. -/
def State.cspLimit (s : State) (c : Nat) : Nat :=
  if (s.power.ages.get Ageing.init c).stepped then 14062500 else 15625000

/-- A reception runs on unequalised. -/
def unequal (r : Reception) : Reception := { r with eq := none, unequalised := true }

/-- The reception admitted last on a CSP: channel and identity. -/
def State.newestOn (s : State) (c : Nat) : Option (Nat × Nat) :=
  let all := (upTo 4).flatMap fun k => (s.chan k).recep.filterMap fun r => match r.eq with
    | some e => if e.csp = c then some (r.admitted, k, r.id) else none
    | none => none
  (all.foldl (fun (a : Option (Nat × Nat × Nat)) b => match a with
    | none => some b
    | some x => if x.1 ≤ b.1 then some b else some x) none).map (·.2)

/-- After a step-down, the most recently admitted receptions leave the CSP until the rest fit. -/
def State.sweepFit (s : State) (c : Nat) : Nat → State
  | 0 => s
  | f + 1 =>
    if s.cspLoad c ≤ s.cspLimit c then s
    else match s.newestOn c with
      | none => s
      | some (k, id) =>
        (s.modChan k fun x => { x with recep := x.recep.map fun r => if r.id = id then unequal r else r }).sweepFit c f

end Sys2Proof.Machine
end

