-- ==== Sys2Proof/Machine/Power.lean ====
section
/-! DEFINITION. Power domains, cap and temperature, ageing (21), and memory training (01 R19, 23 R493). -/
namespace Sys2Proof.Machine

namespace Pwr
def hot : Half := 0x0301
def agePlan : Half := 0x0501
def ageNearmiss : Half := 0x0502
def ageStepdown : Half := 0x0503
end Pwr

/-! ## Switching of tiles and fabrics (21 R456, R457) -/

/-- A cluster fabric goes to RETAIN once its tiles, its CSP and its pooling queue are quiet (DEDUCED, log 73). -/
def State.fabricRest (s : State) (c : Nat) : State :=
  let quiet (t : Nat) : Bool := match s.powerOf t with | .retain | .off => true | _ => false
  let cl := s.cluster c
  if s.powerOf (96 + c) = .on ∧ (upTo 8).all (fun i => quiet (8 * c + i)) ∧ (s.csp c).state ≠ .running ∧ cl.poolQueue.isEmpty ∧
      cl.poolRun.isNone then s.setPowerOf (96 + c) .retain
  else s

/-- A tile IDLE for RETAIN_AFTER cycles is retained. -/
def idleRetain (t : Nat) (s : State) : State :=
  let x := s.tile t
  if s.powerOf t = .on ∧ x.state = .idle ∧ (s.assured.running.get none t).isNone ∧ s.power.retainAfter ≠ 0 ∧ x.since + s.power.retainAfter ≤ s.clock.cycle then
    ((s.setPowerOf t .retain).modTile t fun x => { x with since := s.clock.cycle }).fabricRest (t / 8)
  else s

def execTileIdleRetain (tile : TileId) (s : State) : Host.Outcome State Fault Refusal := .next (idleRetain tile.val s)

/-- What is lost of a tile that goes OFF: all but its domain and what the save areas, outside it, hold (DEDUCED, log 78). -/
def offTile (x : Tile) : Tile :=
  { Tile.init with domain := x.domain, nextDomain := x.domain, saveInf := x.saveInf, saveRad := x.saveRad, notices := x.notices }

/-- A retained tile with every polder FREE goes OFF after OFF_AFTER cycles. -/
def retainOff (t : Nat) (s : State) : State :=
  let x := s.tile t
  if s.powerOf t = .retain ∧ s.power.offAfter ≠ 0 ∧ x.since + s.power.offAfter ≤ s.clock.cycle ∧
      (upTo 24).all (fun p => (x.polders.get Polder.init p).state == .free) then
    ((s.setTile t (offTile x)).setPowerOf t .off).fabricRest (t / 8)
  else s

def execTileRetainOff (tile : TileId) (s : State) : Host.Outcome State Fault Refusal := .next (retainOff tile.val s)

/-- Every 10 s each retained tile wakes for one scrub pass and is retained again. -/
def scrubWake (s : State) : State :=
  ((upTo 96).filter fun t => s.powerOf t = .retain).foldl (fun s t => (upTo 24).foldl (fun s p => scrubPolder t p s) s) s

def execRetainScrubWake (s : State) : Host.Outcome State Fault Refusal := .next (scrubWake s)

/-! ## Wakes and training (21 R453, R457, 01 R19, 23 R493) -/

def sameModule (a b : Option Training) : Bool :=
  match a, b with
  | some x, some y => x.supported && y.supported && x.gib == y.gib && x.dimms == y.dimms
  | _, _ => false

/-- MEM_STAT and the installed capacity after a channel reports: DDR5 is backed where all eight channels hold trained, equal
populations; once all have reported, another population with any module is unequal. -/
def State.memPopulation (s : State) : State :=
  let m := s.mem
  let ch (i : Nat) : Option Training := m.modules.get none i
  let some' := (upTo 8).any fun i => match ch i with | some t => t.dimms != 0 | none => false
  let equal := (upTo 8).all fun i => sameModule (ch 0) (ch i)
  let reported := (upTo 8).all fun i => (ch i).isSome
  let gib : Nat := if equal then ((upTo 8).map fun i => match ch i with | some t => t.gib * t.dimms | none => 0).sum else 0
  let unequal := reported && some' && !equal
  let s1 := s.setMem { m with
    unequal, ddrGib := gib, dpc := if equal then ((ch 0).map (·.dimms)).getD 0 else 0,
    ddrRate := if equal then ((ch 0).map (·.rate)).getD 0 else 0
    ddrTrained := BitVec.ofNat 8 (((upTo 8).map fun i => match ch i with | some t => if t.supported && t.dimms != 0 then 2 ^ i else 0 | none => 0).sum) }
  if unequal ∧ !m.unequal then s1.record Code.memUnequal 0 [] else s1

/-- The radio PLL starts with the first wake of a port pair, grid engine or the sweep engine, unless it is held (21 R455). -/
def State.radioStart (s : State) : State :=
  if s.rst.heldRadio then s else s.setPower { s.power with radioLock := true }

/-- A waking domain is ON: a tile only on a fabric that is, a memory PHY with what its training reports. -/
def wakeDone (d : Nat) (t : Option Training) (s : State) : State :=
  if s.powerOf d ≠ .waking ∨ s.rst.held.contains d ∨ (d < 96 ∧ s.powerOf (96 + d / 8) ≠ .on) then s
  else
    let s1 := s.setPowerOf d .on
    if d < 96 then (s1.modTile d fun x => { x with since := s.clock.cycle }).startSegment d
    else if d < 108 then
      (s1.setPower { s1.power with cluLock := s1.power.cluLock ||| BitVec.ofNat 12 (2 ^ (d - 96)) }).fabricRest (d - 96)
    else if d = 117 ∨ d = 118 then s1.setMem { s1.mem with hbmTrained := s1.mem.hbmTrained ||| BitVec.ofNat 2 (2 ^ (d - 117)) }
    else if 119 ≤ d ∧ d < 127 then
      (match t with
       | some r => (s1.setMem { s1.mem with modules := s1.mem.modules.set none (d - 119) (some r) }).memPopulation
       | none => s1)
    else if (108 ≤ d ∧ d < 112) ∨ d = 116 ∨ (127 ≤ d ∧ d < 131) then s1.radioStart
    else s1

def execDomainWakeComplete (d : Fin 136) (t : Option Training) (s : State) : Host.Outcome State Fault Refusal :=
  .next (wakeDone d.val t s)

/-! ## Cap and temperature (21 R461, R462) -/

def powerEstimate (deciwatts : Nat) (s : State) : State :=
  let p := s.power
  let est := min 65535 deciwatts
  let duty := if p.cap * 10 < est then min 15 (p.duty + 1) else if est * 100 < p.cap * 10 * 95 then p.duty - 1 else p.duty
  s.setPower { p with est, duty }

def execPowerEstimate (deciwatts : Nat) (s : State) : Host.Outcome State Fault Refusal := .next (traced 112 128 s (powerEstimate deciwatts s))

/-- The thermal level after a reading (21 Table 4). -/
def levelAfter (p : Power) (tj : Int) : Nat :=
  if (p.tCrit : Int) ≤ tj then 2
  else if p.level = 2 then (if tj < p.tCrit - 3 then 1 else 2)
  else if (p.tHot : Int) ≤ tj then 1
  else if p.level = 1 then (if tj < p.tHot - 3 then 0 else 1)
  else 0

/-- A reading of Tj; below 100 °C it ends a reset's wait on temperature (22 R477) (DEDUCED, log 73). -/
def thermalUpdate (tj : Int) (s : State) : State :=
  let p := s.power
  let level := levelAfter p tj
  let dutyTherm := if level = 0 then p.dutyTherm - 1 else if level = 1 then min 15 (p.dutyTherm + 1) else p.dutyTherm
  let since (b : Bool) (k : Option Nat) : Option Nat := if b then some (k.getD s.clock.cycle) else none
  let s0 := s.setPower { p with tj, level, dutyTherm, hotSince := since (115 ≤ tj) p.hotSince,
                                driftSince := since (p.tempDelta ≤ (tj - p.planTj).natAbs) p.driftSince }
  let s1 := if tj < 100 then s0.setRst { s0.rst with thermalHold := false } else s0
  if level = 2 ∧ p.level ≠ 2 then s1.record Pwr.hot 0 [(BitVec.ofInt 32 tj).toNat] else s1

def execThermalUpdate (tj : Int) (s : State) : Host.Outcome State Fault Refusal := .next (traced 112 128 s (thermalUpdate tj s))

/-! ## Ageing (21 R463–R466) -/

def State.ageing (s : State) (c : Nat) : Ageing := s.power.ages.get Ageing.init c
def State.setAgeing (s : State) (c : Nat) (a : Ageing) : State :=
  s.setPower { s.power with ages := s.power.ages.set Ageing.init c a }

def vMax : Nat := 800

/-- A cluster's plan: the target against the present voltage, which never leaves the range from its trimmed start to V_MAX (21 R463), and
whether its clock must step down at the next frame boundary. `fresh` after an L0 reset. -/
def planCluster (guard vreq trim frame : Nat) (fresh : Bool) (a : Ageing) : Ageing :=
  let target := ceilDiv (vreq + guard) 5 * 5
  let vdd := if a.vdd < target then min target vMax else if target < a.vdd ∧ trim + 5 ≤ a.vdd then a.vdd - 5 else a.vdd
  { vreq, vdd, stepped := if fresh && decide (target ≤ vMax) then false else a.stepped,
    stepNext := decide (vMax < target) && !a.stepped, stepFrame := frame + 1 }

/-- Is a plan due: after an L0 reset, 24 h of device time after the last one, or Tj away from it for 10 s (21 R464)? -/
def State.planDue (s : State) : Bool :=
  let p := s.power
  p.fresh || decide (p.lastPlan + 86400 ≤ s.nowSec) || p.driftSince.any fun k => decide (k + 12500000000 ≤ s.clock.cycle)

def ageingPlan (vreq : List Nat) (s : State) : State :=
  if !s.planDue then s else
  let p := s.power
  let s1 := (upTo 12).foldl (fun s c => match vreq[c]? with
    | some v => s.setAgeing c (planCluster p.guardMv v s.rst.shadow.trimMv s.frameNow p.fresh (s.ageing c))
    | none => s) s
  (s1.setPower { s1.power with lastPlan := s.nowSec, planTj := p.tj, fresh := false, driftSince := none }).record Pwr.agePlan 0 []

def execAgeingPlan (vreq : List Nat) (s : State) : Host.Outcome State Fault Refusal := .next (traced 112 128 s (ageingPlan vreq s))

def nearMiss (c : Nat) (s : State) : State :=
  let a := s.ageing c
  (s.setAgeing c { a with vdd := min vMax (a.vdd + 5) }).record Pwr.ageNearmiss c []

def execAgeNearmiss (c : ClusterId) (s : State) : Host.Outcome State Fault Refusal := .next (traced 112 128 s (nearMiss c.val s))

/-- The step to 1.125 GHz at the frame boundary after the plan; receptions beyond the CSP's new limit run on unequalised (04 R105). -/
def stepDown (c : Nat) (s : State) : State :=
  let a := s.ageing c
  if a.stepNext ∧ a.stepFrame ≤ s.frameNow then
    ((s.setAgeing c { a with stepped := true, stepNext := false }).record Pwr.ageStepdown c []).sweepFit c 64
  else s

def execAgeStepdown (c : ClusterId) (s : State) : Host.Outcome State Fault Refusal := .next (traced 112 128 s (stepDown c.val s))

end Sys2Proof.Machine
end

