-- ==== Sys2Proof/Machine/Berm.lean ====
section
/-! DEFINITION. Berm service: its record's checks and its start (22 R482, R483). -/
namespace Sys2Proof.Machine

/-- The staging area: the first 64 MiB of HBM (19 R422). -/
def stagingSize : Nat := 0x4000000

/-- A berm record as R482 takes it; one outside the ranges of R28 or R67, or with a PTP domain outside 24 to 43, is refused too
(DEDUCED, log 52). -/
def bermOk (ul : UlCell) (dl : DlCell) (domain : Nat) : Bool :=
  let u := { ul with rxMode := 1 }
  ul.mu == 1 && dl.mu == 1 && decide (ul.nPrb.toNat ≤ 273) && decide (dl.nPrb.toNat ≤ 273) && decide (ul.maxLayers.toNat ≤ 4) &&
  ul.gridEngine == 0 && dl.gridEngine == 0 && ul.decoderBank == 0 && dl.decoderBank == 0 && decide (ul.resultPort.toNat ≤ 1) &&
  dl.precodePlace == 1 && decide (stagingSize ≤ (poolOf ul).1) && decide ((poolOf ul).1 + (poolOf ul).2 ≤ hbmSize) &&
  ulCellOk u && dlCellOk dl && ul.cellIndex == dl.cellIndex && between 24 43 domain

/-- The radio-domain region of the HARQ pool, in whole MiB, in the first free entry; its range reads as zeros. -/
def State.bermRegionSet (s : State) (ul : UlCell) : State :=
  let (a, n) := poolOf ul
  let base := a / 2 ^ 20
  let size := ceilDiv (a + n) (2 ^ 20) - base
  match (upTo 128).find? fun i => (s.region i).domain = 3 with
  | none => s
  | some i =>
    let r : Region := { Region.init with domain := 0, base, size }
    let s1 := s.setSec { s.sec with regions := s.sec.regions.set Region.init i r, bermRegion := some i }
    s1.extZero (base * 2 ^ 20) (size * 2 ^ 20)

/-- Berm service: the ROMs run C0, GE0, DB0, NP0 and NP1, the time unit follows PTP in HARD mode, the cell waits for LOCKED. -/
def State.bermEnter (s : State) (ul : UlCell) (dl : DlCell) (port : Bool) (domain : Byte) : State :=
  let n := ul.cellIndex.toNat
  let s1 := s.bermRegionSet ul
  let s2 := s1.setHost { s1.host with state := .berm, berm := true, bermPending := true }
  let s3 := s2.modCell n fun c => { c with pending := some ({ ul with rxMode := 1 }, dl) }
  let s4 := s3.setTime (reIncr { s3.time with mode := 1, nextMode := none, source := if port then 1 else 0, freqRef := 14, domain := domain.toNat })
  let s5 := s4.setCluster 0 { s4.cluster 0 with core := .rom }
  ([96, 108, 112, 127].foldl State.wakeDomain s5).radioStart

/-- Berm service's cell starts at the first frame boundary after LOCKED. -/
def bermBoundary (s : State) : State :=
  if s.host.bermPending ∧ s.time.state = .locked then s.setHost { s.host with bermPending := false } else s

/-- The scheduler core takes over the berm cell at the first frame boundary after RUN (19 R414). -/
def takeoverBoundary (s : State) : State :=
  if s.host.takeover then s.setHost { s.host with takeover := false, berm := false, bermPending := false } else s

end Sys2Proof.Machine
end

