-- ==== Sys2Proof/Machine/Registers.lean ====
section
/-! DEFINITION. The register map as it is read (24 and the register tables of the other chapters). -/
namespace Sys2Proof.Machine

/-- Fields of a register, each its lowest bit and its value, ORed into one word. -/
def fieldsAt (fs : List (Nat × Nat)) : Nat := (fs.map fun f => f.2 * 2 ^ f.1).sum

def boolBit (b : Bool) : Nat := if b then 1 else 0

/-- A mask of the numbers below `n` that satisfy a test. -/
def maskOf (n : Nat) (p : Nat → Bool) : Nat := ((upTo n).map fun i => if p i then 2 ^ i else 0).sum

def powerCode : PowerSt → Nat
  | .off => 0 | .retain => 1 | .on => 2 | .waking => 3

def levelCode : Level → Nat
  | .l0 => 0 | .l1 => 1 | .l2 => 2 | .l3 => 3

def devStateCode : DevState → Nat
  | .anchor => 0 | .berm => 1 | .loaded => 2 | .started => 3 | .running => 4 | .faulted => 5

def lifecycleCode : Lifecycle → Nat
  | .opened => 0 | .sealed => 1 | .debug => 2

/-! ## DEV, RST, PWR, CLK, AGE -/

/-- Cluster fabrics held (22 R478). -/
def State.fabricsHeld (s : State) : Nat := ((upTo 12).filter fun c => s.rst.held.contains (96 + c)).length

def devReg (s : State) (o : Nat) : Nat :=
  match o with
  | 0 => fieldsAt [(48, 0x8100), (40, 0xB0), (32, 1)]
  | 0x8 => s.sec.fuses.serial.toNat
  | 0x10 => fieldsAt [(56, 96), (52, s.fabricsHeld), (44, 48), (32, if s.mem.unequal then 0 else s.mem.ddrGib),
                      (28, s.array.nx), (24, s.array.ny), (20, s.array.y * s.array.nx + s.array.x)]
  | _ => 0

/-- RST_MAP as the last L0 load gave it: an unblown field maps to L0 (22 R472). -/
def resetMapWord (s : State) : Nat :=
  fieldsAt ((upTo 8).map fun i => (8 * i, ((s.rst.shadow.resetMap.get none i).map (·.toNat)).getD 0))

def rstCause (s : State) : Nat :=
  fieldsAt [(29, s.rst.source), (27, levelCode s.rst.level), (26, boolBit s.rst.merged), (0, s.rst.detail.toNat)]

def rstStatus (s : State) : Nat :=
  fieldsAt [(30, s.rst.phase), (29, boolBit s.rst.trimFail), (27, s.rst.loads), (26, boolBit s.rst.thermalHold),
            (25, boolBit s.rst.refclkWait), (24, boolBit (!s.rst.held.isEmpty || s.rst.heldRadio))]

/-- RST_HELD0 to RST_HELD2: bit 136 is the radio PLL (22 R484). -/
def rstHeld (s : State) (n : Nat) : Nat :=
  maskOf 64 (fun i => s.rst.held.contains (64 * n + i) || (s.rst.heldRadio && 64 * n + i == 136))

def rstReg (s : State) (o : Nat) : Nat :=
  match o with
  | 0 => rstCause s
  | 0x8 => rstStatus s
  | 0x10 => resetMapWord s
  | 0x18 => fieldsAt [(16, boolBit s.rst.schEn), (0, s.rst.schPeriod)]
  | 0x100 => rstHeld s 0
  | 0x108 => rstHeld s 1
  | 0x110 => rstHeld s 2
  | _ => 0

def pwrReg (s : State) (o : Nat) : Nat :=
  let p := s.power
  if 0x100 ≤ o ∧ o < 0x128 then
    fieldsAt ((upTo 32).filterMap fun i =>
      let d := (o - 0x100) / 8 * 32 + i
      if d < 136 then some (2 * i, powerCode (s.powerOf d)) else none)
  else match o with
  | 0x8 => fieldsAt [(32, p.offAfter), (0, p.retainAfter)]
  | 0x10 => p.cap
  | 0x18 => fieldsAt [(48, p.est), (40, (BitVec.ofInt 8 p.tj).toNat), (38, p.level), (34, if p.level = 2 then 15 else max p.duty p.dutyTherm)]
  | 0x20 => fieldsAt [(8, p.tHot), (0, p.tCrit)]
  | _ => 0

def clkReg (s : State) (o : Nat) : Nat :=
  let p := s.power
  if o = 0 then
    fieldsAt [(40, maskOf 12 fun c => p.cluLock.getLsbD c && !(p.ages.get Ageing.init c).stepped), (28, p.cluLock.toNat),
              (3, boolBit p.refclkOk), (2, boolBit p.radioLock), (1, boolBit p.devLock), (0, boolBit p.xtalOk)]
  else 0

def ageReg (s : State) (o : Nat) : Nat :=
  let p := s.power
  if 0x100 ≤ o ∧ o < 0x160 then
    let a := p.ages.get Ageing.init ((o - 0x100) / 8)
    fieldsAt [(31, boolBit a.stepped), (12, a.vreq), (0, a.vdd)]
  else match o with
  | 0 => fieldsAt [(16, p.guardMv), (8, p.tempDelta)]
  | 0x8 => p.lastPlan % 2 ^ 48
  | _ => 0

/-! ## TIM, EVR, SEC, MBX -/

def clockCode : ClockState → Nat
  | .free => 0 | .acquire => 1 | .locked => 2 | .holdover => 3

def word48 (x : Int) : Nat := (BitVec.ofInt 48 x).toNat

def timReg (s : State) (o : Nat) : Nat :=
  let t := s.time
  if 0x100 ≤ o ∧ o < 0x180 then
    let p := t.pps.getD ((o - 0x100) / 0x20) Pps.init
    match o % 0x20 with
    | 0 => p.sec
    | 0x8 => p.ns
    | 0x10 => fieldsAt [(32, p.period), (8, p.width), (7, boolBit p.unit256), (2, boolBit p.polarity), (0, p.mode)]
    | 0x18 => fieldsAt [(1, boolBit p.missed), (0, boolBit p.armed)]
    | _ => 0
  else if 0x300 ≤ o ∧ o < 0x350 then
    let d := t.delays.get (0, 0) ((o - 0x300) / 8)
    fieldsAt [(16, d.1.toNat), (0, d.2.toNat)]
  else match o with
  | 0 => s.nowSec % 2 ^ 48
  | 0x8 => t.latch
  | 0x10 => fieldsAt [(30, t.mode), (26, t.source), (24, t.refFreq), (20, t.freqRef), (12, t.domain), (11, boolBit t.synEn),
                      (10, boolBit t.oneStep)]
  | 0x18 => fieldsAt [(29, clockCode t.state), (28, boolBit (t.state == .locked)), (27, boolBit t.leveeFlag),
                      (26, boolBit t.txtsOvf), (25, boolBit t.synSat), (24, boolBit t.refLost), (16, t.clockClass)]
  | 0x20 => t.levee
  | 0x28 => fieldsAt [(16, t.ki), (0, t.slewMax)]
  | 0x30 => t.incr
  | 0x38 => word48 t.c
  | 0x48 => fieldsAt [(26, t.fcwWidth), (21, t.prefixLen), (8, t.div)]
  | 0x50 => t.prefixVal
  | 0x58 => t.gain
  | 0x60 => t.last
  | 0x68 => word48 t.meas
  | 0x70 => t.holdLimit
  | 0x200 => t.txHi
  | 0x208 => (match t.queue with
      | e :: _ => fieldsAt [(63, 1), (59, e.port), (16, e.ns), (0, e.frac)]
      | [] => 0)
  | 0x210 => fieldsAt [(16, t.txDropped), (0, t.queue.length)]
  | _ => 0

/-- The 32 bytes of a record as four 8-byte words (19 Table 9). -/
def recordWords (r : Option EvSlot) : List Nat :=
  match r with
  | none => [0, 0, 0, 0]
  | some x =>
    let p (i : Nat) : Nat := (x.entry.params.getD i 0).toNat
    [fieldsAt [(63, boolBit x.valid), (32, x.count.toNat), (16, x.entry.source.toNat), (0, x.entry.code.toNat)],
     x.entry.sec % 2 ^ 34 * 2 ^ 30 + x.entry.ns, p 0 + p 1 * 2 ^ 32, p 2 + p 3 * 2 ^ 32]

/-- EVR, by its offset in the span of five blocks. -/
def evrReg (s : State) (o : Nat) : Nat :=
  if o = 0 then s.events.count
  else if o = 8 then s.events.dropped
  else if 0x10000 ≤ o ∧ o < 0x50000 then
    (recordWords (s.events.records.get none ((o - 0x10000) / 32))).getD (o % 32 / 8) 0
  else 0

def slotsFilled (s : State) : Nat := (s.sec.slots.values.filter (·.isSome)).length

def secReg (s : State) (o : Nat) : Nat :=
  let x := s.sec
  if o = 0 then
    fieldsAt [(30, lifecycleCode x.lifecycle), (29, boolBit x.fuses.requireMldsa), (28, boolBit x.fuses.debugDisabled),
              (21, x.fuses.rollback), (14, slotsFilled s)]
  else if 0x100 ≤ o ∧ o < 0x500 then
    let r := x.regions.get Region.init ((o - 0x100) / 8)
    fieldsAt [(62, r.domain.toNat), (61, boolBit r.sealed), (60, boolBit r.changing), (28, r.base), (0, r.size)]
  else 0

def sessionsOpen (s : State) : Nat := (s.host.sessions.values.filter (·.isSome)).length

def mbxState (s : State) : Nat :=
  fieldsAt [(29, devStateCode s.host.state), (28, boolBit s.host.berm), (24, s.host.faultedCore), (16, s.host.fwMajor.toNat),
            (8, s.host.fwMinor.toNat), (4, sessionsOpen s)]

def mbxReg (s : State) (o : Nat) : Nat :=
  match o with
  | 0 => mbxState s
  | 0x8 => s.host.drop
  | 0x10 => s.host.notifyLost
  | _ => 0

/-! ## SCH, CYC, SAF -/

def schStat (s : State) : Nat :=
  let ready (c : Nat) : Nat := ((s.sched.graphs.filter (·.hdr.cls = c)).map fun g =>
    (g.copies.map fun c => (c.tasks.filter (·.state == .ready)).length).sum).sum
  fieldsAt [(48, ready 2 % 65536), (32, ready 1 % 65536), (18, s.sched.graphs.length % 16384),
            (0, (s.sched.graphs.map (·.hdr.nTasks)).sum % 2 ^ 18)]

def schReg (s : State) (o : Nat) : Nat :=
  if o = 0 then schStat s
  else if 0x100 ≤ o ∧ o < 0x200 then
    fieldsAt ((upTo 32).map fun i => (2 * i, (s.sem ((o - 0x100) / 8 * 32 + i)).owner.toNat))
  else if o = 0x200 then s.sched.yieldLimit else 0

def claimed (s : State) (t : Nat) : Bool := (s.sched.claims.get none t).isSome

def cycReg (s : State) (o : Nat) : Nat :=
  let c := s.sched
  match o with
  | 0 => fieldsAt [(16, c.frame % 2 ^ 48), (3, ((c.table.map (·.entries.length)).getD 0)), (2, boolBit c.nextTable.isSome),
                   (1, boolBit c.table.isSome)]
  | 0x8 => (c.table.map (·.addr)).getD 0
  | 0x10 => maskOf 64 (claimed s)
  | 0x18 => maskOf 32 (fun i => claimed s (64 + i))
  | 0x20 => boolBit c.halt.isSome
  | _ => 0

def part32 (m : BitVec 96) (i : Nat) : Nat := m.toNat / 2 ^ (32 * i) % 2 ^ 32

def safReg (s : State) (o : Nat) : Nat :=
  let a := s.assured
  if 0x10 ≤ o ∧ o < 0x28 then part32 a.excl ((o - 0x10) / 8)
  else if 0x28 ≤ o ∧ o < 0x40 then part32 a.untested ((o - 0x28) / 8)
  else match o with
  | 0 => fieldsAt [(16, a.fttiNext), (0, boolBit a.enableNext)]
  | 0x8 => fieldsAt [(30, laneCode a.state), (26, laneReasons a), (0, ((upTo 96).filter a.excl.getLsbD).length)]
  | 0x40 => a.twinBase
  | 0x48 => a.twinSize
  | 0x80 => a.countDis
  | 0x88 => a.countRec
  | 0x90 => a.countWh
  | _ => 0

/-! ## RAD, LDP, SWP, MEM, STR, OBD, NET -/

def half4 (l : List Half) : Nat := fieldsAt [(48, (l.getD 0 0).toNat), (32, (l.getD 1 0).toNat), (16, (l.getD 2 0).toNat), (0, (l.getD 3 0).toNat)]

def radReg (s : State) (o : Nat) : Nat :=
  if 0x1000 ≤ o ∧ o < 0x1800 then
    let c := s.cell ((o - 0x1000) / 0x100)
    match o % 0x100 with
    | 0 => c.early
    | 0x8 => c.late
    | 0x10 => c.dup
    | 0x18 => fieldsAt [(32, c.erasedSlot % 2 ^ 32), (0, c.erasedRe)]
    | 0x20 => c.cfgDup
    | 0x28 => c.lateSlots
    | 0x30 => c.guardLoss
    | 0x38 => c.guardGain
    | 0x40 => c.dlSat
    | 0x48 => c.dlLate
    | 0x50 => half4 c.stageA
    | 0x58 => fieldsAt [(48, (c.stageB.getD 0 0).toNat), (32, (c.stageB.getD 1 0).toNat), (0, c.stageSlot.toNat)]
    | _ => 0
  else 0

def ldpReg (s : State) (bank o : Nat) : Nat :=
  let b := s.bank bank
  match o with
  | 0 => b.blocks
  | 0x8 => b.crcFail
  | 0x10 => b.iter
  | 0x18 => fieldsAt [(16, b.peak), (0, b.now)]
  | _ => 0

def swpReg (s : State) (o : Nat) : Nat :=
  if 0x1000 ≤ o ∧ o < 0x1100 then
    let c := s.chan ((o - 0x1000) / 0x40)
    match o % 0x40 with
    | 0 => c.late
    | 0x8 => c.netidMismatch
    | 0x10 => c.overflow
    | 0x18 => c.hdrFail
    | _ => 0
  else 0

def memReg (s : State) (o : Nat) : Nat :=
  let m := s.mem
  if 0x100 ≤ o ∧ o < 0x150 then
    fieldsAt [(32, m.eccUncorr.get 0 ((o - 0x100) / 8)), (0, m.eccCorr.get 0 ((o - 0x100) / 8))]
  else match o with
  | 0 => fieldsAt [(56, m.ddrTrained.toNat), (55, boolBit m.unequal), (53, m.hbmTrained.toNat), (50, m.ddrRate), (48, m.dpc),
                   (40, m.hot.toNat ||| m.hbmHot.toNat)]
  | 0x200 => m.patrolSec
  | 0x208 => boolBit m.patrolOn
  | _ => 0

def strReg (s : State) (o : Nat) : Nat :=
  let w := s.wcache
  match o with
  | 0 => w.hit
  | 0x8 => w.miss
  | 0x10 => w.merged
  | 0x18 => w.domainMiss
  | 0x20 => w.decryptFail
  | _ => 0

def linkCode : LinkState → Nat
  | .unused => 0 | .training => 1 | .admitted => 2 | .down => 3

def obdReg (s : State) (o : Nat) : Nat :=
  if 0x100 ≤ o ∧ o < 0x120 then
    let l := s.array.links.getD ((o - 0x100) / 8) Link.init
    fieldsAt [(62, linkCode l.state), (58, l.neighbour), (0, l.replays)]
  else 0

def netReg (s : State) (o : Nat) : Nat :=
  if 0x1000 ≤ o ∧ o < 0x1500 then
    let n := (o - 0x1000) / 0x80
    let p := s.netPort n
    match o % 0x80 with
    | 0 => fieldsAt [(7, boolBit p.up), (6, boolBit p.fecLock), (3, p.mode), (2, boolBit p.macsec)]
    | 0x8 => p.unclassified
    | k => if 8 ≤ n then 0 else match k with
      | 0x10 => p.dropDomain
      | 0x18 => p.noPeer
      | 0x20 => p.reasmDrop
      | 0x28 => p.dropReplay
      | 0x30 => p.fecCorr
      | 0x38 => p.fecUncorr
      | _ => 0
  else if o = 0 then fieldsAt ((upTo 4).map fun p => (3 * p, s.net.pairMode.get 0 p))
  else 0

/-! ## CSP, CLU, TIL -/

def cspFaultCode : CspFault → Nat
  | .illegal => 0x0E01 | .align => 0x0E02 | .dmemUe => 0x0E03 | .pmemParity => 0x0E04 | .rptLimit => 0x0E05 | .loopDepth => 0x0E06

def cspStateCode : CspState → Nat
  | .empty => 0 | .loaded => 1 | .running => 2 | .stopped => 3 | .faulted => 4 | .zeroising => 5

def cspReg (s : State) (c o : Nat) : Nat :=
  let x := s.csp c
  match o with
  | 0 => fieldsAt [(16, x.rptMax.toNat), (8, x.irqLevel.toNat), (0, boolBit x.run)]
  | 0x8 => fieldsAt [(16, (x.fault.map cspFaultCode).getD 0), (4, x.stopPc.toNat), (3, boolBit x.core.st.sat), (0, cspStateCode x.state)]
  | 0x10 => x.ecc
  | _ => 0

def coreCode : CoreState → Nat
  | .halted => 0 | .rom => 1 | .image => 2 | .faulted => 3

def cluReg (s : State) (c o : Nat) : Nat :=
  let x := s.cluster c
  if o = 0 then
    fieldsAt [(56, ((upTo 56).filter fun p => (x.pages.get none p).isNone).length), (48, x.spillReserved), (44, x.poolQueue.length),
              (43, boolBit x.poolRun.isSome), (40, coreCode x.core)]
  else 0

def polderCode : PolderState → Nat
  | .free => 0 | .held => 1 | .locked => 2 | .zeroising => 3

def tileStateCode : TileState → Nat
  | .idle => 0 | .loading => 1 | .running => 2 | .draining => 3 | .faulted => 4 | .zeroising => 5

def domainField : Domain → Nat
  | .radio => 0 | .inference => 1 | _ => 2

/-- Is a tile stalled by a throttle (21 R461, R462)? -/
def State.throttled (s : State) (t : Nat) : Bool :=
  let x := s.tile t
  let p := s.power
  let d := max p.duty (if p.level = 0 ∧ p.dutyTherm = 0 then 0 else p.dutyTherm)
  let radio : Bool := match x.ref with | some (.entry _) => true | _ => false
  p.level == 2 || (d != 0 && x.ref.isSome && !radio)

/-- TIL; a job bound to a sealed model shows no bundle and slot (24 R514). -/
def tilReg (s : State) (t o : Nat) : Nat :=
  let x := s.tile t
  if 0x100 ≤ o ∧ o < 0x1C0 then
    let p := x.polders.get Polder.init ((o - 0x100) / 8)
    fieldsAt [(62, polderCode p.state), (60, classCode p.cls), (59, boolBit p.tagged), (58, boolBit p.accRemote), (48, p.winCount),
              (40, p.winBase), (0, p.job.toNat)]
  else
    let used (c : JobClass) : Nat := (x.credits.filter (·.cls = c)).length
    match o with
    | 0 => fieldsAt [(32, if x.ref.isSome then x.job.toNat else 0), (16, if x.ref.isSome then x.taskId % 65536 else 0),
                     (8, powerCode (s.powerOf t)), (6, if x.ref.isSome then classCode x.cls else 3), (4, domainField x.domain),
                     (3, boolBit (s.throttled t)), (0, tileStateCode x.state)]
    | 0x8 => if s.sealedJob x.job then fieldsAt [(48, x.faultCode.toNat)]
             else fieldsAt [(48, x.faultCode.toNat), (37, x.faultBundle), (35, x.faultSlot), (34, boolBit x.faultImage)]
    | 0x200 => x.tagLimit
    | 0x208 => fieldsAt [(16, x.splitA), (8, x.splitI), (0, x.splitR)]
    | 0x210 => fieldsAt [(24, x.refused), (16, used .assured), (8, used .inference), (0, used .radio)]
    | 0x218 => x.ecc
    | 0x220 => x.eccUe
    | 0x228 => x.scrub
    | _ => 0

/-! ## The map (24 R502, R503) -/

/-- A block of Table 1 by the 64 KiB block number of an offset in the register region. -/
inductive Block where
  | dev | rst | pwr | clk | age | tim | evr | sec | mbx | sch | cyc | saf | rad | ldp (n : Nat) | swp | mem | str | obd | net
  | csp (n : Nat) | clu (n : Nat) | til (n : Nat) | none
deriving DecidableEq, Repr

def blockOf (b : Nat) : Block :=
  if b < 6 then ([Block.dev, .rst, .pwr, .clk, .age, .tim].getD b .none)
  else if b < 0xB then .evr
  else if b < 0x11 then ([Block.sec, .mbx, .sch, .cyc, .saf, .rad].getD (b - 0xB) .none)
  else if b < 0x15 then .ldp (b - 0x11)
  else if b < 0x1A then ([Block.swp, .mem, .str, .obd, .net].getD (b - 0x15) .none)
  else if 0x20 ≤ b ∧ b < 0x2C then .csp (b - 0x20)
  else if 0x30 ≤ b ∧ b < 0x3C then .clu (b - 0x30)
  else if 0x100 ≤ b ∧ b < 0x160 then .til (b - 0x100)
  else .none

/-- The register slot at an offset of the register region that is a multiple of 8, as it stands. -/
def State.regValue (s : State) (off : Nat) : Nat :=
  let o := off % 0x10000
  match blockOf (off / 0x10000) with
  | .dev => devReg s o
  | .rst => rstReg s o
  | .pwr => pwrReg s o
  | .clk => clkReg s o
  | .age => ageReg s o
  | .tim => timReg s o
  | .evr => evrReg s (off - 0x60000)
  | .sec => secReg s o
  | .mbx => mbxReg s o
  | .sch => schReg s o
  | .cyc => cycReg s o
  | .saf => safReg s o
  | .rad => radReg s o
  | .ldp n => ldpReg s n o
  | .swp => swpReg s o
  | .mem => memReg s o
  | .str => strReg s o
  | .obd => obdReg s o
  | .net => netReg s o
  | .csp n => cspReg s n o
  | .clu n => cluReg s n o
  | .til n => tilReg s n o
  | .none => 0

/-- Does an offset fall in the key-store window (24 R505)? -/
def keyStoreAt (off : Nat) : Bool := off / 0x10000 == 0xB && decide (0x8000 ≤ off % 0x10000)

end Sys2Proof.Machine
end

