-- ==== Sys2Proof/Machine/Replay.lean ====
section
/-! DEFINITION. Recording and replay (16 R358–R365). -/
namespace Sys2Proof.Machine

def recordRow : MsgRow := { role := .admin, legal := [.running] }

/-! ## RECORD_CONFIG, RECORD_START, RECORD_STOP (16 R358) -/

def mib : Nat := 0x100000

/-- May a ring lie there: in HBM, 1 MiB aligned, 1 MiB to 16 GiB, in one region of its domain? -/
def State.ringOk (s : State) (d : Domain) (base size : Nat) : Bool :=
  aligned mib base && between mib (16384 * mib) size && decide (base + size ≤ hbmSize) && s.inRegion d base size

/-- The three rings are named and stand empty; while capture runs they are not (DEDUCED, log 50). -/
def recordConfigBody (b n : Dword × Dword × Dword) (s : State) : State × Answer :=
  let ok := s.ringOk .radio b.1.toNat n.1.toNat && s.ringOk .inference b.2.1.toNat n.2.1.toNat &&
    s.ringOk .management b.2.2.toNat n.2.2.toNat
  let ring (base size : Dword) : Ring := { base := base.toNat, size := size.toNat, used := 0, count := 0 }
  if s.capture.on then (s, .err Code.badState)
  else if !ok then (s, .err Code.msgRange)
  else (s.setCapture { s.capture with
    rings := [ring b.1 n.1, ring b.2.1 n.2.1, ring b.2.2 n.2.2], armed := none, full := false }, .ok)

def execRecordConfig (h : QcpHdr) (bases : Dword × Dword × Dword) (sizes : Dword × Dword × Dword) (s : State) :
    Host.Outcome State Fault Refusal := .next (serve s h recordRow (recordConfigBody bases sizes))

/-- The 10 ms frame of an abs_slot, in 500 µs slots (DEDUCED, log 50). -/
def frameOfSlot (slot : Nat) : Nat := slot * slotNs 1 / 10000000

def recordStartBody (slot : AbsSlot) (s : State) : State × Answer :=
  if s.capture.rings.length ≠ 3 ∨ s.capture.on then (s, .err Code.badState)
  else (s.setCapture { s.capture with armed := some slot }, .ok)

def execRecordStart (h : QcpHdr) (slot : AbsSlot) (s : State) : Host.Outcome State Fault Refusal :=
  .next (serve s h recordRow (recordStartBody slot))

/-- A running capture ends at the next frame boundary; one that waits for its slot is given up. -/
def recordStopBody (s : State) : State × Answer :=
  (s.setCapture { s.capture with stopping := s.capture.on, armed := none }, .ok)

def execRecordStop (h : QcpHdr) (s : State) : Host.Outcome State Fault Refusal := .next (serve s h recordRow recordStopBody)

/-- A device time as an entry's 96-bit time field. -/
def timeBytes (ns frac : Nat) : List Byte := leBytes 6 (ns / 1000000000) ++ leBytes 4 (ns % 1000000000) ++ leBytes 2 frac

/-- What must match for a replay: image hashes, stepping, array shape (16 Table 3, R362). -/
def State.identityBytes (s : State) : List Byte :=
  (match s.host.bundle with | some b => b.images.flatten | none => []) ++ leBytes 4 0xB0 ++ leBytes 1 s.array.nx ++
  leBytes 1 s.array.ny

/-- Capture begins: empty rings, seq and digest at 0, the start marker in the management ring. -/
def State.captureBegin (s : State) : State :=
  let c := s.capture
  let s1 := s.setCapture { c with
    armed := none, on := true, stopping := false, full := false, seq := 0, digest := 0, frames := 0, pend := [],
    rings := c.rings.map fun r => { r with used := 0, count := 0 } }
  s1.ringPut 2 (s1.entryNow 5 0xFF 2 (s.identityBytes ++ timeBytes s.nowNs s.nowFrac))

/-- At a frame boundary: a stopping capture ends, one whose frame has come begins. -/
def captureBoundary (s : State) : State :=
  let s1 := if s.capture.on ∧ s.capture.stopping then s.captureEnd else s
  match s1.capture.armed with
  | some k => if frameOfSlot k.toNat ≤ s1.frameNow ∧ !s1.capture.on then s1.captureBegin else s1
  | none => s1

/-! ## RECORD_SAVE, RECORD_LOAD (16 R361, 18 R395) -/

/-- A ring leaves as a blob sealed under purpose 2, at an address of the management domain. -/
def recordSaveBody (ring addr : Nat) (s : State) : State × Answer :=
  if 2 < ring then (s, .err Code.msgRange)
  else if s.capture.rings.length ≠ 3 ∨ s.capture.on then (s, .err Code.badState)
  else
    let r := s.ring ring
    let n := 32 + r.used + 16
    if s.extRange addr n ∧ s.domainOk .management addr n then
      let (blob, s1) := s.sealBlob 2 (s.extRead r.base r.used)
      (s1.extWrite addr blob, .now Code.ok (.nums [n]))
    else (s, .err Code.addrUnmapped)

def execRecordSave (h : QcpHdr) (ring : Byte) (addr : Dword) (s : State) : Host.Outcome State Fault Refusal :=
  .next (serve s h recordRow (recordSaveBody ring.toNat addr.toNat))

/-- The entries that lie in a ring's bytes, in order. -/
def entriesOf : Nat → List Byte → List CapEntry
  | 0, _ => []
  | f + 1, b =>
    if b.length < 32 then [] else
      let at' (o n : Nat) : Nat := leNat ((b.drop o).take n)
      let len := at' 4 4
      { kind := at' 0 2, port := at' 2 1, domain := at' 3 1, ns := at' 8 6 * 1000000000 + at' 14 4, frac := at' 18 2,
        seq := at' 24 8, payload := (b.drop 32).take len } :: entriesOf f (b.drop (32 + ceilDiv len 32 * 32))

def recordLoadBody (ring addr : Nat) (s : State) : State × Answer :=
  let n := s.extNat (addr + 8) 8
  if 2 < ring then (s, .err Code.msgRange)
  else if s.capture.rings.length ≠ 3 ∨ s.capture.on then (s, .err Code.badState)
  else if !s.extRange addr 32 ∨ !s.extRange addr (48 + n) ∨ !s.domainOk .management addr (48 + n) then (s, .err Code.addrUnmapped)
  else match s.openBlob 2 addr with
    | none => (s, .err Code.authFail)
    | some bs =>
      let r := s.ring ring
      if r.size < bs.length then (s, .err Code.msgRange)
      else
        let s1 := s.extWrite r.base bs
        let r1 := { r with used := bs.length, count := (entriesOf bs.length bs).length }
        (s1.setCapture { s1.capture with rings := setAt s1.capture.rings ring r1 }, .ok)

def execRecordLoad (h : QcpHdr) (ring : Byte) (addr : Dword) (s : State) : Host.Outcome State Fault Refusal :=
  .next (serve s h recordRow (recordLoadBody ring.toNat addr.toNat))

/-! ## REPLAY_START (16 R362) -/

/-- Entries in seq order. -/
def insertEntry (e : CapEntry) : List CapEntry → List CapEntry
  | [] => [e]
  | x :: r => if e.seq ≤ x.seq then e :: x :: r else x :: insertEntry e r

def sortEntries (es : List CapEntry) : List CapEntry := es.foldr insertEntry []

def State.ringEntries (s : State) (n : Nat) : List CapEntry :=
  let r := s.ring n
  entriesOf r.used (s.extRead r.base r.used)

/-- Is every cell, channel and adaptation set off, and no job admitted? -/
def State.allOff (s : State) : Bool :=
  s.radio.cells.values.all (fun c => c.ul.isNone && c.pending.isNone) && s.sweep.chans.values.all (·.cfg.isNone) &&
  s.adapt.values.all (·.state == .off) && s.sched.graphs.isEmpty

/-- The start marker of the management ring, where its measurements, stepping and shape are the device's own. -/
def State.startMarker (s : State) : Option CapEntry :=
  match s.ringEntries 2 with
  | e :: _ => if e.kind = 5 ∧ e.payload.take s.identityBytes.length = s.identityBytes then some e else none
  | [] => none

/-- An entry's time in units of device time. -/
def entryTime (e : CapEntry) : Nat := e.ns * 2 ^ 40 + e.frac * 2 ^ 24

def replayStartBody (b : Dword × Dword × Dword) (s : State) : State × Answer :=
  let c := s.capture
  let named := c.rings.map (·.base) == [b.1.toNat, b.2.1.toNat, b.2.2.toNat]
  match s.startMarker with
  | none => (s, .err Code.replayMismatch)
  | some m =>
    if !named ∨ !s.allOff ∨ c.on then (s, .err Code.replayMismatch)
    else
      let left := sortEntries (((upTo 3).map s.ringEntries).flatten.filter (·.kind ≠ 5))
      let r : Replay := {
        left := left, started := false, current := none, versions := [], origin := entryTime m, digest := 0, frames := 0,
        recDigest := 0, recFrames := 0, savedNow := 0, savedMode := 0, radio := s.radio, sweep := s.sweep,
        adapt := s.adapt, sched := s.sched, assured := s.assured, crossing := s.sec.crossing }
      (s.setCapture { c with replay := some r, armed := none }, .ok)

def execReplayStart (h : QcpHdr) (bases : Dword × Dword × Dword) (s : State) : Host.Outcome State Fault Refusal :=
  .next (serve s h recordRow (replayStartBody bases))

/-- At the first frame boundary device time becomes the start marker's, in SOFT mode. -/
def replayBoundary (s : State) : State :=
  match s.capture.replay with
  | none => s
  | some r =>
    if r.started then s
    else
      let s1 := s.setTime { s.time with now := r.origin, mode := 0, slew := 0, lastTheta := none, avgAt := r.origin }
      s1.setCapture { s1.capture with
        replay := some { r with started := true, savedNow := s.time.now, savedMode := s.time.mode } }

/-! ## The end of a replay and its outcome (16 R363, R364) -/

/-- Every job is killed with its tasks, polders and pages. -/
def State.killAll (s : State) : State :=
  let s1 := s.sched.graphs.foldl (fun s g => graphEnd g.job (if g.outcome.isNone then s.killGraph g else s)) s
  s1.tiles.keys.foldl (fun s t => if (s.tile t).ref.isSome then killTile t s else s) s1

/-- A replay ends: its jobs are killed, and the device returns to the state it had, its device time having gone on meanwhile. -/
def State.replayEnd (s : State) : State :=
  match s.capture.replay with
  | none => s
  | some r =>
    let s1 := s.killAll
    let now := if r.started then r.savedNow + (s.time.now - r.origin) else s.time.now
    let mode := if r.started then r.savedMode else s.time.mode
    let s2 := ((((({ s1 with adapt := r.adapt } : State).setRadio r.radio).setSweep r.sweep).setSched
      { r.sched with nextJob := s1.sched.nextJob }).setAssured r.assured).setCrossing r.crossing
    let s3 := s2.setTime { s2.time with now, mode, slew := 0, lastTheta := none, avgAt := now }
    (s3.setCapture { s3.capture with
      replay := none, lastReplay := some (r.digest, r.frames, r.recDigest, r.recFrames) }).radioPower

/-- Both digests and both counts; the first number says whether a replay runs. -/
def replayStatusBody (s : State) : State × Answer :=
  let (run, d, f, rd, rf) := match s.capture.replay, s.capture.lastReplay with
    | some r, _ => (1, r.digest, r.frames, r.recDigest, r.recFrames)
    | none, some (d, f, rd, rf) => (0, d, f, rd, rf)
    | none, none => (0, 0, 0, 0, 0)
  (s, .now Code.ok (.nums [run, d, f, rd, rf]))

def execReplayStatus (h : QcpHdr) (s : State) : Host.Outcome State Fault Refusal :=
  .next (serve s h { recordRow with role := .read, reads := true } replayStatusBody)

def execReplayStop (h : QcpHdr) (s : State) : Host.Outcome State Fault Refusal :=
  .next (serve s h { recordRow with reads := true } fun s =>
    if s.replaying then (s.replayEnd, .ok) else (s, .err Code.badState))

/-! ## Entries (16 R363) -/

/-- The next entry in seq order, once its time has come: a frame, a message or a decision becomes the one that its own command
takes; a weight version is in force from then on; the stop marker ends the replay. -/
def replayDeliver (s : State) : State :=
  match s.capture.replay with
  | none => s
  | some r =>
    match r.left with
    | [] => s
    | e :: rest =>
      if !r.started ∨ s.time.now < entryTime e then s
      else
        let at' (o n : Nat) : Nat := leNat ((e.payload.drop o).take n)
        let put (r : Replay) : State := s.setCapture { s.capture with replay := some { r with left := rest } }
        if e.kind = 4 then
          put { r with current := none, versions := (at' 0 1, BitVec.ofNat 32 (at' 4 4)) :: r.versions.filter (·.1 ≠ at' 0 1) }
        else if e.kind = 6 then (put { r with current := none, recDigest := at' 24 32, recFrames := at' 56 8 }).replayEnd
        else put { r with current := some e }

def execReplayEntryDeliver (s : State) : Host.Outcome State Fault Refusal := .next (replayDeliver s)

end Sys2Proof.Machine
end

