-- ==== Sys2Proof/Machine/Reset.lean ====
section
/-! DEFINITION. Reset: sources and levels, what each level clears, loading and release, watchdogs, pins (22; 15 R350, 18 R407,
21 R459). -/
namespace Sys2Proof.Machine

namespace Rst
def clkStuck : Half := 0x0201
def bermCfg : Half := 0x0202
end Rst

/-! ## Levels (22 R471, R472, Table 1) -/

def levelOfCode (n : Nat) : Level := if n = 0 then .l0 else if n = 1 then .l1 else if n = 2 then .l2 else .l3

/-- The colder of two levels. -/
def colder (a b : Level) : Level := if levelCode a ≤ levelCode b then a else b

/-- The level the source map gives a source, limited as Table 1 says. -/
def State.mapLevel (s : State) (source : Nat) : Level :=
  let code := ((s.rst.shadow.resetMap.get none source).map (·.toNat)).getD 0
  if source = 0 then .l0
  else if source = 2 then levelOfCode (min code 2)
  else if source = 3 ∨ source = 4 ∨ source = 7 then levelOfCode (min code 1)
  else levelOfCode code

/-! ## What each level clears (22 R474, Table 2) -/

/-- A tile zeroised by a reset: IDLE in its domain, no task on it; `inf` keeps what inference tasks saved. -/
def resetTile (cycle : Nat) (inf : Bool) (x : Tile) : Tile :=
  { zeroised { x with ref := none, hold := none, yielding := false, semSat := false } cycle with
    faultCode := 0, faultBundle := 0, faultSlot := 0, loadFault := 0, saveRad := none,
    saveInf := if inf then x.saveInf else none, notices := if inf then x.notices else [] }

/-- A CSP zeroised; its program is loaded again at a frame boundary. -/
def resetCsp (x : Csp) : Csp := zeroedCsp { x with state := .zeroising }

/-- Semaphores after the dispatch fabric is cleared: counts 0, no claims; once the production seal is blown, owners stay (00 R10;
DEDUCED, log 49). -/
def State.resetSems (s : State) : Table Sem :=
  if s.sec.fuses.sealBlown then
    s.sched.sems.keys.foldl (fun t k => t.set Sem.init k { Sem.init with owner := (s.sem k).owner }) (.empty : Table Sem)
  else .empty

/-- Radio and sweep blocks, adaptation, capture, replay and the event recorder: every level clears or ends them. -/
def State.resetCommon (s : State) : State :=
  let s0 := if s.replaying then s.replayEnd else s
  let s1 := if s0.capture.on then s0.captureEnd else s0
  let s2 := s1.setCapture { s1.capture with armed := none }
  let s3 := s2.setSec { s2.sec with
    challenge := none, changes := s2.sec.changes.map fun c => { c with hdr := none },
    loading := s2.sec.loading.map fun l => { l with hdr := none } }
  { s3 with adapt := .empty, events := Recorder.init, radio := Radio.init, sweep := Sweep.init }

/-- L0 and L1: all but fuses, memory contents, counters of the model and, at L1, the fast clocks and cluster voltages. -/
def State.resetCold (s : State) (l0 : Bool) : State :=
  let f := s.sec.fuses
  let p := s.power
  let sec : Security := { Security.init with
    fuses := f, keyGen := s.sec.keyGen + 1, lifecycle := if f.sealBlown then .sealed else .opened }
  let power : Power := { Power.init with
    tj := p.tj, hotSince := p.hotSince, xtalOk := p.xtalOk, stby := p.stby, pwrgd := p.pwrgd, thermLow := p.thermLow, cpRole := p.cpRole,
    refclkOk := !l0 && p.refclkOk, devLock := !l0 && p.devLock, ages := if l0 then .empty else p.ages, fresh := l0 || p.fresh }
  { s.resetCommon with
    host := HostPort.init, time := TimeUnit.init, tiles := .empty, clusters := .empty, csps := .empty,
    mem := { ExtMem.init with bytes := s.mem.bytes, unitKey := s.mem.unitKey, bad := s.mem.bad },
    wcache := WeightCache.init, sched := { Sched.init with sems := s.resetSems }, array := ArrayState.init,
    capture := Capture.init, assured := Assured.init, sec := sec, power := power, net := Net.init,
    clock := { s.clock with radioAcc := 0 } }

/-- The assured lane's tests and twins in progress end; its state, set and counters stay. -/
def State.resetLane (s : State) : State :=
  s.setAssured { s.assured with running := .empty, slice := 0 }

/-- L2: images, sessions, time, regions, memories and clocks stay; work ends. -/
def State.resetWarm (s0 : State) : State :=
  let s := ((upTo 4).filter fun k => (s0.link k).state ≠ .unused).foldl State.linkFalls (crossCut s0)
  let h := s.host
  let early := h.state = .anchor ∨ h.state = .berm
  let sec := s.sec
  let s1 := { s.resetLane.resetCommon with
    host := { h with
      state := if early then .anchor else .loaded, berm := false, faultedCore := 0, secFault := false, coresHalted := true, log := none, trace := 0,
      bermPending := false, takeover := false, notices := [], done := [] }
    tiles := s.tiles.mapTo Tile.init (resetTile s.clock.cycle false),
    clusters := .empty, csps := .empty, sched := { Sched.init with sems := s.resetSems } }
  let regions := match sec.bermRegion with
    | some i => s1.sec.regions.set Region.init i Region.init
    | none => s1.sec.regions
  let s2 := s1.setSec { s1.sec with
    regions, bermRegion := none, crossing := Crossing.init,
    slots := s1.sec.slots.mapTo none fun e => e.map fun k => { k with job := none } }
  let s3 := s2.setAssured { s2.assured with twins := [], disagree := [] }
  let s4 := s3.setWcache { s3.wcache with lines := .empty, inflight := [] }
  let rest (s : State) (d : Nat) : State := if s.powerOf d = .on ∨ s.powerOf d = .waking then s.setPowerOf d .retain else s
  let s5 := ([116] ++ (upTo 10).map (· + 117)).foldl rest s4.radioPower
  if early then ([127].foldl (fun s d => s.setPowerOf d .off) s5) else s5

/-- L3: the radio blocks, radio-domain tiles and CSPs; everything else runs on, and radio service waits for a frame boundary. -/
def State.resetRadio (s0 : State) : State :=
  let s1 := crossCut s0
  let s := if s1.replaying then s1.replayEnd else s1
  let cells := s.radio.cells.keys.foldl (fun t c =>
    t.set CellSt.init c { CellSt.init with ul := (s.cell c).ul, dl := (s.cell c).dl, pending := (s.cell c).pending }) (.empty : Table CellSt)
  let chans := s.sweep.chans.keys.foldl (fun t c => t.set ChanSt.init c { ChanSt.init with cfg := (s.chan c).cfg }) (.empty : Table ChanSt)
  let s1 := s.resetLane.resetCommon
  let q := s.sched
  { s1 with
    radio := { Radio.init with paused := true, cells := cells }, sweep := { Sweep.init with chans := chans },
    tiles := s.tiles.mapTo Tile.init fun x => if x.domain = .radio then resetTile s.clock.cycle true x else { x with saveRad := none },
    csps := s.csps.mapTo Csp.init resetCsp,
    sched := { q with tileTasks := .empty, training := .empty, claims := .empty, entrySlot := .empty, ranOn := [] },
    wcache := { s.wcache with
      lines := ⟨s.wcache.lines.entries.filter fun e => e.2.map (·.domain) ≠ some .radio⟩,
      inflight := s.wcache.inflight.filter (·.2 ≠ .radio) } }

/-- Domains that depend on the radio PLL (22 R478). -/
def radioHeld : List Nat := (upTo 9).map (· + 108) ++ (upTo 4).map (· + 127)

/-- The reset controller at the start of a reset: watchdogs disarmed, held blocks tested again; a PLL only at L0. -/
def resetControl (l : Level) (cycle : Nat) (r : ResetCtl) : ResetCtl :=
  let radio := r.heldRadio && l != .l0
  { r with
    phase := if l = .l0 ∨ r.pinLow then 0 else if l = .l3 then 3 else 2, trimFail := false,
    loads := if l = .l0 then 0 else r.loads, refclkWait := false, held := if radio then radioHeld else [], heldRadio := radio,
    heldDevice := r.heldDevice && l != .l0, schEn := false, schPeriod := if levelCode l ≤ 1 then 1000 else r.schPeriod,
    secKick := cycle }

/-- A reset at a level: what Table 2 clears, then the sequence of release (DEDUCED, log 66). -/
def State.applyReset (s : State) (l : Level) : State :=
  let s1 := match l with
    | .l0 => s.resetCold true
    | .l1 => s.resetCold false
    | .l2 => s.resetWarm
    | .l3 => s.resetRadio
  s1.setRst (resetControl l s.clock.cycle s1.rst)

/-! ## Sources (22 R471, R476, R480) -/

/-- Arithmetic-clock cycles in one of the 32.768 kHz clock, rounded down. -/
def slowCycle : Nat := 38146

/-- A source is asserted at a level: a reset begins with its cause written, starts again colder, or absorbs it (Table 3). -/
def State.assertReset (s : State) (source : Nat) (level : Level) (detail : Nat) : State :=
  let r := s.rst
  let same := r.assertCycle / slowCycle == s.clock.cycle / slowCycle
  let caused (merged : Bool) (r : ResetCtl) : ResetCtl :=
    { r with source, level, merged, detail := BitVec.ofNat 16 detail, assertCycle := s.clock.cycle }
  let s1 := if r.phase = 1 then s.setRst { r with loads := 0 } else s
  if r.phase = 3 ∧ !same then (s1.setRst (caused false s1.rst)).applyReset level
  else if levelCode level < levelCode r.level then (s1.setRst (caused true s1.rst)).applyReset level
  else if level = r.level ∧ same ∧ source < r.source then s1.setRst (caused true s1.rst)
  else s1.setRst { s1.rst with merged := true }

/-- A source asserted at the level its map gives. -/
def State.sourceReset (s : State) (source detail : Nat) : State := s.assertReset source (s.mapLevel source) detail

/-- RESET_N low for four slow-clock cycles; the device stays in reset while the pin is low. -/
def resetPin (s : State) : State := (s.setRst { s.rst with pinLow := true }).sourceReset 1 0

def execResetNAssert (s : State) : Host.Outcome State Fault Refusal := .next (resetPin s)

/-- The pin rises: release goes on; a reset that waited for it releases its blocks. -/
def resetPinRise (s : State) : State :=
  let r := s.rst
  s.setRst { r with pinLow := false, phase := if !r.pinLow || r.phase != 0 || r.level == .l0 then r.phase else if r.level = .l3 then 3 else 2 }

def execResetNRelease (s : State) : Host.Outcome State Fault Refusal := .next (resetPinRise s)

/-- Cycles of the arithmetic clock in a millisecond. -/
def msCycles : Nat := 1250000

/-- Watchdogs are suspended in FAULTED and in anchor-only standby (22 R473). -/
def State.dogsRun (s : State) : Bool := s.host.state != .faulted && s.power.stby

def schDog (s : State) : State :=
  if s.rst.schEn ∧ s.dogsRun ∧ s.rst.schKick + s.rst.schPeriod * msCycles ≤ s.clock.cycle then s.sourceReset 2 0 else s

def execSchWatchdogExpire (s : State) : Host.Outcome State Fault Refusal := .next (schDog s)

def secDog (s : State) : State :=
  if s.rst.phase = 3 ∧ s.dogsRun ∧ s.rst.secKick + 2000 * msCycles ≤ s.clock.cycle then s.sourceReset 3 0 else s

def execSecWatchdogExpire (s : State) : Host.Outcome State Fault Refusal := .next (secDog s)

/-- SCH_EN: a period outside 10 to 60,000 ms leaves the field unchanged; arming is never undone. -/
def wdtArm (period : Nat) (s : State) : State :=
  s.setRst { s.rst with
    schPeriod := if between 10 60000 period then period else s.rst.schPeriod, schKick := if s.rst.schEn then s.rst.schKick else s.clock.cycle,
    schEn := true }

def execWdtArm (period : Half) (s : State) : Host.Outcome State Fault Refusal := .next (wdtArm period.toNat s)

def execWdtKickSch (s : State) : Host.Outcome State Fault Refusal := .next (s.setRst { s.rst with schKick := s.clock.cycle })

def execWdtKickSec (s : State) : Host.Outcome State Fault Refusal := .next (s.setRst { s.rst with secKick := s.clock.cycle })

/-- Tj at 115 °C for 1 ms: THERM_N goes low, and an L0 reset waits for less than 100 °C (21 R462, 22 R477). -/
def thermalTrip (sensor : Half) (s : State) : State :=
  if s.power.tj < 115 ∨ !(s.power.hotSince.any fun k => k + msCycles ≤ s.clock.cycle) then s
  else
    let s1 := (s.setPower { s.power with thermLow := true, level := 3 }).emit .thermLow
    let s2 := s1.sourceReset 4 sensor.toNat
    s2.setRst { s2.rst with thermalHold := s2.rst.level == .l0 }

def execThermalTrip (sensor : Half) (s : State) : Host.Outcome State Fault Refusal := .next (thermalTrip sensor s)

/-- RESET: the reply leaves first; then the device resets at the colder of the named level and the map's (19 R425). -/
def resetBody (h : QcpHdr) (level : Level) (s : State) : State × Answer :=
  ((s.reply h true Code.ok .empty).assertReset 5 (colder level (s.mapLevel 5)) h.session.toNat, .later)

def execReset (h : QcpHdr) (level : Level) (s : State) : Host.Outcome State Fault Refusal :=
  .next (serve s h { role := .admin, legal := allStates, hw := true } (resetBody h level))

/-- The array master's reset comes from the parent over an admitted link, and goes on to the children first (15 R350). -/
def arrayReset (k : Nat) (s : State) : State :=
  if s.follows ∧ s.parentLink = some k ∧ (s.link k).state = .admitted then
    ((s.childLinks.filter fun c => c < 4 ∧ (s.link c).state = .admitted).foldl (fun s c => s.emit (.linkReset (Fin.ofNat 4 c))) s).sourceReset 6 k
  else s

def execArrayResetMessage (link : Fin 4) (s : State) : Host.Outcome State Fault Refusal := .next (arrayReset link.val s)

/-! ## Security violations (18 R404, R407) -/

def State.violation (s : State) (detail : Nat) : State := s.sourceReset 7 detail

def execKeyStoreAccess (s : State) : Host.Outcome State Fault Refusal := .next (s.violation 2)

def execSupplyGlitch (s : State) : Host.Outcome State Fault Refusal := .next (s.violation 3)

def execClockGlitch (s : State) : Host.Outcome State Fault Refusal := .next (s.violation 4)

/-! ## Loading (22 R479) -/

/-- An attempt of the L0 load: its pass applies the shadows together; after three failures the device stays in reset. -/
def trimLoad (pass : Bool) (s : State) : State :=
  let r := s.rst
  if 1 < r.phase ∨ r.level ≠ .l0 ∨ r.trimFail ∨ r.thermalHold ∨ r.pinLow ∨ !s.power.pwrgd then s
  else if pass then
    let o := s.sec.fuses.options
    let ages := (upTo 12).foldl (fun t c => t.set Ageing.init c { Ageing.init with vdd := o.trimMv }) (.empty : Table Ageing)
    ((s.setPower { s.power with ages }).setRst { r with
      phase := 2, loads := r.loads + 1, shadow := o, refclkWait := !s.power.refclkOk }).pllStart
  else if r.loads = 2 then s.setRst { r with phase := 0, loads := 3, trimFail := true }
  else s.setRst { r with phase := 1, loads := r.loads + 1 }

def execTrimLoadAttempt (pass : Bool) (s : State) : Host.Outcome State Fault Refusal := .next (trimLoad pass s)

/-! ## Release (22 R477, R478) -/

/-- Domains that the reset in progress releases in its own steps: step 5 at L0 and L1, step 6 at L2. -/
def stepDomains (l : Level) : List Nat := if l = .l2 then (upTo 10).map (· + 117) else [131, 117, 118]

/-- Berm service from the fused record, at the end of step 5; a refused one records BERM_CFG (22 R482). -/
def State.bermAutoStart (s : State) : State :=
  let o := s.rst.shadow
  if !o.bermAuto ∨ s.host.state ≠ .anchor then s
  else match o.bermRecord with
    | some (u, d) => if bermOk u d o.ptpDomain.toNat then s.bermEnter u d o.ptpPort o.ptpDomain else s.record Rst.bermCfg 0 []
    | none => s.record Rst.bermCfg 0 []

/-- The reset ends once each block of its steps has been released or is held; DDR5 PHYs then wake, and the security watchdog is
armed. -/
def State.releaseEnd (s : State) : State :=
  let r := s.rst
  let out (d : Nat) : Bool := r.held.contains d || (match s.powerOf d with
    | .off => r.level == .l2
    | .retain => r.level != .l2
    | _ => true)
  if r.phase ≠ 2 ∨ !(stepDomains r.level).all out then s
  else
    let s1 := s.setRst { r with phase := 3, secKick := s.clock.cycle }
    if r.level = .l2 then s1 else (((upTo 8).map (· + 119)).foldl State.wakeDomain s1).bermAutoStart

/-- A block of the reset's steps is released once its clock is stable: memory PHYs leave self-refresh at L2, the command port block
and the HBM PHYs wake at L0 and L1 outside standby. -/
def blockRelease (d : Nat) (s : State) : State :=
  let r := s.rst
  if r.phase ≠ 2 ∨ !s.power.devLock ∨ !(stepDomains r.level).contains d ∨ r.held.contains d then s
  else if r.level = .l2 then (if s.powerOf d = .retain then s.setPowerOf d .on else s).releaseEnd
  else if s.power.stby then (s.wakeDomain d).releaseEnd
  else s

def execBlockRelease (d : Fin 136) (s : State) : Host.Outcome State Fault Refusal := .next (blockRelease d.val s)

/-- A held domain is off; a held fabric's tiles count as off with it. -/
def State.holdDomain (s : State) (d : Nat) : State :=
  let own := if 96 ≤ d ∧ d < 108 then d :: (upTo 8).map (· + (d - 96) * 8) else [d]
  let s1 := own.foldl (fun s d => s.setPowerOf d .off) s
  let s2 := s1.setRst { s1.rst with held := s1.rst.held ++ (if s1.rst.held.contains d then [] else [d]) }
  s2

/-- A clock monitor that has not reported stable within 1 ms: the block stays in reset, with those that depend on it. -/
def clockStuck (b : StuckClock) (s : State) : State :=
  match b with
  | .domain d => ((s.holdDomain d.val).record Rst.clkStuck (d.val % 256) [d.val]).releaseEnd
  | .radioPll =>
    let s1 := radioHeld.foldl State.holdDomain s
    let s2 := (s1.setPower { s1.power with radioLock := false }).setRst { s1.rst with heldRadio := true }
    (s2.record Rst.clkStuck 136 [136]).releaseEnd
  | .devicePll => (s.setPower { s.power with devLock := false }).setRst { s.rst with heldDevice := true }

def execClockStuckTimeout (b : StuckClock) (s : State) : Host.Outcome State Fault Refusal := .next (clockStuck b s)

/-! ## Power and standby (21 R459, 22 R480, R481, 23 R494) -/

/-- Power good rises: a power-on reset, with CP_ROLE sampled; THERM_N is released. -/
def powerOn (cpRole : BitVec 2) (s : State) : State :=
  let s1 := s.applyReset .l0
  let s2 := s1.setPower { s1.power with pwrgd := true, thermLow := false, cpRole, xtalOk := true, tj := 0, level := 0, hotSince := none }
  s2.setRst { s2.rst with
    source := 0, level := .l0, merged := false, detail := 0, thermalHold := false, shadow := Options.init,
    assertCycle := s.clock.cycle }

def execPowerOn (cpRole : BitVec 2) (s : State) : Host.Outcome State Fault Refusal := .next (powerOn cpRole s)

/-- Power good falls: nothing runs until it rises again. -/
def powerFall (s : State) : State :=
  let s1 := s.applyReset .l0
  (s1.setPower { s1.power with pwrgd := false, xtalOk := false }).setRst { s1.rst with thermalHold := false }

def execPwrgdFall (s : State) : Host.Outcome State Fault Refusal := .next (powerFall s)

/-- STBY_N rises: the PLLs start, and the command port block and the HBM PHYs go on; a reset under way does so in its step 5. -/
def standbyEnd (s : State) : State :=
  let s1 := (s.setPower { s.power with stby := true }).pllStart
  let s2 := s1.setRst { s1.rst with secKick := s.clock.cycle, schKick := s.clock.cycle }
  if s2.rst.phase = 3 then ((upTo 10).map (· + 117) ++ [131]).foldl State.wakeDomain s2 else s2

def execStbyNRise (s : State) : Host.Outcome State Fault Refusal := .next (standbyEnd s)

/-- STBY_N falls: anchor-only standby. The device is in ANCHOR with every switched domain OFF, and what they held is lost; the
memories' contents are undefined from then on (DESIGN CHOICE, log 51). -/
def standby (s : State) : State :=
  let s1 := s.resetCommon
  let s2 := { s1 with
    host := { HostPort.init with drop := s.host.drop, notifyLost := s.host.notifyLost },
    tiles := s.tiles.mapTo Tile.init offTile, clusters := .empty, csps := .empty,
    sched := { Sched.init with sems := s.resetSems }, net := Net.init, array := ArrayState.init,
    wcache := { s.wcache with lines := .empty, inflight := [] },
    mem := { ExtMem.init with bytes := s.mem.bytes, unitKey := s.mem.unitKey, bad := s.mem.bad } }
  let s3 := s2.setSec { s2.sec with
    keyGen := s.sec.keyGen + 1, regions := .empty, slots := .empty, loading := none, changes := [], crossing := Crossing.init,
    bermRegion := none }
  s3.setPower { s3.power with domains := .empty, cluLock := 0, stby := false, devLock := false, radioLock := false }

def execStbyNFall (s : State) : Host.Outcome State Fault Refusal := .next (standby s)

end Sys2Proof.Machine
end

