-- ==== Sys2Proof/Machine/RegWrite.lean ====
section
/-! DEFINITION. Writes of registers: who may write which, and what a write does (24 R502–R507, Table 2). Offsets count from the
register region's base. -/
namespace Sys2Proof.Machine

/-! ## Which registers there are, and their writers -/

/-- Offsets 8k from `lo` to below `hi`. -/
def slotIn (o lo hi : Nat) : Bool := decide (lo ≤ o) && decide (o < hi)

/-- Is a register defined at an offset of a block (24 R503)? -/
def regDefined (off : Nat) : Bool :=
  let o := off % 0x10000
  let up (hi : Nat) : Bool := decide (o ≤ hi)
  match blockOf (off / 0x10000) with
  | .dev => up 0x10
  | .rst => up 0x20 || slotIn o 0x100 0x118
  | .pwr => slotIn o 8 0x28 || slotIn o 0x100 0x128
  | .clk => up 0
  | .age => up 8 || slotIn o 0x100 0x160
  | .tim => up 0x70 || slotIn o 0x100 0x180 || slotIn o 0x200 0x218 || slotIn o 0x300 0x350
  | .evr => let e := off - 0x60000; decide (e ≤ 8) || slotIn e 0x10000 0x50000
  | .sec => up 0 || slotIn o 0x100 0x500
  | .mbx => up 0x10
  | .sch => up 0 || slotIn o 0x100 0x208
  | .cyc => up 0x20
  | .saf => up 0x48 || slotIn o 0x80 0x98
  | .rad => slotIn o 0x1000 0x1800 && decide (o % 0x100 ≤ 0x58)
  | .ldp _ => up 0x18
  | .swp => slotIn o 0x1000 0x1100 && decide (o % 0x40 ≤ 0x18)
  | .mem => up 0 || slotIn o 0x100 0x150 || slotIn o 0x200 0x210
  | .str => up 0x20
  | .obd => slotIn o 0x100 0x120 || slotIn o 0x200 0x220
  | .net => up 0 || (slotIn o 0x1000 0x1400 && decide (o % 0x80 ≤ 0x38)) || (slotIn o 0x1400 0x1500 && decide (o % 0x80 ≤ 8))
  | .csp _ => up 0x10
  | .clu _ => up 8
  | .til _ => up 0x10 || slotIn o 0x100 0x1C0 || slotIn o 0x200 0x230
  | .none => false

/-- May a master write the register at an offset (24 Table 2)? -/
def mayWrite (m : Master) (off : Nat) : Bool :=
  let o := off % 0x10000
  let host : Bool := m == .host
  let sch : Bool := m == .scheduler
  let clu (c : Nat) : Bool := match m with | .cluster k => k.val == c | _ => false
  match blockOf (off / 0x10000) with
  | .pwr => (host || m == .power) && slotIn o 8 0x28 && o != 0x18
  | .age => (host || m == .power) && o == 0
  | .saf => (host || sch) && (o == 0 || o == 0x40 || o == 0x48)
  | .sch => (host || sch) && slotIn o 0x100 0x208
  | .tim => if slotIn o 0x100 0x180 || slotIn o 0x300 0x350 || o == 0x18 then host || sch else
      sch && ([0x10, 0x20, 0x28, 0x30, 0x38, 0x40, 0x48, 0x50, 0x58, 0x70].contains o)
  | .obd => (host || sch) && slotIn o 0x200 0x220
  | .csp n => clu n && o == 0
  | .rst => (sch && o == 0x18) || ((sch || m == .security) && o == 0x20)
  | .cyc => sch && o == 0x20
  | .clu _ => sch && o == 8
  | .mem => sch && o == 0x208
  | .net => sch && o == 0
  | .til n => if slotIn o 0x100 0x1C0 then clu (n / 8) else if o == 0x200 || o == 0x208 then host || clu (n / 8) else sch && o == 0x10
  | _ => false

/-! ## Block by block: a field out of its range leaves its register unchanged, where its own rule says no less (24 R506) -/

/-- PWR_TILE_IDLE, PWR_CAP, PWR_THERM; `true` where the value is refused with CFG_RANGE (21 R470). -/
def pwrWrite (o v : Nat) (s : State) : State × Bool :=
  let p := s.power
  let hot := bits v 8 8
  let crit := bits v 0 8
  let w := bits v 0 16
  if o = 8 then (s.setPower { p with offAfter := bits v 32 32, retainAfter := bits v 0 32 }, false)
  else if o = 0x10 then (if between 25 320 w then (s.setPower { p with cap := w }, false) else (s, true))
  else if between 85 108 hot && between (hot + 2) 112 crit then (s.setPower { p with tHot := hot, tCrit := crit }, false)
  else (s, true)

/-- AGE_CTL; `true` where the value is refused with CFG_RANGE (21 R470). -/
def ageWrite (v : Nat) (s : State) : State × Bool :=
  let g := bits v 16 8
  let d := bits v 8 8
  if between 5 50 g && aligned 5 g && between 5 60 d then (s.setPower { s.power with guardMv := g, tempDelta := d }, false)
  else (s, true)

def safWrite (o v : Nat) (s : State) : State :=
  let a := s.assured
  if o = 0 then
    s.setAssured { a with fttiNext := if between 1 10 (bits v 16 8) then bits v 16 8 else a.fttiNext, enableNext := bits v 0 1 == 1 }
  else if o = 0x40 then (if aligned 0x10000 (bits v 0 48) then s.setAssured { a with twinBase := bits v 0 48 } else s)
  else s.setAssured { a with twinSize := bits v 0 32 }

/-- Owners of 32 semaphores: none changes once the seal is blown, nor where a claimed one would change (14 R322). -/
def ownWrite (n v : Nat) (s : State) : State :=
  let new (i : Nat) : BitVec 2 := BitVec.ofNat 2 (bits v (2 * i) 2)
  let claimedChanges := (upTo 32).any fun i => (s.sem (32 * n + i)).claim.isSome && (s.sem (32 * n + i)).owner != new i
  if s.sec.fuses.sealBlown || claimedChanges then s
  else (upTo 32).foldl (fun s i => s.setSem (32 * n + i) { (s.sem (32 * n + i)) with owner := new i }) s

def schWrite (o v : Nat) (s : State) : State :=
  if o = 0x200 then s.setSched { s.sched with yieldLimit := bits v 0 24 } else ownWrite ((o - 0x100) / 8) v s

/-- The TIME_CONFIG that the time registers stand for now. -/
def timeCfgNow (t : TimeUnit) : TimeCfg :=
  { mode := BitVec.ofNat 2 (t.nextMode.getD t.mode), source := BitVec.ofNat 4 t.source, refFreq := BitVec.ofNat 2 t.refFreq,
    freqRef := BitVec.ofNat 4 t.freqRef, domain := BitVec.ofNat 8 t.domain, synEn := t.synEn, oneStep := t.oneStep,
    levee := BitVec.ofNat 32 t.levee, ki := BitVec.ofNat 16 t.ki, slewMax := BitVec.ofNat 16 t.slewMax,
    holdLimit := BitVec.ofNat 32 t.holdLimit, fcwWidth := BitVec.ofNat 6 t.fcwWidth, prefixLen := BitVec.ofNat 5 t.prefixLen,
    div := BitVec.ofNat 8 t.div, prefixVal := BitVec.ofNat 24 t.prefixVal, gain := BitVec.ofNat 32 t.gain }

/-- A register that TIME_CONFIG writes, written by the scheduler core: as a TIME_CONFIG of that register alone, a value outside Table 6
leaving it unchanged (DEDUCED, log 60). -/
def timeCfgWrite (o v : Nat) (c : TimeCfg) : TimeCfg :=
  let f (lo n : Nat) : BitVec n := BitVec.ofNat n (bits v lo n)
  match o with
  | 0x10 => { c with mode := f 30 2, source := f 26 4, refFreq := f 24 2, freqRef := f 20 4, domain := f 12 8, synEn := bits v 11 1 == 1,
                     oneStep := bits v 10 1 == 1 }
  | 0x20 => { c with levee := f 0 32 }
  | 0x28 => { c with ki := f 16 16, slewMax := f 0 16 }
  | 0x48 => { c with fcwWidth := f 26 6, prefixLen := f 21 5, div := f 8 8 }
  | 0x50 => { c with prefixVal := f 0 24 }
  | 0x58 => { c with gain := f 0 32 }
  | _ => { c with holdLimit := f 0 32 }

/-- The settings of a pulse output as its registers stand, one of them written. -/
def ppsWritten (p : Pps) (k v : Nat) : PpsSet :=
  { sec := BitVec.ofNat 48 (if k = 0 then v else p.sec), ns := BitVec.ofNat 32 (if k = 8 then v else p.ns),
    period := BitVec.ofNat 32 (if k = 0x10 then bits v 32 32 else p.period),
    width := BitVec.ofNat 24 (if k = 0x10 then bits v 8 24 else p.width),
    unit256 := if k = 0x10 then bits v 7 1 == 1 else p.unit256, polarity := if k = 0x10 then bits v 2 1 == 1 else p.polarity,
    mode := BitVec.ofNat 2 (if k = 0x10 then bits v 0 2 else p.mode) }

/-- A pulse output's register: START of an output that is off is kept as written; else the output is armed anew (20 R449). -/
def ppsWrite (n k v : Nat) (s : State) : State :=
  if k = 0x18 then (if bits v 1 1 = 1 then s.setPps n { (s.pps n) with missed := false } else s)
  else if (s.pps n).mode = 0 ∧ k ≠ 0x10 then
    s.setPps n { (s.pps n) with sec := if k = 0 then bits v 0 48 else (s.pps n).sec, ns := if k = 8 then bits v 0 32 else (s.pps n).ns }
  else s.ppsArm n (ppsWritten (s.pps n) k v)

def timWrite (o v : Nat) (s : State) : State :=
  let t := s.time
  if slotIn o 0x100 0x180 then ppsWrite ((o - 0x100) / 0x20) (o % 0x20) v s
  else if slotIn o 0x300 0x350 then
    s.setTime { t with delays := t.delays.set (0, 0) ((o - 0x300) / 8) (BitVec.ofNat 16 (bits v 16 16), BitVec.ofNat 16 (bits v 0 16)) }
  else match o with
  | 0x18 => s.setTime { t with leveeFlag := t.leveeFlag && bits v 27 1 == 0, txtsOvf := t.txtsOvf && bits v 26 1 == 0,
                               synSat := t.synSat && bits v 25 1 == 0 }
  | 0x30 => if t.mode = 0 then s.setTime { t with incr := bits v 0 48 } else s
  | 0x38 => if t.mode = 0 ∨ t.mode = 2 then s.setC (signedOf 48 v) else s
  | 0x40 => stepWrite (BitVec.ofNat 64 v) s
  | _ => (timeConfigBody (timeCfgWrite o v (timeCfgNow t)) s).1

/-- CSP_CTL: a write of RUN from 0 to 1 starts, FORCE_STOP stops, ZERO zeroises; its settings take effect first. -/
def cspCtl (v : Nat) (x : Csp) : Csp :=
  let x1 := { x with rptMax := BitVec.ofNat 16 (bits v 16 16), irqLevel := BitVec.ofNat 8 (bits v 8 8) }
  let x2 := if bits v 2 1 = 1 then forceStop x1 else x1
  let x3 := if bits v 3 1 = 1 then zeroCsp x2 else x2
  if bits v 0 1 = 1 ∧ !x.run then runProg x3 else { x3 with run := x3.run && bits v 0 1 == 1 }

def rstWrite (m : Master) (o v : Nat) (s : State) : State :=
  if o = 0x18 then
    (if bits v 16 1 = 1 then wdtArm (bits v 0 16) s
     else if between 10 60000 (bits v 0 16) then s.setRst { s.rst with schPeriod := bits v 0 16 } else s)
  else
    let s1 := if m = .scheduler ∧ bits v 1 1 = 1 then s.setRst { s.rst with schKick := s.clock.cycle } else s
    if m = .security ∧ bits v 0 1 = 1 then s1.setRst { s1.rst with secKick := s1.clock.cycle } else s1

/-- RELOAD: from the next frame boundary, in LOADED, STARTED and RUNNING alone (24 R513). -/
def reloadAsk (c : Nat) (s : State) : State :=
  if s.host.state = .loaded ∨ s.host.state = .started ∨ s.host.state = .running then s.setCluster c { (s.cluster c) with reload := true }
  else s

def tilCmd (t v : Nat) (s : State) : State :=
  match v % 256 with
  | 1 => (match bits v 8 56 with
      | 0 => assignTile t .radio s
      | 1 => assignTile t .inference s
      | 2 => assignTile t .management s
      | _ => s)
  | 2 => preemptTile t s
  | 3 => killTile t s
  | 4 => zeroiseTile t s
  | _ => s

def splitWrite (t v : Nat) (s : State) : State :=
  let a := bits v 16 8
  let i := bits v 8 8
  let r := bits v 0 8
  if 48 < a + i + r then s else s.modTile t fun x => { x with splitA := a, splitI := i, splitR := r }

/-- TIL_POLDERn: a write with state HELD allocates; it is ignored while the polder is not FREE (12 R270). -/
def polderWrite (t n v : Nat) (s : State) : State :=
  let p : PolderSet := { cls := BitVec.ofNat 2 (bits v 60 2), tagged := bits v 59 1 == 1, accRemote := bits v 58 1 == 1,
                         winCount := BitVec.ofNat 9 (bits v 48 9), winBase := BitVec.ofNat 8 (bits v 40 8), job := BitVec.ofNat 32 v }
  if ((s.tile t).polders.get Polder.init n).state ≠ .free ∨ bits v 62 2 ≠ 1 then s else polderAlloc t n p s

def tilWrite (t o v : Nat) (s : State) : State :=
  if slotIn o 0x100 0x1C0 then polderWrite t ((o - 0x100) / 8) v s
  else if o = 0x10 then tilCmd t v s
  else if o = 0x200 then s.modTile t fun x => { x with tagLimit := bits v 0 32 }
  else splitWrite t v s

/-- The modes of the four port pairs; a field of 5, and of 6 or 7 which are no code of a mode (DEDUCED, log 120), keeps its pair's mode and is
refused (24 R520, 23 R485). -/
def netWrite (v : Nat) (s : State) : State × Bool :=
  let f (p : Nat) : Nat := bits v (3 * p) 3
  let s1 := (upTo 4).foldl (fun s p =>
    if 4 < f p then s
    else
      let s2 := s.setNet { s.net with pairMode := s.net.pairMode.set 0 p (f p) }
      (s2.modPort (2 * p) fun x => { x with mode := f p }).modPort (2 * p + 1) fun x => { x with mode := f p }) s
  (s1, (upTo 4).any fun p => decide (4 < f p))

/-- A write of a register by a master that may write it; `true` where a field is refused with CFG_RANGE. -/
def State.regWrite (s : State) (m : Master) (off v : Nat) : State × Bool :=
  let o := off % 0x10000
  match blockOf (off / 0x10000) with
  | .pwr => pwrWrite o v s
  | .age => ageWrite v s
  | .saf => (safWrite o v s, false)
  | .sch => (schWrite o v s, false)
  | .tim => (timWrite o v s, false)
  | .obd => (if bits v 0 1 = 1 then retrain ((o - 0x200) / 8) s else s, false)
  | .csp n => (s.setCsp n (cspCtl v (s.csp n)), false)
  | .rst => (rstWrite m o v s, false)
  | .cyc => (s.setSched { s.sched with halt := if bits v 0 1 = 1 then s.sched.halt <|> some s.frameNow else none }, false)
  | .clu n => (if bits v 0 1 = 1 then reloadAsk n s else s, false)
  | .mem => (s.setMem { s.mem with patrolOn := bits v 0 1 == 1 }, false)
  | .net => netWrite v s
  | .til n => (tilWrite n o v s, false)
  | _ => (s, false)

/-! ## REGISTER_WRITE, CLU_RELOAD, LDP_QUEUE_READ -/

/-- Has the register only bits that a 1 clears or starts, so that the half a write leaves out counts as 0? -/
def onlyOnes (off : Nat) : Bool := off == 0x50018 || (off / 0x10000 == 5 && slotIn (off % 0x10000) 0x100 0x180 && off % 0x20 == 0x18)

/-- The value an 8- or a 4-byte write gives the slot: a 4-byte write keeps the other half (24 R503). -/
def State.slotValue (s : State) (off : Nat) (four : Bool) (v : Nat) : Nat :=
  let slot := off / 8 * 8
  let old := if onlyOnes slot then 0 else s.regValue slot
  if !four then v
  else if off % 8 = 0 then old / 2 ^ 32 * 2 ^ 32 + v % 2 ^ 32
  else old % 2 ^ 32 + v % 2 ^ 32 * 2 ^ 32

/-- A write on the device fabric: refused where R503 says, a violation in the key-store window, ignored by any master that Table 2
does not name. -/
def registerWrite (m : Master) (addr : Nat) (four : Bool) (v : Nat) (s : State) : State :=
  let off := addr - regBase
  if addr < regBase ∨ 0x100000000 ≤ off ∨ (if four then addr % 4 ≠ 0 else addr % 8 ≠ 0) ∨ blockOf (off / 0x10000) = .none then
    s.emit (.word "REGISTER_WRITE" Code.addrUnmapped.toNat)
  else if keyStoreAt off then (if m = .security then s else s.violation 2)
  else if mayWrite m (off / 8 * 8) then
    (match s.regWrite m (off / 8 * 8) (s.slotValue off four v) with
     | (s1, true) => s1.emit (.word "REGISTER_WRITE" Code.cfgRange.toNat)
     | (s1, false) => s1)
  else s

def execRegisterWrite (master : Master) (addr : Addr) (four : Bool) (value : Dword) (s : State) : Host.Outcome State Fault Refusal :=
  .next (registerWrite master addr.toNat four value.toNat s)

def execCluReload (c : ClusterId) (s : State) : Host.Outcome State Fault Refusal := .next (reloadAsk c.val s)

/-- A read that takes in byte 2 of LDP_QUEUE: the peak becomes what is queued now (24 R516). -/
def ldpRead (b : Nat) (s : State) : State := s.setBank b { (s.bank b) with peak := (s.bank b).now }

def execLdpQueueRead (bank : Fin 4) (s : State) : Host.Outcome State Fault Refusal :=
  .next ((ldpRead bank.val s).emit (.word "LDP_QUEUE" (ldpReg s bank.val 0x18)))

end Sys2Proof.Machine
end

