-- ==== Sys2Proof/Machine/Host.lean ====
section
/-! DEFINITION. The messages of 19 that no other chapter defines: state, recorder, sessions, memory, bring-up, log; firmware faults. -/
namespace Sys2Proof.Machine

/-- The states in which security core firmware or ROM serves a session (19 Table 5): all while it has not trapped. -/
def State.sessionStates (s : State) : List DevState :=
  if s.host.secFault then [.anchor, .berm, .loaded, .started, .running] else allStates

/-- A datagram that breaks R416 is dropped and counted, whichever port it came on. -/
def execQcpDatagramDrop (_port : Fin 2) (s : State) : Host.Outcome State Fault Refusal := .next s.mbxDrop

/-- Every type of 19 Table 5 that a host sends. -/
def knownTypes : List Nat :=
  [0x01, 0x02, 0x03, 0x10, 0x11, 0x12, 0x20, 0x21, 0x30, 0x31, 0x32, 0x33] ++ ((upTo 10).map (· + 0x40)) ++
  [0x50, 0x51, 0x52, 0x53, 0x54, 0x55, 0x56, 0x60, 0x61, 0x62, 0x63, 0x64, 0x70, 0x71, 0x72] ++ ((upTo 8).map (· + 0x80)) ++ [0x90, 0x91]

/-- A type that Table 5 does not hold: UNKNOWN_TYPE, at the check of R419, before role and state. -/
def unknownType (h : QcpHdr) (type : Nat) (s : State) : State :=
  if knownTypes.contains type then s
  else serve s h { role := .none, legal := [.anchor, .berm, .loaded, .started, .running] } (refuse Code.unknownType)

def execQcpUnknownType (h : QcpHdr) (type : Half) (s : State) : Host.Outcome State Fault Refusal :=
  .next (unknownType h type.toNat s)

/-! ## STATE_READ, RECORDER_READ, the recorder's writes (19 R421, R430–R434) -/

def stateReadBody (s : State) : State × Answer := (s, .now Code.ok (.nums [mbxState s, s.events.count]))

def execStateRead (h : QcpHdr) (s : State) : Host.Outcome State Fault Refusal :=
  .next (serve s h { role := .read, legal := allStates, hw := true, reads := true } stateReadBody)

/-- `n` indexes of the recorder from one on; 8,191 is followed by 1,024. -/
def recordIndexes : Nat → Nat → List Nat
  | 0, _ => []
  | n + 1, i => i :: recordIndexes n (if i = 8191 then 1024 else i + 1)

def recorderBody (first count : Nat) (s : State) : State × Answer :=
  if 8191 < first ∨ !between 1 254 count then (s, .err Code.msgRange)
  else (s, .now Code.ok (.records s.events.count ((recordIndexes count first).map fun i => s.events.records.get none i)))

def execRecorderRead (h : QcpHdr) (first count : Half) (s : State) : Host.Outcome State Fault Refusal :=
  .next (serve s h { role := .read, legal := allStates, hw := true, reads := true } (recorderBody first.toNat count.toNat))

/-- Where record n lies (19 R431): the first 1,024 stay, later ones circulate. -/
def recordIndex (n : Nat) : Nat := if n < 1024 then n else 1024 + (n - 1024) % 7168

/-- The EVR_LOST record of the records dropped so far. -/
def State.lostRecord (s : State) : EvRec :=
  { code := Code.evrLost, source := 0x0700, sec := s.nowSec, ns := s.nowSub, params := [BitVec.ofNat 32 s.events.lostSince, 0, 0, 0] }

/-- The oldest queued record is written and counted; the room it leaves takes the EVR_LOST of what was dropped (19 R433). -/
def recordWrite (s : State) : State :=
  let e := s.events
  match e.queue with
  | [] => s
  | r :: rest =>
    let lost := e.lostSince ≠ 0
    { s with events := {
        count := (e.count + 1) % 2 ^ 64, dropped := e.dropped, lostSince := 0, queue := if lost then rest ++ [s.lostRecord] else rest,
        records := e.records.set none (recordIndex e.count) (some { valid := true, count := BitVec.ofNat 31 e.count, entry := r }) } }

def execEvrRecordWrite (s : State) : Host.Outcome State Fault Refusal := .next (recordWrite s)

/-! ## Sessions (19 R420) -/

/-- SESSION_OPEN: the lowest free number of 1 to 8, bound to where the request came from, with a random nonce. -/
def sessionOpenBody (h : QcpHdr) (s : State) : State × Answer :=
  match (upTo 8).find? fun i => (s.session (i + 1)).isNone with
  | none => (s, .err Code.sessionFull)
  | some i =>
    let (v, s1) := s.draw
    let nonce := leBytes 32 v
    let x : Session := { port := h.port, addr := h.addr, udp := h.udp, role := .none, nonce, lastSeq := none, cache := [],
                         idleNs := s.nowNs, nextSeq := 0 }
    (s1.setSession (i + 1) (some x), .now Code.ok (.bytes (leBytes 2 (i + 1) ++ nonce)))

/-- A SESSION_OPEN with session number 0 belongs to no session, so no seq is compared. -/
def sessionOpen (h : QcpHdr) (s : State) : State :=
  let m : MsgRow := { role := .none, legal := s.sessionStates }
  if h.session ≠ 0 then serve s h m (sessionOpenBody h)
  else if s.portDrops h then s
  else if s.replaying ∧ !s.replayQcp h.raw then s.reply h false Code.replayBusy .empty
  else serveAs (if s.replayQcp h.raw then s.replayTaken else s) h m .none false (sessionOpenBody h)

def execSessionOpen (h : QcpHdr) (s : State) : Host.Outcome State Fault Refusal := .next (sessionOpen h s)

/-- Do the keys and signatures of SESSION_AUTH grant a role (19 R420, step 2)? -/
def State.authOk (s : State) (b : AuthBody) (msg : List Byte) : Bool :=
  let f := s.sec.fuses
  let k := Config.sha256 b.modulus
  let sig := Config.rsaVerify b.modulus msg b.rsaSig
  if b.role = 3 then
    sig && f.opRsa == some k && (!f.requireMldsa || (f.opMldsa == some (Config.sha256 b.mldsaKey) && Config.mldsaVerify b.mldsaKey msg b.mldsaSig))
  else sig && (f.opRsa == some k || s.host.roleKeys.any fun e => e.1 == k && decide (b.role.toNat ≤ roleRank e.2))

def sessionAuthBody (h : QcpHdr) (b : AuthBody) (s : State) : State × Answer :=
  match s.session h.session.toNat with
  | none => (s, .err Code.msgRange)
  | some x =>
    if !between 1 3 b.role.toNat then (s, .err Code.msgRange)
    else if s.sec.lifecycle = .opened ∨ s.authOk b (x.nonce ++ leBytes 2 h.session.toNat ++ [b.role]) then
      (s.setSession h.session.toNat (some { x with role := roleOfCode b.role.toNat }), .ok)
    else (s, .err Code.authFail)

def execSessionAuth (h : QcpHdr) (b : AuthBody) (s : State) : Host.Outcome State Fault Refusal :=
  .next (serve s h { role := .none, legal := s.sessionStates } (sessionAuthBody h b))

def execSessionClose (h : QcpHdr) (s : State) : Host.Outcome State Fault Refusal :=
  .next (serve s h { role := .none, legal := s.sessionStates } fun s => (s.setSession h.session.toNat none, .ok))

/-- A session without an accepted request or an acknowledgement for 600 s closes. -/
def sessionTimeout (n : Nat) (s : State) : State :=
  match s.session n with
  | some x => if x.idleNs + 600000000000 ≤ s.nowNs then s.setSession n none else s
  | none => s

def execSessionTimeout (session : Fin 8) (s : State) : Host.Outcome State Fault Refusal := .next (sessionTimeout (session.val + 1) s)

/-- ROLE_KEY_SET: up to 8 entries become the table. -/
def roleKeyBody (es : List (List Byte × Byte)) (s : State) : State × Answer :=
  if 8 < es.length ∨ !(es.all fun e => between 1 3 e.2.toNat) then (s, .err Code.msgRange)
  else (s.setHost { s.host with roleKeys := es.map fun e => (e.1, roleOfCode e.2.toNat) }, .ok)

def adminLate : MsgRow := { role := .admin, legal := [.started, .running] }

def execRoleKeySet (h : QcpHdr) (entries : List (List Byte × Byte)) (s : State) : Host.Outcome State Fault Refusal :=
  .next (serve s h adminLate (roleKeyBody entries))

/-! ## MEM_WRITE, MEM_READ (19 R422) -/

def State.inRom (s : State) : Bool := s.host.state == .anchor || s.host.state == .berm

/-- Memory that holds subscriber data or receiver-net weights (18 Table 1): HARQ pools, adaptation regions, the radio capture ring. -/
def State.subscriberRanges (s : State) : List (Nat × Nat) :=
  s.harqPools 8 ++ s.adaptRegions 12 ++ (s.capture.rings.take 1).map fun r => (r.base, r.size)

/-- May the host reach [a, a + n) of HBM or DDR5 (18 R383–R385): memory neither sealed nor changing, of the inference and management
domains; in radio memory it only writes, and no subscriber data: the descriptors and programs of radio tasks have no other way in
(DEDUCED, log 67). -/
def State.hostReach (s : State) (a n : Nat) (write : Bool) : Bool :=
  (upTo ((a + n - 1) / 2 ^ 20 + 1 - a / 2 ^ 20)).all fun i =>
    let x := max a ((a / 2 ^ 20 + i) * 2 ^ 20)
    (s.domainAt x != .radio || (write && !s.subscriberRanges.any (rangesMeet (a, n)))) &&
      (match s.regionOf x with | some (_, r) => !r.changing && !r.sealed | none => true)

/-- What keeps the host from a range outside the register region: in the ROM's states all but the staging area (DEDUCED, log 59), holes
and the cluster caches' save areas, another domain's memory or pages, polders that are not open to it (01 R18, 12 R269, 13 R303). -/
def State.hostRefusal (s : State) (a n : Nat) (write : Bool) : Option Half :=
  if s.inRom then (if a + n ≤ stagingSize then none else some Code.badState)
  else match s.place a with
    | .ext _ => if !s.extRange a n then some Code.addrUnmapped else if s.hostReach a n write then none else some (Code.til 0x72)
    | .tile t off => if 0x180000 < off + n then some Code.addrUnmapped else if s.windowOpen t off n .host then none else some Code.spDenied
    | .cache _ off => if 0x380000 < off + n then some Code.addrUnmapped else some (Code.til 0x72)
    | .window off => if write ∨ 0x4000000 < off + n then some Code.addrUnmapped else none
    | _ => some Code.addrUnmapped

/-- Slots of a register range. -/
def slotsOf (off n : Nat) : List Nat := (upTo (n / 8)).map fun i => off + 8 * i

/-- MEM_WRITE into the register region (24 R503, R506): every register in the range is checked before any is written (DEDUCED, log 10). -/
def memWriteReg (off : Nat) (data : List Byte) (h : QcpHdr) (s : State) : State × Answer :=
  let n := data.length
  let slots := slotsOf off n
  let admin := s.replayQcp h.raw || (match s.session h.session.toNat with | some x => 3 ≤ roleRank x.role | none => false)
  if !admin then (s, .err Code.roleDenied)
  else if !aligned 4 off ∨ !aligned 4 n then (s, .err Code.addrUnmapped)
  else if !aligned 8 off ∨ !aligned 8 n then (s, .err Code.msgRange)
  else if slots.any fun o => blockOf (o / 0x10000) == .none || decide (0x100000000 ≤ o) then (s, .err Code.addrUnmapped)
  else if slots.any keyStoreAt then (s.violation 2, .later)
  else if slots.any fun o => regDefined o && !mayWrite .host o then (s, .err Code.msgRange)
  else
    let (s1, refused) := (slots.zipIdx).foldl (fun (acc : State × Bool) p =>
      if !regDefined p.1 then acc else
        let (s2, r) := acc.1.regWrite .host p.1 (leNat ((data.drop (8 * p.2)).take 8))
        (s2, acc.2 || r)) (s, false)
    (s1, if refused then .err Code.cfgRange else .ok)

/-- MEM_WRITE. A tile window takes no write without a sluice credit, and the host holds none: such a write is discarded and counted
(12 R276, R279; DEDUCED, log 58). -/
def memWriteBody (h : QcpHdr) (a : Nat) (data : List Byte) (s : State) : State × Answer :=
  let n := data.length
  if !between 1 8144 n then (s, .err Code.msgRange)
  else if !s.inRom ∧ regBase ≤ a ∧ a + n ≤ regBase + 0x100000000 then memWriteReg (a - regBase) data h s
  else match s.hostRefusal a n true with
    | some c => (s, .err c)
    | none =>
      match s.place a with
      | .tile t _ => (s.modTile t fun x => { x with refused := bump 255 x.refused }, .err (Code.til 0x64))
      | _ =>
        let bad := s.mergeBad a n
        (s.extWrite a data, if bad then .err Code.memUeEvent else .ok)

def execMemWrite (h : QcpHdr) (addr : Addr) (data : List Byte) (s : State) : Host.Outcome State Fault Refusal :=
  .next (serve s h { role := .operate, legal := [.anchor, .berm, .started, .running] } (memWriteBody h addr.toNat data))

/-- What a read of a register slot does beside the value: TIM_NOW_S latches, TIM_TXTS_LO pops, LDP_QUEUE clears its peak (24 R504);
`lo` says byte 0 to 3 are read. -/
def State.readEffect (s : State) (slot : Nat) (lo : Bool) : State :=
  if !lo then s
  else if slot = 0x50000 then timeLatch s
  else if slot = 0x50208 then (txtsPop s).2
  else match blockOf (slot / 0x10000) with
    | .ldp b => if slot % 0x10000 = 0x18 then ldpRead b s else s
    | _ => s

/-- Reads in ascending order, 8 bytes where both halves are asked for, else 4. -/
def State.readRegs : Nat → State → Nat → Nat → List Byte × State
  | 0, s, _, _ => ([], s)
  | fuel + 1, s, off, n =>
    if n = 0 then ([], s)
    else
      let slot := off / 8 * 8
      let k := if aligned 8 off ∧ 8 ≤ n then 8 else 4
      let bs := ((leBytes 8 (s.regValue slot)).drop (off % 8)).take k
      let (rest, s1) := State.readRegs fuel (s.readEffect slot (aligned 8 off)) (off + k) (n - k)
      (bs ++ rest, s1)

def memReadReg (off n : Nat) (s : State) : State × Answer :=
  if !aligned 4 off ∨ !aligned 4 n ∨ (slotsOf (off / 8 * 8) (n + 4)).any (fun o => o < off + n && blockOf (o / 0x10000) == .none) then
    (s, .err Code.addrUnmapped)
  else if (slotsOf (off / 8 * 8) (n + 4)).any (fun o => o < off + n && keyStoreAt o) then (s.violation 2, .later)
  else
    let (bs, s1) := State.readRegs (n / 4) s off n
    (s1, .now Code.ok (.bytes bs))

/-- MEM_READ. What the weight-cache window shows at an offset is not stated: free bytes (DESIGN CHOICE, log 57).
Codes of unreadable words (DEDUCED, log 64). -/
def memReadBody (a n : Nat) (s : State) : State × Answer :=
  if !between 1 8160 n then (s, .err Code.msgRange)
  else if !s.inRom ∧ regBase ≤ a ∧ a + n ≤ regBase + 0x100000000 then memReadReg (a - regBase) n s
  else match s.hostRefusal a n false with
    | some c => (s, .err c)
    | none =>
      match s.place a with
      | .tile t off =>
        if spUnreadable (s.tile t).body off n then (s.modTile t fun x => { x with eccUe := bump top32 x.eccUe }, .err (Code.til 0x60))
        else (s, .now Code.ok (.bytes (spBytes (s.tile t).body off n)))
      | .window _ => let (v, s1) := s.draw; (s1, .now Code.ok (.bytes (leBytes n v)))
      | _ => if s.extBad a n then (s.memUe a, .err Code.memUeEvent) else (s, .now Code.ok (.bytes (s.extRead a n)))

def execMemRead (h : QcpHdr) (addr : Addr) (n : Half) (s : State) : Host.Outcome State Fault Refusal :=
  .next (serve s h { role := .read, legal := [.anchor, .berm, .started, .running], reads := true } (memReadBody addr.toNat n.toNat))

/-! ## BERM_START, START, RUN (19 R412–R414, R419, 22 R482) -/

def bermStartBody (b : BermBody) (s : State) : State × Answer :=
  if bermOk b.ul b.dl b.domain.toNat then (s.bermEnter b.ul b.dl b.port b.domain, .ok) else (s, .err Code.cfgRange)

def execBermStart (h : QcpHdr) (b : BermBody) (s : State) : Host.Outcome State Fault Refusal :=
  .next (serve s h { role := .admin, legal := [.anchor] } (bermStartBody b))

/-- The cluster control cores of fabrics not held run image 3; while berm service runs, C0 stays on its ROM (DEDUCED, log 61). -/
def State.coresStart (s : State) : State :=
  (upTo 12).foldl (fun s c =>
    if s.rst.held.contains (96 + c) || (s.host.berm && c == 0) then s else s.setCluster c { (s.cluster c) with core := .image }) s

/-- The scheduler numbers jobs from 1 again (DEDUCED, log 65). -/
def startBody (s : State) : State × Answer :=
  let s1 := (s.setHost { s.host with state := .started, coresHalted := false }).coresStart
  (s1.setSched { s1.sched with nextJob := 1 }, .ok)

def execStart (h : QcpHdr) (s : State) : Host.Outcome State Fault Refusal :=
  .next (serve s h { role := .admin, legal := [.loaded] } startBody true)

def runBody (s : State) : State × Answer := (s.setHost { s.host with state := .running, takeover := s.host.berm }, .ok)

def execRun (h : QcpHdr) (s : State) : Host.Outcome State Fault Refusal :=
  .next (serve s h { role := .admin, legal := [.started] } runBody)

/-! ## LOG_CONFIG, TRACE_SET (19 R427, R428) -/

/-- LOG_CONFIG: the ring begins empty, its write_index 0 (DEDUCED, log 65). -/
def logConfigBody (base n level : Nat) (s : State) : State × Answer :=
  let size := 64 + 64 * n
  if !aligned 0x10000 base ∨ !between 1024 1048576 n ∨ 3 < level ∨ !s.extRange base size ∨ !s.domainOk .management base size then
    (s, .err Code.msgRange)
  else ((s.setHost { s.host with log := some { base, records := n, level, write := 0 } }).extWrite base (leBytes 8 0), .ok)

def execLogConfig (h : QcpHdr) (base : Dword) (records : Word) (level : Byte) (s : State) : Host.Outcome State Fault Refusal :=
  .next (serve s h adminLate (logConfigBody base.toNat records.toNat level.toNat))

/-- Bits 128 to 255 of the mask have no effect. -/
def traceBody (mask : BitVec 256) (s : State) : State × Answer :=
  (s.setHost { s.host with trace := mask &&& BitVec.ofNat 256 (2 ^ 128 - 1) }, .ok)

def execTraceSet (h : QcpHdr) (mask : BitVec 256) (s : State) : Host.Outcome State Fault Refusal :=
  .next (serve s h { role := .operate, legal := [.running] } (traceBody mask))

/-! ## Firmware faults (19 R411, R415) -/

def coreBlock : FwCore → Nat
  | .security => 0x08 | .power => 0x03 | .scheduler => 0x0A | .cluster _ => 0x0D

def coreNumber : FwCore → Nat
  | .security => 1 | .power => 2 | .scheduler => 3 | .cluster _ => 4

def coreUnit : FwCore → Nat
  | .cluster c => c.val | _ => 0

/-- FAULTED: no cycle table entry starts after this frame, every job and running task is killed (log 62). MBX_STATE names the first core
that trapped. -/
def State.faulted (s : State) (n : Nat) : State :=
  let s1 := s.setHost { s.host with state := .faulted, faultedCore := if s.host.state = .faulted then s.host.faultedCore else n }
  let s2 := s1.setSched { s1.sched with halt := some s1.frameNow }
  let s3 := (s2.sched.graphs.filter (·.outcome.isNone)).foldl State.killGraph s2
  s3.tiles.keys.foldl (fun s t => if (s.tile t).ref.isSome then killTile t s else s) s3

/-- A trap: FW_FAULT recorded by the trap logic, the core stopped; from any state after ANCHOR the device enters FAULTED. -/
def fwTrap (k : FwCore) (cause lo hi : Nat) (s : State) : State :=
  let clu := match k with | .cluster c => c.val | _ => 0xFF
  let s1 := s.record (Code.fwFault (coreBlock k)) (coreUnit k) [cause, lo, hi, clu]
  let s2 := match k with
    | .cluster c => s1.setCluster c.val { (s1.cluster c.val) with core := .faulted, reload := false }
    | .security => s1.setHost { s1.host with secFault := true }
    | _ => s1
  if s.host.state = .anchor then s2.setHost { s2.host with faultedCore := coreNumber k } else s2.faulted (coreNumber k)

def execFwFault (core : FwCore) (cause pcLo pcHi : Word) (s : State) : Host.Outcome State Fault Refusal :=
  .next (fwTrap core cause.toNat pcLo.toNat pcHi.toNat s)

end Sys2Proof.Machine
end

