-- ==== Sys2Proof/Machine/SweepPhy.lean ====
section
/-! DEFINITION. What the sweep engine, the equaliser programs and the coder compute of the sweep link: waveform, dechirping, combining, taps,
coding (04 R88–R93, R99–R107). Sums and transforms are exact to 2^−60; a rounding that the manual does not state is free (log 87, log 91). -/
namespace Sys2Proof.Machine

/-! ## The waveform (04 R87–R89, R93) -/

/-- Chips of a symbol. -/
def chipsOf (sf : Nat) : Nat := 2 ^ sf

/-- Phase of the up-sweep of value k at sample n of its symbol, sampled at 2B, in turns of 1/(8N): the integral of f(t) from the symbol start. -/
def sweepTurn (sf k n : Nat) : Int :=
  let c : Int := chipsOf sf
  4 * k * n + n * n - 2 * c * n - 4 * c * ((n + 2 * k - 2 * chipsOf sf : Nat) : Int)

/-- The up-sweep of value k, unit amplitude, 60 fraction bits; a down-sweep is the conjugate of that of value 0. -/
def upSweep (sf k n : Nat) : CInt := unitTurn (sweepTurn sf k n) (8 * chipsOf sf)
def downSweep (sf n : Nat) : CInt := (upSweep sf 0 n).conj

/-- Symbols before the header: 16 up-sweeps, 2 down-sweeps, the identity word. -/
def headSymbols : Nat := 20

/-- Header symbols of an order. -/
def headerSymbols (sf : Nat) : Nat := ceilDiv 240 sf

/-- Payload symbols: E/SF with E of 04 R92, from the rate's code and the payload's bytes. -/
def codedSymbols (sf rate len : Nat) : Nat :=
  let b := 8 * len + 16
  match rate with
  | 0 => ceilDiv (3 * b) sf
  | 1 => ceilDiv (2 * b) sf
  | 2 => ceilDiv (3 * b) (2 * sf)
  | _ => ceilDiv (5 * b) (4 * sf)

def payloadSymbols (sf : Nat) (h : SweepHdr) : Nat := codedSymbols sf h.rate.toNat h.len.toNat

/-- The two values of the identity word. -/
def identityValues (sf netId : Nat) : Nat × Nat := (netId / 64 * (chipsOf sf / 64), netId % 64 * (chipsOf sf / 64))

/-- Inverse Gray map of a symbol value. -/
def ungray : Nat → Nat → Nat
  | 0, k => k
  | f + 1, k => if k = 0 then 0 else k ^^^ ungray f (k / 2)

/-- The value that symbol j of S carries, of the scrambled bits g. -/
def symbolValue (sf count : Nat) (g : List Bool) (j : Nat) : Nat :=
  let v := natOf ((upTo sf).map fun p => g.getD (p * count + j) false)
  v ^^^ v / 2

def symbolValues (sf count : Nat) (g : List Bool) : List Nat := (upTo count).map (symbolValue sf count g)

/-! ## Header and payload (04 R90–R92) -/

/-- The 64 header bits, most significant first. -/
def headerBits (h : SweepHdr) : List Bool :=
  msbBits 2 h.ver.toNat ++ msbBits 3 h.type.toNat ++ msbBits 2 h.rate.toNat ++ [h.rsvd] ++ msbBits 8 h.len.toNat ++ msbBits 32 h.addr.toNat ++
  msbBits 16 h.fcnt.toNat

/-- The header that 64 bits spell. -/
def headerOf (l : List Bool) : SweepHdr :=
  let f (lo n : Nat) : Nat := natOf ((l.drop lo).take n)
  { ver := BitVec.ofNat 2 (f 0 2), type := BitVec.ofNat 3 (f 2 3), rate := BitVec.ofNat 2 (f 5 2), rsvd := l.getD 7 false,
    len := BitVec.ofNat 8 (f 8 8), addr := BitVec.ofNat 32 (f 16 32), fcnt := BitVec.ofNat 16 (f 48 16) }

def headerOk (h : SweepHdr) : Bool :=
  h.ver == 0 && decide (h.type.toNat ≤ 3 ∧ 1 ≤ h.len.toNat ∧ h.len.toNat ≤ 78) && !h.rsvd && h.addr != 0 && h.addr != 0xFFFFFFFF

/-- The code of a block of `a` information bits with a lifting size: base graph 2, CRC16, 10 Zc − B fillers. -/
def sweepCode (a zc : Nat) : Code38 := { bg := 1, a, tbCrc := 16, blocks := 1, kPrime := a + 16, zc }
def headerCode : Code38 := sweepCode 64 8
def payloadCode (len : Nat) : Code38 := sweepCode (8 * len) (liftFor 10 (8 * len + 16))

/-- The initial values of the scrambling of a header and of a payload. -/
def headerInit (netId : Nat) : Nat := netId
def payloadInit (h : SweepHdr) : Nat := h.addr.toNat % 65536 * 32768 + h.fcnt.toNat % 32768

/-- The values of the symbols that carry a block of bits: CRC, code, rate matching with rv 0 and Qm 1, scrambling, Gray map. -/
def blockValues (sf count : Nat) (c : Code38) (cInit : Nat) (bits : List Bool) : List Nat :=
  let e := c.matched c.n 0 (sf * count) 1 (bits ++ crc16 bits)
  symbolValues sf count (xorBits e (goldSeq cInit (sf * count)))

def headerValues (sf netId : Nat) (h : SweepHdr) : List Nat := blockValues sf (headerSymbols sf) headerCode (headerInit netId) (headerBits h)
def payloadValues (sf : Nat) (h : SweepHdr) (payload : List Byte) : List Nat :=
  blockValues sf (payloadSymbols sf h) (payloadCode h.len.toNat) (payloadInit h) (byteBits payload)

/-- The values of a frame's up-sweeps after its preamble. -/
def frameValues (sf netId : Nat) (h : SweepHdr) (payload : List Byte) : List Nat :=
  let (i, j) := identityValues sf netId
  [i, j] ++ headerValues sf netId h ++ payloadValues sf h payload

/-- A sample of a downlink frame, unit amplitude: every up-sweep conjugated, every down-sweep the up-sweep of value 0. -/
def downFrame (sf : Nat) (values : List Nat) (n : Nat) : CInt :=
  let len := 2 * chipsOf sf
  let m := n / len
  let i := n % len
  if m < 16 then (upSweep sf 0 i).conj else if m < 18 then upSweep sf 0 i else (upSweep sf (values.getD (m - 18) 0) i).conj

/-- A sample with the back-off of dl_backoff half decibels, each component rounded half up to Q1.15. -/
def backedOff (backoff : Nat) (z : CInt) : Cplx16 :=
  let a : Int := dbFix (-(backoff : Int))
  let one (v : Int) : Half := BitVec.ofInt 16 (satInt 16 (rhuDiv (v * a) (2 ^ 105)))
  { re := one z.re, im := one z.im }

/-- Samples of a downlink frame of `count` symbols after its preamble's 18. -/
def downSamples (sf backoff : Nat) (values : List Nat) : List Cplx16 :=
  (upTo ((18 + values.length) * 2 * chipsOf sf)).map fun n => backedOff backoff (downFrame sf values n)

/-- Samples cut into sections of 1,024 at most, under successive sequence numbers, iq_format 0 (DESIGN CHOICE, log 105). -/
def cutSections (eaxc : Half) (bw : BitVec 2) (rate first seq : Nat) : Nat → List Cplx16 → List SweepSection
  | 0, _ => []
  | f + 1, xs =>
    if xs.isEmpty then [] else
      { eaxc, seqId := BitVec.ofNat 8 seq, bwCode := bw, flagsRsvd := 0, secLo := BitVec.ofNat 16 (first / rate), sample := BitVec.ofNat 32 (first % rate),
        count := BitVec.ofNat 16 (min 1024 xs.length), rsvd0c := 0, samples := .plain (xs.take 1024) } ::
        cutSections eaxc bw rate (first + 1024) (seq + 1) f (xs.drop 1024)

/-! ## Samples held (04 R95, R96) -/

def sampleKey (stream n : Nat) : Nat := stream * 2 ^ 64 + n

def cplxInt (x : Cplx16) : CInt := ⟨x.re.toInt, x.im.toInt⟩
def cplxWord (x : Cplx16) : Word := x.im ++ x.re

def rawSample (y : ChanSt) (stream : Nat) (n : Int) : Option SampleSt := if n < 0 then none else y.samples.get none (sampleKey stream n.toNat)

def sampleValue (y : ChanSt) (stream : Nat) (n : Int) : Cplx16 := ((rawSample y stream n).map (·.value)).getD ⟨0, 0⟩

/-- Are all samples of a range of every stream in: supplied or erased? -/
def samplesIn (y : ChanSt) (nRx first count : Nat) : Bool :=
  (upTo nRx).all fun k => (upTo count).all fun i => (rawSample y k ((first + i : Nat) : Int)).isSome

/-! ## Dechirping (04 R99) -/

/-- A bin of the 2N-point transform of a window multiplied by the sampled down-sweep, or by the up-sweep to find down-sweeps. -/
def dechirpBin (sf : Nat) (dn : Bool) (w : Nat → CInt) (j : Nat) : CInt :=
  let n2 := 2 * chipsOf sf
  CInt.sum ((upTo n2).map fun n =>
    let t := sweepTurn sf 0 n
    (w n).mul (unitTurn ((if dn then t else -t) - 4 * j * n) (8 * chipsOf sf)))

/-- Bins k and k + N of each stream's window. -/
def binPairs (sf : Nat) (dn : Bool) (ws : List (Nat → CInt)) (k : Nat) : List (CInt × CInt) :=
  ws.map fun w => (dechirpBin sf dn w k, dechirpBin sf dn w (k + chipsOf sf))

/-- P[k]: the powers of both bins over the streams. -/
def binPower (sf : Nat) (dn : Bool) (ws : List (Nat → CInt)) (k : Nat) : Nat :=
  ((binPairs sf dn ws k).map fun e => e.1.norm + e.2.norm).foldl (· + ·) 0

def binPowers (sf : Nat) (dn : Bool) (ws : List (Nat → CInt)) : List Nat := (upTo (chipsOf sf)).map (binPower sf dn ws)

/-- The bin of the largest power, the lowest of equal ones. -/
def largest (ps : List (Nat × Nat)) : Option (Nat × Nat) :=
  ps.foldl (fun a e => match a with | none => some e | some b => if b.1 < e.1 then some e else some b) none

/-- The bins of the `k` largest powers. -/
def topBins : Nat → List (Nat × Nat) → List Nat
  | 0, _ => []
  | k + 1, ps => match largest ps with
    | some e => e.2 :: topBins k (ps.erase e)
    | none => []

def peaksOf (ps : List Nat) : List Nat := topBins 8 ps.zipIdx
def argMax (ps : List Nat) : Nat := ((largest ps.zipIdx).map (·.2)).getD 0

/-- A bin as its free functions take it. -/
def cpair (z : CInt) : Int × Int := (z.re, z.im)

/-- Values combined over the streams by weights of 15 fraction bits. -/
def combineBy (weights : List (Int × Int)) (vs : List CInt) : CInt :=
  let z := CInt.sum ((weights.zip vs).map fun e => e.2.mul ⟨e.1.1, e.1.2⟩)
  ⟨z.re / 2 ^ 15, z.im / 2 ^ 15⟩

/-- The complex value of a peak on a stream: the larger of its two bins. -/
def peakValue (e : CInt × CInt) : CInt := if e.1.norm < e.2.norm then e.2 else e.1

/-- What the detector gets of each peak: the 16 bins around it, both parts, combined over the streams (04 R100). -/
def detectorTensor (sf : Nat) (dn : Bool) (ws : List (Nat → CInt)) (peaks : List Nat) : List Half :=
  let n := chipsOf sf
  Config.peakTensor sf (peaks.flatMap fun k =>
    let weights := Config.mrcWeights ((binPairs sf dn ws k).map fun e => cpair (peakValue e))
    (upTo 16).flatMap fun i =>
      let ps := binPairs sf dn ws ((k + n + i - 8) % n)
      [cpair (combineBy weights (ps.map (·.1))), cpair (combineBy weights (ps.map (·.2)))])

/-! ## A reception's combined stream (04 R101, R103) -/

/-- Sample n of the frame on a stream, realigned: the nearest held samples and the fraction of a sample left (log 103). -/
def alignedSample (y : ChanSt) (q : Reception) (stream : Nat) (n : Int) : CInt :=
  let i : Int := q.startSample + n
  cintOf (Config.fractional ((upTo 16).map fun (k : Nat) => cplxWord (sampleValue y stream (i + (k : Int) - 7))) q.startFrac)

/-- The frequency offset taken away at sample n: b_up + b_dn counts 1/512 of a bin. -/
def deRotate (q : Reception) (n : Int) (z : CInt) : CInt :=
  let u := unitTurn (-(q.freqBins * n)) (1024 * chipsOf q.det.order)
  let v := z.mul u
  ⟨Config.rounded 13 v.re (2 ^ 60), Config.rounded 13 v.im (2 ^ 60)⟩

/-- The combined stream at 2B of a reception, Q1.15. -/
def combinedSample (y : ChanSt) (q : Reception) (n : Int) : Word :=
  let z := combineBy q.mrc ((upTo q.record.nRx.toNat).map fun k => deRotate q n (alignedSample y q k n))
  cwordOf z

/-- A combined sample is erased where every stream's sample is erased or missing (DEDUCED, log 103). -/
def combinedErased (y : ChanSt) (q : Reception) (n : Int) : Bool :=
  (upTo q.record.nRx.toNat).all fun k => match rawSample y k (q.startSample + n) with | some e => e.erased | none => true

/-- The samples of symbol s of a stream and of the combined stream. -/
def symbolStart (q : Reception) (s : Nat) : Int := ((s * 2 * chipsOf q.det.order : Nat) : Int)
def streamWindow (y : ChanSt) (q : Reception) (s stream : Nat) (n : Nat) : CInt :=
  deRotate q (symbolStart q s + n) (alignedSample y q stream (symbolStart q s + n))
def combinedWindow (y : ChanSt) (q : Reception) (s : Nat) (n : Nat) : CInt := cintOf (combinedSample y q (symbolStart q s + n))

/-- Have the samples that symbol s needs come? -/
def symbolReadable (y : ChanSt) (q : Reception) (s : Nat) : Bool :=
  let first := q.startSample + symbolStart q s
  let count := 2 * chipsOf q.det.order + 12
  (upTo q.record.nRx.toNat).all fun k => (upTo count).all fun i => decide (first + i < 0) || (rawSample y k (first + i)).isSome

/-! ## The equaliser (04 R106; its arithmetic 10 R225–R230) -/

def tapParts (t : Tap) : Int × Int := (t.re.toInt, t.im.toInt)
def tapOfParts (p : Int × Int) : Tap := { re := BitVec.ofInt 32 p.1, im := BitVec.ofInt 32 p.2 }

/-- A filter's sum over taps as TCOPY narrows them, from a value of the accumulator. -/
def filterSum (taps : List Tap) (xs : List Word) (neg : Bool) (start : Int × Int) : Int × Int :=
  (taps.zip xs).foldl (fun a e =>
    let p := cmulParts e.2 (tapCoefficient (tapParts e.1)).1 false neg
    (satInt 40 (a.1 + p.1), satInt 40 (a.2 + p.2))) start

/-- An accumulator narrowed by 14 places. -/
def narrow14 (a : Int × Int) : Word := packParts (satInt 16 (rhuShift a.1 14)) (satInt 16 (rhuShift a.2 14))

/-- The 24 inputs of chip n of symbol s: x[2n + 11 − i]. -/
def chipInputs (y : ChanSt) (q : Reception) (s n : Nat) : List Word :=
  (upTo 24).map fun (i : Nat) => combinedSample y q (symbolStart q s + ((2 * n + 11 : Nat) : Int) - (i : Int))

/-- u[n]: the feedforward filter, pass 1. -/
def feedForward (f : List Tap) (xs : List Word) : Word := narrow14 (filterSum f xs false (0, 0))

/-- y[n] = u[n] minus the feedback filter over the 12 chips before, newest first. -/
def feedBack (b : List Tap) (u : Word) (before : List Word) : Word :=
  narrow14 (filterSum b before true (partRe u * 2 ^ 14, partIm u * 2 ^ 14))

/-- Chip n of the up-sweep of value k, or of a down-sweep, in Q1.15. -/
def chipWord (sf k n : Nat) : Word := cwordOf (q15Of (upSweep sf k (2 * n)))
def downChip (sf n : Nat) : Word := cwordOf (q15Of (downSweep sf (2 * n)))

/-- The chips of a decided symbol: a down-sweep's where it is one of the two. -/
def decidedChips (sf sym value : Nat) : List Word :=
  (upTo (chipsOf sf)).map fun n => if sym = 16 ∨ sym = 17 then downChip sf n else chipWord sf value n

/-- The 12 chips before chip n: of this symbol's decisions d, and before them of the last symbol's. -/
def chipsBefore (last d : List Word) (n : Nat) : List Word :=
  (upTo 12).map fun i => if i < n then d.getD (n - 1 - i) 0 else last.getD (last.length + n - 1 - i) 0

/-- |x|² of a word. -/
def wordPower (w : Word) : Int := partRe w * partRe w + partIm w * partIm w

/-- The update of the master taps at one chip: e, nrm with 30 fraction bits, the step factor q and shift h that the program forms of them (free,
log 42), TUPD's arithmetic. -/
def chipUpdate (muShift : Nat) (xs before : List Word) (d y : Word) (taps : List Tap × List Tap) : List Tap × List Tap :=
  let e := packParts (satInt 16 (partRe d - partRe y)) (satInt 16 (partIm d - partIm y))
  let nrm : Int := 2 ^ 10 + (xs.map wordPower).foldl (· + ·) 0 + (before.map wordPower).foldl (· + ·) 0
  let (q, h) := Config.stepFactor e nrm muShift
  let step (neg : Bool) (p : Tap × Word) : Tap := tapOfParts (tapUpdate p.2 q (h.toNat % 48) neg (tapParts p.1)).1
  ((taps.1.zip xs).map (step false), (taps.2.zip before).map (step true))

/-- The dechirped output at chip rate: the bin of the largest power of an N-point transform. -/
def chipBin (sf : Nat) (ys : List Word) (j : Nat) : CInt :=
  CInt.sum (ys.zipIdx.map fun e => (cintOf e.1).mul (unitTurn (-(sweepTurn sf 0 (2 * e.2)) - 8 * j * e.2) (8 * chipsOf sf)))
def chipPowers (sf : Nat) (ys : List Word) : List Nat := (upTo (chipsOf sf)).map fun j => (chipBin sf ys j).norm

/-- The last symbol's chips. -/
def lastChips (q : Reception) (s : Nat) : List Word :=
  if s = 0 then List.replicate 12 0
  else decidedChips q.det.order (s - 1) (((q.symbols.find? fun e => e.1 = s - 1).map (·.2)).getD 0)

/-- Pass 1 and pass 2 of a symbol: the output y, after the decision k1 of the dechirped u, or after the known preamble. -/
def equalise (y : ChanSt) (q : Reception) (e : Equaliser) (s : Nat) : List Word :=
  let sf := q.det.order
  let us := (upTo (chipsOf sf)).map fun n => feedForward e.f (chipInputs y q s n)
  let k1 := if s < 16 then 0 else argMax (chipPowers sf us)
  let d := decidedChips sf 0 k1
  us.zipIdx.map fun u => feedBack e.b u.1 (chipsBefore (lastChips q s) d u.2)

/-- The masters after a symbol decided as k: chips that are erased take no part. -/
def adaptOver (y : ChanSt) (q : Reception) (s k : Nat) (ys : List Word) (taps : List Tap × List Tap) : List Tap × List Tap :=
  let d := decidedChips q.det.order 0 k
  (upTo (chipsOf q.det.order)).foldl (fun t (n : Nat) =>
    if combinedErased y q (symbolStart q s + ((2 * n : Nat) : Int)) || combinedErased y q (symbolStart q s + ((2 * n + 1 : Nat) : Int)) then t
    else chipUpdate q.record.muShift.toNat (chipInputs y q s n) (chipsBefore (lastChips q s) d n) (d.getD n 0) (ys.getD n 0) t) taps

/-! ## LLRs (04 R107) -/

/-- The largest score of the peaks whose value has bit `j` as asked, the rest score where none has. -/
def bestScore (x : PeakScores) (j : Nat) (one : Bool) : Int :=
  ((x.peaks.filter fun p => (ungray 16 p.1).testBit j == one).foldl (fun (a : Option Int) p => match a with
    | none => some p.2.toInt
    | some b => some (max b p.2.toInt)) none).getD x.rest.toInt

/-- The LLR of bit position p, counted from the most significant of sf bits. -/
def symbolLlr (sf : Nat) (x : PeakScores) (p : Nat) : Int :=
  clampInt (-127) 127 (bestScore x (sf - 1 - p) false - bestScore x (sf - 1 - p) true)

/-- The LLRs of symbol s of S go to their positions, scrambling undone. -/
def placeLlrs (base sf count s cInit : Nat) (x : PeakScores) (t : Table Byte) : Table Byte :=
  let g := goldSeq cInit (sf * count)
  (upTo sf).foldl (fun t p =>
    let l := symbolLlr sf x p
    t.set 0 (base + p * count + s) (BitVec.ofInt 8 (if g.getD (p * count + s) false then -l else l))) t

/-- The block that placed LLRs hold, decoded by the layered schedule with a scaling table for at most 20 iterations: iterations, whether the
CRC16 passes, the information bits (04 R108). -/
def sweepDecoded (c : Code38) (table : List Byte) (base e : Nat) (t : Table Byte) : Nat × Bool × List Bool :=
  let soft := c.placed c.n 0 1 ((upTo e).map fun i => (t.get 0 (base + i)).toInt)
  let (it, bits) := c.decode (.scaled table) 20 soft
  (it, crcPasses 16 crc16 bits, bits.take c.a)

end Sys2Proof.Machine
end

