-- ==== Sys2Proof/Machine/Sweep.lean ====
section
/-! DEFINITION. The sweep link: channels, samples, receptions, symbols, decoding, contexts, acknowledgements, results (04). -/
namespace Sys2Proof.Machine

/-! ## Configuration (04 R97) -/

def sweepRecOk (chan : Nat) (r : SweepRec) : Bool :=
  let within (lo hi n : Nat) : Bool := decide (lo ≤ n ∧ n ≤ hi)
  decide (chan ≤ 3) && within 0 3 r.bw.toNat && r.orderMask != 0 && (r.orderMask &&& 0x3F) == 0 && within 1 16 r.nRx.toNat &&
  within 0 1 r.eqMode.toNat && within 2 10 r.muShift.toNat && within 0 7 r.resultPort.toNat &&
  within 30000000 4000000000 r.carrierHz.toNat && within 1 4095 r.netId.toNat && within 100 5000 r.rxDelayMs.toNat &&
  within 0 60 r.dlBackoff.toNat && within 10 1000 r.holdPpmX100.toNat && r.maskRsvd == 0 && r.rsvd17 == 0 && r.rsvd1a == 0

/-- A record takes effect for preambles detected from now on, one that changes n_rx at the frame boundary (05 R141). The sweep engine is on while a
channel is configured (21 R458). -/
def sweepConfigBody (chan : Nat) (r : SweepRec) (s : State) : State × Answer :=
  if !sweepRecOk chan r then (s, .err Code.cfgRange)
  else if s.rst.heldRadio ∨ s.rst.held.contains 116 then (s, .err Code.cfgCapacity)
  else
    let x := s.chan chan
    let changed : Bool := match x.cfg with | some o => o.nRx != r.nRx | none => false
    ((s.setChan chan (if changed then { x with pending := some r } else { x with cfg := some r, pending := none })).wakeDomain 116, .ok)

def execSweepConfig (h : QcpHdr) (chan : Byte) (r : SweepRec) (s : State) : Host.Outcome State Fault Refusal :=
  .next (serve s h { role := .operate, legal := [.running] } (sweepConfigBody chan.toNat r))

/-- At a frame boundary, a record that changes the shape takes effect, and the channel's adaptation set goes to OFF. -/
def chanBoundary (chan : Nat) (s : State) : State :=
  let x := s.chan chan
  match x.pending with
  | some r => (s.setChan chan { x with cfg := some r, pending := none }).shapeOff (8 + chan)
  | none => s

/-! ## Endpoint contexts (04 R109) -/

/-- A context bound anew starts over: whether its values and its queued item stay is not stated (DESIGN CHOICE, log 107). -/
def sweepCtxBody (ctx : Nat) (addr : Word) (chan : Nat) (s : State) : State × Answer :=
  if 32767 < ctx ∨ 3 < chan ∨ addr = 0 ∨ addr = 0xFFFFFFFF then (s, .err Code.msgRange)
  else (s.setCtx ctx { EndCtx.init with bound := true, addr, channel := Fin.ofNat 4 chan }, .ok)

def execSweepCtx (h : QcpHdr) (ctx : Half) (addr : Word) (chan : Byte) (s : State) : Host.Outcome State Fault Refusal :=
  .next (serve s h { role := .operate, legal := [.running] } (sweepCtxBody ctx.toNat addr chan.toNat))

/-- The context that holds an address, the lowest of several. -/
def State.ctxOf (s : State) (addr : Word) : Option Nat :=
  (s.sweep.ctxs.entries.find? fun e => e.2.bound && e.2.addr == addr).map (·.1)

/-- A queued downlink item of 0 to 32 bytes replaces the one before. -/
def sweepItem (addr : Word) (item : List Byte) (s : State) : State :=
  match s.ctxOf addr with
  | some n => if item.length ≤ 32 then s.setCtx n { (s.ctx n) with item := some item } else s
  | none => s

def execSweepDownlinkItem (addr : Word) (item : List Byte) (s : State) : Host.Outcome State Fault Refusal :=
  .next (sweepItem addr item s)

/-! ## Samples (04 R95, R96) -/

/-- Samples a second of a channel: 2B. -/
def sampleRate (r : SweepRec) : Nat := 2 * bandOf r

/-- Device time of a sample, in ns. -/
def sampleNs (r : SweepRec) (n : Nat) : Nat := n * 1000000000 / sampleRate r

/-- The full second whose low 16 bits a section names, the one nearest to now (DEDUCED, log 72). -/
def secondOf (now lo : Nat) : Nat :=
  let base := now / 65536 * 65536 + lo
  if now + 32768 < base ∧ 65536 ≤ base then base - 65536 else if base + 32768 ≤ now then base + 65536 else base

/-- A sample of a group with one exponent, 12-bit mantissas (02 R35). -/
def bfpSample (e : BitVec 4) (x : Cplx16) : Cplx16 :=
  let one (m : Half) : Half := BitVec.ofInt 16 (satInt 16 (signedOf 12 m.toNat * 2 ^ e.toNat))
  { re := one x.re, im := one x.im }

def sectionSamples (x : SweepSamples) : List Cplx16 :=
  match x with
  | .plain xs => xs
  | .bfp gs => gs.flatMap fun g => g.2.map (bfpSample g.1)

/-- A sample received twice keeps its first value (DEDUCED, log 72). -/
def putSample (stream first : Nat) (t : Table (Option SampleSt)) (e : Cplx16 × Nat) : Table (Option SampleSt) :=
  let k := sampleKey stream (first + e.2)
  if (t.get none k).isSome then t else t.set none k (some { value := e.1, erased := false })

/-- The channel and stream of an eAxC. -/
def State.chanOf (s : State) (eaxc : Nat) : Option (Nat × SweepRec × Nat) :=
  (upTo 4).findSome? fun c => match (s.chan c).cfg with
    | some r => if r.ulEaxcBase.toNat ≤ eaxc ∧ eaxc < r.ulEaxcBase.toNat + r.nRx.toNat then some (c, r, eaxc - r.ulEaxcBase.toNat) else none
    | none => none

/-- Has a section the values of 04 Table 2 and the channel's bandwidth? Another is not placed (DESIGN CHOICE, log 104); no rule checks seq_id. -/
def sectionOk (r : SweepRec) (x : SweepSection) : Bool :=
  decide (x.sample.toNat < sampleRate r ∧ 1 ≤ x.count.toNat ∧ x.count.toNat ≤ 1024) && x.bwCode.toNat == r.bw.toNat && x.flagsRsvd == 0 && x.rsvd0c == 0

def sweepSection (x : SweepSection) (s : State) : State :=
  match s.chanOf x.eaxc.toNat with
  | none => s
  | some (c, r, stream) =>
    let first := secondOf s.nowSec x.secLo.toNat * sampleRate r + x.sample.toNat
    let xs := (sectionSamples x.samples).take x.count.toNat
    if s.radio.paused ∨ !sectionOk r x then s
    else if sampleNs r first + 2000000 < s.nowNs then s.modChan c fun y => { y with late := bump top32 y.late }
    else s.modChan c fun y => { y with samples := xs.zipIdx.foldl (putSample stream first) y.samples }

def execSweepSection (sec : SweepSection) (s : State) : Host.Outcome State Fault Refusal := .next (sweepSection sec s)

/-- A sample that no section has supplied 2 ms after its time is zero and erased. -/
def eraseSample (c stream n : Nat) (s : State) : State :=
  let y := s.chan c
  match y.cfg with
  | some r =>
    if stream < r.nRx.toNat ∧ (y.samples.get none (sampleKey stream n)).isNone ∧ sampleNs r n + 2000000 ≤ s.nowNs then
      s.setChan c { y with samples := y.samples.set none (sampleKey stream n) (some { value := ⟨0, 0⟩, erased := true }) }
    else s
  | none => s

def execSweepSampleErase (chan : ChanId) (stream : Fin 16) (time : Nat) (s : State) : Host.Outcome State Fault Refusal :=
  .next (eraseSample chan.val stream.val time s)

/-! ## Detection (04 R99–R104) -/

/-- The version in force for a channel; in a replay the recorded one. -/
def State.sweepVersion (s : State) (c : Nat) (r : SweepRec) : Word :=
  match s.capture.replay with
  | some p => ((p.versions.find? (·.1 = 8 + c)).map (·.2)).getD 0
  | none =>
    let a := s.aset (8 + c)
    match (storeOf a).find? fun v => a.active == some v.number with
    | some v => if v.nRx = r.nRx.toNat then v.number else 0
    | none => 0

/-- Does a standing entry of the table in force give the detector its tiles (04 R100; log 106)? -/
def State.detectorPlace (s : State) : Bool :=
  match s.sched.table with
  | some t => s.tableRuns && t.entries.any fun e => e.kind == 1
  | none => false

/-- A window of 2N samples, on the grid of N/2, dechirped and transformed: its 8 largest peaks go to the detector (04 R99, R100). -/
def searchWindow (s : State) (c order start : Nat) (dn : Bool) (r : SweepRec) : SweepWin :=
  let y := s.chan c
  let ws : List (Nat → CInt) := (upTo r.nRx.toNat).map fun k n => cplxInt (sampleValue y k ((start + n : Nat) : Int))
  let ps := binPowers order dn ws
  let peaks := peaksOf ps
  let found := if s.detectorPlace then
      Config.sweepSearch (s.weightsOf (8 + c) (s.sweepVersion c r)) (detectorTensor order dn ws peaks) (Config.noiseFloor ps) else []
  { order, start, dn, peaks := peaks.zipIdx.map fun e => (e.1, ps.getD e.1 0, (found.getD e.2 (false, 0)).1, (found.getD e.2 (false, 0)).2) }

/-- Windows that a channel keeps for the search. -/
def windowsKept : Nat := 4096

def sweepWindow (c order start : Nat) (dn : Bool) (s : State) : State :=
  let y := s.chan c
  match y.cfg with
  | some r =>
    if s.radio.paused ∨ order < 6 ∨ !r.orderMask.getLsbD order ∨ start % (chipsOf order / 2) ≠ 0 ∨
        !samplesIn y r.nRx.toNat start (2 * chipsOf order) then s
    else
      let w := searchWindow s c order start dn r
      s.setChan c { y with windows := (w :: y.windows).take windowsKept, lastPeaks := w.peaks.map (·.1) }
  | none => s

def execSweepWindow (chan : ChanId) (order : Fin 16) (start : Nat) (dn : Bool) (s : State) : Host.Outcome State Fault Refusal :=
  .next (sweepWindow chan.val order.val start dn s)

/-- The peak that a window's detector found at a bin: its power and its place in 1/256 of a bin, signed, in (−N/2, N/2]. -/
def foundPeak (y : ChanSt) (order start bin : Nat) (dn : Bool) : Option (Nat × Int) :=
  match y.windows.find? fun w => w.order == order && w.start == start && w.dn == dn with
  | some w => (w.peaks.find? fun p => p.1 == bin && p.2.2.1).map fun p =>
      (p.2.1, (if 2 * bin ≤ chipsOf order then (bin : Int) else (bin : Int) - (chipsOf order : Int)) * 256 + p.2.2.2)
  | none => none

/-- The mean of bins: exact where it is a whole number of 1/256, else of a rounding that is not stated (free, log 91). -/
def meanBin (l : List Int) : Int :=
  let sum := l.foldl (· + ·) 0
  let n : Nat := max 1 l.length
  if sum % (n : Int) = 0 then sum / (n : Int) else Config.rounded 12 sum n

/-- The criterion of 04 R101: presence at one bin in the 4 windows before `down`, one symbol apart, and in the two windows of the down-sweep pair. -/
def detectionAt (y : ChanSt) (order down bin dnBin : Nat) : Option Detection :=
  let len := 2 * chipsOf order
  let ups := (upTo 4).filterMap fun i => if 4 * len ≤ down then foundPeak y order (down - 4 * len + i * len) bin false else none
  let downs := (upTo 2).filterMap fun i => foundPeak y order (down + i * len) dnBin true
  if ups.length = 4 ∧ downs.length = 2 then
    some { order, bUp := meanBin (ups.map (·.2)), bDn := meanBin (downs.map (·.2)), power := (ups.map (·.1)).foldl (· + ·) 0 }
  else none

/-- Do two detections lie within 2 bins at one order? -/
def sameDetection (a b : Detection) : Bool :=
  a.order == b.order && decide ((a.bUp - b.bUp).natAbs ≤ 512 ∧ (a.bDn - b.bDn).natAbs ≤ 512)

/-- The CSP of the mask with the least load, the lowest of equal ones; it equalises a channel's reception if it has capacity left. -/
def State.chooseCsp (s : State) (r : SweepRec) : Option Nat :=
  (((upTo 12).filter fun c => r.cspMask.getLsbD c).foldl
    (fun a c => match a with | none => some c | some b => if s.cspLoad c < s.cspLoad b then some c else some b) none).filter
    fun c => decide (s.cspLoad c + bandOf r ≤ s.cspLimit c)

def tapOne : Tap := { re := 0x40000000, im := 0 }
def tapZero : Tap := { re := 0, im := 0 }

/-- The taps at the start of a reception (04 R106). -/
def startTaps (csp : Nat) : Equaliser :=
  { csp, f := (List.replicate 24 tapZero).set 11 tapOne, b := List.replicate 12 tapZero, next := [] }

/-- A reception of a detection whose down-sweep windows begin at `down`: offsets, start, combining weights, CSP. -/
def newReception (c : Nat) (r : SweepRec) (d : Detection) (down : Nat) (s : State) : Reception :=
  let csp := if r.eqMode = 0 ∧ 160 * bandOf r ≤ 2 ^ d.order * 1000000 then s.chooseCsp r else none
  -- the frame begins 16 symbols before the down-sweeps, and 2 samples a chip of timing offset later
  let at256 : Int := ((down : Int) - (16 * 2 * chipsOf d.order : Nat)) * 256 + (d.bDn - d.bUp)
  let q : Reception :=
    { id := (s.chan c).nextId, admitted := s.nowNs, record := r, det := d, freqBins := d.bUp + d.bDn, timing := d.bDn - d.bUp,
      startSample := Int.fdiv at256 256, startFrac := (Int.fmod at256 256).toNat, mrc := [], peaks := [], eq := csp.map startTaps,
      unequalised := csp.isNone, symbols := [], scores := [], inputs := [], llrs := .empty, header := none, ctx := none, duplicate := false,
      version := s.sweepVersion c r, bank := none }
  let y := s.chan c
  let peaks := (upTo r.nRx.toNat).map fun k =>
    CInt.sum ((upTo 16).map fun m => dechirpBin d.order false (streamWindow y q m k) 0)
  { q with mrc := Config.mrcWeights (peaks.map cpair) }

/-- The bin that an identity symbol of a reception shows, and whether it lies within N/128 of its value. -/
def identityBin (y : ChanSt) (q : Reception) (m : Nat) : Nat := argMax (binPowers q.det.order false [combinedWindow y q m])
def identityNear (sf bin value : Nat) : Bool :=
  let n := chipsOf sf
  let d := (bin + n - value % n) % n
  decide (128 * min d (n - d) ≤ n)
def identityOk (y : ChanSt) (q : Reception) : Bool :=
  let (i, j) := identityValues q.det.order q.record.netId.toNat
  identityNear q.det.order (identityBin y q 18) i && identityNear q.det.order (identityBin y q 19) j

/-- A reception that has begun ends where its identity word does not match (04 R101). -/
def checkIdentity (c : Nat) (q : Reception) (s : State) : State :=
  if identityOk (s.chan c) q then s
  else s.modChan c fun y => { y with recep := y.recep.filter fun p => p.id ≠ q.id, netidMismatch := bump top32 y.netidMismatch }

/-- A reception leaves: a code block of it that waits in a bank's queue leaves too. -/
def State.unqueue (s : State) (q : Reception) : State :=
  match q.bank with
  | some b => let x := s.bank b; s.setBank b { x with now := x.now - 1, sweep := x.sweep - 1 }
  | none => s

/-- A detection starts a reception once the samples of its identity word have come; the same one again keeps the stronger, and beyond 256
receptions it is dropped (04 R101, R102). -/
def receptionStart (c order down bin dnBin : Nat) (s : State) : State :=
  let y := s.chan c
  match y.cfg, detectionAt y order down bin dnBin with
  | some r, some d =>
    if s.radio.paused ∨ 15 < order ∨ !r.orderMask.getLsbD order then s
    else
      let q := newReception c r d down s
      if !symbolReadable y q 19 then s
      else match y.recep.find? fun p => sameDetection p.det d with
        | some p =>
          if p.det.power < d.power then
            let s0 := s.setChan c { y with recep := y.recep.filter fun x => x.id ≠ p.id }
            let n := { (newReception c r d down s0) with id := p.id }
            checkIdentity c n ((s.setChan c { y with recep := y.recep.map fun x => if x.id = p.id then n else x }).unqueue p)
          else s
        | none =>
          if 256 ≤ y.recep.length then s.setChan c { y with overflow := bump top32 y.overflow }
          else checkIdentity c q (s.setChan c { y with recep := y.recep ++ [q], nextId := y.nextId + 1 })
  | _, _ => s

def execSweepReceptionStart (chan : ChanId) (order : Fin 16) (down bin dnBin : Nat) (s : State) : Host.Outcome State Fault Refusal :=
  .next (receptionStart chan.val order.val down bin dnBin s)

/-! ## Symbols (04 R89–R93, R106, R107) -/

/-- The taps over a symbol decided as k: its update takes effect two symbols on; the down-sweeps adapt nothing (DEDUCED, log 103). -/
def adaptTaps (y : ChanSt) (q : Reception) (e : Equaliser) (s k : Nat) (ys : List Word) : Equaliser :=
  if s = 16 ∨ s = 17 then e
  else
    let new := adaptOver y q s k ys ((e.next.getLast?).getD (e.f, e.b))
    match e.next with
    | [] => { e with next := [new] }
    | (f, b) :: r => { e with f, b, next := r ++ [new] }

/-- What the sweep engine makes of symbol s: its powers, and what the detector gets. -/
def symbolSpectrum (y : ChanSt) (q : Reception) (ys : Option (List Word)) (s : Nat) : List Nat × List Half :=
  let sf := q.det.order
  match ys with
  | some l =>
    let ps := chipPowers sf l
    (ps, Config.peakTensor sf ((peaksOf ps).flatMap fun k => (upTo 16).flatMap fun i =>
      [cpair (chipBin sf l ((k + chipsOf sf + i - 8) % chipsOf sf)), (0, 0)]))
  | none =>
    let w := combinedWindow y q s
    let ps := binPowers sf false [w]
    (ps, Config.peakTensor sf ((peaksOf ps).flatMap fun k => (upTo 16).flatMap fun i =>
      let e := (binPairs sf false [w] ((k + chipsOf sf + i - 8) % chipsOf sf)).headD (CInt.zero, CInt.zero)
      [cpair e.1, cpair e.2]))

/-- The detector's scores of a symbol. -/
def scoresOf (weights : List Byte) (peaks : List Nat) (tensor : List Half) (floor : Half) : PeakScores :=
  let (marks, rest) := Config.sweepSymbol weights tensor floor
  { peaks := peaks.zipIdx.map fun e => (e.1, marks.getD e.2 0), rest }

/-- A reception after symbol s: equalised, decided, scored, its LLRs placed, its weights tracked (04 R103, R106, R107). Payload LLRs wait for the
header. -/
def symbolAfter (y : ChanSt) (weights : List Byte) (q : Reception) (s : Nat) : Reception :=
  let sf := q.det.order
  let ys := q.eq.map fun e => equalise y q e s
  let (ps, tensor) := symbolSpectrum y q ys s
  let k := if s < 18 then 0 else argMax ps
  let eq := match q.eq, ys with
    | some e, some l => some (adaptTaps y q e s k l)
    | _, _ => q.eq
  if s = 16 ∨ s = 17 then { q with symbols := (s, 0) :: q.symbols, eq }
  else
    let atBin := (upTo q.record.nRx.toNat).map fun n => cpair (dechirpBin sf false (streamWindow y q s n) k)
    let peak := cpair (dechirpBin sf false (combinedWindow y q s) k)
    let floor := Config.noiseFloor ps
    let x := scoresOf weights (peaksOf ps) tensor floor
    let hs := headerSymbols sf
    let llrs :=
      if s < headSymbols then q.llrs
      else if s < headSymbols + hs then placeLlrs 0 sf hs (s - headSymbols) (headerInit q.record.netId.toNat) x q.llrs
      else match q.header with
        | some h => placeLlrs (2 ^ 20) sf (payloadSymbols sf h) (s - headSymbols - hs) (payloadInit h) x q.llrs
        | none => q.llrs
    { q with symbols := (s, k) :: q.symbols, scores := if headSymbols ≤ s then (s, x) :: q.scores else q.scores,
             inputs := if headSymbols ≤ s then (s, tensor, floor) :: q.inputs else q.inputs, llrs, eq,
             mrc := Config.mrcTrack q.mrc atBin, peaks := q.peaks ++ [peak] }

/-- Symbols of a reception's frame, once its header tells. -/
def frameSymbols (q : Reception) : Option Nat :=
  q.header.map fun h => headSymbols + headerSymbols q.det.order + payloadSymbols q.det.order h

/-- A code block joins the queue of the bank with the least queued work, the lowest of equal ones (04 R108). -/
def State.queueSweep (s : State) (c id : Nat) : State :=
  let b := (upTo 4).foldl (fun b k => if (s.bank k).now < (s.bank b).now then k else b) 0
  let x := s.bank b
  let n := min 65535 (x.now + 1)
  (s.setBank b { x with now := n, peak := max x.peak n, sweep := x.sweep + 1 }).modChan c fun y =>
    { y with recep := y.recep.map fun p => if p.id = id then { p with bank := some b } else p }

/-- A block that is complete with the symbols decided so far joins a queue. -/
def State.queueIfDone (s : State) (c id : Nat) (q : Reception) : State :=
  let need := (frameSymbols q).getD (headSymbols + headerSymbols q.det.order)
  if q.bank.isNone ∧ need ≤ q.symbols.length then s.queueSweep c id else s

/-- Symbols are decided in order, each once its samples have come. Source 0 of the equaliser's CSP pends for the input, source 1 for the decision
(10 R234). -/
def symbolDecided (c id sym : Nat) (s : State) : State :=
  let y := s.chan c
  match y.recep.find? (·.id = id) with
  | none => s
  | some q =>
    let beyond : Bool := match frameSymbols q with | some k => decide (k ≤ sym) | none => false
    if sym ≠ q.symbols.length ∨ beyond = true ∨ !symbolReadable y q sym then s
    else
      let q1 := symbolAfter y (s.weightsOf (8 + c) q.version) q sym
      let s1 := s.setChan c { y with recep := y.recep.map fun p => if p.id = id then q1 else p }
      let s2 := match q.eq with | some e => (s1.cspPend e.csp 0).cspPend e.csp 1 | none => s1
      s2.queueIfDone c id q1

def execSweepSymbolDecided (chan : ChanId) (recep sym : Nat) (s : State) : Host.Outcome State Fault Refusal :=
  .next (symbolDecided chan.val recep sym s)

/-! ## Decoding (04 R90, R108, R110) -/

def State.endReception (s : State) (c id : Nat) : State :=
  s.modChan c fun y => { y with recep := y.recep.filter fun p => p.id ≠ id }

/-- May a bank decode a sweep block that waits in its queue: no NR block does (04 R108)? -/
def State.sweepTurn (s : State) (q : Reception) : Option Nat :=
  q.bank.filter fun b => decide ((s.bank b).now ≤ (s.bank b).sweep)

/-- A block of a reception has been decoded by a bank: counted, and out of its queue. -/
def State.sweepCount (s : State) (q : Reception) (b it : Nat) (crc : Bool) : State := (s.bankCount b it crc).unqueue q

/-- Is a frame counter newer by 16-bit serial-number arithmetic? A difference of 32,768, which that leaves open, is not (DESIGN CHOICE, log 108). -/
def newer16 (a b : Half) : Bool := decide (1 ≤ (a - b).toNat ∧ (a - b).toNat < 32768)

/-- LLRs of the payload symbols decided before the header are placed once it tells where. -/
def latePayload (h : SweepHdr) (q : Reception) : Reception :=
  let sf := q.det.order
  let p0 := headSymbols + headerSymbols sf
  let count := payloadSymbols sf h
  { q with llrs := q.scores.foldl (fun t e =>
      if p0 ≤ e.1 ∧ e.1 < p0 + count then placeLlrs (2 ^ 20) sf count (e.1 - p0) (payloadInit h) e.2 t else t) q.llrs }

/-- The scaling table of a reception's weight version. -/
def State.sweepTable (s : State) (c : Nat) (q : Reception) : List Byte := Config.tableOf (s.weightsOf (8 + c) q.version)

/-- A context that has accepted no frame takes any frame counter as new (DESIGN CHOICE, log 108). -/
def isDuplicate (x : EndCtx) (fcnt : Half) : Bool := x.heard && !newer16 fcnt x.ulFcnt

/-- The header's block is decoded: a failure ends the reception, else its context is looked up. -/
def headerDecoded (c id : Nat) (s : State) : State :=
  match (s.chan c).recep.find? (·.id = id) with
  | none => s
  | some q =>
    match q.header, s.sweepTurn q with
    | none, some b =>
      let e := q.det.order * headerSymbols q.det.order
      let (it, crc, bits) := sweepDecoded headerCode (s.sweepTable c q) 0 e q.llrs
      let h := headerOf bits
      let s1 := s.sweepCount q b it crc
      if !crc ∨ !headerOk h then (s1.endReception c id).modChan c fun y => { y with hdrFail := bump top32 y.hdrFail }
      else
        let ctx := s1.ctxOf h.addr
        let dup : Bool := match ctx with | some n => isDuplicate (s1.ctx n) h.fcnt | none => false
        let q1 := latePayload h { q with header := some h, ctx := ctx.map (Fin.ofNat 32768), duplicate := dup, bank := none }
        (s1.modChan c fun y => { y with recep := y.recep.map fun p => if p.id = id then q1 else p }).queueIfDone c id q1
    | _, _ => s

def execSweepHeaderDecoded (chan : ChanId) (recep : Nat) (s : State) : Host.Outcome State Fault Refusal :=
  .next (headerDecoded chan.val recep s)

/-! ## What a reception measures (04 R111, R116) -/

/-- t_end: the device time of the frame's last sample, in ns. -/
def endSample (q : Reception) (count : Nat) : Nat := (q.startSample + symbolStart q count - 1).toNat

/-- Δf, D, RSSI, SNR and t_end of a reception whose frame has `count` symbols. How the first four follow from the peaks is not stated (free). -/
def measured (q : Reception) (count : Nat) : SweepMeasure :=
  let key := (bandOf q.record, q.det.order, q.freqBins)
  let ns := sampleNs q.record (endSample q count)
  { freqX16 := Config.freqTrack key q.peaks, driftX100 := Config.driftTrack key q.peaks, rssi := Config.rssiOf key q.peaks,
    snr := Config.snrOf key q.peaks, endSec := BitVec.ofNat 32 (ns / 1000000000), endNs := BitVec.ofNat 32 (ns % 1000000000) }

/-! ## Correction word and acknowledgement (04 R111, R113, R114) -/

/-- Does motion shift the carrier: do frequency offset and drift differ by more than the hold threshold? -/
def dopplerHold (r : SweepRec) (m : SweepMeasure) : Bool :=
  let c : Int := 16 * r.carrierHz.toNat
  decide ((r.holdPpmX100.toNat : Int) * c < ((m.freqX16 * 100000000 - m.driftX100 * c).natAbs : Int))

/-- The correction word: −rhu(Δf × 10^8 / carrier) in units of 0.01 ppm, 0 under the hold. -/
def corrWord (r : SweepRec) (m : SweepMeasure) : Half :=
  if dopplerHold r m then 0
  else BitVec.ofInt 16 (clampInt (-32768) 32767 (-(rhuDiv (m.freqX16 * 100000000) (16 * r.carrierHz.toNat))))

/-- t_end in ns of device time. -/
def endNsOf (m : SweepMeasure) : Nat := m.endSec.toNat * 1000000000 + m.endNs.toNat

/-- A reservation of transmit time, if one is free. It is held from the decision to the frame's last sample (DESIGN CHOICE, log 109). -/
def reserveAck (c : Nat) (q : Reception) (n : Nat) (fcnt : Half) (m : SweepMeasure) (s : State) : State × Bool :=
  let y := s.chan c
  if s.fated 3 0 c q.id || !s.replaying && decide (16 ≤ y.acks.length) then (s.captureDecision 0 0 c 3 0 q.id, false)
  else
    let a : Ack := { recep := q.id, record := q.record, order := q.det.order, ctx := n, upFcnt := fcnt, corr := corrWord q.record m,
                     again := q.duplicate, hold := dopplerHold q.record m,
                     startNs := endNsOf m + q.record.rxDelayMs.toNat * 1000000, sent := none }
    (s.setChan c { y with acks := y.acks ++ [a] }, true)

/-- A reception with its payload's outcome: the context updated, an acknowledgement reserved; scheduled and dropped marks. -/
def ackDecide (c : Nat) (q : Reception) (h : SweepHdr) (crc : Bool) (m : SweepMeasure) (s : State) : State × Bool × Bool :=
  match q.ctx with
  | none => (s, false, false)
  | some n =>
    let s1 := if !q.duplicate ∧ crc then
        s.setCtx n.val { (s.ctx n.val) with heard := true, ulFcnt := h.fcnt, freq := BitVec.ofInt 32 m.freqX16,
                                            drift := BitVec.ofInt 16 m.driftX100, corr := corrWord q.record m, rssi := m.rssi, snr := m.snr }
      else s
    if h.type = 1 ∧ (crc ∨ q.duplicate) then
      let (s2, ok) := reserveAck c q n.val h.fcnt m s1
      (s2, ok, !ok)
    else (s1, false, false)

/-! ## Results (04 R116; 05 R124, R125, R132, R133) -/

def sweepStatus (q : Reception) (hold sched drop crc : Bool) : Byte :=
  let b (v : Bool) (k : Nat) : Nat := if v then 2 ^ k else 0
  BitVec.ofNat 8 (b q.ctx.isNone 7 + b q.duplicate 6 + b q.unequalised 5 + b hold 4 + b sched 3 + b drop 2 + b crc 0)

def sweepRecord (c : Nat) (q : Reception) (h : SweepHdr) (status : Byte) (crc : Bool) (m : SweepMeasure) : SweepResult :=
  { addr := h.addr, fcnt := h.fcnt, ctx := match q.ctx with | some n => BitVec.ofNat 16 n.val | none => 0xFFFF,
    channel := BitVec.ofNat 8 c, order := BitVec.ofNat 8 q.det.order, status, len := h.len, rssi := m.rssi, snr := m.snr,
    freqOffset := BitVec.ofInt 32 m.freqX16, drift := BitVec.ofInt 16 m.driftX100, corrWord := corrWord q.record m,
    endSec := m.endSec, endNs := m.endNs, version := q.version, payloadOffset := if crc then 48 else 0 }

/-- What the detector got of each of the first 42 payload symbols, 1,024 bytes each (05 Table 2). -/
def detectorInputs (q : Reception) (h : SweepHdr) : List Byte :=
  let p0 := headSymbols + headerSymbols q.det.order
  (upTo (min 42 (payloadSymbols q.det.order h))).flatMap fun i => match q.inputs.find? fun e => e.1 = p0 + i with
    | some e => padTo 1024 (e.2.1.flatMap fun v => leBytes 2 v.toNat)
    | none => List.replicate 1024 0

/-- A reception offered as a sample, labelled by its payload encoded again: due 2 ms after the 50 ms of the result (DEDUCED, log 43). -/
def offerReception (c : Nat) (q : Reception) (h : SweepHdr) (crc : Bool) (m : SweepMeasure) (payload : List Byte) (s : State) : State :=
  let n := 8 + c
  match (s.aset n).cfg with
  | some r =>
    if crc ∧ s.sampling n ∧ shareTest (unitDraw r.seed.toNat (endNsOf m % 2 ^ 64) n 0) r.samplePerMille.toNat then
      s.takeUnit n { kind := 2, version := q.version, stamp := endNsOf m % 2 ^ 64, due := endNsOf m + 52000000,
                     info := [BitVec.ofNat 8 c, BitVec.ofNat 8 q.det.order] ++ leBytes 2 (payloadSymbols q.det.order h),
                     y := detectorInputs q h, x := ((payloadValues q.det.order h payload).take 42).flatMap (leBytes 2), bits := [] }
    else s
  | none => s

/-- Does a reception's payload pass with the weights of another version: its scores, its LLRs, its S (05 R132, R133)? -/
def payloadPass (weights : List Byte) (q : Reception) (h : SweepHdr) : Bool :=
  let sf := q.det.order
  let p0 := headSymbols + headerSymbols sf
  let count := payloadSymbols sf h
  let llrs := q.inputs.foldl (fun t e =>
    if p0 ≤ e.1 ∧ e.1 < p0 + count then
      let peaks := match q.scores.find? fun x => x.1 = e.1 with | some x => x.2.peaks.map (·.1) | none => []
      placeLlrs 0 sf count (e.1 - p0) (payloadInit h) (scoresOf weights peaks e.2.1 e.2.2) t
    else t) Table.empty
  (sweepDecoded (payloadCode h.len.toNat) (Config.tableOf weights) 0 (sf * count) llrs).2.1

/-- A reception picked for shadow is counted with the other version's payload CRC, unless its shadow work is not complete (a free value). -/
def shadowReception (c : Nat) (q : Reception) (h : SweepHdr) (crc : Bool) (m : SweepMeasure) (s : State) : State :=
  let n := 8 + c
  if s.shadowDraw n (endNsOf m) then
    let (v, s1) := s.draw
    if v % 2 = 0 then s1
    else s1.shadowCount n 1 (if crc then 1 else 0) (if payloadPass (s.weightsOf n (s.shadowVersion n)) q h then 1 else 0)
  else s

/-- The payload's block is decoded: context, acknowledgement, result, counts (04 R108–R116). -/
def payloadDecoded (c id : Nat) (s : State) : State :=
  match (s.chan c).recep.find? (·.id = id) with
  | none => s
  | some q =>
    match q.header, s.sweepTurn q with
    | some h, some b =>
      let sf := q.det.order
      let p0 := headSymbols + headerSymbols sf
      let (it, crc, bits) := sweepDecoded (payloadCode h.len.toNat) (s.sweepTable c q) (2 ^ 20) (sf * payloadSymbols sf h) q.llrs
      let m := measured q (p0 + payloadSymbols sf h)
      let s1 := s.sweepCount q b it crc
      let (s2, sched, drop) := ackDecide c q h crc m s1
      let st := sweepStatus q (dopplerHold q.record m) sched drop crc
      let out := if crc then bytesOfBits bits else []
      let s3 := (s2.endReception c id).sendAqmor q.record.resultPort.toNat false (.sweepResult (sweepRecord c q h st crc m) out)
      let s4 := s3.crossChan c fun x =>
        { x with seen := seeOne h.addr.toNat x.seen, n := x.n + 1, failed := x.failed + (if crc then 0 else 1),
                 quality := x.quality + m.snr.toInt, rssi := x.rssi + m.rssi.toInt }
      shadowReception c q h crc m (offerReception c q h crc m out s4)
    | _, _ => s

def execSweepPayloadDecoded (chan : ChanId) (recep : Nat) (s : State) : Host.Outcome State Fault Refusal :=
  .next (payloadDecoded chan.val recep s)

/-- The frame of an acknowledgement, with the context's queued item unless it answers a duplicate. -/
def ackFrame (a : Ack) (x : EndCtx) : SweepHdr × List Byte :=
  let item := if a.again then none else x.item
  let bytes := item.getD []
  let flags : Nat := (if a.again then 2 else 0) + (if a.hold then 1 else 0)
  let body := leBytes 2 a.upFcnt.toNat ++ leBytes 2 a.corr.toNat ++ leBytes 1 flags ++ leBytes 3 0 ++ bytes
  ({ ver := 0, type := if item.isSome then 3 else 2, rate := 0, rsvd := false, len := BitVec.ofNat 8 body.length, addr := x.addr, fcnt := x.dlFcnt }, body)

/-- The sections that carry a downlink frame at 2B (04 R88, R89, R95, R113). -/
def ackSections (a : Ack) (seq : Byte) (h : SweepHdr) (body : List Byte) : List SweepSection :=
  let xs := downSamples a.order a.record.dlBackoff.toNat (frameValues a.order a.record.netId.toNat h body)
  let rate := sampleRate a.record
  cutSections a.record.dlEaxc (BitVec.ofNat 2 a.record.bw.toNat) rate (a.startNs * rate / 1000000000) seq.toNat (ceilDiv xs.length 1024) xs

/-- At t_end + rx_delay_ms the frame goes out on dl_eaxc; its item leaves the queue, the downlink counter moves on. -/
def ackTransmit (c id : Nat) (s : State) : State :=
  let y := s.chan c
  match y.acks.find? fun a => a.recep = id with
  | none => s
  | some a =>
    if a.sent.isSome ∨ s.nowNs + 1000000000 / sampleRate a.record < a.startNs then s
    else
      let x := s.ctx a.ctx
      let (h, body) := ackFrame a x
      let s1 := s.setCtx a.ctx { x with dlFcnt := x.dlFcnt + 1, item := if a.again then x.item else none }
      let count := (18 + 2 + headerSymbols a.order + payloadSymbols a.order h) * 2 * chipsOf a.order
      let s2 := s1.setChan c { y with acks := y.acks.map fun b => if b.recep = id then { b with sent := some body.length } else b,
                                      dlSeq := y.dlSeq + BitVec.ofNat 8 (ceilDiv count 1024) }
      s2.send (Config.fronthaulPort (8 + c)) (.sweepDown (Fin.ofNat 4 c) a.order h body a.startNs a.record.dlBackoff (ackSections a y.dlSeq h body))

def execSweepAckTransmit (chan : ChanId) (recep : Nat) (s : State) : Host.Outcome State Fault Refusal :=
  .next (ackTransmit chan.val recep s)

/-- How long an acknowledgement lasts, in ns: 20 symbols, the header's, and the payload's at rate 1/3. -/
def ackNs (a : Ack) (len : Nat) : Nat :=
  (headSymbols + headerSymbols a.order + codedSymbols a.order 0 len) * 2 ^ a.order * 1000000000 / bandOf a.record

/-- The frame's last sample frees the reservation. -/
def ackComplete (c id : Nat) (s : State) : State :=
  let y := s.chan c
  match y.acks.find? fun a => a.recep = id with
  | none => s
  | some a =>
    match a.sent with
    | some len => if a.startNs + ackNs a len ≤ s.nowNs then s.setChan c { y with acks := y.acks.filter fun b => b.recep ≠ id } else s
    | none => s

def execSweepAckComplete (chan : ChanId) (recep : Nat) (s : State) : Host.Outcome State Fault Refusal :=
  .next (ackComplete chan.val recep s)

end Sys2Proof.Machine
end

