-- ==== Sys2Proof/Machine/Frame.lean ====
section
/-! DEFINITION. The 10 ms frame boundary: what waits for it, in the order that 05 R142 and the chapters give. -/
namespace Sys2Proof.Machine

/-- A control core asked to reload restarts from its image, unless its fabric is held (24 R513). -/
def coreBoundary (c : Nat) (s : State) : State :=
  let x := s.cluster c
  if x.reload ∧ !s.rst.held.contains (96 + c) then s.setCluster c { x with reload := false, core := .image } else s

/-- The berm cell's cluster passes from its ROM to its image with the cell (19 R414). -/
def takeoverCore (s : State) : State :=
  if s.host.takeover ∧ (s.cluster 0).core = .rom then s.setCluster 0 { (s.cluster 0) with core := .image } else s

/-- Radio service resumes after an L3 reset (22 R475). -/
def resumeBoundary (s : State) : State := s.setRadio { s.radio with paused := false }

def State.each (s : State) (n : Nat) (f : Nat → State → State) : State := (upTo n).foldl (fun s i => f i s) s

/-- Configurations first, then the tables and modes that wait for a boundary; what each applies, the later ones see. A log record such as
the tile shares of the frame may follow (19 R427). -/
def frameBoundary (s : State) : State :=
  let s1 := bermBoundary (resumeBoundary s)
  let s2 := ((s1.each 8 cellBoundary).each 4 chanBoundary).each 12 adaptApply
  let s3 := takeoverBoundary (takeoverCore (tableSwitch s2))
  let s4 := (s3.each 12 fun c s => s.setCsp c (cspReload (s.csp c))).each 12 coreBoundary
  let s5 := replayBoundary (captureBoundary (crossStart (laneFrame s4)))
  (s5.setSched { s5.sched with frame := s5.frameNow }).logRecord

def execFrameBoundary (s : State) : Host.Outcome State Fault Refusal := .next (frameBoundary s)

end Sys2Proof.Machine
end

