-- ==== Sys2Proof/Machine/Memory.lean ====
section
/-! DEFINITION. The weight cache's fills, refresh, the patrol scrubber, cluster-cache pages (13 R301–R306). -/
namespace Sys2Proof.Machine

/-- The set a line belongs to: its slice, address bits [13:10], and one of 256 sets of the slice (the index bits PRESUMED to be
those above, log 20). -/
def wcSet (line : Nat) : Nat := line % 4096

/-- The least recently used line of a set that holds 16. -/
def victim (lines : Table (Option WcLine)) (set : Nat) : Option Nat :=
  let own := lines.entries.filter fun e => wcSet e.1 = set && e.2.isSome
  if own.length < 16 then none
  else (own.foldl (fun a e => match a, e.2 with
    | none, some l => some (e.1, l.used)
    | some b, some l => if l.used < b.2 then some (e.1, l.used) else a
    | a, none => a) (none : Option (Nat × Nat))).map (·.1)

/-- The oldest fetch in flight for a line ends: the line stands, tagged with the domain it was fetched for, in place of the least
recently used one of its set. -/
def wcFill (line : Nat) (s : State) : State :=
  let w := s.wcache
  match w.inflight.find? (·.1 = line) with
  | none => s
  | some e =>
    let l0 := w.lines.set none line none
    let l1 := match victim l0 (wcSet line) with
      | some v => l0.set none v none
      | none => l0
    s.setWcache { w with inflight := w.inflight.erase e, lines := l1.set none line (some { domain := e.2, used := s.clock.cycle }) }

def execWcLineFill (line : Nat) (s : State) : Host.Outcome State Fault Refusal := .next (wcFill line s)

/-- A channel refreshes, at double rate while its memory reports more than 85 °C (13 R305, 24 R518). -/
def refresh (c : Nat) (hot : Bool) (s : State) : State :=
  let put (w : Nat) (x : Nat) (k : Nat) : Nat := if x / 2 ^ k % 2 = 1 then (if hot then x else x - 2 ^ k) else if hot then (x + 2 ^ k) % 2 ^ w else x
  if c < 8 then s.setMem { s.mem with hot := BitVec.ofNat 8 (put 8 s.mem.hot.toNat c) }
  else s.setMem { s.mem with hbmHot := BitVec.ofNat 2 (put 2 s.mem.hbmHot.toNat (c - 8)) }

def execMemRefresh (chan : Fin 10) (hot : Bool) (s : State) : Host.Outcome State Fault Refusal := .next (refresh chan.val hot s)

/-- A patrol pass over all installed memory: every unit that cannot be corrected is counted and recorded, and the pass is
dated (13 R306, 24 R518). -/
def patrol (s : State) : State :=
  if s.mem.patrolOn then
    let s1 := s.mem.bad.foldl (fun s u => s.memUe (u * 64)) s
    s1.setMem { s1.mem with patrolSec := s.nowSec % 2 ^ 48 }
  else s

def execPatrolScrubPass (s : State) : Host.Outcome State Fault Refusal := .next (patrol s)

/-- Does a preempted inbound task keep its slots in a page (14 R329)? -/
def State.spillInUse (s : State) (page : Nat) : Bool :=
  s.sched.graphs.any fun g => g.copies.any fun c => c.tasks.any fun t =>
    t.state == .preempted && (match t.spill with | some (p, _) => p == page | none => false)

/-- A page is released: zeroised, LOCKED until then, and free (13 R303). -/
def pageRelease (c p : Nat) (s : State) : State :=
  let cl := s.cluster c
  if (cl.pages.get none p).isNone ∨ s.spillInUse (c * 56 + p) then s
  else s.setCluster c { cl with
    pages := cl.pages.set none p none, cache := cl.cache.clearRange (p * 0x10000) ((p + 1) * 0x10000),
    badWords := cl.badWords.filter fun w => w * 8 / 0x10000 ≠ p }

def execClusterPageRelease (c : ClusterId) (page : Fin 56) (s : State) : Host.Outcome State Fault Refusal :=
  .next (pageRelease c.val page.val s)

end Sys2Proof.Machine
end

