-- ==== Sys2Proof/Machine/Network.lean ====
section
/-! DEFINITION. Frames and links of the network and command ports (01 R21, 23 R485–R491). -/
namespace Sys2Proof.Machine

/-! ## Domains (01 R21) -/

/-- Is an eAxC one of a configured uplink stream, of a cell or of a sweep channel? -/
def State.eaxcKnown (s : State) (e : Nat) : Bool :=
  ((upTo 8).any fun c => match (s.cell c).ul with
    | some u => u.eaxcBase.toNat ≤ e && decide (e < u.eaxcBase.toNat + u.nRx.toNat)
    | none => false) ||
  (upTo 4).any fun c => match (s.chan c).cfg with
    | some r => r.ulEaxcBase.toNat ≤ e && decide (e < r.ulEaxcBase.toNat + r.nRx.toNat)
    | none => false

/-- The domain of a frame, if it has one. -/
def State.frameDomain (s : State) (f : NpFrame) : Option Domain :=
  if f.len < 64 ∨ 9216 < f.len ∨ 2 ≤ f.tags ∨ f.pause then none
  else match f.kind with
    | .ecpri e => if s.eaxcKnown e.toNat then some .radio else none
    | .aqmor g => some (if g.inf then .inference else .radio)
    | .ptp => some .management
    | .other => none

/-! ## Aqmor messages (23 R487–R489) -/

/-- Does a segment keep 23 Table 3? -/
def segOk (g : AqmorSeg) : Bool :=
  let t := g.type.toNat
  let n := g.length.toNat
  g.version == 1 && g.rsvd == 0 && (if g.inf then 7 ≤ t && t ≤ 8 else 1 ≤ t && t ≤ 6) && 1 ≤ n && n ≤ 16777216 &&
  decide (g.offset.toNat + g.data.length ≤ n) && g.first == (g.offset == 0) &&
  g.last == decide (g.offset.toNat + g.data.length = n)

def reasmOf (p : Port) (inf : Bool) : Option Reasm := if inf then p.reasmInf else p.reasmTb
def setReasm (p : Port) (inf : Bool) (r : Option Reasm) : Port := if inf then { p with reasmInf := r } else { p with reasmTb := r }

/-- An incomplete message is discarded and counted. -/
def dropReasm (p : Port) (inf : Bool) : Port := { setReasm p inf none with reasmDrop := bump top32 p.reasmDrop }

/-- A segment in reassembly: the port, and the message where it is now complete. One of another version or without its first is counted as an
incomplete message is (DEDUCED, log 120). -/
def takeSegment (p : Port) (g : AqmorSeg) : Port × Option Reasm :=
  if !segOk g then (dropReasm p g.inf, none)
  else
    let start : Reasm := { seq := g.seq, type := g.type, length := g.length.toNat, got := g.data }
    let (p1, r) := match reasmOf p g.inf with
      | none => if g.first then (p, some start) else (dropReasm p g.inf, none)
      | some r =>
        if g.first then (dropReasm p g.inf, some start)
        else if r.seq = g.seq ∧ r.type = g.type ∧ r.length = g.length.toNat ∧ r.got.length = g.offset.toNat then
          (p, some { r with got := r.got ++ g.data })
        else (dropReasm p g.inf, none)
    match r with
    | none => (p1, none)
    | some r => if r.got.length = r.length then (setReasm p1 g.inf none, some r) else (setReasm p1 g.inf (some r), none)

/-- An inference input message: its rest is written at the device address it begins with, inside the inference domain alone. -/
def State.inferenceInput (s : State) (port : Nat) (r : Reasm) : State :=
  let a := leNat (r.got.take 8)
  let rest := r.got.drop 8
  if r.type ≠ 7 then s
  else if 8 ≤ r.got.length ∧ s.extRange a rest.length ∧ s.domainOk .inference a rest.length then s.extWrite a rest
  else s.modPort port fun p => { p with dropDomain := bump top32 p.dropDomain }

/-- An Aqmor frame: its sender is the peer of its EtherType, its segment is added to its message. What a transport-block message
asks for is the command of its own row. -/
def State.aqmor (s : State) (port : Nat) (sender : List Byte) (g : AqmorSeg) : State :=
  let peer (p : Port) : Port :=
    if !segOk g then p else if g.inf then { p with peerInf := some sender } else { p with peerTb := some sender }
  let (p, r) := takeSegment (peer (s.netPort port)) g
  let s1 := s.setPort port p
  let s2 := if g.inf ∧ segOk g then s1.setNet { s1.net with lastInf := some port } else s1
  match r with
  | some r => if g.inf then s2.inferenceInput port r else s2
  | none => s2

/-- A frame on NP0–NP7: in a replay a live one is discarded (16 R363); one of no domain is dropped; else it is captured. -/
def frameReceive (port : Nat) (f : NpFrame) (s : State) : State :=
  if !(s.netPort port).up ∧ (s.replayEntry 1).isNone then s
  else if s.replaying ∧ !(s.replayEntry 1).any (fun e => e.port == port && e.payload == f.bytes) then s.modPort port fun p => { p with dropReplay := bump top32 p.dropReplay }
  else
    let s := if s.replaying then s.replayTaken else s
    match s.frameDomain f with
    | none => s.modPort port fun p => { p with unclassified := bump top32 p.unclassified }
    | some d =>
      let s1 := s.captureItem 1 port (match d with | .radio => 0 | .inference => 1 | _ => 2) f.bytes
      match f.kind with
      | .aqmor g => s1.aqmor port f.sender g
      | _ => s1

def execNpFrameReceive (port : Fin 8) (f : NpFrame) (s : State) : Host.Outcome State Fault Refusal :=
  .next (frameReceive port.val f s)

/-! ## Links (23 R489, 24 R520) -/

/-- A link is lost: incomplete messages are discarded. -/
def linkLoss (p : Port) : Port :=
  let p1 := if p.reasmTb.isSome then dropReasm p false else p
  let p2 := if p1.reasmInf.isSome then dropReasm p1 true else p1
  { p2 with up := false, fecLock := false, macsec := false }

def execPortLinkLoss (port : Fin 10) (s : State) : Host.Outcome State Fault Refusal := .next (s.modPort port.val linkLoss)

/-- The mode a port runs: its pair's, or 10GBASE-T1. -/
def State.portMode (s : State) (port : Nat) : Nat := if port < 8 then s.net.pairMode.get 0 (port / 2) else 5

def linkUp (port : Nat) (s : State) : State :=
  let m := s.portMode port
  if m = 0 then s else s.modPort port fun p => { p with up := true, fecLock := true, mode := m }

def execPortLinkUp (port : Fin 10) (s : State) : Host.Outcome State Fault Refusal := .next (linkUp port.val s)

/-! ## Command ports (23 R486, R490, R491) -/

/-- The serial number's bytes, most significant first. -/
def serialBytes (s : State) : List Byte := (leBytes 8 s.sec.fuses.serial.toNat).reverse

/-- The MAC address of port `n`. -/
def macOf (s : State) (n : Nat) : List Byte := [0x02, BitVec.ofNat 8 n] ++ (serialBytes s).drop 4

/-- An MKA exchange agrees the keys with a far side that holds the port's own CAK, and with no other; the CKN is the serial and the
port's number. -/
def mkaEnd (port : Nat) (cak : List Byte) (s : State) : State :=
  if (s.netPort (8 + port)).up then
    (s.modPort (8 + port) fun p => { p with macsec := cak == Config.cak port }).emit (.frame (8 + port) (.mka (serialBytes s ++ [BitVec.ofNat 8 port])))
  else s

def execMkaExchange (port : Fin 2) (cak : List Byte) (s : State) : Host.Outcome State Fault Refusal := .next (mkaEnd port.val cak s)

/-- The link-local addresses of a command port. -/
def linkLocal6 (s : State) (n : Nat) : List Byte :=
  let m := macOf s n
  [0xFE, 0x80, 0, 0, 0, 0, 0, 0] ++ ((m.take 1).map (· ^^^ 0x02)) ++ (m.drop 1).take 2 ++ [0xFF, 0xFE] ++ m.drop 3

def linkLocal4 (s : State) : List Byte :=
  let x := s.sec.fuses.serial.toNat
  [169, 254, BitVec.ofNat 8 (1 + x / 256 % 256 % 254), BitVec.ofNat 8 (x % 256)]

/-- An ARP or Neighbour Discovery request for the port's own address is answered. -/
def addressReply (port : Nat) (v6 : Bool) (target : List Byte) (s : State) : State :=
  let own := if v6 then linkLocal6 s (8 + port) else linkLocal4 s
  if (s.netPort (8 + port)).up ∧ target = own then s.emit (.frame (8 + port) (.arp v6 (macOf s (8 + port)) own)) else s

def execArpNdReply (port : Fin 2) (v6 : Bool) (target : List Byte) (s : State) : Host.Outcome State Fault Refusal :=
  .next (addressReply port.val v6 target s)

end Sys2Proof.Machine
end

