-- ==== Sys2Proof/Machine/PoolRun.lean ====
section
/-! DEFINITION. The end of a pooling job (09 R215–R217, 13 R303, 14 R321). -/
namespace Sys2Proof.Machine

/-- The tile that runs or drains a task now. -/
def State.tileOf (s : State) (ref : TaskRef) : Option Nat :=
  (s.tiles.entries.find? fun e => e.2.ref = some ref && (e.2.state = .running || e.2.state = .draining)).map (·.1)

/-- The unit's signal: at 65,535 the status of the submitting task gets sem_sat (09 R214, 14 R321). -/
def State.poolSignal (s : State) (ref : TaskRef) (n : Nat) : State :=
  let (s1, sat) := s.semSignal n
  if sat then s1.modTask ref 0 fun k => { k with semSat := true } else s1

/-- The running job ends: all its rows are written and its semaphore signalled; a stopped one has written a free number of
whole rows and signals nothing; one that met an uncorrectable word raises SP_UE against its task, wherever that stands (09 R215–R217). -/
def poolEnd (c : Nat) (s : State) : State :=
  let cl := s.cluster c
  match cl.poolRun with
  | none => s
  | some p =>
    let idle (s : State) : State := s.setCluster c { (s.cluster c) with poolRun := none }
    match parsePool p.bytes with
    | none => idle s
    | some d =>
      if p.stopped then
        let (k, s1) := s.draw
        idle (s1.poolWrite c d (k % ((poolRows d).length + 1)))
      else if poolUnreadable cl d then
        (match s.tileOf p.ref with
         | some t => ((idle s).voidDrain t).taskFault t (Code.til 0x60) streamSlot false
         | none => (idle s).faultAway p.ref 0 (Code.til 0x60))
      else
        let s1 := idle (s.poolWrite c d (poolRows d).length)
        if d.signalSem = 0xFFFF then s1 else s1.poolSignal p.ref d.signalSem

def execPoolJobComplete (c : ClusterId) (s : State) : Host.Outcome State Fault Refusal := .next (poolEnd c.val s)

end Sys2Proof.Machine
end

