-- ==== Sys2Proof/Machine/Security.lean ====
section
/-! DEFINITION. The security core: regions, boot, fuses, sealed models, quotes, debug unlock (18), crash dumps (19 R429). -/
namespace Sys2Proof.Machine

def adminRow : MsgRow := { role := .admin, legal := [.started, .running] }

/-! ## REGION_SET (18 R385) -/

/-- Memory in use (18 R385): HARQ pools, adaptation regions, record rings, the crossing ring, the twin pool, memory of admitted jobs,
loaded models. -/
def State.usedRanges (s : State) : List (Nat × Nat) :=
  let job (g : Graph) : List (Nat × Nat) :=
    let ds := match g.copies with | c :: _ => c.tasks.map (·.desc) | [] => []
    let b := if g.hdr.batch then some (s.readBatch g.hdr.batchRecord) else none
    (g.dumpAddr, if g.modelSlot.isSome then 2048 + 64 * g.hdr.nTasks else 0) ::
      graphRanges g.header g.hdr ds g.tensors b ++ s.listRanges g.hdr
  let model (k : KeySlot) : (Nat × Nat) := (k.bundle, k.weightArea + 4096 * k.nWeight - k.bundle)
  s.harqPools 8 ++ s.adaptRegions 12 ++ s.capture.rings.map (fun r => (r.base, r.size)) ++
  (match s.sec.crossing.cfg with | some c => [(c.ringBase, 64 + 64 * c.records)] | none => []) ++
  [(s.assured.twinBase, s.assured.twinSize * 0x10000)] ++ s.sched.graphs.flatMap job ++
  (s.sec.slots.values.filterMap id).map model

/-- What of [a, b) lies outside [c, d), as ranges given by start and end. -/
def outside (a b c d : Nat) : List (Nat × Nat) := ([(a, min b c), (max a d, b)]).filter fun r => r.1 < r.2

/-- The byte ranges whose domain a change of an entry alters: those that leave the old one, and those that enter a new one. -/
def altered (r : Region) (domain base size : Nat) : List (Nat × Nat) × List (Nat × Nat) :=
  let m := 2 ^ 20
  let (a, b) := (r.base * m, (r.base + r.size) * m)
  let (c, d) := (base * m, (base + size) * m)
  let was := r.domain.toNat
  let lost := if was = 3 ∨ was = 2 then [] else if domain = was then outside a b c d else if domain = 3 then [(a, b)] else outside a b c d
  let gained := if domain = 3 then []
    else if was = 3 then (if domain = 2 then [] else [(c, d)])
    else if domain = was then (if domain = 2 then [] else outside c d a b)
    else [(c, d)]
  (lost, gained)

/-- Do two ranges, start and length against start and end, meet? -/
def meetsEnd (u : Nat × Nat) (r : Nat × Nat) : Bool := decide (u.1 < r.2 ∧ r.1 < u.1 + u.2)

/-- Entries other than `i` that a range would overlap. -/
def State.overlapsEntry (s : State) (i base size : Nat) : Bool :=
  s.sec.regions.entries.any fun e => e.1 != i && (e.2.domain != 3 || e.2.changing) &&
    decide (base < e.2.base + e.2.size ∧ e.2.base < base + size)

/-- REGION_SET: its checks in order (`rsvd` says whether a reserved field is not 0), then the change: the entry is changing, cache lines of the range are invalidated, and what changes
domain reads as zeros under the new domain's key. -/
def regionSetBody (h : QcpHdr) (i domain base size : Nat) (rsvd : Bool) (s : State) : State × Answer :=
  let r := s.region i
  let m := 2 ^ 20
  let fields := if domain = 3 then base == 0 && size == 0 else decide (base < 2 ^ 28) && between 1 (2 ^ 28 - 1) size
  let (lost, gained) := altered r domain base size
  if 127 < i ∨ 3 < domain ∨ !fields ∨ rsvd then (s, .err Code.msgRange)
  else if r.changing ∨ r.sealed then (s, .err Code.badState)
  else if domain ≠ 3 ∧ !s.extRange (base * m) (size * m) then (s, .err Code.cfgRange)
  else if domain ≠ 3 ∧ s.overlapsEntry i base size then (s, .err Code.cfgRange)
  else if s.usedRanges.any fun u => u.2 != 0 && (lost ++ gained).any (meetsEnd u) then (s, .err Code.badState)
  else
    let new : Region := if domain = 3 then { r with domain := 3, changing := true }
      else { domain := BitVec.ofNat 2 domain, sealed := false, changing := true, base, size }
    let s1 := s.setSec { s.sec with
      regions := s.sec.regions.set Region.init i new, changes := s.sec.changes ++ [{ index := i, hdr := some h }] }
    let s2 := (lost ++ gained).foldl (fun s p => s.extZero p.1 (p.2 - p.1)) s1
    (s2.wcInvalidate (new.base * m) (new.size * m), .later)

def execRegionSet (h : QcpHdr) (index domain : Byte) (rsvd02 : Half) (base size rsvd0c : Word) (s : State) : Host.Outcome State Fault Refusal :=
  .next (serve s h adminRow (regionSetBody h index.toNat domain.toNat base.toNat size.toNat (rsvd02 != 0 || rsvd0c != 0)))

/-- The zeros are written: the changing bit clears, and REGION_SET is answered. -/
def regionZeroised (i : Nat) (s : State) : State :=
  let r := s.region i
  if !r.changing then s
  else
    let new := if r.domain = 3 then Region.init else { r with changing := false }
    let s1 := s.setSec { s.sec with
      regions := s.sec.regions.set Region.init i new, changes := s.sec.changes.filter (·.index ≠ i) }
    match (s.sec.changes.find? (·.index = i)).bind (·.hdr) with
    | some h => s1.reply h false Code.ok .empty
    | none => s1

def execRegionZeroiseComplete (index : Fin 128) (s : State) : Host.Outcome State Fault Refusal := .next (regionZeroised index.val s)

/-! ## LOAD (18 R391, R392, 19 R410, R422) -/

/-- The largest image of each id, in bytes (19 Table 1). -/
def imageLimit (id : Nat) : Nat := [0x100000, 0x80000, 0x400000, 0x40000, 0x100000].getD id 0

/-- A bundle's image table: id, offset, length and hash of its five used entries. -/
def bundleImages (b : List Byte) : List (Nat × Nat × Nat × List Byte) :=
  (upTo 5).map fun i =>
    let e := 0x40 + 64 * i
    (field b e 4, field b (e + 8) 8, field b (e + 16) 8, (b.drop (e + 32)).take 32)

/-- Step 1: kind, image count and image table are well formed; an image too long for its core's memory is not. The used entries come
first (DEDUCED, log 54). -/
def bundleFormOk (b : List Byte) : Bool :=
  let im := bundleImages b
  decide (0x1C00 ≤ b.length) && field b 0 4 == 6 && field b 0xC 4 == 5 && decide (field b 8 4 ≤ 64) &&
  (upTo 5).all (fun id => (im.filter (·.1 == id)).length == 1) &&
  im.all (fun e => aligned 256 e.2.1 && decide (0x1C00 ≤ e.2.1) && decide (e.2.1 + e.2.2.1 ≤ b.length) &&
    decide (e.2.2.1 ≤ imageLimit e.1)) &&
  ((b.drop (0x40 + 320)).take (64 * 11)).all (· == 0)

/-- The checks of R392 in order: the code of the first that fails. -/
def bootFault (f : Fuses) (b : List Byte) : Option Half :=
  let part (o n : Nat) : List Byte := (b.drop o).take n
  let signed := b.take 0xD60
  if !bundleFormOk b then some Code.authFail
  else if field b 0x10 2 ≠ 0x8100 ∨ field b 0x12 1 ≠ 0xB0 then some Code.secStepping
  else if field b 8 4 < f.rollback then some Code.secRollback
  else if Config.sha256 (part 0x440 384) ≠ f.aqRsa ∨ !Config.rsaVerify (part 0x440 384) signed (part 0xD60 384) then some Code.authFail
  else if f.requireMldsa ∧ (Config.sha256 (part 0x5C0 1952) ≠ f.aqMldsa ∨ !Config.mldsaVerify (part 0x5C0 1952) signed (part 0xEE0 3309)) then
    some Code.authFail
  else if (bundleImages b).any fun e => Config.sha256 (part e.2.1 e.2.2.1) != e.2.2.2 then some Code.authFail
  else none

/-- A bundle that passes takes the device to LOADED, port pairs on; a refused one starts nothing and is recorded. -/
def loadBody (offset length : Nat) (s : State) : State × Answer :=
  let b := if offset + length ≤ stagingSize then s.extRead offset length else []
  match bootFault s.sec.fuses b with
  | some c => (s.record Code.secBootFail 0 [c.toNat], .err c)
  | none =>
    let v := field b 4 4
    let hash (id : Nat) : List Byte := (((bundleImages b).find? (·.1 = id)).map (·.2.2.2)).getD []
    let bundle : Bundle := {
      major := v / 65536, minor := v % 65536, security := field b 8 4, measure := Config.sha256 (b.take 0xD60),
      images := (upTo 5).map hash, segSigs := (upTo 4).map (Config.segmentSig b) }
    let s1 := s.setHost { s.host with
      state := .loaded, bundle := some bundle, fwMajor := BitVec.ofNat 8 (v / 65536), fwMinor := BitVec.ofNat 8 (v % 65536) }
    (([127, 128, 129, 130].foldl State.wakeDomain s1).radioStart, .ok)

def execLoad (h : QcpHdr) (offset length : Dword) (s : State) : Host.Outcome State Fault Refusal :=
  .next (serve s h { role := .admin, legal := [.anchor, .berm] } (loadBody offset.toNat length.toNat))

/-! ## Fuses (18 R393, R402, R403, 22 R472, R479) -/

def State.setFuses (s : State) (f : Fuses) : State := s.setSec { s.sec with fuses := f }

/-- ROLLBACK_COMMIT: bits are blown in ascending order, `good` of them; one that does not blow ends the commit. -/
def rollbackBody (good : Nat) (s : State) : State × Answer :=
  let f := s.sec.fuses
  let want := match s.host.bundle with | some b => b.security - f.rollback | none => 0
  if want ≤ good then (s.setFuses { f with rollback := f.rollback + want }, .ok)
  else (s.setFuses { f with rollback := f.rollback + good }, .err Code.secFuseFail)

def execRollbackCommit (h : QcpHdr) (good : Nat) (s : State) : Host.Outcome State Fault Refusal :=
  .next (serve s h { role := .admin, legal := [.running] } (rollbackBody good))

/-- FUSE_WRITE: the fields of 18 Table 6 and 22 R472, R479 that it may write, at the times given there. -/
def fuseWriteBody (x : FuseField) (s : State) : State × Answer :=
  let f := s.sec.fuses
  let o := f.options
  let early := s.sec.lifecycle == .opened
  let bad := (s, Answer.err Code.badState)
  match x with
  | .debugDisabled => (s.setFuses { f with debugDisabled := true }, .ok)
  | .requireMldsa => (s.setFuses { f with requireMldsa := true }, .ok)
  | .opRsa k => if early ∧ f.opRsa.isNone then (s.setFuses { f with opRsa := some k }, .ok) else bad
  | .opMldsa k => if early ∧ f.opMldsa.isNone then (s.setFuses { f with opMldsa := some k }, .ok) else bad
  | .resetMap n c =>
    if early ∧ (o.resetMap.get none n.val).isNone then
      (s.setFuses { f with options := { o with resetMap := o.resetMap.set none n.val (some c) } }, .ok) else bad
  | .bermRecord u d =>
    if early ∧ o.bermRecord.isNone then (s.setFuses { f with options := { o with bermRecord := some (u, d) } }, .ok) else bad
  | .bermControl auto port domain =>
    if !between 24 43 domain.toNat then (s, .err Code.msgRange)
    else if early ∧ !o.bermBlown then
      (s.setFuses { f with options := { o with bermBlown := true, bermAuto := auto, ptpPort := port, ptpDomain := domain } }, .ok) else bad
  | .other _ => bad

def execFuseWrite (h : QcpHdr) (field : FuseField) (s : State) : Host.Outcome State Fault Refusal :=
  .next (serve s h { role := .admin, legal := [.started] } (fuseWriteBody field))

/-- SEAL: accepted once the operator RSA key hash is written; it may be repeated. -/
def sealBody (s : State) : State × Answer :=
  let f := s.sec.fuses
  if f.opRsa.isNone then (s, .err Code.badState)
  else
    let s1 := s.setFuses { f with sealBlown := true }
    (if s.sec.lifecycle = .opened then s1.setSec { s1.sec with lifecycle := .sealed } else s1, .ok)

def execSealFuse (h : QcpHdr) (s : State) : Host.Outcome State Fault Refusal :=
  .next (serve s h { role := .admin, legal := [.started] } sealBody)

/-! ## Sealed models (18 R396–R399) -/

/-- The hash of the device key (18 R394, R390). -/
def deviceKeyHash : List Byte := Config.sha256 Config.deviceModulus

/-- Where a bundle's ciphertext begins: the 4 KiB boundary after its tag table. -/
def chunksAt (nGraph nWeight : Nat) : Nat := ceilDiv (0x700 + 16 * (nGraph + nWeight)) 4096 * 4096

/-- The key slot a bundle would fill, where its header is well formed and genuine: step 3 of R397. -/
def State.modelHeader (s : State) (addr region : Nat) : Option KeySlot :=
  let b := s.extRead addr 0x700
  let part (o n : Nat) : List Byte := (b.drop o).take n
  let ng := field b 4 4
  let nw := field b 8 4
  let np := field b 0xC 4
  let tags := s.extRead (addr + 0x700) (16 * (ng + nw))
  let ports := (upTo np).map fun i =>
    let e := 0x380 + 32 * i
    (field b e 1, field b (e + 1) 1 == 1, field b (e + 2) 2, field b (e + 4) 4)
  let formed := field b 0 4 == 4 && between 1 4096 ng && decide (nw ≤ 4194304) && between 1 16 np &&
    (upTo np).all (fun i => decide (field b (0x380 + 32 * i) 1 ≤ 15) && decide (field b (0x381 + 32 * i) 1 ≤ 1)) &&
    s.inRegion .inference addr (chunksAt ng nw + 4096 * (ng + nw))
  if !formed ∨ part 0x50 32 ≠ deviceKeyHash ∨ part 0x30 32 ≠ Config.sha256 (part 0x200 384) ∨
      !Config.rsaVerify (part 0x200 384) (b.take 0x580 ++ tags) (part 0x580 384) then none
  else (Config.unwrap (part 0x80 384)).map fun k => {
    bundle := addr, nGraph := ng, nWeight := nw, ivPrefix := part 0x70 8, weightArea := addr + chunksAt ng nw + 4096 * ng, region,
    graph := (s.region region).base * 2 ^ 20, bundleId := part 0x10 32, owner := part 0x30 32, ownerMod := part 0x200 384, ports,
    job := none, modelKey := k }

/-- MODEL_LOAD, steps 1 to 3 of R397, and the sealed bit of step 4. The region entry must be a free one of the inference domain,
large enough for the graph; one load runs at a time (DESIGN CHOICE, log 55). -/
def modelLoadBody (h : QcpHdr) (addr region : Nat) (s : State) : State × Answer :=
  let r := s.region region
  let usable := decide (region ≤ 127) && r.domain == 1 && !r.sealed && !r.changing && s.inRegion .inference addr 0x700
  match (upTo 64).find? fun i => (s.sec.slots.get none i).isNone with
  | none => (s, .err (if s.sec.lifecycle = .sealed then Code.secSlotFull else Code.badState))
  | some slot =>
    if s.sec.lifecycle ≠ .sealed ∨ s.sec.loading.isSome then (s, .err Code.badState)
    else if !usable then (s, .err Code.msgRange)
    else match s.modelHeader addr region with
      | none => (s, .err Code.authFail)
      | some k =>
        if r.size * 2 ^ 20 < 4096 * k.nGraph then (s, .err Code.msgRange)
        else (s.setSec { s.sec with
          regions := s.sec.regions.set Region.init region { r with sealed := true },
          loading := some { slot, region, hdr := some h, filled := k } }, .later)

def execModelLoad (h : QcpHdr) (addr : Dword) (region : Byte) (s : State) : Host.Outcome State Fault Refusal :=
  .next (serve s h { role := .operate, legal := [.running] } (modelLoadBody h addr.toNat region.toNat))

/-- The graph section in plaintext, `none` where a chunk's tag fails. -/
def State.openGraph (s : State) (k : KeySlot) : Option (List Byte) :=
  let first := k.bundle + chunksAt k.nGraph k.nWeight
  (upTo k.nGraph).foldl (fun acc i => acc.bind fun bs =>
    (openText k.modelKey (k.ivPrefix ++ leBytes 4 i) k.bundleId
      (s.extRead (first + 4096 * i) 4096 ++ s.extRead (k.bundle + 0x700 + 16 * i) 16)).map (bs ++ ·)) (some [])

/-- The address an offset of the graph section stands for (18 R398). -/
def relocated (k : KeySlot) (v : Nat) : Nat := if v / 2 ^ 47 % 2 = 1 then k.weightArea + v % 2 ^ 47 else k.graph + v % 2 ^ 47

/-- One 64-bit field of the graph section is relocated; one that lies outside the section marks the load as failed. -/
def relocate (k : KeySlot) (hi : Nat) (x : State × Bool) (a : Nat) : State × Bool :=
  if x.2 ∧ k.graph ≤ a ∧ a + 8 ≤ hi then (x.1.extWrite a (leBytes 8 (relocated k (x.1.extNat a 8))), true) else (x.1, false)

/-- Every address field of the graph, then a0 to a7 of every argument block, then s7 of each. -/
def relocateGraph (k : KeySlot) (slot : Nat) (s : State) : State × Bool :=
  let hi := k.graph + 4096 * k.nGraph
  let go (x : State × Bool) (as' : List Nat) : State × Bool := as'.foldl (relocate k hi) x
  let h0 := s.readGraphHdr k.graph
  let x1 := go (s, true) ([0x10, 0x18, 0x20].map (k.graph + ·) ++ (if h0.batch then [k.graph + 0x28] else []))
  let h := x1.1.readGraphHdr k.graph
  let inside := decide (h.taskTable + 128 * h.nTasks ≤ hi) && decide (h.tensorTable + 32 * h.nTensors ≤ hi)
  if !x1.2 ∨ !inside then (x1.1, false)
  else
    let tasks := (upTo h.nTasks).map fun i => h.taskTable + 128 * i
    let x2 := go x1 (tasks.flatMap fun t => [8, 0x10, 0x18, 0x28, 0x38].map (t + ·))
    let x3 := go x2 ((upTo h.nTensors).map fun i => h.tensorTable + 32 * i)
    let x4 := if h.batch then go x3 ([0, 0x10, 0x18].map (h.batchRecord + ·)) else x3
    let args := (tasks.map fun t => x4.1.extNat (t + 0x10) 8).eraseDups
    let x5 := go x4 (args.flatMap fun a => (upTo 8).map fun i => a + 64 + 8 * i)
    if !x5.2 then x5 else (args.foldl (fun s a => s.extWrite (a + 56) (leBytes 8 slot)) x5.1, true)

/-- Does the relocated graph meet R311 to R313, with every port naming a tensor of it: step 5 of R397? -/
def State.modelGraphOk (s : State) (k : KeySlot) : Bool :=
  let h := s.readGraphHdr k.graph
  let ds := (upTo h.nTasks).map fun i => s.readTask (h.taskTable + 128 * i)
  let xs := (upTo h.nTensors).map fun i => s.readTensor (h.tensorTable + 32 * i)
  hdrInRange h && ds.zipIdx.all (fun e => taskInRange h e.2 e.1) && xs.all (tensorInRange h) &&
  (s.readSems h.semList h.nSems).isSome && k.ports.all fun p => decide (p.2.2.1 < h.nTensors)

/-- A region entry is zeroised and its sealed bit cleared. -/
def State.unsealRegion (s : State) (i : Nat) : State :=
  let r := s.region i
  (s.extZero (r.base * 2 ^ 20) (r.size * 2 ^ 20)).setSec { s.sec with
    regions := s.sec.regions.set Region.init i { r with sealed := false } }

/-- Steps 4 and 5 of R397: the graph is decrypted into the entry and relocated; the slot is filled, or the entry zeroised. -/
def modelLoaded (s : State) : State :=
  match s.sec.loading with
  | none => s
  | some l =>
    let s0 := s.setSec { s.sec with loading := none }
    let answer (s : State) (c : Half) (b : ReplyBody) : State := match l.hdr with
      | some h => s.reply h false c b
      | none => s
    match s.openGraph l.filled with
    | none => answer (s0.unsealRegion l.region) Code.authFail .empty
    | some bs =>
      let (s1, ok) := relocateGraph l.filled l.slot (s0.extWrite l.filled.graph bs)
      if ok && s1.modelGraphOk l.filled then
        answer (s1.setSec { s1.sec with slots := s1.sec.slots.set none l.slot (some l.filled) }) Code.ok (.nums [l.slot])
      else answer (s1.unsealRegion l.region) Code.admitRange .empty

def execModelLoadComplete (s : State) : Host.Outcome State Fault Refusal := .next (modelLoaded s)

/-- MODEL_UNLOAD; of an empty slot BAD_STATE as of a bound one (DEDUCED, log 55). -/
def modelUnloadBody (slot : Nat) (s : State) : State × Answer :=
  if 63 < slot then (s, .err Code.msgRange)
  else match s.sec.slots.get none slot with
    | none => (s, .err Code.badState)
    | some k =>
      if k.job.isSome then (s, .err Code.badState)
      else
        let s1 := s.unsealRegion k.region
        (s1.setSec { s1.sec with slots := s1.sec.slots.set none slot none }, .ok)

def execModelUnload (h : QcpHdr) (slot : Byte) (s : State) : Host.Outcome State Fault Refusal :=
  .next (serve s h { role := .operate, legal := [.running] } (modelUnloadBody slot.toNat))

/-! ## QUOTE (18 R400) -/

/-- A byte string cut or padded to a length. -/
def fixed (n : Nat) (b : List Byte) : List Byte := b.take n ++ List.replicate (n - b.length) 0

def quoteBytes (nonce : List Byte) (s : State) : List Byte :=
  let f := s.sec.fuses
  let models := s.sec.slots.entries.filterMap fun e => e.2.map fun k => (e.1, k)
  let model (e : Nat × KeySlot) : List Byte :=
    leBytes 1 e.1 ++ leBytes 1 (boolBit e.2.job.isSome) ++ leBytes 2 0 ++ leBytes 4 ((e.2.job.map (·.toNat)).getD 0) ++ fixed 32 e.2.bundleId ++
    fixed 32 e.2.owner ++ leBytes 8 0
  let images := match s.host.bundle with | some b => b.images | none => []
  leBytes 4 5 ++ leBytes 4 (lifecycleCode s.sec.lifecycle) ++ leBytes 8 f.serial.toNat ++ leBytes 4 0xB0 ++ leBytes 4 f.rollback ++
  leBytes 4 (fieldsAt [(2, boolBit f.debugDisabled), (1, boolBit f.requireMldsa), (0, boolBit f.sealBlown)]) ++
  leBytes 4 models.length ++ fixed 32 nonce ++ fixed 32 ((s.host.bundle.map (·.measure)).getD []) ++ fixed 160 images.flatten ++
  fixed 32 (f.opRsa.getD []) ++ fixed 32 (f.opMldsa.getD []) ++ fixed 384 Config.deviceModulus ++ fixed 384 Config.deviceCertificate ++
  models.flatMap model

def quoteBody (nonce : List Byte) (s : State) : State × Answer :=
  let b := quoteBytes nonce s
  (s, .now Code.ok (.bytes (b ++ fixed 384 (Config.deviceSign b))))

def execQuote (h : QcpHdr) (nonce : List Byte) (s : State) : Host.Outcome State Fault Refusal :=
  .next (serve s h { role := .read, legal := [.loaded, .started, .running] } (quoteBody nonce))

/-! ## Debug unlock (18 R405) -/

/-- DEBUG_CHALLENGE: serial, rollback count and a 32-byte random value. -/
def challengeBody (s : State) : State × Answer :=
  let (v, s1) := s.draw
  let c := leBytes 8 s.sec.fuses.serial.toNat ++ leBytes 8 s.sec.fuses.rollback ++ leBytes 32 v
  (s1.setSec { s1.sec with challenge := some c }, .now Code.ok (.bytes c))

def execDebugChallenge (h : QcpHdr) (s : State) : Host.Outcome State Fault Refusal := .next (serve s h adminRow challengeBody)

/-- Do both parties' signatures over the challenge verify, under the fused key hashes? -/
def unlockOk (f : Fuses) (c : List Byte) (b : UnlockBody) : Bool :=
  Config.sha256 b.aqModulus == f.aqRsa && some (Config.sha256 b.opModulus) == f.opRsa && Config.rsaVerify b.aqModulus c b.aqSig &&
  Config.rsaVerify b.opModulus c b.opSig &&
  (!f.requireMldsa || (Config.sha256 b.aqMldsaKey == f.aqMldsa && some (Config.sha256 b.opMldsaKey) == f.opMldsa &&
    Config.mldsaVerify b.aqMldsaKey c b.aqMldsaSig && Config.mldsaVerify b.opMldsaKey c b.opMldsaSig))

/-- What the device does before it opens the debug port: jobs and services end, tiles, CSPs, caches, radio buffers and contexts are
zeroised, key slots cleared and their regions unsealed, the weight cache invalidated, the XTS keys replaced. -/
def State.debugOpens (s : State) : State :=
  let s1 := s.killAll
  let s2 := { s1 with
    radio := Radio.init, sweep := Sweep.init, adapt := .empty, tiles := s1.tiles.mapTo Tile.init (resetTile s.clock.cycle false),
    csps := s1.csps.mapTo Csp.init resetCsp,
    clusters := s1.clusters.mapTo ClusterSt.init fun c => { ClusterSt.init with core := c.core, reload := c.reload, spillReserved := c.spillReserved },
    sched := { s1.sched with tileTasks := .empty, training := .empty, claims := .empty, entrySlot := .empty, ranOn := [] },
    assured := { s1.assured with running := .empty }, wcache := { s1.wcache with lines := .empty, inflight := [] } }
  let sealed := s2.sec.slots.values.filterMap (fun e => e.map (·.region)) ++ (match s2.sec.loading with | some l => [l.region] | none => [])
  let s3 := sealed.foldl State.unsealRegion s2.radioPower
  s3.setSec { s3.sec with
    slots := .empty, loading := none, keyGen := s3.sec.keyGen + 1, challenge := none, lifecycle := .debug, debugOpen := true }

def unlockBody (b : UnlockBody) (s : State) : State × Answer :=
  if s.sec.fuses.debugDisabled then (s, .err Code.badState)
  else match s.sec.challenge with
    | none => (s, .err Code.authFail)
    | some c => if unlockOk s.sec.fuses c b then (s.debugOpens, .ok) else (s, .err Code.authFail)

def execDebugUnlock (h : QcpHdr) (b : UnlockBody) (s : State) : Host.Outcome State Fault Refusal := .next (serve s h adminRow (unlockBody b))

/-! ## Crash dumps of sealed jobs (19 R429, 06 R164, R165, 13 R297) -/

/-- A stream's state as the save area lays it out (13 Table 4). -/
def streamBytes (x : Tile) (st : StreamSt) : List Byte :=
  let v := savedStream x 0 st
  leBytes 4 (fieldsAt [(31, boolBit v.valid), (30, boolBit v.desc.dirWrite), (0, v.descOff % 2 ^ 21)]) ++ leBytes 3 v.pos ++
  leBytes 1 (fieldsAt [(7, boolBit v.crest.isSome), (6, boolBit (!v.dense.isEmpty))]) ++ leBytes 3 (v.crest.getD 0) ++ leBytes 1 0 ++
  leBytes 4 v.unit ++ leBytes 4 (if v.desc.copy then v.pos else 0) ++ leBytes 2 (ceilDiv ((v.pend.map (·.bits)).sum) 8) ++ leBytes 10 0

/-- The progress record (06 Table 9). -/
def progressBytes (x : Tile) (task : Nat) : List Byte :=
  let b := x.body
  let need := wantedBuffer x b.cur
  let ty (e : Nat) : Nat := match b.accTy.get .unused e with | .unused => 0 | .int48 => 1 | .fp32 => 2 | .complex => 3
  leBytes 4 task ++ leBytes 4 b.cur ++ leBytes 3 ((nextMmac x.bundles 4096 b.regs b.cur).map (fun m => kgroupsOf b m.entry) |>.getD 0) ++
  leBytes 1 (fieldsAt [(7, 1), (6, boolBit b.accSat), (5, boolBit need.isSome), (4, (need.map (·.buf)).getD 0)]) ++
  leBytes 2 (fieldsAt ((upTo 8).map fun e => (2 * e, ty e))) ++ leBytes 2 0 ++ leBytes 8 b.step.toNat ++
  leBytes 4 ((need.map (·.kgroup)).getD 0) ++ leBytes 4 ((need.map fun r => r.descOff + r.elemOff).getD 0) ++ leBytes 224 0

/-- The plaintext of a dump: fault record, status records, s, a and p registers, progress record, stream states, in R429's order; the
fault record's layout is a DESIGN CHOICE (log 56). -/
def dumpPlain (d : Dump) (tasks : List TaskSt) : List Byte :=
  let x := d.tile
  let r := x.body.regs
  leBytes 4 d.task ++ leBytes 2 x.faultCode.toNat ++ leBytes 2 (if x.faultImage then 0xFFFF else x.faultBundle) ++
  leBytes 1 (if x.faultImage then 0xFF else x.faultSlot) ++ leBytes 7 0 ++ tasks.flatMap statusBytes ++
  ((upTo 32).flatMap fun i => leBytes 8 (sReg r i).toNat) ++ ((upTo 16).flatMap fun i => leBytes 8 (aReg r i).toNat) ++
  ((upTo 8).flatMap fun i => leBytes 16 (pReg r i).toNat) ++ progressBytes x d.task ++
  (upTo 8).flatMap fun q => streamBytes x (x.body.streams.get StreamSt.init q)

/-- The dump of a job's faulted task is written, encrypted to the model owner, and DUMP_READY tells its length. -/
def dumpReady (job : Word) (s : State) : State :=
  match s.sched.dumps.find? (·.job = job), s.graph job with
  | some d, some g =>
    (match g.modelSlot.bind fun k => s.sec.slots.get none k.val with
     | none => s
     | some k =>
       let (key, s1) := s.draw
       let (iv, s2) := s1.draw
       let tasks := match g.copies with | c :: _ => c.tasks | [] => []
       let plain := dumpPlain d tasks
       let head := leBytes 4 8 ++ leBytes 4 0 ++ fixed 32 k.bundleId ++ leBytes 4 job.toNat ++ leBytes 4 0 ++
         fixed 384 (Config.wrap k.ownerMod (leBytes 32 key)) ++ leBytes 12 iv ++ leBytes 4 plain.length
       let out := head ++ sealText (leBytes 32 key) (leBytes 12 iv) head plain
       let s3 := s2.extWrite g.dumpAddr out
       let s4 := s3.setSched { s3.sched with dumps := s3.sched.dumps.filter (·.job ≠ job) }
       s4.notify g.session 0x8002 (.nums [job.toNat, out.length]))
  | _, _ => s

def execDumpReady (job : Word) (s : State) : Host.Outcome State Fault Refusal := .next (dumpReady job s)

end Sys2Proof.Machine
end

