-- ==== Sys2Proof/Machine/StreamMove.lean ====
section
/-! DEFINITION. The stream/move slot of a tile's program, and the movement of its streams (11 R250, R251, 13 R284–R293). -/
namespace Sys2Proof.Machine

/-! ## QLD, QCREST, QLIFT, QWAIT -/

/-- Stream `q` as a program names it. -/
def streamOf (b : TileBody) (q : Nat) : StreamSt := b.streams.get StreamSt.init q
def setStream (b : TileBody) (q : Nat) (st : StreamSt) : TileBody := { b with streams := b.streams.set StreamSt.init q st }

/-- A stream loaded with a descriptor: at element 0, without a crest, what was buffered or in flight gone (13 R292). -/
def loadedStream (off : Nat) (d : StreamDesc) : StreamSt :=
  { StreamSt.init with valid := true, descOff := off, desc := d }

/-- QLD: alignment, the descriptor in peek mode, its direction, the checks of R289, the key slot (13 R284, R286, R289, R300). -/
def qldOp (q : Nat) (a : AReg) (s : State) (t : Nat) : OpRes :=
  let x := s.tile t
  let off := windowOff t (aReg x.before.regs a.val).toNat
  if off % 32 ≠ 0 then .fault (Code.til 0x0B)
  else peek x off 128 0x60 fun bytes =>
    let d := parseDesc bytes
    if d.dirWrite ≠ decide (4 ≤ q) then .fault (Code.til 0x06)
    else match s.descFault t d with
      | some c => .fault c
      | none =>
        if s.keyRefused x d then .fault (Code.til 0x74)
        else if unlanded (streamOf x.body q) then .hold .writes
        else if loadingFrom x.body q then .hold (.stream q)
        else .ok (s.modBody t fun b => setStream b q (loadedStream off d))

def execQld (i : Issue) (q : QReg) (a : AReg) (s : State) : Host.Outcome State Fault Refusal :=
  .next (runOp s i .s (qldOp q.val a))

/-- Flights cut to `n` elements in all. -/
def cutFlights : Nat → List Flight → List Flight
  | _, [] => []
  | n, f :: r =>
    if n = 0 then [] else
      let k := min n f.elems.length
      { elems := f.elems.take k, fault := if k < f.elems.length then 0 else f.fault } :: cutFlights (n - k) r

/-- A crest set: elements fetched at or beyond it are discarded, to be fetched again (11 R251, 13 R293). -/
def crestSet (st : StreamSt) (c : Nat) : StreamSt :=
  if c < st.fetched then
    let keep := c - st.pos
    { st with crest := some c, fetched := max st.pos c, buf := st.buf.take keep,
              inflight := cutFlights (keep - st.buf.length) st.inflight }
  else { st with crest := some c }

def qcrestOp (q : Nat) (sr : SReg) (s : State) (t : Nat) : OpRes :=
  let x := s.tile t
  match readCheck x q with
  | some c => .fault c
  | none =>
    let c := (sReg x.before.regs sr.val).toNat
    if 16777215 < c then .fault (Code.til 0x03)
    else .ok (s.modBody t fun b => setStream b q (crestSet (streamOf b q) c))

def execQcrest (i : Issue) (q : QReg) (sr : SReg) (s : State) : Host.Outcome State Fault Refusal :=
  .next (runOp s i .s (qcrestOp q.val sr))

def qliftOp (q : Nat) (s : State) (t : Nat) : OpRes :=
  match readCheck (s.tile t) q with
  | some c => .fault c
  | none => .ok (s.modBody t fun b => setStream b q { streamOf b q with crest := none })

def execQlift (i : Issue) (q : QReg) (s : State) : Host.Outcome State Fault Refusal :=
  .next (runOp s i .s (qliftOp q.val))

/-- Has every write of the stream landed, or every fetch below its length returned (a copy stream's: landed)? -/
def streamDone (q : Nat) (st : StreamSt) : Bool :=
  if 4 ≤ q then !unlanded st
  else if st.desc.copy then decide (st.desc.length ≤ st.pos)
  else decide (st.desc.length ≤ st.pos + st.buf.length)

def qwaitOp (q : Nat) (s : State) (t : Nat) : OpRes :=
  let st := streamOf (s.tile t).body q
  if !st.valid then .fault (Code.til 0x05)
  else if streamDone q st then .ok s
  else .hold (if 4 ≤ q then .writes else .stream q)

def execQwait (i : Issue) (q : QReg) (s : State) : Host.Outcome State Fault Refusal :=
  .next (runOp s i .s (qwaitOp q.val))

/-! ## SLD, SST -/

/-- The scratchpad offset of a + sign-extended off. -/
def wordOff (x : Tile) (t : Nat) (a : AReg) (off : Half) : Nat :=
  windowOff t (aReg x.before.regs a.val + off.signExtend 48).toNat

def sldOp (d : SReg) (a : AReg) (off : Half) (s : State) (t : Nat) : OpRes :=
  let x := s.tile t
  let o := wordOff x t a off
  if o % 8 ≠ 0 then .fault (Code.til 0x0B)
  else peek x o 8 0x60 fun bytes => .ok (s.modRegs t fun r => setS r d.val (BitVec.ofNat 64 (leNat bytes)))

def execSld (i : Issue) (d : SReg) (a : AReg) (off : Half) (s : State) : Host.Outcome State Fault Refusal :=
  .next (runOp s i .s (sldOp d a off))

/-- SST: fill of one word, which closes its slot (12 R272). -/
def sstOp (d : SReg) (a : AReg) (off : Half) (s : State) (t : Nat) : OpRes :=
  let x := s.tile t
  let o := wordOff x t a off
  if o % 8 ≠ 0 then .fault (Code.til 0x0B)
  else if !heldRange x o 8 then .fault (Code.til 0x61)
  else match tagWait x o 8 false with
    | some slot => .hold (.tag slot)
    | none => .ok (s.modBody t fun b =>
        let b1 := spWrite b o (leBytes 8 (sReg x.before.regs d.val).toNat)
        if slotTagged x (o / 256) then setTag b1 (o / 256) true else b1)

def execSst (i : Issue) (d : SReg) (a : AReg) (off : Half) (s : State) : Host.Outcome State Fault Refusal :=
  .next (runOp s i .s (sstOp d a off))

/-! ## Vector moves -/

def vldOp (v : VReg) (q : Nat) (ty : LaneTy) (s : State) (t : Nat) : OpRes :=
  let x := s.tile t
  match readCheck x q with
  | some c => .fault c
  | none =>
    let f := streamFmt x q
    if !(laneReads ty).contains f then .fault (Code.til 0x31)
    else takeElems s t q 128 0x33 false (Code.til 0x75) fun s1 es =>
      .ok (s1.modRegs t fun r => setV r v.val (es.map (widen f ty)))

def execVld (i : Issue) (v : VReg) (q : QReg) (t : LaneTy) (s : State) : Host.Outcome State Fault Refusal :=
  .next (runOp s i .s (vldOp v q.val t))

/-- Lanes narrowed to a stream's storage format. -/
def narrowed (f : Fmt) (ty : LaneTy) (ws : List Word) : List Elem × Raised :=
  let ys := ws.map (narrow f ty)
  (ys.map fun y => { code := y.1, scale := 127 }, ys.foldl (fun a y => a.or y.2) .none)

def vstOp (v : VReg) (q : Nat) (ty : LaneTy) (s : State) (t : Nat) : OpRes :=
  let x := s.tile t
  match writeCheck x q with
  | some c => .fault c
  | none =>
    let f := streamFmt x q
    if !(laneWrites ty).contains f then .fault (Code.til 0x31)
    else
      let (es, fl) := narrowed f ty (vLanes x.before.regs v.val)
      handOver s t q es (Code.til 0x75) false fun s1 => .ok (s1.raise t fl)

def execVst (i : Issue) (v : VReg) (q : QReg) (t : LaneTy) (s : State) : Host.Outcome State Fault Refusal :=
  .next (runOp s i .s (vstOp v q.val t))

def execVbcast (i : Issue) (v : VReg) (sr : SReg) (s : State) : Host.Outcome State Fault Refusal :=
  .next (runOp s i .s fun s t => .ok (s.modRegs t fun r =>
    setV r v.val (List.replicate 128 ((sReg (s.regsAt t) sr.val).setWidth 32))))

def execVmov (i : Issue) (v u : VReg) (s : State) : Host.Outcome State Fault Refusal :=
  .next (runOp s i .s fun s t => .ok (s.modRegs t fun r => setV r v.val (vLanes (s.regsAt t) u.val)))

/-! ## Predicates -/

/-- The value of PSET: all 0, all 1, or lanes below clamp(s, 0, 128), s signed. -/
def psetVal (m : PredSet) (v : Dword) : BitVec 128 :=
  match m with
  | .zeros => 0
  | .ones => BitVec.allOnes 128
  | .upTo => BitVec.ofNat 128 (2 ^ (clampInt 0 128 v.toInt).toNat - 1)

def execPset (i : Issue) (p : PReg) (m : PredSet) (sr : SReg) (s : State) : Host.Outcome State Fault Refusal :=
  .next (runOp s i .s fun s t => .ok (s.modRegs t fun r => setP r p.val (psetVal m (sReg (s.regsAt t) sr.val))))

def predOp (f : PredFn) (x y : BitVec 128) : BitVec 128 :=
  match f with
  | .and => x &&& y
  | .or => x ||| y
  | .xor => x ^^^ y
  | .andNot => x &&& ~~~y

def execPlogic (i : Issue) (p x y : PReg) (f : PredFn) (s : State) : Host.Outcome State Fault Refusal :=
  .next (runOp s i .s fun s t => .ok (s.modRegs t fun r =>
    setP r p.val (predOp f (pReg (s.regsAt t) x.val) (pReg (s.regsAt t) y.val))))

/-- Number of set bits of a predicate. -/
def predCount (p : BitVec 128) : Nat := ((upTo 128).filter p.getLsbD).length

def execPopc (i : Issue) (d : SReg) (p : PReg) (s : State) : Host.Outcome State Fault Refusal :=
  .next (runOp s i .s fun s t => .ok (s.modRegs t fun r =>
    setS r d.val (BitVec.ofNat 64 (predCount (pReg (s.regsAt t) p.val)))))

/-! ## Movement of streams (13 R285, R288, R291) -/

/-- A read stream fetches up to `n` more elements, as buffer room, length, crest and tags let it. -/
def fetchStep (t q n : Nat) (s : State) : State :=
  let x := s.tile t
  let st := streamOf x.body q
  if x.state ≠ .running ∨ 4 ≤ q ∨ !st.valid ∨ st.inflight.any (fun f => f.fault != 0) then s
  else
    let m := min n (fetchRoom x.body st q)
    if m = 0 then s
    else
      let r := s.fetchRun t st.desc m st.fetched
      let got := r.elems.length
      if got = 0 ∧ r.fault = 0 then s
      else
        let s1 := r.st.wcRun t st.desc st.fetched got
        let s2 := if r.fault = 0x0C73 then
          s1.setWcache { s1.wcache with decryptFail := bump top32 s1.wcache.decryptFail } else s1
        let at' := ((elemPlace st.desc (st.fetched + got)).map (·.1)).getD 0
        let s3 := if r.fault = 0x0C78 then s2.memUe at' else s2
        (s3.modBody t fun b => setStream b q { streamOf b q with
          fetched := st.fetched + got, inflight := st.inflight ++ [{ elems := r.elems, fault := r.fault }] }).closeBundle t

def execStreamFetch (tile : TileId) (q : QReg) (n : Nat) (s : State) : Host.Outcome State Fault Refusal :=
  .next (fetchStep tile.val q.val n s)

/-- The oldest fetch returns: its elements enter the buffer, or the ring of a copy stream; a fetch that met a fault faults
the task after what came before it. -/
def fetchBack (t q : Nat) (s : State) : State :=
  let x := s.tile t
  let st := streamOf x.body q
  if x.state ≠ .running then s
  else match st.inflight with
  | [] => s
  | f :: r =>
    let s1 := (s.modBody t fun b => setStream b q { streamOf b q with inflight := r, buf := st.buf ++ f.elems }).closeBundle t
    let s2 := if st.desc.copy then State.ringRun t q (st.buf.length + f.elems.length) s1 else s1
    if f.fault = 0 then s2 else s2.taskFault t (BitVec.ofNat 16 f.fault) streamSlot false

def execFetchReturn (tile : TileId) (q : QReg) (s : State) : Host.Outcome State Fault Refusal :=
  .next (fetchBack tile.val q.val s)

/-- Up to `n` writes of a write stream, or returned elements of a copy stream, land. -/
def landStep (t q n : Nat) (s : State) : State :=
  if 4 ≤ q then State.landRun t q n (s.closeBundle t)
  else if (streamOf (s.body t) q).desc.copy then State.ringRun t q n (s.closeBundle t) else s

def execStreamWriteLand (tile : TileId) (q : QReg) (n : Nat) (s : State) : Host.Outcome State Fault Refusal :=
  .next (landStep tile.val q.val n s)

end Sys2Proof.Machine
end

