-- ==== Sys2Proof/Machine/TestAccess.lean ====
section
/-! DEFINITION. The test access port (23 R499, 18 R404). -/
namespace Sys2Proof.Machine

/-- The instruction register takes a code, and the data register it selects captures a value, which a reader of TDO sees. -/
def State.tap (s : State) (code value : Nat) : State :=
  ({ s with port := { code := BitVec.ofNat 8 code, captured := value } }).emit (.tap value)

/-- BYPASS and every code without a meaning of its own; the bypass register captures 0 (PRESUMED from IEEE 1149.1, log 53). -/
def State.bypass (s : State) : State := s.tap 0xFF 0

/-- The boundary register captures 3,210 cells, which no rule gives values: a free value. -/
def State.boundary (s : State) (code : Nat) : State :=
  let (v, s1) := s.draw
  s1.tap code (v % 2 ^ 3210)

/-- EXTEST, INTEST and CLAMP take effect only in ANCHOR; in any other state they act as BYPASS (18 R404). -/
def State.drives (s : State) (effect : State) : State := if s.host.state = .anchor then effect else s.bypass

def execExtest (s : State) : Host.Outcome State Fault Refusal := .next (s.drives (s.boundary 0x00))

def execIdcode (s : State) : Host.Outcome State Fault Refusal := .next (s.tap 0x01 0x1810054F)

def execSamplePreload (s : State) : Host.Outcome State Fault Refusal := .next (s.boundary 0x02)

def execIntest (s : State) : Host.Outcome State Fault Refusal := .next (s.drives (s.boundary 0x03))

def execClamp (s : State) : Host.Outcome State Fault Refusal := .next (s.drives (s.tap 0x04 0))

def execHighz (s : State) : Host.Outcome State Fault Refusal := .next (s.tap 0x05 0)

/-- RSTREG: 256 bits of the RST block, readable in every lifecycle state. -/
def resetRegister (s : State) : Nat :=
  fieldsAt [(0, rstCause s), (32, rstStatus s), (64, rstHeld s 0), (128, rstHeld s 1), (192, rstHeld s 2)]

def execRstreg (s : State) : Host.Outcome State Fault Refusal := .next (s.tap 0x10 (resetRegister s))

/-- A debug access: refused in SEALED as a violation; what an open port reads is not stated (DESIGN CHOICE, log 53). -/
def debugAccess (code : Nat) (s : State) : State :=
  if s.sec.lifecycle = .sealed ∨ (s.sec.lifecycle = .debug ∧ !s.sec.debugOpen) then s.violation 1
  else
    let (v, s1) := s.draw
    s1.tap (0x20 + code) v

def execDebugAccess (code : Fin 16) (s : State) : Host.Outcome State Fault Refusal := .next (debugAccess code.val s)

def execBypass (s : State) : Host.Outcome State Fault Refusal := .next s.bypass

end Sys2Proof.Machine
end

