-- ==== Sys2Proof/Machine/UlResult.lean ====
section
/-! DEFINITION. Decoding, the results of an uplink slot, its deadline, HARQ write-back, training samples and shadow counts
(02 R46, R50, R58, R59, R65; 05 R124, R125, R133). -/
namespace Sys2Proof.Machine

/-- Is the device, by its own watch, past a slot's deadline? -/
def State.pastDeadline (s : State) (x : UlSlot) : Bool := decide (x.t0 + ulDeadlineNs x.config.mu.toNat < s.nowNs)

/-! ## Decoding (02 R50, 24 R516) -/

/-- Does the guard's classical receiver take a PUSCH of the slot (02 R63)? -/
def guardTakes (x : UlSlot) (i : Nat) : Bool :=
  x.guard && (((classicalTakes x.config.mu.toNat 132 x.pusch)[i]?).map (·.2)).getD false

/-- What the device's other receivers make of a PUSCH on the same grid: the guard's classical one, with the buffer staged for it, and the shadow
version's, on first transmissions (02 R65; 05 R132, R133). -/
def sideDecodes (cell : Nat) (x : UlSlot) (i : Nat) (p : PuschSt) (s : State) : PuschSt :=
  let ps := (received x).map (·.cfg)
  let k := receivedIndex x i
  { p with guardPass := if guardTakes x i then some (passIn .classical x ps k p.cfg p.staged) else none,
           otherPass := if x.shadow && p.firstTx then
               some (passIn (.learned (s.weightsOf cell (s.shadowVersion cell))) x ps k p.cfg []) else none }

/-- A code block ends decoding: satisfied or after ldpc_max_iter iterations; with the last one the transport block is decided. -/
def blockDecoded (cell slot i block : Nat) (s : State) : State :=
  match s.ulSlot cell slot, s.pusch cell slot i with
  | some x, some p =>
    if p.decided ∨ x.closed ∨ p.soft.length ≤ block ∨ (p.cbs.get none block).isSome ∨ (!s.replaying ∧ s.pastDeadline x) then s
    else
      let (it, crc, bits) := decodeBlock (s.receiverOf cell x) x.config p.cfg (p.soft.getD block [])
      let b := x.config.decoderBank.toNat
      let s1 := (s.bankCount b it crc).bankQueue b 0 1
      let q := { p with cbs := p.cbs.set none block (some { crc, bits }), iterations := max p.iterations it }
      if q.cbs.entries.length < (codeOf p.cfg).blocks then s1.modPusch cell slot i fun _ => q
      else
        let pass := transportOk p.cfg (q.cbs.values.filterMap fun c => c.map fun c => (c.crc, c.bits))
        let r := sideDecodes cell x i { q with decided := true, crcPass := pass } s
        (s1.modPusch cell slot i fun _ => r).markTime cell slot 4
  | _, _ => s

def execCodeBlockDecoded (cell : CellId) (slot : AbsSlot) (pusch block : Nat) (s : State) : Host.Outcome State Fault Refusal :=
  .next (blockDecoded cell.val slot.toNat pusch block s)

/-! ## HARQ buffers at the end of a slot (02 R46, steps 3 to 5) -/

/-- The first free pages of a pool, lowest first (the order DESIGN CHOICE, log 35). -/
def freeList (base : Nat) (used : List Nat) : Nat → Nat → Nat → List Nat
  | 0, _, _ => []
  | _, _, 0 => []
  | f + 1, k, n + 1 =>
    if used.contains (base + k * 0x8000) then freeList base used f (k + 1) (n + 1)
    else (base + k * 0x8000) :: freeList base used f (k + 1) n

/-- A failed PUSCH's combined buffer is written back whole, or nothing where the pool lacks pages. -/
def storeHarq (u : UlCell) (cell : Nat) (p : PuschSt) (s : State) : PuschSt × State :=
  let ue := p.cfg.ueCtx.toNat
  let k := p.cfg.harqId.toNat
  let h := s.harq ue k
  let need := p.soft.length - h.pages.length
  let extra := freeList (poolOf u).1 (s.cell cell).pagesUsed u.harqPoolPages.toNat 0 need
  if extra.length < need then ({ p with notStored := true }, s.releaseHarq cell ue k)
  else (p, (s.modCell cell fun c => { c with pagesUsed := extra ++ c.pagesUsed }).setHarq ue k
    { h with pages := h.pages ++ extra, writeback := some p.soft })

/-- HARQ handling of one PUSCH; `pass` is its CRC as R46 takes it. One that was never demapped leaves its process as it was
(DEDUCED, log 36). -/
def endHarq (u : UlCell) (cell : Nat) (pass : Bool) (p : PuschSt) (s : State) : PuschSt × State :=
  if !inHarq p ∨ p.soft.isEmpty then (p, s)
  else if pass then (p, s.releaseHarq cell p.cfg.ueCtx.toNat p.cfg.harqId.toNat)
  else storeHarq u cell p s

def endHarqs (u : UlCell) (cell : Nat) (late : Bool) : List PuschSt → State → List PuschSt × State
  | [], s => ([], s)
  | p :: r, s =>
    let (q, s1) := endHarq u cell (p.crcPass && !late) p s
    let (qs, s2) := endHarqs u cell late r s1
    (q :: qs, s2)

/-- Pages of a written-back process take their code blocks. -/
def State.writePages (s : State) (ps : List Nat) (bs : List (List Byte)) : State :=
  (ps.zip bs).foldl (fun s e => s.extWrite e.1 e.2) s

/-- PUSCHs that waited for a process's write-back start staging (02 R47). -/
def startWaiting (ue h : Nat) (x : UlSlot) : UlSlot :=
  { x with pusch := x.pusch.map fun p =>
      if p.staging = .waiting ∧ p.cfg.ueCtx.toNat = ue ∧ p.cfg.harqId.toNat = h then { p with staging := .started } else p }

def writebackDone (ue h : Nat) (s : State) : State :=
  let p := s.harq ue h
  match p.writeback with
  | none => s
  | some bs =>
    let s1 := (s.writePages p.pages bs).setHarq ue h { p with writeback := none }
    (upTo 8).foldl (fun s c => s.modCell c fun y =>
      { y with ulSlots := y.ulSlots.mapTo none fun e => e.map (startWaiting ue h) }) s1

def execHarqWritebackComplete (ue : Fin 4096) (harq : Fin 16) (s : State) : Host.Outcome State Fault Refusal :=
  .next (writebackDone ue.val harq.val s)

/-! ## The result frame (02 R58, Table 7) -/

/-- The transport block of a passed PUSCH, each byte most significant bit first (DEDUCED, log 37). -/
def payloadBits (p : PuschSt) : List Bool :=
  ((codeOf p.cfg).join (p.cbs.values.filterMap fun c => c.map (·.bits))).take p.cfg.tbsBits.toNat
def payloadOf (p : PuschSt) : List Byte := bytesOfBits (payloadBits p)

def bit' (b : Bool) (k : Nat) : Nat := if b then 2 ^ k else 0

/-- The status byte of a PUSCH. -/
def puschStatus (late : Bool) (p : PuschSt) : Byte :=
  BitVec.ofNat 8 (bit' p.noConfig 7 + bit' (p.classical && inHarq p) 6 + bit' p.noReceiver 5 + bit' p.noDmrs 4 +
    bit' p.notStored 3 + bit' late 2 + bit' p.uciFail 1 + bit' (p.crcPass && !late) 0)

def pucchStatus (late : Bool) (p : PucchSt) : Byte := BitVec.ofNat 8 (bit' p.noConfig 7 + bit' late 2 + bit' p.uciFail 1)

/-- Offsets of byte strings laid one after the other from `a` on, 0 for those absent. -/
def offsets : Nat → List (List Byte) → List Nat
  | _, [] => []
  | a, b :: r => (if b.isEmpty then 0 else a) :: offsets (a + b.length) r

/-- The records and contents of a slot's frame: PUSCHs, then PUCCHs; payloads, then decoded UCI (the places of PUCCH records and
UCI DEDUCED, log 37). -/
def ulFrame (late : Bool) (x : UlSlot) : List UlResult × List (List Byte) :=
  let pays := x.pusch.map fun p => if p.crcPass && !late then payloadOf p else []
  let ucis := (x.pusch.map (·.uci) ++ x.pucch.map (·.uci)).map fun u => if late then [] else u
  let head := 16 + 32 * (x.pusch.length + x.pucch.length)
  let po := offsets head pays
  let uo := offsets (head + (pays.map (·.length)).foldl (· + ·) 0) ucis
  let w (n : Nat) : Word := BitVec.ofNat 32 n
  let recs := x.pusch.zipIdx.map fun (p, i) =>
    ({ rnti := p.cfg.rnti, ueCtx := p.cfg.ueCtx, harqId := p.cfg.harqId, status := puschStatus late p,
       iterations := BitVec.ofNat 8 p.iterations, version := x.version, sinr := p.sinr, timing := p.timing,
       payloadOffset := w (po.getD i 0), uciOffset := w (uo.getD i 0) } : UlResult)
  let crecs := x.pucch.zipIdx.map fun (p, i) =>
    ({ rnti := p.cfg.rnti, ueCtx := p.cfg.ueCtx, harqId := p.harqId, status := pucchStatus late p, iterations := 0,
       version := x.version, sinr := p.sinr, timing := p.timing, payloadOffset := 0,
       uciOffset := w (uo.getD (x.pusch.length + i) 0) } : UlResult)
  (recs ++ crecs, (pays ++ ucis).filter fun b => !b.isEmpty)

/-- What the dike crossing counts of a slot's results (18 Table 2). -/
def crossResults (late : Bool) (x : UlSlot) (c : CrossCount) : CrossCount :=
  let ps := x.pusch.filter inHarq
  let ok := ps.filter fun p => p.crcPass && !late
  let sum (f : PuschSt → Nat) (l : List PuschSt) : Nat := (l.map f).foldl (· + ·) 0
  { c with seen := ok.foldl (fun l p => seeOne p.cfg.rnti.toNat l) c.seen, upBits := c.upBits + sum (·.cfg.tbsBits.toNat) ok,
           upPrbs := c.upPrbs + sum (·.cfg.prbCount.toNat) ps,
           quality := c.quality + (ps.map fun p => p.sinr.toInt).foldl (· + ·) 0, n := c.n + ps.length,
           failed := c.failed + (ps.length - ok.length) }

/-- The frame leaves, the stage times are published, and the slot is closed: its grid leaves the radio buffers. -/
def sendResults (cell slot : Nat) (late : Bool) (x : UlSlot) (s : State) : State :=
  let (recs, bytes) := ulFrame late x
  let times := setAt x.times 5 (s.stageTime x.t0)
  let s1 := s.sendAqmor x.config.resultPort.toNat false (.ulResults (Fin.ofNat 8 cell) x.absSlot recs bytes)
  let s2 := s1.modCell cell fun c =>
    { c with stageA := times.take 4, stageB := times.drop 4, stageSlot := BitVec.ofNat 32 slot }
  (s2.crossCell cell (crossResults late x)).setUlSlot cell slot (some { x with closed := true, times, grid := .empty })

/-! ## Guard counts and samples -/

/-- Transport blocks that only one of the two receivers passed (02 R65). -/
def guardCount (x : UlSlot) (c : CellSt) : CellSt :=
  let only (g : Bool) : Nat := (x.pusch.filter fun p => p.guardPass == some g && p.crcPass != g).length
  { c with guardLoss := bumpBy top32 c.guardLoss (only true), guardGain := bumpBy top32 c.guardGain (only false) }

/-- Is any RE of a 4-PRB block erased? -/
def blockErased (x : UlSlot) (p : Pusch) (b : Nat) : Bool :=
  (upTo x.config.nRx.toNat).any fun k => (upTo p.symCount.toNat).any fun m =>
    (upTo (min 4 (p.prbCount.toNat - 4 * b))).any fun i =>
      !coveredAt x.covers k (p.symStart.toNat + m) (p.prbStart.toNat + 4 * b + i)

/-- The 4-PRB blocks of a slot in their numbering (05 R125). -/
def unitsOf (x : UlSlot) : List (PuschSt × Nat) :=
  x.pusch.flatMap fun p => (upTo (ceilDiv p.cfg.prbCount.toNat 4)).map fun b => (p, b)

/-- The block exponent of a 4-PRB block: the least that brings the estimates of all its work units into INT8 (DEDUCED, log 43). -/
def blockExponent (x : UlSlot) (p : Pusch) (b : Nat) : Nat :=
  unitExponent ((upTo x.config.nRx.toNat).flatMap fun k => (portsOf p).flatMap (unitInput x p b k))

/-- The shape fields of a sample record (05 Table 2; how dmrs_cfg packs them DEDUCED, log 43). -/
def sampleInfo (x : UlSlot) (p : Pusch) (b : Nat) : List Byte :=
  [x.config.mu, x.config.nRx, p.layers, p.qm, p.symStart, p.symCount] ++ leBytes 2 p.dmrsSymMask.toNat ++
  [BitVec.ofNat 8 (p.dmrsType.toNat * 16 + p.cdmGroups.toNat * 4 + bit' p.nscid 1), BitVec.ofNat 8 (blockExponent x p b),
   BitVec.ofNat 8 (bit' p.tp 0)]

/-- Data bits and UCI bits in the places that a plan gives them. -/
def mergePlan : List Nat → List Bool → List Bool → List Bool
  | [], _, _ => []
  | k :: r, d, u => if k = 0 then d.headD false :: mergePlan r d.tail u else u.headD false :: mergePlan r d u.tail

/-- The coded bits of a decoded PUSCH, encoded again for the same rv, with its UCI, scrambled (05 R126). -/
def reencoded (x : UlSlot) (p : PuschSt) : List Bool :=
  let c := p.cfg
  let plan := Config.uciPlan c (codedBits c)
  let data := (codeOf c).coded (ncbOf x.config c) c.rv.toNat (dataBits c) c.layers.toNat c.qm.toNat (payloadBits p)
  let all := mergePlan ((upTo (codedBits c)).map fun i => plan.getD i 0) data (Config.uciCoded c (byteBits p.uci))
  xorBits all (goldSeq (c.rnti.toNat * 2 ^ 15 + c.dataScrId.toNat) all.length)

/-- Data REs of a PUSCH before its s-th symbol. -/
def resBefore (p : Pusch) (s : Nat) : Nat := ((upTo s).map fun k => (dataScs p (p.symStart.toNat + k)).length).foldl (· + ·) 0

/-- The layer symbols that the data REs of the s-th symbol carry, Q1.15, RE by RE; under transform precoding their DFT. -/
def labelSymbols (p : Pusch) (coded : List Bool) (s : Nat) : List Word :=
  let qm := p.qm.toNat
  let first := resBefore p s * p.layers.toNat
  let z := (upTo ((dataScs p (p.symStart.toNat + s)).length * p.layers.toNat)).map fun j =>
    let k : Int := invSqrtFix (qamNorm qm)
    let v := qamPoint qm (first + j) ((coded.drop ((first + j) * qm)).take qm)
    cwordOf (q15Of ⟨v.re * k, v.im * k⟩)
  if p.tp then Config.forwardDft z else z

/-- Values of data REs, `w` each, over all REs of a symbol: `zero` elsewhere. -/
def spread {α : Type} (zero : α) (w : Nat) : List Bool → List α → List α
  | [], _ => []
  | true :: r, l => (upTo w).map (fun i => l.getD i zero) ++ spread zero w r (l.drop w)
  | false :: r, l => List.replicate w zero ++ spread zero w r l

/-- The values of a 4-PRB block in a symbol, `w` for each of its 48 REs; what the PUSCH does not fill reads 0. -/
def blockPart {α : Type} (zero : α) (w : Nat) (p : Pusch) (b m : Nat) (vals : Nat → List α) : List α :=
  if p.symStart.toNat ≤ m ∧ m < p.symStart.toNat + p.symCount.toNat then
    let all := spread zero w ((upTo (scCount p)).map fun i => isDataRe p m (firstSc p + i)) (vals (m - p.symStart.toNat))
    (upTo (48 * w)).map fun i => all.getD (48 * b * w + i) zero
  else List.replicate (48 * w) zero

/-- Bits eight to a byte, from bit 0. -/
def packBits (l : List Bool) : List Byte :=
  (upTo (ceilDiv l.length 8)).map fun i => BitVec.ofNat 8 (natOf ((l.drop (8 * i)).take 8).reverse)

/-- y of a block's 672 REs: stream by stream, symbol by symbol. -/
def blockInput (x : UlSlot) (p : Pusch) (b : Nat) : List Byte :=
  (upTo x.config.nRx.toNat).flatMap fun k => (upTo 14).flatMap fun m => (upTo 48).flatMap fun i =>
    let rel := 48 * b + i
    let sc := firstSc p + rel
    leBytes 4 (if rel < scCount p then (x.grid.get 0 (reKey k m (sc / 12) (sc % 12))).toNat else 0)

/-- A taken unit with its labels (05 R126, Table 2). -/
def labelledUnit (x : UlSlot) (p : PuschSt) (b : Nat) : PoolUnit :=
  let c := p.cfg
  let n := c.layers.toNat
  let coded := reencoded x p
  { kind := 1, version := x.version, stamp := x.absSlot.toNat, info := sampleInfo x c b, y := blockInput x c b,
    x := (upTo 14).flatMap fun m => (blockPart 0 n c b m (labelSymbols c coded)).flatMap fun w => leBytes 4 w.toNat,
    bits := packBits ((upTo 14).flatMap fun m => blockPart false (n * c.qm.toNat) c b m fun s => coded.drop (resBefore c s * n * c.qm.toNat)),
    due := x.t0 + ulDeadlineNs x.config.mu.toNat + 2000000 }

/-- Each eligible block is drawn, and a taken one waits to be written until 2 ms after the deadline (05 R124–R126). -/
def offerUnit (cell : Nat) (x : UlSlot) (r : AdaptRec) (s : State) (e : (PuschSt × Nat) × Nat) : State :=
  let (p, b) := e.1
  let ok := p.crcPass && !p.classical && !p.noDmrs && x.version != 0 && !blockErased x p.cfg b
  if ok && shareTest (unitDraw r.seed.toNat x.absSlot.toNat cell e.2) r.samplePerMille.toNat then s.takeUnit cell (labelledUnit x p b) else s

def offerSamples (cell : Nat) (x : UlSlot) (s : State) : State :=
  match (s.aset cell).cfg with
  | some r => if s.sampling cell then (unitsOf x).zipIdx.foldl (offerUnit cell x r) s else s
  | none => s

/-! ## UL_SLOT_DECIDED (02 R58) -/

def allDecided (x : UlSlot) : Bool := x.pusch.all (·.decided) && x.pucch.all (·.decided)

/-- HARQ buffers are handled, guard outcomes counted, the frame sent, samples offered. -/
def decideSlot (cell slot : Nat) (x : UlSlot) (s : State) : State :=
  let (ps, s1) := endHarqs x.config cell false x.pusch s
  let y := { x with pusch := ps }
  offerSamples cell y (sendResults cell slot false y (s1.modCell cell (guardCount y)))

def slotDecided (cell slot : Nat) (s : State) : State :=
  match s.ulSlot cell slot with
  | some x =>
    if x.closed ∨ !(x.intake || x.lateCfg) ∨ !allDecided x ∨ (!s.replaying ∧ s.pastDeadline x) ∨ s.fated 1 slot cell 0 then s else decideSlot cell slot x s
  | none => s

def execUlSlotDecided (cell : CellId) (slot : AbsSlot) (s : State) : Host.Outcome State Fault Refusal :=
  .next (traced 0 32 s (slotDecided cell.val slot.toNat s))

/-! ## UL_SLOT_DEADLINE (02 R59; 05 R133) -/

/-- Tasks of the entries that serve a cell's slot end. -/
def endSlotTasks (cell slot : Nat) (s : State) : State :=
  (upTo 96).foldl (fun s t =>
    match (s.tile t).ref with
    | some (.entry n) =>
      (match s.sched.table.bind (·.entries[n.val]?) with
       | some e => if e.kind = 0 ∧ e.owner = cell ∧ s.sched.entrySlot.get none n.val = some slot then killTile t s else s
       | none => s)
    | _ => s) s

/-- A slot that is late: its transport blocks count in neither RAD_GUARD_LOSS nor RAD_GUARD_GAIN (DESIGN CHOICE, log 98). -/
def lateSlot (cell slot : Nat) (x : UlSlot) (s : State) : State :=
  let s1 := (endSlotTasks cell slot s).bankQueue x.config.decoderBank.toNat 0 (queuedBlocks x)
  let (ps, s2) := endHarqs x.config cell true x.pusch s1
  let s3 := sendResults cell slot true { x with pusch := ps } s2
  let s4 := (s3.modCell cell fun c => { c with lateSlots := bump top32 c.lateSlots }).record Code.ulLate cell
    [slot % 2 ^ 32, slot / 2 ^ 32, cell]
  (s4.captureDecision 0 slot cell 1 0 0).setUlSlot cell slot none

/-- A shadowed slot is counted, unless its shadow work is incomplete (a free value; its blocks run behind all others in the bank) or the
classical receiver served any of it (05 R132, R133). -/
def shadowSlot (cell : Nat) (x : UlSlot) (s : State) : State :=
  if !x.shadow then s
  else
    let (v, s1) := s.draw
    let live : Bool := match (s.aset cell).state with | .shadow | .probation => true | _ => false
    if v % 2 = 0 ∨ !live ∨ !s.standing cell ∨ 0 < (s.bank x.config.decoderBank.toNat).now ∨ x.classical ∨ x.pusch.any (fun p => p.classical) then s1
    else
      let ps := x.pusch.filter fun p => p.otherPass.isSome
      s1.shadowCount cell ps.length (ps.filter (·.crcPass)).length (ps.filter (·.otherPass == some true)).length

/-- The end of a slot that has given its results. -/
def finishSlot (cell slot : Nat) (x : UlSlot) (s : State) : State := shadowSlot cell x (s.setUlSlot cell slot none)

def slotDeadline (cell slot : Nat) (s : State) : State :=
  match s.ulSlot cell slot with
  | none => s
  | some x =>
    let due := decide (x.t0 + ulDeadlineNs x.config.mu.toNat ≤ s.nowNs)
    if !(x.accepted || x.lateCfg) then (if due then s.setUlSlot cell slot none else s)
    else if x.closed then (if due then finishSlot cell slot x s else s)
    else if allDecided x ∧ due ∧ !s.fated 1 slot cell 0 then finishSlot cell slot x (decideSlot cell slot x s)
    else if s.watchedAt 1 slot cell 0 due then (lateSlot cell slot x s).replayTaken
    else s

def execUlSlotDeadline (cell : CellId) (slot : AbsSlot) (s : State) : Host.Outcome State Fault Refusal :=
  .next (slotDeadline cell.val slot.toNat s)

end Sys2Proof.Machine
end

