-- ==== Sys2Proof/Machine/Special.lean ====
section
/-! DEFINITION. The special functions of the vector engine, correctly rounded (08 R193). Square roots and reciprocals are exact;
the others are formed in fixed point with `fxBits` fraction bits, hundreds more than any FP32 rounding needs, and rounded
once. -/
namespace Sys2Proof.Machine

/-- Fraction bits of the fixed-point work. -/
def fxBits : Nat := 900

def fxOne : Int := 2 ^ fxBits

/-- Σ over terms: t, t·x/(k+1)·…: the exponential series of a fixed-point argument. -/
def expTerms : Nat → Nat → Int → Int → Int → Int
  | 0, _, _, _, acc => acc
  | f + 1, k, x, t, acc => if t = 0 then acc else expTerms f (k + 1) x (Int.fdiv (t * x) (fxOne * (k + 1))) (acc + t)

/-- Σ z^(2k+1)/(2k+1), with alternating signs where `alt`: atan or atanh; `z2` is z². -/
def atanTerms : Nat → Nat → Bool → Int → Int → Int → Int
  | 0, _, _, _, _, acc => acc
  | f + 1, k, alt, z2, t, acc =>
    if t = 0 then acc else
      let term := Int.fdiv t (2 * k + 1)
      atanTerms f (k + 1) alt z2 (Int.fdiv (t * z2) fxOne) (if alt && k % 2 == 1 then acc - term else acc + term)

/-- atan or atanh of a fixed-point z well inside (−1, 1). -/
def fxAtan (alt : Bool) (z : Int) : Int := atanTerms 500 0 alt (Int.fdiv (z * z) fxOne) z 0

/-- ln 2 = 2 atanh(1/3). -/
def fxLn2 : Int := 2 * fxAtan false (fxOne / 3)

/-- π = 16 atan(1/5) − 4 atan(1/239). -/
def fxPi : Int := 16 * fxAtan true (fxOne / 5) - 4 * fxAtan true (fxOne / 239)

/-- The square root of n rounded down, bit by bit from bit `k`. -/
def isqrtFrom : Nat → Nat → Nat → Nat
  | 0, n, r => if (r + 1) * (r + 1) ≤ n then r + 1 else r
  | k + 1, n, r =>
    let c := r + 2 ^ (k + 1)
    isqrtFrom k n (if c * c ≤ n then c else r)

def isqrt (n : Nat) : Nat := isqrtFrom (Nat.log2 n / 2 + 1) n 0

/-- A finite value as a fixed-point integer (exact: FP32 exponents are far above −fxBits). -/
def toFx (neg : Bool) (m : Nat) (e : Int) : Int := scaledInt neg m e (-(fxBits : Int))

/-- e^x as n × 2^k in fixed point, for a fixed-point x. -/
def fxExp (x : Int) : Int × Int :=
  let k := Int.fdiv (2 * x + fxLn2) (2 * fxLn2)
  let r := x - k * fxLn2
  (expTerms 400 0 r fxOne 0, k)

/-- A fixed-point value rounded to FP32. -/
def fxRound (v : Int) : Word :=
  BitVec.ofNat 32 (roundIeee fmt32 (decide (v < 0)) v.natAbs 1 (-(fxBits : Int)))

/-- A quotient of non-negative integers rounded to FP32. -/
def quotRound (neg : Bool) (n d : Int) : Word := BitVec.ofNat 32 (roundIeee fmt32 neg n.natAbs d.natAbs 0)

def pos32 (n : Nat) : Word := BitVec.ofNat 32 n
def inf32 (neg : Bool) : Word := BitVec.ofNat 32 (infCode fmt32 neg)
def zero32 (neg : Bool) : Word := if neg then 0x80000000 else 0
def one32 (neg : Bool) : Word := if neg then 0xBF800000 else 0x3F800000

def isOver (m : Nat) (e : Int) (n : Nat) : Bool := decide (toFx false m e > n * fxOne)

/-- EXP. Beyond 89 every result overflows; below −105 every result is less than half the smallest subnormal. -/
def exp32 (x : Word) : Word :=
  match val32 x with
  | .nan _ => nan32
  | .inf neg => if neg then 0 else inf32 false
  | .fin neg m e =>
    if m = 0 then one32 false
    else if isOver m e 105 then (if neg then 0 else inf32 false)
    else
      let (n, k) := fxExp (toFx neg m e)
      BitVec.ofNat 32 (roundIeee fmt32 false n.natAbs 1 (k - fxBits))

/-- LOG, by f in [3/4, 3/2) and 2 atanh((f − 1)/(f + 1)). -/
def log32 (x : Word) : Word :=
  match val32 x with
  | .nan _ => nan32
  | .inf neg => if neg then nan32 else inf32 false
  | .fin neg m e =>
    if m = 0 then inf32 true
    else if neg then nan32
    else
      let l := Nat.log2 m
      let up := decide (2 * m ≥ 3 * 2 ^ l)
      let den : Nat := if up then 2 ^ (l + 1) else 2 ^ l
      let ex : Int := (l : Int) + e + (if up then 1 else 0)
      let z := Int.fdiv (((m : Int) - den) * fxOne) (m + den)
      fxRound (ex * fxLn2 + 2 * fxAtan false z)

def rcp32 (x : Word) : Word := div32 (.fin false 1 0) (val32 x)

/-- A square root, rounded from the root of a scaled integer with a sticky bit. -/
def sqrt32 (x : Word) : Word :=
  match val32 x with
  | .nan _ => nan32
  | .inf neg => if neg then nan32 else inf32 false
  | .fin neg m e =>
    if m = 0 then zero32 neg
    else if neg then nan32
    else
      let odd := decide (e % 2 ≠ 0)
      let m1 := (if odd then 2 * m else m) * 2 ^ 128
      let e1 := (if odd then e - 1 else e) / 2 - 64
      let r := isqrt m1
      BitVec.ofNat 32 (roundIeee fmt32 false (2 * r + (if r * r = m1 then 0 else 1)) 1 (e1 - 1))

def rsq32 (x : Word) : Word :=
  match val32 x with
  | .nan _ => nan32
  | .inf neg => if neg then nan32 else 0
  | .fin neg m e =>
    if m = 0 then inf32 neg
    else if neg then nan32
    else
      let odd := decide (e % 2 ≠ 0)
      let m1 := if odd then 2 * m else m
      let e1 := (if odd then e - 1 else e) / 2
      let r := isqrt (2 ^ 256 / m1)
      BitVec.ofNat 32 (roundIeee fmt32 false (2 * r + (if r * r * m1 = 2 ^ 256 then 0 else 1)) 1 (-e1 - 129))

/-- e^|x| × 2^fxBits for |x| of at most 105. -/
def fxExpAbs (m : Nat) (e : Int) : Int :=
  let (n, k) := fxExp (toFx false m e)
  n * 2 ^ k.toNat

def tanh32 (x : Word) : Word :=
  match val32 x with
  | .nan _ => nan32
  | .inf neg => one32 neg
  | .fin neg m e =>
    if m = 0 then zero32 neg
    else if isOver m e 50 then one32 neg
    else
      let t := fxExpAbs m (e + 1)
      quotRound neg (t - fxOne) (t + fxOne)

def sigm32 (x : Word) : Word :=
  match val32 x with
  | .nan _ => nan32
  | .inf neg => if neg then 0 else one32 false
  | .fin neg m e =>
    if m = 0 then 0x3F000000
    else if isOver m e 105 then (if neg then 0 else one32 false)
    else
      let t := fxExpAbs m e
      if neg then quotRound false fxOne (t + fxOne) else quotRound false t (t + fxOne)

/-- Σ x^(2k+1)/(2k+1)!! in fixed point. -/
def phiTerms : Nat → Nat → Int → Int → Int → Int
  | 0, _, _, _, acc => acc
  | f + 1, k, x2, t, acc => if t = 0 then acc else phiTerms f (k + 1) x2 (Int.fdiv (t * x2) (fxOne * (2 * k + 3))) (acc + t)

/-- GELU, x × Φ(x) with Φ(x) = 1/2 + φ(x) Σ x^(2k+1)/(2k+1)!!. Above 15 the result rounds to x; below −15 to −0. -/
def gelu32 (x : Word) : Word :=
  match val32 x with
  | .nan _ => nan32
  | .inf neg => if neg then zero32 true else inf32 false
  | .fin neg m e =>
    if m = 0 then zero32 neg
    else if isOver m e 15 then (if neg then zero32 true else x)
    else
      let v := toFx neg m e
      let a := toFx false m e
      let (n, k) := fxExp (-(Int.fdiv (a * a) (2 * fxOne)))
      let root : Int := isqrt (2 * fxPi * fxOne).natAbs
      let phi := Int.fdiv (n * 2 ^ 400 * fxOne) (root * 2 ^ (400 - k).toNat)
      let tail := Int.fdiv (phi * phiTerms 900 0 (Int.fdiv (a * a) fxOne) a 0) fxOne
      let cdf := if neg then fxOne / 2 - tail else fxOne / 2 + tail
      let p := v * cdf
      BitVec.ofNat 32 (roundIeee fmt32 (decide (p < 0)) p.natAbs 1 (-(2 * fxBits : Int)))

/-- Σ of the sine (from k = 1) or cosine (from k = 0) series of r; `r2` is r². -/
def trigTerms : Nat → Nat → Int → Int → Int → Int
  | 0, _, _, _, acc => acc
  | f + 1, k, r2, t, acc =>
    if t = 0 then acc else trigTerms f (k + 2) r2 (-(Int.fdiv (t * r2) (fxOne * ((k + 1) * (k + 2))))) (acc + t)

/-- sin of q quarter turns plus r (q mod 4 read). -/
def fxSinQ (q : Int) (r : Int) : Int :=
  let r2 := Int.fdiv (r * r) fxOne
  let v := if q % 2 = 0 then trigTerms 300 1 r2 r 0 else trigTerms 300 0 r2 fxOne 0
  if q % 4 < 2 then v else -v

/-- SIN (`quarter` = 0) or COS (`quarter` = 1) with exact argument reduction by π/2. -/
def trig32 (quarter : Int) (x : Word) : Word :=
  match val32 x with
  | .nan _ => nan32
  | .inf _ => nan32
  | .fin neg m e =>
    if m = 0 then (if quarter = 0 then zero32 neg else one32 false)
    else
      let v := toFx neg m e
      let half := fxPi / 2
      let q := Int.fdiv v half
      fxRound (fxSinQ (q + quarter) (v - q * half))

end Sys2Proof.Machine
end

