-- ==== Sys2Proof/Machine/Chain.lean ====
section
/-! DEFINITION. Fused chains: the checks of a chain entry and what its stages compute in a lane (08 R189–R193). -/
namespace Sys2Proof.Machine

/-- A stage word (08 Table 2). -/
structure StageF where
  op   : Nat
  srcA : Nat
  srcB : Nat
  pen  : Bool
  pred : Nat
  imm  : Nat

def stageF (w : Word) : StageF :=
  let n := w.toNat
  { op := n / 2 ^ 26, srcA := n / 2 ^ 21 % 32, srcB := n / 2 ^ 16 % 32, pen := n / 2 ^ 15 % 2 == 1, pred := n / 2 ^ 12 % 8,
    imm := n % 2 ^ 12 }

/-- Lane type of a chain's input by code. -/
def chainTy (n : Nat) : Option LaneTy := [LaneTy.fp32, .int32, .complex][n]?

/-- Does an operation take two positions (08 Table 3)? -/
def isSpecial (op : Nat) : Bool := 0x20 ≤ op && op ≤ 0x29

/-- The lane type after an operation on a type, `none` where the operation does not accept it or is no operation. -/
def stageTy (op : Nat) (t : LaneTy) : Option LaneTy :=
  let arith := (1 ≤ op && op ≤ 8) || (0x0F ≤ op && op ≤ 0x11)
  if op = 0x0E then some t
  else match t with
    | .fp32 => if arith || isSpecial op then some .fp32 else if op = 0x13 then some .int32 else none
    | .int32 => if arith || (9 ≤ op && op ≤ 0x0D) then some .int32 else if op = 0x12 then some .fp32 else none
    | .complex => if 0x30 ≤ op ∧ op ≤ 0x33 then some .complex else none

/-- Does an operation use src_b? -/
def usesB (op : Nat) : Bool :=
  (1 ≤ op && op ≤ 6) || (9 ≤ op && op ≤ 0x11) || (0x30 ≤ op && op ≤ 0x33)

/-- The stages in turn: types, sources, predication and positions; the type the chain ends in. -/
def stagesTy : List StageF → LaneTy → Nat → Option LaneTy
  | [], t, n => if n ≤ 8 then some t else none
  | w :: r, t, n =>
    let immC := t == .complex && (w.srcA == 20 || (usesB w.op && w.srcB == 20))
    if 21 ≤ w.srcA ∨ 21 ≤ w.srcB ∨ immC ∨ (w.op = 0x0E ∧ !w.pen) then none
    else match stageTy w.op t with
      | none => none
      | some t' => stagesTy r t' (n + (if isSpecial w.op then 2 else 1))

/-- A checked chain: its input and output types and its stages. -/
structure Chain where
  inTy   : LaneTy
  outTy  : LaneTy
  stages : List StageF

/-- The checks of R189 and R190: `none` is VE_CHAIN. -/
def checkChain (e : ChainEntry) : Option Chain :=
  let h := e.header.toNat
  let n := h / 2 ^ 25 % 16
  match chainTy (h / 2 ^ 29) with
  | none => none
  | some t =>
    if 8 < n ∨ h % 2 ^ 25 ≠ 0 ∨ e.rest then none
    else
      let st := (e.stages.take n).map stageF
      (stagesTy st t 0).map fun out => { inTy := t, outTy := out, stages := st }

/-- A result saturated to int32. -/
def satI (v : Int) : Word × Raised :=
  let r := satBits 32 v
  (BitVec.ofInt 32 r.1, r.2)

/-- The parts of a complex lane. -/
def lanePart (w : Word) : Int × Int := ((w.setWidth 16).toInt, ((w >>> 16).setWidth 16).toInt)

/-- Two parts saturated to Q1.15. -/
def packPart (re im : Int) : Word × Raised :=
  let a := satBits 16 re
  let b := satBits 16 im
  ((BitVec.ofInt 16 b.1 ++ BitVec.ofInt 16 a.1), a.2.or b.2)

def complexOp (op : Nat) (a b : Word) : Word × Raised :=
  let (ar, ai) := lanePart a
  let (br, bi0) := lanePart b
  let bi := if op = 0x33 then -bi0 else bi0
  if op = 0x30 then packPart (ar + br) (ai + bi)
  else if op = 0x31 then packPart (ar - br) (ai - bi)
  else packPart (rhuShift (ar * br - ai * bi) 15) (rhuShift (ar * bi + ai * br) 15)

def intOp (op : Nat) (a b prev : Word) : Word × Raised :=
  let x := a.toInt
  let y := b.toInt
  let sh := (clampInt 0 31 y).toNat
  match op with
  | 0x01 => satI (x + y)
  | 0x02 => satI (x - y)
  | 0x03 => satI (x * y)
  | 0x04 => satI (prev.toInt + x * y)
  | 0x05 => (BitVec.ofInt 32 (min x y), .none)
  | 0x06 => (BitVec.ofInt 32 (max x y), .none)
  | 0x07 => satI x.natAbs
  | 0x08 => satI (-x)
  | 0x09 => (a &&& b, .none)
  | 0x0A => (a ||| b, .none)
  | 0x0B => (a ^^^ b, .none)
  | 0x0C => satI (x * 2 ^ sh)
  | 0x0D => (BitVec.ofInt 32 (rhuShift x sh), .none)
  | 0x12 => (ofInt32 x, .none)
  | _ => (a, .none)

def floatOp (op : Nat) (a b prev : Word) : Word × Raised :=
  match op with
  | 0x01 => (add32 a b, .none)
  | 0x02 => (sub32 a b, .none)
  | 0x03 => (mul32 a b, .none)
  | 0x04 => (rne32 ((val32 prev).add ((val32 a).mul (val32 b))), .none)
  | 0x05 => (min32 a b, .none)
  | 0x06 => (max32 a b, .none)
  | 0x07 => (rne32 (val32 a).abs, .none)
  | 0x08 => (rne32 (val32 a).neg, .none)
  | 0x13 =>
    let r := quantInt (-2147483648) 2147483647 0 (val32 a)
    (BitVec.ofInt 32 r.1, r.2)
  | 0x20 => (exp32 a, .none)
  | 0x21 => (log32 a, .none)
  | 0x22 => (rcp32 a, .none)
  | 0x23 => (rsq32 a, .none)
  | 0x24 => (sqrt32 a, .none)
  | 0x25 => (tanh32 a, .none)
  | 0x26 => (sigm32 a, .none)
  | 0x27 => (gelu32 a, .none)
  | 0x28 => (trig32 0 a, .none)
  | 0x29 => (trig32 1 a, .none)
  | _ => (a, .none)

/-- The comparison of a compare stage: IEEE on fp32, signed on int32. -/
def compareOp (op : Nat) (t : LaneTy) (a b : Word) : Bool :=
  let lt := if t = .int32 then a.slt b else (val32 a).lt (val32 b)
  let eq := if t = .int32 then a == b else (val32 a).eqv (val32 b)
  if op = 0x0F then lt else if op = 0x10 then lt || eq else eq

def isCompare (op : Nat) : Bool := 0x0F ≤ op && op ≤ 0x11

/-- What a chain reads as it stood at issue. -/
structure ChainIn where
  regs  : TRegs
  lane  : Nat
  x     : Word
  y     : Word

/-- An immediate in a lane type. -/
def immOf (t : LaneTy) (imm : Nat) : Word :=
  if t = .fp32 then BitVec.ofNat 32 (imm * 2 ^ 20) else (BitVec.ofNat 12 imm).signExtend 32

def stageSrc (c : ChainIn) (t : LaneTy) (prev : Word) (imm src : Nat) : Word :=
  if src < 16 then vLane c.regs src c.lane
  else if src = 16 then prev
  else if src = 17 then c.x
  else if src = 18 then c.y
  else if src = 19 then (sReg c.regs (imm % 32)).setWidth 32
  else immOf t imm

/-- One stage in one lane: its result, and the predicate bit a compare writes. -/
def stageLane (c : ChainIn) (t : LaneTy) (prev : Word) (w : StageF) : Word × Raised × Option (Nat × Bool) :=
  let on := (pReg c.regs w.pred).getLsbD c.lane
  let a := stageSrc c t prev w.imm w.srcA
  let b := stageSrc c t prev w.imm w.srcB
  if w.op = 0x0E then (if on then a else b, .none, none)
  else if w.pen && !on then (prev, .none, none)
  else
    let r := match t with
      | .fp32 => floatOp w.op a b prev
      | .int32 => intOp w.op a b prev
      | .complex => complexOp w.op a b
    (r.1, r.2, if isCompare w.op then some (w.imm % 8, compareOp w.op t a b) else none)

/-- All stages in one lane. -/
def chainLane (c : ChainIn) : List StageF → LaneTy → Word → Raised → List (Nat × Bool) →
    Word × Raised × List (Nat × Bool)
  | [], _, prev, fl, ps => (prev, fl, ps)
  | w :: r, t, prev, fl, ps =>
    let (v, f, p) := stageLane c t prev w
    chainLane c r ((stageTy w.op t).getD t) v (fl.or f) (match p with | some q => ps ++ [q] | none => ps)

/-- One vector through a chain: results, flags, and the predicates it writes, lanes without a write keeping their bit. -/
def chainVec (ch : Chain) (regs : TRegs) (xs ys : List Word) : List Word × Raised × List (Nat × BitVec 128) :=
  let outs := (xs.zipIdx).map fun p =>
    chainLane { regs, lane := p.2, x := p.1, y := ys.getD p.2 0 } ch.stages ch.inTy p.1 .none []
  let targets := ((ch.stages.filter fun w => isCompare w.op).map fun w => w.imm % 8).eraseDups
  let bits (k : Nat) : BitVec 128 :=
    (outs.zipIdx).foldl (fun b o =>
      match (o.1.2.2.filter fun q => q.1 = k).getLast? with
      | some q => if q.2 then b ||| BitVec.ofNat 128 (2 ^ o.2) else b &&& ~~~(BitVec.ofNat 128 (2 ^ o.2))
      | none => b) (pReg regs k)
  (outs.map (·.1), outs.foldl (fun f o => f.or o.2.1) .none, targets.map fun k => (k, bits k))

end Sys2Proof.Machine
end

