-- ==== Sys2Proof/Machine/Vector.lean ====
section
/-! DEFINITION. The vector slot of a tile's program (08 R187–R201, 07 R175, R179–R182, R184, 11 R252–R255, 16 R355). Long and
short operations share one function for one vector. -/
namespace Sys2Proof.Machine

/-! ## Sources and destinations -/

/-- A source's elements as lanes: a register as it stood at issue, or the next elements of a stream. -/
def takeLanes (s : State) (t : Nat) (x : VSel) (ty : LaneTy) (m : Nat) (k : State → List Word → OpRes) : OpRes :=
  match x with
  | .v r => k s ((vLanes (s.regsAt t) r.val).take m)
  | .q q => takeElems s t q.val m 0x33 false (Code.til 0x75) fun s1 es => k s1 (es.map (widen (streamFmt (s.tile t) q.val) ty))

/-- Fault of a source: direction, loaded, a storage format paired with the lane type (08 R188). -/
def srcFault (x : Tile) (v : VSel) (ty : LaneTy) : Option Half :=
  match v with
  | .v _ => none
  | .q q => (readCheck x q.val).orElse fun _ =>
      if (laneReads ty).contains (streamFmt x q.val) then none else some (Code.til 0x31)

/-- Fault of a destination. -/
def dstFault (x : Tile) (v : VSel) (ty : LaneTy) : Option Half :=
  match v with
  | .v _ => none
  | .q q => (writeCheck x q.val).orElse fun _ =>
      if (laneWrites ty).contains (streamFmt x q.val) then none else some (Code.til 0x31)

/-- Lanes written to a destination: a register keeps its lanes beyond a short vector (DEDUCED, log 15). -/
def putLanes (s : State) (t : Nat) (dst : VSel) (ty : LaneTy) (ws : List Word) (k : State → OpRes) : OpRes :=
  match dst with
  | .v r => k (s.modRegs t fun g => setV g r.val ws)
  | .q q =>
    let (es, fl) := narrowed (streamFmt (s.tile t) q.val) ty ws
    handOver s t q.val es (Code.til 0x75) false fun s1 => k (s1.raise t fl)

/-! ## VCHAIN -/

def chainOf (x : Tile) (ch : Nat) : ChainEntry := x.chains.getD ch { header := 0, stages := [], rest := false }

/-- Predicate writes. -/
def setPreds (r : TRegs) (ps : List (Nat × BitVec 128)) : TRegs := ps.foldl (fun r p => setP r p.1 p.2) r

/-- The predicates a compare will write wait in the long operation; with the last vector they land. -/
def landPreds (s : State) (t : Nat) (last : Bool) (ps : List (Nat × BitVec 128)) : State :=
  if last then s.modRegs t fun r => setPreds r ps
  else s.modBody t fun b => { b with longOp := b.longOp.map fun o => { o with preds := ps } }

def chainStep (s : State) (t : Nat) (ch : Nat) (x y dst : VSel) (m : Nat) (last : Bool) : OpRes :=
  let tl := s.tile t
  match checkChain (chainOf tl ch) with
  | none => .fault (Code.til 0x30)
  | some c =>
    match ((srcFault tl x c.inTy).orElse fun _ => srcFault tl y c.inTy).orElse fun _ => dstFault tl dst c.outTy with
    | some f => .fault f
    | none =>
      if m = 0 then .ok s
      else
        let go (s : State) (xs ys : List Word) : OpRes :=
          let (ws, fl, ps) := chainVec c (s.regsAt t) xs ys
          putLanes s t dst c.outTy ws fun s1 => .ok (landPreds (s1.raise t fl) t last ps)
        takeLanes s t x c.inTy m fun s1 xs =>
          match x, y with
          | .q a, .q b => if a = b then go s1 xs xs else takeLanes s1 t y c.inTy m fun s2 ys => go s2 xs ys
          | _, _ => takeLanes s1 t y c.inTy m fun s2 ys => go s2 xs ys

/-! ## VRED (08 R195) -/

def isAbs (o : RedOp) : Bool := o == .maxAbs

/-- A float lane's contribution, `none` where MAXABS leaves it out. -/
def redFloat (o : RedOp) (w : Word) : Option Word :=
  if isAbs o then (if isFin (val32 w) then some (rne32 (val32 w).abs) else none) else some w

def redFloatOp (o : RedOp) (a b : Word) : Word :=
  match o with
  | .sum => add32 a b
  | .min => min32 a b
  | _ => max32 a b

def redInt (o : RedOp) (w : Word) : Int := if isAbs o then w.toInt.natAbs else w.toInt

def redIntOp (o : RedOp) (a b : Int) : Int :=
  match o with
  | .sum => a + b
  | .min => min a b
  | _ => max a b

/-- The scalar after one vector, with q_sat where an int64 sum leaves its range. -/
def redCombine (o : RedOp) (ty : LaneTy) (s : Dword) (lanes : List (Option Word)) : Dword × Raised :=
  if ty = .int32 then
    match laneFold (redIntOp o) (lanes.map fun l => l.map (redInt o)) with
    | none => (s, .none)
    | some v =>
      let r := satBits 64 (redIntOp o s.toInt v)
      (BitVec.ofInt 64 r.1, r.2)
  else
    match laneFold (redFloatOp o) (lanes.map fun l => l.bind (redFloat o)) with
    | none => (s, .none)
    | some v => ((s.extractLsb' 32 32) ++ redFloatOp o (s.setWidth 32) v, .none)

def redStep (s : State) (t : Nat) (o : RedOp) (ty : LaneTy) (sr : SReg) (x : VSel) (pred : Option PReg) (m : Nat) : OpRes :=
  let tl := s.tile t
  if ty = .complex then .fault (Code.til 0x01)
  else match srcFault tl x ty with
  | some f => .fault f
  | none =>
    if m = 0 then .ok s
    else takeLanes s t x ty m fun s1 xs =>
      let on (i : Nat) : Bool := match pred with | some p => (pReg (s.regsAt t) p.val).getLsbD i | none => true
      let lanes := (xs.zipIdx).map fun p => if on p.2 then some p.1 else none
      let r := redCombine o ty (sReg (s1.body t).regs sr.val) lanes
      .ok ((s1.modRegs t fun g => setS g sr.val r.1).raise t r.2)

/-! ## QUANT, MXQUANT, REQUANT -/

/-- Formats QUANT writes (11 R254). -/
def quantFmt (f : Fmt) : Bool := [Fmt.int8, .uint8, .int4, .int16, .bf16, .e4m3, .e5m2].contains f

/-- The zero point of a scale register, bits [47:32] signed. -/
def zpOf (w : Dword) : Int := signedOf 16 (w.toNat / 2 ^ 32 % 2 ^ 16)

/-- Does a scale register break R254 for a destination? -/
def scaleBad (f : Fmt) (w : Dword) : Bool :=
  w.toNat / 2 ^ 48 != 0 ||
  (if isIntOut f then !(decide ((intRange f).1 ≤ zpOf w) && decide (zpOf w ≤ (intRange f).2)) else zpOf w != 0)

/-- One inlier: its code and flags. -/
def quantCode (f : Fmt) (scale : Word) (zp : Int) (x : Word) : Nat × Raised :=
  let v := val32 (div32 (val32 x) (val32 scale))
  if isIntOut f then
    let r := quantInt (intRange f).1 (intRange f).2 zp v
    (intCode f r.1, r.2)
  else match f with
    | .e4m3 => narrowE4M3 v
    | .e5m2 => narrowE5M2 v
    | _ => narrowBf16 v

/-- An outlier's 16-bit code in the inliers' unit, or as BF16 (07 R180). -/
def outlierCode (f : Fmt) (scale x : Word) : Nat × Raised :=
  if isIntOut f then
    let r := quantInt (-32768) 32767 0 (val32 (div32 (val32 x) (val32 scale)))
    (intCode .int16 r.1, r.2)
  else narrowBf16 (val32 x)

/-- The real value a code of QUANT stands for. -/
def dequant (f : Fmt) (scale : Word) (zp : Int) (code : Nat) : FVal :=
  if isIntOut f then
    let v := intOf f code - zp
    (FVal.fin (decide (v < 0)) v.natAbs 0).mul (val32 scale)
  else (elemVal f code).mul (val32 scale)

/-- The outlier maps of an operation of `n` elements: one list of channels a group, `none` where one breaks R179. -/
def parseMaps (bytes : List Byte) (n : Nat) : Option (List (List Nat)) :=
  (upTo (ceilDiv n 256)).foldr (fun g acc =>
    acc.bind fun r => (parseMap ((bytes.drop (16 * g)).take 16) (min 256 (n - 256 * g))).map fun m => m :: r) (some [])

/-- Slot of an outlier vector: K-group × 32 + slot for group `g` and its i-th outlier (07 R180). -/
def outlierSlot (g i : Nat) : Nat := g / 4 * 32 + 8 * (g % 4) + i

/-- The block or map of an operation: as it was read at issue, or read now (11 R245, R246). -/
def blockBytes (held : Option (List Byte)) (x : Tile) (off n : Nat) (k : List Byte → OpRes) : OpRes :=
  match held with
  | some b => k b
  | none => peek x off n 0x60 k

/-- One vector of QUANT. `first` numbers its first element, `total` the operation's elements. -/
def quantStep (s : State) (t : Nat) (x : VSel) (q : Nat) (sr : SReg) (a : AReg) (stats : Option (Fin 8)) (first m total : Nat)
    (held : Option (List Byte)) : OpRes :=
  let tl := s.tile t
  match (srcFault tl x .fp32).orElse fun _ => writeCheck tl q with
  | some f => .fault f
  | none =>
    let f := streamFmt tl q
    let reg := sReg tl.before.regs sr.val
    let scale := reg.setWidth 32
    if !quantFmt f then .fault (Code.til 0x31)
    else if scaleBad f reg then .fault (Code.til 0x40)
    else
      let run (maps : List (List Nat)) : OpRes :=
        if m = 0 then .ok s
        else takeLanes s t x .fp32 m fun s1 xs =>
          let where' (i : Nat) : Option (Nat × Nat) :=
            let e := first + i
            ((maps.getD (e / 256) []).findIdx? (· = e % 256)).map fun k => (e / 256, k)
          let ys := (xs.zipIdx).map fun p => match where' p.2 with
            | some _ => (0, Raised.none)
            | none => quantCode f scale (zpOf reg) p.1
          let outs := (xs.zipIdx).filterMap fun p => (where' p.2).map fun g => (outlierSlot g.1 g.2, outlierCode f scale p.1)
          let fl := (ys.foldl (fun a y => a.or y.2) Raised.none).or (outs.foldl (fun a o => a.or o.2.2) .none)
          handOver s1 t q (ys.map fun y => { code := y.1, scale := 127 }) (Code.til 0x75) false fun s2 =>
            let keep (o : Table Nat) : Table Nat := if a.val ≠ 0 ∧ first = 0 then Table.empty else o
            let put (o : Table Nat) : Table Nat := outs.foldl (fun v o => v.set 0 o.1 o.2.1) (keep o)
            let s3 := s2.modBody t fun b => { b with outliers := put b.outliers }
            let items := (xs.zip ys).zipIdx.map fun p => match where' p.2 with
              | some _ => none
              | none => some (val32 p.1.1, dequant f scale (zpOf reg) p.1.2.1)
            let s4 := match stats with | some k => s3.addStats t k.val items | none => s3
            .ok (s4.raise t fl)
      if a.val = 0 then run []
      else if f = .int16 ∨ f = .bf16 then .fault (Code.til 0x41)
      else if total = 0 then run []
      else blockBytes held tl (windowOff t (aReg tl.before.regs a.val).toNat) (16 * ceilDiv total 256) fun bytes =>
        match parseMaps bytes total with
        | some maps => run maps
        | none => .fault (Code.til 0x41)

/-- Blocks of up to 32 elements quantised in turn (07 R182). -/
def mxBlocks (f : Fmt) : Nat → List FVal → List Elem × Raised
  | 0, _ => ([], .none)
  | _, [] => ([], .none)
  | n + 1, xs =>
    let h := mxQuantise f (xs.take 32)
    let r := mxBlocks f n (xs.drop 32)
    (h.1 ++ r.1, h.2.or r.2)

def mxStep (s : State) (t : Nat) (x : VSel) (q : Nat) (stats : Option (Fin 8)) (m : Nat) : OpRes :=
  let tl := s.tile t
  match (srcFault tl x .fp32).orElse fun _ => writeCheck tl q with
  | some f => .fault f
  | none =>
    let f := streamFmt tl q
    if !isMx f then .fault (Code.til 0x31)
    else if m = 0 then .ok s
    else takeLanes s t x .fp32 m fun s1 xs =>
      let (es, fl) := mxBlocks f 4 (xs.map val32)
      handOver s1 t q es (Code.til 0x75) false fun s2 =>
        let items := (xs.zip es).map fun p => some (val32 p.1, scaled p.2.scale (elemVal f p.2.code))
        let s3 := match stats with | some k => s2.addStats t k.val items | none => s2
        .ok (s3.raise t fl)

/-- Does REQUANT take int48 stream words? -/
def requantWords (x : Tile) (v : VSel) : Bool :=
  match v with
  | .v _ => false
  | .q q => streamFmt x q.val == .int48

/-- One vector of REQUANT: elements numbered from the original issue (11 R255). Its results are int32 lanes, narrowed to the stream's format (08 R188). -/
def requantStep (s : State) (t : Nat) (x : VSel) (q : Nat) (a : AReg) (sr : SReg) (first m : Nat) (held : Option (List Byte)) : OpRes :=
  let tl := s.tile t
  let words := requantWords tl x
  let bad := if words then (match x with | .q r => readCheck tl r.val | _ => none) else srcFault tl x .int32
  match bad.orElse fun _ => dstFault tl (.q (Fin.ofNat 8 q)) .int32 with
  | some f => .fault f
  | none =>
    if 28 < sr.val then .fault (Code.til 0x01)
    else blockBytes held tl (windowOff t (aReg tl.before.regs a.val).toNat) 1024 fun bytes =>
      match parseRqb bytes with
      | none => .fault (Code.til 0x40)
      | some r =>
        if !isIntOut r.out then .fault (Code.til 0x40)
        else if m = 0 then .ok s
        else
          let token (e : Nat) : Word := (sReg tl.before.regs (sr.val + e / 64 % 4)).setWidth 32
          let out (s : State) (vs : List Int) : OpRes :=
            let ys := (vs.zipIdx).map fun p =>
              let e := first + p.2
              requantise r p.1 0 (e % 64) (token e)
            let (es, fl) := narrowed (streamFmt tl q) .int32 (ys.map fun y => BitVec.ofInt 32 y.1)
            handOver s t q es (Code.til 0x75) false fun s1 => .ok (s1.raise t (ys.foldl (fun f y => f.or y.2) fl))
          match words, x with
          | true, .q k => takeElems s t k.val m 0x33 false (Code.til 0x75) fun s1 es =>
              out s1 (es.map fun e => intOf .int48 e.code)
          | _, _ => takeLanes s t x .int32 m fun s1 xs => out s1 (xs.map (·.toInt))

/-! ## VUPN, VUPB (08 R198, R199) -/

/-- Height and width of the plane from the scalar dm. -/
def planeOf (w : Dword) : Nat × Nat := (w.toNat % 65536, w.toNat / 65536 % 65536)

/-- An axis of the bilinear rule: the two input positions and the remainder. -/
def upAxis (f n o : Nat) : Nat × Nat × Nat :=
  let t : Int := 2 * (o : Int) + 1 - f
  let i0 := Int.fdiv t (2 * f)
  let r := t - 2 * f * i0
  let p : Int × Int := if i0 < 0 then (0, 0) else if (n : Int) - 1 ≤ i0 then ((n : Int) - 1, 0) else (i0, r)
  (p.1.toNat, min (p.1.toNat + 1) (n - 1), p.2.toNat)

/-- x × n / d, rounded once to FP32. -/
def mulRatio (x : Word) (n d : Nat) : Word :=
  match val32 x with
  | .fin g m e => BitVec.ofNat 32 (roundIeee fmt32 g (m * n) d e)
  | v => rne32 (v.mul (.fin false n 0))

/-- The interpolation of one output; factors of 1 copy (08 R198). -/
def bilinear (ty : LaneTy) (fy fx ry rx : Nat) (x00 x01 x10 x11 : Word) : Word :=
  if fy = 1 ∧ fx = 1 then x00
  else if ty = .int32 then
    let num : Int := ((2 * fy - ry) * (2 * fx - rx) : Nat) * x00.toInt + ((2 * fy - ry) * rx : Nat) * x01.toInt +
      (ry * (2 * fx - rx) : Nat) * x10.toInt + (ry * rx : Nat) * x11.toInt
    BitVec.ofInt 32 (rhuDiv num (4 * fy * fx))
  else
    let top := add32 (mulRatio x00 (2 * fx - rx) (2 * fx)) (mulRatio x01 rx (2 * fx))
    let bot := add32 (mulRatio x10 (2 * fx - rx) (2 * fx)) (mulRatio x11 rx (2 * fx))
    add32 (mulRatio top (2 * fy - ry) (2 * fy)) (mulRatio bot ry (2 * fy))

/-- One vector of outputs from output total − n on; input elements taken so far are kept until the plane ends. -/
def upStep (s : State) (t : Nat) (lin : Bool) (qi qo fy fx : Nat) (dm : SReg) (ty : LaneTy) (n m : Nat) : OpRes :=
  let tl := s.tile t
  if ty = .complex then .fault (Code.til 0x01)
  else match (srcFault tl (.q (Fin.ofNat 8 qi)) ty).orElse fun _ => dstFault tl (.q (Fin.ofNat 8 qo)) ty with
  | some f => .fault f
  | none =>
    let (h, w) := planeOf (sReg tl.before.regs dm.val)
    let total := h * fy * (w * fx)
    if h = 0 ∨ w = 0 ∨ total < n then .fault (Code.til 0x03)
    else if m = 0 then .ok s
    else
      let o0 := total - n
      let hist := tl.body.upHist
      let out (i : Nat) : Nat × Nat := ((o0 + i) / (w * fx), (o0 + i) % (w * fx))
      let corner (i : Nat) : List Nat :=
        let (oy, ox) := out i
        if lin then
          let (y0, y1, _) := upAxis fy h oy
          let (x0, x1, _) := upAxis fx w ox
          [y0 * w + x0, y0 * w + x1, y1 * w + x0, y1 * w + x1]
        else [oy / fy * w + ox / fx]
      let need := ((upTo m).flatMap corner).foldl max 0 + 1
      takeElems s t qi (need - hist.length) 0x33 false (Code.til 0x75) fun s1 es =>
        let all := hist ++ es
        let f := streamFmt tl qi
        let val (k : Nat) : Word := widen f ty (all.getD k { code := 0, scale := 127 })
        let ws := (upTo m).map fun i =>
          match corner i with
          | [a, b, c, d] =>
            let (oy, ox) := out i
            bilinear ty fy fx (upAxis fy h oy).2.2 (upAxis fx w ox).2.2 (val a) (val b) (val c) (val d)
          | l => val (l.headD 0)
        let s2 := s1.modBody t fun b => { b with upHist := if n = m then [] else all }
        putLanes s2 t (.q (Fin.ofNat 8 qo)) ty ws fun s3 => .ok s3

/-! ## Long and short operations (11 R252) -/

/-- Elements of one vector of an operation. -/
def vecPer (x : Tile) (op : VecOp) : Nat :=
  match op with
  | .upb .. => 64
  | .requant v .. => if requantWords x v then 64 else 128
  | _ => 128

/-- One vector of `m` elements: `first` elements are done, `n` are left, of `total`. -/
def vecStep (s : State) (t : Nat) (op : VecOp) (first m n total : Nat) (held : Option (List Byte)) : OpRes :=
  match op with
  | .chain ch x y dst => chainStep s t ch.val x y dst m (decide (n = m))
  | .red o ty sr x pred => redStep s t o ty sr x pred m
  | .quant x q sr a st => quantStep s t x q.val sr a st first m total held
  | .mxquant x q st => mxStep s t x q.val st m
  | .requant x q a sr => requantStep s t x q.val a sr first m held
  | .upn qi qo fy fx dm ty => upStep s t false qi.val qo.val (fy.val + 1) (fx.val + 1) dm ty n m
  | .upb qi qo fy fx dm ty => upStep s t true qi.val qo.val (fy.val + 1) (fx.val + 1) dm ty n m

/-- The bytes of an operation's block or map as they stand before the bundle; none for one that names no block. -/
def opBlock (x : Tile) (t : Nat) (op : VecOp) (total : Nat) : List Byte :=
  let at' (a : AReg) (n : Nat) : List Byte := spBytes x.before (windowOff t (aReg x.before.regs a.val).toNat) n
  match op with
  | .quant _ _ _ a _ => if a.val = 0 then [] else at' a (16 * ceilDiv total 256)
  | .requant _ _ a _ => at' a 1024
  | _ => []

/-- The input stream of an up-sampling. -/
def upInput : VecOp → Option QReg
  | .upn qi .. | .upb qi .. => some qi
  | _ => none

/-- Does an up-sampling wait for its input stream with the stream's buffer full? A plane wider than the buffer is taken in parts (08 R198). -/
def upFull (x : Tile) (op : VecOp) (h : Hold) : Bool :=
  match upInput op with
  | some q => h == .stream q.val && let st := x.body.streams.get StreamSt.init q.val
              st.desc.length ≤ st.pos + st.buf.length || decide (32768 / fmtBits (deliveredFmt st.desc) ≤ st.buf.length)
  | none => false

/-- An up-sampling that waits for more than its full buffer holds takes what it holds. -/
def upAbsorb (s : State) (t : Nat) (q : Nat) : OpRes :=
  let st := (s.body t).streams.get StreamSt.init q
  takeElems s t q st.buf.length 0x33 false (Code.til 0x75) fun s1 es => .ok (s1.modBody t fun b => { b with upHist := b.upHist ++ es })

/-- An up-sampling that begins a plane has taken nothing of it. -/
def upBegin (s : State) (t : Nat) (op : VecOp) (n : Nat) : State :=
  let regs := s.regsAt t
  let fresh (fy fx : Fin 8) (dm : SReg) : Bool :=
    let p := planeOf (sReg regs dm.val)
    p.1 * (fy.val + 1) * (p.2 * (fx.val + 1)) == n
  match op with
  | .upn _ _ fy fx dm _ | .upb _ _ fy fx dm _ => if fresh fy fx dm then s.modBody t fun b => { b with upHist := [] } else s
  | _ => s

/-- Issue of a vector operation with a count register: TI_COUNT, TI_LONG, the checks of its first vector; a short one is done
with its bundle, a long one begins, its block read and its registers kept as they stand at issue. -/
def vecIssue (op : VecOp) (n : SReg) (s : State) (t : Nat) : OpRes :=
  let x := s.tile t
  let cnt := (sReg x.before.regs n.val).toNat
  let per := vecPer x op
  let s0 := upBegin s t op cnt
  let start : OpRes := .ok (s0.modBody t fun b =>
    { b with longOp := some { op, n, total := cnt, done := 0, bundle := b.cur, preds := [], regs := x.before.regs
                              block := some (opBlock x t op cnt) } })
  if 16777215 < cnt then .fault (Code.til 0x03)
  else if cnt ≤ per then vecStep s0 t op 0 cnt cnt cnt none
  else if x.slots ≠ [.v] then .fault (Code.til 0x04)
  else match vecStep s0 t op 0 per cnt cnt none with
    | .ok _ => start
    | .hold h => if upFull x op h then start else .hold h
    | r => r

def execVchain (i : Issue) (ch : Fin 16) (x y dst : VSel) (n : SReg) (s : State) : Host.Outcome State Fault Refusal :=
  .next (runOp s i .v (vecIssue (.chain ch x y dst) n))

def execVred (i : Issue) (o : RedOp) (t : LaneTy) (sr : SReg) (x : VSel) (pred : Option PReg) (n : SReg) (s : State) :
    Host.Outcome State Fault Refusal :=
  .next (runOp s i .v (vecIssue (.red o t sr x pred) n))

def execQuant (i : Issue) (x : VSel) (q : QReg) (sr n : SReg) (a : AReg) (stats : Option (Fin 8)) (s : State) :
    Host.Outcome State Fault Refusal :=
  .next (runOp s i .v (vecIssue (.quant x q sr a stats) n))

def execMxquant (i : Issue) (x : VSel) (q : QReg) (n : SReg) (stats : Option (Fin 8)) (s : State) :
    Host.Outcome State Fault Refusal :=
  .next (runOp s i .v (vecIssue (.mxquant x q stats) n))

def execRequant (i : Issue) (x : VSel) (q : QReg) (a : AReg) (sr n : SReg) (s : State) : Host.Outcome State Fault Refusal :=
  .next (runOp s i .v (vecIssue (.requant x q a sr) n))

def execVupn (i : Issue) (qi qo : QReg) (fy fx : Fin 8) (dm n : SReg) (t : LaneTy) (s : State) :
    Host.Outcome State Fault Refusal :=
  .next (runOp s i .v (vecIssue (.upn qi qo fy fx dm t) n))

def execVupb (i : Issue) (qi qo : QReg) (fy fx : Fin 8) (dm n : SReg) (t : LaneTy) (s : State) :
    Host.Outcome State Fault Refusal :=
  .next (runOp s i .v (vecIssue (.upb qi qo fy fx dm t) n))

/-- A long operation that a drain stopped issues again: it reads its block as it stands now (11 R252). -/
def againAt (o : LongOp) (x : Tile) : Tile :=
  if o.block.isSome then x else { x with before := { x.body with regs := o.regs } }

/-- One more vector of a long operation: nothing moves while its data or its room is not there, but for an up-sampling whose full buffer holds less
than it needs; the count register falls with the vector and ends at 0 (11 R252, 08 R201). -/
def longStep (t : Nat) (s : State) : State :=
  let x := s.tile t
  match x.body.longOp with
  | none => s
  | some o =>
    if x.state ≠ .running then s
    else
      let s := s.setTile t (againAt o x)
      let n := o.total - o.done
      let m := min n (vecPer x o.op)
      match vecStep s t o.op o.done m n o.total o.block with
      | .hold h =>
        (match (if upFull x o.op h then upInput o.op else none) with
         | some q => (match upAbsorb s t q.val with
           | .ok s1 => s1.closeBundle t
           | .fault c => s.taskFault t c 1 false
           | .hold _ => s)
         | none => s.modTile t fun x =>
            { x with hold := some h, holdSince := if x.hold = some h then x.holdSince else s.clock.cycle })
      | .fault c => s.taskFault t c 1 false
      | .ok s1 =>
        let left := n - m
        let s2 := s1.modBody t fun b =>
          { b with regs := setS b.regs o.n.val (BitVec.ofNat 64 left),
                   longOp := if left = 0 then none else b.longOp.map fun l =>
                     { l with done := o.done + m, block := some (o.block.getD (opBlock (s.tile t) t o.op o.total)) } }
        (s2.modTile t fun x => { x with hold := none }).closeBundle t

def execLongOpVectorComplete (tile : TileId) (s : State) : Host.Outcome State Fault Refusal :=
  .next (longStep tile.val s)

/-! ## VTSCALE, VCOMPRESS, VEXPAND, VRNG -/

/-- VTSCALE: the scale to s with zero point 0, its record to s + 1 (07 R175). s = 31 fails the image check. -/
def vtscaleOp (sr : SReg) (int4 : Bool) (s : State) (t : Nat) : OpRes :=
  if sr.val = 31 then .fault (Code.til 0x01)
  else
    let (sc, record, fl) := tokenScale int4 ((sReg (s.regsAt t) sr.val).setWidth 32)
    .ok ((s.modRegs t fun r => setS (setS r sr.val (sc.setWidth 64)) (sr.val + 1) (record.setWidth 64)).raise t fl)

def execVtscale (i : Issue) (sr : SReg) (int4 : Bool) (s : State) : Host.Outcome State Fault Refusal :=
  .next (runOp s i .v (vtscaleOp sr int4))

/-- The lane type whose lanes a storage format holds. -/
def laneOf (f : Fmt) : Option LaneTy :=
  match f with
  | .fp32 | .bf16 | .e4m3 | .e5m2 | .mxfp4 | .e2m3 | .e3m2 | .mxint8 => some .fp32
  | .int32 | .int16 | .int8 | .uint8 | .int4 => some .int32
  | .cint16 => some .complex
  | .int48 => none

/-- VCOMPRESS: the lanes whose bit is 1, in ascending order; their number is added to d (08 R196). -/
def vcompressOp (x : VSel) (p : PReg) (q : Nat) (d : SReg) (s : State) (t : Nat) : OpRes :=
  let tl := s.tile t
  match writeCheck tl q with
  | some f => .fault f
  | none =>
    match laneOf (streamFmt tl q) with
    | none => .fault (Code.til 0x31)
    | some ty =>
      match (srcFault tl x ty).orElse fun _ => dstFault tl (.q (Fin.ofNat 8 q)) ty with
      | some f => .fault f
      | none => takeLanes s t x ty 128 fun s1 xs =>
          let keep := ((xs.zipIdx).filter fun e => (pReg tl.before.regs p.val).getLsbD e.2).map (·.1)
          let (es, fl) := narrowed (streamFmt tl q) ty keep
          handOver s1 t q es (Code.til 0x32) false fun s2 =>
            .ok ((s2.modRegs t fun r => setS r d.val (sReg tl.before.regs d.val + BitVec.ofNat 64 es.length)).raise t fl)

def execVcompress (i : Issue) (x : VSel) (p : PReg) (q : QReg) (d : SReg) (s : State) : Host.Outcome State Fault Refusal :=
  .next (runOp s i .v (vcompressOp x p q.val d))

/-- Elements placed in ascending order into the lanes whose bit is set, the fill into the others. -/
def expandLanes (p : BitVec 128) (fill : Nat → Word) : Nat → List Word → List Word
  | 0, _ => []
  | n + 1, es =>
    let i := 128 - (n + 1)
    if p.getLsbD i then es.headD 0 :: expandLanes p fill n (es.drop 1) else fill i :: expandLanes p fill n es

/-- VEXPAND: popcount(p) elements of q; VE_STREAM_END where q holds fewer (08 R197). -/
def vexpandOp (q : Nat) (p : PReg) (f : Fill) (v : VReg) (s : State) (t : Nat) : OpRes :=
  let tl := s.tile t
  match readCheck tl q with
  | some c => .fault c
  | none =>
    let fmt := streamFmt tl q
    match laneOf fmt with
    | none => .fault (Code.til 0x31)
    | some ty =>
      let mask := pReg tl.before.regs p.val
      let fill (i : Nat) : Word := match f with
        | .v r => vLane tl.before.regs r.val i
        | .zero => 0
        | .zeroCode => widen fmt ty { code := padCode (tl.body.streams.get StreamSt.init q).desc, scale := 127 }
      takeElems s t q (predCount mask) 0x33 false (Code.til 0x32) fun s1 es =>
        .ok (s1.modRegs t fun r => setV r v.val (expandLanes mask fill 128 (es.map (widen fmt ty))))

def execVexpand (i : Issue) (q : QReg) (p : PReg) (f : Fill) (v : VReg) (s : State) : Host.Outcome State Fault Refusal :=
  .next (runOp s i .v (vexpandOp q.val p f v))

/-- VRNG: the block of key (task seed, step counter, stream s[31:0]) and block s[63:32], which then goes up by 1 modulo 2^32. -/
def vrngOp (v : VReg) (sr : SReg) (s : State) (t : Nat) : OpRes :=
  let x := s.tile t
  let w := sReg x.before.regs sr.val
  let stream := w.toNat % 2 ^ 32
  let block := w.toNat / 2 ^ 32
  let words := randomBlock x.seed.toNat x.before.step.toNat stream block
  .ok (s.modRegs t fun r => setS (setV r v.val words) sr.val (BitVec.ofNat 64 ((block + 1) % 2 ^ 32 * 2 ^ 32 + stream)))

def execVrng (i : Issue) (v : VReg) (sr : SReg) (s : State) : Host.Outcome State Fault Refusal :=
  .next (runOp s i .v (vrngOp v sr))

end Sys2Proof.Machine
end

