-- ==== Sys2Proof/Machine/Dispatch.lean ====
section
/-! DEFINITION. The dispatch: one arm per command, each one call of its meaning. -/
namespace Sys2Proof.Machine

def exec (i : Instr) (s : State) : Host.Outcome State Fault Refusal :=
  match i with
  | .npFrameReceive port f => Sys2Proof.Machine.execNpFrameReceive port f s
  | .portLinkLoss port => Sys2Proof.Machine.execPortLinkLoss port s
  | .mkaExchange port cak => Sys2Proof.Machine.execMkaExchange port cak s
  | .arpNdReply port v6 target => Sys2Proof.Machine.execArpNdReply port v6 target s
  | .claimPreWake entry => Sys2Proof.Machine.execClaimPreWake entry s
  | .claimPreemptRequest entry => Sys2Proof.Machine.execClaimPreemptRequest entry s
  | .claimReassign entry => Sys2Proof.Machine.execClaimReassign entry s
  | .claimEntryOffset entry slot => Sys2Proof.Machine.execClaimEntryOffset entry slot s
  | .claimTaskEnd entry => Sys2Proof.Machine.execClaimTaskEnd entry s
  | .cellConfig h ul dl => Sys2Proof.Machine.execCellConfig h ul dl s
  | .ulSlotConfig cfg t0 => Sys2Proof.Machine.execUlSlotConfig cfg t0 s
  | .uplaneSection sec t0 => Sys2Proof.Machine.execUplaneSection sec t0 s
  | .harqStagingStart cell slot => Sys2Proof.Machine.execHarqStagingStart cell slot s
  | .harqStagingComplete cell slot pusch => Sys2Proof.Machine.execHarqStagingComplete cell slot pusch s
  | .ulStageComplete cell slot part stage upto => Sys2Proof.Machine.execUlStageComplete cell slot part stage upto s
  | .prachDetection cell slot occasion => Sys2Proof.Machine.execPrachDetection cell slot occasion s
  | .codeBlockDecoded cell slot pusch block => Sys2Proof.Machine.execCodeBlockDecoded cell slot pusch block s
  | .ulSlotDecided cell slot => Sys2Proof.Machine.execUlSlotDecided cell slot s
  | .harqWritebackComplete ue harq => Sys2Proof.Machine.execHarqWritebackComplete ue harq s
  | .ulSlotDeadline cell slot => Sys2Proof.Machine.execUlSlotDeadline cell slot s
  | .dlSlotConfig cfg t0 => Sys2Proof.Machine.execDlSlotConfig cfg t0 s
  | .dlEncodeComplete cell slot => Sys2Proof.Machine.execDlEncodeComplete cell slot s
  | .precoderComplete cell slot upto => Sys2Proof.Machine.execPrecoderComplete cell slot upto s
  | .cplaneSend cell slot => Sys2Proof.Machine.execCplaneSend cell slot s
  | .dlSymbolWindowOpen cell slot sym => Sys2Proof.Machine.execDlSymbolWindowOpen cell slot sym s
  | .dlSymbolWindowClose cell slot sym => Sys2Proof.Machine.execDlSymbolWindowClose cell slot sym s
  | .sweepConfig h chan r => Sys2Proof.Machine.execSweepConfig h chan r s
  | .sweepCtx h ctx addr chan => Sys2Proof.Machine.execSweepCtx h ctx addr chan s
  | .sweepDownlinkItem addr item => Sys2Proof.Machine.execSweepDownlinkItem addr item s
  | .sweepSection sec => Sys2Proof.Machine.execSweepSection sec s
  | .sweepSampleErase chan stream time => Sys2Proof.Machine.execSweepSampleErase chan stream time s
  | .sweepWindow chan order start dn => Sys2Proof.Machine.execSweepWindow chan order start dn s
  | .sweepReceptionStart chan order down bin dnBin => Sys2Proof.Machine.execSweepReceptionStart chan order down bin dnBin s
  | .sweepSymbolDecided chan recep sym => Sys2Proof.Machine.execSweepSymbolDecided chan recep sym s
  | .sweepHeaderDecoded chan recep => Sys2Proof.Machine.execSweepHeaderDecoded chan recep s
  | .sweepPayloadDecoded chan recep => Sys2Proof.Machine.execSweepPayloadDecoded chan recep s
  | .sweepAckTransmit chan recep => Sys2Proof.Machine.execSweepAckTransmit chan recep s
  | .adaptConfig h r => Sys2Proof.Machine.execAdaptConfig h r s
  | .sampleLabelWrite set => Sys2Proof.Machine.execSampleLabelWrite set s
  | .sampleDropTimeout set => Sys2Proof.Machine.execSampleDropTimeout set s
  | .trainingStep set => Sys2Proof.Machine.execTrainingStep set s
  | .guardWindowEnd set => Sys2Proof.Machine.execGuardWindowEnd set s
  | .adaptControl h set op => Sys2Proof.Machine.execAdaptControl h set op s
  | .freeze set => Sys2Proof.Machine.execFreeze set s
  | .unfreeze set => Sys2Proof.Machine.execUnfreeze set s
  | .select set version => Sys2Proof.Machine.execSelect set version s
  | .pin set version => Sys2Proof.Machine.execPin set version s
  | .unpin set version => Sys2Proof.Machine.execUnpin set version s
  | .discardPool set => Sys2Proof.Machine.execDiscardPool set s
  | .adaptStatus h set => Sys2Proof.Machine.execAdaptStatus h set s
  | .adaptSave h set version addr => Sys2Proof.Machine.execAdaptSave h set version addr s
  | .adaptLoad h set src => Sys2Proof.Machine.execAdaptLoad h set src s
  | .frameBoundary => Sys2Proof.Machine.execFrameBoundary s
  | .mclr iss e t => Sys2Proof.Machine.execMclr iss e t s
  | .mmac iss e b fa fw q cj half => Sys2Proof.Machine.execMmac iss e b fa fw q cj half s
  | .mout iss e m q a sr => Sys2Proof.Machine.execMout iss e m q a sr s
  | .mwld iss b q => Sys2Proof.Machine.execMwld iss b q s
  | .mwldt iss b q => Sys2Proof.Machine.execMwldt iss b q s
  | .weightLoadComplete tile b => Sys2Proof.Machine.execWeightLoadComplete tile b s
  | .alu iss d a b f => Sys2Proof.Machine.execAlu iss d a b f s
  | .alui iss d a f imm => Sys2Proof.Machine.execAlui iss d a f imm s
  | .li iss d imm => Sys2Proof.Machine.execLi iss d imm s
  | .lih iss d k imm => Sys2Proof.Machine.execLih iss d k imm s
  | .amov iss toScalar a sr => Sys2Proof.Machine.execAmov iss toScalar a sr s
  | .aaddi iss d a imm => Sys2Proof.Machine.execAaddi iss d a imm s
  | .extr iss d a pos w => Sys2Proof.Machine.execExtr iss d a pos w s
  | .br iss c a off => Sys2Proof.Machine.execBr iss c a off s
  | .bdec iss a off => Sys2Proof.Machine.execBdec iss a off s
  | .jal iss d off => Sys2Proof.Machine.execJal iss d off s
  | .jr iss a => Sys2Proof.Machine.execJr iss a s
  | .semWait iss n => Sys2Proof.Machine.execSemWait iss n s
  | .semSignal iss n => Sys2Proof.Machine.execSemSignal iss n s
  | .semTry iss n d => Sys2Proof.Machine.execSemTry iss n d s
  | .fence iss mout qmask => Sys2Proof.Machine.execFence iss mout qmask s
  | .poolq iss a => Sys2Proof.Machine.execPoolq iss a s
  | .endt iss => Sys2Proof.Machine.execEndt iss s
  | .stepinc iss => Sys2Proof.Machine.execStepinc iss s
  | .rdtask iss d f => Sys2Proof.Machine.execRdtask iss d f s
  | .xred iss a l => Sys2Proof.Machine.execXred iss a l s
  | .xbc iss a l => Sys2Proof.Machine.execXbc iss a l s
  | .qld iss q a => Sys2Proof.Machine.execQld iss q a s
  | .qcrest iss q sr => Sys2Proof.Machine.execQcrest iss q sr s
  | .qlift iss q => Sys2Proof.Machine.execQlift iss q s
  | .qwait iss q => Sys2Proof.Machine.execQwait iss q s
  | .sld iss d a off => Sys2Proof.Machine.execSld iss d a off s
  | .sst iss d a off => Sys2Proof.Machine.execSst iss d a off s
  | .vld iss v q t => Sys2Proof.Machine.execVld iss v q t s
  | .vst iss v q t => Sys2Proof.Machine.execVst iss v q t s
  | .vbcast iss v sr => Sys2Proof.Machine.execVbcast iss v sr s
  | .vmov iss v u => Sys2Proof.Machine.execVmov iss v u s
  | .pset iss p m sr => Sys2Proof.Machine.execPset iss p m sr s
  | .plogic iss p x y f => Sys2Proof.Machine.execPlogic iss p x y f s
  | .popc iss d p => Sys2Proof.Machine.execPopc iss d p s
  | .vchain iss ch x y dst n => Sys2Proof.Machine.execVchain iss ch x y dst n s
  | .vred iss o t sr x pred n => Sys2Proof.Machine.execVred iss o t sr x pred n s
  | .vtscale iss sr int4 => Sys2Proof.Machine.execVtscale iss sr int4 s
  | .quant iss x q sr n a stats => Sys2Proof.Machine.execQuant iss x q sr n a stats s
  | .mxquant iss x q n stats => Sys2Proof.Machine.execMxquant iss x q n stats s
  | .requant iss x q a sr n => Sys2Proof.Machine.execRequant iss x q a sr n s
  | .vcompress iss x p q d => Sys2Proof.Machine.execVcompress iss x p q d s
  | .vexpand iss q p f v => Sys2Proof.Machine.execVexpand iss q p f v s
  | .vupn iss qi qo fy fx dm n t => Sys2Proof.Machine.execVupn iss qi qo fy fx dm n t s
  | .vupb iss qi qo fy fx dm n t => Sys2Proof.Machine.execVupb iss qi qo fy fx dm n t s
  | .vrng iss v sr => Sys2Proof.Machine.execVrng iss v sr s
  | .longOpVectorComplete tile => Sys2Proof.Machine.execLongOpVectorComplete tile s
  | .assign tile d => Sys2Proof.Machine.execAssign tile d s
  | .tileLoad tile ref => Sys2Proof.Machine.execTileLoad tile ref s
  | .imageLoadCheck tile => Sys2Proof.Machine.execImageLoadCheck tile s
  | .tilePreempt tile => Sys2Proof.Machine.execTilePreempt tile s
  | .tileKill tile => Sys2Proof.Machine.execTileKill tile s
  | .tileZeroise tile => Sys2Proof.Machine.execTileZeroise tile s
  | .drainComplete tile => Sys2Proof.Machine.execDrainComplete tile s
  | .zeroiseComplete tile => Sys2Proof.Machine.execZeroiseComplete tile s
  | .taskFault tile f => Sys2Proof.Machine.execTaskFault tile f s
  | .tagWaitLimit tile => Sys2Proof.Machine.execTagWaitLimit tile s
  | .scrubStep tile polder => Sys2Proof.Machine.execScrubStep tile polder s
  | .polderAlloc tile polder p => Sys2Proof.Machine.execPolderAlloc tile polder p s
  | .polderRelease tile polder => Sys2Proof.Machine.execPolderRelease tile polder s
  | .lockedPolderZeroiseStart tile polder => Sys2Proof.Machine.execLockedPolderZeroiseStart tile polder s
  | .polderZeroiseComplete tile polder => Sys2Proof.Machine.execPolderZeroiseComplete tile polder s
  | .creditRequest tile r => Sys2Proof.Machine.execCreditRequest tile r s
  | .creditGrant tile => Sys2Proof.Machine.execCreditGrant tile s
  | .remoteWrite tile w => Sys2Proof.Machine.execRemoteWrite tile w s
  | .sluiceNoCredit tile => Sys2Proof.Machine.execSluiceNoCredit tile s
  | .remoteRead tile off n who => Sys2Proof.Machine.execRemoteRead tile off n who s
  | .streamFetch tile q n => Sys2Proof.Machine.execStreamFetch tile q n s
  | .fetchReturn tile q => Sys2Proof.Machine.execFetchReturn tile q s
  | .streamWriteLand tile q n => Sys2Proof.Machine.execStreamWriteLand tile q n s
  | .wcLineFill line => Sys2Proof.Machine.execWcLineFill line s
  | .memRefresh chan hot => Sys2Proof.Machine.execMemRefresh chan hot s
  | .patrolScrubPass => Sys2Proof.Machine.execPatrolScrubPass s
  | .clusterPageRelease c page => Sys2Proof.Machine.execClusterPageRelease c page s
  | .poolJobStart c => Sys2Proof.Machine.execPoolJobStart c s
  | .poolJobComplete c => Sys2Proof.Machine.execPoolJobComplete c s
  | .submit h b => Sys2Proof.Machine.execSubmit h b s
  | .taskPlace => Sys2Proof.Machine.execTaskPlace s
  | .taskYield tile => Sys2Proof.Machine.execTaskYield tile s
  | .graphEnd job => Sys2Proof.Machine.execGraphEnd job s
  | .complete job => Sys2Proof.Machine.execComplete job s
  | .notificationResend session seq => Sys2Proof.Machine.execNotificationResend session seq s
  | .notificationAck session ref => Sys2Proof.Machine.execNotificationAck session ref s
  | .kill h job => Sys2Proof.Machine.execKill h job s
  | .jobStatus h job => Sys2Proof.Machine.execJobStatus h job s
  | .cycLoad h addr => Sys2Proof.Machine.execCycLoad h addr s
  | .graphDeadline job => Sys2Proof.Machine.execGraphDeadline job s
  | .assuredTaskDeadline job task => Sys2Proof.Machine.execAssuredTaskDeadline job task s
  | .cmac iss acc a b conj neg => Sys2Proof.Machine.execCmac iss acc a b conj neg s
  | .cmacr iss acc a b conj neg => Sys2Proof.Machine.execCmacr iss acc a b conj neg s
  | .ftap iss acc a conj neg mv => Sys2Proof.Machine.execFtap iss acc a conj neg mv s
  | .tupd iss a dq dh neg => Sys2Proof.Machine.execTupd iss a dq dh neg s
  | .tcopy iss a b => Sys2Proof.Machine.execTcopy iss a b s
  | .cpow iss acc a b neg => Sys2Proof.Machine.execCpow iss acc a b neg s
  | .ald iss acc a sh => Sys2Proof.Machine.execAld iss acc a sh s
  | .anrw iss acc a sh w32 => Sys2Proof.Machine.execAnrw iss acc a sh w32 s
  | .cspCmul iss dst a b sh conj => Sys2Proof.Machine.execCspCmul iss dst a b sh conj s
  | .aclr iss acc => Sys2Proof.Machine.execAclr iss acc s
  | .movi iss dst imm => Sys2Proof.Machine.execMovi iss dst imm s
  | .movhi iss dst imm => Sys2Proof.Machine.execMovhi iss dst imm s
  | .ld iss d a => Sys2Proof.Machine.execLd iss d a s
  | .ld64 iss d a => Sys2Proof.Machine.execLd64 iss d a s
  | .st iss d a => Sys2Proof.Machine.execSt iss d a s
  | .st2 iss d a b => Sys2Proof.Machine.execSt2 iss d a b s
  | .cspAlu iss dst a b f => Sys2Proof.Machine.execCspAlu iss dst a b f s
  | .seta iss dst a imm => Sys2Proof.Machine.execSeta iss dst a imm s
  | .setm iss dst a imm => Sys2Proof.Machine.execSetm iss dst a imm s
  | .rcpn iss dst a => Sys2Proof.Machine.execRcpn iss dst a s
  | .rpt iss n clr => Sys2Proof.Machine.execRpt iss n clr s
  | .loop iss d off => Sys2Proof.Machine.execLoop iss d off s
  | .cspBr iss d cond off => Sys2Proof.Machine.execCspBr iss d cond off s
  | .call iss off => Sys2Proof.Machine.execCall iss off s
  | .ret iss => Sys2Proof.Machine.execRet iss s
  | .iret iss => Sys2Proof.Machine.execIret iss s
  | .lsave iss a => Sys2Proof.Machine.execLsave iss a s
  | .lrest iss a => Sys2Proof.Machine.execLrest iss a s
  | .wait iss mask => Sys2Proof.Machine.execWait iss mask s
  | .sig iss n => Sys2Proof.Machine.execSig iss n s
  | .ei iss => Sys2Proof.Machine.execEi iss s
  | .di iss => Sys2Proof.Machine.execDi iss s
  | .halt iss => Sys2Proof.Machine.execHalt iss s
  | .cspInterrupt c => Sys2Proof.Machine.execCspInterrupt c s
  | .cspRun c image => Sys2Proof.Machine.execCspRun c image s
  | .cspForceStop c => Sys2Proof.Machine.execCspForceStop c s
  | .cspZero c => Sys2Proof.Machine.execCspZero c s
  | .cspZeroiseComplete c => Sys2Proof.Machine.execCspZeroiseComplete c s
  | .cspExternalAccess c cause a => Sys2Proof.Machine.execCspExternalAccess c cause a s
  | .cspExternalSteal c => Sys2Proof.Machine.execCspExternalSteal c s
  | .arrayConfig h nx ny x y master => Sys2Proof.Machine.execArrayConfig h nx ny x y master s
  | .linkAdmission link ident => Sys2Proof.Machine.execLinkAdmission link ident s
  | .linkAdmitTimeout link => Sys2Proof.Machine.execLinkAdmitTimeout link s
  | .flitReceive link f chk => Sys2Proof.Machine.execFlitReceive link f chk s
  | .retrain link => Sys2Proof.Machine.execRetrain link s
  | .arrayTimeMessage link theta replayed => Sys2Proof.Machine.execArrayTimeMessage link theta replayed s
  | .arrayResetMessage link => Sys2Proof.Machine.execArrayResetMessage link s
  | .recordConfig h bases sizes => Sys2Proof.Machine.execRecordConfig h bases sizes s
  | .recordStart h slot => Sys2Proof.Machine.execRecordStart h slot s
  | .recordStop h => Sys2Proof.Machine.execRecordStop h s
  | .recordSave h ring addr => Sys2Proof.Machine.execRecordSave h ring addr s
  | .recordLoad h ring addr => Sys2Proof.Machine.execRecordLoad h ring addr s
  | .replayStart h bases => Sys2Proof.Machine.execReplayStart h bases s
  | .replayStatus h => Sys2Proof.Machine.execReplayStatus h s
  | .replayStop h => Sys2Proof.Machine.execReplayStop h s
  | .replayEntryDeliver => Sys2Proof.Machine.execReplayEntryDeliver s
  | .copySignature job copy => Sys2Proof.Machine.execCopySignature job copy s
  | .selftestSliceStart entry => Sys2Proof.Machine.execSelftestSliceStart entry s
  | .selftestSegmentEnd tile signature => Sys2Proof.Machine.execSelftestSegmentEnd tile signature s
  | .fttiWindowEnd => Sys2Proof.Machine.execFttiWindowEnd s
  | .regionSet h index domain rsvd02 base size rsvd0c => Sys2Proof.Machine.execRegionSet h index domain rsvd02 base size rsvd0c s
  | .regionZeroiseComplete index => Sys2Proof.Machine.execRegionZeroiseComplete index s
  | .crossingPeriodEnd => Sys2Proof.Machine.execCrossingPeriodEnd s
  | .crossingConfig h r => Sys2Proof.Machine.execCrossingConfig h r s
  | .load h offset length => Sys2Proof.Machine.execLoad h offset length s
  | .rollbackCommit h good => Sys2Proof.Machine.execRollbackCommit h good s
  | .modelLoad h addr region => Sys2Proof.Machine.execModelLoad h addr region s
  | .modelUnload h slot => Sys2Proof.Machine.execModelUnload h slot s
  | .quote h nonce => Sys2Proof.Machine.execQuote h nonce s
  | .fuseWrite h field => Sys2Proof.Machine.execFuseWrite h field s
  | .sealFuse h => Sys2Proof.Machine.execSealFuse h s
  | .debugChallenge h => Sys2Proof.Machine.execDebugChallenge h s
  | .debugUnlock h b => Sys2Proof.Machine.execDebugUnlock h b s
  | .keyStoreAccess => Sys2Proof.Machine.execKeyStoreAccess s
  | .supplyGlitch => Sys2Proof.Machine.execSupplyGlitch s
  | .clockGlitch => Sys2Proof.Machine.execClockGlitch s
  | .extest => Sys2Proof.Machine.execExtest s
  | .idcode => Sys2Proof.Machine.execIdcode s
  | .samplePreload => Sys2Proof.Machine.execSamplePreload s
  | .intest => Sys2Proof.Machine.execIntest s
  | .clamp => Sys2Proof.Machine.execClamp s
  | .highz => Sys2Proof.Machine.execHighz s
  | .rstreg => Sys2Proof.Machine.execRstreg s
  | .debugAccess code => Sys2Proof.Machine.execDebugAccess code s
  | .bypass => Sys2Proof.Machine.execBypass s
  | .qcpDatagramDrop port => Sys2Proof.Machine.execQcpDatagramDrop port s
  | .stateRead h => Sys2Proof.Machine.execStateRead h s
  | .recorderRead h first count => Sys2Proof.Machine.execRecorderRead h first count s
  | .reset h level => Sys2Proof.Machine.execReset h level s
  | .sessionOpen h => Sys2Proof.Machine.execSessionOpen h s
  | .sessionAuth h b => Sys2Proof.Machine.execSessionAuth h b s
  | .sessionClose h => Sys2Proof.Machine.execSessionClose h s
  | .sessionTimeout session => Sys2Proof.Machine.execSessionTimeout session s
  | .memWrite h addr data => Sys2Proof.Machine.execMemWrite h addr data s
  | .memRead h addr n => Sys2Proof.Machine.execMemRead h addr n s
  | .bermStart h b => Sys2Proof.Machine.execBermStart h b s
  | .start h => Sys2Proof.Machine.execStart h s
  | .run h => Sys2Proof.Machine.execRun h s
  | .roleKeySet h entries => Sys2Proof.Machine.execRoleKeySet h entries s
  | .timeConfig h c => Sys2Proof.Machine.execTimeConfig h c s
  | .relock h => Sys2Proof.Machine.execRelock h s
  | .logConfig h base records level => Sys2Proof.Machine.execLogConfig h base records level s
  | .traceSet h mask => Sys2Proof.Machine.execTraceSet h mask s
  | .dumpReady job => Sys2Proof.Machine.execDumpReady job s
  | .fwFault core cause pcLo pcHi => Sys2Proof.Machine.execFwFault core cause pcLo pcHi s
  | .evrRecordWrite => Sys2Proof.Machine.execEvrRecordWrite s
  | .refMonitorWindow count => Sys2Proof.Machine.execRefMonitorWindow count s
  | .synFcwFrame => Sys2Proof.Machine.execSynFcwFrame s
  | .synceMeasure offset => Sys2Proof.Machine.execSynceMeasure offset s
  | .ptpOffset theta => Sys2Proof.Machine.execPtpOffset theta s
  | .announceTimeout => Sys2Proof.Machine.execAnnounceTimeout s
  | .holdoverLimit => Sys2Proof.Machine.execHoldoverLimit s
  | .txTimestamp ident port => Sys2Proof.Machine.execTxTimestamp ident port s
  | .txtsPop => Sys2Proof.Machine.execTxtsPop s
  | .timeReadLatch => Sys2Proof.Machine.execTimeReadLatch s
  | .timStepWrite step => Sys2Proof.Machine.execTimStepWrite step s
  | .ppsArm n p => Sys2Proof.Machine.execPpsArm n p s
  | .ppsEdge n => Sys2Proof.Machine.execPpsEdge n s
  | .ppsPulseEnd n => Sys2Proof.Machine.execPpsPulseEnd n s
  | .tileIdleRetain tile => Sys2Proof.Machine.execTileIdleRetain tile s
  | .tileRetainOff tile => Sys2Proof.Machine.execTileRetainOff tile s
  | .retainScrubWake => Sys2Proof.Machine.execRetainScrubWake s
  | .domainWakeComplete d t => Sys2Proof.Machine.execDomainWakeComplete d t s
  | .powerEstimate deciwatts => Sys2Proof.Machine.execPowerEstimate deciwatts s
  | .thermalUpdate tj => Sys2Proof.Machine.execThermalUpdate tj s
  | .thermalTrip sensor => Sys2Proof.Machine.execThermalTrip sensor s
  | .ageingPlan vreq => Sys2Proof.Machine.execAgeingPlan vreq s
  | .ageNearmiss c => Sys2Proof.Machine.execAgeNearmiss c s
  | .ageStepdown c => Sys2Proof.Machine.execAgeStepdown c s
  | .stbyNRise => Sys2Proof.Machine.execStbyNRise s
  | .powerOn cpRole => Sys2Proof.Machine.execPowerOn cpRole s
  | .pwrgdFall => Sys2Proof.Machine.execPwrgdFall s
  | .resetNAssert => Sys2Proof.Machine.execResetNAssert s
  | .schWatchdogExpire => Sys2Proof.Machine.execSchWatchdogExpire s
  | .secWatchdogExpire => Sys2Proof.Machine.execSecWatchdogExpire s
  | .wdtArm period => Sys2Proof.Machine.execWdtArm period s
  | .wdtKickSch => Sys2Proof.Machine.execWdtKickSch s
  | .wdtKickSec => Sys2Proof.Machine.execWdtKickSec s
  | .trimLoadAttempt pass => Sys2Proof.Machine.execTrimLoadAttempt pass s
  | .blockRelease d => Sys2Proof.Machine.execBlockRelease d s
  | .clockStuckTimeout b => Sys2Proof.Machine.execClockStuckTimeout b s
  | .cluReload c => Sys2Proof.Machine.execCluReload c s
  | .ldpQueueRead bank => Sys2Proof.Machine.execLdpQueueRead bank s
  | .registerWrite master addr four value => Sys2Proof.Machine.execRegisterWrite master addr four value s
  | .resetNRelease => Sys2Proof.Machine.execResetNRelease s
  | .stbyNFall => Sys2Proof.Machine.execStbyNFall s
  | .portLinkUp port => Sys2Proof.Machine.execPortLinkUp port s
  | .sweepAckComplete chan recep => Sys2Proof.Machine.execSweepAckComplete chan recep s
  | .slewComplete => Sys2Proof.Machine.execSlewComplete s
  | .selftestSliceEnd entry => Sys2Proof.Machine.execSelftestSliceEnd entry s
  | .modelLoadComplete => Sys2Proof.Machine.execModelLoadComplete s
  | .qcpUnknownType h type => Sys2Proof.Machine.execQcpUnknownType h type s
  | .ptpMessageTransmit port msg => Sys2Proof.Machine.execPtpMessageTransmit port msg s

end Sys2Proof.Machine
end

