-- ==== Sys2Proof/Safety.lean ====
section
/-! DEFINITION. What a safe step is, and the terms the claims use: when an operation of a tile's or CSP's program issues, when a request is
served. -/
namespace Sys2Proof

/-- The step at `s` neither faults nor is refused. -/
def SafeStep (s : Machine.State) : Prop := ∃ t, Machine.step s = .next t

namespace Machine

/-! ## The canonical form -/

/-- External memory is in canonical form: addresses rise strictly, and no listed byte or key is what an unlisted one reads as. -/
def State.memWf (s : State) : Bool := s.mem.bytes.wf 0 && s.mem.unitKey.wf 0

/-! ## Operations of a tile's program (11 R244–R246) -/

/-- Does an operation join the bundle in issue? -/
def joins (s : State) (i : Issue) : Bool := i.joint && !(s.tile i.tile.val).slots.isEmpty

/-- The state an operation meets: one that begins a bundle comes after the statistics of those before it have landed. -/
def lead (s : State) (i : Issue) : State := if joins s i then s else s.flushStats i.tile.val

/-- Can an operation of a slot issue: no long operation is under way, and the bundle it joins is open, not held and in its earlier slots, or the
tile runs and the next bundle exists? -/
def issues (s : State) (i : Issue) (slot : Slot) : Bool :=
  let x := (lead s i).tile i.tile.val
  x.body.longOp.isNone &&
    (if joins s i then bundleOpen x && x.hold.isNone && x.slots.all (fun k => decide (slotCode k < slotCode slot))
     else x.state == .running && !(i.joint && (x.hold.isSome || !x.slots.isEmpty)) && decide (x.body.pc < x.nBundles))

/-- The state in which an operation that issues takes its effect: the bundle it joins, or the one it begins. -/
def begun (s : State) (i : Issue) (slot : Slot) : State :=
  let t := i.tile.val
  let x := (lead s i).tile t
  if joins s i then (lead s i).setTile t { x with slots := x.slots ++ [slot] } else (lead s i).setTile t (beginBundle x slot)

/-- After an operation has had its effect nothing holds its bundle. -/
def ended (s : State) (i : Issue) : State := s.modTile i.tile.val fun x => { x with hold := none }

/-- A command completes as an operation of a slot: wherever it issues and its operands are there, its effect is the next state. -/
def Runs (c : Instr) (i : Issue) (slot : Slot) (op : State → Nat → OpRes) : Prop :=
  ∀ s s1, issues s i slot = true → op (begun s i slot) i.tile.val = .ok s1 → exec c s = .next (ended s1 i)

/-- A command completes as an operation without conditions of its own: registers and status of the tile change as `f` says. -/
def Writes (c : Instr) (i : Issue) (slot : Slot) (f : State → State) : Prop :=
  ∀ s, issues s i slot = true → exec c s = .next (ended (f (begun s i slot)) i)

/-- A command completes as an operation of a slot: wherever it issues and `can` holds of the state, its effect is `f`. -/
def Completes (c : Instr) (i : Issue) (slot : Slot) (can : State → Prop) (f : State → State) : Prop :=
  ∀ s, issues s i slot = true → can (begun s i slot) → exec c s = .next (ended (f (begun s i slot)) i)

/-- A command completes as an operation of a slot with an effect of which `P` holds, beside the state in which it took effect. -/
def Achieves (c : Instr) (i : Issue) (slot : Slot) (can : State → Prop) (P : State → State → Prop) : Prop :=
  ∀ s, issues s i slot = true → can (begun s i slot) → ∃ s1, P (begun s i slot) s1 ∧ exec c s = .next (ended s1 i)

/-! ## What operations find in streams and in the scratchpad (11 R250, R251, 12 R272, 13 R290) -/

/-- Read stream `q` of tile `t` has its next `n` elements for an operation: it is loaded, no copy stream, and feeds no weight load, its length
and its crest admit them, and they are buffered and good. -/
def canTake (s : State) (t q n : Nat) : Bool :=
  let st := (s.body t).streams.get StreamSt.init q
  decide (q < 4) && st.valid && (n == 0 ||
    (decide (st.pos + n ≤ st.desc.length) && (match st.crest with | some c => decide (st.pos + n ≤ c) | none => true) &&
     decide (n ≤ st.buf.length) && !loadingFrom (s.body t) q && !st.desc.copy && !(st.buf.take n).any (·.bad)))

/-- The next `n` elements of a read stream. -/
def nextElems (s : State) (t q n : Nat) : List Elem := ((s.body t).streams.get StreamSt.init q).buf.take n

/-- The stream after `n` elements are taken. -/
def tookElems (s : State) (t q n : Nat) : State :=
  if n = 0 then s else s.modBody t fun b =>
    let st := b.streams.get StreamSt.init q
    { b with streams := b.streams.set StreamSt.init q { st with pos := st.pos + n, buf := st.buf.drop n } }

/-- Write stream `q` of tile `t` takes `n` elements: it is loaded, its length admits them and its buffer has room. -/
def canGive (s : State) (t q n : Nat) : Bool :=
  let st := (s.body t).streams.get StreamSt.init q
  decide (4 ≤ q) && st.valid && (n == 0 || (decide (st.pos + n ≤ st.desc.length) && decide (pendBytes st < 512)))

/-- A stream that keeps its elements as given holds `es` beside what waits: the writes of each, in order. -/
def gaveElems (s : State) (t q : Nat) (es : List Elem) : State :=
  if es.isEmpty then s else s.modBody t fun b =>
    let st := b.streams.get StreamSt.init q
    let st1 := if st.desc.compress then unitRun st.desc 0 es st
      else { st with pos := st.pos + es.length, pend := st.pend ++ es.zipIdx.flatMap fun p => elemWrites s t st.desc 0 (st.pos + p.2) p.1 }
    { b with streams := b.streams.set StreamSt.init q st1 }

/-- A peek of `n` bytes finds the job's polders, their slots full and no word beyond correction, as the scratchpad stood before the bundle. -/
def canPeek (s : State) (t off n : Nat) : Bool :=
  let y := { s.tile t with body := (s.tile t).before }
  heldRange y off n && (tagWait y off n true).isNone && !spUnreadable y.body off n

/-- The bytes a peek finds. -/
def peeked (s : State) (t off n : Nat) : List Byte := spBytes (s.tile t).before off n

/-- An address register's scratchpad offset. -/
def offAt (s : State) (t : Nat) (a : AReg) : Nat := windowOff t (aReg (s.regsAt t) a.val).toNat

/-- The count register of an operation. -/
def countAt (s : State) (t : Nat) (n : SReg) : Nat := (sReg (s.regsAt t) n.val).toNat

/-- A source of a vector operation has `m` lanes: a register always, a stream of a format of its lane type its next elements. -/
def canLanes (s : State) (t : Nat) (x : VSel) (ty : LaneTy) (m : Nat) : Bool :=
  match x with
  | .v _ => true
  | .q q => canTake s t q.val m && (laneReads ty).contains (streamFmt (s.tile t) q.val)

def lanesOf (s : State) (t : Nat) (x : VSel) (ty : LaneTy) (m : Nat) : List Word :=
  match x with
  | .v r => (vLanes (s.regsAt t) r.val).take m
  | .q q => (nextElems s t q.val m).map (widen (streamFmt (s.tile t) q.val) ty)

def tookLanes (s : State) (t : Nat) (x : VSel) (m : Nat) : State :=
  match x with
  | .v _ => s
  | .q q => tookElems s t q.val m

/-- A destination of a vector operation takes `m` lanes. -/
def canPut (s : State) (t : Nat) (dst : VSel) (ty : LaneTy) (m : Nat) : Bool :=
  match dst with
  | .v _ => true
  | .q q => canGive s t q.val m && (laneWrites ty).contains (streamFmt (s.tile t) q.val)

def putTo (s : State) (t : Nat) (dst : VSel) (ty : LaneTy) (ws : List Word) : State :=
  match dst with
  | .v r => s.modRegs t fun g => setV g r.val ws
  | .q q => (gaveElems s t q.val (narrowed (streamFmt (s.tile t) q.val) ty ws).1).raise t (narrowed (streamFmt (s.tile t) q.val) ty ws).2

/-- The position of a stream of a tile. -/
def posOf (s : State) (t q : Nat) : Nat := ((s.body t).streams.get StreamSt.init q).pos

/-- A command completes: its outcome is a next state of which `P` holds. -/
def Gives (c : Instr) (s : State) (P : State → Prop) : Prop := ∃ t, exec c s = .next t ∧ P t

/-! ## Requests of sessions (19 R418–R421) -/

/-- The session keeps the request's seq, and counts from now again. -/
def taken (s : State) (h : QcpHdr) : State :=
  match s.session h.session.toNat with
  | some x => s.setSession h.session.toNat (some { x with lastSeq := some h.seq, idleNs := s.nowNs })
  | none => s

/-- The state in which an accepted request takes effect: what is not a read is captured first, while capture is on (16 R358). -/
def heard (s : State) (h : QcpHdr) (m : MsgRow) : State :=
  if m.reads then taken s h else (taken s h).captureItem 2 (8 + h.port.val) 2 h.raw

/-- A request of a session that passes the checks of 19 R421 up to the device's state: a protected port, a bound session and a fresh
seq, the firmware's major version, the role, a state of the message's row; no replay runs, but for reads. -/
def Accepted (s : State) (h : QcpHdr) (m : MsgRow) : Prop :=
  s.portDrops h = false ∧ s.replayQcp h.raw = false ∧ (s.capture.replay = none ∨ m.reads = true) ∧
  (∃ x, s.boundSession h = some x ∧ seqCheck x.lastSeq h.seq = .fresh ∧ roleRank m.role ≤ roleRank x.role) ∧
  (m.hw = true ∨ h.major = s.host.fwMajor) ∧ m.legal.contains s.host.state = true

/-- A message completes with OK: wherever it is accepted and `can` holds, its effect `f` and then the one reply, with body `b`. -/
def Serves (c : Instr) (h : QcpHdr) (m : MsgRow) (can : State → Prop) (f : State → State) (b : State → ReplyBody) : Prop :=
  ∀ s, Accepted s h m → can (taken s h) → can (heard s h m) →
    exec c s = .next ((f (heard s h m)).reply h m.hw Code.ok (b (heard s h m)))

/-- A message completes with OK: wherever it is accepted and `can` holds, the state before its one reply is one of which `P` holds, beside
the state in which it took effect. -/
def Answers (c : Instr) (h : QcpHdr) (m : MsgRow) (can : State → Prop) (P : State → State → Prop) (b : State → ReplyBody) : Prop :=
  ∀ s, Accepted s h m → can (taken s h) → can (heard s h m) →
    ∃ t, P (heard s h m) t ∧ exec c s = .next (t.reply h m.hw Code.ok (b (heard s h m)))

/-- A message that is accepted and whose reply comes later: it gives a next state of which `P` holds, beside the state in which it took
effect. -/
def Starts (c : Instr) (h : QcpHdr) (m : MsgRow) (can : State → Prop) (P : State → State → Prop) : Prop :=
  ∀ s, Accepted s h m → can (taken s h) → can (heard s h m) → Gives c s (P (heard s h m))

/-- A message that is accepted but refused for its content: the reply has a code and no body, and nothing else changes. -/
def Refuses (c : Instr) (h : QcpHdr) (m : MsgRow) (can : State → Prop) (code : Half) : Prop :=
  ∀ s, Accepted s h m → can (taken s h) → exec c s = .next ((taken s h).reply h m.hw code .empty)

/-! ## Operations of a CSP's program (10 R220, R227, R234) -/

/-- Does an operation join the bundle in issue? -/
def cspJoins (s : State) (i : CspIssue) (o : CspSlot) : Bool := i.joint && canJoin (s.csp i.cluster.val).core o

/-- The state in which the next bundle begins: the one before it has ended, and bundles of two NOPs before it have passed. -/
def cspNext (s : State) (i : CspIssue) : State :=
  let c := i.cluster.val
  (s.cspBoundary c).cspSettle c (passNops 4096 ((s.cspBoundary c).csp c))

/-- Can an operation of a slot issue: the CSP runs and the operation joins, or the bundle before it ends well, no WAIT stalls the CSP, and the
parity and the words of the next bundle are good; and the program holds it there, or nothing? -/
def cspIssues (s : State) (i : CspIssue) (o : CspSlot) : Bool :=
  let c := i.cluster.val
  let x := s.csp c
  let z := (s.cspBoundary c).csp c
  let y := beginCsp ((cspNext s i).csp c)
  x.state == .running &&
    (if cspJoins s i o then spells x x.atIssue.pc o
     else z.state == .running && (match z.core.waiting with | some m => (m &&& z.pending) != 0 | none => true) && y.state == .running &&
       !y.badBundles.contains y.core.pc.toNat && bundleOk (bundleAt y y.core.pc) && spells y y.core.pc o)

/-- The state in which an operation that issues takes its effect. -/
def cspBegun (s : State) (i : CspIssue) (o : CspSlot) : State :=
  let c := i.cluster.val
  if cspJoins s i o then s.setCsp c (takeSlot o (s.csp c)) else (cspNext s i).setCsp c (takeSlot o (beginCsp ((cspNext s i).csp c)))

/-- A CSP operation completes: wherever it issues and `can` holds of its CSP, the CSP changes as `f` says, and what external reads it let by have
answered goes out. -/
def CspRuns (c : Instr) (i : CspIssue) (o : CspSlot) (can : Csp → Prop) (f : Csp → Csp) : Prop :=
  ∀ s, cspIssues s i o = true → can ((cspBegun s i o).csp i.cluster.val) →
    exec c s = .next ((cspBegun s i o).cspSettle i.cluster.val (.inl (f ((cspBegun s i o).csp i.cluster.val))))

/-- The address of a memory operand, read before the bundle. -/
def cspAddr (x : Csp) (a : CspMem) : Nat := (cI x.atIssue a.i).toNat

/-- `n` bytes at a memory operand as the CSP reads them. -/
def cspRead (x : Csp) (a : CspMem) (n : Nat) : Nat := leNat (dmemRead x.core (cspAddr x a) n)

/-- Is an access of `n` bytes aligned, and a read free of words that cannot be corrected? -/
def cspReads (x : Csp) (a : CspMem) (n : Nat) : Prop := accessFault x (cspAddr x a) n true = none

/-- A read of a memory operand corrects what it finds correctable. -/
def cspCorrected (x : Csp) (a : CspMem) (n : Nat) (y : Csp) : Csp := correctRead (cspAddr x a) n y

/-- No repeat is set for the bundle. -/
def cspOnce (x : Csp) : Prop := x.core.repeats = false

/-- An X-slot operation has its memory slots. -/
def cspSlots (n : Nat) (x : Csp) : Csp := { x with core := takeX n x.core }

/-! ## Frames -/

/-- The parts of the state beside the queue of waiting commands. -/
inductive Part where
  | clock | out | events | host | time | radio | sweep | adapt | tiles | clusters | csps | mem | wcache | sched | array | capture | assured | sec | power | rst | net | port | free
deriving DecidableEq, Repr

/-- A part is the same in two states. -/
def Part.same (p : Part) (s t : State) : Prop :=
  match p with
  | .clock => t.clock = s.clock
  | .out => t.out = s.out
  | .events => t.events = s.events
  | .host => t.host = s.host
  | .time => t.time = s.time
  | .radio => t.radio = s.radio
  | .sweep => t.sweep = s.sweep
  | .adapt => t.adapt = s.adapt
  | .tiles => t.tiles = s.tiles
  | .clusters => t.clusters = s.clusters
  | .csps => t.csps = s.csps
  | .mem => t.mem = s.mem
  | .wcache => t.wcache = s.wcache
  | .sched => t.sched = s.sched
  | .array => t.array = s.array
  | .capture => t.capture = s.capture
  | .assured => t.assured = s.assured
  | .sec => t.sec = s.sec
  | .power => t.power = s.power
  | .rst => t.rst = s.rst
  | .net => t.net = s.net
  | .port => t.port = s.port
  | .free => t.free = s.free

/-- Every part but some. -/
def allBut (l : List Part) : List Part :=
  [.clock, .out, .events, .host, .time, .radio, .sweep, .adapt, .tiles, .clusters, .csps, .mem, .wcache, .sched, .array, .capture, .assured, .sec, .power, .rst, .net, .port, .free].filter fun p => !l.contains p

/-- The parts that a command's rules let it change: those of its own block, and what its events, replies, records and outputs reach. -/
def mayChange (c : Instr) : List Part :=
  match c with
  | .sampleDropTimeout _ => [.adapt]
  | .clusterPageRelease _ _ | .cluReload _ => [.clusters]
  | .cspRun _ _ | .cspForceStop _ | .cspZero _ | .cspZeroiseComplete _ => [.csps]
  | .evrRecordWrite => [.events]
  | .notificationAck _ _ | .qcpDatagramDrop _ | .sessionTimeout _ => [.host]
  | .memRefresh _ _ => [.mem]
  | .portLinkLoss _ | .portLinkUp _ => [.net]
  | .arpNdReply _ _ _ => [.out]
  | .claimPreWake _ => [.power]
  | .uplaneSection _ _ | .harqStagingStart _ _ | .codeBlockDecoded _ _ _ _ | .dlEncodeComplete _ _ => [.radio]
  | .wdtArm _ | .wdtKickSch | .wdtKickSec | .resetNRelease => [.rst]
  | .sweepDownlinkItem _ _ | .sweepSection _ | .sweepSampleErase _ _ _ | .sweepWindow _ _ _ _ | .sweepAckComplete _ _ => [.sweep]
  | .lockedPolderZeroiseStart _ _ | .polderZeroiseComplete _ _ => [.tiles]
  | .announceTimeout | .holdoverLimit | .slewComplete => [.time]
  | .wcLineFill _ => [.wcache]
  | .poolJobStart _ => [.clusters, .sched]
  | .selftestSegmentEnd _ _ | .fttiWindowEnd => [.events, .assured]
  | .patrolScrubPass => [.events, .mem]
  | .scrubStep _ _ | .retainScrubWake => [.events, .tiles]
  | .txTimestamp _ _ => [.events, .time]
  | .ptpMessageTransmit _ _ => [.out, .capture]
  | .notificationResend _ _ => [.out, .host]
  | .mkaExchange _ _ => [.out, .net]
  | .idcode | .clamp | .highz | .rstreg | .bypass => [.out, .port]
  | .ldpQueueRead _ => [.out, .radio]
  | .polderAlloc _ _ _ => [.out, .tiles]
  | .synFcwFrame | .txtsPop | .timeReadLatch | .ppsArm _ _ | .ppsEdge _ | .ppsPulseEnd _ => [.out, .time]
  | .stbyNRise | .trimLoadAttempt _ => [.power, .rst]
  | .sweepReceptionStart _ _ _ _ _ | .sweepHeaderDecoded _ _ => [.radio, .sweep]
  | .tileIdleRetain _ | .tileRetainOff _ => [.tiles, .power]
  | .synceMeasure _ => [.time, .free]
  | .ulSlotConfig _ _ => [.events, .radio, .free]
  | .harqStagingComplete _ _ _ => [.events, .radio, .mem]
  | .dlSlotConfig _ _ => [.events, .radio, .sec]
  | .retrain _ => [.out, .array, .free]
  | .timStepWrite _ => [.out, .events, .time]
  | .regionZeroiseComplete _ => [.out, .host, .sec]
  | .extest | .samplePreload | .intest => [.out, .port, .free]
  | .cplaneSend _ _ => [.out, .radio, .capture]
  | .sweepAckTransmit _ _ => [.out, .sweep, .capture]
  | .sweepSymbolDecided _ _ _ => [.radio, .sweep, .csps]
  | .refMonitorWindow _ => [.time, .power, .rst]
  | .crossingPeriodEnd => [.events, .mem, .wcache, .sec]
  | .harqWritebackComplete _ _ => [.events, .radio, .mem, .wcache]
  | .streamFetch _ _ _ => [.events, .tiles, .mem, .wcache]
  | .arrayTimeMessage _ _ _ | .ptpOffset _ => [.out, .events, .time, .free]
  | .prachDetection _ _ _ => [.out, .radio, .capture, .net]
  | .polderRelease _ _ => [.out, .tiles, .sched, .array]
  | .npFrameReceive _ _ => [.events, .mem, .wcache, .capture, .net]
  | .domainWakeComplete _ _ => [.events, .tiles, .mem, .assured, .power]
  | .cmac _ _ _ _ _ _ | .cmacr _ _ _ _ _ _ | .ftap _ _ _ _ _ _ | .tupd _ _ _ _ _ | .tcopy _ _ _ | .cpow _ _ _ _ _ | .ald _ _ _ _ |
    .anrw _ _ _ _ _ | .cspCmul _ _ _ _ _ _ | .aclr _ _ | .movi _ _ _ | .movhi _ _ _ | .ld _ _ _ | .ld64 _ _ _ | .st _ _ _ | .st2 _ _ _ _ |
    .cspAlu _ _ _ _ _ | .seta _ _ _ _ | .setm _ _ _ _ | .rcpn _ _ _ | .rpt _ _ _ | .loop _ _ _ | .cspBr _ _ _ _ | .call _ _ | .ret _ |
    .iret _ | .lsave _ _ | .lrest _ _ | .wait _ _ | .sig _ _ | .ei _ | .di _ | .halt _ | .cspInterrupt _ | .cspExternalAccess _ _ _ |
    .cspExternalSteal _ => [.out, .events, .sweep, .csps, .sched]
  | .claimReassign _ | .claimTaskEnd _ | .assign _ _ | .tileZeroise _ => [.out, .events, .tiles, .sched, .array]
  | .zeroiseComplete _ | .selftestSliceEnd _ => [.out, .tiles, .sched, .array, .assured]
  | .sampleLabelWrite _ | .trainingStep _ => [.events, .host, .adapt, .mem, .wcache, .free]
  | .powerEstimate _ | .ageingPlan _ | .ageNearmiss _ => [.events, .host, .mem, .wcache, .power, .free]
  | .precoderComplete _ _ _ => [.events, .host, .radio, .mem, .wcache, .free]
  | .adaptStatus _ _ | .jobStatus _ _ | .recordConfig _ _ _ | .recordStart _ _ | .recordStop _ | .recordLoad _ _ _ | .replayStart _ _ |
    .replayStatus _ | .quote _ _ | .stateRead _ | .recorderRead _ _ _ | .sessionAuth _ _ | .sessionClose _ | .run _ | .roleKeySet _ _ |
    .logConfig _ _ _ _ | .traceSet _ _ | .qcpUnknownType _ _ => [.out, .events, .host, .mem, .wcache, .capture]
  | .modelLoadComplete => [.out, .events, .host, .mem, .wcache, .sec]
  | .selftestSliceStart _ => [.out, .tiles, .sched, .array, .assured, .power]
  | .thermalUpdate _ => [.events, .host, .mem, .wcache, .power, .rst, .free]
  | .ageStepdown _ => [.events, .host, .sweep, .mem, .wcache, .power, .free]
  | .claimPreemptRequest _ | .tilePreempt _ | .taskYield _ => [.events, .host, .tiles, .mem, .wcache, .sched, .free]
  | .adaptConfig _ _ | .adaptControl _ _ _ => [.out, .events, .host, .adapt, .mem, .wcache, .capture]
  | .adaptSave _ _ _ _ | .recordSave _ _ _ | .sessionOpen _ => [.out, .events, .host, .mem, .wcache, .capture, .free]
  | .load _ _ _ => [.out, .events, .host, .mem, .wcache, .capture, .power]
  | .regionSet _ _ _ _ _ _ _ | .crossingConfig _ _ | .rollbackCommit _ _ | .modelLoad _ _ _ | .modelUnload _ _ | .fuseWrite _ _ |
    .sealFuse _ => [.out, .events, .host, .mem, .wcache, .capture, .sec]
  | .cycLoad _ _ => [.out, .events, .host, .mem, .wcache, .sched, .capture]
  | .dumpReady _ => [.out, .events, .host, .mem, .wcache, .sched, .free]
  | .sweepCtx _ _ _ _ => [.out, .events, .host, .sweep, .mem, .wcache, .capture]
  | .relock _ => [.out, .events, .host, .time, .mem, .wcache, .capture]
  | .dlSymbolWindowClose _ _ _ => [.out, .events, .radio, .mem, .wcache, .capture, .net]
  | .mclr _ _ _ | .mmac _ _ _ _ _ _ _ _ | .mout _ _ _ _ _ _ | .mwld _ _ _ | .mwldt _ _ _ | .weightLoadComplete _ _ | .alu _ _ _ _ _ |
    .alui _ _ _ _ _ | .li _ _ _ | .lih _ _ _ _ | .amov _ _ _ _ | .aaddi _ _ _ _ | .extr _ _ _ _ _ | .br _ _ _ _ | .bdec _ _ _ | .jal _ _ _ |
    .jr _ _ | .semWait _ _ | .semSignal _ _ | .semTry _ _ _ | .fence _ _ _ | .poolq _ _ | .stepinc _ | .rdtask _ _ _ | .qld _ _ _ |
    .qcrest _ _ _ | .qlift _ _ | .qwait _ _ | .sld _ _ _ _ | .sst _ _ _ _ | .vld _ _ _ _ | .vst _ _ _ _ | .vbcast _ _ _ | .vmov _ _ _ |
    .pset _ _ _ _ | .plogic _ _ _ _ _ | .popc _ _ _ | .vchain _ _ _ _ _ _ | .vred _ _ _ _ _ _ _ | .vtscale _ _ _ | .quant _ _ _ _ _ _ _ |
    .mxquant _ _ _ _ _ | .requant _ _ _ _ _ _ | .vcompress _ _ _ _ _ | .vexpand _ _ _ _ _ | .vupn _ _ _ _ _ _ _ _ | .vupb _ _ _ _ _ _ _ _ |
    .vrng _ _ _ | .longOpVectorComplete _ | .taskFault _ _ | .sluiceNoCredit _ | .fetchReturn _ _ =>
      [.events, .radio, .tiles, .clusters, .mem, .wcache, .sched, .assured]
  | .guardWindowEnd _ | .freeze _ | .unfreeze _ | .select _ _ | .pin _ _ | .unpin _ _ | .discardPool _ | .adaptLoad _ _ _ =>
      [.out, .events, .host, .adapt, .mem, .wcache, .capture, .free]
  | .start _ => [.out, .events, .host, .clusters, .mem, .wcache, .sched, .capture]
  | .debugChallenge _ => [.out, .events, .host, .mem, .wcache, .capture, .sec, .free]
  | .dlSymbolWindowOpen _ _ _ => [.out, .events, .host, .radio, .mem, .wcache, .capture, .free]
  | .sweepConfig _ _ _ => [.out, .events, .host, .sweep, .mem, .wcache, .capture, .power]
  | .timeConfig _ _ => [.out, .events, .host, .time, .mem, .wcache, .capture, .power]
  | .tileKill _ | .graphEnd _ => [.out, .events, .tiles, .clusters, .mem, .wcache, .sched, .array]
  | .ulStageComplete _ _ _ _ _ => [.events, .host, .radio, .tiles, .csps, .mem, .wcache, .sched, .free]
  | .imageLoadCheck _ | .poolJobComplete _ => [.events, .radio, .tiles, .clusters, .mem, .wcache, .sched, .assured, .free]
  | .tileLoad _ _ => [.events, .tiles, .clusters, .mem, .wcache, .sched, .array, .power, .free]
  | .fwFault _ _ _ _ => [.out, .events, .host, .tiles, .clusters, .mem, .wcache, .sched, .array]
  | .tagWaitLimit _ | .remoteRead _ _ _ _ => [.out, .events, .radio, .tiles, .clusters, .mem, .wcache, .sched, .assured]
  | .claimEntryOffset _ _ => [.events, .host, .radio, .tiles, .csps, .mem, .wcache, .sched, .power, .free]
  | .blockRelease _ | .clockStuckTimeout _ => [.events, .host, .time, .radio, .clusters, .mem, .wcache, .sec, .power, .rst]
  | .linkAdmitTimeout _ => [.events, .time, .radio, .tiles, .clusters, .mem, .wcache, .sched, .array, .assured]
  | .cellConfig _ _ _ => [.out, .events, .host, .radio, .adapt, .mem, .wcache, .capture, .power, .free]
  | .arrayConfig _ _ _ _ _ _ => [.out, .events, .host, .time, .mem, .wcache, .array, .capture, .power, .free]
  | .xred _ _ _ | .xbc _ _ _ | .creditRequest _ _ | .creditGrant _ | .remoteWrite _ _ =>
      [.out, .events, .radio, .tiles, .clusters, .mem, .wcache, .sched, .array, .assured]
  | .graphDeadline _ | .assuredTaskDeadline _ _ => [.out, .events, .tiles, .clusters, .mem, .wcache, .sched, .array, .capture, .assured]
  | .copySignature _ _ => [.out, .events, .tiles, .mem, .wcache, .sched, .array, .capture, .assured, .free]
  | .ulSlotDecided _ _ => [.out, .events, .host, .radio, .adapt, .mem, .wcache, .capture, .sec, .net, .free]
  | .kill _ _ => [.out, .events, .host, .tiles, .clusters, .mem, .wcache, .sched, .array, .capture, .assured]
  | .bermStart _ _ => [.out, .events, .host, .time, .radio, .clusters, .mem, .wcache, .capture, .sec, .power]
  | .drainComplete _ | .streamWriteLand _ _ _ => [.out, .events, .radio, .sweep, .tiles, .clusters, .mem, .wcache, .sched, .array, .assured]
  | .taskPlace => [.out, .events, .tiles, .clusters, .mem, .wcache, .sched, .array, .assured, .power, .free]
  | .linkAdmission _ _ | .flitReceive _ _ _ => [.out, .events, .time, .radio, .tiles, .clusters, .mem, .wcache, .sched, .array, .assured]
  | .complete _ => [.out, .events, .host, .clusters, .mem, .wcache, .sched, .capture, .assured, .sec, .net, .free]
  | .sweepPayloadDecoded _ _ => [.out, .events, .host, .radio, .sweep, .adapt, .mem, .wcache, .capture, .sec, .net, .free]
  | .endt _ => [.out, .events, .host, .radio, .tiles, .clusters, .mem, .wcache, .sched, .array, .assured, .free]
  | .submit _ _ => [.out, .events, .host, .tiles, .clusters, .mem, .wcache, .sched, .array, .capture, .assured, .sec, .free]
  | .ulSlotDeadline _ _ => [.out, .events, .host, .radio, .adapt, .tiles, .clusters, .mem, .wcache, .sched, .array, .capture, .sec, .net, .free]
  | .replayEntryDeliver =>
      [.out, .events, .time, .radio, .sweep, .adapt, .tiles, .clusters, .mem, .wcache, .sched, .array, .capture, .assured, .sec, .power]
  | .debugUnlock _ _ => allBut [.clock, .time, .rst, .net, .port, .free]
  | .replayStop _ => allBut [.clock, .csps, .rst, .net, .port, .free]
  | .frameBoundary => allBut [.clock, .rst, .net, .port]
  | .stbyNFall => allBut [.clock, .rst, .port, .free]
  | .arrayResetMessage _ | .keyStoreAccess | .supplyGlitch | .clockGlitch | .reset _ _ | .thermalTrip _ | .powerOn _ | .pwrgdFall |
    .resetNAssert | .schWatchdogExpire | .secWatchdogExpire => allBut [.port, .free]
  | .memWrite _ _ _ | .memRead _ _ _ | .registerWrite _ _ _ _ => allBut [.port]
  | .debugAccess _ => allBut []

end Machine
end Sys2Proof
end

