-- ==== Sys2Proof/Certificates/Slice0/Obligations.lean ====
section
/-! DEFINITION. The statements for the provers. Each says what the manual's rules give a family of commands: the next state, where the command
completes, or how it stops; names of operations are those of the model's definitions. -/
open Sys2Proof Sys2Proof.Machine

/-! ## The queue -/

/-- A step takes the command at the front of the queue and answers what the command does to the state with the queue's rest. -/
def Obligations.StepRunsCommand : Prop :=
  ∀ (c : Instr) (rest : List Instr) (s : State),
    step { s with pending := c :: rest } = exec c { s with pending := rest }

/-- With no command waiting a step lets one cycle of the arithmetic clock pass: the cycle counter goes up by 1, the radio PLL's phase advances by 12,288
of 15,625, device time advances only on a tick of a PLL that runs, and nothing else changes. That an idle step is such a cycle is the model's choice
(log 41). -/
def Obligations.IdleStep : Prop :=
  ∀ s : State, s.pending = [] →
    ∃ t, step s = .next t ∧ t.clock.cycle = s.clock.cycle + 1 ∧
      t.clock.radioAcc = (s.clock.radioAcc + 12288) % 15625 ∧
      (s.power.radioLock = false ∨ s.clock.radioAcc + 12288 < 15625 → t.time = s.time) ∧
      (s.power.radioLock = true → 15625 ≤ s.clock.radioAcc + 12288 → s.time.slew = 0 → t.time = { s.time with now := s.time.now + s.time.incr }) ∧
      t = { s with clock := t.clock, time := t.time }

/-! ## Operations of a tile's program -/

/-- Scalar and address operations write their one register from the registers before the bundle; STEPINC counts the step. The scalar arithmetic of 11
Table 6 on all operands. RDTASK's class code is the model's reading (log 13). -/
def Obligations.ScalarOps : Prop :=
  (
  (∀ i d a b f, Writes (.alu i d a b f) i .c fun u => u.modRegs i.tile.val fun r =>
      setS r d.val (aluOp f (sReg (u.regsAt i.tile.val) a.val) (sReg (u.regsAt i.tile.val) b.val))) ∧
  (∀ i d a f imm, Writes (.alui i d a f imm) i .c fun u => u.modRegs i.tile.val fun r =>
      setS r d.val (aluOp f (sReg (u.regsAt i.tile.val) a.val) (imm.signExtend 64))) ∧
  (∀ i d imm, Writes (.li i d imm) i .c fun u => u.modRegs i.tile.val fun r => setS r d.val (imm.signExtend 64)) ∧
  (∀ i d k imm, Writes (.lih i d k imm) i .c fun u => u.modRegs i.tile.val fun r =>
      setS r d.val (lihOp (sReg (u.regsAt i.tile.val) d.val) k.val imm)) ∧
  (∀ i a sr, Writes (.amov i true a sr) i .c fun u => u.modRegs i.tile.val fun r =>
      setS r sr.val ((aReg (u.regsAt i.tile.val) a.val).setWidth 64)) ∧
  (∀ i a sr, Writes (.amov i false a sr) i .c fun u => u.modRegs i.tile.val fun r =>
      setA r a.val ((sReg (u.regsAt i.tile.val) sr.val).setWidth 48)) ∧
  (∀ i d a imm, Writes (.aaddi i d a imm) i .c fun u => u.modRegs i.tile.val fun r =>
      setA r d.val (aReg (u.regsAt i.tile.val) a.val + imm.signExtend 48)) ∧
  (∀ i d a (pos w : Fin 64), pos.val + w.val < 64 → Writes (.extr i d a pos w) i .c fun u => u.modRegs i.tile.val fun r =>
      setS r d.val (BitVec.ofNat 64 ((sReg (u.regsAt i.tile.val) a.val).toNat / 2 ^ pos.val % 2 ^ (w.val + 1)))) ∧
  (∀ i, Writes (.stepinc i) i .c fun u => u.modBody i.tile.val fun b => { b with step := b.step + 1 }) ∧
  (∀ i d f, Writes (.rdtask i d f) i .c fun u => u.modRegs i.tile.val fun r =>
      setS r d.val (taskAttr (u.tile i.tile.val) i.tile.val f))) ∧
  (
  ∀ a b : Dword,
    aluOp .add a b = a + b ∧ aluOp .sub a b = a - b ∧ aluOp .mul a b = a * b ∧
    aluOp .and a b = a &&& b ∧ aluOp .or a b = a ||| b ∧ aluOp .xor a b = a ^^^ b ∧
    aluOp .shl a b = BitVec.ofNat 64 (a.toNat * 2 ^ (b.toNat % 64)) ∧
    (aluOp .min a b).toInt = min a.toInt b.toInt ∧ (aluOp .max a b).toInt = max a.toInt b.toInt ∧
    (aluOp .slt a b = 1 ↔ a.toInt < b.toInt) ∧ (aluOp .slt a b = 0 ↔ b.toInt ≤ a.toInt) ∧
    (aluOp .seq a b = 1 ↔ a = b) ∧ (aluOp .seq a b = 0 ↔ a ≠ b))

/-- An operation that writes one scalar register leaves every other scalar register, the address, vector and predicate registers of its tile, the tile's
scratchpad and accumulators, every other tile, external memory and every unit outside the tiles as they were. -/
def Obligations.ScalarFrame : Prop :=
  ∀ (s : State) (i : Issue) (d a b : SReg) (f : AluFn), issues s i .c = true → (lead s i) = s →
    ∃ t, exec (.alu i d a b f) s = .next t ∧
      (∀ k, k ≠ d.val → sReg (t.tile i.tile.val).body.regs k = sReg (s.tile i.tile.val).body.regs k) ∧
      (∀ k, aReg (t.tile i.tile.val).body.regs k = aReg (s.tile i.tile.val).body.regs k) ∧
      (t.tile i.tile.val).body.regs.v = (s.tile i.tile.val).body.regs.v ∧
      (t.tile i.tile.val).body.regs.p = (s.tile i.tile.val).body.regs.p ∧
      (t.tile i.tile.val).body.sp = (s.tile i.tile.val).body.sp ∧
      (t.tile i.tile.val).body.acc = (s.tile i.tile.val).body.acc ∧
      (∀ k, k ≠ i.tile.val → t.tile k = s.tile k) ∧
      t = { s with tiles := t.tiles }

/-- A taken branch goes to the bundle it names, and is TI_PC where there is none; a branch not taken goes on. FENCE and QWAIT complete once what they wait
for has landed or returned; POOLQ queues a descriptor that passes its checks; ENDT ends the task once its writes have landed, and its tile runs the
next segment of a self-test slice or gives way to an assured task. That JR compares the whole register is the model's reading (log 12). -/
def Obligations.ControlFlow : Prop :=
  (
  (∀ s i c a (off : BitVec 12), issues s i .c = true →
    let u := begun s i .c
    let t := i.tile.val
    let dest : Int := ((u.body t).cur : Int) + off.toInt
    (condOp c (sReg (u.regsAt t) a.val) = false → exec (.br i c a off) s = .next (ended u i)) ∧
    (condOp c (sReg (u.regsAt t) a.val) = true → 0 ≤ dest → dest < (u.tile t).nBundles →
      exec (.br i c a off) s = .next (ended (u.modBody t fun b => { b with pc := dest.toNat }) i)) ∧
    (condOp c (sReg (u.regsAt t) a.val) = true → (dest < 0 ∨ (u.tile t).nBundles ≤ dest) →
      exec (.br i c a off) s = .next (u.taskFault t (Code.til 0x02) 3 true))) ∧
  (∀ s i a (off : BitVec 12), issues s i .c = true →
    let u := begun s i .c
    let t := i.tile.val
    let v := sReg (u.regsAt t) a.val
    (v = 0 → exec (.bdec i a off) s = .next (ended u i)) ∧
    (v = 1 → exec (.bdec i a off) s = .next (ended (u.modRegs t fun r => setS r a.val 0) i)) ∧
    (v ≠ 0 → v ≠ 1 → (let u1 := u.modRegs t fun r => setS r a.val (v - 1)
      let dest : Int := ((u1.body t).cur : Int) + off.toInt
      0 ≤ dest → dest < (u1.tile t).nBundles → exec (.bdec i a off) s = .next (ended (u1.modBody t fun b => { b with pc := dest.toNat }) i)))) ∧
  (∀ s i d (off : BitVec 12), issues s i .c = true →
    let u := begun s i .c
    let t := i.tile.val
    let u1 := u.modRegs t fun r => setS r d.val (BitVec.ofNat 64 ((u.body t).cur + 1))
    let dest : Int := ((u1.body t).cur : Int) + off.toInt
    0 ≤ dest → dest < (u1.tile t).nBundles → exec (.jal i d off) s = .next (ended (u1.modBody t fun b => { b with pc := dest.toNat }) i)) ∧
  (∀ s i a, issues s i .c = true →
    let u := begun s i .c
    let t := i.tile.val
    let v := (sReg (u.regsAt t) a.val).toNat
    (v < (u.tile t).nBundles → v < 2048 → exec (.jr i a) s = .next (ended (u.modBody t fun b => { b with pc := v }) i)) ∧
    ((u.tile t).nBundles ≤ v → exec (.jr i a) s = .next (u.taskFault t (Code.til 0x02) 3 true)))) ∧
  (
  (∀ s i mout (mask : Byte), issues s i .c = true →
    writesPending ((begun s i .c).tile i.tile.val).before mask.toNat mout = false →
    exec (.fence i mout mask) s = .next (ended (begun s i .c) i)) ∧
  (∀ s i q, issues s i .s = true →
    let st := streamOf ((begun s i .s).tile i.tile.val).body q.val
    st.valid = true → streamDone q.val st = true → exec (.qwait i q) s = .next (ended (begun s i .s) i)) ∧
  (∀ i a, Runs (.poolq i a) i .c (poolqOp a)) ∧
  (∀ (i : Issue) a d ref, let t := i.tile.val
    let off (u : State) := offAt u t a
    Completes (.poolq i a) i .c (fun u =>
        off u % 32 = 0 ∧ canPeek u t (off u) 64 = true ∧ parsePool (peeked u t (off u) 64) = some d ∧ (u.tile t).ref = some ref ∧
        u.poolOk (u.tile t) (t / 8) d = true ∧ (∀ n ∈ [d.waitSem, d.signalSem], n ≠ 0xFFFF → u.semFault (u.tile t) n = none) ∧
        (u.cluster (t / 8)).poolQueue.length < 8)
      (fun u => u.setCluster (t / 8) { u.cluster (t / 8) with
        poolQueue := (u.cluster (t / 8)).poolQueue ++ [{ ref, cls := (u.tile t).cls, bytes := peeked u t (off u) 64, stopped := false }] })) ∧
  (∀ s i, issues s i .c = true →
    let u := begun s i .c
    let t := i.tile.val
    writesPending (u.tile t).before 0xF0 true = false →
    let v := match (u.tile t).ref with | some ref => u.leaveInbound ref | none => u
    let w := ended (((v.taskDone t).startSegment t).abortSegments) i
    exec (.endt i) s = .next (if (w.tile t).state = .idle then w.logRecord else w)))

/-- WAIT takes one from a count above 0; SIGNAL adds one up to 65,535, where it sets sem_sat; TRY writes whether it took one. A task whose program names a
semaphore its job has not claimed faults with SCH_SEM_CLAIM at issue, one that names a semaphore of another class with TI_SEM_CLASS: WAIT, SIGNAL and
TRY alike, the bundle without effect. A write of SCH_SEM_OWN that would change the owner of a claimed semaphore changes nothing. -/
def Obligations.SemaphoreOps : Prop :=
  (
  ∀ s i (n : Fin 1024), issues s i .c = true →
    let u := begun s i .c
    let t := i.tile.val
    let x := u.sem n.val
    u.semFault (u.tile t) n.val = none →
    (0 < x.count → exec (.semWait i n) s = .next (ended (u.setSem n.val { x with count := x.count - 1 }) i)) ∧
    (x.count < 65535 → exec (.semSignal i n) s = .next (ended (u.setSem n.val { x with count := x.count + 1 }) i)) ∧
    (65535 ≤ x.count → exec (.semSignal i n) s = .next (ended (u.modTile t fun y => { y with semSat := true }) i)) ∧
    (∀ d, 0 < x.count → exec (.semTry i n d) s =
      .next (ended ((u.setSem n.val { x with count := x.count - 1 }).modRegs t fun r => setS r d.val 1) i)) ∧
    (∀ d, x.count = 0 → exec (.semTry i n d) s = .next (ended (u.modRegs t fun r => setS r d.val 0) i))) ∧
  (
  (∀ s m (n i : Fin 32) (v : Dword),
    let x := s.sem (32 * n.val + i.val)
    x.claim ≠ none → x.owner ≠ BitVec.ofNat 2 (v.toNat / 4 ^ i.val) →
    exec (.registerWrite m (BitVec.ofNat 48 (0xFF00000D0100 + 8 * n.val)) false v) s = .next s) ∧
  (∀ s i (n : Fin 1024) ref, issues s i .c = true →
    let u := begun s i .c
    let t := i.tile.val
    (u.tile t).ref = some ref →
    (u.semRefused n.val (u.tile t).cls (claimOf ref) = some false →
      exec (.semWait i n) s = .next (u.taskFault t Code.schSemClaim 3 true) ∧
      exec (.semSignal i n) s = .next (u.taskFault t Code.schSemClaim 3 true) ∧
      ∀ d, exec (.semTry i n d) s = .next (u.taskFault t Code.schSemClaim 3 true)) ∧
    (u.semRefused n.val (u.tile t).cls (claimOf ref) = some true →
      exec (.semWait i n) s = .next (u.taskFault t (Code.til 0x08) 3 true) ∧
      exec (.semSignal i n) s = .next (u.taskFault t (Code.til 0x08) 3 true) ∧
      ∀ d, exec (.semTry i n d) s = .next (u.taskFault t (Code.til 0x08) 3 true))))

/-- QLIFT and QCREST set the crest of a loaded read stream; SLD reads one word of the job's polders and SST writes one. Scratchpad accesses at an address
that is no multiple of 8 fault with TI_ALIGN, those outside the job's held polders with SP_POLDER. How an address of the tile's own window is read is
the model's reading (log 11). -/
def Obligations.ScratchpadAccess : Prop :=
  (
  (∀ s i q, issues s i .s = true → readCheck ((begun s i .s).tile i.tile.val) q.val = none →
    exec (.qlift i q) s = .next (ended ((begun s i .s).modBody i.tile.val fun b => setStream b q.val { streamOf b q.val with crest := none }) i)) ∧
  (∀ s i q sr, issues s i .s = true → readCheck ((begun s i .s).tile i.tile.val) q.val = none →
    let c := (sReg ((begun s i .s).tile i.tile.val).before.regs sr.val).toNat
    c ≤ 16777215 →
    exec (.qcrest i q sr) s = .next (ended ((begun s i .s).modBody i.tile.val fun b => setStream b q.val (crestSet (streamOf b q.val) c)) i)) ∧
  (∀ i q a, Runs (.qld i q a) i .s (qldOp q.val a)) ∧
  (∀ (i : Issue) (q : QReg) a, let t := i.tile.val
    let d (u : State) := parseDesc (peeked u t (offAt u t a) 128)
    Completes (.qld i q a) i .s (fun u =>
        offAt u t a % 32 = 0 ∧ canPeek u t (offAt u t a) 128 = true ∧ (d u).dirWrite = decide (4 ≤ q.val) ∧ u.descFault t (d u) = none ∧
        u.keyRefused (u.tile t) (d u) = false ∧ unlanded (streamOf (u.body t) q.val) = false ∧ loadingFrom (u.body t) q.val = false)
      (fun u => u.modBody t fun b => setStream b q.val (loadedStream (offAt u t a) (d u)))) ∧
  (∀ s i d a off, issues s i .s = true →
    let u := begun s i .s
    let t := i.tile.val
    let o := wordOff (u.tile t) t a off
    o % 8 = 0 → heldRange (u.tile t) o 8 = true → tagWait (u.tile t) o 8 true = none → spUnreadable (u.tile t).body o 8 = false →
    exec (.sld i d a off) s = .next (ended (u.modRegs t fun r => setS r d.val (BitVec.ofNat 64 (leNat (spBytes (u.tile t).body o 8)))) i)) ∧
  (∀ s i d a off, issues s i .s = true →
    let u := begun s i .s
    let t := i.tile.val
    let o := wordOff (u.tile t) t a off
    o % 8 = 0 → heldRange (u.tile t) o 8 = true → tagWait (u.tile t) o 8 false = none → slotTagged (u.tile t) (o / 256) = false →
    exec (.sst i d a off) s = .next (ended (u.modBody t fun b => spWrite b o (leBytes 8 (sReg (u.tile t).before.regs d.val).toNat)) i)) ∧
  (∀ s i d a off, issues s i .s = true →
    let u := begun s i .s
    let t := i.tile.val
    let o := wordOff (u.tile t) t a off
    o % 8 = 0 → heldRange (u.tile t) o 8 = true → tagWait (u.tile t) o 8 false = none → slotTagged (u.tile t) (o / 256) = true →
    exec (.sst i d a off) s = .next (ended (u.modBody t fun b =>
      setTag (spWrite b o (leBytes 8 (sReg (u.tile t).before.regs d.val).toNat)) (o / 256) true) i))) ∧
  (
  ∀ s i d a off, issues s i .s = true →
    let u := begun s i .s
    let t := i.tile.val
    let o := wordOff (u.tile t) t a off
    (o % 8 ≠ 0 → exec (.sld i d a off) s = .next (u.taskFault t (Code.til 0x0B) 2 true) ∧
      exec (.sst i d a off) s = .next (u.taskFault t (Code.til 0x0B) 2 true)) ∧
    (o % 8 = 0 → heldRange (u.tile t) o 8 = false → exec (.sld i d a off) s = .next (u.taskFault t (Code.til 0x61) 2 true) ∧
      exec (.sst i d a off) s = .next (u.taskFault t (Code.til 0x61) 2 true)))

/-- Vector moves and predicates: lanes from the registers before the bundle, or from and to a stream. VLD of a loaded read stream with 128 good elements
buffered, inside its length and crest: the stream moves on by 128 elements, and the lanes hold them widened. That a register destination keeps its
lanes beyond a short vector is the model's reading (log 15). -/
def Obligations.VectorMoves : Prop :=
  (
  (∀ i v sr, Writes (.vbcast i v sr) i .s fun u => u.modRegs i.tile.val fun r =>
      setV r v.val (List.replicate 128 ((sReg (u.regsAt i.tile.val) sr.val).setWidth 32))) ∧
  (∀ i v w, Writes (.vmov i v w) i .s fun u => u.modRegs i.tile.val fun r => setV r v.val (vLanes (u.regsAt i.tile.val) w.val)) ∧
  (∀ i p m sr, Writes (.pset i p m sr) i .s fun u => u.modRegs i.tile.val fun r =>
      setP r p.val (psetVal m (sReg (u.regsAt i.tile.val) sr.val))) ∧
  (∀ i p x y f, Writes (.plogic i p x y f) i .s fun u => u.modRegs i.tile.val fun r =>
      setP r p.val (predOp f (pReg (u.regsAt i.tile.val) x.val) (pReg (u.regsAt i.tile.val) y.val))) ∧
  (∀ i d p, Writes (.popc i d p) i .s fun u => u.modRegs i.tile.val fun r =>
      setS r d.val (BitVec.ofNat 64 (predCount (pReg (u.regsAt i.tile.val) p.val)))) ∧
  (∀ i v q ty, Runs (.vld i v q ty) i .s (vldOp v q.val ty)) ∧
  (∀ i v q ty, Runs (.vst i v q ty) i .s (vstOp v q.val ty)) ∧
  (∀ (i : Issue) (v : VReg) (q : QReg) ty, let t := i.tile.val
    Completes (.vld i v q ty) i .s (fun u => canLanes u t (.q q) ty 128 = true)
      (fun u => (tookElems u t q.val 128).modRegs t fun r => setV r v.val (lanesOf u t (.q q) ty 128))) ∧
  (∀ (i : Issue) (v : VReg) (q : QReg) ty, let t := i.tile.val
    Completes (.vst i v q ty) i .s (fun u => canPut u t (.q q) ty 128 = true)
      (fun u => putTo u t (.q q) ty (vLanes (u.regsAt t) v.val)))) ∧
  (
  ∀ s i v (q : QReg) ty, issues s i .s = true →
    let u := begun s i .s
    let t := i.tile.val
    let st := (u.body t).streams.get StreamSt.init q.val
    q.val < 4 → st.valid = true → (laneReads ty).contains (deliveredFmt st.desc) = true → st.pos + 128 ≤ st.desc.length → st.crest = none →
    128 ≤ st.buf.length → loadingFrom (u.body t) q.val = false → st.desc.copy = false → (st.buf.take 128).any (·.bad) = false →
    exec (.vld i v q ty) s = .next (ended ((u.modBody t fun b =>
        { b with streams := b.streams.set StreamSt.init q.val { st with pos := st.pos + 128, buf := st.buf.drop 128 } }).modRegs t fun r =>
      setV r v.val ((st.buf.take 128).map (widen (deliveredFmt st.desc) ty))) i))

/-- Vector engine operations with a count: at most one vector is done with its bundle, whatever its sources; a longer one begins a long operation, checked
on its first vector, and each later step does the next vector. The next vector of a long VCHAIN: where its lanes and its room are there, it is done
from the registers kept at issue, the count register falls by its elements, and with the last vector the operation is over. A vector whose step is
done ends alike for every long operation. A count above 2^24 − 1 faults with TI_COUNT; one that makes an operation long beside another slot's
operation faults with TI_LONG. Log 15 applies to vectors left in registers. -/
def Obligations.VectorOps : Prop :=
  (
  (∀ i ch x y dst n, Runs (.vchain i ch x y dst n) i .v (vecIssue (.chain ch x y dst) n)) ∧
  (∀ i o ty sr x p n, Runs (.vred i o ty sr x p n) i .v (vecIssue (.red o ty sr x p) n)) ∧
  (∀ i x q sr n a st, Runs (.quant i x q sr n a st) i .v (vecIssue (.quant x q sr a st) n)) ∧
  (∀ i x q n st, Runs (.mxquant i x q n st) i .v (vecIssue (.mxquant x q st) n)) ∧
  (∀ i x q a sr n, Runs (.requant i x q a sr n) i .v (vecIssue (.requant x q a sr) n)) ∧
  (∀ i qi qo fy fx dm n ty, Runs (.vupn i qi qo fy fx dm n ty) i .v (vecIssue (.upn qi qo fy fx dm ty) n)) ∧
  (∀ i qi qo fy fx dm n ty, Runs (.vupb i qi qo fy fx dm n ty) i .v (vecIssue (.upb qi qo fy fx dm ty) n)) ∧
  (∀ i x p q d, Runs (.vcompress i x p q d) i .v (vcompressOp x p q.val d)) ∧
  (∀ i q p f v, Runs (.vexpand i q p f v) i .v (vexpandOp q.val p f v)) ∧
  (∀ (i : Issue) ch x y dst n c, let t := i.tile.val
    Completes (.vchain i ch x y dst n) i .v (fun u =>
        let m := countAt u t n
        0 < m ∧ m ≤ 128 ∧ checkChain (chainOf (u.tile t) ch.val) = some c ∧ canLanes u t x c.inTy m = true ∧ canLanes u t y c.inTy m = true ∧
        canPut u t dst c.outTy m = true)
      (fun u =>
        let m := countAt u t n
        let r := chainVec c (u.regsAt t) (lanesOf u t x c.inTy m) (lanesOf u t y c.inTy m)
        let u1 := tookLanes u t x m
        let u2 := match x, y with
          | .q a, .q b => if a = b then u1 else tookLanes u1 t y m
          | _, _ => tookLanes u1 t y m
        ((putTo u2 t dst c.outTy r.1).raise t r.2.1).modRegs t fun g => setPreds g r.2.2)) ∧
  (∀ (i : Issue) ch x y dst n c, let t := i.tile.val
    Completes (.vchain i ch x y dst n) i .v (fun u =>
        128 < countAt u t n ∧ countAt u t n ≤ 16777215 ∧ (u.tile t).slots = [.v] ∧ checkChain (chainOf (u.tile t) ch.val) = some c ∧
        canLanes u t x c.inTy 128 = true ∧ canLanes u t y c.inTy 128 = true ∧ canPut u t dst c.outTy 128 = true)
      (fun u => u.modBody t fun b => { b with longOp := some { op := .chain ch x y dst, n, total := countAt u t n, done := 0, bundle := b.cur
                                                               preds := [], regs := (u.tile t).before.regs, block := some [] } })) ∧
  (∀ (i : Issue) o ty sr x p n, ty ≠ .complex → let t := i.tile.val
    Completes (.vred i o ty sr x p n) i .v (fun u => 0 < countAt u t n ∧ countAt u t n ≤ 128 ∧ canLanes u t x ty (countAt u t n) = true)
      (fun u =>
        let on (k : Nat) : Bool := match p with | some p => (pReg (u.regsAt t) p.val).getLsbD k | none => true
        let lanes := ((lanesOf u t x ty (countAt u t n)).zipIdx).map fun e => if on e.2 then some e.1 else none
        let r := redCombine o ty (sReg (u.body t).regs sr.val) lanes
        ((tookLanes u t x (countAt u t n)).modRegs t fun g => setS g sr.val r.1).raise t r.2)) ∧
  (∀ (i : Issue) x (q : QReg) sr n a st, let t := i.tile.val
    Achieves (.quant i x q sr n a st) i .v (fun u =>
        let m := countAt u t n
        let f := streamFmt (u.tile t) q.val
        0 < m ∧ m ≤ 128 ∧ canLanes u t x .fp32 m = true ∧ canGive u t q.val m = true ∧ quantFmt f = true ∧
        scaleBad f (sReg (u.regsAt t) sr.val) = false ∧
        (a.val = 0 ∨ (f ≠ .int16 ∧ f ≠ .bf16 ∧ canPeek u t (offAt u t a) 16 = true ∧ (parseMaps (peeked u t (offAt u t a) 16) m).isSome = true)))
      (fun u s1 => posOf s1 t q.val = posOf u t q.val + countAt u t n ∧ (s1.body t).sp = (u.body t).sp)) ∧
  (∀ (i : Issue) x (q : QReg) n st, let t := i.tile.val
    Achieves (.mxquant i x q n st) i .v (fun u =>
        let m := countAt u t n
        0 < m ∧ m ≤ 128 ∧ canLanes u t x .fp32 m = true ∧ canGive u t q.val m = true ∧ isMx (streamFmt (u.tile t) q.val) = true)
      (fun u s1 => posOf s1 t q.val = posOf u t q.val + countAt u t n ∧ (s1.body t).sp = (u.body t).sp)) ∧
  (∀ (i : Issue) x (q : QReg) a (sr : SReg) n r, sr.val ≤ 28 → let t := i.tile.val
    Achieves (.requant i x q a sr n) i .v (fun u =>
        let m := countAt u t n
        0 < m ∧ m ≤ vecPer (u.tile t) (.requant x q a sr) ∧
        (if requantWords (u.tile t) x then (match x with | .q k => canTake u t k.val m = true | .v _ => False) else canLanes u t x .int32 m = true) ∧
        canPut u t (.q q) .int32 m = true ∧ canPeek u t (offAt u t a) 1024 = true ∧ parseRqb (peeked u t (offAt u t a) 1024) = some r ∧
        isIntOut r.out = true)
      (fun u s1 => posOf s1 t q.val = posOf u t q.val + countAt u t n ∧ (s1.body t).sp = (u.body t).sp)) ∧
  (∀ (i : Issue) (qi qo : QReg) (fy fx : Fin 8) dm n ty, ty ≠ .complex → let t := i.tile.val
    let plane (u : State) := planeOf (sReg (u.regsAt t) dm.val)
    let whole (per : Nat) (u : State) : Prop :=
      let m := countAt u t n
      0 < m ∧ m ≤ per ∧ (plane u).1 * (fy.val + 1) * ((plane u).2 * (fx.val + 1)) = m ∧
      canLanes u t (.q qi) ty ((plane u).1 * (plane u).2) = true ∧ canPut u t (.q qo) ty m = true
    let passed (u s1 : State) : Prop :=
      posOf s1 t qi.val = posOf u t qi.val + (plane u).1 * (plane u).2 ∧ posOf s1 t qo.val = posOf u t qo.val + countAt u t n
    Achieves (.vupn i qi qo fy fx dm n ty) i .v (whole 128) passed ∧ Achieves (.vupb i qi qo fy fx dm n ty) i .v (whole 64) passed) ∧
  (∀ (i : Issue) x p (q : QReg) d ty, let t := i.tile.val
    Achieves (.vcompress i x p q d) i .v (fun u =>
        laneOf (streamFmt (u.tile t) q.val) = some ty ∧ canLanes u t x ty 128 = true ∧
        canPut u t (.q q) ty (predCount (pReg (u.regsAt t) p.val)) = true)
      (fun u s1 => sReg (s1.body t).regs d.val = sReg (u.regsAt t) d.val + BitVec.ofNat 64 (predCount (pReg (u.regsAt t) p.val)) ∧
        posOf s1 t q.val = posOf u t q.val + predCount (pReg (u.regsAt t) p.val))) ∧
  (∀ (i : Issue) (q : QReg) p f v ty, let t := i.tile.val
    let m (u : State) := predCount (pReg (u.regsAt t) p.val)
    let fmt (u : State) := streamFmt (u.tile t) q.val
    Completes (.vexpand i q p f v) i .v (fun u => canTake u t q.val (m u) = true ∧ laneOf (fmt u) = some ty)
      (fun u =>
        let fill (k : Nat) : Word := match f with
          | .v r => vLane (u.regsAt t) r.val k
          | .zero => 0
          | .zeroCode => widen (fmt u) ty { code := padCode (streamOf (u.body t) q.val).desc, scale := 127 }
        (tookElems u t q.val (m u)).modRegs t fun r =>
          setV r v.val (expandLanes (pReg (u.regsAt t) p.val) fill 128 ((nextElems u t q.val (m u)).map (widen (fmt u) ty))))) ∧
  (∀ (i : Issue) v (sr : SReg), let t := i.tile.val
    Writes (.vrng i v sr) i .v fun u => u.modRegs t fun r =>
      let w := (sReg (u.regsAt t) sr.val).toNat
      setS (setV r v.val (randomBlock (u.tile t).seed.toNat (u.tile t).before.step.toNat (w % 2 ^ 32) (w / 2 ^ 32))) sr.val
        (BitVec.ofNat 64 ((w / 2 ^ 32 + 1) % 2 ^ 32 * 2 ^ 32 + w % 2 ^ 32))) ∧
  (∀ (i : Issue) (sr : SReg) int4, sr.val < 31 → let t := i.tile.val
    Writes (.vtscale i sr int4) i .v fun u =>
      let r := tokenScale int4 ((sReg (u.regsAt t) sr.val).setWidth 32)
      (u.modRegs t fun g => setS (setS g sr.val (r.1.setWidth 64)) (sr.val + 1) (r.2.1.setWidth 64)).raise t r.2.2)) ∧
  (
  (∀ s (tile : TileId) (o : LongOp) (s1 : State),
    let t := tile.val
    let u := s.setTile t (againAt o (s.tile t))
    let n := o.total - o.done
    let m := min n (vecPer (u.tile t) o.op)
    (s.tile t).body.longOp = some o → (s.tile t).state = .running → vecStep u t o.op o.done m n o.total o.block = .ok s1 →
    exec (.longOpVectorComplete tile) s = .next (((s1.modBody t fun b =>
      { b with regs := setS b.regs o.n.val (BitVec.ofNat 64 (n - m)),
               longOp := if n - m = 0 then none else b.longOp.map fun l =>
                 { l with done := o.done + m, block := some (o.block.getD (opBlock (u.tile t) t o.op o.total)) } }).modTile t fun x =>
        { x with hold := none }).closeBundle t)) ∧
  (∀ s (tile : TileId) (o : LongOp) ch x y dst c,
    let t := tile.val
    let u := s.setTile t (againAt o (s.tile t))
    let m := min (o.total - o.done) 128
    (s.tile t).body.longOp = some o → (s.tile t).state = .running → o.op = .chain ch x y dst → o.done < o.total →
    checkChain (chainOf (u.tile t) ch.val) = some c → canLanes u t x c.inTy m = true → canLanes u t y c.inTy m = true →
    canPut u t dst c.outTy m = true →
    ∃ s1, exec (.longOpVectorComplete tile) s = .next s1 ∧
      sReg (s1.body t).regs o.n.val = BitVec.ofNat 64 (o.total - o.done - m) ∧
      ((s1.body t).longOp = none ↔ o.total ≤ o.done + 128) ∧ (s1.tile t).slots = [])) ∧
  (
  ∀ s i op n, issues s i .v = true →
    let u := begun s i .v
    let t := i.tile.val
    let cnt := (sReg (u.tile t).before.regs n.val).toNat
    (16777215 < cnt → runOp s i .v (vecIssue op n) = u.taskFault t (Code.til 0x03) 1 true) ∧
    (cnt ≤ 16777215 → vecPer (u.tile t) op < cnt → (u.tile t).slots ≠ [.v] →
      runOp s i .v (vecIssue op n) = u.taskFault t (Code.til 0x04) 1 true))

/-- Row engine operations complete where their operands are there; MCLR gives an entry its type, value 0 and no poison. XRED and XBC at a level: a rank
with no partner goes on; a rank that sends writes its elements to the receiver's memory, notes the transfer and signals the receiver's semaphore; a
rank that receives takes its own semaphore and the transfer, and has its elements where it wants them. Which semaphore a rank has, and the device of a
far rank, are the model's (log 14, log 48). -/
def Obligations.RowOps : Prop :=
  (
  (∀ i (e : Fin 8) ty, ty ≠ .unused → ty ≠ .complex → Writes (.mclr i e ty) i .m fun u =>
      u.modBody i.tile.val fun b => clearEntry b e.val ty) ∧
  (∀ i (e : Fin 8), e.val % 2 = 0 → Writes (.mclr i e .complex) i .m fun u =>
      u.modBody i.tile.val fun b => clearEntry (clearEntry b e.val .complex) (e.val + 1) .complex) ∧
  (∀ i e b fa fw q cj half, Runs (.mmac i e b fa fw q cj half) i .m (mmacOp e.val b.val fa fw q.val cj half)) ∧
  (∀ i e m q a sr, Runs (.mout i e m q a sr) i .m (moutOp e.val m q.val a.val sr.val)) ∧
  (∀ i b q, Runs (.mwld i b q) i .s (weightLoad b.val q.val false)) ∧
  (∀ i b q, Runs (.mwldt i b q) i .s (weightLoad b.val q.val true)) ∧
  (∀ (i : Issue) (e : Fin 8) (b : Fin 2) fa fw (q : QReg) cj half p, pairInfo fa fw = some p → (half = true → p.halves = true) →
    (p.ty = .complex → e.val % 2 = 0) → let t := i.tile.val
    let w (u : State) := (u.tile t).before.wbufs.get WBuf.init b.val
    Completes (.mmac i e b fa fw q cj half) i .m (fun u =>
        canTake u t q.val (128 * p.groups) = true ∧ streamFmt (u.tile t) q.val = fa ∧ (w u).loading = none ∧ ((w u).elems = [] ∨ (w u).fmt = fw) ∧
        tyOf (u.body t) e.val = p.ty ∧ kgroupsOf (u.body t) e.val + p.groups ≤ 16777215)
      (fun u =>
        let u1 := tookElems u t q.val (128 * p.groups)
        let acts (g : Nat) : List (List Elem) := (upTo 4).map fun r =>
          ((nextElems u t q.val (128 * p.groups)).drop (r * (32 * p.groups) + 32 * g)).take 32
        let r0 := groupStep fa fw p.ty cj e.val (acts 0) (w u) (if half then 32 else 0) (u1.body t, .none)
        let r := if p.groups = 2 then groupStep fa fw p.ty cj e.val (acts 1) (w u) 32 r0 else r0
        (u1.modBody t fun _ => { r.1 with kgroups := r.1.kgroups.set 0 e.val (kgroupsOf r.1 e.val + p.groups) }).raise t r.2)) ∧
  (∀ (i : Issue) (e : Fin 8) m (q : QReg) a sr r, let t := i.tile.val
    let entry (u : State) := tyOf (u.body t) e.val
    Achieves (.mout i e m q a sr) i .m (fun u =>
        poisoned (u.body t) e.val = false ∧ entry u ≠ .unused ∧
        (entry u = .complex → e.val % 2 = 0 ∧ poisoned (u.body t) (e.val + 1) = false) ∧
        canGive u t q.val (if entry u = .complex then 512 else 256) = true ∧
        match m with
        | .raw => True
        | _ => (if m = .requantised then entry u = .int48 else entry u ≠ .complex) ∧ canPeek u t (offAt u t a) 1024 = true ∧
            parseRqb (peeked u t (offAt u t a) 1024) = some r ∧ rqbFault (u.body t) e.val m r = none)
      (fun u s1 => posOf s1 t q.val = posOf u t q.val + (if entry u = .complex then 512 else 256) ∧ (s1.body t).acc = (u.body t).acc ∧
        (s1.body t).accTy = (u.body t).accTy)) ∧
  (∀ (i : Issue) (b : Fin 2) (q : QReg) tr, let t := i.tile.val
    let st (u : State) := streamOf (u.body t) q.val
    let f (u : State) := deliveredFmt (st u).desc
    let n (u : State) := 64 * weightsPerLane (f u)
    Completes (if tr then .mwldt i b q else .mwld i b q) i .s (fun u =>
        q.val < 4 ∧ (st u).valid = true ∧ weightFmt (f u) = true ∧ (tr = true → f u ≠ .int4 ∧ isMx (f u) = false) ∧
        loadFits (st u).desc (st u).pos (n u) tr = true ∧ (∀ c, (st u).crest = some c → min ((st u).pos + n u) (st u).desc.length ≤ c) ∧
        ((u.body t).wbufs.get WBuf.init b.val).loading = none ∧ loadingFrom (u.body t) q.val = false)
      (fun u => u.modBody t fun y =>
        { y with wbufs := y.wbufs.set WBuf.init b.val { (y.wbufs.get WBuf.init b.val) with loading := some (q.val, f u, tr) } })) ∧
  (∀ s (tile : TileId) (b : Fin 2) q f tr,
    let x := s.tile tile.val
    let st := x.body.streams.get StreamSt.init q
    let m := min (64 * weightsPerLane f) (st.desc.length - st.pos)
    (x.body.wbufs.get WBuf.init b.val).loading = some (q, f, tr) → x.state = .running → m ≤ st.buf.length →
    (st.buf.take m).any (·.bad) = false →
    exec (.weightLoadComplete tile b) s = .next (s.setTile tile.val { x with body := weightsArrive x b.val q f tr }))) ∧
  (
  (∀ i a (l : Fin 16), Runs (.xred i a l) i .c (levelOp false a l.val)) ∧
  (∀ i a (l : Fin 16), Runs (.xbc i a l) i .c (levelOp true a l.val)) ∧
  (∀ (i : Issue) a (l : Fin 16) bc ref d, let t := i.tile.val
    let c : Instr := if bc then .xbc i a l else .xred i a l
    let h := 2 ^ l.val
    let group (u : State) := ((u.taskSt ref t).map fun k => k.desc.group).getD 0
    let ready (u : State) : Prop := (u.tile t).grouped = true ∧ canPeek u t (offAt u t a) 64 = true ∧ (u.tile t).ref = some ref ∧
      parseRed (peeked u t (offAt u t a) 64) (group u) = .inl d
    let rank (u : State) := (u.tile t).rank
    let lower (u : State) : Prop := rank u % (2 * h) = 0 ∧ rank u + h < (u.tile t).groupSize
    let upper (u : State) : Prop := rank u % (2 * h) = h
    let peer (u : State) := if bc then rank u + h else rank u - h
    let from' := if bc then d.dst else d.src
    Completes c i .c (fun u => ready u ∧ ¬ lower u ∧ ¬ upper u) id ∧
    (∀ desc k, Completes c i .c (fun u => ready u ∧ (if bc then lower u else upper u) ∧ 0 < d.count ∧
          canPeek u t (windowOff t from') (d.count * 4) = true ∧ u.rankTask (u.tile t) (peer u) = some desc ∧ rankSem desc = some k ∧
          (u.sem k).count < 65535 ∧ u.taskReach (u.tile t).domain (u.tile t).job (d.recv + l.val * d.stride) (d.count * 4) = true ∧
          u.outOfSpan (u.tile t) (d.recv + l.val * d.stride) = false)
        (fun u =>
          let u1 := u.extWrite (u.twinAddr ref (d.recv + l.val * d.stride)) (peeked u t (windowOff t from') (d.count * 4))
          let tr : Transfer := { job := (refKey ref).1, copy := (refKey ref).2, group := d.group, rank := peer u, level := l.val, op := d.op,
                                 ty := d.ty, count := d.count }
          let u2 := u1.setSched { u1.sched with transfers := u1.sched.transfers ++ [tr] }
          u2.setSem k { u2.sem k with count := (u.sem k).count + 1 })) ∧
    (∀ desc k tr, let key := refKey ref
      Achieves c i .c (fun u => ready u ∧ (if bc then upper u else lower u) ∧ u.rankTask (u.tile t) (rank u) = some desc ∧ rankSem desc = some k ∧
          u.semFault (u.tile t) k = none ∧ 0 < (u.sem k).count ∧
          tr = ({ job := key.1, copy := key.2, group := d.group, rank := rank u, level := l.val, op := d.op, ty := d.ty, count := d.count } : Transfer) ∧
          (u.sched.transfers.find? fun y => y.job == key.1 && y.copy == key.2 && y.group == d.group && y.rank == rank u && y.level == l.val) = some tr ∧
          (0 < d.count → (bc = true ∨ canPeek u t (windowOff t d.src) (d.count * 4) = true) ∧
            heldRange (u.tile t) (windowOff t d.dst) (d.count * 4) = true ∧ tagWait (u.tile t) (windowOff t d.dst) (d.count * 4) false = none ∧
            u.taskReach (u.tile t).domain (u.tile t).job (d.recv + l.val * d.stride) (d.count * 4) = true ∧
            u.extBad (u.twinAddr ref (d.recv + l.val * d.stride)) (d.count * 4) = false ∧
            spMergeBad (u.body t) (windowOff t d.dst) (d.count * 4) = false))
        (fun u s1 => s1.sched.transfers = u.sched.transfers.erase tr ∧ (s1.sem k).count + 1 = (u.sem k).count))))

/-- After an integer K-group every lane's entry is the saturated sum of what it held and the exact sum of the lane's 32 products, and acc_sat is set where
it was set before or a lane was saturated. -/
def Obligations.IntegerKGroup : Prop :=
  ∀ (b : TileBody) fa fw cj (e : Nat) acts w start br,
    let sum (k : Nat) : Int := (accAt b e k).toInt + intGroup fa fw ((acts.getD (k / 64) []).zip (laneWeights w (k % 64) start))
    let r := groupStep fa fw .int48 cj e acts w start (b, br)
    (∀ k, k < 256 → (accAt r.1 e k).toInt = max (-(2 ^ 47)) (min (2 ^ 47 - 1) (sum k))) ∧
    (r.2.acc = true ↔ br.acc = true ∨ ∃ k, k < 256 ∧ (sum k < -(2 ^ 47) ∨ 2 ^ 47 - 1 < sum k))

/-! ## Streams, tile commands, polders and sluices -/

/-- STREAM_FETCH brings the next elements of a loaded read stream, as room, length, crest and tags let it; FETCH_RETURN puts the oldest fetch into the
buffer, and faults the task where that fetch met a fault; STREAM_WRITE_LAND lands writes oldest first. -/
def Obligations.StreamMotion : Prop :=
  (∀ s (tile : TileId) (q : QReg) n,
    let t := tile.val
    let st := streamOf (s.body t) q.val
    let m := min n (fetchRoom (s.body t) st q.val)
    let r := s.fetchRun t st.desc m st.fetched
    (s.tile t).state = .running → q.val < 4 → st.valid = true → st.inflight.any (fun f => f.fault != 0) = false → r.elems ≠ [] → r.fault = 0 →
    Gives (.streamFetch tile q n) s fun u =>
      (streamOf (u.body t) q.val).fetched = st.fetched + r.elems.length ∧
      (streamOf (u.body t) q.val).inflight = st.inflight ++ [{ elems := r.elems, fault := 0 }] ∧
      (streamOf (u.body t) q.val).buf = st.buf ∧ (streamOf (u.body t) q.val).pos = st.pos ∧
      (u.body t).regs = (s.body t).regs ∧ u.mem = s.mem ∧ u.radio = s.radio ∧ u.sched = s.sched) ∧
  (∀ s (tile : TileId) (q : QReg) f r,
    let t := tile.val
    let st := streamOf (s.body t) q.val
    let u := (s.modBody t fun b => setStream b q.val { st with inflight := r, buf := st.buf ++ f.elems }).closeBundle t
    (s.tile t).state = .running → st.inflight = f :: r → st.desc.copy = false →
    (f.fault = 0 → exec (.fetchReturn tile q) s = .next u) ∧
    (f.fault ≠ 0 → exec (.fetchReturn tile q) s = .next (u.taskFault t (BitVec.ofNat 16 f.fault) 2 false))) ∧
  (∀ s (tile : TileId) (q : QReg) w rest s1,
    let t := tile.val
    let u := s.closeBundle t
    let st := (u.body t).streams.get StreamSt.init q.val
    4 ≤ q.val → st.pend.filter (fun w => !w.sent) = w :: rest → u.landWrite t q.val st.desc st.granted w = .ok s1 →
    exec (.streamWriteLand tile q 1) s = .next ((s1.writeLanded t q.val w).keepPart t w.mout (u.moutPart t st.desc w))) ∧
  (∀ s (tile : TileId) (q : QReg) w off,
    let t := tile.val
    let u := s.closeBundle t
    let st := (u.body t).streams.get StreamSt.init q.val
    let n := (maskBytes w).length
    4 ≤ q.val → st.pend.find? (fun w => !w.sent) = some w → st.desc.farDev = 255 → st.desc.tag = 0 → w.addr < bufferSpace → w.addr < contextSpace →
    u.place w.addr = .tile t off → heldRange (u.tile t) off n = true → spMergeBad (u.body t) off n = false →
    exec (.streamWriteLand tile q 1) s = .next (((u.setTile t { u.tile t with body := spWriteMasked (u.body t) off (maskBytes w) }).writeLanded
      t q.val w).keepPart t w.mout (u.moutPart t st.desc w))) ∧
  (∀ s (tile : TileId) (q : QReg) w a,
    let t := tile.val
    let u := s.closeBundle t
    let st := (u.body t).streams.get StreamSt.init q.val
    let n := (maskBytes w).length
    4 ≤ q.val → st.pend.find? (fun w => !w.sent) = some w → st.desc.farDev = 255 → w.addr < bufferSpace → w.addr < contextSpace →
    u.place w.addr = .ext a → u.outOfSpan (u.tile t) a = false → (∀ r, (u.tile t).ref = some r → u.twinAddr r a = a) →
    u.taskReach (u.tile t).domain (u.tile t).job a n = true → u.mergeBad a n = false →
    exec (.streamWriteLand tile q 1) s = .next (((u.extMerge a (maskBytes w)).writeLanded t q.val w).keepPart t w.mout
      (u.moutPart t st.desc w))) ∧
  (∀ s (tile : TileId) (q : QReg) e rest s1,
    let t := tile.val
    let u := s.closeBundle t
    let st := (u.body t).streams.get StreamSt.init q.val
    q.val < 4 → (streamOf (s.body t) q.val).desc.copy = true → st.buf = e :: rest → e.bad = false → u.ringLand t st.desc st.pos e = some s1 →
    exec (.streamWriteLand tile q 1) s = .next (s1.modBody t fun b =>
      { b with streams := b.streams.set StreamSt.init q.val { st with pos := st.pos + 1, buf := rest } }))

/-- The tile commands of 11 Table 13: ASSIGN and ZEROISE of a tile that is IDLE or FAULTED, KILL of one that is neither IDLE nor ZEROISING, and the end of
the zeroisation, which leaves registers, accumulators and scratchpad 0 and every polder FREE. A tile command that the tile's state does not allow is
answered TILE_BAD_STATE and leaves every tile as it was. -/
def Obligations.TileCommands : Prop :=
  (
  (∀ s (tile : TileId) d, d ≠ .anchor → ((s.tile tile.val).state = .idle ∨ (s.tile tile.val).state = .faulted) →
    Gives (.assign tile d) s fun u =>
      (u.tile tile.val).state = .zeroising ∧ (u.tile tile.val).nextDomain = d ∧ (u.tile tile.val).ref = none ∧
      ∀ p, p < 24 → ((u.tile tile.val).polders.get Polder.init p).state = .zeroising) ∧
  (∀ s (tile : TileId), ((s.tile tile.val).state = .idle ∨ (s.tile tile.val).state = .faulted) →
    Gives (.tileZeroise tile) s fun u =>
      (u.tile tile.val).state = .zeroising ∧ (u.tile tile.val).nextDomain = (s.tile tile.val).domain ∧
      ∀ p, p < 24 → ((u.tile tile.val).polders.get Polder.init p).state = .zeroising) ∧
  (∀ s (tile : TileId), (s.tile tile.val).state ≠ .idle → (s.tile tile.val).state ≠ .zeroising →
    Gives (.tileKill tile) s fun u =>
      (u.tile tile.val).state = .zeroising ∧ (u.tile tile.val).ref = none ∧
      ∀ p, p < 24 → ((u.tile tile.val).polders.get Polder.init p).state ≠ .held) ∧
  (∀ s (tile : TileId), (s.tile tile.val).state = .zeroising → s.assured.slice.getLsbD tile.val = false → s.assured.running.entries = [] →
    Gives (.zeroiseComplete tile) s fun u =>
      (u.tile tile.val).state = .idle ∧ (u.tile tile.val).domain = (s.tile tile.val).nextDomain ∧ (u.tile tile.val).body = TileBody.init ∧
      (u.tile tile.val).polders = .empty ∧ (u.tile tile.val).credits = [] ∧ ∀ k, k ≠ tile.val → u.tile k = s.tile k)) ∧
  (
  ∀ s (tile : TileId),
    let st := (s.tile tile.val).state
    (∀ d, d ≠ .anchor → st ≠ .idle → st ≠ .faulted → exec (.assign tile d) s = .next (s.record Code.tileBadState tile.val [])) ∧
    (st ≠ .idle → st ≠ .faulted → st ≠ .zeroising → exec (.tileZeroise tile) s = .next (s.record Code.tileBadState tile.val [])) ∧
    (∀ ref, st ≠ .idle → exec (.tileLoad tile ref) s = .next (s.record Code.tileBadState tile.val [])) ∧
    (∀ code, (s.record code tile.val []).tiles = s.tiles))

/-- PREEMPT drains a running tile; a load is given up and its task waits again. A drain that completes saves the task's registers, accumulators and
streams, ends the credits of its streams, and leaves the tile IDLE. -/
def Obligations.Preemption : Prop :=
  (∀ s (tile : TileId), (s.tile tile.val).state = .running →
    Gives (.tilePreempt tile) s fun u => (u.tile tile.val).state = .draining ∧ (u.tile tile.val).body = (s.tile tile.val).body ∧
      ∀ k, k ≠ tile.val → u.tile k = s.tile k) ∧
  (∀ s (tile : TileId), (s.tile tile.val).state = .loading → (s.tile tile.val).ref ≠ none →
    Gives (.tilePreempt tile) s fun u => (u.tile tile.val).state = .idle ∧ (u.tile tile.val).ref = none) ∧
  (∀ s (tile : TileId) ref,
    let t := tile.val
    let x := s.tile t
    x.state = .draining → x.ref = some ref → x.body.stats = [] → x.body.streams = .empty → s.taskSt ref t = none → x.cls ≠ .radio →
    Gives (.drainComplete tile) s fun u =>
      (u.tile t).state = .idle ∧ (u.tile t).ref = none ∧ (u.tile t).saveInf = some (savedOfTile x ref) ∧
      (savedOfTile x ref).acc = x.body.acc ∧ (x.body.longOp = none → (savedOfTile x ref).regs = x.body.regs ∧ (savedOfTile x ref).pc = x.body.pc) ∧
      (∀ k, (u.tile k).credits.all (fun c => !isWriter t c.writer) = true))

/-- The loader's check: an image that is well formed runs from its first bundle; a header, CRC or bundle fault ends the task with TI_ENCODING and no
bundle has run. TILE_LOAD of a graph's waiting task on a tile that suits it is the preparation and load of 14 R319; of an entry's task on a claimed
radio tile the load of 11 R240. Both leave the tile LOADING with that task. The loader's check follows the model's readings of log 17, the radio
polders at a load log 16. -/
def Obligations.TaskStarts : Prop :=
  (
  ∀ s (tile : TileId) ref,
    let t := tile.val
    let x := s.tile t
    x.ref = some ref → x.state = .loading → s.powerOf t = .on →
    (x.loadFault = 0 → bundlesFault x.nBundles 0 x.bundles = none → s.savedOf ref = none → x.body.longOp = none →
      exec (.imageLoadCheck tile) s = .next (s.modTile t fun x => { x with state := .running, before := x.body })) ∧
    (x.loadFault = Code.til 0x01 → exec (.imageLoadCheck tile) s = .next (s.taskFault t (Code.til 0x01) 0 false true)) ∧
    (∀ i k, x.loadFault = 0 → bundlesFault x.nBundles 0 x.bundles = some (i, k) →
      exec (.imageLoadCheck tile) s = .next ((s.modBody t fun b => { b with cur := i }).taskFault t (Code.til 0x01) (slotCode k) false))) ∧
  (
  (∀ s (tile : TileId) job (copy : Fin 3) k g c y,
    let t := tile.val
    (s.tile t).state = .idle → (s.tile t).ref = none → s.graph job = some g → g.copies[copy.val]? = some c → c.tasks[k]? = some y →
    g.outcome = none → isWaitingTask y = true → s.tileSuits g copy.val k y (otherTiles g copy.val k 2) t = true →
    exec (.tileLoad tile (.graph job copy k)) s = .next (s.placeOn g copy k t fun j => (c.tasks[j]?).map (·.tile))) ∧
  (∀ s (tile : TileId) (n : Fin 4096) e,
    let t := tile.val
    let u := s.loadRadio n.val e (.entry n) 0 t
    s.claimEntry n.val = some e → e.tiles.getLsbD t = true → (s.sched.entrySlot.get none n.val).isSome = true →
    s.sched.claims.get none t = some n.val → s.sched.ranOn.contains (n.val, t) = false → s.radioFree t = true →
    exec (.tileLoad tile (.entry n)) s = .next (u.setSched { u.sched with ranOn := (n.val, t) :: u.sched.ranOn }) ∧
      (u.tile t).state = .loading ∧ (u.tile t).ref = some (.entry n)) ∧
  (∀ s (tile : TileId) (set : SetId) n e r,
    let t := tile.val
    s.standingOf set.val t = some (n, e) → (s.aset set.val).cfg = some r → s.radioFree t = true → s.shadowBusy set.val = false →
    s.areaFree (s.tile t).saveRad (.training set) t = true →
    exec (.tileLoad tile (.training set)) s = .next (s.loadRadio n e (.training set) r.seed t)))

/-- Faults that hardware finds poison the accumulators and leave the tile FAULTED with the code of 11 Table 15 and 13 Table 5; a tag wait beyond the limit
faults with SP_TAG_WAIT; the scrubber counts what it cannot correct. -/
def Obligations.HardwareFaults : Prop :=
  (∀ s (tile : TileId) f, ((s.tile tile.val).state = .running ∨ (s.tile tile.val).state = .draining) →
    Gives (.taskFault tile f) s fun u =>
      (u.tile tile.val).state = .faulted ∧ (u.tile tile.val).faultCode = hwCode f ∧
      ∀ e, e < 8 → (u.tile tile.val).body.poison.get false e = true) ∧
  (hwCode .operandUe = 0x0C20 ∧ hwCode .accParity = 0x0C21 ∧ hwCode .vectorUe = 0x0C33 ∧ hwCode .spUe = 0x0C60 ∧ hwCode .memUe = 0x0C78) ∧
  (∀ s (tile : TileId) slot,
    let x := s.tile tile.val
    x.hold = some (.tag slot) → x.state = .running → x.tagLimit ≠ 0 → x.tagLimit < s.clock.cycle - x.holdSince →
    Gives (.tagWaitLimit tile) s fun u => (u.tile tile.val).state = .faulted ∧ (u.tile tile.val).faultCode = 0x0C62) ∧
  (∀ s (tile : TileId) (p : Fin 24), (s.tile tile.val).body.spBad = [] →
    exec (.scrubStep tile p) s = .next (if p.val = 23 then s.modTile tile.val fun x => { x with scrub := bump top32 x.scrub } else s)) ∧
  (∀ s (tile : TileId) (p : Fin 24) w,
    let x := s.tile tile.val
    ((x.polders.get Polder.init p.val).state = .held ∨ (x.polders.get Polder.init p.val).state = .free) → x.body.spBad = [w] →
    w * 8 / 0x10000 = p.val → p.val < 23 →
    exec (.scrubStep tile p) s = .next ((s.record Code.spScrubUe tile.val [tile.val, w * 8]).modTile tile.val fun x =>
      { x with eccUe := bump top32 x.eccUe }))

/-- A write of TIL_POLDERn with state HELD takes a FREE polder of a class that suits the tile; out of range it is CFG_RANGE, otherwise TILE_BAD_STATE,
without effect. Release, the zeroiser's start on a LOCKED polder, and the end of a zeroisation follow 12 R268 and R282. -/
def Obligations.PolderLife : Prop :=
  (∀ s (tile : TileId) (n : Fin 24) (p : PolderSet) c,
    let x := s.tile tile.val
    classOf p.cls.toNat = some c → p.winBase.toNat + p.winCount.toNat ≤ 256 → (x.polders.get Polder.init n.val).state = .free →
    classSuits x.domain c = true →
    let y : Polder := { state := .held, cls := c, tagged := p.tagged, accRemote := p.accRemote, winCount := p.winCount.toNat,
                        winBase := p.winBase.toNat, job := p.job }
    exec (.polderAlloc tile n p) s = .next (s.setTile tile.val { x with polders := x.polders.set Polder.init n.val y })) ∧
  (∀ s (tile : TileId) (n : Fin 24) (p : PolderSet),
    (classOf p.cls.toNat = none ∨ 256 < p.winBase.toNat + p.winCount.toNat →
      Gives (.polderAlloc tile n p) s fun u => u = { s with out := s.out ++ [.word "POLDER_ALLOC" 0x0102] }) ∧
    (∀ c, classOf p.cls.toNat = some c → p.winBase.toNat + p.winCount.toNat ≤ 256 →
      (((s.tile tile.val).polders.get Polder.init n.val).state ≠ .free ∨ classSuits (s.tile tile.val).domain c = false) →
      Gives (.polderAlloc tile n p) s fun u => u = { s with out := s.out ++ [.word "POLDER_ALLOC" 0x0C80] })) ∧
  (∀ s (tile : TileId) (n : Fin 24), ((s.tile tile.val).polders.get Polder.init n.val).state = .held →
    Gives (.polderRelease tile n) s fun u =>
      ((u.tile tile.val).polders.get Polder.init n.val).state = .zeroising ∧
      (u.tile tile.val).credits.all (fun c => c.polder != n.val) = true) ∧
  (∀ s (tile : TileId) (n : Fin 24),
    let x := s.tile tile.val
    let st (k : Nat) : PolderState := (x.polders.get Polder.init k).state
    x.state ≠ .zeroising → st n.val = .locked → (∀ k, k < n.val → st k ≠ .locked) → (∀ k, k < 24 → st k ≠ .zeroising) →
    exec (.lockedPolderZeroiseStart tile n) s = .next (s.setTile tile.val (setPolderState n.val .zeroising x))) ∧
  (∀ s (tile : TileId) (n : Fin 24), (s.tile tile.val).state ≠ .zeroising → ((s.tile tile.val).polders.get Polder.init n.val).state = .zeroising →
    Gives (.polderZeroiseComplete tile n) s fun u =>
      (u.tile tile.val).polders.get Polder.init n.val = Polder.init ∧
      (∀ o, n.val * 0x10000 ≤ o → o < (n.val + 1) * 0x10000 → (u.tile tile.val).body.sp.get 0 o = 0) ∧
      (∀ o, (o < n.val * 0x10000 ∨ (n.val + 1) * 0x10000 ≤ o) → (u.tile tile.val).body.sp.get 0 o = (s.tile tile.val).body.sp.get 0 o) ∧
      (∀ k, n.val * 256 ≤ k → k < (n.val + 1) * 256 → (u.tile tile.val).body.tags.get false k = false))

/-- Sluice credits: a request that passes the checks waits; the oldest request whose next slot has no credit, is as its mode needs and is inside its
class's share is granted; a write under its credit lands, and one without is discarded and counted. A read of a tile's window from outside: a task of
the polder's job gets the bytes, another faults with ST_DENIED; the host and the firmware cores never read a radio polder. -/
def Obligations.SluiceCredits : Prop :=
  (
  (∀ s (tile : TileId) (r : CreditReq),
    let p := (s.tile tile.val).polders.get Polder.init r.polder.toNat
    0 < r.count → r.count ≤ 256 → p.state = .held → p.job = r.job → p.cls = r.cls → p.winBase ≤ r.first →
    r.first + r.count ≤ p.winBase + p.winCount → (r.acc = true → p.accRemote = true ∧ r.fmt = .int32) →
    exec (.creditRequest tile r) s = .next (s.modTile tile.val fun x =>
      { x with requests := x.requests ++ [{ req := r, next := r.first, stop := r.first + r.count }] })) ∧
  (∀ s (tile : TileId) r u q,
    let x := s.tile tile.val
    let c : Credit := { polder := r.req.polder.toNat, slot := r.next, acc := r.req.acc, cls := r.req.cls, job := r.req.job, writer := r.req.writer }
    s.array.waiting = [] → x.requests = [r] → r.req.writer = .stream u q → grantable x r = true →
    Gives (.creditGrant tile) s fun v => (v.tile tile.val).credits = x.credits ++ [c] ∧
      (v.tile tile.val).requests = (if r.next + 1 = r.stop then [] else [{ r with next := r.next + 1 }])) ∧
  (∀ s (tile : TileId) (w : RemoteWr) v, s.sluiceWrite tile.val w.off w.bytes w.acc w.closing w.writer = .done v false →
    exec (.remoteWrite tile w) s = .next v) ∧
  (∀ s (tile : TileId) (w : RemoteWr) c,
    let x := s.tile tile.val
    let n := w.bytes.length
    x.credits.find? (fun c => c.writer = w.writer && c.acc = w.acc && creditSlot c = w.off / 256) = some c → w.off % 256 + n ≤ 256 →
    (x.polders.get Polder.init c.polder).state = .held →
    (if w.acc then spUnreadable x.body w.off n = false else spMergeBad x.body w.off n = false) →
    let b := if w.acc then spWrite x.body w.off (accBytes false (spBytes x.body w.off n) (w.bytes.map (·.1))) else spWriteMasked x.body w.off w.bytes
    let b1 := if w.closing && !w.acc && slotTagged x (w.off / 256) then setTag b (w.off / 256) true else b
    exec (.remoteWrite tile w) s = .next ((s.setTile tile.val { x with
      body := b1, credits := if w.closing then x.credits.erase c else x.credits }).closeBundle tile.val)) ∧
  (∀ s (tile : TileId) (w : RemoteWr), s.sluiceWrite tile.val w.off w.bytes w.acc w.closing w.writer = .noCredit →
    Gives (.remoteWrite tile w) s fun v => (v.tile tile.val).refused = bump 255 (s.tile tile.val).refused ∧
      (v.tile tile.val).credits = (s.tile tile.val).credits ∧ (v.tile tile.val).body = (s.tile tile.val).body) ∧
  (∀ s (tile : TileId) ref rest,
    let x := s.tile tile.val
    x.notices = ref :: rest → x.ref = some ref → x.state = .running →
    exec (.sluiceNoCredit tile) s = .next ((s.modTile tile.val fun x => { x with notices := rest }).taskFault tile.val (Code.til 0x64) 2 false))) ∧
  (
  (∀ s (tile u : TileId) off n, (s.tile u.val).state = .running → (s.tile tile.val).state ≠ .zeroising →
    heldBy (s.tile tile.val) (s.tile u.val).pjob off n = true → spUnreadable (s.tile tile.val).body off n = false →
    exec (.remoteRead tile off n (.task u)) s = .next (s.emit (.word "SP_READ" (leNat (spBytes (s.tile tile.val).body off n))))) ∧
  (∀ s (tile u : TileId) off n, (s.tile u.val).state = .running →
    ((s.tile tile.val).state = .zeroising ∨ heldBy (s.tile tile.val) (s.tile u.val).pjob off n = false) →
    exec (.remoteRead tile off n (.task u)) s = .next (s.taskFault u.val (Code.til 0x77) 2 false)) ∧
  (∀ s (tile : TileId) off n (p : Fin 24), off / 0x10000 = p.val → 0 < n → ((s.tile tile.val).polders.get Polder.init p.val).cls = .radio →
    exec (.remoteRead tile off n .host) s = .next (s.emit (.word "SP_READ_REFUSED" 0x0C81))))

/-! ## Memory, cluster caches and pooling -/

/-- Weight-cache fills, refresh, the patrol scrubber and the release of a cluster-cache page, which reads as zeros. The set a line belongs to is the
model's (log 20). -/
def Obligations.MemoryCommands : Prop :=
  (∀ s line dom, s.wcache.inflight.find? (·.1 = line) = some (line, dom) →
    Gives (.wcLineFill line) s fun u => u.wcache.lines.get none line = some { domain := dom, used := s.clock.cycle } ∧
      u.wcache.inflight = s.wcache.inflight.erase (line, dom) ∧ u.mem = s.mem) ∧
  (∀ s (c : Fin 8), Gives (.memRefresh ⟨c.val, by omega⟩ true) s fun u => u.mem.hot.getLsbD c.val = true ∧
      ∀ k : Fin 8, k ≠ c → u.mem.hot.getLsbD k.val = s.mem.hot.getLsbD k.val) ∧
  (∀ s (c : Fin 8), Gives (.memRefresh ⟨c.val, by omega⟩ false) s fun u => u.mem.hot.getLsbD c.val = false ∧
      ∀ k : Fin 8, k ≠ c → u.mem.hot.getLsbD k.val = s.mem.hot.getLsbD k.val) ∧
  (∀ s, s.mem.patrolOn = true → s.mem.bad = [] →
    exec .patrolScrubPass s = .next (s.setMem { s.mem with patrolSec := s.nowSec % 2 ^ 48 })) ∧
  (∀ s (c : ClusterId) (p : Fin 56), (s.cluster c.val).pages.get none p.val ≠ none → s.spillInUse (c.val * 56 + p.val) = false →
    Gives (.clusterPageRelease c p) s fun u =>
      (u.cluster c.val).pages.get none p.val = none ∧
      (∀ o, p.val * 0x10000 ≤ o → o < (p.val + 1) * 0x10000 → (u.cluster c.val).cache.get 0 o = 0) ∧
      (∀ o, (o < p.val * 0x10000 ∨ (p.val + 1) * 0x10000 ≤ o) → (u.cluster c.val).cache.get 0 o = (s.cluster c.val).cache.get 0 o) ∧
      ∀ k, k ≠ c.val → u.cluster k = s.cluster k)

/-- Pooling jobs: the oldest queued job starts when the unit is free and its wait semaphore can be taken; its end writes every output row and signals; a
stopped job signals nothing. How far a stopped job got is a free value (log 1). -/
def Obligations.PoolingJobs : Prop :=
  (∀ s (c : ClusterId) p r d,
    let cl := s.cluster c.val
    cl.poolRun = none → cl.poolQueue = p :: r → parsePool p.bytes = some d →
    (d.waitSem = 0xFFFF → exec (.poolJobStart c) s = .next (s.setCluster c.val { cl with poolQueue := r, poolRun := some p })) ∧
    (∀ u, d.waitSem ≠ 0xFFFF → s.semTake d.waitSem = some u →
      exec (.poolJobStart c) s = .next (u.setCluster c.val { cl with poolQueue := r, poolRun := some p }))) ∧
  (∀ s (c : ClusterId) p d,
    let cl := s.cluster c.val
    let w := s.poolWrite c.val d (poolRows d).length
    let u := w.setCluster c.val { (w.cluster c.val) with poolRun := none }
    cl.poolRun = some p → parsePool p.bytes = some d → p.stopped = false → poolUnreadable cl d = false →
    exec (.poolJobComplete c) s = .next (if d.signalSem = 0xFFFF then u else u.poolSignal p.ref d.signalSem)) ∧
  (∀ s (c : ClusterId) p d, (s.cluster c.val).poolRun = some p → parsePool p.bytes = some d → p.stopped = true →
    Gives (.poolJobComplete c) s fun u => (u.cluster c.val).poolRun = none ∧ u.sched.sems = s.sched.sems)

/-! ## The cluster signal processors -/

/-- The multiply-accumulate operations of 10 Table 4 outside a repeat: the exact product joins the accumulator, saturated to 40 bits with sat; memory
operands are read with deferred writes in view and post-modified. The filter operations outside a repeat: FTAP adds a tap's product and moves its
sample on one cycle later, TUPD moves a coefficient two cycles later, TCOPY writes a coefficient's rounded copy at once. -/
def Obligations.CspProducts : Prop :=
  (
  (∀ i acc a b conj neg, CspRuns (.cmacr i acc a b conj neg) i ⟨true, repIs (.cmacr acc a b conj neg)⟩ cspOnce fun x =>
    let y := accAdd (cAcc x.core acc) (cmulParts (cD x.atIssue a) (cD x.atIssue b) conj neg)
    { x with core := raiseSat (putAcc x.core acc y.1) y.2 }) ∧
  (∀ i acc a b conj neg, CspRuns (.cmac i acc a b conj neg) i ⟨true, repIs (.cmac acc a b conj neg)⟩
    (fun x => cspOnce x ∧ cspReads x a 4 ∧ cspReads x b 4) fun x =>
    let k := freeB x.core
    let y := accAdd (cAcc k acc) (cmulParts (BitVec.ofNat 32 (cspRead x a 4)) (BitVec.ofNat 32 (cspRead x b 4)) conj neg)
    cspCorrected x a 4 (cspCorrected x b 4
      { x with core := { (postMod x.atIssue (postMod x.atIssue (raiseSat (putAcc k acc y.1) y.2) a) b) with slots := 2 } })) ∧
  (∀ i acc a b neg, CspRuns (.cpow i acc a b neg) i ⟨true, repIs (.cpow acc a b neg)⟩ (fun x => cspOnce x ∧ cspReads x a 4 ∧ cspReads x b 4) fun x =>
    let k := freeB x.core
    let sq (v : Nat) : Int := partRe (BitVec.ofNat 32 v) * partRe (BitVec.ofNat 32 v) + partIm (BitVec.ofNat 32 v) * partIm (BitVec.ofNat 32 v)
    let p := sq (cspRead x a 4) + sq (cspRead x b 4)
    let y := satTo 40 ((cAcc k acc).re.toInt + if neg then -p else p)
    let k1 := raiseSat (putAcc k acc { re := BitVec.ofInt 40 y.1, im := (cAcc k acc).im }) y.2
    cspCorrected x a 4 (cspCorrected x b 4 { x with core := { (postMod x.atIssue (postMod x.atIssue k1 a) b) with slots := 2 } })) ∧
  (∀ i acc, CspRuns (.aclr i acc) i ⟨true, slotIs 10 [(24, 2, acc.val)]⟩ cspOnce fun x => { x with core := putAcc x.core acc { re := 0, im := 0 } }) ∧
  (∀ i acc a (sh : BitVec 6), sh.toNat ≤ 24 → CspRuns (.ald i acc a sh) i ⟨true, slotIs 7 (mmFields acc a ++ [(4, 6, sh.toNat)])⟩
    (fun x => cspOnce x ∧ cspReads x a 4) fun x =>
    let w := BitVec.ofNat 32 (cspRead x a 4)
    let y : CspAcc := { re := BitVec.ofInt 40 (partRe w * 2 ^ sh.toNat), im := BitVec.ofInt 40 (partIm w * 2 ^ sh.toNat) }
    cspCorrected x a 4 { x with core := { (postMod x.atIssue (putAcc x.core acc y) a) with slots := 1 } }) ∧
  (∀ i acc a (sh : BitVec 6), sh.toNat ≤ 47 → CspRuns (.anrw i acc a sh true) i
    ⟨true, slotIs 8 [(24, 2, acc.val), (20, 4, a.val), (10, 6, sh.toNat), flagField 7 true]⟩ cspOnce fun x =>
    let v := rhuShift (cAcc x.core acc).re.toInt sh.toNat
    { x with core := raiseSat (setD x.core a.val (BitVec.ofInt 32 (satInt 32 v))) (satInt 32 v != v) }) ∧
  (∀ i acc a (sh : BitVec 6), sh.toNat ≤ 47 → CspRuns (.anrw i acc a sh false) i
    ⟨true, slotIs 8 [(24, 2, acc.val), (20, 4, a.val), (10, 6, sh.toNat), flagField 7 false]⟩ cspOnce fun x =>
    let re := rhuShift (cAcc x.core acc).re.toInt sh.toNat
    let im := rhuShift (cAcc x.core acc).im.toInt sh.toNat
    { x with core := raiseSat (setD x.core a.val (packParts (satInt 16 re) (satInt 16 im))) (satInt 16 re != re || satInt 16 im != im) }) ∧
  (∀ i dst a b (sh : BitVec 6) conj, sh.toNat ≤ 31 → CspRuns (.cspCmul i dst a b sh conj) i
    ⟨true, slotIs 9 [(22, 4, dst.val), (18, 4, a.val), (14, 4, b.val), (8, 6, sh.toNat), flagField 7 conj]⟩ cspOnce fun x =>
    let p := cmulParts (cD x.atIssue a) (cD x.atIssue b) conj false
    let re := rhuShift p.1 sh.toNat
    let im := rhuShift p.2 sh.toNat
    { x with core := raiseSat (setD x.core dst.val (packParts (satInt 16 re) (satInt 16 im))) (satInt 16 re != re || satInt 16 im != im) })) ∧
  (
  (∀ i acc a conj neg (mv : BitVec 2), mv ≠ 3 → CspRuns (.ftap i acc a conj neg mv) i ⟨true, repIs (.ftap acc a conj neg mv)⟩
    (fun x => cspOnce x ∧ cspReads x a 16) fun x =>
    let v := dmemRead x.core (cspAddr x a) 16
    let y := accAdd (cAcc x.core acc) (cmulParts (BitVec.ofNat 32 (leNat ((v.drop 4).take 4))) (BitVec.ofNat 32 (leNat (v.take 4))) conj neg)
    let k := postMod x.atIssue (raiseSat (putAcc x.core acc y.1) y.2) a
    let w : CspDefer := { due := 1, addr := BitVec.ofNat 18 (cspAddr x a + 16 * mv.toNat + 4), bytes := (v.drop 4).take 4, own := true }
    cspCorrected x a 16 { x with core := if mv = 0 then { k with slots := 1 } else { k with slots := 2, defers := k.defers ++ [w] } }) ∧
  (∀ i a dq dh neg, CspRuns (.tupd i a dq dh neg) i ⟨true, repIs (.tupd a dq dh neg)⟩
    (fun x => cspOnce x ∧ cspReads x a 16 ∧ (cD x.atIssue dh).toNat % 64 ≤ 47) fun x =>
    let v := dmemRead x.core (cspAddr x a) 16
    let h := (cD x.atIssue dh).toNat % 64
    let p := cmulParts (cD x.atIssue dq) (BitVec.ofNat 32 (leNat ((v.drop 4).take 4))) true neg
    let re := signedOf 32 (leNat ((v.drop 8).take 4)) + rhuShift p.1 h
    let im := signedOf 32 (leNat (v.drop 12)) + rhuShift p.2 h
    let k := postMod x.atIssue (raiseSat x.core (satInt 32 re != re || satInt 32 im != im)) a
    let bs := leBytes 4 (BitVec.ofInt 32 (satInt 32 re)).toNat ++ leBytes 4 (BitVec.ofInt 32 (satInt 32 im)).toNat
    let w : CspDefer := { due := 2, addr := BitVec.ofNat 18 (cspAddr x a + 8), bytes := bs, own := true }
    cspCorrected x a 16 { x with core := { k with slots := 1, defers := k.defers ++ [w] } }) ∧
  (∀ i a b, CspRuns (.tcopy i a b) i ⟨true, repIs (.tcopy a b)⟩ (fun x => cspOnce x ∧ cspReads x a 16 ∧ cspAddr x b % 4 = 0) fun x =>
    let v := dmemRead x.core (cspAddr x a) 16
    let re := rhuShift (signedOf 32 (leNat ((v.drop 8).take 4))) 16
    let im := rhuShift (signedOf 32 (leNat (v.drop 12))) 16
    let k := raiseSat (freeB x.core) (satInt 16 re != re || satInt 16 im != im)
    let m := dmemPut k.dmem (cspAddr x b) (leBytes 4 (packParts (satInt 16 re) (satInt 16 im)).toNat)
    cspCorrected x a 16 { x with core := postMod x.atIssue (postMod x.atIssue { k with slots := 2, dmem := m } a) b }))

/-- Loads, stores and register operations of 10 Table 5; loads and stores take the memory slots that the bundle leaves. The ALU of 10 Table 5: saturated
sums and shifts, bit operations, maxima and the packed 16-bit sums; codes 11 to 15 fault. That d + 1 wraps in ST2 and that shift amounts are unsigned
are the model's readings (log 22, log 23). -/
def Obligations.CspMoves : Prop :=
  (
  (∀ i dst imm, CspRuns (.movi i dst imm) i ⟨false, slotIs 0x10 [(22, 4, dst.val), (0, 22, imm.toNat)]⟩ (fun _ => True) fun x =>
    { x with core := setD x.core dst.val (imm.signExtend 32) }) ∧
  (∀ i dst (imm : BitVec 22), CspRuns (.movhi i dst imm) i ⟨false, slotIs 0x11 [(22, 4, dst.val), (0, 16, imm.toNat % 65536)]⟩ (fun _ => True) fun x =>
    { x with core := setD x.core dst.val (BitVec.ofNat 32 ((cD x.atIssue dst).toNat % 65536 + imm.toNat % 65536 * 65536)) }) ∧
  (∀ i d a, CspRuns (.ld i d a) i ⟨false, slotIs 0x12 (xmFields d a false)⟩ (fun x => cspReads (cspSlots 1 x) a 4) fun x =>
    let y := cspSlots 1 x
    cspCorrected x a 4 { x with core := postMod x.atIssue (setD y.core d.val (BitVec.ofNat 32 (cspRead y a 4))) a }) ∧
  (∀ i (d : CspD) a, d.val % 2 = 0 → CspRuns (.ld64 i d a) i ⟨false, slotIs 0x12 (xmFields d a true)⟩ (fun x => cspReads (cspSlots 1 x) a 8) fun x =>
    let y := cspSlots 1 x
    let v := dmemRead y.core (cspAddr x a) 8
    let k := setD (setD y.core d.val (BitVec.ofNat 32 (leNat (v.take 4)))) (d.val + 1) (BitVec.ofNat 32 (leNat (v.drop 4)))
    cspCorrected x a 8 { x with core := postMod x.atIssue k a }) ∧
  (∀ i d a, CspRuns (.st i d a) i ⟨false, slotIs 0x13 (xmFields d a false)⟩ (fun x => cspAddr x a % 4 = 0) fun x =>
    let k := (cspSlots 1 x).core
    { x with core := postMod x.atIssue { k with dmem := dmemPut k.dmem (cspAddr x a) (leBytes 4 (cD x.atIssue d).toNat) } a }) ∧
  (∀ i d a b, CspRuns (.st2 i d a b) i ⟨false, slotIs 0x13 (xmFields d a true ++ [(14, 3, b.i.val), (12, 2, b.m.val)])⟩
    (fun x => cspAddr x a % 4 = 0 ∧ cspAddr x b % 4 = 0) fun x =>
    let k := (cspSlots 2 x).core
    let m := dmemPut k.dmem (cspAddr x a) (leBytes 4 (cD x.atIssue d).toNat)
    let m2 := dmemPut m (cspAddr x b) (leBytes 4 (cD x.atIssue (d + 1)).toNat)
    { x with core := postMod x.atIssue (postMod x.atIssue { k with dmem := m2 } a) b }) ∧
  (∀ i dst a b (f : BitVec 4), f.toNat ≤ 10 → CspRuns (.cspAlu i dst a b f) i
    ⟨false, slotIs 0x14 (xaFields dst.val a ++ [(14, 4, b.val), (0, 4, f.toNat)])⟩ (fun _ => True) fun x =>
    { x with core := setD x.core dst.val ((cspAluVal f.toNat (cD x.atIssue a) (cD x.atIssue b)).getD 0) }) ∧
  (∀ i dst a (imm : BitVec 13), CspRuns (.seta i dst a imm) i ⟨false, slotIs 0x15 (xaFields dst.val a ++ [(0, 13, imm.toNat), (13, 1, 0)])⟩
    (fun _ => True) fun x => { x with core := setI x.core dst ((cD x.atIssue a).setWidth 18 + imm.signExtend 18) }) ∧
  (∀ i (dst : CspM) a (imm : BitVec 13), CspRuns (.setm i dst a imm) i
    ⟨false, slotIs 0x15 (xaFields dst.val a ++ [(0, 13, imm.toNat), (13, 1, 1)])⟩ (fun _ => True) fun x =>
    { x with core := { x.core with m := x.core.m.set 0 dst.val ((cD x.atIssue a).setWidth 18 + imm.signExtend 18) } }) ∧
  (∀ i dst a, CspRuns (.rcpn i dst a) i ⟨false, slotIs 0x16 (xaFields dst.val a)⟩ (fun x => cD x.atIssue a = 0) fun x =>
    { x with core := raiseSat (setD x.core dst.val 0) true }) ∧
  (∀ i dst a, CspRuns (.rcpn i dst a) i ⟨false, slotIs 0x16 (xaFields dst.val a)⟩ (fun x => cD x.atIssue a ≠ 0) fun x =>
    let p := (cD x.atIssue a).toNat.log2
    { x with core := setD x.core dst.val (BitVec.ofNat 32 ((rhuDiv (2 ^ (p + 15)) (cD x.atIssue a).toNat).toNat * 65536 + p)) })) ∧
  (
  (∀ a b : Word,
    cspAluVal 0 a b = some (BitVec.ofInt 32 (satInt 32 (a.toInt + b.toInt))) ∧ cspAluVal 1 a b = some (BitVec.ofInt 32 (satInt 32 (a.toInt - b.toInt))) ∧
    cspAluVal 2 a b = some (a &&& b) ∧ cspAluVal 3 a b = some (a ||| b) ∧ cspAluVal 4 a b = some (a ^^^ b) ∧
    (∀ v, cspAluVal 7 a b = some v → v.toInt = max a.toInt b.toInt) ∧ (∀ v, cspAluVal 8 a b = some v → v.toInt = min a.toInt b.toInt) ∧
    (∀ v, cspAluVal 9 a b = some v → partRe v = satInt 16 (partRe a + partRe b) ∧ partIm v = satInt 16 (partIm a + partIm b))) ∧
  (∀ s i dst a b (f : BitVec 4), 11 ≤ f.toNat →
    let o : CspSlot := ⟨false, slotIs 0x14 (xaFields dst.val a ++ [(14, 4, b.val), (0, 4, f.toNat)])⟩
    cspIssues s i o = true → exec (.cspAlu i dst a b f) s = .next ((cspBegun s i o).cspFault i.cluster.val .illegal)))

/-- Control operations: the branch, loop, call and repeat registers, waits, signals and interrupts. A LOOP of count 0 skips its body. LSAVE writes the
loop registers at its address as 10 R236 lays them out. LREST of a place that holds them so gives the loop registers those values, and sets lpen where
the depth is not 0. A LOOP without an active loop takes level 0, and IRET at level 0 goes on: the model's readings (log 24, log 25). -/
def Obligations.CspControl : Prop :=
  (
  (∀ i n clr, CspRuns (.rpt i (.imm n) clr) i ⟨false, slotIs 0x18 (countFields (.imm n) ++ [flagField 20 clr])⟩
    (fun x => cspOnce x ∧ n.toNat ≤ x.rptMax.toNat) fun x => { x with core := { x.core with rpt := some (n.toNat, clr) } }) ∧
  (∀ i d clr, CspRuns (.rpt i (.reg d) clr) i ⟨false, slotIs 0x18 (countFields (.reg d) ++ [flagField 20 clr])⟩
    (fun x => cspOnce x ∧ (cD x.atIssue d).toNat ≤ x.rptMax.toNat) fun x =>
    { x with core := { x.core with rpt := some ((cD x.atIssue d).toNat, clr) } }) ∧
  (∀ i d (off : BitVec 10), off ≠ 0 → let o : CspSlot := ⟨false, slotIs 0x19 [(22, 4, d.val), (0, 10, off.toNat)]⟩
    CspRuns (.loop i d off) i o (fun x => cspOnce x ∧ x.atIssue.st.lpen = false ∧ cD x.atIssue d ≠ 0) (fun x =>
      { x with core := { x.core with st := { x.core.st with lpen := true }, depth := 1, lc0 := cD x.atIssue d, ls0 := x.atIssue.pc + 1,
                                     le0 := x.atIssue.pc + off.zeroExtend 12 } }) ∧
    CspRuns (.loop i d off) i o (fun x => cspOnce x ∧ x.atIssue.st.lpen = true ∧ x.atIssue.depth = 1 ∧ cD x.atIssue d ≠ 0) (fun x =>
      { x with core := { x.core with st := { x.core.st with lpen := true }, depth := 2, lc1 := cD x.atIssue d, ls1 := x.atIssue.pc + 1,
                                     le1 := x.atIssue.pc + off.zeroExtend 12 } }) ∧
    CspRuns (.loop i d off) i o (fun x => cspOnce x ∧ (x.atIssue.st.lpen = true → x.atIssue.depth.toNat ≤ 1) ∧ cD x.atIssue d = 0) (fun x =>
      { x with core := { x.core with st := { x.core.st with lpen := true }, depth := if x.atIssue.st.lpen then x.atIssue.depth else 0
                                     skip := some (x.atIssue.pc + off.zeroExtend 12) } })) ∧
  (∀ i d (cond : BitVec 3) off, cond.toNat ≤ 4 → CspRuns (.cspBr i d cond off) i
    ⟨false, slotIs 0x1A [(22, 4, d.val), (19, 3, cond.toNat), (0, 12, off.toNat)]⟩ cspOnce fun x =>
    let v := cD x.atIssue d
    if cond = 0 ∨ (cond = 1 ∧ v = 0) ∨ (cond = 2 ∧ v ≠ 0) ∨ (cond = 3 ∧ v.toInt < 0) ∨ (cond = 4 ∧ 0 ≤ v.toInt) then
      { x with core := { x.core with target := some (x.atIssue.pc + off) } } else x) ∧
  (∀ i off, CspRuns (.call i off) i ⟨false, slotIs 0x1B [(25, 1, 0), (0, 12, off.toNat)]⟩ cspOnce fun x =>
    { x with core := { x.core with lr := x.atIssue.pc + 1, target := some (x.atIssue.pc + off) } }) ∧
  (∀ i, CspRuns (.ret i) i ⟨false, slotIs 0x1B [(25, 1, 1)]⟩ cspOnce fun x => { x with core := { x.core with target := some x.atIssue.lr } }) ∧
  (∀ i, CspRuns (.iret i) i ⟨false, slotIs 0x1C []⟩ (fun x => cspOnce x ∧ x.atIssue.st.level = 1) fun x =>
    { x with core := { x.core with st := x.atIssue.est1, target := some x.atIssue.epc1 } }) ∧
  (∀ i, CspRuns (.iret i) i ⟨false, slotIs 0x1C []⟩ (fun x => cspOnce x ∧ x.atIssue.st.level = 2) fun x =>
    { x with core := { x.core with st := x.atIssue.est2, target := some x.atIssue.epc2 } }) ∧
  (∀ i mask, CspRuns (.wait i mask) i ⟨false, slotIs 0x1E [(0, 8, mask.toNat)]⟩ cspOnce fun x =>
    { x with core := if mask &&& x.pending = 0 then { x.core with waiting := some mask } else x.core }) ∧
  (∀ i n, CspRuns (.sig i n) i ⟨false, slotIs 0x1F [(0, 4, n.toNat)]⟩ cspOnce fun x => { x with core := { x.core with signal := some n } }) ∧
  (∀ (s : State) (c : Nat) n,
    (∀ e, (s.csp c).signals.find? (·.1 = n) = some e → s.cspSignal c n = (s.semSignal e.2.val).1) ∧
    ((s.csp c).signals.find? (·.1 = n) = none → s.cspSignal c n = s.setCsp c { s.csp c with mailbox := some n })) ∧
  (∀ i, CspRuns (.ei i) i ⟨false, slotIs 0x20 [(0, 2, 0)]⟩ cspOnce fun x => { x with core := { x.core with st := { x.core.st with ie := true } } }) ∧
  (∀ i, CspRuns (.di i) i ⟨false, slotIs 0x20 [(0, 2, 1)]⟩ cspOnce fun x => { x with core := { x.core with st := { x.core.st with ie := false } } }) ∧
  (∀ i, CspRuns (.halt i) i ⟨false, slotIs 0x20 [(0, 2, 2)]⟩ (fun x => cspOnce x ∧ x.core.rep = none) fun x =>
    match endBundle x with
    | .inl y => { y with state := .stopped, stopPc := x.atIssue.pc, run := false, core := landAll y.core }
    | .inr _ => x)) ∧
  (
  (∀ i (a : CspI), CspRuns (.lsave i a) i ⟨false, slotIs 0x1D [(25, 1, 0), (22, 3, a.val)]⟩
    (fun x => cspOnce x ∧ (cI x.atIssue a).toNat % 16 = 0) fun x =>
    let k := (cspSlots 2 x).core
    let put (t : Table Byte) (e : Byte × Nat) : Table Byte := t.set 0 (((cI x.atIssue a).toNat + e.2) % 2 ^ 18) e.1
    { x with core := { k with dmem := (loopBytes x.atIssue).zipIdx.foldl put k.dmem } }) ∧
  (∀ i (a : CspI) (k : CspCore), CspRuns (.lrest i a) i ⟨false, slotIs 0x1D [(25, 1, 1), (22, 3, a.val)]⟩
    (fun x =>
      let y := cspSlots 2 x
      let p := (cI x.atIssue a).toNat
      let q := (p + 16) % 2 ^ 18
      cspOnce x ∧ accessFault y p 16 true = none ∧ accessFault y q 16 true = none ∧
      dmemRead y.core p 16 ++ dmemRead y.core q 16 = loopBytes k) fun x =>
    let y := cspSlots 2 x
    let p := (cI x.atIssue a).toNat
    correctRead p 16 (correctRead ((p + 16) % 2 ^ 18) 16
      { x with core := { y.core with lc0 := k.lc0, ls0 := k.ls0, le0 := k.le0, lc1 := k.lc1, ls1 := k.ls1, le1 := k.le1, depth := k.depth
                                     st := { y.core.st with lpen := y.core.st.lpen || k.depth != 0 } } })))

/-- Events and control of a CSP: an interrupt is taken at a bundle boundary, RUN starts at bundle 0, FORCE_STOP discards deferred writes, zeroisation
clears memories and registers; an external access of 4, 8 or 16 aligned bytes is served while the CSP issues nothing, and else waits for a free slot;
one that has waited 64 cycles takes slot B. The order in which an external access takes free slots follows log 75. -/
def Obligations.CspEvents : Prop :=
  (∀ s (c : ClusterId) n,
    let x := s.csp c.val
    x.state = .running → x.core.busy = false → x.core.rpt = none → x.core.waiting = none → nextSource x = some n →
    Gives (.cspInterrupt c) s fun u =>
      let y := u.csp c.val
      y.core.st.level = BitVec.ofNat 2 (srcLevel x n) ∧ y.core.st.ie = false ∧ y.core.st.lpen = false ∧
      y.core.pc = (if srcLevel x n = 2 then 0x020 else 0x010) ∧
      (srcLevel x n = 2 → y.core.epc2 = x.core.pc ∧ y.core.est2 = x.core.st) ∧
      (srcLevel x n ≠ 2 → y.core.epc1 = x.core.pc ∧ y.core.est1 = x.core.st) ∧
      y.pending = x.pending &&& ~~~(BitVec.ofNat 8 (2 ^ n))) ∧
  (∀ s (c : ClusterId) image, ((s.csp c.val).state = .loaded ∨ (s.csp c.val).state = .stopped) →
    Gives (.cspRun c image) s fun u => (u.csp c.val).state = .running ∧ (u.csp c.val).core.pc = 0 ∧ (u.csp c.val).fault = none ∧
      (u.csp c.val).run = true ∧ (u.csp c.val).core.d = (s.csp c.val).core.d ∧ (u.csp c.val).prog = (s.csp c.val).prog) ∧
  (∀ s (c : ClusterId) image, (s.csp c.val).state = .empty → image.bundles ≠ [] →
    Gives (.cspRun c image) s fun u => (u.csp c.val).state = .running ∧ (u.csp c.val).core.pc = 0 ∧ (u.csp c.val).signals = image.signals ∧
      (u.csp c.val).prog = ((image.bundles.take 4096).zipIdx).foldl (fun t e => t.set 0 e.2 e.1) (s.csp c.val).prog) ∧
  (∀ s (c : ClusterId) image, ((s.csp c.val).state = .running ∨ (s.csp c.val).state = .faulted ∨ (s.csp c.val).state = .zeroising) →
    exec (.cspRun c image) s = .next (s.setCsp c.val { s.csp c.val with run := true })) ∧
  (∀ s (c : ClusterId), (s.csp c.val).state = .running →
    Gives (.cspForceStop c) s fun u => (u.csp c.val).state = .stopped ∧ (u.csp c.val).core.defers = [] ∧
      (u.csp c.val).core.dmem = (s.csp c.val).core.dmem ∧ (u.csp c.val).core.d = (s.csp c.val).core.d) ∧
  (∀ s (c : ClusterId), (s.csp c.val).state ≠ .running →
    exec (.cspZero c) s = .next (s.setCsp c.val { s.csp c.val with state := .zeroising })) ∧
  (∀ s (c : ClusterId), (s.csp c.val).state = .zeroising →
    Gives (.cspZeroiseComplete c) s fun u => (u.csp c.val).state = .empty ∧ (u.csp c.val).core = CspCore.init ∧ (u.csp c.val).prog = .empty ∧
      (u.csp c.val).pending = 0 ∧ (u.csp c.val).again = (s.csp c.val).again) ∧
  (∀ s (c : ClusterId) a, let x := s.csp c.val
    (accessOk a = true → (x.state ≠ .running ∨ x.core.waiting.isSome = true) →
      exec (.cspExternalAccess c .none a) s = .next (s.cspSettle c.val (.inl { x with core := serveAccess x.core a }))) ∧
    (accessOk a = true → x.state = .running → x.core.waiting = none →
      exec (.cspExternalAccess c .none a) s = .next (s.setCsp c.val { x with
        core := { x.core with ext := { x.core.ext with waiting := x.core.ext.waiting ++ [(a, 0)] } } })) ∧
    (accessOk a = false → exec (.cspExternalAccess c .none a) s = .next (s.emit (.word "CSP_ACCESS_REFUSED" 0x0E02))) ∧
    (∀ cause n, causeSource cause = some n → exec (.cspExternalAccess c cause a) s = exec (.cspExternalAccess c .none a) (s.cspPend c.val n))) ∧
  (∀ (k : CspCore) addr bytes, (serveAccess k (.write addr bytes)).dmem = dmemPut k.dmem addr.toNat bytes ∧
    (serveAccess k (.write addr bytes)).d = k.d ∧ (serveAccess k (.write addr bytes)).defers = k.defers) ∧
  (∀ s (c : ClusterId) a w r, let x := s.csp c.val
    x.core.ext.waiting = (a, w) :: r → 64 ≤ w →
    exec (.cspExternalSteal c) s = .next (s.cspSettle c.val (.inl { x with
      core := serveAccess { x.core with ext := { x.core.ext with waiting := r, stolen := true } } a })))

/-! ## Radio slots -/

/-- CELL_CONFIG: records in range and inside capacity take effect at once on a cell that has none, and wait for the next frame boundary on one that is
configured; out of range is CFG_RANGE, beyond capacity CFG_CAPACITY, both without effect. Records that name two cells are refused as out of range by
the model's reading (log 29). -/
def Obligations.CellConfigured : Prop :=
  ∀ h (ul : UlCell) (dl : DlCell),
    let n := ul.cellIndex.toNat
    let m : MsgRow := { role := .operate, legal := [.running] }
    let fits (u : State) : Prop := dl.cellIndex = ul.cellIndex ∧ u.inRegion .radio (poolOf ul).1 (poolOf ul).2 = true ∧
      (poolOf ul).1 + (poolOf ul).2 ≤ 48 * 2 ^ 30
    (ulCellOk ul = true → dlCellOk dl = true →
      Serves (.cellConfig h ul dl) h m (fun u => fits u ∧ u.cellOver n ul dl = false ∧ (u.cell n).ul = none)
        (fun u => u.cellApply n ul dl) (fun _ => .empty)) ∧
    (ulCellOk ul = true → dlCellOk dl = true →
      Serves (.cellConfig h ul dl) h m (fun u => fits u ∧ u.cellOver n ul dl = false ∧ (u.cell n).ul ≠ none)
        (fun u => u.modCell n fun c => { c with pending := some (ul, dl) }) (fun _ => .empty)) ∧
    (ulCellOk ul = true → dlCellOk dl = true →
      Refuses (.cellConfig h ul dl) h m (fun u => fits u ∧ u.cellOver n ul dl = true) 0x0103) ∧
    Refuses (.cellConfig h ul dl) h m (fun u => ulCellOk ul = false ∨ dlCellOk dl = false ∨ ¬ fits u) 0x0102

/-- Uplink slot configurations and U-plane sections: an accepted configuration holds its records; a late one is not received and marks them no_config; a
second one of a slot is only counted; a section that comes in its window is covered once, and early, late and double ones are counted. HARQ staging:
new data stages nothing; an unchanged NDI stages the process's pages, after a write-back in progress has ended. What becomes of a configuration out of
range or beyond capacity is the model's reading (log 30, log 31). -/
def Obligations.UplinkIntake : Prop :=
  (
  (∀ s (c : UlSlotCfg) t0 u d,
    let slot := c.absSlot.toNat
    s.radio.paused = false → (s.cell c.cell.val).ulServed.contains slot = false → s.recordsFor c.cell.val slot = some (u, d) →
    (c.pusch.all (puschOk u) && c.pucch.all (pucchOk u) && c.prach.all (prachOk u) && c.srs.all (srsOk u)) = true →
    (s.host.berm = false ∨ c.srs = []) → ulSlotOver u c = false →
    Gives (.ulSlotConfig c t0) s fun v => ∃ x, v.ulSlot c.cell.val slot = some x ∧
      x.lateCfg = decide (t0 < s.nowNs + ulConfigLead u.mu.toNat) ∧ x.accepted = !x.lateCfg ∧ x.config = u ∧ x.t0 = t0 ∧
      x.pusch.map (·.cfg) = c.pusch ∧ x.pucch.map (·.cfg) = c.pucch ∧
      (x.lateCfg = true → (x.pusch.all (·.noConfig) && x.pucch.all (·.noConfig)) = true) ∧
      (v.cell c.cell.val).ulServed = slot :: (s.cell c.cell.val).ulServed) ∧
  (∀ s (c : UlSlotCfg) t0, s.radio.paused = false → (s.cell c.cell.val).ulServed.contains c.absSlot.toNat = true →
    exec (.ulSlotConfig c t0) s = .next (s.modCell c.cell.val fun x => { x with cfgDup := bump top32 x.cfgDup })) ∧
  (∀ s (sec : USection) t0 cell u stream,
    let slot := sec.absSlot.toNat
    let x := (s.ulSlot cell slot).getD (UlSlotEmpty u sec.absSlot t0)
    let cover : Cover := { stream, sym := sec.sym.val, prb := sec.prbStart.toNat, count := sec.prbs.length }
    s.ulCellOf sec.eaxc.toNat slot = some (cell, u, stream) → s.radio.paused = false → x.lateCfg = false →
    (s.nowNs + 2 * slotNs u.mu.toNat < x.t0 →
      exec (.uplaneSection sec t0) s = .next (s.modCell cell fun c => { c with early := bump top32 c.early })) ∧
    (x.t0 ≤ s.nowNs + 2 * slotNs u.mu.toNat → (x.t0 < s.nowNs ∨ x.intake = true) →
      exec (.uplaneSection sec t0) s = .next (s.modCell cell fun c => { c with late := bump top32 c.late })) ∧
    (x.t0 ≤ s.nowNs + 2 * slotNs u.mu.toNat → s.nowNs ≤ x.t0 → x.intake = false → x.covers.contains cover = true →
      exec (.uplaneSection sec t0) s = .next (s.modCell cell fun c => { c with dup := bump top32 c.dup })) ∧
    (x.t0 ≤ s.nowNs + 2 * slotNs u.mu.toNat → s.nowNs ≤ x.t0 → x.intake = false → x.covers.contains cover = false →
      Gives (.uplaneSection sec t0) s fun v => ∃ y, v.ulSlot cell slot = some y ∧ y.covers = x.covers ++ [cover] ∧
        ∀ p, sec.prbs = [p] → sec.prbStart.toNat < u.nPrb.toNat → ∀ k, k < 12 →
          y.grid.get 0 (reKey stream sec.sym.val sec.prbStart.toNat k) =
            reWord (bfpComp u.iqWidth.toNat p.exp.toNat (p.mant.getD (2 * k) 0)) (bfpComp u.iqWidth.toNat p.exp.toNat (p.mant.getD (2 * k + 1) 0))))) ∧
  (
  (∀ s (cell : CellId) (slot : AbsSlot) x p,
    let k := slot.toNat
    let q := s.harq p.cfg.ueCtx.toNat p.cfg.harqId.toNat
    s.ulSlot cell.val k = some x → x.accepted = true → x.t0 ≤ s.nowNs + stagingLead x.config.mu.toNat → x.pusch = [p] →
    p.staging = .idle → inHarq p = true →
    Gives (.harqStagingStart cell slot) s fun v => ∃ r, v.pusch cell.val k 0 = some r ∧
      (q.ndi ≠ some p.cfg.ndi → r.staging = .complete) ∧
      (q.ndi = some p.cfg.ndi → q.writeback = none → r.staging = .started) ∧
      (q.ndi = some p.cfg.ndi → q.writeback ≠ none → r.staging = .waiting)) ∧
  (∀ s (cell : CellId) (slot : AbsSlot) i p,
    let pages := (s.harq p.cfg.ueCtx.toNat p.cfg.harqId.toNat).pages
    s.pusch cell.val slot.toNat i = some p → p.staging = .started → pages.all (fun a => !s.extBad a softMax) = true →
    Gives (.harqStagingComplete cell slot i) s fun v => ∃ r, v.pusch cell.val slot.toNat i = some r ∧ r.staging = .complete ∧
      r.staged = pages.map fun a => s.extRead a 25344) ∧
  (∀ s (ue : Fin 4096) (h : Fin 16), (s.harq ue.val h.val).writeback ≠ none →
    Gives (.harqWritebackComplete ue h) s fun v => (v.harq ue.val h.val).writeback = none ∧
      (v.harq ue.val h.val).pages = (s.harq ue.val h.val).pages ∧ (v.harq ue.val h.val).ndi = (s.harq ue.val h.val).ndi))

/-- A stage of a PUSCH ends after the stage before it, on the entry's tiles or in the classical detector: estimates, layer symbols and LLRs are those of
the receiver that serves the slot; the close of the intake erases what no section covered; preambles are reported; a decoded block is counted, and the
last one decides the transport block. UL_SLOT_DECIDED sends the slot's one result frame to the port's peer and closes it; UL_SLOT_DEADLINE of a slot
that is not decided sends it with `late`, counts it and forgets the slot; one that has given its results ends. Nets and roundings are free functions
(log 90, log 91); places of PUCCH records and UCI in the result frame, and the frame of preambles, are the model's (log 37, log 97). -/
def Obligations.UplinkStages : Prop :=
  (
  (∀ s (cell : CellId) (slot : AbsSlot) i upto x p,
    let k := slot.toNat
    let rcv := s.receiverOf cell.val x
    s.ulSlot cell.val k = some x → x.intake = true → x.closed = false → x.pusch[i]? = some p → p.decided = false →
    (p.stage = 0 → Gives (.ulStageComplete cell slot i .grid upto) s fun v => ∃ q, v.pusch cell.val k i = some q ∧ q.stage = 1) ∧
    ((x.classical = true ∨ s.entryRuns cell.val k = true) →
      (p.stage = 1 → Gives (.ulStageComplete cell slot i .estimation upto) s fun v => ∃ q, v.pusch cell.val k i = some q ∧ q.stage = 2 ∧
        q.est = estimate rcv x p.cfg ∧ q.decided = false) ∧
      (p.stage = 2 → usersEstimated x p.cfg = true → Gives (.ulStageComplete cell slot i .detection upto) s fun v =>
        ∃ q, v.pusch cell.val k i = some q ∧ q.stage = 3 ∧ q.decided = false ∧
          q.det = detect rcv x ((received x).map fun q => (q.cfg, q.est)) (receivedIndex x i) p.cfg) ∧
      (p.stage = 3 → p.demapped < upto → Gives (.ulStageComplete cell slot i .demapping upto) s fun v =>
        ∃ q, v.pusch cell.val k i = some q ∧ q.demapped = max (min upto p.cfg.symCount.toNat) p.demapped ∧ q.decided = false ∧
          q.llrs = p.llrs ++ (upTo (min upto p.cfg.symCount.toNat - p.demapped)).flatMap (fun n => demapSymbol rcv x p.cfg p.det (p.demapped + n)) ∧
          (p.cfg.symCount.toNat ≤ upto → q.stage = 4)))) ∧
  (∀ s (cell : CellId) (slot : AbsSlot) i upto x, s.ulSlot cell.val slot.toNat = some x → x.accepted = true → x.intake = false → x.t0 ≤ s.nowNs →
    Gives (.ulStageComplete cell slot i .grid upto) s fun v => ∃ y, v.ulSlot cell.val slot.toNat = some y ∧ y.intake = true ∧
      y.erased = erasedRes x.config x.covers ∧ y.classical = s.needsClassical cell.val x.config ∧
      (y.classical = true → y.version = 0)) ∧
  (∀ s (cell : CellId) (slot : AbsSlot) k x p old, s.ulSlot cell.val slot.toNat = some x → x.intake = true → x.prach[k]? = some (p, old) →
    let f := if s.prachDown cell.val slot.toNat then [] else (Config.prachDetect p (prachRes x p)).take 64
    exec (.prachDetection cell slot k) s = .next ((s.setUlSlot cell.val slot.toNat (some { x with prach := setAt x.prach k (p, f) })).sendAqmor
      x.config.resultPort.toNat false (.prachReport (Fin.ofNat 8 cell.val) x.absSlot k f))) ∧
  (∀ s (cell : CellId) (slot : AbsSlot) i block x p,
    let b := x.config.decoderBank.toNat
    let r := decodeBlock (s.receiverOf cell.val x) x.config p.cfg (p.soft.getD block [])
    let cbs := p.cbs.set none block (some { crc := r.2.1, bits := r.2.2 })
    s.ulSlot cell.val slot.toNat = some x → x.pusch[i]? = some p → p.decided = false → x.closed = false → block < p.soft.length →
    p.cbs.get none block = none → (s.replaying = true ∨ s.pastDeadline x = false) →
    Gives (.codeBlockDecoded cell slot i block) s fun v => ∃ q, v.pusch cell.val slot.toNat i = some q ∧
      q.cbs = cbs ∧ (v.bank b).blocks = bump top64 (s.bank b).blocks ∧
      (v.bank b).crcFail = (if r.2.1 then (s.bank b).crcFail else bump top64 (s.bank b).crcFail) ∧
      (cbs.entries.length < (codeOf p.cfg).blocks → q.decided = false) ∧
      ((codeOf p.cfg).blocks ≤ cbs.entries.length → q.decided = true ∧
        q.crcPass = transportOk p.cfg (cbs.values.filterMap fun c => c.map fun c => (c.crc, c.bits))))) ∧
  (
  (∀ s (cell : CellId) (slot : AbsSlot) x d, s.ulSlot cell.val slot.toNat = some x → x.closed = false → (x.intake = true ∨ x.lateCfg = true) →
    allDecided x = true → (s.replaying = true ∨ s.pastDeadline x = false) → s.fated 1 slot.toNat cell.val 0 = false →
    let y := { x with pusch := (endHarqs x.config cell.val false x.pusch s).1 }
    let port := x.config.resultPort.toNat
    (s.netPort port).peerTb = some d →
    Gives (.ulSlotDecided cell slot) s fun v =>
      v.out = s.out ++ [.aqmor port d (s.netPort port).seqTb (.ulResults (Fin.ofNat 8 cell.val) x.absSlot (ulFrame false y).1 (ulFrame false y).2)] ∧
      ∃ z, v.ulSlot cell.val slot.toNat = some z ∧ z.closed = true ∧ z.grid = .empty) ∧
  (∀ s (cell : CellId) (slot : AbsSlot) x, s.ulSlot cell.val slot.toNat = some x → x.accepted = true → x.closed = false →
    allDecided x = false → s.capture.replay = none → x.t0 + ulDeadlineNs x.config.mu.toNat ≤ s.nowNs →
    Gives (.ulSlotDeadline cell slot) s fun v => v.ulSlot cell.val slot.toNat = none ∧
      (v.cell cell.val).lateSlots = bump top32 (s.cell cell.val).lateSlots) ∧
  (∀ s (cell : CellId) (slot : AbsSlot) x, s.ulSlot cell.val slot.toNat = some x → x.accepted = true → x.closed = true →
    x.t0 + ulDeadlineNs x.config.mu.toNat ≤ s.nowNs →
    exec (.ulSlotDeadline cell slot) s = .next (shadowSlot cell.val x (s.setUlSlot cell.val slot.toNat none))) ∧
  (∀ (p : PuschSt), (puschStatus true p).getLsbD 2 = true ∧ (puschStatus true p).getLsbD 0 = false ∧ (puschStatus false p).getLsbD 2 = false ∧
    (puschStatus false p).getLsbD 0 = p.crcPass ∧ (puschStatus false p).getLsbD 7 = p.noConfig))

/-- Downlink slots: configurations, encoding, precoding, the C-plane and the transmit windows. The port of a cell's fronthaul is a free value (log 38);
which entry serves a slot, and when slot 0 begins, is the model's choice (log 95). -/
def Obligations.DownlinkSlots : Prop :=
  (∀ s (c : DlSlotCfg) t0 u d,
    let slot := c.absSlot.toNat
    s.radio.paused = false → (s.cell c.cell.val).dlServed.contains slot = false → s.dlRecordsFor c.cell.val slot = some (u, d) →
    (c.pdsch.all (pdschOk d) && c.pdcch.all (pdcchOk d) && c.csirs.all (csirsOk d) && sharesOk d c.pdsch && tailOk d c) = true →
    s.host.berm = false → dlSlotOver d c = false →
    Gives (.dlSlotConfig c t0) s fun v => ∃ x, v.dlSlot c.cell.val slot = some x ∧
      x.accepted = decide (s.nowNs + dlConfigLead d.mu.toNat ≤ t0) ∧ x.config = d ∧ x.pdsch.map (·.cfg) = c.pdsch ∧
      x.pdsch.map (·.payload) = c.payloads ∧ x.encoded = false ∧ x.precoded = false ∧
      (v.cell c.cell.val).dlServed = slot :: (s.cell c.cell.val).dlServed) ∧
  (∀ s (cell : CellId) (slot : AbsSlot) x, s.dlSlot cell.val slot.toNat = some x → x.accepted = true → x.encoded = false → s.nowNs ≤ x.t0 →
    exec (.dlEncodeComplete cell slot) s = .next (s.setDlSlot cell.val slot.toNat (some { x with
      encoded := true
      pdsch := x.pdsch.map fun p => { p with coded := encodePdsch x.config p.cfg p.payload }
      pdcch := x.pdcch.map fun p => { p with coded := encodePdcch p.cfg } }))) ∧
  (∀ s (cell : CellId) (slot : AbsSlot) upto x, s.dlSlot cell.val slot.toNat = some x → x.accepted = true → x.precoded = false →
    x.t0 ≤ s.nowNs → s.entryRuns cell.val slot.toNat = true →
    Gives (.precoderComplete cell slot upto) s fun v => ∃ y, v.dlSlot cell.val slot.toNat = some y ∧ y.precoded = true ∧
      y.encoded = x.encoded ∧ y.pdsch.map (·.cfg) = x.pdsch.map (·.cfg) ∧
      y.built = (if x.encoded ∧ x.built < min upto 14 then min upto 14 else x.built)) ∧
  (∀ s (cell : CellId) (slot : AbsSlot) x, s.dlSlot cell.val slot.toNat = some x → x.cplane = false → dlReady x = true →
    s.nowNs ≤ cplaneLimit x → (x.accepted = true ∨ hasSsb x.config slot.toNat = true) →
    exec (.cplaneSend cell slot) s = .next ((s.send (Config.fronthaulPort cell.val) (.cplane (Fin.ofNat 8 cell.val) x.absSlot (ext1Of x))).setDlSlot
      cell.val slot.toNat (some { x with cplane := true }))) ∧
  (∀ s (cell : CellId) (slot : AbsSlot) (m : Fin 14) x, s.dlSlot cell.val slot.toNat = some x → symbolReady x m.val = true →
    x.sent.contains m.val = false → x.closedTo ≤ m.val → windowBegun x slot.toNat m.val s.nowNs = true →
    windowPast x slot.toNat m.val s.nowNs = false → s.fated 2 slot.toNat cell.val m.val = false →
    let prbs := (if x.config.compMethod == 1 then ssbPrbs x m.val else assembled x m.val).map (bfpTx x.config.iqWidth.toNat)
    let mods := if x.config.compMethod == 1 && x.accepted then modSections x m.val else []
    Gives (.dlSymbolWindowOpen cell slot m) s fun v => v.dlSlot cell.val slot.toNat = some { x with sent := m.val :: x.sent } ∧
      v.out = s.out ++ (if prbs.isEmpty && mods.isEmpty then [] else [.frame (Config.fronthaulPort cell.val)
        (.uplane (Fin.ofNat 8 cell.val) x.absSlot (Fin.ofNat 14 m.val) (ssbAt x.config slot.toNat m.val) prbs mods)])) ∧
  (∀ s (cell : CellId) (slot : AbsSlot) (m : Fin 14) x, s.dlSlot cell.val slot.toNat = some x → x.sent.contains m.val = true →
    x.closedTo ≤ m.val → windowEnded x slot.toNat m.val s.nowNs = true →
    exec (.dlSymbolWindowClose cell slot m) s = .next (if m.val < 13 then s.setDlSlot cell.val slot.toNat (some { x with closedTo := m.val + 1 })
      else (s.sendAqmor x.resultPort false (.dlStatus (Fin.ofNat 8 cell.val) x.absSlot (dlStatusOf x))).setDlSlot cell.val slot.toNat none)) ∧
  (∀ s (cell : CellId) (slot : AbsSlot) (m : Fin 14) x, s.dlSlot cell.val slot.toNat = some x → x.sent.contains m.val = false → m.val < 13 →
    x.accepted = true → symbolReady x m.val = false → x.closedTo ≤ m.val → s.capture.replay = none → windowEnded x slot.toNat m.val s.nowNs = true →
    Gives (.dlSymbolWindowClose cell slot m) s fun v => (v.cell cell.val).dlLate = bump top32 (s.cell cell.val).dlLate ∧
      v.dlSlot cell.val slot.toNat = some { lateSymbol x m.val with closedTo := m.val + 1 })

/-- Block floating point. A PRB is sent with the smallest exponent at which every component's half-up rounded quotient fits the width, 15 where none below
does, and with the saturated quotients as mantissas; a received component is sat16 of mantissa · 2^exponent, whatever the exponent. What a received
component is follows 02 R35 for one component. -/
def Obligations.BlockFloatingPoint : Prop :=
  (∀ (w : Nat) (g : DlPrb),
    let xs := g.comps.map (·.toInt)
    let e := (bfpTx w g).exp
    let fits (e : Nat) : Prop := ∀ x ∈ xs, -(2 ^ (w - 1)) ≤ rhuScale x e ∧ rhuScale x e ≤ 2 ^ (w - 1) - 1
    e ≤ 15 ∧ (e < 15 → fits e) ∧ (∀ k, k < e → ¬ fits k) ∧
    (bfpTx w g).mant = xs.map fun x => max (-(2 ^ (w - 1))) (min (2 ^ (w - 1) - 1) (rhuScale x e))) ∧
  (∀ (x : Int) (e : Nat), 2 * rhuScale x e * 2 ^ e ≤ 2 * x + 2 ^ e ∧ 2 * x + 2 ^ e < 2 * (rhuScale x e + 1) * 2 ^ e) ∧
  (∀ (w e : Nat) (m : Half), (bfpComp w e m).toInt = max (-32768) (min 32767 (signedOf w m.toNat * 2 ^ e)))

/-! ## The sweep link and adaptation -/

/-- SWEEP_CONFIG and SWEEP_CTX take records in range, one that changes n_rx at the frame boundary; a downlink item of up to 32 bytes replaces the one
queued before. Samples of a sweep channel: a section in time is stored, the first value of a sample staying; one more than 2 ms late is counted; a
sample that no section has supplied by then is zero and erased; a window whose samples have come leaves the bins of its 8 largest powers. -/
def Obligations.SweepSampling : Prop :=
  (
  (∀ h (chan : Byte) (r : SweepRec), sweepRecOk chan.toNat r = true →
    let m : MsgRow := { role := .operate, legal := [.running] }
    Serves (.sweepConfig h chan r) h m (fun u => u.rst.heldRadio = false ∧ u.rst.held.contains 116 = false)
      (fun u =>
        let y := u.chan chan.toNat
        let changed : Bool := match y.cfg with
          | some o => o.nRx != r.nRx
          | none => false
        (u.setChan chan.toNat (if changed = true then { y with pending := some r } else { y with cfg := some r, pending := none })).wakeDomain 116)
      (fun _ => .empty)) ∧
  (∀ h (chan : Byte) (r : SweepRec), sweepRecOk chan.toNat r = false →
    Refuses (.sweepConfig h chan r) h { role := .operate, legal := [.running] } (fun _ => True) 0x0102) ∧
  (∀ h (ctx : Half) (addr : Word) (chan : Byte), ctx.toNat ≤ 32767 → chan.toNat ≤ 3 → addr ≠ 0 → addr ≠ 0xFFFFFFFF →
    Serves (.sweepCtx h ctx addr chan) h { role := .operate, legal := [.running] } (fun _ => True)
      (fun u => u.setCtx ctx.toNat { EndCtx.init with bound := true, addr := addr, channel := Fin.ofNat 4 chan.toNat }) (fun _ => .empty)) ∧
  (∀ s addr item n, s.ctxOf addr = some n → item.length ≤ 32 →
    exec (.sweepDownlinkItem addr item) s = .next (s.setCtx n { s.ctx n with item := some item }))) ∧
  (
  (∀ s (x : SweepSection) c r stream,
    let first := secondOf s.nowSec x.secLo.toNat * sampleRate r + x.sample.toNat
    s.chanOf x.eaxc.toNat = some (c, r, stream) → s.radio.paused = false → sectionOk r x = true →
    (s.nowNs ≤ sampleNs r first + 2000000 →
      Gives (.sweepSection x) s fun u =>
        (∀ e v, ((sectionSamples x.samples).take x.count.toNat)[e]? = some v →
          (s.chan c).samples.get none (sampleKey stream (first + e)) = none →
          (u.chan c).samples.get none (sampleKey stream (first + e)) = some { value := v, erased := false }) ∧
        (∀ k w, (s.chan c).samples.get none k = some w → (u.chan c).samples.get none k = some w)) ∧
    (sampleNs r first + 2000000 < s.nowNs →
      exec (.sweepSection x) s = .next (s.modChan c fun y => { y with late := bump top32 y.late }))) ∧
  (∀ s (chan : ChanId) (stream : Fin 16) n r, (s.chan chan.val).cfg = some r → stream.val < r.nRx.toNat →
    (s.chan chan.val).samples.get none (sampleKey stream.val n) = none → sampleNs r n + 2000000 ≤ s.nowNs →
    Gives (.sweepSampleErase chan stream n) s fun u =>
      (u.chan chan.val).samples.get none (sampleKey stream.val n) = some { value := ⟨0, 0⟩, erased := true }) ∧
  (∀ s (chan : ChanId) (order : Fin 16) start dn r,
    let y := s.chan chan.val
    let ws : List (Nat → CInt) := (upTo r.nRx.toNat).map fun k n => cplxInt (sampleValue y k ((start + n : Nat) : Int))
    y.cfg = some r → s.radio.paused = false → 6 ≤ order.val → r.orderMask.getLsbD order.val = true →
    start % (chipsOf order.val / 2) = 0 → samplesIn y r.nRx.toNat start (2 * chipsOf order.val) = true →
    Gives (.sweepWindow chan order start dn) s fun u => (u.chan chan.val).lastPeaks = peaksOf (binPowers order.val dn ws) ∧
      (u.chan chan.val).lastPeaks.length = 8 ∧ (u.chan chan.val).samples = y.samples))

/-- Receptions: a detection at an order of the mask, once its identity word has come, begins a reception where fewer than 256 are in progress, and stays
where the word matches; beyond 256 it is counted, as a mismatch is; a stronger detection of the same preamble takes the place of the weaker. Symbols,
header and payload of a reception: symbols are decided in their order once their samples have come; a decoded header that passes names its context,
another ends the reception; a decoded payload ends it and its result goes to the port's peer. The step factor and the tracking of combining weights
and of the carrier are free functions (log 42, log 103), and how windows, peaks and erased samples are read is log 103. -/
def Obligations.SweepReceptions : Prop :=
  (
  ∀ s (chan : ChanId) (order : Fin 16) down bin dnBin r d,
    let c := chan.val
    let y := s.chan c
    let q := newReception c r d down s
    let cmd : Instr := .sweepReceptionStart chan order down bin dnBin
    y.cfg = some r → detectionAt y order.val down bin dnBin = some d → s.radio.paused = false → r.orderMask.getLsbD order.val = true →
    symbolReadable y q 19 = true →
    (q.det = d ∧ q.record = r ∧ q.id = y.nextId ∧ q.symbols = [] ∧ q.header = none ∧ (r.eqMode ≠ 0 → q.unequalised = true)) ∧
    (y.recep.find? (fun p => sameDetection p.det d) = none → y.recep.length < 256 → (∀ p ∈ y.recep, p.id < y.nextId) →
      (identityOk y q = true → Gives cmd s fun u => (u.chan c).recep = y.recep ++ [q] ∧ (u.chan c).nextId = y.nextId + 1 ∧
        (u.chan c).netidMismatch = y.netidMismatch) ∧
      (identityOk y q = false → Gives cmd s fun u => (u.chan c).recep = y.recep ∧
        (u.chan c).netidMismatch = bump top32 y.netidMismatch)) ∧
    (y.recep.find? (fun p => sameDetection p.det d) = none → 256 ≤ y.recep.length →
      exec cmd s = .next (s.setChan c { y with overflow := bump top32 y.overflow })) ∧
    (∀ p, y.recep.find? (fun p => sameDetection p.det d) = some p → p.det.power < d.power →
      let n := { (newReception c r d down (s.setChan c { y with recep := y.recep.filter fun x => x.id ≠ p.id })) with id := p.id }
      identityOk y n = true →
      Gives cmd s fun u => (u.chan c).recep = y.recep.map (fun x => if x.id = p.id then n else x) ∧ n.det = d) ∧
    (∀ p, y.recep.find? (fun p => sameDetection p.det d) = some p → d.power ≤ p.det.power → exec cmd s = .next s)) ∧
  (
  (∀ s (chan : ChanId) id sym q,
    let y := s.chan chan.val
    let n := symbolAfter y (s.weightsOf (8 + chan.val) q.version) q sym
    let need := (frameSymbols q).getD (headSymbols + headerSymbols q.det.order)
    y.recep.find? (·.id = id) = some q → sym = q.symbols.length → (∀ k, frameSymbols q = some k → sym < k) → symbolReadable y q sym = true →
    Gives (.sweepSymbolDecided chan id sym) s fun u => ∃ p, (u.chan chan.val).recep.find? (·.id = id) = some p ∧
      p = { n with bank := p.bank } ∧ p.symbols.length = q.symbols.length + 1 ∧
      (p.bank.isSome ↔ q.bank.isSome ∨ need ≤ sym + 1)) ∧
  (∀ s (chan : ChanId) id q b,
    let y := s.chan chan.val
    let r := sweepDecoded headerCode (s.sweepTable chan.val q) 0 (q.det.order * headerSymbols q.det.order) q.llrs
    let h := headerOf r.2.2
    y.recep.find? (·.id = id) = some q → q.header = none → s.sweepTurn q = some b →
    (r.2.1 = true → headerOk h = true → Gives (.sweepHeaderDecoded chan id) s fun u =>
      ∃ p, (u.chan chan.val).recep.find? (·.id = id) = some p ∧ p.header = some h ∧
        p.ctx = (s.ctxOf h.addr).map (Fin.ofNat 32768) ∧ (u.chan chan.val).hdrFail = y.hdrFail) ∧
    (r.2.1 = false ∨ headerOk h = false → Gives (.sweepHeaderDecoded chan id) s fun u =>
      (u.chan chan.val).recep = y.recep.filter (fun p => p.id ≠ id) ∧ (u.chan chan.val).hdrFail = bump top32 y.hdrFail)) ∧
  (∀ s (chan : ChanId) id q b h d,
    let y := s.chan chan.val
    let count := payloadSymbols q.det.order h
    let r := sweepDecoded (payloadCode h.len.toNat) (s.sweepTable chan.val q) (2 ^ 20) (q.det.order * count) q.llrs
    let m := measured q (headSymbols + headerSymbols q.det.order + count)
    let port := q.record.resultPort.toNat
    y.recep.find? (·.id = id) = some q → q.header = some h → s.sweepTurn q = some b → (s.netPort port).peerTb = some d →
    Gives (.sweepPayloadDecoded chan id) s fun u => (u.chan chan.val).recep = y.recep.filter (fun p => p.id ≠ id) ∧
      ∃ st : Byte, Out.aqmor port d (s.netPort port).seqTb (.sweepResult (sweepRecord chan.val q h st r.2.1 m)
          (if r.2.1 then bytesOfBits r.2.2 else [])) ∈ u.out.drop s.out.length ∧
        st.getLsbD 0 = r.2.1 ∧ st.getLsbD 7 = q.ctx.isNone ∧ st.getLsbD 6 = q.duplicate ∧ st.getLsbD 5 = q.unequalised ∧
        st.getLsbD 4 = dopplerHold q.record m))

/-- An acknowledgement leaves at its time on the channel's downlink stream, cut into sections of 1,024 samples, moves the downlink counter on, and takes
the queued item with it unless it answers a duplicate; its reservation ends with the frame's last sample. The port of a channel's fronthaul is a free
value (log 38). -/
def Obligations.SweepAcknowledgements : Prop :=
  (∀ s (chan : ChanId) id a, (s.chan chan.val).acks.find? (fun a => a.recep = id) = some a → a.sent = none →
    a.startNs ≤ s.nowNs + 1000000000 / sampleRate a.record →
    Gives (.sweepAckTransmit chan id) s fun u =>
      (u.ctx a.ctx).dlFcnt = (s.ctx a.ctx).dlFcnt + 1 ∧ (u.ctx a.ctx).item = (if a.again then (s.ctx a.ctx).item else none) ∧
      u.out = s.out ++ [.frame (Config.fronthaulPort (8 + chan.val)) (.sweepDown (Fin.ofNat 4 chan.val) a.order
        (ackFrame a (s.ctx a.ctx)).1 (ackFrame a (s.ctx a.ctx)).2 a.startNs a.record.dlBackoff
        (ackSections a (s.chan chan.val).dlSeq (ackFrame a (s.ctx a.ctx)).1 (ackFrame a (s.ctx a.ctx)).2))]) ∧
  (∀ s (chan : ChanId) id a len, (s.chan chan.val).acks.find? (fun a => a.recep = id) = some a → a.sent = some len →
    a.startNs + ackNs a len ≤ s.nowNs →
    exec (.sweepAckComplete chan id) s = .next (s.setChan chan.val { s.chan chan.val with
      acks := (s.chan chan.val).acks.filter fun b => b.recep ≠ id }))

/-- Adaptation messages: an accepted configuration waits for the frame boundary; a control operation waits for the set's slot boundary and is answered
there; the status lists the set's fields; a version is saved as a sealed blob; a genuine version enters the store. The control operations at the first
slot boundary after the one that waits first came: FREEZE leaves the set FROZEN without a candidate, UNFREEZE acts only there, SELECT makes a stored
version active and the old one previous, PIN and UNPIN mark a version, DISCARD_POOL empties the pool. Each is then answered. The layout of a saved
version and that the first version of an empty set becomes active are the model's (log 27, log 28). -/
def Obligations.AdaptMessages : Prop :=
  (
  (∀ h (r : AdaptRec), adaptInRange r = true →
    Serves (.adaptConfig h r) h { role := .operate, legal := [.running] }
      (fun u => (adaptRegion r).1 + (adaptRegion r).2 ≤ 48 * 2 ^ 30 ∧ u.domainOk .radio (adaptRegion r).1 (adaptRegion r).2 = true ∧
        (u.adaptRegions r.set.toNat ++ u.harqPools 8).any (rangesMeet (adaptRegion r)) = false)
      (fun u => u.setAset r.set.toNat { u.aset r.set.toNat with pendingCfg := some r }) (fun _ => .empty)) ∧
  (∀ h (r : AdaptRec), adaptInRange r = false →
    Refuses (.adaptConfig h r) h { role := .operate, legal := [.running] } (fun _ => True) 0x0102) ∧
  (∀ s h (set : Byte) op, Accepted s h { role := .operate, legal := [.running] } → set.toNat ≤ 11 →
    let u := heard s h { role := .operate, legal := [.running] }
    exec (.adaptControl h set op) s = .next (u.setAset set.toNat { u.aset set.toNat with
      controls := (u.aset set.toNat).controls ++ [{ op, hdr := some h, slot := u.slotNow set.toNat }] })) ∧
  (∀ h (set : Byte), set.toNat ≤ 11 →
    Serves (.adaptStatus h set) h { role := .read, legal := [.running], reads := true } (fun _ => True) id
      (fun u => .nums (adaptStatusFields set.toNat (u.aset set.toNat)))) ∧
  (∀ h (set : Byte) version (addr : Dword) v, set.toNat ≤ 11 →
    Serves (.adaptSave h set version addr) h { role := .operate, legal := [.running] }
      (fun u => (storeOf (u.aset set.toNat)).find? (·.number = version) = some v ∧
        u.extRange addr.toNat (u.sealBlob 1 (versionBytes v)).1.length = true ∧
        u.domainOk .management addr.toNat (u.sealBlob 1 (versionBytes v)).1.length = true)
      (fun u => (u.sealBlob 1 (versionBytes v)).2.extWrite addr.toNat (u.sealBlob 1 (versionBytes v)).1)
      (fun u => .nums [(u.sealBlob 1 (versionBytes v)).1.length])) ∧
  (∀ h (set : Byte) src v, set.toNat ≤ 11 →
    let reads (u : State) : Prop := u.extRange (u.sourceSpan src).1 32 = true ∧ u.extRange (u.sourceSpan src).1 (u.sourceSpan src).2 = true ∧
      u.domainOk .management (u.sourceSpan src).1 (u.sourceSpan src).2 = true
    let holds (u : State) : Prop := u.loadedVersion src = some v ∧ v.number ≠ 0 ∧ (v.device = true ∨ v.number.getLsbD 31 = false)
    let m : MsgRow := { role := .operate, legal := [.running] }
    Serves (.adaptLoad h set src) h m
      (fun u => reads u ∧ holds u ∧ hasVersion (u.aset set.toNat) v.number = false ∧ (u.aset set.toNat).store.all (·.isSome) = false ∧
        u.loadTakes set.toNat v = false)
      (fun u => (u.setAset set.toNat (putVersion (u.aset set.toNat) v)).writeStore set.toNat) (fun _ => .empty) ∧
    Answers (.adaptLoad h set src) h m
      (fun u => reads u ∧ holds u ∧ hasVersion (u.aset set.toNat) v.number = false ∧ (u.aset set.toNat).store.all (·.isSome) = false ∧
        u.loadTakes set.toNat v = true)
      (fun u t => (t.aset set.toNat).active = some v.number ∧ (t.aset set.toNat).previous = (u.aset set.toNat).active ∧
        (t.aset set.toNat).store = (putVersion (u.aset set.toNat) v).store) (fun _ => .empty) ∧
    Refuses (.adaptLoad h set src) h m (fun u => reads u ∧ u.loadedVersion src = none) 0x0801)) ∧
  (
  (∀ s (set : SetId) k rest, (s.aset set.val).controls = { op := .freeze, hdr := none, slot := k } :: rest → k < s.slotNow set.val →
    Gives (.freeze set) s fun u => (u.aset set.val).state = .frozen ∧ (u.aset set.val).candidate = none ∧ (u.aset set.val).controls = rest ∧
      (u.aset set.val).active = (s.aset set.val).active) ∧
  (∀ s (set : SetId) k rest, (s.aset set.val).controls = { op := .unfreeze, hdr := none, slot := k } :: rest → k < s.slotNow set.val → (s.aset set.val).state = .frozen →
    Gives (.unfreeze set) s fun u => ((u.aset set.val).state = .train ∨ (u.aset set.val).state = .collect) ∧
      ((u.aset set.val).state = .train ↔ s.minSamples set.val ≤ (s.aset set.val).fill) ∧ (u.aset set.val).controls = rest) ∧
  (∀ s (set : SetId) k rest v, (s.aset set.val).controls = { op := .select v, hdr := none, slot := k } :: rest → k < s.slotNow set.val → hasVersion (s.aset set.val) v = true →
    Gives (.select set v) s fun u => (u.aset set.val).active = some v ∧ (u.aset set.val).previous = (s.aset set.val).active ∧
      (u.aset set.val).candidate = none ∧
      (u.aset set.val).state = if (s.aset set.val).state = .off ∨ (s.aset set.val).state = .frozen then (s.aset set.val).state
        else if s.minSamples set.val ≤ (s.aset set.val).fill ∧ s.standing set.val = true then .train else .collect) ∧
  (∀ s (set : SetId) k rest v, (s.aset set.val).controls = { op := .pin v, hdr := none, slot := k } :: rest → k < s.slotNow set.val → hasVersion (s.aset set.val) v = true →
    Gives (.pin set v) s fun u => ∀ x ∈ storeOf (u.aset set.val), x.number = v → x.pinned = true) ∧
  (∀ s (set : SetId) k rest v, (s.aset set.val).controls = { op := .unpin v, hdr := none, slot := k } :: rest → k < s.slotNow set.val → hasVersion (s.aset set.val) v = true →
    Gives (.unpin set v) s fun u => ∀ x ∈ storeOf (u.aset set.val), x.number = v → x.pinned = false) ∧
  (∀ s (set : SetId) k rest, (s.aset set.val).controls = { op := .discardPool, hdr := none, slot := k } :: rest → k < s.slotNow set.val →
    Gives (.discardPool set) s fun u => (u.aset set.val).fill = 0 ∧ (u.aset set.val).candidate = none ∧ (u.aset set.val).units = [] ∧
      (u.aset set.val).state = (match (s.aset set.val).state with
        | .train | .shadow | .probation => .collect
        | x => x)) ∧
  (∀ s (set : SetId) k rest h, (s.aset set.val).controls = { op := .unfreeze, hdr := some h, slot := k } :: rest → k < s.slotNow set.val → (s.aset set.val).state ≠ .frozen →
    exec (.unfreeze set) s = .next ((s.setAset set.val { s.aset set.val with controls := rest }).reply h false 0x0901 .empty)))

/-- Samples and training of a set: a labelled unit within its time becomes a record of the pool, a late one is dropped and counted; a training step
applies v := momentum·v + g and w := w − lr·v to every weight, and the last step of a candidate forms and stores it; a guard window that is over
renews its counts, and trips where the loss is beyond the limit. What a version's bytes stand for as weights, and the gradients, are free functions
(log 8); what becomes of a candidate number that is taken, and how a channel is scaled, is log 110. -/
def Obligations.AdaptTraining : Prop :=
  (∀ s (set : SetId) u rest r,
    let a := s.aset set.val
    a.units = u :: rest → a.cfg = some r → s.nowNs ≤ u.due →
    Gives (.sampleLabelWrite set) s fun v => (v.aset set.val).units = rest ∧
      (v.aset set.val).fill = min r.poolRecords.toNat (a.fill + 1) ∧
      (v.aset set.val).ringPos = (a.ringPos + 1) % r.poolRecords.toNat ∧
      (a.state ≠ .collect → v.mem = (s.extWrite (recordPlace r a.ringPos) (unitRecord u)).mem)) ∧
  (∀ s (set : SetId) u rest, (s.aset set.val).units = u :: rest → u.due < s.nowNs →
    exec (.sampleDropTimeout set) s = .next (s.setAset set.val { s.aset set.val with
      units := rest, dropped := bump top32 (s.aset set.val).dropped })) ∧
  (∀ s (set : SetId) r,
    let a := s.aset set.val
    let records := (batchRecords set.val r a).map fun i => s.extRead (recordPlace r i) 0x10000
    let iters := match (s.cell set.val).ul with
      | some u => u.ldpcMaxIter.toNat
      | none => 0
    let a0 := if a.steps = 0 then freshTraining a else a
    let g (i : Nat) : Word := Config.gradient (a0.base, mastersOf a0) records (if set.val < 8 then records.map estimatorLabels else []) iters i
    let v (i : Nat) : Word := add32 (mul32 (bfWord r.momentum) (a0.momentum.get 0 i)) (g i)
    let count := Config.weightCount a0.base
    let num := candidateNumber set.val a.nextGen
    a.cfg = some r → s.capture.replay = none → (a.state = .train ∨ a.state = .probation) → a.fill ≠ 0 → s.trainingRuns set.val = true →
    a.candidate = none →
    (a.steps + 1 < r.stepsPerCandidate.toNat → Gives (.trainingStep set) s fun u => (u.aset set.val).steps = a.steps + 1 ∧
      (∀ i, i < count → (u.aset set.val).momentum.get 0 i = v i ∧
        (u.aset set.val).master.get none i = some (sub32 (masterOf a0 i) (mul32 (bfWord r.lr) (v i)))) ∧
      (∀ i, count ≤ i → (u.aset set.val).momentum.get 0 i = a0.momentum.get 0 i ∧
        (u.aset set.val).master.get none i = a0.master.get none i)) ∧
    (a.steps + 1 = r.stepsPerCandidate.toNat → a.nextGen < 2 ^ 27 → hasVersion a num = false → a.store.any (·.isNone) = true →
      Gives (.trainingStep set) s fun u => (u.aset set.val).candidate = some num ∧ (u.aset set.val).nextGen = a.nextGen + 1 ∧
        (u.aset set.val).state = (if a.state = .train then .shadow else .probation) ∧
        ∃ x ∈ storeOf (u.aset set.val), x.number = num ∧ x.device = true ∧
          x.weights = candidateBytes (afterStep set.val r iters records a))) ∧
  (∀ s (set : SetId) r u,
    let a := s.aset set.val
    let c := s.cell set.val
    a.cfg = some r → c.ul = some u → a.controls = [] → a.state = .train → a.guardStart + r.guardWindow.toNat ≤ s.slotNow set.val →
    Gives (.guardWindowEnd set) s fun v => (v.aset set.val).lossStart = c.guardLoss ∧ (v.aset set.val).gainStart = c.guardGain ∧
      (v.aset set.val).guardStart = a.guardStart + r.guardWindow.toNat ∧
      (set.val < 8 → r.guardCheck = true → u.rxMode = 2 → s.capture.replay = none →
        c.guardGain - a.gainStart + r.guardLimit.toNat ≤ c.guardLoss - a.lossStart →
        (v.aset set.val).state = .frozen ∧ (v.aset set.val).guardTripped = true ∧ (v.aset set.val).candidate = none) ∧
      (r.guardCheck = false → (v.aset set.val).state = .train ∧ (v.aset set.val).guardTripped = a.guardTripped))

/-- A frame boundary applies what waits for it: pending cell records, sweep records that change n_rx, adaptation records and the loaded cycle table,
unless an assured task runs where it claims; radio service that an L3 reset paused goes on; device time is not touched where no replay begins. -/
def Obligations.FrameBoundaries : Prop :=
  (∀ s (c : CellId) u d, s.host.bermPending = false → (s.cell c.val).pending = some (u, d) →
    Gives .frameBoundary s fun v => (v.cell c.val).ul = some u ∧ (v.cell c.val).dl = some d ∧ (v.cell c.val).pending = none) ∧
  (∀ s, (∀ r, s.capture.replay = some r → r.started = true) →
    Gives .frameBoundary s fun v => v.radio.paused = false ∧ v.time.now = s.time.now ∧ v.sched.frame = s.frameNow) ∧
  (∀ s (a : SetId) r, (s.aset a.val).pendingCfg = some r →
    Gives .frameBoundary s fun v => (v.aset a.val).cfg = some r ∧ (v.aset a.val).pendingCfg = none) ∧
  (∀ s (c : ChanId) r, (s.chan c.val).pending = some r →
    Gives .frameBoundary s fun v => (v.chan c.val).cfg = some r ∧ (v.chan c.val).pending = none ∧
      ((s.aset (8 + c.val)).pendingCfg = none → (v.aset (8 + c.val)).state = .off ∧ (v.aset (8 + c.val)).candidate = none)) ∧
  (∀ s tb, s.sched.nextTable = some tb → s.assuredOn tb = false →
    Gives .frameBoundary s fun v => v.sched.table = some tb ∧ v.sched.nextTable = none) ∧
  (∀ s tb, s.sched.nextTable = some tb → s.assuredOn tb = true →
    Gives .frameBoundary s fun v => v.sched.table = s.sched.table ∧ v.sched.nextTable = some tb)

/-! ## Graphs, claims and the assured lane -/

/-- Requests on graphs and the cycle table: SUBMIT admits a graph or refuses with the code of the check that failed; what admission takes; KILL ends a
graph that has not ended; JOB_STATUS returns the outcome kept; CYC_LOAD keeps a good table for the next frame boundary. The answer for a job that is
not known is the model's (log 21). -/
def Obligations.GraphRequests : Prop :=
  (∀ h b (a : Admission),
    Serves (.submit h b) h { role := .operate, legal := [.running] } (fun u => u.admission b = .inl a)
      (fun u => if b.modelSlot.toNat < 64 then (u.admitGraph h b a).1 else (u.admitGraph h b a).1.tracePoint 80 96)
      (fun u => .nums [(u.admitGraph h b a).2.toNat])) ∧
  (∀ h b c, c ≠ 0 → Refuses (.submit h b) h { role := .operate, legal := [.running] } (fun u => u.admission b = .inr c) c) ∧
  (∀ (s : State) h b (a : Admission), s.assured.running.entries = [] →
    let u := (s.admitGraph h b a).1
    (s.admitGraph h b a).2 = s.sched.nextJob ∧ u.sched.nextJob ≠ 0 ∧
    (∀ e ∈ a.sems, (u.sem e.1).claim = some (.job s.sched.nextJob)) ∧
    ∃ g, u.sched.graphs = s.sched.graphs ++ [g] ∧ g.job = s.sched.nextJob ∧ g.outcome = none ∧ g.submitNs = s.nowNs ∧
      g.copies.length = (if a.hdr.cls = 2 then 2 else 1)) ∧
  (∀ h job g, Serves (.kill h job) h { role := .operate, legal := [.running] }
    (fun u => u.graph job = some g ∧ g.outcome = none ∧ ¬(g.hdr.cls = 2 ∧ g.copies.length = 3)) (fun u => u.killGraph g) (fun _ => .empty)) ∧
  (∀ h job g, Serves (.kill h job) h { role := .operate, legal := [.running] }
    (fun u => u.graph job = some g ∧ g.outcome = none ∧ g.hdr.cls = 2 ∧ g.copies.length = 3)
    (fun u => (u.withhold job .disagree .killed).endTasks g) (fun _ => .empty)) ∧
  (∀ h job g, Serves (.kill h job) h { role := .operate, legal := [.running] } (fun u => u.graph job = some g ∧ g.outcome ≠ none) id
    (fun _ => .empty)) ∧
  (∀ h job body, Serves (.jobStatus h job) h { role := .read, legal := [.running], reads := true }
    (fun u => u.host.done.find? (·.1 = job) = some (job, body)) id (fun _ => body)) ∧
  (∀ h (addr : Dword) t, Serves (.cycLoad h addr) h { role := .operate, legal := [.started, .running] }
    (fun u => u.readTable addr.toNat = .inl t) (fun u => u.setSched { u.sched with nextTable := some t }) (fun _ => .empty)) ∧
  (∀ h (addr : Dword) c, c ≠ 0 → Refuses (.cycLoad h addr) h { role := .operate, legal := [.started, .running] }
    (fun u => u.readTable addr.toNat = .inr c) c)

/-- The life of a graph: a placement step loads the task on its tile; a task held beyond the limit yields; a graph that has ended leaves the inbound table
and its transfers; COMPLETE releases its semaphores, keeps its outcome and takes it from the table; a deadline marks the graph late and kills it where
it says so; an assured one is withheld and killed. Notifications: one not acknowledged within 10 ms goes again with its own seq, and is counted as
lost after eight sends more; an acknowledgement ends it and keeps the session open. That a kill ends the graph's tasks at once is the model's reading
(log 76). -/
def Obligations.GraphLife : Prop :=
  (
  (∀ (s : State) g (copy : Fin 3) k (t : TileId), s.nextPlacement = some (g, copy.val, [(k, t.val)]) → s.assured.running.entries = [] →
    Gives .taskPlace s fun u => (u.tile t.val).state = .loading ∧ (u.tile t.val).ref = some (.graph g.job copy k) ∧
      (u.tile t.val).job = g.job) ∧
  (∀ (s : State) (t : TileId) n ref,
    let x := s.tile t.val
    x.hold = some (.semaphore n) → x.ref = some ref → x.state = .running → s.sched.yieldLimit ≠ 0 →
    s.sched.yieldLimit < s.clock.cycle - x.holdSince → x.cls ≠ .radio → s.starved x.cls = true →
    Gives (.taskYield t) s fun u => (u.tile t.val).state = .draining ∧ (u.tile t.val).yielding = true ∧ (u.tile t.val).hold = none) ∧
  (∀ (s : State) job g, s.graph job = some g → (g.outcome ≠ none ∨ allDone g = true) →
    Gives (.graphEnd job) s fun u => (u.graph job).map (·.outcome) = some (some (g.outcome.getD .done)) ∧
      (∀ x ∈ u.sched.transfers, x.job ≠ job) ∧
      (g.arrayJob ≠ 0 → ∀ n, n < 128 → u.array.inbound.get none (g.arrayJob.toNat * 128 + n) = none)) ∧
  (∀ (s : State) job g, s.graph job = some g → g.outcome = none → allDone g = false → exec (.graphEnd job) s = .next s) ∧
  (∀ (s : State) job g, s.graph job = some g → g.outcome ≠ none →
    (∀ c ∈ g.copies, ∀ k ∈ c.tasks, k.state = .done ∨ k.state = .faulted ∨ k.state = .killed) →
    s.jobHolds job = false → s.jobHolds (polderJob g) = false → s.fated (deadlineCode g) 0 0 job.toNat = false →
    Gives (.complete job) s fun u => u.graph job = none ∧ u.host.done.head? = some (job, completeBody s g) ∧
      (∀ e ∈ g.sems, (u.sem e.1).count = 0 ∧ (u.sem e.1).claim = none) ∧ (∀ x ∈ u.assured.twins, x.1 ≠ job)) ∧
  (∀ (s : State) job g, s.graph job = some g → g.outcome = none → g.hdr.cls ≠ 2 → s.capture.replay = none → s.deadlineDue g = true →
    (g.hdr.killAtDeadline = false → Gives (.graphDeadline job) s fun u =>
      (u.graph job).map (fun x => (x.late, x.outcome)) = some (true, none)) ∧
    (g.hdr.killAtDeadline = true → Gives (.graphDeadline job) s fun u =>
      (u.graph job).map (fun x => (x.late, x.outcome)) = some (true, some .killed))) ∧
  (∀ (s : State) job g (task : Option Nat), s.graph job = some g → g.outcome = none → g.hdr.cls = 2 → s.capture.replay = none →
    (match task with | some k => s.taskOverdue g k | none => s.deadlineDue g) = true →
    Gives (.assuredTaskDeadline job task) s fun u =>
      (u.graph job).map (fun x => (x.outcome, x.verdict, x.late)) = some (some .killed, some .late, true) ∧
      u.assured.countWh = bump top32 s.assured.countWh)) ∧
  (
  ∀ (s : State) (n : Fin 8) seq,
    let own (m : Notice) : Bool := m.session == n.val + 1 && m.seq == seq
    (∀ x, s.host.notices.find? own = some x → x.sentNs + 10000000 ≤ s.nowNs → x.sends < 9 → (s.session (n.val + 1)).isSome = true →
      Gives (.notificationResend n seq) s fun u => u.out = s.out ++ [.notify (BitVec.ofNat 16 (n.val + 1)) x.type x.seq x.body] ∧
        u.host.notifyLost = s.host.notifyLost) ∧
    (∀ x, s.host.notices.find? own = some x → x.sentNs + 10000000 ≤ s.nowNs → 9 ≤ x.sends →
      Gives (.notificationResend n seq) s fun u => u.host.notifyLost = bump top32 s.host.notifyLost ∧
        u.host.notices = s.host.notices.filter (fun m => !own m) ∧ u.out = s.out) ∧
    (s.host.notices.any own = true →
      Gives (.notificationAck n seq) s fun u => u.host.notices = s.host.notices.filter (fun m => !own m) ∧
        u.session (n.val + 1) = (s.session (n.val + 1)).map fun x => { x with idleNs := s.nowNs }))

/-- The claim of a slot cycle entry: its tiles wake a slot before; 2 µs before its offset they are claimed and inference tasks on them drain; a free tile
is zeroised for the radio domain; from the offset on, within the slot, the task is loaded, once; its end on every tile ends the claim. The radio
polders taken at a load are the model's choice (log 16). -/
def Obligations.TableClaims : Prop :=
  (∀ (s : State) (e : Fin 4096) x (t : TileId), s.claimEntry e.val = some x → x.tiles.getLsbD t.val = true →
    (before x (slotNs x.mu) s.nowNs = true → s.tileHeld t.val = false → s.powerOf t.val = .off → Gives (.claimPreWake e) s fun u => u.powerOf t.val = .waking) ∧
    (before x 2000 s.nowNs = true → (s.tile t.val).cls = .inference → (s.tile t.val).state = .running →
      Gives (.claimPreemptRequest e) s fun u => (u.tile t.val).state = .draining ∧ u.sched.claims.get none t.val = some e.val) ∧
    (s.sched.claims.get none t.val = some e.val → ((s.tile t.val).state = .idle ∨ (s.tile t.val).state = .faulted) →
      (s.tile t.val).domain ≠ .radio →
      Gives (.claimReassign e) s fun u => (u.tile t.val).state = .zeroising ∧ (u.tile t.val).nextDomain = .radio) ∧
    (x.kind = 0 → s.sched.claims.get none t.val = some e.val → s.radioFree t.val = true → sinceOffset x s.nowNs < slotNs x.mu →
      s.sched.ranOn.contains (e.val, t.val) = false → ∀ slot : AbsSlot,
      (s.sched.entrySlot.get none e.val = none ∨ s.sched.entrySlot.get none e.val = some slot.toNat) →
      Gives (.claimEntryOffset e slot) s fun u => (u.tile t.val).state = .loading ∧ (u.tile t.val).ref = some (.entry e) ∧
        u.sched.entrySlot.get none e.val = some slot.toNat)) ∧
  (∀ (s : State) (e : Fin 4096) tb x, s.sched.table = some tb → tb.entries[e.val]? = some x → x.kind = 0 →
    entryEnded s e.val x = true →
    Gives (.claimTaskEnd e) s fun u => u.sched.entrySlot.get none e.val = none ∧
      ∀ t, t ∈ tilesOf x.tiles → s.sched.claims.get none t = some e.val → u.sched.claims.get none t = none)

/-- The assured lane: equal signatures release a result, different ones are counted; a slice's tiles run their next segments, a segment with the signature
of the bundle counts for the window and one with another takes its tile out; a window's end begins the next and takes an uncovered lane out of ACTIVE.
Copy 2's fault and the abort of segments follow log 70 and log 79. -/
def Obligations.AssuredLane : Prop :=
  (∀ (s : State) job g c0 c1 a, s.graph job = some g → g.hdr.cls = 2 → g.outcome = none → g.copies = [c0, c1] → c0.signature = some a →
    c1.signature = none → c1.tasks.all (·.state == .done) = true → (s.sinkBytes g 1).2 = false → s.deadlineDue g = false →
    let b := leBytes 4 (crc32c (s.sinkBytes g 1).1).toNat
    (a = b → (s.assured.state = .active ∨ s.assured.state = .degraded) →
      Gives (.copySignature job 1) s fun u => (u.graph job).map (fun x => (x.outcome, x.verdict, x.degraded)) =
        some (some .done, some .released, s.assured.state == .degraded)) ∧
    (a ≠ b → Gives (.copySignature job 1) s fun u => u.assured.countDis = bump top32 s.assured.countDis)) ∧
  (∀ (s : State) (n : Fin 4096) x, s.sched.table.bind (·.entries[n.val]?) = some x → x.kind = 2 → s.readyTasks = [] →
    (s.tableRuns = true → sinceOffset x s.nowNs < x.deadlineNs → Gives (.selftestSliceStart n) s (fun u => u.assured.slice = s.assured.slice ||| x.tiles ∧
      ∀ t : TileId, x.tiles.getLsbD t.val = true → s.powerOf t.val = .on → (s.tile t.val).state = .idle → s.assured.running.get none t.val = none →
        s.beforeClaim t.val (segmentNs (s.assured.nextSeg.get 0 t.val)) = true →
        u.assured.running.get none t.val = some (s.assured.nextSeg.get 0 t.val))) ∧
    (x.deadlineNs ≤ sinceOffset x s.nowNs →
      Gives (.selftestSliceEnd n) s (fun u => u.assured.slice = s.assured.slice &&& ~~~x.tiles))) ∧
  (∀ (s : State) (t : TileId) seg sig, s.assured.running.get none t.val = some seg →
    (s.host.bundle.bind (·.segSigs[seg]?) = some sig → Gives (.selftestSegmentEnd t sig) s (fun u => u.assured.running.get none t.val = none ∧ u.assured.passed.contains (t.val, seg) = true ∧
      u.assured.nextSeg.get 0 t.val = (seg + 1) % 4 ∧ u.assured.excl = s.assured.excl)) ∧
    (s.host.bundle.bind (·.segSigs[seg]?) ≠ some sig → Gives (.selftestSegmentEnd t sig) s (fun u => u.assured.running.get none t.val = none ∧ u.assured.excl.getLsbD t.val = true ∧
      u.assured.passed = s.assured.passed))) ∧
  (∀ (s : State), s.assured.enable = true → s.assured.windowEnd ≤ s.frameNow →
    Gives .fttiWindowEnd s fun u => u.assured.windows = s.assured.windows + 1 ∧ u.assured.passed = [] ∧
      u.assured.fttiFrames = s.assured.fttiNext ∧ u.assured.windowEnd = s.assured.windowEnd + s.assured.fttiNext ∧
      (s.assured.state = .active → (∃ t : TileId, s.assured.excl.getLsbD t.val = false ∧ covered s.assured t.val = false) →
        u.assured.state = .degraded ∨ u.assured.state = .safe))

/-! ## Recording, crossings, arrays -/

/-- Capture requests: rings that lie in HBM regions of their domains are named, empty; a start is armed, a stop takes effect at a boundary; a ring leaves
sealed and returns only as this device's own blob. Replay: it begins where the rings are the ones named, the start marker is this device's and
everything is off; entries are delivered in order at their times; its end gives the device its state and time back, and the two digests stay to be
read. Refusals of RECORD_CONFIG, the frame of a start and what the end of a replay restores are the model's readings (log 50). -/
def Obligations.Recording : Prop :=
  (
  (∀ h (b n : Dword × Dword × Dword),
    let ring (base size : Dword) : Ring := { base := base.toNat, size := size.toNat, used := 0, count := 0 }
    let rings := [ring b.1 n.1, ring b.2.1 n.2.1, ring b.2.2 n.2.2]
    Serves (.recordConfig h b n) h { role := .admin, legal := [.running] } (fun u => u.capture.on = false ∧ u.ringOk .radio b.1.toNat n.1.toNat = true ∧
        u.ringOk .inference b.2.1.toNat n.2.1.toNat = true ∧ u.ringOk .management b.2.2.toNat n.2.2.toNat = true)
      (fun u => u.setCapture { u.capture with rings := rings, armed := none, full := false }) (fun _ => .empty)) ∧
  (∀ h slot, Serves (.recordStart h slot) h { role := .admin, legal := [.running] } (fun u => u.capture.rings.length = 3 ∧ u.capture.on = false)
    (fun u => u.setCapture { u.capture with armed := some slot }) (fun _ => .empty)) ∧
  (∀ h, Serves (.recordStop h) h { role := .admin, legal := [.running] } (fun _ => True)
    (fun u => u.setCapture { u.capture with stopping := u.capture.on, armed := none }) (fun _ => .empty)) ∧
  (∀ h (ring : Byte) (addr : Dword), ring.toNat ≤ 2 →
    Serves (.recordSave h ring addr) h { role := .admin, legal := [.running] }
      (fun u => u.capture.rings.length = 3 ∧ u.capture.on = false ∧ u.extRange addr.toNat (48 + (u.ring ring.toNat).used) = true ∧
        u.domainOk .management addr.toNat (48 + (u.ring ring.toNat).used) = true)
      (fun u =>
        let z := u.sealBlob 2 (u.extRead (u.ring ring.toNat).base (u.ring ring.toNat).used)
        z.2.extWrite addr.toNat z.1)
      (fun u => .nums [48 + (u.ring ring.toNat).used])) ∧
  (∀ h (ring : Byte) (addr : Dword) bs, ring.toNat ≤ 2 →
    Answers (.recordLoad h ring addr) h { role := .admin, legal := [.running] }
      (fun u => u.capture.rings.length = 3 ∧ u.capture.on = false ∧ u.extRange addr.toNat 32 = true ∧
        u.extRange addr.toNat (48 + u.extNat (addr.toNat + 8) 8) = true ∧
        u.domainOk .management addr.toNat (48 + u.extNat (addr.toNat + 8) 8) = true ∧ u.openBlob 2 addr.toNat = some bs ∧
        bs.length ≤ (u.ring ring.toNat).size)
      (fun u t => (t.ring ring.toNat).used = bs.length ∧ (t.ring ring.toNat).base = (u.ring ring.toNat).base ∧
        (t.ring ring.toNat).size = (u.ring ring.toNat).size) (fun _ => .empty)) ∧
  (∀ h (ring : Byte) (addr : Dword), ring.toNat ≤ 2 →
    Refuses (.recordLoad h ring addr) h { role := .admin, legal := [.running] }
      (fun u => u.capture.rings.length = 3 ∧ u.capture.on = false ∧ u.extRange addr.toNat 32 = true ∧
        u.extRange addr.toNat (48 + u.extNat (addr.toNat + 8) 8) = true ∧
        u.domainOk .management addr.toNat (48 + u.extNat (addr.toNat + 8) 8) = true ∧ u.openBlob 2 addr.toNat = none) 0x0801)) ∧
  (
  (∀ h (b : Dword × Dword × Dword) m,
    Answers (.replayStart h b) h { role := .admin, legal := [.running] }
      (fun u => u.startMarker = some m ∧ u.capture.rings.map (·.base) = [b.1.toNat, b.2.1.toNat, b.2.2.toNat] ∧ u.allOff = true ∧
        u.capture.on = false)
      (fun u t => ∃ r, t.capture.replay = some r ∧ r.left = sortEntries (((upTo 3).map u.ringEntries).flatten.filter (·.kind ≠ 5)) ∧
        r.started = false ∧ r.origin = entryTime m ∧ r.digest = 0 ∧ r.radio = u.radio ∧ r.sched = u.sched) (fun _ => .empty)) ∧
  (∀ h (b : Dword × Dword × Dword), Refuses (.replayStart h b) h { role := .admin, legal := [.running] } (fun u => u.startMarker = none) Code.replayMismatch) ∧
  (∀ h r, Serves (.replayStatus h) h { role := .read, legal := [.running], reads := true } (fun u => u.capture.replay = some r) id
    (fun _ => .nums [1, r.digest, r.frames, r.recDigest, r.recFrames])) ∧
  (∀ h, Serves (.replayStop h) h { role := .admin, legal := [.running], reads := true } (fun u => u.capture.replay ≠ none) State.replayEnd
    (fun _ => .empty)) ∧
  (∀ (s : State) r e rest, s.capture.replay = some r → r.left = e :: rest → r.started = true → entryTime e ≤ s.time.now →
    (e.kind ≠ 4 → e.kind ≠ 6 →
      exec .replayEntryDeliver s = .next (s.setCapture { s.capture with replay := some { r with left := rest, current := some e } })) ∧
    (e.kind = 4 → Gives .replayEntryDeliver s fun u => ∃ q, u.capture.replay = some q ∧ q.left = rest ∧ q.current = none ∧
      q.versions.head? = some (leNat (e.payload.take 1), BitVec.ofNat 32 (leNat ((e.payload.drop 4).take 4)))) ∧
    (e.kind = 6 → Gives .replayEntryDeliver s fun u => u.capture.replay = none ∧ u.time.now = r.savedNow + (s.time.now - r.origin) ∧
      u.time.mode = r.savedMode ∧ u.capture.lastReplay =
        some (r.digest, r.frames, leNat ((e.payload.drop 24).take 32), leNat ((e.payload.drop 56).take 8)))) ∧
  (∀ (s : State) r e rest, s.capture.replay = some r → r.left = e :: rest → s.time.now < entryTime e → exec .replayEntryDeliver s = .next s))

/-- The dike crossing: a good record cuts the period that runs and waits for the next frame boundary; a period's end writes one record for each cell and
channel of the masks, and starts the counts over. PRB use is over every slot of the period by the model's reading (log 40). -/
def Obligations.Crossings : Prop :=
  (∀ h (r : CrossRec), aligned 0x10000 r.ringBase.toNat = true → 1024 ≤ r.records.toNat → r.records.toNat ≤ 1048576 →
    100 ≤ r.periodMs.toNat → r.periodMs.toNat ≤ 60000 → r.periodMs.toNat % 100 = 0 → r.kinds.toNat ≤ 3 → r.channels.toNat ≤ 15 →
    8 ≤ r.minCount.toNat →
    Answers (.crossingConfig h r) h { role := .admin, legal := [.running] }
      (fun u => u.extRange r.ringBase.toNat (64 + 64 * r.records.toNat) = true ∧
        u.inRegion .inference r.ringBase.toNat (64 + 64 * r.records.toNat) = true)
      (fun _ t => t.sec.crossing.running = false ∧ t.sec.crossing.write = 0 ∧ t.sec.crossing.cells = .empty ∧
        t.sec.crossing.cfg.map (fun c => (c.ringBase, c.records, c.periodMs, c.minCount)) =
          some (r.ringBase.toNat, r.records.toNat, r.periodMs.toNat, r.minCount.toNat)) (fun _ => .empty)) ∧
  (∀ (s : State) c, s.sec.crossing.cfg = some c → s.sec.crossing.running = true → s.sec.crossing.startNs + c.periodMs * 1000000 ≤ s.nowNs →
    Gives .crossingPeriodEnd s fun u => u.sec.crossing.startNs = s.nowNs ∧ u.sec.crossing.cells = .empty ∧ u.sec.crossing.chans = .empty ∧
      u.sec.crossing.running = true ∧ u.sec.crossing.write = s.sec.crossing.write +
        ((upTo 8).filter fun i => c.kinds.getLsbD 0 && c.cells.getLsbD i).length +
        ((upTo 4).filter fun i => c.kinds.getLsbD 1 && c.channels.getLsbD i).length)

/-- Array links: a shape that is accepted trains the links of its dimensions; a trained link is admitted where its neighbour's shape, number and
authentication hold, or held down with OB_TOPOLOGY; a flit out of sequence, or damaged, is answered with a NAK; RETRAIN trains the link again, and its
identity message goes out; time goes out on an admitted link. Readings of the links are logged under 47 and 68. -/
def Obligations.ArrayLinks : Prop :=
  (∀ h (nx ny x y master : Byte), [1, 2, 4].contains nx.toNat = true → [1, 2, 4].contains ny.toNat = true → x.toNat < nx.toNat →
    y.toNat < ny.toNat → master.toNat < nx.toNat * ny.toNat →
    Answers (.arrayConfig h nx ny x y master) h { role := .admin, legal := [.started] } (fun _ => True)
      (fun _ t => t.array.nx = nx.toNat ∧ t.array.ny = ny.toNat ∧ t.array.x = x.toNat ∧ t.array.y = y.toNat ∧
        t.array.master = master.toNat ∧ t.array.configured = true ∧
        (∀ k, k < 4 → (t.link k).state = if usedLink nx.toNat ny.toNat k then .training else .unused)) (fun _ => .empty)) ∧
  (∀ (s : State) (k : Fin 4) (i : LinkIdentity), (s.link k.val).state = .training →
    (s.neighbourOk k.val i = true → (s.link k.val).replay = [] → Gives (.linkAdmission k i) s fun u => (u.link k.val).state = .admitted ∧ (u.link k.val).keyed = true ∧
      (u.link k.val).neighbour = i.device.toNat % 16) ∧
    (s.neighbourOk k.val i = false → exec (.linkAdmission k i) s =
      .next ((s.setLink k.val { s.link k.val with neighbour := i.device.toNat % 16, state := .down }).record 0x1402 k.val [])) ∧
    ((s.link k.val).sinceNs + 250000000 ≤ s.nowNs → Gives (.linkAdmitTimeout k) s fun u => (u.link k.val).state = .down ∧
      (u.link k.val).replay = [] ∧ (u.link k.val).replays = (s.link k.val).replays)) ∧
  (∀ (s : State) (k : Fin 4) f chk, (s.link k.val).state = .admitted →
    (flitGood (s.link k.val) f chk = false → exec (.flitReceive k f chk) s = .next (s.emit (.nak k (s.link k.val).expect))) ∧
    (flitGood (s.link k.val) f chk = true → f.nak = false → f.kind.toNat = 0 →
      Gives (.flitReceive k f chk) s fun u => (u.link k.val).expect = ((s.link k.val).expect + 1) % 65536 ∧
        (u.link k.val).state = .admitted) ∧
    (flitGood (s.link k.val) f chk = true → f.nak = false → 1 ≤ f.kind.toNat → f.kind.toNat ≤ 5 → f.dst.toNat = s.devNumber →
      f.first = true → f.last = false →
      Gives (.flitReceive k f chk) s fun u => f ∈ u.array.partials ∧ (u.link k.val).expect = ((s.link k.val).expect + 1) % 65536)) ∧
  (∀ (s : State) (k : Fin 4), (s.link k.val).state ≠ .unused →
    Gives (.retrain k) s fun u => (u.link k.val).state = .training ∧ (u.link k.val).keyed = false ∧ (u.link k.val).sinceNs = s.nowNs ∧
      u.out = s.out ++ [.linkIdentity k s.devNumber s.array.nx s.array.ny s.sec.fuses.serial]) ∧
  (∀ (s : State) (k : Fin 4) theta replayed, (s.link k.val).state = .admitted →
    (s.follows = false ∨ s.parentLink ≠ some k.val ∨ replayed = true ∨ s.time.source ≠ 10 →
      exec (.arrayTimeMessage k theta replayed) s = .next (s.emit (.linkTime k s.nowSec s.nowSub))) ∧
    (s.follows = true → s.parentLink = some k.val → replayed = false → s.time.source = 10 →
      exec (.arrayTimeMessage k theta replayed) s = .next ((s.emit (.linkTime k s.nowSec s.nowSub)).offset theta))) ∧
  (∀ (s : State) (k : Fin 4), s.follows = true → s.parentLink = some k.val → (s.link k.val).state = .admitted →
    (s.childLinks.filter fun c => c < 4 ∧ (s.link c).state = .admitted) = [] →
    exec (.arrayResetMessage k) s = .next (s.sourceReset 6 k.val))

/-! ## Sessions, host messages and security -/

/-- What the checks of a request refuse, in their order, without any other effect: a seq the session has passed, a role too low, a state not in the
message's row, another major version, and all but reads while a replay runs. -/
def Obligations.QcpChecks : Prop :=
  ∀ (s : State) (h : QcpHdr) (m : MsgRow) (body : State → State × Answer) (x : Session),
    s.portDrops h = false → s.replayQcp h.raw = false → s.boundSession h = some x →
    (seqCheck x.lastSeq h.seq = .old → serve s h m body = s.mbxDrop) ∧
    (seqCheck x.lastSeq h.seq = .fresh → s.capture.replay ≠ none → m.reads = false →
      serve s h m body = (taken s h).reply h m.hw 0x1512 .empty) ∧
    (seqCheck x.lastSeq h.seq = .fresh → s.capture.replay = none → s.host.state ≠ .faulted → m.hw = false → h.major ≠ s.host.fwMajor →
      serve s h m body = (taken s h).reply h false 0x0905 .empty) ∧
    (seqCheck x.lastSeq h.seq = .fresh → s.capture.replay = none → s.host.state ≠ .faulted → (m.hw = true ∨ h.major = s.host.fwMajor) →
      roleRank x.role < roleRank m.role → serve s h m body = (taken s h).reply h m.hw 0x0902 .empty) ∧
    (seqCheck x.lastSeq h.seq = .fresh → s.capture.replay = none → s.host.state ≠ .faulted → (m.hw = true ∨ h.major = s.host.fwMajor) →
      roleRank m.role ≤ roleRank x.role → m.legal.contains s.host.state = false →
      serve s h m body = (taken s h).reply h m.hw 0x0901 .empty) ∧
    (seqCheck x.lastSeq h.seq = .fresh → s.capture.replay = none → s.host.state = .faulted → m.hw = false → m.legal.contains .faulted = false →
      serve s h m body = (taken s h).reply h true 0x0901 .empty) ∧
    (∀ r, seqCheck x.lastSeq h.seq = .again → x.cache.find? (·.ref = h.seq) = some r → serve s h m body = s.emit (.reply r))

/-- Sessions: SESSION_OPEN takes the lowest free number for where it came from; SESSION_AUTH grants the role asked for where the device is not sealed or
the signatures verify; SESSION_CLOSE and 600 s of silence end a session; the role-key table; what is dropped, and unknown types. -/
def Obligations.SessionLife : Prop :=
  (∀ (s : State) (h : QcpHdr) i, h.session = 0 → s.portDrops h = false → s.replayQcp h.raw = false → s.capture.replay = none →
    h.major = s.host.fwMajor → s.sessionStates.contains s.host.state = true → i < 8 →
    (∀ j, j < i → (s.session (j + 1)).isSome = true) → s.session (i + 1) = none →
    Gives (.sessionOpen h) s fun u => (∃ x, u.session (i + 1) = some x ∧ x.role = .none ∧ x.port = h.port ∧ x.addr = h.addr ∧ x.udp = h.udp ∧
        x.lastSeq = none ∧ x.idleNs = s.nowNs) ∧
      ∃ r, u.out = s.out ++ [.reply r] ∧ r.status = 0 ∧ r.ref = h.seq) ∧
  (∀ (s : State) (h : QcpHdr) (b : AuthBody) x, Accepted s h { role := .none, legal := s.sessionStates } →
    s.session h.session.toNat = some x → 1 ≤ b.role.toNat → b.role.toNat ≤ 3 →
    let genuine : Prop := s.sec.lifecycle = .opened ∨ s.authOk b (x.nonce ++ leBytes 2 h.session.toNat ++ [b.role]) = true
    (genuine → Gives (.sessionAuth h b) s fun u => (u.session h.session.toNat).map (·.role) = some (roleOfCode b.role.toNat)) ∧
    (¬genuine → exec (.sessionAuth h b) s = .next ((taken s h).reply h false 0x0801 .empty))) ∧
  (∀ (s : State) (h : QcpHdr), Accepted s h { role := .none, legal := s.sessionStates } →
    Gives (.sessionClose h) s fun u => u.session h.session.toNat = none) ∧
  (∀ (s : State) (n : Fin 8) x, s.session (n.val + 1) = some x →
    (x.idleNs + 600000000000 ≤ s.nowNs → exec (.sessionTimeout n) s = .next (s.setSession (n.val + 1) none)) ∧
    (s.nowNs < x.idleNs + 600000000000 → exec (.sessionTimeout n) s = .next s)) ∧
  (∀ h (es : List (List Byte × Byte)), es.length ≤ 8 → (∀ e ∈ es, 1 ≤ e.2.toNat ∧ e.2.toNat ≤ 3) →
    Serves (.roleKeySet h es) h { role := .admin, legal := [.started, .running] } (fun _ => True)
      (fun u => u.setHost { u.host with roleKeys := es.map fun e => (e.1, roleOfCode e.2.toNat) }) (fun _ => .empty)) ∧
  (∀ (s : State) (p : Fin 2), exec (.qcpDatagramDrop p) s = .next (s.setHost { s.host with drop := bump top32 s.host.drop })) ∧
  (∀ h (type : Half), knownTypes.contains type.toNat = false →
    Refuses (.qcpUnknownType h type) h { role := .none, legal := [.anchor, .berm, .loaded, .started, .running] } (fun _ => True) 0x0904)

/-- Memory and state of the device as a host reaches them: MEM_WRITE and MEM_READ of ordinary memory, STATE_READ, RECORDER_READ; the recorder takes the
oldest event that waits. What keeps the host from a range is in part the model's reading (log 59, log 67), and so are codes of unreadable words (log
64). -/
def Obligations.HostReads : Prop :=
  (∀ h (addr : Addr) data, 1 ≤ data.length → data.length ≤ 8144 → addr.toNat + data.length ≤ regBase →
    Serves (.memWrite h addr data) h { role := .operate, legal := [.anchor, .berm, .started, .running] }
      (fun u => u.hostRefusal addr.toNat data.length true = none ∧ (∃ a, u.place addr.toNat = .ext a) ∧ u.mergeBad addr.toNat data.length = false)
      (fun u => u.extWrite addr.toNat data) (fun _ => .empty)) ∧
  (∀ h (addr : Addr) data c, 1 ≤ data.length → data.length ≤ 8144 → addr.toNat + data.length ≤ regBase →
    Refuses (.memWrite h addr data) h { role := .operate, legal := [.anchor, .berm, .started, .running] }
      (fun u => u.hostRefusal addr.toNat data.length true = some c ∧ c ≠ 0) c) ∧
  (∀ h (addr : Addr) (n : Half), 1 ≤ n.toNat → n.toNat ≤ 8160 → addr.toNat + n.toNat ≤ regBase →
    Serves (.memRead h addr n) h { role := .read, legal := [.anchor, .berm, .started, .running], reads := true }
      (fun u => u.hostRefusal addr.toNat n.toNat false = none ∧ (∃ a, u.place addr.toNat = .ext a) ∧ u.extBad addr.toNat n.toNat = false)
      id (fun u => .bytes (u.extRead addr.toNat n.toNat))) ∧
  (∀ h, Serves (.stateRead h) h { role := .read, legal := allStates, hw := true, reads := true } (fun _ => True) id
    (fun u => .nums [mbxState u, u.events.count])) ∧
  (∀ h (first count : Half), first.toNat ≤ 8191 → 1 ≤ count.toNat → count.toNat ≤ 254 →
    Serves (.recorderRead h first count) h { role := .read, legal := allStates, hw := true, reads := true } (fun _ => True) id
      (fun u => .records u.events.count ((recordIndexes count.toNat first.toNat).map fun i => u.events.records.get none i))) ∧
  (∀ (s : State) r rest, s.events.queue = r :: rest →
    Gives .evrRecordWrite s fun u => u.events.count = (s.events.count + 1) % 2 ^ 64 ∧
      u.events.records.get none (if s.events.count < 1024 then s.events.count else 1024 + (s.events.count - 1024) % 7168) =
        some { valid := true, count := BitVec.ofNat 31 s.events.count, entry := r } ∧
      u.events.dropped = s.events.dropped ∧ u.events.lostSince = 0 ∧
      (s.events.lostSince = 0 → u.events.queue = rest) ∧
      (s.events.lostSince ≠ 0 → ∃ x, u.events.queue = rest ++ [x] ∧ x.code = 0x0701))

/-- Bring-up and service messages: a good bundle takes the device to LOADED, a bad one starts nothing; START, RUN and BERM_START change the state; the log
ring begins empty; trace points; a trap stops its core and takes the device to FAULTED. Readings: the bundle's table (log 54), C0 during berm service
(log 61), what a trap ends (log 62), ranges of LOG_CONFIG and START's job numbers (log 65). -/
def Obligations.BringUp : Prop :=
  (∀ h (offset length : Dword), offset.toNat + length.toNat ≤ stagingSize →
    Answers (.load h offset length) h { role := .admin, legal := [.anchor, .berm] }
      (fun u => bootFault u.sec.fuses (u.extRead offset.toNat length.toNat) = none)
      (fun u t => t.host.state = .loaded ∧ t.host.fwMajor = BitVec.ofNat 8 (field (u.extRead offset.toNat length.toNat) 4 4 / 65536) ∧
        t.host.bundle.map (·.measure) = some (Config.sha256 ((u.extRead offset.toNat length.toNat).take 0xD60)) ∧ t.sec = u.sec)
      (fun _ => .empty)) ∧
  (∀ (s : State) h (offset length : Dword) c, Accepted s h { role := .admin, legal := [.anchor, .berm] } → c ≠ 0 →
    offset.toNat + length.toNat ≤ stagingSize → bootFault s.sec.fuses (s.extRead offset.toNat length.toNat) = some c →
    exec (.load h offset length) s = .next (((taken s h).record 0x0805 0 [c.toNat]).reply h false c .empty)) ∧
  (∀ h, Answers (.start h) h { role := .admin, legal := [.loaded] } (fun _ => True)
    (fun u t => t.host.state = .started ∧ t.host.coresHalted = false ∧ t.sched.nextJob = 1 ∧
      (∀ c, c < 12 → u.rst.held.contains (96 + c) = false → (u.host.berm = false ∨ c ≠ 0) → (t.cluster c).core = .image)) (fun _ => .empty)) ∧
  (∀ h, Serves (.run h) h { role := .admin, legal := [.started] } (fun _ => True)
    (fun u => u.setHost { u.host with state := .running, takeover := u.host.berm }) (fun _ => .empty)) ∧
  (∀ h (b : BermBody), bermOk b.ul b.dl b.domain.toNat = true →
    Answers (.bermStart h b) h { role := .admin, legal := [.anchor] } (fun _ => True)
      (fun _ t => t.host.state = .berm ∧ t.host.berm = true ∧ t.host.bermPending = true ∧ t.time.source = b.port.toNat) (fun _ => .empty)) ∧
  (∀ h (b : BermBody), bermOk b.ul b.dl b.domain.toNat = false →
    Refuses (.bermStart h b) h { role := .admin, legal := [.anchor] } (fun _ => True) 0x0102) ∧
  (∀ h (base : Dword) (records : Word) (level : Byte), aligned 0x10000 base.toNat = true → 1024 ≤ records.toNat → records.toNat ≤ 1048576 →
    level.toNat ≤ 3 →
    Serves (.logConfig h base records level) h { role := .admin, legal := [.started, .running] }
      (fun u => u.extRange base.toNat (64 + 64 * records.toNat) = true ∧ u.domainOk .management base.toNat (64 + 64 * records.toNat) = true)
      (fun u => (u.setHost { u.host with log := some { base := base.toNat, records := records.toNat, level := level.toNat, write := 0 } }).extWrite
        base.toNat (leBytes 8 0)) (fun _ => .empty)) ∧
  (∀ h (mask : BitVec 256), Serves (.traceSet h mask) h { role := .operate, legal := [.running] } (fun _ => True)
    (fun u => u.setHost { u.host with trace := mask &&& BitVec.ofNat 256 (2 ^ 128 - 1) }) (fun _ => .empty)) ∧
  (∀ (s : State) (k : FwCore) (cause lo hi : Word),
    (s.host.state = .anchor → Gives (.fwFault k cause lo hi) s fun u => u.host.state = .anchor ∧ u.host.faultedCore = coreNumber k) ∧
    (s.host.state ≠ .anchor → Gives (.fwFault k cause lo hi) s fun u => u.host.state = .faulted ∧ u.sched.halt = some s.frameNow ∧
      u.host.faultedCore = (if s.host.state = .faulted then s.host.faultedCore else coreNumber k)) ∧
    (∀ c : ClusterId, k = .cluster c → Gives (.fwFault k cause lo hi) s fun u => (u.cluster c.val).core = .faulted))

/-- Regions and fuses: REGION_SET makes its entry change and is answered when the zeros are written; fields out of range or reserved ones that are not 0,
a changing or sealed entry, and one that overlaps, are refused; the rollback count rises with the bundle's; the operator's RSA key hash is written
once and before the seal, debug_disabled at any time; the seal asks for the hash. -/
def Obligations.RegionsAndFuses : Prop :=
  (∀ h (index domain : Byte) (r2 : Half) (base size rc : Word),
    let m : MsgRow := { role := .admin, legal := [.started, .running] }
    let i := index.toNat
    let fields : Prop := i ≤ 127 ∧ r2 = 0 ∧ rc = 0 ∧ domain.toNat ≤ 3 ∧ (if domain.toNat = 3 then base = 0 ∧ size = 0
      else base.toNat < 2 ^ 28 ∧ 1 ≤ size.toNat ∧ size.toNat < 2 ^ 28)
    let placed (u : State) : Prop := domain.toNat ≠ 3 →
      u.extRange (base.toNat * 2 ^ 20) (size.toNat * 2 ^ 20) = true ∧ u.overlapsEntry i base.toNat size.toNat = false
    let moved (u : State) := altered (u.region i) domain.toNat base.toNat size.toNat
    (fields → Starts (.regionSet h index domain r2 base size rc) h m
      (fun u => (u.region i).changing = false ∧ (u.region i).sealed = false ∧ placed u ∧
        (∀ x ∈ u.usedRanges, x.2 ≠ 0 → ∀ r ∈ (moved u).1 ++ (moved u).2, meetsEnd x r = false))
      (fun u t => (t.region i).changing = true ∧ t.out = u.out ∧ (∀ j, j ≠ i → t.region j = u.region j) ∧
        (domain.toNat ≠ 3 → (t.region i).domain.toNat = domain.toNat ∧ (t.region i).base = base.toNat ∧ (t.region i).size = size.toNat))) ∧
    (¬ fields → Refuses (.regionSet h index domain r2 base size rc) h m (fun _ => True) 0x0903) ∧
    (fields → Refuses (.regionSet h index domain r2 base size rc) h m (fun u => (u.region i).changing = true ∨ (u.region i).sealed = true) 0x0901) ∧
    (fields → domain.toNat ≠ 3 → Refuses (.regionSet h index domain r2 base size rc) h m
      (fun u => (u.region i).changing = false ∧ (u.region i).sealed = false ∧
        u.extRange (base.toNat * 2 ^ 20) (size.toNat * 2 ^ 20) = true ∧ u.overlapsEntry i base.toNat size.toNat = true) 0x0102)) ∧
  (∀ (s : State) (i : Fin 128), (s.region i.val).changing = true →
    Gives (.regionZeroiseComplete i) s fun u => (u.region i.val).changing = false ∧ (∀ j, j ≠ i.val → u.region j = s.region j) ∧
      ((s.region i.val).domain ≠ 3 → (u.region i.val).base = (s.region i.val).base ∧ (u.region i.val).domain = (s.region i.val).domain)) ∧
  (∀ h good b, Serves (.rollbackCommit h good) h { role := .admin, legal := [.running] }
    (fun u => u.host.bundle = some b ∧ b.security - u.sec.fuses.rollback ≤ good)
    (fun u => u.setFuses { u.sec.fuses with rollback := u.sec.fuses.rollback + (b.security - u.sec.fuses.rollback) }) (fun _ => .empty)) ∧
  (∀ h, Serves (.fuseWrite h .debugDisabled) h { role := .admin, legal := [.started] } (fun _ => True)
    (fun u => u.setFuses { u.sec.fuses with debugDisabled := true }) (fun _ => .empty)) ∧
  (∀ h k, Serves (.fuseWrite h (.opRsa k)) h { role := .admin, legal := [.started] }
    (fun u => u.sec.lifecycle = .opened ∧ u.sec.fuses.opRsa = none) (fun u => u.setFuses { u.sec.fuses with opRsa := some k }) (fun _ => .empty)) ∧
  (∀ h k, Refuses (.fuseWrite h (.opRsa k)) h { role := .admin, legal := [.started] }
    (fun u => u.sec.lifecycle ≠ .opened ∨ u.sec.fuses.opRsa ≠ none) 0x0901) ∧
  (∀ h, Serves (.sealFuse h) h { role := .admin, legal := [.started] } (fun u => u.sec.fuses.opRsa ≠ none ∧ u.sec.lifecycle = .opened)
    (fun u => u.setSec { u.sec with fuses := { u.sec.fuses with sealBlown := true }, lifecycle := .sealed }) (fun _ => .empty)) ∧
  (∀ h, Refuses (.sealFuse h) h { role := .admin, legal := [.started] } (fun u => u.sec.fuses.opRsa = none) 0x0901)

/-- Sealed models, quotes and debug: a genuine bundle seals its region and, decrypted and relocated, fills its slot, one that does not decrypt gives the
region back; an unload gives region and slot back, unless a job is bound; a quote is signed over the device's state; a challenge is kept; an unlock
opens the debug port with key slots, adaptation stores and the weight cache emptied and the memory keys replaced; a crash dump's length is told to its
session. Cryptography is free functions (log 2); refusals of loads and unloads, and the dump's layout, are the model's (log 55, log 56). -/
def Obligations.ModelsAndDebug : Prop :=
  (∀ h (addr : Dword) (region : Byte) slot k, region.toNat ≤ 127 →
    Starts (.modelLoad h addr region) h { role := .operate, legal := [.running] }
      (fun u => u.sec.lifecycle = .sealed ∧ u.sec.loading = none ∧ (upTo 64).find? (fun i => (u.sec.slots.get none i).isNone) = some slot ∧
        (u.region region.toNat).domain = 1 ∧ (u.region region.toNat).sealed = false ∧ (u.region region.toNat).changing = false ∧
        u.inRegion .inference addr.toNat 0x700 = true ∧ u.modelHeader addr.toNat region.toNat = some k ∧
        4096 * k.nGraph ≤ (u.region region.toNat).size * 2 ^ 20)
      (fun u t => (t.region region.toNat).sealed = true ∧ t.out = u.out ∧
        t.sec.loading = some { slot, region := region.toNat, hdr := some h, filled := k })) ∧
  (∀ (s : State) l bs, s.sec.loading = some l → s.openGraph l.filled = some bs →
    let r := relocateGraph l.filled l.slot ((s.setSec { s.sec with loading := none }).extWrite l.filled.graph bs)
    r.2 = true → r.1.modelGraphOk l.filled = true →
    Gives .modelLoadComplete s fun u => u.sec.loading = none ∧ u.sec.slots.get none l.slot = some l.filled) ∧
  (∀ (s : State) l, s.sec.loading = some l → s.openGraph l.filled = none →
    Gives .modelLoadComplete s fun u => u.sec.loading = none ∧ u.sec.slots = s.sec.slots ∧ (u.region l.region).sealed = false) ∧
  (∀ h (slot : Byte) k, slot.toNat ≤ 63 →
    Answers (.modelUnload h slot) h { role := .operate, legal := [.running] }
      (fun u => u.sec.slots.get none slot.toNat = some k ∧ k.job = none)
      (fun _ t => t.sec.slots.get none slot.toNat = none ∧ (t.region k.region).sealed = false) (fun _ => .empty)) ∧
  (∀ h (slot : Byte) k, slot.toNat ≤ 63 → Refuses (.modelUnload h slot) h { role := .operate, legal := [.running] }
    (fun u => u.sec.slots.get none slot.toNat = some k ∧ k.job ≠ none) 0x0901) ∧
  (∀ h nonce, Serves (.quote h nonce) h { role := .read, legal := [.loaded, .started, .running] } (fun _ => True) id
    (fun u => .bytes (quoteBytes nonce u ++ fixed 384 (Config.deviceSign (quoteBytes nonce u))))) ∧
  (∀ h,
    let c (u : State) : List Byte := leBytes 8 u.sec.fuses.serial.toNat ++ leBytes 8 u.sec.fuses.rollback ++ leBytes 32 u.draw.1
    Serves (.debugChallenge h) h { role := .admin, legal := [.started, .running] } (fun _ => True)
      (fun u => u.draw.2.setSec { u.sec with challenge := some (c u) }) (fun u => .bytes (c u))) ∧
  (∀ h (b : UnlockBody) c, Answers (.debugUnlock h b) h { role := .admin, legal := [.started, .running] }
    (fun u => u.sec.fuses.debugDisabled = false ∧ u.sec.challenge = some c ∧ unlockOk u.sec.fuses c b = true)
    (fun u t => t.sec.lifecycle = .debug ∧ t.sec.debugOpen = true ∧ t.sec.challenge = none ∧ t.sec.slots = .empty ∧
      t.sec.keyGen = u.sec.keyGen + 1 ∧ t.adapt = .empty ∧ t.wcache.lines = .empty) (fun _ => .empty)) ∧
  (∀ h (b : UnlockBody), Refuses (.debugUnlock h b) h { role := .admin, legal := [.started, .running] }
    (fun u => u.sec.fuses.debugDisabled = true) 0x0901) ∧
  (∀ (s : State) job d g (n : Fin 64) k x, s.sched.dumps.find? (·.job = job) = some d → s.graph job = some g → g.modelSlot = some n →
    s.sec.slots.get none n.val = some k → s.session g.session = some x →
    Gives (.dumpReady job) s fun u => (∀ y ∈ u.sched.dumps, y.job ≠ job) ∧
      ∃ len, u.out = s.out ++ [.notify (BitVec.ofNat 16 g.session) 0x8002 x.nextSeq (.nums [job.toNat, len])])

/-! ## Time, power, reset, ports, registers -/

/-- Offsets and corrections: the first θ steps in full and begins ACQUIRE; one beyond the levee is refused and flagged; an accepted one slews a device in
service; the sixteenth small one in a row locks. Steps in SOFT, slews, losses of source and reference, HOLDOVER and its limit. The average of c and
the SyncE law are free functions (log 8); when the levee check applies and what a lost reference stops are the model's readings (log 44). -/
def Obligations.TimeCorrections : Prop :=
  let span : Int := 2 ^ 48 * 1000000000 * 2 ^ 40
  (∀ (s : State) theta, s.time.source ≤ 9 → s.time.nextMode = none → s.capture.replay = none →
    (s.time.state = .free → s.time.mode ≠ 0 → Gives (.ptpOffset theta) s fun u => u.time.state = .acquire ∧
      u.time.now = ((s.time.now - theta * 2 ^ 24) % span).toNat ∧ u.time.c = s.time.c ∧ u.time.slew = 0) ∧
    (s.time.state ≠ .free → (s.time.state ≠ .holdover ∨ s.time.refLost = false) → s.time.levee * 2 ^ 16 < theta.natAbs →
      Gives (.ptpOffset theta) s fun u => u.time.leveeFlag = true ∧ u.time.now = s.time.now ∧ u.time.c = s.time.c ∧
        u.time.slew = s.time.slew ∧ u.time.okRun = s.time.okRun) ∧
    (s.time.state = .locked → theta.natAbs ≤ s.time.levee * 2 ^ 16 → s.time.mode ≠ 0 → s.timeHeld = true →
      Gives (.ptpOffset theta) s fun u => u.time.slew = -theta * 2 ^ 24 ∧ u.time.now = s.time.now ∧ u.time.state = .locked ∧
        u.time.lastTheta = some s.time.now) ∧
    (s.time.state = .acquire → theta.natAbs ≤ s.time.levee * 2 ^ 16 → theta.natAbs ≤ 100 * 2 ^ 16 → s.time.okRun = 15 →
      Gives (.ptpOffset theta) s fun u => u.time.state = .locked)) ∧
  (∀ (s : State) theta, 9 < s.time.source → exec (.ptpOffset theta) s = .next s) ∧
  (∀ (s : State), (s.time.state = .free → exec .announceTimeout s = .next s) ∧
    (s.time.state ≠ .free → s.time.state ≠ .holdover → Gives .announceTimeout s fun u => u.time.state = .holdover ∧
      u.time.clockClass = 135 ∧ u.time.heldNs = s.nowNs ∧ u.time.c = u.time.cAvg)) ∧
  (∀ (s : State), s.time.state = .holdover → s.time.heldNs + s.time.holdLimit * 1000000000 ≤ s.nowNs →
    exec .holdoverLimit s = .next (s.setTime { s.time with clockClass := 165 })) ∧
  (∀ (s : State) (step : Dword), (s.time.mode ≠ 0 → exec (.timStepWrite step) s = .next s) ∧
    (s.time.mode = 0 → s.time.state ≠ .free → s.time.levee * 2 ^ 16 < step.toInt.natAbs →
      Gives (.timStepWrite step) s fun u => u.time.leveeFlag = true ∧ u.time.now = s.time.now ∧ u.time.slew = s.time.slew) ∧
    (s.time.mode = 0 → (s.time.state = .free ∨ step.toInt.natAbs ≤ s.time.levee * 2 ^ 16) →
      (s.timeHeld = true → exec (.timStepWrite step) s = .next (s.setTime { s.time with slew := step.toInt * 2 ^ 24 })) ∧
      (s.timeHeld = false → Gives (.timStepWrite step) s fun u => u.time.now = ((s.time.now + step.toInt * 2 ^ 24) % span).toNat))) ∧
  (∀ (s : State), s.time.slew.natAbs ≤ slewShare s.time →
    exec .slewComplete s = .next (s.setTime { s.time with now := (s.time.now + s.time.slew).toNat, slew := 0 })) ∧
  (∀ (s : State) count,
    let n := refNominal s.time.refFreq
    let off := if count < n then n - count else count - n
    (count = 0 ∨ 1000 * n < off * 1000000 → Gives (.refMonitorWindow count) s fun u => u.time.state = .holdover ∧ u.time.refLost = true ∧
      u.time.goodWins = 0 ∧ u.power.refclkOk = false) ∧
    (count ≠ 0 → off * 1000000 ≤ 1000 * n → Gives (.refMonitorWindow count) s fun u => u.time.goodWins = min 16 (s.time.goodWins + 1) ∧
      (15 ≤ s.time.goodWins → u.power.refclkOk = true ∧ u.time.refLost = false))) ∧
  (∀ (s : State) offset, s.time.freqRef ≤ 7 → s.capture.replay = none →
    (s.time.mode = 2 → Gives (.synceMeasure offset) s fun u => u.time.meas = signedOf 48 (BitVec.ofInt 48 offset).toNat ∧ u.time.c = s.time.c) ∧
    (s.time.mode = 1 → s.time.state ≠ .holdover → exec (.synceMeasure offset) s = .next (s.setC (Config.synceUpdate s.time.c offset))))

/-- What the time unit sends and holds: the frame of the synthesiser port, egress timestamps and their queue of 64, the latch of a read, pulse outputs,
PTP messages; its settings and RELOCK. That the low bits of the prefix go out is the model's reading (log 46). -/
def Obligations.TimeOutputs : Prop :=
  (∀ (s : State), s.time.synEn = true → s.capture.replay = none → s.host.berm = false →
    let raw := rhuDiv (s.time.c * s.time.gain) (2 ^ 32)
    let v := (BitVec.ofInt 40 (satInt s.time.fcwWidth raw)).toNat
    Gives .synFcwFrame s fun u => u.time.last = v ∧ u.out = s.out ++ [.spi (bitsOf (s.time.prefixVal % 2 ^ s.time.prefixLen) s.time.prefixLen ++
      bitsOf (v % 2 ^ s.time.fcwWidth) s.time.fcwWidth)] ∧ (satInt s.time.fcwWidth raw ≠ raw → u.time.synSat = true)) ∧
  (∀ (s : State) ident (port : Fin 10),
    (s.time.queue.length < 64 → Gives (.txTimestamp ident port) s fun u => ∃ e, u.time.queue = s.time.queue ++ [e] ∧ e.ident = ident ∧
      e.port = port.val ∧ u.time.txDropped = s.time.txDropped) ∧
    (64 ≤ s.time.queue.length → Gives (.txTimestamp ident port) s fun u => u.time.queue = s.time.queue ∧ u.time.txtsOvf = true ∧
      u.time.txDropped = bump 65535 s.time.txDropped)) ∧
  (∀ (s : State), (s.time.queue = [] → exec .txtsPop s = .next (s.emit (.word "TIM_TXTS_LO" 0))) ∧
    (∀ e rest, s.time.queue = e :: rest → Gives .txtsPop s fun u => u.time.queue = rest ∧
      u.time.txHi = e.ident.toNat * 2 ^ 48 + e.sec ∧
      u.out = s.out ++ [.word "TIM_TXTS_LO" (2 ^ 63 + e.port * 2 ^ 59 + e.ns * 2 ^ 16 + e.frac)])) ∧
  (∀ (s : State), Gives .timeReadLatch s fun u => u.time.latch = s.nowSub * 2 ^ 16 + s.nowFrac ∧
    u.out = s.out ++ [.word "TIM_NOW_S" (s.nowSec % 2 ^ 48)]) ∧
  (∀ (s : State) (n : Fin 4) (p : PpsSet), n.val < s.time.pps.length → (s.pps n.val).armed = false →
    let start := p.sec.toNat * 1000000000 + p.ns.toNat
    (ppsOk p = false → exec (.ppsArm n p) s = .next s) ∧
    (ppsOk p = true → p.mode = 0 → Gives (.ppsArm n p) s fun u => (u.pps n.val).armed = false ∧ (u.pps n.val).mode = 0) ∧
    (ppsOk p = true → p.mode = 1 → s.nowNs < start → Gives (.ppsArm n p) s fun u => (u.pps n.val).armed = true ∧ (u.pps n.val).next = start) ∧
    (ppsOk p = true → p.mode = 1 → start ≤ s.nowNs → Gives (.ppsArm n p) s fun u => (u.pps n.val).armed = false ∧ (u.pps n.val).missed = true) ∧
    (ppsOk p = true → p.mode = 2 → Gives (.ppsArm n p) s fun u => (u.pps n.val).armed = true ∧ s.nowNs < (u.pps n.val).next ∧
      start ≤ (u.pps n.val).next ∧ ((u.pps n.val).next - start) % p.period.toNat = 0)) ∧
  (∀ (s : State) (n : Fin 4), (s.pps n.val).armed = true → (s.pps n.val).next ≤ s.nowNs →
    Gives (.ppsEdge n) s fun u => (u.pps n.val).high = true ∧ u.out = s.out ++ [.pulse n (!(s.pps n.val).polarity)] ∧
      ((s.pps n.val).mode = 1 → (u.pps n.val).armed = false)) ∧
  (∀ (s : State) (n : Fin 4), (s.pps n.val).high = true → (s.pps n.val).until' ≤ s.nowNs →
    Gives (.ppsPulseEnd n) s fun u => (u.pps n.val).high = false ∧ u.out = s.out ++ [.pulse n (s.pps n.val).polarity]) ∧
  (∀ (s : State) (port : Fin 10), (s.netPort port.val).up = true → s.time.source = port.val →
    Gives (.ptpMessageTransmit port .delayReq) s fun u =>
      u.out = s.out ++ [.frame port.val (.ptp 1 (BitVec.ofNat 8 s.time.clockClass) (BitVec.ofNat 8 s.time.domain) s.nowSec s.nowSub)]) ∧
  (∀ (s : State) (port : Fin 10), (s.netPort port.val).up = true → s.time.source ≠ port.val → s.host.berm = false →
    let msg (k : Nat) : Out := .frame port.val (.ptp k (BitVec.ofNat 8 s.time.clockClass) (BitVec.ofNat 8 s.time.domain) s.nowSec s.nowSub)
    Gives (.ptpMessageTransmit port .sync) s fun u =>
      u.out = s.out ++ (if s.time.oneStep = true ∧ port.val < 8 then [msg 0] else [msg 0, msg 8])) ∧
  (∀ h (c : TimeCfg), timeCfgOk c = true →
    Answers (.timeConfig h c) h { role := .admin, legal := [.started, .running] } (fun u => u.follows = false ∨ (c.source = 10 ∧ c.mode = 1))
      (fun u t => t.time.source = c.source.toNat ∧ t.time.levee = c.levee.toNat ∧ t.time.ki = c.ki.toNat ∧ t.time.domain = c.domain.toNat ∧
        t.time.now = u.time.now ∧ t.time.mode = (if u.time.slew ≠ 0 ∧ u.time.mode ≠ c.mode.toNat then u.time.mode else c.mode.toNat) ∧
        (c.source = 15 → t.time.state = .free ∧ t.time.clockClass = 248)) (fun _ => .empty)) ∧
  (∀ h (c : TimeCfg), timeCfgOk c = false →
    Refuses (.timeConfig h c) h { role := .admin, legal := [.started, .running] } (fun _ => True) 0x0102) ∧
  (∀ h, Serves (.relock h) h { role := .admin, legal := [.started, .running] } (fun u => u.timeHeld = false)
    (fun u => u.setTime { u.time with state := .free, clockClass := 248, okRun := 0, lastTheta := none }) (fun _ => .empty))

/-- Power: an idle tile is retained with its contents, a retained one with every polder FREE goes OFF and loses them, each retained one is scrubbed; a
wake completes; the duty follows the cap and the temperature; supply voltages follow the plan in steps, where one is due. No estimate and no reading
of Tj changes anything of a tile: a throttle holds its registers, buffers and accumulators (06 R168). The duty at thermal level 2 is the model's
reading (log 73). -/
def Obligations.PowerRules : Prop :=
  (∀ (s : State) (t : TileId), s.powerOf t.val = .on → (s.tile t.val).state = .idle → s.power.retainAfter ≠ 0 →
    s.assured.running.get none t.val = none →
    (s.tile t.val).since + s.power.retainAfter ≤ s.clock.cycle →
    Gives (.tileIdleRetain t) s fun u => u.powerOf t.val = .retain ∧ (u.tile t.val).body = (s.tile t.val).body) ∧
  (∀ (s : State) (t : TileId), s.powerOf t.val = .retain → s.power.offAfter ≠ 0 → (s.tile t.val).since + s.power.offAfter ≤ s.clock.cycle →
    (upTo 24).all (fun p => ((s.tile t.val).polders.get Polder.init p).state == .free) = true →
    Gives (.tileRetainOff t) s fun u => u.powerOf t.val = .off ∧ (u.tile t.val).body = TileBody.init ∧
      (u.tile t.val).domain = (s.tile t.val).domain ∧ (u.tile t.val).saveInf = (s.tile t.val).saveInf) ∧
  (∀ (s : State) (t : TileId), s.powerOf t.val = .retain →
    Gives .retainScrubWake s fun u => (u.tile t.val).scrub = bump top32 (s.tile t.val).scrub ∧ u.powerOf t.val = .retain) ∧
  (∀ (s : State) (d : Fin 136) r, s.powerOf d.val = .waking → s.rst.held.contains d.val = false →
    (d.val < 96 → s.powerOf (96 + d.val / 8) = .on) →
    ((d.val < 96 ∨ 108 ≤ d.val) → Gives (.domainWakeComplete d r) s fun u => u.powerOf d.val = .on) ∧
    (96 ≤ d.val → d.val < 108 → Gives (.domainWakeComplete d r) s fun u => u.power.cluLock.getLsbD (d.val - 96) = true)) ∧
  (∀ (s : State) w, Gives (.powerEstimate w) s fun u => u.power.est = min 65535 w ∧
    u.power.duty = if s.power.cap * 10 < min 65535 w then min 15 (s.power.duty + 1)
      else if min 65535 w * 100 < s.power.cap * 10 * 95 then s.power.duty - 1 else s.power.duty) ∧
  (∀ (s : State) w tj, Gives (.powerEstimate w) s (fun u => u.tiles = s.tiles ∧ u.clock = s.clock) ∧
    Gives (.thermalUpdate tj) s (fun u => u.tiles = s.tiles ∧ u.clock = s.clock)) ∧
  (∀ (s : State) tj, Gives (.thermalUpdate tj) s fun u => u.power.tj = tj ∧ u.power.level = levelAfter s.power tj ∧
    u.power.dutyTherm = (if levelAfter s.power tj = 0 then s.power.dutyTherm - 1
      else if levelAfter s.power tj = 1 then min 15 (s.power.dutyTherm + 1) else s.power.dutyTherm) ∧
    (tj < 100 → u.rst.thermalHold = false)) ∧
  (∀ (s : State) vreq, s.planDue = false → Gives (.ageingPlan vreq) s fun u => u.power = s.power) ∧
  (∀ (s : State) vreq (c : ClusterId) v, s.planDue = true → vreq[c.val]? = some v →
    let target := ceilDiv (v + s.power.guardMv) 5 * 5
    Gives (.ageingPlan vreq) s fun u => (u.ageing c.val).vreq = v ∧
      (u.ageing c.val).vdd = (if (s.ageing c.val).vdd < target then min target 800
        else if target < (s.ageing c.val).vdd ∧ s.rst.shadow.trimMv + 5 ≤ (s.ageing c.val).vdd then (s.ageing c.val).vdd - 5
        else (s.ageing c.val).vdd) ∧
      u.power.lastPlan = s.nowSec ∧ u.power.planTj = s.power.tj) ∧
  (∀ (s : State) (c : ClusterId), Gives (.ageNearmiss c) s fun u => (u.ageing c.val).vdd = min 800 ((s.ageing c.val).vdd + 5)) ∧
  (∀ (s : State) (c : ClusterId), (s.ageing c.val).stepNext = true → (s.ageing c.val).stepFrame ≤ s.frameNow →
    Gives (.ageStepdown c) s fun u => (u.ageing c.val).stepped = true ∧ (u.ageing c.val).stepNext = false ∧
      (u.ageing c.val).vdd = (s.ageing c.val).vdd)

/-- What each reset level clears and keeps. Commands that reset, and those of the release: a source begins a reset at its level where none runs, and is
absorbed by one as cold; the watchdogs, pins, the RESET message; the load of the fuses, stuck clocks, the release of blocks; power and standby.
Standby's end of every domain is the model's choice (log 51), the readings of the levels are log 66. -/
def Obligations.Resets : Prop :=
  (
  (∀ (s : State) l,
    let u := s.applyReset l
    u.sec.fuses = s.sec.fuses ∧ u.radio.users = .empty ∧ u.adapt = .empty ∧ u.capture.on = false ∧ u.capture.replay = none ∧
    u.rst.schEn = false ∧ u.rst.phase = (if l = .l0 ∨ s.rst.pinLow = true then 0 else if l = .l3 then 3 else 2)) ∧
  (∀ (s : State) l, (l = .l0 ∨ l = .l1) →
    let u := s.applyReset l
    u.host.state = .anchor ∧ u.host.sessions = .empty ∧ u.host.bundle = none ∧ u.mem.bytes = s.mem.bytes ∧ u.sec.keyGen = s.sec.keyGen + 1 ∧
    u.sec.regions = .empty ∧ u.sec.slots = .empty ∧ u.tiles = .empty ∧ u.sched.graphs = [] ∧ u.time = TimeUnit.init ∧
    u.sec.lifecycle = (if s.sec.fuses.sealBlown then .sealed else .opened)) ∧
  (∀ (s : State), s.capture.on = false → s.capture.replay = none →
    let u := s.applyReset .l2
    u.host.state = (if s.host.state = .anchor ∨ s.host.state = .berm then .anchor else .loaded) ∧ u.host.sessions = s.host.sessions ∧
    u.host.bundle = s.host.bundle ∧ u.sec.keyGen = s.sec.keyGen ∧ u.sched.graphs = [] ∧ u.time.now = s.time.now ∧
    (∀ t, (u.tile t).ref = none ∧ (u.tile t).saveInf = none)) ∧
  (∀ (s : State), s.capture.on = false → s.capture.replay = none →
    let u := s.applyReset .l3
    u.host = s.host ∧ u.sched.graphs = s.sched.graphs ∧ u.radio.paused = true ∧
    (∀ t, (s.tile t).domain ≠ .radio → u.tile t = { s.tile t with saveRad := none }) ∧ (∀ t, (s.tile t).domain = .radio → (u.tile t).ref = none) ∧
    (∀ c, c < 8 → (u.cell c).ul = (s.cell c).ul ∧ (u.cell c).dl = (s.cell c).dl))) ∧
  (
  (∀ (s : State) source l detail, (s.rst.phase = 3 → s.rst.assertCycle / slowCycle ≠ s.clock.cycle / slowCycle →
      let u := s.assertReset source l detail
      u.rst.source = source ∧ u.rst.level = l ∧ u.rst.detail = BitVec.ofNat 16 detail ∧ u.rst.merged = false) ∧
    (s.rst.phase = 2 → levelCode s.rst.level ≤ levelCode l → s.rst.assertCycle / slowCycle ≠ s.clock.cycle / slowCycle →
      s.assertReset source l detail = s.setRst { s.rst with merged := true })) ∧
  (∀ (s : State), s.rst.phase = 3 → s.rst.assertCycle / slowCycle ≠ s.clock.cycle / slowCycle →
    Gives .resetNAssert s fun u => u.rst.pinLow = true ∧ u.rst.phase = 0 ∧ u.rst.source = 1 ∧ u.rst.level = s.mapLevel 1) ∧
  (∀ (s : State), Gives .resetNRelease s fun u => u.rst.pinLow = false ∧
    (s.rst.pinLow = true → s.rst.phase = 0 → s.rst.level = .l1 ∨ s.rst.level = .l2 → u.rst.phase = 2)) ∧
  (∀ (s : State),
    let due := s.rst.schKick + s.rst.schPeriod * 1250000
    (s.rst.schEn = true → s.dogsRun = true → due ≤ s.clock.cycle → exec .schWatchdogExpire s = .next (s.sourceReset 2 0)) ∧
    (s.rst.schEn = false ∨ s.dogsRun = false ∨ s.clock.cycle < due → exec .schWatchdogExpire s = .next s)) ∧
  (∀ (s : State), s.rst.phase = 3 → s.dogsRun = true → s.rst.secKick + 2000 * 1250000 ≤ s.clock.cycle →
    exec .secWatchdogExpire s = .next (s.sourceReset 3 0)) ∧
  (∀ (s : State) (period : Half), Gives (.wdtArm period) s fun u => u.rst.schEn = true ∧
    u.rst.schPeriod = (if 10 ≤ period.toNat ∧ period.toNat ≤ 60000 then period.toNat else s.rst.schPeriod) ∧
    (s.rst.schEn = false → u.rst.schKick = s.clock.cycle)) ∧
  (∀ (s : State), exec .wdtKickSch s = .next (s.setRst { s.rst with schKick := s.clock.cycle }) ∧
    exec .wdtKickSec s = .next (s.setRst { s.rst with secKick := s.clock.cycle }) ∧
    exec .keyStoreAccess s = .next (s.sourceReset 7 2) ∧ exec .supplyGlitch s = .next (s.sourceReset 7 3) ∧
    exec .clockGlitch s = .next (s.sourceReset 7 4)) ∧
  (∀ (s : State) sensor, (s.power.tj < 115 → exec (.thermalTrip sensor) s = .next s) ∧
    (∀ k, 115 ≤ s.power.tj → s.power.hotSince = some k → k + 1250000 ≤ s.clock.cycle → Gives (.thermalTrip sensor) s fun u => u.power.thermLow = true ∧ .thermLow ∈ u.out ∧
      u.rst.thermalHold = (u.rst.level == .l0))) ∧
  (∀ (s : State) h level, Accepted s h { role := .admin, legal := allStates, hw := true } →
    let u := heard s h { role := .admin, legal := allStates, hw := true }
    exec (.reset h level) s = .next ((u.reply h true 0 .empty).assertReset 5 (colder level (u.mapLevel 5)) h.session.toNat)) ∧
  (∀ (s : State), s.rst.phase ≤ 1 → s.rst.level = .l0 → s.rst.trimFail = false → s.rst.thermalHold = false → s.rst.pinLow = false →
    s.power.pwrgd = true →
    Gives (.trimLoadAttempt true) s (fun u => u.rst.phase = 2 ∧ u.rst.shadow = s.sec.fuses.options ∧
      ∀ c, c < 12 → (u.ageing c).vdd = s.sec.fuses.options.trimMv) ∧
    (s.rst.loads = 2 → Gives (.trimLoadAttempt false) s (fun u => u.rst.trimFail = true ∧ u.rst.phase = 0)) ∧
    (s.rst.loads < 2 → Gives (.trimLoadAttempt false) s (fun u => u.rst.phase = 1 ∧ u.rst.loads = s.rst.loads + 1))) ∧
  (∀ (s : State) (d : Fin 136), s.rst.phase = 2 → s.power.devLock = true → (stepDomains s.rst.level).contains d.val = true →
    s.rst.held.contains d.val = false →
    (s.rst.level = .l2 → s.powerOf d.val = .retain → Gives (.blockRelease d) s fun u => u.powerOf d.val = .on) ∧
    (s.rst.level ≠ .l2 → s.power.stby = true → s.powerOf d.val = .off → Gives (.blockRelease d) s fun u => u.powerOf d.val = .waking)) ∧
  (∀ (s : State) (d : Fin 136), Gives (.clockStuckTimeout (.domain d)) s fun u => u.rst.held.contains d.val = true ∧ u.powerOf d.val = .off) ∧
  (∀ (s : State), Gives (.clockStuckTimeout .devicePll) s fun u => u.power.devLock = false ∧ u.rst.heldDevice = true) ∧
  (∀ (s : State), Gives (.clockStuckTimeout .radioPll) s fun u => u.rst.heldRadio = true ∧ (∀ d, d ∈ radioHeld → u.rst.held.contains d = true)) ∧
  (∀ (s : State) cp, Gives (.powerOn cp) s fun u => u.host.state = .anchor ∧ u.rst.source = 0 ∧ u.rst.level = .l0 ∧ u.rst.phase = 0 ∧
    u.rst.merged = false ∧ u.power.pwrgd = true ∧ u.power.thermLow = false ∧ u.power.cpRole = cp) ∧
  (∀ (s : State), Gives .pwrgdFall s fun u => u.power.pwrgd = false ∧ u.rst.phase = 0 ∧ u.host.state = .anchor) ∧
  (∀ (s : State), s.rst.phase = 3 → Gives .stbyNRise s fun u => u.power.stby = true ∧
    ∀ d, (117 ≤ d ∧ d ≤ 126 ∨ d = 131) → s.rst.held.contains d = false → s.powerOf d = .off → u.powerOf d = .waking) ∧
  (∀ (s : State), Gives .stbyNFall s fun u => u.host.state = .anchor ∧ u.power.stby = false ∧ (∀ d, u.powerOf d = .off) ∧
    u.sec.keyGen = s.sec.keyGen + 1 ∧ u.sec.fuses = s.sec.fuses ∧ u.sec.regions = .empty ∧ u.sched.graphs = []))

/-- The test access port: each instruction takes its code and captures a value. What IDCODE, RSTREG and the scans capture is the manual's or free; that
HIGHZ, BYPASS and CLAMP capture 0 is presumed, and that an open debug port answers with a free value is the model's choice (log 53). Registers: a
write outside the map is refused; one by a master that may not write is ignored; one in the key-store window is a violation; the cap takes only values
in range; a halt keeps its frame; RELOAD is asked for in three states; a read of LDP_QUEUE starts its peak over. -/
def Obligations.AccessPorts : Prop :=
  (
  ∀ (s : State),
    exec .idcode s = .next (s.tap 0x01 0x1810054F) ∧ exec .highz s = .next (s.tap 0x05 0) ∧ exec .bypass s = .next (s.tap 0xFF 0) ∧
    exec .rstreg s = .next (s.tap 0x10 (fieldsAt [(0, rstCause s), (32, rstStatus s), (64, rstHeld s 0), (128, rstHeld s 1), (192, rstHeld s 2)])) ∧
    (∃ v, v < 2 ^ 3210 ∧ exec .samplePreload s = .next (s.draw.2.tap 0x02 v)) ∧
    (s.host.state = .anchor → (∃ v, v < 2 ^ 3210 ∧ exec .extest s = .next (s.draw.2.tap 0x00 v)) ∧
      (∃ v, v < 2 ^ 3210 ∧ exec .intest s = .next (s.draw.2.tap 0x03 v)) ∧ exec .clamp s = .next (s.tap 0x04 0)) ∧
    (∀ code : Fin 16, s.sec.lifecycle = .opened → ∃ v, exec (.debugAccess code) s = .next (s.draw.2.tap (0x20 + code.val) v))) ∧
  (
  (∀ (s : State) m (addr : Addr) v,
    let off := addr.toNat - regBase
    ((addr.toNat < regBase ∨ addr.toNat % 8 ≠ 0) → exec (.registerWrite m addr false v) s = .next (s.emit (.word "REGISTER_WRITE" 0x0101))) ∧
    (regBase ≤ addr.toNat → off < 0x100000000 → addr.toNat % 8 = 0 → blockOf (off / 0x10000) ≠ .none →
      (keyStoreAt off = true → m ≠ .security → exec (.registerWrite m addr false v) s = .next (s.sourceReset 7 2)) ∧
      (keyStoreAt off = false → mayWrite m off = false → exec (.registerWrite m addr false v) s = .next s))) ∧
  (∀ (s : State) m (v : Dword), (m = .host ∨ m = .power) →
    (25 ≤ v.toNat % 65536 → v.toNat % 65536 ≤ 320 →
      exec (.registerWrite m 0xFF0000020010 false v) s = .next (s.setPower { s.power with cap := v.toNat % 65536 })) ∧
    (v.toNat % 65536 < 25 ∨ 320 < v.toNat % 65536 →
      exec (.registerWrite m 0xFF0000020010 false v) s = .next (s.emit (.word "REGISTER_WRITE" 0x0102)))) ∧
  (∀ (s : State) (v : Dword), exec (.registerWrite .scheduler 0xFF00000E0020 false v) s =
    .next (s.setSched { s.sched with halt := if v.getLsbD 0 then s.sched.halt <|> some s.frameNow else none })) ∧
  (∀ (s : State) (c : ClusterId),
    ((s.host.state = .loaded ∨ s.host.state = .started ∨ s.host.state = .running) →
      exec (.cluReload c) s = .next (s.setCluster c.val { s.cluster c.val with reload := true })) ∧
    ((s.host.state = .anchor ∨ s.host.state = .berm ∨ s.host.state = .faulted) → exec (.cluReload c) s = .next s)) ∧
  (∀ (s : State) (b : Fin 4), Gives (.ldpQueueRead b) s fun u => (u.bank b.val).peak = (s.bank b.val).now ∧
    u.out = s.out ++ [.word "LDP_QUEUE" (ldpReg s b.val 0x18)]))

/-- Boundary scan acts in every state; outside ANCHOR what EXTEST, INTEST and CLAMP do is what BYPASS does; a sealed device takes any other access at the
debug port for a security violation, and answers nothing. -/
def Obligations.BoundaryScan : Prop :=
  ∀ (s : State),
    (∀ c, c ∈ [Instr.extest, .samplePreload, .intest, .clamp, .highz, .bypass, .idcode] → ∃ t, exec c s = .next t) ∧
    (s.host.state = .anchor → ∀ c n, (c, n) ∈ [(Instr.extest, 0x00), (.intest, 0x03), (.clamp, 0x04)] →
      ∃ t, exec c s = .next t ∧ t.port.code = n) ∧
    (s.host.state ≠ .anchor → ∀ c, c ∈ [Instr.extest, .intest, .clamp] → exec c s = exec .bypass s) ∧
    (s.sec.lifecycle = .sealed → ∀ code : Fin 16, exec (.debugAccess code) s = .next (s.sourceReset 7 1))

/-- Ports: a frame of no domain is counted; a whole inference input is written at its address inside the inference domain; a lost link drops what was
incomplete; a link comes up in its mode; MKA sets protection; the port answers for its own address alone. -/
def Obligations.PortFrames : Prop :=
  (∀ (s : State) (p : Fin 8) (f : NpFrame), (s.netPort p.val).up = true → s.capture.replay = none → s.frameDomain f = none →
    exec (.npFrameReceive p f) s = .next (s.modPort p.val fun x => { x with unclassified := bump top32 x.unclassified })) ∧
  (∀ (s : State) (p : Fin 8) (f : NpFrame) (g : AqmorSeg),
    let a := leNat (g.data.take 8)
    let rest := g.data.drop 8
    (s.netPort p.val).up = true → s.capture.replay = none → s.capture.on = false → s.frameDomain f = some .inference → f.kind = .aqmor g →
    g.inf = true → segOk g = true → g.first = true → g.last = true → g.type = 7 → (s.netPort p.val).reasmInf = none → 8 ≤ g.data.length →
    (s.extRange a rest.length = true → s.domainOk .inference a rest.length = true →
      Gives (.npFrameReceive p f) s fun u => u.mem = (s.extWrite a rest).mem ∧ u.net.lastInf = some p.val ∧
        (u.netPort p.val).peerInf = some f.sender) ∧
    (s.domainOk .inference a rest.length = false → Gives (.npFrameReceive p f) s fun u => u.mem = s.mem ∧
      (u.netPort p.val).dropDomain = bump top32 (s.netPort p.val).dropDomain)) ∧
  (∀ (s : State) (p : Fin 10), Gives (.portLinkLoss p) s fun u => (u.netPort p.val).up = false ∧ (u.netPort p.val).macsec = false ∧
    (u.netPort p.val).reasmTb = none ∧ (u.netPort p.val).reasmInf = none) ∧
  (∀ (s : State) (p : Fin 10), (s.portMode p.val ≠ 0 → Gives (.portLinkUp p) s fun u => (u.netPort p.val).up = true ∧
      (u.netPort p.val).mode = s.portMode p.val) ∧ (s.portMode p.val = 0 → exec (.portLinkUp p) s = .next s)) ∧
  (∀ (s : State) (p : Fin 2) cak, (s.netPort (8 + p.val)).up = true →
    Gives (.mkaExchange p cak) s fun u => (u.netPort (8 + p.val)).macsec = (cak == Config.cak p.val) ∧
      u.out = s.out ++ [.frame (8 + p.val) (.mka (serialBytes s ++ [BitVec.ofNat 8 p.val]))]) ∧
  (∀ (s : State) (p : Fin 2) v6 target,
    let own := if v6 then linkLocal6 s (8 + p.val) else linkLocal4 s
    ((s.netPort (8 + p.val)).up = true → target = own →
      exec (.arpNdReply p v6 target) s = .next (s.emit (.frame (8 + p.val) (.arp v6 (macOf s (8 + p.val)) own)))) ∧
    (target ≠ own → exec (.arpNdReply p v6 target) s = .next s))

/-! ## Memory, reset values, the machine as a whole -/

/-- A write of external memory, whatever keys its units had, reads back, and no other byte changes; zeros written over whole units read as zeros; both
keep the canonical form. What a byte that nothing has written reads as is the model's choice (log 3). -/
def Obligations.MemoryWrites : Prop :=
  (∀ (s : State) a bs, s.mergeBad a bs.length = false →
    let u := s.extWrite a bs
    (∀ i b, bs[i]? = some b → u.extByte (a + i) = b) ∧ (∀ x, (x < a ∨ a + bs.length ≤ x) → u.extByte x = s.extByte x) ∧
    (s.memWf = true → u.memWf = true)) ∧
  (∀ (s : State) a n, a % 64 = 0 → n % 64 = 0 →
    let u := s.extZero a n
    (∀ x, a ≤ x → x < a + n → u.extByte x = 0) ∧ (∀ x, (x < a ∨ a + n ≤ x) → u.extByte x = s.extByte x) ∧ (s.memWf = true → u.memWf = true))

/-- The machine right after reset, where the rules give the values; its external memory is in canonical form. -/
def Obligations.ResetValues : Prop :=
  let s := State.reset
  s.host.state = .anchor ∧ s.pending = [] ∧ s.time.state = .free ∧ s.time.clockClass = 248 ∧ s.power.cap = 320 ∧ s.power.tHot = 105 ∧
  s.power.tCrit = 110 ∧ s.power.guardMv = 15 ∧ s.power.tempDelta = 20 ∧ s.power.retainAfter = 0x1000 ∧ s.power.offAfter = 0x01000000 ∧
  s.rst.schPeriod = 1000 ∧ s.assured.state = .off ∧ s.events.count = 0 ∧ (∀ d, s.powerOf d = .off) ∧ (∀ i, (s.region i).domain = 3) ∧
  (∀ n, (s.sem n).count = 0 ∧ (s.sem n).claim = none) ∧ (∀ t, (s.tile t).state = .idle ∧ (s.tile t).domain = .radio) ∧ s.memWf = true

/-- Every step keeps the canonical form of external memory, in every state that has it. The form is the model's own (log 3). -/
def Obligations.StepSound : Prop := ∀ (s t : State), s.memWf = true → step s = .next t → t.memWf = true

/-- No command changes the queue of the commands that wait behind it. -/
def Obligations.QueueFrame : Prop := ∀ (c : Instr) (s t : State), exec c s = .next t → t.pending = s.pending

/-- The frame of every command, part by part: what is not among the parts it may change is as before. -/
def Obligations.BlockFrames : Prop := ∀ (c : Instr) (s t : State) (p : Part), exec c s = .next t → p ∉ mayChange c → p.same s t
end

