-- ==== Sys2Proof/Laws/Issue.lean ====
section
/-! SUPPORT. What issuing an operation of a tile's program can do (11 R244–R246, R260): the specification of `runOp`. -/
namespace Sys2Proof.Machine

/-- Where an operation issues, `runOp` settles its effect on the bundle it joins or begins. -/
theorem runOp_issues {s : State} {i : Issue} {slot : Slot} {op : State → Nat → OpRes} (h : issues s i slot = true) :
    runOp s i slot op = settle (begun s i slot) i.tile.val slot (op (begun s i slot) i.tile.val) := by
  unfold runOp
  simp only []
  by_cases hj : (i.joint && !(s.tile i.tile.val).slots.isEmpty) = true
  · have hl : lead s i = s := by simp only [lead, joins, hj, if_true]
    have hj' : joins s i = true := hj
    simp only [issues, hj', hl, if_true, Bool.and_eq_true, Option.isNone_iff_eq_none] at h
    obtain ⟨h1, ⟨h2, h3⟩, h4⟩ := h
    rw [if_pos hj]
    simp only [Bool.and_eq_true] at hj
    have h5 : (i.joint && ((s.tile i.tile.val).hold.isSome || !(s.tile i.tile.val).slots.isEmpty)) = true := by simp [hj.1, hj.2]
    have h6 : ((s.tile i.tile.val).hold.isSome || !(s.tile i.tile.val).slots.all fun k => slotCode k < slotCode slot) = false := by
      rw [h3, h4]; rfl
    rw [if_neg (by simp [h2]), if_pos h5, if_neg (by rw [h6]; exact Bool.false_ne_true), if_neg (by simp [h1])]
    simp [begun, hj', hl]
  · have hl : lead s i = s.flushStats i.tile.val := by simp only [lead, joins, hj]; rfl
    have hj' : joins s i = false := by simpa [joins] using hj
    rw [if_neg hj, ← hl]
    simp only [issues, hj', Bool.false_eq_true, if_false] at h
    rw [Bool.and_eq_true, Bool.and_eq_true, Bool.and_eq_true, beq_iff_eq, Option.isNone_iff_eq_none, decide_eq_true_eq] at h
    obtain ⟨h2, ⟨h1, h3⟩, h4⟩ := h
    have h5 : ¬ (i.joint && (((lead s i).tile i.tile.val).hold.isSome || !((lead s i).tile i.tile.val).slots.isEmpty)) = true := by
      rw [Bool.not_eq_true'] at h3; rw [h3]; exact Bool.false_ne_true
    rw [if_neg (by simp [bundleOpen, h1]), if_neg h5, if_neg (by simp [h1, h2]), if_neg (by omega)]
    simp [begun, hj']

/-- An operation that issues and is done. -/
theorem runOp_ok {s s1 : State} {i : Issue} {slot : Slot} {op : State → Nat → OpRes} (h : issues s i slot = true)
    (ho : op (begun s i slot) i.tile.val = .ok s1) : runOp s i slot op = ended s1 i := by
  rw [runOp_issues h, ho]; rfl

/-- An operation that issues and faults at issue ends its task, the bundle without effect. -/
theorem runOp_fault {s : State} {i : Issue} {slot : Slot} {op : State → Nat → OpRes} {c : Half} (h : issues s i slot = true)
    (ho : op (begun s i slot) i.tile.val = .fault c) (hc : c ≠ Code.til 0x60) :
    runOp s i slot op = (begun s i slot).taskFault i.tile.val c (slotCode slot) true := by
  rw [runOp_issues h, ho]; simp [settle, hc]

/-- On a tile that takes no more of its bundle, an operation that would join one has no effect. -/
theorem runOp_idle {s : State} {i : Issue} {slot : Slot} {op : State → Nat → OpRes} (hj : joins s i = true)
    (h : bundleOpen (s.tile i.tile.val) = false) : runOp s i slot op = s := by
  unfold joins at hj
  simp [runOp, hj, h]

end Sys2Proof.Machine
end

