-- ==== Sys2Proof/Laws/Table.lean ====
section
/-! SUPPORT. Laws of tables: reads after writes, and the canonical form that every operation keeps. -/
namespace Sys2Proof.Table

variable {α : Type}

/-! ## Canonical lists -/

theorem okFrom_le [DecidableEq α] {d : α} {lo lo' : Nat} (h : lo' ≤ lo) :
    ∀ {l : List (Nat × α)}, okFrom d lo l = true → okFrom d lo' l = true := by
  intro l
  cases l with
  | nil => intro _; rfl
  | cons e r =>
    obtain ⟨k, v⟩ := e
    simp only [okFrom, Bool.and_eq_true, decide_eq_true_eq]
    rintro ⟨⟨h1, h2⟩, h3⟩
    exact ⟨⟨Nat.le_trans h h1, h2⟩, h3⟩

/-- Insertion keeps the form from any bound the key respects. -/
theorem okFrom_put [DecidableEq α] {d : α} {k : Nat} {v : α} (hv : v ≠ d) :
    ∀ {l : List (Nat × α)} {lo : Nat}, lo ≤ k → (∀ e ∈ l, e.1 ≠ k) → okFrom d lo l = true → okFrom d lo (put k v l) = true := by
  intro l
  induction l with
  | nil => intro lo h _ _; simp [put, okFrom, h, hv]
  | cons e r ih =>
    obtain ⟨k', v'⟩ := e
    intro lo h hk ho
    simp only [okFrom, Bool.and_eq_true, decide_eq_true_eq] at ho
    obtain ⟨⟨h1, h2⟩, h3⟩ := ho
    have hne : k' ≠ k := hk _ (List.mem_cons_self ..)
    simp only [put]
    split
    · simp only [okFrom, Bool.and_eq_true, decide_eq_true_eq]
      exact ⟨⟨h, hv⟩, ⟨by omega, h2⟩, h3⟩
    · simp only [okFrom, Bool.and_eq_true, decide_eq_true_eq]
      exact ⟨⟨h1, h2⟩, ih (by omega) (fun e he => hk e (List.mem_cons_of_mem _ he)) h3⟩

theorem okFrom_filter [DecidableEq α] {d : α} (p : Nat × α → Bool) :
    ∀ {l : List (Nat × α)} {lo : Nat}, okFrom d lo l = true → okFrom d lo (l.filter p) = true := by
  intro l
  induction l with
  | nil => intro _ _; rfl
  | cons e r ih =>
    obtain ⟨k, v⟩ := e
    intro lo ho
    simp only [okFrom, Bool.and_eq_true, decide_eq_true_eq] at ho
    obtain ⟨⟨h1, h2⟩, h3⟩ := ho
    simp only [List.filter]
    split
    · simp only [okFrom, Bool.and_eq_true, decide_eq_true_eq]; exact ⟨⟨h1, h2⟩, ih h3⟩
    · exact okFrom_le (by omega) (ih h3)

/-! ## The form is kept -/

@[simp] theorem wf_empty [DecidableEq α] (d : α) : (empty : Table α).wf d = true := rfl

theorem not_mem_without {k : Nat} {l : List (Nat × α)} : ∀ e ∈ without k l, e.1 ≠ k := by
  intro e he
  simpa using (List.mem_filter.1 he).2

@[simp] theorem wf_set [DecidableEq α] {t : Table α} {d : α} (h : t.wf d = true) (k : Nat) (v : α) :
    (t.set d k v).wf d = true := by
  simp only [wf, set]
  split
  · exact okFrom_filter _ h
  · exact okFrom_put ‹_› (Nat.zero_le k) not_mem_without (okFrom_filter _ h)

@[simp] theorem wf_clearRange [DecidableEq α] {t : Table α} {d : α} (h : t.wf d = true) (lo hi : Nat) :
    (t.clearRange lo hi).wf d = true := okFrom_filter _ h

@[simp] theorem wf_mapTo [DecidableEq α] (t : Table α) (d : α) (f : α → α) : (t.mapTo d f).wf d = true := by
  unfold mapTo
  induction t.entries with
  | nil => rfl
  | cons e r ih => exact wf_set ih _ _

/-- A fold of writes keeps the form. -/
theorem wf_foldl_set [DecidableEq α] {β : Type} {d : α} (k : β → Nat) (v : β → α) :
    ∀ (l : List β) {t : Table α}, t.wf d = true → (l.foldl (fun t e => t.set d (k e) (v e)) t).wf d = true := by
  intro l
  induction l with
  | nil => intro t h; exact h
  | cons e r ih => intro t h; exact ih (wf_set h _ _)

/-! ## Reads after writes -/

theorem look_without_self {k : Nat} : ∀ (l : List (Nat × α)), look k (without k l) = none := by
  intro l
  induction l with
  | nil => rfl
  | cons e r ih =>
    obtain ⟨k', v'⟩ := e
    by_cases h : k' = k
    · simpa [without, List.filter, h] using ih
    · simpa [without, List.filter, h, look, Ne.symm h] using ih

theorem look_without_ne {k j : Nat} (h : j ≠ k) : ∀ (l : List (Nat × α)), look j (without k l) = look j l := by
  intro l
  induction l with
  | nil => rfl
  | cons e r ih =>
    obtain ⟨k', v'⟩ := e
    by_cases hk : k' = k
    · subst hk; simpa [without, List.filter, look, h] using ih
    · by_cases hj : j = k'
      · simp [without, List.filter, hk, look, hj]
      · simpa [without, List.filter, hk, look, hj] using ih

theorem look_put_ne {k j : Nat} {v : α} (h : j ≠ k) : ∀ (l : List (Nat × α)), look j (put k v l) = look j l := by
  intro l
  induction l with
  | nil => simp [put, look, h]
  | cons e r ih =>
    obtain ⟨k', v'⟩ := e
    simp only [put]
    split
    · simp [look, h]
    · simp [look, ih]

theorem look_put_self {k : Nat} {v : α} : ∀ (l : List (Nat × α)), (∀ e ∈ l, e.1 ≠ k) → look k (put k v l) = some v := by
  intro l
  induction l with
  | nil => intro _; simp [put, look]
  | cons e r ih =>
    obtain ⟨k', v'⟩ := e
    intro h
    have hne : k ≠ k' := Ne.symm (h _ (List.mem_cons_self ..))
    simp only [put]
    split
    · simp [look]
    · simpa [look, hne] using ih fun e he => h e (List.mem_cons_of_mem _ he)

/-- Writing one key leaves every other key's value. -/
@[simp] theorem get_set_ne [DecidableEq α] {t : Table α} {d : α} {k j : Nat} {v : α} (h : j ≠ k) :
    (t.set d k v).get d j = t.get d j := by
  simp only [get, find, set]
  split
  · rw [look_without_ne h]
  · rw [look_put_ne h, look_without_ne h]

/-- Whatever was written reads back, in any table. -/
@[simp] theorem get_set [DecidableEq α] {t : Table α} {d : α} {k : Nat} {v : α} : (t.set d k v).get d k = v := by
  simp only [get, find, set]
  split
  · subst_vars; rw [look_without_self]; rfl
  · rw [look_put_self _ not_mem_without]; rfl

theorem without_put {k : Nat} {v : α} : ∀ (l : List (Nat × α)), without k (put k v l) = without k l := by
  intro l
  induction l with
  | nil => simp [put, without]
  | cons e r ih =>
    obtain ⟨k', v'⟩ := e
    simp only [put]
    split
    · simp [without]
    · by_cases h : k' = k
      · simpa [without, List.filter, h] using ih
      · simpa [without, List.filter, h] using ih

theorem without_without {k : Nat} (l : List (Nat × α)) : without k (without k l) = without k l := by
  simp [without, List.filter_filter]

/-- The later of two writes of a key stands, in any table. -/
@[simp] theorem set_set [DecidableEq α] {t : Table α} {d : α} {k : Nat} {v w : α} : (t.set d k v).set d k w = t.set d k w := by
  have h : without k (if v = d then without k t.entries else put k v (without k t.entries)) = without k t.entries := by
    split
    · exact without_without _
    · rw [without_put, without_without]
  simp only [set, h]

/-- A change of every listed value that leaves the default alone is seen at every key. -/
@[simp] theorem get_mapTo [DecidableEq α] {t : Table α} {d : α} {f : α → α} (hf : f d = d) (k : Nat) :
    (t.mapTo d f).get d k = f (t.get d k) := by
  have h : ∀ l : List (Nat × α), (l.foldr (fun e a => a.set d e.1 (f e.2)) (empty : Table α)).get d k = f ((look k l).getD d) := by
    intro l
    induction l with
    | nil => simp [look, get, find, empty, hf]
    | cons e r ih =>
      obtain ⟨k', v⟩ := e
      by_cases hk : k = k'
      · subst hk; simp [look]
      · simp [look, hk, ih]
  exact h t.entries

@[simp] theorem get_empty (d : α) (k : Nat) : (empty : Table α).get d k = d := rfl

end Sys2Proof.Table
end

