-- ==== Sys2Proof/Laws/State.lean ====
section
/-! SUPPORT. What each update of the state leaves alone: one lemma per field and update, and the reads of the units after it. -/
namespace Sys2Proof.Machine

/-! ## setRadio -/

@[simp] theorem State.setRadio_radio (s : State) (x : Radio) : (s.setRadio x).radio = x := rfl
@[simp] theorem State.setRadio_pending (s : State) (x : Radio) : (s.setRadio x).pending = s.pending := rfl
@[simp] theorem State.setRadio_clock (s : State) (x : Radio) : (s.setRadio x).clock = s.clock := rfl
@[simp] theorem State.setRadio_out (s : State) (x : Radio) : (s.setRadio x).out = s.out := rfl
@[simp] theorem State.setRadio_events (s : State) (x : Radio) : (s.setRadio x).events = s.events := rfl
@[simp] theorem State.setRadio_host (s : State) (x : Radio) : (s.setRadio x).host = s.host := rfl
@[simp] theorem State.setRadio_time (s : State) (x : Radio) : (s.setRadio x).time = s.time := rfl
@[simp] theorem State.setRadio_sweep (s : State) (x : Radio) : (s.setRadio x).sweep = s.sweep := rfl
@[simp] theorem State.setRadio_adapt (s : State) (x : Radio) : (s.setRadio x).adapt = s.adapt := rfl
@[simp] theorem State.setRadio_tiles (s : State) (x : Radio) : (s.setRadio x).tiles = s.tiles := rfl
@[simp] theorem State.setRadio_clusters (s : State) (x : Radio) : (s.setRadio x).clusters = s.clusters := rfl
@[simp] theorem State.setRadio_csps (s : State) (x : Radio) : (s.setRadio x).csps = s.csps := rfl
@[simp] theorem State.setRadio_mem (s : State) (x : Radio) : (s.setRadio x).mem = s.mem := rfl
@[simp] theorem State.setRadio_wcache (s : State) (x : Radio) : (s.setRadio x).wcache = s.wcache := rfl
@[simp] theorem State.setRadio_sched (s : State) (x : Radio) : (s.setRadio x).sched = s.sched := rfl
@[simp] theorem State.setRadio_array (s : State) (x : Radio) : (s.setRadio x).array = s.array := rfl
@[simp] theorem State.setRadio_capture (s : State) (x : Radio) : (s.setRadio x).capture = s.capture := rfl
@[simp] theorem State.setRadio_assured (s : State) (x : Radio) : (s.setRadio x).assured = s.assured := rfl
@[simp] theorem State.setRadio_sec (s : State) (x : Radio) : (s.setRadio x).sec = s.sec := rfl
@[simp] theorem State.setRadio_power (s : State) (x : Radio) : (s.setRadio x).power = s.power := rfl
@[simp] theorem State.setRadio_rst (s : State) (x : Radio) : (s.setRadio x).rst = s.rst := rfl
@[simp] theorem State.setRadio_net (s : State) (x : Radio) : (s.setRadio x).net = s.net := rfl
@[simp] theorem State.setRadio_port (s : State) (x : Radio) : (s.setRadio x).port = s.port := rfl
@[simp] theorem State.setRadio_free (s : State) (x : Radio) : (s.setRadio x).free = s.free := rfl
@[simp] theorem State.setRadio_tile (s : State) (x : Radio) (m : Nat) : (s.setRadio x).tile m = s.tile m := rfl
@[simp] theorem State.setRadio_cluster (s : State) (x : Radio) (m : Nat) : (s.setRadio x).cluster m = s.cluster m := rfl
@[simp] theorem State.setRadio_csp (s : State) (x : Radio) (m : Nat) : (s.setRadio x).csp m = s.csp m := rfl
@[simp] theorem State.setRadio_chan (s : State) (x : Radio) (m : Nat) : (s.setRadio x).chan m = s.chan m := rfl
@[simp] theorem State.setRadio_ctx (s : State) (x : Radio) (m : Nat) : (s.setRadio x).ctx m = s.ctx m := rfl
@[simp] theorem State.setRadio_aset (s : State) (x : Radio) (m : Nat) : (s.setRadio x).aset m = s.aset m := rfl
@[simp] theorem State.setRadio_netPort (s : State) (x : Radio) (m : Nat) : (s.setRadio x).netPort m = s.netPort m := rfl
@[simp] theorem State.setRadio_sem (s : State) (x : Radio) (m : Nat) : (s.setRadio x).sem m = s.sem m := rfl
@[simp] theorem State.setRadio_powerOf (s : State) (x : Radio) (m : Nat) : (s.setRadio x).powerOf m = s.powerOf m := rfl

/-! ## setSweep -/

@[simp] theorem State.setSweep_sweep (s : State) (x : Sweep) : (s.setSweep x).sweep = x := rfl
@[simp] theorem State.setSweep_pending (s : State) (x : Sweep) : (s.setSweep x).pending = s.pending := rfl
@[simp] theorem State.setSweep_clock (s : State) (x : Sweep) : (s.setSweep x).clock = s.clock := rfl
@[simp] theorem State.setSweep_out (s : State) (x : Sweep) : (s.setSweep x).out = s.out := rfl
@[simp] theorem State.setSweep_events (s : State) (x : Sweep) : (s.setSweep x).events = s.events := rfl
@[simp] theorem State.setSweep_host (s : State) (x : Sweep) : (s.setSweep x).host = s.host := rfl
@[simp] theorem State.setSweep_time (s : State) (x : Sweep) : (s.setSweep x).time = s.time := rfl
@[simp] theorem State.setSweep_radio (s : State) (x : Sweep) : (s.setSweep x).radio = s.radio := rfl
@[simp] theorem State.setSweep_adapt (s : State) (x : Sweep) : (s.setSweep x).adapt = s.adapt := rfl
@[simp] theorem State.setSweep_tiles (s : State) (x : Sweep) : (s.setSweep x).tiles = s.tiles := rfl
@[simp] theorem State.setSweep_clusters (s : State) (x : Sweep) : (s.setSweep x).clusters = s.clusters := rfl
@[simp] theorem State.setSweep_csps (s : State) (x : Sweep) : (s.setSweep x).csps = s.csps := rfl
@[simp] theorem State.setSweep_mem (s : State) (x : Sweep) : (s.setSweep x).mem = s.mem := rfl
@[simp] theorem State.setSweep_wcache (s : State) (x : Sweep) : (s.setSweep x).wcache = s.wcache := rfl
@[simp] theorem State.setSweep_sched (s : State) (x : Sweep) : (s.setSweep x).sched = s.sched := rfl
@[simp] theorem State.setSweep_array (s : State) (x : Sweep) : (s.setSweep x).array = s.array := rfl
@[simp] theorem State.setSweep_capture (s : State) (x : Sweep) : (s.setSweep x).capture = s.capture := rfl
@[simp] theorem State.setSweep_assured (s : State) (x : Sweep) : (s.setSweep x).assured = s.assured := rfl
@[simp] theorem State.setSweep_sec (s : State) (x : Sweep) : (s.setSweep x).sec = s.sec := rfl
@[simp] theorem State.setSweep_power (s : State) (x : Sweep) : (s.setSweep x).power = s.power := rfl
@[simp] theorem State.setSweep_rst (s : State) (x : Sweep) : (s.setSweep x).rst = s.rst := rfl
@[simp] theorem State.setSweep_net (s : State) (x : Sweep) : (s.setSweep x).net = s.net := rfl
@[simp] theorem State.setSweep_port (s : State) (x : Sweep) : (s.setSweep x).port = s.port := rfl
@[simp] theorem State.setSweep_free (s : State) (x : Sweep) : (s.setSweep x).free = s.free := rfl
@[simp] theorem State.setSweep_tile (s : State) (x : Sweep) (m : Nat) : (s.setSweep x).tile m = s.tile m := rfl
@[simp] theorem State.setSweep_cluster (s : State) (x : Sweep) (m : Nat) : (s.setSweep x).cluster m = s.cluster m := rfl
@[simp] theorem State.setSweep_csp (s : State) (x : Sweep) (m : Nat) : (s.setSweep x).csp m = s.csp m := rfl
@[simp] theorem State.setSweep_cell (s : State) (x : Sweep) (m : Nat) : (s.setSweep x).cell m = s.cell m := rfl
@[simp] theorem State.setSweep_user (s : State) (x : Sweep) (m : Nat) : (s.setSweep x).user m = s.user m := rfl
@[simp] theorem State.setSweep_bank (s : State) (x : Sweep) (m : Nat) : (s.setSweep x).bank m = s.bank m := rfl
@[simp] theorem State.setSweep_aset (s : State) (x : Sweep) (m : Nat) : (s.setSweep x).aset m = s.aset m := rfl
@[simp] theorem State.setSweep_netPort (s : State) (x : Sweep) (m : Nat) : (s.setSweep x).netPort m = s.netPort m := rfl
@[simp] theorem State.setSweep_sem (s : State) (x : Sweep) (m : Nat) : (s.setSweep x).sem m = s.sem m := rfl
@[simp] theorem State.setSweep_powerOf (s : State) (x : Sweep) (m : Nat) : (s.setSweep x).powerOf m = s.powerOf m := rfl

/-! ## setHost -/

@[simp] theorem State.setHost_host (s : State) (x : HostPort) : (s.setHost x).host = x := rfl
@[simp] theorem State.setHost_pending (s : State) (x : HostPort) : (s.setHost x).pending = s.pending := rfl
@[simp] theorem State.setHost_clock (s : State) (x : HostPort) : (s.setHost x).clock = s.clock := rfl
@[simp] theorem State.setHost_out (s : State) (x : HostPort) : (s.setHost x).out = s.out := rfl
@[simp] theorem State.setHost_events (s : State) (x : HostPort) : (s.setHost x).events = s.events := rfl
@[simp] theorem State.setHost_time (s : State) (x : HostPort) : (s.setHost x).time = s.time := rfl
@[simp] theorem State.setHost_radio (s : State) (x : HostPort) : (s.setHost x).radio = s.radio := rfl
@[simp] theorem State.setHost_sweep (s : State) (x : HostPort) : (s.setHost x).sweep = s.sweep := rfl
@[simp] theorem State.setHost_adapt (s : State) (x : HostPort) : (s.setHost x).adapt = s.adapt := rfl
@[simp] theorem State.setHost_tiles (s : State) (x : HostPort) : (s.setHost x).tiles = s.tiles := rfl
@[simp] theorem State.setHost_clusters (s : State) (x : HostPort) : (s.setHost x).clusters = s.clusters := rfl
@[simp] theorem State.setHost_csps (s : State) (x : HostPort) : (s.setHost x).csps = s.csps := rfl
@[simp] theorem State.setHost_mem (s : State) (x : HostPort) : (s.setHost x).mem = s.mem := rfl
@[simp] theorem State.setHost_wcache (s : State) (x : HostPort) : (s.setHost x).wcache = s.wcache := rfl
@[simp] theorem State.setHost_sched (s : State) (x : HostPort) : (s.setHost x).sched = s.sched := rfl
@[simp] theorem State.setHost_array (s : State) (x : HostPort) : (s.setHost x).array = s.array := rfl
@[simp] theorem State.setHost_capture (s : State) (x : HostPort) : (s.setHost x).capture = s.capture := rfl
@[simp] theorem State.setHost_assured (s : State) (x : HostPort) : (s.setHost x).assured = s.assured := rfl
@[simp] theorem State.setHost_sec (s : State) (x : HostPort) : (s.setHost x).sec = s.sec := rfl
@[simp] theorem State.setHost_power (s : State) (x : HostPort) : (s.setHost x).power = s.power := rfl
@[simp] theorem State.setHost_rst (s : State) (x : HostPort) : (s.setHost x).rst = s.rst := rfl
@[simp] theorem State.setHost_net (s : State) (x : HostPort) : (s.setHost x).net = s.net := rfl
@[simp] theorem State.setHost_port (s : State) (x : HostPort) : (s.setHost x).port = s.port := rfl
@[simp] theorem State.setHost_free (s : State) (x : HostPort) : (s.setHost x).free = s.free := rfl
@[simp] theorem State.setHost_tile (s : State) (x : HostPort) (m : Nat) : (s.setHost x).tile m = s.tile m := rfl
@[simp] theorem State.setHost_cluster (s : State) (x : HostPort) (m : Nat) : (s.setHost x).cluster m = s.cluster m := rfl
@[simp] theorem State.setHost_csp (s : State) (x : HostPort) (m : Nat) : (s.setHost x).csp m = s.csp m := rfl
@[simp] theorem State.setHost_cell (s : State) (x : HostPort) (m : Nat) : (s.setHost x).cell m = s.cell m := rfl
@[simp] theorem State.setHost_user (s : State) (x : HostPort) (m : Nat) : (s.setHost x).user m = s.user m := rfl
@[simp] theorem State.setHost_bank (s : State) (x : HostPort) (m : Nat) : (s.setHost x).bank m = s.bank m := rfl
@[simp] theorem State.setHost_chan (s : State) (x : HostPort) (m : Nat) : (s.setHost x).chan m = s.chan m := rfl
@[simp] theorem State.setHost_ctx (s : State) (x : HostPort) (m : Nat) : (s.setHost x).ctx m = s.ctx m := rfl
@[simp] theorem State.setHost_aset (s : State) (x : HostPort) (m : Nat) : (s.setHost x).aset m = s.aset m := rfl
@[simp] theorem State.setHost_netPort (s : State) (x : HostPort) (m : Nat) : (s.setHost x).netPort m = s.netPort m := rfl
@[simp] theorem State.setHost_sem (s : State) (x : HostPort) (m : Nat) : (s.setHost x).sem m = s.sem m := rfl
@[simp] theorem State.setHost_powerOf (s : State) (x : HostPort) (m : Nat) : (s.setHost x).powerOf m = s.powerOf m := rfl

/-! ## setTime -/

@[simp] theorem State.setTime_time (s : State) (x : TimeUnit) : (s.setTime x).time = x := rfl
@[simp] theorem State.setTime_pending (s : State) (x : TimeUnit) : (s.setTime x).pending = s.pending := rfl
@[simp] theorem State.setTime_clock (s : State) (x : TimeUnit) : (s.setTime x).clock = s.clock := rfl
@[simp] theorem State.setTime_out (s : State) (x : TimeUnit) : (s.setTime x).out = s.out := rfl
@[simp] theorem State.setTime_events (s : State) (x : TimeUnit) : (s.setTime x).events = s.events := rfl
@[simp] theorem State.setTime_host (s : State) (x : TimeUnit) : (s.setTime x).host = s.host := rfl
@[simp] theorem State.setTime_radio (s : State) (x : TimeUnit) : (s.setTime x).radio = s.radio := rfl
@[simp] theorem State.setTime_sweep (s : State) (x : TimeUnit) : (s.setTime x).sweep = s.sweep := rfl
@[simp] theorem State.setTime_adapt (s : State) (x : TimeUnit) : (s.setTime x).adapt = s.adapt := rfl
@[simp] theorem State.setTime_tiles (s : State) (x : TimeUnit) : (s.setTime x).tiles = s.tiles := rfl
@[simp] theorem State.setTime_clusters (s : State) (x : TimeUnit) : (s.setTime x).clusters = s.clusters := rfl
@[simp] theorem State.setTime_csps (s : State) (x : TimeUnit) : (s.setTime x).csps = s.csps := rfl
@[simp] theorem State.setTime_mem (s : State) (x : TimeUnit) : (s.setTime x).mem = s.mem := rfl
@[simp] theorem State.setTime_wcache (s : State) (x : TimeUnit) : (s.setTime x).wcache = s.wcache := rfl
@[simp] theorem State.setTime_sched (s : State) (x : TimeUnit) : (s.setTime x).sched = s.sched := rfl
@[simp] theorem State.setTime_array (s : State) (x : TimeUnit) : (s.setTime x).array = s.array := rfl
@[simp] theorem State.setTime_capture (s : State) (x : TimeUnit) : (s.setTime x).capture = s.capture := rfl
@[simp] theorem State.setTime_assured (s : State) (x : TimeUnit) : (s.setTime x).assured = s.assured := rfl
@[simp] theorem State.setTime_sec (s : State) (x : TimeUnit) : (s.setTime x).sec = s.sec := rfl
@[simp] theorem State.setTime_power (s : State) (x : TimeUnit) : (s.setTime x).power = s.power := rfl
@[simp] theorem State.setTime_rst (s : State) (x : TimeUnit) : (s.setTime x).rst = s.rst := rfl
@[simp] theorem State.setTime_net (s : State) (x : TimeUnit) : (s.setTime x).net = s.net := rfl
@[simp] theorem State.setTime_port (s : State) (x : TimeUnit) : (s.setTime x).port = s.port := rfl
@[simp] theorem State.setTime_free (s : State) (x : TimeUnit) : (s.setTime x).free = s.free := rfl
@[simp] theorem State.setTime_tile (s : State) (x : TimeUnit) (m : Nat) : (s.setTime x).tile m = s.tile m := rfl
@[simp] theorem State.setTime_cluster (s : State) (x : TimeUnit) (m : Nat) : (s.setTime x).cluster m = s.cluster m := rfl
@[simp] theorem State.setTime_csp (s : State) (x : TimeUnit) (m : Nat) : (s.setTime x).csp m = s.csp m := rfl
@[simp] theorem State.setTime_cell (s : State) (x : TimeUnit) (m : Nat) : (s.setTime x).cell m = s.cell m := rfl
@[simp] theorem State.setTime_user (s : State) (x : TimeUnit) (m : Nat) : (s.setTime x).user m = s.user m := rfl
@[simp] theorem State.setTime_bank (s : State) (x : TimeUnit) (m : Nat) : (s.setTime x).bank m = s.bank m := rfl
@[simp] theorem State.setTime_chan (s : State) (x : TimeUnit) (m : Nat) : (s.setTime x).chan m = s.chan m := rfl
@[simp] theorem State.setTime_ctx (s : State) (x : TimeUnit) (m : Nat) : (s.setTime x).ctx m = s.ctx m := rfl
@[simp] theorem State.setTime_aset (s : State) (x : TimeUnit) (m : Nat) : (s.setTime x).aset m = s.aset m := rfl
@[simp] theorem State.setTime_netPort (s : State) (x : TimeUnit) (m : Nat) : (s.setTime x).netPort m = s.netPort m := rfl
@[simp] theorem State.setTime_sem (s : State) (x : TimeUnit) (m : Nat) : (s.setTime x).sem m = s.sem m := rfl
@[simp] theorem State.setTime_powerOf (s : State) (x : TimeUnit) (m : Nat) : (s.setTime x).powerOf m = s.powerOf m := rfl

/-! ## setMem -/

@[simp] theorem State.setMem_mem (s : State) (x : ExtMem) : (s.setMem x).mem = x := rfl
@[simp] theorem State.setMem_pending (s : State) (x : ExtMem) : (s.setMem x).pending = s.pending := rfl
@[simp] theorem State.setMem_clock (s : State) (x : ExtMem) : (s.setMem x).clock = s.clock := rfl
@[simp] theorem State.setMem_out (s : State) (x : ExtMem) : (s.setMem x).out = s.out := rfl
@[simp] theorem State.setMem_events (s : State) (x : ExtMem) : (s.setMem x).events = s.events := rfl
@[simp] theorem State.setMem_host (s : State) (x : ExtMem) : (s.setMem x).host = s.host := rfl
@[simp] theorem State.setMem_time (s : State) (x : ExtMem) : (s.setMem x).time = s.time := rfl
@[simp] theorem State.setMem_radio (s : State) (x : ExtMem) : (s.setMem x).radio = s.radio := rfl
@[simp] theorem State.setMem_sweep (s : State) (x : ExtMem) : (s.setMem x).sweep = s.sweep := rfl
@[simp] theorem State.setMem_adapt (s : State) (x : ExtMem) : (s.setMem x).adapt = s.adapt := rfl
@[simp] theorem State.setMem_tiles (s : State) (x : ExtMem) : (s.setMem x).tiles = s.tiles := rfl
@[simp] theorem State.setMem_clusters (s : State) (x : ExtMem) : (s.setMem x).clusters = s.clusters := rfl
@[simp] theorem State.setMem_csps (s : State) (x : ExtMem) : (s.setMem x).csps = s.csps := rfl
@[simp] theorem State.setMem_wcache (s : State) (x : ExtMem) : (s.setMem x).wcache = s.wcache := rfl
@[simp] theorem State.setMem_sched (s : State) (x : ExtMem) : (s.setMem x).sched = s.sched := rfl
@[simp] theorem State.setMem_array (s : State) (x : ExtMem) : (s.setMem x).array = s.array := rfl
@[simp] theorem State.setMem_capture (s : State) (x : ExtMem) : (s.setMem x).capture = s.capture := rfl
@[simp] theorem State.setMem_assured (s : State) (x : ExtMem) : (s.setMem x).assured = s.assured := rfl
@[simp] theorem State.setMem_sec (s : State) (x : ExtMem) : (s.setMem x).sec = s.sec := rfl
@[simp] theorem State.setMem_power (s : State) (x : ExtMem) : (s.setMem x).power = s.power := rfl
@[simp] theorem State.setMem_rst (s : State) (x : ExtMem) : (s.setMem x).rst = s.rst := rfl
@[simp] theorem State.setMem_net (s : State) (x : ExtMem) : (s.setMem x).net = s.net := rfl
@[simp] theorem State.setMem_port (s : State) (x : ExtMem) : (s.setMem x).port = s.port := rfl
@[simp] theorem State.setMem_free (s : State) (x : ExtMem) : (s.setMem x).free = s.free := rfl
@[simp] theorem State.setMem_tile (s : State) (x : ExtMem) (m : Nat) : (s.setMem x).tile m = s.tile m := rfl
@[simp] theorem State.setMem_cluster (s : State) (x : ExtMem) (m : Nat) : (s.setMem x).cluster m = s.cluster m := rfl
@[simp] theorem State.setMem_csp (s : State) (x : ExtMem) (m : Nat) : (s.setMem x).csp m = s.csp m := rfl
@[simp] theorem State.setMem_cell (s : State) (x : ExtMem) (m : Nat) : (s.setMem x).cell m = s.cell m := rfl
@[simp] theorem State.setMem_user (s : State) (x : ExtMem) (m : Nat) : (s.setMem x).user m = s.user m := rfl
@[simp] theorem State.setMem_bank (s : State) (x : ExtMem) (m : Nat) : (s.setMem x).bank m = s.bank m := rfl
@[simp] theorem State.setMem_chan (s : State) (x : ExtMem) (m : Nat) : (s.setMem x).chan m = s.chan m := rfl
@[simp] theorem State.setMem_ctx (s : State) (x : ExtMem) (m : Nat) : (s.setMem x).ctx m = s.ctx m := rfl
@[simp] theorem State.setMem_aset (s : State) (x : ExtMem) (m : Nat) : (s.setMem x).aset m = s.aset m := rfl
@[simp] theorem State.setMem_netPort (s : State) (x : ExtMem) (m : Nat) : (s.setMem x).netPort m = s.netPort m := rfl
@[simp] theorem State.setMem_sem (s : State) (x : ExtMem) (m : Nat) : (s.setMem x).sem m = s.sem m := rfl
@[simp] theorem State.setMem_powerOf (s : State) (x : ExtMem) (m : Nat) : (s.setMem x).powerOf m = s.powerOf m := rfl

/-! ## setWcache -/

@[simp] theorem State.setWcache_wcache (s : State) (x : WeightCache) : (s.setWcache x).wcache = x := rfl
@[simp] theorem State.setWcache_pending (s : State) (x : WeightCache) : (s.setWcache x).pending = s.pending := rfl
@[simp] theorem State.setWcache_clock (s : State) (x : WeightCache) : (s.setWcache x).clock = s.clock := rfl
@[simp] theorem State.setWcache_out (s : State) (x : WeightCache) : (s.setWcache x).out = s.out := rfl
@[simp] theorem State.setWcache_events (s : State) (x : WeightCache) : (s.setWcache x).events = s.events := rfl
@[simp] theorem State.setWcache_host (s : State) (x : WeightCache) : (s.setWcache x).host = s.host := rfl
@[simp] theorem State.setWcache_time (s : State) (x : WeightCache) : (s.setWcache x).time = s.time := rfl
@[simp] theorem State.setWcache_radio (s : State) (x : WeightCache) : (s.setWcache x).radio = s.radio := rfl
@[simp] theorem State.setWcache_sweep (s : State) (x : WeightCache) : (s.setWcache x).sweep = s.sweep := rfl
@[simp] theorem State.setWcache_adapt (s : State) (x : WeightCache) : (s.setWcache x).adapt = s.adapt := rfl
@[simp] theorem State.setWcache_tiles (s : State) (x : WeightCache) : (s.setWcache x).tiles = s.tiles := rfl
@[simp] theorem State.setWcache_clusters (s : State) (x : WeightCache) : (s.setWcache x).clusters = s.clusters := rfl
@[simp] theorem State.setWcache_csps (s : State) (x : WeightCache) : (s.setWcache x).csps = s.csps := rfl
@[simp] theorem State.setWcache_mem (s : State) (x : WeightCache) : (s.setWcache x).mem = s.mem := rfl
@[simp] theorem State.setWcache_sched (s : State) (x : WeightCache) : (s.setWcache x).sched = s.sched := rfl
@[simp] theorem State.setWcache_array (s : State) (x : WeightCache) : (s.setWcache x).array = s.array := rfl
@[simp] theorem State.setWcache_capture (s : State) (x : WeightCache) : (s.setWcache x).capture = s.capture := rfl
@[simp] theorem State.setWcache_assured (s : State) (x : WeightCache) : (s.setWcache x).assured = s.assured := rfl
@[simp] theorem State.setWcache_sec (s : State) (x : WeightCache) : (s.setWcache x).sec = s.sec := rfl
@[simp] theorem State.setWcache_power (s : State) (x : WeightCache) : (s.setWcache x).power = s.power := rfl
@[simp] theorem State.setWcache_rst (s : State) (x : WeightCache) : (s.setWcache x).rst = s.rst := rfl
@[simp] theorem State.setWcache_net (s : State) (x : WeightCache) : (s.setWcache x).net = s.net := rfl
@[simp] theorem State.setWcache_port (s : State) (x : WeightCache) : (s.setWcache x).port = s.port := rfl
@[simp] theorem State.setWcache_free (s : State) (x : WeightCache) : (s.setWcache x).free = s.free := rfl
@[simp] theorem State.setWcache_tile (s : State) (x : WeightCache) (m : Nat) : (s.setWcache x).tile m = s.tile m := rfl
@[simp] theorem State.setWcache_cluster (s : State) (x : WeightCache) (m : Nat) : (s.setWcache x).cluster m = s.cluster m := rfl
@[simp] theorem State.setWcache_csp (s : State) (x : WeightCache) (m : Nat) : (s.setWcache x).csp m = s.csp m := rfl
@[simp] theorem State.setWcache_cell (s : State) (x : WeightCache) (m : Nat) : (s.setWcache x).cell m = s.cell m := rfl
@[simp] theorem State.setWcache_user (s : State) (x : WeightCache) (m : Nat) : (s.setWcache x).user m = s.user m := rfl
@[simp] theorem State.setWcache_bank (s : State) (x : WeightCache) (m : Nat) : (s.setWcache x).bank m = s.bank m := rfl
@[simp] theorem State.setWcache_chan (s : State) (x : WeightCache) (m : Nat) : (s.setWcache x).chan m = s.chan m := rfl
@[simp] theorem State.setWcache_ctx (s : State) (x : WeightCache) (m : Nat) : (s.setWcache x).ctx m = s.ctx m := rfl
@[simp] theorem State.setWcache_aset (s : State) (x : WeightCache) (m : Nat) : (s.setWcache x).aset m = s.aset m := rfl
@[simp] theorem State.setWcache_netPort (s : State) (x : WeightCache) (m : Nat) : (s.setWcache x).netPort m = s.netPort m := rfl
@[simp] theorem State.setWcache_sem (s : State) (x : WeightCache) (m : Nat) : (s.setWcache x).sem m = s.sem m := rfl
@[simp] theorem State.setWcache_powerOf (s : State) (x : WeightCache) (m : Nat) : (s.setWcache x).powerOf m = s.powerOf m := rfl

/-! ## setSched -/

@[simp] theorem State.setSched_sched (s : State) (x : Sched) : (s.setSched x).sched = x := rfl
@[simp] theorem State.setSched_pending (s : State) (x : Sched) : (s.setSched x).pending = s.pending := rfl
@[simp] theorem State.setSched_clock (s : State) (x : Sched) : (s.setSched x).clock = s.clock := rfl
@[simp] theorem State.setSched_out (s : State) (x : Sched) : (s.setSched x).out = s.out := rfl
@[simp] theorem State.setSched_events (s : State) (x : Sched) : (s.setSched x).events = s.events := rfl
@[simp] theorem State.setSched_host (s : State) (x : Sched) : (s.setSched x).host = s.host := rfl
@[simp] theorem State.setSched_time (s : State) (x : Sched) : (s.setSched x).time = s.time := rfl
@[simp] theorem State.setSched_radio (s : State) (x : Sched) : (s.setSched x).radio = s.radio := rfl
@[simp] theorem State.setSched_sweep (s : State) (x : Sched) : (s.setSched x).sweep = s.sweep := rfl
@[simp] theorem State.setSched_adapt (s : State) (x : Sched) : (s.setSched x).adapt = s.adapt := rfl
@[simp] theorem State.setSched_tiles (s : State) (x : Sched) : (s.setSched x).tiles = s.tiles := rfl
@[simp] theorem State.setSched_clusters (s : State) (x : Sched) : (s.setSched x).clusters = s.clusters := rfl
@[simp] theorem State.setSched_csps (s : State) (x : Sched) : (s.setSched x).csps = s.csps := rfl
@[simp] theorem State.setSched_mem (s : State) (x : Sched) : (s.setSched x).mem = s.mem := rfl
@[simp] theorem State.setSched_wcache (s : State) (x : Sched) : (s.setSched x).wcache = s.wcache := rfl
@[simp] theorem State.setSched_array (s : State) (x : Sched) : (s.setSched x).array = s.array := rfl
@[simp] theorem State.setSched_capture (s : State) (x : Sched) : (s.setSched x).capture = s.capture := rfl
@[simp] theorem State.setSched_assured (s : State) (x : Sched) : (s.setSched x).assured = s.assured := rfl
@[simp] theorem State.setSched_sec (s : State) (x : Sched) : (s.setSched x).sec = s.sec := rfl
@[simp] theorem State.setSched_power (s : State) (x : Sched) : (s.setSched x).power = s.power := rfl
@[simp] theorem State.setSched_rst (s : State) (x : Sched) : (s.setSched x).rst = s.rst := rfl
@[simp] theorem State.setSched_net (s : State) (x : Sched) : (s.setSched x).net = s.net := rfl
@[simp] theorem State.setSched_port (s : State) (x : Sched) : (s.setSched x).port = s.port := rfl
@[simp] theorem State.setSched_free (s : State) (x : Sched) : (s.setSched x).free = s.free := rfl
@[simp] theorem State.setSched_tile (s : State) (x : Sched) (m : Nat) : (s.setSched x).tile m = s.tile m := rfl
@[simp] theorem State.setSched_cluster (s : State) (x : Sched) (m : Nat) : (s.setSched x).cluster m = s.cluster m := rfl
@[simp] theorem State.setSched_csp (s : State) (x : Sched) (m : Nat) : (s.setSched x).csp m = s.csp m := rfl
@[simp] theorem State.setSched_cell (s : State) (x : Sched) (m : Nat) : (s.setSched x).cell m = s.cell m := rfl
@[simp] theorem State.setSched_user (s : State) (x : Sched) (m : Nat) : (s.setSched x).user m = s.user m := rfl
@[simp] theorem State.setSched_bank (s : State) (x : Sched) (m : Nat) : (s.setSched x).bank m = s.bank m := rfl
@[simp] theorem State.setSched_chan (s : State) (x : Sched) (m : Nat) : (s.setSched x).chan m = s.chan m := rfl
@[simp] theorem State.setSched_ctx (s : State) (x : Sched) (m : Nat) : (s.setSched x).ctx m = s.ctx m := rfl
@[simp] theorem State.setSched_aset (s : State) (x : Sched) (m : Nat) : (s.setSched x).aset m = s.aset m := rfl
@[simp] theorem State.setSched_netPort (s : State) (x : Sched) (m : Nat) : (s.setSched x).netPort m = s.netPort m := rfl
@[simp] theorem State.setSched_powerOf (s : State) (x : Sched) (m : Nat) : (s.setSched x).powerOf m = s.powerOf m := rfl

/-! ## setArray -/

@[simp] theorem State.setArray_array (s : State) (x : ArrayState) : (s.setArray x).array = x := rfl
@[simp] theorem State.setArray_pending (s : State) (x : ArrayState) : (s.setArray x).pending = s.pending := rfl
@[simp] theorem State.setArray_clock (s : State) (x : ArrayState) : (s.setArray x).clock = s.clock := rfl
@[simp] theorem State.setArray_out (s : State) (x : ArrayState) : (s.setArray x).out = s.out := rfl
@[simp] theorem State.setArray_events (s : State) (x : ArrayState) : (s.setArray x).events = s.events := rfl
@[simp] theorem State.setArray_host (s : State) (x : ArrayState) : (s.setArray x).host = s.host := rfl
@[simp] theorem State.setArray_time (s : State) (x : ArrayState) : (s.setArray x).time = s.time := rfl
@[simp] theorem State.setArray_radio (s : State) (x : ArrayState) : (s.setArray x).radio = s.radio := rfl
@[simp] theorem State.setArray_sweep (s : State) (x : ArrayState) : (s.setArray x).sweep = s.sweep := rfl
@[simp] theorem State.setArray_adapt (s : State) (x : ArrayState) : (s.setArray x).adapt = s.adapt := rfl
@[simp] theorem State.setArray_tiles (s : State) (x : ArrayState) : (s.setArray x).tiles = s.tiles := rfl
@[simp] theorem State.setArray_clusters (s : State) (x : ArrayState) : (s.setArray x).clusters = s.clusters := rfl
@[simp] theorem State.setArray_csps (s : State) (x : ArrayState) : (s.setArray x).csps = s.csps := rfl
@[simp] theorem State.setArray_mem (s : State) (x : ArrayState) : (s.setArray x).mem = s.mem := rfl
@[simp] theorem State.setArray_wcache (s : State) (x : ArrayState) : (s.setArray x).wcache = s.wcache := rfl
@[simp] theorem State.setArray_sched (s : State) (x : ArrayState) : (s.setArray x).sched = s.sched := rfl
@[simp] theorem State.setArray_capture (s : State) (x : ArrayState) : (s.setArray x).capture = s.capture := rfl
@[simp] theorem State.setArray_assured (s : State) (x : ArrayState) : (s.setArray x).assured = s.assured := rfl
@[simp] theorem State.setArray_sec (s : State) (x : ArrayState) : (s.setArray x).sec = s.sec := rfl
@[simp] theorem State.setArray_power (s : State) (x : ArrayState) : (s.setArray x).power = s.power := rfl
@[simp] theorem State.setArray_rst (s : State) (x : ArrayState) : (s.setArray x).rst = s.rst := rfl
@[simp] theorem State.setArray_net (s : State) (x : ArrayState) : (s.setArray x).net = s.net := rfl
@[simp] theorem State.setArray_port (s : State) (x : ArrayState) : (s.setArray x).port = s.port := rfl
@[simp] theorem State.setArray_free (s : State) (x : ArrayState) : (s.setArray x).free = s.free := rfl
@[simp] theorem State.setArray_tile (s : State) (x : ArrayState) (m : Nat) : (s.setArray x).tile m = s.tile m := rfl
@[simp] theorem State.setArray_cluster (s : State) (x : ArrayState) (m : Nat) : (s.setArray x).cluster m = s.cluster m := rfl
@[simp] theorem State.setArray_csp (s : State) (x : ArrayState) (m : Nat) : (s.setArray x).csp m = s.csp m := rfl
@[simp] theorem State.setArray_cell (s : State) (x : ArrayState) (m : Nat) : (s.setArray x).cell m = s.cell m := rfl
@[simp] theorem State.setArray_user (s : State) (x : ArrayState) (m : Nat) : (s.setArray x).user m = s.user m := rfl
@[simp] theorem State.setArray_bank (s : State) (x : ArrayState) (m : Nat) : (s.setArray x).bank m = s.bank m := rfl
@[simp] theorem State.setArray_chan (s : State) (x : ArrayState) (m : Nat) : (s.setArray x).chan m = s.chan m := rfl
@[simp] theorem State.setArray_ctx (s : State) (x : ArrayState) (m : Nat) : (s.setArray x).ctx m = s.ctx m := rfl
@[simp] theorem State.setArray_aset (s : State) (x : ArrayState) (m : Nat) : (s.setArray x).aset m = s.aset m := rfl
@[simp] theorem State.setArray_netPort (s : State) (x : ArrayState) (m : Nat) : (s.setArray x).netPort m = s.netPort m := rfl
@[simp] theorem State.setArray_sem (s : State) (x : ArrayState) (m : Nat) : (s.setArray x).sem m = s.sem m := rfl
@[simp] theorem State.setArray_powerOf (s : State) (x : ArrayState) (m : Nat) : (s.setArray x).powerOf m = s.powerOf m := rfl

/-! ## setCapture -/

@[simp] theorem State.setCapture_capture (s : State) (x : Capture) : (s.setCapture x).capture = x := rfl
@[simp] theorem State.setCapture_pending (s : State) (x : Capture) : (s.setCapture x).pending = s.pending := rfl
@[simp] theorem State.setCapture_clock (s : State) (x : Capture) : (s.setCapture x).clock = s.clock := rfl
@[simp] theorem State.setCapture_out (s : State) (x : Capture) : (s.setCapture x).out = s.out := rfl
@[simp] theorem State.setCapture_events (s : State) (x : Capture) : (s.setCapture x).events = s.events := rfl
@[simp] theorem State.setCapture_host (s : State) (x : Capture) : (s.setCapture x).host = s.host := rfl
@[simp] theorem State.setCapture_time (s : State) (x : Capture) : (s.setCapture x).time = s.time := rfl
@[simp] theorem State.setCapture_radio (s : State) (x : Capture) : (s.setCapture x).radio = s.radio := rfl
@[simp] theorem State.setCapture_sweep (s : State) (x : Capture) : (s.setCapture x).sweep = s.sweep := rfl
@[simp] theorem State.setCapture_adapt (s : State) (x : Capture) : (s.setCapture x).adapt = s.adapt := rfl
@[simp] theorem State.setCapture_tiles (s : State) (x : Capture) : (s.setCapture x).tiles = s.tiles := rfl
@[simp] theorem State.setCapture_clusters (s : State) (x : Capture) : (s.setCapture x).clusters = s.clusters := rfl
@[simp] theorem State.setCapture_csps (s : State) (x : Capture) : (s.setCapture x).csps = s.csps := rfl
@[simp] theorem State.setCapture_mem (s : State) (x : Capture) : (s.setCapture x).mem = s.mem := rfl
@[simp] theorem State.setCapture_wcache (s : State) (x : Capture) : (s.setCapture x).wcache = s.wcache := rfl
@[simp] theorem State.setCapture_sched (s : State) (x : Capture) : (s.setCapture x).sched = s.sched := rfl
@[simp] theorem State.setCapture_array (s : State) (x : Capture) : (s.setCapture x).array = s.array := rfl
@[simp] theorem State.setCapture_assured (s : State) (x : Capture) : (s.setCapture x).assured = s.assured := rfl
@[simp] theorem State.setCapture_sec (s : State) (x : Capture) : (s.setCapture x).sec = s.sec := rfl
@[simp] theorem State.setCapture_power (s : State) (x : Capture) : (s.setCapture x).power = s.power := rfl
@[simp] theorem State.setCapture_rst (s : State) (x : Capture) : (s.setCapture x).rst = s.rst := rfl
@[simp] theorem State.setCapture_net (s : State) (x : Capture) : (s.setCapture x).net = s.net := rfl
@[simp] theorem State.setCapture_port (s : State) (x : Capture) : (s.setCapture x).port = s.port := rfl
@[simp] theorem State.setCapture_free (s : State) (x : Capture) : (s.setCapture x).free = s.free := rfl
@[simp] theorem State.setCapture_tile (s : State) (x : Capture) (m : Nat) : (s.setCapture x).tile m = s.tile m := rfl
@[simp] theorem State.setCapture_cluster (s : State) (x : Capture) (m : Nat) : (s.setCapture x).cluster m = s.cluster m := rfl
@[simp] theorem State.setCapture_csp (s : State) (x : Capture) (m : Nat) : (s.setCapture x).csp m = s.csp m := rfl
@[simp] theorem State.setCapture_cell (s : State) (x : Capture) (m : Nat) : (s.setCapture x).cell m = s.cell m := rfl
@[simp] theorem State.setCapture_user (s : State) (x : Capture) (m : Nat) : (s.setCapture x).user m = s.user m := rfl
@[simp] theorem State.setCapture_bank (s : State) (x : Capture) (m : Nat) : (s.setCapture x).bank m = s.bank m := rfl
@[simp] theorem State.setCapture_chan (s : State) (x : Capture) (m : Nat) : (s.setCapture x).chan m = s.chan m := rfl
@[simp] theorem State.setCapture_ctx (s : State) (x : Capture) (m : Nat) : (s.setCapture x).ctx m = s.ctx m := rfl
@[simp] theorem State.setCapture_aset (s : State) (x : Capture) (m : Nat) : (s.setCapture x).aset m = s.aset m := rfl
@[simp] theorem State.setCapture_netPort (s : State) (x : Capture) (m : Nat) : (s.setCapture x).netPort m = s.netPort m := rfl
@[simp] theorem State.setCapture_sem (s : State) (x : Capture) (m : Nat) : (s.setCapture x).sem m = s.sem m := rfl
@[simp] theorem State.setCapture_powerOf (s : State) (x : Capture) (m : Nat) : (s.setCapture x).powerOf m = s.powerOf m := rfl

/-! ## setAssured -/

@[simp] theorem State.setAssured_assured (s : State) (x : Assured) : (s.setAssured x).assured = x := rfl
@[simp] theorem State.setAssured_pending (s : State) (x : Assured) : (s.setAssured x).pending = s.pending := rfl
@[simp] theorem State.setAssured_clock (s : State) (x : Assured) : (s.setAssured x).clock = s.clock := rfl
@[simp] theorem State.setAssured_out (s : State) (x : Assured) : (s.setAssured x).out = s.out := rfl
@[simp] theorem State.setAssured_events (s : State) (x : Assured) : (s.setAssured x).events = s.events := rfl
@[simp] theorem State.setAssured_host (s : State) (x : Assured) : (s.setAssured x).host = s.host := rfl
@[simp] theorem State.setAssured_time (s : State) (x : Assured) : (s.setAssured x).time = s.time := rfl
@[simp] theorem State.setAssured_radio (s : State) (x : Assured) : (s.setAssured x).radio = s.radio := rfl
@[simp] theorem State.setAssured_sweep (s : State) (x : Assured) : (s.setAssured x).sweep = s.sweep := rfl
@[simp] theorem State.setAssured_adapt (s : State) (x : Assured) : (s.setAssured x).adapt = s.adapt := rfl
@[simp] theorem State.setAssured_tiles (s : State) (x : Assured) : (s.setAssured x).tiles = s.tiles := rfl
@[simp] theorem State.setAssured_clusters (s : State) (x : Assured) : (s.setAssured x).clusters = s.clusters := rfl
@[simp] theorem State.setAssured_csps (s : State) (x : Assured) : (s.setAssured x).csps = s.csps := rfl
@[simp] theorem State.setAssured_mem (s : State) (x : Assured) : (s.setAssured x).mem = s.mem := rfl
@[simp] theorem State.setAssured_wcache (s : State) (x : Assured) : (s.setAssured x).wcache = s.wcache := rfl
@[simp] theorem State.setAssured_sched (s : State) (x : Assured) : (s.setAssured x).sched = s.sched := rfl
@[simp] theorem State.setAssured_array (s : State) (x : Assured) : (s.setAssured x).array = s.array := rfl
@[simp] theorem State.setAssured_capture (s : State) (x : Assured) : (s.setAssured x).capture = s.capture := rfl
@[simp] theorem State.setAssured_sec (s : State) (x : Assured) : (s.setAssured x).sec = s.sec := rfl
@[simp] theorem State.setAssured_power (s : State) (x : Assured) : (s.setAssured x).power = s.power := rfl
@[simp] theorem State.setAssured_rst (s : State) (x : Assured) : (s.setAssured x).rst = s.rst := rfl
@[simp] theorem State.setAssured_net (s : State) (x : Assured) : (s.setAssured x).net = s.net := rfl
@[simp] theorem State.setAssured_port (s : State) (x : Assured) : (s.setAssured x).port = s.port := rfl
@[simp] theorem State.setAssured_free (s : State) (x : Assured) : (s.setAssured x).free = s.free := rfl
@[simp] theorem State.setAssured_tile (s : State) (x : Assured) (m : Nat) : (s.setAssured x).tile m = s.tile m := rfl
@[simp] theorem State.setAssured_cluster (s : State) (x : Assured) (m : Nat) : (s.setAssured x).cluster m = s.cluster m := rfl
@[simp] theorem State.setAssured_csp (s : State) (x : Assured) (m : Nat) : (s.setAssured x).csp m = s.csp m := rfl
@[simp] theorem State.setAssured_cell (s : State) (x : Assured) (m : Nat) : (s.setAssured x).cell m = s.cell m := rfl
@[simp] theorem State.setAssured_user (s : State) (x : Assured) (m : Nat) : (s.setAssured x).user m = s.user m := rfl
@[simp] theorem State.setAssured_bank (s : State) (x : Assured) (m : Nat) : (s.setAssured x).bank m = s.bank m := rfl
@[simp] theorem State.setAssured_chan (s : State) (x : Assured) (m : Nat) : (s.setAssured x).chan m = s.chan m := rfl
@[simp] theorem State.setAssured_ctx (s : State) (x : Assured) (m : Nat) : (s.setAssured x).ctx m = s.ctx m := rfl
@[simp] theorem State.setAssured_aset (s : State) (x : Assured) (m : Nat) : (s.setAssured x).aset m = s.aset m := rfl
@[simp] theorem State.setAssured_netPort (s : State) (x : Assured) (m : Nat) : (s.setAssured x).netPort m = s.netPort m := rfl
@[simp] theorem State.setAssured_sem (s : State) (x : Assured) (m : Nat) : (s.setAssured x).sem m = s.sem m := rfl
@[simp] theorem State.setAssured_powerOf (s : State) (x : Assured) (m : Nat) : (s.setAssured x).powerOf m = s.powerOf m := rfl

/-! ## setSec -/

@[simp] theorem State.setSec_sec (s : State) (x : Security) : (s.setSec x).sec = x := rfl
@[simp] theorem State.setSec_pending (s : State) (x : Security) : (s.setSec x).pending = s.pending := rfl
@[simp] theorem State.setSec_clock (s : State) (x : Security) : (s.setSec x).clock = s.clock := rfl
@[simp] theorem State.setSec_out (s : State) (x : Security) : (s.setSec x).out = s.out := rfl
@[simp] theorem State.setSec_events (s : State) (x : Security) : (s.setSec x).events = s.events := rfl
@[simp] theorem State.setSec_host (s : State) (x : Security) : (s.setSec x).host = s.host := rfl
@[simp] theorem State.setSec_time (s : State) (x : Security) : (s.setSec x).time = s.time := rfl
@[simp] theorem State.setSec_radio (s : State) (x : Security) : (s.setSec x).radio = s.radio := rfl
@[simp] theorem State.setSec_sweep (s : State) (x : Security) : (s.setSec x).sweep = s.sweep := rfl
@[simp] theorem State.setSec_adapt (s : State) (x : Security) : (s.setSec x).adapt = s.adapt := rfl
@[simp] theorem State.setSec_tiles (s : State) (x : Security) : (s.setSec x).tiles = s.tiles := rfl
@[simp] theorem State.setSec_clusters (s : State) (x : Security) : (s.setSec x).clusters = s.clusters := rfl
@[simp] theorem State.setSec_csps (s : State) (x : Security) : (s.setSec x).csps = s.csps := rfl
@[simp] theorem State.setSec_mem (s : State) (x : Security) : (s.setSec x).mem = s.mem := rfl
@[simp] theorem State.setSec_wcache (s : State) (x : Security) : (s.setSec x).wcache = s.wcache := rfl
@[simp] theorem State.setSec_sched (s : State) (x : Security) : (s.setSec x).sched = s.sched := rfl
@[simp] theorem State.setSec_array (s : State) (x : Security) : (s.setSec x).array = s.array := rfl
@[simp] theorem State.setSec_capture (s : State) (x : Security) : (s.setSec x).capture = s.capture := rfl
@[simp] theorem State.setSec_assured (s : State) (x : Security) : (s.setSec x).assured = s.assured := rfl
@[simp] theorem State.setSec_power (s : State) (x : Security) : (s.setSec x).power = s.power := rfl
@[simp] theorem State.setSec_rst (s : State) (x : Security) : (s.setSec x).rst = s.rst := rfl
@[simp] theorem State.setSec_net (s : State) (x : Security) : (s.setSec x).net = s.net := rfl
@[simp] theorem State.setSec_port (s : State) (x : Security) : (s.setSec x).port = s.port := rfl
@[simp] theorem State.setSec_free (s : State) (x : Security) : (s.setSec x).free = s.free := rfl
@[simp] theorem State.setSec_tile (s : State) (x : Security) (m : Nat) : (s.setSec x).tile m = s.tile m := rfl
@[simp] theorem State.setSec_cluster (s : State) (x : Security) (m : Nat) : (s.setSec x).cluster m = s.cluster m := rfl
@[simp] theorem State.setSec_csp (s : State) (x : Security) (m : Nat) : (s.setSec x).csp m = s.csp m := rfl
@[simp] theorem State.setSec_cell (s : State) (x : Security) (m : Nat) : (s.setSec x).cell m = s.cell m := rfl
@[simp] theorem State.setSec_user (s : State) (x : Security) (m : Nat) : (s.setSec x).user m = s.user m := rfl
@[simp] theorem State.setSec_bank (s : State) (x : Security) (m : Nat) : (s.setSec x).bank m = s.bank m := rfl
@[simp] theorem State.setSec_chan (s : State) (x : Security) (m : Nat) : (s.setSec x).chan m = s.chan m := rfl
@[simp] theorem State.setSec_ctx (s : State) (x : Security) (m : Nat) : (s.setSec x).ctx m = s.ctx m := rfl
@[simp] theorem State.setSec_aset (s : State) (x : Security) (m : Nat) : (s.setSec x).aset m = s.aset m := rfl
@[simp] theorem State.setSec_netPort (s : State) (x : Security) (m : Nat) : (s.setSec x).netPort m = s.netPort m := rfl
@[simp] theorem State.setSec_sem (s : State) (x : Security) (m : Nat) : (s.setSec x).sem m = s.sem m := rfl
@[simp] theorem State.setSec_powerOf (s : State) (x : Security) (m : Nat) : (s.setSec x).powerOf m = s.powerOf m := rfl

/-! ## setPower -/

@[simp] theorem State.setPower_power (s : State) (x : Power) : (s.setPower x).power = x := rfl
@[simp] theorem State.setPower_pending (s : State) (x : Power) : (s.setPower x).pending = s.pending := rfl
@[simp] theorem State.setPower_clock (s : State) (x : Power) : (s.setPower x).clock = s.clock := rfl
@[simp] theorem State.setPower_out (s : State) (x : Power) : (s.setPower x).out = s.out := rfl
@[simp] theorem State.setPower_events (s : State) (x : Power) : (s.setPower x).events = s.events := rfl
@[simp] theorem State.setPower_host (s : State) (x : Power) : (s.setPower x).host = s.host := rfl
@[simp] theorem State.setPower_time (s : State) (x : Power) : (s.setPower x).time = s.time := rfl
@[simp] theorem State.setPower_radio (s : State) (x : Power) : (s.setPower x).radio = s.radio := rfl
@[simp] theorem State.setPower_sweep (s : State) (x : Power) : (s.setPower x).sweep = s.sweep := rfl
@[simp] theorem State.setPower_adapt (s : State) (x : Power) : (s.setPower x).adapt = s.adapt := rfl
@[simp] theorem State.setPower_tiles (s : State) (x : Power) : (s.setPower x).tiles = s.tiles := rfl
@[simp] theorem State.setPower_clusters (s : State) (x : Power) : (s.setPower x).clusters = s.clusters := rfl
@[simp] theorem State.setPower_csps (s : State) (x : Power) : (s.setPower x).csps = s.csps := rfl
@[simp] theorem State.setPower_mem (s : State) (x : Power) : (s.setPower x).mem = s.mem := rfl
@[simp] theorem State.setPower_wcache (s : State) (x : Power) : (s.setPower x).wcache = s.wcache := rfl
@[simp] theorem State.setPower_sched (s : State) (x : Power) : (s.setPower x).sched = s.sched := rfl
@[simp] theorem State.setPower_array (s : State) (x : Power) : (s.setPower x).array = s.array := rfl
@[simp] theorem State.setPower_capture (s : State) (x : Power) : (s.setPower x).capture = s.capture := rfl
@[simp] theorem State.setPower_assured (s : State) (x : Power) : (s.setPower x).assured = s.assured := rfl
@[simp] theorem State.setPower_sec (s : State) (x : Power) : (s.setPower x).sec = s.sec := rfl
@[simp] theorem State.setPower_rst (s : State) (x : Power) : (s.setPower x).rst = s.rst := rfl
@[simp] theorem State.setPower_net (s : State) (x : Power) : (s.setPower x).net = s.net := rfl
@[simp] theorem State.setPower_port (s : State) (x : Power) : (s.setPower x).port = s.port := rfl
@[simp] theorem State.setPower_free (s : State) (x : Power) : (s.setPower x).free = s.free := rfl
@[simp] theorem State.setPower_tile (s : State) (x : Power) (m : Nat) : (s.setPower x).tile m = s.tile m := rfl
@[simp] theorem State.setPower_cluster (s : State) (x : Power) (m : Nat) : (s.setPower x).cluster m = s.cluster m := rfl
@[simp] theorem State.setPower_csp (s : State) (x : Power) (m : Nat) : (s.setPower x).csp m = s.csp m := rfl
@[simp] theorem State.setPower_cell (s : State) (x : Power) (m : Nat) : (s.setPower x).cell m = s.cell m := rfl
@[simp] theorem State.setPower_user (s : State) (x : Power) (m : Nat) : (s.setPower x).user m = s.user m := rfl
@[simp] theorem State.setPower_bank (s : State) (x : Power) (m : Nat) : (s.setPower x).bank m = s.bank m := rfl
@[simp] theorem State.setPower_chan (s : State) (x : Power) (m : Nat) : (s.setPower x).chan m = s.chan m := rfl
@[simp] theorem State.setPower_ctx (s : State) (x : Power) (m : Nat) : (s.setPower x).ctx m = s.ctx m := rfl
@[simp] theorem State.setPower_aset (s : State) (x : Power) (m : Nat) : (s.setPower x).aset m = s.aset m := rfl
@[simp] theorem State.setPower_netPort (s : State) (x : Power) (m : Nat) : (s.setPower x).netPort m = s.netPort m := rfl
@[simp] theorem State.setPower_sem (s : State) (x : Power) (m : Nat) : (s.setPower x).sem m = s.sem m := rfl

/-! ## setRst -/

@[simp] theorem State.setRst_rst (s : State) (x : ResetCtl) : (s.setRst x).rst = x := rfl
@[simp] theorem State.setRst_pending (s : State) (x : ResetCtl) : (s.setRst x).pending = s.pending := rfl
@[simp] theorem State.setRst_clock (s : State) (x : ResetCtl) : (s.setRst x).clock = s.clock := rfl
@[simp] theorem State.setRst_out (s : State) (x : ResetCtl) : (s.setRst x).out = s.out := rfl
@[simp] theorem State.setRst_events (s : State) (x : ResetCtl) : (s.setRst x).events = s.events := rfl
@[simp] theorem State.setRst_host (s : State) (x : ResetCtl) : (s.setRst x).host = s.host := rfl
@[simp] theorem State.setRst_time (s : State) (x : ResetCtl) : (s.setRst x).time = s.time := rfl
@[simp] theorem State.setRst_radio (s : State) (x : ResetCtl) : (s.setRst x).radio = s.radio := rfl
@[simp] theorem State.setRst_sweep (s : State) (x : ResetCtl) : (s.setRst x).sweep = s.sweep := rfl
@[simp] theorem State.setRst_adapt (s : State) (x : ResetCtl) : (s.setRst x).adapt = s.adapt := rfl
@[simp] theorem State.setRst_tiles (s : State) (x : ResetCtl) : (s.setRst x).tiles = s.tiles := rfl
@[simp] theorem State.setRst_clusters (s : State) (x : ResetCtl) : (s.setRst x).clusters = s.clusters := rfl
@[simp] theorem State.setRst_csps (s : State) (x : ResetCtl) : (s.setRst x).csps = s.csps := rfl
@[simp] theorem State.setRst_mem (s : State) (x : ResetCtl) : (s.setRst x).mem = s.mem := rfl
@[simp] theorem State.setRst_wcache (s : State) (x : ResetCtl) : (s.setRst x).wcache = s.wcache := rfl
@[simp] theorem State.setRst_sched (s : State) (x : ResetCtl) : (s.setRst x).sched = s.sched := rfl
@[simp] theorem State.setRst_array (s : State) (x : ResetCtl) : (s.setRst x).array = s.array := rfl
@[simp] theorem State.setRst_capture (s : State) (x : ResetCtl) : (s.setRst x).capture = s.capture := rfl
@[simp] theorem State.setRst_assured (s : State) (x : ResetCtl) : (s.setRst x).assured = s.assured := rfl
@[simp] theorem State.setRst_sec (s : State) (x : ResetCtl) : (s.setRst x).sec = s.sec := rfl
@[simp] theorem State.setRst_power (s : State) (x : ResetCtl) : (s.setRst x).power = s.power := rfl
@[simp] theorem State.setRst_net (s : State) (x : ResetCtl) : (s.setRst x).net = s.net := rfl
@[simp] theorem State.setRst_port (s : State) (x : ResetCtl) : (s.setRst x).port = s.port := rfl
@[simp] theorem State.setRst_free (s : State) (x : ResetCtl) : (s.setRst x).free = s.free := rfl
@[simp] theorem State.setRst_tile (s : State) (x : ResetCtl) (m : Nat) : (s.setRst x).tile m = s.tile m := rfl
@[simp] theorem State.setRst_cluster (s : State) (x : ResetCtl) (m : Nat) : (s.setRst x).cluster m = s.cluster m := rfl
@[simp] theorem State.setRst_csp (s : State) (x : ResetCtl) (m : Nat) : (s.setRst x).csp m = s.csp m := rfl
@[simp] theorem State.setRst_cell (s : State) (x : ResetCtl) (m : Nat) : (s.setRst x).cell m = s.cell m := rfl
@[simp] theorem State.setRst_user (s : State) (x : ResetCtl) (m : Nat) : (s.setRst x).user m = s.user m := rfl
@[simp] theorem State.setRst_bank (s : State) (x : ResetCtl) (m : Nat) : (s.setRst x).bank m = s.bank m := rfl
@[simp] theorem State.setRst_chan (s : State) (x : ResetCtl) (m : Nat) : (s.setRst x).chan m = s.chan m := rfl
@[simp] theorem State.setRst_ctx (s : State) (x : ResetCtl) (m : Nat) : (s.setRst x).ctx m = s.ctx m := rfl
@[simp] theorem State.setRst_aset (s : State) (x : ResetCtl) (m : Nat) : (s.setRst x).aset m = s.aset m := rfl
@[simp] theorem State.setRst_netPort (s : State) (x : ResetCtl) (m : Nat) : (s.setRst x).netPort m = s.netPort m := rfl
@[simp] theorem State.setRst_sem (s : State) (x : ResetCtl) (m : Nat) : (s.setRst x).sem m = s.sem m := rfl
@[simp] theorem State.setRst_powerOf (s : State) (x : ResetCtl) (m : Nat) : (s.setRst x).powerOf m = s.powerOf m := rfl

/-! ## setNet -/

@[simp] theorem State.setNet_net (s : State) (x : Net) : (s.setNet x).net = x := rfl
@[simp] theorem State.setNet_pending (s : State) (x : Net) : (s.setNet x).pending = s.pending := rfl
@[simp] theorem State.setNet_clock (s : State) (x : Net) : (s.setNet x).clock = s.clock := rfl
@[simp] theorem State.setNet_out (s : State) (x : Net) : (s.setNet x).out = s.out := rfl
@[simp] theorem State.setNet_events (s : State) (x : Net) : (s.setNet x).events = s.events := rfl
@[simp] theorem State.setNet_host (s : State) (x : Net) : (s.setNet x).host = s.host := rfl
@[simp] theorem State.setNet_time (s : State) (x : Net) : (s.setNet x).time = s.time := rfl
@[simp] theorem State.setNet_radio (s : State) (x : Net) : (s.setNet x).radio = s.radio := rfl
@[simp] theorem State.setNet_sweep (s : State) (x : Net) : (s.setNet x).sweep = s.sweep := rfl
@[simp] theorem State.setNet_adapt (s : State) (x : Net) : (s.setNet x).adapt = s.adapt := rfl
@[simp] theorem State.setNet_tiles (s : State) (x : Net) : (s.setNet x).tiles = s.tiles := rfl
@[simp] theorem State.setNet_clusters (s : State) (x : Net) : (s.setNet x).clusters = s.clusters := rfl
@[simp] theorem State.setNet_csps (s : State) (x : Net) : (s.setNet x).csps = s.csps := rfl
@[simp] theorem State.setNet_mem (s : State) (x : Net) : (s.setNet x).mem = s.mem := rfl
@[simp] theorem State.setNet_wcache (s : State) (x : Net) : (s.setNet x).wcache = s.wcache := rfl
@[simp] theorem State.setNet_sched (s : State) (x : Net) : (s.setNet x).sched = s.sched := rfl
@[simp] theorem State.setNet_array (s : State) (x : Net) : (s.setNet x).array = s.array := rfl
@[simp] theorem State.setNet_capture (s : State) (x : Net) : (s.setNet x).capture = s.capture := rfl
@[simp] theorem State.setNet_assured (s : State) (x : Net) : (s.setNet x).assured = s.assured := rfl
@[simp] theorem State.setNet_sec (s : State) (x : Net) : (s.setNet x).sec = s.sec := rfl
@[simp] theorem State.setNet_power (s : State) (x : Net) : (s.setNet x).power = s.power := rfl
@[simp] theorem State.setNet_rst (s : State) (x : Net) : (s.setNet x).rst = s.rst := rfl
@[simp] theorem State.setNet_port (s : State) (x : Net) : (s.setNet x).port = s.port := rfl
@[simp] theorem State.setNet_free (s : State) (x : Net) : (s.setNet x).free = s.free := rfl
@[simp] theorem State.setNet_tile (s : State) (x : Net) (m : Nat) : (s.setNet x).tile m = s.tile m := rfl
@[simp] theorem State.setNet_cluster (s : State) (x : Net) (m : Nat) : (s.setNet x).cluster m = s.cluster m := rfl
@[simp] theorem State.setNet_csp (s : State) (x : Net) (m : Nat) : (s.setNet x).csp m = s.csp m := rfl
@[simp] theorem State.setNet_cell (s : State) (x : Net) (m : Nat) : (s.setNet x).cell m = s.cell m := rfl
@[simp] theorem State.setNet_user (s : State) (x : Net) (m : Nat) : (s.setNet x).user m = s.user m := rfl
@[simp] theorem State.setNet_bank (s : State) (x : Net) (m : Nat) : (s.setNet x).bank m = s.bank m := rfl
@[simp] theorem State.setNet_chan (s : State) (x : Net) (m : Nat) : (s.setNet x).chan m = s.chan m := rfl
@[simp] theorem State.setNet_ctx (s : State) (x : Net) (m : Nat) : (s.setNet x).ctx m = s.ctx m := rfl
@[simp] theorem State.setNet_aset (s : State) (x : Net) (m : Nat) : (s.setNet x).aset m = s.aset m := rfl
@[simp] theorem State.setNet_sem (s : State) (x : Net) (m : Nat) : (s.setNet x).sem m = s.sem m := rfl
@[simp] theorem State.setNet_powerOf (s : State) (x : Net) (m : Nat) : (s.setNet x).powerOf m = s.powerOf m := rfl

/-! ## setTile -/

@[simp] theorem State.setTile_pending (s : State) (n : Nat) (x : Tile) : (s.setTile n x).pending = s.pending := rfl
@[simp] theorem State.setTile_clock (s : State) (n : Nat) (x : Tile) : (s.setTile n x).clock = s.clock := rfl
@[simp] theorem State.setTile_out (s : State) (n : Nat) (x : Tile) : (s.setTile n x).out = s.out := rfl
@[simp] theorem State.setTile_events (s : State) (n : Nat) (x : Tile) : (s.setTile n x).events = s.events := rfl
@[simp] theorem State.setTile_host (s : State) (n : Nat) (x : Tile) : (s.setTile n x).host = s.host := rfl
@[simp] theorem State.setTile_time (s : State) (n : Nat) (x : Tile) : (s.setTile n x).time = s.time := rfl
@[simp] theorem State.setTile_radio (s : State) (n : Nat) (x : Tile) : (s.setTile n x).radio = s.radio := rfl
@[simp] theorem State.setTile_sweep (s : State) (n : Nat) (x : Tile) : (s.setTile n x).sweep = s.sweep := rfl
@[simp] theorem State.setTile_adapt (s : State) (n : Nat) (x : Tile) : (s.setTile n x).adapt = s.adapt := rfl
@[simp] theorem State.setTile_clusters (s : State) (n : Nat) (x : Tile) : (s.setTile n x).clusters = s.clusters := rfl
@[simp] theorem State.setTile_csps (s : State) (n : Nat) (x : Tile) : (s.setTile n x).csps = s.csps := rfl
@[simp] theorem State.setTile_mem (s : State) (n : Nat) (x : Tile) : (s.setTile n x).mem = s.mem := rfl
@[simp] theorem State.setTile_wcache (s : State) (n : Nat) (x : Tile) : (s.setTile n x).wcache = s.wcache := rfl
@[simp] theorem State.setTile_sched (s : State) (n : Nat) (x : Tile) : (s.setTile n x).sched = s.sched := rfl
@[simp] theorem State.setTile_array (s : State) (n : Nat) (x : Tile) : (s.setTile n x).array = s.array := rfl
@[simp] theorem State.setTile_capture (s : State) (n : Nat) (x : Tile) : (s.setTile n x).capture = s.capture := rfl
@[simp] theorem State.setTile_assured (s : State) (n : Nat) (x : Tile) : (s.setTile n x).assured = s.assured := rfl
@[simp] theorem State.setTile_sec (s : State) (n : Nat) (x : Tile) : (s.setTile n x).sec = s.sec := rfl
@[simp] theorem State.setTile_power (s : State) (n : Nat) (x : Tile) : (s.setTile n x).power = s.power := rfl
@[simp] theorem State.setTile_rst (s : State) (n : Nat) (x : Tile) : (s.setTile n x).rst = s.rst := rfl
@[simp] theorem State.setTile_net (s : State) (n : Nat) (x : Tile) : (s.setTile n x).net = s.net := rfl
@[simp] theorem State.setTile_port (s : State) (n : Nat) (x : Tile) : (s.setTile n x).port = s.port := rfl
@[simp] theorem State.setTile_free (s : State) (n : Nat) (x : Tile) : (s.setTile n x).free = s.free := rfl
@[simp] theorem State.setTile_tile (s : State) (n : Nat) (x : Tile) : (s.setTile n x).tile n = x := Table.get_set
theorem State.setTile_tile_ne (s : State) (n : Nat) (x : Tile) {m : Nat} (h : m ≠ n) : (s.setTile n x).tile m = s.tile m := Table.get_set_ne h
@[simp] theorem State.setTile_cluster (s : State) (n : Nat) (x : Tile) (m : Nat) : (s.setTile n x).cluster m = s.cluster m := rfl
@[simp] theorem State.setTile_csp (s : State) (n : Nat) (x : Tile) (m : Nat) : (s.setTile n x).csp m = s.csp m := rfl
@[simp] theorem State.setTile_cell (s : State) (n : Nat) (x : Tile) (m : Nat) : (s.setTile n x).cell m = s.cell m := rfl
@[simp] theorem State.setTile_user (s : State) (n : Nat) (x : Tile) (m : Nat) : (s.setTile n x).user m = s.user m := rfl
@[simp] theorem State.setTile_bank (s : State) (n : Nat) (x : Tile) (m : Nat) : (s.setTile n x).bank m = s.bank m := rfl
@[simp] theorem State.setTile_chan (s : State) (n : Nat) (x : Tile) (m : Nat) : (s.setTile n x).chan m = s.chan m := rfl
@[simp] theorem State.setTile_ctx (s : State) (n : Nat) (x : Tile) (m : Nat) : (s.setTile n x).ctx m = s.ctx m := rfl
@[simp] theorem State.setTile_aset (s : State) (n : Nat) (x : Tile) (m : Nat) : (s.setTile n x).aset m = s.aset m := rfl
@[simp] theorem State.setTile_netPort (s : State) (n : Nat) (x : Tile) (m : Nat) : (s.setTile n x).netPort m = s.netPort m := rfl
@[simp] theorem State.setTile_sem (s : State) (n : Nat) (x : Tile) (m : Nat) : (s.setTile n x).sem m = s.sem m := rfl
@[simp] theorem State.setTile_powerOf (s : State) (n : Nat) (x : Tile) (m : Nat) : (s.setTile n x).powerOf m = s.powerOf m := rfl

/-! ## modTile -/

@[simp] theorem State.modTile_pending (s : State) (n : Nat) (f : Tile → Tile) : (s.modTile n f).pending = s.pending := rfl
@[simp] theorem State.modTile_clock (s : State) (n : Nat) (f : Tile → Tile) : (s.modTile n f).clock = s.clock := rfl
@[simp] theorem State.modTile_out (s : State) (n : Nat) (f : Tile → Tile) : (s.modTile n f).out = s.out := rfl
@[simp] theorem State.modTile_events (s : State) (n : Nat) (f : Tile → Tile) : (s.modTile n f).events = s.events := rfl
@[simp] theorem State.modTile_host (s : State) (n : Nat) (f : Tile → Tile) : (s.modTile n f).host = s.host := rfl
@[simp] theorem State.modTile_time (s : State) (n : Nat) (f : Tile → Tile) : (s.modTile n f).time = s.time := rfl
@[simp] theorem State.modTile_radio (s : State) (n : Nat) (f : Tile → Tile) : (s.modTile n f).radio = s.radio := rfl
@[simp] theorem State.modTile_sweep (s : State) (n : Nat) (f : Tile → Tile) : (s.modTile n f).sweep = s.sweep := rfl
@[simp] theorem State.modTile_adapt (s : State) (n : Nat) (f : Tile → Tile) : (s.modTile n f).adapt = s.adapt := rfl
@[simp] theorem State.modTile_clusters (s : State) (n : Nat) (f : Tile → Tile) : (s.modTile n f).clusters = s.clusters := rfl
@[simp] theorem State.modTile_csps (s : State) (n : Nat) (f : Tile → Tile) : (s.modTile n f).csps = s.csps := rfl
@[simp] theorem State.modTile_mem (s : State) (n : Nat) (f : Tile → Tile) : (s.modTile n f).mem = s.mem := rfl
@[simp] theorem State.modTile_wcache (s : State) (n : Nat) (f : Tile → Tile) : (s.modTile n f).wcache = s.wcache := rfl
@[simp] theorem State.modTile_sched (s : State) (n : Nat) (f : Tile → Tile) : (s.modTile n f).sched = s.sched := rfl
@[simp] theorem State.modTile_array (s : State) (n : Nat) (f : Tile → Tile) : (s.modTile n f).array = s.array := rfl
@[simp] theorem State.modTile_capture (s : State) (n : Nat) (f : Tile → Tile) : (s.modTile n f).capture = s.capture := rfl
@[simp] theorem State.modTile_assured (s : State) (n : Nat) (f : Tile → Tile) : (s.modTile n f).assured = s.assured := rfl
@[simp] theorem State.modTile_sec (s : State) (n : Nat) (f : Tile → Tile) : (s.modTile n f).sec = s.sec := rfl
@[simp] theorem State.modTile_power (s : State) (n : Nat) (f : Tile → Tile) : (s.modTile n f).power = s.power := rfl
@[simp] theorem State.modTile_rst (s : State) (n : Nat) (f : Tile → Tile) : (s.modTile n f).rst = s.rst := rfl
@[simp] theorem State.modTile_net (s : State) (n : Nat) (f : Tile → Tile) : (s.modTile n f).net = s.net := rfl
@[simp] theorem State.modTile_port (s : State) (n : Nat) (f : Tile → Tile) : (s.modTile n f).port = s.port := rfl
@[simp] theorem State.modTile_free (s : State) (n : Nat) (f : Tile → Tile) : (s.modTile n f).free = s.free := rfl
@[simp] theorem State.modTile_tile (s : State) (n : Nat) (f : Tile → Tile) : (s.modTile n f).tile n = f (s.tile n) := Table.get_set
theorem State.modTile_tile_ne (s : State) (n : Nat) (f : Tile → Tile) {m : Nat} (h : m ≠ n) : (s.modTile n f).tile m = s.tile m := Table.get_set_ne h
@[simp] theorem State.modTile_cluster (s : State) (n : Nat) (f : Tile → Tile) (m : Nat) : (s.modTile n f).cluster m = s.cluster m := rfl
@[simp] theorem State.modTile_csp (s : State) (n : Nat) (f : Tile → Tile) (m : Nat) : (s.modTile n f).csp m = s.csp m := rfl
@[simp] theorem State.modTile_cell (s : State) (n : Nat) (f : Tile → Tile) (m : Nat) : (s.modTile n f).cell m = s.cell m := rfl
@[simp] theorem State.modTile_user (s : State) (n : Nat) (f : Tile → Tile) (m : Nat) : (s.modTile n f).user m = s.user m := rfl
@[simp] theorem State.modTile_bank (s : State) (n : Nat) (f : Tile → Tile) (m : Nat) : (s.modTile n f).bank m = s.bank m := rfl
@[simp] theorem State.modTile_chan (s : State) (n : Nat) (f : Tile → Tile) (m : Nat) : (s.modTile n f).chan m = s.chan m := rfl
@[simp] theorem State.modTile_ctx (s : State) (n : Nat) (f : Tile → Tile) (m : Nat) : (s.modTile n f).ctx m = s.ctx m := rfl
@[simp] theorem State.modTile_aset (s : State) (n : Nat) (f : Tile → Tile) (m : Nat) : (s.modTile n f).aset m = s.aset m := rfl
@[simp] theorem State.modTile_netPort (s : State) (n : Nat) (f : Tile → Tile) (m : Nat) : (s.modTile n f).netPort m = s.netPort m := rfl
@[simp] theorem State.modTile_sem (s : State) (n : Nat) (f : Tile → Tile) (m : Nat) : (s.modTile n f).sem m = s.sem m := rfl
@[simp] theorem State.modTile_powerOf (s : State) (n : Nat) (f : Tile → Tile) (m : Nat) : (s.modTile n f).powerOf m = s.powerOf m := rfl

/-! ## setCluster -/

@[simp] theorem State.setCluster_pending (s : State) (n : Nat) (x : ClusterSt) : (s.setCluster n x).pending = s.pending := rfl
@[simp] theorem State.setCluster_clock (s : State) (n : Nat) (x : ClusterSt) : (s.setCluster n x).clock = s.clock := rfl
@[simp] theorem State.setCluster_out (s : State) (n : Nat) (x : ClusterSt) : (s.setCluster n x).out = s.out := rfl
@[simp] theorem State.setCluster_events (s : State) (n : Nat) (x : ClusterSt) : (s.setCluster n x).events = s.events := rfl
@[simp] theorem State.setCluster_host (s : State) (n : Nat) (x : ClusterSt) : (s.setCluster n x).host = s.host := rfl
@[simp] theorem State.setCluster_time (s : State) (n : Nat) (x : ClusterSt) : (s.setCluster n x).time = s.time := rfl
@[simp] theorem State.setCluster_radio (s : State) (n : Nat) (x : ClusterSt) : (s.setCluster n x).radio = s.radio := rfl
@[simp] theorem State.setCluster_sweep (s : State) (n : Nat) (x : ClusterSt) : (s.setCluster n x).sweep = s.sweep := rfl
@[simp] theorem State.setCluster_adapt (s : State) (n : Nat) (x : ClusterSt) : (s.setCluster n x).adapt = s.adapt := rfl
@[simp] theorem State.setCluster_tiles (s : State) (n : Nat) (x : ClusterSt) : (s.setCluster n x).tiles = s.tiles := rfl
@[simp] theorem State.setCluster_csps (s : State) (n : Nat) (x : ClusterSt) : (s.setCluster n x).csps = s.csps := rfl
@[simp] theorem State.setCluster_mem (s : State) (n : Nat) (x : ClusterSt) : (s.setCluster n x).mem = s.mem := rfl
@[simp] theorem State.setCluster_wcache (s : State) (n : Nat) (x : ClusterSt) : (s.setCluster n x).wcache = s.wcache := rfl
@[simp] theorem State.setCluster_sched (s : State) (n : Nat) (x : ClusterSt) : (s.setCluster n x).sched = s.sched := rfl
@[simp] theorem State.setCluster_array (s : State) (n : Nat) (x : ClusterSt) : (s.setCluster n x).array = s.array := rfl
@[simp] theorem State.setCluster_capture (s : State) (n : Nat) (x : ClusterSt) : (s.setCluster n x).capture = s.capture := rfl
@[simp] theorem State.setCluster_assured (s : State) (n : Nat) (x : ClusterSt) : (s.setCluster n x).assured = s.assured := rfl
@[simp] theorem State.setCluster_sec (s : State) (n : Nat) (x : ClusterSt) : (s.setCluster n x).sec = s.sec := rfl
@[simp] theorem State.setCluster_power (s : State) (n : Nat) (x : ClusterSt) : (s.setCluster n x).power = s.power := rfl
@[simp] theorem State.setCluster_rst (s : State) (n : Nat) (x : ClusterSt) : (s.setCluster n x).rst = s.rst := rfl
@[simp] theorem State.setCluster_net (s : State) (n : Nat) (x : ClusterSt) : (s.setCluster n x).net = s.net := rfl
@[simp] theorem State.setCluster_port (s : State) (n : Nat) (x : ClusterSt) : (s.setCluster n x).port = s.port := rfl
@[simp] theorem State.setCluster_free (s : State) (n : Nat) (x : ClusterSt) : (s.setCluster n x).free = s.free := rfl
@[simp] theorem State.setCluster_cluster (s : State) (n : Nat) (x : ClusterSt) : (s.setCluster n x).cluster n = x := Table.get_set
theorem State.setCluster_cluster_ne (s : State) (n : Nat) (x : ClusterSt) {m : Nat} (h : m ≠ n) : (s.setCluster n x).cluster m = s.cluster m := Table.get_set_ne h
@[simp] theorem State.setCluster_tile (s : State) (n : Nat) (x : ClusterSt) (m : Nat) : (s.setCluster n x).tile m = s.tile m := rfl
@[simp] theorem State.setCluster_csp (s : State) (n : Nat) (x : ClusterSt) (m : Nat) : (s.setCluster n x).csp m = s.csp m := rfl
@[simp] theorem State.setCluster_cell (s : State) (n : Nat) (x : ClusterSt) (m : Nat) : (s.setCluster n x).cell m = s.cell m := rfl
@[simp] theorem State.setCluster_user (s : State) (n : Nat) (x : ClusterSt) (m : Nat) : (s.setCluster n x).user m = s.user m := rfl
@[simp] theorem State.setCluster_bank (s : State) (n : Nat) (x : ClusterSt) (m : Nat) : (s.setCluster n x).bank m = s.bank m := rfl
@[simp] theorem State.setCluster_chan (s : State) (n : Nat) (x : ClusterSt) (m : Nat) : (s.setCluster n x).chan m = s.chan m := rfl
@[simp] theorem State.setCluster_ctx (s : State) (n : Nat) (x : ClusterSt) (m : Nat) : (s.setCluster n x).ctx m = s.ctx m := rfl
@[simp] theorem State.setCluster_aset (s : State) (n : Nat) (x : ClusterSt) (m : Nat) : (s.setCluster n x).aset m = s.aset m := rfl
@[simp] theorem State.setCluster_netPort (s : State) (n : Nat) (x : ClusterSt) (m : Nat) : (s.setCluster n x).netPort m = s.netPort m := rfl
@[simp] theorem State.setCluster_sem (s : State) (n : Nat) (x : ClusterSt) (m : Nat) : (s.setCluster n x).sem m = s.sem m := rfl
@[simp] theorem State.setCluster_powerOf (s : State) (n : Nat) (x : ClusterSt) (m : Nat) : (s.setCluster n x).powerOf m = s.powerOf m := rfl

/-! ## setCsp -/

@[simp] theorem State.setCsp_pending (s : State) (n : Nat) (x : Csp) : (s.setCsp n x).pending = s.pending := rfl
@[simp] theorem State.setCsp_clock (s : State) (n : Nat) (x : Csp) : (s.setCsp n x).clock = s.clock := rfl
@[simp] theorem State.setCsp_out (s : State) (n : Nat) (x : Csp) : (s.setCsp n x).out = s.out := rfl
@[simp] theorem State.setCsp_events (s : State) (n : Nat) (x : Csp) : (s.setCsp n x).events = s.events := rfl
@[simp] theorem State.setCsp_host (s : State) (n : Nat) (x : Csp) : (s.setCsp n x).host = s.host := rfl
@[simp] theorem State.setCsp_time (s : State) (n : Nat) (x : Csp) : (s.setCsp n x).time = s.time := rfl
@[simp] theorem State.setCsp_radio (s : State) (n : Nat) (x : Csp) : (s.setCsp n x).radio = s.radio := rfl
@[simp] theorem State.setCsp_sweep (s : State) (n : Nat) (x : Csp) : (s.setCsp n x).sweep = s.sweep := rfl
@[simp] theorem State.setCsp_adapt (s : State) (n : Nat) (x : Csp) : (s.setCsp n x).adapt = s.adapt := rfl
@[simp] theorem State.setCsp_tiles (s : State) (n : Nat) (x : Csp) : (s.setCsp n x).tiles = s.tiles := rfl
@[simp] theorem State.setCsp_clusters (s : State) (n : Nat) (x : Csp) : (s.setCsp n x).clusters = s.clusters := rfl
@[simp] theorem State.setCsp_mem (s : State) (n : Nat) (x : Csp) : (s.setCsp n x).mem = s.mem := rfl
@[simp] theorem State.setCsp_wcache (s : State) (n : Nat) (x : Csp) : (s.setCsp n x).wcache = s.wcache := rfl
@[simp] theorem State.setCsp_sched (s : State) (n : Nat) (x : Csp) : (s.setCsp n x).sched = s.sched := rfl
@[simp] theorem State.setCsp_array (s : State) (n : Nat) (x : Csp) : (s.setCsp n x).array = s.array := rfl
@[simp] theorem State.setCsp_capture (s : State) (n : Nat) (x : Csp) : (s.setCsp n x).capture = s.capture := rfl
@[simp] theorem State.setCsp_assured (s : State) (n : Nat) (x : Csp) : (s.setCsp n x).assured = s.assured := rfl
@[simp] theorem State.setCsp_sec (s : State) (n : Nat) (x : Csp) : (s.setCsp n x).sec = s.sec := rfl
@[simp] theorem State.setCsp_power (s : State) (n : Nat) (x : Csp) : (s.setCsp n x).power = s.power := rfl
@[simp] theorem State.setCsp_rst (s : State) (n : Nat) (x : Csp) : (s.setCsp n x).rst = s.rst := rfl
@[simp] theorem State.setCsp_net (s : State) (n : Nat) (x : Csp) : (s.setCsp n x).net = s.net := rfl
@[simp] theorem State.setCsp_port (s : State) (n : Nat) (x : Csp) : (s.setCsp n x).port = s.port := rfl
@[simp] theorem State.setCsp_free (s : State) (n : Nat) (x : Csp) : (s.setCsp n x).free = s.free := rfl
@[simp] theorem State.setCsp_csp (s : State) (n : Nat) (x : Csp) : (s.setCsp n x).csp n = x := Table.get_set
theorem State.setCsp_csp_ne (s : State) (n : Nat) (x : Csp) {m : Nat} (h : m ≠ n) : (s.setCsp n x).csp m = s.csp m := Table.get_set_ne h
@[simp] theorem State.setCsp_tile (s : State) (n : Nat) (x : Csp) (m : Nat) : (s.setCsp n x).tile m = s.tile m := rfl
@[simp] theorem State.setCsp_cluster (s : State) (n : Nat) (x : Csp) (m : Nat) : (s.setCsp n x).cluster m = s.cluster m := rfl
@[simp] theorem State.setCsp_cell (s : State) (n : Nat) (x : Csp) (m : Nat) : (s.setCsp n x).cell m = s.cell m := rfl
@[simp] theorem State.setCsp_user (s : State) (n : Nat) (x : Csp) (m : Nat) : (s.setCsp n x).user m = s.user m := rfl
@[simp] theorem State.setCsp_bank (s : State) (n : Nat) (x : Csp) (m : Nat) : (s.setCsp n x).bank m = s.bank m := rfl
@[simp] theorem State.setCsp_chan (s : State) (n : Nat) (x : Csp) (m : Nat) : (s.setCsp n x).chan m = s.chan m := rfl
@[simp] theorem State.setCsp_ctx (s : State) (n : Nat) (x : Csp) (m : Nat) : (s.setCsp n x).ctx m = s.ctx m := rfl
@[simp] theorem State.setCsp_aset (s : State) (n : Nat) (x : Csp) (m : Nat) : (s.setCsp n x).aset m = s.aset m := rfl
@[simp] theorem State.setCsp_netPort (s : State) (n : Nat) (x : Csp) (m : Nat) : (s.setCsp n x).netPort m = s.netPort m := rfl
@[simp] theorem State.setCsp_sem (s : State) (n : Nat) (x : Csp) (m : Nat) : (s.setCsp n x).sem m = s.sem m := rfl
@[simp] theorem State.setCsp_powerOf (s : State) (n : Nat) (x : Csp) (m : Nat) : (s.setCsp n x).powerOf m = s.powerOf m := rfl

/-! ## setCell -/

@[simp] theorem State.setCell_pending (s : State) (n : Nat) (x : CellSt) : (s.setCell n x).pending = s.pending := rfl
@[simp] theorem State.setCell_clock (s : State) (n : Nat) (x : CellSt) : (s.setCell n x).clock = s.clock := rfl
@[simp] theorem State.setCell_out (s : State) (n : Nat) (x : CellSt) : (s.setCell n x).out = s.out := rfl
@[simp] theorem State.setCell_events (s : State) (n : Nat) (x : CellSt) : (s.setCell n x).events = s.events := rfl
@[simp] theorem State.setCell_host (s : State) (n : Nat) (x : CellSt) : (s.setCell n x).host = s.host := rfl
@[simp] theorem State.setCell_time (s : State) (n : Nat) (x : CellSt) : (s.setCell n x).time = s.time := rfl
@[simp] theorem State.setCell_sweep (s : State) (n : Nat) (x : CellSt) : (s.setCell n x).sweep = s.sweep := rfl
@[simp] theorem State.setCell_adapt (s : State) (n : Nat) (x : CellSt) : (s.setCell n x).adapt = s.adapt := rfl
@[simp] theorem State.setCell_tiles (s : State) (n : Nat) (x : CellSt) : (s.setCell n x).tiles = s.tiles := rfl
@[simp] theorem State.setCell_clusters (s : State) (n : Nat) (x : CellSt) : (s.setCell n x).clusters = s.clusters := rfl
@[simp] theorem State.setCell_csps (s : State) (n : Nat) (x : CellSt) : (s.setCell n x).csps = s.csps := rfl
@[simp] theorem State.setCell_mem (s : State) (n : Nat) (x : CellSt) : (s.setCell n x).mem = s.mem := rfl
@[simp] theorem State.setCell_wcache (s : State) (n : Nat) (x : CellSt) : (s.setCell n x).wcache = s.wcache := rfl
@[simp] theorem State.setCell_sched (s : State) (n : Nat) (x : CellSt) : (s.setCell n x).sched = s.sched := rfl
@[simp] theorem State.setCell_array (s : State) (n : Nat) (x : CellSt) : (s.setCell n x).array = s.array := rfl
@[simp] theorem State.setCell_capture (s : State) (n : Nat) (x : CellSt) : (s.setCell n x).capture = s.capture := rfl
@[simp] theorem State.setCell_assured (s : State) (n : Nat) (x : CellSt) : (s.setCell n x).assured = s.assured := rfl
@[simp] theorem State.setCell_sec (s : State) (n : Nat) (x : CellSt) : (s.setCell n x).sec = s.sec := rfl
@[simp] theorem State.setCell_power (s : State) (n : Nat) (x : CellSt) : (s.setCell n x).power = s.power := rfl
@[simp] theorem State.setCell_rst (s : State) (n : Nat) (x : CellSt) : (s.setCell n x).rst = s.rst := rfl
@[simp] theorem State.setCell_net (s : State) (n : Nat) (x : CellSt) : (s.setCell n x).net = s.net := rfl
@[simp] theorem State.setCell_port (s : State) (n : Nat) (x : CellSt) : (s.setCell n x).port = s.port := rfl
@[simp] theorem State.setCell_free (s : State) (n : Nat) (x : CellSt) : (s.setCell n x).free = s.free := rfl
@[simp] theorem State.setCell_cell (s : State) (n : Nat) (x : CellSt) : (s.setCell n x).cell n = x := Table.get_set
theorem State.setCell_cell_ne (s : State) (n : Nat) (x : CellSt) {m : Nat} (h : m ≠ n) : (s.setCell n x).cell m = s.cell m := Table.get_set_ne h
@[simp] theorem State.setCell_tile (s : State) (n : Nat) (x : CellSt) (m : Nat) : (s.setCell n x).tile m = s.tile m := rfl
@[simp] theorem State.setCell_cluster (s : State) (n : Nat) (x : CellSt) (m : Nat) : (s.setCell n x).cluster m = s.cluster m := rfl
@[simp] theorem State.setCell_csp (s : State) (n : Nat) (x : CellSt) (m : Nat) : (s.setCell n x).csp m = s.csp m := rfl
@[simp] theorem State.setCell_user (s : State) (n : Nat) (x : CellSt) (m : Nat) : (s.setCell n x).user m = s.user m := rfl
@[simp] theorem State.setCell_bank (s : State) (n : Nat) (x : CellSt) (m : Nat) : (s.setCell n x).bank m = s.bank m := rfl
@[simp] theorem State.setCell_chan (s : State) (n : Nat) (x : CellSt) (m : Nat) : (s.setCell n x).chan m = s.chan m := rfl
@[simp] theorem State.setCell_ctx (s : State) (n : Nat) (x : CellSt) (m : Nat) : (s.setCell n x).ctx m = s.ctx m := rfl
@[simp] theorem State.setCell_aset (s : State) (n : Nat) (x : CellSt) (m : Nat) : (s.setCell n x).aset m = s.aset m := rfl
@[simp] theorem State.setCell_netPort (s : State) (n : Nat) (x : CellSt) (m : Nat) : (s.setCell n x).netPort m = s.netPort m := rfl
@[simp] theorem State.setCell_sem (s : State) (n : Nat) (x : CellSt) (m : Nat) : (s.setCell n x).sem m = s.sem m := rfl
@[simp] theorem State.setCell_powerOf (s : State) (n : Nat) (x : CellSt) (m : Nat) : (s.setCell n x).powerOf m = s.powerOf m := rfl

/-! ## modCell -/

@[simp] theorem State.modCell_pending (s : State) (n : Nat) (f : CellSt → CellSt) : (s.modCell n f).pending = s.pending := rfl
@[simp] theorem State.modCell_clock (s : State) (n : Nat) (f : CellSt → CellSt) : (s.modCell n f).clock = s.clock := rfl
@[simp] theorem State.modCell_out (s : State) (n : Nat) (f : CellSt → CellSt) : (s.modCell n f).out = s.out := rfl
@[simp] theorem State.modCell_events (s : State) (n : Nat) (f : CellSt → CellSt) : (s.modCell n f).events = s.events := rfl
@[simp] theorem State.modCell_host (s : State) (n : Nat) (f : CellSt → CellSt) : (s.modCell n f).host = s.host := rfl
@[simp] theorem State.modCell_time (s : State) (n : Nat) (f : CellSt → CellSt) : (s.modCell n f).time = s.time := rfl
@[simp] theorem State.modCell_sweep (s : State) (n : Nat) (f : CellSt → CellSt) : (s.modCell n f).sweep = s.sweep := rfl
@[simp] theorem State.modCell_adapt (s : State) (n : Nat) (f : CellSt → CellSt) : (s.modCell n f).adapt = s.adapt := rfl
@[simp] theorem State.modCell_tiles (s : State) (n : Nat) (f : CellSt → CellSt) : (s.modCell n f).tiles = s.tiles := rfl
@[simp] theorem State.modCell_clusters (s : State) (n : Nat) (f : CellSt → CellSt) : (s.modCell n f).clusters = s.clusters := rfl
@[simp] theorem State.modCell_csps (s : State) (n : Nat) (f : CellSt → CellSt) : (s.modCell n f).csps = s.csps := rfl
@[simp] theorem State.modCell_mem (s : State) (n : Nat) (f : CellSt → CellSt) : (s.modCell n f).mem = s.mem := rfl
@[simp] theorem State.modCell_wcache (s : State) (n : Nat) (f : CellSt → CellSt) : (s.modCell n f).wcache = s.wcache := rfl
@[simp] theorem State.modCell_sched (s : State) (n : Nat) (f : CellSt → CellSt) : (s.modCell n f).sched = s.sched := rfl
@[simp] theorem State.modCell_array (s : State) (n : Nat) (f : CellSt → CellSt) : (s.modCell n f).array = s.array := rfl
@[simp] theorem State.modCell_capture (s : State) (n : Nat) (f : CellSt → CellSt) : (s.modCell n f).capture = s.capture := rfl
@[simp] theorem State.modCell_assured (s : State) (n : Nat) (f : CellSt → CellSt) : (s.modCell n f).assured = s.assured := rfl
@[simp] theorem State.modCell_sec (s : State) (n : Nat) (f : CellSt → CellSt) : (s.modCell n f).sec = s.sec := rfl
@[simp] theorem State.modCell_power (s : State) (n : Nat) (f : CellSt → CellSt) : (s.modCell n f).power = s.power := rfl
@[simp] theorem State.modCell_rst (s : State) (n : Nat) (f : CellSt → CellSt) : (s.modCell n f).rst = s.rst := rfl
@[simp] theorem State.modCell_net (s : State) (n : Nat) (f : CellSt → CellSt) : (s.modCell n f).net = s.net := rfl
@[simp] theorem State.modCell_port (s : State) (n : Nat) (f : CellSt → CellSt) : (s.modCell n f).port = s.port := rfl
@[simp] theorem State.modCell_free (s : State) (n : Nat) (f : CellSt → CellSt) : (s.modCell n f).free = s.free := rfl
@[simp] theorem State.modCell_cell (s : State) (n : Nat) (f : CellSt → CellSt) : (s.modCell n f).cell n = f (s.cell n) := Table.get_set
theorem State.modCell_cell_ne (s : State) (n : Nat) (f : CellSt → CellSt) {m : Nat} (h : m ≠ n) : (s.modCell n f).cell m = s.cell m := Table.get_set_ne h
@[simp] theorem State.modCell_tile (s : State) (n : Nat) (f : CellSt → CellSt) (m : Nat) : (s.modCell n f).tile m = s.tile m := rfl
@[simp] theorem State.modCell_cluster (s : State) (n : Nat) (f : CellSt → CellSt) (m : Nat) : (s.modCell n f).cluster m = s.cluster m := rfl
@[simp] theorem State.modCell_csp (s : State) (n : Nat) (f : CellSt → CellSt) (m : Nat) : (s.modCell n f).csp m = s.csp m := rfl
@[simp] theorem State.modCell_user (s : State) (n : Nat) (f : CellSt → CellSt) (m : Nat) : (s.modCell n f).user m = s.user m := rfl
@[simp] theorem State.modCell_bank (s : State) (n : Nat) (f : CellSt → CellSt) (m : Nat) : (s.modCell n f).bank m = s.bank m := rfl
@[simp] theorem State.modCell_chan (s : State) (n : Nat) (f : CellSt → CellSt) (m : Nat) : (s.modCell n f).chan m = s.chan m := rfl
@[simp] theorem State.modCell_ctx (s : State) (n : Nat) (f : CellSt → CellSt) (m : Nat) : (s.modCell n f).ctx m = s.ctx m := rfl
@[simp] theorem State.modCell_aset (s : State) (n : Nat) (f : CellSt → CellSt) (m : Nat) : (s.modCell n f).aset m = s.aset m := rfl
@[simp] theorem State.modCell_netPort (s : State) (n : Nat) (f : CellSt → CellSt) (m : Nat) : (s.modCell n f).netPort m = s.netPort m := rfl
@[simp] theorem State.modCell_sem (s : State) (n : Nat) (f : CellSt → CellSt) (m : Nat) : (s.modCell n f).sem m = s.sem m := rfl
@[simp] theorem State.modCell_powerOf (s : State) (n : Nat) (f : CellSt → CellSt) (m : Nat) : (s.modCell n f).powerOf m = s.powerOf m := rfl

/-! ## setUser -/

@[simp] theorem State.setUser_pending (s : State) (n : Nat) (x : UserCtx) : (s.setUser n x).pending = s.pending := rfl
@[simp] theorem State.setUser_clock (s : State) (n : Nat) (x : UserCtx) : (s.setUser n x).clock = s.clock := rfl
@[simp] theorem State.setUser_out (s : State) (n : Nat) (x : UserCtx) : (s.setUser n x).out = s.out := rfl
@[simp] theorem State.setUser_events (s : State) (n : Nat) (x : UserCtx) : (s.setUser n x).events = s.events := rfl
@[simp] theorem State.setUser_host (s : State) (n : Nat) (x : UserCtx) : (s.setUser n x).host = s.host := rfl
@[simp] theorem State.setUser_time (s : State) (n : Nat) (x : UserCtx) : (s.setUser n x).time = s.time := rfl
@[simp] theorem State.setUser_sweep (s : State) (n : Nat) (x : UserCtx) : (s.setUser n x).sweep = s.sweep := rfl
@[simp] theorem State.setUser_adapt (s : State) (n : Nat) (x : UserCtx) : (s.setUser n x).adapt = s.adapt := rfl
@[simp] theorem State.setUser_tiles (s : State) (n : Nat) (x : UserCtx) : (s.setUser n x).tiles = s.tiles := rfl
@[simp] theorem State.setUser_clusters (s : State) (n : Nat) (x : UserCtx) : (s.setUser n x).clusters = s.clusters := rfl
@[simp] theorem State.setUser_csps (s : State) (n : Nat) (x : UserCtx) : (s.setUser n x).csps = s.csps := rfl
@[simp] theorem State.setUser_mem (s : State) (n : Nat) (x : UserCtx) : (s.setUser n x).mem = s.mem := rfl
@[simp] theorem State.setUser_wcache (s : State) (n : Nat) (x : UserCtx) : (s.setUser n x).wcache = s.wcache := rfl
@[simp] theorem State.setUser_sched (s : State) (n : Nat) (x : UserCtx) : (s.setUser n x).sched = s.sched := rfl
@[simp] theorem State.setUser_array (s : State) (n : Nat) (x : UserCtx) : (s.setUser n x).array = s.array := rfl
@[simp] theorem State.setUser_capture (s : State) (n : Nat) (x : UserCtx) : (s.setUser n x).capture = s.capture := rfl
@[simp] theorem State.setUser_assured (s : State) (n : Nat) (x : UserCtx) : (s.setUser n x).assured = s.assured := rfl
@[simp] theorem State.setUser_sec (s : State) (n : Nat) (x : UserCtx) : (s.setUser n x).sec = s.sec := rfl
@[simp] theorem State.setUser_power (s : State) (n : Nat) (x : UserCtx) : (s.setUser n x).power = s.power := rfl
@[simp] theorem State.setUser_rst (s : State) (n : Nat) (x : UserCtx) : (s.setUser n x).rst = s.rst := rfl
@[simp] theorem State.setUser_net (s : State) (n : Nat) (x : UserCtx) : (s.setUser n x).net = s.net := rfl
@[simp] theorem State.setUser_port (s : State) (n : Nat) (x : UserCtx) : (s.setUser n x).port = s.port := rfl
@[simp] theorem State.setUser_free (s : State) (n : Nat) (x : UserCtx) : (s.setUser n x).free = s.free := rfl
@[simp] theorem State.setUser_user (s : State) (n : Nat) (x : UserCtx) : (s.setUser n x).user n = x := Table.get_set
theorem State.setUser_user_ne (s : State) (n : Nat) (x : UserCtx) {m : Nat} (h : m ≠ n) : (s.setUser n x).user m = s.user m := Table.get_set_ne h
@[simp] theorem State.setUser_tile (s : State) (n : Nat) (x : UserCtx) (m : Nat) : (s.setUser n x).tile m = s.tile m := rfl
@[simp] theorem State.setUser_cluster (s : State) (n : Nat) (x : UserCtx) (m : Nat) : (s.setUser n x).cluster m = s.cluster m := rfl
@[simp] theorem State.setUser_csp (s : State) (n : Nat) (x : UserCtx) (m : Nat) : (s.setUser n x).csp m = s.csp m := rfl
@[simp] theorem State.setUser_cell (s : State) (n : Nat) (x : UserCtx) (m : Nat) : (s.setUser n x).cell m = s.cell m := rfl
@[simp] theorem State.setUser_bank (s : State) (n : Nat) (x : UserCtx) (m : Nat) : (s.setUser n x).bank m = s.bank m := rfl
@[simp] theorem State.setUser_chan (s : State) (n : Nat) (x : UserCtx) (m : Nat) : (s.setUser n x).chan m = s.chan m := rfl
@[simp] theorem State.setUser_ctx (s : State) (n : Nat) (x : UserCtx) (m : Nat) : (s.setUser n x).ctx m = s.ctx m := rfl
@[simp] theorem State.setUser_aset (s : State) (n : Nat) (x : UserCtx) (m : Nat) : (s.setUser n x).aset m = s.aset m := rfl
@[simp] theorem State.setUser_netPort (s : State) (n : Nat) (x : UserCtx) (m : Nat) : (s.setUser n x).netPort m = s.netPort m := rfl
@[simp] theorem State.setUser_sem (s : State) (n : Nat) (x : UserCtx) (m : Nat) : (s.setUser n x).sem m = s.sem m := rfl
@[simp] theorem State.setUser_powerOf (s : State) (n : Nat) (x : UserCtx) (m : Nat) : (s.setUser n x).powerOf m = s.powerOf m := rfl

/-! ## setBank -/

@[simp] theorem State.setBank_pending (s : State) (n : Nat) (x : BankSt) : (s.setBank n x).pending = s.pending := rfl
@[simp] theorem State.setBank_clock (s : State) (n : Nat) (x : BankSt) : (s.setBank n x).clock = s.clock := rfl
@[simp] theorem State.setBank_out (s : State) (n : Nat) (x : BankSt) : (s.setBank n x).out = s.out := rfl
@[simp] theorem State.setBank_events (s : State) (n : Nat) (x : BankSt) : (s.setBank n x).events = s.events := rfl
@[simp] theorem State.setBank_host (s : State) (n : Nat) (x : BankSt) : (s.setBank n x).host = s.host := rfl
@[simp] theorem State.setBank_time (s : State) (n : Nat) (x : BankSt) : (s.setBank n x).time = s.time := rfl
@[simp] theorem State.setBank_sweep (s : State) (n : Nat) (x : BankSt) : (s.setBank n x).sweep = s.sweep := rfl
@[simp] theorem State.setBank_adapt (s : State) (n : Nat) (x : BankSt) : (s.setBank n x).adapt = s.adapt := rfl
@[simp] theorem State.setBank_tiles (s : State) (n : Nat) (x : BankSt) : (s.setBank n x).tiles = s.tiles := rfl
@[simp] theorem State.setBank_clusters (s : State) (n : Nat) (x : BankSt) : (s.setBank n x).clusters = s.clusters := rfl
@[simp] theorem State.setBank_csps (s : State) (n : Nat) (x : BankSt) : (s.setBank n x).csps = s.csps := rfl
@[simp] theorem State.setBank_mem (s : State) (n : Nat) (x : BankSt) : (s.setBank n x).mem = s.mem := rfl
@[simp] theorem State.setBank_wcache (s : State) (n : Nat) (x : BankSt) : (s.setBank n x).wcache = s.wcache := rfl
@[simp] theorem State.setBank_sched (s : State) (n : Nat) (x : BankSt) : (s.setBank n x).sched = s.sched := rfl
@[simp] theorem State.setBank_array (s : State) (n : Nat) (x : BankSt) : (s.setBank n x).array = s.array := rfl
@[simp] theorem State.setBank_capture (s : State) (n : Nat) (x : BankSt) : (s.setBank n x).capture = s.capture := rfl
@[simp] theorem State.setBank_assured (s : State) (n : Nat) (x : BankSt) : (s.setBank n x).assured = s.assured := rfl
@[simp] theorem State.setBank_sec (s : State) (n : Nat) (x : BankSt) : (s.setBank n x).sec = s.sec := rfl
@[simp] theorem State.setBank_power (s : State) (n : Nat) (x : BankSt) : (s.setBank n x).power = s.power := rfl
@[simp] theorem State.setBank_rst (s : State) (n : Nat) (x : BankSt) : (s.setBank n x).rst = s.rst := rfl
@[simp] theorem State.setBank_net (s : State) (n : Nat) (x : BankSt) : (s.setBank n x).net = s.net := rfl
@[simp] theorem State.setBank_port (s : State) (n : Nat) (x : BankSt) : (s.setBank n x).port = s.port := rfl
@[simp] theorem State.setBank_free (s : State) (n : Nat) (x : BankSt) : (s.setBank n x).free = s.free := rfl
@[simp] theorem State.setBank_bank (s : State) (n : Nat) (x : BankSt) : (s.setBank n x).bank n = x := Table.get_set
theorem State.setBank_bank_ne (s : State) (n : Nat) (x : BankSt) {m : Nat} (h : m ≠ n) : (s.setBank n x).bank m = s.bank m := Table.get_set_ne h
@[simp] theorem State.setBank_tile (s : State) (n : Nat) (x : BankSt) (m : Nat) : (s.setBank n x).tile m = s.tile m := rfl
@[simp] theorem State.setBank_cluster (s : State) (n : Nat) (x : BankSt) (m : Nat) : (s.setBank n x).cluster m = s.cluster m := rfl
@[simp] theorem State.setBank_csp (s : State) (n : Nat) (x : BankSt) (m : Nat) : (s.setBank n x).csp m = s.csp m := rfl
@[simp] theorem State.setBank_cell (s : State) (n : Nat) (x : BankSt) (m : Nat) : (s.setBank n x).cell m = s.cell m := rfl
@[simp] theorem State.setBank_user (s : State) (n : Nat) (x : BankSt) (m : Nat) : (s.setBank n x).user m = s.user m := rfl
@[simp] theorem State.setBank_chan (s : State) (n : Nat) (x : BankSt) (m : Nat) : (s.setBank n x).chan m = s.chan m := rfl
@[simp] theorem State.setBank_ctx (s : State) (n : Nat) (x : BankSt) (m : Nat) : (s.setBank n x).ctx m = s.ctx m := rfl
@[simp] theorem State.setBank_aset (s : State) (n : Nat) (x : BankSt) (m : Nat) : (s.setBank n x).aset m = s.aset m := rfl
@[simp] theorem State.setBank_netPort (s : State) (n : Nat) (x : BankSt) (m : Nat) : (s.setBank n x).netPort m = s.netPort m := rfl
@[simp] theorem State.setBank_sem (s : State) (n : Nat) (x : BankSt) (m : Nat) : (s.setBank n x).sem m = s.sem m := rfl
@[simp] theorem State.setBank_powerOf (s : State) (n : Nat) (x : BankSt) (m : Nat) : (s.setBank n x).powerOf m = s.powerOf m := rfl

/-! ## setChan -/

@[simp] theorem State.setChan_pending (s : State) (n : Nat) (x : ChanSt) : (s.setChan n x).pending = s.pending := rfl
@[simp] theorem State.setChan_clock (s : State) (n : Nat) (x : ChanSt) : (s.setChan n x).clock = s.clock := rfl
@[simp] theorem State.setChan_out (s : State) (n : Nat) (x : ChanSt) : (s.setChan n x).out = s.out := rfl
@[simp] theorem State.setChan_events (s : State) (n : Nat) (x : ChanSt) : (s.setChan n x).events = s.events := rfl
@[simp] theorem State.setChan_host (s : State) (n : Nat) (x : ChanSt) : (s.setChan n x).host = s.host := rfl
@[simp] theorem State.setChan_time (s : State) (n : Nat) (x : ChanSt) : (s.setChan n x).time = s.time := rfl
@[simp] theorem State.setChan_radio (s : State) (n : Nat) (x : ChanSt) : (s.setChan n x).radio = s.radio := rfl
@[simp] theorem State.setChan_adapt (s : State) (n : Nat) (x : ChanSt) : (s.setChan n x).adapt = s.adapt := rfl
@[simp] theorem State.setChan_tiles (s : State) (n : Nat) (x : ChanSt) : (s.setChan n x).tiles = s.tiles := rfl
@[simp] theorem State.setChan_clusters (s : State) (n : Nat) (x : ChanSt) : (s.setChan n x).clusters = s.clusters := rfl
@[simp] theorem State.setChan_csps (s : State) (n : Nat) (x : ChanSt) : (s.setChan n x).csps = s.csps := rfl
@[simp] theorem State.setChan_mem (s : State) (n : Nat) (x : ChanSt) : (s.setChan n x).mem = s.mem := rfl
@[simp] theorem State.setChan_wcache (s : State) (n : Nat) (x : ChanSt) : (s.setChan n x).wcache = s.wcache := rfl
@[simp] theorem State.setChan_sched (s : State) (n : Nat) (x : ChanSt) : (s.setChan n x).sched = s.sched := rfl
@[simp] theorem State.setChan_array (s : State) (n : Nat) (x : ChanSt) : (s.setChan n x).array = s.array := rfl
@[simp] theorem State.setChan_capture (s : State) (n : Nat) (x : ChanSt) : (s.setChan n x).capture = s.capture := rfl
@[simp] theorem State.setChan_assured (s : State) (n : Nat) (x : ChanSt) : (s.setChan n x).assured = s.assured := rfl
@[simp] theorem State.setChan_sec (s : State) (n : Nat) (x : ChanSt) : (s.setChan n x).sec = s.sec := rfl
@[simp] theorem State.setChan_power (s : State) (n : Nat) (x : ChanSt) : (s.setChan n x).power = s.power := rfl
@[simp] theorem State.setChan_rst (s : State) (n : Nat) (x : ChanSt) : (s.setChan n x).rst = s.rst := rfl
@[simp] theorem State.setChan_net (s : State) (n : Nat) (x : ChanSt) : (s.setChan n x).net = s.net := rfl
@[simp] theorem State.setChan_port (s : State) (n : Nat) (x : ChanSt) : (s.setChan n x).port = s.port := rfl
@[simp] theorem State.setChan_free (s : State) (n : Nat) (x : ChanSt) : (s.setChan n x).free = s.free := rfl
@[simp] theorem State.setChan_chan (s : State) (n : Nat) (x : ChanSt) : (s.setChan n x).chan n = x := Table.get_set
theorem State.setChan_chan_ne (s : State) (n : Nat) (x : ChanSt) {m : Nat} (h : m ≠ n) : (s.setChan n x).chan m = s.chan m := Table.get_set_ne h
@[simp] theorem State.setChan_tile (s : State) (n : Nat) (x : ChanSt) (m : Nat) : (s.setChan n x).tile m = s.tile m := rfl
@[simp] theorem State.setChan_cluster (s : State) (n : Nat) (x : ChanSt) (m : Nat) : (s.setChan n x).cluster m = s.cluster m := rfl
@[simp] theorem State.setChan_csp (s : State) (n : Nat) (x : ChanSt) (m : Nat) : (s.setChan n x).csp m = s.csp m := rfl
@[simp] theorem State.setChan_cell (s : State) (n : Nat) (x : ChanSt) (m : Nat) : (s.setChan n x).cell m = s.cell m := rfl
@[simp] theorem State.setChan_user (s : State) (n : Nat) (x : ChanSt) (m : Nat) : (s.setChan n x).user m = s.user m := rfl
@[simp] theorem State.setChan_bank (s : State) (n : Nat) (x : ChanSt) (m : Nat) : (s.setChan n x).bank m = s.bank m := rfl
@[simp] theorem State.setChan_ctx (s : State) (n : Nat) (x : ChanSt) (m : Nat) : (s.setChan n x).ctx m = s.ctx m := rfl
@[simp] theorem State.setChan_aset (s : State) (n : Nat) (x : ChanSt) (m : Nat) : (s.setChan n x).aset m = s.aset m := rfl
@[simp] theorem State.setChan_netPort (s : State) (n : Nat) (x : ChanSt) (m : Nat) : (s.setChan n x).netPort m = s.netPort m := rfl
@[simp] theorem State.setChan_sem (s : State) (n : Nat) (x : ChanSt) (m : Nat) : (s.setChan n x).sem m = s.sem m := rfl
@[simp] theorem State.setChan_powerOf (s : State) (n : Nat) (x : ChanSt) (m : Nat) : (s.setChan n x).powerOf m = s.powerOf m := rfl

/-! ## modChan -/

@[simp] theorem State.modChan_pending (s : State) (n : Nat) (f : ChanSt → ChanSt) : (s.modChan n f).pending = s.pending := rfl
@[simp] theorem State.modChan_clock (s : State) (n : Nat) (f : ChanSt → ChanSt) : (s.modChan n f).clock = s.clock := rfl
@[simp] theorem State.modChan_out (s : State) (n : Nat) (f : ChanSt → ChanSt) : (s.modChan n f).out = s.out := rfl
@[simp] theorem State.modChan_events (s : State) (n : Nat) (f : ChanSt → ChanSt) : (s.modChan n f).events = s.events := rfl
@[simp] theorem State.modChan_host (s : State) (n : Nat) (f : ChanSt → ChanSt) : (s.modChan n f).host = s.host := rfl
@[simp] theorem State.modChan_time (s : State) (n : Nat) (f : ChanSt → ChanSt) : (s.modChan n f).time = s.time := rfl
@[simp] theorem State.modChan_radio (s : State) (n : Nat) (f : ChanSt → ChanSt) : (s.modChan n f).radio = s.radio := rfl
@[simp] theorem State.modChan_adapt (s : State) (n : Nat) (f : ChanSt → ChanSt) : (s.modChan n f).adapt = s.adapt := rfl
@[simp] theorem State.modChan_tiles (s : State) (n : Nat) (f : ChanSt → ChanSt) : (s.modChan n f).tiles = s.tiles := rfl
@[simp] theorem State.modChan_clusters (s : State) (n : Nat) (f : ChanSt → ChanSt) : (s.modChan n f).clusters = s.clusters := rfl
@[simp] theorem State.modChan_csps (s : State) (n : Nat) (f : ChanSt → ChanSt) : (s.modChan n f).csps = s.csps := rfl
@[simp] theorem State.modChan_mem (s : State) (n : Nat) (f : ChanSt → ChanSt) : (s.modChan n f).mem = s.mem := rfl
@[simp] theorem State.modChan_wcache (s : State) (n : Nat) (f : ChanSt → ChanSt) : (s.modChan n f).wcache = s.wcache := rfl
@[simp] theorem State.modChan_sched (s : State) (n : Nat) (f : ChanSt → ChanSt) : (s.modChan n f).sched = s.sched := rfl
@[simp] theorem State.modChan_array (s : State) (n : Nat) (f : ChanSt → ChanSt) : (s.modChan n f).array = s.array := rfl
@[simp] theorem State.modChan_capture (s : State) (n : Nat) (f : ChanSt → ChanSt) : (s.modChan n f).capture = s.capture := rfl
@[simp] theorem State.modChan_assured (s : State) (n : Nat) (f : ChanSt → ChanSt) : (s.modChan n f).assured = s.assured := rfl
@[simp] theorem State.modChan_sec (s : State) (n : Nat) (f : ChanSt → ChanSt) : (s.modChan n f).sec = s.sec := rfl
@[simp] theorem State.modChan_power (s : State) (n : Nat) (f : ChanSt → ChanSt) : (s.modChan n f).power = s.power := rfl
@[simp] theorem State.modChan_rst (s : State) (n : Nat) (f : ChanSt → ChanSt) : (s.modChan n f).rst = s.rst := rfl
@[simp] theorem State.modChan_net (s : State) (n : Nat) (f : ChanSt → ChanSt) : (s.modChan n f).net = s.net := rfl
@[simp] theorem State.modChan_port (s : State) (n : Nat) (f : ChanSt → ChanSt) : (s.modChan n f).port = s.port := rfl
@[simp] theorem State.modChan_free (s : State) (n : Nat) (f : ChanSt → ChanSt) : (s.modChan n f).free = s.free := rfl
@[simp] theorem State.modChan_chan (s : State) (n : Nat) (f : ChanSt → ChanSt) : (s.modChan n f).chan n = f (s.chan n) := Table.get_set
theorem State.modChan_chan_ne (s : State) (n : Nat) (f : ChanSt → ChanSt) {m : Nat} (h : m ≠ n) : (s.modChan n f).chan m = s.chan m := Table.get_set_ne h
@[simp] theorem State.modChan_tile (s : State) (n : Nat) (f : ChanSt → ChanSt) (m : Nat) : (s.modChan n f).tile m = s.tile m := rfl
@[simp] theorem State.modChan_cluster (s : State) (n : Nat) (f : ChanSt → ChanSt) (m : Nat) : (s.modChan n f).cluster m = s.cluster m := rfl
@[simp] theorem State.modChan_csp (s : State) (n : Nat) (f : ChanSt → ChanSt) (m : Nat) : (s.modChan n f).csp m = s.csp m := rfl
@[simp] theorem State.modChan_cell (s : State) (n : Nat) (f : ChanSt → ChanSt) (m : Nat) : (s.modChan n f).cell m = s.cell m := rfl
@[simp] theorem State.modChan_user (s : State) (n : Nat) (f : ChanSt → ChanSt) (m : Nat) : (s.modChan n f).user m = s.user m := rfl
@[simp] theorem State.modChan_bank (s : State) (n : Nat) (f : ChanSt → ChanSt) (m : Nat) : (s.modChan n f).bank m = s.bank m := rfl
@[simp] theorem State.modChan_ctx (s : State) (n : Nat) (f : ChanSt → ChanSt) (m : Nat) : (s.modChan n f).ctx m = s.ctx m := rfl
@[simp] theorem State.modChan_aset (s : State) (n : Nat) (f : ChanSt → ChanSt) (m : Nat) : (s.modChan n f).aset m = s.aset m := rfl
@[simp] theorem State.modChan_netPort (s : State) (n : Nat) (f : ChanSt → ChanSt) (m : Nat) : (s.modChan n f).netPort m = s.netPort m := rfl
@[simp] theorem State.modChan_sem (s : State) (n : Nat) (f : ChanSt → ChanSt) (m : Nat) : (s.modChan n f).sem m = s.sem m := rfl
@[simp] theorem State.modChan_powerOf (s : State) (n : Nat) (f : ChanSt → ChanSt) (m : Nat) : (s.modChan n f).powerOf m = s.powerOf m := rfl

/-! ## setCtx -/

@[simp] theorem State.setCtx_pending (s : State) (n : Nat) (x : EndCtx) : (s.setCtx n x).pending = s.pending := rfl
@[simp] theorem State.setCtx_clock (s : State) (n : Nat) (x : EndCtx) : (s.setCtx n x).clock = s.clock := rfl
@[simp] theorem State.setCtx_out (s : State) (n : Nat) (x : EndCtx) : (s.setCtx n x).out = s.out := rfl
@[simp] theorem State.setCtx_events (s : State) (n : Nat) (x : EndCtx) : (s.setCtx n x).events = s.events := rfl
@[simp] theorem State.setCtx_host (s : State) (n : Nat) (x : EndCtx) : (s.setCtx n x).host = s.host := rfl
@[simp] theorem State.setCtx_time (s : State) (n : Nat) (x : EndCtx) : (s.setCtx n x).time = s.time := rfl
@[simp] theorem State.setCtx_radio (s : State) (n : Nat) (x : EndCtx) : (s.setCtx n x).radio = s.radio := rfl
@[simp] theorem State.setCtx_adapt (s : State) (n : Nat) (x : EndCtx) : (s.setCtx n x).adapt = s.adapt := rfl
@[simp] theorem State.setCtx_tiles (s : State) (n : Nat) (x : EndCtx) : (s.setCtx n x).tiles = s.tiles := rfl
@[simp] theorem State.setCtx_clusters (s : State) (n : Nat) (x : EndCtx) : (s.setCtx n x).clusters = s.clusters := rfl
@[simp] theorem State.setCtx_csps (s : State) (n : Nat) (x : EndCtx) : (s.setCtx n x).csps = s.csps := rfl
@[simp] theorem State.setCtx_mem (s : State) (n : Nat) (x : EndCtx) : (s.setCtx n x).mem = s.mem := rfl
@[simp] theorem State.setCtx_wcache (s : State) (n : Nat) (x : EndCtx) : (s.setCtx n x).wcache = s.wcache := rfl
@[simp] theorem State.setCtx_sched (s : State) (n : Nat) (x : EndCtx) : (s.setCtx n x).sched = s.sched := rfl
@[simp] theorem State.setCtx_array (s : State) (n : Nat) (x : EndCtx) : (s.setCtx n x).array = s.array := rfl
@[simp] theorem State.setCtx_capture (s : State) (n : Nat) (x : EndCtx) : (s.setCtx n x).capture = s.capture := rfl
@[simp] theorem State.setCtx_assured (s : State) (n : Nat) (x : EndCtx) : (s.setCtx n x).assured = s.assured := rfl
@[simp] theorem State.setCtx_sec (s : State) (n : Nat) (x : EndCtx) : (s.setCtx n x).sec = s.sec := rfl
@[simp] theorem State.setCtx_power (s : State) (n : Nat) (x : EndCtx) : (s.setCtx n x).power = s.power := rfl
@[simp] theorem State.setCtx_rst (s : State) (n : Nat) (x : EndCtx) : (s.setCtx n x).rst = s.rst := rfl
@[simp] theorem State.setCtx_net (s : State) (n : Nat) (x : EndCtx) : (s.setCtx n x).net = s.net := rfl
@[simp] theorem State.setCtx_port (s : State) (n : Nat) (x : EndCtx) : (s.setCtx n x).port = s.port := rfl
@[simp] theorem State.setCtx_free (s : State) (n : Nat) (x : EndCtx) : (s.setCtx n x).free = s.free := rfl
@[simp] theorem State.setCtx_ctx (s : State) (n : Nat) (x : EndCtx) : (s.setCtx n x).ctx n = x := Table.get_set
theorem State.setCtx_ctx_ne (s : State) (n : Nat) (x : EndCtx) {m : Nat} (h : m ≠ n) : (s.setCtx n x).ctx m = s.ctx m := Table.get_set_ne h
@[simp] theorem State.setCtx_tile (s : State) (n : Nat) (x : EndCtx) (m : Nat) : (s.setCtx n x).tile m = s.tile m := rfl
@[simp] theorem State.setCtx_cluster (s : State) (n : Nat) (x : EndCtx) (m : Nat) : (s.setCtx n x).cluster m = s.cluster m := rfl
@[simp] theorem State.setCtx_csp (s : State) (n : Nat) (x : EndCtx) (m : Nat) : (s.setCtx n x).csp m = s.csp m := rfl
@[simp] theorem State.setCtx_cell (s : State) (n : Nat) (x : EndCtx) (m : Nat) : (s.setCtx n x).cell m = s.cell m := rfl
@[simp] theorem State.setCtx_user (s : State) (n : Nat) (x : EndCtx) (m : Nat) : (s.setCtx n x).user m = s.user m := rfl
@[simp] theorem State.setCtx_bank (s : State) (n : Nat) (x : EndCtx) (m : Nat) : (s.setCtx n x).bank m = s.bank m := rfl
@[simp] theorem State.setCtx_chan (s : State) (n : Nat) (x : EndCtx) (m : Nat) : (s.setCtx n x).chan m = s.chan m := rfl
@[simp] theorem State.setCtx_aset (s : State) (n : Nat) (x : EndCtx) (m : Nat) : (s.setCtx n x).aset m = s.aset m := rfl
@[simp] theorem State.setCtx_netPort (s : State) (n : Nat) (x : EndCtx) (m : Nat) : (s.setCtx n x).netPort m = s.netPort m := rfl
@[simp] theorem State.setCtx_sem (s : State) (n : Nat) (x : EndCtx) (m : Nat) : (s.setCtx n x).sem m = s.sem m := rfl
@[simp] theorem State.setCtx_powerOf (s : State) (n : Nat) (x : EndCtx) (m : Nat) : (s.setCtx n x).powerOf m = s.powerOf m := rfl

/-! ## setAset -/

@[simp] theorem State.setAset_pending (s : State) (n : Nat) (x : AdaptSet) : (s.setAset n x).pending = s.pending := rfl
@[simp] theorem State.setAset_clock (s : State) (n : Nat) (x : AdaptSet) : (s.setAset n x).clock = s.clock := rfl
@[simp] theorem State.setAset_out (s : State) (n : Nat) (x : AdaptSet) : (s.setAset n x).out = s.out := rfl
@[simp] theorem State.setAset_events (s : State) (n : Nat) (x : AdaptSet) : (s.setAset n x).events = s.events := rfl
@[simp] theorem State.setAset_host (s : State) (n : Nat) (x : AdaptSet) : (s.setAset n x).host = s.host := rfl
@[simp] theorem State.setAset_time (s : State) (n : Nat) (x : AdaptSet) : (s.setAset n x).time = s.time := rfl
@[simp] theorem State.setAset_radio (s : State) (n : Nat) (x : AdaptSet) : (s.setAset n x).radio = s.radio := rfl
@[simp] theorem State.setAset_sweep (s : State) (n : Nat) (x : AdaptSet) : (s.setAset n x).sweep = s.sweep := rfl
@[simp] theorem State.setAset_tiles (s : State) (n : Nat) (x : AdaptSet) : (s.setAset n x).tiles = s.tiles := rfl
@[simp] theorem State.setAset_clusters (s : State) (n : Nat) (x : AdaptSet) : (s.setAset n x).clusters = s.clusters := rfl
@[simp] theorem State.setAset_csps (s : State) (n : Nat) (x : AdaptSet) : (s.setAset n x).csps = s.csps := rfl
@[simp] theorem State.setAset_mem (s : State) (n : Nat) (x : AdaptSet) : (s.setAset n x).mem = s.mem := rfl
@[simp] theorem State.setAset_wcache (s : State) (n : Nat) (x : AdaptSet) : (s.setAset n x).wcache = s.wcache := rfl
@[simp] theorem State.setAset_sched (s : State) (n : Nat) (x : AdaptSet) : (s.setAset n x).sched = s.sched := rfl
@[simp] theorem State.setAset_array (s : State) (n : Nat) (x : AdaptSet) : (s.setAset n x).array = s.array := rfl
@[simp] theorem State.setAset_capture (s : State) (n : Nat) (x : AdaptSet) : (s.setAset n x).capture = s.capture := rfl
@[simp] theorem State.setAset_assured (s : State) (n : Nat) (x : AdaptSet) : (s.setAset n x).assured = s.assured := rfl
@[simp] theorem State.setAset_sec (s : State) (n : Nat) (x : AdaptSet) : (s.setAset n x).sec = s.sec := rfl
@[simp] theorem State.setAset_power (s : State) (n : Nat) (x : AdaptSet) : (s.setAset n x).power = s.power := rfl
@[simp] theorem State.setAset_rst (s : State) (n : Nat) (x : AdaptSet) : (s.setAset n x).rst = s.rst := rfl
@[simp] theorem State.setAset_net (s : State) (n : Nat) (x : AdaptSet) : (s.setAset n x).net = s.net := rfl
@[simp] theorem State.setAset_port (s : State) (n : Nat) (x : AdaptSet) : (s.setAset n x).port = s.port := rfl
@[simp] theorem State.setAset_free (s : State) (n : Nat) (x : AdaptSet) : (s.setAset n x).free = s.free := rfl
@[simp] theorem State.setAset_aset (s : State) (n : Nat) (x : AdaptSet) : (s.setAset n x).aset n = x := Table.get_set
theorem State.setAset_aset_ne (s : State) (n : Nat) (x : AdaptSet) {m : Nat} (h : m ≠ n) : (s.setAset n x).aset m = s.aset m := Table.get_set_ne h
@[simp] theorem State.setAset_tile (s : State) (n : Nat) (x : AdaptSet) (m : Nat) : (s.setAset n x).tile m = s.tile m := rfl
@[simp] theorem State.setAset_cluster (s : State) (n : Nat) (x : AdaptSet) (m : Nat) : (s.setAset n x).cluster m = s.cluster m := rfl
@[simp] theorem State.setAset_csp (s : State) (n : Nat) (x : AdaptSet) (m : Nat) : (s.setAset n x).csp m = s.csp m := rfl
@[simp] theorem State.setAset_cell (s : State) (n : Nat) (x : AdaptSet) (m : Nat) : (s.setAset n x).cell m = s.cell m := rfl
@[simp] theorem State.setAset_user (s : State) (n : Nat) (x : AdaptSet) (m : Nat) : (s.setAset n x).user m = s.user m := rfl
@[simp] theorem State.setAset_bank (s : State) (n : Nat) (x : AdaptSet) (m : Nat) : (s.setAset n x).bank m = s.bank m := rfl
@[simp] theorem State.setAset_chan (s : State) (n : Nat) (x : AdaptSet) (m : Nat) : (s.setAset n x).chan m = s.chan m := rfl
@[simp] theorem State.setAset_ctx (s : State) (n : Nat) (x : AdaptSet) (m : Nat) : (s.setAset n x).ctx m = s.ctx m := rfl
@[simp] theorem State.setAset_netPort (s : State) (n : Nat) (x : AdaptSet) (m : Nat) : (s.setAset n x).netPort m = s.netPort m := rfl
@[simp] theorem State.setAset_sem (s : State) (n : Nat) (x : AdaptSet) (m : Nat) : (s.setAset n x).sem m = s.sem m := rfl
@[simp] theorem State.setAset_powerOf (s : State) (n : Nat) (x : AdaptSet) (m : Nat) : (s.setAset n x).powerOf m = s.powerOf m := rfl

/-! ## setPort -/

@[simp] theorem State.setPort_pending (s : State) (n : Nat) (x : Port) : (s.setPort n x).pending = s.pending := rfl
@[simp] theorem State.setPort_clock (s : State) (n : Nat) (x : Port) : (s.setPort n x).clock = s.clock := rfl
@[simp] theorem State.setPort_out (s : State) (n : Nat) (x : Port) : (s.setPort n x).out = s.out := rfl
@[simp] theorem State.setPort_events (s : State) (n : Nat) (x : Port) : (s.setPort n x).events = s.events := rfl
@[simp] theorem State.setPort_host (s : State) (n : Nat) (x : Port) : (s.setPort n x).host = s.host := rfl
@[simp] theorem State.setPort_time (s : State) (n : Nat) (x : Port) : (s.setPort n x).time = s.time := rfl
@[simp] theorem State.setPort_radio (s : State) (n : Nat) (x : Port) : (s.setPort n x).radio = s.radio := rfl
@[simp] theorem State.setPort_sweep (s : State) (n : Nat) (x : Port) : (s.setPort n x).sweep = s.sweep := rfl
@[simp] theorem State.setPort_adapt (s : State) (n : Nat) (x : Port) : (s.setPort n x).adapt = s.adapt := rfl
@[simp] theorem State.setPort_tiles (s : State) (n : Nat) (x : Port) : (s.setPort n x).tiles = s.tiles := rfl
@[simp] theorem State.setPort_clusters (s : State) (n : Nat) (x : Port) : (s.setPort n x).clusters = s.clusters := rfl
@[simp] theorem State.setPort_csps (s : State) (n : Nat) (x : Port) : (s.setPort n x).csps = s.csps := rfl
@[simp] theorem State.setPort_mem (s : State) (n : Nat) (x : Port) : (s.setPort n x).mem = s.mem := rfl
@[simp] theorem State.setPort_wcache (s : State) (n : Nat) (x : Port) : (s.setPort n x).wcache = s.wcache := rfl
@[simp] theorem State.setPort_sched (s : State) (n : Nat) (x : Port) : (s.setPort n x).sched = s.sched := rfl
@[simp] theorem State.setPort_array (s : State) (n : Nat) (x : Port) : (s.setPort n x).array = s.array := rfl
@[simp] theorem State.setPort_capture (s : State) (n : Nat) (x : Port) : (s.setPort n x).capture = s.capture := rfl
@[simp] theorem State.setPort_assured (s : State) (n : Nat) (x : Port) : (s.setPort n x).assured = s.assured := rfl
@[simp] theorem State.setPort_sec (s : State) (n : Nat) (x : Port) : (s.setPort n x).sec = s.sec := rfl
@[simp] theorem State.setPort_power (s : State) (n : Nat) (x : Port) : (s.setPort n x).power = s.power := rfl
@[simp] theorem State.setPort_rst (s : State) (n : Nat) (x : Port) : (s.setPort n x).rst = s.rst := rfl
@[simp] theorem State.setPort_port (s : State) (n : Nat) (x : Port) : (s.setPort n x).port = s.port := rfl
@[simp] theorem State.setPort_free (s : State) (n : Nat) (x : Port) : (s.setPort n x).free = s.free := rfl
@[simp] theorem State.setPort_netPort (s : State) (n : Nat) (x : Port) : (s.setPort n x).netPort n = x := Table.get_set
theorem State.setPort_netPort_ne (s : State) (n : Nat) (x : Port) {m : Nat} (h : m ≠ n) : (s.setPort n x).netPort m = s.netPort m := Table.get_set_ne h
@[simp] theorem State.setPort_tile (s : State) (n : Nat) (x : Port) (m : Nat) : (s.setPort n x).tile m = s.tile m := rfl
@[simp] theorem State.setPort_cluster (s : State) (n : Nat) (x : Port) (m : Nat) : (s.setPort n x).cluster m = s.cluster m := rfl
@[simp] theorem State.setPort_csp (s : State) (n : Nat) (x : Port) (m : Nat) : (s.setPort n x).csp m = s.csp m := rfl
@[simp] theorem State.setPort_cell (s : State) (n : Nat) (x : Port) (m : Nat) : (s.setPort n x).cell m = s.cell m := rfl
@[simp] theorem State.setPort_user (s : State) (n : Nat) (x : Port) (m : Nat) : (s.setPort n x).user m = s.user m := rfl
@[simp] theorem State.setPort_bank (s : State) (n : Nat) (x : Port) (m : Nat) : (s.setPort n x).bank m = s.bank m := rfl
@[simp] theorem State.setPort_chan (s : State) (n : Nat) (x : Port) (m : Nat) : (s.setPort n x).chan m = s.chan m := rfl
@[simp] theorem State.setPort_ctx (s : State) (n : Nat) (x : Port) (m : Nat) : (s.setPort n x).ctx m = s.ctx m := rfl
@[simp] theorem State.setPort_aset (s : State) (n : Nat) (x : Port) (m : Nat) : (s.setPort n x).aset m = s.aset m := rfl
@[simp] theorem State.setPort_sem (s : State) (n : Nat) (x : Port) (m : Nat) : (s.setPort n x).sem m = s.sem m := rfl
@[simp] theorem State.setPort_powerOf (s : State) (n : Nat) (x : Port) (m : Nat) : (s.setPort n x).powerOf m = s.powerOf m := rfl

/-! ## modPort -/

@[simp] theorem State.modPort_pending (s : State) (n : Nat) (f : Port → Port) : (s.modPort n f).pending = s.pending := rfl
@[simp] theorem State.modPort_clock (s : State) (n : Nat) (f : Port → Port) : (s.modPort n f).clock = s.clock := rfl
@[simp] theorem State.modPort_out (s : State) (n : Nat) (f : Port → Port) : (s.modPort n f).out = s.out := rfl
@[simp] theorem State.modPort_events (s : State) (n : Nat) (f : Port → Port) : (s.modPort n f).events = s.events := rfl
@[simp] theorem State.modPort_host (s : State) (n : Nat) (f : Port → Port) : (s.modPort n f).host = s.host := rfl
@[simp] theorem State.modPort_time (s : State) (n : Nat) (f : Port → Port) : (s.modPort n f).time = s.time := rfl
@[simp] theorem State.modPort_radio (s : State) (n : Nat) (f : Port → Port) : (s.modPort n f).radio = s.radio := rfl
@[simp] theorem State.modPort_sweep (s : State) (n : Nat) (f : Port → Port) : (s.modPort n f).sweep = s.sweep := rfl
@[simp] theorem State.modPort_adapt (s : State) (n : Nat) (f : Port → Port) : (s.modPort n f).adapt = s.adapt := rfl
@[simp] theorem State.modPort_tiles (s : State) (n : Nat) (f : Port → Port) : (s.modPort n f).tiles = s.tiles := rfl
@[simp] theorem State.modPort_clusters (s : State) (n : Nat) (f : Port → Port) : (s.modPort n f).clusters = s.clusters := rfl
@[simp] theorem State.modPort_csps (s : State) (n : Nat) (f : Port → Port) : (s.modPort n f).csps = s.csps := rfl
@[simp] theorem State.modPort_mem (s : State) (n : Nat) (f : Port → Port) : (s.modPort n f).mem = s.mem := rfl
@[simp] theorem State.modPort_wcache (s : State) (n : Nat) (f : Port → Port) : (s.modPort n f).wcache = s.wcache := rfl
@[simp] theorem State.modPort_sched (s : State) (n : Nat) (f : Port → Port) : (s.modPort n f).sched = s.sched := rfl
@[simp] theorem State.modPort_array (s : State) (n : Nat) (f : Port → Port) : (s.modPort n f).array = s.array := rfl
@[simp] theorem State.modPort_capture (s : State) (n : Nat) (f : Port → Port) : (s.modPort n f).capture = s.capture := rfl
@[simp] theorem State.modPort_assured (s : State) (n : Nat) (f : Port → Port) : (s.modPort n f).assured = s.assured := rfl
@[simp] theorem State.modPort_sec (s : State) (n : Nat) (f : Port → Port) : (s.modPort n f).sec = s.sec := rfl
@[simp] theorem State.modPort_power (s : State) (n : Nat) (f : Port → Port) : (s.modPort n f).power = s.power := rfl
@[simp] theorem State.modPort_rst (s : State) (n : Nat) (f : Port → Port) : (s.modPort n f).rst = s.rst := rfl
@[simp] theorem State.modPort_port (s : State) (n : Nat) (f : Port → Port) : (s.modPort n f).port = s.port := rfl
@[simp] theorem State.modPort_free (s : State) (n : Nat) (f : Port → Port) : (s.modPort n f).free = s.free := rfl
@[simp] theorem State.modPort_netPort (s : State) (n : Nat) (f : Port → Port) : (s.modPort n f).netPort n = f (s.netPort n) := Table.get_set
theorem State.modPort_netPort_ne (s : State) (n : Nat) (f : Port → Port) {m : Nat} (h : m ≠ n) : (s.modPort n f).netPort m = s.netPort m := Table.get_set_ne h
@[simp] theorem State.modPort_tile (s : State) (n : Nat) (f : Port → Port) (m : Nat) : (s.modPort n f).tile m = s.tile m := rfl
@[simp] theorem State.modPort_cluster (s : State) (n : Nat) (f : Port → Port) (m : Nat) : (s.modPort n f).cluster m = s.cluster m := rfl
@[simp] theorem State.modPort_csp (s : State) (n : Nat) (f : Port → Port) (m : Nat) : (s.modPort n f).csp m = s.csp m := rfl
@[simp] theorem State.modPort_cell (s : State) (n : Nat) (f : Port → Port) (m : Nat) : (s.modPort n f).cell m = s.cell m := rfl
@[simp] theorem State.modPort_user (s : State) (n : Nat) (f : Port → Port) (m : Nat) : (s.modPort n f).user m = s.user m := rfl
@[simp] theorem State.modPort_bank (s : State) (n : Nat) (f : Port → Port) (m : Nat) : (s.modPort n f).bank m = s.bank m := rfl
@[simp] theorem State.modPort_chan (s : State) (n : Nat) (f : Port → Port) (m : Nat) : (s.modPort n f).chan m = s.chan m := rfl
@[simp] theorem State.modPort_ctx (s : State) (n : Nat) (f : Port → Port) (m : Nat) : (s.modPort n f).ctx m = s.ctx m := rfl
@[simp] theorem State.modPort_aset (s : State) (n : Nat) (f : Port → Port) (m : Nat) : (s.modPort n f).aset m = s.aset m := rfl
@[simp] theorem State.modPort_sem (s : State) (n : Nat) (f : Port → Port) (m : Nat) : (s.modPort n f).sem m = s.sem m := rfl
@[simp] theorem State.modPort_powerOf (s : State) (n : Nat) (f : Port → Port) (m : Nat) : (s.modPort n f).powerOf m = s.powerOf m := rfl

/-! ## setSem -/

@[simp] theorem State.setSem_pending (s : State) (n : Nat) (x : Sem) : (s.setSem n x).pending = s.pending := rfl
@[simp] theorem State.setSem_clock (s : State) (n : Nat) (x : Sem) : (s.setSem n x).clock = s.clock := rfl
@[simp] theorem State.setSem_out (s : State) (n : Nat) (x : Sem) : (s.setSem n x).out = s.out := rfl
@[simp] theorem State.setSem_events (s : State) (n : Nat) (x : Sem) : (s.setSem n x).events = s.events := rfl
@[simp] theorem State.setSem_host (s : State) (n : Nat) (x : Sem) : (s.setSem n x).host = s.host := rfl
@[simp] theorem State.setSem_time (s : State) (n : Nat) (x : Sem) : (s.setSem n x).time = s.time := rfl
@[simp] theorem State.setSem_radio (s : State) (n : Nat) (x : Sem) : (s.setSem n x).radio = s.radio := rfl
@[simp] theorem State.setSem_sweep (s : State) (n : Nat) (x : Sem) : (s.setSem n x).sweep = s.sweep := rfl
@[simp] theorem State.setSem_adapt (s : State) (n : Nat) (x : Sem) : (s.setSem n x).adapt = s.adapt := rfl
@[simp] theorem State.setSem_tiles (s : State) (n : Nat) (x : Sem) : (s.setSem n x).tiles = s.tiles := rfl
@[simp] theorem State.setSem_clusters (s : State) (n : Nat) (x : Sem) : (s.setSem n x).clusters = s.clusters := rfl
@[simp] theorem State.setSem_csps (s : State) (n : Nat) (x : Sem) : (s.setSem n x).csps = s.csps := rfl
@[simp] theorem State.setSem_mem (s : State) (n : Nat) (x : Sem) : (s.setSem n x).mem = s.mem := rfl
@[simp] theorem State.setSem_wcache (s : State) (n : Nat) (x : Sem) : (s.setSem n x).wcache = s.wcache := rfl
@[simp] theorem State.setSem_array (s : State) (n : Nat) (x : Sem) : (s.setSem n x).array = s.array := rfl
@[simp] theorem State.setSem_capture (s : State) (n : Nat) (x : Sem) : (s.setSem n x).capture = s.capture := rfl
@[simp] theorem State.setSem_assured (s : State) (n : Nat) (x : Sem) : (s.setSem n x).assured = s.assured := rfl
@[simp] theorem State.setSem_sec (s : State) (n : Nat) (x : Sem) : (s.setSem n x).sec = s.sec := rfl
@[simp] theorem State.setSem_power (s : State) (n : Nat) (x : Sem) : (s.setSem n x).power = s.power := rfl
@[simp] theorem State.setSem_rst (s : State) (n : Nat) (x : Sem) : (s.setSem n x).rst = s.rst := rfl
@[simp] theorem State.setSem_net (s : State) (n : Nat) (x : Sem) : (s.setSem n x).net = s.net := rfl
@[simp] theorem State.setSem_port (s : State) (n : Nat) (x : Sem) : (s.setSem n x).port = s.port := rfl
@[simp] theorem State.setSem_free (s : State) (n : Nat) (x : Sem) : (s.setSem n x).free = s.free := rfl
@[simp] theorem State.setSem_sem (s : State) (n : Nat) (x : Sem) : (s.setSem n x).sem n = x := Table.get_set
theorem State.setSem_sem_ne (s : State) (n : Nat) (x : Sem) {m : Nat} (h : m ≠ n) : (s.setSem n x).sem m = s.sem m := Table.get_set_ne h
@[simp] theorem State.setSem_tile (s : State) (n : Nat) (x : Sem) (m : Nat) : (s.setSem n x).tile m = s.tile m := rfl
@[simp] theorem State.setSem_cluster (s : State) (n : Nat) (x : Sem) (m : Nat) : (s.setSem n x).cluster m = s.cluster m := rfl
@[simp] theorem State.setSem_csp (s : State) (n : Nat) (x : Sem) (m : Nat) : (s.setSem n x).csp m = s.csp m := rfl
@[simp] theorem State.setSem_cell (s : State) (n : Nat) (x : Sem) (m : Nat) : (s.setSem n x).cell m = s.cell m := rfl
@[simp] theorem State.setSem_user (s : State) (n : Nat) (x : Sem) (m : Nat) : (s.setSem n x).user m = s.user m := rfl
@[simp] theorem State.setSem_bank (s : State) (n : Nat) (x : Sem) (m : Nat) : (s.setSem n x).bank m = s.bank m := rfl
@[simp] theorem State.setSem_chan (s : State) (n : Nat) (x : Sem) (m : Nat) : (s.setSem n x).chan m = s.chan m := rfl
@[simp] theorem State.setSem_ctx (s : State) (n : Nat) (x : Sem) (m : Nat) : (s.setSem n x).ctx m = s.ctx m := rfl
@[simp] theorem State.setSem_aset (s : State) (n : Nat) (x : Sem) (m : Nat) : (s.setSem n x).aset m = s.aset m := rfl
@[simp] theorem State.setSem_netPort (s : State) (n : Nat) (x : Sem) (m : Nat) : (s.setSem n x).netPort m = s.netPort m := rfl
@[simp] theorem State.setSem_powerOf (s : State) (n : Nat) (x : Sem) (m : Nat) : (s.setSem n x).powerOf m = s.powerOf m := rfl

/-! ## setPowerOf -/

@[simp] theorem State.setPowerOf_pending (s : State) (n : Nat) (x : PowerSt) : (s.setPowerOf n x).pending = s.pending := rfl
@[simp] theorem State.setPowerOf_clock (s : State) (n : Nat) (x : PowerSt) : (s.setPowerOf n x).clock = s.clock := rfl
@[simp] theorem State.setPowerOf_out (s : State) (n : Nat) (x : PowerSt) : (s.setPowerOf n x).out = s.out := rfl
@[simp] theorem State.setPowerOf_events (s : State) (n : Nat) (x : PowerSt) : (s.setPowerOf n x).events = s.events := rfl
@[simp] theorem State.setPowerOf_host (s : State) (n : Nat) (x : PowerSt) : (s.setPowerOf n x).host = s.host := rfl
@[simp] theorem State.setPowerOf_time (s : State) (n : Nat) (x : PowerSt) : (s.setPowerOf n x).time = s.time := rfl
@[simp] theorem State.setPowerOf_radio (s : State) (n : Nat) (x : PowerSt) : (s.setPowerOf n x).radio = s.radio := rfl
@[simp] theorem State.setPowerOf_sweep (s : State) (n : Nat) (x : PowerSt) : (s.setPowerOf n x).sweep = s.sweep := rfl
@[simp] theorem State.setPowerOf_adapt (s : State) (n : Nat) (x : PowerSt) : (s.setPowerOf n x).adapt = s.adapt := rfl
@[simp] theorem State.setPowerOf_tiles (s : State) (n : Nat) (x : PowerSt) : (s.setPowerOf n x).tiles = s.tiles := rfl
@[simp] theorem State.setPowerOf_clusters (s : State) (n : Nat) (x : PowerSt) : (s.setPowerOf n x).clusters = s.clusters := rfl
@[simp] theorem State.setPowerOf_csps (s : State) (n : Nat) (x : PowerSt) : (s.setPowerOf n x).csps = s.csps := rfl
@[simp] theorem State.setPowerOf_mem (s : State) (n : Nat) (x : PowerSt) : (s.setPowerOf n x).mem = s.mem := rfl
@[simp] theorem State.setPowerOf_wcache (s : State) (n : Nat) (x : PowerSt) : (s.setPowerOf n x).wcache = s.wcache := rfl
@[simp] theorem State.setPowerOf_sched (s : State) (n : Nat) (x : PowerSt) : (s.setPowerOf n x).sched = s.sched := rfl
@[simp] theorem State.setPowerOf_array (s : State) (n : Nat) (x : PowerSt) : (s.setPowerOf n x).array = s.array := rfl
@[simp] theorem State.setPowerOf_capture (s : State) (n : Nat) (x : PowerSt) : (s.setPowerOf n x).capture = s.capture := rfl
@[simp] theorem State.setPowerOf_assured (s : State) (n : Nat) (x : PowerSt) : (s.setPowerOf n x).assured = s.assured := rfl
@[simp] theorem State.setPowerOf_sec (s : State) (n : Nat) (x : PowerSt) : (s.setPowerOf n x).sec = s.sec := rfl
@[simp] theorem State.setPowerOf_rst (s : State) (n : Nat) (x : PowerSt) : (s.setPowerOf n x).rst = s.rst := rfl
@[simp] theorem State.setPowerOf_net (s : State) (n : Nat) (x : PowerSt) : (s.setPowerOf n x).net = s.net := rfl
@[simp] theorem State.setPowerOf_port (s : State) (n : Nat) (x : PowerSt) : (s.setPowerOf n x).port = s.port := rfl
@[simp] theorem State.setPowerOf_free (s : State) (n : Nat) (x : PowerSt) : (s.setPowerOf n x).free = s.free := rfl
@[simp] theorem State.setPowerOf_powerOf (s : State) (n : Nat) (x : PowerSt) : (s.setPowerOf n x).powerOf n = x := Table.get_set
theorem State.setPowerOf_powerOf_ne (s : State) (n : Nat) (x : PowerSt) {m : Nat} (h : m ≠ n) : (s.setPowerOf n x).powerOf m = s.powerOf m := Table.get_set_ne h
@[simp] theorem State.setPowerOf_tile (s : State) (n : Nat) (x : PowerSt) (m : Nat) : (s.setPowerOf n x).tile m = s.tile m := rfl
@[simp] theorem State.setPowerOf_cluster (s : State) (n : Nat) (x : PowerSt) (m : Nat) : (s.setPowerOf n x).cluster m = s.cluster m := rfl
@[simp] theorem State.setPowerOf_csp (s : State) (n : Nat) (x : PowerSt) (m : Nat) : (s.setPowerOf n x).csp m = s.csp m := rfl
@[simp] theorem State.setPowerOf_cell (s : State) (n : Nat) (x : PowerSt) (m : Nat) : (s.setPowerOf n x).cell m = s.cell m := rfl
@[simp] theorem State.setPowerOf_user (s : State) (n : Nat) (x : PowerSt) (m : Nat) : (s.setPowerOf n x).user m = s.user m := rfl
@[simp] theorem State.setPowerOf_bank (s : State) (n : Nat) (x : PowerSt) (m : Nat) : (s.setPowerOf n x).bank m = s.bank m := rfl
@[simp] theorem State.setPowerOf_chan (s : State) (n : Nat) (x : PowerSt) (m : Nat) : (s.setPowerOf n x).chan m = s.chan m := rfl
@[simp] theorem State.setPowerOf_ctx (s : State) (n : Nat) (x : PowerSt) (m : Nat) : (s.setPowerOf n x).ctx m = s.ctx m := rfl
@[simp] theorem State.setPowerOf_aset (s : State) (n : Nat) (x : PowerSt) (m : Nat) : (s.setPowerOf n x).aset m = s.aset m := rfl
@[simp] theorem State.setPowerOf_netPort (s : State) (n : Nat) (x : PowerSt) (m : Nat) : (s.setPowerOf n x).netPort m = s.netPort m := rfl
@[simp] theorem State.setPowerOf_sem (s : State) (n : Nat) (x : PowerSt) (m : Nat) : (s.setPowerOf n x).sem m = s.sem m := rfl

/-! ## Outputs and free values -/

@[simp] theorem State.emit_out (s : State) (o : Out) : (s.emit o).out = s.out ++ [o] := rfl
@[simp] theorem State.emit_pending (s : State) (o : Out) : (s.emit o).pending = s.pending := rfl
@[simp] theorem State.emit_clock (s : State) (o : Out) : (s.emit o).clock = s.clock := rfl
@[simp] theorem State.emit_events (s : State) (o : Out) : (s.emit o).events = s.events := rfl
@[simp] theorem State.emit_host (s : State) (o : Out) : (s.emit o).host = s.host := rfl
@[simp] theorem State.emit_time (s : State) (o : Out) : (s.emit o).time = s.time := rfl
@[simp] theorem State.emit_radio (s : State) (o : Out) : (s.emit o).radio = s.radio := rfl
@[simp] theorem State.emit_sweep (s : State) (o : Out) : (s.emit o).sweep = s.sweep := rfl
@[simp] theorem State.emit_adapt (s : State) (o : Out) : (s.emit o).adapt = s.adapt := rfl
@[simp] theorem State.emit_tiles (s : State) (o : Out) : (s.emit o).tiles = s.tiles := rfl
@[simp] theorem State.emit_clusters (s : State) (o : Out) : (s.emit o).clusters = s.clusters := rfl
@[simp] theorem State.emit_csps (s : State) (o : Out) : (s.emit o).csps = s.csps := rfl
@[simp] theorem State.emit_mem (s : State) (o : Out) : (s.emit o).mem = s.mem := rfl
@[simp] theorem State.emit_wcache (s : State) (o : Out) : (s.emit o).wcache = s.wcache := rfl
@[simp] theorem State.emit_sched (s : State) (o : Out) : (s.emit o).sched = s.sched := rfl
@[simp] theorem State.emit_array (s : State) (o : Out) : (s.emit o).array = s.array := rfl
@[simp] theorem State.emit_capture (s : State) (o : Out) : (s.emit o).capture = s.capture := rfl
@[simp] theorem State.emit_assured (s : State) (o : Out) : (s.emit o).assured = s.assured := rfl
@[simp] theorem State.emit_sec (s : State) (o : Out) : (s.emit o).sec = s.sec := rfl
@[simp] theorem State.emit_power (s : State) (o : Out) : (s.emit o).power = s.power := rfl
@[simp] theorem State.emit_rst (s : State) (o : Out) : (s.emit o).rst = s.rst := rfl
@[simp] theorem State.emit_net (s : State) (o : Out) : (s.emit o).net = s.net := rfl
@[simp] theorem State.emit_port (s : State) (o : Out) : (s.emit o).port = s.port := rfl
@[simp] theorem State.emit_free (s : State) (o : Out) : (s.emit o).free = s.free := rfl
@[simp] theorem State.emit_tile (s : State) (o : Out) (m : Nat) : (s.emit o).tile m = s.tile m := rfl
@[simp] theorem State.emit_cluster (s : State) (o : Out) (m : Nat) : (s.emit o).cluster m = s.cluster m := rfl
@[simp] theorem State.emit_csp (s : State) (o : Out) (m : Nat) : (s.emit o).csp m = s.csp m := rfl
@[simp] theorem State.emit_cell (s : State) (o : Out) (m : Nat) : (s.emit o).cell m = s.cell m := rfl
@[simp] theorem State.emit_user (s : State) (o : Out) (m : Nat) : (s.emit o).user m = s.user m := rfl
@[simp] theorem State.emit_bank (s : State) (o : Out) (m : Nat) : (s.emit o).bank m = s.bank m := rfl
@[simp] theorem State.emit_chan (s : State) (o : Out) (m : Nat) : (s.emit o).chan m = s.chan m := rfl
@[simp] theorem State.emit_ctx (s : State) (o : Out) (m : Nat) : (s.emit o).ctx m = s.ctx m := rfl
@[simp] theorem State.emit_aset (s : State) (o : Out) (m : Nat) : (s.emit o).aset m = s.aset m := rfl
@[simp] theorem State.emit_netPort (s : State) (o : Out) (m : Nat) : (s.emit o).netPort m = s.netPort m := rfl
@[simp] theorem State.emit_sem (s : State) (o : Out) (m : Nat) : (s.emit o).sem m = s.sem m := rfl
@[simp] theorem State.emit_powerOf (s : State) (o : Out) (m : Nat) : (s.emit o).powerOf m = s.powerOf m := rfl
@[simp] theorem State.draw_pending (s : State) : s.draw.2.pending = s.pending := rfl
@[simp] theorem State.draw_clock (s : State) : s.draw.2.clock = s.clock := rfl
@[simp] theorem State.draw_out (s : State) : s.draw.2.out = s.out := rfl
@[simp] theorem State.draw_events (s : State) : s.draw.2.events = s.events := rfl
@[simp] theorem State.draw_host (s : State) : s.draw.2.host = s.host := rfl
@[simp] theorem State.draw_time (s : State) : s.draw.2.time = s.time := rfl
@[simp] theorem State.draw_radio (s : State) : s.draw.2.radio = s.radio := rfl
@[simp] theorem State.draw_sweep (s : State) : s.draw.2.sweep = s.sweep := rfl
@[simp] theorem State.draw_adapt (s : State) : s.draw.2.adapt = s.adapt := rfl
@[simp] theorem State.draw_tiles (s : State) : s.draw.2.tiles = s.tiles := rfl
@[simp] theorem State.draw_clusters (s : State) : s.draw.2.clusters = s.clusters := rfl
@[simp] theorem State.draw_csps (s : State) : s.draw.2.csps = s.csps := rfl
@[simp] theorem State.draw_mem (s : State) : s.draw.2.mem = s.mem := rfl
@[simp] theorem State.draw_wcache (s : State) : s.draw.2.wcache = s.wcache := rfl
@[simp] theorem State.draw_sched (s : State) : s.draw.2.sched = s.sched := rfl
@[simp] theorem State.draw_array (s : State) : s.draw.2.array = s.array := rfl
@[simp] theorem State.draw_capture (s : State) : s.draw.2.capture = s.capture := rfl
@[simp] theorem State.draw_assured (s : State) : s.draw.2.assured = s.assured := rfl
@[simp] theorem State.draw_sec (s : State) : s.draw.2.sec = s.sec := rfl
@[simp] theorem State.draw_power (s : State) : s.draw.2.power = s.power := rfl
@[simp] theorem State.draw_rst (s : State) : s.draw.2.rst = s.rst := rfl
@[simp] theorem State.draw_net (s : State) : s.draw.2.net = s.net := rfl
@[simp] theorem State.draw_port (s : State) : s.draw.2.port = s.port := rfl
@[simp] theorem State.draw_free (s : State) : s.draw.2.free = s.free + 1 := rfl
@[simp] theorem State.draw_tile (s : State) (m : Nat) : s.draw.2.tile m = s.tile m := rfl
@[simp] theorem State.draw_cluster (s : State) (m : Nat) : s.draw.2.cluster m = s.cluster m := rfl
@[simp] theorem State.draw_csp (s : State) (m : Nat) : s.draw.2.csp m = s.csp m := rfl
@[simp] theorem State.draw_cell (s : State) (m : Nat) : s.draw.2.cell m = s.cell m := rfl
@[simp] theorem State.draw_user (s : State) (m : Nat) : s.draw.2.user m = s.user m := rfl
@[simp] theorem State.draw_bank (s : State) (m : Nat) : s.draw.2.bank m = s.bank m := rfl
@[simp] theorem State.draw_chan (s : State) (m : Nat) : s.draw.2.chan m = s.chan m := rfl
@[simp] theorem State.draw_ctx (s : State) (m : Nat) : s.draw.2.ctx m = s.ctx m := rfl
@[simp] theorem State.draw_aset (s : State) (m : Nat) : s.draw.2.aset m = s.aset m := rfl
@[simp] theorem State.draw_netPort (s : State) (m : Nat) : s.draw.2.netPort m = s.netPort m := rfl
@[simp] theorem State.draw_sem (s : State) (m : Nat) : s.draw.2.sem m = s.sem m := rfl
@[simp] theorem State.draw_powerOf (s : State) (m : Nat) : s.draw.2.powerOf m = s.powerOf m := rfl

end Sys2Proof.Machine
end

