-- ==== Sys2Proof/Laws/Memory.lean ====
section
/-! SUPPORT. Laws of external memory: what its operations change, and that each keeps the canonical form (13 R306, R307). -/
namespace Sys2Proof.Machine

/-- The canonical form, table by table. -/
theorem memWf_iff (s : State) : s.memWf = true ↔ s.mem.bytes.wf 0 = true ∧ s.mem.unitKey.wf 0 = true := by
  simp [State.memWf]

/-- Memory that is left alone stays in its form. -/
theorem memWf_of_mem {s t : State} (h : t.mem = s.mem) (hs : s.memWf = true) : t.memWf = true := by
  simpa [State.memWf, h] using hs

theorem record_mem (s : State) (code : Half) (unit : Nat) (ps : List Nat) : (s.record code unit ps).mem = s.mem := by
  unfold State.record; dsimp only; split <;> rfl

/-! ## The form is kept -/

theorem writeUnit_memWf {s : State} (h : s.memWf = true) (a : Nat) (bs : List Byte) : (s.writeUnit a bs).memWf = true := by
  rw [memWf_iff] at h
  unfold State.writeUnit
  dsimp only
  split
  · exact (memWf_iff s).2 h
  · rw [memWf_iff]
    exact ⟨Table.wf_foldl_set _ _ _ (Table.wf_foldl_set _ _ _ h.1), Table.wf_set h.2 _ _⟩

theorem writeUnits_memWf : ∀ (f : Nat) {s : State} (a : Nat) (bs : List Byte), s.memWf = true → (State.writeUnits f s a bs).memWf = true := by
  intro f
  induction f with
  | zero => intro s a bs h; unfold State.writeUnits; exact h
  | succ f ih =>
    intro s a bs h
    cases bs with
    | nil => unfold State.writeUnits; exact h
    | cons b r => unfold State.writeUnits; exact ih _ _ (writeUnit_memWf h _ _)

theorem memUe_memWf {s : State} (h : s.memWf = true) (a : Nat) : (s.memUe a).memWf = true := by
  unfold State.memUe
  rw [State.memWf, record_mem]
  exact h

/-- A write of external memory keeps the form. -/
theorem extWrite_memWf {s : State} (h : s.memWf = true) (a : Nat) (bs : List Byte) : (s.extWrite a bs).memWf = true := by
  unfold State.extWrite
  have h2 : ((State.writeUnits (bs.length / 64 + 2) s a bs).wcInvalidate a bs.length).memWf = true := writeUnits_memWf _ _ _ h
  dsimp only
  split
  · exact h
  · split
    · exact memUe_memWf h2 _
    · exact h2

/-- Zeroising a range keeps the form. -/
theorem extZero_memWf {s : State} (h : s.memWf = true) (a n : Nat) : (s.extZero a n).memWf = true := by
  rw [memWf_iff] at h
  exact (memWf_iff _).2 ⟨Table.wf_clearRange h.1 _ _, Table.wf_clearRange h.2 _ _⟩

/-! ## What a write leaves alone: all but memory, the weight cache's lines and the event recorder -/

theorem writeUnit_rest (s : State) (a : Nat) (bs : List Byte) : ∃ m, s.writeUnit a bs = s.setMem m := by
  unfold State.writeUnit
  dsimp only
  split
  · exact ⟨s.mem, rfl⟩
  · exact ⟨_, rfl⟩

theorem writeUnits_rest : ∀ (f : Nat) (s : State) (a : Nat) (bs : List Byte), ∃ m, State.writeUnits f s a bs = s.setMem m := by
  intro f
  induction f with
  | zero => intro s a bs; exact ⟨s.mem, by unfold State.writeUnits; rfl⟩
  | succ f ih =>
    intro s a bs
    cases bs with
    | nil => exact ⟨s.mem, by unfold State.writeUnits; rfl⟩
    | cons b r =>
      unfold State.writeUnits
      obtain ⟨m, hm⟩ := writeUnit_rest s a ((b :: r).take (64 - a % 64))
      dsimp only
      rw [hm]
      obtain ⟨m', hm'⟩ := ih (s.setMem m) (a + (64 - a % 64)) ((b :: r).drop (64 - a % 64))
      exact ⟨m', by rw [hm']; rfl⟩

theorem record_rest (s : State) (code : Half) (unit : Nat) (ps : List Nat) : ∃ e, s.record code unit ps = { s with events := e } := by
  unfold State.record; dsimp only; split <;> exact ⟨_, rfl⟩

/-- A write of external memory changes memory, the weight cache and the event recorder at most. -/
theorem extWrite_rest (s : State) (a : Nat) (bs : List Byte) :
    ∃ m w e, s.extWrite a bs = { s with mem := m, wcache := w, events := e } := by
  unfold State.extWrite
  obtain ⟨m, hm⟩ := writeUnits_rest (bs.length / 64 + 2) s a bs
  dsimp only
  split
  · exact ⟨_, _, _, rfl⟩
  · rw [hm]
    split
    · unfold State.memUe
      dsimp only
      obtain ⟨e, he⟩ := record_rest ((((s.setMem m).wcInvalidate a bs.length).setMem _)) Code.memUeEvent 0 [a % 2 ^ 32, a / 2 ^ 32]
      rw [he]
      exact ⟨_, _, _, rfl⟩
    · exact ⟨_, _, _, rfl⟩

end Sys2Proof.Machine
end

