-- ==== Sys2Proof/Laws/Log.lean ====
section
/-! SUPPORT. What reaching a trace point can change: memory, the weight cache, the event recorder, the log ring and the free values drawn. -/
namespace Sys2Proof.Machine

theorem logWrite_rest (s : State) (r : LogRing) (level v : Nat) :
    ∃ m w e h, s.logWrite r level v = { s with mem := m, wcache := w, events := e, host := h } := by
  unfold State.logWrite
  dsimp only
  obtain ⟨m, w, e, h1⟩ := extWrite_rest s (r.base + 64 + r.write % r.records * 64)
    (leBytes 3 v ++ leBytes 1 level ++ leBytes 4 r.write ++ leBytes 8 s.nowNs ++ leBytes 48 (v / 2 ^ 24))
  rw [h1]
  obtain ⟨m', w', e', h2⟩ := extWrite_rest (State.setHost { s with mem := m, wcache := w, events := e }
    { s.host with log := some { r with write := r.write + 1 } }) r.base (leBytes 8 (r.write + 1))
  exact ⟨m', w', e', _, by rw [h2]; rfl⟩

theorem tracePoint_rest (s : State) (lo hi : Nat) :
    ∃ m w e h n, s.tracePoint lo hi = { s with mem := m, wcache := w, events := e, host := h, free := n } := by
  unfold State.tracePoint
  split
  · dsimp only
    split
    · rename_i r _ _ _
      obtain ⟨m, w, e, h, hw⟩ := logWrite_rest s.draw.2 r 3 (s.draw.1 / (hi - lo))
      exact ⟨m, w, e, h, s.free + 1, by rw [hw]; rfl⟩
    · exact ⟨s.mem, s.wcache, s.events, s.host, s.free + 1, rfl⟩
  · exact ⟨s.mem, s.wcache, s.events, s.host, s.free, rfl⟩

/-- A traced command gives its state but for memory, the weight cache, the event recorder, the log ring and the free values drawn. -/
theorem traced_rest (lo hi : Nat) (s t : State) :
    ∃ m w e h n, traced lo hi s t = { t with mem := m, wcache := w, events := e, host := h, free := n } := by
  unfold traced
  split
  · split
    · exact ⟨t.mem, t.wcache, t.events, t.host, t.free, rfl⟩
    · exact tracePoint_rest t lo hi
  · exact ⟨t.mem, t.wcache, t.events, t.host, t.free, rfl⟩

@[simp] theorem traced_radio (lo hi : Nat) (s t : State) : (traced lo hi s t).radio = t.radio := by
  obtain ⟨m, w, e, h, n, hr⟩ := traced_rest lo hi s t; rw [hr]

@[simp] theorem traced_sweep (lo hi : Nat) (s t : State) : (traced lo hi s t).sweep = t.sweep := by
  obtain ⟨m, w, e, h, n, hr⟩ := traced_rest lo hi s t; rw [hr]

@[simp] theorem traced_out (lo hi : Nat) (s t : State) : (traced lo hi s t).out = t.out := by
  obtain ⟨m, w, e, h, n, hr⟩ := traced_rest lo hi s t; rw [hr]

@[simp] theorem traced_pending (lo hi : Nat) (s t : State) : (traced lo hi s t).pending = t.pending := by
  obtain ⟨m, w, e, h, n, hr⟩ := traced_rest lo hi s t; rw [hr]

@[simp] theorem traced_sched (lo hi : Nat) (s t : State) : (traced lo hi s t).sched = t.sched := by
  obtain ⟨m, w, e, h, n, hr⟩ := traced_rest lo hi s t; rw [hr]

end Sys2Proof.Machine
end

