-- ==== Sys2Proof/Laws/Serve.lean ====
section
/-! SUPPORT. What serving a request of a session can do (19 R418–R421): the specification of `serve` for a request that passes its checks. -/
namespace Sys2Proof.Machine

/-- The checks of an accepted request all pass, and its body is served. -/
theorem serve_served {s : State} {h : QcpHdr} {m : MsgRow} {body : State → State × Answer} {start : Bool} (ha : Accepted s h m) :
    serve s h m body start =
      (match body (if m.reads || (body (taken s h)).2.refuses then taken s h else (taken s h).captureItem 2 (8 + h.port.val) 2 h.raw) with
       | (s2, .now code b) => s2.reply h m.hw code b
       | (s2, .later) => s2) := by
  obtain ⟨hd, hq, hp, ⟨x, hx, hf, hrole⟩, hv, hl⟩ := ha
  have hs : s.session h.session.toNat = some x := by
    unfold State.boundSession at hx
    split at hx
    · split at hx
      · rw [← hx]; assumption
      · cases hx
    · cases hx
  have ht : taken s h = s.setSession h.session.toNat (some { x with lastSeq := some h.seq, idleNs := s.nowNs }) := by
    simp only [taken, hs]
  have hst : (taken s h).host.state = s.host.state := by rw [ht]; rfl
  have hfm : (taken s h).host.fwMajor = s.host.fwMajor := by rw [ht]; rfl
  have hrp : (taken s h).replaying = s.replaying := by rw [ht]; rfl
  have hr : ¬((taken s h).replaying = true ∧ (!m.reads) = true) := by
    rw [hrp]
    rintro ⟨h1, h2⟩
    rcases hp with h3 | h3
    · simp [State.replaying, h3] at h1
    · simp [h3] at h2
  unfold serve
  rw [hd, hq]
  simp only [Bool.false_eq_true, if_false, hx, hf]
  rw [← ht, if_neg hr]
  unfold serveAs
  rw [if_neg (by rw [hst]; rintro ⟨h1, -, h3⟩; rw [← h1, hl] at h3; cases h3),
      if_neg (by rw [hfm]; rintro ⟨h1, h2⟩; rcases hv with h3 | h3 <;> simp_all),
      if_neg (by omega), if_neg (by rw [hst, hl]; simp)]
  all_goals rfl

/-- An accepted request whose body does not refuse it takes effect where it is heard. -/
theorem serve_accepted {s : State} {h : QcpHdr} {m : MsgRow} {body : State → State × Answer} {start : Bool} (ha : Accepted s h m)
    (hb : (body (taken s h)).2.refuses = false) :
    serve s h m body start = (match body (heard s h m) with
      | (s2, .now code b) => s2.reply h m.hw code b
      | (s2, .later) => s2) := by
  rw [serve_served ha, hb]
  unfold heard
  cases m.reads <;> rfl

/-- An accepted request whose body refuses it is answered without being captured. -/
theorem serve_refused {s : State} {h : QcpHdr} {m : MsgRow} {body : State → State × Answer} {start : Bool} (ha : Accepted s h m)
    (hb : (body (taken s h)).2.refuses = true) :
    serve s h m body start = (match body (taken s h) with
      | (s2, .now code b) => s2.reply h m.hw code b
      | (s2, .later) => s2) := by
  rw [serve_served ha, hb]
  cases m.reads <;> rfl

/-- A message whose body does `f` and answers OK where `can` holds is served so. -/
theorem serves_of_body {c : Instr} {h : QcpHdr} {m : MsgRow} {can : State → Prop} {f : State → State} {b : State → ReplyBody}
    {body : State → State × Answer} {start : Bool} (he : ∀ s, exec c s = .next (serve s h m body start))
    (hb : ∀ u, can u → body u = (f u, .now Code.ok (b u))) : Serves c h m can f b := by
  intro s ha h1 h2
  rw [he, serve_accepted ha (by rw [hb _ h1]; rfl), hb _ h2]

/-- The same, the state before the reply one of which `P` holds. -/
theorem answers_of_body {c : Instr} {h : QcpHdr} {m : MsgRow} {can : State → Prop} {P : State → State → Prop} {b : State → ReplyBody}
    {body : State → State × Answer} {start : Bool} (he : ∀ s, exec c s = .next (serve s h m body start))
    (hb : ∀ u, can u → ∃ t, P u t ∧ body u = (t, .now Code.ok (b u))) : Answers c h m can P b := by
  intro s ha h1 h2
  obtain ⟨t1, -, e1⟩ := hb _ h1
  obtain ⟨t2, p2, e2⟩ := hb _ h2
  exact ⟨t2, p2, by rw [he, serve_accepted ha (by rw [e1]; rfl), e2]⟩

/-- A message whose body leaves its reply to a later command. -/
theorem starts_of_body {c : Instr} {h : QcpHdr} {m : MsgRow} {can : State → Prop} {P : State → State → Prop}
    {body : State → State × Answer} {start : Bool} (he : ∀ s, exec c s = .next (serve s h m body start))
    (hb : ∀ u, can u → ∃ t, P u t ∧ body u = (t, .later)) : Starts c h m can P := by
  intro s ha h1 h2
  obtain ⟨t1, -, e1⟩ := hb _ h1
  obtain ⟨t2, p2, e2⟩ := hb _ h2
  exact ⟨t2, by rw [he, serve_accepted ha (by rw [e1]; rfl), e2], p2⟩

/-- A message whose body answers with a code alone where `can` holds is refused so. -/
theorem refuses_of_body {c : Instr} {h : QcpHdr} {m : MsgRow} {can : State → Prop} {code : Half}
    {body : State → State × Answer} {start : Bool} (he : ∀ s, exec c s = .next (serve s h m body start)) (hc : code ≠ Code.ok)
    (hb : ∀ u, can u → body u = (u, .now code .empty)) : Refuses c h m can code := by
  intro s ha h1
  rw [he, serve_refused ha (by rw [hb _ h1]; simp [Answer.refuses, hc]), hb _ h1]

end Sys2Proof.Machine
end

