-- ==== Sys2Proof/Laws/Slots.lean ====
section
/-! SUPPORT. Reads of the slots of a cell and of HARQ processes after writes of them. -/
namespace Sys2Proof.Machine

@[simp] theorem State.setUlSlot_ulSlot (s : State) (c k : Nat) (x : Option UlSlot) : (s.setUlSlot c k x).ulSlot c k = x := by
  simp [setUlSlot, ulSlot]

@[simp] theorem State.setDlSlot_dlSlot (s : State) (c k : Nat) (x : Option DlSlot) : (s.setDlSlot c k x).dlSlot c k = x := by
  simp [setDlSlot, dlSlot]

/-- A change of a cell that leaves its uplink slots alone. -/
theorem State.modCell_ulSlot {s : State} {c n k : Nat} {f : CellSt → CellSt} (h : ∀ x, (f x).ulSlots = x.ulSlots) :
    (s.modCell n f).ulSlot c k = s.ulSlot c k := by
  unfold ulSlot
  by_cases e : c = n
  · subst e; simp [h]
  · rw [modCell_cell_ne s n f e]

theorem State.modCell_dlSlot {s : State} {c n k : Nat} {f : CellSt → CellSt} (h : ∀ x, (f x).dlSlots = x.dlSlots) :
    (s.modCell n f).dlSlot c k = s.dlSlot c k := by
  unfold dlSlot
  by_cases e : c = n
  · subst e; simp [h]
  · rw [modCell_cell_ne s n f e]

@[simp] theorem State.setUlSlot_user (s : State) (c k : Nat) (x : Option UlSlot) (m : Nat) : (s.setUlSlot c k x).user m = s.user m := rfl
@[simp] theorem State.setUlSlot_bank (s : State) (c k : Nat) (x : Option UlSlot) (m : Nat) : (s.setUlSlot c k x).bank m = s.bank m := rfl
@[simp] theorem State.setUlSlot_harq (s : State) (c k : Nat) (x : Option UlSlot) (m j : Nat) : (s.setUlSlot c k x).harq m j = s.harq m j := rfl
@[simp] theorem State.setUlSlot_out (s : State) (c k : Nat) (x : Option UlSlot) : (s.setUlSlot c k x).out = s.out := rfl
@[simp] theorem State.setDlSlot_out (s : State) (c k : Nat) (x : Option DlSlot) : (s.setDlSlot c k x).out = s.out := rfl

@[simp] theorem State.setHarq_harq (s : State) (u h : Nat) (p : HarqProc) : (s.setHarq u h p).harq u h = p := by
  simp [setHarq, harq]

theorem State.setHarq_harq_ne {s : State} {u h v k : Nat} {p : HarqProc} (hne : (v, k) ≠ (u, h)) : (s.setHarq u h p).harq v k = s.harq v k := by
  unfold setHarq harq
  by_cases e : v = u
  · subst e
    have : k ≠ h := fun e => hne (by rw [e])
    simp [this]
  · rw [setUser_user_ne _ _ _ e]

@[simp] theorem State.setHarq_ulSlot (s : State) (u h : Nat) (p : HarqProc) (c k : Nat) : (s.setHarq u h p).ulSlot c k = s.ulSlot c k := rfl
@[simp] theorem State.setUser_ulSlot (s : State) (u : Nat) (x : UserCtx) (c k : Nat) : (s.setUser u x).ulSlot c k = s.ulSlot c k := rfl
@[simp] theorem State.setBank_ulSlot (s : State) (b : Nat) (x : BankSt) (c k : Nat) : (s.setBank b x).ulSlot c k = s.ulSlot c k := rfl
@[simp] theorem State.draw_ulSlot (s : State) (c k : Nat) : s.draw.2.ulSlot c k = s.ulSlot c k := rfl
@[simp] theorem State.draw_dlSlot (s : State) (c k : Nat) : s.draw.2.dlSlot c k = s.dlSlot c k := rfl

end Sys2Proof.Machine
end

