-- ==== Sys2Proof/Laws/Take.lean ====
section
/-! SUPPORT. What taking elements, handing them over and peeking do where an operation finds them: the specifications of `takeElems`, `handOver`,
`peek`, `takeLanes` and `putLanes`. -/
namespace Sys2Proof.Machine

theorem takeElems_canTake {s : State} {t q n ue : Nat} {fill : Bool} {c : Half} {k : State → List Elem → OpRes} (h : canTake s t q n = true) :
    takeElems s t q n ue fill c k = k (tookElems s t q n) (nextElems s t q n) := by
  unfold canTake at h
  simp only [Bool.and_eq_true, Bool.or_eq_true, decide_eq_true_eq, beq_iff_eq] at h
  obtain ⟨⟨h1, h2⟩, h3⟩ := h
  unfold takeElems
  simp only []
  rw [if_neg (by omega), if_neg (by simp [h2])]
  rcases Nat.eq_zero_or_pos n with hn | hn
  · simp [hn, tookElems, nextElems]
  · obtain h3 | ⟨⟨⟨⟨⟨h3, h4⟩, h5⟩, h6⟩, h7⟩, h8⟩ := h3
    · omega
    · have hm : min n (((s.body t).streams.get StreamSt.init q).desc.length - ((s.body t).streams.get StreamSt.init q).pos) = n := by omega
      rw [if_neg (by omega), if_neg (by omega)]
      simp only [hm]
      refine (if_neg ?_).trans ?_
      · split
        · rename_i c hc; rw [hc] at h4; simp only [decide_eq_true_eq] at h4; simp only [decide_eq_true_eq]; omega
        · exact Bool.false_ne_true
      · rw [if_neg (by omega), if_neg (by simp_all), if_neg (by simp_all)]
        simp [tookElems, nextElems, Nat.ne_of_gt hn, State.modBody, State.modTile, State.body]

theorem handOver_canGive {s : State} {t q : Nat} {es : List Elem} {c : Half} {k : State → OpRes} (h : canGive s t q es.length = true) :
    handOver s t q es c false k = k (gaveElems s t q es) := by
  unfold canGive at h
  simp only [Bool.and_eq_true, Bool.or_eq_true, decide_eq_true_eq, beq_iff_eq] at h
  obtain ⟨⟨h1, h2⟩, h3⟩ := h
  unfold handOver
  simp only []
  rw [if_neg (by omega), if_neg (by simp [h2])]
  cases es with
  | nil => simp [gaveElems]
  | cons e r =>
    obtain h3 | ⟨h3, h4⟩ := h3
    · simp at h3
    · rw [if_neg (by simp), if_neg (by omega), if_neg (by omega)]
      simp [gaveElems, State.modBody, State.modTile, State.body]

theorem peek_canPeek {s : State} {t off n ue : Nat} {k : List Byte → OpRes} (h : canPeek s t off n = true) :
    peek (s.tile t) off n ue k = k (peeked s t off n) := by
  simp only [canPeek, Bool.and_eq_true, Option.isNone_iff_eq_none, Bool.not_eq_true'] at h
  obtain ⟨⟨h1, h2⟩, h3⟩ := h
  simp [peek, h1, h2, h3, peeked]

theorem takeLanes_canLanes {s : State} {t m : Nat} {x : VSel} {ty : LaneTy} {k : State → List Word → OpRes} (h : canLanes s t x ty m = true) :
    takeLanes s t x ty m k = k (tookLanes s t x m) (lanesOf s t x ty m) := by
  cases x with
  | v r => rfl
  | q q =>
    simp only [canLanes, Bool.and_eq_true] at h
    simp only [takeLanes, takeElems_canTake h.1]; rfl

theorem putLanes_canPut {s : State} {t : Nat} {dst : VSel} {ty : LaneTy} {ws : List Word} {k : State → OpRes} (h : canPut s t dst ty ws.length = true) :
    putLanes s t dst ty ws k = k (putTo s t dst ty ws) := by
  cases dst with
  | v r => rfl
  | q q =>
    simp only [canPut, Bool.and_eq_true] at h
    have hl : (narrowed (streamFmt (s.tile t) q.val) ty ws).1.length = ws.length := by simp [narrowed]
    simp only [putLanes, putTo]
    rw [handOver_canGive (by rw [hl]; exact h.1)]

/-- A source that has its lanes does not fault. -/
theorem srcFault_canLanes {s : State} {t m : Nat} {x : VSel} {ty : LaneTy} (h : canLanes s t x ty m = true) : srcFault (s.tile t) x ty = none := by
  cases x with
  | v r => rfl
  | q q =>
    simp only [canLanes, canTake, Bool.and_eq_true, decide_eq_true_eq] at h
    obtain ⟨⟨⟨h1, h2⟩, -⟩, h3⟩ := h
    simp only [srcFault, readCheck, h3, if_true]
    rw [if_neg (by omega), if_neg (by simpa [State.body] using h2)]
    rfl

end Sys2Proof.Machine
end

