-- ==== Sys2Proof/WellFormed.lean ====
section
/-! DEFINITION. Well-formed commands: the operands whose shape the manual fixes and the types do not. -/
namespace Sys2Proof

/-- 24 mantissas, I then Q of 12 subcarriers (02 R35). -/
def BfpPrb.ok (p : BfpPrb) : Bool := p.mant.length == 24

/-- As many samples as the section's count, or groups of 16 that hold them (04 R95). -/
def SweepSamples.ok (x : SweepSamples) (n : Nat) : Bool :=
  match x with
  | .plain xs => xs.length == n
  | .bfp gs => gs.all (·.2.length == 16) && gs.length == (n + 15) / 16

/-- Is a command well formed? -/
def Instr.wellFormed : Instr → Bool
  | .npFrameReceive _ f => f.bytes.length == f.len
  | .uplaneSection sec _ => sec.prbs.all BfpPrb.ok
  | .sweepSection sec => sec.samples.ok sec.count.toNat
  | .submit _ b => b.portAddr.length == 16
  | .memWrite _ _ data => data.length ≤ 8144
  | .memRead _ _ n => n.toNat ≤ 8160
  | .qcpUnknownType h _ => 32 ≤ h.raw.length && h.raw.length ≤ 8192
  | .ageingPlan v => v.length == 12
  | .quote _ nonce => nonce.length == 32
  | .flitReceive _ f _ => f.payload.length ≤ 256
  | _ => true

end Sys2Proof
end

