-- ==== Sys2Proof/Tests/Slice0.lean ====
section
/-! SUPPORT. Tests: each is one command on a small state, with what the manual gives for it, or the operands that meet the hypotheses of a
statement. -/
open Sys2Proof Sys2Proof.Machine
set_option Elab.async false
namespace Sys2Proof.Tests

/-- A next state with a property. -/
def gives (c : Instr) (s : State) (P : State → Bool) : Bool :=
  match exec c s with
  | .next t => P t
  | _ => false

/-- The next state in full. -/
def becomes (c : Instr) (s t : State) : Bool := gives c s fun u => u == t

/-- The reset state with tile 0 changed. -/
def tile0 (f : Tile → Tile) : State := State.reset.modTile 0 f

def i0 : Issue := { tile := 0, joint := false }

/-- Tile 0 runs an inference task of four bundles, at bundle 0. -/
def runT : State := tile0 fun x => { x with state := .running, nBundles := 4, cls := .inference, domain := .inference, job := 1, pjob := 1 }

/-- The same with its body changed. -/
def runB (f : TileBody → TileBody) : State := runT.modBody 0 f

/-- The state in which an operation takes effect, and the end of its bundle. -/
def bg (s : State) (slot : Slot) : State := begun s i0 slot
def en (s : State) : State := ended s i0

/-- An operation of a slot issues, its operands are there, and the command completes with its effect. -/
def runs (c : Instr) (s : State) (slot : Slot) (op : State → Nat → OpRes) : Bool :=
  issues s i0 slot && match op (bg s slot) 0 with
  | .ok s1 => becomes c s (en s1)
  | _ => false

/-! ## Tile programs -/

def regS (k : Nat) (v : Dword) : State := runB fun b => { b with regs := setS b.regs k v }

theorem test_queue : (match step { runT with pending := [.stepinc i0, .halt ⟨0, false⟩] } with
    | .next t => t.pending == [.halt ⟨0, false⟩] && (t.tile 0).body.step == 1 | _ => false) = true := by decide +kernel
theorem test_idle : (match step State.reset with | .next t => t.clock.cycle == 1 && t.clock.radioAcc == 12288 | _ => false) = true := by decide +kernel
theorem test_idle_ticks : (match step { State.reset with clock := { cycle := 9, radioAcc := 15000 }, power := { Power.init with radioLock := true } } with
    | .next t => t.time.now == TimeUnit.init.incr && t.clock.radioAcc == 11663 | _ => false) = true := by decide +kernel

theorem test_alu : (issues (regS 2 7) i0 .c && gives (.alu i0 1 2 2 .mul) (regS 2 7) fun t => sReg (t.tile 0).body.regs 1 == 49) = true := by decide +kernel
theorem test_alui : (issues (regS 2 7) i0 .c && gives (.alui i0 2 2 .sub 0xFFF) (regS 2 7) fun t => sReg (t.tile 0).body.regs 2 == 8) = true := by decide +kernel
theorem test_alu_same_bundle : (gives (.popc i0 2 2) (regS 2 7) fun t => issues t ⟨0, true⟩ .c && !issues t ⟨0, true⟩ .s &&
    gives (.alu ⟨0, true⟩ 3 2 2 .add) t fun u => sReg (u.tile 0).body.regs 3 == 14 && sReg (u.tile 0).body.regs 2 == 0) = true := by decide +kernel
theorem test_li : (issues runT i0 .c && gives (.li i0 3 0x100000) runT fun t => sReg (t.tile 0).body.regs 3 == 0xFFFFFFFFFFF00000) = true := by decide +kernel
theorem test_lih : gives (.lih i0 3 2 0xABCD) (regS 3 0x1111222233334444) (fun t => sReg (t.tile 0).body.regs 3 == 0x1111ABCD33334444) = true := by decide +kernel
theorem test_amov : (gives (.amov i0 false 4 3) (regS 3 0xFFFF123456789ABC) fun t => aReg (t.tile 0).body.regs 4 == 0x123456789ABC) = true := by decide +kernel
theorem test_amov_back : (gives (.amov i0 true 4 3) (runB fun b => { b with regs := setA b.regs 4 0xF23456789ABC }) fun t =>
    sReg (t.tile 0).body.regs 3 == 0xF23456789ABC) = true := by decide +kernel
theorem test_aaddi : (gives (.aaddi i0 5 4 0xFFFF) (runB fun b => { b with regs := setA b.regs 4 0 }) fun t => aReg (t.tile 0).body.regs 5 == 0xFFFFFFFFFFFF) = true := by decide +kernel
theorem test_extr : (gives (.extr i0 5 4 60 3) (regS 4 0xA000000000000000) fun t => sReg (t.tile 0).body.regs 5 == 0xA) = true := by decide +kernel
theorem test_stepinc : gives (.stepinc i0) runT (fun t => (t.tile 0).body.step == 1) = true := by decide +kernel
theorem test_rdtask : gives (.rdtask i0 5 .cls) runT (fun t => sReg (t.tile 0).body.regs 5 == 1) = true := by decide +kernel
theorem test_alu_functions : (aluOp .shl 1 65 == 2 && aluOp .slt (-1) 0 == 1 && aluOp .seq 3 4 == 0 && aluOp .min (-1) 0 == -1 && aluOp .shr 3 1 == 2) = true := by decide +kernel
theorem test_frame : (lead runT i0 == runT && gives (.alu i0 1 2 2 .mul) runT fun t => t == { runT with tiles := t.tiles }) = true := by decide +kernel

theorem test_br_not : becomes (.br i0 .nez 1 5) runT (en (bg runT .c)) = true := by decide +kernel
theorem test_br_taken : becomes (.br i0 .always 1 2) runT (en ((bg runT .c).modBody 0 fun b => { b with pc := 2 })) = true := by decide +kernel
theorem test_br_beyond : becomes (.br i0 .always 1 4) runT ((bg runT .c).taskFault 0 0x0C02 3 true) = true := by decide +kernel
theorem test_bdec_zero : becomes (.bdec i0 1 2) runT (en (bg runT .c)) = true := by decide +kernel
theorem test_bdec_one : becomes (.bdec i0 1 2) (regS 1 1) (en ((bg (regS 1 1) .c).modRegs 0 fun r => setS r 1 0)) = true := by decide +kernel
theorem test_bdec_two : gives (.bdec i0 1 3) (regS 1 2) (fun t => (t.tile 0).body.pc == 3 && sReg (t.tile 0).body.regs 1 == 1) = true := by decide +kernel
theorem test_jal : gives (.jal i0 1 3) runT (fun t => (t.tile 0).body.pc == 3 && sReg (t.tile 0).body.regs 1 == 1) = true := by decide +kernel
theorem test_jr : becomes (.jr i0 1) (regS 1 3) (en ((bg (regS 1 3) .c).modBody 0 fun b => { b with pc := 3 })) = true := by decide +kernel
theorem test_jr_beyond : becomes (.jr i0 1) (regS 1 4) ((bg (regS 1 4) .c).taskFault 0 0x0C02 3 true) = true := by decide +kernel
theorem test_fence : becomes (.fence i0 true 0xF0) runT (en (bg runT .c)) = true := by decide +kernel
def rdStream : StreamSt := { StreamSt.init with valid := true, desc := { StreamDesc.init with length := 4, fmt := 0 }, pos := 4, fetched := 4 }
def withQ (q : Nat) (st : StreamSt) : State := runB fun b => setStream b q st
theorem test_qwait : (streamDone 1 rdStream && becomes (.qwait i0 1) (withQ 1 rdStream) (en (bg (withQ 1 rdStream) .s))) = true := by decide +kernel
theorem test_endt : (gives (.endt i0) runT fun t => (t.tile 0).state == .idle && (t.tile 0).ref == none) = true := by decide +kernel

def semS (n : Nat) : State := (runT.modTile 0 fun x => { x with ref := some (.graph 1 0 0) }).setSem 5 { count := n, owner := 1, claim := some (.job 1) }
theorem test_wait : ((bg (semS 2) .c).semFault ((bg (semS 2) .c).tile 0) 5 == none && becomes (.semWait i0 5) (semS 2)
    (en ((bg (semS 2) .c).setSem 5 { count := 1, owner := 1, claim := some (.job 1) }))) = true := by decide +kernel
theorem test_wait_held : (gives (.semWait i0 5) (semS 0) fun t => (t.tile 0).hold == some (.semaphore 5) && (t.tile 0).body.pc == 0) = true := by decide +kernel
theorem test_signal : (gives (.semSignal i0 5) (semS 2) fun t => (t.sem 5).count == 3) = true := by decide +kernel
theorem test_signal_full : (gives (.semSignal i0 5) (semS 65535) fun t => (t.sem 5).count == 65535 && (t.tile 0).semSat) = true := by decide +kernel
theorem test_try : (gives (.semTry i0 5 9) (semS 2) fun t => (t.sem 5).count == 1 && sReg (t.tile 0).body.regs 9 == 1) = true := by decide +kernel
theorem test_try_none : (gives (.semTry i0 5 9) (semS 0) fun t => sReg (t.tile 0).body.regs 9 == 0) = true := by decide +kernel
theorem test_sem_unclaimed : (let s := (semS 2).setSem 5 { count := 2, owner := 1, claim := some (.job 2) }
    (bg s .c).semRefused 5 .inference (claimOf (.graph 1 0 0)) == some false &&
    becomes (.semWait i0 5) s ((bg s .c).taskFault 0 Code.schSemClaim 3 true) && becomes (.semTry i0 5 1) s ((bg s .c).taskFault 0 Code.schSemClaim 3 true)) = true := by decide +kernel
theorem test_sem_class : (let s := (semS 2).setSem 5 { count := 2, owner := 0, claim := some (.job 1) }
    (bg s .c).semRefused 5 .inference (claimOf (.graph 1 0 0)) == some true &&
    becomes (.semSignal i0 5) s ((bg s .c).taskFault 0 0x0C08 3 true)) = true := by decide +kernel
theorem test_sem_own : becomes (.registerWrite .scheduler 0xFF00000D0100 false 0xFFFFFFFFFFFFFFFF) (semS 2) (semS 2) = true := by decide +kernel
theorem test_sem_own_free : (gives (.registerWrite .scheduler 0xFF00000D0108 false 1) (semS 2) fun t => (t.sem 32).owner == 1 && (t.sem 33).owner == 0) = true := by decide +kernel

def heldT : State := runT.modTile 0 fun x => { x with polders := x.polders.set Polder.init 0 { Polder.init with state := .held, cls := .inference, job := 1 } }
def heldQ (q : Nat) (st : StreamSt) : State := heldT.modBody 0 fun b => setStream b q st
theorem test_qlift : (let s := heldQ 1 { rdStream with crest := some 2 }
    readCheck ((bg s .s).tile 0) 1 == none && gives (.qlift i0 1) s fun t => (streamOf (t.tile 0).body 1).crest == none) = true := by decide +kernel
theorem test_qcrest : (let s := (heldQ 1 rdStream).modRegs 0 fun r => setS r 3 9
    readCheck ((bg s .s).tile 0) 1 == none && becomes (.qcrest i0 1 3) s (en ((bg s .s).modBody 0 fun b => setStream b 1 (crestSet (streamOf b 1) 9)))) = true := by decide +kernel
theorem test_sst_sld : (gives (.sst i0 2 1 8) ((heldT.modRegs 0 fun r => setS r 2 0x1122334455667788)) fun t =>
    gives (.sld i0 4 1 8) t fun u => sReg (u.tile 0).body.regs 4 == 0x1122334455667788 && (u.tile 0).body.sp.get 0 8 == 0x88) = true := by decide +kernel
theorem test_sld_aligned : (let s := heldT; let u := bg s .s
    wordOff (u.tile 0) 0 1 8 == 8 && heldRange (u.tile 0) 8 8 && tagWait (u.tile 0) 8 8 true == none && !spUnreadable (u.tile 0).body 8 8) = true := by decide +kernel
theorem test_sld_misaligned : becomes (.sld i0 4 1 4) heldT ((bg heldT .s).taskFault 0 0x0C0B 2 true) = true := by decide +kernel
theorem test_sld_polder : becomes (.sst i0 4 1 8) runT ((bg runT .s).taskFault 0 0x0C61 2 true) = true := by decide +kernel
def taggedT : State := runT.modTile 0 fun x => { x with polders := x.polders.set Polder.init 0 { Polder.init with state := .held, cls := .inference, job := 1, tagged := true } }
theorem test_sst_tagged : (slotTagged ((bg taggedT .s).tile 0) 0 && gives (.sst i0 4 1 8) taggedT fun t => (t.tile 0).body.tags.get false 0) = true := by decide +kernel

theorem test_vbcast : gives (.vbcast i0 2 3) (regS 3 9) (fun t => (vLanes (t.tile 0).body.regs 2).getD 127 0 == 9) = true := by decide +kernel
theorem test_vmov : gives (.vmov i0 7 2) (runB fun b => { b with regs := { b.regs with v := ⟨[(256, 5)]⟩ } }) (fun t => (vLanes (t.tile 0).body.regs 7).headD 0 == 5) = true := by decide +kernel
theorem test_pset : (gives (.pset i0 2 .upTo 3) (regS 3 9) fun t => predCount (pReg (t.tile 0).body.regs 2) == 9) = true := by decide +kernel
theorem test_plogic : (gives (.pset i0 2 .ones 3) runT fun t => gives (.plogic i0 3 2 1 .andNot) t fun u => predCount (pReg (u.tile 0).body.regs 3) == 128) = true := by decide +kernel
theorem test_popc : (gives (.pset i0 2 .upTo 3) (regS 3 9) fun t => gives (.popc i0 8 2) t fun u => sReg (u.tile 0).body.regs 8 == 9) = true := by decide +kernel
def fullQ : StreamSt := { StreamSt.init with valid := true, desc := { StreamDesc.init with length := 200, fmt := 0 }, fetched := 128, buf := List.replicate 128 { code := 255, scale := 127 } }
theorem test_vld : (let s := heldQ 1 fullQ
    (laneReads .int32).contains (deliveredFmt fullQ.desc) && !loadingFrom ((bg s .s).body 0) 1 &&
    gives (.vld i0 3 1 .int32) s fun t => (vLanes (t.tile 0).body.regs 3).getD 5 0 == 0xFFFFFFFF && (streamOf (t.tile 0).body 1).pos == 128) = true := by decide +kernel
theorem test_mclr : (gives (.mclr i0 3 .int48) runT fun t => tyOf (t.tile 0).body 3 == .int48) = true := by decide +kernel
theorem test_mclr_complex : (gives (.mclr i0 2 .complex) runT fun t => tyOf (t.tile 0).body 3 == .complex && tyOf (t.tile 0).body 2 == .complex) = true := by decide +kernel
theorem test_k_group : ((accAt (groupStep .int8 .int8 .int48 false 0 [[{ code := 3, scale := 127 }, { code := 255, scale := 127 }]]
    { WBuf.init with elems := List.replicate 32 { code := 2, scale := 127 } } 0 (TileBody.init, .none)).1 0 0).toInt == 4) = true := by decide +kernel
theorem test_count_fault : (let s := regS 1 16777216
    becomes (.vred i0 .sum .int32 2 (.q 1) none 1) s ((bg s .v).taskFault 0 0x0C03 1 true)) = true := by decide +kernel
theorem test_vrng : (issues (regS 3 1) i0 .v && gives (.vrng i0 2 3) (regS 3 1) fun t => (t.tile 0).state == .running) = true := by decide +kernel
theorem test_poolq_align : (gives (.poolq i0 1) (runB fun b => { b with regs := setA b.regs 1 8 }) fun t => (t.tile 0).faultCode == 0x0C0B) = true := by decide +kernel

/-! ## Vector and row engines -/

def inQ (f n : Nat) (code : Nat) : StreamSt :=
  { StreamSt.init with valid := true, desc := { StreamDesc.init with length := n, fmt := f }, fetched := n, buf := List.replicate n { code, scale := 127 } }
def outQ (f n : Nat) : StreamSt := { StreamSt.init with valid := true, desc := { StreamDesc.init with length := n, fmt := f, dirWrite := true } }
/-- q1 holds two elements of a format, q4 is a write stream of another; s1 is a count of 1, s2 a plane of one row of one. -/
def vecS (fi fo : Nat) : State :=
  (heldT.modBody 0 fun b => setStream (setStream b 1 (inQ fi 2 3)) 4 (outQ fo 300)).modRegs 0 fun r => setS (setS r 1 1) 2 0x10001

theorem test_vred : runs (.vred i0 .sum .int32 3 (.q 1) none 1) (vecS 13 13) .v (vecIssue (.red .sum .int32 3 (.q 1) none) 1) = true := by decide +kernel
theorem test_vred_value : (gives (.vred i0 .sum .int32 3 (.q 1) none 1) (vecS 13 13) fun t => sReg (t.tile 0).body.regs 3 == 3 && (streamOf (t.tile 0).body 1).pos == 1) = true := by decide +kernel
def copyChain : ChainEntry := { header := 0, stages := [], rest := true }
theorem test_mxquant_none : runs (.mxquant i0 (.q 1) 4 3 none) (vecS 11 7) .v (vecIssue (.mxquant (.q 1) 4 none) 3) = true := by decide +kernel
theorem test_vupn : runs (.vupn i0 1 4 0 0 2 1 .int32) (vecS 13 13) .v (vecIssue (.upn 1 4 0 0 2 .int32) 1) = true := by decide +kernel
theorem test_vupb : (gives (.vupb i0 1 4 0 0 2 1 .int32) (vecS 13 13) fun t => ((streamOf (t.tile 0).body 4).pend.map (·.code)) == [3]) = true := by decide +kernel
theorem test_vupb_runs : runs (.vupb i0 1 4 0 0 2 1 .int32) (vecS 13 13) .v (vecIssue (.upb 1 4 0 0 2 .int32) 1) = true := by decide +kernel
theorem test_vtscale : runs (.vtscale i0 5 false) (vecS 13 13) .v (vtscaleOp 5 false) = true := by decide +kernel
theorem test_vexpand : runs (.vexpand i0 1 0 .zero 3) (vecS 13 13) .v (vexpandOp 1 0 .zero 3) = true := by decide +kernel
theorem test_vst : (let s := (vecS 13 13)
    gives (.vst i0 3 4 .int32) s fun t => (streamOf (t.tile 0).body 4).pos == 128) = true := by decide +kernel
theorem test_vcompress : runs (.vcompress i0 (.v 3) 0 4 6) (vecS 13 13) .v (vcompressOp (.v 3) 0 4 6) = true := by decide +kernel
theorem test_long_begins : (let s := (vecS 13 13).modRegs 0 fun r => setS r 1 200
    let s := s.modBody 0 fun b => setStream b 1 (inQ 13 200 3)
    gives (.vred i0 .max .int32 3 (.q 1) none 1) s fun t => (t.tile 0).body.longOp.isSome && (streamOf (t.tile 0).body 1).pos == 0) = true := by decide +kernel
def longS : State := (vecS 13 13).modTile 0 fun x => { x with slots := [.v], body := { x.body with
  longOp := some { op := .red .sum .int32 3 (.q 1) none, n := 1, total := 130, done := 128, bundle := 0, preds := [], regs := { TRegs.init with s := ⟨[(1, 2)]⟩ }, block := some [] } } }
theorem test_long_step : (gives (.longOpVectorComplete 0) longS fun t => (t.tile 0).body.longOp == none && sReg (t.tile 0).body.regs 1 == 0 &&
    (streamOf (t.tile 0).body 1).pos == 2) = true := by decide +kernel
theorem test_long_fault : (let s := (vecS 13 13).modRegs 0 fun r => setS r 1 200
    gives (.mclr i0 0 .int48) s fun t => gives (.vred ⟨0, true⟩ .max .int32 3 (.q 1) none 1) t fun u => (u.tile 0).faultCode == 0x0C04) = true := by decide +kernel

theorem test_mmac : (let s := (vecS 13 13).modBody 0 fun b => { setStream b 1 (inQ 0 128 3) with
      accTy := b.accTy.set .unused 0 .int48, wbufs := b.wbufs.set WBuf.init 0 { WBuf.init with elems := List.replicate 32 { code := 2, scale := 127 } } }
    gives (.mmac i0 0 0 .int8 .int8 1 false false) s fun t => (accAt (t.tile 0).body 0 0).toInt == 192) = true := by decide +kernel
theorem test_mout : (let s := (vecS 13 14).modBody 0 fun b => { b with accTy := b.accTy.set .unused 0 .int48 }
    gives (.mout i0 0 .raw 4 0 0) s fun t => (streamOf (t.tile 0).body 4).pos == 256) = true := by decide +kernel
theorem test_mwld : runs (.mwld i0 0 1) ((vecS 13 13).modBody 0 fun b => setStream b 1 { inQ 0 1 3 with desc := { StreamDesc.init with length := 2048 } }) .s (weightLoad 0 1 false) = true := by decide +kernel
theorem test_mwldt : runs (.mwldt i0 0 1) ((vecS 13 13).modBody 0 fun b => setStream b 1 { inQ 0 1 3 with desc := { StreamDesc.init with length := 2048 } }) .s (weightLoad 0 1 true) = true := by decide +kernel
theorem test_weights : (let s := (vecS 13 13).modBody 0 fun b => { setStream b 1 (inQ 0 4 3) with wbufs := b.wbufs.set WBuf.init 0 { WBuf.init with loading := some (1, .int8, false) } }
    gives (.weightLoadComplete 0 0) s fun t => ((t.tile 0).body.wbufs.get WBuf.init 0).loading == none && (streamOf (t.tile 0).body 1).pos == 4 &&
      (((t.tile 0).body.wbufs.get WBuf.init 0).elems.getD 3 { code := 0, scale := 0 }).code == 3) = true := by decide +kernel

def spS (off : Nat) (bs : List Byte) (s : State) : State := s.modBody 0 fun b => spWrite b off bs
def descBytes : List Byte := leBytes 6 0xF00000000000 ++ [255, 0] ++ leBytes 3 4 ++ [0, 0, 0, 0, 0] ++ leBytes 2 4 ++ leBytes 2 1 ++ leBytes 2 1 ++ leBytes 2 1
theorem test_qld : runs (.qld i0 1 0) (spS 0 descBytes heldT) .s (qldOp 1 0) = true := by decide +kernel
theorem test_vchain : runs (.vchain i0 0 (.q 1) (.q 1) (.v 3) 1) ((vecS 13 13).modTile 0 fun x => { x with chains := [{ header := 0x20000000, stages := [], rest := false }] }) .v
  (vecIssue (.chain 0 (.q 1) (.q 1) (.v 3)) 1) = true := by decide +kernel
theorem test_quant : runs (.quant i0 (.q 1) 4 5 1 0 none) ((vecS 11 0).modRegs 0 fun r => setS r 5 0x3F800000) .v (vecIssue (.quant (.q 1) 4 5 0 none) 1) = true := by decide +kernel
theorem test_requant : gives (.requant i0 (.q 1) 4 0 5 1) (vecS 13 0) (fun t => (streamOf (t.tile 0).body 4).pos == 1) = true := by decide +kernel
def groupS : State := heldT.modTile 0 fun x => { x with grouped := true, ref := some (.graph 1 0 0) }
theorem test_xred : runs (.xred i0 0 0) groupS .c (levelOp false 0 0) = true := by decide +kernel
theorem test_xbc : runs (.xbc i0 0 0) groupS .c (levelOp true 0 0) = true := by decide +kernel
def poolBytes : List Byte := [0, 0, 1, 1, 1, 1, 0, 0, 0, 0, 0, 0] ++ leBytes 2 32 ++ [0, 0] ++ leBytes 2 1 ++ leBytes 2 1 ++ leBytes 2 1 ++ leBytes 2 1 ++
  leBytes 8 0xF10000000000 ++ leBytes 8 0xF10000000400 ++ leBytes 4 32 ++ leBytes 4 32 ++ leBytes 2 32 ++ leBytes 2 32 ++ leBytes 2 0xFFFF ++ leBytes 2 0xFFFF ++ leBytes 8 0
def pageS (s : State) : State := s.setCluster 0 { s.cluster 0 with pages := (s.cluster 0).pages.set none 0 (some { job := 1, domain := .inference, cls := .inference, spill := false, locked := false }) }
theorem test_poolq : runs (.poolq i0 0) (spS 0 poolBytes (pageS groupS)) .c (poolqOp 0) = true := by decide +kernel

/-! The operands that meet the conditions of each operation of the vector and row engines. -/

def meets (s : State) (slot : Slot) (can : State → Bool) : Bool := issues s i0 slot && can (bg s slot)

theorem test_meets_qld : meets (spS 0 descBytes heldT) .s (fun u => let d := parseDesc (peeked u 0 (offAt u 0 0) 128)
    offAt u 0 0 % 32 == 0 && canPeek u 0 (offAt u 0 0) 128 && !d.dirWrite && u.descFault 0 d == none && !u.keyRefused (u.tile 0) d &&
    !unlanded (streamOf (u.body 0) 1) && !loadingFrom (u.body 0) 1) = true := by decide +kernel
theorem test_meets_poolq : meets (spS 0 poolBytes (pageS groupS)) .c (fun u =>
    offAt u 0 0 % 32 == 0 && canPeek u 0 (offAt u 0 0) 64 && (u.cluster 0).poolQueue.length < 8 && (u.tile 0).ref.isSome &&
    match parsePool (peeked u 0 (offAt u 0 0) 64) with
    | some d => u.poolOk (u.tile 0) 0 d && [d.waitSem, d.signalSem].all fun n => n == 0xFFFF || u.semFault (u.tile 0) n == none
    | none => false) = true := by decide +kernel
def wideS (fi fo n : Nat) : State :=
  (heldT.modBody 0 fun b => setStream (setStream b 1 (inQ fi n 3)) 4 (outQ fo 300)).modRegs 0 fun r => setS (setS r 1 (BitVec.ofNat 64 n)) 2 0x10001
theorem test_meets_vld : meets (heldQ 1 fullQ) .s (fun u => canLanes u 0 (.q 1) .int32 128) = true := by decide +kernel
theorem test_meets_vst : meets (vecS 13 13) .s (fun u => canPut u 0 (.q 4) .int32 128) = true := by decide +kernel
def chainS (n : Nat) : State := (wideS 13 13 n).modTile 0 fun x => { x with chains := [{ header := 0x20000000, stages := [], rest := false }] }
theorem test_meets_vchain : (meets (chainS 5) .v (fun u => countAt u 0 1 == 5 && match checkChain (chainOf (u.tile 0) 0) with
      | some c => canLanes u 0 (.q 1) c.inTy 5 && canLanes u 0 (.v 3) c.inTy 5 && canPut u 0 (.q 4) c.outTy 5 | none => false) &&
    meets (chainS 129) .v (fun u => countAt u 0 1 == 129 && (u.tile 0).slots == [.v] && match checkChain (chainOf (u.tile 0) 0) with
      | some c => canLanes u 0 (.q 1) c.inTy 128 && canPut u 0 (.q 4) c.outTy 128 | none => false)) = true := by decide +kernel
theorem test_meets_vred : meets (wideS 13 13 128) .v (fun u => countAt u 0 1 == 128 && canLanes u 0 (.q 1) .int32 128) = true := by decide +kernel
theorem test_meets_quant : (meets ((wideS 11 0 128).modRegs 0 fun g => setS g 5 0x3F800000) .v (fun u =>
      canLanes u 0 (.q 1) .fp32 128 && canGive u 0 4 128 && quantFmt (streamFmt (u.tile 0) 4) && !scaleBad (streamFmt (u.tile 0) 4) (sReg (u.regsAt 0) 5)) &&
    meets (spS 0 (1 :: 7 :: List.replicate 14 0) ((wideS 11 0 128).modRegs 0 fun g => setS (setA g 2 0) 5 0x3F800000)) .v (fun u =>
      canPeek u 0 (offAt u 0 2) 16 && (parseMaps (peeked u 0 (offAt u 0 2) 16) 128).isSome)) = true := by decide +kernel
theorem test_meets_mxquant : meets (wideS 11 7 64) .v (fun u => canLanes u 0 (.q 1) .fp32 64 && canGive u 0 4 64 && isMx (streamFmt (u.tile 0) 4)) = true := by decide +kernel
theorem test_meets_requant : (meets (wideS 13 0 128) .v (fun u => !requantWords (u.tile 0) (.q 1) && vecPer (u.tile 0) (.requant (.q 1) 4 0 5) == 128 &&
      canLanes u 0 (.q 1) .int32 128 && canPut u 0 (.q 4) .int32 128 && canPeek u 0 (offAt u 0 0) 1024 &&
      match parseRqb (peeked u 0 (offAt u 0 0) 1024) with | some q => isIntOut q.out | none => false) &&
    meets (wideS 14 0 64) .v (fun u => requantWords (u.tile 0) (.q 1) && vecPer (u.tile 0) (.requant (.q 1) 4 0 5) == 64 && canTake u 0 1 64)) = true := by decide +kernel
theorem test_meets_up : (meets ((wideS 13 13 8).modRegs 0 fun g => setS g 2 0x20001) .v (fun u => planeOf (sReg (u.regsAt 0) 2) == (1, 2) && countAt u 0 1 == 8 &&
    canLanes u 0 (.q 1) .int32 2 && canPut u 0 (.q 4) .int32 8)) = true := by decide +kernel
theorem test_vupn_two : (gives (.vupn i0 1 4 1 1 2 1 .int32) ((wideS 13 13 8).modRegs 0 fun g => setS g 2 0x20001) fun t =>
    posOf t 0 1 == 2 && posOf t 0 4 == 8) = true := by decide +kernel
theorem test_meets_pack : (meets ((wideS 13 13 128).modRegs 0 fun g => setP g 2 7) .v (fun u => laneOf (streamFmt (u.tile 0) 4) == some .int32 &&
      canLanes u 0 (.q 1) .int32 128 && canPut u 0 (.q 4) .int32 (predCount (pReg (u.regsAt 0) 2)) && canTake u 0 1 (predCount (pReg (u.regsAt 0) 2)) &&
      laneOf (streamFmt (u.tile 0) 1) == some .int32)) = true := by decide +kernel
def mmacS (f n : Nat) : State := (vecS 13 13).modBody 0 fun b => { setStream b 1 (inQ f n 3) with
  accTy := b.accTy.set .unused 0 .int48, wbufs := b.wbufs.set WBuf.init 0 { WBuf.init with elems := List.replicate 32 { code := 2, scale := 127 } } }
theorem test_meets_mmac : meets (mmacS 0 128) .m (fun u => (pairInfo .int8 .int8).map (fun p => p.ty == .int48 && p.groups == 1) == some true &&
    canTake u 0 1 128 && streamFmt (u.tile 0) 1 == .int8 && ((u.tile 0).before.wbufs.get WBuf.init 0).loading == none &&
    ((u.tile 0).before.wbufs.get WBuf.init 0).fmt == .int8 && tyOf (u.body 0) 0 == .int48 && kgroupsOf (u.body 0) 0 + 1 ≤ 16777215) = true := by decide +kernel
def moutS : State := (vecS 13 0).modBody 0 fun b => { b with accTy := b.accTy.set .unused 0 .int48 }
theorem test_meets_mout : meets moutS .m (fun u => !poisoned (u.body 0) 0 && tyOf (u.body 0) 0 == .int48 && canGive u 0 4 256 && canPeek u 0 (offAt u 0 0) 1024 &&
    match parseRqb (peeked u 0 (offAt u 0 0) 1024) with | some q => rqbFault (u.body 0) 0 .requantised q == none | none => false) = true := by decide +kernel
def loadS1 (n len : Nat) : State := (vecS 13 13).modBody 0 fun b => setStream b 1 { inQ 0 n 3 with desc := { StreamDesc.init with length := len } }
theorem test_meets_load : (meets (loadS1 1 2048) .s (fun u => let st := streamOf (u.body 0) 1
    st.valid && weightFmt (deliveredFmt st.desc) && !isMx (deliveredFmt st.desc) && loadFits st.desc st.pos 2048 false && loadFits st.desc st.pos 2048 true &&
    ((u.body 0).wbufs.get WBuf.init 0).loading == none && !loadingFrom (u.body 0) 1)) = true := by decide +kernel
/-- An MWLDT may end inside its block, an MWLD only in its last K-group. -/
theorem test_load_fits : (loadFits { StreamDesc.init with length := 70 } 0 2048 true && !loadFits { StreamDesc.init with length := 70 } 0 2048 false &&
    loadFits { StreamDesc.init with length := 2040 } 0 2048 false) = true := by decide +kernel
/-- The next vector of a long VCHAIN takes the registers as they stood at issue (08 R201). -/
theorem test_meets_long : (let s := (chainS 129).modTile 0 fun x => { x with body := { x.body with longOp := some {
      op := .chain 0 (.q 1) (.v 3) (.q 4), n := 1, total := 129, done := 128, bundle := 0, preds := [], regs := TRegs.init, block := some [] } } }
    (match checkChain (chainOf (s.tile 0) 0) with | some c => canLanes s 0 (.q 1) c.inTy 1 && canPut s 0 (.q 4) c.outTy 1 | none => false) &&
    gives (.longOpVectorComplete 0) s fun t => (t.tile 0).body.longOp == none && (t.tile 0).slots == [] && posOf t 0 4 == 1) = true := by decide +kernel

/-! ## Streams, tile commands, polders, sluices -/

def fetchS : State := (runT.modBody 0 fun b => setStream b 1 { StreamSt.init with valid := true, desc := { (parseDesc descBytes) with length := 4 } }).modTile 0 fun x =>
  { x with polders := x.polders.set Polder.init 0 { Polder.init with state := .held, cls := .inference, job := 1 } }
theorem test_stream_fetch : (let st := streamOf (fetchS.body 0) 1; let r := fetchS.fetchRun 0 st.desc (min 2 (fetchRoom (fetchS.body 0) st 1)) 0
    r.elems.length == 2 && r.fault == 0 &&
    gives (.streamFetch 0 1 2) fetchS fun t => (streamOf (t.body 0) 1).fetched == 2 && (streamOf (t.body 0) 1).inflight.length == 1) = true := by decide +kernel
def flightS (f : Nat) : State := runT.modBody 0 fun b => setStream b 1 { StreamSt.init with valid := true, inflight := [{ elems := [{ code := 7, scale := 127 }], fault := f }] }
theorem test_fetch_return : (gives (.fetchReturn 0 1) (flightS 0) fun t => (streamOf (t.body 0) 1).buf.length == 1 && (streamOf (t.body 0) 1).inflight.isEmpty && (t.tile 0).state == .running) = true := by decide +kernel
theorem test_fetch_fault : (gives (.fetchReturn 0 1) (flightS 0x0C72) fun t => (t.tile 0).state == .faulted && (t.tile 0).faultCode == 0x0C72) = true := by decide +kernel
def landS : State := heldT.modBody 0 fun b => setStream b 4 { outQ 0 4 with pos := 1, pend := [{ idx := 0, addr := 0xF00000000040, code := 9, bits := 8, shift := 0, leaves := false, mout := 0 }] }
theorem test_write_land : (gives (.streamWriteLand 0 4 1) landS fun t => (t.body 0).sp.get 0 0x40 == 9 && (streamOf (t.body 0) 4).pend.isEmpty) = true := by decide +kernel
theorem test_copy_land : (let d := { StreamDesc.init with length := 4, copy := true, nearAddr := 0, nearSlots := 1 }
    let s := heldT.modBody 0 fun b => setStream b 1 { inQ 0 2 5 with desc := d }
    gives (.streamWriteLand 0 1 1) s fun t => (streamOf (t.body 0) 1).pos == 1 && (t.body 0).sp.get 0 0 == 5) = true := by decide +kernel

theorem test_assign : (gives (.assign 3 .management) State.reset fun t => (t.tile 3).state == .zeroising && (t.tile 3).nextDomain == .management &&
    (upTo 24).all fun p => ((t.tile 3).polders.get Polder.init p).state == .zeroising) = true := by decide +kernel
theorem test_assign_running : becomes (.assign 0 .radio) runT (runT.record Code.tileBadState 0 []) = true := by decide +kernel
theorem test_tile_zeroise : (gives (.tileZeroise 3) State.reset fun t => (t.tile 3).state == .zeroising && (t.tile 3).nextDomain == .radio) = true := by decide +kernel
theorem test_tile_zeroise_running : becomes (.tileZeroise 0) runT (runT.record Code.tileBadState 0 []) = true := by decide +kernel
theorem test_tile_kill : (gives (.tileKill 0) heldT fun t => (t.tile 0).state == .zeroising && ((t.tile 0).polders.get Polder.init 0).state != .held) = true := by decide +kernel
def zeroS : State := tile0 fun x => { x with state := .zeroising, nextDomain := .inference, body := { TileBody.init with sp := ⟨[(3, 1)]⟩, pc := 4 } }
theorem test_zeroise_complete : (gives (.zeroiseComplete 0) zeroS fun t => (t.tile 0).state == .idle && (t.tile 0).domain == .inference && (t.tile 0).body == TileBody.init) = true := by decide +kernel
theorem test_load_bad_state : becomes (.tileLoad 0 (.graph 1 0 0)) runT (runT.record Code.tileBadState 0 []) = true := by decide +kernel
theorem test_preempt : (gives (.tilePreempt 0) runT fun t => (t.tile 0).state == .draining) = true := by decide +kernel
theorem test_preempt_loading : (gives (.tilePreempt 0) (tile0 fun x => { x with state := .loading, ref := some (.entry 0) }) fun t => (t.tile 0).state == .idle && (t.tile 0).ref == none) = true := by decide +kernel
theorem test_drain : (let s := tile0 fun x => { x with state := .draining, cls := .inference, ref := some (.graph 1 0 0), body := { TileBody.init with pc := 2, acc := ⟨[(0, 5)]⟩ } }
    gives (.drainComplete 0) s fun t => (t.tile 0).state == .idle && ((t.tile 0).saveInf.map (·.pc)) == some 2 && ((t.tile 0).saveInf.map (·.acc)) == some ⟨[(0, 5)]⟩) = true := by decide +kernel

def loadS (f : Half) (bs : List (BitVec 128)) : State :=
  { tile0 (fun x => { x with state := .loading, ref := some (.entry 0), loadFault := f, nBundles := bs.length, bundles := bs }) with
    power := { Power.init with domains := Power.init.domains.set .off 0 .on } }
theorem test_image_good : (bundlesFault 1 0 [0] == none && becomes (.imageLoadCheck 0) (loadS 0 [0]) ((loadS 0 [0]).modTile 0 fun x => { x with state := .running, before := x.body })) = true := by decide +kernel
theorem test_image_bad : becomes (.imageLoadCheck 0) (loadS 0x0C01 [0]) ((loadS 0x0C01 [0]).taskFault 0 0x0C01 0 false true) = true := by decide +kernel
theorem test_bundle_bad : ((bundlesFault 1 0 [0xFFFFFFFF]).isSome && gives (.imageLoadCheck 0) (loadS 0 [0xFFFFFFFF]) fun t => (t.tile 0).faultCode == 0x0C01 && (t.tile 0).state == .faulted) = true := by decide +kernel

theorem test_task_fault : (gives (.taskFault 0 .accParity) runT fun t => (t.tile 0).state == .faulted && (t.tile 0).faultCode == 0x0C21 && (t.tile 0).body.poison.get false 7) = true := by decide +kernel
theorem test_tag_limit : (let s := { (runT.modTile 0 fun x => { x with hold := some (.tag 3), tagLimit := 5 }) with clock := { cycle := 6, radioAcc := 0 } }
    gives (.tagWaitLimit 0) s fun t => (t.tile 0).faultCode == 0x0C62) = true := by decide +kernel
theorem test_scrub : (gives (.scrubStep 0 23) runT fun t => (t.tile 0).scrub == 1) = true := by decide +kernel
theorem test_scrub_bad : (gives (.scrubStep 0 0) (runB fun b => { b with spBad := [4] }) fun t => (t.tile 0).eccUe == 1 && t.events.queue.length == 1) = true := by decide +kernel

def pset : PolderSet := { cls := 1, tagged := true, accRemote := false, winCount := 4, winBase := 0, job := 7 }
theorem test_polder_alloc : (gives (.polderAlloc 0 2 pset) runT fun t => ((t.tile 0).polders.get Polder.init 2).state == .held && ((t.tile 0).polders.get Polder.init 2).winCount == 4) = true := by decide +kernel
theorem test_polder_range : becomes (.polderAlloc 0 2 { pset with winCount := 257 }) runT { runT with out := [.word "POLDER_ALLOC" 0x0102] } = true := by decide +kernel
theorem test_polder_class : becomes (.polderAlloc 0 2 { pset with cls := 0 }) runT { runT with out := [.word "POLDER_ALLOC" 0x0C80] } = true := by decide +kernel
theorem test_polder_release : (gives (.polderRelease 0 0) heldT fun t => ((t.tile 0).polders.get Polder.init 0).state == .zeroising) = true := by decide +kernel
def lockS : State := runT.modTile 0 fun x => { x with polders := x.polders.set Polder.init 2 { Polder.init with state := .locked } }
theorem test_locked_start : (gives (.lockedPolderZeroiseStart 0 2) lockS fun t => ((t.tile 0).polders.get Polder.init 2).state == .zeroising) = true := by decide +kernel
theorem test_polder_zeroised : (let s := runT.modTile 0 fun x => { x with polders := x.polders.set Polder.init 1 { Polder.init with state := .zeroising }, body := { x.body with sp := ⟨[(5, 1), (0x10005, 2)]⟩ } }
    gives (.polderZeroiseComplete 0 1) s fun t => (t.tile 0).polders.get Polder.init 1 == Polder.init && (t.tile 0).body.sp.get 0 0x10005 == 0 && (t.tile 0).body.sp.get 0 5 == 1) = true := by decide +kernel

def winT : State := runT.modTile 0 fun x => { x with polders := x.polders.set Polder.init 1 { Polder.init with state := .held, cls := .inference, job := 1, winCount := 8 } }
def creq : CreditReq := { polder := 1, first := 2, count := 1, acc := false, fmt := .int8, cls := .inference, job := 1, writer := .stream 5 4 }
theorem test_credit_request : (gives (.creditRequest 0 creq) winT fun t => (t.tile 0).requests == [{ req := creq, next := 2, stop := 3 }]) = true := by decide +kernel
def reqS : State := winT.modTile 0 fun x => { x with requests := [{ req := creq, next := 2, stop := 3 }] }
theorem test_credit_grant : (grantable (reqS.tile 0) { req := creq, next := 2, stop := 3 } && gives (.creditGrant 0) reqS fun t =>
    (t.tile 0).credits == [{ polder := 1, slot := 2, acc := false, cls := .inference, job := 1, writer := .stream 5 4 }] && (t.tile 0).requests == []) = true := by decide +kernel
def credS : State := winT.modTile 0 fun x => { x with credits := [{ polder := 1, slot := 2, acc := false, cls := .inference, job := 1, writer := .stream 5 4 }] }
def rwr : RemoteWr := { off := 0x10000 + 2 * 256, bytes := [(7, 0xFF)], acc := false, closing := false, writer := .stream 5 4 }
theorem test_remote_write : (gives (.remoteWrite 0 rwr) credS fun t => (t.tile 0).body.sp.get 0 (0x10000 + 512) == 7) = true := by decide +kernel
theorem test_no_credit : (gives (.remoteWrite 0 rwr) winT fun t => (t.tile 0).refused == 1 && (t.tile 0).body == (winT.tile 0).body) = true := by decide +kernel
theorem test_discard_notice : (let s := runT.modTile 0 fun x => { x with ref := some (.entry 1), notices := [.entry 1] }
    gives (.sluiceNoCredit 0) s fun t => (t.tile 0).faultCode == 0x0C64) = true := by decide +kernel
theorem test_remote_read : (let s := (winT.modBody 0 fun b => { b with sp := ⟨[(0x10000, 3)]⟩ }).modTile 1 fun x => { x with state := .running, job := 1, pjob := 1 }
    gives (.remoteRead 0 0x10000 1 (.task 1)) s fun t => t.out == [.word "SP_READ" 3]) = true := by decide +kernel
theorem test_remote_read_denied : (let s := winT.modTile 1 fun x => { x with state := .running, job := 2, pjob := 2 }
    gives (.remoteRead 0 0x10000 1 (.task 1)) s fun t => (t.tile 1).faultCode == 0x0C77) = true := by decide +kernel
theorem test_remote_read_host : gives (.remoteRead 0 0x20000 1 .host) winT (fun t => t.out == [.word "SP_READ_REFUSED" 0x0C81]) = true := by decide +kernel

/-! ## Memory, caches, pooling -/

theorem test_wc_fill : (let s := { State.reset with wcache := { WeightCache.init with inflight := [(9, .inference)] } }
    gives (.wcLineFill 9) s fun t => (t.wcache.lines.get none 9).isSome && t.wcache.inflight == []) = true := by decide +kernel
theorem test_refresh : (gives (.memRefresh 3 true) State.reset fun t => t.mem.hot == 8 && gives (.memRefresh 3 false) t fun u => u.mem.hot == 0) = true := by decide +kernel
theorem test_patrol : (gives .patrolScrubPass State.reset fun t => t == State.reset) = true := by decide +kernel
theorem test_page_release : (let s := (pageS State.reset).setCluster 0 { (pageS State.reset).cluster 0 with cache := ⟨[(5, 1)]⟩ }
    gives (.clusterPageRelease 0 0) s fun t => (t.cluster 0).pages.get none 0 == none && (t.cluster 0).cache.get 0 5 == 0) = true := by decide +kernel
def poolJob : PoolJob := { ref := .graph 1 0 0, cls := .inference, bytes := poolBytes, stopped := false }
def poolQ (r : Option PoolJob) : State := (pageS State.reset).setCluster 0 { (pageS State.reset).cluster 0 with poolQueue := if r = none then [poolJob] else [], poolRun := r }
theorem test_pool_start : ((parsePool poolBytes).isSome && gives (.poolJobStart 0) (poolQ none) fun t => (t.cluster 0).poolRun == some poolJob && (t.cluster 0).poolQueue == []) = true := by decide +kernel
theorem test_pool_complete : (gives (.poolJobComplete 0) ((poolQ (some poolJob)).setCluster 0 { (poolQ (some poolJob)).cluster 0 with cache := ⟨[(32, 6)]⟩ }) fun t =>
    (t.cluster 0).poolRun == none && (t.cluster 0).cache.get 0 0x420 == 6) = true := by decide +kernel
theorem test_pool_stopped : (((poolQ (some { poolJob with stopped := true })).cluster 0).poolRun.map (·.stopped)) = some true := by decide +kernel

/-! ## Cluster signal processors -/

def cspBase : CspCore := { CspCore.init with
  d := ⟨[(1, 0x00030002), (2, 0xFFFF0005), (3, 7), (4, 0x80000001)]⟩, i := ⟨[(1, 16), (2, 32)]⟩, m := ⟨[(1, 16)]⟩, lr := 9,
  dmem := ⟨[(16, 2), (18, 3), (20, 5), (22, 7), (24, 0x81), (25, 0x90), (32, 2), (34, 9)]⟩ }
/-- CSP 0 runs with some registers and data set; then changed. -/
def cspS (f : Csp → Csp) : State := State.reset.setCsp 0 (f { Csp.init with state := .running, core := cspBase, atIssue := cspBase })
def j0 : CspIssue := ⟨0, false⟩
def mA : CspMem := ⟨1, 1⟩
def mB : CspMem := ⟨2, 0⟩
/-- An operation issues where its condition holds, and its CSP is then as said. -/
def mo : CspSlot := ⟨true, fun _ => true⟩
def xo : CspSlot := ⟨false, fun _ => true⟩
def cspOk (c : Instr) (can : Csp → Bool) (P : Csp → Bool) (s : State := cspS id) (o : CspSlot := xo) : Bool :=
  cspIssues s j0 o && can ((cspBegun s j0 o).csp 0) && gives c s fun t => P (t.csp 0)
/-- No repeat, and reads of n bytes at both memory operands are aligned and good. -/
def canRead (n : Nat) (x : Csp) : Bool := !x.core.repeats && accessFault x (cspAddr x mA) n true == none && accessFault x (cspAddr x mB) n true == none
def once (x : Csp) : Bool := !x.core.repeats
def accIs (x : Csp) (k : CspA) (re im : Int) : Bool := (cAcc x.core k).re.toInt == re && (cAcc x.core k).im.toInt == im

theorem test_cmacr : cspOk (o := mo) (.cmacr j0 0 1 2 false false) once (fun x => accIs x 0 13 13) = true := by decide +kernel
theorem test_cmacr_conj : cspOk (o := mo) (.cmacr j0 0 1 2 true true) once (fun x => accIs x 0 (-7) (-17)) = true := by decide +kernel
theorem test_cmac : cspOk (o := mo) (.cmac j0 0 mA mB false false) (canRead 4) (fun x => accIs x 0 (-23) 24 && cI x.core 1 == 32 && cI x.core 2 == 32) = true := by decide +kernel
theorem test_cpow : cspOk (o := mo) (.cpow j0 0 mA mB true) (canRead 4) (fun x => accIs x 0 (-98) 0) = true := by decide +kernel
theorem test_aclr : cspOk (o := mo) (.aclr j0 1) once (fun x => accIs x 1 0 0) = true := by decide +kernel
theorem test_ald : cspOk (o := mo) (.ald j0 1 mA 3) (canRead 4) (fun x => accIs x 1 16 24) = true := by decide +kernel
theorem test_anrw : (cspOk (o := mo) (.anrw j0 1 5 1 false) once (fun x => cD x.core 5 == 0x00040003) (cspS fun x => { x with core := putAcc x.core 1 { re := 5, im := 7 } }) &&
  cspOk (o := mo) (.anrw j0 1 5 1 true) once (fun x => cD x.core 5 == 3) (cspS fun x => { x with core := putAcc x.core 1 { re := 5, im := 7 } })) = true := by decide +kernel
theorem test_csp_cmul : cspOk (o := mo) (.cspCmul j0 5 1 2 1 false) once (fun x => cD x.core 5 == 0x00070007) = true := by decide +kernel
theorem test_ftap : cspOk (o := mo) (.ftap j0 0 mA false false 1) (canRead 16) (fun x => accIs x 0 (-11) 29 && x.core.defers.length == 1) = true := by decide +kernel
theorem test_tupd : cspOk (o := mo) (.tupd j0 mA 1 2 false) (canRead 16) (fun x => x.core.defers.map (·.due) == [2]) = true := by decide +kernel
theorem test_tcopy : cspOk (o := mo) (.tcopy j0 mA mB) (canRead 16) (fun x => x.core.dmem.get 0 32 == 1 && x.core.dmem.get 0 34 == 0) = true := by decide +kernel
theorem test_movi : cspOk (.movi j0 6 0x200000) (fun _ => true) (fun x => cD x.core 6 == 0xFFE00000) = true := by decide +kernel
theorem test_movhi : cspOk (.movhi j0 1 0xABCD) (fun _ => true) (fun x => cD x.core 1 == 0xABCD0002) = true := by decide +kernel
theorem test_ld : cspOk (.ld j0 6 mA) (canRead 4) (fun x => cD x.core 6 == 0x00030002 && cI x.core 1 == 32) = true := by decide +kernel
theorem test_ld64 : cspOk (.ld64 j0 6 mA) (canRead 8) (fun x => cD x.core 6 == 0x00030002 && cD x.core 7 == 0x00070005) = true := by decide +kernel
theorem test_st : cspOk (.st j0 1 mB) (fun x => x.core.slots == 0 && cspAddr x mB % 4 == 0) (fun x => x.core.dmem.get 0 34 == 3) = true := by decide +kernel
theorem test_st2 : cspOk (.st2 j0 1 mA mB) (fun x => x.core.slots == 0 && x.core.defers == []) (fun x => x.core.dmem.get 0 34 == 0xFF && x.core.dmem.get 0 18 == 3) = true := by decide +kernel
theorem test_csp_alu : (cspOk (.cspAlu j0 5 1 2 0) (fun _ => true) (fun x => cD x.core 5 == 0x00020007) && cspOk (.cspAlu j0 5 1 2 9) (fun _ => true) (fun x => cD x.core 5 == 0x00020007)) = true := by decide +kernel
theorem test_csp_alu_illegal : cspOk (.cspAlu j0 5 1 2 11) (fun _ => true) (fun x => x.state == .faulted && x.fault == some .illegal) = true := by decide +kernel
theorem test_seta : cspOk (.seta j0 5 3 0x1FFF) (fun _ => true) (fun x => cI x.core 5 == 6) = true := by decide +kernel
theorem test_setm : cspOk (.setm j0 2 9 0x1FFF) (fun _ => true) (fun x => x.core.m.get 0 2 == 0x3FFFF) = true := by decide +kernel
theorem test_rcpn : (cspOk (.rcpn j0 5 9) (fun x => cD x.atIssue 9 == 0) (fun x => cD x.core 5 == 0 && x.core.st.sat) &&
  cspOk (.rcpn j0 5 3) (fun x => cD x.atIssue 3 != 0) (fun x => cD x.core 5 == 18725 * 65536 + 2)) = true := by decide +kernel
theorem test_rpt : (cspOk (.rpt j0 (.imm 5) true) once (fun x => x.core.rpt == some (5, true)) && cspOk (.rpt j0 (.reg 3) false) once (fun x => x.core.rpt == some (7, false))) = true := by decide +kernel
theorem test_loop : cspOk (.loop j0 3 3) (fun x => once x && !x.atIssue.st.lpen) (fun x => x.core.depth == 1 && x.core.lc0 == 7 && x.core.ls0 == 1 && x.core.le0 == 3) = true := by decide +kernel
def nested : State := cspS fun x => { x with core := { cspBase with depth := 1, st := { cspBase.st with lpen := true } } }
theorem test_loop_inner : cspOk (.loop j0 3 3) (fun x => x.atIssue.st.lpen && x.atIssue.depth == 1) (fun x => x.core.depth == 2 && x.core.lc1 == 7) nested = true := by decide +kernel
theorem test_csp_br : (cspOk (.cspBr j0 4 0 0xFFF) once (fun x => x.core.target == some 0xFFF) && cspOk (.cspBr j0 9 1 4) once (fun x => x.core.target == some 4) &&
  cspOk (.cspBr j0 9 2 4) once (fun x => x.core.target == none) && cspOk (.cspBr j0 4 3 4) once (fun x => x.core.target == some 4) &&
  cspOk (.cspBr j0 4 4 4) once (fun x => x.core.target == none)) = true := by decide +kernel
theorem test_call : cspOk (.call j0 4) once (fun x => x.core.lr == 1 && x.core.target == some 4) = true := by decide +kernel
theorem test_ret : cspOk (.ret j0) once (fun x => x.core.target == some 9) = true := by decide +kernel
theorem test_iret : (cspOk (.iret j0) (fun x => x.atIssue.st.level == 1) (fun x => x.core.target == some 7 && x.core.st.ie)
    (cspS fun x => { x with core := { cspBase with epc1 := 7, est1 := { cspBase.st with ie := true }, st := { cspBase.st with level := 1 } } }) &&
  cspOk (.iret j0) (fun x => x.atIssue.st.level == 2) (fun x => x.core.target == some 8)
    (cspS fun x => { x with core := { cspBase with epc2 := 8, st := { cspBase.st with level := 2 } } })) = true := by decide +kernel
theorem test_csp_wait : cspOk (.wait j0 3) once (fun x => x.core.waiting == some 3) = true := by decide +kernel
theorem test_sig : cspOk (.sig j0 3) once (fun x => x.core.signal == some 3) = true := by decide +kernel
theorem test_ei : cspOk (.ei j0) once (fun x => x.core.st.ie) = true := by decide +kernel
theorem test_di : cspOk (.di j0) once (fun x => !x.core.st.ie) (cspS fun x => { x with core := { cspBase with st := { cspBase.st with ie := true } } }) = true := by decide +kernel
theorem test_halt : cspOk (.halt j0) (fun x => match endBundle x with | .inl _ => once x | _ => false) (fun x => x.state == .stopped && x.stopPc == 0) = true := by decide +kernel
theorem test_lsave : cspOk (.lsave j0 2) (fun x => once x && x.core.slots == 0) (fun x => x.core.dmem.get 0 32 == 9) (cspS fun x => { x with core := { cspBase with lc0 := 9 } }) = true := by decide +kernel
theorem test_lrest : cspOk (.lrest j0 2) (fun x => x.core.ext.bad == [] && dmemRead x.core 32 32 == loopBytes { cspBase with lc0 := 5, depth := 2 }) (fun x => x.core.lc0 == 5 && x.core.depth == 2 && x.core.st.lpen)
  (cspS fun x => { x with core := { cspBase with dmem := dmemPut cspBase.dmem 32 (loopBytes { cspBase with lc0 := 5, depth := 2 }) } }) = true := by decide +kernel

theorem test_csp_interrupt : (let s := cspS fun x => { x with pending := 1, core := { cspBase with pc := 5, st := { cspBase.st with ie := true } } }
  nextSource (s.csp 0) == some 0 && gives (.cspInterrupt 0) s fun t => (t.csp 0).core.pc == 0x010 && (t.csp 0).core.epc1 == 5 && (t.csp 0).pending == 0 && !(t.csp 0).core.st.ie) = true := by decide +kernel
theorem test_csp_run : (gives (.cspRun 0 ⟨[], []⟩) (cspS fun x => { x with state := .loaded, core := { cspBase with pc := 5 } }) fun t => (t.csp 0).state == .running && (t.csp 0).core.pc == 0 && cD (t.csp 0).core 3 == 7) = true := by decide +kernel
theorem test_csp_load_run : (gives (.cspRun 0 ⟨[9, 4], [(3, 7)]⟩) State.reset fun t => (t.csp 0).state == .running && (t.csp 0).prog.get 0 1 == 4 && (t.csp 0).signals == [(3, 7)] && (t.csp 0).domain == some .radio) = true := by decide +kernel
theorem test_force_stop : (gives (.cspForceStop 0) (cspS fun x => { x with core := { cspBase with defers := [{ due := 1, addr := 0, bytes := [1], own := false }] } }) fun t => (t.csp 0).state == .stopped && (t.csp 0).core.defers == []) = true := by decide +kernel
theorem test_csp_zero : (gives (.cspZero 0) State.reset fun t => (t.csp 0).state == .zeroising && gives (.cspZeroiseComplete 0) t fun u => (u.csp 0).state == .empty && (u.csp 0).core == CspCore.init) = true := by decide +kernel
theorem test_external : (gives (.cspExternalAccess 0 .none (.write 40 [6, 0, 0, 0])) (cspS fun x => { x with state := .stopped }) fun t => (t.csp 0).core.dmem.get 0 40 == 6) = true := by decide +kernel
theorem test_external_waits : (gives (.cspExternalAccess 0 .mailbox (.write 40 [6, 0, 0, 0])) (cspS id) fun t =>
  (t.csp 0).core.ext.waiting == [(.write 40 [6, 0, 0, 0], 0)] && (t.csp 0).pending == 8) = true := by decide +kernel
theorem test_external_misaligned : becomes (.cspExternalAccess 0 .none (.write 41 [6, 0, 0, 0])) (cspS id) ((cspS id).emit (.word "CSP_ACCESS_REFUSED" 0x0E02)) = true := by decide +kernel
theorem test_external_steal : (let s := cspS fun x => { x with core := { cspBase with ext := { CspExt.init with waiting := [(.write 40 [6, 0, 0, 0], 64)] } } }
  gives (.cspExternalSteal 0) s fun u => (u.csp 0).core.ext.waiting == [] && (u.csp 0).core.ext.stolen && (u.csp 0).core.dmem.get 0 40 == 6) = true := by decide +kernel
/-- The words of Tables 3 to 5: MOVI d6, 5 in the X-slot beside CMACR acc1, d2, d3 in the M-slot. -/
def bundle0 : Dword := 0x4180000509230000
theorem test_csp_words : (bundleOk bundle0.toNat && repIs (.cmacr 1 2 3 false false) (bundle0.toNat % 2 ^ 32) && !repIs (.cmacr 1 2 4 false false) (bundle0.toNat % 2 ^ 32) &&
  slotIs 0x10 [(22, 4, 6), (0, 22, 5)] (bundle0.toNat / 2 ^ 32) && !bundleOk 0xFC000000 && bundleOk 0) = true := by decide +kernel
/-- A program holds its operations: both join one bundle, M before X, and another operation of it does not issue. -/
theorem test_csp_bundle : (let s := cspS fun x => { x with prog := ⟨[(0, bundle0)]⟩ }
  gives (.cmacr j0 1 2 3 false false) s fun t => (t.csp 0).core.mUsed && cspJoins t ⟨0, true⟩ xo && !cspJoins t ⟨0, true⟩ mo &&
    gives (.movi ⟨0, true⟩ 6 5) t (fun u => cD (u.csp 0).core 6 == 5 && (u.csp 0).core.xUsed && !cspJoins u ⟨0, true⟩ xo)) = true := by decide +kernel
theorem test_csp_other : (let s := cspS fun x => { x with prog := ⟨[(0, bundle0)]⟩ }
  !cspIssues s j0 ⟨true, repIs (.cmacr 1 2 4 false false)⟩ && gives (.cmacr j0 1 2 4 false false) s fun t => (t.csp 0).core.acc == cspBase.acc) = true := by decide +kernel
/-- A word with a reserved bit set faults with CSP_ILLEGAL at its bundle (10 R227). -/
theorem test_csp_reserved : (gives (.cmacr j0 1 2 3 false false) (cspS fun x => { x with prog := ⟨[(0, 0x09230001)]⟩ }) fun t =>
  (t.csp 0).state == .faulted && (t.csp 0).fault == some .illegal) = true := by decide +kernel
/-- LOOP of count 0 skips its body (10 R233). -/
theorem test_loop_zero : cspOk (.loop j0 0 3) (fun x => once x && cD x.atIssue 0 == 0) (fun x => x.core.skip == some 3 && x.core.depth == 0) = true := by decide +kernel
/-- The signal of an ended bundle releases the semaphore the image names for it, or stands in the mailbox (10 R228). -/
theorem test_signal_out : (let s := cspS fun x => { x with signals := [(3, 7)] }
  gives (.sig j0 3) s fun t => gives (.ei j0) t fun u => (u.sem 7).count == 1 && (u.csp 0).mailbox == none &&
    gives (.sig j0 4) u fun v => gives (.ei j0) v fun z => (z.csp 0).mailbox == some 4) = true := by decide +kernel
/-- A correctable word is corrected at a read, counted, and pends source 6 (10 R224). -/
theorem test_csp_corrected : cspOk (.ld j0 6 mA) (canRead 4) (fun x => x.core.ext.weak == [] && x.ecc == 1 && x.pending == 64 && cD x.core 6 == 0x00030002)
  (cspS fun x => { x with core := { cspBase with ext := { CspExt.init with weak := [2] } } }) = true := by decide +kernel

/-! ## Requests of sessions and radio slots -/

def hd : QcpHdr := { port := 0, addr := 9, udp := 5, session := 1, seq := 7, major := 1, minor := 0, tag := 3, raw := [] }
def ses : Session := { port := 0, addr := 9, udp := 5, role := .admin, nonce := [], lastSeq := none, cache := [], idleNs := 0, nextSeq := 4 }
/-- The reset state in a device state, with session 1 open as administrator; then changed. -/
def host (d : DevState) (f : State → State := id) : State :=
  f (({ State.reset with host := { HostPort.init with state := d } }).setSession 1 (some ses))
/-- Does a request pass the checks? -/
def accepts (s : State) (h : QcpHdr) (m : MsgRow) : Bool :=
  !s.portDrops h && !s.replayQcp h.raw && (s.capture.replay == none || m.reads) &&
  (match s.boundSession h with | some x => decide (seqCheck x.lastSeq h.seq = .fresh) && decide (roleRank m.role ≤ roleRank x.role) | none => false) &&
  (m.hw || h.major == s.host.fwMajor) && m.legal.contains s.host.state
/-- A message that is accepted where `can` holds has its effect and its reply. -/
def served (c : Instr) (h : QcpHdr) (m : MsgRow) (can : State → Bool) (f : State → State) (b : State → ReplyBody) (s : State) : Bool :=
  accepts s h m && can (taken s h) && can (heard s h m) && becomes c s ((f (heard s h m)).reply h m.hw Code.ok (b (heard s h m)))
/-- The same, with a property of the state after the reply. -/
def answers (c : Instr) (h : QcpHdr) (m : MsgRow) (can : State → Bool) (P : State → State → Bool) (s : State) (code : Half := Code.ok) : Bool :=
  accepts s h m && can (taken s h) && can (heard s h m) && gives c s fun t =>
    P (heard s h m) t && (match t.out.getLast? with | some (.reply r) => r.status == code && r.ref == h.seq | _ => false)
/-- A message whose reply comes later. -/
def starts (c : Instr) (h : QcpHdr) (m : MsgRow) (can : State → Bool) (P : State → State → Bool) (s : State) : Bool :=
  accepts s h m && can (taken s h) && can (heard s h m) && gives c s (P (heard s h m))
def refusesWith (c : Instr) (h : QcpHdr) (m : MsgRow) (can : State → Bool) (code : Half) (s : State) : Bool :=
  accepts s h m && can (taken s h) && becomes c s ((taken s h).reply h m.hw code .empty)

def ulc : UlCell := {
  pci := 1, cellIndex := 0, mu := 1, nPrb := 24, nRx := 1, maxLayers := 4, gridEngine := 0, decoderBank := 0, rxMode := 1,
  fallbackRank := 0, eaxcBase := 16, iqWidth := 9, resultPort := 2, harqPoolBase := 0, harqPoolPages := 2, ldpcMaxIter := 8, msOffset := 0, polarList := 8, rsvd1f := 0, rsvd20 := 0 }
def dlc : DlCell := {
  pci := 1, cellIndex := 0, mu := 1, nPrb := 24, nTx := 1, maxLayers := 4, gridEngine := 0, decoderBank := 0, precodePlace := 0,
  compMethod := 0, eaxcBase := 16, iqWidth := 9, srsMaxAge := 20, t1aMaxNs := 100000, t1aMinNs := 20000, tcpAdvNs := 10000, mib := 0, ssbBitmap := 0,
  bcastPhase := List.replicate 16 0, ssbPrbOffset := 0, ssbPeriod := 0, ssbCase := 0, kSsb := 0, ssbRsvd := 0, rsvd3c := 0 }
def pusch1 : Pusch := {
  rnti := 9, ueCtx := 3, prbStart := 0, prbCount := 4, symStart := 0, symCount := 14, layers := 1, qm := 2, rateX1024 := 300,
  harqId := 5, ndi := true, rv := 0, tp := false, lbrm := false, tbsBits := 24, dmrsSymMask := 4, dmrsPorts := 1, dmrsScrId := 0, dmrsType := 1,
  cdmGroups := 1, nscid := false, dataScrId := 0, ackBits := 0, csi1Bits := 0, csi2Bits := 0, betaAck := 0, betaCsi1 := 0, betaCsi2 := 0, alpha := 0, flagsRsvd := 0,
  maskRsvd := 0, cfgRsvd := false, rsvd1b := 0, rsvd28 := 0 }
def pdsch1 : Pdsch := {
  rnti := 9, ueCtx := 3, prbStart := 0, prbCount := 4, symStart := 0, symCount := 14, layers := 1, qm := 2, rateX1024 := 300,
  harqId := 5, rv := 0, lbrm := false, precodeType := 0, tbsBits := 24, dmrsSymMask := 4, dmrsPorts := 1, dmrsScrId := 0, dmrsType := 1,
  cdmGroups := 1, nscid := false, power := 0, dataScrId := 0, prg := 2, flagsRsvd := 0, maskRsvd := 0, cfgRsvd := false, rsvd1f := 0 }
def ulcfg : UlSlotCfg := { absSlot := 3, cell := 0, pusch := [pusch1], pucch := [], prach := [], srs := [] }
def dlcfg : DlSlotCfg := { absSlot := 3, cell := 0, pdsch := [pdsch1], pdcch := [], csirs := [], payloads := [[1, 2, 3, 0, 0, 0, 0, 0]], precoders := [] }
def rUp : MsgRow := { role := .operate, legal := [.running] }
/-- A running device with 1 MiB of radio memory at 0. -/
def radioMem (s : State) : State := s.setSec { s.sec with regions := s.sec.regions.set Region.init 2 { domain := 0, sealed := false, changing := false, base := 0, size := 1 } }
/-- Cell 0 has its records, at a device time in ns. -/
def cellAt (ns : Nat) (f : CellSt → CellSt := id) : State :=
  (host .running fun s => s.setTime { s.time with now := ns * 2 ^ 40 }).modCell 0 fun c => f { c with ul := some ulc, dl := some dlc }
def cellFits (s : State) : Bool := ulCellOk ulc && dlCellOk dlc && s.inRegion .radio 0 0x10000

theorem test_cell_config : served (.cellConfig hd ulc dlc) hd rUp (fun u => cellFits u && !u.cellOver 0 ulc dlc && (u.cell 0).ul.isNone)
  (fun u => u.cellApply 0 ulc dlc) (fun _ => .empty) (host .running radioMem) = true := by decide +kernel
theorem test_cell_config_again : served (.cellConfig hd ulc dlc) hd rUp (fun u => cellFits u && !u.cellOver 0 ulc dlc && (u.cell 0).ul.isSome)
  (fun u => u.modCell 0 fun c => { c with pending := some (ulc, dlc) }) (fun _ => .empty) (radioMem (cellAt 0)) = true := by decide +kernel
theorem test_cell_config_over : refusesWith (.cellConfig hd ulc dlc) hd rUp (fun u => cellFits u && u.cellOver 0 ulc dlc) 0x0103
  ((host .running radioMem).setRst { ResetCtl.init with held := [108] }) = true := by decide +kernel
theorem test_cell_config_range : refusesWith (.cellConfig hd { ulc with pci := 1008 } dlc) hd rUp (fun _ => true) 0x0102 (host .running radioMem) = true := by decide +kernel

def ulOk (s : State) (c : UlSlotCfg) : Bool := !s.radio.paused && !(s.cell 0).ulServed.contains 3 && s.recordsFor 0 3 == some (ulc, dlc) &&
  c.pusch.all (puschOk ulc) && !ulSlotOver ulc c
theorem test_ul_slot_config : (ulOk (cellAt 0) ulcfg && gives (.ulSlotConfig ulcfg 200000) (cellAt 0) fun v => match v.ulSlot 0 3 with
  | some x => !x.lateCfg && x.accepted && x.pusch.map (·.cfg) == [pusch1] && (v.cell 0).ulServed == [3] | none => false) = true := by decide +kernel
theorem test_ul_slot_config_late : (ulOk (cellAt 0) ulcfg && gives (.ulSlotConfig ulcfg 199999) (cellAt 0) fun v => match v.ulSlot 0 3 with
  | some x => x.lateCfg && x.pusch.all (·.noConfig) | none => false) = true := by decide +kernel
theorem test_ul_slot_config_twice : becomes (.ulSlotConfig ulcfg 0) (cellAt 0 fun c => { c with ulServed := [3] })
  ((cellAt 0 fun c => { c with ulServed := [3] }).modCell 0 fun c => { c with cfgDup := 1 }) = true := by decide +kernel

def prb1 : BfpPrb := { exp := 4, mant := 0x1FF :: 0x0FF :: List.replicate 22 0 }
def sec1 : USection := { eaxc := 16, absSlot := 3, sym := 2, prbStart := 23, prbs := [prb1] }
def secFits (s : State) : Bool := s.ulCellOf 16 3 == some (0, ulc, 0)
theorem test_uplane_early : (secFits (cellAt 0) && gives (.uplaneSection sec1 1000001) (cellAt 0) fun t => (t.cell 0).early == 1) = true := by decide +kernel
theorem test_uplane_late : (secFits (cellAt 6) && gives (.uplaneSection sec1 5) (cellAt 6) fun t => (t.cell 0).late == 1) = true := by decide +kernel
theorem test_uplane_covered : (secFits (cellAt 5) && gives (.uplaneSection sec1 5) (cellAt 5) fun t => match t.ulSlot 0 3 with
  | some y => y.covers == [{ stream := 0, sym := 2, prb := 23, count := 1 }] && y.grid.get 0 (reKey 0 2 23 0) == 0x0FF0FFF0 | none => false) = true := by decide +kernel
/-- An accepted slot 3 of cell 0 with one PUSCH. -/
def px : PuschSt := {
  cfg := pusch1, noConfig := false, noDmrs := false, noReceiver := false, classical := false, notStored := false, uciFail := false,
  crcPass := false, decided := false, firstTx := false, stage := 0, iterations := 0, staging := .idle, staged := [], est := [], det := [], demapped := 0, llrs := [], soft := [], cbs := .empty,
  uci := [], guardPass := none, otherPass := none, sinr := 0, timing := 0 }
def slotUl (x : UlSlot) (p : PuschSt) : UlSlot := { x with accepted := true, pusch := [p] }
def ulAt (ns : Nat) (f : UlSlot → UlSlot := id) (p : PuschSt := px) : State := (cellAt ns).setUlSlot 0 3 (some (f (slotUl (UlSlotEmpty ulc 3 500000) p)))
theorem test_uplane_twice : gives (.uplaneSection sec1 5) (ulAt 5 fun x => { x with covers := [{ stream := 0, sym := 2, prb := 23, count := 1 }] })
  (fun t => (t.cell 0).dup == 1) = true := by decide +kernel

def stagingIs (t : State) (g : Staging) : Bool := match t.pusch 0 3 0 with | some r => r.staging == g | none => false
theorem test_harq_start_new : gives (.harqStagingStart 0 3) (ulAt 400000) (fun t => stagingIs t .complete && (t.user 3).rnti == 9) = true := by decide +kernel
theorem test_harq_start_old : (gives (.harqStagingStart 0 3) ((ulAt 400000).setHarq 3 5 { ndi := some true, pages := [], writeback := none }) (fun t => stagingIs t .started) &&
  gives (.harqStagingStart 0 3) ((ulAt 400000).setHarq 3 5 { ndi := some true, pages := [], writeback := some [] }) (fun t => stagingIs t .waiting)) = true := by decide +kernel
theorem test_harq_staged : gives (.harqStagingComplete 0 3 0) ((ulAt 0 id { px with staging := .started }).setHarq 3 5 { ndi := some true, pages := [], writeback := none })
  (fun t => stagingIs t .complete) = true := by decide +kernel
theorem test_harq_written : gives (.harqWritebackComplete 3 5) ((ulAt 0).setHarq 3 5 { ndi := some true, pages := [0], writeback := some [[1, 2]] })
  (fun t => (t.harq 3 5).writeback.isNone && (t.harq 3 5).pages == [0] && t.extByte 1 == 2) = true := by decide +kernel

/-- Entry 0 of the table serves slot 3 of cell 0, and its task runs on tile 1. -/
def serves (s : State) : State :=
  (s.setSched { s.sched with
    table := some { addr := 0, entries := [{ offsetNs := 500000, kind := 0, mu := 1, owner := 0, task := 0, tiles := 2, deadlineNs := 20 }], sems := [] }
    entrySlot := s.sched.entrySlot.set none 0 (some 3) }).modTile 1 fun x => { x with state := .running, ref := some (.entry 0) }
theorem test_entry_runs : ((serves (ulAt 900000)).entryRuns 0 3 && !(ulAt 900000).entryRuns 0 3) = true := by decide +kernel
def stageOf (t : State) : Option Nat := (t.pusch 0 3 0).map (·.stage)
theorem test_ul_grid : gives (.ulStageComplete 0 3 0 .grid 0) (ulAt 900000 fun x => { x with intake := true }) (fun t => stageOf t == some 1) = true := by decide +kernel
theorem test_ul_estimation : gives (.ulStageComplete 0 3 0 .estimation 0) (serves (ulAt 900000 (fun x => { x with intake := true }) { px with stage := 1 }))
  (fun t => stageOf t == some 2) = true := by decide +kernel
theorem test_ul_stage : (usersEstimated (slotUl (UlSlotEmpty ulc 3 500000) { px with stage := 2 }) pusch1 &&
  gives (.ulStageComplete 0 3 0 .detection 0) (serves (ulAt 900000 (fun x => { x with intake := true }) { px with stage := 2 }))
    (fun t => stageOf t == some 3 && (t.pusch 0 3 0).map (·.decided) == some false)) = true := by decide +kernel
theorem test_ul_stage_place : becomes (.ulStageComplete 0 3 0 .detection 0) (ulAt 900000 (fun x => { x with intake := true }) { px with stage := 2 })
  (ulAt 900000 (fun x => { x with intake := true }) { px with stage := 2 }) = true := by decide +kernel
/-- LLRs come symbol by symbol, in the classical detector on no tile (02 R22, R61). -/
theorem test_ul_demap : (gives (.ulStageComplete 0 3 0 .demapping 5) (ulAt 900000 (fun x => { x with intake := true, classical := true }) { px with stage := 3 })
    (fun t => (t.pusch 0 3 0).map (·.demapped) == some 5 && stageOf t == some 3)) = true := by decide +kernel
theorem test_close_intake : gives (.ulStageComplete 0 3 0 .grid 0) (ulAt 500000 (fun x => { x with covers := [{ stream := 0, sym := 2, prb := 0, count := 24 }] }))
  (fun t => match t.ulSlot 0 3 with | some y => y.intake && y.classical && y.version == 0 | none => false) = true := by decide +kernel
def peered (s : State) : State := s.setNet { s.net with ports := s.net.ports.set Port.init 2 { Port.init with peerTb := some [7] } }
def occasion : Prach := { format := .f0, set := .unrestricted, prbStart := 0, symStart := 0 }
/-- With the CSP of the entry's first cluster down no preamble is reported (02 R52, 10 R238). -/
theorem test_prach_detection : (let s := (serves (peered (ulAt 0 fun x => { x with intake := true, prach := [(occasion, [])] }))).setCsp 0 { Csp.init with state := .faulted }
  s.prachDown 0 3 && gives (.prachDetection 0 3 0) s (fun t => t.out == [.aqmor 2 [7] 0 (.prachReport 0 3 0 [])])) = true := by decide +kernel
theorem test_block_decoded_first : gives (.codeBlockDecoded 0 3 0 0) (ulAt 600000 id { px with soft := [[], []] })
  (fun t => (t.bank 0).blocks == 1 && (t.pusch 0 3 0).map (fun q => q.cbs.entries.length) == some 1) = true := by decide +kernel
theorem test_block_decoded_needs : (let x := slotUl (UlSlotEmpty ulc 3 500000) { px with soft := [[]] }
  (codeOf pusch1).blocks == 1 && px.cbs.get none 0 == none && !x.closed && !(ulAt 600000 id { px with soft := [[]] }).pastDeadline x) = true := by decide +kernel
theorem test_ul_slot_decided : (let p := { px with decided := true, crcPass := true }
  let s := peered (ulAt 850000 (fun x => { x with intake := true }) p)
  let x := { slotUl (UlSlotEmpty ulc 3 500000) p with intake := true }
  let y := { x with pusch := (endHarqs ulc 0 false x.pusch s).1 }
  allDecided x && !s.pastDeadline x && !s.fated 1 3 0 0 && gives (.ulSlotDecided 0 3) s fun t => (match t.ulSlot 0 3 with | some z => z.closed | none => false) &&
    t.out == [.aqmor 2 [7] 0 (.ulResults 0 3 (ulFrame false y).1 (ulFrame false y).2)]) = true := by decide +kernel
theorem test_ul_status : ((puschStatus false { px with crcPass := true }).getLsbD 0 && (puschStatus true { px with crcPass := true }).getLsbD 2) = true := by decide +kernel
theorem test_ul_slot_deadline : gives (.ulSlotDeadline 0 3) (ulAt 850000 (fun x => { x with intake := true }))
  (fun t => (t.ulSlot 0 3).isNone && (t.cell 0).lateSlots == 1) = true := by decide +kernel

def pd1 : PdschSt := { cfg := pdsch1, payload := [], noConfig := false, noSrs := false, lateSyms := false, saturated := false, coded := [], weights := [] }
def dx : DlSlot := {
  config := dlc, resultPort := 2, absSlot := 3, t0 := 1000000, accepted := true, pdsch := [pd1], pdcch := [], csirs := [], srsHeld := [],
  encoded := false, precoded := false, built := 0, cplane := false, grid := [], sent := [], closedTo := 0 }
def dlAt (ns : Nat) (f : DlSlot → DlSlot := id) : State := (cellAt ns).setDlSlot 0 3 (some (f dx))
def dlIs (t : State) (P : DlSlot → Bool) : Bool := match t.dlSlot 0 3 with | some x => P x | none => false
theorem test_dl_slot_config : (dlcfg.pdsch.all (pdschOk dlc) && sharesOk dlc dlcfg.pdsch && !dlSlotOver dlc dlcfg && !(cellAt 0).host.berm &&
  tailOk dlc dlcfg && (cellAt 0).dlRecordsFor 0 3 == some (ulc, dlc) && gives (.dlSlotConfig dlcfg 150000) (cellAt 0) (fun t => dlIs t fun x => x.accepted && x.pdsch.map (·.payload) == [[1, 2, 3, 0, 0, 0, 0, 0]] && (t.cell 0).dlServed == [3]) &&
  gives (.dlSlotConfig dlcfg 149999) (cellAt 0) (fun t => dlIs t fun x => !x.accepted)) = true := by decide +kernel
theorem test_dl_encode : (gives (.dlEncodeComplete 0 3) (dlAt 1000000) (fun t => dlIs t fun x => x.encoded && x.pdsch.map (·.cfg) == [pdsch1]) &&
  gives (.dlEncodeComplete 0 3) (dlAt 1000001) (fun t => dlIs t fun x => !x.encoded)) = true := by decide +kernel
theorem test_precoder : (gives (.precoderComplete 0 3 5) (serves (dlAt 1000000)) (fun t => dlIs t fun y => y.precoded && !y.encoded && y.built == 0 && y.pdsch.map (·.cfg) == [pdsch1]) &&
  gives (.precoderComplete 0 3 5) (serves (dlAt 1000000 fun x => { x with encoded := true, pdsch := [] })) (fun t => dlIs t fun y => y.precoded && y.built == 5 && y.grid == [])) = true := by decide +kernel
def ready (x : DlSlot) : DlSlot := { x with encoded := true, precoded := true, built := 14 }
theorem test_cplane : ((dlAt 1389999 ready).nowNs ≤ cplaneLimit dx && gives (.cplaneSend 0 3) (dlAt 1389999 ready) (fun t => dlIs t (·.cplane) && t.out.length == 1)) = true := by decide +kernel
theorem test_window_open : (let x := ready dx
  symbolReady x 0 && windowBegun x 3 0 1400000 && !windowPast x 3 0 1400000 && !(dlAt 1400000 ready).fated 2 3 0 0 &&
  gives (.dlSymbolWindowOpen 0 3 0) (dlAt 1400000 ready) (fun t => dlIs t fun y => y.sent == [0] && t.out == [])) = true := by decide +kernel
theorem test_window_close_sent : (gives (.dlSymbolWindowClose 0 3 0) (dlAt 1490000 fun x => { ready x with sent := [0] }) (fun t => dlIs t fun y => y.closedTo == 1) &&
  gives (.dlSymbolWindowClose 0 3 13) (peered (dlAt 2000000 fun x => { ready x with sent := [13], closedTo := 13 })) (fun t => (t.dlSlot 0 3).isNone &&
    t.out == [.aqmor 2 [7] 0 (.dlStatus 0 3 [⟨9, 3, 0⟩])])) = true := by decide +kernel
theorem test_window_open_ssb : gives (.dlSymbolWindowOpen 0 20 4) ((cellAt 10050000).modCell 0 fun c => { c with dl := some { dlc with ssbBitmap := 1 } })
  (fun t => match t.out with | [.frame _ (.uplane c n m b prbs mods)] => c == 0 && n == 20 && m == 4 && b && mods == [] && prbs.map (·.prb) == upTo 20 && prbs.all (·.stream == 0) | _ => false) = true := by decide +kernel
theorem test_window_close_late : gives (.dlSymbolWindowClose 0 3 0) (dlAt 1490000) (fun t => (t.cell 0).dlLate == 1 &&
  dlIs t fun y => y.closedTo == 1 && y.pdsch.all (·.lateSyms)) = true := by decide +kernel
theorem test_bfp : (bfpTx 8 ⟨0, 0, 0, [127, 128, -129]⟩ = { stream := 0, prb := 0, exp := 1, mant := [64, 64, -64] }) = true := by decide +kernel

/-! ## The sweep link and adaptation -/

def srec : SweepRec := {
  bw := 0, orderMask := 0x180, nRx := 1, eqMode := 1, muShift := 4, resultPort := 3, carrierHz := 868000000, ulEaxcBase := 64, dlEaxc := 70, netId := 5,
  cspMask := 1, rxDelayMs := 1000, dlBackoff := 0, holdPpmX100 := 100, maskRsvd := 0, rsvd17 := 0, rsvd1a := 0 }
/-- Sweep channel 0 has its record, at a device time in ns. -/
def chanAt (ns : Nat) (f : ChanSt → ChanSt := id) : State :=
  (host .running fun s => s.setTime { s.time with now := ns * 2 ^ 40 }).modChan 0 fun y => f { y with cfg := some srec }
def chanIs (t : State) (P : ChanSt → Bool) : Bool := P (t.chan 0)

theorem test_sweep_config : served (.sweepConfig hd 0 srec) hd rUp (fun u => sweepRecOk 0 srec && !u.rst.heldRadio && !u.rst.held.contains 116)
  (fun u => (u.setChan 0 { u.chan 0 with cfg := some srec, pending := none }).wakeDomain 116) (fun _ => .empty) (host .running) = true := by decide +kernel
theorem test_sweep_config_shape : served (.sweepConfig hd 0 { srec with nRx := 2 }) hd rUp (fun u => sweepRecOk 0 { srec with nRx := 2 } && !u.rst.heldRadio && !u.rst.held.contains 116)
  (fun u => (u.setChan 0 { u.chan 0 with pending := some { srec with nRx := 2 } }).wakeDomain 116) (fun _ => .empty) (chanAt 0) = true := by decide +kernel
theorem test_sweep_config_range : refusesWith (.sweepConfig hd 0 { srec with netId := 4096 }) hd rUp (fun _ => !sweepRecOk 0 { srec with netId := 4096 }) 0x0102 (host .running) = true := by decide +kernel
theorem test_sweep_ctx : served (.sweepCtx hd 9 77 2) hd rUp (fun _ => true)
  (fun u => u.setCtx 9 { EndCtx.init with bound := true, addr := 77, channel := 2 }) (fun _ => .empty) (host .running) = true := by decide +kernel
def ctx9 (s : State) : State := s.setCtx 9 { EndCtx.init with bound := true, addr := 77, dlFcnt := 4, item := some [8] }
theorem test_sweep_item : becomes (.sweepDownlinkItem 77 [1, 2]) (ctx9 State.reset) ((ctx9 State.reset).setCtx 9 { (ctx9 State.reset).ctx 9 with item := some [1, 2] }) = true := by decide +kernel
def ssec : SweepSection := { eaxc := 64, seqId := 0, bwCode := 0, flagsRsvd := 0, secLo := 0, rsvd0c := 0, sample := 4, count := 2, samples := .plain [⟨1, 2⟩, ⟨3, 4⟩] }
theorem test_sweep_section : ((chanAt 0).chanOf 64 == some (0, srec, 0) && sectionOk srec ssec && !sectionOk srec { ssec with bwCode := 1 } && gives (.sweepSection ssec) (chanAt 0) fun t => chanIs t fun y =>
  y.samples.get none (sampleKey 0 5) == some { value := ⟨3, 4⟩, erased := false }) = true := by decide +kernel
theorem test_sweep_section_bfp : gives (.sweepSection { ssec with samples := .bfp [(2, [⟨0xFFF, 0x7FF⟩])] }) (chanAt 0) (fun t => chanIs t fun y =>
  y.samples.get none (sampleKey 0 4) == some { value := ⟨0xFFFC, 0x1FFC⟩, erased := false }) = true := by decide +kernel
theorem test_sweep_section_late : gives (.sweepSection ssec) (chanAt 2010001) (fun t => chanIs t fun y => y.late == 1 && y.samples == .empty) = true := by decide +kernel
theorem test_sweep_erase : gives (.sweepSampleErase 0 0 4) (chanAt 2010000) (fun t => chanIs t fun y =>
  y.samples.get none 4 == some { value := ⟨0, 0⟩, erased := true }) = true := by decide +kernel
/-- Samples 0 to n - 1 of stream 0, all zero. -/
def zeroSamples (n : Nat) : Table (Option SampleSt) := ⟨(upTo n).map fun i => (i, some { value := ⟨0, 0⟩, erased := false })⟩
theorem test_sweep_window : (let s := chanAt 0 fun y => { y with samples := zeroSamples 256 }
  srec.orderMask.getLsbD 7 && 64 % (chipsOf 7 / 2) == 0 && samplesIn (s.chan 0) 1 0 256 && gives (.sweepWindow 0 7 0 false) s fun t => chanIs t fun y =>
    y.windows.length == 1 && (y.windows.map fun w => (w.order, w.start, w.dn)) == [(7, 0, false)]) = true := by decide +kernel
theorem test_sweep_window_early : becomes (.sweepWindow 0 7 0 false) (chanAt 0 fun y => { y with samples := zeroSamples 255 })
  (chanAt 0 fun y => { y with samples := zeroSamples 255 }) = true := by decide +kernel
theorem test_largest : topBins 3 ([3, 9, 9, 1].zipIdx) = [1, 2, 0] := by decide +kernel
/-- An up-sweep of value k has its power at bin k after dechirping (04 R99). -/
theorem test_dechirp : (let w := [fun n => upSweep 2 3 n]
  decide (binPower 2 false w 2 < binPower 2 false w 3) && decide (binPower 2 false w 0 < binPower 2 false w 3)) = true := by decide +kernel
theorem test_identity_values : (identityValues 7 0x12A == (8, 84) && identityNear 7 8 8 && identityNear 7 9 8 && !identityNear 7 10 8 && identityNear 7 127 0) = true := by decide +kernel

def det1 : Detection := { order := 6, bUp := 256, bDn := 512, power := 40 }
def seen (start bin : Nat) (dn : Bool) : SweepWin := { order := 6, start, dn, peaks := [(bin, 10, true, 0)] }
/-- Windows that meet the criterion of 04 R101 at order 6, the down-sweeps at sample 512. -/
def seenAll : List SweepWin := [seen 0 1 false, seen 128 1 false, seen 256 1 false, seen 384 1 false, seen 512 2 true, seen 640 2 true]
/-- A record with order 6, and one without antennas, whose combined stream is zero: the identity word of net_id 0 then reads 0. -/
def rec6 : SweepRec := { srec with orderMask := 0x1C0 }
def recZero : SweepRec := { rec6 with nRx := 0, netId := 0 }
/-- A reception of order 6 that began at sample 0. -/
def rq (id : Nat) : Reception := {
  id, admitted := 0, record := rec6, det := det1, freqBins := 0, timing := 0, startSample := 0, startFrac := 0, mrc := [], peaks := [], eq := none, unequalised := true, symbols := [],
  scores := [], inputs := [], llrs := .empty, header := none, ctx := none, duplicate := false, version := 0, bank := none }
def startAt (rc : SweepRec) (f : ChanSt → ChanSt := id) : State :=
  (host .running).modChan 0 fun y => f { y with cfg := some rc, windows := seenAll, nextId := 7 }
theorem test_detection : detectionAt ((startAt rec6).chan 0) 6 512 1 2 = some det1 := by decide +kernel
theorem test_detection_three : detectionAt ((startAt rec6 fun y => { y with windows := seenAll.drop 1 }).chan 0) 6 512 1 2 = none := by decide +kernel
/-- The frame of a detection begins 16 symbols before the down-sweeps, less the timing offset. -/
theorem test_reception_fields : (let q := newReception 0 rec6 det1 4096 (startAt rec6)
  q.startSample == 4096 - 2048 + 1 && q.startFrac == 0 && q.freqBins == 768 && q.timing == 256 && q.id == 7 && q.unequalised) = true := by decide +kernel
/-! Without antennas the combined stream is zero, and every bin of it. -/
theorem zero_stream (y : ChanSt) (q : Reception) (h : q.record.nRx = 0) (n : Int) : combinedSample y q n = 0 := by
  have h0 : combinedSample y q n = cwordOf (combineBy q.mrc []) := by simp [combinedSample, h, upTo]
  rw [h0]; simp [combineBy]; decide +kernel
theorem zero_cmul (z : CInt) : CInt.zero.mul z = CInt.zero := by simp [CInt.mul, CInt.zero]
theorem zero_sum {α : Type} (l : List α) : CInt.sum (l.map fun _ => CInt.zero) = CInt.zero := by
  unfold CInt.sum
  induction l with
  | nil => rfl
  | cons a l ih => exact ih
theorem zero_bin (sf : Nat) (dn : Bool) (k : Nat) : dechirpBin sf dn (fun _ => CInt.zero) k = CInt.zero := by
  simp only [dechirpBin, zero_cmul, zero_sum]
theorem zero_powers (sf : Nat) (dn : Bool) : binPowers sf dn [fun _ => CInt.zero] = (upTo (chipsOf sf)).map fun _ => 0 := by
  have h0 : CInt.norm CInt.zero = 0 := by decide
  have h (k : Nat) : binPower sf dn [fun _ => CInt.zero] k = 0 := by
    simp only [binPower, binPairs, List.map_cons, List.map_nil, zero_bin, h0]; rfl
  rw [binPowers, funext h]
theorem zero_identityBin (y : ChanSt) (q : Reception) (h : q.record.nRx = 0) (ho : q.det.order = 6) (m : Nat) : identityBin y q m = 0 := by
  have hw : combinedWindow y q m = fun _ => CInt.zero := by
    funext n; simp only [combinedWindow, zero_stream y q h]; decide +kernel
  rw [identityBin, hw, ho, zero_powers]; decide +kernel
theorem zero_identity (y : ChanSt) (q : Reception) (h : q.record.nRx = 0) (ho : q.det.order = 6) :
    identityOk y q = (identityNear 6 0 (identityValues 6 q.record.netId.toNat).1 && identityNear 6 0 (identityValues 6 q.record.netId.toNat).2) := by
  simp only [identityOk, zero_identityBin y q h ho, ho]
theorem test_reception_start : identityOk ((startAt recZero).chan 0) (newReception 0 recZero det1 512 (startAt recZero)) = true ∧
    ((symbolReadable ((startAt recZero).chan 0) (newReception 0 recZero det1 512 (startAt recZero)) 19 &&
      ((startAt recZero).chan 0).recep.length == 0 && recZero.orderMask.getLsbD 6) = true) :=
  ⟨(zero_identity _ _ rfl rfl).trans (by decide +kernel), by decide +kernel⟩
theorem test_reception_identity : identityOk ((startAt { recZero with netId := 0x400 }).chan 0)
    (newReception 0 { recZero with netId := 0x400 } det1 512 (startAt { recZero with netId := 0x400 })) = false :=
  (zero_identity _ _ rfl rfl).trans (by decide +kernel)
theorem test_reception_readable : (let s (n : Nat) := startAt rec6 fun y => { y with windows := [], samples := zeroSamples n }
  symbolReadable ((s 140).chan 0) (rq 6) 0 && !symbolReadable ((s 139).chan 0) (rq 6) 0) = true := by decide +kernel
theorem test_reception_overflow : gives (.sweepReceptionStart 0 6 512 1 2) (startAt recZero fun y => { y with recep := List.replicate 256 { rq 1 with det := { det1 with order := 8 } } })
  (fun t => chanIs t fun y => y.overflow == 1) = true := by decide +kernel
theorem test_reception_stronger : (let s := startAt recZero fun y => { y with recep := [{ rq 6 with det := { det1 with bUp := -256, power := 39 } }] }
    (s.chan 0).recep.find? (fun p => sameDetection p.det det1) = some { rq 6 with det := { det1 with bUp := -256, power := 39 } } ∧
    identityOk (s.chan 0) { (newReception 0 recZero det1 512 (s.setChan 0 { s.chan 0 with recep := [] })) with id := 6 } = true) :=
  ⟨by decide +kernel, (zero_identity _ _ rfl rfl).trans (by decide +kernel)⟩
theorem test_reception_weaker : becomes (.sweepReceptionStart 0 6 512 1 2) (startAt recZero fun y => { y with recep := [{ rq 6 with det := { det1 with power := 41 } }] })
  (startAt recZero fun y => { y with recep := [{ rq 6 with det := { det1 with power := 41 } }] }) = true := by decide +kernel
def recAt (f : Reception → Reception := id) : State := chanAt 0 fun y => { y with recep := [f (rq 6)], nextId := 7, samples := zeroSamples 140 }
theorem test_symbol : (symbolReadable (recAt.chan 0) (rq 6) 0 && (frameSymbols (rq 6)).isNone && gives (.sweepSymbolDecided 0 6 0) recAt fun t => chanIs t fun y => match y.recep with
  | [q] => q.symbols == [(0, 0)] && q.det == det1 && q.peaks.length == 1 && q.bank.isNone | _ => false) = true := by decide +kernel
theorem test_symbol_order : becomes (.sweepSymbolDecided 0 6 1) recAt recAt = true := by decide +kernel
/-- The last header symbol puts the header's block into the queue of a bank (04 R108). -/
theorem test_symbol_last : (let s := recAt fun q => { q with startSample := -100000, symbols := (upTo 59).map fun i => (i, 0) }
  headSymbols + headerSymbols 6 == 60 && gives (.sweepSymbolDecided 0 6 59) s fun t => (t.bank 0).now == 1 && (t.bank 0).sweep == 1 && chanIs t fun y => match y.recep with
    | [q] => q.bank == some 0 && q.symbols.length == 60 | _ => false) = true := by decide +kernel
def shdr : SweepHdr := { ver := 0, type := 1, rate := 0, rsvd := false, len := 2, addr := 77, fcnt := 3 }
theorem test_header_bits : (headerOf (headerBits shdr) == shdr && headerOk shdr && !headerOk { shdr with len := 79 } && !headerOk { shdr with rsvd := true } &&
  (headerBits shdr).length == 64 && payloadSymbols 7 shdr == 14) = true := by decide +kernel
/-- The turn of a sweep block in its bank: only sweep blocks wait there. Whether the code passes rests on the base graph, which the manual takes from TS 38.212. -/
def inBank (q : Reception) : Reception := { q with bank := some 0 }
def banked (s : State) : State := s.setBank 0 { BankSt.init with now := 1, sweep := 1 }
theorem test_header : ((banked (recAt inBank)).sweepTurn (inBank (rq 6)) == some 0 && (banked (recAt inBank)).chan 0 == (recAt inBank).chan 0 &&
  ((recAt inBank).chan 0).recep.find? (·.id = 6) == some (inBank (rq 6)) && ((recAt inBank).setBank 0 { BankSt.init with now := 2, sweep := 1 }).sweepTurn (inBank (rq 6)) == none) = true := by decide +kernel
theorem test_payload : ((banked (peered (recAt fun q => inBank { q with header := some shdr }))).sweepTurn (inBank { (rq 6) with header := some shdr }) == some 0 &&
  ((peered State.reset).netPort 2).peerTb == some [7]) = true := by decide +kernel
theorem test_correction : (let m : SweepMeasure := { freqX16 := 160000, driftX100 := 0, rssi := 1, snr := 2, endSec := 1, endNs := 0 }
  dopplerHold srec m && corrWord srec m == 0 && corrWord { srec with holdPpmX100 := 2000 } m == BitVec.ofInt 16 (-1152)) = true := by decide +kernel
theorem test_newer : (newer16 1 0xFFFF && !newer16 0 0x8000 && !newer16 3 3 && !isDuplicate EndCtx.init 0) = true := by decide +kernel
def ack1 : Ack := { recep := 6, record := srec, order := 7, ctx := 9, upFcnt := 3, corr := 0, again := false, hold := false, startNs := 1000, sent := none }
theorem test_ack_transmit : gives (.sweepAckTransmit 0 6) (ctx9 (chanAt 0 fun y => { y with acks := [ack1] })) (fun t => (t.ctx 9).dlFcnt == 5 && (t.ctx 9).item.isNone && t.out.length == 1) = true := by decide +kernel
theorem test_ack_again : gives (.sweepAckTransmit 0 6) (ctx9 (chanAt 0 fun y => { y with acks := [{ ack1 with again := true }] })) (fun t => (t.ctx 9).item == some [8]) = true := by decide +kernel
theorem test_ack_early : becomes (.sweepAckTransmit 0 6) (chanAt 0 fun y => { y with acks := [{ ack1 with startNs := 5000 }] }) (chanAt 0 fun y => { y with acks := [{ ack1 with startNs := 5000 }] }) = true := by decide +kernel
theorem test_ack_complete : becomes (.sweepAckComplete 0 6) (chanAt 1000000000 fun y => { y with acks := [{ ack1 with sent := some 8 }] }) (chanAt 1000000000) = true := by decide +kernel
theorem test_ack_sections : ((cutSections 70 0 250000 249999 255 2 (List.replicate 1025 ⟨1, 2⟩)).map fun x => (x.seqId, x.secLo, x.sample, x.count)) =
  [(255, 0, 249999, 1024), (0, 1, 1023, 1)] := by decide +kernel

def arec : AdaptRec := {
  set := 3, enable := true, guardCheck := false, pinActive := false, samplePerMille := 10, shadowPerMille := 10, marginBp := 5, evalSlots := 1000,
  probationSlots := 1000, regionBase := 0, poolRecords := 256, rollbackBp := 5, minSamples := 64, stepsPerCandidate := 100, lr := 0x3800, momentum := 0x3F00,
  genBase := 5, seed := 0, guardWindow := 1000, guardLimit := 1, batch := 16, flagsRsvd := 0, genRsvd := 0, rsvd38 := 0 }
def ver (n : Word) : Version := { number := n, pinned := false, device := false, arrival := 0, mu := 1, nRx := 1, layers := 4, weights := [1, 2] }
/-- Adaptation set 3 has its record, version 5 active and version 6 in store; then changed. -/
def setS (f : AdaptSet → AdaptSet := id) : State :=
  let s := host .running fun s => s.setTime { s.time with now := 500000 * 2 ^ 40 }
  s.setAset 3 (f { s.aset 3 with cfg := some arec, store := [some (ver 5), some (ver 6)] ++ List.replicate 6 none, active := some 5, state := .collect })
def setIs (t : State) (P : AdaptSet → Bool) : Bool := P (t.aset 3)
def regions (d : BitVec 2) (mib : Nat) (s : State) : State := s.setSec { s.sec with regions := s.sec.regions.set Region.init 2 { domain := d, sealed := false, changing := false, base := 0, size := mib } }

theorem test_adapt_config : served (.adaptConfig hd arec) hd rUp (fun u => adaptInRange arec && u.domainOk .radio (adaptRegion arec).1 (adaptRegion arec).2 &&
  !(u.adaptRegions 3 ++ u.harqPools 8).any (rangesMeet (adaptRegion arec))) (fun u => u.setAset 3 { u.aset 3 with pendingCfg := some arec }) (fun _ => .empty) (host .running (regions 0 80)) = true := by decide +kernel
theorem test_adapt_config_range : refusesWith (.adaptConfig hd { arec with batch := 20 }) hd rUp (fun _ => !adaptInRange { arec with batch := 20 }) 0x0102 (host .running) = true := by decide +kernel
theorem test_adapt_control : (accepts (setS) hd rUp && becomes (.adaptControl hd 3 .freeze) (setS) ((heard setS hd rUp).setAset 3 { setS.aset 3 with controls := [{ op := .freeze, hdr := some hd, slot := 1 }] })) = true := by decide +kernel
theorem test_adapt_status : served (.adaptStatus hd 3) hd { role := .read, legal := [.running], reads := true } (fun _ => true) id
  (fun _ => .nums [3, 1, 0, 5, 0, 0, 0, 0, 0, 0, 0, 0, 0, 0, 0, 0, 0, 0]) setS = true := by decide +kernel
theorem test_adapt_save : (accepts setS hd rUp && (storeOf ((heard setS hd rUp).aset 3)).find? (·.number = 6) == some (ver 6) && ((heard setS hd rUp).sealBlob 1 (versionBytes (ver 6))).1.length == 58 &&
  (heard setS hd rUp).extRange 0x100000 58 && (heard setS hd rUp).domainOk .management 0x100000 58) = true := by decide +kernel
def loadable (s : State) : State := s.setSec { s.sec with regions := s.sec.regions.set Region.init 2 { domain := 2, sealed := false, changing := false, base := 1, size := 1 } }
/-- A blob that no version was sealed into; whether a sealed one opens rests on AES-GCM, which the manual names only. -/
theorem test_adapt_load_forged : refusesWith (.adaptLoad hd 3 (.blob 0x100000)) hd rUp (fun u => u.extRange 0x100000 48 && u.domainOk .management 0x100000 48 &&
  u.loadedVersion (.blob 0x100000) == none) 0x0801 (loadable setS) = true := by decide +kernel
theorem test_take_version : (putVersion { (setS.aset 3) with arrivals := 4 } (ver 9)).store.take 4 = [some (ver 5), some (ver 6), some { ver 9 with arrival := 4 }, none] := by decide +kernel
theorem test_load_takes : (hasVersion (setS.aset 3) 9 == false && !(setS.aset 3).store.all (·.isSome) && !setS.loadTakes 3 (ver 9) &&
  (setS fun a => { a with active := none, store := List.replicate 8 none, state := .off }).loadTakes 3 (ver 9)) = true := by decide +kernel
def waits (op : AdaptOp) (a : AdaptSet) : AdaptSet := { a with controls := [{ op, hdr := none, slot := 0 }] }
theorem test_freeze : gives (.freeze 3) (setS fun a => waits .freeze { a with candidate := some 6 }) (fun t => setIs t fun a =>
  a.state == .frozen && a.candidate.isNone && a.controls.isEmpty && !hasVersion a 6 && a.active == some 5) = true := by decide +kernel
theorem test_unfreeze : (gives (.unfreeze 3) (setS fun a => waits .unfreeze { a with state := .frozen, fill := 63 }) (fun t => setIs t fun a => a.state == .collect) &&
  gives (.unfreeze 3) (setS fun a => waits .unfreeze { a with state := .frozen, fill := 64 }) (fun t => setIs t fun a => a.state == .train)) = true := by decide +kernel
theorem test_unfreeze_refused : becomes (.unfreeze 3) (setS fun a => { a with controls := [{ op := .unfreeze, hdr := some hd, slot := 0 }] }) (setS.reply hd false 0x0901 .empty) = true := by decide +kernel
theorem test_select : gives (.select 3 6) (setS (waits (.select 6))) (fun t => setIs t fun a => a.active == some 6 && a.previous == some 5 && a.state == .collect) = true := by decide +kernel
theorem test_pin : gives (.pin 3 6) (setS (waits (.pin 6))) (fun t => setIs t fun a => a.store.take 2 == [some (ver 5), some { ver 6 with pinned := true }]) = true := by decide +kernel
theorem test_unpin : gives (.unpin 3 6) (setS fun a => waits (.unpin 6) { a with store := [some { ver 6 with pinned := true }] }) (fun t => setIs t fun a => a.store == [some (ver 6)]) = true := by decide +kernel
theorem test_discard_pool : gives (.discardPool 3) (setS fun a => waits .discardPool { a with fill := 9, state := .train }) (fun t => setIs t fun a => a.fill == 0 && a.state == .collect) = true := by decide +kernel
def unit1 : PoolUnit := { kind := 1, version := 5, stamp := 4, info := [], y := [9], x := [], bits := [], due := 600000 }
theorem test_sample_write : (let t := setS fun a => { a with units := [unit1], fill := 255, ringPos := 255, state := .train }
  (t.aset 3).units == [unit1] && (t.aset 3).cfg == some arec && decide (t.nowNs ≤ unit1.due) && recordPlace arec 255 == 0x4FF0000 &&
  (unitRecord { unit1 with y := [], x := [], bits := [] }).take 8 == [1, 0, 0, 0, 5, 0, 0, 0]) = true := by decide +kernel
theorem test_sample_late : becomes (.sampleLabelWrite 3) (setS fun a => { a with units := [{ unit1 with due := 1 }] }) (setS fun a => { a with units := [{ unit1 with due := 1 }] }) = true := by decide +kernel
theorem test_sample_drop : gives (.sampleDropTimeout 3) (setS fun a => { a with units := [{ unit1 with due := 499999 }] })
  (fun t => setIs t fun a => a.units.isEmpty && a.dropped == 1) = true := by decide +kernel
def standing3 (s : State) : State := s.setSched { s.sched with table := some { addr := 0, entries := [{ offsetNs := 0, kind := 1, mu := 1, owner := 3, task := 0, tiles := 1, deadlineNs := 0 }], sems := [] } }
def training (a : AdaptSet) : AdaptSet := { a with state := .train, fill := 64, steps := 1, momentum := ⟨[(4, 0x40000000), (5, 1)]⟩, master := ⟨[(4, some 0x3F800000)]⟩ }
/-- A training task of the set runs on the standing entry's tile 0. -/
def trains (s : State) : State := (standing3 s).modTile 0 fun x => { x with state := .running, ref := some (.training 3) }
theorem test_train_needs : ((trains (setS training)).trainingRuns 3 && !(standing3 (setS training)).trainingRuns 3 && !(setS training).standing 3) = true := by decide +kernel
/-- What the statement of a training step asks; which gradient it gives rests on the nets, which the manual leaves to the version. -/
def canTrain (s : State) (set : Nat) : Bool :=
  (s.aset set).cfg == some arec && s.capture.replay.isNone && (s.aset set).state == .train && (s.aset set).fill != 0 && s.trainingRuns set && (s.aset set).candidate.isNone
theorem test_train : (let t := trains (setS training)
  canTrain t 3 && decide ((t.aset 3).steps + 1 < arec.stepsPerCandidate.toNat)) = true := by decide +kernel
/-- v := momentum · v + g and w := w − lr · v of one weight (05 R130). -/
theorem test_update : (let a := updateWeight 0x3A000000 0x3F000000 (training AdaptSet.init) 4 0x3F800000
  a.momentum.get 0 4 == 0x40000000 && a.momentum.get 0 5 == 1 && a.master.get none 4 == some 0x3F7FC000) = true := by decide +kernel
theorem test_train_last : (let t := trains (setS fun a => { training a with steps := 99, nextGen := 5 })
  candidateNumber 3 5 == 0x98000005 && canTrain t 3 && (t.aset 3).steps + 1 == arec.stepsPerCandidate.toNat && !hasVersion (t.aset 3) 0x98000005 &&
  (t.aset 3).store.any (·.isNone)) = true := by decide +kernel
/-- The guard window of 1,000 slots ends half a second after it began; with the check on, a loss beyond the limit trips. -/
def guarded (f : AdaptSet → AdaptSet) (u : UlCell) : State :=
  let s := (setS fun a => f { a with state := .train }).modCell 3 fun c => { c with ul := some u, guardLoss := 7, guardGain := 2 }
  s.setTime { s.time with now := 500000000 * 2 ^ 40 }
theorem test_guard_window : gives (.guardWindowEnd 3) (guarded id ulc) (fun t => setIs t fun a => a.lossStart == 7 && a.gainStart == 2 && a.guardStart == 1000 && a.state == .train) = true := by decide +kernel
theorem test_guard_trip : gives (.guardWindowEnd 3) (guarded (fun a => { a with cfg := some { arec with guardCheck := true } }) { ulc with rxMode := 2 }) (fun t => setIs t fun a =>
  a.lossStart == 7 && a.state == .frozen && a.guardTripped) = true := by decide +kernel
theorem test_guard_early : becomes (.guardWindowEnd 3) (guarded (fun a => { a with guardStart := 1 }) ulc) (guarded (fun a => { a with guardStart := 1 }) ulc) = true := by decide +kernel
def pend : State := (cellAt 0 fun c => { c with pending := some ({ ulc with pci := 9 }, dlc) }).setAset 3 { AdaptSet.init with pendingCfg := some arec }
theorem test_frame_boundary : gives .frameBoundary (pend.setRadio { pend.radio with paused := true }) (fun t => (t.cell 0).ul == some { ulc with pci := 9 } && (t.cell 0).pending.isNone &&
  !t.radio.paused && (t.aset 3).cfg == some arec && t.time.now == 0) = true := by decide +kernel
def nextTable (s : State) : State := s.setSched { s.sched with nextTable := some { addr := 0, entries := [], sems := [(5, 1)] } }
theorem test_frame_shape : gives .frameBoundary ((chanAt 0 fun y => { y with pending := some { srec with nRx := 2 } }).setAset 8 { AdaptSet.init with state := .train })
  (fun t => (t.chan 0).cfg == some { srec with nRx := 2 } && (t.chan 0).pending.isNone && (t.aset 8).state == .off) = true := by decide +kernel
theorem test_frame_assured : (let s := nextTable ((State.reset).modTile 0 fun x => x)
  !s.assuredOn { addr := 0, entries := [], sems := [(5, 1)] }) = true := by decide +kernel
theorem test_frame_table : gives .frameBoundary (nextTable State.reset) (fun t => t.sched.table.isSome && t.sched.nextTable.isNone && (t.sem 5).count == 1) = true := by decide +kernel

/-! ## Graphs, claims, the assured lane -/

def rRead : MsgRow := { role := .read, legal := [.running], reads := true }
def rAdmin : MsgRow := { role := .admin, legal := [.running] }
/-- A region entry of a domain. -/
def regionAt (i : Nat) (d : BitVec 2) (base size : Nat) (s : State) : State :=
  s.setSec { s.sec with regions := s.sec.regions.set Region.init i { domain := d, sealed := false, changing := false, base, size } }
def timed (ns : Nat) (s : State) : State := s.setTime { s.time with now := ns * 2 ^ 40 }
def word4 (xs : List Nat) : List Byte := xs.flatMap (leBytes 4)
/-- A graph header at 1 MiB with one task at 0x100080, its image and arguments in the same region. -/
def hdrBytes : List Byte := word4 [2, 1, 0] ++ [1, 0, 0, 0] ++ leBytes 8 0x100080 ++ List.replicate 28 0 ++ [1, 0] ++ List.replicate 10 0
def taskBytes : List Byte := leBytes 4 0 ++ [0, 1, 0, 0] ++ leBytes 8 0x100200 ++ leBytes 8 0x100400 ++ List.replicate 12 0 ++ [0xFF, 0xFF] ++ List.replicate 18 0 ++
  leBytes 8 0x100800 ++ List.replicate 40 0xFF ++ [0, 0, 1, 0] ++ List.replicate 16 0xFF ++ leBytes 4 0
def graphIn (d : BitVec 2) (s : State) : State := ((regionAt 1 d 1 1 s).extWrite 0x100000 hdrBytes).extWrite 0x100080 taskBytes
def graphMem : State → State := graphIn 1
def sbody : SubmitBody := { graph := 0x100000, seed := 3, arrayJob := 0, modelSlot := 255, nPorts := 0, dumpAddr := 0, portAddr := List.replicate 16 0, rsvd16 := 0 }
def admitted (s : State) (P : Admission → Bool) : Bool := match s.admission sbody with | .inl a => P a | .inr _ => false
theorem test_submit : (accepts (host .running graphMem) hd rUp && admitted (host .running graphMem) (fun a => a.tasks.length == 1 && a.hdr.cls == 1) &&
  answers (.submit hd sbody) hd rUp (fun _ => true) (fun _ t => t.sched.graphs.map (fun g => (g.job, g.outcome, g.copies.length)) == [(1, none, 1)]) (host .running graphMem)) = true := by decide +kernel
theorem test_submit_range : refusesWith (.submit hd { sbody with nPorts := 1 }) hd rUp
  (fun u => match u.admission { sbody with nPorts := 1 } with | .inr c => c == 0x0903 | _ => false) 0x0903 (host .running graphMem) = true := by decide +kernel
theorem test_submit_domain : refusesWith (.submit hd sbody) hd rUp (fun u => match u.admission sbody with | .inr _ => true | _ => false) Code.admitDomain
  (host .running (graphIn 2)) = true := by decide +kernel

def hdr1 : GraphHdr := {
  kind := 2, nTasks := 1, nTensors := 0, cls := 1, killAtDeadline := false, batch := false, rsvdBad := false, nSems := 0, taskTable := 0, tensorTable := 0,
  semList := 0, batchRecord := 0, deadlineUs := 5, maxPolders := 1, spillPages := 0 }
def desc1 : TaskDesc := {
  taskId := 0, compat := false, inbound := false, stats := false, rsvdBad := false, polders := 1, predCount := 0, image := 0, args := 0, stage := [], nStage := 0,
  group := 0xFFFF, rank := 0, succ := [], stepCounter := 0, status := 0, sems := [], inTensor := [], outTensor := [], credits := 0, groupSize := 1,
  peers := List.replicate 4 0xFFFFFFFF, deadlineUs := 0 }
def copyOf (st : TaskState) : GraphCopy := {
  tasks := [{ TaskSt.init desc1 with state := st }], tilesUsed := [], signature := none, startNs := 0, endNs := none, faulted := false, valid := [] }
def graph1 (st : TaskState) : Graph := {
  job := 8, arrayJob := 0, session := 1, header := 0, hdr := hdr1, seed := 0, modelSlot := none, ports := [], dumpAddr := 0, tensors := [], sems := [(5, 1)],
  copies := [copyOf st], batch := none, refused := [], submitNs := 0, late := false, outcome := none, faultTask := 0, faultCode := 0, verdict := none,
  degraded := false, deciding := false, disagreeNs := 0, patches := [] }
/-- Graph 8 is admitted, at a device time; then changed. -/
def withG (g : Graph) (ns : Nat) (f : State → State := id) : State := host .running fun s => f (timed ns (s.setSched { s.sched with graphs := [g] }))
def gIs (t : State) (P : Graph → Bool) : Bool := match t.graph 8 with | some g => P g | none => false
def assuredG (cs : List GraphCopy) : Graph := { graph1 .ready with hdr := { hdr1 with cls := 2 }, copies := cs }

/-! Two tasks of one group: task 1 of rank 1 and task 0 of rank 0, on tile 0. -/

def member (k : Nat) : TaskDesc := { desc1 with taskId := k, group := 5, rank := k, groupSize := 2, sems := [5 + k] }
def pair : Graph := { graph1 .running with job := 1, copies := [{ copyOf .running with tasks := [TaskSt.init (member 0), TaskSt.init (member 1)] }] }
def redBytes : List Byte := leBytes 2 5 ++ [0, 1] ++ leBytes 4 2 ++ leBytes 8 0x100 ++ leBytes 8 0x200 ++ leBytes 8 0x100000 ++ leBytes 4 256 ++ leBytes 28 0
def passing : Transfer := { job := 1, copy := 0, group := 5, rank := 0, level := 0, op := 0, ty := 1, count := 2 }
/-- The member of a rank on tile 0, its descriptor at 0 of the scratchpad and its elements 7 and 9; the partner's are 3 and 4. -/
def redS (rank : Nat) (place : Nat) : State :=
  let s := (((heldT.setSched { heldT.sched with graphs := [pair], transfers := [{ passing with rank := place }] }).modTile 0 fun x =>
    { x with grouped := true, rank, groupSize := 2, ref := some (.graph 1 0 rank) })).modBody 0 fun b => spWrite (spWrite b 0x100 (word4 [7, 9])) 0 redBytes
  ((regionAt 1 1 1 1 s).extWrite 0x100000 (word4 [3, 4])).setSem (5 + rank) { count := 1, owner := 1, claim := some (.job 1) }
def redReady (u : State) (rank : Nat) : Bool := (u.tile 0).grouped && canPeek u 0 (offAt u 0 0) 64 && (u.tile 0).ref == some (.graph 1 0 rank) && (u.tile 0).rank == rank &&
  match parseRed (peeked u 0 (offAt u 0 0) 64) 5 with | .inl d => d.count == 2 && d.recv == 0x100000 | .inr _ => false
/-- What a rank that sends asks of its peer, and a rank that receives of itself. -/
def canSend (u : State) (peer : Nat) : Bool := canPeek u 0 (windowOff 0 0x100) 8 && u.rankTask (u.tile 0) peer == some (member peer) && rankSem (member peer) == some (5 + peer) &&
  decide ((u.sem (5 + peer)).count < 65535) && u.taskReach .inference (u.tile 0).job 0x100000 8 && !u.outOfSpan (u.tile 0) 0x100000
def canReceive (u : State) (rank : Nat) : Bool := u.rankTask (u.tile 0) rank == some (member rank) && u.semFault (u.tile 0) (5 + rank) == none && decide (0 < (u.sem (5 + rank)).count) &&
  u.sched.transfers == [{ passing with rank }] && canPeek u 0 (windowOff 0 0x100) 8 && heldRange (u.tile 0) (windowOff 0 0x200) 8 && tagWait (u.tile 0) (windowOff 0 0x200) 8 false == none &&
  u.taskReach .inference (u.tile 0).job 0x100000 8 && !u.extBad 0x100000 8 && !spMergeBad (u.body 0) (windowOff 0 0x200) 8
theorem test_meets_send : (meets (redS 1 1) .c (fun u => redReady u 1 && canSend u 0) && meets (redS 0 0) .c (fun u => redReady u 0 && canSend u 1)) = true := by decide +kernel
theorem test_meets_receive : (meets (redS 0 0) .c (fun u => redReady u 0 && canReceive u 0) && meets (redS 1 1) .c (fun u => redReady u 1 && canReceive u 1)) = true := by decide +kernel
theorem test_reduce : (gives (.xred i0 0 0) (redS 0 0) fun t => leNat (spBytes (t.body 0) 0x200 8) == 10 + 13 * 2 ^ 32 && t.sched.transfers.isEmpty && (t.sem 5).count == 0) = true := by decide +kernel
theorem test_broadcast : (gives (.xbc i0 0 0) (redS 1 1) fun t => leNat (spBytes (t.body 0) 0x200 8) == 3 + 4 * 2 ^ 32 && (t.sem 6).count == 0) = true := by decide +kernel
theorem test_reduce_send : (gives (.xred i0 0 0) (redS 1 1) fun t => t.extNat 0x100000 8 == 7 + 9 * 2 ^ 32 && t.sched.transfers.contains passing && (t.sem 5).count == 1) = true := by decide +kernel
theorem test_no_partner : (meets (redS 0 0) .c (fun u => redReady u 0) && runs (.xred i0 0 1) ((redS 0 0).modTile 0 fun x => { x with groupSize := 1 }) .c (fun s _ => .ok s)) = true := by decide +kernel

theorem test_kill : served (.kill hd 8) hd rUp (fun u => u.graph 8 == some (graph1 .ready)) (fun u => u.killGraph (graph1 .ready)) (fun _ => .empty) (withG (graph1 .ready) 0) = true := by decide +kernel
theorem test_kill_effect : gives (.kill hd 8) (withG (graph1 .ready) 0) (fun t => gIs t fun g => g.outcome == some .killed) = true := by decide +kernel
theorem test_kill_third : (let g := assuredG [copyOf .done, copyOf .done, copyOf .ready]
  served (.kill hd 8) hd rUp (fun u => u.graph 8 == some g) (fun u => (u.withhold 8 .disagree .killed).endTasks g) (fun _ => .empty) (withG g 0)) = true := by decide +kernel
theorem test_kill_ended : served (.kill hd 8) hd rUp (fun u => u.graph 8 == some { graph1 .done with outcome := some .done }) id (fun _ => .empty)
  (withG { graph1 .done with outcome := some .done } 0) = true := by decide +kernel
theorem test_job_status : served (.jobStatus hd 8) hd rRead (fun u => u.host.done.find? (·.1 = 8) == some (8, .nums [8, 2])) id (fun _ => .nums [8, 2])
  (host .running fun s => s.setHost { s.host with done := [(7, .empty), (8, .nums [8, 2])] }) = true := by decide +kernel
def rStart : MsgRow := { role := .operate, legal := [.started, .running] }
def cycMem (kind : Nat) (s : State) : State := s.extWrite 0x200000 (word4 [3, 1, 0, 0, 0, 0, 0, 0] ++ word4 [500] ++ [BitVec.ofNat 8 kind, 1, 0, 0] ++ List.replicate 8 0 ++ leBytes 12 1 ++ word4 [20])
theorem test_cyc_load : (match (host .running (cycMem 2)).readTable 0x200000 with
  | .inl t => t.entries.length == 1 && served (.cycLoad hd 0x200000) hd rStart (fun u => match u.readTable 0x200000 with | .inl v => v == t | _ => false)
      (fun u => u.setSched { u.sched with nextTable := some t }) (fun _ => .empty) (host .running (cycMem 2))
  | .inr _ => false) = true := by decide +kernel
theorem test_cyc_load_range : refusesWith (.cycLoad hd 0x200000) hd rStart (fun u => match u.readTable 0x200000 with | .inr c => c == Code.cfgRange | _ => false) Code.cfgRange
  (host .running (cycMem 4)) = true := by decide +kernel

def infTile (s : State) : State := s.modTile 9 fun x => { x with domain := .inference }
theorem test_place : ((match (withG (graph1 .ready) 0 infTile).nextPlacement with | some (g, c, l) => g.job == 8 && c == 0 && l == [(0, 9)] | none => false) &&
  gives .taskPlace (withG (graph1 .ready) 0 infTile) fun t => (t.tile 9).state == .loading && (t.tile 9).ref == some (.graph 8 0 0) && (t.tile 9).job == 8) = true := by decide +kernel
def twoTasks : Graph := { graph1 .ready with copies := [{ copyOf .ready with tasks := [{ TaskSt.init desc1 with state := .running, tile := 9 }, { TaskSt.init { desc1 with taskId := 1 } with state := .ready }] }] }
def heldTask (s : State) : State := (({ s with clock := { s.clock with cycle := 900 } } : State).setSched { s.sched with yieldLimit := 800 }).modTile 9 fun x =>
  { x with domain := .inference, state := .running, ref := some (.graph 8 0 0), cls := .inference, job := 8, hold := some (.semaphore 5), holdSince := 99 }
theorem test_yield : ((withG twoTasks 0 heldTask).starved .inference && gives (.taskYield 9) (withG twoTasks 0 heldTask) fun t =>
  (t.tile 9).state == .draining && (t.tile 9).yielding && (t.tile 9).hold.isNone) = true := by decide +kernel
def xfer : Transfer := { job := 8, copy := 0, group := 0, rank := 0, level := 0, op := 0, ty := 0, count := 0 }
theorem test_graph_end : (allDone (graph1 .done) && gives (.graphEnd 8) (withG { graph1 .done with arrayJob := 2 } 0 fun s =>
    (s.setSched { s.sched with transfers := [xfer] }).setArray { s.array with inbound := s.array.inbound.set none 257 (some 4) })
  (fun t => (gIs t fun g => g.outcome == some .done) && t.sched.transfers.isEmpty && (t.array.inbound.get none 257).isNone)) = true := by decide +kernel
theorem test_graph_end_early : becomes (.graphEnd 8) (withG (graph1 .running) 0) (withG (graph1 .running) 0) = true := by decide +kernel
theorem test_complete_ready : (let s := withG { graph1 .done with outcome := some .killed } 0
  !s.jobHolds 8 && !s.jobHolds (polderJob (graph1 .done)) && gIs s fun g => g.outcome.isSome && g.copies.all fun c => c.tasks.all (·.state == .done)) = true := by decide +kernel
theorem test_complete : gives (.complete 8) (withG { graph1 .done with outcome := some .killed } 0 fun s => s.setSem 5 { s.sem 5 with count := 3, claim := some (.job 8) })
  (fun t => (t.graph 8).isNone && (t.sem 5).count == 0 && (t.sem 5).claim.isNone && (t.host.done.map (·.1)) == [8] && t.host.notices.length == 1) = true := by decide +kernel
theorem test_complete_busy : becomes (.complete 8) (withG { graph1 .running with outcome := some .killed } 0) (withG { graph1 .running with outcome := some .killed } 0) = true := by decide +kernel
theorem test_deadline_late : ((withG (graph1 .ready) 5000).deadlineDue (graph1 .ready) && gives (.graphDeadline 8) (withG (graph1 .ready) 5000) (fun t => gIs t fun g => g.late && g.outcome.isNone)) = true := by decide +kernel
theorem test_deadline_kill : (let g := { graph1 .ready with hdr := { hdr1 with killAtDeadline := true } }
  gives (.graphDeadline 8) (withG g 5000) (fun t => gIs t fun g => g.late && g.outcome == some .killed)) = true := by decide +kernel
theorem test_assured_deadline : (let g := assuredG [copyOf .ready, copyOf .done]
  (withG g 5000).taskOverdue g 0 && gives (.assuredTaskDeadline 8 (some 0)) (withG g 5000) (fun t => (gIs t fun g => g.outcome == some .killed && g.verdict == some .late && g.late) && t.assured.countWh == 1) &&
  gives (.assuredTaskDeadline 8 none) (withG g 5000) (fun t => gIs t fun g => g.verdict == some .late)) = true := by decide +kernel
def note (n : Nat) : Notice := { session := 1, seq := 3, type := 0x8001, body := .empty, sends := n, sentNs := 0 }
def withNote (n : Nat) : State := host .running fun s => timed 10000000 (s.setHost { s.host with notices := [note n] })
theorem test_resend : gives (.notificationResend 0 3) (withNote 8) (fun t => t.out == [.notify 1 0x8001 3 .empty] && t.host.notices.map (fun m => (m.sends, m.sentNs)) == [(9, 10000000)]) = true := by decide +kernel
theorem test_resend_lost : gives (.notificationResend 0 3) (withNote 9) (fun t => t.host.notifyLost == 1 && t.host.notices.isEmpty && t.out.isEmpty) = true := by decide +kernel
theorem test_notice_ack : gives (.notificationAck 0 3) (timed 77 (withNote 2)) (fun t => t.host.notices.isEmpty && (t.session 1).map (·.idleNs) == some 77) = true := by decide +kernel

def entry (kind : Nat) (tiles : BitVec 96) : CycEntry := { offsetNs := 5000, kind, mu := 1, owner := 8, task := 0, tiles, deadlineNs := 20 }
def withT (kind : Nat) (f : State → State := id) : State := host .running fun s => f (s.setSched { s.sched with table := some { addr := 0, entries := [entry kind 2], sems := [] } })
def claimed (f : Tile → Tile) (s : State) : State := (s.setSched { s.sched with claims := s.sched.claims.set none 1 (some 0) }).modTile 1 f
/-- At the offset of the entry, whose claim stands; and after its task has run there. -/
def onTime (s : State) : State := timed 5000 (claimed id s)
def ranOut (s : State) : State := let x := onTime s; x.setSched { x.sched with entrySlot := x.sched.entrySlot.set none 0 (some 7), ranOn := [(0, 1)] }
theorem test_pre_wake : ((withT 0).claimEntry 0 == some (entry 0 2) && gives (.claimPreWake 0) (withT 0) fun t => t.powerOf 1 == .waking && t.powerOf 0 == .off) = true := by decide +kernel
theorem test_claim : gives (.claimPreemptRequest 0) (withT 0 fun s => (timed 3500 s).modTile 1 fun x => { x with cls := .inference, state := .running })
  (fun t => (t.tile 1).state == .draining && t.sched.claims.get none 1 == some 0) = true := by decide +kernel
theorem test_claim_early : becomes (.claimPreemptRequest 0) (withT 0 (timed 2999)) (traced 64 80 (withT 0 (timed 2999)) (withT 0 (timed 2999))) = true := by decide +kernel
theorem test_claim_reassign : gives (.claimReassign 0) (withT 0 (claimed fun x => { x with domain := .inference }))
  (fun t => (t.tile 1).state == .zeroising && (t.tile 1).nextDomain == .radio) = true := by decide +kernel
theorem test_claim_offset : ((withT 0 onTime).radioFree 1 && sinceOffset (entry 0 2) (withT 0 onTime).nowNs == 0 && gives (.claimEntryOffset 0 7) (withT 0 onTime) fun t => (t.tile 1).state == .loading && (t.tile 1).ref == some (.entry 0) && t.sched.entrySlot.get none 0 == some 7) = true := by decide +kernel
/-- LOAD as a tile command: of a graph's waiting task, of an entry's on a tile claimed for it, of a set's training task. -/
theorem test_load_graph : ((withG (graph1 .ready) 0 infTile).tileSuits (graph1 .ready) 0 0 (TaskSt.init desc1 |> fun k => { k with state := .ready }) (otherTiles (graph1 .ready) 0 0 2) 9 &&
  gives (.tileLoad 9 (.graph 8 0 0)) (withG (graph1 .ready) 0 infTile) fun t => (t.tile 9).state == .loading && (t.tile 9).ref == some (.graph 8 0 0)) = true := by decide +kernel
def serving (s : State) : State := let x := onTime s; x.setSched { x.sched with entrySlot := x.sched.entrySlot.set none 0 (some 7) }
theorem test_load_entry : ((withT 0 serving).radioFree 1 && (withT 0 serving).claimEntry 0 == some (entry 0 2) && (withT 0 serving).sched.claims.get none 1 == some 0 &&
  gives (.tileLoad 1 (.entry 0)) (withT 0 serving) fun t => (t.tile 1).state == .loading && t.sched.ranOn == [(0, 1)]) = true := by decide +kernel
theorem test_load_training : (let s := standing3 (setS training)
  s.standingOf 3 0 == some (0, { offsetNs := 0, kind := 1, mu := 1, owner := 3, task := 0, tiles := 1, deadlineNs := 0 }) && s.radioFree 0 && !s.shadowBusy 3 &&
  s.areaFree (s.tile 0).saveRad (.training 3) 0 && gives (.tileLoad 0 (.training 3)) s fun t => (t.tile 0).state == .loading && (t.tile 0).ref == some (.training 3)) = true := by decide +kernel
/-- A write lands in external memory of the task's domain. -/
def landExt : State := regionAt 1 1 1 1 (heldT.modBody 0 fun b => setStream b 4 { outQ 0 4 with pos := 1, pend := [{ idx := 0, addr := 0x100003, code := 9, bits := 8, shift := 0, leaves := false, mout := 0 }] })
theorem test_land_ext : (landExt.taskReach (landExt.tile 0).domain (landExt.tile 0).job 0x100003 1 && !landExt.mergeBad 0x100003 1 && !landExt.outOfSpan (landExt.tile 0) 0x100003 &&
  gives (.streamWriteLand 0 4 1) landExt fun t => t.extByte 0x100003 == 9 && (streamOf (t.body 0) 4).pend.isEmpty) = true := by decide +kernel
theorem test_claim_end_not : becomes (.claimTaskEnd 0) (withT 0 onTime) (withT 0 onTime) = true := by decide +kernel
theorem test_claim_end : gives (.claimTaskEnd 0) (withT 0 ranOut) (fun t => (t.sched.entrySlot.get none 0).isNone && (t.sched.claims.get none 1).isNone && (t.tile 1).state == .zeroising && (t.tile 1).nextDomain == .inference) = true := by decide +kernel
theorem test_claim_busy : becomes (.claimTaskEnd 0) (withT 0 (claimed fun x => { x with ref := some (.entry 0), state := .running }))
  (withT 0 (claimed fun x => { x with ref := some (.entry 0), state := .running })) = true := by decide +kernel

def lane (st : LaneState) (s : State) : State := s.setAssured { s.assured with state := st }
def sig0 : List Byte := leBytes 4 (crc32c []).toNat
def twoCopies (sig : List Byte) : Graph := assuredG [{ copyOf .done with signature := some sig }, copyOf .done]
theorem test_copy_agree : (!((withG (twoCopies sig0) 0).sinkBytes (twoCopies sig0) 1).2 && !(withG (twoCopies sig0) 0).deadlineDue (twoCopies sig0) &&
  gives (.copySignature 8 1) (withG (twoCopies sig0) 0 (lane .degraded)) (fun t => gIs t fun g => g.outcome == some .done && g.verdict == some .released && g.degraded)) = true := by decide +kernel
theorem test_copy_differ : gives (.copySignature 8 1) (withG (twoCopies [9]) 0 (lane .active)) (fun t => t.assured.countDis == 1 && gIs t fun g => g.copies.length == 3) = true := by decide +kernel
/-- A slice of 20 ns on tile 1, which is ON, at its offset and after its end. -/
def slicing (ns : Nat) (s : State) : State := timed ns (s.setPowerOf 1 .on)
theorem test_slice : ((withT 2 (slicing 5010)).beforeClaim 1 (segmentNs 0) && (withT 2 (slicing 5010)).readyTasks.isEmpty &&
  gives (.selftestSliceStart 0) (withT 2 (slicing 5010)) (fun t => t.assured.slice == 2 && t.assured.running.get none 1 == some 0 && (t.assured.running.get none 0).isNone)) = true := by decide +kernel
theorem test_slice_end : gives (.selftestSliceEnd 0) (withT 2 fun s => timed 5020 (s.setAssured { s.assured with slice := 7 })) (fun t => t.assured.slice == 5) = true := by decide +kernel
def bundle3 : Bundle := { major := 1, minor := 0, security := 3, measure := [], images := [], segSigs := [1, 2, 3, 4] }
def testing (s : State) : State := (s.setHost { s.host with bundle := some bundle3 }).setAssured { s.assured with running := s.assured.running.set none 1 (some 3) }
theorem test_segment_pass : gives (.selftestSegmentEnd 1 4) (testing State.reset) (fun t => (t.assured.running.get none 1).isNone && t.assured.passed == [(1, 3)] && t.assured.nextSeg.get 0 1 == 0 && t.assured.excl == 0) = true := by decide +kernel
theorem test_segment_fail : gives (.selftestSegmentEnd 1 5) (testing State.reset) (fun t => (t.assured.running.get none 1).isNone && t.assured.passed.isEmpty && t.assured.excl == 2) = true := by decide +kernel
theorem test_window : gives .fttiWindowEnd (lane .active (State.reset.setAssured { Assured.init with enable := true, fttiNext := 4 }))
  (fun t => t.assured.windows == 1 && t.assured.windowEnd == 4 && t.assured.fttiFrames == 4 && t.assured.state == .safe) = true := by decide +kernel

/-! ## Recording, crossings, arrays -/

def ring1 (base : Nat) : Ring := { base, size := 0x100000, used := 0, count := 0 }
def rings (s : State) : State := s.setCapture { s.capture with rings := [ring1 0x100000, ring1 0x200000, ring1 0x300000] }
def three (a b c : Dword) : Dword × Dword × Dword := (a, b, c)
def threeRegions (s : State) : State := regionAt 2 0 1 1 (regionAt 3 1 2 1 (regionAt 4 2 3 1 s))
def mi : Dword := 0x100000
theorem test_record_config : served (.recordConfig hd (three mi (2 * mi) (3 * mi)) (three mi mi mi)) hd rAdmin (fun u => !u.capture.on && u.ringOk .radio 0x100000 0x100000 && u.ringOk .inference 0x200000 0x100000 &&
    u.ringOk .management 0x300000 0x100000) rings (fun _ => .empty) (host .running threeRegions) = true := by decide +kernel
theorem test_record_start : served (.recordStart hd 9) hd rAdmin (fun u => u.capture.rings.length == 3 && !u.capture.on) (fun u => u.setCapture { u.capture with armed := some 9 }) (fun _ => .empty) (host .running rings) = true := by decide +kernel
theorem test_record_stop : served (.recordStop hd) hd rAdmin (fun _ => true) (fun u => u.setCapture { u.capture with stopping := false, armed := none }) (fun _ => .empty)
  (host .running fun s => s.setCapture { s.capture with armed := some 4 }) = true := by decide +kernel
theorem test_record_save : (let s := host .running rings
  accepts s hd rAdmin && (heard s hd rAdmin).extRange 0x500000 48 && (heard s hd rAdmin).domainOk .management 0x500000 48 && (heard s hd rAdmin).capture.rings.length == 3) = true := by decide +kernel
theorem test_record_load_range : (let s := host .running rings
  accepts s hd rAdmin && (heard s hd rAdmin).extRange 0x500000 48 && (heard s hd rAdmin).domainOk .management 0x500000 48 && (heard s hd rAdmin).extNat 0x500008 8 == 0 && ((heard s hd rAdmin).openBlob 2 0x500000).isNone) = true := by decide +kernel
theorem test_record_load_forged : refusesWith (.recordLoad hd 0 0x500000) hd rAdmin (fun u => (u.openBlob 2 0x500000).isNone) 0x0801 (host .running rings) = true := by decide +kernel
def replay1 (left : List CapEntry) : Replay := {
  left, started := true, current := none, versions := [], origin := 0, digest := 5, frames := 6, recDigest := 0, recFrames := 0, savedNow := 40, savedMode := 2,
  radio := Radio.init, sweep := Sweep.init, adapt := .empty, sched := Sched.init, assured := Assured.init, crossing := Crossing.init }
def replayS (left : List CapEntry) : State := host .running fun s => timed 3 (s.setCapture { s.capture with replay := some (replay1 left) })
def cap (kind ns : Nat) (payload : List Byte) : CapEntry := { kind, port := 0, domain := 0, ns, frac := 0, seq := 0, payload }
/-- A device without an image whose management ring holds its own start marker. -/
def markerBytes (s : State) : List Byte := let p := s.identityBytes
  leBytes 2 5 ++ [0, 2] ++ leBytes 4 p.length ++ leBytes 6 0 ++ leBytes 4 7 ++ leBytes 2 0 ++ leBytes 12 0 ++ p
def marked (s : State) : State := let s1 := (rings s).extWrite 0x300000 (markerBytes s)
  s1.setCapture { s1.capture with rings := [ring1 0x100000, ring1 0x200000, { ring1 0x300000 with used := 64, count := 1 }] }
theorem test_replay_start : answers (.replayStart hd (three mi (2 * mi) (3 * mi))) hd rAdmin (fun u => u.startMarker.isSome && u.allOff)
  (fun _ t => match t.capture.replay with | some r => r.left == [] && !r.started && r.origin == 7 * 2 ^ 40 | none => false) (host .running marked) = true := by decide +kernel
theorem test_replay_mismatch : refusesWith (.replayStart hd (three mi (2 * mi) (3 * mi))) hd rAdmin (fun u => u.startMarker.isNone) Code.replayMismatch (host .running rings) = true := by decide +kernel
theorem test_replay_status : served (.replayStatus hd) hd rRead (fun u => u.capture.replay.isSome) id (fun _ => .nums [1, 5, 6, 0, 0]) (replayS []) = true := by decide +kernel
theorem test_replay_stop : served (.replayStop hd) hd { rAdmin with reads := true } (fun u => u.capture.replay.isSome) State.replayEnd (fun _ => .empty) (replayS []) = true := by decide +kernel
theorem test_replay_entry : gives .replayEntryDeliver (replayS [cap 1 3 []]) (fun t => match t.capture.replay with | some r => r.left.isEmpty && r.current == some (cap 1 3 []) | none => false) = true := by decide +kernel
theorem test_replay_version : gives .replayEntryDeliver (replayS [cap 4 3 [2, 0, 0, 0, 9, 0, 0, 0]]) (fun t => match t.capture.replay with | some r => r.versions == [(2, 9)] && r.current.isNone | none => false) = true := by decide +kernel
theorem test_replay_end : gives .replayEntryDeliver (replayS [cap 6 3 (leBytes 24 0 ++ leBytes 32 77 ++ leBytes 8 88)]) (fun t => t.capture.replay.isNone && t.time.now == 40 + 3 * 2 ^ 40 && t.time.mode == 2 &&
  t.capture.lastReplay == some (5, 6, 77, 88)) = true := by decide +kernel
theorem test_replay_early : becomes .replayEntryDeliver (replayS [cap 1 4 []]) (replayS [cap 1 4 []]) = true := by decide +kernel

def crec : CrossRec := { ringBase := 0x200000, records := 1024, periodMs := 100, kinds := 3, cells := 3, channels := 1, minCount := 8 }
theorem test_crossing_config : answers (.crossingConfig hd crec) hd rAdmin (fun u => u.extRange 0x200000 (64 + 64 * 1024) && u.inRegion .inference 0x200000 (64 + 64 * 1024))
  (fun _ t => !t.sec.crossing.running && t.sec.crossing.cfg.map (·.minCount) == some 8) (host .running threeRegions) = true := by decide +kernel
def ccfg : CrossCfg := { ringBase := 0x200000, records := 1024, periodMs := 100, kinds := 3, cells := 3, channels := 1, minCount := 8 }
theorem test_crossing_end : gives .crossingPeriodEnd (timed 100000000 (State.reset.setCrossing { Crossing.init with cfg := some ccfg, running := true, write := 1 }))
  (fun t => t.sec.crossing.write == 4 && t.sec.crossing.running && t.extNat 0x200000 8 == 4 && t.extNat 0x200080 3 == 0x800001) = true := by decide +kernel

def rCfg : MsgRow := { role := .admin, legal := [.started] }
theorem test_array_config : answers (.arrayConfig hd 2 1 1 0 0) hd rCfg (fun _ => true) (fun _ t => t.array.x == 1 && (t.link 1).state == .training && (t.link 0).state == .unused && t.time.source == 10) (host .started) = true := by decide +kernel
def linkIn (st : LinkState) (f : Link → Link := id) : State := timed 250000000 (State.reset.setArray { ArrayState.init with
  nx := 2, ny := 1, x := 1, links := [Link.init, f { Link.init with state := st }, Link.init, f { Link.init with state := st }], configured := true })
def who : LinkIdentity := { nx := 2, ny := 1, device := 0, serial := 0, modulus := [], cert := [], random := [], sig := [], measure := [7], opRsa := [8], sealed := true }
def sealedUp (s : State) : State := (s.setSec { s.sec with lifecycle := .sealed, fuses := { s.sec.fuses with opRsa := some [8] } }).setHost { s.host with
  bundle := some { bundle3 with measure := [7] } }
/-- All that admission asks beside the signatures: RSA is a function that the manual only names. -/
theorem test_link_admit : (let u := sealedUp (linkIn .training)
  (u.link 1).state == .training && (u.link 1).replay.isEmpty && who.nx.toNat == u.array.nx && who.ny.toNat == u.array.ny && who.device.toNat == neighbourOf u.array.nx u.array.ny u.array.x u.array.y 1 &&
  some who.measure == u.host.bundle.map (·.measure) && some who.opRsa == u.sec.fuses.opRsa && who.sealed && u.sec.lifecycle == .sealed) = true := by decide +kernel
theorem test_link_refused : gives (.linkAdmission 1 { who with nx := 4, device := 3 }) (sealedUp (linkIn .training)) (fun t => (t.link 1).state == .down && (t.link 1).neighbour == 3 && t.events.queue.map (·.code) == [0x1402]) = true := by decide +kernel
theorem test_link_timeout : gives (.linkAdmitTimeout 1) (linkIn .training) (fun t => (t.link 1).state == .down) = true := by decide +kernel
def fl (kind : BitVec 4) : Flit := { seq := 0, ack := 0, nak := false, cls := 2, vc := false, kind, dst := 1, src := 0, first := true, last := false, rsvd := 0, payload := [1] }
def good : FlitCheck := ⟨true, true, true⟩
theorem test_flit_bad : becomes (.flitReceive 1 { fl 1 with seq := 4 } good) (linkIn .admitted) ((linkIn .admitted).emit (.nak 1 0)) = true := by decide +kernel
theorem test_flit_idle : gives (.flitReceive 1 (fl 0) good) (linkIn .admitted) (fun t => (t.link 1).expect == 1 && (t.link 1).state == .admitted) = true := by decide +kernel
theorem test_flit_part : gives (.flitReceive 1 (fl 1) good) (linkIn .admitted) (fun t => t.array.partials == [fl 1] && (t.link 1).expect == 1) = true := by decide +kernel
theorem test_retrain : gives (.retrain 1) (linkIn .admitted fun l => { l with keyed := true }) (fun t => (t.link 1).state == .training && !(t.link 1).keyed) = true := by decide +kernel
theorem test_link_time : becomes (.arrayTimeMessage 3 5 true) (linkIn .admitted) ((linkIn .admitted).emit (.linkTime 3 0 250000000)) = true := by decide +kernel
theorem test_link_follow : (let s := (linkIn .admitted).setTime { (linkIn .admitted).time with source := 10 }
  s.follows && s.parentLink == some 3 && becomes (.arrayTimeMessage 3 5 false) s ((s.emit (.linkTime 3 0 250000000)).offset 5)) = true := by decide +kernel
theorem test_array_reset : ((linkIn .admitted).follows && (linkIn .admitted).parentLink == some 3 && becomes (.arrayResetMessage 3) (linkIn .admitted) ((linkIn .admitted).sourceReset 6 3)) = true := by decide +kernel

/-! ## Checks of requests, sessions, host messages -/

/-- The session's last seq, in a device state; then changed. -/
def asked (d : DevState) (x : Session) (f : State → State := id) : State := f ((host d).setSession 1 (some x))
def rHw : MsgRow := { role := .read, legal := allStates, hw := true, reads := true }
def bodyOk (s : State) : State × Answer := (s.setHost { s.host with trace := 1 }, .ok)
def seqMeets (s : State) (h : QcpHdr) (x : Session) (k : SeqCheck) : Bool :=
  !s.portDrops h && !s.replayQcp h.raw && s.boundSession h == some x && decide (seqCheck x.lastSeq h.seq = k)
def refusedBy (s : State) (x : Session) (m : MsgRow) (h : QcpHdr) (hw : Bool) (c : Half) : Bool :=
  seqMeets s h x .fresh && serve s h m bodyOk == (taken s h).reply h hw c .empty
theorem test_qcp_old : (let x := { ses with lastSeq := some 40 }; let s := asked .running x
  seqMeets s hd x .old && serve s hd rUp bodyOk == s.mbxDrop) = true := by decide +kernel
theorem test_qcp_replay : refusedBy (asked .running ses fun s => s.setCapture { s.capture with replay := some (replay1 []) }) ses rUp hd false 0x1512 = true := by decide +kernel
theorem test_qcp_version : refusedBy (asked .running ses) ses rUp { hd with major := 2 } false 0x0905 = true := by decide +kernel
theorem test_qcp_role : refusedBy (asked .running { ses with role := .read }) { ses with role := .read } rUp hd false 0x0902 = true := by decide +kernel
theorem test_qcp_state : refusedBy (asked .started ses) ses rUp hd false 0x0901 = true := by decide +kernel
theorem test_qcp_faulted : refusedBy (asked .faulted ses) ses rUp hd true 0x0901 = true := by decide +kernel
def kept : QcpReply := { port := 0, addr := 9, udp := 5, session := 1, ref := 7, tag := 3, hw := false, major := 1, minor := 0, status := 0, body := .empty }
theorem test_qcp_again : (let x := { ses with lastSeq := some 7, cache := [kept] }; let s := asked .running x
  seqMeets s hd x .again && serve s hd rUp bodyOk == s.emit (.reply kept)) = true := by decide +kernel

theorem test_session_open : (let h := { hd with session := 0 }; let s := host .anchor
  !s.portDrops h && h.major == s.host.fwMajor && s.sessionStates.contains .anchor && (s.session 1).isSome && (s.session 2).isNone &&
  gives (.sessionOpen h) s fun u => (match u.session 2 with | some x => x.role == .none && x.port == 0 && x.addr == 9 && x.lastSeq.isNone | none => false) &&
    (match u.out with | [.reply r] => r.status == 0 && r.ref == 7 | _ => false)) = true := by decide +kernel
def auth (n : Byte) : AuthBody := { role := n, modulus := [], mldsaKey := [], rsaSig := [], mldsaSig := [] }
def rNone (s : State) : MsgRow := { role := .none, legal := s.sessionStates }
theorem test_session_auth : (let s := asked .anchor { ses with role := .none }
  accepts s hd (rNone s) && s.sec.lifecycle == .opened && gives (.sessionAuth hd (auth 2)) s fun u => (u.session 1).map (·.role) == some .operate) = true := by decide +kernel
theorem test_session_close : (accepts (host .anchor) hd (rNone (host .anchor)) && gives (.sessionClose hd) (host .anchor) fun u => (u.session 1).isNone) = true := by decide +kernel
def later (ns : Nat) (s : State) : State := s.setTime { s.time with now := ns * 2 ^ 40 }
theorem test_session_timeout : (becomes (.sessionTimeout 0) (later 600000000000 (host .anchor)) ((later 600000000000 (host .anchor)).setSession 1 none) &&
  becomes (.sessionTimeout 0) (later 599999999999 (host .anchor)) (later 599999999999 (host .anchor))) = true := by decide +kernel
def rLate : MsgRow := { role := .admin, legal := [.started, .running] }
theorem test_role_keys : served (.roleKeySet hd [([1], 2)]) hd rLate (fun _ => true) (fun u => u.setHost { u.host with roleKeys := [([1], .operate)] }) (fun _ => .empty)
  (host .started) = true := by decide +kernel
theorem test_datagram_drop : gives (.qcpDatagramDrop 1) State.reset (fun t => t.host.drop == 1) = true := by decide +kernel
theorem test_unknown_type : refusesWith (.qcpUnknownType hd 0x22) hd { role := .none, legal := [.anchor, .berm, .loaded, .started, .running] } (fun _ => true)
  0x0904 (host .running) = true := by decide +kernel

def rMem : MsgRow := { role := .operate, legal := [.anchor, .berm, .started, .running] }
def isExt (p : Place) : Bool := match p with | .ext _ => true | _ => false
theorem test_mem_write : served (.memWrite hd 0x7FC0 [1, 2]) hd rMem
  (fun u => u.hostRefusal 0x7FC0 2 true == none && isExt (u.place 0x7FC0) && !u.mergeBad 0x7FC0 2) (fun u => u.extWrite 0x7FC0 [1, 2]) (fun _ => .empty) (host .anchor) = true := by
  decide +kernel
theorem test_mem_write_pool : refusesWith (.memWrite hd 4096 [1]) hd rMem (fun u => u.hostRefusal 4096 1 true == some (Code.til 0x72)) (Code.til 0x72)
  (radioMem (cellAt 0)) = true := by decide +kernel
/-- Radio memory without subscriber data takes a host's write, and no read. -/
theorem test_mem_write_radio : ((radioMem (host .running)).hostRefusal 4096 1 true == none && (radioMem (host .running)).hostRefusal 4096 1 false == some (Code.til 0x72)) = true := by
  decide +kernel
theorem test_mem_read : served (.memRead hd 0 3) hd { role := .read, legal := [.anchor, .berm, .started, .running], reads := true }
  (fun u => u.hostRefusal 0 3 false == none && isExt (u.place 0) && !u.extBad 0 3) id (fun _ => .bytes [0, 7, 0]) ((host .running).extWrite 1 [7]) = true := by decide +kernel
theorem test_state_read : served (.stateRead hd) hd rHw (fun _ => true) id (fun u => .nums [mbxState u, u.events.count]) (host .faulted) = true := by decide +kernel
theorem test_recorder_read : served (.recorderRead hd 8191 2) hd rHw (fun _ => true) id (fun u => .records u.events.count [u.events.records.get none 8191, u.events.records.get none 1024])
  (host .anchor) = true := by decide +kernel
def evr (code : Half) : EvRec := { code, source := 0x0900, sec := 0, ns := 0, params := [0, 0, 0, 0] }
def queued (lost : Nat) (n : Nat) : State := { State.reset with events := { Recorder.init with count := n, lostSince := lost, queue := [evr 1, evr 2] } }
theorem test_record_write : gives .evrRecordWrite (queued 0 8192) (fun u => u.events.count == 8193 && u.events.queue == [evr 2] &&
  u.events.records.get none 1024 == some { valid := true, count := 8192, entry := evr 1 }) = true := by decide +kernel
theorem test_record_lost : gives .evrRecordWrite (queued 3 5) (fun u => u.events.lostSince == 0 && match u.events.queue with
  | [a, b] => a == evr 2 && b.code == 0x0701 && b.params == [3, 0, 0, 0] | _ => false) = true := by decide +kernel

/-! ## Bring-up, regions, fuses, models, debug -/

def rBoot : MsgRow := { role := .admin, legal := [.anchor, .berm] }
theorem test_load_bad : answers (.load hd 0 256) hd rBoot (fun u => bootFault u.sec.fuses (u.extRead 0 256) == some 0x0801)
  (fun u t => t.host == (u.reply hd false 0x0801 .empty).host && match t.events.queue with | [e] => e.code == 0x0805 | _ => false) (host .anchor) 0x0801 = true := by decide +kernel
theorem test_start : answers (.start hd) hd { role := .admin, legal := [.loaded] } (fun _ => true)
  (fun _ t => t.host.state == .started && !t.host.coresHalted && t.sched.nextJob == 1 && (t.cluster 11).core == .image) (host .loaded) = true := by decide +kernel
theorem test_run : served (.run hd) hd { role := .admin, legal := [.started] } (fun _ => true) (fun u => u.setHost { u.host with state := .running }) (fun _ => .empty)
  (host .started) = true := by decide +kernel
def bul : UlCell := { ulc with resultPort := 1, harqPoolBase := 0x4000000 }
def bdl : DlCell := { dlc with precodePlace := 1 }
def berm (d : Byte) : BermBody := { ul := bul, dl := bdl, auto := false, port := true, domain := d }
def rAnchor : MsgRow := { role := .admin, legal := [.anchor] }
theorem test_berm_start : (bermOk bul bdl 24 && answers (.bermStart hd (berm 24)) hd rAnchor (fun _ => true)
  (fun _ t => t.host.state == .berm && t.host.bermPending && t.time.source == 1) (host .anchor)) = true := by decide +kernel
theorem test_berm_refused : (!bermOk bul bdl 23 && refusesWith (.bermStart hd (berm 23)) hd rAnchor (fun _ => true) 0x0102 (host .anchor)) = true := by decide +kernel
theorem test_log_config : served (.logConfig hd 0x10000 1024 3) hd rLate (fun u => u.extRange 0x10000 65600 && u.domainOk .management 0x10000 65600)
  (fun u => (u.setHost { u.host with log := some { base := 0x10000, records := 1024, level := 3, write := 0 } }).extWrite 0x10000 [0, 0, 0, 0, 0, 0, 0, 0])
  (fun _ => .empty) (host .running) = true := by decide +kernel
theorem test_trace_set : served (.traceSet hd (2 ^ 128 + 1)) hd rUp (fun _ => true) (fun u => u.setHost { u.host with trace := 1 }) (fun _ => .empty) (host .running) = true := by
  decide +kernel
theorem test_fault_anchor : gives (.fwFault .power 1 2 3) State.reset (fun u => u.host.state == .anchor && u.host.faultedCore == 2) = true := by decide +kernel
theorem test_fault_running : gives (.fwFault (.cluster 4) 1 2 3) (host .running) (fun u => u.host.state == .faulted && u.host.faultedCore == 4 &&
  u.sched.halt == some (host .running).frameNow && (u.cluster 4).core == .faulted) = true := by decide +kernel

theorem test_region_set : starts (.regionSet hd 5 1 0 16 2 0) hd rLate
  (fun u => !(u.region 5).changing && u.extRange (16 * 2 ^ 20) (2 * 2 ^ 20) && !u.overlapsEntry 5 16 2 &&
    u.usedRanges.all fun x => x.2 == 0 || ((altered (u.region 5) 1 16 2).1 ++ (altered (u.region 5) 1 16 2).2).all fun r => !meetsEnd x r)
  (fun _ t => (t.region 5) == { domain := 1, sealed := false, changing := true, base := 16, size := 2 } && t.out.isEmpty) (host .started) = true := by decide +kernel
def withRegion (i : Nat) (r : Region) (s : State) : State := s.setSec { s.sec with regions := s.sec.regions.set Region.init i r }
def inf5 : Region := { domain := 1, sealed := false, changing := false, base := 16, size := 2 }
theorem test_region_busy : refusesWith (.regionSet hd 5 1 0 16 2 0) hd rLate (fun u => (u.region 5).changing) 0x0901
  (withRegion 5 { inf5 with changing := true } (host .started)) = true := by decide +kernel
theorem test_region_fields : (refusesWith (.regionSet hd 5 1 0 16 2 1) hd rLate (fun _ => true) 0x0903 (host .started) &&
  refusesWith (.regionSet hd 5 3 0 0 2 0) hd rLate (fun _ => true) 0x0903 (host .started)) = true := by decide +kernel
theorem test_region_overlap : refusesWith (.regionSet hd 6 0 0 17 1 0) hd rLate (fun u => u.extRange (17 * 2 ^ 20) (2 ^ 20) && u.overlapsEntry 6 17 1) 0x0102
  (withRegion 5 inf5 (host .started)) = true := by decide +kernel
theorem test_region_done : gives (.regionZeroiseComplete 5) (withRegion 5 { inf5 with changing := true } State.reset) (fun u => u.region 5 == inf5) = true := by decide +kernel
def bun (n : Nat) : Bundle := { bundle3 with security := n }
theorem test_rollback : served (.rollbackCommit hd 3) hd { role := .admin, legal := [.running] } (fun u => u.host.bundle.isSome)
  (fun u => u.setFuses { u.sec.fuses with rollback := 3 }) (fun _ => .empty) (host .running fun s => s.setHost { s.host with bundle := some (bun 3) }) = true := by decide +kernel
def rFuse : MsgRow := { role := .admin, legal := [.started] }
theorem test_fuse_debug : served (.fuseWrite hd .debugDisabled) hd rFuse (fun _ => true) (fun u => u.setFuses { u.sec.fuses with debugDisabled := true }) (fun _ => .empty)
  (host .started) = true := by decide +kernel
theorem test_fuse_key : served (.fuseWrite hd (.opRsa [1])) hd rFuse (fun u => u.sec.lifecycle == .opened && u.sec.fuses.opRsa.isNone)
  (fun u => u.setFuses { u.sec.fuses with opRsa := some [1] }) (fun _ => .empty) (host .started) = true := by decide +kernel
def keyed (s : State) : State := s.setFuses { s.sec.fuses with opRsa := some [1] }
theorem test_fuse_key_again : refusesWith (.fuseWrite hd (.opRsa [2])) hd rFuse (fun u => u.sec.fuses.opRsa.isSome) 0x0901 (keyed (host .started)) = true := by decide +kernel
theorem test_seal : served (.sealFuse hd) hd rFuse (fun u => u.sec.fuses.opRsa.isSome && u.sec.lifecycle == .opened)
  (fun u => u.setSec { u.sec with fuses := { u.sec.fuses with sealBlown := true }, lifecycle := .sealed }) (fun _ => .empty) (keyed (host .started)) = true := by decide +kernel
theorem test_seal_early : refusesWith (.sealFuse hd) hd rFuse (fun u => u.sec.fuses.opRsa.isNone) 0x0901 (host .started) = true := by decide +kernel

def slot0 (j : Option Word) : KeySlot := {
  bundle := 0, nGraph := 1, nWeight := 0, ivPrefix := [], weightArea := 0, region := 5, graph := 16 * 2 ^ 20, bundleId := [], owner := [],
  ownerMod := [], ports := [], job := j, modelKey := [] }
def withSlot (j : Option Word) (s : State) : State :=
  (withRegion 5 { inf5 with sealed := true } s).setSec { (withRegion 5 { inf5 with sealed := true } s).sec with slots := Table.empty.set none 3 (some (slot0 j)) }
theorem test_unload : answers (.modelUnload hd 3) hd rUp (fun u => u.sec.slots.get none 3 == some (slot0 none))
  (fun _ t => (t.sec.slots.get none 3).isNone && !(t.region 5).sealed) (withSlot none (host .running)) = true := by decide +kernel
theorem test_unload_bound : refusesWith (.modelUnload hd 3) hd rUp (fun u => u.sec.slots.get none 3 == some (slot0 (some 1))) 0x0901
  (withSlot (some 1) (host .running)) = true := by decide +kernel
def sealedDev : State := (withRegion 5 inf5 (host .running)).setSec { (withRegion 5 inf5 (host .running)).sec with lifecycle := .sealed }
/-- Where the header is genuine, the rest of a load's conditions can hold. -/
theorem test_model_load (k : KeySlot) (hk : 4096 * k.nGraph ≤ 2 * 2 ^ 20) (hm : (taken sealedDev hd).modelHeader (16 * 2 ^ 20) 5 = some k) :
    (modelLoadBody hd (16 * 2 ^ 20) 5 (taken sealedDev hd)).2 = .later := by
  have hr : (taken sealedDev hd).region 5 = inf5 := by decide +kernel
  have hf : ((upTo 64).find? fun i => ((taken sealedDev hd).sec.slots.get none i).isNone) = some 0 := by decide +kernel
  have hl : (taken sealedDev hd).sec.lifecycle = .sealed := by decide +kernel
  have hn : (taken sealedDev hd).sec.loading = none := by decide +kernel
  have hi : (taken sealedDev hd).inRegion .inference (16 * 2 ^ 20) 0x700 = true := by decide +kernel
  have hz : ¬ inf5.size * 2 ^ 20 < 4096 * k.nGraph := by show ¬ 2 * 2 ^ 20 < _; omega
  unfold modelLoadBody
  dsimp only
  rw [hf, hr]
  dsimp only
  rw [hl, hn, hi, hm]
  dsimp only
  rw [if_neg (by simp), if_neg (by decide), if_neg hz]
def loading (s : State) : State := (withSlot none s).setSec { (withSlot none s).sec with loading := some { slot := 4, region := 5, hdr := none, filled := { slot0 none with nGraph := 0 } } }
/-- A load whose graph section is empty decrypts, whatever the ciphers are. -/
theorem test_model_opens : (loading State.reset).openGraph { slot0 none with nGraph := 0 } = some [] := by decide +kernel
theorem test_model_loaded : gives .modelLoadComplete (loading State.reset) (fun u => u.sec.loading.isNone && !(u.region 5).sealed) = true := by decide +kernel
def rQuote : MsgRow := { role := .read, legal := [.loaded, .started, .running] }
theorem test_quote : (accepts (host .loaded) hd rQuote && match exec (.quote hd []) (host .loaded) with | .next _ => true | _ => false) = true := by decide +kernel
theorem test_challenge : (accepts (host .started) hd rLate && gives (.debugChallenge hd) (host .started) fun u => u.sec.challenge.isSome) = true := by decide +kernel
/-- Where both parties' signatures verify, an unlock's conditions hold. -/
theorem test_unlock (b : UnlockBody) (c : List Byte) (hk : unlockOk Fuses.init c b = true) :
    (unlockBody b ((host .started).setSec { (host .started).sec with challenge := some c })).2 = .ok := by
  unfold unlockBody
  rw [if_neg (by show ¬ (false = true); decide)]
  show (if unlockOk Fuses.init c b = true then _ else _ : State × Answer).2 = _
  rw [if_pos hk]
def noDebug : State := (host .started).setFuses { (host .started).sec.fuses with debugDisabled := true }
theorem test_unlock_disabled (b : UnlockBody) : exec (.debugUnlock hd b) noDebug = .next ((taken noDebug hd).reply hd false 0x0901 .empty) := rfl
/-- A graph of a loaded model, its faulted task's dump waiting. -/
def dumpWaits : State :=
  let s := withSlot (some 1) (host .running)
  s.setSched { s.sched with dumps := [{ job := 1, task := 0, tile := Tile.init }], graphs := [{ graph1 .ready with job := 1, session := 1, modelSlot := some 3 }] }
theorem test_dump : ((dumpWaits.sched.dumps.find? (·.job = 1)).isSome && (dumpWaits.graph 1).isSome && (dumpWaits.session 1).isSome &&
  (dumpWaits.sec.slots.get none 3).isSome) = true := by decide +kernel
/-- Where the bundle's checks pass, LOAD is answered OK in LOADED. -/
theorem test_load (s : State) (hk : bootFault s.sec.fuses (s.extRead 0 256) = none) : (loadBody 0 256 s).2 = .ok := by
  unfold loadBody
  dsimp only
  rw [if_pos (by decide), hk]
theorem test_load_accepted : accepts (host .anchor) hd rBoot = true := by decide +kernel

/-! ## Time, power, reset, ports, registers, memory -/

/-- The reset state with its time unit changed. -/
def tim (f : TimeUnit → TimeUnit) : State := State.reset.setTime (f TimeUnit.init)
/-- With a source, HARD, and a levee of 1,000 ns. -/
def clk (f : TimeUnit → TimeUnit) : State := tim fun t => f { t with source := 2, mode := 1, levee := 1000, lastTheta := some 0, now := 2 ^ 70 }
def active (s : State) : State := s.modCell 0 fun c => { c with ul := some ulc, dl := some dlc }
theorem test_theta_first : gives (.ptpOffset 65536) (clk fun t => { t with state := .free, lastTheta := none })
  (fun u => u.time.state == .acquire && u.time.now == 2 ^ 70 - 2 ^ 40 && u.time.c == 0) = true := by decide +kernel
theorem test_theta_first_wraps : gives (.ptpOffset 65536) (clk fun t => { t with state := .free, now := 0 })
  (fun u => u.time.now == (2 ^ 48 * 1000000000 - 1) * 2 ^ 40) = true := by decide +kernel
theorem test_theta_levee : gives (.ptpOffset (-65536001)) (clk fun t => { t with state := .locked })
  (fun u => u.time.leveeFlag && u.time.now == 2 ^ 70 && u.time.slew == 0 && u.time.lastTheta == some 0 && u.events.queue.length == 1) = true := by decide +kernel
theorem test_theta_slew : gives (.ptpOffset 65536000) (active (clk fun t => { t with state := .locked, freqRef := 3 }))
  (fun u => !u.time.leveeFlag && u.time.slew == -(1000 * 2 ^ 40) && u.time.now == 2 ^ 70 && u.time.state == .locked) = true := by decide +kernel
theorem test_theta_lock : gives (.ptpOffset 6553600) (clk fun t => { t with state := .acquire, okRun := 15, freqRef := 3 }) (fun u => u.time.state == .locked) = true := by decide +kernel
theorem test_theta_no_source : becomes (.ptpOffset 5) (tim fun t => { t with source := 15 }) (tim fun t => { t with source := 15 }) = true := by decide +kernel
theorem test_announce : (becomes .announceTimeout State.reset State.reset && gives .announceTimeout (clk fun t => { t with state := .locked })
  (fun u => u.time.state == .holdover && u.time.clockClass == 135 && u.time.heldNs == 2 ^ 30)) = true := by decide +kernel
theorem test_holdover_limit : gives .holdoverLimit (clk fun t => { t with state := .holdover, heldNs := 73741824, holdLimit := 1 }) (fun u => u.time.clockClass == 165) = true := by decide +kernel
def soft (f : TimeUnit → TimeUnit) : State := tim fun t => f { t with mode := 0, levee := 1000, now := 2 ^ 70, state := .locked }
theorem test_step_hard : becomes (.timStepWrite 5) (clk id) (clk id) = true := by decide +kernel
theorem test_step_slew : becomes (.timStepWrite 65536000) (active (soft id)) ((active (soft id)).setTime { (active (soft id)).time with slew := 1000 * 2 ^ 40 }) = true := by decide +kernel
theorem test_step : gives (.timStepWrite (-65536)) (soft id) (fun u => u.time.now == 2 ^ 70 - 2 ^ 40) = true := by decide +kernel
theorem test_slew_end : gives .slewComplete (clk fun t => { t with slew := slewShare t }) (fun u => u.time.slew == 0 && u.time.now == 2 ^ 70 + slewShare TimeUnit.init) = true := by decide +kernel
theorem test_ref_bad : (gives (.refMonitorWindow 9989) (tim fun t => { t with refFreq := 0 }) (fun u => u.time.refLost && !u.power.refclkOk && u.time.state == .holdover) &&
  gives (.refMonitorWindow 0) State.reset (fun u => u.time.refLost)) = true := by decide +kernel
theorem test_ref_good : gives (.refMonitorWindow 9990) (tim fun t => { t with refFreq := 0, refLost := true, goodWins := 15 })
  (fun u => !u.time.refLost && u.power.refclkOk && u.time.goodWins == 16) = true := by decide +kernel
theorem test_synce : (gives (.synceMeasure (-3)) (clk fun t => { t with freqRef := 7, mode := 2 }) (fun u => u.time.meas == -3 && u.time.c == 0)) = true := by decide +kernel
/-- c × gain is −2^31 × 2^32, which 8 bits cannot hold. -/
theorem test_syn : gives .synFcwFrame (tim fun t => { t with synEn := true, c := -(2 ^ 31), gain := 2 ^ 31, fcwWidth := 8, prefixLen := 3, prefixVal := 0xD })
  (fun u => u.time.synSat && u.out == [.spi [true, false, true, true, false, false, false, false, false, false, false]]) = true := by decide +kernel
theorem test_txts : gives (.txTimestamp 7 9) (tim fun t => { t with now := 5 * 2 ^ 40 }) (fun u => u.time.queue == [{ ident := 7, port := 9, sec := 0, ns := 5, frac := 0 }]) = true := by
  decide +kernel
def tx1 : Txts := { ident := 7, port := 9, sec := 3, ns := 5, frac := 6 }
theorem test_txts_full : gives (.txTimestamp 7 9) (tim fun t => { t with queue := List.replicate 64 tx1 })
  (fun u => u.time.txtsOvf && u.time.txDropped == 1 && u.time.queue.length == 64) = true := by decide +kernel
theorem test_txts_pop : (gives .txtsPop State.reset (fun u => u.out == [.word "TIM_TXTS_LO" 0]) && gives .txtsPop (tim fun t => { t with queue := [tx1] })
  (fun u => u.out == [.word "TIM_TXTS_LO" 0xC800000000050006] && u.time.txHi == 0x0007000000000003)) = true := by decide +kernel
theorem test_time_latch : gives .timeReadLatch (tim fun t => { t with now := 2000000005 * 2 ^ 40 + 3 * 2 ^ 24 })
  (fun u => u.time.latch == 5 * 65536 + 3 && u.out == [.word "TIM_NOW_S" 2]) = true := by decide +kernel
def pulse (mode : BitVec 2) (ns : Word) : PpsSet := { sec := 0, ns, period := 1000, width := 10, unit256 := false, polarity := false, mode }
theorem test_pps_arm : (decide (0 < State.reset.time.pps.length) && gives (.ppsArm 0 (pulse 1 50)) State.reset (fun u => (u.pps 0).armed && (u.pps 0).next == 50) &&
  gives (.ppsArm 0 (pulse 1 0)) State.reset (fun u => !(u.pps 0).armed && (u.pps 0).missed) && gives (.ppsArm 0 (pulse 0 0)) State.reset (fun u => !(u.pps 0).armed)) = true := by
  decide +kernel
theorem test_pps_periodic : (gives (.ppsArm 0 (pulse 2 50)) (tim fun t => { t with now := 3050 * 2 ^ 40 }) (fun u => (u.pps 0).armed && (u.pps 0).next == 4050) &&
  !ppsOk { pulse 2 50 with period := 999 } && becomes (.ppsArm 0 (pulse 3 50)) State.reset State.reset) = true := by decide +kernel
def armed1 (high : Bool) : State := (tim fun t => { t with now := 60 * 2 ^ 40 }).setPps 2 { Pps.init with armed := !high, high := high, mode := 1, next := 50, until' := 60, width := 10 }
theorem test_pps_edge : gives (.ppsEdge 2) (armed1 false) (fun u => (u.pps 2).high && !(u.pps 2).armed && u.out == [.pulse 2 true]) = true := by decide +kernel
theorem test_pps_end : gives (.ppsPulseEnd 2) (armed1 true) (fun u => !(u.pps 2).high && u.out == [.pulse 2 false]) = true := by decide +kernel
def upPort (n : Nat) (f : Port → Port := id) (s : State := State.reset) : State := s.modPort n fun p => f { p with up := true }
theorem test_delay_req : gives (.ptpMessageTransmit 2 .delayReq) (upPort 2 id (clk id)) (fun u => u.out.length == 1) = true := by decide +kernel
def tcfg : TimeCfg := {
  mode := 1, source := 15, refFreq := 0, freqRef := 14, domain := 24, synEn := false, oneStep := false, levee := 1000, ki := 7, slewMax := 100, holdLimit := 9,
  fcwWidth := 32, prefixLen := 0, div := 12, prefixVal := 0, gain := 0 }
theorem test_time_config : answers (.timeConfig hd tcfg) hd rLate (fun u => !u.follows)
  (fun _ t => t.time.levee == 1000 && t.time.mode == 1 && t.time.state == .free && t.time.clockClass == 248) (host .started fun s => s.setTime { s.time with state := .locked }) = true := by
  decide +kernel
theorem test_time_config_range : refusesWith (.timeConfig hd { tcfg with domain := 23 }) hd rLate (fun _ => true) 0x0102 (host .started) = true := by decide +kernel
theorem test_relock : answers (.relock hd) hd rLate (fun u => !u.timeHeld) (fun _ t => t.time.state == .free) (host .running fun s => s.setTime { s.time with state := .locked }) = true := by
  decide +kernel

def powered (d : Nat) (st : PowerSt) (s : State := State.reset) : State := s.setPowerOf d st
def atCycle (n : Nat) (s : State) : State := { s with clock := { s.clock with cycle := n } }
theorem test_idle_retain : gives (.tileIdleRetain 95) (atCycle 0x1000 (powered 95 .on)) (fun u => u.powerOf 95 == .retain) = true := by decide +kernel
theorem test_retain_off : gives (.tileRetainOff 95) (atCycle 0x01000000 (powered 95 .retain)) (fun u => u.powerOf 95 == .off) = true := by decide +kernel
theorem test_scrub_wake : gives .retainScrubWake (powered 95 .retain) (fun u => (u.tile 95).scrub == 1 && (u.tile 0).scrub == 0) = true := by decide +kernel
theorem test_wake : (gives (.domainWakeComplete 0 none) (powered 96 .on (powered 0 .waking)) (fun u => u.powerOf 0 == .on) &&
  gives (.domainWakeComplete 108 none) (powered 108 .waking) (fun u => u.powerOf 108 == .on) &&
  gives (.domainWakeComplete 107 none) (powered 107 .waking) (fun u => u.power.cluLock == 0x800)) = true := by decide +kernel
theorem test_estimate : (gives (.powerEstimate 3201) State.reset (fun u => u.power.duty == 1 && u.power.est == 3201) &&
  gives (.powerEstimate 3039) (State.reset.setPower { Power.init with duty := 5 }) (fun u => u.power.duty == 4) &&
  gives (.powerEstimate 3040) (State.reset.setPower { Power.init with duty := 5 }) (fun u => u.power.duty == 5)) = true := by decide +kernel
theorem test_thermal : (gives (.thermalUpdate 105) State.reset (fun u => u.power.level == 1 && u.power.dutyTherm == 1) &&
  gives (.thermalUpdate 102) (State.reset.setPower { Power.init with level := 1 }) (fun u => u.power.level == 1) &&
  gives (.thermalUpdate 99) ((State.reset.setPower { Power.init with level := 1 }).setRst { ResetCtl.init with thermalHold := true })
    (fun u => u.power.level == 0 && !u.rst.thermalHold)) = true := by decide +kernel
theorem test_ageing : gives (.ageingPlan [720, 690, 790, 690]) ((atCycle 0 State.reset).setAgeing 3 { Ageing.init with vdd := 740 })
  (fun u => (u.ageing 0).vdd == 735 && (u.ageing 1).vdd == 720 && (u.ageing 2).vdd == 800 && (u.ageing 2).stepNext && (u.ageing 3).vdd == 735) = true := by
  decide +kernel
theorem test_plan_not_due : (let s := State.reset.setPower { State.reset.power with fresh := false, driftSince := some 0 }
  !s.planDue && becomes (.ageingPlan [720]) s s) = true := by decide +kernel
theorem test_near_miss : gives (.ageNearmiss 3) State.reset (fun u => (u.ageing 3).vdd == 725) = true := by decide +kernel
theorem test_step_down : gives (.ageStepdown 3) (State.reset.setAgeing 3 { Ageing.init with stepNext := true }) (fun u => (u.ageing 3).stepped && (u.ageing 3).vdd == 720) = true := by
  decide +kernel

def inUse : State := { host .running with tiles := runT.tiles }
theorem test_reset_l1 : (let u := inUse.applyReset .l1
  u.host.state == .anchor && u.tiles == .empty && u.sec.keyGen == inUse.sec.keyGen + 1 && u.rst.phase == 2) = true := by decide +kernel
theorem test_reset_l2 : (let u := inUse.applyReset .l2
  !inUse.capture.on && u.host.state == .loaded && (u.session 1).isSome && (u.tile 0).ref.isNone) = true := by decide +kernel
theorem test_reset_l3 : (let u := inUse.applyReset .l3
  u.host == inUse.host && u.tile 0 == inUse.tile 0 && u.radio.paused && u.rst.phase == 3) = true := by decide +kernel
/-- Out of reset, some slow-clock cycles on. -/
def live (f : State → State := id) : State := f (atCycle 9999999999 (State.reset.setRst { ResetCtl.init with phase := 3 }))
theorem test_assert : (let u := (live).assertReset 5 .l2 0x12; u.rst.source == 5 && u.rst.level == .l2 && u.rst.detail == 0x12 && !u.rst.merged) = true := by decide +kernel
theorem test_absorbed : (let s := atCycle 9999999999 (State.reset.setRst { ResetCtl.init with phase := 2, level := .l1 })
  decide (s.rst.assertCycle / slowCycle ≠ s.clock.cycle / slowCycle) && s.assertReset 5 .l2 0 == s.setRst { s.rst with merged := true }) = true := by decide +kernel
theorem test_reset_pin : gives .resetNAssert live (fun u => u.rst.pinLow && u.rst.phase == 0 && u.rst.source == 1) = true := by decide +kernel
theorem test_reset_pin_up : gives .resetNRelease (State.reset.setRst { ResetCtl.init with pinLow := true, phase := 0, level := .l1 }) (fun u => !u.rst.pinLow && u.rst.phase == 2) = true := by
  decide +kernel
def dogs (s : State) : State := s.setPower { s.power with stby := true }
theorem test_sch_watchdog : (let s := live fun s => dogs (s.setRst { s.rst with schEn := true, schPeriod := 10 })
  s.dogsRun && gives .schWatchdogExpire s (fun u => u.rst.source == 2) && becomes .schWatchdogExpire (dogs live) (dogs live)) = true := by decide +kernel
theorem test_sec_watchdog : ((live dogs).dogsRun && gives .secWatchdogExpire (live dogs) (fun u => u.rst.source == 3)) = true := by decide +kernel
theorem test_wdt_arm : (gives (.wdtArm 9) live (fun u => u.rst.schEn && u.rst.schPeriod == 1000 && u.rst.schKick == 9999999999) &&
  gives (.wdtArm 60000) live (fun u => u.rst.schPeriod == 60000)) = true := by decide +kernel
theorem test_violation : (gives .keyStoreAccess live (fun u => u.rst.source == 7 && u.rst.detail == 2) && gives .supplyGlitch live (fun u => u.rst.detail == 3) &&
  gives .clockGlitch live (fun u => u.rst.detail == 4)) = true := by decide +kernel
/-- Tj has been at 115 °C since cycle 5. -/
def hot (tj : Nat) (s : State) : State := s.setPower { s.power with tj, hotSince := some 5 }
theorem test_thermal_trip : (gives (.thermalTrip 3) (live (hot 115)) (fun u => u.power.thermLow && u.out == [.thermLow] && u.rst.source == 4) &&
  becomes (.thermalTrip 3) (live (hot 114)) (live (hot 114)) && becomes (.thermalTrip 3) (atCycle 1250004 (live (hot 115))) (atCycle 1250004 (live (hot 115)))) = true := by decide +kernel
theorem test_reset_message : (let s := (live).setHost { (host .running).host with state := .running }
  accepts s hd { role := .admin, legal := allStates, hw := true } && gives (.reset hd .l2) s fun u => u.rst.source == 5 && u.out.length == 1) = true := by decide +kernel
def cold (n : Nat) : State := (State.reset.setRst { ResetCtl.init with phase := 0, level := .l0, loads := n }).setPower { Power.init with pwrgd := true }
theorem test_trim : (gives (.trimLoadAttempt true) (cold 0) (fun u => u.rst.phase == 2) && gives (.trimLoadAttempt false) (cold 1) (fun u => u.rst.phase == 1 && u.rst.loads == 2) &&
  gives (.trimLoadAttempt false) (cold 2) (fun u => u.rst.trimFail)) = true := by decide +kernel
def releasing (l : Level) : State := (State.reset.setRst { ResetCtl.init with phase := 2, level := l }).setPower { Power.init with devLock := true, stby := true }
theorem test_block_release : (gives (.blockRelease 117) (powered 117 .retain (releasing .l2)) (fun u => u.powerOf 117 == .on) &&
  gives (.blockRelease 131) (releasing .l1) (fun u => u.powerOf 131 == .waking)) = true := by decide +kernel
theorem test_clock_stuck : (gives (.clockStuckTimeout (.domain 100)) (powered 100 .on) (fun u => u.rst.held.contains 100 && u.powerOf 100 == .off) &&
  gives (.clockStuckTimeout .radioPll) State.reset (fun u => u.rst.heldRadio && u.rst.held.contains 127) &&
  gives (.clockStuckTimeout .devicePll) (releasing .l0) (fun u => !u.power.devLock && u.rst.heldDevice)) = true := by decide +kernel
theorem test_power_on : gives (.powerOn 2) inUse (fun u => u.host.state == .anchor && u.rst.phase == 0 && u.power.pwrgd && u.power.cpRole == 2) = true := by decide +kernel
theorem test_power_off : gives .pwrgdFall inUse (fun u => !u.power.pwrgd && u.host.state == .anchor) = true := by decide +kernel
theorem test_standby_end : gives .stbyNRise live (fun u => u.power.stby && u.powerOf 117 == .waking && u.powerOf 131 == .waking && u.powerOf 127 == .off) = true := by decide +kernel
theorem test_standby : gives .stbyNFall inUse (fun u => u.host.state == .anchor && !u.power.stby && u.sec.keyGen == 1 && (u.session 1).isNone) = true := by decide +kernel

theorem test_idcode : gives .idcode State.reset (fun u => u.port.code == 1 && u.out == [.tap 0x1810054F]) = true := by decide +kernel
theorem test_scan : (gives .extest (host .running) (fun u => u.port.code == 0xFF && u.port.captured == 0) && gives .clamp State.reset (fun u => u.port.code == 4) &&
  gives .highz State.reset (fun u => u.port.code == 5) && gives .bypass State.reset (fun u => u.port.code == 0xFF)) = true := by decide +kernel
theorem test_rstreg : gives .rstreg (State.reset.setRst { ResetCtl.init with held := [64] }) (fun u => u.port.code == 0x10 && u.port.captured / 2 ^ 128 % 2 ^ 64 == 1) = true := by decide +kernel
theorem test_debug_sealed : becomes (.debugAccess 3) (live fun s => s.setSec { s.sec with lifecycle := .sealed })
  ((live fun s => s.setSec { s.sec with lifecycle := .sealed }).sourceReset 7 1) = true := by decide +kernel

def frame (k : FrameKind) : NpFrame := { sender := [1], len := 64, tags := 0, pause := false, kind := k, bytes := [] }
theorem test_frame_unclassified : gives (.npFrameReceive 3 (frame .other)) (upPort 3) (fun u => (u.netPort 3).unclassified == 1) = true := by decide +kernel
def seg : AqmorSeg := { inf := true, version := 1, type := 7, seq := 0, length := 10, offset := 0, first := true, last := true, rsvd := 0, data := [0, 0, 0, 1, 0, 0, 0, 0, 0xAA, 0xBB] }
def infMem : State := withRegion 5 inf5 (upPort 3)
theorem test_frame_input : (segOk seg && infMem.frameDomain (frame (.aqmor seg)) == some .inference && infMem.domainOk .inference 0x1000000 2 &&
  gives (.npFrameReceive 3 (frame (.aqmor seg))) infMem (fun u => u.extByte 0x1000001 == 0xBB && (u.netPort 3).peerInf == some [1])) = true := by decide +kernel
theorem test_frame_wrong_domain : gives (.npFrameReceive 3 (frame (.aqmor seg))) (upPort 3) (fun u => (u.netPort 3).dropDomain == 1 && u.mem == State.reset.mem) = true := by decide +kernel
theorem test_link : (gives (.portLinkLoss 3) (upPort 3) (fun u => !(u.netPort 3).up) && gives (.portLinkUp 9) State.reset (fun u => (u.netPort 9).up && (u.netPort 9).mode == 5) &&
  becomes (.portLinkUp 3) State.reset State.reset) = true := by decide +kernel
theorem test_mka : gives (.mkaExchange 1 (Config.cak 1)) (upPort 9) (fun u => (u.netPort 9).macsec && u.out == [.frame 9 (.mka [0, 0, 0, 0, 0, 0, 0, 0, 1])]) = true := by
  show ((Config.cak 1 == Config.cak 1) && _) = true
  rw [beq_self_eq_true, Bool.true_and]
  decide +kernel
theorem test_arp : (gives (.arpNdReply 1 false [169, 254, 1, 0]) (upPort 9) (fun u => u.out == [.frame 9 (.arp false [2, 9, 0, 0, 0, 0] [169, 254, 1, 0])]) &&
  becomes (.arpNdReply 1 false [169, 254, 1, 1]) (upPort 9) (upPort 9)) = true := by decide +kernel
theorem test_register_holes : (gives (.registerWrite .host 0xFEFFFFFFFFF8 false 1) State.reset (fun u => u.out == [.word "REGISTER_WRITE" 0x0101]) &&
  gives (.registerWrite .host 0xFF0000020014 false 1) State.reset (fun u => u.out == [.word "REGISTER_WRITE" 0x0101])) = true := by decide +kernel
theorem test_register_writers : (gives (.registerWrite .host 0xFF00000B8000 false 1) live (fun u => u.rst.source == 7) &&
  becomes (.registerWrite .scheduler 0xFF0000020010 false 25) State.reset State.reset) = true := by decide +kernel
theorem test_cap : (gives (.registerWrite .host 0xFF0000020010 false 25) State.reset (fun u => u.power.cap == 25) &&
  gives (.registerWrite .host 0xFF0000020010 false 321) State.reset (fun u => u.power.cap == 320 && u.out == [.word "REGISTER_WRITE" 0x0102])) = true := by decide +kernel
theorem test_cycle_halt : gives (.registerWrite .scheduler 0xFF00000E0020 false 1) State.reset (fun u => u.sched.halt == some 0) = true := by decide +kernel
theorem test_reload : (gives (.cluReload 7) (host .running) (fun u => (u.cluster 7).reload) && becomes (.cluReload 7) State.reset State.reset) = true := by decide +kernel
theorem test_ldp_read : gives (.ldpQueueRead 3) (State.reset.setBank 3 { State.reset.bank 3 with now := 2, peak := 9 }) (fun u => (u.bank 3).peak == 2 && u.out.length == 1) = true := by decide +kernel

/-- A write across two units of memory. -/
theorem test_ext_write : (let s := State.reset.extWrite 60 [1, 2, 3]; let u := s.extWrite 62 [4, 5, 6]
  !s.mergeBad 62 3 && u.extByte 61 == 2 && u.extByte 62 == 4 && u.extByte 64 == 6 && u.extByte 65 == 0) = true := by decide +kernel
theorem test_ext_zero : (let u := (State.reset.extWrite 60 [1, 2, 3, 4, 5]).extZero 0 64; u.extByte 63 == 0 && u.extByte 64 == 5 && u.memWf) = true := by decide +kernel
theorem test_reset_mem : State.reset.memWf = true := by decide +kernel
theorem test_step_mem : (match step { State.reset with pending := [.wdtKickSec] } with | .next t => t.memWf && t.pending.isEmpty | _ => false) = true := by decide +kernel
theorem test_idle_step : (match step State.reset with | .next t => t.clock.cycle == 1 | _ => false) = true := by decide +kernel

/-! ## Ill-formed commands: each check refuses one -/

def longData : List Byte := List.replicate 8145 0
def shortRaw : QcpHdr := { hd with raw := List.replicate 31 0 }
def job1 (n : Nat) : SubmitBody := { graph := 0, seed := 0, arrayJob := 0, modelSlot := 0, nPorts := 0, dumpAddr := 0, portAddr := List.replicate n 0, rsvd16 := 0 }
def flit1 (n : Nat) : Flit := {
  seq := 0, ack := 0, nak := false, cls := 0, vc := false, kind := 0, dst := 0, src := 0, first := true, last := true, rsvd := 0, payload := List.replicate n 0 }
theorem test_ill_formed : ([
  Instr.npFrameReceive 0 { frame .other with len := 64 }, .uplaneSection { sec1 with prbs := [{ prb1 with mant := List.replicate 23 0 }] } 0,
  .sweepSection { ssec with count := 3 }, .sweepSection { ssec with samples := .bfp [(0, List.replicate 15 ⟨0, 0⟩)] }, .sweepSection { ssec with count := 17, samples := .bfp [(0, List.replicate 16 ⟨0, 0⟩)] },
  .submit hd (job1 15), .memWrite hd 0 longData, .memRead hd 0 8161, .qcpUnknownType shortRaw 0x22, .ageingPlan [720], .quote hd [1],
  .flitReceive 0 (flit1 257) ⟨true, true, true⟩].all fun c => !c.wellFormed) = true := by decide +kernel
theorem test_well_formed : ([Instr.memWrite hd 0 [1], .sweepSection ssec, .powerOn 2, .ageingPlan (List.replicate 12 720), .submit hd (job1 16), .tileKill 3].all
  Instr.wellFormed) = true := by decide +kernel
theorem test_no_words : decodeTableWord 32 0 = none ∧ (State.reset.withFetchWord 32 0) = State.reset := by decide +kernel

end Sys2Proof.Tests
end

section
/-! PROOFS. The manual's rounding and saturation (rhu, sat), and block floating point built on them (02 R35, 03 R80). -/
namespace Sys2Proof

/-- `rhu` is the floor of a/b + 1/2: the quotient brackets 2a + b between two multiples of 2b. -/
theorem rhuDiv_bounds (a : Int) {b : Nat} (hb : 0 < b) :
    2 * rhuDiv a b * b ≤ 2 * a + b ∧ 2 * a + b < 2 * (rhuDiv a b + 1) * b := by
  have hpos : (0 : Int) < 2 * b := by omega
  have hdiv : rhuDiv a b = (2 * a + b) / (2 * b) := Int.fdiv_eq_ediv_of_nonneg _ (Int.le_of_lt hpos)
  have hdouble (q : Int) : 2 * q * b = q * (2 * b) := by rw [Int.mul_comm 2 q, Int.mul_assoc]
  rw [hdouble, hdouble, hdiv]
  exact ⟨Int.ediv_mul_le _ (Int.ne_of_gt hpos), Int.lt_ediv_add_one_mul_self _ hpos⟩

/-- Saturation lands in the signed range of the width. -/
theorem satInt_bounds (w : Nat) (v : Int) : -(2 ^ (w - 1)) ≤ satInt w v ∧ satInt w v ≤ 2 ^ (w - 1) - 1 := by
  have hpos : (0 : Int) < 2 ^ (w - 1) := Int.pow_pos (by decide)
  have hrange : -(2 ^ (w - 1) : Int) ≤ 2 ^ (w - 1) - 1 := by omega
  exact ⟨Int.le_max_left .., Int.max_le.mpr ⟨hrange, Int.min_le_left ..⟩⟩

/-- Saturation changes exactly the values outside the signed range of the width. -/
theorem satInt_eq_self_iff (w : Nat) (v : Int) : satInt w v = v ↔ -(2 ^ (w - 1)) ≤ v ∧ v ≤ 2 ^ (w - 1) - 1 := by
  constructor
  · intro h
    exact h ▸ satInt_bounds w v
  · intro ⟨hlo, hhi⟩
    have hmin : min (2 ^ (w - 1) - 1) v = v := Int.min_eq_right hhi
    have hmax : max (-(2 ^ (w - 1))) v = v := Int.max_eq_right hlo
    rw [satInt, clampInt, hmin, hmax]

/-- A saturated value survives its storage as a word of the width. -/
theorem toInt_ofInt_satInt {w : Nat} (hw : 0 < w) (v : Int) : (BitVec.ofInt w (satInt w v)).toInt = satInt w v := by
  obtain ⟨hlo, hhi⟩ := satInt_bounds w v
  exact BitVec.toInt_ofInt_eq_self hw hlo (Int.lt_of_le_sub_one hhi)

end Sys2Proof

namespace Sys2Proof.Machine

/-- Does every component's rounded quotient by 2^e fit the width `w`? (the `ok` of 03 R80) -/
def BfpFits (w : Nat) (xs : List Int) (e : Nat) : Prop :=
  ∀ x ∈ xs, -(2 ^ (w - 1)) ≤ rhuScale x e ∧ rhuScale x e ≤ 2 ^ (w - 1) - 1

/-- The test that `bfpExp` searches with decides `BfpFits`. -/
theorem all_satInt_beq_iff_bfpFits (w : Nat) (xs : List Int) (e : Nat) :
    (xs.all fun x => satInt w (rhuScale x e) == rhuScale x e) = true ↔ BfpFits w xs e := by
  simp only [List.all_eq_true, beq_iff_eq, satInt_eq_self_iff, BfpFits]

/-- What the search for the exponent can end with: the smallest of 0 to 14 that fits, or 15 when none of them does. -/
theorem bfpExp_cases (w : Nat) (xs : List Int) :
    (bfpExp w xs < 15 ∧ BfpFits w xs (bfpExp w xs) ∧ ∀ k < bfpExp w xs, ¬ BfpFits w xs k) ∨
    (bfpExp w xs = 15 ∧ ∀ k < 15, ¬ BfpFits w xs k) := by
  unfold bfpExp upTo
  cases hfind : (List.range 15).find? fun e => xs.all fun x => satInt w (rhuScale x e) == rhuScale x e with
  | none =>
    simp only [List.find?_range_eq_none, Bool.not_eq_true', ← Bool.not_eq_true, all_satInt_beq_iff_bfpFits] at hfind
    exact .inr ⟨rfl, hfind⟩
  | some e =>
    simp only [List.find?_range_eq_some, List.mem_range, Bool.not_eq_true', ← Bool.not_eq_true,
      all_satInt_beq_iff_bfpFits] at hfind
    obtain ⟨hfits, hlt, hmin⟩ := hfind
    exact .inl ⟨hlt, hfits, hmin⟩

/-- The exponent is at most 15, fits when it is below 15, and no smaller one fits (03 R80). -/
theorem bfpExp_spec (w : Nat) (xs : List Int) :
    bfpExp w xs ≤ 15 ∧ (bfpExp w xs < 15 → BfpFits w xs (bfpExp w xs)) ∧ ∀ k < bfpExp w xs, ¬ BfpFits w xs k := by
  obtain ⟨hlt, hfits, hmin⟩ | ⟨heq, hnone⟩ := bfpExp_cases w xs
  · exact ⟨Nat.le_of_lt hlt, fun _ => hfits, hmin⟩
  · exact ⟨Nat.le_of_eq heq, fun hlt => absurd heq (Nat.ne_of_lt hlt), fun k hk => hnone k (heq ▸ hk)⟩

@[simp] theorem bfpTx_exp (w : Nat) (g : DlPrb) : (bfpTx w g).exp = bfpExp w (g.comps.map (·.toInt)) := rfl

@[simp] theorem bfpTx_mant (w : Nat) (g : DlPrb) :
    (bfpTx w g).mant = (g.comps.map (·.toInt)).map fun x => satInt w (rhuScale x (bfpTx w g).exp) := rfl

/-- The half-up rounded quotient by 2^e. -/
theorem rhuScale_bounds (x : Int) (e : Nat) :
    2 * rhuScale x e * 2 ^ e ≤ 2 * x + 2 ^ e ∧ 2 * x + 2 ^ e < 2 * (rhuScale x e + 1) * 2 ^ e := by
  have hcast : ((2 ^ e : Nat) : Int) = 2 ^ e := Int.natCast_pow 2 e
  exact hcast ▸ rhuDiv_bounds x (Nat.two_pow_pos e)

/-- A received component holds the saturated product (02 R35). -/
theorem bfpComp_toInt (w e : Nat) (m : Half) : (bfpComp w e m).toInt = satInt 16 (signedOf w m.toNat * 2 ^ e) :=
  toInt_ofInt_satInt (by decide) _

/-- Settles O29: the search for the exponent ends with the smallest one that fits (`bfpExp_spec`), the quotient is the half-up rounded one
(`rhuScale_bounds`), and a saturated product is held whole in 16 bits (`bfpComp_toInt`). -/
theorem blockFloatingPoint : Obligations.BlockFloatingPoint := by
  refine ⟨fun w g => ?_, rhuScale_bounds, bfpComp_toInt⟩
  obtain ⟨hle, hfits, hmin⟩ := bfpExp_spec w (g.comps.map (·.toInt))
  exact ⟨hle, hfits, hmin, bfpTx_mant w g⟩

end Sys2Proof.Machine
end

section
/-! PROOFS. Semaphores: what WAIT, SIGNAL and TRY do, who may use one, and writes of its owner (14 R321, R322). -/
namespace Sys2Proof.Machine

theorem exec_semWait (i : Issue) (n : Fin 1024) (s : State) :
    exec (.semWait i n) s = .next (runOp s i .c (semWaitOp n.val)) := rfl

theorem exec_semSignal (i : Issue) (n : Fin 1024) (s : State) :
    exec (.semSignal i n) s = .next (runOp s i .c (semSignalOp n.val)) := rfl

theorem exec_semTry (i : Issue) (n : Fin 1024) (d : SReg) (s : State) :
    exec (.semTry i n d) s = .next (runOp s i .c (semTryOp n.val d)) := rfl

theorem exec_registerWrite (m : Master) (addr : Addr) (four : Bool) (v : Dword) (s : State) :
    exec (.registerWrite m addr four v) s = .next (registerWrite m addr.toNat four v.toNat s) := rfl

/-! ## The count of a semaphore -/

theorem State.semTake_of_pos {s : State} {n : Nat} (h : 0 < (s.sem n).count) :
    s.semTake n = some (s.setSem n { s.sem n with count := (s.sem n).count - 1 }) := if_pos h

theorem State.semTake_of_zero {s : State} {n : Nat} (h : (s.sem n).count = 0) : s.semTake n = none :=
  if_neg (Nat.not_lt_of_le (Nat.le_of_eq h))

theorem State.semSignal_of_lt {s : State} {n : Nat} (h : (s.sem n).count < 65535) :
    s.semSignal n = (s.setSem n { s.sem n with count := (s.sem n).count + 1 }, false) := if_pos h

theorem State.semSignal_of_full {s : State} {n : Nat} (h : 65535 ≤ (s.sem n).count) : s.semSignal n = (s, true) :=
  if_neg (Nat.not_lt_of_le h)

/-! ## The operations of a task that may use the semaphore -/

section
variable {s : State} {t n : Nat} (hmay : s.semFault (s.tile t) n = none)
include hmay

theorem semWaitOp_of_pos (h : 0 < (s.sem n).count) :
    semWaitOp n s t = .ok (s.setSem n { s.sem n with count := (s.sem n).count - 1 }) := by
  simp only [semWaitOp, hmay, State.semTake_of_pos h]

theorem semSignalOp_of_lt (h : (s.sem n).count < 65535) :
    semSignalOp n s t = .ok (s.setSem n { s.sem n with count := (s.sem n).count + 1 }) := by
  simp only [semSignalOp, hmay, State.semSignal_of_lt h, Bool.false_eq_true, if_false]

theorem semSignalOp_of_full (h : 65535 ≤ (s.sem n).count) :
    semSignalOp n s t = .ok (s.modTile t fun x => { x with semSat := true }) := by
  simp only [semSignalOp, hmay, State.semSignal_of_full h, if_true]

theorem semTryOp_of_pos (d : SReg) (h : 0 < (s.sem n).count) :
    semTryOp n d s t =
      .ok ((s.setSem n { s.sem n with count := (s.sem n).count - 1 }).modRegs t fun r => setS r d.val 1) := by
  simp only [semTryOp, hmay, State.semTake_of_pos h]

theorem semTryOp_of_zero (d : SReg) (h : (s.sem n).count = 0) :
    semTryOp n d s t = .ok (s.modRegs t fun r => setS r d.val 0) := by
  simp only [semTryOp, hmay, State.semTake_of_zero h]

end

/-! ## The operations of a task that may not -/

/-- The code of a refusal: TI_SEM_CLASS for another class's semaphore, SCH_SEM_CLAIM for one that is not claimed. -/
def semRefusalCode (otherClass : Bool) : Half := if otherClass then Code.til 0x08 else Code.schSemClaim

/-- Neither code is the one of an uncorrectable word, after which `settle` counts. -/
theorem semRefusalCode_ne_ecc (other : Bool) : semRefusalCode other ≠ Code.til 0x60 := by cases other <;> decide

theorem State.semFault_of_semRefused {s : State} {x : Tile} {n : Nat} {ref : TaskRef} {other : Bool} (href : x.ref = some ref)
    (h : s.semRefused n x.cls (claimOf ref) = some other) : s.semFault x n = some (semRefusalCode other) := by
  simp only [State.semFault, href, h, Option.map_some, semRefusalCode]

/-- A refused task's WAIT, SIGNAL and TRY all fault at issue, the bundle without effect (14 R322). -/
theorem exec_semOps_of_semRefused {s : State} {i : Issue} {n : Fin 1024} {ref : TaskRef} {other : Bool} (hi : issues s i .c = true)
    (href : ((begun s i .c).tile i.tile.val).ref = some ref)
    (h : (begun s i .c).semRefused n.val ((begun s i .c).tile i.tile.val).cls (claimOf ref) = some other) :
    let faulted := (begun s i .c).taskFault i.tile.val (semRefusalCode other) 3 true
    exec (.semWait i n) s = .next faulted ∧ exec (.semSignal i n) s = .next faulted ∧
      ∀ d, exec (.semTry i n d) s = .next faulted := by
  intro faulted
  have hfault := State.semFault_of_semRefused href h
  have hrun {op : State → Nat → OpRes} (ho : op (begun s i .c) i.tile.val = .fault (semRefusalCode other)) :
      runOp s i .c op = faulted := runOp_fault hi ho (semRefusalCode_ne_ecc other)
  refine ⟨?_, ?_, fun d => ?_⟩
  · rw [exec_semWait, hrun (by simp only [semWaitOp, hfault])]
  · rw [exec_semSignal, hrun (by simp only [semSignalOp, hfault])]
  · rw [exec_semTry, hrun (by simp only [semTryOp, hfault])]

/-! ## SCH_SEM_OWN -/

/-- The owner that a value of SCH_SEM_OWN gives its semaphore `i`: two bits each, lowest in [1:0] (14 Table 4a). -/
theorem ofNat_bits_two (v i : Nat) : BitVec.ofNat 2 (bits v (2 * i) 2) = BitVec.ofNat 2 (v / 4 ^ i) := by
  rw [bits, Nat.pow_mul]
  exact BitVec.eq_of_toNat_eq (by simp)

/-- One claimed semaphore whose owner would change keeps the whole register (14 R322). -/
theorem ownWrite_of_claimed {s : State} {n v i : Nat} (hi : i < 32) (hclaim : (s.sem (32 * n + i)).claim ≠ none)
    (howner : (s.sem (32 * n + i)).owner ≠ BitVec.ofNat 2 (v / 4 ^ i)) : ownWrite n v s = s := by
  have hchanges : ((upTo 32).any fun i => (s.sem (32 * n + i)).claim.isSome &&
      (s.sem (32 * n + i)).owner != BitVec.ofNat 2 (bits v (2 * i) 2)) = true := by
    refine List.any_eq_true.mpr ⟨i, List.mem_range.mpr hi, ?_⟩
    rw [ofNat_bits_two, Bool.and_eq_true, bne_iff_ne]
    exact ⟨Option.isSome_iff_ne_none.mpr hclaim, howner⟩
  rw [ownWrite, hchanges, Bool.or_true, if_pos rfl]

/-- Offset of SCH_SEM_OWNn from the registers' base (24 Table 2, 14 Table 4a). -/
def semOwnOff (n : Fin 32) : Nat := 0xD0100 + 8 * n.val

theorem semOwnOff_div (n : Fin 32) : semOwnOff n / 0x10000 = 0xD := by unfold semOwnOff; omega

theorem blockOf_semOwnOff (n : Fin 32) : blockOf (semOwnOff n / 0x10000) = .sch := by rw [semOwnOff_div]; rfl

theorem keyStoreAt_semOwnOff (n : Fin 32) : keyStoreAt (semOwnOff n) = false := by rw [keyStoreAt, semOwnOff_div]; rfl

theorem State.regWrite_semOwn (s : State) (m : Master) (n : Fin 32) (v : Nat) :
    s.regWrite m (semOwnOff n) v = (ownWrite n.val v s, false) := by
  have hmod : semOwnOff n % 0x10000 = 0x100 + 8 * n.val := by unfold semOwnOff; omega
  have hyield : 0x100 + 8 * n.val ≠ 0x200 := by omega
  have hindex : (0x100 + 8 * n.val - 0x100) / 8 = n.val := by omega
  simp only [State.regWrite, blockOf_semOwnOff, schWrite, hmod, if_neg hyield, hindex]

/-- An 8-byte write of SCH_SEM_OWNn asks for owners where its master may write the register, and has no effect elsewhere. -/
theorem registerWrite_semOwn (m : Master) (n : Fin 32) (v : Nat) (s : State) :
    registerWrite m (regBase + semOwnOff n) false v s = if mayWrite m (semOwnOff n) then ownWrite n.val v s else s := by
  have hoff : regBase + semOwnOff n - regBase = semOwnOff n := Nat.add_sub_cancel_left ..
  have hslot : semOwnOff n / 8 * 8 = semOwnOff n := by unfold semOwnOff; omega
  have hmapped : ¬ (regBase + semOwnOff n < regBase ∨ 0x100000000 ≤ semOwnOff n ∨ (regBase + semOwnOff n) % 8 ≠ 0 ∨
      Block.sch = Block.none) := by
    simp only [reduceCtorEq, or_false, semOwnOff, regBase]; omega
  simp only [registerWrite, hoff, blockOf_semOwnOff, hslot, keyStoreAt_semOwnOff, State.regWrite_semOwn, State.slotValue, Bool.not_false, if_true,
    Bool.false_eq_true, if_false, if_neg hmapped]

theorem toNat_semOwnAddr (n : Fin 32) : (BitVec.ofNat 48 (0xFF00000D0100 + 8 * n.val)).toNat = regBase + semOwnOff n := by
  simp only [BitVec.toNat_ofNat, regBase, semOwnOff]; omega

/-- Settles O6: each operation is its rule about the count, issued by `runOp_ok`; a refused task faults in all three
(`exec_semOps_of_semRefused`); a write of SCH_SEM_OWN reaches `ownWrite` alone, which a claimed semaphore stops. -/
theorem semaphoreOps : Obligations.SemaphoreOps := by
  refine ⟨fun s i n hi => ?_, fun s m n i v => ?_, fun s i n ref hi => ?_⟩
  · intro u t x hmay
    refine ⟨fun h => ?_, fun h => ?_, fun h => ?_, fun d h => ?_, fun d h => ?_⟩
    · rw [exec_semWait, runOp_ok hi (semWaitOp_of_pos hmay h)]
    · rw [exec_semSignal, runOp_ok hi (semSignalOp_of_lt hmay h)]
    · rw [exec_semSignal, runOp_ok hi (semSignalOp_of_full hmay h)]
    · rw [exec_semTry, runOp_ok hi (semTryOp_of_pos hmay d h)]
    · rw [exec_semTry, runOp_ok hi (semTryOp_of_zero hmay d h)]
  · intro x hclaim howner
    rw [exec_registerWrite, toNat_semOwnAddr, registerWrite_semOwn, ownWrite_of_claimed i.isLt hclaim howner, ite_self]
  · intro u t href
    exact ⟨exec_semOps_of_semRefused hi href, exec_semOps_of_semRefused hi href⟩

end Sys2Proof.Machine
end

section
/-! PROOFS. The test access port: which instructions act, and where (18 R404, 23 R499). -/
namespace Sys2Proof.Machine

theorem exec_extest (s : State) : exec .extest s = .next (s.drives (s.boundary 0x00)) := rfl

theorem exec_samplePreload (s : State) : exec .samplePreload s = .next (s.boundary 0x02) := rfl

theorem exec_intest (s : State) : exec .intest s = .next (s.drives (s.boundary 0x03)) := rfl

theorem exec_clamp (s : State) : exec .clamp s = .next (s.drives (s.tap 0x04 0)) := rfl

theorem exec_highz (s : State) : exec .highz s = .next (s.tap 0x05 0) := rfl

theorem exec_bypass (s : State) : exec .bypass s = .next s.bypass := rfl

theorem exec_idcode (s : State) : exec .idcode s = .next (s.tap 0x01 0x1810054F) := rfl

theorem exec_debugAccess (code : Fin 16) (s : State) : exec (.debugAccess code) s = .next (debugAccess code.val s) := rfl

@[simp] theorem State.tap_port (s : State) (code value : Nat) :
    (s.tap code value).port = { code := BitVec.ofNat 8 code, captured := value } := rfl

theorem State.boundary_eq_tap (s : State) (code : Nat) :
    s.boundary code = s.draw.2.tap code (s.draw.1 % 2 ^ 3210) := rfl

@[simp] theorem State.boundary_port_code (s : State) (code : Nat) : (s.boundary code).port.code = BitVec.ofNat 8 code := by
  rw [State.boundary_eq_tap, State.tap_port]

theorem State.drives_of_anchor {s : State} (h : s.host.state = .anchor) (effect : State) : s.drives effect = effect := if_pos h

theorem State.drives_of_not_anchor {s : State} (h : s.host.state ≠ .anchor) (effect : State) : s.drives effect = s.bypass := if_neg h

/-- A violation is reset source 7, its detail the kind of the violation (18 R407, 22 R471). -/
theorem State.violation_eq_sourceReset (s : State) (detail : Nat) : s.violation detail = s.sourceReset 7 detail := rfl

/-- A sealed device answers a debug access with the violation of R407 alone: nothing is drawn and nothing captured. -/
theorem debugAccess_of_sealed {s : State} (h : s.sec.lifecycle = .sealed) (code : Nat) : debugAccess code s = s.violation 1 :=
  if_pos (.inl h)

/-- Boundary scan is available in every state: none of its instructions faults or is refused (18 R404). -/
theorem exists_exec_scan_eq_next (s : State) :
    ∀ c ∈ [Instr.extest, .samplePreload, .intest, .clamp, .highz, .bypass, .idcode], ∃ t, exec c s = .next t := by
  simp only [List.forall_mem_cons, List.not_mem_nil, false_imp_iff, implies_true, and_true]
  exact ⟨⟨_, exec_extest s⟩, ⟨_, exec_samplePreload s⟩, ⟨_, exec_intest s⟩, ⟨_, exec_clamp s⟩, ⟨_, exec_highz s⟩,
    ⟨_, exec_bypass s⟩, ⟨_, exec_idcode s⟩⟩

section
variable {s : State}

/-- In ANCHOR the instruction register holds the driving instruction's own code, not that of BYPASS. -/
theorem exec_driving_of_anchor (h : s.host.state = .anchor) :
    (∃ t, exec .extest s = .next t ∧ t.port.code = 0x00) ∧ (∃ t, exec .intest s = .next t ∧ t.port.code = 0x03) ∧
      ∃ t, exec .clamp s = .next t ∧ t.port.code = 0x04 := by
  simp only [exec_extest, exec_intest, exec_clamp, State.drives_of_anchor h]
  exact ⟨⟨_, rfl, State.boundary_port_code s 0x00⟩, ⟨_, rfl, State.boundary_port_code s 0x03⟩,
    ⟨_, rfl, congrArg TestPort.code (State.tap_port s 0x04 0)⟩⟩

/-- Elsewhere the three are BYPASS whole, in the state that follows. -/
theorem exec_driving_of_not_anchor (h : s.host.state ≠ .anchor) :
    exec .extest s = exec .bypass s ∧ exec .intest s = exec .bypass s ∧ exec .clamp s = exec .bypass s := by
  simp only [exec_extest, exec_intest, exec_clamp, exec_bypass, State.drives_of_not_anchor h, and_self]

end

/-- Settles O54: `State.drives` is the instruction's effect in ANCHOR (`exec_driving_of_anchor`) and BYPASS elsewhere
(`exec_driving_of_not_anchor`); a sealed device's debug access is a violation (`debugAccess_of_sealed`). -/
theorem boundaryScan : Obligations.BoundaryScan := by
  intro s
  refine ⟨exists_exec_scan_eq_next s, fun hanchor c n hc => ?_, fun hother c hc => ?_, fun hsealed code => ?_⟩
  · obtain ⟨hextest, hintest, hclamp⟩ := exec_driving_of_anchor hanchor
    simp only [List.mem_cons, Prod.mk.injEq, List.not_mem_nil, or_false] at hc
    obtain ⟨rfl, rfl⟩ | ⟨rfl, rfl⟩ | ⟨rfl, rfl⟩ := hc
    · exact hextest
    · exact hintest
    · exact hclamp
  · obtain ⟨hextest, hintest, hclamp⟩ := exec_driving_of_not_anchor hother
    simp only [List.mem_cons, List.not_mem_nil, or_false] at hc
    obtain rfl | rfl | rfl := hc
    · exact hextest
    · exact hintest
    · exact hclamp
  · rw [exec_debugAccess, debugAccess_of_sealed hsealed, State.violation_eq_sourceReset]

end Sys2Proof.Machine
end

section
/-! PROOFS. What every operation of the model leaves alone: the queue, the parts of the machine it does not write, and the canonical form of external
memory (95, each row's parts). -/
set_option Elab.async false
namespace Sys2Proof.Machine

/-! ## Reaching a state by changes of some parts -/

/-- State `s` with the parts of a list as `t` has them. -/
def State.adopt (s t : State) (l : List Part) : State :=
  { pending := s.pending
    clock := if l.contains .clock then t.clock else s.clock
    out := if l.contains .out then t.out else s.out
    events := if l.contains .events then t.events else s.events
    host := if l.contains .host then t.host else s.host
    time := if l.contains .time then t.time else s.time
    radio := if l.contains .radio then t.radio else s.radio
    sweep := if l.contains .sweep then t.sweep else s.sweep
    adapt := if l.contains .adapt then t.adapt else s.adapt
    tiles := if l.contains .tiles then t.tiles else s.tiles
    clusters := if l.contains .clusters then t.clusters else s.clusters
    csps := if l.contains .csps then t.csps else s.csps
    mem := if l.contains .mem then t.mem else s.mem
    wcache := if l.contains .wcache then t.wcache else s.wcache
    sched := if l.contains .sched then t.sched else s.sched
    array := if l.contains .array then t.array else s.array
    capture := if l.contains .capture then t.capture else s.capture
    assured := if l.contains .assured then t.assured else s.assured
    sec := if l.contains .sec then t.sec else s.sec
    power := if l.contains .power then t.power else s.power
    rst := if l.contains .rst then t.rst else s.rst
    net := if l.contains .net then t.net else s.net
    port := if l.contains .port then t.port else s.port
    free := if l.contains .free then t.free else s.free }

/-- `t` comes from `s` by changes of the parts `l` at most: the queue is as it was, and external memory in canonical form stays so. -/
structure Within (l : List Part) (s t : State) : Prop where
  pending : t.pending = s.pending
  memWf : s.memWf = true → t.memWf = true
  same : ∀ p, p ∉ l → p.same s t

/-- The same of the state an operation's result holds, where it holds one. -/
def OpWithin (l : List Part) (s : State) (r : OpRes) : Prop := ∀ t, r = .ok t → Within l s t

/-- The parts of either list. -/
def also (l m : List Part) : List Part := l ++ m

/-- Every part of one list is in another. -/
def covers (l m : List Part) : Bool := m.all l.contains

theorem covers_iff {l m : List Part} : covers l m = true ↔ ∀ p ∈ m, p ∈ l := by simp [covers]

theorem not_mem_also {l m : List Part} {p : Part} : p ∉ also l m ↔ p ∉ l ∧ p ∉ m := by simp [also]

theorem mem_also {l m : List Part} {p : Part} : p ∈ also l m ↔ p ∈ l ∨ p ∈ m := List.mem_append

/-- Lists within a third are so together. -/
theorem also_sub {l m k : List Part} (h : ∀ p ∈ l, p ∈ k) (h' : ∀ p ∈ m, p ∈ k) : ∀ p ∈ also l m, p ∈ k :=
  fun p hp => (mem_also.1 hp).elim (h p) (h' p)

theorem sub_also_left {k l m : List Part} (sub : covers l k = true := by decide +kernel) : ∀ p ∈ k, p ∈ also l m :=
  fun p hp => mem_also.2 (.inl (covers_iff.1 sub p hp))

theorem sub_also_right {l m : List Part} : ∀ p ∈ m, p ∈ also l m := fun _ hp => mem_also.2 (.inr hp)

theorem Part.same_refl (p : Part) (s : State) : p.same s s := by cases p <;> rfl

theorem Part.same_trans {p : Part} {s t u : State} (h : p.same s t) (h' : p.same t u) : p.same s u := by
  cases p <;> exact Eq.trans h' h

/-- A part outside the list is left as it was. -/
theorem State.same_adopt {p : Part} {l : List Part} (hp : p ∉ l) (s t : State) : p.same s (s.adopt t l) := by
  have hc : l.contains p = false := by simpa using hp
  cases p <;> exact if_neg (by rw [hc]; exact Bool.false_ne_true)

variable {l l' m : List Part} {s t u : State} {α : Type}

@[simp] theorem Within.refl : Within [] s s := ⟨rfl, id, fun p _ => p.same_refl s⟩

theorem Within.mono (h : Within m s t) (sub : covers l m = true := by decide +kernel) : Within l s t :=
  ⟨h.pending, h.memWf, fun p hp => h.same p fun hm => hp (covers_iff.1 sub p hm)⟩

theorem Within.weaken (h : Within m s t) (sub : ∀ p ∈ m, p ∈ l) : Within l s t := h.mono (covers_iff.2 sub)

theorem Within.andThen (h : Within l s u) (h' : Within l' u t) : Within (also l l') s t :=
  ⟨h'.pending.trans h.pending, fun hs => h'.memWf (h.memWf hs), fun p hp =>
    have ⟨h1, h2⟩ := not_mem_also.1 hp
    Part.same_trans (h.same p h1) (h'.same p h2)⟩

theorem Within.left (h : Within l s t) : Within (also l l') s t := ⟨h.pending, h.memWf, fun p hp => h.same p (not_mem_also.1 hp).1⟩
theorem Within.right (h : Within l' s t) : Within (also l l') s t := ⟨h.pending, h.memWf, fun p hp => h.same p (not_mem_also.1 hp).2⟩

/-- What an operation does after `h`, by the chain of the operations it is made of. -/
theorem Within.via (h : Within l s u) (h' : Within m u t) (sub : covers l' m = true := by decide +kernel) : Within (also l l') s t :=
  h.andThen (h'.mono sub)

/-- States the parts of a chain. -/
theorem Within.on (l : List Part) (h : Within l s t) : Within l s t := h

/-- A state that takes only some parts from another, its memory's form kept. -/
theorem Within.of_adopt (ht : u.adopt t l = t) (hm : u.memWf = true → t.memWf = true) : Within l u t :=
  ⟨by rw [← ht]; rfl, hm, fun p hp => by rw [← ht]; exact State.same_adopt hp u t⟩

/-- An update of some fields beside the queue and external memory. -/
theorem Within.patch (h : Within l s u) (l' : List Part) (ht : u.adopt t l' = t := by rfl) (hm : l'.contains .mem = false := by decide +kernel) :
    Within (also l l') s t := by
  have hmem : .mem ∉ l' := by simpa using hm
  refine h.andThen (.of_adopt ht (memWf_of_mem ?_))
  rw [← ht]; exact State.same_adopt hmem u t

theorem Within.ite {c : Prop} [Decidable c] {t t' : State} (h : Within l s t) (h' : Within l' s t') :
    Within (also l l') s (if c then t else t') := by
  split
  · exact h.left
  · exact h'.right

theorem Within.dite {c : Prop} [Decidable c] {t : c → State} {t' : ¬ c → State} (h : ∀ x, Within l s (t x)) (h' : ∀ x, Within l' s (t' x)) :
    Within (also l l') s (if x : c then t x else t' x) := by
  split
  · exact (h _).left
  · exact (h' _).right

/-- Repeating what stays within some parts stays within them. -/
theorem Within.repeated {f : State → α → State} (hf : ∀ t x, Within l t (f t x)) (xs : List α) (s : State) : Within l s (xs.foldl f s) := by
  induction xs generalizing s with
  | nil => exact ⟨rfl, id, fun p _ => p.same_refl s⟩
  | cons x xs ih =>
    obtain ⟨hq, hm, hp⟩ := (hf s x).andThen (ih (f s x))
    exact ⟨hq, hm, fun p h => hp p (not_mem_also.2 ⟨h, h⟩)⟩

theorem Within.foldl {f : State → α → State} {xs : List α} (h : Within l s u) (hf : ∀ t x, Within l' t (f t x)) :
    Within (also l l') s (xs.foldl f u) := h.andThen (Within.repeated hf xs u)

/-! ## The same for an operation's result -/

theorem OpWithin.any_fault {c : Half} : OpWithin l s (.fault c) := by rintro _ ⟨⟩
theorem OpWithin.any_hold {x : Hold} : OpWithin l s (.hold x) := by rintro _ ⟨⟩
theorem OpWithin.left {r : OpRes} (h : OpWithin l s r) : OpWithin (also l l') s r := fun t ht => (h t ht).left
theorem OpWithin.right {r : OpRes} (h : OpWithin l' s r) : OpWithin (also l l') s r := fun t ht => (h t ht).right

theorem OpWithin.ok (h : Within l s t) : OpWithin l s (.ok t) := by rintro _ ⟨⟩; exact h
theorem OpWithin.fault {c : Half} : OpWithin [] s (.fault c) := by rintro _ ⟨⟩
theorem OpWithin.hold {x : Hold} : OpWithin [] s (.hold x) := by rintro _ ⟨⟩
theorem OpWithin.mono {r : OpRes} (h : OpWithin m s r) (sub : covers l m = true := by decide +kernel) : OpWithin l s r := fun t ht => (h t ht).mono
    sub
theorem OpWithin.weaken {r : OpRes} (h : OpWithin m s r) (sub : ∀ p ∈ m, p ∈ l) : OpWithin l s r := h.mono (covers_iff.2 sub)
theorem OpWithin.on (l : List Part) {r : OpRes} (h : OpWithin l s r) : OpWithin l s r := h
theorem Within.andThenOp {r : OpRes} (h : Within l s u) (h' : OpWithin l' u r) : OpWithin (also l l') s r := fun t ht => h.andThen (h' t ht)
theorem Within.viaOp {r : OpRes} (h : Within l s u) (h' : OpWithin m u r) (sub : covers l' m = true := by decide +kernel) : OpWithin (also l l') s r
    :=
  h.andThenOp (h'.mono sub)
theorem OpWithin.ite {c : Prop} [Decidable c] {r r' : OpRes} (h : OpWithin l s r) (h' : OpWithin l' s r') :
    OpWithin (also l l') s (if c then r else r') := by
  split
  · exact fun t ht => (h t ht).left
  · exact fun t ht => (h' t ht).right
theorem OpWithin.iteSame {c : Prop} [Decidable c] {r r' : OpRes} (h : OpWithin l s r) (h' : OpWithin l s r') : OpWithin l s (if c then r else r') :=
    by
  split
  · exact h
  · exact h'
theorem OpWithin.dite {c : Prop} [Decidable c] {r : c → OpRes} {r' : ¬ c → OpRes} (h : ∀ x, OpWithin l s (r x)) (h' : ∀ x, OpWithin l' s (r' x)) :
    OpWithin (also l l') s (if x : c then r x else r' x) := by
  split
  · exact fun t ht => (h _ t ht).left
  · exact fun t ht => (h' _ t ht).right

/-! ## What each operation stays within -/

theorem Within.setNet {x : Net} (h : Within l s u) :
    Within (also l [.net]) s (u.setNet x) := h.via ((Within.refl.patch [.net]))

theorem Within.setPort {p : Nat} {x : Port} (h : Within l s u) :
    Within (also l [.net]) s (u.setPort p x) := h.via Within.refl.setNet

theorem Within.modPort {p : Nat} {f : Port → Port} (h : Within l s u) :
    Within (also l [.net]) s (u.modPort p f) := h.via Within.refl.setPort

theorem Within.setCapture {x : Capture} (h : Within l s u) :
    Within (also l [.capture]) s (u.setCapture x) := h.via ((Within.refl.patch [.capture]))

theorem Within.replayTaken (h : Within l s u) :
    Within (also l [.capture]) s u.replayTaken := h.via Within.refl.setCapture

/-- External memory may change in what its form does not speak of. -/
theorem Within.setMem {x : ExtMem} (h : Within l s u) (hb : x.bytes = u.mem.bytes := by rfl) (hk : x.unitKey = u.mem.unitKey := by rfl) :
    Within (also l [.mem]) s (u.setMem x) :=
  h.andThen (.of_adopt rfl fun hu => by simpa [State.memWf, State.setMem, hb, hk] using hu)

theorem Within.writeUnit {a : Nat} {bs : List Byte} (h : Within l s u) : Within (also l [.mem]) s (u.writeUnit a bs) := by
  obtain ⟨x, hx⟩ := writeUnit_rest u a bs
  exact h.andThen (.of_adopt (by rw [hx]; rfl) fun hu => writeUnit_memWf hu a bs)

theorem Within.writeUnits {fuel : Nat} {a : Nat} {bs : List Byte} (h : Within l s u) : Within (also l [.mem]) s (State.writeUnits fuel u a bs) := by
  obtain ⟨x, hx⟩ := writeUnits_rest fuel u a bs
  exact h.andThen (.of_adopt (by rw [hx]; rfl) fun hu => writeUnits_memWf fuel a bs hu)

theorem Within.setWcache {x : WeightCache} (h : Within l s u) :
    Within (also l [.wcache]) s (u.setWcache x) := h.via ((Within.refl.patch [.wcache]))

theorem Within.wcInvalidate {a : Nat} {n : Nat} (h : Within l s u) :
    Within (also l [.wcache]) s (u.wcInvalidate a n) := h.via Within.refl.setWcache

theorem Within.record {code : Half} {unit : Nat} {params : List Nat} (h : Within l s u) :
    Within (also l [.events]) s (u.record code unit params) := h.via (Within.ite ((Within.refl.patch [.events])) ((Within.refl.patch [.events])))

theorem Within.memUe {a : Nat} (h : Within l s u) :
    Within (also l [.events, .mem]) s (u.memUe a) := h.via Within.refl.setMem.record

theorem Within.extWrite {a : Nat} {bs : List Byte} (h : Within l s u) :
    Within (also l [.events, .mem, .wcache]) s (u.extWrite a bs) := h.via (Within.ite Within.refl
        (Within.ite Within.refl.writeUnits.wcInvalidate.memUe Within.refl.writeUnits.wcInvalidate))

theorem Within.ringPut {domain : Nat} {e0 : CapEntry} (h : Within l s u) :
    Within (also l [.events, .mem, .wcache, .capture]) s (u.ringPut domain e0) := h.via Within.refl.extWrite.setCapture

theorem capturePut_within : ∀ (a : List CapEntry) (u : State), Within [.events, .mem, .wcache, .capture] u (State.capturePut a u).1
  | [], _ => Within.refl.mono
  | e :: r, u => by
    unfold State.capturePut
    split
    · exact (Within.refl.ringPut.andThen (capturePut_within r _)).mono
    · exact Within.refl.mono

theorem Within.capturePut {a : List CapEntry} (h : Within l s u) :
    Within (also l [.events, .mem, .wcache, .capture]) s ((State.capturePut a u).1) := h.andThen (capturePut_within a u)

theorem Within.captureFlush (h : Within l s u) :
    Within (also l [.events, .mem, .wcache, .capture]) s u.captureFlush := h.via Within.refl.capturePut.setCapture

theorem Within.captureEnd (h : Within l s u) :
    Within (also l [.events, .mem, .wcache, .capture]) s u.captureEnd := h.via Within.refl.captureFlush.ringPut.setCapture

theorem Within.captureItem {kind : Nat} {port : Nat} {domain : Nat} {payload : List Byte} (h : Within l s u) :
    Within (also l [.events, .mem, .wcache, .capture]) s (u.captureItem kind port domain payload) := h.via
        (Within.ite Within.refl (Within.ite ((Within.ite Within.refl.captureFlush Within.refl).setCapture)
        ((Within.ite Within.refl.captureFlush Within.refl).capturePut.setCapture.record.captureEnd)))

theorem Within.inferenceInput {port : Nat} {r : Reasm} (h : Within l s u) :
    Within (also l [.events, .mem, .wcache, .net]) s (u.inferenceInput port r) := h.via
        (Within.ite Within.refl (Within.ite Within.refl.extWrite Within.refl.modPort))

theorem Within.aqmor {port : Nat} {sender : List Byte} {g : AqmorSeg} (h : Within l s u) :
    Within (also l [.events, .mem, .wcache, .net]) s (u.aqmor port sender g) := h.andThen <| by
  unfold State.aqmor
  dsimp only
  split
  · exact (Within.ite ((Within.ite Within.refl.setPort.setNet Within.refl.setPort).inferenceInput)
        (Within.ite Within.refl.setPort.setNet Within.refl.setPort)).mono
  · exact (Within.ite Within.refl.setPort.setNet Within.refl.setPort).mono

theorem Within.frameReceive {port : Nat} {f : NpFrame} (h : Within l s u) :
    Within (also l [.events, .mem, .wcache, .capture, .net]) s (frameReceive port f u) := h.andThen <| by
  unfold Machine.frameReceive
  split
  · exact Within.refl.mono
  · split
    · exact Within.refl.modPort.mono
    · dsimp only
      split
      · exact ((Within.ite Within.refl.replayTaken Within.refl).modPort).mono
      · split
        · exact ((Within.ite Within.refl.replayTaken Within.refl).captureItem.aqmor).mono
        · exact ((Within.ite Within.refl.replayTaken Within.refl).captureItem).mono

theorem Within.emit {o : Out} (h : Within l s u) :
    Within (also l [.out]) s (u.emit o) := h.via ((Within.refl.patch [.out]))

theorem Within.mkaEnd {port : Nat} {cak : List Byte} (h : Within l s u) :
    Within (also l [.out, .net]) s (mkaEnd port cak u) := h.via (Within.ite Within.refl.modPort.emit Within.refl)

theorem Within.addressReply {port : Nat} {v6 : Bool} {target : List Byte} (h : Within l s u) :
    Within (also l [.out]) s (addressReply port v6 target u) := h.via (Within.ite Within.refl.emit Within.refl)

theorem Within.setPower {x : Power} (h : Within l s u) :
    Within (also l [.power]) s (u.setPower x) := h.via ((Within.refl.patch [.power]))

theorem Within.setPowerOf {d : Nat} {p : PowerSt} (h : Within l s u) :
    Within (also l [.power]) s (u.setPowerOf d p) := h.via Within.refl.setPower

theorem Within.wakeDomain {d : Nat} (h : Within l s u) :
    Within (also l [.power]) s (u.wakeDomain d) := h.via (Within.ite Within.refl (Within.on [.power] (by
      split
      · exact Within.refl.setPowerOf.mono
      · exact Within.refl.setPowerOf.mono
      · exact Within.refl.mono)))

theorem Within.wakeTile {t : Nat} (h : Within l s u) :
    Within (also l [.power]) s (u.wakeTile t) := h.via (Within.ite Within.refl Within.refl.wakeDomain.wakeDomain)

theorem Within.preWake {n : Nat} (h : Within l s u) :
    Within (also l [.power]) s (preWake n u) := h.andThen <| by
  unfold Machine.preWake
  split
  · exact (Within.ite (Within.refl.foldl (fun t x => Within.refl.wakeTile)) Within.refl).mono
  · exact Within.refl.mono

theorem Within.draw (h : Within l s u) :
    Within (also l [.free]) s u.draw.2 := h.via ((Within.refl.patch [.free]))

theorem Within.setHost {x : HostPort} (h : Within l s u) :
    Within (also l [.host]) s (u.setHost x) := h.via ((Within.refl.patch [.host]))

theorem Within.logWrite {r : LogRing} {level : Nat} {v : Nat} (h : Within l s u) :
    Within (also l [.events, .host, .mem, .wcache]) s (u.logWrite r level v) := h.via Within.refl.extWrite.setHost.extWrite

theorem Within.tracePoint {lo : Nat} {hi : Nat} (h : Within l s u) :
    Within (also l [.events, .host, .mem, .wcache, .free]) s (u.tracePoint lo hi) := h.andThen <| by
  unfold State.tracePoint
  split
  · exact (Within.ite ((Within.refl.patch [.free]).logWrite) ((Within.refl.patch [.free]))).mono
  · exact Within.refl.mono

theorem Within.traced {lo hi : Nat} {s' : State} (h : Within l s u) :
    Within (also l [.events, .host, .mem, .wcache, .free]) s (traced lo hi s' u) :=
  h.via (Within.ite (Within.ite Within.refl Within.refl.tracePoint) Within.refl)

theorem Within.setSched {x : Sched} (h : Within l s u) :
    Within (also l [.sched]) s (u.setSched x) := h.via ((Within.refl.patch [.sched]))

theorem Within.modGraph {job : Word} {f : Graph → Graph} (h : Within l s u) :
    Within (also l [.sched]) s (u.modGraph job f) := h.via Within.refl.setSched

theorem Within.writeStatus {ref : TaskRef} {t : TaskSt} (h : Within l s u) :
    Within (also l [.events, .mem, .wcache]) s (u.writeStatus ref t) := h.andThen <| by
  unfold State.writeStatus
  split
  · exact Within.refl.extWrite.mono
  · exact Within.refl.mono

theorem Within.modTask {ref : TaskRef} {tile : Nat} {f : TaskSt → TaskSt} (h : Within l s u) :
    Within (also l [.events, .mem, .wcache, .sched]) s (u.modTask ref tile f) := h.andThen <| by
  unfold State.modTask
  split
  · exact Within.refl.mono
  · exact ((Within.on [.events, .mem, .wcache, .sched] (by
      split
      · exact Within.refl.modGraph.mono
      · exact Within.refl.setSched.mono
      · exact Within.refl.setSched.mono)).writeStatus).mono

theorem Within.setTile {t : Nat} {x : Tile} (h : Within l s u) :
    Within (also l [.tiles]) s (u.setTile t x) := h.via ((Within.refl.patch [.tiles]))

theorem Within.modTile {t : Nat} {f : Tile → Tile} (h : Within l s u) :
    Within (also l [.tiles]) s (u.modTile t f) := h.via Within.refl.setTile

theorem Within.unload {t : Nat} (h : Within l s u) :
    Within (also l [.events, .tiles, .mem, .wcache, .sched]) s (u.unload t) := h.andThen <| by
  unfold State.unload
  dsimp only
  split
  · exact Within.refl.mono
  · split
    · exact Within.refl.modTile.modTask.setSched.mono
    · exact Within.refl.modTile.modTask.mono

theorem Within.preemptTile {t : Nat} (h : Within l s u) :
    Within (also l [.events, .tiles, .mem, .wcache, .sched]) s (preemptTile t u) := h.andThen <| by
  unfold Machine.preemptTile
  split
  · exact Within.refl.unload.mono
  · exact Within.refl.modTile.mono
  · exact Within.refl.mono

theorem Within.claimTile {n : Nat} {t : Nat} (h : Within l s u) :
    Within (also l [.events, .tiles, .mem, .wcache, .sched]) s (claimTile n u t) := h.via
        (Within.ite Within.refl.setSched.preemptTile (Within.ite Within.refl.setSched.modTile Within.refl.setSched))

theorem Within.preempts {n : Nat} (h : Within l s u) :
    Within (also l [.events, .tiles, .mem, .wcache, .sched]) s (preempts n u) := h.andThen <| by
  unfold Machine.preempts
  split
  · exact (Within.ite (Within.refl.foldl (fun t x => Within.refl.claimTile)) Within.refl).mono
  · exact Within.refl.mono

theorem Within.modBody {t : Nat} {f : TileBody → TileBody} (h : Within l s u) :
    Within (also l [.tiles]) s (u.modBody t f) := h.via Within.refl.modTile

theorem Within.setArray {x : ArrayState} (h : Within l s u) :
    Within (also l [.array]) s (u.setArray x) := h.via ((Within.refl.patch [.array]))

theorem Within.setLink {k : Nat} {l' : Link} (h : Within l s u) :
    Within (also l [.array]) s (u.setLink k l') := h.via Within.refl.setArray

theorem Within.putFlit {k : Nat} {tile : Nat} {f : Flit} (h : Within l s u) :
    Within (also l [.out, .array]) s (u.putFlit k tile f) := h.via (Within.ite Within.refl.setLink.emit Within.refl.setLink)

theorem Within.sendFlit {k : Nat} {tile : Nat} {f : Flit} (h : Within l s u) :
    Within (also l [.out, .array]) s (u.sendFlit k tile f) := h.via (Within.ite Within.refl.putFlit Within.refl.setLink)

theorem Within.countIv {src : Nat} {dst : Nat} {cls : Nat} (h : Within l s u) :
    Within (also l [.array]) s (u.countIv src dst cls) := h.via Within.refl.setArray

theorem Within.sendFar {m : FarMsg} (h : Within l s u) :
    Within (also l [.out, .array]) s (u.sendFar m) := h.via (Within.refl.countIv.foldl (fun t x => Within.refl.sendFlit))

theorem Within.tellDevice {kind : Nat} {cls : JobClass} {job : Word} {dev : Nat} {tile : Nat} {addr : Nat} {code : Nat} (h : Within l s u) :
    Within (also l [.out, .array]) s (u.tellDevice kind cls job dev tile addr code) := h.via Within.refl.sendFar

theorem Within.revokeNotice {t : Nat} {slot : Nat} {cls : JobClass} {job : Word} {w : Writer} (h : Within l s u) :
    Within (also l [.out, .tiles, .array]) s (u.revokeNotice t slot cls job w) := h.andThen <| by
  unfold State.revokeNotice
  split
  · exact Within.refl.modBody.mono
  · exact Within.refl.tellDevice.mono
  · exact Within.refl.emit.mono

theorem Within.revokePolder {t : Nat} {p : Nat} (h : Within l s u) :
    Within (also l [.out, .tiles, .array]) s (u.revokePolder t p) := h.via ((Within.refl.setTile.foldl (fun t x => Within.refl.revokeNotice)).foldl
        (fun t x => Within.refl.foldl (fun t x => Within.refl.revokeNotice)))

theorem Within.dropValid {t : Nat} {keep : Nat → Bool} (h : Within l s u) :
    Within (also l [.sched]) s (u.dropValid t keep) := h.via Within.refl.setSched

theorem Within.endCredits {t : Nat} (h : Within l s u) :
    Within (also l [.tiles]) s (u.endCredits t) := h.via (Within.refl.foldl (fun t x => Within.refl.modTile))

theorem Within.zeroiseStart {t : Nat} {next : Domain} {kill : Bool} (h : Within l s u) :
    Within (also l [.out, .tiles, .sched, .array]) s (u.zeroiseStart t next kill) := h.andThen <| by
  have hrevoked := (Within.refl (s := u)).foldl (xs := upTo 24) (f := fun s p => s.revokePolder t p) fun _ _ => Within.refl.revokePolder
  unfold State.zeroiseStart
  exact hrevoked.endCredits.dropValid.modTile.mono

theorem Within.tileRefusal {t : Nat} (h : Within l s u) :
    Within (also l [.events]) s (u.tileRefusal t) := h.via Within.refl.record

theorem Within.assignTile {t : Nat} {d : Domain} (h : Within l s u) :
    Within (also l [.out, .events, .tiles, .sched, .array]) s (assignTile t d u) := h.andThen <| by
  unfold Machine.assignTile
  extract_lets x
  split
  · exact Within.refl.mono
  · split
    · exact Within.refl.zeroiseStart.mono
    · exact Within.refl.zeroiseStart.mono
    · exact Within.refl.tileRefusal.mono

theorem Within.toRadio {n : Nat} {t : Nat} (h : Within l s u) :
    Within (also l [.out, .events, .tiles, .sched, .array]) s (toRadio n u t) := h.via (Within.ite Within.refl.assignTile Within.refl)

theorem Within.reassigns {n : Nat} (h : Within l s u) :
    Within (also l [.out, .events, .tiles, .sched, .array]) s (reassigns n u) := h.andThen <| by
  unfold Machine.reassigns
  split
  · exact (Within.refl.foldl (fun t x => Within.refl.toRadio)).mono
  · exact Within.refl.mono

theorem Within.setRadio {x : Radio} (h : Within l s u) :
    Within (also l [.radio]) s (u.setRadio x) := h.via ((Within.refl.patch [.radio]))

theorem Within.setCell {c : Nat} {x : CellSt} (h : Within l s u) :
    Within (also l [.radio]) s (u.setCell c x) := h.via Within.refl.setRadio

theorem Within.modCell {c : Nat} {f : CellSt → CellSt} (h : Within l s u) :
    Within (also l [.radio]) s (u.modCell c f) := h.via Within.refl.setCell

theorem Within.setDlSlot {cell : Nat} {slot : Nat} {x : Option DlSlot} (h : Within l s u) :
    Within (also l [.radio]) s (u.setDlSlot cell slot x) := h.via Within.refl.modCell

theorem Within.holdSrs {cell : Nat} {slot : Nat} (h : Within l s u) :
    Within (also l [.radio]) s (holdSrs cell slot u) := h.andThen <| by
  unfold Machine.holdSrs
  split
  · exact (Within.ite Within.refl Within.refl.setDlSlot).mono
  · exact Within.refl.mono

theorem Within.setUlSlot {cell : Nat} {slot : Nat} {x : Option UlSlot} (h : Within l s u) :
    Within (also l [.radio]) s (u.setUlSlot cell slot x) := h.via Within.refl.modCell

theorem Within.yieldTraining {n : Nat} (h : Within l s u) :
    Within (also l [.events, .tiles, .mem, .wcache, .sched]) s (u.yieldTraining n) := h.via
        (Within.refl.foldl (fun t x => Within.ite Within.refl.preemptTile Within.refl))

theorem Within.closeIntake {cell : Nat} {slot : Nat} (h : Within l s u) :
    Within (also l [.events, .radio, .tiles, .mem, .wcache, .sched]) s (closeIntake cell slot u) := h.andThen <| by
  unfold Machine.closeIntake
  split
  · exact Within.refl.mono
  · exact (Within.ite Within.refl (Within.ite Within.refl.modCell.setUlSlot.yieldTraining Within.refl.modCell.setUlSlot)).mono

theorem Within.loadTile {t : Nat} {ref : TaskRef} {l' : LoadPlan} (h : Within l s u) :
    Within (also l [.events, .tiles, .mem, .wcache, .sched, .power]) s (u.loadTile t ref l') := h.via Within.refl.setTile.wakeTile.modTask

theorem Within.loadRadio {n : Nat} {e : CycEntry} {ref : TaskRef} {seed : Dword} {t : Nat} (h : Within l s u) :
    Within (also l [.events, .tiles, .mem, .wcache, .sched, .power]) s (u.loadRadio n e ref seed t) := h.via
        ((Within.on [.events, .tiles, .mem, .wcache, .sched, .power] (by
      split
      · exact Within.refl.setSched.mono
      · exact Within.refl.setSched.mono)).modTile.loadTile)

theorem Within.loadEntry {n : Nat} {e : CycEntry} {t : Nat} (h : Within l s u) :
    Within (also l [.events, .tiles, .mem, .wcache, .sched, .power]) s (loadEntry n e u t) := h.via
        (Within.ite Within.refl.loadRadio.setSched Within.refl)

theorem Within.setCsp {c : Nat} {x : Csp} (h : Within l s u) :
    Within (also l [.csps]) s (u.setCsp c x) := h.via ((Within.refl.patch [.csps]))

theorem Within.startProgram {e : CycEntry} {c : Nat} (h : Within l s u) :
    Within (also l [.csps]) s (startProgram e u c) := h.via (Within.ite Within.refl Within.refl.setCsp)

theorem Within.entryOffset {n : Nat} {slot : AbsSlot} (h : Within l s u) :
    Within (also l [.events, .radio, .tiles, .csps, .mem, .wcache, .sched, .power]) s (entryOffset n slot u) := h.andThen <| by
  unfold Machine.entryOffset
  split
  · exact (Within.ite Within.refl (Within.ite (((Within.ite Within.refl.closeIntake.holdSrs Within.refl).setSched).foldl
        (fun t x => Within.refl.loadEntry)) (Within.ite (Within.refl.foldl (fun t x => Within.refl.startProgram)) Within.refl))).mono
  · exact Within.refl.mono

theorem Within.toInference {n : Nat} {t : Nat} (h : Within l s u) :
    Within (also l [.out, .events, .tiles, .sched, .array]) s (toInference n u t) := h.via
        (Within.ite (Within.ite Within.refl.setSched.assignTile Within.refl.setSched) Within.refl)

theorem Within.claimEnd {n : Nat} (h : Within l s u) :
    Within (also l [.out, .events, .tiles, .sched, .array]) s (claimEnd n u) := h.andThen <| by
  unfold Machine.claimEnd
  dsimp only
  split
  · exact (Within.ite ((((Within.refl.foldl fun t x => Within.refl.toInference).setSched).foldl fun t x => Within.refl.toInference))
        ((Within.refl.foldl fun t x => Within.refl.toInference))).mono
  · exact ((Within.refl.foldl fun t x => Within.refl.toInference)).mono

theorem Within.setSession {n : Nat} {x : Option Session} (h : Within l s u) :
    Within (also l [.host]) s (u.setSession n x) := h.via Within.refl.setHost

theorem Within.reply {h' : QcpHdr} {hw : Bool} {code : Half} {body : ReplyBody} (h : Within l s u) :
    Within (also l [.out, .host]) s (u.reply h' hw code body) := h.via ((Within.on [.out, .host] (by
      split
      · exact Within.refl.setSession.mono
      · exact Within.refl.mono)).emit)

theorem Within.serveAs {q : QcpHdr} {r : MsgRow} {role : Role} {start : Bool} {body : State → State × Answer} (h : Within l s u)
    (hb : ∀ t, Within l' t (body t).1) :
    Within (also l (also [.out, .events, .host, .mem, .wcache, .capture] l')) s (serveAs u q r role start body) := by
  have hserved : Within (also [.out, .events, .host, .mem, .wcache, .capture] l') u
      (match body (if r.reads || (body u).2.refuses then u else u.captureItem 2 (8 + q.port.val) 2 q.raw) with
       | (s2, .now code b) => s2.reply q r.hw code b
       | (s2, .later) => s2) := by
    have hheard := (Within.ite Within.refl Within.refl.captureItem).andThen (hb (if r.reads || (body u).2.refuses then u else u.captureItem 2
        (8 + q.port.val) 2 q.raw))
    split
    · rename_i hbody
      rw [hbody] at hheard
      exact hheard.reply.weaken (also_sub (also_sub sub_also_left sub_also_right) sub_also_left)
    · rename_i hbody
      rw [hbody] at hheard
      exact hheard.weaken (also_sub sub_also_left sub_also_right)
  refine h.andThen ?_
  unfold Machine.serveAs
  split
  · exact Within.refl.reply.mono.left
  · split
    · exact (Within.ite Within.refl.record Within.refl).reply.mono.left
    · split
      · exact Within.refl.reply.mono.left
      · split
        · exact Within.refl.reply.mono.left
        · exact hserved

theorem Within.mbxDrop (h : Within l s u) :
    Within (also l [.host]) s u.mbxDrop := h.via Within.refl.setHost

theorem Within.serve {q : QcpHdr} {r : MsgRow} {body : State → State × Answer} {start : Bool} (h : Within l s u) (hb : ∀ t, Within l' t (body t).1) :
    Within (also l (also [.out, .events, .host, .mem, .wcache, .capture] l')) s (serve u q r body start) := by
  refine h.andThen ?_
  unfold Machine.serve
  split
  · exact Within.refl.mono.left
  · split
    · exact (Within.refl.replayTaken.serveAs hb).weaken (by simp [also])
    · split
      · exact Within.refl.mbxDrop.mono.left
      · split
        · exact Within.refl.mbxDrop.mono.left
        · split
          · exact Within.refl.emit.mono.left
          · exact Within.refl.mono.left
        · dsimp only
          split
          · exact Within.refl.setSession.reply.mono.left
          · exact (Within.refl.setSession.serveAs hb).weaken (by simp [also])

theorem Within.radioPower (h : Within l s u) :
    Within (also l [.power]) s u.radioPower := h.via (Within.refl.foldl (fun t x => Within.ite Within.refl.wakeDomain (Within.on [.power] (by
        split
        · exact Within.refl.setPowerOf.mono
        · exact Within.refl.setPowerOf.mono
        · exact Within.refl.mono))))

theorem Within.setAset {a : Nat} {x : AdaptSet} (h : Within l s u) :
    Within (also l [.adapt]) s (u.setAset a x) := h.via ((Within.refl.patch [.adapt]))

theorem Within.adaptTo {n : Nat} {code : Half} {st : AdaptState} {vs : Word × Word} (h : Within l s u) :
    Within (also l [.events, .host, .adapt, .mem, .wcache, .free]) s (u.adaptTo n code st vs) := h.via
        (Within.ite Within.refl Within.refl.setAset.record.tracePoint)

theorem Within.shapeOff {n : Nat} (h : Within l s u) :
    Within (also l [.events, .host, .adapt, .mem, .wcache, .free]) s (u.shapeOff n) := h.via Within.refl.setAset.adaptTo

theorem Within.cellApply {cell : Nat} {u' : UlCell} {d : DlCell} (h : Within l s u) :
    Within (also l [.events, .host, .radio, .adapt, .mem, .wcache, .power, .free]) s (u.cellApply cell u' d) := h.andThen <| by
  unfold State.cellApply
  dsimp only
  split
  · exact (Within.ite Within.refl.setCell.radioPower.shapeOff Within.refl.setCell.radioPower).mono
  · exact Within.refl.setCell.radioPower.mono

theorem Within.cellConfigBody {x : UlCell} {d : DlCell} (h : Within l s u) :
    Within (also l [.events, .host, .radio, .adapt, .mem, .wcache, .power, .free]) s (cellConfigBody x d u).1 := h.andThen <| by
  unfold Machine.cellConfigBody
  extract_lets n
  split
  · exact Within.refl.mono
  · split
    · exact Within.refl.mono
    · split
      · exact Within.refl.cellApply.mono
      · dsimp only
        exact Within.refl.modCell.mono

theorem newPuschs_within (late : Bool) : ∀ (seen xs : List Pusch) (u : State), Within [.free] u (newPuschs late seen xs u).2
  | _, [], _ => Within.refl.mono
  | _, _ :: r, _ => (Within.refl.draw.andThen (newPuschs_within late _ r _)).mono

theorem Within.newPuschs {late : Bool} {seen xs : List Pusch} (h : Within l s u) : Within (also l [.free]) s (newPuschs late seen xs u).2 :=
  h.andThen (newPuschs_within late seen xs u)

theorem newPucchs_within (late : Bool) : ∀ (xs : List Pucch) (u : State), Within [.free] u (newPucchs late xs u).2
  | [], _ => Within.refl.mono
  | _ :: r, _ => (Within.refl.draw.andThen (newPucchs_within late r _)).mono

theorem Within.newPucchs {late : Bool} {xs : List Pucch} (h : Within l s u) : Within (also l [.free]) s (newPucchs late xs u).2 :=
  h.andThen (newPucchs_within late xs u)

theorem Within.ulAccept {u' : UlCell} {c : UlSlotCfg} {t0 : Nat} {late : Bool} (h : Within l s u) :
    Within (also l [.radio, .free]) s (ulAccept u' c t0 late u) := h.via Within.refl.newPuschs.newPucchs.modCell.setUlSlot

theorem Within.ulSlotConfig {c : UlSlotCfg} {t0 : Nat} (h : Within l s u) :
    Within (also l [.events, .radio, .free]) s (ulSlotConfig c t0 u) := h.via (Within.ite Within.refl
        (Within.ite Within.refl.modCell (Within.on [.events, .radio, .free] (by
      split
      · exact Within.refl.record.mono
      · exact (Within.ite Within.refl.record (Within.ite Within.refl.record Within.refl.ulAccept)).mono))))

theorem Within.uplaneSection {sec : USection} {t0 : Nat} (h : Within l s u) :
    Within (also l [.radio]) s (uplaneSection sec t0 u) := h.andThen <| by
  unfold Machine.uplaneSection
  dsimp only
  split
  · exact Within.refl.mono
  · exact (Within.ite Within.refl (Within.ite Within.refl.modCell (Within.ite Within.refl.modCell
        (Within.ite Within.refl.modCell Within.refl.setUlSlot)))).mono

theorem Within.setUser {u' : Nat} {x : UserCtx} (h : Within l s u) :
    Within (also l [.radio]) s (u.setUser u' x) := h.via Within.refl.setRadio

theorem Within.stageOne {cell : Nat} {p : PuschSt} (h : Within l s u) :
    Within (also l [.radio]) s ((stageOne cell p u).2) := h.andThen <| by
  unfold Machine.stageOne
  dsimp only
  split
  · exact Within.refl.mono
  · split
    · exact Within.refl.setUser.mono
    · exact Within.refl.setUser.mono

theorem stageAll_within (cell : Nat) : ∀ (ps : List PuschSt) (u : State), Within [.radio] u (stageAll cell ps u).2
  | [], _ => Within.refl.mono
  | _ :: r, _ => (Within.refl.stageOne.andThen (stageAll_within cell r _)).mono

theorem Within.stageAll {cell : Nat} {ps : List PuschSt} (h : Within l s u) : Within (also l [.radio]) s (stageAll cell ps u).2 :=
  h.andThen (stageAll_within cell ps u)

theorem Within.harqStart {cell : Nat} {slot : Nat} (h : Within l s u) :
    Within (also l [.radio]) s (harqStart cell slot u) := h.andThen <| by
  unfold Machine.harqStart
  split
  · exact (Within.ite Within.refl Within.refl.stageAll.setUlSlot).mono
  · exact Within.refl.mono

theorem Within.readPage {a : Nat} (h : Within l s u) :
    Within (also l [.events, .mem]) s ((u.readPage a).2) := h.andThen <| by
  unfold State.readPage
  split
  · exact Within.refl.memUe.mono
  · exact Within.refl.mono

theorem readPages_within : ∀ (as : List Nat) (u : State), Within [.events, .mem] u (State.readPages as u).2
  | [], _ => Within.refl.mono
  | _ :: r, _ => (Within.refl.readPage.andThen (readPages_within r _)).mono

theorem Within.readPages {as : List Nat} (h : Within l s u) : Within (also l [.events, .mem]) s (State.readPages as u).2 :=
  h.andThen (readPages_within as u)

theorem Within.setHarq {ue : Nat} {h' : Nat} {p : HarqProc} (h : Within l s u) :
    Within (also l [.radio]) s (u.setHarq ue h' p) := h.via Within.refl.setUser

theorem Within.freePages {cell : Nat} {ps : List Nat} (h : Within l s u) :
    Within (also l [.radio]) s (u.freePages cell ps) := h.via Within.refl.modCell

theorem Within.releaseHarq {cell : Nat} {ue : Nat} {h' : Nat} (h : Within l s u) :
    Within (also l [.radio]) s (u.releaseHarq cell ue h') := h.via Within.refl.freePages.setHarq

theorem Within.setBank {b : Nat} {x : BankSt} (h : Within l s u) :
    Within (also l [.radio]) s (u.setBank b x) := h.via Within.refl.setRadio

theorem Within.bankQueue {b : Nat} {add : Nat} {sub : Nat} (h : Within l s u) :
    Within (also l [.radio]) s (u.bankQueue b add sub) := h.via Within.refl.setBank

theorem Within.modPusch {cell : Nat} {slot : Nat} {i : Nat} {f : PuschSt → PuschSt} (h : Within l s u) :
    Within (also l [.radio]) s (u.modPusch cell slot i f) := h.andThen <| by
  unfold State.modPusch
  split
  · exact Within.refl.setUlSlot.mono
  · exact Within.refl.mono

theorem Within.combineBlocks {cell : Nat} {slot : Nat} {i : Nat} (h : Within l s u) :
    Within (also l [.radio]) s (combineBlocks cell slot i u) := h.andThen <| by
  unfold Machine.combineBlocks
  split
  · exact (Within.ite Within.refl ((Within.ite Within.refl.releaseHarq Within.refl).setHarq.modPusch.bankQueue)).mono
  · exact Within.refl.mono

theorem Within.harqStaged {cell : Nat} {slot : Nat} {i : Nat} (h : Within l s u) :
    Within (also l [.events, .radio, .mem]) s (harqStaged cell slot i u) := h.andThen <| by
  unfold Machine.harqStaged
  split
  · exact (Within.ite Within.refl Within.refl.readPages.modPusch.combineBlocks).mono
  · exact Within.refl.mono

theorem Within.markTime {cell : Nat} {slot : Nat} {k : Nat} (h : Within l s u) :
    Within (also l [.radio]) s (u.markTime cell slot k) := h.andThen <| by
  unfold State.markTime
  split
  · exact Within.refl.setUlSlot.mono
  · exact Within.refl.mono

theorem Within.userEstimate {p : PuschSt} {est : List EstBlock} (h : Within l s u) :
    Within (also l [.radio, .free]) s (u.userEstimate p est) := h.via ((Within.refl.patch [.free]).setUser)

theorem Within.stagePusch {cell : Nat} {slot : Nat} {i : Nat} {stage : UlStage} {upto : Nat} {x : UlSlot} {p : PuschSt} (h : Within l s u) :
    Within (also l [.radio, .free]) s (stagePusch cell slot i stage upto x p u) := h.via (Within.ite Within.refl (Within.on [.radio, .free] (by
      split
      · exact (Within.ite Within.refl.modPusch.markTime Within.refl).mono
      · exact (Within.ite Within.refl.modPusch.userEstimate.markTime Within.refl).mono
      · exact (Within.ite Within.refl.modPusch.markTime Within.refl).mono
      · exact (Within.ite ((Within.ite Within.refl.modPusch.markTime Within.refl.modPusch).combineBlocks) Within.refl).mono)))

theorem Within.storeSrs {rcv : Receiver} {x : UlSlot} {r : Srs} (h : Within l s u) :
    Within (also l [.events, .radio, .mem, .wcache]) s (storeSrs rcv x r u) := h.via (Within.ite Within.refl.setUser.extWrite Within.refl.setUser)

theorem Within.cspPend {c : Nat} {n : Nat} (h : Within l s u) :
    Within (also l [.csps]) s (u.cspPend c n) := h.via Within.refl.setCsp

theorem Within.prachReady {cell : Nat} {slot : Nat} {x : UlSlot} (h : Within l s u) :
    Within (also l [.csps]) s (u.prachReady cell slot x) := h.via (Within.ite Within.refl
        (Within.refl.foldl (fun t x => Within.ite Within.refl Within.refl.cspPend)))

theorem Within.stageComplete {cell : Nat} {slot : Nat} {i : Nat} {stage : UlStage} {upto : Nat} (h : Within l s u) :
    Within (also l [.events, .radio, .tiles, .csps, .mem, .wcache, .sched, .free]) s (stageComplete cell slot i stage upto u) := h.andThen <| by
  unfold Machine.stageComplete
  dsimp only
  split
  · exact (Within.ite (Within.ite Within.refl.closeIntake Within.refl) (Within.on [.events, .radio, .tiles, .csps, .mem, .wcache, .sched, .free] (by
      split
      · exact ((Within.ite Within.refl.closeIntake Within.refl).stagePusch).mono
      · split
        · exact (Within.ite ((Within.ite Within.refl.closeIntake Within.refl).setUlSlot.markTime)
              ((Within.ite Within.refl.closeIntake Within.refl).setUlSlot)).mono
        · split
          · exact ((Within.ite Within.refl.closeIntake Within.refl).storeSrs).mono
          · exact ((Within.ite Within.refl.closeIntake Within.refl).markTime.prachReady).mono
          · exact (Within.ite Within.refl.closeIntake Within.refl).mono))).mono
  · exact (Within.ite Within.refl.closeIntake Within.refl).mono

theorem Within.digestAdd {d : Nat} (h : Within l s u) :
    Within (also l [.capture]) s (u.digestAdd d) := h.via Within.refl.setCapture

theorem Within.digestFrame {f : TxFrame} (h : Within l s u) :
    Within (also l [.capture]) s (u.digestFrame f) := h.via (Within.ite Within.refl.digestAdd Within.refl)

theorem Within.sendAqmor {port : Nat} {inf : Bool} {f : TxFrame} (h : Within l s u) :
    Within (also l [.out, .capture, .net]) s (u.sendAqmor port inf f) := h.andThen <| by
  unfold State.sendAqmor
  dsimp only
  split
  · exact Within.refl.modPort.mono
  · exact Within.refl.modPort.emit.digestFrame.mono

theorem Within.prachFound {cell : Nat} {slot : Nat} {k : Nat} (h : Within l s u) :
    Within (also l [.out, .radio, .capture, .net]) s (prachFound cell slot k u) := h.andThen <| by
  unfold Machine.prachFound
  split
  · split
    · exact (Within.ite Within.refl Within.refl.setUlSlot.sendAqmor).mono
    · exact Within.refl.mono
  · exact Within.refl.mono

theorem Within.bankCount {b : Nat} {iterations : Nat} {crc : Bool} (h : Within l s u) :
    Within (also l [.radio]) s (u.bankCount b iterations crc) := h.via Within.refl.setBank

theorem Within.blockDecoded {cell : Nat} {slot : Nat} {i : Nat} {block : Nat} (h : Within l s u) :
    Within (also l [.radio]) s (blockDecoded cell slot i block u) := h.andThen <| by
  unfold Machine.blockDecoded
  split
  · exact (Within.ite Within.refl (Within.ite Within.refl.bankCount.bankQueue.modPusch Within.refl.bankCount.bankQueue.modPusch.markTime)).mono
  · exact Within.refl.mono

theorem Within.storeHarq {u' : UlCell} {cell : Nat} {p : PuschSt} (h : Within l s u) :
    Within (also l [.radio]) s ((storeHarq u' cell p u).2) := h.andThen <| by
  unfold Machine.storeHarq
  dsimp only
  split
  · exact Within.refl.releaseHarq.mono
  · exact Within.refl.modCell.setHarq.mono

theorem Within.endHarq {u' : UlCell} {cell : Nat} {pass : Bool} {p : PuschSt} (h : Within l s u) :
    Within (also l [.radio]) s ((endHarq u' cell pass p u).2) := h.andThen <| by
  unfold Machine.endHarq
  split
  · exact Within.refl.mono
  · split
    · exact Within.refl.releaseHarq.mono
    · exact Within.refl.storeHarq.mono

theorem endHarqs_within (c : UlCell) (cell : Nat) (late : Bool) :
    ∀ (ps : List PuschSt) (u : State), Within [.radio] u (endHarqs c cell late ps u).2
  | [], _ => Within.refl.mono
  | _ :: r, _ => (Within.refl.endHarq.andThen (endHarqs_within c cell late r _)).mono

theorem Within.endHarqs {c : UlCell} {cell : Nat} {late : Bool} {ps : List PuschSt} (h : Within l s u) :
    Within (also l [.radio]) s (endHarqs c cell late ps u).2 := h.andThen (endHarqs_within c cell late ps u)

theorem Within.takeUnit {n : Nat} {x : PoolUnit} (h : Within l s u) :
    Within (also l [.adapt]) s (u.takeUnit n x) := h.via Within.refl.setAset

theorem Within.offerUnit {cell : Nat} {x : UlSlot} {r : AdaptRec} {e : (PuschSt × Nat) × Nat} (h : Within l s u) :
    Within (also l [.adapt]) s (offerUnit cell x r u e) := h.via (Within.ite Within.refl.takeUnit Within.refl)

theorem Within.offerSamples {cell : Nat} {x : UlSlot} (h : Within l s u) :
    Within (also l [.adapt]) s (offerSamples cell x u) := h.andThen <| by
  unfold Machine.offerSamples
  split
  · exact (Within.ite (Within.refl.foldl (fun t x => Within.refl.offerUnit)) Within.refl).mono
  · exact Within.refl.mono

theorem Within.setSec {x : Security} (h : Within l s u) :
    Within (also l [.sec]) s (u.setSec x) := h.via ((Within.refl.patch [.sec]))

theorem Within.setCrossing {x : Crossing} (h : Within l s u) :
    Within (also l [.sec]) s (u.setCrossing x) := h.via Within.refl.setSec

theorem Within.crossCell {cell : Nat} {f : CrossCount → CrossCount} (h : Within l s u) :
    Within (also l [.sec]) s (u.crossCell cell f) := h.via (Within.ite Within.refl.setCrossing Within.refl)

theorem Within.sendResults {cell : Nat} {slot : Nat} {late : Bool} {x : UlSlot} (h : Within l s u) :
    Within (also l [.out, .radio, .capture, .sec, .net]) s (sendResults cell slot late x u) := h.via Within.refl.sendAqmor.modCell.crossCell.setUlSlot

theorem Within.decideSlot {cell slot : Nat} {x : UlSlot} (h : Within l s u) :
    Within (also l [.out, .radio, .adapt, .capture, .sec, .net]) s (decideSlot cell slot x u) :=
  h.via Within.refl.endHarqs.modCell.sendResults.offerSamples

theorem Within.slotDecided {cell : Nat} {slot : Nat} (h : Within l s u) :
    Within (also l [.out, .radio, .adapt, .capture, .sec, .net]) s (slotDecided cell slot u) := h.andThen <| by
  unfold Machine.slotDecided
  split
  · exact (Within.ite Within.refl Within.refl.decideSlot).mono
  · exact Within.refl.mono

theorem Within.writePages {ps : List Nat} {bs : List (List Byte)} (h : Within l s u) :
    Within (also l [.events, .mem, .wcache]) s (u.writePages ps bs) := h.via (Within.refl.foldl (fun t x => Within.refl.extWrite))

theorem Within.writebackDone {ue : Nat} {h' : Nat} (h : Within l s u) :
    Within (also l [.events, .radio, .mem, .wcache]) s (writebackDone ue h' u) := h.andThen <| by
  unfold Machine.writebackDone
  dsimp only
  split
  · exact Within.refl.mono
  · exact (Within.refl.writePages.setHarq.foldl (fun t x => Within.refl.modCell)).mono

theorem Within.captureVersion {set : Nat} {version : Nat} {slot : Nat} (h : Within l s u) :
    Within (also l [.events, .mem, .wcache, .capture]) s (u.captureVersion set version slot) := h.via Within.refl.captureItem

theorem Within.activate {n : Nat} {v : Option Word} (h : Within l s u) :
    Within (also l [.events, .adapt, .mem, .wcache, .capture]) s (u.activate n v) := h.via (Within.ite Within.refl Within.refl.setAset.captureVersion)

theorem Within.promote {n : Nat} (h : Within l s u) :
    Within (also l [.events, .host, .adapt, .mem, .wcache, .capture, .free]) s (u.promote n) := h.via Within.refl.setAset.activate.adaptTo

theorem Within.rejectCandidate {n : Nat} (h : Within l s u) :
    Within (also l [.events, .host, .adapt, .mem, .wcache, .free]) s (u.rejectCandidate n) := h.via Within.refl.setAset.adaptTo

theorem Within.pinVersion {n : Nat} {v : Word} {on : Bool} (h : Within l s u) :
    Within (also l [.adapt]) s (u.pinVersion n v on) := h.via Within.refl.setAset

theorem Within.rollback {n : Nat} (h : Within l s u) :
    Within (also l [.events, .host, .adapt, .mem, .wcache, .capture, .free]) s (u.rollback n) := h.via
        ((Within.on [.events, .host, .adapt, .mem, .wcache, .capture, .free] (by
      split
      · exact Within.refl.setAset.pinVersion.mono
      · exact Within.refl.setAset.mono)).activate.adaptTo)

theorem Within.adaptMove {n : Nat} {st : AdaptState} (h : Within l s u) :
    Within (also l [.events, .host, .adapt, .mem, .wcache, .free]) s (u.adaptMove n st) := h.via Within.refl.adaptTo

theorem Within.adaptDecide {n : Nat} (h : Within l s u) :
    Within (also l [.events, .host, .adapt, .mem, .wcache, .capture, .free]) s (adaptDecide n u) := h.andThen <| by
  unfold Machine.adaptDecide
  dsimp only
  split
  · exact Within.refl.mono
  · split
    · exact (Within.ite Within.refl (Within.ite Within.refl.promote Within.refl.rejectCandidate)).mono
    · exact (Within.ite Within.refl (Within.ite Within.refl.rollback Within.refl.setAset.adaptMove)).mono
    · exact Within.refl.mono

theorem Within.guardTrip {n : Nat} (h : Within l s u) :
    Within (also l [.events, .host, .adapt, .mem, .wcache, .capture, .free]) s (u.guardTrip n) := h.andThen <| by
  unfold State.guardTrip
  dsimp only
  split
  · exact (Within.ite Within.refl (Within.ite (Within.ite Within.refl.setAset.setAset.record.rollback
        Within.refl.setAset.setAset.record.setAset.adaptTo) Within.refl.setAset)).mono
  · exact Within.refl.mono

theorem Within.selectVersion {n : Nat} {v : Word} (h : Within l s u) :
    Within (also l [.events, .host, .adapt, .mem, .wcache, .capture, .free]) s ((u.selectVersion n v).1) := h.andThen <| by
  unfold State.selectVersion
  dsimp only
  split
  · exact Within.refl.mono
  · split
    · exact Within.refl.setAset.activate.mono
    · exact Within.refl.setAset.activate.adaptMove.mono

theorem Within.applyControl {n : Nat} {op : AdaptOp} (h : Within l s u) :
    Within (also l [.events, .host, .adapt, .mem, .wcache, .capture, .free]) s ((applyControl n op u).1) := h.andThen <| by
  unfold Machine.applyControl
  dsimp only
  split
  · exact Within.refl.setAset.adaptTo.mono
  · split
    · exact Within.refl.mono
    · exact Within.refl.adaptMove.mono
  · exact Within.refl.selectVersion.mono
  · split
    · exact Within.refl.pinVersion.mono
    · exact Within.refl.mono
  · split
    · exact Within.refl.pinVersion.mono
    · exact Within.refl.mono
  · exact (Within.on [.events, .host, .adapt, .mem, .wcache, .capture, .free] (by
      split
      · exact Within.refl.setAset.adaptTo.mono
      · exact Within.refl.setAset.adaptTo.mono
      · exact Within.refl.setAset.adaptTo.mono
      · exact Within.refl.setAset.mono)).mono

theorem Within.controlsDue {n : Nat} (h : Within l s u) :
    Within (also l [.out, .events, .host, .adapt, .mem, .wcache, .capture, .free]) s (u.controlsDue n) := h.andThen <| by
  unfold State.controlsDue
  refine (Within.refl.setAset.foldl (l' := [.out, .events, .host, .adapt, .mem, .wcache, .capture, .free]) fun t c => ?_).mono
  dsimp only
  split
  · exact Within.refl.applyControl.reply.mono
  · exact Within.refl.applyControl.mono

theorem Within.setBoundary {n : Nat} (h : Within l s u) :
    Within (also l [.out, .events, .host, .adapt, .mem, .wcache, .capture, .free]) s (u.setBoundary n) := h.via
        Within.refl.controlsDue.guardTrip.adaptDecide

theorem Within.shadowCount {n : Nat} {blocks : Nat} {active : Nat} {other : Nat} (h : Within l s u) :
    Within (also l [.out, .events, .host, .adapt, .mem, .wcache, .capture, .free]) s (u.shadowCount n blocks active other) := h.via
        Within.refl.setAset.setBoundary

theorem Within.shadowSlot {cell : Nat} {x : UlSlot} (h : Within l s u) :
    Within (also l [.out, .events, .host, .adapt, .mem, .wcache, .capture, .free]) s (shadowSlot cell x u) := h.via
        (Within.ite Within.refl (Within.ite ((Within.refl.patch [.free])) ((Within.refl.patch [.free]).shadowCount)))

theorem Within.finishSlot {cell : Nat} {slot : Nat} {x : UlSlot} (h : Within l s u) :
    Within (also l [.out, .events, .host, .radio, .adapt, .mem, .wcache, .capture, .free]) s (finishSlot cell slot x u) := h.via
        Within.refl.setUlSlot.shadowSlot

theorem Within.poolStop {ref : TaskRef} (h : Within l s u) :
    Within (also l [.clusters]) s (u.poolStop ref) := h.via ((Within.refl.patch [.clusters]))

theorem Within.graphKilled {job : Word} (h : Within l s u) :
    Within (also l [.sched]) s (u.graphKilled job) := h.via Within.refl.modGraph

theorem Within.setInbound {g : Graph} {tasks : List TaskSt} {k : Nat} {tile : Option TileId} (h : Within l s u) :
    Within (also l [.array]) s (u.setInbound g tasks k tile) := h.via (Within.ite Within.refl Within.refl.setArray)

theorem Within.taskKilled {t : Nat} (h : Within l s u) :
    Within (also l [.events, .clusters, .mem, .wcache, .sched, .array]) s (u.taskKilled t) := h.andThen <| by
  unfold State.taskKilled
  split
  · exact Within.refl.mono
  · dsimp only
    split
    · split
      · split
        · exact (Within.ite Within.refl.poolStop.modTask.graphKilled.setInbound Within.refl.poolStop.modTask.graphKilled).mono
        · exact Within.refl.poolStop.modTask.graphKilled.mono
      · exact Within.refl.poolStop.modTask.graphKilled.mono
    · exact Within.refl.poolStop.modTask.mono

theorem Within.voidDrain {t : Nat} (h : Within l s u) :
    Within (also l [.tiles]) s (u.voidDrain t) := h.via Within.refl.modTile

theorem Within.killTile {t : Nat} (h : Within l s u) :
    Within (also l [.out, .events, .tiles, .clusters, .mem, .wcache, .sched, .array]) s (killTile t u) := h.andThen <| by
  unfold Machine.killTile
  dsimp only
  split
  · exact Within.refl.mono
  · exact Within.refl.mono
  · exact Within.refl.voidDrain.taskKilled.zeroiseStart.mono

theorem Within.endSlotTasks {cell : Nat} {slot : Nat} (h : Within l s u) :
    Within (also l [.out, .events, .tiles, .clusters, .mem, .wcache, .sched, .array]) s (endSlotTasks cell slot u) := h.via
        (Within.refl.foldl (fun t x => Within.on [.out, .events, .tiles, .clusters, .mem, .wcache, .sched, .array] (by
        split
        · split
          · exact (Within.ite Within.refl.killTile Within.refl).mono
          · exact Within.refl.mono
        · exact Within.refl.mono)))

theorem Within.captureDecision {domain : Nat} {slot : Nat} {unit : Nat} {code : Nat} {index : Nat} {num : Nat} (h : Within l s u) :
    Within (also l [.events, .mem, .wcache, .capture]) s (u.captureDecision domain slot unit code index num) := h.via Within.refl.captureItem

theorem Within.lateSlot {cell : Nat} {slot : Nat} {x : UlSlot} (h : Within l s u) :
    Within (also l [.out, .events, .radio, .tiles, .clusters, .mem, .wcache, .sched, .array, .capture, .sec, .net]) s (lateSlot cell slot x u) :=
        h.via Within.refl.endSlotTasks.bankQueue.endHarqs.sendResults.modCell.record.captureDecision.setUlSlot

theorem Within.slotDeadline {cell : Nat} {slot : Nat} (h : Within l s u) :
    Within (also l [.out, .events, .host, .radio, .adapt, .tiles, .clusters, .mem, .wcache, .sched, .array, .capture, .sec, .net, .free]) s
        (slotDeadline cell slot u) := h.andThen <| by
  unfold Machine.slotDeadline
  split
  · exact Within.refl.mono
  · exact (Within.ite (Within.ite Within.refl.setUlSlot Within.refl) (Within.ite (Within.ite Within.refl.finishSlot Within.refl)
        (Within.ite Within.refl.decideSlot.finishSlot (Within.ite Within.refl.lateSlot.replayTaken Within.refl)))).mono

theorem Within.dlAccept {u' : UlCell} {d : DlCell} {c : DlSlotCfg} {t0 : Nat} {late : Bool} (h : Within l s u) :
    Within (also l [.radio, .sec]) s (dlAccept u' d c t0 late u) := h.via ((Within.ite Within.refl Within.refl.crossCell).modCell.setDlSlot)

theorem Within.dlSlotConfig {c : DlSlotCfg} {t0 : Nat} (h : Within l s u) :
    Within (also l [.events, .radio, .sec]) s (dlSlotConfig c t0 u) := h.via (Within.ite Within.refl
        (Within.ite Within.refl.modCell (Within.on [.events, .radio, .sec] (by
      split
      · exact Within.refl.record.mono
      · exact (Within.ite Within.refl.record (Within.ite Within.refl.record Within.refl.dlAccept)).mono))))

theorem Within.dlEncoded {cell : Nat} {slot : Nat} (h : Within l s u) :
    Within (also l [.radio]) s (dlEncoded cell slot u) := h.andThen <| by
  unfold Machine.dlEncoded
  split
  · exact (Within.ite Within.refl.setDlSlot Within.refl).mono
  · exact Within.refl.mono

theorem Within.precoded {cell : Nat} {slot : Nat} {upto : Nat} (h : Within l s u) :
    Within (also l [.radio]) s (precoded cell slot upto u) := h.andThen <| by
  unfold Machine.precoded
  dsimp only
  split
  · exact (Within.ite Within.refl.holdSrs Within.refl.holdSrs.modCell.setDlSlot).mono
  · exact Within.refl.holdSrs.mono

theorem Within.send {port : Nat} {f : TxFrame} (h : Within l s u) :
    Within (also l [.out, .capture]) s (u.send port f) := h.via Within.refl.emit.digestFrame

theorem Within.cplane {cell : Nat} {slot : Nat} (h : Within l s u) :
    Within (also l [.out, .radio, .capture]) s (cplane cell slot u) := h.andThen <| by
  unfold Machine.cplane
  split
  · exact (Within.ite Within.refl Within.refl.send.setDlSlot).mono
  · exact Within.refl.mono

theorem Within.sendSymbol {cell : Nat} {slot : Nat} {m : Nat} {x : DlSlot} (h : Within l s u) :
    Within (also l [.out, .radio, .capture]) s (sendSymbol cell slot m x u) := h.via ((Within.ite Within.refl Within.refl.send).setDlSlot)

theorem Within.windowOpen {cell : Nat} {slot : Nat} {m : Nat} (h : Within l s u) :
    Within (also l [.out, .radio, .capture]) s (windowOpen cell slot m u) := h.andThen <| by
  unfold Machine.windowOpen
  split
  · exact (Within.ite Within.refl Within.refl.sendSymbol).mono
  · exact Within.refl.mono

theorem Within.windowClose {cell : Nat} {slot : Nat} {m : Nat} (h : Within l s u) :
    Within (also l [.out, .events, .radio, .mem, .wcache, .capture, .net]) s (windowClose cell slot m u) := h.andThen <| by
  unfold Machine.windowClose
  split
  · exact Within.refl.mono
  · split
    · exact Within.refl.mono
    · dsimp only
      split
      · exact Within.refl.mono
      · split
        · exact (Within.ite ((Within.ite Within.refl.modCell.captureDecision.setDlSlot.replayTaken
              (Within.ite Within.refl Within.refl.sendSymbol)).setDlSlot) ((Within.ite Within.refl.modCell.captureDecision.setDlSlot.replayTaken
              (Within.ite Within.refl Within.refl.sendSymbol)).sendAqmor.setDlSlot)).mono
        · exact (Within.ite Within.refl.modCell.captureDecision.setDlSlot.replayTaken (Within.ite Within.refl Within.refl.sendSymbol)).mono

theorem Within.setSweep {x : Sweep} (h : Within l s u) :
    Within (also l [.sweep]) s (u.setSweep x) := h.via ((Within.refl.patch [.sweep]))

theorem Within.setChan {c : Nat} {x : ChanSt} (h : Within l s u) :
    Within (also l [.sweep]) s (u.setChan c x) := h.via Within.refl.setSweep

theorem Within.sweepConfigBody {chan : Nat} {r : SweepRec} (h : Within l s u) :
    Within (also l [.sweep, .power]) s ((sweepConfigBody chan r u).1) := h.andThen <| by
  unfold Machine.sweepConfigBody
  split
  · exact Within.refl.mono
  · split
    · exact Within.refl.mono
    · exact Within.refl.setChan.wakeDomain.mono

theorem Within.setCtx {e : Nat} {x : EndCtx} (h : Within l s u) :
    Within (also l [.sweep]) s (u.setCtx e x) := h.via Within.refl.setSweep

theorem Within.sweepCtxBody {ctx : Nat} {addr : Word} {chan : Nat} (h : Within l s u) :
    Within (also l [.sweep]) s ((sweepCtxBody ctx addr chan u).1) := h.andThen <| by
  unfold Machine.sweepCtxBody
  split
  · exact Within.refl.mono
  · exact Within.refl.setCtx.mono

theorem Within.sweepItem {addr : Word} {item : List Byte} (h : Within l s u) :
    Within (also l [.sweep]) s (sweepItem addr item u) := h.andThen <| by
  unfold Machine.sweepItem
  split
  · exact (Within.ite Within.refl.setCtx Within.refl).mono
  · exact Within.refl.mono

theorem Within.modChan {c : Nat} {f : ChanSt → ChanSt} (h : Within l s u) :
    Within (also l [.sweep]) s (u.modChan c f) := h.via Within.refl.setChan

theorem Within.sweepSection {x : SweepSection} (h : Within l s u) :
    Within (also l [.sweep]) s (sweepSection x u) := h.andThen <| by
  unfold Machine.sweepSection
  split
  · exact Within.refl.mono
  · exact (Within.ite Within.refl (Within.ite Within.refl.modChan Within.refl.modChan)).mono

theorem Within.eraseSample {c : Nat} {stream : Nat} {n : Nat} (h : Within l s u) :
    Within (also l [.sweep]) s (eraseSample c stream n u) := h.andThen <| by
  unfold Machine.eraseSample
  dsimp only
  split
  · exact (Within.ite Within.refl.setChan Within.refl).mono
  · exact Within.refl.mono

theorem Within.sweepWindow {c : Nat} {order : Nat} {start : Nat} {dn : Bool} (h : Within l s u) :
    Within (also l [.sweep]) s (sweepWindow c order start dn u) := h.andThen <| by
  unfold Machine.sweepWindow
  dsimp only
  split
  · exact (Within.ite Within.refl Within.refl.setChan).mono
  · exact Within.refl.mono

theorem Within.checkIdentity {c : Nat} {q : Reception} (h : Within l s u) :
    Within (also l [.sweep]) s (checkIdentity c q u) := h.via (Within.ite Within.refl Within.refl.modChan)

theorem Within.unqueue {q : Reception} (h : Within l s u) :
    Within (also l [.radio]) s (u.unqueue q) := h.andThen <| by
  unfold State.unqueue
  split
  · exact Within.refl.setBank.mono
  · exact Within.refl.mono

theorem Within.receptionStart {c : Nat} {order : Nat} {down : Nat} {bin : Nat} {dnBin : Nat} (h : Within l s u) :
    Within (also l [.radio, .sweep]) s (receptionStart c order down bin dnBin u) := h.andThen <| by
  unfold Machine.receptionStart
  dsimp only
  split
  · exact (Within.ite Within.refl (Within.ite Within.refl (Within.on [.radio, .sweep] (by
      split
      · exact (Within.ite Within.refl.setChan.unqueue.checkIdentity Within.refl).mono
      · exact (Within.ite Within.refl.setChan Within.refl.setChan.checkIdentity).mono)))).mono
  · exact Within.refl.mono

theorem Within.queueSweep {c id : Nat} (h : Within l s u) : Within (also l [.radio, .sweep]) s (u.queueSweep c id) := h.andThen <| by
  unfold State.queueSweep
  extract_lets b x n
  exact Within.refl.setBank.modChan.mono

theorem Within.queueIfDone {c : Nat} {id : Nat} {q : Reception} (h : Within l s u) :
    Within (also l [.radio, .sweep]) s (u.queueIfDone c id q) := h.via (Within.ite Within.refl.queueSweep Within.refl)

theorem Within.symbolDecided {c : Nat} {id : Nat} {sym : Nat} (h : Within l s u) :
    Within (also l [.radio, .sweep, .csps]) s (symbolDecided c id sym u) := h.andThen <| by
  unfold Machine.symbolDecided
  dsimp only
  split
  · exact Within.refl.mono
  · exact (Within.ite Within.refl ((Within.on [.radio, .sweep, .csps] (by
      split
      · exact Within.refl.setChan.cspPend.cspPend.mono
      · exact Within.refl.setChan.mono)).queueIfDone)).mono

theorem Within.sweepCount {q : Reception} {b : Nat} {it : Nat} {crc : Bool} (h : Within l s u) :
    Within (also l [.radio]) s (u.sweepCount q b it crc) := h.via Within.refl.bankCount.unqueue

theorem Within.endReception {c : Nat} {id : Nat} (h : Within l s u) :
    Within (also l [.sweep]) s (u.endReception c id) := h.via Within.refl.modChan

theorem Within.headerDecoded {c : Nat} {id : Nat} (h : Within l s u) :
    Within (also l [.radio, .sweep]) s (headerDecoded c id u) := h.andThen <| by
  unfold Machine.headerDecoded
  split
  · exact Within.refl.mono
  · split
    · exact (Within.ite Within.refl.sweepCount.endReception.modChan Within.refl.sweepCount.modChan.queueIfDone).mono
    · exact Within.refl.mono

theorem Within.reserveAck {c : Nat} {q : Reception} {n : Nat} {fcnt : Half} {m : SweepMeasure} (h : Within l s u) :
    Within (also l [.events, .sweep, .mem, .wcache, .capture]) s ((reserveAck c q n fcnt m u).1) := h.andThen <| by
  unfold Machine.reserveAck
  dsimp only
  split
  · exact Within.refl.captureDecision.mono
  · exact Within.refl.setChan.mono

theorem Within.ackDecide {c : Nat} {q : Reception} {x : SweepHdr} {crc : Bool} {y : SweepMeasure} (h : Within l s u) :
    Within (also l [.events, .sweep, .mem, .wcache, .capture]) s (ackDecide c q x crc y u).1 := h.andThen <| by
  unfold Machine.ackDecide
  split
  · exact Within.refl.mono
  · dsimp only
    split
    · exact (Within.ite Within.refl.setCtx Within.refl).reserveAck.mono
    · exact (Within.ite Within.refl.setCtx Within.refl).mono

theorem Within.crossChan {chan : Nat} {f : CrossCount → CrossCount} (h : Within l s u) :
    Within (also l [.sec]) s (u.crossChan chan f) := h.via (Within.ite Within.refl.setCrossing Within.refl)

theorem Within.shadowReception {c : Nat} {q : Reception} {h' : SweepHdr} {crc : Bool} {m : SweepMeasure} (h : Within l s u) :
    Within (also l [.out, .events, .host, .adapt, .mem, .wcache, .capture, .free]) s (shadowReception c q h' crc m u) := h.via
        (Within.ite (Within.ite ((Within.refl.patch [.free])) ((Within.refl.patch [.free]).shadowCount)) Within.refl)

theorem Within.offerReception {c : Nat} {q : Reception} {h' : SweepHdr} {crc : Bool} {m : SweepMeasure} {payload : List Byte} (h : Within l s u) :
    Within (also l [.adapt]) s (offerReception c q h' crc m payload u) := h.andThen <| by
  unfold Machine.offerReception
  dsimp only
  split
  · exact (Within.ite Within.refl.takeUnit Within.refl).mono
  · exact Within.refl.mono

theorem Within.payloadDecoded {c id : Nat} (h : Within l s u) :
    Within (also l [.out, .events, .host, .radio, .sweep, .adapt, .mem, .wcache, .capture, .sec, .net, .free]) s (payloadDecoded c id u) := h.andThen
        <| by
  unfold Machine.payloadDecoded
  split
  · exact Within.refl.mono
  · split
    · exact Within.refl.sweepCount.ackDecide.endReception.sendAqmor.crossChan.offerReception.shadowReception.mono
    · exact Within.refl.mono

theorem Within.ackTransmit {c : Nat} {id : Nat} (h : Within l s u) :
    Within (also l [.out, .sweep, .capture]) s (ackTransmit c id u) := h.andThen <| by
  unfold Machine.ackTransmit
  dsimp only
  split
  · exact Within.refl.mono
  · exact (Within.ite Within.refl Within.refl.setCtx.setChan.send).mono

theorem Within.adaptConfigBody {r : AdaptRec} (h : Within l s u) :
    Within (also l [.adapt]) s ((adaptConfigBody r u).1) := h.andThen <| by
  unfold Machine.adaptConfigBody
  dsimp only
  split
  · exact Within.refl.mono
  · split
    · exact Within.refl.mono
    · exact Within.refl.setAset.mono

theorem Within.collectDone {n : Nat} (h : Within l s u) :
    Within (also l [.events, .host, .adapt, .mem, .wcache, .free]) s (u.collectDone n) := h.via
        (Within.ite Within.refl.setAset.adaptMove Within.refl.setAset)

theorem Within.sampleWrite {n : Nat} (h : Within l s u) :
    Within (also l [.events, .host, .adapt, .mem, .wcache, .free]) s (sampleWrite n u) := h.andThen <| by
  unfold Machine.sampleWrite
  dsimp only
  split
  · exact (Within.ite Within.refl Within.refl.extWrite.setAset.collectDone).mono
  · exact Within.refl.mono

theorem Within.sampleDrop {n : Nat} (h : Within l s u) :
    Within (also l [.adapt]) s (sampleDrop n u) := h.andThen <| by
  unfold Machine.sampleDrop
  dsimp only
  split
  · exact (Within.ite Within.refl.setAset Within.refl).mono
  · exact Within.refl.mono

theorem Within.writeStore {n : Nat} (h : Within l s u) : Within (also l [.events, .mem, .wcache]) s (u.writeStore n) := h.andThen <| by
  unfold State.writeStore
  split
  · refine (Within.refl.foldl (l' := [.events, .mem, .wcache]) fun _ e => ?_).mono
    obtain ⟨(_ | v), k⟩ := e
    · exact Within.refl.mono
    · exact Within.refl.extWrite.mono
  · exact Within.refl.mono

theorem Within.formCandidate {n : Nat} {weights : List Byte} (h : Within l s u) :
    Within (also l [.events, .host, .adapt, .mem, .wcache, .free]) s (formCandidate n weights u) := h.via
        (Within.ite Within.refl.setAset.adaptTo (Within.ite Within.refl.setAset (Within.on [.events, .host, .adapt, .mem, .wcache, .free] (by
      split
      · exact Within.refl.mono
      · exact (Within.ite Within.refl.setAset.writeStore.setAset.adaptMove Within.refl.setAset.writeStore).mono))))

theorem Within.trainStep {n : Nat} (h : Within l s u) :
    Within (also l [.events, .host, .adapt, .mem, .wcache, .free]) s (trainStep n u) := h.andThen <| by
  unfold Machine.trainStep
  dsimp only
  split
  · exact Within.refl.mono
  · exact (Within.ite Within.refl (Within.ite Within.refl.formCandidate (Within.ite Within.refl.extWrite.setAset.formCandidate
        Within.refl.extWrite.setAset))).mono

theorem Within.guardEnd {n : Nat} (h : Within l s u) :
    Within (also l [.out, .events, .host, .adapt, .mem, .wcache, .capture, .free]) s (guardEnd n u) := h.via Within.refl.setBoundary

theorem Within.adaptControlBody {h' : QcpHdr} {set : Nat} {op : AdaptOp} (h : Within l s u) :
    Within (also l [.adapt]) s ((adaptControlBody h' set op u).1) := h.andThen <| by
  unfold Machine.adaptControlBody
  split
  · exact Within.refl.mono
  · exact Within.refl.setAset.mono

theorem Within.controlBoundary {n : Nat} {op : AdaptOp} (h : Within l s u) :
    Within (also l [.out, .events, .host, .adapt, .mem, .wcache, .capture, .free]) s (controlBoundary n op u) := h.andThen <| by
  unfold Machine.controlBoundary
  dsimp only
  split
  · exact Within.refl.mono
  · split
    · exact Within.refl.mono
    · split
      · exact Within.refl.setAset.applyControl.reply.mono
      · exact Within.refl.setAset.applyControl.mono

theorem Within.adaptStatusBody {set : Nat} (h : Within l s u) :
    Within (also l []) s ((adaptStatusBody set u).1) := h.andThen <| by
  unfold Machine.adaptStatusBody
  split
  · exact Within.refl.mono
  · exact Within.refl.mono

theorem Within.sealBlob {purpose : Nat} {plain : List Byte} (h : Within l s u) :
    Within (also l [.free]) s ((u.sealBlob purpose plain).2) := h.via ((Within.refl.patch [.free]))

theorem Within.adaptSaveBody {set addr : Nat} {version : Word} (h : Within l s u) :
    Within (also l [.events, .mem, .wcache, .free]) s (adaptSaveBody set version addr u).1 := h.andThen <| by
  unfold Machine.adaptSaveBody
  split
  · exact Within.refl.mono
  · split
    · exact Within.refl.mono
    · dsimp only
      split
      · dsimp only
        exact Within.refl.sealBlob.extWrite.mono
      · exact Within.refl.mono

theorem Within.takeVersion {set : Nat} {v : Version} (h : Within l s u) :
    Within (also l [.events, .host, .adapt, .mem, .wcache, .capture, .free]) s ((takeVersion set v u).1) := h.andThen <| by
  unfold Machine.takeVersion
  extract_lets a s1 src s2 on
  have h1 : Within [.events, .adapt, .mem, .wcache] u s1 := Within.refl.setAset.writeStore.mono
  have h2 : Within [.events, .host, .adapt, .mem, .wcache, .capture, .free] u s2 := h1.setAset.activate.mono
  clear_value s2 src s1 on a
  split
  · exact Within.refl.mono
  · split
    · exact Within.refl.mono
    · split
      · exact Within.refl.mono
      · split
        · split
          · exact h2.adaptMove.collectDone.mono
          · exact h2.mono
        · exact h1.mono

theorem Within.adaptLoadBody {set : Nat} {src : VersionSource} (h : Within l s u) :
    Within (also l [.events, .host, .adapt, .mem, .wcache, .capture, .free]) s (adaptLoadBody set src u).1 := h.andThen <| by
  unfold Machine.adaptLoadBody
  dsimp only
  split
  · exact Within.refl.mono
  · split
    · exact Within.refl.mono
    · split
      · exact Within.refl.mono
      · exact Within.refl.takeVersion.mono

theorem Within.bermBoundary (h : Within l s u) :
    Within (also l [.host]) s (bermBoundary u) := h.via (Within.ite Within.refl.setHost Within.refl)

theorem Within.resumeBoundary (h : Within l s u) :
    Within (also l [.radio]) s (resumeBoundary u) := h.via Within.refl.setRadio

theorem Within.each {n : Nat} {f : Nat → State → State} (h : Within l s u) (hf : ∀ i t, Within l' t (f i t)) : Within (also l l') s (u.each n f) :=
  h.foldl fun t i => hf i t

theorem Within.cellBoundary {cell : Nat} (h : Within l s u) :
    Within (also l [.events, .host, .radio, .adapt, .mem, .wcache, .power, .free]) s (cellBoundary cell u) := h.andThen <| by
  unfold Machine.cellBoundary
  split
  · exact (Within.ite Within.refl Within.refl.cellApply).mono
  · exact Within.refl.mono

theorem Within.chanBoundary {chan : Nat} (h : Within l s u) :
    Within (also l [.events, .host, .sweep, .adapt, .mem, .wcache, .free]) s (chanBoundary chan u) := h.andThen <| by
  unfold Machine.chanBoundary
  dsimp only
  split
  · exact Within.refl.setChan.shapeOff.mono
  · exact Within.refl.mono

theorem Within.adaptApply {n : Nat} (h : Within l s u) :
    Within (also l [.events, .host, .adapt, .mem, .wcache, .free]) s (adaptApply n u) := h.andThen <| by
  unfold Machine.adaptApply
  dsimp only
  split
  · exact Within.refl.mono
  · exact (Within.ite ((Within.ite (Within.on [.events, .host, .adapt, .mem, .wcache, .free] (by
      split
      · exact Within.refl.setAset.writeStore.pinVersion.mono
      · exact Within.refl.setAset.writeStore.mono)) Within.refl.setAset.writeStore).shapeOff)
            (Within.ite ((Within.ite (Within.on [.events, .host, .adapt, .mem, .wcache, .free] (by
      split
      · exact Within.refl.setAset.writeStore.pinVersion.mono
      · exact Within.refl.setAset.writeStore.mono)) Within.refl.setAset.writeStore).adaptMove.collectDone)
            ((Within.ite (Within.on [.events, .host, .adapt, .mem, .wcache, .free] (by
      split
      · exact Within.refl.setAset.writeStore.pinVersion.mono
      · exact Within.refl.setAset.writeStore.mono)) Within.refl.setAset.writeStore).collectDone))).mono

theorem Within.takeoverBoundary (h : Within l s u) :
    Within (also l [.host]) s (takeoverBoundary u) := h.via (Within.ite Within.refl.setHost Within.refl)

theorem Within.setCluster {c : Nat} {x : ClusterSt} (h : Within l s u) :
    Within (also l [.clusters]) s (u.setCluster c x) := h.via ((Within.refl.patch [.clusters]))

theorem Within.takeoverCore (h : Within l s u) :
    Within (also l [.clusters]) s (takeoverCore u) := h.via (Within.ite Within.refl.setCluster Within.refl)

theorem Within.setSem {n : Nat} {x : Sem} (h : Within l s u) :
    Within (also l [.sched]) s (u.setSem n x) := h.via Within.refl.setSched

theorem Within.takeSems {sems : List (Nat × Nat)} {c : SemClaim} (h : Within l s u) :
    Within (also l [.sched]) s (u.takeSems sems c) := h.via (Within.refl.foldl (fun t x => Within.refl.setSem))

theorem Within.dropSems {sems : List (Nat × Nat)} (h : Within l s u) :
    Within (also l [.sched]) s (u.dropSems sems) := h.via (Within.refl.foldl (fun t x => Within.refl.setSem))

theorem Within.standingSwitch {old : Option CycTable} {new : CycTable} (h : Within l s u) :
    Within (also l [.out, .events, .tiles, .mem, .wcache, .sched, .array]) s (standingSwitch old new u) := h.via
        ((Within.refl.foldl (fun t x => Within.refl.foldl (fun t x => Within.refl.toInference))).foldl
        (fun t x => Within.refl.foldl (fun t x => Within.refl.claimTile.toRadio)))

theorem Within.tableSwitch (h : Within l s u) :
    Within (also l [.out, .events, .host, .adapt, .tiles, .mem, .wcache, .sched, .array, .free]) s (tableSwitch u) := h.andThen <| by
  unfold Machine.tableSwitch
  split
  · exact Within.refl.mono
  · exact (Within.ite Within.refl ((((Within.refl.setSched.dropSems.takeSems.foldl fun t x =>
        (Within.refl.foldl fun t x => Within.refl.toInference)).standingSwitch).foldl fun t x => Within.refl.collectDone))).mono

theorem Within.coreBoundary {c : Nat} (h : Within l s u) :
    Within (also l [.clusters]) s (coreBoundary c u) := h.via (Within.ite Within.refl.setCluster Within.refl)

theorem Within.setTime {x : TimeUnit} (h : Within l s u) :
    Within (also l [.time]) s (u.setTime x) := h.via ((Within.refl.patch [.time]))

theorem Within.replayBoundary (h : Within l s u) :
    Within (also l [.time, .capture]) s (replayBoundary u) := h.andThen <| by
  unfold Machine.replayBoundary
  split
  · exact Within.refl.mono
  · exact (Within.ite Within.refl Within.refl.setTime.setCapture).mono

theorem Within.captureBegin (h : Within l s u) :
    Within (also l [.events, .mem, .wcache, .capture]) s u.captureBegin := h.via Within.refl.setCapture.ringPut

theorem Within.captureBoundary (h : Within l s u) :
    Within (also l [.events, .mem, .wcache, .capture]) s (captureBoundary u) := h.andThen <| by
  unfold Machine.captureBoundary
  dsimp only
  split
  · exact (Within.ite ((Within.ite Within.refl.captureEnd Within.refl).captureBegin) (Within.ite Within.refl.captureEnd Within.refl)).mono
  · exact (Within.ite Within.refl.captureEnd Within.refl).mono

theorem Within.crossStart (h : Within l s u) :
    Within (also l [.sec]) s (crossStart u) := h.via (Within.ite Within.refl.setCrossing Within.refl)

theorem Within.setAssured {x : Assured} (h : Within l s u) :
    Within (also l [.assured]) s (u.setAssured x) := h.via ((Within.refl.patch [.assured]))

theorem Within.laneTo {st : LaneState} (h : Within l s u) :
    Within (also l [.events, .assured]) s (u.laneTo st) := h.via (Within.ite Within.refl Within.refl.setAssured.record)

theorem Within.laneFrame (h : Within l s u) :
    Within (also l [.events, .assured]) s (laneFrame u) := h.via (Within.ite Within.refl.setAssured
        (Within.ite (Within.ite Within.refl.setAssured Within.refl.setAssured.laneTo) Within.refl))

theorem Within.logRecord (h : Within l s u) :
    Within (also l [.events, .host, .mem, .wcache, .free]) s u.logRecord := h.andThen <| by
  unfold State.logRecord
  split
  · exact Within.refl.mono
  · exact (Within.ite ((Within.refl.patch [.free]).logWrite) ((Within.refl.patch [.free]))).mono

theorem Within.frameBoundary (h : Within l s u) :
    Within (also l [.out, .events, .host, .time, .radio, .sweep, .adapt, .tiles, .clusters, .csps, .mem, .wcache, .sched, .array, .capture, .assured,
        .sec, .power, .free]) s
      (frameBoundary u) := h.andThen <| by
  have hconfigured := (((Within.refl (s := u)).resumeBoundary.bermBoundary.each (n := 8) (f := Machine.cellBoundary) fun _ _ =>
      Within.refl.cellBoundary).each
    (n := 4) (f := Machine.chanBoundary) fun _ _ => Within.refl.chanBoundary).each (n := 12) (f := Machine.adaptApply) fun _ _ =>
        Within.refl.adaptApply
  have hloaded := (hconfigured.tableSwitch.takeoverCore.takeoverBoundary.each (n := 12) (f := fun c s => s.setCsp c (cspReload (s.csp c)))
    fun _ _ => Within.refl.setCsp).each (n := 12) (f := Machine.coreBoundary) fun _ _ => Within.refl.coreBoundary
  unfold Machine.frameBoundary
  exact hloaded.laneFrame.crossStart.captureBoundary.replayBoundary.setSched.logRecord.mono

theorem Within.flushStats {t : Nat} (h : Within l s u) :
    Within (also l [.events, .tiles, .mem, .wcache]) s (u.flushStats t) := h.andThen <| by
  unfold State.flushStats
  dsimp only
  split
  · exact Within.refl.mono
  · split
    · exact Within.refl.modBody.mono
    · exact ((Within.refl.foldl fun t x => Within.on [.events, .tiles, .mem, .wcache] (by
          split
          · exact Within.refl.extWrite.mono
          · exact Within.refl.mono)).modBody).mono

theorem Within.undoPart {p : MoutPart} (h : Within l s u) :
    Within (also l [.events, .tiles, .clusters, .mem, .wcache]) s (u.undoPart p) := h.andThen <| by
  unfold State.undoPart
  split
  · exact Within.refl.extWrite.mono
  · exact Within.refl.modBody.mono
  · exact Within.refl.setCluster.mono

theorem Within.undoMouts {t : Nat} (h : Within l s u) :
    Within (also l [.events, .tiles, .clusters, .mem, .wcache]) s (u.undoMouts t) := h.via
        ((Within.refl.foldl fun t x => Within.refl.undoPart).modBody)

theorem Within.keepDump {job : Word} {task : Nat} {x : Tile} (h : Within l s u) :
    Within (also l [.sched]) s (u.keepDump job task x) := h.andThen <| by
  unfold State.keepDump
  split
  · exact Within.refl.setSched.mono
  · exact Within.refl.mono

theorem Within.withhold {job : Word} {v : Verdict} {o : GraphOutcome} (h : Within l s u) :
    Within (also l [.events, .sched, .assured]) s (u.withhold job v o) := h.andThen <| by
  unfold State.withhold
  split
  · exact Within.refl.mono
  · exact (Within.ite Within.refl Within.refl.modGraph.setAssured.record).mono

theorem Within.graphFaulted {job : Word} {copy : Nat} {task : Nat} {code : Half} (h : Within l s u) :
    Within (also l [.events, .sched, .assured]) s (u.graphFaulted job copy task code) := h.via (Within.ite Within.refl.withhold Within.refl.modGraph)

theorem Within.classicalRerun {cell : Nat} {slot : Nat} (h : Within l s u) :
    Within (also l [.radio]) s (u.classicalRerun cell slot) := h.andThen <| by
  unfold State.classicalRerun
  dsimp only
  split
  · exact (Within.ite Within.refl Within.refl.setCell.bankQueue).mono
  · exact Within.refl.mono

theorem Within.taskFault {t : Nat} {code : Half} {slot : Nat} {issue : Bool} {image : optParam Bool false} (h : Within l s u) :
    Within (also l [.events, .radio, .tiles, .clusters, .mem, .wcache, .sched, .assured]) s (u.taskFault t code slot issue image) := h.andThen <| by
  unfold State.taskFault
  dsimp only
  split
  · exact ((Within.ite Within.refl.modTile Within.refl.flushStats).undoMouts.setTile).mono
  · split
    · exact ((Within.ite Within.refl.modTile Within.refl.flushStats).undoMouts.setTile.poolStop.modTask.graphFaulted.keepDump).mono
    · split
      · exact (Within.ite ((Within.ite Within.refl.modTile Within.refl.flushStats).undoMouts.setTile.poolStop.modTask.classicalRerun)
            ((Within.ite Within.refl.modTile Within.refl.flushStats).undoMouts.setTile.poolStop.modTask)).mono
      · exact ((Within.ite Within.refl.modTile Within.refl.flushStats).undoMouts.setTile.poolStop.modTask).mono
    · exact ((Within.ite Within.refl.modTile Within.refl.flushStats).undoMouts.setTile.poolStop.modTask).mono

/-- A settled operation is done, holds its bundle or faults its task. -/
theorem Within.settle {t : Nat} {slot : Slot} {r : OpRes} (h : Within l s u) (hr : OpWithin l' u r) :
    Within (also l (also [.events, .radio, .tiles, .clusters, .mem, .wcache, .sched, .assured] l')) s (settle u t slot r) := by
  refine h.andThen ?_
  unfold Machine.settle
  split
  · exact (hr _ rfl).modTile.weaken (also_sub sub_also_right sub_also_left)
  · exact Within.refl.modTile.mono.left
  · exact (Within.ite Within.refl.taskFault.modTile Within.refl.taskFault).mono.left

theorem Within.runOp {i : Issue} {slot : Slot} {f : State → Nat → OpRes} (h : Within l s u) (hf : ∀ t n, OpWithin l' t (f t n)) :
    Within (also l (also [.events, .radio, .tiles, .clusters, .mem, .wcache, .sched, .assured] l')) s (runOp u i slot f) := by
  refine h.andThen ?_
  have hlead : Within [.events, .tiles, .mem, .wcache] u (if i.joint && !(u.tile i.tile.val).slots.isEmpty then u else u.flushStats i.tile.val) :=
    (Within.ite Within.refl Within.refl.flushStats).mono
  have hop {v : State} {x : Tile} (hv : Within [.events, .tiles, .mem, .wcache] u v) :
      Within (also [.events, .radio, .tiles, .clusters, .mem, .wcache, .sched, .assured] l') u
        (Machine.settle (v.setTile i.tile.val x) i.tile.val slot (f (v.setTile i.tile.val x) i.tile.val)) :=
    (hv.setTile.settle (hf _ _)).weaken (by simp [also])
  have hfault {v : State} {c : Half} {k : Nat} {e : Bool} (hv : Within [.events, .tiles, .mem, .wcache] u v) :
      Within (also [.events, .radio, .tiles, .clusters, .mem, .wcache, .sched, .assured] l') u (v.taskFault i.tile.val c k e) :=
    hv.taskFault.mono.left
  unfold Machine.runOp
  dsimp only
  generalize (if i.joint && !(u.tile i.tile.val).slots.isEmpty then u else u.flushStats i.tile.val) = v at hlead
  split
  · exact hlead.mono.left
  · split
    · split
      · exact hlead.mono.left
      · split
        · exact hfault hlead
        · exact hop hlead
    · split
      · exact hlead.mono.left
      · split
        · exact hfault hlead
        · exact hop hlead

theorem Within.mclrOp {e : Nat} {ty : AccTy} {t : Nat} (h : Within l s u) :
    OpWithin (also l [.tiles]) s (mclrOp e ty u t) := h.andThenOp <| by
  unfold Machine.mclrOp
  split
  · exact (OpWithin.fault).mono
  · exact (OpWithin.ite (OpWithin.fault) (OpWithin.ok Within.refl.modBody)).mono
  · exact (OpWithin.ok Within.refl.modBody).mono

theorem Within.takeElems {t q n ue : Nat} {fill : Bool} {c : Half} {k : State → List Elem → OpRes} (h : Within l s u)
    (hk : ∀ t es, OpWithin l' t (k t es)) : OpWithin (also l (also [.tiles] l')) s (takeElems u t q n ue fill c k) := by
  refine h.andThenOp ?_
  unfold Machine.takeElems
  dsimp only
  exact .iteSame .any_fault (.iteSame .any_fault (.iteSame (hk _ _).right (.iteSame .any_fault (.iteSame .any_fault
    (.iteSame .any_hold (.iteSame .any_hold (.iteSame .any_fault (Within.refl.modBody.mono.andThenOp (hk _ _)))))))))

theorem Within.raise {t : Nat} {r : Raised} (h : Within l s u) :
    Within (also l [.tiles]) s (u.raise t r) := h.via Within.refl.modBody

theorem Within.mmacOp {e : Nat} {b : Nat} {fa : Fmt} {fw : Fmt} {q : Nat} {cj : Bool} {half : Bool} {t : Nat} (h : Within l s u) :
    OpWithin (also l [.tiles]) s (mmacOp e b fa fw q cj half u t) := h.andThenOp <| by
  unfold Machine.mmacOp
  dsimp only
  split
  · exact (OpWithin.fault).mono
  · split
    · exact (OpWithin.fault).mono
    · exact (OpWithin.ite (OpWithin.fault) (OpWithin.ite (OpWithin.fault) (OpWithin.ite (OpWithin.fault)
          (OpWithin.ite (OpWithin.hold) (OpWithin.ite (OpWithin.fault) (OpWithin.ite (OpWithin.fault)
          (OpWithin.ite (OpWithin.fault) ((Within.refl.takeElems (fun _ _ => OpWithin.ok Within.refl.modBody.raise)))))))))).mono

theorem Within.handOver {t q : Nat} {es : List Elem} {c : Half} {mout : Bool} {k : State → OpRes} (h : Within l s u)
    (hk : ∀ t, OpWithin l' t (k t)) : OpWithin (also l (also [.tiles] l')) s (handOver u t q es c mout k) := by
  refine h.andThenOp ?_
  unfold Machine.handOver
  dsimp only
  exact .iteSame .any_fault (.iteSame .any_fault (.iteSame (hk _).right (.iteSame .any_fault
    (.iteSame .any_hold (Within.refl.modBody.mono.andThenOp (hk _))))))

theorem OpWithin.peek {x : Tile} {off n ue : Nat} {k : List Byte → OpRes} (hk : ∀ bs, OpWithin l s (k bs)) : OpWithin l s (peek x off n ue k) := by
  unfold Machine.peek
  dsimp only
  split
  · exact .any_fault
  · split
    · exact .any_hold
    · split
      · exact .any_fault
      · exact hk _

theorem Within.addStats {t : Nat} {slot : Nat} {items : List (Option (FVal × FVal))} (h : Within l s u) :
    Within (also l [.tiles]) s (u.addStats t slot items) := h.andThen <| by
  unfold State.addStats
  dsimp only
  split
  · exact Within.refl.modBody.mono
  · exact Within.refl.mono

theorem Within.moutOp {e : Nat} {m : OutPath} {q : Nat} {a : Nat} {sr : Nat} {t : Nat} (h : Within l s u) :
    OpWithin (also l [.tiles]) s (moutOp e m q a sr u t) := h.andThenOp <| by
  unfold Machine.moutOp
  dsimp only
  split
  · exact (OpWithin.fault).mono
  · split
    · exact (OpWithin.fault).mono
    · split
      · exact (OpWithin.fault).mono
      · split
        · exact (OpWithin.fault).mono
        · split
          · exact ((Within.refl.handOver (fun _ => OpWithin.ok Within.refl))).mono
          · exact ((OpWithin.peek (fun _ => OpWithin.on [.tiles] (by
                split
                · exact (OpWithin.fault).mono
                · split
                  · exact (OpWithin.fault).mono
                  · exact (OpWithin.ite ((Within.refl.handOver (fun _ => OpWithin.ok Within.refl.raise)))
                        ((Within.refl.handOver (fun _ => OpWithin.ok ((Within.ite Within.refl.addStats.addStats Within.refl).raise))))).mono)))).mono

theorem Within.weightLoad {b : Nat} {q : Nat} {tr : Bool} {t : Nat} (h : Within l s u) :
    OpWithin (also l [.tiles]) s (weightLoad b q tr u t) := h.andThenOp <| by
  unfold Machine.weightLoad
  dsimp only
  split
  · exact (OpWithin.fault).mono
  · exact (OpWithin.ite (OpWithin.fault) (OpWithin.ite (OpWithin.fault) (OpWithin.ite (OpWithin.fault)
        (OpWithin.ite (OpWithin.hold) (OpWithin.ite (OpWithin.hold) (OpWithin.ok Within.refl.modBody)))))).mono

theorem Within.weightLoadEnd {t : Nat} {b : Nat} (h : Within l s u) :
    Within (also l [.events, .radio, .tiles, .clusters, .mem, .wcache, .sched, .assured]) s (weightLoadEnd t b u) := h.andThen <| by
  unfold Machine.weightLoadEnd
  dsimp only
  split
  · exact Within.refl.mono
  · exact (Within.ite Within.refl (Within.ite Within.refl.taskFault Within.refl.setTile)).mono

theorem Within.modRegs {t : Nat} {f : TRegs → TRegs} (h : Within l s u) :
    Within (also l [.tiles]) s (u.modRegs t f) := h.via Within.refl.modBody

theorem Within.scalarOp {d : SReg} {f : TRegs → Dword} {t : Nat} (h : Within l s u) :
    OpWithin (also l [.tiles]) s (scalarOp d f u t) := h.viaOp (OpWithin.ok Within.refl.modRegs)

theorem Within.amovOp {toScalar : Bool} {a : AReg} {sr : SReg} {t : Nat} (h : Within l s u) :
    OpWithin (also l [.tiles]) s (amovOp toScalar a sr u t) := h.andThenOp <| by
  unfold Machine.amovOp
  split
  · exact Within.refl.scalarOp.mono
  · exact (OpWithin.ok Within.refl.modRegs).mono

theorem Within.aaddiOp {d : AReg} {a : AReg} {imm : Half} {t : Nat} (h : Within l s u) :
    OpWithin (also l [.tiles]) s (aaddiOp d a imm u t) := h.viaOp (OpWithin.ok Within.refl.modRegs)

theorem Within.extrOp {d : SReg} {a : SReg} {pos : Nat} {w : Nat} {t : Nat} (h : Within l s u) :
    OpWithin (also l [.tiles]) s (extrOp d a pos w u t) := h.andThenOp <| by
  unfold Machine.extrOp
  split
  · exact (OpWithin.fault).mono
  · exact Within.refl.scalarOp.mono

theorem Within.branchTo {t : Nat} {target : Int} (h : Within l s u) :
    OpWithin (also l [.tiles]) s (branchTo u t target) := h.andThenOp <| by
  unfold Machine.branchTo
  split
  · exact (OpWithin.ok Within.refl.modBody).mono
  · exact (OpWithin.fault).mono

theorem Within.branchBy {t : Nat} {off : BitVec 12} (h : Within l s u) :
    OpWithin (also l [.tiles]) s (branchBy u t off) := h.viaOp Within.refl.branchTo

theorem Within.brOp {c : Cond} {a : SReg} {off : BitVec 12} {t : Nat} (h : Within l s u) :
    OpWithin (also l [.tiles]) s (brOp c a off u t) := h.andThenOp <| by
  unfold Machine.brOp
  split
  · exact Within.refl.branchBy.mono
  · exact (OpWithin.ok Within.refl).mono

theorem Within.bdecOp {a : SReg} {off : BitVec 12} {t : Nat} (h : Within l s u) :
    OpWithin (also l [.tiles]) s (bdecOp a off u t) := h.andThenOp <| by
  unfold Machine.bdecOp
  dsimp only
  split
  · exact (OpWithin.ok Within.refl).mono
  · exact (OpWithin.ite Within.refl.modRegs.branchBy (OpWithin.ok Within.refl.modRegs)).mono

theorem Within.jalOp {d : SReg} {off : BitVec 12} {t : Nat} (h : Within l s u) :
    OpWithin (also l [.tiles]) s (jalOp d off u t) := h.viaOp Within.refl.modRegs.branchBy

theorem Within.jrOp {a : SReg} {t : Nat} (h : Within l s u) :
    OpWithin (also l [.tiles]) s (jrOp a u t) := h.andThenOp <| by
  unfold Machine.jrOp
  dsimp only
  split
  · exact (OpWithin.fault).mono
  · exact Within.refl.branchTo.mono

theorem Within.semTake {n : Nat} {v : State} (h : Within l s u) (hv : u.semTake n = some v) : Within (also l [.sched]) s v := by
  unfold State.semTake at hv
  dsimp only at hv
  split at hv
  · cases hv; exact h.setSem
  · cases hv

theorem Within.semWaitOp {n t : Nat} (h : Within l s u) : OpWithin (also l [.sched]) s (semWaitOp n u t) := h.andThenOp <| by
  unfold Machine.semWaitOp
  split
  · exact .any_fault
  · split
    · next hv => exact .ok (Within.refl.semTake hv).mono
    · exact .any_hold

theorem Within.semSignal {n : Nat} (h : Within l s u) :
    Within (also l [.sched]) s ((u.semSignal n).1) := h.andThen <| by
  unfold State.semSignal
  dsimp only
  split
  · exact Within.refl.setSem.mono
  · exact Within.refl.mono

theorem Within.semSignalOp {n t : Nat} (h : Within l s u) : OpWithin (also l [.tiles, .sched]) s (semSignalOp n u t) := h.andThenOp <| by
  unfold Machine.semSignalOp
  split
  · exact .any_fault
  · exact .ok (Within.ite Within.refl.semSignal.modTile Within.refl.semSignal).mono

theorem Within.semTryOp {n t : Nat} {d : SReg} (h : Within l s u) : OpWithin (also l [.tiles, .sched]) s (semTryOp n d u t) := h.andThenOp <| by
  unfold Machine.semTryOp
  split
  · exact .any_fault
  · split
    · next hv => exact .ok (Within.refl.semTake hv).modRegs.mono
    · exact .ok Within.refl.modRegs.mono

theorem Within.fenceOp {mout : Bool} {mask : Byte} {t : Nat} (h : Within l s u) :
    OpWithin (also l []) s (fenceOp mout mask u t) := h.andThenOp <| by
  unfold Machine.fenceOp
  split
  · exact (OpWithin.hold).mono
  · exact (OpWithin.ok Within.refl).mono

theorem Within.poolqOp {a : AReg} {t : Nat} (h : Within l s u) :
    OpWithin (also l [.clusters]) s (poolqOp a u t) := h.andThenOp <| by
  unfold Machine.poolqOp
  dsimp only
  split
  · exact (OpWithin.fault).mono
  · exact ((OpWithin.peek (fun _ => OpWithin.on [.clusters] (by
        split
        · split
          · exact (OpWithin.fault).mono
          · split
            · exact (OpWithin.fault).mono
            · exact (OpWithin.ite (OpWithin.hold) (OpWithin.ok Within.refl.setCluster)).mono
        · exact (OpWithin.fault).mono)))).mono

theorem Within.leaveInbound {ref : TaskRef} (h : Within l s u) :
    Within (also l [.array]) s (u.leaveInbound ref) := h.andThen <| by
  unfold State.leaveInbound
  split
  · split
    · split
      · exact (Within.ite Within.refl.setInbound Within.refl).mono
      · exact Within.refl.mono
    · exact Within.refl.mono
  · exact Within.refl.mono

theorem Within.withoutSegment {t : Nat} (h : Within l s u) :
    Within (also l [.assured]) s (u.withoutSegment t) := h.via Within.refl.setAssured

theorem Within.abortSegments (h : Within l s u) : Within (also l [.out, .tiles, .sched, .array, .assured]) s u.abortSegments := h.andThen <| by
  unfold State.abortSegments
  refine (Within.ite Within.refl (Within.ite Within.refl (Within.on [.out, .tiles, .sched, .array, .assured] ?_))).mono
  split
  · exact Within.refl.withoutSegment.zeroiseStart.mono
  · exact Within.refl.mono

theorem Within.startSegment {t : Nat} (h : Within l s u) :
    Within (also l [.assured]) s (u.startSegment t) := h.via (Within.ite Within.refl.setAssured Within.refl)

theorem Within.taskDone {t : Nat} (h : Within l s u) :
    Within (also l [.events, .tiles, .mem, .wcache, .sched]) s (u.taskDone t) := h.andThen <| by
  unfold State.taskDone
  dsimp only
  split
  · exact Within.refl.flushStats.setTile.mono
  · split
    · exact Within.refl.flushStats.setTile.modTask.modGraph.mono
    · exact Within.refl.flushStats.setTile.modTask.mono

theorem Within.endtOp {t : Nat} (h : Within l s u) :
    OpWithin (also l [.out, .events, .tiles, .mem, .wcache, .sched, .array, .assured]) s (endtOp u t) := h.andThenOp <| by
  unfold Machine.endtOp
  split
  · exact (OpWithin.hold).mono
  · exact (OpWithin.ok ((Within.on [.out, .events, .tiles, .mem, .wcache, .sched, .array, .assured] (by
      split
      · exact Within.refl.leaveInbound.mono
      · exact Within.refl.mono)).taskDone.startSegment.abortSegments)).mono

theorem Within.endtLogged {i : Issue} (h : Within l s u) :
    Within (also l [.out, .events, .host, .radio, .tiles, .clusters, .mem, .wcache, .sched, .array, .assured, .free]) s (endtLogged i u) := h.via
        (Within.ite ((Within.refl.runOp (fun _ _ => Within.refl.endtOp)).logRecord) ((Within.refl.runOp (fun _ _ => Within.refl.endtOp))))

theorem Within.rdtaskOp {d : SReg} {f : TaskAttr} {t : Nat} (h : Within l s u) :
    OpWithin (also l [.tiles]) s (rdtaskOp d f u t) := h.viaOp Within.refl.scalarOp

theorem Within.redSend {t level peer off : Nat} {d : RedDesc} {ref : TaskRef} (h : Within l s u) :
    OpWithin (also l [.out, .events, .tiles, .mem, .wcache, .sched, .array]) s (u.redSend t d level peer off ref) := h.andThenOp <| by
  have hput {n a : Nat} {bytes : List Byte} : Within [.events, .mem, .wcache] u (if n = 0 then u else u.extWrite a bytes) :=
    (Within.ite Within.refl Within.refl.extWrite).mono
  unfold State.redSend
  extract_lets x n a send
  have hsend (bytes : List Byte) : OpWithin [.out, .events, .tiles, .mem, .wcache, .sched, .array] u (send bytes) := by
    unfold send
    clear_value x n a 
    split
    · exact .ok (Within.refl.foldl fun _ _ => Within.refl.sendFar).sendFar.mono
    · dsimp only
      split
      · exact .any_fault
      · split
        · exact .any_fault
        · split
          · exact .ok (Within.ite hput.setSched.semSignal.modTile hput.setSched.semSignal).mono
          · exact .ok hput.setSched.mono
  clear_value send
  exact .iteSame (hsend _) (.peek hsend)

theorem Within.closeBundle {t : Nat} (h : Within l s u) :
    Within (also l [.tiles]) s (u.closeBundle t) := h.via Within.refl.modTile

theorem Within.setTags {slots : List (Nat × Nat)} {full : Bool} (h : Within l s u) :
    Within (also l [.tiles]) s (u.setTags slots full) := h.via (Within.refl.foldl (fun t x => Within.ite Within.refl.modBody.closeBundle Within.refl))

/-- A receiver's own elements are none, or its own operand. -/
theorem OpWithin.mergeOwn {b : Bool} {x : Tile} {o n : Nat} {f : Nat} {finish : List Byte → OpRes} (h : ∀ bs, OpWithin l s (finish bs)) :
    OpWithin l s (if b then finish [] else Machine.peek x o n f finish) := .iteSame (h _) (.peek h)
theorem Within.redReceive {t level : Nat} {d : RedDesc} {copyOnly : Bool} {ref : TaskRef} (h : Within l s u) :
    OpWithin (also l [.tiles, .sched]) s (u.redReceive t d level copyOnly ref) := h.andThenOp <| by
  unfold State.redReceive
  extract_lets -lift +onlyGivenNames x n
  clear_value x n
  split
  · exact .any_fault
  · split
    · exact .any_fault
    · exact .any_hold
    · next hv =>
      have hown {f : Sched} := ((Within.refl.semTake hv).setSched (x := f)).mono (l := [.sched])
      generalize refKey ref = key
      obtain ⟨job, copy⟩ := key
      dsimp -zeta only
      extract_lets -lift +onlyGivenNames mine own tr
      clear_value tr
      refine .iteSame .any_fault ?_
      refine .iteSame (.ok hown.mono) ?_
      refine .mergeOwn fun bytes => ?_
      refine .iteSame .any_fault ?_
      split
      · exact .any_hold
      · refine .iteSame .any_fault (.iteSame .any_fault (.iteSame .any_fault ?_))
        exact .ok hown.modBody.setTags.raise.mono

theorem Within.levelOp {bc : Bool} {a : AReg} {l' : Nat} {t : Nat} (h : Within l s u) :
    OpWithin (also l [.out, .events, .tiles, .mem, .wcache, .sched, .array]) s (levelOp bc a l' u t) := h.andThenOp <| by
  unfold Machine.levelOp
  dsimp only
  split
  · exact (OpWithin.fault).mono
  · exact ((OpWithin.peek (fun _ => OpWithin.on [.out, .events, .tiles, .mem, .wcache, .sched, .array] (by
        split
        · exact (OpWithin.ok Within.refl).mono
        · split
          · exact (OpWithin.fault).mono
          · exact (OpWithin.ite (OpWithin.ite Within.refl.redSend (OpWithin.ite Within.refl.redReceive (OpWithin.ok Within.refl)))
                (OpWithin.ite Within.refl.redSend (OpWithin.ite Within.refl.redReceive (OpWithin.ok Within.refl)))).mono)))).mono

theorem Within.qldOp {q : Nat} {a : AReg} {t : Nat} (h : Within l s u) :
    OpWithin (also l [.tiles]) s (qldOp q a u t) := h.andThenOp <| by
  unfold Machine.qldOp
  dsimp only
  split
  · exact (OpWithin.fault).mono
  · exact ((OpWithin.peek (fun _ => OpWithin.ite (OpWithin.fault) (OpWithin.on [.tiles] (by
        split
        · exact (OpWithin.fault).mono
        · exact (OpWithin.ite (OpWithin.fault) (OpWithin.ite (OpWithin.hold) (OpWithin.ite (OpWithin.hold)
              (OpWithin.ok Within.refl.modBody)))).mono))))).mono

theorem Within.qcrestOp {q : Nat} {sr : SReg} {t : Nat} (h : Within l s u) :
    OpWithin (also l [.tiles]) s (qcrestOp q sr u t) := h.andThenOp <| by
  unfold Machine.qcrestOp
  dsimp only
  split
  · exact (OpWithin.fault).mono
  · exact (OpWithin.ite (OpWithin.fault) (OpWithin.ok Within.refl.modBody)).mono

theorem Within.qliftOp {q : Nat} {t : Nat} (h : Within l s u) :
    OpWithin (also l [.tiles]) s (qliftOp q u t) := h.andThenOp <| by
  unfold Machine.qliftOp
  split
  · exact (OpWithin.fault).mono
  · exact (OpWithin.ok Within.refl.modBody).mono

theorem Within.qwaitOp {q : Nat} {t : Nat} (h : Within l s u) :
    OpWithin (also l []) s (qwaitOp q u t) := h.andThenOp <| by
  unfold Machine.qwaitOp
  dsimp only
  split
  · exact (OpWithin.fault).mono
  · exact (OpWithin.ite (OpWithin.ok Within.refl) (OpWithin.hold)).mono

theorem Within.sldOp {d : SReg} {a : AReg} {off : Half} {t : Nat} (h : Within l s u) :
    OpWithin (also l [.tiles]) s (sldOp d a off u t) := h.andThenOp <| by
  unfold Machine.sldOp
  dsimp only
  split
  · exact (OpWithin.fault).mono
  · exact ((OpWithin.peek (fun _ => OpWithin.ok Within.refl.modRegs))).mono

theorem Within.sstOp {d : SReg} {a : AReg} {off : Half} {t : Nat} (h : Within l s u) : OpWithin (also l [.tiles]) s (sstOp d a off u t) := h.andThenOp
    <| by
  unfold Machine.sstOp
  extract_lets x o
  refine .iteSame .any_fault (.iteSame .any_fault ?_)
  split
  · exact .any_hold
  · exact .ok Within.refl.modBody.mono

theorem Within.vldOp {v : VReg} {q : Nat} {ty : LaneTy} {t : Nat} (h : Within l s u) :
    OpWithin (also l [.tiles]) s (vldOp v q ty u t) := h.andThenOp <| by
  unfold Machine.vldOp
  dsimp only
  split
  · exact (OpWithin.fault).mono
  · exact (OpWithin.ite (OpWithin.fault) ((Within.refl.takeElems (fun _ _ => OpWithin.ok Within.refl.modRegs)))).mono

theorem Within.vstOp {v : VReg} {q : Nat} {ty : LaneTy} {t : Nat} (h : Within l s u) :
    OpWithin (also l [.tiles]) s (vstOp v q ty u t) := h.andThenOp <| by
  unfold Machine.vstOp
  dsimp only
  split
  · exact (OpWithin.fault).mono
  · exact (OpWithin.ite (OpWithin.fault) ((Within.refl.handOver (fun _ => OpWithin.ok Within.refl.raise)))).mono

theorem Within.upBegin {t : Nat} {op : VecOp} {n : Nat} (h : Within l s u) :
    Within (also l [.tiles]) s (upBegin u t op n) := h.andThen <| by
  unfold Machine.upBegin
  dsimp only
  split
  · exact (Within.ite Within.refl.modBody Within.refl).mono
  · exact (Within.ite Within.refl.modBody Within.refl).mono
  · exact Within.refl.mono

theorem Within.putLanes {t : Nat} {dst : VSel} {ty : LaneTy} {ws : List Word} {k : State → OpRes} (h : Within l s u)
    (hk : ∀ t, OpWithin l' t (k t)) : OpWithin (also l (also [.tiles] l')) s (putLanes u t dst ty ws k) := by
  cases dst with
  | v r => exact h.andThenOp (Within.refl.modRegs.mono.andThenOp (hk _))
  | q q => exact (h.handOver (l' := also [.tiles] l') fun _ => Within.refl.raise.mono.andThenOp (hk _)).weaken (by simp [also])

theorem Within.landPreds {t : Nat} {last : Bool} {ps : List (Nat × BitVec 128)} (h : Within l s u) :
    Within (also l [.tiles]) s (landPreds u t last ps) := h.via (Within.ite Within.refl.modRegs Within.refl.modBody)

theorem Within.takeLanes {t : Nat} {x : VSel} {ty : LaneTy} {n : Nat} {k : State → List Word → OpRes} (h : Within l s u)
    (hk : ∀ t ws, OpWithin l' t (k t ws)) : OpWithin (also l (also [.tiles] l')) s (takeLanes u t x ty n k) := by
  cases x with
  | v r => exact h.andThenOp (hk u _).right
  | q q => unfold Machine.takeLanes; exact h.takeElems fun t _ => hk t _

theorem Within.chainStep {t : Nat} {ch : Nat} {x : VSel} {y : VSel} {dst : VSel} {m : Nat} {last : Bool} (h : Within l s u) :
    OpWithin (also l [.tiles]) s (chainStep u t ch x y dst m last) := h.andThenOp <| by
  unfold Machine.chainStep
  dsimp only
  split
  · exact (OpWithin.fault).mono
  · split
    · exact (OpWithin.fault).mono
    · split
      · exact (OpWithin.ok Within.refl).mono
      · exact ((Within.refl.takeLanes (fun _ _ => OpWithin.on [.tiles] (by
            split
            · exact (OpWithin.ite ((Within.refl.putLanes (fun _ => OpWithin.ok Within.refl.raise.landPreds)))
                  ((Within.refl.takeLanes (fun _ _ => (Within.refl.putLanes (fun _ => OpWithin.ok Within.refl.raise.landPreds)))))).mono
            · exact ((Within.refl.takeLanes (fun _ _ => (Within.refl.putLanes (fun _ => OpWithin.ok Within.refl.raise.landPreds))))).mono)))).mono

theorem Within.redStep {t : Nat} {o : RedOp} {ty : LaneTy} {sr : SReg} {x : VSel} {pred : Option PReg} {m : Nat} (h : Within l s u) :
    OpWithin (also l [.tiles]) s (redStep u t o ty sr x pred m) := h.andThenOp <| by
  unfold Machine.redStep
  dsimp only
  split
  · exact (OpWithin.fault).mono
  · split
    · exact (OpWithin.fault).mono
    · exact (OpWithin.ite (OpWithin.ok Within.refl) ((Within.refl.takeLanes (fun _ _ => OpWithin.ok Within.refl.modRegs.raise)))).mono

theorem OpWithin.blockBytes {held : Option (List Byte)} {x : Tile} {off n : Nat} {k : List Byte → OpRes} (hk : ∀ bs, OpWithin l s (k bs)) :
    OpWithin l s (blockBytes held x off n k) := by
  cases held with
  | some b => exact hk b
  | none => exact .peek hk

/-- The last step of a quantised vector: its outliers, statistics and flags. -/
theorem Within.statsRaised {t : Nat} {f : TileBody → TileBody} {stats : Option (Fin 8)} {items : List (Option (FVal × FVal))} {r : Raised}
    (h : Within l s u) :
    OpWithin (also l [.tiles]) s (.ok ((match stats with | some k => (u.modBody t f).addStats t k.val items | none => u.modBody t f).raise t r)) :=
        h.andThenOp <| by
  cases stats with
  | some k => exact .ok Within.refl.modBody.addStats.raise.mono
  | none => exact .ok Within.refl.modBody.raise.mono

theorem Within.quantStep {t : Nat} {x : VSel} {q : Nat} {sr : SReg} {a : AReg} {stats : Option (Fin 8)} {first n total : Nat}
    {held : Option (List Byte)} (h : Within l s u) : OpWithin (also l [.tiles]) s (quantStep u t x q sr a stats first n total held) := h.andThenOp <|
        by
  unfold Machine.quantStep
  extract_lets tl f reg scale keep run
  have hrun (maps : List (List Nat)) : OpWithin [.tiles] u (run maps) :=
    .iteSame (OpWithin.ok Within.refl.mono) ((Within.refl.takeLanes (l' := [.tiles]) fun _ _ =>
      (Within.refl.handOver (l' := [.tiles]) fun _ => Within.refl.statsRaised.mono).mono).mono)
  clear_value run keep scale reg f tl
  split
  · exact .any_fault
  · refine .iteSame .any_fault (.iteSame .any_fault (.iteSame (hrun _) (.iteSame .any_fault (.iteSame (hrun _) (.blockBytes fun bs => ?_)))))
    split
    · exact hrun _
    · exact .any_fault

theorem Within.mxStep {t : Nat} {x : VSel} {q : Nat} {stats : Option (Fin 8)} {m : Nat} (h : Within l s u) :
    OpWithin (also l [.tiles]) s (mxStep u t x q stats m) := h.andThenOp <| by
  unfold Machine.mxStep
  dsimp only
  split
  · exact (OpWithin.fault).mono
  · split
    · exact (OpWithin.fault).mono
    · split
      · exact (OpWithin.ok Within.refl).mono
      · exact ((Within.refl.takeLanes (fun _ _ => (Within.refl.handOver (fun _ => OpWithin.ok ((Within.on [.tiles] (by
              split
              · exact Within.refl.addStats.mono
              · exact Within.refl.mono)).raise)))))).mono

theorem Within.requantStep {t : Nat} {x : VSel} {q : Nat} {a : AReg} {sr : SReg} {first : Nat} {m : Nat} {held : Option (List Byte)}
    (h : Within l s u) :
    OpWithin (also l [.tiles]) s (requantStep u t x q a sr first m held) := h.andThenOp <| by
  unfold Machine.requantStep
  dsimp only
  split
  · exact (OpWithin.fault).mono
  · split
    · exact (OpWithin.fault).mono
    · exact ((OpWithin.blockBytes (fun _ => OpWithin.on [.tiles] (by
          split
          · exact (OpWithin.fault).mono
          · split
            · exact (OpWithin.fault).mono
            · split
              · exact (OpWithin.ok Within.refl).mono
              · split
                · exact ((Within.refl.takeElems (fun _ _ => (Within.refl.handOver (fun _ => OpWithin.ok Within.refl.raise))))).mono
                · exact ((Within.refl.takeLanes (fun _ _ => (Within.refl.handOver (fun _ => OpWithin.ok Within.refl.raise))))).mono)))).mono

theorem Within.upStep {t : Nat} {lin : Bool} {qi : Nat} {qo : Nat} {fy : Nat} {fx : Nat} {dm : SReg} {ty : LaneTy} {n : Nat} {m : Nat}
    (h : Within l s u) :
    OpWithin (also l [.tiles]) s (upStep u t lin qi qo fy fx dm ty n m) := h.andThenOp <| by
  unfold Machine.upStep
  dsimp only
  split
  · exact (OpWithin.fault).mono
  · split
    · exact (OpWithin.fault).mono
    · exact (OpWithin.ite (OpWithin.fault) (OpWithin.ite (OpWithin.ok Within.refl) ((Within.refl.takeElems
          (fun _ _ => (Within.refl.modBody.putLanes (fun _ => OpWithin.ok Within.refl))))))).mono

theorem Within.vecStep {t : Nat} {op : VecOp} {first : Nat} {m : Nat} {n : Nat} {total : Nat} {held : Option (List Byte)} (h : Within l s u) :
    OpWithin (also l [.tiles]) s (vecStep u t op first m n total held) := h.andThenOp <| by
  unfold Machine.vecStep
  split
  · exact Within.refl.chainStep.mono
  · exact Within.refl.redStep.mono
  · exact Within.refl.quantStep.mono
  · exact Within.refl.mxStep.mono
  · exact Within.refl.requantStep.mono
  · exact Within.refl.upStep.mono
  · exact Within.refl.upStep.mono

theorem Within.vecIssue {op : VecOp} {n : SReg} {t : Nat} (h : Within l s u) : OpWithin (also l [.tiles]) s (vecIssue op n u t) := h.andThenOp <| by
  unfold Machine.vecIssue
  extract_lets x cnt per s0 start
  have hstart : OpWithin [.tiles] u start := .ok Within.refl.upBegin.modBody.mono
  have hstep {m k : Nat} : OpWithin [.tiles] u (Machine.vecStep s0 t op 0 m k cnt none) := Within.refl.upBegin.vecStep.mono
  refine .iteSame .any_fault (.iteSame hstep (.iteSame .any_fault ?_))
  split
  · exact hstart
  · exact .iteSame hstart .any_hold
  · exact hstep

theorem Within.vtscaleOp {sr : SReg} {int4 : Bool} {t : Nat} (h : Within l s u) :
    OpWithin (also l [.tiles]) s (vtscaleOp sr int4 u t) := h.andThenOp <| by
  unfold Machine.vtscaleOp
  split
  · exact (OpWithin.fault).mono
  · exact (OpWithin.ok Within.refl.modRegs.raise).mono

theorem Within.vcompressOp {x : VSel} {p : PReg} {q : Nat} {d : SReg} {t : Nat} (h : Within l s u) :
    OpWithin (also l [.tiles]) s (vcompressOp x p q d u t) := h.andThenOp <| by
  unfold Machine.vcompressOp
  dsimp only
  split
  · exact (OpWithin.fault).mono
  · split
    · exact (OpWithin.fault).mono
    · split
      · exact (OpWithin.fault).mono
      · exact ((Within.refl.takeLanes (fun _ _ => (Within.refl.handOver (fun _ => OpWithin.ok Within.refl.modRegs.raise))))).mono

theorem Within.vexpandOp {q : Nat} {p : PReg} {f : Fill} {v : VReg} {t : Nat} (h : Within l s u) :
    OpWithin (also l [.tiles]) s (vexpandOp q p f v u t) := h.andThenOp <| by
  unfold Machine.vexpandOp
  dsimp only
  split
  · exact (OpWithin.fault).mono
  · split
    · exact (OpWithin.fault).mono
    · exact ((Within.refl.takeElems (fun _ _ => OpWithin.ok Within.refl.modRegs))).mono

theorem Within.vrngOp {v : VReg} {sr : SReg} {t : Nat} (h : Within l s u) :
    OpWithin (also l [.tiles]) s (vrngOp v sr u t) := h.viaOp (OpWithin.ok Within.refl.modRegs)

theorem Within.upAbsorb {t q : Nat} (h : Within l s u) : OpWithin (also l [.tiles]) s (upAbsorb u t q) := h.andThenOp <| by
  unfold Machine.upAbsorb
  exact (Within.refl.takeElems fun _ _ => .ok Within.refl.modBody).mono

theorem Within.longStep {t : Nat} (h : Within l s u) :
    Within (also l [.events, .radio, .tiles, .clusters, .mem, .wcache, .sched, .assured]) s (longStep t u) := h.andThen <| by
  unfold Machine.longStep
  extract_lets x
  split
  · exact Within.refl.mono
  · refine (Within.ite Within.refl (Within.on [.events, .radio, .tiles, .clusters, .mem, .wcache, .sched, .assured] ?_)).mono
    extract_lets v n k
    have hv : Within [.tiles] u v := Within.refl.setTile.mono
    split
    · split
      · split
        · next hr => exact (hv.andThen (Within.refl.upAbsorb _ hr)).closeBundle.mono
        · exact hv.taskFault.mono
        · exact hv.mono
      · exact hv.modTile.mono
    · exact hv.taskFault.mono
    · next hr => exact (hv.andThen (Within.refl.vecStep _ hr)).modBody.modTile.closeBundle.mono

theorem Within.wcAsk {dom : Domain} {line : Nat} (h : Within l s u) :
    Within (also l [.wcache]) s (u.wcAsk dom line) := h.andThen <| by
  unfold State.wcAsk
  dsimp only
  split
  · exact (Within.ite Within.refl.setWcache (Within.ite Within.refl.setWcache Within.refl.setWcache)).mono
  · exact (Within.ite Within.refl.setWcache Within.refl.setWcache).mono

theorem Within.stageTensor {t : Nat} {ref : TaskRef} {x : Tensor} (h : Within l s u) :
    Within (also l [.tiles, .wcache]) s (u.stageTensor t ref x) := h.via (Within.ite Within.refl
        ((Within.refl.foldl fun t x => Within.refl.wcAsk).modBody.setTags))

theorem Within.unspill {t : Nat} {page : Nat} {slots : List Nat} (h : Within l s u) :
    Within (also l [.tiles, .clusters]) s (u.unspill t page slots) := h.via ((Within.refl.foldl fun t x => Within.refl.modBody.modBody).setCluster)

theorem Within.patchWriters {job : Word} {old : Nat} {new : Nat} (h : Within l s u) :
    Within (also l [.tiles]) s (u.patchWriters job old new) := h.via (Within.refl.foldl (fun t x => Within.refl.modTile))

theorem Within.placeOn {g : Graph} {copy : Fin 3} {k t : Nat} {peerTile : Nat → Option Nat} (h : Within l s u) :
    Within (also l [.events, .tiles, .clusters, .mem, .wcache, .sched, .array, .power, .free]) s (u.placeOn g copy k t peerTile) := h.andThen <| by
  unfold State.placeOn
  split
  · exact Within.refl.mono
  · split
    · exact Within.refl.mono
    · rename_i task _
      extract_lets d ref plan s1 s2 s3 resumed s4 s5 s6 s7 s8 draw s9
      have h2 : Within [.events, .tiles, .clusters, .mem, .wcache, .sched] u s2 := (Within.refl.modTile.modTile.foldl fun _ _ =>
          Within.refl.stageTensor).mono
      have h3 : Within [.events, .tiles, .clusters, .mem, .wcache, .sched] u s3 := by
        unfold s3
        split
        · exact h2.unspill.mono
        · exact h2
      have h4 : Within [.events, .tiles, .clusters, .mem, .wcache, .sched, .array, .power, .free] u s4 := (Within.ite h3.patchWriters h3).mono
      have h5 : Within [.events, .tiles, .clusters, .mem, .wcache, .sched, .array, .power, .free] u s5 := h4.loadTile.modTask.mono
      have h6 : Within [.events, .tiles, .clusters, .mem, .wcache, .sched, .array, .power, .free] u s6 := (h5.foldl (l' := [.tiles]) fun _ _ => by
        split
        · exact Within.refl.modRegs.mono
        · exact Within.refl.mono).mono
      have h8 : Within [.events, .tiles, .clusters, .mem, .wcache, .sched, .array, .power, .free] u s8 := h6.modTile.modGraph.mono
      have h9 : Within [.events, .tiles, .clusters, .mem, .wcache, .sched, .array, .power, .free] u s9 := (Within.ite h8 h8.draw.modTask).mono
      exact (Within.ite h9.setInbound h9).mono

theorem Within.loadCommand {t : Nat} {ref : TaskRef} (h : Within l s u) :
    Within (also l [.events, .tiles, .clusters, .mem, .wcache, .sched, .array, .power, .free]) s (loadCommand t ref u) := h.via
        (Within.ite Within.refl.tileRefusal (Within.on [.events, .tiles, .clusters, .mem, .wcache, .sched, .array, .power, .free] (by
      split
      · split
        · exact (Within.ite Within.refl.placeOn Within.refl).mono
        · exact Within.refl.mono
      · split
        · exact (Within.ite Within.refl.loadEntry Within.refl).mono
        · exact Within.refl.mono
      · split
        · exact (Within.ite Within.refl.loadRadio Within.refl).mono
        · exact Within.refl.mono)))

theorem Within.dropSaved {ref : TaskRef} (h : Within l s u) :
    Within (also l [.tiles]) s (u.dropSaved ref) := h.via (Within.refl.foldl (fun t x => Within.refl.modTile))

theorem Within.beginTask {t : Nat} {ref : TaskRef} (h : Within l s u) :
    Within (also l [.events, .radio, .tiles, .clusters, .mem, .wcache, .sched, .assured, .free]) s (u.beginTask t ref) := h.andThen <| by
  unfold State.beginTask
  dsimp only
  split
  · exact Within.refl.modTile.mono
  · exact (Within.ite Within.refl.dropSaved.taskFault (Within.on [.events, .radio, .tiles, .clusters, .mem, .wcache, .sched, .assured, .free] (by
      split
      · exact Within.refl.dropSaved.taskFault.mono
      · split
        · exact ((Within.ite Within.refl.dropSaved ((Within.refl.dropSaved.patch [.free]))).modTile).mono
        · split
          · exact ((Within.ite Within.refl.dropSaved ((Within.refl.dropSaved.patch [.free]))).taskFault).mono
          · exact ((Within.ite Within.refl.dropSaved ((Within.refl.dropSaved.patch [.free]))).modTile).mono))).mono

theorem Within.imageCheck {t : Nat} (h : Within l s u) :
    Within (also l [.events, .radio, .tiles, .clusters, .mem, .wcache, .sched, .assured, .free]) s (imageCheck t u) := h.andThen <| by
  unfold Machine.imageCheck
  dsimp only
  split
  · exact Within.refl.mono
  · exact (Within.ite Within.refl (Within.ite Within.refl.taskFault (Within.ite Within.refl.taskFault
        (Within.on [.events, .radio, .tiles, .clusters, .mem, .wcache, .sched, .assured, .free] (by
      split
      · exact Within.refl.modBody.taskFault.mono
      · exact Within.refl.beginTask.mono))))).mono

theorem Within.zeroiseTile {t : Nat} (h : Within l s u) :
    Within (also l [.out, .events, .tiles, .sched, .array]) s (zeroiseTile t u) := h.andThen <| by
  unfold Machine.zeroiseTile
  dsimp only
  split
  · exact Within.refl.zeroiseStart.mono
  · exact Within.refl.zeroiseStart.mono
  · exact Within.refl.mono
  · exact Within.refl.tileRefusal.mono

theorem Within.contextPut {a : Nat} {b : Byte} (h : Within l s u) :
    Within (also l [.radio, .sweep]) s (u.contextPut a b) := h.via (Within.ite (Within.on [.radio, .sweep] (by
      split
      · exact Within.refl.setUser.mono
      · exact Within.refl.mono)) (Within.on [.radio, .sweep] (by
      split
      · exact Within.refl.setCtx.mono
      · exact Within.refl.mono)))

theorem Within.putNth {cell : Nat} {k : Nat} {x : UlSlot} (h : Within l s u) :
    Within (also l [.radio]) s (u.putNth cell k x) := h.via Within.refl.modCell

theorem Within.bufferPut {a : Nat} {b : Byte} (h : Within l s u) :
    Within (also l [.radio]) s (u.bufferPut a b) := h.andThen <| by
  unfold State.bufferPut
  split
  · split
    · exact Within.refl.putNth.mono
    · exact Within.refl.mono
  · split
    · exact Within.refl.putNth.mono
    · exact Within.refl.mono
  · split
    · exact Within.refl.putNth.mono
    · exact Within.refl.mono
  · exact Within.refl.setRadio.mono

theorem Within.extMerge {a : Nat} {bs : List (Byte × Byte)} (h : Within l s u) :
    Within (also l [.events, .mem, .wcache]) s (u.extMerge a bs) := h.via (Within.ite Within.refl.extWrite Within.refl.extWrite)

theorem Within.cacheWrite {c : Nat} {off : Nat} {bs : List (Byte × Byte)} (h : Within l s u) :
    Within (also l [.clusters]) s (u.cacheWrite c off bs) := h.via Within.refl.setCluster

theorem Within.sluiceWrite {t off : Nat} {bs : List (Byte × Byte)} {acc closing ue : Bool} {w : Writer} {v : State} (h : Within l s u)
    (hv : u.sluiceWrite t off bs acc closing w = .done v ue) : Within (also l [.tiles]) s v := by
  unfold State.sluiceWrite at hv
  dsimp only at hv
  split at hv
  · cases hv
  · split at hv
    · cases hv; exact h.via Within.refl.setTile.closeBundle
    · cases hv

theorem Within.keepPart {t : Nat} {no : Nat} {p : Option MoutPart} (h : Within l s u) :
    Within (also l [.tiles]) s (u.keepPart t no p) := h.via (Within.ite Within.refl Within.refl.modBody)

theorem Within.addPart {t : Nat} {p : Option MoutPart} (h : Within l s u) : Within (also l [.tiles]) s (u.addPart t p) := h.via Within.refl.modBody

/-- What a landing leaves behind, done or at fault. -/
def landsWithin (l : List Part) (s : State) : Landing → Prop
  | .wait => True
  | .ok v | .fault v _ => Within l s v

theorem landsWithin.ite {c : Prop} [Decidable c] {r r' : Landing} (h : landsWithin l s r) (h' : landsWithin l s r') :
    landsWithin l s (if c then r else r') := by
  split
  · exact h
  · exact h'

theorem landsWithin.of_done {r : Landing} {v : State} (h : landsWithin l s r) (hv : r = .ok v ∨ ∃ c, r = .fault v c) : Within l s v := by
  rcases hv with rfl | ⟨c, rfl⟩ <;> exact h

theorem landWrite_within (u : State) (t q : Nat) (d : StreamDesc) (granted : List Nat) (w : PendWr) :
    landsWithin [.out, .events, .radio, .sweep, .tiles, .clusters, .mem, .wcache, .array] u (u.landWrite t q d granted w) := by
  have hstay {c : Half} : landsWithin [.out, .events, .radio, .sweep, .tiles, .clusters, .mem, .wcache, .array] u (.fault u c) :=
    (Within.refl (s := u)).mono
  unfold State.landWrite
  extract_lets x bs n here
  refine .ite (.ite hstay (.ite hstay (.ite trivial ?_))) (.ite (.ite hstay ?_) (.ite (.ite hstay ?_) ?_))
  · exact (Within.refl (s := u)).sendFar.mono
  · exact ((Within.refl (s := u)).foldl fun _ _ => Within.refl.contextPut).mono
  · exact ((Within.refl (s := u)).foldl fun _ _ => Within.refl.bufferPut).mono
  · split
    · refine .ite hstay ?_
      extract_lets a'
      exact .ite hstay (.ite (Within.refl (s := u)).extMerge.mono (Within.refl (s := u)).extMerge.mono)
    · exact .ite hstay (.ite (Within.refl (s := u)).cacheWrite.mono (Within.refl (s := u)).cacheWrite.mono)
    · refine .ite (.ite hstay (.ite trivial ?_)) (.ite hstay ?_)
      · exact .ite (Within.ite (Within.refl (s := u)).setTile.setTags (Within.refl (s := u)).setTile).mono
          (Within.ite (Within.refl (s := u)).setTile.setTags (Within.refl (s := u)).setTile).mono
      · split
        · trivial
        · next hv => exact .ite (Within.refl.sluiceWrite hv).mono (Within.refl.sluiceWrite hv).mono
    · exact hstay

theorem Within.landWrite {t q : Nat} {d : StreamDesc} {granted : List Nat} {w : PendWr} {v : State} (h : Within l s u)
    (hv : u.landWrite t q d granted w = .ok v ∨ ∃ c, u.landWrite t q d granted w = .fault v c) :
    Within (also l [.out, .events, .radio, .sweep, .tiles, .clusters, .mem, .wcache, .array]) s v :=
  h.andThen ((landWrite_within u t q d granted w).of_done hv)

theorem landEach_within (t q : Nat) : ∀ (ws : List PendWr) (u : State),
    Within [.out, .events, .radio, .sweep, .tiles, .clusters, .mem, .wcache, .sched, .array, .assured] u (State.landEach t q ws u)
  | [], _ => Within.refl.mono
  | w :: r, u => by
    have ih := landEach_within t q r
    unfold State.landEach
    dsimp only
    split
    · exact ih u
    · split
      · exact ih u
      · next hv => exact ((Within.refl.landWrite (.inl hv)).modBody.keepPart.andThen (ih _)).mono
      · next hv => exact ((Within.refl.landWrite (.inr ⟨_, hv⟩)).modBody.addPart.voidDrain.taskFault).mono

theorem Within.landEach {t q : Nat} {ws : List PendWr} (h : Within l s u) :
    Within (also l [.out, .events, .radio, .sweep, .tiles, .clusters, .mem, .wcache, .sched, .array, .assured]) s (State.landEach t q ws u) :=
  h.andThen (landEach_within t q ws u)

theorem Within.drainStream {t : Nat} {q : Nat} (h : Within l s u) :
    Within (also l [.out, .events, .radio, .sweep, .tiles, .clusters, .mem, .wcache, .sched, .array, .assured]) s (u.drainStream t q) := h.via
        (Within.ite Within.refl Within.refl.modBody.landEach)

theorem Within.spillInbound {t : Nat} {ref : TaskRef} (h : Within l s u) :
    Within (also l [.events, .clusters, .mem, .wcache, .sched]) s (u.spillInbound t ref) := h.andThen <| by
  unfold State.spillInbound
  dsimp only
  split
  · exact (Within.ite Within.refl Within.refl.setCluster.cacheWrite.modTask).mono
  · exact Within.refl.mono

theorem Within.drainEnd {t : Nat} (h : Within l s u) :
    Within (also l [.out, .events, .radio, .sweep, .tiles, .clusters, .mem, .wcache, .sched, .array, .assured]) s (drainEnd t u) := h.andThen <| by
  unfold Machine.drainEnd
  extract_lets s0 x
  have h0 : Within [.out, .events, .radio, .sweep, .tiles, .clusters, .mem, .wcache, .sched, .array, .assured] u s0 :=
    (Within.refl.flushStats.foldl fun _ _ => Within.refl.drainStream).mono
  clear_value s0 x
  split
  · extract_lets y s1 s2
    have h2 : Within [.out, .events, .radio, .sweep, .tiles, .clusters, .mem, .wcache, .sched, .array, .assured] u s2 :=
      h0.spillInbound.modTile.endCredits.modTask.mono
    clear_value s2 s1
    split
    · split
      · split
        · exact (Within.ite h2.setInbound h2).mono
        · exact h2
      · exact h2
    · exact h2
  · exact h0

theorem Within.zeroiseEnd {t : Nat} (h : Within l s u) :
    Within (also l [.tiles]) s (zeroiseEnd t u) := h.via (Within.ite Within.refl.modTile Within.refl)

theorem Within.hwFault {t : Nat} {f : HwFault} (h : Within l s u) :
    Within (also l [.events, .radio, .tiles, .clusters, .mem, .wcache, .sched, .assured]) s (hwFault t f u) := h.via
        (Within.ite ((Within.on [.events, .radio, .tiles, .clusters, .mem, .wcache, .sched, .assured] (by
      split
      · exact Within.refl.mono
      · exact Within.refl.record.mono
      · exact Within.refl.modTile.mono)).voidDrain.taskFault) Within.refl)

theorem Within.tagLimit {t : Nat} (h : Within l s u) :
    Within (also l [.out, .events, .radio, .tiles, .clusters, .mem, .wcache, .sched, .assured]) s (tagLimit t u) := h.andThen <| by
  unfold Machine.tagLimit
  dsimp only
  split
  · exact (Within.ite Within.refl.taskFault.emit Within.refl).mono
  · exact Within.refl.mono

theorem Within.scrubPolder {t : Nat} {p : Nat} (h : Within l s u) :
    Within (also l [.events, .tiles]) s (scrubPolder t p u) := h.via (Within.ite ((Within.ite
        (Within.refl.foldl (fun t x => Within.refl.record.modTile)) Within.refl).modTile)
        (Within.ite (Within.refl.foldl (fun t x => Within.refl.record.modTile)) Within.refl))

theorem Within.polderAlloc {t : Nat} {n : Nat} {p : PolderSet} (h : Within l s u) :
    Within (also l [.out, .tiles]) s (polderAlloc t n p u) := h.andThen <| by
  unfold Machine.polderAlloc
  dsimp only
  split
  · exact Within.refl.emit.mono
  · exact (Within.ite Within.refl.emit (Within.ite Within.refl.emit Within.refl.setTile)).mono

theorem Within.polderLeaves {t : Nat} {n : Nat} {st : PolderState} (h : Within l s u) :
    Within (also l [.out, .tiles, .sched, .array]) s (u.polderLeaves t n st) := h.via
        (Within.ite Within.refl.revokePolder.dropValid.modTile.closeBundle Within.refl)

theorem Within.lockedStart {t : Nat} {n : Nat} (h : Within l s u) :
    Within (also l [.tiles]) s (lockedStart t n u) := h.via (Within.ite Within.refl.setTile Within.refl)

theorem Within.polderZeroised {t : Nat} {n : Nat} (h : Within l s u) :
    Within (also l [.tiles]) s (polderZeroised t n u) := h.via (Within.ite Within.refl.setTile.closeBundle Within.refl)

theorem Within.refuseWriter {w : Writer} {cls : JobClass} {job : Word} {code : Half} (h : Within l s u) :
    Within (also l [.out, .events, .radio, .tiles, .clusters, .mem, .wcache, .sched, .array, .assured]) s (u.refuseWriter w cls job code) := h.andThen
        <| by
  unfold State.refuseWriter
  split
  · exact (Within.ite Within.refl.taskFault Within.refl).mono
  · exact Within.refl.tellDevice.mono
  · exact Within.refl.emit.mono

theorem Within.creditAsk {t : Nat} {r : CreditReq} (h : Within l s u) :
    Within (also l [.out, .events, .radio, .tiles, .clusters, .mem, .wcache, .sched, .array, .assured]) s (u.creditAsk t r) := h.andThen <| by
  unfold State.creditAsk
  split
  · exact Within.refl.refuseWriter.mono
  · exact Within.refl.modTile.mono

theorem Within.admitWaiting {t : Nat} (h : Within l s u) :
    Within (also l [.out, .events, .radio, .tiles, .clusters, .mem, .wcache, .sched, .array, .assured]) s (u.admitWaiting t) := h.via
        (Within.refl.setArray.foldl (fun t x => Within.refl.creditAsk))

theorem Within.grantCycle {t : Nat} (h : Within l s u) :
    Within (also l [.out, .events, .radio, .tiles, .clusters, .mem, .wcache, .sched, .array, .assured]) s (u.grantCycle t) := h.via
        (Within.refl.admitWaiting.setTile.foldl (fun t x => Within.on [.out, .events, .radio, .tiles, .clusters, .mem, .wcache, .sched, .array,
        .assured] (by
        split
        · exact Within.refl.tellDevice.mono
        · exact Within.refl.mono)))

theorem Within.discardWrite {t : Nat} {w : Writer} (h : Within l s u) :
    Within (also l [.out, .events, .radio, .tiles, .clusters, .mem, .wcache, .sched, .array, .assured]) s (u.discardWrite t w) := h.andThen <| by
  unfold State.discardWrite
  dsimp only
  split
  · split
    · exact Within.refl.modTile.modTile.mono
    · exact Within.refl.modTile.mono
  · exact Within.refl.modTile.refuseWriter.mono

theorem Within.remoteStore {t : Nat} {w : RemoteWr} (h : Within l s u) :
    Within (also l [.out, .events, .radio, .tiles, .clusters, .mem, .wcache, .sched, .array, .assured]) s (u.remoteStore t w) := h.andThen <| by
  unfold State.remoteStore
  split
  · exact Within.refl.discardWrite.mono
  · next hv => exact (Within.ite (Within.refl.sluiceWrite hv).refuseWriter (Within.refl.sluiceWrite hv)).mono

theorem Within.faultAway {ref : TaskRef} {tile : Nat} {code : Half} (h : Within l s u) :
    Within (also l [.events, .tiles, .clusters, .mem, .wcache, .sched, .assured]) s (u.faultAway ref tile code) := h.andThen <| by
  unfold State.faultAway
  split
  · exact (Within.ite Within.refl (Within.on [.events, .tiles, .clusters, .mem, .wcache, .sched, .assured] (by
      split
      · exact Within.refl.poolStop.dropSaved.modTask.graphFaulted.mono
      · exact Within.refl.poolStop.dropSaved.modTask.mono))).mono
  · exact Within.refl.mono

theorem Within.discardNotice {t : Nat} (h : Within l s u) :
    Within (also l [.events, .radio, .tiles, .clusters, .mem, .wcache, .sched, .assured]) s (u.discardNotice t) := h.andThen <| by
  unfold State.discardNotice
  dsimp only
  split
  · exact Within.refl.mono
  · exact (Within.ite Within.refl.modTile.taskFault Within.refl.modTile.faultAway).mono

theorem Within.remoteRead {t : Nat} {off : Nat} {n : Nat} {who : Reader} (h : Within l s u) :
    Within (also l [.out, .events, .radio, .tiles, .clusters, .mem, .wcache, .sched, .assured]) s (u.remoteRead t off n who) := h.andThen <| by
  unfold State.remoteRead
  dsimp only
  split
  · exact (Within.ite Within.refl (Within.ite Within.refl.taskFault (Within.ite Within.refl.taskFault Within.refl.emit))).mono
  · exact (Within.ite Within.refl.emit (Within.ite Within.refl.modTile.emit Within.refl.emit)).mono

theorem fetchRun_within (t : Nat) (d : StreamDesc) : ∀ (n k : Nat) (u : State), Within [.tiles] u (u.fetchRun t d n k).st
  | 0, _, _ => Within.refl.mono
  | n + 1, k, u => by
    have ih := fetchRun_within t d n (k + 1)
    unfold State.fetchRun
    dsimp only
    split
    · exact Within.refl.mono
    · split
      · exact Within.refl.mono
      · exact Within.refl.mono
      · exact ((Within.ite (Within.ite Within.refl.setTags Within.refl).modTile (Within.ite Within.refl.setTags Within.refl)).andThen (ih _)).mono

theorem Within.fetchRun {t n k : Nat} {d : StreamDesc} (h : Within l s u) : Within (also l [.tiles]) s (u.fetchRun t d n k).st :=
  h.andThen (fetchRun_within t d n k u)

theorem Within.wcRun {t : Nat} {d : StreamDesc} {from' : Nat} {n : Nat} (h : Within l s u) :
    Within (also l [.wcache]) s (u.wcRun t d from' n) := h.via (Within.ite (Within.refl.foldl (fun t x => Within.refl.wcAsk)) Within.refl)

theorem Within.fetchStep {t : Nat} {q : Nat} {n : Nat} (h : Within l s u) :
    Within (also l [.events, .tiles, .mem, .wcache]) s (fetchStep t q n u) := h.via
        (Within.ite Within.refl (Within.ite Within.refl (Within.ite Within.refl ((Within.ite
        ((Within.ite Within.refl.fetchRun.wcRun.setWcache Within.refl.fetchRun.wcRun).memUe)
        (Within.ite Within.refl.fetchRun.wcRun.setWcache Within.refl.fetchRun.wcRun)).modBody.closeBundle))))

theorem Within.ringLand {t k : Nat} {d : StreamDesc} {e : Elem} {v : State} (h : Within l s u) (hv : u.ringLand t d k e = some v) :
    Within (also l [.tiles]) s v := by
  unfold State.ringLand at hv
  dsimp only at hv
  split at hv
  · cases hv
  · cases hv; exact h.via (Within.refl.foldl fun _ _ => Within.refl.modBody).setTags

theorem ringRun_within (t q : Nat) : ∀ (n : Nat) (u : State),
    Within [.events, .radio, .tiles, .clusters, .mem, .wcache, .sched, .assured] u (State.ringRun t q n u)
  | 0, _ => Within.refl.mono
  | n + 1, u => by
    have ih := ringRun_within t q n
    unfold State.ringRun
    dsimp only
    split
    · exact Within.refl.mono
    · split
      · exact Within.refl.taskFault.mono
      · split
        · exact Within.refl.mono
        · next hv => exact ((Within.refl.ringLand hv).modBody.andThen (ih _)).mono

theorem Within.ringRun {t q n : Nat} (h : Within l s u) :
    Within (also l [.events, .radio, .tiles, .clusters, .mem, .wcache, .sched, .assured]) s (State.ringRun t q n u) :=
  h.andThen (ringRun_within t q n u)

theorem Within.fetchBack {t : Nat} {q : Nat} (h : Within l s u) :
    Within (also l [.events, .radio, .tiles, .clusters, .mem, .wcache, .sched, .assured]) s (fetchBack t q u) := h.via
        (Within.ite Within.refl (Within.on [.events, .radio, .tiles, .clusters, .mem, .wcache, .sched, .assured] (by
      split
      · exact Within.refl.mono
      · exact (Within.ite (Within.ite Within.refl.modBody.closeBundle.ringRun Within.refl.modBody.closeBundle)
            ((Within.ite Within.refl.modBody.closeBundle.ringRun Within.refl.modBody.closeBundle).taskFault)).mono)))

theorem Within.askFar {t : Nat} {q : Nat} {w : PendWr} (h : Within l s u) :
    Within (also l [.out, .tiles, .array]) s (u.askFar t q w) := h.via (Within.ite Within.refl Within.refl.modBody.sendFar)

theorem Within.writeLanded {t q : Nat} {w : PendWr} (h : Within l s u) : Within (also l [.tiles]) s (u.writeLanded t q w) := h.via Within.refl.modBody

theorem landRun_within (t q : Nat) : ∀ (n : Nat) (u : State),
    Within [.out, .events, .radio, .sweep, .tiles, .clusters, .mem, .wcache, .sched, .array, .assured] u (State.landRun t q n u)
  | 0, _ => Within.refl.mono
  | n + 1, u => by
    have ih := landRun_within t q n
    unfold State.landRun
    dsimp only
    split
    · exact Within.refl.mono
    · split
      · exact Within.refl.askFar.mono
      · next hv => exact ((Within.refl.landWrite (.inl hv)).writeLanded.keepPart.andThen (ih _)).mono
      · next hv => exact (Within.refl.landWrite (.inr ⟨_, hv⟩)).writeLanded.addPart.taskFault.mono

theorem Within.landRun {t q n : Nat} (h : Within l s u) :
    Within (also l [.out, .events, .radio, .sweep, .tiles, .clusters, .mem, .wcache, .sched, .array, .assured]) s (State.landRun t q n u) :=
  h.andThen (landRun_within t q n u)

theorem Within.landStep {t : Nat} {q : Nat} {n : Nat} (h : Within l s u) :
    Within (also l [.out, .events, .radio, .sweep, .tiles, .clusters, .mem, .wcache, .sched, .array, .assured]) s (landStep t q n u) := h.via
        (Within.ite Within.refl.closeBundle.landRun (Within.ite Within.refl.closeBundle.ringRun Within.refl))

theorem Within.wcFill {line : Nat} (h : Within l s u) :
    Within (also l [.wcache]) s (wcFill line u) := h.andThen <| by
  unfold Machine.wcFill
  dsimp only
  split
  · exact Within.refl.mono
  · exact Within.refl.setWcache.mono

theorem Within.refresh {c : Nat} {hot : Bool} (h : Within l s u) :
    Within (also l [.mem]) s (refresh c hot u) := h.via (Within.ite Within.refl.setMem Within.refl.setMem)

theorem Within.patrol (h : Within l s u) :
    Within (also l [.events, .mem]) s (patrol u) := h.via (Within.ite ((Within.refl.foldl fun t x => Within.refl.memUe).setMem) Within.refl)

theorem Within.pageRelease {c : Nat} {p : Nat} (h : Within l s u) :
    Within (also l [.clusters]) s (pageRelease c p u) := h.via (Within.ite Within.refl Within.refl.setCluster)

theorem Within.poolStart {c : Nat} (h : Within l s u) : Within (also l [.clusters, .sched]) s (poolStart c u) := h.andThen <| by
  unfold Machine.poolStart
  dsimp only
  split
  · split
    · exact Within.refl.setCluster.mono
    · split
      · exact Within.refl.setCluster.mono
      · split
        · next hv => exact (Within.refl.semTake hv).setCluster.mono
        · exact Within.refl.mono
  · exact Within.refl.mono

theorem Within.poolWrite {c : Nat} {d : PoolDesc} {n : Nat} (h : Within l s u) :
    Within (also l [.clusters]) s (u.poolWrite c d n) := h.via (Within.refl.foldl (fun t x => Within.refl.cacheWrite))

theorem Within.poolSignal {ref : TaskRef} {n : Nat} (h : Within l s u) : Within (also l [.events, .mem, .wcache, .sched]) s (u.poolSignal ref n) :=
  h.via (Within.ite Within.refl.semSignal.modTask Within.refl.semSignal)

theorem Within.poolEnd {c : Nat} (h : Within l s u) :
    Within (also l [.events, .radio, .tiles, .clusters, .mem, .wcache, .sched, .assured, .free]) s (poolEnd c u) := h.andThen <| by
  unfold Machine.poolEnd
  dsimp only
  split
  · exact Within.refl.mono
  · split
    · exact Within.refl.setCluster.mono
    · split
      · exact ((Within.refl.patch [.free]).poolWrite.setCluster).mono
      · split
        · split
          · exact Within.refl.setCluster.voidDrain.taskFault.mono
          · exact Within.refl.setCluster.faultAway.mono
        · exact (Within.ite Within.refl.poolWrite.setCluster Within.refl.poolWrite.setCluster.poolSignal).mono

theorem Within.takeJob (h : Within l s u) :
    Within (also l [.sched]) s u.takeJob.2 := h.via Within.refl.setSched

theorem Within.seqEntry {r : BatchRec} {m : Member} (h : Within l s u) :
    Within (also l [.events, .mem, .wcache, .free]) s (u.seqEntry r m) := h.via (Within.ite Within.refl.extWrite
        ((Within.refl.patch [.free]).extWrite))

theorem Within.applyStep {r : BatchRec} (h : Within l s u) :
    Within (also l [.events, .mem, .wcache, .sched, .free]) s ((u.applyStep r).1) := h.via
        (Within.refl.setSched.foldl (fun t x => Within.refl.seqEntry))

theorem Within.admitGraph {h' : QcpHdr} {b : SubmitBody} {a : Admission} (h : Within l s u) :
    Within (also l [.out, .events, .tiles, .clusters, .mem, .wcache, .sched, .array, .assured, .sec, .free]) s ((u.admitGraph h' b a).1) := h.via
        ((Within.ite ((Within.on [.out, .events, .tiles, .clusters, .mem, .wcache, .sched, .array, .assured, .sec, .free] (by
      split
      · exact (((((Within.on [.out, .events, .tiles, .clusters, .mem, .wcache, .sched, .array, .assured, .sec, .free] (by
          split
          · exact Within.refl.setSched.applyStep.mono
          · exact Within.refl.setSched.mono)).foldl fun t x => Within.refl.setSem)).foldl fun t x => Within.refl.setCluster).setAssured).mono
      · exact (((((Within.on [.out, .events, .tiles, .clusters, .mem, .wcache, .sched, .array, .assured, .sec, .free] (by
          split
          · exact Within.refl.setSched.applyStep.mono
          · exact Within.refl.setSched.mono)).foldl fun t x => Within.refl.setSem)).foldl fun t x => Within.refl.setCluster)).mono)).setSec)
                (Within.on [.out, .events, .tiles, .clusters, .mem, .wcache, .sched, .array, .assured, .sec, .free] (by
      split
      · exact (((((Within.on [.out, .events, .tiles, .clusters, .mem, .wcache, .sched, .array, .assured, .sec, .free] (by
          split
          · exact Within.refl.setSched.applyStep.mono
          · exact Within.refl.setSched.mono)).foldl fun t x => Within.refl.setSem)).foldl fun t x => Within.refl.setCluster).setAssured).mono
      · exact (((((Within.on [.out, .events, .tiles, .clusters, .mem, .wcache, .sched, .array, .assured, .sec, .free] (by
          split
          · exact Within.refl.setSched.applyStep.mono
          · exact Within.refl.setSched.mono)).foldl fun t x => Within.refl.setSem)).foldl fun t x =>
                Within.refl.setCluster)).mono))).setSched.abortSegments)

theorem Within.submitBody {h' : QcpHdr} {b : SubmitBody} (h : Within l s u) :
    Within (also l [.out, .events, .host, .tiles, .clusters, .mem, .wcache, .sched, .array, .assured, .sec, .free]) s ((submitBody h' b u).1) :=
        h.andThen <| by
  unfold Machine.submitBody
  split
  · exact Within.refl.mono
  · exact (Within.ite ((Within.ite ((Within.on [.out, .events, .host, .tiles, .clusters, .mem, .wcache, .sched, .array, .assured, .sec, .free] (by
      split
      · exact (((((Within.on [.out, .events, .host, .tiles, .clusters, .mem, .wcache, .sched, .array, .assured, .sec, .free] (by
          split
          · exact Within.refl.setSched.applyStep.mono
          · exact Within.refl.setSched.mono)).foldl fun t x => Within.refl.setSem)).foldl fun t x => Within.refl.setCluster).setAssured).mono
      · exact (((((Within.on [.out, .events, .host, .tiles, .clusters, .mem, .wcache, .sched, .array, .assured, .sec, .free] (by
          split
          · exact Within.refl.setSched.applyStep.mono
          · exact Within.refl.setSched.mono)).foldl fun t x => Within.refl.setSem)).foldl fun t x => Within.refl.setCluster)).mono)).setSec)
                (Within.on [.out, .events, .host, .tiles, .clusters, .mem, .wcache, .sched, .array, .assured, .sec, .free] (by
      split
      · exact (((((Within.on [.out, .events, .host, .tiles, .clusters, .mem, .wcache, .sched, .array, .assured, .sec, .free] (by
          split
          · exact Within.refl.setSched.applyStep.mono
          · exact Within.refl.setSched.mono)).foldl fun t x => Within.refl.setSem)).foldl fun t x => Within.refl.setCluster).setAssured).mono
      · exact (((((Within.on [.out, .events, .host, .tiles, .clusters, .mem, .wcache, .sched, .array, .assured, .sec, .free] (by
          split
          · exact Within.refl.setSched.applyStep.mono
          · exact Within.refl.setSched.mono)).foldl fun t x => Within.refl.setSem)).foldl fun t x =>
                Within.refl.setCluster)).mono))).setSched.abortSegments) ((Within.ite
                ((Within.on [.out, .events, .host, .tiles, .clusters, .mem, .wcache, .sched, .array, .assured, .sec, .free] (by
      split
      · exact (((((Within.on [.out, .events, .host, .tiles, .clusters, .mem, .wcache, .sched, .array, .assured, .sec, .free] (by
          split
          · exact Within.refl.setSched.applyStep.mono
          · exact Within.refl.setSched.mono)).foldl fun t x => Within.refl.setSem)).foldl fun t x => Within.refl.setCluster).setAssured).mono
      · exact (((((Within.on [.out, .events, .host, .tiles, .clusters, .mem, .wcache, .sched, .array, .assured, .sec, .free] (by
          split
          · exact Within.refl.setSched.applyStep.mono
          · exact Within.refl.setSched.mono)).foldl fun t x => Within.refl.setSem)).foldl fun t x => Within.refl.setCluster)).mono)).setSec)
                (Within.on [.out, .events, .host, .tiles, .clusters, .mem, .wcache, .sched, .array, .assured, .sec, .free] (by
      split
      · exact (((((Within.on [.out, .events, .host, .tiles, .clusters, .mem, .wcache, .sched, .array, .assured, .sec, .free] (by
          split
          · exact Within.refl.setSched.applyStep.mono
          · exact Within.refl.setSched.mono)).foldl fun t x => Within.refl.setSem)).foldl fun t x => Within.refl.setCluster).setAssured).mono
      · exact (((((Within.on [.out, .events, .host, .tiles, .clusters, .mem, .wcache, .sched, .array, .assured, .sec, .free] (by
          split
          · exact Within.refl.setSched.applyStep.mono
          · exact Within.refl.setSched.mono)).foldl fun t x => Within.refl.setSem)).foldl fun t x =>
                Within.refl.setCluster)).mono))).setSched.abortSegments.tracePoint)).mono

theorem Within.taskPlace (h : Within l s u) :
    Within (also l [.events, .tiles, .clusters, .mem, .wcache, .sched, .array, .power, .free]) s (taskPlace u) := h.andThen <| by
  unfold Machine.taskPlace
  split
  · exact Within.refl.mono
  · exact (Within.refl.foldl (fun t x => Within.on [.events, .tiles, .clusters, .mem, .wcache, .sched, .array, .power, .free] (by
        split
        · exact Within.refl.placeOn.mono
        · exact Within.refl.mono))).mono

theorem Within.yieldTask {t : Nat} (h : Within l s u) :
    Within (also l [.events, .tiles, .mem, .wcache, .sched]) s (yieldTask t u) := h.andThen <| by
  unfold Machine.yieldTask
  dsimp only
  split
  · exact (Within.ite Within.refl.modTile.modTask Within.refl).mono
  · exact Within.refl.mono

theorem Within.lockPage {page : Nat} (h : Within l s u) :
    Within (also l [.clusters]) s (u.lockPage page) := h.via Within.refl.setCluster

theorem Within.dropTask {ref : TaskRef} {k : TaskSt} (h : Within l s u) :
    Within (also l [.events, .tiles, .clusters, .mem, .wcache, .sched]) s (u.dropTask ref k) := h.andThen <| by
  unfold State.dropTask
  split
  · exact ((Within.on [.events, .tiles, .clusters, .mem, .wcache, .sched] (by
      split
      · exact Within.refl.lockPage.mono
      · exact Within.refl.mono)).poolStop.dropSaved.modTask).mono
  · exact ((Within.on [.events, .tiles, .clusters, .mem, .wcache, .sched] (by
      split
      · exact Within.refl.lockPage.mono
      · exact Within.refl.mono)).poolStop.dropSaved.modTask).mono
  · exact ((Within.on [.events, .tiles, .clusters, .mem, .wcache, .sched] (by
      split
      · exact Within.refl.lockPage.mono
      · exact Within.refl.mono)).poolStop.dropSaved.modTask).mono
  · exact Within.refl.mono

theorem Within.endTasks {g : Graph} (h : Within l s u) : Within (also l [.out, .events, .tiles, .clusters, .mem, .wcache, .sched, .array]) s
    (u.endTasks g) := by
  have hkill (t : State) (k : Nat) : Within [.out, .events, .tiles, .clusters, .mem, .wcache, .sched, .array] t
      (match (t.tile k).ref with | some (.graph job _ _) => if job = g.job then Machine.killTile k t else t | _ => t) := by
    split
    · exact (Within.ite Within.refl.killTile Within.refl).mono
    · exact Within.refl.mono
  refine h.andThen ?_
  unfold State.endTasks
  dsimp only
  split
  · exact (Within.refl.foldl hkill).mono
  · exact ((Within.refl.foldl hkill).foldl fun _ _ => Within.refl.foldl fun _ _ => Within.refl.dropTask).mono

theorem Within.leaveArray {g : Graph} (h : Within l s u) :
    Within (also l [.sched, .array]) s (u.leaveArray g) := h.via ((Within.ite Within.refl Within.refl.setArray).setSched)

theorem Within.leavePages {g : Graph} (h : Within l s u) :
    Within (also l [.clusters]) s (u.leavePages g) := h.via (Within.refl.foldl (fun t x => Within.refl.setCluster))

theorem Within.leavePolders {g : Graph} {st : PolderState} (h : Within l s u) :
    Within (also l [.out, .tiles, .sched, .array]) s (u.leavePolders g st) := h.via
        (Within.refl.foldl (fun t x => Within.refl.foldl (fun t x => Within.ite Within.refl.polderLeaves Within.refl)))

theorem Within.graphEnd {job : Word} (h : Within l s u) :
    Within (also l [.out, .events, .tiles, .clusters, .mem, .wcache, .sched, .array]) s (graphEnd job u) := h.andThen <| by
  unfold Machine.graphEnd
  split
  · exact Within.refl.mono
  · exact (Within.ite Within.refl Within.refl.modGraph.endTasks.leavePolders.leavePages.leaveArray).mono

theorem Within.sendSink {g : Graph} {n : Nat} (h : Within l s u) :
    Within (also l [.out, .capture, .net]) s (u.sendSink g n) := h.andThen <| by
  unfold State.sendSink
  split
  · exact Within.refl.mono
  · split
    · exact Within.refl.sendAqmor.mono
    · exact Within.refl.modPort.mono

theorem Within.extZero {a : Nat} {n : Nat} (h : Within l s u) : Within (also l [.mem, .wcache]) s (u.extZero a n) :=
  h.andThen (.of_adopt rfl fun hu => extZero_memWf hu a n)

theorem Within.batchDone {g : Graph} (h : Within l s u) :
    Within (also l [.sched]) s (u.batchDone g) := h.andThen <| by
  unfold State.batchDone
  split
  · exact Within.refl.mono
  · exact Within.refl.setSched.mono

theorem Within.notify {session : Nat} {type : Half} {body : ReplyBody} (h : Within l s u) :
    Within (also l [.out, .host]) s (u.notify session type body) := h.andThen <| by
  unfold State.notify
  split
  · exact Within.refl.setHost.mono
  · split
    · exact Within.refl.mono
    · exact Within.refl.setSession.setHost.emit.mono

theorem Within.complete {job : Word} (h : Within l s u) :
    Within (also l [.out, .host, .clusters, .mem, .wcache, .sched, .capture, .assured, .sec, .net]) s (complete job u) := h.andThen <| by
  unfold Machine.complete
  split
  · exact Within.refl.mono
  · dsimp only
    split
    · exact Within.refl.mono
    · exact ((Within.on [.out, .host, .clusters, .mem, .wcache, .sched, .capture, .assured, .sec, .net] (by
        split
        · exact (((((((Within.ite ((Within.refl.foldl fun t x => Within.refl.sendSink)) Within.refl).foldl fun t x =>
              Within.refl.extZero).setAssured).foldl fun t x => Within.refl.setSem)).foldl fun t x => Within.refl.setCluster).setSec).mono
        · exact (((((((Within.ite ((Within.refl.foldl fun t x => Within.refl.sendSink)) Within.refl).foldl fun t x =>
              Within.refl.extZero).setAssured).foldl fun t x => Within.refl.setSem)).foldl fun t x =>
              Within.refl.setCluster)).mono)).batchDone.setSched.setHost.notify.digestAdd).mono

theorem Within.setNotices {ns : List Notice} (h : Within l s u) :
    Within (also l [.host]) s (u.setNotices ns) := h.via Within.refl.setHost

theorem Within.resend {session : Nat} {seq : Word} (h : Within l s u) :
    Within (also l [.out, .host]) s (resend session seq u) := h.andThen <| by
  unfold Machine.resend
  dsimp only
  split
  · exact Within.refl.mono
  · exact (Within.ite Within.refl (Within.ite Within.refl.setNotices.setHost (Within.ite Within.refl.setNotices.notify
        Within.refl.setNotices.emit))).mono

theorem Within.acknowledge {session : Nat} {ref : Word} (h : Within l s u) :
    Within (also l [.host]) s (acknowledge session ref u) := h.via (Within.ite Within.refl.setNotices.setSession Within.refl)

theorem Within.killGraph {g : Graph} (h : Within l s u) :
    Within (also l [.out, .events, .tiles, .clusters, .mem, .wcache, .sched, .array]) s (u.killGraph g) := h.via Within.refl.graphKilled.endTasks

theorem Within.killBody {job : Word} (h : Within l s u) :
    Within (also l [.out, .events, .tiles, .clusters, .mem, .wcache, .sched, .array, .assured]) s ((killBody job u).1) := h.andThen <| by
  unfold Machine.killBody
  split
  · exact Within.refl.mono
  · split
    · exact Within.refl.mono
    · split
      · exact Within.refl.withhold.endTasks.mono
      · exact Within.refl.killGraph.mono

theorem Within.statusBody {job : Word} (h : Within l s u) :
    Within (also l []) s ((statusBody job u).1) := h.andThen <| by
  unfold Machine.statusBody
  split
  · exact Within.refl.mono
  · exact Within.refl.mono

theorem Within.cycLoadBody {addr : Dword} (h : Within l s u) :
    Within (also l [.sched]) s ((cycLoadBody addr u).1) := h.andThen <| by
  unfold Machine.cycLoadBody
  split
  · exact Within.refl.mono
  · exact Within.refl.setSched.mono

theorem Within.undecided {job : Word} (h : Within l s u) :
    Within (also l [.sched]) s (u.undecided job) := h.via (Within.ite Within.refl.modGraph Within.refl)

theorem Within.assuredLate {job : Word} (h : Within l s u) :
    Within (also l [.events, .mem, .wcache, .sched, .capture, .assured]) s (u.assuredLate job) := h.via Within.refl.withhold.captureDecision

theorem Within.graphDeadline {job : Word} (h : Within l s u) :
    Within (also l [.out, .events, .tiles, .clusters, .mem, .wcache, .sched, .array, .capture, .assured]) s (graphDeadline job u) := h.andThen <| by
  unfold Machine.graphDeadline
  split
  · exact Within.refl.mono
  · exact (Within.ite (Within.ite Within.refl.modGraph Within.refl) (Within.ite Within.refl
        (Within.ite Within.refl.undecided.replayTaken.assuredLate.endTasks Within.refl.undecided.replayTaken.modGraph.killGraph.captureDecision))).mono

theorem Within.assuredDeadline {job : Word} {task : Option Nat} (h : Within l s u) :
    Within (also l [.out, .events, .tiles, .clusters, .mem, .wcache, .sched, .array, .capture, .assured]) s (assuredDeadline job task u) := h.andThen
        <| by
  unfold Machine.assuredDeadline
  split
  · exact Within.refl.mono
  · exact (Within.ite ((Within.on [.out, .events, .tiles, .clusters, .mem, .wcache, .sched, .array, .capture, .assured] (by
      split
      · exact (Within.refl.undecided.replayTaken.foldl (fun t x => Within.refl.modTask)).mono
      · exact Within.refl.undecided.replayTaken.mono)).assuredLate.endTasks) Within.refl).mono

theorem Within.cspSignal {c : Nat} {n : BitVec 4} (h : Within l s u) :
    Within (also l [.csps, .sched]) s (State.cspSignal c u n) := h.andThen <| by
  unfold State.cspSignal
  split
  · exact Within.refl.semSignal.mono
  · exact Within.refl.setCsp.mono

theorem Within.cspFlush {c : Nat} (h : Within l s u) :
    Within (also l [.out, .csps, .sched]) s (u.cspFlush c) := h.via ((Within.refl.setCsp.foldl (fun t x => Within.refl.emit)).foldl
        (fun t x => Within.refl.cspSignal))

theorem Within.cspFault {c : Nat} {f : CspFault} (h : Within l s u) :
    Within (also l [.events, .sweep, .csps]) s (u.cspFault c f) := h.via (Within.refl.setCsp.record.foldl (fun t x => Within.refl.modChan))

theorem Within.cspSettle {c : Nat} {r : CspRes} (h : Within l s u) :
    Within (also l [.out, .events, .sweep, .csps, .sched]) s (u.cspSettle c r) := h.andThen <| by
  unfold State.cspSettle
  split
  · exact (Within.ite Within.refl.setCsp Within.refl.setCsp.cspFlush).mono
  · exact Within.refl.cspFault.mono

theorem Within.cspBoundary {c : Nat} (h : Within l s u) :
    Within (also l [.out, .events, .sweep, .csps, .sched]) s (u.cspBoundary c) := h.via (Within.ite Within.refl.cspSettle Within.refl)

theorem Within.runCsp {i : CspIssue} {o : CspSlot} {f : Csp → CspRes} (h : Within l s u) :
    Within (also l [.out, .events, .sweep, .csps, .sched]) s (runCsp u i o f) := h.via
        (Within.ite Within.refl (Within.ite (Within.ite Within.refl.cspSettle Within.refl)
        (Within.ite Within.refl.cspBoundary (Within.ite Within.refl.cspBoundary.cspSettle
        (Within.ite Within.refl.cspBoundary.cspSettle.setCsp.cspFault (Within.ite Within.refl.cspBoundary.cspSettle.setCsp.cspFault
        (Within.ite Within.refl.cspBoundary.cspSettle Within.refl.cspBoundary.cspSettle.setCsp.cspSettle)))))))

theorem Within.cspInterrupt {c : Nat} (h : Within l s u) :
    Within (also l [.out, .events, .sweep, .csps, .sched]) s (cspInterrupt c u) := h.via
        (Within.ite Within.refl.cspBoundary (Within.on [.out, .events, .sweep, .csps, .sched] (by
      split
      · exact Within.refl.cspBoundary.setCsp.mono
      · exact Within.refl.cspBoundary.mono)))

theorem Within.cspAccess {c : Nat} {a : CspAccess} (h : Within l s u) :
    Within (also l [.out, .events, .sweep, .csps, .sched]) s (u.cspAccess c a) := h.via
        (Within.ite Within.refl.emit (Within.ite Within.refl.cspSettle Within.refl.setCsp))

theorem Within.externalAccess {c : Nat} {cause : CspCause} {a : CspAccess} (h : Within l s u) :
    Within (also l [.out, .events, .sweep, .csps, .sched]) s (externalAccess c cause a u) := h.via
        ((Within.on [.out, .events, .sweep, .csps, .sched] (by
      split
      · exact Within.refl.cspPend.mono
      · exact Within.refl.mono)).cspAccess)

theorem Within.externalSteal {c : Nat} (h : Within l s u) : Within (also l [.out, .events, .sweep, .csps, .sched]) s (externalSteal c u) := h.andThen
    <| by
  unfold Machine.externalSteal
  exact Within.refl.cspSettle.mono

theorem Within.sendIdentity {k : Nat} (h : Within l s u) :
    Within (also l [.out, .array, .free]) s (u.sendIdentity k) := h.via Within.refl.draw.setLink.emit

theorem Within.arrayConfigBody {nx : Nat} {ny : Nat} {x : Nat} {y : Nat} {master : Nat} (h : Within l s u) :
    Within (also l [.out, .time, .array, .power, .free]) s ((arrayConfigBody nx ny x y master u).1) := h.andThen <| by
  unfold Machine.arrayConfigBody
  split
  · exact Within.refl.mono
  · exact (Within.ite ((Within.refl.setArray.foldl fun t x => Within.ite Within.refl.wakeDomain.sendIdentity Within.refl.setPowerOf).setTime)
        ((Within.refl.setArray.foldl fun t x => Within.ite Within.refl.wakeDomain.sendIdentity Within.refl.setPowerOf))).mono

theorem flushLink_within (k : Nat) : ∀ (n : Nat) (u : State), Within [.out, .array] u (State.flushLink k n u)
  | 0, _ => Within.refl.mono
  | n + 1, u => by
    have ih := flushLink_within k n
    unfold State.flushLink
    dsimp only
    split
    · exact Within.refl.mono
    · split
      · exact (Within.refl.setLink.putFlit.andThen (ih _)).mono
      · exact Within.refl.mono

theorem Within.flushLink {k n : Nat} (h : Within l s u) : Within (also l [.out, .array]) s (State.flushLink k n u) :=
  h.andThen (flushLink_within k n u)

theorem Within.holdover (h : Within l s u) :
    Within (also l [.time]) s u.holdover := h.via (Within.ite Within.refl Within.refl.setTime)

theorem Within.parentLost {k : Nat} (h : Within l s u) :
    Within (also l [.events, .time, .array]) s (u.parentLost k) := h.via (Within.ite Within.refl.setArray.record.holdover Within.refl)

theorem Within.linkFalls {k : Nat} (h : Within l s u) :
    Within (also l [.events, .time, .radio, .tiles, .clusters, .mem, .wcache, .sched, .array, .assured]) s (u.linkFalls k) := h.via
        ((Within.refl.setLink.foldl fun t x => Within.ite Within.refl.taskFault Within.refl).parentLost)

theorem Within.linkDown {k : Nat} (h : Within l s u) :
    Within (also l [.events, .time, .radio, .tiles, .clusters, .mem, .wcache, .sched, .array, .assured]) s (u.linkDown k) := h.via
        Within.refl.linkFalls.record

theorem Within.replayLink {k : Nat} (h : Within l s u) :
    Within (also l [.out, .events, .time, .radio, .tiles, .clusters, .mem, .wcache, .sched, .array, .assured]) s (u.replayLink k) := h.via
        (Within.ite Within.refl (Within.ite Within.refl.linkDown (Within.ite ((Within.refl.setLink.foldl fun t x => Within.refl.emit).linkDown)
        ((Within.refl.setLink.foldl fun t x => Within.refl.emit)))))

theorem Within.linkAdmit {k : Nat} {i : LinkIdentity} (h : Within l s u) :
    Within (also l [.out, .events, .time, .radio, .tiles, .clusters, .mem, .wcache, .sched, .array, .assured]) s (linkAdmit k i u) := h.via
        (Within.ite Within.refl (Within.ite ((Within.ite Within.refl.setLink.setArray Within.refl.setLink).replayLink.flushLink)
        Within.refl.setLink.record))

theorem Within.admitTimeout {k : Nat} (h : Within l s u) :
    Within (also l [.events, .time, .radio, .tiles, .clusters, .mem, .wcache, .sched, .array, .assured]) s (admitTimeout k u) := h.via
        (Within.ite Within.refl.linkFalls Within.refl)

theorem Within.farWrite {f : Flit} {b : List Byte} (h : Within l s u) :
    Within (also l [.out, .events, .radio, .tiles, .clusters, .mem, .wcache, .sched, .array, .assured]) s (u.farWrite f b) := h.via
        (Within.ite (Within.on [.out, .events, .radio, .tiles, .clusters, .mem, .wcache, .sched, .array, .assured] (by
      split
      · exact Within.refl.mono
      · exact Within.refl.remoteStore.mono)) (Within.ite Within.refl.tellDevice (Within.ite Within.refl.tellDevice
            (Within.ite Within.refl.extMerge.tellDevice Within.refl.extMerge))))

theorem Within.farAsk {f : Flit} (h : Within l s u) :
    Within (also l [.out, .events, .radio, .tiles, .clusters, .mem, .wcache, .sched, .array, .assured]) s (u.farAsk f) := h.andThen <| by
  unfold State.farAsk
  dsimp only
  split
  · exact Within.refl.creditAsk.mono
  · exact Within.refl.setArray.mono

theorem Within.farTold {kind : Nat} {b : List Byte} (h : Within l s u) :
    Within (also l [.events, .radio, .tiles, .clusters, .mem, .wcache, .sched, .assured]) s (u.farTold kind b) := h.via
        (Within.ite (Within.ite Within.refl.modBody Within.refl) (Within.ite (Within.ite Within.refl.modBody Within.refl)
        (Within.ite Within.refl.taskFault Within.refl)))

theorem Within.farSignal {b : List Byte} (h : Within l s u) :
    Within (also l [.sched]) s (u.farSignal b) := h.andThen <| by
  unfold State.farSignal
  dsimp only
  split
  · exact Within.refl.mono
  · split
    · exact Within.refl.mono
    · split
      · exact Within.refl.setSched.semSignal.mono
      · exact Within.refl.setSched.mono

theorem Within.farMessage {f : Flit} {b : List Byte} (h : Within l s u) :
    Within (also l [.out, .events, .radio, .tiles, .clusters, .mem, .wcache, .sched, .array, .assured]) s (u.farMessage f b) := h.andThen <| by
  unfold State.farMessage
  split
  · exact Within.refl.farWrite.mono
  · exact Within.refl.farAsk.mono
  · exact Within.refl.farTold.mono
  · exact Within.refl.farTold.mono
  · exact Within.refl.farSignal.mono
  · exact Within.refl.mono

theorem Within.joinFlit {k : Nat} {f : Flit} {auth : Bool} (h : Within l s u) :
    Within (also l [.out, .events, .time, .radio, .tiles, .clusters, .mem, .wcache, .sched, .array, .assured]) s (u.joinFlit k f auth) := h.via
        (Within.ite Within.refl.setArray (Within.ite Within.refl.setArray.countIv.farMessage Within.refl.setArray.linkFalls.record))

theorem Within.forward {k : Nat} {f : Flit} (h : Within l s u) :
    Within (also l [.out, .array]) s (u.forward k f) := h.via Within.refl.setArray.sendFlit

theorem Within.flitReceive {k : Nat} {f : Flit} {c : FlitCheck} (h : Within l s u) :
    Within (also l [.out, .events, .time, .radio, .tiles, .clusters, .mem, .wcache, .sched, .array, .assured]) s (flitReceive k f c u) := h.via
        (Within.ite Within.refl (Within.ite Within.refl.emit (Within.ite (Within.ite Within.refl.setLink.replayLink Within.refl.setLink.flushLink)
        (Within.ite ((Within.ite Within.refl.setLink.replayLink Within.refl.setLink.flushLink).joinFlit)
        (Within.ite ((Within.ite Within.refl.setLink.replayLink Within.refl.setLink.flushLink).forward)
        (Within.ite Within.refl.setLink.replayLink Within.refl.setLink.flushLink))))))

theorem Within.retrain {k : Nat} (h : Within l s u) :
    Within (also l [.out, .array, .free]) s (retrain k u) := h.via (Within.ite Within.refl Within.refl.setLink.sendIdentity)

theorem Within.setPps {n : Nat} {p : Pps} (h : Within l s u) :
    Within (also l [.time]) s (u.setPps n p) := h.via Within.refl.setTime

theorem Within.raiseEdge {n : Nat} (h : Within l s u) :
    Within (also l [.out, .time]) s (u.raiseEdge n) := h.via (Within.ite Within.refl.setPps.emit Within.refl)

theorem Within.stepTime {d : Int} (h : Within l s u) :
    Within (also l [.out, .time]) s (u.stepTime d) := h.via (Within.refl.setTime.foldl (fun t x => Within.refl.raiseEdge))

theorem Within.leveeRefuse {x : Int} (h : Within l s u) :
    Within (also l [.events, .time]) s (u.leveeRefuse x) := h.via Within.refl.setTime.record

theorem Within.setC {c : Int} (h : Within l s u) :
    Within (also l [.time, .free]) s (u.setC c) := h.via (Within.ite Within.refl.setTime ((Within.refl.patch [.free]).setTime))

theorem Within.servo {theta : Int} (h : Within l s u) :
    Within (also l [.time, .free]) s (u.servo theta) := h.andThen <| by
  unfold State.servo
  dsimp only
  split
  · exact Within.refl.mono
  · exact (Within.ite Within.refl (Within.ite ((Within.refl.patch [.free]).setC) Within.refl.setC)).mono

theorem Within.correct {x : Int} (h : Within l s u) :
    Within (also l [.out, .time]) s (u.correct x) := h.via (Within.ite Within.refl.setTime Within.refl.stepTime)

theorem Within.lock (h : Within l s u) :
    Within (also l [.time, .free]) s u.lock := h.via ((Within.refl.patch [.free]).setTime)

theorem Within.offset {theta : Int} (h : Within l s u) :
    Within (also l [.out, .events, .time, .free]) s (u.offset theta) := h.via (Within.ite Within.refl
        (Within.ite ((Within.ite Within.refl.setTime Within.refl.setTime.stepTime).setTime.setTime)
        (Within.ite Within.refl.setTime.leveeRefuse (Within.ite ((Within.ite Within.refl.setTime.servo
        Within.refl.setTime.servo.correct).setTime.setTime.lock) ((Within.ite Within.refl.setTime.servo
        Within.refl.setTime.servo.correct).setTime.setTime)))))

theorem Within.arrayTime {k : Nat} {theta : Int} {replayed : Bool} (h : Within l s u) :
    Within (also l [.out, .events, .time, .free]) s (arrayTime k theta replayed u) := h.via
        (Within.ite Within.refl (Within.ite Within.refl.emit.offset Within.refl.emit))

theorem Within.setRst {x : ResetCtl} (h : Within l s u) :
    Within (also l [.rst]) s (u.setRst x) := h.via ((Within.refl.patch [.rst]))

theorem Within.killAll (h : Within l s u) :
    Within (also l [.out, .events, .tiles, .clusters, .mem, .wcache, .sched, .array]) s u.killAll := h.via
        ((Within.refl.foldl (fun t x => (Within.ite Within.refl.killGraph Within.refl).graphEnd)).foldl
        (fun t x => Within.ite Within.refl.killTile Within.refl))

theorem Within.replayEnd (h : Within l s u) :
    Within (also l [.out, .events, .time, .radio, .sweep, .adapt, .tiles, .clusters, .mem, .wcache, .sched, .array, .capture, .assured, .sec, .power])
        s u.replayEnd := h.andThen <| by
  unfold State.replayEnd
  split
  · exact Within.refl.mono
  · exact ((Within.refl.killAll.patch [.adapt]).setRadio.setSweep.setSched.setAssured.setCrossing.setTime.setCapture.radioPower).mono

theorem Within.resetCommon (h : Within l s u) :
    Within (also l [.out, .events, .time, .radio, .sweep, .adapt, .tiles, .clusters, .mem, .wcache, .sched, .array, .capture, .assured, .sec, .power])
        s u.resetCommon := h.via ((((Within.ite ((Within.ite Within.refl.replayEnd Within.refl).captureEnd)
        (Within.ite Within.refl.replayEnd Within.refl)).setCapture.setSec).patch [.events, .radio, .sweep, .adapt]))

/-- A reset's new machine: external memory keeps its bytes and its units' keys. -/
theorem Within.of_reset (h : Within l u t) (hx : t.adopt s l' = s := by rfl) (hb : s.mem.bytes = u.mem.bytes := by rfl)
    (hk : s.mem.unitKey = u.mem.unitKey := by rfl) :
    Within (also l l') u s := by
  refine ⟨?_, ?_, fun p hp => ?_⟩
  · rw [← h.pending, ← hx]; rfl
  · simp only [State.memWf, hb, hk]; exact id
  · obtain ⟨h1, h2⟩ := not_mem_also.1 hp
    exact Part.same_trans (h.same p h1) (hx ▸ State.same_adopt h2 t s)

theorem Within.resetCold {l0 : Bool} (h : Within l s u) :
    Within (also l [.clock, .out, .events, .host, .time, .radio, .sweep, .adapt, .tiles, .clusters, .csps, .mem, .wcache, .sched, .array, .capture,
        .assured, .sec, .power, .net]) s (u.resetCold l0) :=
  by
  have hreset : Within (also _ [.clock, .host, .time, .tiles, .clusters, .csps, .mem, .wcache, .sched, .array, .capture, .assured, .sec, .power,
      .net]) u (u.resetCold l0) := (Within.refl (s := u)).resetCommon.of_reset
  exact h.andThen hreset.mono

theorem Within.crossWrite {c : CrossCfg} {partial' : Bool} {r : Nat × Nat × CrossCount × List Byte} (h : Within l s u) :
    Within (also l [.events, .mem, .wcache, .sec]) s (crossWrite c partial' u r) := h.via Within.refl.extWrite.extWrite.setCrossing

theorem Within.crossEnd {partial' : Bool} (h : Within l s u) :
    Within (also l [.events, .mem, .wcache, .sec]) s (crossEnd partial' u) := h.andThen <| by
  unfold Machine.crossEnd
  dsimp only
  split
  · exact Within.refl.mono
  · exact (Within.ite Within.refl ((Within.refl.foldl fun t x => Within.refl.crossWrite).setCrossing)).mono

theorem Within.crossCut (h : Within l s u) :
    Within (also l [.events, .mem, .wcache, .sec]) s (crossCut u) := h.via Within.refl.crossEnd.setCrossing

theorem Within.resetLane (h : Within l s u) :
    Within (also l [.assured]) s u.resetLane := h.via Within.refl.setAssured

theorem Within.resetWarm (h : Within l s u) :
    Within (also l [.out, .events, .host, .time, .radio, .sweep, .adapt, .tiles, .clusters, .csps, .mem, .wcache, .sched, .array, .capture, .assured,
        .sec, .power]) s u.resetWarm := h.via (Within.ite ((((((((Within.refl.crossCut.foldl fun t x =>
        Within.refl.linkFalls).resetLane.resetCommon).patch [.host, .tiles, .clusters, .csps, .sched]).setSec.setAssured.setWcache.radioPower).foldl
        fun t x => Within.ite Within.refl.setPowerOf Within.refl)).foldl fun t x => Within.refl.setPowerOf))
        ((((((Within.refl.crossCut.foldl fun t x => Within.refl.linkFalls).resetLane.resetCommon).patch
        [.host, .tiles, .clusters, .csps, .sched]).setSec.setAssured.setWcache.radioPower).foldl fun t x => Within.ite Within.refl.setPowerOf
        Within.refl)))

theorem Within.resetRadio (h : Within l s u) :
    Within (also l [.out, .events, .time, .radio, .sweep, .adapt, .tiles, .clusters, .csps, .mem, .wcache, .sched, .array, .capture, .assured, .sec,
        .power]) s u.resetRadio := h.via ((((Within.ite Within.refl.crossCut.replayEnd Within.refl.crossCut).resetLane.resetCommon).patch
        [.radio, .sweep, .tiles, .csps, .wcache, .sched]))

theorem Within.applyReset {l' : Level} (h : Within l s u) :
    Within (also l [.clock, .out, .events, .host, .time, .radio, .sweep, .adapt, .tiles, .clusters, .csps, .mem, .wcache, .sched, .array, .capture,
        .assured, .sec, .power, .rst, .net]) s (u.applyReset l') := h.via ((Within.on
        [.clock, .out, .events, .host, .time, .radio, .sweep, .adapt, .tiles, .clusters, .csps, .mem, .wcache, .sched, .array, .capture, .assured,
        .sec, .power, .rst, .net] (by
      split
      · exact Within.refl.resetCold.mono
      · exact Within.refl.resetCold.mono
      · exact Within.refl.resetWarm.mono
      · exact Within.refl.resetRadio.mono)).setRst)

theorem Within.assertReset {source : Nat} {level : Level} {detail : Nat} (h : Within l s u) :
    Within (also l [.clock, .out, .events, .host, .time, .radio, .sweep, .adapt, .tiles, .clusters, .csps, .mem, .wcache, .sched, .array, .capture,
        .assured, .sec, .power, .rst, .net]) s (u.assertReset source level detail) := h.via
        (Within.ite ((Within.ite Within.refl.setRst Within.refl).setRst.applyReset)
        (Within.ite ((Within.ite Within.refl.setRst Within.refl).setRst.applyReset)
        (Within.ite ((Within.ite Within.refl.setRst Within.refl).setRst) ((Within.ite Within.refl.setRst Within.refl).setRst))))

theorem Within.sourceReset {source : Nat} {detail : Nat} (h : Within l s u) :
    Within (also l [.clock, .out, .events, .host, .time, .radio, .sweep, .adapt, .tiles, .clusters, .csps, .mem, .wcache, .sched, .array, .capture,
        .assured, .sec, .power, .rst, .net]) s (u.sourceReset source detail) := h.via Within.refl.assertReset

theorem Within.arrayReset {k : Nat} (h : Within l s u) :
    Within (also l [.clock, .out, .events, .host, .time, .radio, .sweep, .adapt, .tiles, .clusters, .csps, .mem, .wcache, .sched, .array, .capture,
        .assured, .sec, .power, .rst, .net]) s (arrayReset k u) := h.via (Within.ite ((Within.refl.foldl fun t x => Within.refl.emit).sourceReset)
        Within.refl)

theorem Within.recordConfigBody {b : Dword × Dword × Dword} {n : Dword × Dword × Dword} (h : Within l s u) :
    Within (also l [.capture]) s ((recordConfigBody b n u).1) := h.andThen <| by
  unfold Machine.recordConfigBody
  dsimp only
  split
  · exact Within.refl.mono
  · split
    · exact Within.refl.mono
    · exact Within.refl.setCapture.mono

theorem Within.recordStartBody {slot : AbsSlot} (h : Within l s u) :
    Within (also l [.capture]) s ((recordStartBody slot u).1) := h.andThen <| by
  unfold Machine.recordStartBody
  split
  · exact Within.refl.mono
  · exact Within.refl.setCapture.mono

theorem Within.recordStopBody (h : Within l s u) :
    Within (also l [.capture]) s ((recordStopBody u).1) := h.via Within.refl.setCapture

theorem Within.recordSaveBody {ring addr : Nat} (h : Within l s u) :
    Within (also l [.events, .mem, .wcache, .free]) s (recordSaveBody ring addr u).1 := h.andThen <| by
  unfold Machine.recordSaveBody
  split
  · exact Within.refl.mono
  · split
    · exact Within.refl.mono
    · dsimp only
      split
      · dsimp only
        exact Within.refl.sealBlob.extWrite.mono
      · exact Within.refl.mono

theorem Within.recordLoadBody {ring : Nat} {addr : Nat} (h : Within l s u) :
    Within (also l [.events, .mem, .wcache, .capture]) s ((recordLoadBody ring addr u).1) := h.andThen <| by
  unfold Machine.recordLoadBody
  dsimp only
  split
  · exact Within.refl.mono
  · split
    · exact Within.refl.mono
    · split
      · exact Within.refl.mono
      · split
        · exact Within.refl.mono
        · split
          · exact Within.refl.mono
          · exact Within.refl.extWrite.setCapture.mono

theorem Within.replayStartBody {b : Dword × Dword × Dword} (h : Within l s u) :
    Within (also l [.capture]) s ((replayStartBody b u).1) := h.andThen <| by
  unfold Machine.replayStartBody
  dsimp only
  split
  · exact Within.refl.mono
  · split
    · exact Within.refl.mono
    · exact Within.refl.setCapture.mono

theorem Within.replayStatusBody (h : Within l s u) :
    Within (also l []) s ((replayStatusBody u).1) := h.via Within.refl

theorem Within.replayDeliver (h : Within l s u) :
    Within (also l [.out, .events, .time, .radio, .sweep, .adapt, .tiles, .clusters, .mem, .wcache, .sched, .array, .capture, .assured, .sec, .power])
        s (replayDeliver u) := h.andThen <| by
  unfold Machine.replayDeliver
  split
  · exact Within.refl.mono
  · split
    · exact Within.refl.mono
    · exact (Within.ite Within.refl (Within.ite Within.refl.setCapture (Within.ite Within.refl.setCapture.replayEnd Within.refl.setCapture))).mono

theorem Within.rule {g : Graph} {v : Verdict} (h : Within l s u) :
    Within (also l [.events, .sched, .assured]) s (u.rule g v) := h.via (Within.ite Within.refl.modGraph Within.refl.withhold)

theorem Within.laneLoss (h : Within l s u) :
    Within (also l [.events, .assured]) s u.laneLoss := h.via (Within.ite (Within.ite Within.refl.setAssured.laneTo Within.refl.laneTo) Within.refl)

theorem Within.tileOut {t : Nat} (h : Within l s u) :
    Within (also l [.events, .assured]) s (u.tileOut t) := h.via (Within.ite Within.refl Within.refl.setAssured.record.laneLoss)

theorem Within.disagreement {g : Graph} (h : Within l s u) :
    Within (also l [.events, .sched, .assured]) s (u.disagreement g) := h.via (Within.refl.setAssured.record.modGraph.foldl
        (fun t x => Within.refl.tileOut))

theorem Within.clearMarks {g : Graph} {copies : List Nat} (h : Within l s u) :
    Within (also l [.assured]) s (u.clearMarks g copies) := h.via Within.refl.setAssured

theorem Within.takeSinks {g : Graph} {copy : Fin 3} (h : Within l s u) :
    Within (also l [.events, .mem, .wcache]) s (u.takeSinks g copy) := h.via (Within.refl.foldl (fun t x => Within.refl.extWrite))

theorem Within.compare {g : Graph} (h : Within l s u) :
    Within (also l [.out, .events, .tiles, .mem, .wcache, .sched, .array, .capture, .assured]) s (u.compare g) := h.andThen <| by
  unfold State.compare
  split
  · split
    · exact (Within.ite Within.refl.assuredLate (Within.ite Within.refl.rule (Within.ite Within.refl.disagreement.modGraph.abortSegments
          Within.refl.disagreement.withhold))).mono
    · exact Within.refl.mono
  · split
    · exact Within.refl.mono
    · exact (Within.ite Within.refl.assuredLate (Within.ite Within.refl.clearMarks.setAssured.record.rule
          (Within.ite ((Within.ite Within.refl Within.refl.takeSinks).clearMarks.setAssured.record.rule) Within.refl.withhold))).mono
  · exact Within.refl.mono

theorem Within.copySignature {job : Word} {copy : Fin 3} (h : Within l s u) :
    Within (also l [.out, .events, .tiles, .mem, .wcache, .sched, .array, .capture, .assured, .free]) s (copySignature job copy u) := h.andThen <| by
  unfold Machine.copySignature
  split
  · exact Within.refl.mono
  · split
    · exact Within.refl.mono
    · split
      · exact Within.refl.mono
      · dsimp only
        have hsigned {b : Bool} {f : Graph → Graph} : Within [.sched, .free] u ((if b then u.draw.2 else u).modGraph job f) :=
          (Within.ite Within.refl.draw Within.refl).modGraph.mono
        split
        · exact hsigned.compare.mono
        · exact hsigned.mono

theorem Within.sliceStart {n : Nat} (h : Within l s u) :
    Within (also l [.out, .tiles, .sched, .array, .assured, .power]) s (sliceStart n u) := h.andThen <| by
  unfold Machine.sliceStart
  split
  · exact Within.refl.mono
  · exact (Within.ite Within.refl ((Within.refl.setAssured.foldl fun t x => Within.refl.wakeTile.startSegment).abortSegments)).mono

theorem Within.segmentEnd {t : Nat} {signature : Word} (h : Within l s u) :
    Within (also l [.events, .assured]) s (segmentEnd t signature u) := h.andThen <| by
  unfold Machine.segmentEnd
  split
  · exact Within.refl.mono
  · exact (Within.ite Within.refl.withoutSegment.setAssured Within.refl.withoutSegment.setAssured.record.tileOut).mono

theorem Within.windowOver (h : Within l s u) :
    Within (also l [.events, .assured]) s (windowOver u) := h.andThen <| by
  unfold Machine.windowOver
  dsimp only
  split
  · exact Within.refl.mono
  · split
    · exact (Within.ite ((Within.refl.setAssured.foldl fun t x => Within.refl.record).laneTo)
          ((Within.refl.setAssured.foldl fun t x => Within.refl.record))).mono
    · exact (Within.ite ((Within.refl.setAssured.foldl fun t x => Within.refl.record))
          ((Within.refl.setAssured.foldl fun t x => Within.refl.record).laneLoss)).mono
    · exact (Within.ite ((Within.refl.setAssured.foldl fun t x => Within.refl.record).laneTo)
          ((Within.refl.setAssured.foldl fun t x => Within.refl.record).laneLoss)).mono
    · exact ((Within.refl.setAssured.foldl fun t x => Within.refl.record)).mono

theorem Within.regionSetBody {q : QcpHdr} {i domain base size : Nat} {rsvd : Bool} (h : Within l s u) :
    Within (also l [.mem, .wcache, .sec]) s (regionSetBody q i domain base size rsvd u).1 := h.andThen <| by
  unfold Machine.regionSetBody
  extract_lets r m fields
  split
  split
  · exact Within.refl.mono
  · split
    · exact Within.refl.mono
    · split
      · exact Within.refl.mono
      · split
        · exact Within.refl.mono
        · split
          · exact Within.refl.mono
          · dsimp only
            exact (Within.refl.setSec.foldl fun _ _ => Within.refl.extZero).wcInvalidate.mono

theorem Within.regionZeroised {i : Nat} (h : Within l s u) :
    Within (also l [.out, .host, .sec]) s (regionZeroised i u) := h.via (Within.ite Within.refl (Within.on [.out, .host, .sec] (by
      split
      · exact Within.refl.setSec.reply.mono
      · exact Within.refl.setSec.mono)))

theorem Within.crossPeriod (h : Within l s u) :
    Within (also l [.events, .mem, .wcache, .sec]) s (crossPeriod u) := h.andThen <| by
  unfold Machine.crossPeriod
  split
  · exact (Within.ite Within.refl.crossEnd Within.refl).mono
  · exact Within.refl.mono

theorem Within.crossConfigBody {r : CrossRec} (h : Within l s u) :
    Within (also l [.events, .mem, .wcache, .sec]) s ((crossConfigBody r u).1) := h.andThen <| by
  unfold Machine.crossConfigBody
  dsimp only
  split
  · exact Within.refl.mono
  · split
    · exact Within.refl.mono
    · exact Within.refl.crossCut.setCrossing.mono

theorem Within.radioStart (h : Within l s u) :
    Within (also l [.power]) s u.radioStart := h.via (Within.ite Within.refl Within.refl.setPower)

theorem Within.loadBody {offset : Nat} {length : Nat} (h : Within l s u) :
    Within (also l [.events, .host, .power]) s ((loadBody offset length u).1) := h.andThen <| by
  unfold Machine.loadBody
  dsimp only
  split
  · exact Within.refl.record.mono
  · exact ((Within.refl.setHost.foldl fun t x => Within.refl.wakeDomain).radioStart).mono

theorem Within.setFuses {f : Fuses} (h : Within l s u) :
    Within (also l [.sec]) s (u.setFuses f) := h.via Within.refl.setSec

theorem Within.rollbackBody {good : Nat} (h : Within l s u) : Within (also l [.sec]) s (rollbackBody good u).1 := h.andThen <| by
  unfold Machine.rollbackBody
  extract_lets f want
  split
  · exact Within.refl.setFuses.mono
  · exact Within.refl.setFuses.mono

theorem Within.modelLoadBody {h' : QcpHdr} {addr : Nat} {region : Nat} (h : Within l s u) :
    Within (also l [.sec]) s ((modelLoadBody h' addr region u).1) := h.andThen <| by
  unfold Machine.modelLoadBody
  dsimp only
  split
  · exact Within.refl.mono
  · split
    · exact Within.refl.mono
    · split
      · exact Within.refl.mono
      · split
        · exact Within.refl.mono
        · split
          · exact Within.refl.mono
          · exact Within.refl.setSec.mono

theorem Within.unsealRegion {i : Nat} (h : Within l s u) :
    Within (also l [.mem, .wcache, .sec]) s (u.unsealRegion i) := h.via Within.refl.extZero.setSec

theorem Within.modelUnloadBody {slot : Nat} (h : Within l s u) :
    Within (also l [.mem, .wcache, .sec]) s ((modelUnloadBody slot u).1) := h.andThen <| by
  unfold Machine.modelUnloadBody
  split
  · exact Within.refl.mono
  · split
    · exact Within.refl.mono
    · split
      · exact Within.refl.mono
      · exact Within.refl.unsealRegion.setSec.mono

theorem Within.quoteBody {nonce : List Byte} (h : Within l s u) :
    Within (also l []) s ((quoteBody nonce u).1) := h.via Within.refl

theorem Within.fuseWriteBody {x : FuseField} (h : Within l s u) :
    Within (also l [.sec]) s ((fuseWriteBody x u).1) := h.andThen <| by
  unfold Machine.fuseWriteBody
  dsimp only
  split
  · exact Within.refl.setFuses.mono
  · exact Within.refl.setFuses.mono
  · split
    · exact Within.refl.setFuses.mono
    · exact Within.refl.mono
  · split
    · exact Within.refl.setFuses.mono
    · exact Within.refl.mono
  · split
    · exact Within.refl.setFuses.mono
    · exact Within.refl.mono
  · split
    · exact Within.refl.setFuses.mono
    · exact Within.refl.mono
  · split
    · exact Within.refl.mono
    · split
      · exact Within.refl.setFuses.mono
      · exact Within.refl.mono
  · exact Within.refl.mono

theorem Within.sealBody (h : Within l s u) :
    Within (also l [.sec]) s ((sealBody u).1) := h.andThen <| by
  unfold Machine.sealBody
  dsimp only
  split
  · exact Within.refl.mono
  · exact (Within.ite Within.refl.setFuses.setSec Within.refl.setFuses).mono

theorem Within.challengeBody (h : Within l s u) :
    Within (also l [.sec, .free]) s ((challengeBody u).1) := h.via ((Within.refl.patch [.free]).setSec)

theorem Within.debugOpens (h : Within l s u) :
    Within (also l [.out, .events, .radio, .sweep, .adapt, .tiles, .clusters, .csps, .mem, .wcache, .sched, .array, .assured, .sec, .power]) s
        u.debugOpens := h.via ((((Within.refl.killAll.patch [.radio, .sweep, .adapt, .tiles, .clusters, .csps, .wcache, .sched,
        .assured]).radioPower).foldl fun t x => Within.refl.unsealRegion).setSec)

theorem Within.unlockBody {b : UnlockBody} (h : Within l s u) :
    Within (also l [.out, .events, .radio, .sweep, .adapt, .tiles, .clusters, .csps, .mem, .wcache, .sched, .array, .assured, .sec, .power]) s
        ((unlockBody b u).1) := h.andThen <| by
  unfold Machine.unlockBody
  split
  · exact Within.refl.mono
  · split
    · exact Within.refl.mono
    · split
      · exact Within.refl.debugOpens.mono
      · exact Within.refl.mono

theorem Within.violation {detail : Nat} (h : Within l s u) :
    Within (also l [.clock, .out, .events, .host, .time, .radio, .sweep, .adapt, .tiles, .clusters, .csps, .mem, .wcache, .sched, .array, .capture,
        .assured, .sec, .power, .rst, .net]) s (u.violation detail) := h.via Within.refl.sourceReset

theorem Within.tap {code : Nat} {value : Nat} (h : Within l s u) :
    Within (also l [.out, .port]) s (u.tap code value) := h.via ((Within.refl.patch [.port]).emit)

theorem Within.bypass (h : Within l s u) :
    Within (also l [.out, .port]) s u.bypass := h.via Within.refl.tap

theorem Within.drives {effect : State} (he : Within l u effect) : Within (also l [.out, .port]) u (u.drives effect) :=
  (Within.ite he Within.refl.bypass)

theorem Within.boundary {code : Nat} (h : Within l s u) :
    Within (also l [.out, .port, .free]) s (u.boundary code) := h.via ((Within.refl.patch [.free]).tap)

theorem Within.debugAccess {code : Nat} (h : Within l s u) :
    Within (also l [.clock, .out, .events, .host, .time, .radio, .sweep, .adapt, .tiles, .clusters, .csps, .mem, .wcache, .sched, .array, .capture,
        .assured, .sec, .power, .rst, .net, .port, .free]) s (debugAccess code u) := h.via
        (Within.ite Within.refl.violation ((Within.refl.patch [.free]).tap))

theorem Within.stateReadBody (h : Within l s u) :
    Within (also l []) s ((stateReadBody u).1) := h.via Within.refl

theorem Within.recorderBody {first : Nat} {count : Nat} (h : Within l s u) :
    Within (also l []) s ((recorderBody first count u).1) := h.andThen <| by
  unfold Machine.recorderBody
  split
  · exact Within.refl.mono
  · exact Within.refl.mono

theorem Within.resetBody {h' : QcpHdr} {level : Level} (h : Within l s u) :
    Within (also l [.clock, .out, .events, .host, .time, .radio, .sweep, .adapt, .tiles, .clusters, .csps, .mem, .wcache, .sched, .array, .capture,
        .assured, .sec, .power, .rst, .net]) s ((resetBody h' level u).1) := h.via Within.refl.reply.assertReset

theorem Within.sessionOpenBody {h' : QcpHdr} (h : Within l s u) :
    Within (also l [.host, .free]) s ((sessionOpenBody h' u).1) := h.andThen <| by
  unfold Machine.sessionOpenBody
  split
  · exact Within.refl.mono
  · exact ((Within.refl.patch [.free]).setSession).mono

theorem Within.sessionOpen {h' : QcpHdr} (h : Within l s u) :
    Within (also l [.out, .events, .host, .mem, .wcache, .capture, .free]) s (sessionOpen h' u) := h.via
        (Within.ite ((Within.refl.serve (fun _ => Within.refl.sessionOpenBody))) (Within.ite Within.refl
        (Within.ite Within.refl.reply (((Within.ite Within.refl.replayTaken Within.refl).serveAs (fun _ => Within.refl.sessionOpenBody))))))

theorem Within.sessionAuthBody {h' : QcpHdr} {b : AuthBody} (h : Within l s u) :
    Within (also l [.host]) s ((sessionAuthBody h' b u).1) := h.andThen <| by
  unfold Machine.sessionAuthBody
  split
  · exact Within.refl.mono
  · split
    · exact Within.refl.mono
    · split
      · exact Within.refl.setSession.mono
      · exact Within.refl.mono

theorem Within.sessionTimeout {n : Nat} (h : Within l s u) :
    Within (also l [.host]) s (sessionTimeout n u) := h.andThen <| by
  unfold Machine.sessionTimeout
  split
  · exact (Within.ite Within.refl.setSession Within.refl).mono
  · exact Within.refl.mono

theorem Within.pwrWrite {o : Nat} {v : Nat} (h : Within l s u) :
    Within (also l [.power]) s ((pwrWrite o v u).1) := h.andThen <| by
  unfold Machine.pwrWrite
  dsimp only
  split
  · exact Within.refl.setPower.mono
  · split
    · split
      · exact Within.refl.setPower.mono
      · exact Within.refl.mono
    · split
      · exact Within.refl.setPower.mono
      · exact Within.refl.mono

theorem Within.ageWrite {v : Nat} (h : Within l s u) :
    Within (also l [.power]) s ((ageWrite v u).1) := h.andThen <| by
  unfold Machine.ageWrite
  dsimp only
  split
  · exact Within.refl.setPower.mono
  · exact Within.refl.mono

theorem Within.safWrite {o : Nat} {v : Nat} (h : Within l s u) :
    Within (also l [.assured]) s (safWrite o v u) := h.via (Within.ite Within.refl.setAssured
        (Within.ite (Within.ite Within.refl.setAssured Within.refl) Within.refl.setAssured))

theorem Within.ownWrite {n : Nat} {v : Nat} (h : Within l s u) :
    Within (also l [.sched]) s (ownWrite n v u) := h.via (Within.ite Within.refl (Within.refl.foldl (fun t x => Within.refl.setSem)))

theorem Within.schWrite {o : Nat} {v : Nat} (h : Within l s u) :
    Within (also l [.sched]) s (schWrite o v u) := h.via (Within.ite Within.refl.setSched Within.refl.ownWrite)

theorem Within.ppsArm {n : Nat} {p : PpsSet} (h : Within l s u) :
    Within (also l [.out, .time]) s (u.ppsArm n p) := h.via (Within.ite Within.refl.raiseEdge
        (Within.ite Within.refl.raiseEdge.setPps (Within.ite (Within.ite Within.refl.raiseEdge.setPps Within.refl.raiseEdge.setPps)
        Within.refl.raiseEdge.setPps)))

theorem Within.ppsWrite {n : Nat} {k : Nat} {v : Nat} (h : Within l s u) :
    Within (also l [.out, .time]) s (ppsWrite n k v u) := h.via (Within.ite (Within.ite Within.refl.setPps Within.refl)
        (Within.ite Within.refl.setPps Within.refl.ppsArm))

theorem Within.stepWrite {step : Dword} (h : Within l s u) :
    Within (also l [.out, .events, .time]) s (stepWrite step u) := h.via (Within.ite Within.refl
        (Within.ite Within.refl.leveeRefuse Within.refl.correct))

theorem Within.timeConfigBody {c : TimeCfg} (h : Within l s u) :
    Within (also l [.time, .power]) s ((timeConfigBody c u).1) := h.andThen <| by
  unfold Machine.timeConfigBody
  split
  · exact Within.refl.mono
  · split
    · exact Within.refl.mono
    · exact (Within.ite Within.refl.setTime Within.refl.setTime.setPower).mono

theorem Within.timWrite {o : Nat} {v : Nat} (h : Within l s u) :
    Within (also l [.out, .events, .time, .power, .free]) s (timWrite o v u) := h.via
        (Within.ite Within.refl.ppsWrite (Within.ite Within.refl.setTime (Within.on [.out, .events, .time, .power, .free] (by
      split
      · exact Within.refl.setTime.mono
      · exact (Within.ite Within.refl.setTime Within.refl).mono
      · exact (Within.ite Within.refl.setC Within.refl).mono
      · exact Within.refl.stepWrite.mono
      · exact Within.refl.timeConfigBody.mono))))

theorem Within.wdtArm {period : Nat} (h : Within l s u) :
    Within (also l [.rst]) s (wdtArm period u) := h.via Within.refl.setRst

theorem Within.rstWrite {m : Master} {o : Nat} {v : Nat} (h : Within l s u) :
    Within (also l [.rst]) s (rstWrite m o v u) := h.via (Within.ite (Within.ite Within.refl.wdtArm (Within.ite Within.refl.setRst Within.refl))
        (Within.ite ((Within.ite Within.refl.setRst Within.refl).setRst) (Within.ite Within.refl.setRst Within.refl)))

theorem Within.reloadAsk {c : Nat} (h : Within l s u) :
    Within (also l [.clusters]) s (reloadAsk c u) := h.via (Within.ite Within.refl.setCluster Within.refl)

theorem Within.netWrite {v : Nat} (h : Within l s u) :
    Within (also l [.net]) s ((netWrite v u).1) := h.via (Within.refl.foldl (fun t x => Within.ite Within.refl Within.refl.setNet.modPort.modPort))

theorem Within.polderWrite {t : Nat} {n : Nat} {v : Nat} (h : Within l s u) :
    Within (also l [.out, .tiles]) s (polderWrite t n v u) := h.via (Within.ite Within.refl Within.refl.polderAlloc)

theorem Within.tilCmd {t : Nat} {v : Nat} (h : Within l s u) :
    Within (also l [.out, .events, .tiles, .clusters, .mem, .wcache, .sched, .array]) s (tilCmd t v u) := h.andThen <| by
  unfold Machine.tilCmd
  split
  · split
    · exact Within.refl.assignTile.mono
    · exact Within.refl.assignTile.mono
    · exact Within.refl.assignTile.mono
    · exact Within.refl.mono
  · exact Within.refl.preemptTile.mono
  · exact Within.refl.killTile.mono
  · exact Within.refl.zeroiseTile.mono
  · exact Within.refl.mono

theorem Within.splitWrite {t : Nat} {v : Nat} (h : Within l s u) :
    Within (also l [.tiles]) s (splitWrite t v u) := h.via (Within.ite Within.refl Within.refl.modTile)

theorem Within.tilWrite {t : Nat} {o : Nat} {v : Nat} (h : Within l s u) :
    Within (also l [.out, .events, .tiles, .clusters, .mem, .wcache, .sched, .array]) s (tilWrite t o v u) := h.via
        (Within.ite Within.refl.polderWrite (Within.ite Within.refl.tilCmd (Within.ite Within.refl.modTile Within.refl.splitWrite)))

theorem Within.regWrite {m : Master} {off : Nat} {v : Nat} (h : Within l s u) :
    Within (also l [.out, .events, .time, .tiles, .clusters, .csps, .mem, .wcache, .sched, .array, .assured, .power, .rst, .net, .free]) s
        ((u.regWrite m off v).1) := h.andThen <| by
  unfold State.regWrite
  dsimp only
  split
  · exact Within.refl.pwrWrite.mono
  · exact Within.refl.ageWrite.mono
  · exact Within.refl.safWrite.mono
  · exact Within.refl.schWrite.mono
  · exact Within.refl.timWrite.mono
  · exact (Within.ite Within.refl.retrain Within.refl).mono
  · exact Within.refl.setCsp.mono
  · exact Within.refl.rstWrite.mono
  · exact Within.refl.setSched.mono
  · exact (Within.ite Within.refl.reloadAsk Within.refl).mono
  · exact Within.refl.setMem.mono
  · exact Within.refl.netWrite.mono
  · exact Within.refl.tilWrite.mono
  · exact Within.refl.mono

theorem memWriteRegs_within (data : List Byte) (xs : List (Nat × Nat)) (acc : State × Bool) :
    Within [.clock, .out, .events, .host, .time, .radio, .sweep, .adapt, .tiles, .clusters, .csps, .mem, .wcache, .sched, .array, .capture, .assured,
        .sec, .power, .rst, .net, .free] acc.1
      (xs.foldl (fun (acc : State × Bool) p => if !regDefined p.1 then acc else
        let (s2, r) := acc.1.regWrite .host p.1 (leNat ((data.drop (8 * p.2)).take 8))
        (s2, acc.2 || r)) acc).1 := by
  induction xs generalizing acc with
  | nil => exact Within.refl.mono
  | cons p r ih =>
    have hstep := Within.ite (c := (!regDefined p.1) = true) (Within.refl (s := acc.1))
        (Within.refl.regWrite (m := .host) (off := p.1) (v := leNat ((data.drop (8 * p.2)).take 8)))
    refine (Within.andThen (l := [.clock, .out, .events, .host, .time, .radio, .sweep, .adapt, .tiles, .clusters, .csps, .mem, .wcache, .sched,
        .array, .capture, .assured, .sec, .power, .rst, .net, .free]) ?_ (ih _)).mono
    dsimp only
    split
    · exact Within.refl.mono
    · exact Within.refl.regWrite.mono

theorem Within.memWriteReg {off : Nat} {data : List Byte} {q : QcpHdr} (h : Within l s u) :
    Within (also l [.clock, .out, .events, .host, .time, .radio, .sweep, .adapt, .tiles, .clusters, .csps, .mem, .wcache, .sched, .array, .capture,
        .assured, .sec, .power, .rst, .net, .free]) s
      (memWriteReg off data q u).1 := h.andThen <| by
  unfold Machine.memWriteReg
  extract_lets n slots admin
  clear_value admin slots n
  split
  · exact Within.refl.mono
  · split
    · exact Within.refl.mono
    · split
      · exact Within.refl.mono
      · split
        · exact Within.refl.mono
        · split
          · exact Within.refl.violation.mono
          · split
            · exact Within.refl.mono
            · exact memWriteRegs_within data slots.zipIdx (u, false)

theorem Within.memWriteBody {q : QcpHdr} {a : Nat} {data : List Byte} (h : Within l s u) :
    Within (also l [.clock, .out, .events, .host, .time, .radio, .sweep, .adapt, .tiles, .clusters, .csps, .mem, .wcache, .sched, .array, .capture,
        .assured, .sec, .power, .rst, .net, .free]) s
      (memWriteBody q a data u).1 := h.andThen <| by
  unfold Machine.memWriteBody
  extract_lets n
  split
  · exact Within.refl.mono
  · split
    · exact Within.refl.memWriteReg.mono
    · split
      · exact Within.refl.mono
      · split
        · dsimp only
          exact Within.refl.modTile.mono
        · dsimp only
          exact Within.refl.extWrite.mono

theorem Within.timeLatch (h : Within l s u) :
    Within (also l [.time]) s (timeLatch u) := h.via Within.refl.setTime

theorem Within.txtsPop (h : Within l s u) :
    Within (also l [.time]) s ((txtsPop u).2) := h.andThen <| by
  unfold Machine.txtsPop
  split
  · exact Within.refl.mono
  · exact Within.refl.setTime.mono

theorem Within.ldpRead {b : Nat} (h : Within l s u) :
    Within (also l [.radio]) s (ldpRead b u) := h.via Within.refl.setBank

theorem Within.readEffect {slot : Nat} {lo : Bool} (h : Within l s u) : Within (also l [.time, .radio]) s (u.readEffect slot lo) := h.andThen <| by
  unfold State.readEffect
  refine (Within.ite Within.refl (Within.ite Within.refl.timeLatch (Within.ite Within.refl.txtsPop (Within.on [.radio] ?_)))).mono
  split
  · exact (Within.ite Within.refl.ldpRead Within.refl).mono
  · exact Within.refl.mono

theorem readRegs_within : ∀ (f : Nat) (u : State) (off n : Nat), Within [.time, .radio] u (State.readRegs f u off n).2
  | 0, _, _, _ => Within.refl.mono
  | f + 1, u, off, n => by
    have ih := readRegs_within f
    unfold State.readRegs
    split
    · exact Within.refl.mono
    · exact (Within.refl.readEffect.andThen (ih _ _ _)).mono

theorem Within.readRegs {f off n : Nat} (h : Within l s u) : Within (also l [.time, .radio]) s (State.readRegs f u off n).2 := h.andThen
    (readRegs_within f u off n)

theorem Within.memReadReg {off : Nat} {n : Nat} (h : Within l s u) :
    Within (also l [.clock, .out, .events, .host, .time, .radio, .sweep, .adapt, .tiles, .clusters, .csps, .mem, .wcache, .sched, .array, .capture,
        .assured, .sec, .power, .rst, .net]) s ((memReadReg off n u).1) := h.andThen <| by
  unfold Machine.memReadReg
  split
  · exact Within.refl.mono
  · split
    · exact Within.refl.violation.mono
    · exact Within.refl.readRegs.mono

theorem Within.memReadBody {a n : Nat} (h : Within l s u) :
    Within (also l [.clock, .out, .events, .host, .time, .radio, .sweep, .adapt, .tiles, .clusters, .csps, .mem, .wcache, .sched, .array, .capture,
        .assured, .sec, .power, .rst, .net, .free]) s (memReadBody a n u).1 := h.andThen <| by
  unfold Machine.memReadBody
  split
  · exact Within.refl.mono
  · split
    · exact Within.refl.memReadReg.mono
    · split
      · exact Within.refl.mono
      · split
        · split
          · dsimp only
            exact Within.refl.modTile.mono
          · exact Within.refl.mono
        · exact Within.refl.draw.mono
        · split
          · exact Within.refl.memUe.mono
          · exact Within.refl.mono

theorem Within.bermRegionSet {x : UlCell} (h : Within l s u) : Within (also l [.mem, .wcache, .sec]) s (u.bermRegionSet x) := h.andThen <| by
  unfold State.bermRegionSet
  split
  extract_lets base size
  split
  · exact Within.refl.mono
  · exact Within.refl.setSec.extZero.mono

theorem Within.bermEnter {x : UlCell} {d : DlCell} {port : Bool} {domain : Byte} (h : Within l s u) :
    Within (also l [.host, .time, .radio, .clusters, .mem, .wcache, .sec, .power]) s (u.bermEnter x d port domain) := h.andThen <| by
  have h5 {f g a b c} : Within [.host, .time, .radio, .clusters, .mem, .wcache, .sec] u
      ((((((u.bermRegionSet x).setHost f).modCell a g).setTime b).setCluster 0 c)) :=
    Within.refl.bermRegionSet.setHost.modCell.setTime.setCluster.mono
  unfold State.bermEnter
  exact ((h5.foldl fun _ _ => Within.refl.wakeDomain)).radioStart.mono

theorem Within.bermStartBody {b : BermBody} (h : Within l s u) :
    Within (also l [.host, .time, .radio, .clusters, .mem, .wcache, .sec, .power]) s (bermStartBody b u).1 := h.andThen <| by
  unfold Machine.bermStartBody
  split
  · dsimp only
    exact Within.refl.bermEnter.mono
  · exact Within.refl.mono

theorem Within.coresStart (h : Within l s u) :
    Within (also l [.clusters]) s u.coresStart := h.via (Within.refl.foldl (fun t x => Within.ite Within.refl Within.refl.setCluster))

theorem Within.startBody (h : Within l s u) :
    Within (also l [.host, .clusters, .sched]) s ((startBody u).1) := h.via Within.refl.setHost.coresStart.setSched

theorem Within.runBody (h : Within l s u) :
    Within (also l [.host]) s ((runBody u).1) := h.via Within.refl.setHost

theorem Within.roleKeyBody {es : List (List Byte × Byte)} (h : Within l s u) :
    Within (also l [.host]) s ((roleKeyBody es u).1) := h.andThen <| by
  unfold Machine.roleKeyBody
  split
  · exact Within.refl.mono
  · exact Within.refl.setHost.mono

theorem Within.relockBody (h : Within l s u) :
    Within (also l [.time]) s ((relockBody u).1) := h.andThen <| by
  unfold Machine.relockBody
  split
  · exact Within.refl.mono
  · exact Within.refl.setTime.mono

theorem Within.logConfigBody {base n level : Nat} (h : Within l s u) :
    Within (also l [.events, .host, .mem, .wcache]) s (logConfigBody base n level u).1 := h.andThen <| by
  unfold Machine.logConfigBody
  extract_lets size
  split
  · exact Within.refl.mono
  · dsimp only
    exact Within.refl.setHost.extWrite.mono

theorem Within.traceBody {mask : BitVec 256} (h : Within l s u) :
    Within (also l [.host]) s ((traceBody mask u).1) := h.via Within.refl.setHost

theorem Within.dumpReady {job : Word} (h : Within l s u) : Within (also l [.out, .events, .host, .mem, .wcache, .sched, .free]) s (dumpReady job u) :=
    h.andThen <| by
  unfold Machine.dumpReady
  split
  · split
    · exact Within.refl.mono
    · exact Within.refl.draw.draw.extWrite.setSched.notify.mono
  · exact Within.refl.mono

theorem Within.faulted {n : Nat} (h : Within l s u) :
    Within (also l [.out, .events, .host, .tiles, .clusters, .mem, .wcache, .sched, .array]) s (u.faulted n) := h.via
        ((Within.refl.setHost.setSched.foldl (fun t x => Within.refl.killGraph)).foldl (fun t x => Within.ite Within.refl.killTile Within.refl))

theorem Within.fwTrap {k : FwCore} {cause : Nat} {lo : Nat} {hi : Nat} (h : Within l s u) :
    Within (also l [.out, .events, .host, .tiles, .clusters, .mem, .wcache, .sched, .array]) s (fwTrap k cause lo hi u) := h.via
        (Within.ite ((Within.on [.out, .events, .host, .tiles, .clusters, .mem, .wcache, .sched, .array] (by
      split
      · exact Within.refl.record.setCluster.mono
      · exact Within.refl.record.setHost.mono
      · exact Within.refl.record.mono)).setHost) ((Within.on [.out, .events, .host, .tiles, .clusters, .mem, .wcache, .sched, .array] (by
      split
      · exact Within.refl.record.setCluster.mono
      · exact Within.refl.record.setHost.mono
      · exact Within.refl.record.mono)).faulted))

theorem Within.recordWrite (h : Within l s u) :
    Within (also l [.events]) s (recordWrite u) := h.andThen <| by
  unfold Machine.recordWrite
  dsimp only
  split
  · exact Within.refl.mono
  · exact ((Within.refl.patch [.events])).mono

theorem Within.pllStart (h : Within l s u) :
    Within (also l [.power, .rst]) s u.pllStart := h.via (Within.ite Within.refl.setPower.setRst Within.refl)

theorem Within.refWindow {count : Nat} (h : Within l s u) :
    Within (also l [.time, .power, .rst]) s (refWindow count u) := h.via (Within.ite Within.refl.setPower.setTime.holdover
        ((Within.ite Within.refl.setPower.pllStart Within.refl).setTime))

theorem Within.synFrame (h : Within l s u) :
    Within (also l [.out, .time]) s (synFrame u) := h.via (Within.ite Within.refl Within.refl.setTime.emit)

theorem Within.synceMeasure {offset : Int} (h : Within l s u) :
    Within (also l [.time, .free]) s (synceMeasure offset u) := h.via (Within.ite Within.refl
        (Within.ite Within.refl.setTime (Within.ite Within.refl.setC Within.refl)))

theorem Within.ptpOffset {theta : Int} (h : Within l s u) :
    Within (also l [.out, .events, .time, .free]) s (ptpOffset theta u) := h.via (Within.ite Within.refl.offset Within.refl)

theorem Within.announceTimeout (h : Within l s u) :
    Within (also l [.time]) s (announceTimeout u) := h.via (Within.ite Within.refl Within.refl.holdover)

theorem Within.holdoverLimit (h : Within l s u) :
    Within (also l [.time]) s (holdoverLimit u) := h.via (Within.ite Within.refl.setTime Within.refl)

theorem Within.txTimestamp {ident : Half} {port : Nat} (h : Within l s u) :
    Within (also l [.events, .time]) s (txTimestamp ident port u) := h.via (Within.ite Within.refl.setTime.record Within.refl.setTime)

theorem Within.pulseEnd {n : Nat} (h : Within l s u) :
    Within (also l [.out, .time]) s (u.pulseEnd n) := h.via (Within.ite Within.refl.setPps.emit Within.refl)

theorem Within.fabricRest {c : Nat} (h : Within l s u) :
    Within (also l [.power]) s (u.fabricRest c) := h.via (Within.ite Within.refl.setPowerOf Within.refl)

theorem Within.idleRetain {t : Nat} (h : Within l s u) :
    Within (also l [.tiles, .power]) s (idleRetain t u) := h.via (Within.ite Within.refl.setPowerOf.modTile.fabricRest Within.refl)

theorem Within.retainOff {t : Nat} (h : Within l s u) :
    Within (also l [.tiles, .power]) s (retainOff t u) := h.via (Within.ite Within.refl.setTile.setPowerOf.fabricRest Within.refl)

theorem Within.scrubWake (h : Within l s u) :
    Within (also l [.events, .tiles]) s (scrubWake u) := h.via (Within.refl.foldl (fun t x => Within.refl.foldl (fun t x => Within.refl.scrubPolder)))

theorem Within.memPopulation (h : Within l s u) :
    Within (also l [.events, .mem]) s u.memPopulation := h.via (Within.ite Within.refl.setMem.record Within.refl.setMem)

theorem Within.wakeDone {d : Nat} {t : Option Training} (h : Within l s u) :
    Within (also l [.events, .tiles, .mem, .assured, .power]) s (wakeDone d t u) := h.via
        (Within.ite Within.refl (Within.ite Within.refl.setPowerOf.modTile.startSegment
        (Within.ite Within.refl.setPowerOf.setPower.fabricRest (Within.ite Within.refl.setPowerOf.setMem
        (Within.ite (Within.on [.events, .tiles, .mem, .assured, .power] (by
      split
      · exact Within.refl.setPowerOf.setMem.memPopulation.mono
      · exact Within.refl.setPowerOf.mono)) (Within.ite Within.refl.setPowerOf.radioStart Within.refl.setPowerOf))))))

theorem Within.powerEstimate {deciwatts : Nat} (h : Within l s u) :
    Within (also l [.power]) s (powerEstimate deciwatts u) := h.via Within.refl.setPower

theorem Within.thermalUpdate {tj : Int} (h : Within l s u) :
    Within (also l [.events, .power, .rst]) s (thermalUpdate tj u) := h.via (Within.ite
        ((Within.ite Within.refl.setPower.setRst Within.refl.setPower).record) (Within.ite Within.refl.setPower.setRst Within.refl.setPower))

theorem Within.thermalTrip {sensor : Half} (h : Within l s u) :
    Within (also l [.clock, .out, .events, .host, .time, .radio, .sweep, .adapt, .tiles, .clusters, .csps, .mem, .wcache, .sched, .array, .capture,
        .assured, .sec, .power, .rst, .net]) s (thermalTrip sensor u) := h.via (Within.ite Within.refl Within.refl.setPower.emit.sourceReset.setRst)

theorem Within.setAgeing {c : Nat} {a : Ageing} (h : Within l s u) :
    Within (also l [.power]) s (u.setAgeing c a) := h.via Within.refl.setPower

theorem Within.ageingPlan {vreq : List Nat} (h : Within l s u) : Within (also l [.events, .power]) s (ageingPlan vreq u) := h.andThen <| by
  unfold Machine.ageingPlan
  refine (Within.ite Within.refl ((Within.refl.foldl (l' := [.power]) fun t c => ?_).setPower.record)).mono
  split
  · exact Within.refl.setAgeing.mono
  · exact Within.refl.mono

theorem Within.nearMiss {c : Nat} (h : Within l s u) :
    Within (also l [.events, .power]) s (nearMiss c u) := h.via Within.refl.setAgeing.record

theorem sweepFit_within (c : Nat) : ∀ (n : Nat) (u : State), Within [.sweep] u (u.sweepFit c n)
  | 0, _ => Within.refl.mono
  | n + 1, u => by
    have ih := sweepFit_within c n
    unfold State.sweepFit
    split
    · exact Within.refl.mono
    · split
      · exact Within.refl.mono
      · exact (Within.refl.modChan.andThen (ih _)).mono

theorem Within.sweepFit {c n : Nat} (h : Within l s u) : Within (also l [.sweep]) s (u.sweepFit c n) := h.andThen (sweepFit_within c n u)

theorem Within.stepDown {c : Nat} (h : Within l s u) :
    Within (also l [.events, .sweep, .power]) s (stepDown c u) := h.via (Within.ite Within.refl.setAgeing.record.sweepFit Within.refl)

theorem Within.standbyEnd (h : Within l s u) :
    Within (also l [.power, .rst]) s (standbyEnd u) := h.via (Within.ite (Within.refl.setPower.pllStart.setRst.foldl
        (fun t x => Within.refl.wakeDomain)) Within.refl.setPower.pllStart.setRst)

theorem Within.powerOn {cpRole : BitVec 2} (h : Within l s u) :
    Within (also l [.clock, .out, .events, .host, .time, .radio, .sweep, .adapt, .tiles, .clusters, .csps, .mem, .wcache, .sched, .array, .capture,
        .assured, .sec, .power, .rst, .net]) s (powerOn cpRole u) := h.via Within.refl.applyReset.setPower.setRst

theorem Within.powerFall (h : Within l s u) :
    Within (also l [.clock, .out, .events, .host, .time, .radio, .sweep, .adapt, .tiles, .clusters, .csps, .mem, .wcache, .sched, .array, .capture,
        .assured, .sec, .power, .rst, .net]) s (powerFall u) := h.via Within.refl.applyReset.setPower.setRst

theorem Within.resetPin (h : Within l s u) :
    Within (also l [.clock, .out, .events, .host, .time, .radio, .sweep, .adapt, .tiles, .clusters, .csps, .mem, .wcache, .sched, .array, .capture,
        .assured, .sec, .power, .rst, .net]) s (resetPin u) := h.via Within.refl.setRst.sourceReset

theorem Within.schDog (h : Within l s u) :
    Within (also l [.clock, .out, .events, .host, .time, .radio, .sweep, .adapt, .tiles, .clusters, .csps, .mem, .wcache, .sched, .array, .capture,
        .assured, .sec, .power, .rst, .net]) s (schDog u) := h.via (Within.ite Within.refl.sourceReset Within.refl)

theorem Within.secDog (h : Within l s u) :
    Within (also l [.clock, .out, .events, .host, .time, .radio, .sweep, .adapt, .tiles, .clusters, .csps, .mem, .wcache, .sched, .array, .capture,
        .assured, .sec, .power, .rst, .net]) s (secDog u) := h.via (Within.ite Within.refl.sourceReset Within.refl)

theorem Within.trimLoad {pass : Bool} (h : Within l s u) :
    Within (also l [.power, .rst]) s (trimLoad pass u) := h.via (Within.ite Within.refl
        (Within.ite Within.refl.setPower.setRst.pllStart (Within.ite Within.refl.setRst Within.refl.setRst)))

theorem Within.bermAutoStart (h : Within l s u) :
    Within (also l [.events, .host, .time, .radio, .clusters, .mem, .wcache, .sec, .power]) s u.bermAutoStart := h.andThen <| by
  unfold State.bermAutoStart
  extract_lets o
  split
  · exact Within.refl.mono
  · split
    · exact (Within.ite Within.refl.bermEnter Within.refl.record).mono
    · exact Within.refl.record.mono

theorem Within.releaseEnd (h : Within l s u) :
    Within (also l [.events, .host, .time, .radio, .clusters, .mem, .wcache, .sec, .power, .rst]) s u.releaseEnd := h.via
        (Within.ite Within.refl (Within.ite Within.refl.setRst ((Within.refl.setRst.foldl fun t x => Within.refl.wakeDomain).bermAutoStart)))

theorem Within.blockRelease {d : Nat} (h : Within l s u) :
    Within (also l [.events, .host, .time, .radio, .clusters, .mem, .wcache, .sec, .power, .rst]) s (blockRelease d u) := h.via
        (Within.ite Within.refl (Within.ite ((Within.ite Within.refl.setPowerOf Within.refl).releaseEnd)
        (Within.ite Within.refl.wakeDomain.releaseEnd Within.refl)))

theorem Within.holdDomain {d : Nat} (h : Within l s u) :
    Within (also l [.power, .rst]) s (u.holdDomain d) := h.via ((Within.refl.foldl fun t x => Within.refl.setPowerOf).setRst)

theorem Within.clockStuck {b : StuckClock} (h : Within l s u) :
    Within (also l [.events, .host, .time, .radio, .clusters, .mem, .wcache, .sec, .power, .rst]) s (clockStuck b u) := h.andThen <| by
  unfold Machine.clockStuck
  split
  · exact Within.refl.holdDomain.record.releaseEnd.mono
  · exact ((Within.refl.foldl fun t x => Within.refl.holdDomain).setPower.setRst.record.releaseEnd).mono
  · exact Within.refl.setPower.setRst.mono

theorem Within.registerWrite {x : Master} {addr : Nat} {four : Bool} {v : Nat} (h : Within l s u) :
    Within (also l [.clock, .out, .events, .host, .time, .radio, .sweep, .adapt, .tiles, .clusters, .csps, .mem, .wcache, .sched, .array, .capture,
        .assured, .sec, .power, .rst, .net, .free]) s
      (registerWrite x addr four v u) := h.andThen <| by
  unfold Machine.registerWrite
  refine (Within.ite Within.refl.emit (Within.ite (Within.ite Within.refl Within.refl.violation)
    (Within.ite (l := [.clock, .out, .events, .host, .time, .radio, .sweep, .adapt, .tiles, .clusters, .csps, .mem, .wcache, .sched, .array, .capture,
        .assured, .sec, .power, .rst, .net, .free]) ?_ Within.refl))).mono
  have hw {o n} := (Within.refl (s := u)).regWrite (m := x) (off := o) (v := n)
  split
  · next hr => exact ((congrArg Prod.fst hr) ▸ hw).emit.mono
  · next hr => exact ((congrArg Prod.fst hr) ▸ hw).mono

theorem Within.resetPinRise (h : Within l s u) :
    Within (also l [.rst]) s (resetPinRise u) := h.via Within.refl.setRst

theorem Within.standby (h : Within l s u) :
    Within (also l [.out, .events, .host, .time, .radio, .sweep, .adapt, .tiles, .clusters, .csps, .mem, .wcache, .sched, .array, .capture, .assured,
        .sec, .power, .net]) s (standby u) :=
  by
  have hreset : Within (also _ [.host, .tiles, .clusters, .csps, .mem, .wcache, .sched, .array, .sec, .power, .net]) u (Machine.standby u) :=
      (Within.refl (s := u)).resetCommon.of_reset
  exact h.andThen hreset.mono

theorem Within.linkUp {port : Nat} (h : Within l s u) :
    Within (also l [.net]) s (linkUp port u) := h.via (Within.ite Within.refl Within.refl.modPort)

theorem Within.ackComplete {c : Nat} {id : Nat} (h : Within l s u) :
    Within (also l [.sweep]) s (ackComplete c id u) := h.andThen <| by
  unfold Machine.ackComplete
  dsimp only
  split
  · exact Within.refl.mono
  · split
    · exact (Within.ite Within.refl.setChan Within.refl).mono
    · exact Within.refl.mono

theorem Within.slewEnd (h : Within l s u) :
    Within (also l [.time]) s u.slewEnd := h.via (Within.ite Within.refl.setTime Within.refl)

theorem Within.sliceEnd {n : Nat} (h : Within l s u) :
    Within (also l [.out, .tiles, .sched, .array, .assured]) s (sliceEnd n u) := h.andThen <| by
  unfold Machine.sliceEnd
  split
  · exact Within.refl.mono
  · exact (Within.ite Within.refl Within.refl.setAssured.abortSegments).mono

theorem relocate_within (k : KeySlot) (hi : Nat) (x : State × Bool) (a : Nat) : Within [.events, .mem, .wcache] x.1 (relocate k hi x a).1 := by
  unfold relocate
  split
  · dsimp only
    exact Within.refl.extWrite.mono
  · exact Within.refl.mono

/-- Relocating a list of addresses writes external memory at most. -/
theorem relocates_within (k : KeySlot) (hi : Nat) (xs : List Nat) (x : State × Bool) : Within [.events, .mem, .wcache] x.1
    (xs.foldl (relocate k hi) x).1 := by
  induction xs generalizing x with
  | nil => exact Within.refl.mono
  | cons a r ih => exact ((relocate_within k hi x a).andThen (ih _)).mono

theorem Within.relocateGraph {k : KeySlot} {slot : Nat} (h : Within l s u) : Within (also l [.events, .mem, .wcache]) s (relocateGraph k slot u).1 :=
    h.andThen <| by
  have step {v : State × Bool} {hi : Nat} {xs : List Nat} (hv : Within [.events, .mem, .wcache] u v.1) :
      Within [.events, .mem, .wcache] u (xs.foldl (relocate k hi) v).1 := (hv.andThen (relocates_within k hi xs v)).mono
  unfold Machine.relocateGraph
  extract_lets hi go h0 x1 hdr inside tasks x2 x3 x4 args x5
  have h1 : Within [.events, .mem, .wcache] u x1.1 := step Within.refl.mono
  have h3 : Within [.events, .mem, .wcache] u x3.1 := step (step h1)
  have h4 : Within [.events, .mem, .wcache] u x4.1 := by
    unfold x4
    split
    · exact step h3
    · exact h3
  have h5 : Within [.events, .mem, .wcache] u x5.1 := step h4
  clear_value x5 args x4 x3 x2 x1 inside
  split
  · exact h1
  · split
    · exact h5
    · exact (h5.foldl fun _ _ => Within.refl.extWrite).mono

theorem Within.modelLoaded (h : Within l s u) : Within (also l [.out, .events, .host, .mem, .wcache, .sec]) s (modelLoaded u) := h.andThen <| by
  have hanswer {x : Option QcpHdr} {v : State} {c : Half} {b : ReplyBody} (hv : Within [.events, .mem, .wcache, .sec] u v) :
      Within [.out, .events, .host, .mem, .wcache, .sec] u (match x with | some h => v.reply h false c b | none => v) := by
    cases x with
    | some q => exact hv.reply.mono
    | none => exact hv.mono
  unfold Machine.modelLoaded
  split
  · exact Within.refl.mono
  · extract_lets sec0 s0 answer
    have h0 : Within [.sec] u s0 := Within.refl.setSec.mono
    clear_value s0
    split
    · exact hanswer h0.unsealRegion.mono
    · dsimp only
      split
      · exact hanswer h0.extWrite.relocateGraph.setSec.mono
      · exact hanswer h0.extWrite.relocateGraph.unsealRegion.mono

theorem Within.refuse {c : Half} (h : Within l s u) :
    Within (also l []) s ((refuse c u).1) := h.via Within.refl

theorem Within.unknownType {h' : QcpHdr} {type : Nat} (h : Within l s u) :
    Within (also l [.out, .events, .host, .mem, .wcache, .capture]) s (unknownType h' type u) := h.via
        (Within.ite Within.refl ((Within.refl.serve (fun _ => Within.refl.refuse))))

theorem Within.ptpTransmit {port : Nat} {m : PtpMsg} (h : Within l s u) :
    Within (also l [.out, .capture]) s (ptpTransmit port m u) := h.via (Within.ite Within.refl (Within.on [.out, .capture] (by
      split
      · exact (Within.ite Within.refl.send Within.refl).mono
      · exact (Within.ite Within.refl (Within.ite Within.refl.send Within.refl.send.send)).mono
      · exact (Within.ite Within.refl Within.refl.send).mono
      · exact (Within.ite Within.refl Within.refl.send).mono)))

/-! ## What each command stays within -/

/-- The state a command goes on with. -/
theorem of_next (h : (.next u : Host.Outcome State Fault Refusal) = .next t) (hu : Within l s u) : Within l s t := by
  cases h; exact hu

theorem exec_within (c : Instr) (h : exec c s = .next t) : Within (mayChange c) s t := by
  cases c with
  | npFrameReceive => exact of_next (l := [.events, .mem, .wcache, .capture, .net]) h Within.refl.frameReceive.mono
  | portLinkLoss => exact of_next (l := [.net]) h Within.refl.modPort.mono
  | mkaExchange => exact of_next (l := [.out, .net]) h Within.refl.mkaEnd.mono
  | arpNdReply => exact of_next (l := [.out]) h Within.refl.addressReply.mono
  | claimPreWake => exact of_next (l := [.power]) h Within.refl.preWake.mono
  | claimPreemptRequest => exact of_next (l := [.events, .host, .tiles, .mem, .wcache, .sched, .free]) h Within.refl.preempts.traced.mono
  | claimReassign => exact of_next (l := [.out, .events, .tiles, .sched, .array]) h Within.refl.reassigns.mono
  | claimEntryOffset =>
    exact of_next (l := [.events, .host, .radio, .tiles, .csps, .mem, .wcache, .sched, .power, .free]) h Within.refl.entryOffset.traced.mono
  | claimTaskEnd => exact of_next (l := [.out, .events, .tiles, .sched, .array]) h Within.refl.claimEnd.mono
  | cellConfig =>
    exact of_next (l := [.out, .events, .host, .radio, .adapt, .mem, .wcache, .capture, .power, .free]) h
        (Within.refl.serve fun _ => Within.refl.cellConfigBody).mono
  | ulSlotConfig => exact of_next (l := [.events, .radio, .free]) h Within.refl.ulSlotConfig.mono
  | uplaneSection => exact of_next (l := [.radio]) h Within.refl.uplaneSection.mono
  | harqStagingStart => exact of_next (l := [.radio]) h Within.refl.harqStart.mono
  | harqStagingComplete => exact of_next (l := [.events, .radio, .mem]) h Within.refl.harqStaged.mono
  | ulStageComplete =>
    exact of_next (l := [.events, .host, .radio, .tiles, .csps, .mem, .wcache, .sched, .free]) h Within.refl.stageComplete.traced.mono
  | prachDetection => exact of_next (l := [.out, .radio, .capture, .net]) h Within.refl.prachFound.mono
  | codeBlockDecoded => exact of_next (l := [.radio]) h Within.refl.blockDecoded.mono
  | ulSlotDecided =>
    exact of_next (l := [.out, .events, .host, .radio, .adapt, .mem, .wcache, .capture, .sec, .net, .free]) h Within.refl.slotDecided.traced.mono
  | harqWritebackComplete => exact of_next (l := [.events, .radio, .mem, .wcache]) h Within.refl.writebackDone.mono
  | ulSlotDeadline =>
    exact of_next (l := [.out, .events, .host, .radio, .adapt, .tiles, .clusters, .mem, .wcache, .sched, .array, .capture, .sec, .net, .free]) h
        Within.refl.slotDeadline.mono
  | dlSlotConfig => exact of_next (l := [.events, .radio, .sec]) h Within.refl.dlSlotConfig.mono
  | dlEncodeComplete => exact of_next (l := [.radio]) h Within.refl.dlEncoded.mono
  | precoderComplete => exact of_next (l := [.events, .host, .radio, .mem, .wcache, .free]) h Within.refl.precoded.traced.mono
  | cplaneSend => exact of_next (l := [.out, .radio, .capture]) h Within.refl.cplane.mono
  | dlSymbolWindowOpen => exact of_next (l := [.out, .events, .host, .radio, .mem, .wcache, .capture, .free]) h Within.refl.windowOpen.traced.mono
  | dlSymbolWindowClose => exact of_next (l := [.out, .events, .radio, .mem, .wcache, .capture, .net]) h Within.refl.windowClose.mono
  | sweepConfig =>
    exact of_next (l := [.out, .events, .host, .sweep, .mem, .wcache, .capture, .power]) h
        (Within.refl.serve fun _ => Within.refl.sweepConfigBody).mono
  | sweepCtx =>
    exact of_next (l := [.out, .events, .host, .sweep, .mem, .wcache, .capture]) h (Within.refl.serve fun _ => Within.refl.sweepCtxBody).mono
  | sweepDownlinkItem => exact of_next (l := [.sweep]) h Within.refl.sweepItem.mono
  | sweepSection => exact of_next (l := [.sweep]) h Within.refl.sweepSection.mono
  | sweepSampleErase => exact of_next (l := [.sweep]) h Within.refl.eraseSample.mono
  | sweepWindow => exact of_next (l := [.sweep]) h Within.refl.sweepWindow.mono
  | sweepReceptionStart => exact of_next (l := [.radio, .sweep]) h Within.refl.receptionStart.mono
  | sweepSymbolDecided => exact of_next (l := [.radio, .sweep, .csps]) h Within.refl.symbolDecided.mono
  | sweepHeaderDecoded => exact of_next (l := [.radio, .sweep]) h Within.refl.headerDecoded.mono
  | sweepPayloadDecoded =>
    exact of_next (l := [.out, .events, .host, .radio, .sweep, .adapt, .mem, .wcache, .capture, .sec, .net, .free]) h Within.refl.payloadDecoded.mono
  | sweepAckTransmit => exact of_next (l := [.out, .sweep, .capture]) h Within.refl.ackTransmit.mono
  | adaptConfig =>
    exact of_next (l := [.out, .events, .host, .adapt, .mem, .wcache, .capture]) h (Within.refl.serve fun _ => Within.refl.adaptConfigBody).mono
  | sampleLabelWrite => exact of_next (l := [.events, .host, .adapt, .mem, .wcache, .free]) h Within.refl.sampleWrite.mono
  | sampleDropTimeout => exact of_next (l := [.adapt]) h Within.refl.sampleDrop.mono
  | trainingStep => exact of_next (l := [.events, .host, .adapt, .mem, .wcache, .free]) h Within.refl.trainStep.mono
  | guardWindowEnd => exact of_next (l := [.out, .events, .host, .adapt, .mem, .wcache, .capture, .free]) h Within.refl.guardEnd.mono
  | adaptControl =>
    exact of_next (l := [.out, .events, .host, .adapt, .mem, .wcache, .capture]) h (Within.refl.serve fun _ => Within.refl.adaptControlBody).mono
  | freeze => exact of_next (l := [.out, .events, .host, .adapt, .mem, .wcache, .capture, .free]) h Within.refl.controlBoundary.mono
  | unfreeze => exact of_next (l := [.out, .events, .host, .adapt, .mem, .wcache, .capture, .free]) h Within.refl.controlBoundary.mono
  | select => exact of_next (l := [.out, .events, .host, .adapt, .mem, .wcache, .capture, .free]) h Within.refl.controlBoundary.mono
  | pin => exact of_next (l := [.out, .events, .host, .adapt, .mem, .wcache, .capture, .free]) h Within.refl.controlBoundary.mono
  | unpin => exact of_next (l := [.out, .events, .host, .adapt, .mem, .wcache, .capture, .free]) h Within.refl.controlBoundary.mono
  | discardPool => exact of_next (l := [.out, .events, .host, .adapt, .mem, .wcache, .capture, .free]) h Within.refl.controlBoundary.mono
  | adaptStatus =>
    exact of_next (l := [.out, .events, .host, .mem, .wcache, .capture]) h (Within.refl.serve fun _ => Within.refl.adaptStatusBody).mono
  | adaptSave =>
    exact of_next (l := [.out, .events, .host, .mem, .wcache, .capture, .free]) h (Within.refl.serve fun _ => Within.refl.adaptSaveBody).mono
  | adaptLoad =>
    exact of_next (l := [.out, .events, .host, .adapt, .mem, .wcache, .capture, .free]) h (Within.refl.serve fun _ => Within.refl.adaptLoadBody).mono
  | frameBoundary => exact of_next (l := allBut [.clock, .rst, .net, .port]) h Within.refl.frameBoundary.mono
  | mclr =>
    exact of_next (l := [.events, .radio, .tiles, .clusters, .mem, .wcache, .sched, .assured]) h
        (Within.refl.runOp fun _ _ => Within.refl.mclrOp).mono
  | mmac =>
    exact of_next (l := [.events, .radio, .tiles, .clusters, .mem, .wcache, .sched, .assured]) h
        (Within.refl.runOp fun _ _ => Within.refl.mmacOp).mono
  | mout =>
    exact of_next (l := [.events, .radio, .tiles, .clusters, .mem, .wcache, .sched, .assured]) h
        (Within.refl.runOp fun _ _ => Within.refl.moutOp).mono
  | mwld =>
    exact of_next (l := [.events, .radio, .tiles, .clusters, .mem, .wcache, .sched, .assured]) h
        (Within.refl.runOp fun _ _ => Within.refl.weightLoad).mono
  | mwldt =>
    exact of_next (l := [.events, .radio, .tiles, .clusters, .mem, .wcache, .sched, .assured]) h
        (Within.refl.runOp fun _ _ => Within.refl.weightLoad).mono
  | weightLoadComplete => exact of_next (l := [.events, .radio, .tiles, .clusters, .mem, .wcache, .sched, .assured]) h Within.refl.weightLoadEnd.mono
  | alu =>
    exact of_next (l := [.events, .radio, .tiles, .clusters, .mem, .wcache, .sched, .assured]) h
        (Within.refl.runOp fun _ _ => Within.refl.scalarOp).mono
  | alui =>
    exact of_next (l := [.events, .radio, .tiles, .clusters, .mem, .wcache, .sched, .assured]) h
        (Within.refl.runOp fun _ _ => Within.refl.scalarOp).mono
  | li =>
    exact of_next (l := [.events, .radio, .tiles, .clusters, .mem, .wcache, .sched, .assured]) h
        (Within.refl.runOp fun _ _ => Within.refl.scalarOp).mono
  | lih =>
    exact of_next (l := [.events, .radio, .tiles, .clusters, .mem, .wcache, .sched, .assured]) h
        (Within.refl.runOp fun _ _ => Within.refl.scalarOp).mono
  | amov =>
    exact of_next (l := [.events, .radio, .tiles, .clusters, .mem, .wcache, .sched, .assured]) h
        (Within.refl.runOp fun _ _ => Within.refl.amovOp).mono
  | aaddi =>
    exact of_next (l := [.events, .radio, .tiles, .clusters, .mem, .wcache, .sched, .assured]) h
        (Within.refl.runOp fun _ _ => Within.refl.aaddiOp).mono
  | extr =>
    exact of_next (l := [.events, .radio, .tiles, .clusters, .mem, .wcache, .sched, .assured]) h
        (Within.refl.runOp fun _ _ => Within.refl.extrOp).mono
  | br =>
    exact of_next (l := [.events, .radio, .tiles, .clusters, .mem, .wcache, .sched, .assured]) h (Within.refl.runOp fun _ _ => Within.refl.brOp).mono
  | bdec =>
    exact of_next (l := [.events, .radio, .tiles, .clusters, .mem, .wcache, .sched, .assured]) h
        (Within.refl.runOp fun _ _ => Within.refl.bdecOp).mono
  | jal =>
    exact of_next (l := [.events, .radio, .tiles, .clusters, .mem, .wcache, .sched, .assured]) h (Within.refl.runOp fun _ _ => Within.refl.jalOp).mono
  | jr =>
    exact of_next (l := [.events, .radio, .tiles, .clusters, .mem, .wcache, .sched, .assured]) h (Within.refl.runOp fun _ _ => Within.refl.jrOp).mono
  | semWait =>
    exact of_next (l := [.events, .radio, .tiles, .clusters, .mem, .wcache, .sched, .assured]) h
        (Within.refl.runOp fun _ _ => Within.refl.semWaitOp).mono
  | semSignal =>
    exact of_next (l := [.events, .radio, .tiles, .clusters, .mem, .wcache, .sched, .assured]) h
        (Within.refl.runOp fun _ _ => Within.refl.semSignalOp).mono
  | semTry =>
    exact of_next (l := [.events, .radio, .tiles, .clusters, .mem, .wcache, .sched, .assured]) h
        (Within.refl.runOp fun _ _ => Within.refl.semTryOp).mono
  | fence =>
    exact of_next (l := [.events, .radio, .tiles, .clusters, .mem, .wcache, .sched, .assured]) h
        (Within.refl.runOp fun _ _ => Within.refl.fenceOp).mono
  | poolq =>
    exact of_next (l := [.events, .radio, .tiles, .clusters, .mem, .wcache, .sched, .assured]) h
        (Within.refl.runOp fun _ _ => Within.refl.poolqOp).mono
  | endt =>
    exact of_next (l := [.out, .events, .host, .radio, .tiles, .clusters, .mem, .wcache, .sched, .array, .assured, .free]) h
        Within.refl.endtLogged.mono
  | stepinc =>
    exact of_next (l := [.events, .radio, .tiles, .clusters, .mem, .wcache, .sched, .assured]) h
        (Within.refl.runOp fun _ _ => .ok Within.refl.modBody).mono
  | rdtask =>
    exact of_next (l := [.events, .radio, .tiles, .clusters, .mem, .wcache, .sched, .assured]) h
        (Within.refl.runOp fun _ _ => Within.refl.rdtaskOp).mono
  | xred =>
    exact of_next (l := [.out, .events, .radio, .tiles, .clusters, .mem, .wcache, .sched, .array, .assured]) h
        (Within.refl.runOp fun _ _ => Within.refl.levelOp).mono
  | xbc =>
    exact of_next (l := [.out, .events, .radio, .tiles, .clusters, .mem, .wcache, .sched, .array, .assured]) h
        (Within.refl.runOp fun _ _ => Within.refl.levelOp).mono
  | qld =>
    exact of_next (l := [.events, .radio, .tiles, .clusters, .mem, .wcache, .sched, .assured]) h (Within.refl.runOp fun _ _ => Within.refl.qldOp).mono
  | qcrest =>
    exact of_next (l := [.events, .radio, .tiles, .clusters, .mem, .wcache, .sched, .assured]) h
        (Within.refl.runOp fun _ _ => Within.refl.qcrestOp).mono
  | qlift =>
    exact of_next (l := [.events, .radio, .tiles, .clusters, .mem, .wcache, .sched, .assured]) h
        (Within.refl.runOp fun _ _ => Within.refl.qliftOp).mono
  | qwait =>
    exact of_next (l := [.events, .radio, .tiles, .clusters, .mem, .wcache, .sched, .assured]) h
        (Within.refl.runOp fun _ _ => Within.refl.qwaitOp).mono
  | sld =>
    exact of_next (l := [.events, .radio, .tiles, .clusters, .mem, .wcache, .sched, .assured]) h (Within.refl.runOp fun _ _ => Within.refl.sldOp).mono
  | sst =>
    exact of_next (l := [.events, .radio, .tiles, .clusters, .mem, .wcache, .sched, .assured]) h (Within.refl.runOp fun _ _ => Within.refl.sstOp).mono
  | vld =>
    exact of_next (l := [.events, .radio, .tiles, .clusters, .mem, .wcache, .sched, .assured]) h (Within.refl.runOp fun _ _ => Within.refl.vldOp).mono
  | vst =>
    exact of_next (l := [.events, .radio, .tiles, .clusters, .mem, .wcache, .sched, .assured]) h (Within.refl.runOp fun _ _ => Within.refl.vstOp).mono
  | vbcast =>
    exact of_next (l := [.events, .radio, .tiles, .clusters, .mem, .wcache, .sched, .assured]) h
        (Within.refl.runOp fun _ _ => .ok Within.refl.modRegs).mono
  | vmov =>
    exact of_next (l := [.events, .radio, .tiles, .clusters, .mem, .wcache, .sched, .assured]) h
        (Within.refl.runOp fun _ _ => .ok Within.refl.modRegs).mono
  | pset =>
    exact of_next (l := [.events, .radio, .tiles, .clusters, .mem, .wcache, .sched, .assured]) h
        (Within.refl.runOp fun _ _ => .ok Within.refl.modRegs).mono
  | plogic =>
    exact of_next (l := [.events, .radio, .tiles, .clusters, .mem, .wcache, .sched, .assured]) h
        (Within.refl.runOp fun _ _ => .ok Within.refl.modRegs).mono
  | popc =>
    exact of_next (l := [.events, .radio, .tiles, .clusters, .mem, .wcache, .sched, .assured]) h
        (Within.refl.runOp fun _ _ => .ok Within.refl.modRegs).mono
  | vchain =>
    exact of_next (l := [.events, .radio, .tiles, .clusters, .mem, .wcache, .sched, .assured]) h
        (Within.refl.runOp fun _ _ => Within.refl.vecIssue).mono
  | vred =>
    exact of_next (l := [.events, .radio, .tiles, .clusters, .mem, .wcache, .sched, .assured]) h
        (Within.refl.runOp fun _ _ => Within.refl.vecIssue).mono
  | vtscale =>
    exact of_next (l := [.events, .radio, .tiles, .clusters, .mem, .wcache, .sched, .assured]) h
        (Within.refl.runOp fun _ _ => Within.refl.vtscaleOp).mono
  | quant =>
    exact of_next (l := [.events, .radio, .tiles, .clusters, .mem, .wcache, .sched, .assured]) h
        (Within.refl.runOp fun _ _ => Within.refl.vecIssue).mono
  | mxquant =>
    exact of_next (l := [.events, .radio, .tiles, .clusters, .mem, .wcache, .sched, .assured]) h
        (Within.refl.runOp fun _ _ => Within.refl.vecIssue).mono
  | requant =>
    exact of_next (l := [.events, .radio, .tiles, .clusters, .mem, .wcache, .sched, .assured]) h
        (Within.refl.runOp fun _ _ => Within.refl.vecIssue).mono
  | vcompress =>
    exact of_next (l := [.events, .radio, .tiles, .clusters, .mem, .wcache, .sched, .assured]) h
        (Within.refl.runOp fun _ _ => Within.refl.vcompressOp).mono
  | vexpand =>
    exact of_next (l := [.events, .radio, .tiles, .clusters, .mem, .wcache, .sched, .assured]) h
        (Within.refl.runOp fun _ _ => Within.refl.vexpandOp).mono
  | vupn =>
    exact of_next (l := [.events, .radio, .tiles, .clusters, .mem, .wcache, .sched, .assured]) h
        (Within.refl.runOp fun _ _ => Within.refl.vecIssue).mono
  | vupb =>
    exact of_next (l := [.events, .radio, .tiles, .clusters, .mem, .wcache, .sched, .assured]) h
        (Within.refl.runOp fun _ _ => Within.refl.vecIssue).mono
  | vrng =>
    exact of_next (l := [.events, .radio, .tiles, .clusters, .mem, .wcache, .sched, .assured]) h
        (Within.refl.runOp fun _ _ => Within.refl.vrngOp).mono
  | longOpVectorComplete => exact of_next (l := [.events, .radio, .tiles, .clusters, .mem, .wcache, .sched, .assured]) h Within.refl.longStep.mono
  | assign => exact of_next (l := [.out, .events, .tiles, .sched, .array]) h Within.refl.assignTile.mono
  | tileLoad => exact of_next (l := [.events, .tiles, .clusters, .mem, .wcache, .sched, .array, .power, .free]) h Within.refl.loadCommand.mono
  | imageLoadCheck => exact of_next (l := [.events, .radio, .tiles, .clusters, .mem, .wcache, .sched, .assured, .free]) h Within.refl.imageCheck.mono
  | tilePreempt =>
    exact of_next (l := [.events, .host, .tiles, .mem, .wcache, .sched, .free]) h ((Within.ite (Within.refl.preemptTile)
        (Within.refl.preemptTile.traced))).mono
  | tileKill => exact of_next (l := [.out, .events, .tiles, .clusters, .mem, .wcache, .sched, .array]) h Within.refl.killTile.mono
  | tileZeroise => exact of_next (l := [.out, .events, .tiles, .sched, .array]) h Within.refl.zeroiseTile.mono
  | drainComplete =>
    exact of_next (l := [.out, .events, .radio, .sweep, .tiles, .clusters, .mem, .wcache, .sched, .array, .assured]) h Within.refl.drainEnd.mono
  | zeroiseComplete => exact of_next (l := [.out, .tiles, .sched, .array, .assured]) h Within.refl.zeroiseEnd.startSegment.abortSegments.mono
  | taskFault => exact of_next (l := [.events, .radio, .tiles, .clusters, .mem, .wcache, .sched, .assured]) h Within.refl.hwFault.mono
  | tagWaitLimit => exact of_next (l := [.out, .events, .radio, .tiles, .clusters, .mem, .wcache, .sched, .assured]) h Within.refl.tagLimit.mono
  | scrubStep => exact of_next (l := [.events, .tiles]) h Within.refl.scrubPolder.mono
  | polderAlloc => exact of_next (l := [.out, .tiles]) h Within.refl.polderAlloc.mono
  | polderRelease => exact of_next (l := [.out, .tiles, .sched, .array]) h Within.refl.polderLeaves.mono
  | lockedPolderZeroiseStart => exact of_next (l := [.tiles]) h Within.refl.lockedStart.mono
  | polderZeroiseComplete => exact of_next (l := [.tiles]) h Within.refl.polderZeroised.mono
  | creditRequest =>
    exact of_next (l := [.out, .events, .radio, .tiles, .clusters, .mem, .wcache, .sched, .array, .assured]) h Within.refl.creditAsk.mono
  | creditGrant =>
    exact of_next (l := [.out, .events, .radio, .tiles, .clusters, .mem, .wcache, .sched, .array, .assured]) h Within.refl.grantCycle.mono
  | remoteWrite =>
    exact of_next (l := [.out, .events, .radio, .tiles, .clusters, .mem, .wcache, .sched, .array, .assured]) h Within.refl.remoteStore.mono
  | sluiceNoCredit => exact of_next (l := [.events, .radio, .tiles, .clusters, .mem, .wcache, .sched, .assured]) h Within.refl.discardNotice.mono
  | remoteRead => exact of_next (l := [.out, .events, .radio, .tiles, .clusters, .mem, .wcache, .sched, .assured]) h Within.refl.remoteRead.mono
  | streamFetch => exact of_next (l := [.events, .tiles, .mem, .wcache]) h Within.refl.fetchStep.mono
  | fetchReturn => exact of_next (l := [.events, .radio, .tiles, .clusters, .mem, .wcache, .sched, .assured]) h Within.refl.fetchBack.mono
  | streamWriteLand =>
    exact of_next (l := [.out, .events, .radio, .sweep, .tiles, .clusters, .mem, .wcache, .sched, .array, .assured]) h Within.refl.landStep.mono
  | wcLineFill => exact of_next (l := [.wcache]) h Within.refl.wcFill.mono
  | memRefresh => exact of_next (l := [.mem]) h Within.refl.refresh.mono
  | patrolScrubPass => exact of_next (l := [.events, .mem]) h Within.refl.patrol.mono
  | clusterPageRelease => exact of_next (l := [.clusters]) h Within.refl.pageRelease.mono
  | poolJobStart => exact of_next (l := [.clusters, .sched]) h Within.refl.poolStart.mono
  | poolJobComplete => exact of_next (l := [.events, .radio, .tiles, .clusters, .mem, .wcache, .sched, .assured, .free]) h Within.refl.poolEnd.mono
  | submit =>
    exact of_next (l := [.out, .events, .host, .tiles, .clusters, .mem, .wcache, .sched, .array, .capture, .assured, .sec, .free]) h
        (Within.refl.serve fun _ => Within.refl.submitBody).mono
  | taskPlace =>
    exact of_next (l := [.out, .events, .tiles, .clusters, .mem, .wcache, .sched, .array, .assured, .power, .free]) h
        Within.refl.taskPlace.abortSegments.mono
  | taskYield =>
    exact of_next (l := [.events, .host, .tiles, .mem, .wcache, .sched, .free]) h ((Within.ite (Within.refl.yieldTask)
        (Within.refl.yieldTask.traced))).mono
  | graphEnd => exact of_next (l := [.out, .events, .tiles, .clusters, .mem, .wcache, .sched, .array]) h Within.refl.graphEnd.mono
  | complete =>
    exact of_next (l := [.out, .events, .host, .clusters, .mem, .wcache, .sched, .capture, .assured, .sec, .net, .free]) h
        ((Within.ite (Within.refl.complete) (Within.refl.complete.traced))).mono
  | notificationResend => exact of_next (l := [.out, .host]) h Within.refl.resend.mono
  | notificationAck => exact of_next (l := [.host]) h Within.refl.acknowledge.mono
  | kill =>
    exact of_next (l := [.out, .events, .host, .tiles, .clusters, .mem, .wcache, .sched, .array, .capture, .assured]) h
        (Within.refl.serve fun _ => Within.refl.killBody).mono
  | jobStatus => exact of_next (l := [.out, .events, .host, .mem, .wcache, .capture]) h (Within.refl.serve fun _ => Within.refl.statusBody).mono
  | cycLoad =>
    exact of_next (l := [.out, .events, .host, .mem, .wcache, .sched, .capture]) h (Within.refl.serve fun _ => Within.refl.cycLoadBody).mono
  | graphDeadline =>
    exact of_next (l := [.out, .events, .tiles, .clusters, .mem, .wcache, .sched, .array, .capture, .assured]) h Within.refl.graphDeadline.mono
  | assuredTaskDeadline =>
    exact of_next (l := [.out, .events, .tiles, .clusters, .mem, .wcache, .sched, .array, .capture, .assured]) h Within.refl.assuredDeadline.mono
  | cmac => exact of_next (l := [.out, .events, .sweep, .csps, .sched]) h Within.refl.runCsp.mono
  | cmacr => exact of_next (l := [.out, .events, .sweep, .csps, .sched]) h Within.refl.runCsp.mono
  | ftap => exact of_next (l := [.out, .events, .sweep, .csps, .sched]) h Within.refl.runCsp.mono
  | tupd => exact of_next (l := [.out, .events, .sweep, .csps, .sched]) h Within.refl.runCsp.mono
  | tcopy => exact of_next (l := [.out, .events, .sweep, .csps, .sched]) h Within.refl.runCsp.mono
  | cpow => exact of_next (l := [.out, .events, .sweep, .csps, .sched]) h Within.refl.runCsp.mono
  | ald => exact of_next (l := [.out, .events, .sweep, .csps, .sched]) h Within.refl.runCsp.mono
  | anrw => exact of_next (l := [.out, .events, .sweep, .csps, .sched]) h Within.refl.runCsp.mono
  | cspCmul => exact of_next (l := [.out, .events, .sweep, .csps, .sched]) h Within.refl.runCsp.mono
  | aclr => exact of_next (l := [.out, .events, .sweep, .csps, .sched]) h Within.refl.runCsp.mono
  | movi => exact of_next (l := [.out, .events, .sweep, .csps, .sched]) h Within.refl.runCsp.mono
  | movhi => exact of_next (l := [.out, .events, .sweep, .csps, .sched]) h Within.refl.runCsp.mono
  | ld => exact of_next (l := [.out, .events, .sweep, .csps, .sched]) h Within.refl.runCsp.mono
  | ld64 => exact of_next (l := [.out, .events, .sweep, .csps, .sched]) h Within.refl.runCsp.mono
  | st => exact of_next (l := [.out, .events, .sweep, .csps, .sched]) h Within.refl.runCsp.mono
  | st2 => exact of_next (l := [.out, .events, .sweep, .csps, .sched]) h Within.refl.runCsp.mono
  | cspAlu => exact of_next (l := [.out, .events, .sweep, .csps, .sched]) h Within.refl.runCsp.mono
  | seta => exact of_next (l := [.out, .events, .sweep, .csps, .sched]) h Within.refl.runCsp.mono
  | setm => exact of_next (l := [.out, .events, .sweep, .csps, .sched]) h Within.refl.runCsp.mono
  | rcpn => exact of_next (l := [.out, .events, .sweep, .csps, .sched]) h Within.refl.runCsp.mono
  | rpt => exact of_next (l := [.out, .events, .sweep, .csps, .sched]) h Within.refl.runCsp.mono
  | loop => exact of_next (l := [.out, .events, .sweep, .csps, .sched]) h Within.refl.runCsp.mono
  | cspBr => exact of_next (l := [.out, .events, .sweep, .csps, .sched]) h Within.refl.runCsp.mono
  | call => exact of_next (l := [.out, .events, .sweep, .csps, .sched]) h Within.refl.runCsp.mono
  | ret => exact of_next (l := [.out, .events, .sweep, .csps, .sched]) h Within.refl.runCsp.mono
  | iret => exact of_next (l := [.out, .events, .sweep, .csps, .sched]) h Within.refl.runCsp.mono
  | lsave => exact of_next (l := [.out, .events, .sweep, .csps, .sched]) h Within.refl.runCsp.mono
  | lrest => exact of_next (l := [.out, .events, .sweep, .csps, .sched]) h Within.refl.runCsp.mono
  | wait => exact of_next (l := [.out, .events, .sweep, .csps, .sched]) h Within.refl.runCsp.mono
  | sig => exact of_next (l := [.out, .events, .sweep, .csps, .sched]) h Within.refl.runCsp.mono
  | ei => exact of_next (l := [.out, .events, .sweep, .csps, .sched]) h Within.refl.runCsp.mono
  | di => exact of_next (l := [.out, .events, .sweep, .csps, .sched]) h Within.refl.runCsp.mono
  | halt => exact of_next (l := [.out, .events, .sweep, .csps, .sched]) h Within.refl.runCsp.mono
  | cspInterrupt => exact of_next (l := [.out, .events, .sweep, .csps, .sched]) h Within.refl.cspInterrupt.mono
  | cspRun => exact of_next (l := [.csps]) h Within.refl.setCsp.mono
  | cspForceStop => exact of_next (l := [.csps]) h Within.refl.setCsp.mono
  | cspZero => exact of_next (l := [.csps]) h Within.refl.setCsp.mono
  | cspZeroiseComplete => exact of_next (l := [.csps]) h Within.refl.setCsp.mono
  | cspExternalAccess => exact of_next (l := [.out, .events, .sweep, .csps, .sched]) h Within.refl.externalAccess.mono
  | cspExternalSteal => exact of_next (l := [.out, .events, .sweep, .csps, .sched]) h Within.refl.externalSteal.mono
  | arrayConfig =>
    exact of_next (l := [.out, .events, .host, .time, .mem, .wcache, .array, .capture, .power, .free]) h
        (Within.refl.serve fun _ => Within.refl.arrayConfigBody).mono
  | linkAdmission =>
    exact of_next (l := [.out, .events, .time, .radio, .tiles, .clusters, .mem, .wcache, .sched, .array, .assured]) h Within.refl.linkAdmit.mono
  | linkAdmitTimeout =>
    exact of_next (l := [.events, .time, .radio, .tiles, .clusters, .mem, .wcache, .sched, .array, .assured]) h Within.refl.admitTimeout.mono
  | flitReceive =>
    exact of_next (l := [.out, .events, .time, .radio, .tiles, .clusters, .mem, .wcache, .sched, .array, .assured]) h Within.refl.flitReceive.mono
  | retrain => exact of_next (l := [.out, .array, .free]) h Within.refl.retrain.mono
  | arrayTimeMessage => exact of_next (l := [.out, .events, .time, .free]) h Within.refl.arrayTime.mono
  | arrayResetMessage => exact of_next (l := allBut [.port, .free]) h Within.refl.arrayReset.mono
  | recordConfig =>
    exact of_next (l := [.out, .events, .host, .mem, .wcache, .capture]) h (Within.refl.serve fun _ => Within.refl.recordConfigBody).mono
  | recordStart =>
    exact of_next (l := [.out, .events, .host, .mem, .wcache, .capture]) h (Within.refl.serve fun _ => Within.refl.recordStartBody).mono
  | recordStop => exact of_next (l := [.out, .events, .host, .mem, .wcache, .capture]) h (Within.refl.serve fun _ => Within.refl.recordStopBody).mono
  | recordSave =>
    exact of_next (l := [.out, .events, .host, .mem, .wcache, .capture, .free]) h (Within.refl.serve fun _ => Within.refl.recordSaveBody).mono
  | recordLoad => exact of_next (l := [.out, .events, .host, .mem, .wcache, .capture]) h (Within.refl.serve fun _ => Within.refl.recordLoadBody).mono
  | replayStart =>
    exact of_next (l := [.out, .events, .host, .mem, .wcache, .capture]) h (Within.refl.serve fun _ => Within.refl.replayStartBody).mono
  | replayStatus =>
    exact of_next (l := [.out, .events, .host, .mem, .wcache, .capture]) h (Within.refl.serve fun _ => Within.refl.replayStatusBody).mono
  | replayStop =>
    exact of_next (l := allBut [.clock, .csps, .rst, .net, .port, .free]) h (Within.refl.serve fun t => .on
        [.out, .events, .host, .time, .radio, .sweep, .adapt, .tiles, .clusters, .mem, .wcache, .sched, .array, .capture, .assured, .sec, .power]
        (by
          split
          · exact Within.refl.replayEnd.mono
          · exact Within.refl.mono)).mono
  | replayEntryDeliver =>
    exact of_next (l := [.out, .events, .time, .radio, .sweep, .adapt, .tiles, .clusters, .mem, .wcache, .sched, .array, .capture, .assured, .sec,
        .power]) h Within.refl.replayDeliver.mono
  | copySignature =>
    exact of_next (l := [.out, .events, .tiles, .mem, .wcache, .sched, .array, .capture, .assured, .free]) h Within.refl.copySignature.mono
  | selftestSliceStart => exact of_next (l := [.out, .tiles, .sched, .array, .assured, .power]) h Within.refl.sliceStart.mono
  | selftestSegmentEnd => exact of_next (l := [.events, .assured]) h Within.refl.segmentEnd.mono
  | fttiWindowEnd => exact of_next (l := [.events, .assured]) h Within.refl.windowOver.mono
  | regionSet =>
    exact of_next (l := [.out, .events, .host, .mem, .wcache, .capture, .sec]) h (Within.refl.serve fun _ => Within.refl.regionSetBody).mono
  | regionZeroiseComplete => exact of_next (l := [.out, .host, .sec]) h Within.refl.regionZeroised.mono
  | crossingPeriodEnd => exact of_next (l := [.events, .mem, .wcache, .sec]) h Within.refl.crossPeriod.mono
  | crossingConfig =>
    exact of_next (l := [.out, .events, .host, .mem, .wcache, .capture, .sec]) h (Within.refl.serve fun _ => Within.refl.crossConfigBody).mono
  | load => exact of_next (l := [.out, .events, .host, .mem, .wcache, .capture, .power]) h (Within.refl.serve fun _ => Within.refl.loadBody).mono
  | rollbackCommit =>
    exact of_next (l := [.out, .events, .host, .mem, .wcache, .capture, .sec]) h (Within.refl.serve fun _ => Within.refl.rollbackBody).mono
  | modelLoad =>
    exact of_next (l := [.out, .events, .host, .mem, .wcache, .capture, .sec]) h (Within.refl.serve fun _ => Within.refl.modelLoadBody).mono
  | modelUnload =>
    exact of_next (l := [.out, .events, .host, .mem, .wcache, .capture, .sec]) h (Within.refl.serve fun _ => Within.refl.modelUnloadBody).mono
  | quote => exact of_next (l := [.out, .events, .host, .mem, .wcache, .capture]) h (Within.refl.serve fun _ => Within.refl.quoteBody).mono
  | fuseWrite =>
    exact of_next (l := [.out, .events, .host, .mem, .wcache, .capture, .sec]) h (Within.refl.serve fun _ => Within.refl.fuseWriteBody).mono
  | sealFuse => exact of_next (l := [.out, .events, .host, .mem, .wcache, .capture, .sec]) h (Within.refl.serve fun _ => Within.refl.sealBody).mono
  | debugChallenge =>
    exact of_next (l := [.out, .events, .host, .mem, .wcache, .capture, .sec, .free]) h (Within.refl.serve fun _ => Within.refl.challengeBody).mono
  | debugUnlock => exact of_next (l := allBut [.clock, .time, .rst, .net, .port, .free]) h (Within.refl.serve fun _ => Within.refl.unlockBody).mono
  | keyStoreAccess => exact of_next (l := allBut [.port, .free]) h Within.refl.violation.mono
  | supplyGlitch => exact of_next (l := allBut [.port, .free]) h Within.refl.violation.mono
  | clockGlitch => exact of_next (l := allBut [.port, .free]) h Within.refl.violation.mono
  | extest => exact of_next (l := [.out, .port, .free]) h Within.refl.boundary.drives.mono
  | idcode => exact of_next (l := [.out, .port]) h Within.refl.tap.mono
  | samplePreload => exact of_next (l := [.out, .port, .free]) h Within.refl.boundary.mono
  | intest => exact of_next (l := [.out, .port, .free]) h Within.refl.boundary.drives.mono
  | clamp => exact of_next (l := [.out, .port]) h Within.refl.tap.drives.mono
  | highz => exact of_next (l := [.out, .port]) h Within.refl.tap.mono
  | rstreg => exact of_next (l := [.out, .port]) h Within.refl.tap.mono
  | debugAccess => exact of_next (l := allBut []) h Within.refl.debugAccess.mono
  | bypass => exact of_next (l := [.out, .port]) h Within.refl.bypass.mono
  | qcpDatagramDrop => exact of_next (l := [.host]) h Within.refl.mbxDrop.mono
  | stateRead => exact of_next (l := [.out, .events, .host, .mem, .wcache, .capture]) h (Within.refl.serve fun _ => Within.refl.stateReadBody).mono
  | recorderRead => exact of_next (l := [.out, .events, .host, .mem, .wcache, .capture]) h (Within.refl.serve fun _ => Within.refl.recorderBody).mono
  | reset => exact of_next (l := allBut [.port, .free]) h (Within.refl.serve fun _ => Within.refl.resetBody).mono
  | sessionOpen => exact of_next (l := [.out, .events, .host, .mem, .wcache, .capture, .free]) h Within.refl.sessionOpen.mono
  | sessionAuth =>
    exact of_next (l := [.out, .events, .host, .mem, .wcache, .capture]) h (Within.refl.serve fun _ => Within.refl.sessionAuthBody).mono
  | sessionClose => exact of_next (l := [.out, .events, .host, .mem, .wcache, .capture]) h (Within.refl.serve fun _ => Within.refl.setSession).mono
  | sessionTimeout => exact of_next (l := [.host]) h Within.refl.sessionTimeout.mono
  | memWrite => exact of_next (l := allBut [.port]) h (Within.refl.serve fun _ => Within.refl.memWriteBody).mono
  | memRead => exact of_next (l := allBut [.port]) h (Within.refl.serve fun _ => Within.refl.memReadBody).mono
  | bermStart =>
    exact of_next (l := [.out, .events, .host, .time, .radio, .clusters, .mem, .wcache, .capture, .sec, .power]) h
        (Within.refl.serve fun _ => Within.refl.bermStartBody).mono
  | start =>
    exact of_next (l := [.out, .events, .host, .clusters, .mem, .wcache, .sched, .capture]) h (Within.refl.serve fun _ => Within.refl.startBody).mono
  | run => exact of_next (l := [.out, .events, .host, .mem, .wcache, .capture]) h (Within.refl.serve fun _ => Within.refl.runBody).mono
  | roleKeySet => exact of_next (l := [.out, .events, .host, .mem, .wcache, .capture]) h (Within.refl.serve fun _ => Within.refl.roleKeyBody).mono
  | timeConfig =>
    exact of_next (l := [.out, .events, .host, .time, .mem, .wcache, .capture, .power]) h (Within.refl.serve fun _ => Within.refl.timeConfigBody).mono
  | relock => exact of_next (l := [.out, .events, .host, .time, .mem, .wcache, .capture]) h (Within.refl.serve fun _ => Within.refl.relockBody).mono
  | logConfig => exact of_next (l := [.out, .events, .host, .mem, .wcache, .capture]) h (Within.refl.serve fun _ => Within.refl.logConfigBody).mono
  | traceSet => exact of_next (l := [.out, .events, .host, .mem, .wcache, .capture]) h (Within.refl.serve fun _ => Within.refl.traceBody).mono
  | dumpReady => exact of_next (l := [.out, .events, .host, .mem, .wcache, .sched, .free]) h Within.refl.dumpReady.mono
  | fwFault => exact of_next (l := [.out, .events, .host, .tiles, .clusters, .mem, .wcache, .sched, .array]) h Within.refl.fwTrap.mono
  | evrRecordWrite => exact of_next (l := [.events]) h Within.refl.recordWrite.mono
  | refMonitorWindow => exact of_next (l := [.time, .power, .rst]) h Within.refl.refWindow.mono
  | synFcwFrame => exact of_next (l := [.out, .time]) h Within.refl.synFrame.mono
  | synceMeasure => exact of_next (l := [.time, .free]) h Within.refl.synceMeasure.mono
  | ptpOffset => exact of_next (l := [.out, .events, .time, .free]) h Within.refl.ptpOffset.mono
  | announceTimeout => exact of_next (l := [.time]) h Within.refl.announceTimeout.mono
  | holdoverLimit => exact of_next (l := [.time]) h Within.refl.holdoverLimit.mono
  | txTimestamp => exact of_next (l := [.events, .time]) h Within.refl.txTimestamp.mono
  | txtsPop => exact of_next (l := [.out, .time]) h Within.refl.txtsPop.emit.mono
  | timeReadLatch => exact of_next (l := [.out, .time]) h Within.refl.timeLatch.emit.mono
  | timStepWrite => exact of_next (l := [.out, .events, .time]) h Within.refl.stepWrite.mono
  | ppsArm => exact of_next (l := [.out, .time]) h Within.refl.ppsArm.mono
  | ppsEdge => exact of_next (l := [.out, .time]) h Within.refl.raiseEdge.mono
  | ppsPulseEnd => exact of_next (l := [.out, .time]) h Within.refl.pulseEnd.mono
  | tileIdleRetain => exact of_next (l := [.tiles, .power]) h Within.refl.idleRetain.mono
  | tileRetainOff => exact of_next (l := [.tiles, .power]) h Within.refl.retainOff.mono
  | retainScrubWake => exact of_next (l := [.events, .tiles]) h Within.refl.scrubWake.mono
  | domainWakeComplete => exact of_next (l := [.events, .tiles, .mem, .assured, .power]) h Within.refl.wakeDone.mono
  | powerEstimate => exact of_next (l := [.events, .host, .mem, .wcache, .power, .free]) h Within.refl.powerEstimate.traced.mono
  | thermalUpdate => exact of_next (l := [.events, .host, .mem, .wcache, .power, .rst, .free]) h Within.refl.thermalUpdate.traced.mono
  | thermalTrip => exact of_next (l := allBut [.port, .free]) h Within.refl.thermalTrip.mono
  | ageingPlan => exact of_next (l := [.events, .host, .mem, .wcache, .power, .free]) h Within.refl.ageingPlan.traced.mono
  | ageNearmiss => exact of_next (l := [.events, .host, .mem, .wcache, .power, .free]) h Within.refl.nearMiss.traced.mono
  | ageStepdown => exact of_next (l := [.events, .host, .sweep, .mem, .wcache, .power, .free]) h Within.refl.stepDown.traced.mono
  | stbyNRise => exact of_next (l := [.power, .rst]) h Within.refl.standbyEnd.mono
  | powerOn => exact of_next (l := allBut [.port, .free]) h Within.refl.powerOn.mono
  | pwrgdFall => exact of_next (l := allBut [.port, .free]) h Within.refl.powerFall.mono
  | resetNAssert => exact of_next (l := allBut [.port, .free]) h Within.refl.resetPin.mono
  | schWatchdogExpire => exact of_next (l := allBut [.port, .free]) h Within.refl.schDog.mono
  | secWatchdogExpire => exact of_next (l := allBut [.port, .free]) h Within.refl.secDog.mono
  | wdtArm => exact of_next (l := [.rst]) h Within.refl.wdtArm.mono
  | wdtKickSch => exact of_next (l := [.rst]) h Within.refl.setRst.mono
  | wdtKickSec => exact of_next (l := [.rst]) h Within.refl.setRst.mono
  | trimLoadAttempt => exact of_next (l := [.power, .rst]) h Within.refl.trimLoad.mono
  | blockRelease => exact of_next (l := [.events, .host, .time, .radio, .clusters, .mem, .wcache, .sec, .power, .rst]) h Within.refl.blockRelease.mono
  | clockStuckTimeout =>
    exact of_next (l := [.events, .host, .time, .radio, .clusters, .mem, .wcache, .sec, .power, .rst]) h Within.refl.clockStuck.mono
  | cluReload => exact of_next (l := [.clusters]) h Within.refl.reloadAsk.mono
  | ldpQueueRead => exact of_next (l := [.out, .radio]) h Within.refl.ldpRead.emit.mono
  | registerWrite => exact of_next (l := allBut [.port]) h Within.refl.registerWrite.mono
  | resetNRelease => exact of_next (l := [.rst]) h Within.refl.resetPinRise.mono
  | stbyNFall => exact of_next (l := allBut [.clock, .rst, .port, .free]) h Within.refl.standby.mono
  | portLinkUp => exact of_next (l := [.net]) h Within.refl.linkUp.mono
  | sweepAckComplete => exact of_next (l := [.sweep]) h Within.refl.ackComplete.mono
  | slewComplete => exact of_next (l := [.time]) h Within.refl.slewEnd.mono
  | selftestSliceEnd => exact of_next (l := [.out, .tiles, .sched, .array, .assured]) h Within.refl.sliceEnd.mono
  | modelLoadComplete => exact of_next (l := [.out, .events, .host, .mem, .wcache, .sec]) h Within.refl.modelLoaded.mono
  | qcpUnknownType => exact of_next (l := [.out, .events, .host, .mem, .wcache, .capture]) h Within.refl.unknownType.mono
  | ptpMessageTransmit => exact of_next (l := [.out, .capture]) h Within.refl.ptpTransmit.mono

theorem idle_within : Within [.clock, .time] s (idle s) := by
  unfold idle
  exact (Within.ite (Within.refl.patch [.clock]).setTime (Within.refl.patch [.clock])).mono

/-- Settles O58: every command stays `Within` the parts it may change, which keeps the canonical form; an idle step leaves external memory alone. -/
theorem stepSound : Obligations.StepSound := by
  intro s t hs h
  unfold step at h
  split at h
  · exact (of_next h idle_within).memWf hs
  · exact (exec_within _ h).memWf hs

/-- Settles O59. -/
theorem queueFrame : Obligations.QueueFrame := fun c _ _ h => (exec_within c h).pending

/-- Settles O60. -/
theorem blockFrames : Obligations.BlockFrames := fun c _ _ p h hp => (exec_within c h).same p hp
end Sys2Proof.Machine
end

section
/-! PROOFS. The queue, an idle step, and the machine right after reset. -/
namespace Sys2Proof.Machine

theorem step_cons (c : Instr) (rest : List Instr) (s : State) : step { s with pending := c :: rest } = exec c { s with pending := rest } := rfl

theorem step_of_pending_nil {s : State} (h : s.pending = []) : step s = .next (idle s) := by
  rw [step, h]

/-- Does the radio PLL run and its phase pass a whole turn in this cycle? -/
def State.ticks (s : State) : Prop := radioCycles ≤ s.clock.radioAcc + radioTicks ∧ s.power.radioLock = true

theorem idle_clock (s : State) :
    (idle s).clock = { cycle := s.clock.cycle + 1, radioAcc := (s.clock.radioAcc + 12288) % 15625 } := by
  unfold idle
  dsimp only
  split <;> rfl

theorem idle_time_of_ticks {s : State} (h : s.ticks) : (idle s).time = timeTick s.time := by
  unfold idle
  dsimp only
  split
  · rfl
  · next hno => exact absurd h hno

theorem idle_time_of_not_ticks {s : State} (h : ¬ s.ticks) : (idle s).time = s.time := by
  unfold idle
  dsimp only
  split
  · next hyes => exact absurd hyes h
  · rfl

theorem idle_rest (s : State) : idle s = { s with clock := (idle s).clock, time := (idle s).time } := by
  unfold idle
  dsimp only
  split <;> rfl

theorem timeTick_of_slew_zero {t : TimeUnit} (h : t.slew = 0) : timeTick t = { t with now := t.now + t.incr } := if_pos h

/-- Settles O1: `step` looks at the queue alone. -/
theorem stepRunsCommand : Obligations.StepRunsCommand := step_cons

/-- Settles O2: an idle step is `idle`, whose clock, time and rest are said one by one. -/
theorem idleStep : Obligations.IdleStep := by
  intro s hempty
  refine ⟨idle s, step_of_pending_nil hempty, ?_, ?_, fun hstill => ?_, fun hlock hturn hslew => ?_, idle_rest s⟩
  · rw [idle_clock]
  · rw [idle_clock]
  · refine idle_time_of_not_ticks fun hticks => ?_
    obtain ⟨hturn, hlock⟩ := hticks
    obtain hoff | hshort := hstill
    · exact absurd hlock (by rw [hoff]; exact Bool.false_ne_true)
    · unfold radioCycles radioTicks at hturn; omega
  · rw [idle_time_of_ticks ⟨hturn, hlock⟩, timeTick_of_slew_zero hslew]

/-- Settles O57: the tables of the reset machine are empty, so every unit reads as its initial value. -/
theorem resetValues : Obligations.ResetValues := by
  refine ⟨rfl, rfl, rfl, rfl, rfl, rfl, rfl, rfl, rfl, rfl, rfl, rfl, rfl, rfl, fun d => ?_, fun i => ?_, fun n => ?_, fun t => ?_, ?_⟩
  · rfl
  · rfl
  · exact ⟨rfl, rfl⟩
  · exact ⟨rfl, rfl⟩
  · exact (memWf_iff _).2 ⟨Table.wf_empty 0, Table.wf_empty 0⟩

end Sys2Proof.Machine
end

section
/-! PROOFS. External memory: what a read finds after a write and after zeros (13 R306, R307, 18 R385). -/
namespace Sys2Proof.Table

variable {α : Type} {t : Table α} {d : α} {lo hi k : Nat}

theorem look_filter_of_true {p : Nat × α → Bool} (h : ∀ v, p (k, v) = true) (l : List (Nat × α)) : look k (l.filter p) = look k l := by
  induction l with
  | nil => rfl
  | cons e r ih =>
    obtain ⟨j, v⟩ := e
    by_cases hj : k = j
    · subst hj; simp [List.filter, h, look]
    · cases hp : p (j, v) <;> simp [List.filter, hp, look, hj, ih]

theorem look_filter_of_false {p : Nat × α → Bool} (h : ∀ v, p (k, v) = false) (l : List (Nat × α)) : look k (l.filter p) = none := by
  induction l with
  | nil => rfl
  | cons e r ih =>
    obtain ⟨j, v⟩ := e
    by_cases hj : k = j
    · subst hj; simp [List.filter, h, ih]
    · cases hp : p (j, v) <;> simp [List.filter, hp, look, hj, ih]

/-- A cleared key reads as the default. -/
theorem get_clearRange_of_mem (h : lo ≤ k ∧ k < hi) : (t.clearRange lo hi).get d k = d := by
  rw [get, find, clearRange, look_filter_of_false fun v => by simp; omega]
  rfl

/-- A key outside the range reads as before. -/
theorem get_clearRange_of_not_mem (h : k < lo ∨ hi ≤ k) : (t.clearRange lo hi).get d k = t.get d k := by
  rw [get, find, clearRange, look_filter_of_true fun v => by simpa using h]
  rfl

end Sys2Proof.Table

namespace Sys2Proof.Machine

/-! ## Bytes laid over a memory -/

/-- A memory's bytes with `bs` laid over them from `a` on. -/
def overlay (a : Nat) (bs : List Byte) (f : Nat → Byte) (x : Nat) : Byte := if a ≤ x then (bs[x - a]?).getD (f x) else f x

variable {a x : Nat} {bs : List Byte} {f g : Nat → Byte}

theorem overlay_getElem {i : Nat} {b : Byte} (h : bs[i]? = some b) : overlay a bs f (a + i) = b := by
  rw [overlay, if_pos (Nat.le_add_right a i), Nat.add_sub_cancel_left, h]
  rfl

theorem overlay_of_outside (h : x < a ∨ a + bs.length ≤ x) : overlay a bs f x = f x := by
  unfold overlay
  split
  · rw [List.getElem?_eq_none (by omega)]
    rfl
  · rfl

/-- Inside `bs` what lies below does not matter. -/
theorem overlay_congr (h : a ≤ x → x < a + bs.length ∨ f x = g x) (h' : x < a → f x = g x) : overlay a bs f x = overlay a bs g x := by
  unfold overlay
  split
  · next hle =>
    obtain hlt | heq := h hle
    · rw [List.getElem?_eq_getElem (by omega)]
      rfl
    · rw [heq]
  · exact h' (by omega)

@[simp] theorem overlay_nil : overlay a [] f x = f x := overlay_of_outside (by simp; omega)

theorem overlay_take_drop (k : Nat) : overlay (a + k) (bs.drop k) (overlay a (bs.take k) f) x = overlay a bs f x := by
  by_cases hx : a + k ≤ x
  · have hidx : k + (x - (a + k)) = x - a := by omega
    rw [overlay, if_pos hx, List.getElem?_drop, hidx, overlay_of_outside (bs := bs.take k) (by simp; omega), overlay, if_pos (by omega)]
  · rw [overlay, if_neg hx]
    unfold overlay
    split
    · rw [List.getElem?_take_of_lt (by omega)]
    · rfl

/-- A table after a row of writes. -/
theorem get_writes (bs : List Byte) (t : Table Byte) (a x : Nat) :
    ((bs.zipIdx).foldl (fun t e => t.set 0 (a + e.2) e.1) t).get 0 x = overlay a bs (t.get 0) x := by
  induction bs generalizing t a with
  | nil => rw [overlay_nil]; rfl
  | cons b r ih =>
    have hshift : ((b :: r).zipIdx).foldl (fun t e => t.set 0 (a + e.2) e.1) t =
        (r.zipIdx).foldl (fun t e => t.set 0 (a + 1 + e.2) e.1) (t.set 0 a b) := by
      rw [List.zipIdx_cons, List.zipIdx_succ, List.foldl_cons, List.foldl_map]
      simp only [Nat.add_zero, Nat.add_comm, Nat.add_left_comm]
    rw [hshift, ih, ← overlay_take_drop (a := a) (bs := b :: r) 1]
    refine overlay_congr (fun hle => .inr ?_) fun hlt => ?_
    · rw [Table.get_set_ne (by omega), overlay_of_outside (by simp; omega)]
    · by_cases hx : x = a
      · subst hx
        simp [overlay]
      · rw [Table.get_set_ne hx, overlay_of_outside (by simp; omega)]

/-! ## Keys -/

/-- Regions are whole MiB, so a 64-byte unit has one key. -/
theorem regionHas_of_unit (r : Region) {a b : Nat} (h : a / 64 = b / 64) : regionHas r a = regionHas r b := by
  unfold regionHas regionHi
  rw [Bool.eq_iff_iff]
  simp only [Bool.and_eq_true, decide_eq_true_eq]
  omega

theorem State.keyAt_of_unit (s : State) {a b : Nat} (h : a / 64 = b / 64) : s.keyAt a = s.keyAt b := by
  simp only [keyAt, domainAt, regionOf, regionHas_of_unit _ h]

theorem State.keyAt_ne_zero (s : State) (a : Nat) : s.keyAt a ≠ 0 := by unfold keyAt; omega

/-- A unit under its own present key reads as stored. -/
theorem State.extByte_of_key {s : State} (h : s.mem.unitKey.get 0 (x / 64) = s.keyAt x) : s.extByte x = s.mem.bytes.get 0 x := by
  simp [extByte, h]

/-- A byte reads the same where its unit, its key and its domain's key are the same. -/
theorem State.extByte_congr {s t : State} (hbytes : ∀ y, y / 64 = x / 64 → t.mem.bytes.get 0 y = s.mem.bytes.get 0 y)
    (hunit : t.mem.unitKey.get 0 (x / 64) = s.mem.unitKey.get 0 (x / 64)) (hkey : t.keyAt x = s.keyAt x) : t.extByte x = s.extByte x := by
  have hstored : t.unitBytes (x / 64) = s.unitBytes (x / 64) := by
    refine List.map_congr_left fun i hi => hbytes _ ?_
    have hi : i < 64 := List.mem_range.1 hi
    omega
  simp only [extByte, hunit, hkey, hstored, hbytes x rfl]

/-! ## One unit -/

theorem State.getElem?_extRead {s : State} {n i : Nat} (h : i < n) : (s.extRead a n)[i]? = some (s.extByte (a + i)) := by
  simp [extRead, upTo, h]

/-- A write inside one unit that meets no unreadable rest reads back, and the unit's other bytes read as before. -/
theorem State.writeUnit_extByte {s : State} (hfit : a % 64 + bs.length ≤ 64) (hne : bs ≠ [])
    (hgood : s.mem.bad.contains (a / 64) = false ∨ bs.length = 64) : (s.writeUnit a bs).extByte x = overlay a bs s.extByte x := by
  have hlen : 0 < bs.length := List.length_pos_iff.2 hne
  have hpass : (s.mem.bad.contains (a / 64) && !decide (bs.length = 64)) ≠ true := by
    obtain h | h := hgood
    · rw [h]; exact Bool.false_ne_true
    · simp [h]
  unfold writeUnit
  dsimp only
  rw [if_neg hpass]
  by_cases hx : x / 64 = a / 64
  · rw [extByte_of_key (by rw [hx]; exact Table.get_set.trans (s.keyAt_of_unit hx.symm))]
    refine (get_writes _ _ _ _).trans (overlay_congr (fun _ => ?_) fun _ => ?_)
    all_goals rw [get_writes]
    · by_cases hwhole : bs.length = 64
      · exact .inl (by omega)
      · have hidx : a / 64 * 64 + (x - a / 64 * 64) = x := by omega
        rw [if_neg hwhole, overlay, if_pos (by omega), getElem?_extRead (by omega), hidx]
        exact .inr rfl
    · have hidx : a / 64 * 64 + (x - a / 64 * 64) = x := by omega
      rw [if_neg (by omega), overlay, if_pos (by omega), getElem?_extRead (by omega), hidx]
      rfl
  · rw [overlay_of_outside (by omega)]
    refine extByte_congr (fun y hy => ?_) (Table.get_set_ne hx) rfl
    refine (get_writes _ _ _ _).trans ((overlay_of_outside (by omega)).trans ((get_writes _ _ _ _).trans (overlay_of_outside ?_)))
    have hold : (if bs.length = 64 then [] else s.extRead (a / 64 * 64) 64).length ≤ 64 := by
      split <;> simp [extRead, upTo]
    omega

/-! ## The whole write -/

theorem State.mergeBad_eq_false_iff {s : State} {n : Nat} : s.mergeBad a n = false ↔
    ∀ u ∈ s.mem.bad, u * 64 < a + n → a < u * 64 + 64 → a ≤ u * 64 ∧ u * 64 + 64 ≤ a + n := by
  simp only [mergeBad, List.any_eq_false, Bool.and_eq_true, decide_eq_true_eq, Bool.not_eq_true', not_and, Bool.and_eq_false_iff,
    decide_eq_false_iff_not, not_or, Classical.not_not]
  exact forall₂_congr fun u _ => ⟨fun h h1 h2 => h ⟨h1, h2⟩, fun h h1 => h h1.1 h1.2⟩

theorem State.mem_bad_of_writeUnit {s : State} {u : Nat} (h : u ∈ (s.writeUnit a bs).mem.bad) : u ∈ s.mem.bad := by
  unfold writeUnit at h
  dsimp only at h
  split at h
  · exact h
  · exact (List.mem_filter.1 h).1

/-- The writes unit by unit are one write. -/
theorem State.writeUnits_extByte (fuel : Nat) (s : State) (a : Nat) (bs : List Byte) (hfuel : bs.length + a % 64 ≤ 64 * fuel)
    (hgood : s.mergeBad a bs.length = false) : (State.writeUnits fuel s a bs).extByte x = overlay a bs s.extByte x := by
  induction fuel generalizing s a bs with
  | zero =>
    have hnil : bs = [] := List.eq_nil_of_length_eq_zero (by omega)
    rw [hnil, overlay_nil]
    rfl
  | succ fuel ih =>
    cases bs with
    | nil => rw [overlay_nil]; rfl
    | cons b r =>
      rw [mergeBad_eq_false_iff] at hgood
      rw [writeUnits, ih, ← overlay_take_drop (a := a) (bs := b :: r) (64 - a % 64)]
      · refine overlay_congr (fun _ => .inr ?_) fun _ => ?_
        all_goals
          refine writeUnit_extByte (by simp; omega) (by simp; omega) ?_
          by_cases hbad : s.mem.bad.contains (a / 64) = true
          · obtain ⟨hlo, hhi⟩ := hgood _ (by simpa using hbad) (by simp; omega) (by omega)
            refine .inr ?_
            rw [List.length_take]
            omega
          · exact .inl (by simpa using hbad)
      · simp only [List.length_drop]
        omega
      · rw [mergeBad_eq_false_iff]
        intro u hu hlo hhi
        simp only [List.length_drop] at hlo ⊢
        obtain ⟨h1, h2⟩ := hgood u (mem_bad_of_writeUnit hu) (by omega) (by omega)
        omega

theorem State.extWrite_extByte {s : State} (hgood : s.mergeBad a bs.length = false) : (s.extWrite a bs).extByte x = overlay a bs s.extByte x := by
  unfold extWrite
  cases bs with
  | nil => rw [overlay_nil]; rfl
  | cons b r =>
    dsimp only [List.isEmpty_cons]
    rw [if_neg Bool.false_ne_true, hgood, if_neg Bool.false_ne_true]
    exact writeUnits_extByte _ s a (b :: r) (by omega) hgood

/-! ## Zeros -/

section
variable {s : State} {n : Nat} (ha : a % 64 = 0) (hn : n % 64 = 0)
include ha hn

theorem State.extZero_extByte_of_mem (h : a ≤ x ∧ x < a + n) : (s.extZero a n).extByte x = 0 := by
  have hkey : (s.extZero a n).mem.unitKey.get 0 (x / 64) = 0 := Table.get_clearRange_of_mem (by omega)
  have hbyte : (s.extZero a n).mem.bytes.get 0 x = 0 := Table.get_clearRange_of_mem h
  simpa [extByte, hkey] using hbyte

theorem State.extZero_extByte_of_outside (h : x < a ∨ a + n ≤ x) : (s.extZero a n).extByte x = s.extByte x :=
  extByte_congr (fun y _ => Table.get_clearRange_of_not_mem (by omega)) (Table.get_clearRange_of_not_mem (by omega)) rfl

end

/-- Settles O56: a write is `overlay` on the bytes a read finds, unit by unit; zeros clear whole units and leave the others. -/
theorem memoryWrites : Obligations.MemoryWrites := by
  refine ⟨fun s a bs hgood => ?_, fun s a n ha hn => ?_⟩
  · refine ⟨fun i b hb => ?_, fun x hx => ?_, fun hwf => extWrite_memWf hwf a bs⟩
    · rw [State.extWrite_extByte hgood, overlay_getElem hb]
    · rw [State.extWrite_extByte hgood, overlay_of_outside hx]
  · exact ⟨fun x hlo hhi => State.extZero_extByte_of_mem ha hn ⟨hlo, hhi⟩, fun x hx => State.extZero_extByte_of_outside ha hn hx,
      fun hwf => extZero_memWf hwf a n⟩

end Sys2Proof.Machine
end

section
/-! PROOFS. The forms of a tile's operations: what a command that is one call of `runOp` does where it issues (11 R244–R246). -/
namespace Sys2Proof.Machine

variable {c : Instr} {i : Issue} {slot : Slot} {op : State → Nat → OpRes} {s s1 : State}

section
variable (hc : ∀ s, exec c s = .next (runOp s i slot op))
include hc

theorem exec_of_ok (hi : issues s i slot = true) (ho : op (begun s i slot) i.tile.val = .ok s1) : exec c s = .next (ended s1 i) := by
  rw [hc, runOp_ok hi ho]

/-- A fault at issue other than the one after which `settle` counts. -/
theorem exec_of_fault {code : Half} (hi : issues s i slot = true) (ho : op (begun s i slot) i.tile.val = .fault code) (hcode : code ≠ Code.til 0x60) :
    exec c s = .next ((begun s i slot).taskFault i.tile.val code (slotCode slot) true) := by
  rw [hc, runOp_fault hi ho hcode]

theorem runs_of_op : Runs c i slot op := fun _ _ hi ho => exec_of_ok hc hi ho

theorem writes_of_op {f : State → State} (hop : ∀ u, op u i.tile.val = .ok (f u)) : Writes c i slot f := fun _ hi => exec_of_ok hc hi (hop _)

theorem completes_of_op {can : State → Prop} {f : State → State} (hop : ∀ u, can u → op u i.tile.val = .ok (f u)) : Completes c i slot can f :=
  fun _ hi hcan => exec_of_ok hc hi (hop _ hcan)

theorem achieves_of_op {can : State → Prop} {P : State → State → Prop} (hop : ∀ u, can u → ∃ t, P u t ∧ op u i.tile.val = .ok t) :
    Achieves c i slot can P := by
  intro s hi hcan
  obtain ⟨t, hp, ho⟩ := hop _ hcan
  exact ⟨t, hp, exec_of_ok hc hi ho⟩

end

/-! ## The state an operation takes its effect in -/

theorem begun_of_not_joins (h : joins s i = false) : begun s i slot = (lead s i).setTile i.tile.val (beginBundle ((lead s i).tile i.tile.val) slot) := by
  simp [begun, h]

theorem begun_of_joins (h : joins s i = true) :
    begun s i slot = s.setTile i.tile.val { s.tile i.tile.val with slots := (s.tile i.tile.val).slots ++ [slot] } := by
  simp [begun, lead, h]

/-- Beside its tile the state is the one that the operation meets. -/
theorem begun_tile_ne {k : Nat} (h : k ≠ i.tile.val) : (begun s i slot).tile k = (lead s i).tile k := by
  unfold begun
  dsimp only
  split <;> exact State.setTile_tile_ne _ _ _ h

theorem begun_rest : begun s i slot = { lead s i with tiles := (begun s i slot).tiles } := by
  unfold begun
  dsimp only
  split <;> rfl

/-- Bundles begin with the tile's registers and memory as they are; only the bundle's own bookkeeping changes. -/
theorem begun_body : ∃ cur pc, ((begun s i slot).tile i.tile.val).body = { ((lead s i).tile i.tile.val).body with cur := cur, pc := pc } := by
  unfold begun
  dsimp only
  split
  all_goals
    rw [State.setTile_tile]
    exact ⟨_, _, rfl⟩

end Sys2Proof.Machine
end

section
/-! PROOFS. Scalar operations of a tile's program: what each writes, and what it leaves alone (11 Table 6). -/
namespace Sys2Proof.Machine

/-! ## The commands -/

theorem exec_alu (i : Issue) (d a b : SReg) (f : AluFn) (s : State) :
    exec (.alu i d a b f) s = .next (runOp s i .c (scalarOp d fun r => aluOp f (sReg r a.val) (sReg r b.val))) := rfl

theorem exec_alui (i : Issue) (d a : SReg) (f : AluFn) (imm : BitVec 12) (s : State) :
    exec (.alui i d a f imm) s = .next (runOp s i .c (scalarOp d fun r => aluOp f (sReg r a.val) (imm.signExtend 64))) := rfl

theorem exec_li (i : Issue) (d : SReg) (imm : BitVec 21) (s : State) :
    exec (.li i d imm) s = .next (runOp s i .c (scalarOp d fun _ => imm.signExtend 64)) := rfl

theorem exec_lih (i : Issue) (d : SReg) (k : Fin 4) (imm : Half) (s : State) :
    exec (.lih i d k imm) s = .next (runOp s i .c (scalarOp d fun r => lihOp (sReg r d.val) k.val imm)) := rfl

theorem exec_amov (i : Issue) (toScalar : Bool) (a : AReg) (sr : SReg) (s : State) :
    exec (.amov i toScalar a sr) s = .next (runOp s i .c (amovOp toScalar a sr)) := rfl

theorem exec_aaddi (i : Issue) (d a : AReg) (imm : Half) (s : State) :
    exec (.aaddi i d a imm) s = .next (runOp s i .c (aaddiOp d a imm)) := rfl

theorem exec_extr (i : Issue) (d a : SReg) (pos w : Fin 64) (s : State) :
    exec (.extr i d a pos w) s = .next (runOp s i .c (extrOp d a pos.val w.val)) := rfl

theorem exec_stepinc (i : Issue) (s : State) :
    exec (.stepinc i) s = .next (runOp s i .c fun s t => .ok (s.modBody t fun b => { b with step := b.step + 1 })) := rfl

theorem exec_rdtask (i : Issue) (d : SReg) (f : TaskAttr) (s : State) :
    exec (.rdtask i d f) s = .next (runOp s i .c (rdtaskOp d f)) := rfl

/-- A field that lies in the register is extracted. -/
theorem extrOp_of_fits {d a : SReg} {pos w : Nat} (h : pos + w < 64) (s : State) (t : Nat) :
    extrOp d a pos w s t = scalarOp d (fun r => BitVec.ofNat 64 ((sReg r a.val).toNat / 2 ^ pos % 2 ^ (w + 1))) s t :=
  if_neg (by omega)

/-! ## The values -/

theorem aluOp_shl (a b : Dword) : aluOp .shl a b = BitVec.ofNat 64 (a.toNat * 2 ^ (b.toNat % 64)) := by
  refine BitVec.eq_of_toNat_eq ?_
  simp [aluOp, Nat.shiftLeft_eq]

theorem toInt_aluOp_min (a b : Dword) : (aluOp .min a b).toInt = min a.toInt b.toInt := by
  simp only [aluOp, BitVec.slt, decide_eq_true_eq]
  split <;> omega

theorem toInt_aluOp_max (a b : Dword) : (aluOp .max a b).toInt = max a.toInt b.toInt := by
  simp only [aluOp, BitVec.slt, decide_eq_true_eq]
  split <;> omega

theorem aluOp_slt_of_lt {a b : Dword} (h : a.toInt < b.toInt) : aluOp .slt a b = 1 := by simp [aluOp, BitVec.slt, h]
theorem aluOp_slt_of_le {a b : Dword} (h : b.toInt ≤ a.toInt) : aluOp .slt a b = 0 := by
  simp [aluOp, BitVec.slt, Int.not_lt.2 h]
theorem aluOp_seq_self (a : Dword) : aluOp .seq a a = 1 := if_pos rfl
theorem aluOp_seq_of_ne {a b : Dword} (h : a ≠ b) : aluOp .seq a b = 0 := if_neg h

theorem aluOp_slt_iff (a b : Dword) : (aluOp .slt a b = 1 ↔ a.toInt < b.toInt) ∧ (aluOp .slt a b = 0 ↔ b.toInt ≤ a.toInt) := by
  obtain h | h := Int.lt_or_le a.toInt b.toInt
  · simp [aluOp_slt_of_lt h, h]
  · simp [aluOp_slt_of_le h, h]

theorem aluOp_seq_iff (a b : Dword) : (aluOp .seq a b = 1 ↔ a = b) ∧ (aluOp .seq a b = 0 ↔ a ≠ b) := by
  by_cases h : a = b
  · subst h
    simp [aluOp_seq_self]
  · simp [aluOp_seq_of_ne h, h]

/-- Settles O3: each command is one call of `runOp` with an operation that always completes (`writes_of_op`); the values of the ALU's functions are the
integer laws above. -/
theorem scalarOps : Obligations.ScalarOps := by
  refine ⟨⟨?_, ?_, ?_, ?_, ?_, ?_, ?_, ?_, ?_, ?_⟩, fun a b => ?_⟩
  · exact fun i d a b f => writes_of_op (exec_alu i d a b f) fun u => rfl
  · exact fun i d a f imm => writes_of_op (exec_alui i d a f imm) fun u => rfl
  · exact fun i d imm => writes_of_op (exec_li i d imm) fun u => rfl
  · exact fun i d k imm => writes_of_op (exec_lih i d k imm) fun u => rfl
  · exact fun i a sr => writes_of_op (exec_amov i true a sr) fun u => rfl
  · exact fun i a sr => writes_of_op (exec_amov i false a sr) fun u => rfl
  · exact fun i d a imm => writes_of_op (exec_aaddi i d a imm) fun u => rfl
  · exact fun i d a pos w h => writes_of_op (exec_extr i d a pos w) fun u => extrOp_of_fits h u i.tile.val
  · exact fun i => writes_of_op (exec_stepinc i) fun u => rfl
  · exact fun i d f => writes_of_op (exec_rdtask i d f) fun u => rfl
  · obtain ⟨hslt, hsge⟩ := aluOp_slt_iff a b
    obtain ⟨hseq, hsne⟩ := aluOp_seq_iff a b
    exact ⟨rfl, rfl, rfl, rfl, rfl, rfl, aluOp_shl a b, toInt_aluOp_min a b, toInt_aluOp_max a b, hslt, hsge, hseq, hsne⟩

/-! ## What a scalar operation leaves alone -/

section
variable {s : State} {i : Issue} {slot : Slot} {f : TRegs → TRegs}

/-- The state after an operation on registers alone. -/
theorem ended_modRegs_tile_ne {k : Nat} (h : k ≠ i.tile.val) : (ended ((begun s i slot).modRegs i.tile.val f) i).tile k = (lead s i).tile k := by
  rw [ended, State.modTile_tile_ne _ _ _ h]
  exact (State.modTile_tile_ne _ _ _ h).trans (begun_tile_ne h)

theorem ended_modRegs_body : ∃ cur pc, ((ended ((begun s i slot).modRegs i.tile.val f) i).tile i.tile.val).body =
    { ((lead s i).tile i.tile.val).body with cur := cur, pc := pc, regs := f ((lead s i).tile i.tile.val).body.regs } := by
  obtain ⟨cur, pc, hbody⟩ := begun_body (s := s) (i := i) (slot := slot)
  refine ⟨cur, pc, ?_⟩
  rw [ended, State.modTile_tile, State.modRegs, State.modBody, State.modTile_tile, hbody]

theorem ended_modRegs_rest : ended ((begun s i slot).modRegs i.tile.val f) i =
    { lead s i with tiles := (ended ((begun s i slot).modRegs i.tile.val f) i).tiles } := by
  conv => lhs; rw [begun_rest]
  rfl

end

theorem sReg_setS_ne {r : TRegs} {d k : Nat} {x : Dword} (h : k ≠ d) : sReg (setS r d x) k = sReg r k := Table.get_set_ne h

/-- Settles O4: the next state differs from the one before in the bundle's bookkeeping and one scalar register (`ended_modRegs_body`). -/
theorem scalarFrame : Obligations.ScalarFrame := by
  intro s i d a b f hi hlead
  refine ⟨_, exec_of_ok (exec_alu i d a b f) hi rfl, ?_⟩
  obtain ⟨cur, pc, hbody⟩ := ended_modRegs_body (s := s) (i := i) (slot := .c)
    (f := fun r => setS r d.val (aluOp f (sReg ((begun s i .c).regsAt i.tile.val) a.val) (sReg ((begun s i .c).regsAt i.tile.val) b.val)))
  rw [hlead] at hbody
  refine ⟨fun k hk => ?_, fun k => ?_, ?_, ?_, ?_, ?_, fun k hk => ?_, ?_⟩
  · rw [hbody]; exact sReg_setS_ne hk
  · rw [hbody]; rfl
  · rw [hbody]; rfl
  · rw [hbody]; rfl
  · rw [hbody]
  · rw [hbody]
  · rw [ended_modRegs_tile_ne hk, hlead]
  · conv => lhs; rw [ended_modRegs_rest, hlead]

end Sys2Proof.Machine
end

section
/-! PROOFS. Branches, waits, POOLQ and ENDT (11 R253, 09 R214, 95 ENDT). -/
namespace Sys2Proof.Machine

theorem exec_br (i : Issue) (c : Cond) (a : SReg) (off : BitVec 12) (s : State) :
    exec (.br i c a off) s = .next (runOp s i .c (brOp c a off)) := rfl

theorem exec_bdec (i : Issue) (a : SReg) (off : BitVec 12) (s : State) : exec (.bdec i a off) s = .next (runOp s i .c (bdecOp a off)) := rfl

theorem exec_jal (i : Issue) (d : SReg) (off : BitVec 12) (s : State) : exec (.jal i d off) s = .next (runOp s i .c (jalOp d off)) := rfl

theorem exec_jr (i : Issue) (a : SReg) (s : State) : exec (.jr i a) s = .next (runOp s i .c (jrOp a)) := rfl

theorem exec_fence (i : Issue) (mout : Bool) (mask : Byte) (s : State) :
    exec (.fence i mout mask) s = .next (runOp s i .c (fenceOp mout mask)) := rfl

theorem exec_qwait (i : Issue) (q : QReg) (s : State) : exec (.qwait i q) s = .next (runOp s i .s (qwaitOp q.val)) := rfl

theorem exec_poolq (i : Issue) (a : AReg) (s : State) : exec (.poolq i a) s = .next (runOp s i .c (poolqOp a)) := rfl

theorem exec_endt (i : Issue) (s : State) : exec (.endt i) s = .next (endtLogged i s) := rfl

/-! ## Branches -/

section
variable {s : State} {t : Nat} {dest : Int}

theorem branchTo_of_bundle (hlo : 0 ≤ dest) (hhi : dest < (s.tile t).nBundles) :
    branchTo s t dest = .ok (s.modBody t fun b => { b with pc := dest.toNat }) := if_pos ⟨hlo, hhi⟩

theorem branchTo_of_no_bundle (h : dest < 0 ∨ (s.tile t).nBundles ≤ dest) : branchTo s t dest = .fault (Code.til 0x02) :=
  if_neg (by omega)

theorem brOp_of_not {c : Cond} {a : SReg} {off : BitVec 12} (h : condOp c (sReg (s.regsAt t) a.val) = false) : brOp c a off s t = .ok s := by
  rw [brOp, h, if_neg Bool.false_ne_true]

theorem brOp_of_cond {c : Cond} {a : SReg} {off : BitVec 12} (h : condOp c (sReg (s.regsAt t) a.val) = true) :
    brOp c a off s t = branchTo s t (((s.body t).cur : Int) + off.toInt) := if_pos h

theorem bdecOp_of_zero {a : SReg} {off : BitVec 12} (h : sReg (s.regsAt t) a.val = 0) : bdecOp a off s t = .ok s := if_pos h

theorem bdecOp_of_one {a : SReg} {off : BitVec 12} (h : sReg (s.regsAt t) a.val = 1) :
    bdecOp a off s t = .ok (s.modRegs t fun r => setS r a.val 0) := by
  unfold bdecOp
  rw [h]
  rfl

theorem bdecOp_of_more {a : SReg} {off : BitVec 12} (h0 : sReg (s.regsAt t) a.val ≠ 0) (h1 : sReg (s.regsAt t) a.val ≠ 1) :
    bdecOp a off s t = branchBy (s.modRegs t fun r => setS r a.val (sReg (s.regsAt t) a.val - 1)) t off := by
  have hleft : sReg (s.regsAt t) a.val - 1 ≠ 0 := fun h => h1 (by simpa using BitVec.sub_eq_iff_eq_add.1 h)
  exact (if_neg h0).trans (if_pos hleft)

theorem jrOp_of_beyond {a : SReg} (h : (s.tile t).nBundles ≤ (sReg (s.regsAt t) a.val).toNat) : jrOp a s t = .fault (Code.til 0x02) := if_pos h

theorem jrOp_of_bundle {a : SReg} (h : (sReg (s.regsAt t) a.val).toNat < (s.tile t).nBundles) (hlow : (sReg (s.regsAt t) a.val).toNat < 2048) :
    jrOp a s t = .ok (s.modBody t fun b => { b with pc := (sReg (s.regsAt t) a.val).toNat }) := by
  unfold jrOp
  dsimp only
  rw [if_neg (by omega), Nat.mod_eq_of_lt hlow, branchTo_of_bundle (Int.natCast_nonneg _) (by omega), Int.toNat_natCast]

end

theorem Code.til_pc_ne_ecc : Code.til 0x02 ≠ Code.til 0x60 := by decide

/-! ## Waits and POOLQ -/

theorem fenceOp_of_landed {mout : Bool} {mask : Byte} {s : State} {t : Nat} (h : writesPending (s.tile t).before mask.toNat mout = false) :
    fenceOp mout mask s t = .ok s := by
  rw [fenceOp, h, if_neg Bool.false_ne_true]

theorem qwaitOp_of_done {q : Nat} {s : State} {t : Nat} (hvalid : (streamOf (s.tile t).body q).valid = true)
    (hdone : streamDone q (streamOf (s.tile t).body q) = true) : qwaitOp q s t = .ok s := by
  unfold qwaitOp
  dsimp only
  rw [if_neg (by simp [hvalid]), if_pos hdone]

/-- A descriptor that passes its checks joins the cluster's queue (09 R214). -/
theorem poolqOp_of_good {a : AReg} {s : State} {t : Nat} {d : PoolDesc} {ref : TaskRef} (halign : offAt s t a % 32 = 0)
    (hpeek : canPeek s t (offAt s t a) 64 = true) (hparse : parsePool (peeked s t (offAt s t a) 64) = some d) (href : (s.tile t).ref = some ref)
    (hok : s.poolOk (s.tile t) (t / 8) d = true) (hsem : ∀ n ∈ [d.waitSem, d.signalSem], n ≠ 0xFFFF → s.semFault (s.tile t) n = none)
    (hroom : (s.cluster (t / 8)).poolQueue.length < 8) :
    poolqOp a s t = .ok (s.setCluster (t / 8) { s.cluster (t / 8) with
      poolQueue := (s.cluster (t / 8)).poolQueue ++ [{ ref, cls := (s.tile t).cls, bytes := peeked s t (offAt s t a) 64, stopped := false }] }) := by
  have hsems : ([d.waitSem, d.signalSem].filter (· ≠ 0xFFFF)).findSome? (s.semFault (s.tile t)) = none := by
    rw [List.findSome?_eq_none_iff]
    intro n hn
    obtain ⟨hmem, hused⟩ := List.mem_filter.1 hn
    exact hsem n hmem (by simpa using hused)
  unfold poolqOp
  dsimp only
  rw [if_neg (show ¬ windowOff t (aReg (s.tile t).before.regs a.val).toNat % 32 ≠ 0 from Classical.not_not.2 halign)]
  rw [show windowOff t (aReg (s.tile t).before.regs a.val).toNat = offAt s t a from rfl, peek_canPeek hpeek, hparse, href]
  dsimp only
  rw [hok, if_neg (by simp), hsems]
  dsimp only
  rw [if_neg (by omega)]

/-! ## ENDT -/

theorem State.foldl_tiles {α : Type} {f : State → α → State} (hf : ∀ s e, (f s e).tiles = s.tiles) (xs : List α) (s : State) :
    (xs.foldl f s).tiles = s.tiles := by
  induction xs generalizing s with
  | nil => rfl
  | cons x xs ih => exact (ih (f s x)).trans (hf s x)

theorem State.extWrite_tiles (s : State) (a : Nat) (bs : List Byte) : (s.extWrite a bs).tiles = s.tiles :=
  (Within.refl.extWrite (s := s)).same .tiles (by decide)

/-- Statistics that land leave the tile as it was but for what waited to land. -/
theorem State.flushStats_tile (s : State) (t : Nat) :
    ∃ l, (s.flushStats t).tile t = { s.tile t with body := { (s.tile t).body with stats := l } } := by
  unfold flushStats
  dsimp only
  split
  · exact ⟨_, rfl⟩
  · split
    · exact ⟨[], State.modTile_tile ..⟩
    · refine ⟨[], (State.modTile_tile ..).trans ?_⟩
      rw [State.tile, foldl_tiles fun s e => ?_]
      · rfl
      · split
        · exact extWrite_tiles ..
        · rfl

/-- An operation issues on a tile that runs, or drains. -/
theorem state_ne_idle_of_issues {s : State} {i : Issue} {slot : Slot} (h : issues s i slot = true) : (s.tile i.tile.val).state ≠ .idle := by
  intro hidle
  unfold issues lead at h
  cases hj : joins s i with
  | true => simp [hj, bundleOpen, hidle] at h
  | false =>
    obtain ⟨l, hl⟩ := s.flushStats_tile i.tile.val
    simp [hj, hl, hidle] at h

theorem endtOp_of_landed {s : State} {t : Nat} (h : writesPending (s.tile t).before 0xF0 true = false) :
    endtOp s t = .ok ((((match (s.tile t).ref with | some ref => s.leaveInbound ref | none => s).taskDone t).startSegment t).abortSegments) := by
  rw [endtOp, h, if_neg Bool.false_ne_true] <;> rfl

/-- Where the tile ends up IDLE the end of its task is logged. -/
theorem exec_endt_of_landed {s : State} {i : Issue} (hi : issues s i .c = true) {w : State} (hw : runOp s i .c endtOp = w) :
    exec (.endt i) s = .next (if (w.tile i.tile.val).state = .idle then w.logRecord else w) := by
  rw [exec_endt, endtLogged, hw]
  simp only [state_ne_idle_of_issues hi, ne_eq, not_false_eq_true, true_and]

/-- Settles O5: each command is one call of `runOp`, and the laws above say its operation case by case. -/
theorem controlFlow : Obligations.ControlFlow := by
  refine ⟨⟨fun s i c a off hi => ?_, fun s i a off hi => ?_, fun s i d off hi => ?_, fun s i a hi => ?_⟩,
    fun s i mout mask hi hland => ?_, fun s i q hi => ?_, fun i a => ?_, fun i a d ref => ?_, fun s i hi => ?_⟩
  · refine ⟨fun hc => ?_, fun hc hlo hhi => ?_, fun hc hout => ?_⟩
    · exact exec_of_ok (exec_br i c a off) hi (brOp_of_not hc)
    · exact exec_of_ok (exec_br i c a off) hi ((brOp_of_cond hc).trans (branchTo_of_bundle hlo hhi))
    · exact exec_of_fault (exec_br i c a off) hi ((brOp_of_cond hc).trans (branchTo_of_no_bundle hout)) Code.til_pc_ne_ecc
  · refine ⟨fun h => ?_, fun h => ?_, fun h0 h1 hlo hhi => ?_⟩
    · exact exec_of_ok (exec_bdec i a off) hi (bdecOp_of_zero h)
    · exact exec_of_ok (exec_bdec i a off) hi (bdecOp_of_one h)
    · exact exec_of_ok (exec_bdec i a off) hi ((bdecOp_of_more h0 h1).trans (branchTo_of_bundle hlo hhi))
  · exact fun hlo hhi => exec_of_ok (exec_jal i d off) hi (branchTo_of_bundle hlo hhi)
  · exact ⟨fun h hlow => exec_of_ok (exec_jr i a) hi (jrOp_of_bundle h hlow),
      fun h => exec_of_fault (exec_jr i a) hi (jrOp_of_beyond h) Code.til_pc_ne_ecc⟩
  · exact exec_of_ok (exec_fence i mout mask) hi (fenceOp_of_landed hland)
  · exact fun hvalid hdone => exec_of_ok (exec_qwait i q) hi (qwaitOp_of_done hvalid hdone)
  · exact runs_of_op (exec_poolq i a)
  · exact completes_of_op (exec_poolq i a) fun u ⟨h1, h2, h3, h4, h5, h6, h7⟩ => poolqOp_of_good h1 h2 h3 h4 h5 h6 h7
  · exact fun hland => exec_endt_of_landed hi (runOp_ok hi (endtOp_of_landed hland))

end Sys2Proof.Machine
end

section
/-! PROOFS. Scratchpad loads find the scratchpad as it stood before the bundle, not as an operation of the same bundle left it (11 R246). -/
namespace Sys2Proof.Machine

theorem exec_sld (i : Issue) (d : SReg) (a : AReg) (off : Half) (s : State) : exec (.sld i d a off) s = .next (runOp s i .s (sldOp d a off)) := rfl

/-- A tile in the middle of a bundle whose operation so far wrote byte 0 of the job's polder 0. -/
def midBundleTile : Tile :=
  { Tile.init with state := .running, slots := [.m], polders := Table.empty.set Polder.init 0 { Polder.init with state := .held }
                   body := { Tile.init.body with sp := Table.empty.set 0 0 1 } }

/-- A machine with that tile. -/
def midBundle : State := State.reset.setTile 0 midBundleTile

/-- The operation that joins the bundle. -/
def joining : Issue := { tile := 0, joint := true }

/-- The value of scalar register 0 of tile 0 in the state a command goes on with. -/
def scalarAfter (r : Host.Outcome State Fault Refusal) : Dword :=
  match r with
  | .next s => sReg (s.body 0).regs 0
  | _ => 0

theorem midBundle_issues : issues midBundle joining .s = true := by decide

/-- The byte that the bundle's first operation wrote is not what SLD reads. -/
theorem scalarAfter_sld_midBundle : scalarAfter (exec (.sld joining 0 0 0) midBundle) = 0 := by decide

theorem scalarAfter_claimed : scalarAfter (.next (ended ((begun midBundle joining .s).modRegs joining.tile.val fun r =>
    setS r (0 : SReg).val (BitVec.ofNat 64 (leNat (spBytes ((begun midBundle joining .s).tile joining.tile.val).body 0 8)))) joining)) = 1 := by decide

/-- Where the load reads: the first word of the polder. -/
theorem wordOff_midBundle : wordOff ((begun midBundle joining .s).tile joining.tile.val) joining.tile.val 0 0 = 0 := by decide +kernel

/-- Refutes O7: its SLD reads the scratchpad as the tile's body holds it at issue; the operation reads it as it stood before the bundle (11 R246).
The two differ on `midBundle`, where an operation of the same bundle has written the word. -/
theorem not_scratchpadAccess : ¬ Obligations.ScratchpadAccess := by
  rintro ⟨⟨-, -, -, -, hsld, -⟩, -⟩
  have hclaimed := hsld midBundle joining 0 0 0 midBundle_issues
  dsimp only at hclaimed
  rw [wordOff_midBundle] at hclaimed
  have hvalue := congrArg scalarAfter (hclaimed rfl (by decide +kernel) (by decide +kernel) (by decide +kernel))
  exact absurd ((scalarAfter_sld_midBundle.symm.trans hvalue).trans scalarAfter_claimed) (by decide)

end Sys2Proof.Machine
end

section
/-! PROOFS. Vector moves and predicates (11 Table 8). -/
namespace Sys2Proof.Machine

theorem exec_vbcast (i : Issue) (v : VReg) (sr : SReg) (s : State) :
    exec (.vbcast i v sr) s = .next (runOp s i .s fun s t => .ok (s.modRegs t fun r =>
      setV r v.val (List.replicate 128 ((sReg (s.regsAt t) sr.val).setWidth 32)))) := rfl

theorem exec_vmov (i : Issue) (v w : VReg) (s : State) :
    exec (.vmov i v w) s = .next (runOp s i .s fun s t => .ok (s.modRegs t fun r => setV r v.val (vLanes (s.regsAt t) w.val))) := rfl

theorem exec_pset (i : Issue) (p : PReg) (m : PredSet) (sr : SReg) (s : State) :
    exec (.pset i p m sr) s = .next (runOp s i .s fun s t => .ok (s.modRegs t fun r => setP r p.val (psetVal m (sReg (s.regsAt t) sr.val)))) := rfl

theorem exec_plogic (i : Issue) (p x y : PReg) (f : PredFn) (s : State) :
    exec (.plogic i p x y f) s = .next (runOp s i .s fun s t => .ok (s.modRegs t fun r =>
      setP r p.val (predOp f (pReg (s.regsAt t) x.val) (pReg (s.regsAt t) y.val)))) := rfl

theorem exec_popc (i : Issue) (d : SReg) (p : PReg) (s : State) :
    exec (.popc i d p) s = .next (runOp s i .s fun s t => .ok (s.modRegs t fun r =>
      setS r d.val (BitVec.ofNat 64 (predCount (pReg (s.regsAt t) p.val))))) := rfl

theorem exec_vld (i : Issue) (v : VReg) (q : QReg) (ty : LaneTy) (s : State) :
    exec (.vld i v q ty) s = .next (runOp s i .s (vldOp v q.val ty)) := rfl

theorem exec_vst (i : Issue) (v : VReg) (q : QReg) (ty : LaneTy) (s : State) :
    exec (.vst i v q ty) s = .next (runOp s i .s (vstOp v q.val ty)) := rfl

/-! ## Checks that a loaded stream passes -/

section
variable {s : State} {t n : Nat} {q : QReg} {ty : LaneTy}

theorem readCheck_of_canTake {q : Nat} (h : canTake s t q n = true) : readCheck (s.tile t) q = none := by
  simp only [canTake, Bool.and_eq_true, decide_eq_true_eq] at h
  obtain ⟨⟨hq, hvalid⟩, -⟩ := h
  unfold readCheck
  rw [if_neg (by omega), if_neg (by simpa [State.body] using hvalid)]

theorem writeCheck_of_canGive {q : Nat} (h : canGive s t q n = true) : writeCheck (s.tile t) q = none := by
  simp only [canGive, Bool.and_eq_true, decide_eq_true_eq] at h
  obtain ⟨⟨hq, hvalid⟩, -⟩ := h
  unfold writeCheck
  rw [if_neg (by omega), if_neg (by simpa [State.body] using hvalid)]

theorem canLanes_q_iff : canLanes s t (.q q) ty n = true ↔ canTake s t q.val n = true ∧ (laneReads ty).contains (streamFmt (s.tile t) q.val) = true := by
  rw [canLanes, Bool.and_eq_true]

theorem canPut_q_iff : canPut s t (.q q) ty n = true ↔ canGive s t q.val n = true ∧ (laneWrites ty).contains (streamFmt (s.tile t) q.val) = true := by
  rw [canPut, Bool.and_eq_true]

@[simp] theorem length_vLanes (r : TRegs) (v : Nat) : (vLanes r v).length = 128 := by simp [vLanes, upTo]

@[simp] theorem length_narrowed (f : Fmt) (ty : LaneTy) (ws : List Word) : (narrowed f ty ws).1.length = ws.length := by simp [narrowed]

theorem vldOp_of_canLanes {v : VReg} (h : canLanes s t (.q q) ty 128 = true) :
    vldOp v q.val ty s t = .ok ((tookElems s t q.val 128).modRegs t fun r => setV r v.val (lanesOf s t (.q q) ty 128)) := by
  obtain ⟨htake, hfmt⟩ := canLanes_q_iff.1 h
  simp only [vldOp, readCheck_of_canTake htake, hfmt, Bool.not_true, Bool.false_eq_true, if_false, takeElems_canTake htake, lanesOf]

theorem vstOp_of_canPut {v : VReg} (h : canPut s t (.q q) ty 128 = true) :
    vstOp v q.val ty s t = .ok (putTo s t (.q q) ty (vLanes (s.regsAt t) v.val)) := by
  obtain ⟨hgive, hfmt⟩ := canPut_q_iff.1 h
  have hroom : canGive s t q.val (narrowed (streamFmt (s.tile t) q.val) ty (vLanes (s.regsAt t) v.val)).1.length = true := by
    rw [length_narrowed, length_vLanes]
    exact hgive
  simp only [vstOp, writeCheck_of_canGive hgive, hfmt, Bool.not_true, Bool.false_eq_true, if_false, putTo]
  exact handOver_canGive hroom

/-- A loaded read stream with elements buffered, inside its length and without a crest, has them for an operation. -/
theorem canTake_of_buffered {q : Nat} (hq : q < 4) (hvalid : (streamOf (s.body t) q).valid = true)
    (hlen : (streamOf (s.body t) q).pos + n ≤ (streamOf (s.body t) q).desc.length) (hcrest : (streamOf (s.body t) q).crest = none)
    (hbuf : n ≤ (streamOf (s.body t) q).buf.length) (hload : loadingFrom (s.body t) q = false) (hcopy : (streamOf (s.body t) q).desc.copy = false)
    (hgood : ((streamOf (s.body t) q).buf.take n).any (·.bad) = false) : canTake s t q n = true := by
  unfold streamOf at hvalid hlen hcrest hbuf hcopy hgood
  simp only [canTake, hq, hvalid, hlen, hcrest, hbuf, hload, hcopy, hgood, decide_true, Bool.and_true, Bool.not_false, Bool.or_true]

end

/-- Settles O8: moves and predicates always complete; VLD and VST complete where their stream has the elements or the room, which the second part's
conditions say of one. -/
theorem vectorMoves : Obligations.VectorMoves := by
  refine ⟨⟨?_, ?_, ?_, ?_, ?_, ?_, ?_, ?_, ?_⟩, ?_⟩
  · exact fun i v sr => writes_of_op (exec_vbcast i v sr) fun u => rfl
  · exact fun i v w => writes_of_op (exec_vmov i v w) fun u => rfl
  · exact fun i p m sr => writes_of_op (exec_pset i p m sr) fun u => rfl
  · exact fun i p x y f => writes_of_op (exec_plogic i p x y f) fun u => rfl
  · exact fun i d p => writes_of_op (exec_popc i d p) fun u => rfl
  · exact fun i v q ty => runs_of_op (exec_vld i v q ty)
  · exact fun i v q ty => runs_of_op (exec_vst i v q ty)
  · exact fun i v q ty => completes_of_op (exec_vld i v q ty) fun u h => vldOp_of_canLanes h
  · exact fun i v q ty => completes_of_op (exec_vst i v q ty) fun u h => vstOp_of_canPut h
  · intro s i v q ty hi u t st hq hvalid hfmt hlen hcrest hbuf hload hcopy hgood
    have htake := canTake_of_buffered hq hvalid hlen hcrest hbuf hload hcopy hgood
    exact exec_of_ok (exec_vld i v q ty) hi (vldOp_of_canLanes (canLanes_q_iff.2 ⟨htake, hfmt⟩))

end Sys2Proof.Machine
end

section
/-! PROOFS. What taking and handing over elements leaves alone in a tile (11 R250, 13 R285). -/
namespace Sys2Proof.Machine

variable {s s' : State} {t q r n m : Nat} {ty : LaneTy}

/-- The stream `q` of tile `t`. -/
def State.stream (s : State) (t q : Nat) : StreamSt := (s.body t).streams.get StreamSt.init q

theorem posOf_eq : posOf s t q = (s.stream t q).pos := rfl
theorem streamFmt_eq : streamFmt (s.tile t) q = deliveredFmt (s.stream t q).desc := rfl
theorem nextElems_eq : nextElems s t q n = (s.stream t q).buf.take n := rfl

/-! ## Changes of a body -/

@[simp] theorem State.modBody_body (s : State) (t : Nat) (f : TileBody → TileBody) : (s.modBody t f).body t = f (s.body t) := by
  simp [modBody, body]

@[simp] theorem State.modBody_regsAt (s : State) (t : Nat) (f : TileBody → TileBody) : (s.modBody t f).regsAt t = s.regsAt t := by
  simp [modBody, regsAt]

@[simp] theorem State.modRegs_body (s : State) (t : Nat) (f : TRegs → TRegs) :
    (s.modRegs t f).body t = { s.body t with regs := f (s.body t).regs } := by simp [modRegs]

@[simp] theorem State.modRegs_regsAt (s : State) (t : Nat) (f : TRegs → TRegs) : (s.modRegs t f).regsAt t = s.regsAt t := by simp [modRegs]

@[simp] theorem State.raise_body (s : State) (t : Nat) (x : Raised) : (s.raise t x).body t = { s.body t with
    qSat := (s.body t).qSat || x.q, nanSeen := (s.body t).nanSeen || x.nan, accSat := (s.body t).accSat || x.acc } := by simp [raise]

@[simp] theorem State.raise_regsAt (s : State) (t : Nat) (x : Raised) : (s.raise t x).regsAt t = s.regsAt t := by simp [raise]

/-- Elements buffered alike are taken alike. -/
theorem canTake_congr (hst : s'.stream t q = s.stream t q) (hw : (s'.body t).wbufs = (s.body t).wbufs) : canTake s' t q n = canTake s t q n := by
  have hload : loadingFrom (s'.body t) q = loadingFrom (s.body t) q := by simp only [loadingFrom, hw]
  have hst : (s'.body t).streams.get StreamSt.init q = (s.body t).streams.get StreamSt.init q := hst
  simp only [canTake, hst, hload]

theorem canGive_congr (hst : s'.stream t q = s.stream t q) : canGive s' t q n = canGive s t q n := by
  have hst : (s'.body t).streams.get StreamSt.init q = (s.body t).streams.get StreamSt.init q := hst
  simp only [canGive, hst]

theorem streamFmt_congr (hst : s'.stream t q = s.stream t q) : streamFmt (s'.tile t) q = streamFmt (s.tile t) q := by
  rw [streamFmt_eq, streamFmt_eq, hst]

theorem length_nextElems (h : canTake s t q n = true) : (nextElems s t q n).length = n := by
  simp only [canTake, Bool.and_eq_true, Bool.or_eq_true, decide_eq_true_eq, beq_iff_eq] at h
  obtain ⟨-, h | ⟨⟨⟨⟨-, hbuf⟩, -⟩, -⟩, -⟩⟩ := h
  · simp [nextElems, h]
  · rw [nextElems, List.length_take]
    omega

theorem lt_four_of_canTake (h : canTake s t q n = true) : q < 4 := by
  simp only [canTake, Bool.and_eq_true, decide_eq_true_eq] at h
  exact h.1.1

theorem four_le_of_canGive (h : canGive s t q n = true) : 4 ≤ q := by
  simp only [canGive, Bool.and_eq_true, decide_eq_true_eq] at h
  exact h.1.1

/-! ## Taking -/

/-- A body after elements of stream `q` are taken differs in that stream alone. -/
theorem tookElems_body : ∃ st, (tookElems s t q n).body t = { s.body t with streams := st } ∧
    (st.get StreamSt.init q).pos = (s.stream t q).pos + n ∧ ∀ k, k ≠ q → st.get StreamSt.init k = s.stream t k := by
  unfold tookElems
  split
  · next h => exact ⟨(s.body t).streams, rfl, by rw [h]; rfl, fun _ _ => rfl⟩
  · rw [State.modBody_body]
    exact ⟨_, rfl, by rw [Table.get_set]; rfl, fun k hk => Table.get_set_ne hk⟩

@[simp] theorem tookElems_regsAt : (tookElems s t q n).regsAt t = s.regsAt t := by
  unfold tookElems
  split
  · rfl
  · exact State.modBody_regsAt ..

theorem tookElems_stream_ne (h : r ≠ q) : (tookElems s t q n).stream t r = s.stream t r := by
  obtain ⟨st, hbody, -, hother⟩ := tookElems_body (s := s) (t := t) (q := q) (n := n)
  rw [State.stream, hbody]
  exact hother r h

theorem posOf_tookElems : posOf (tookElems s t q n) t q = posOf s t q + n := by
  obtain ⟨st, hbody, hpos, -⟩ := tookElems_body (s := s) (t := t) (q := q) (n := n)
  rw [posOf, hbody]
  exact hpos

/-! ## Handing over -/

theorem pos_unitRun (d : StreamDesc) (mout : Nat) (es : List Elem) (st : StreamSt) : (unitRun d mout es st).pos = st.pos + es.length := by
  induction es generalizing st with
  | nil => rfl
  | cons e es ih =>
    unfold unitRun
    dsimp only
    split
    all_goals
      rw [ih, List.length_cons]
      dsimp only
      omega

/-- A body after elements went to stream `q` differs in that stream alone. -/
theorem gaveElems_body {es : List Elem} : ∃ st, (gaveElems s t q es).body t = { s.body t with streams := st } ∧
    (st.get StreamSt.init q).pos = (s.stream t q).pos + es.length ∧ ∀ k, k ≠ q → st.get StreamSt.init k = s.stream t k := by
  unfold gaveElems
  split
  · next h =>
    rw [List.isEmpty_iff] at h
    exact ⟨(s.body t).streams, rfl, by rw [h]; rfl, fun _ _ => rfl⟩
  · rw [State.modBody_body]
    refine ⟨_, rfl, ?_, fun k hk => Table.get_set_ne hk⟩
    rw [Table.get_set]
    split
    · exact pos_unitRun ..
    · rfl

@[simp] theorem gaveElems_regsAt {es : List Elem} : (gaveElems s t q es).regsAt t = s.regsAt t := by
  unfold gaveElems
  split
  · rfl
  · exact State.modBody_regsAt ..

theorem posOf_gaveElems {es : List Elem} : posOf (gaveElems s t q es) t q = posOf s t q + es.length := by
  obtain ⟨st, hbody, hpos, -⟩ := gaveElems_body (s := s) (t := t) (q := q) (es := es)
  rw [posOf, hbody]
  exact hpos

/-! ## Lanes -/

theorem length_lanesOf {x : VSel} (h : canLanes s t x ty n = true) (hn : n ≤ 128) : (lanesOf s t x ty n).length = n := by
  cases x with
  | v v => rw [lanesOf, List.length_take, length_vLanes]; omega
  | q q =>
    rw [lanesOf, List.length_map]
    exact length_nextElems (canLanes_q_iff.1 h).1

/-- A body after a source's lanes are taken differs in its streams, in none of those that an operation writes. -/
theorem tookLanes_body {x : VSel} : ∃ st, (tookLanes s t x m).body t = { s.body t with streams := st } := by
  cases x with
  | v v => exact ⟨_, rfl⟩
  | q q => obtain ⟨st, h, -⟩ := tookElems_body (s := s) (t := t) (q := q.val) (n := m); exact ⟨st, h⟩

@[simp] theorem tookLanes_regsAt {x : VSel} : (tookLanes s t x m).regsAt t = s.regsAt t := by
  cases x with
  | v v => rfl
  | q q => exact tookElems_regsAt

/-- A stream that a source is not stays as it was. -/
theorem tookLanes_stream_ne {x : VSel} (h : ∀ q : QReg, x = .q q → r ≠ q.val) : (tookLanes s t x m).stream t r = s.stream t r := by
  cases x with
  | v v => rfl
  | q q => exact tookElems_stream_ne (h q rfl)

/-- A source with lanes is no write stream. -/
theorem ne_of_canLanes {x : VSel} (hx : canLanes s t x ty n = true) (hr : 4 ≤ r) : ∀ q : QReg, x = .q q → r ≠ q.val := by
  rintro q rfl
  have := lt_four_of_canTake (canLanes_q_iff.1 hx).1
  omega

/-- Room in a write stream is there after a source's lanes are taken. -/
theorem canGive_tookLanes {x : VSel} (hx : canLanes s t x ty n = true) (h : canGive s t r m = true) : canGive (tookLanes s t x n) t r m = true := by
  rw [canGive_congr (tookLanes_stream_ne (ne_of_canLanes hx (four_le_of_canGive h))), h]

theorem canPut_tookLanes {x dst : VSel} {ty' : LaneTy} (hx : canLanes s t x ty n = true) (h : canPut s t dst ty' m = true) :
    canPut (tookLanes s t x n) t dst ty' m = true := by
  cases dst with
  | v v => rfl
  | q q =>
    rw [canPut_q_iff] at h ⊢
    obtain ⟨hgive, hfmt⟩ := h
    refine ⟨canGive_tookLanes hx hgive, ?_⟩
    rw [streamFmt_congr (tookLanes_stream_ne (ne_of_canLanes hx (four_le_of_canGive hgive))), hfmt]

/-- Another source's lanes are there, the same, after a source's lanes are taken. -/
theorem lanes_tookLanes {x y : VSel} (hne : ∀ a b : QReg, x = .q a → y = .q b → a ≠ b) :
    canLanes (tookLanes s t x m) t y ty n = canLanes s t y ty n ∧ lanesOf (tookLanes s t x m) t y ty n = lanesOf s t y ty n := by
  obtain ⟨st, hbody⟩ := tookLanes_body (s := s) (t := t) (x := x) (m := m)
  cases y with
  | v v => exact ⟨rfl, by simp only [lanesOf, tookLanes_regsAt]⟩
  | q b =>
    have hst : (tookLanes s t x m).stream t b.val = s.stream t b.val :=
      tookLanes_stream_ne fun a ha heq => hne a b ha rfl (Fin.ext heq.symm)
    have hw : ((tookLanes s t x m).body t).wbufs = (s.body t).wbufs := by rw [hbody]
    exact ⟨by simp only [canLanes, canTake_congr hst hw, streamFmt_congr hst], by simp only [lanesOf, nextElems_eq, hst, streamFmt_congr hst]⟩

/-- A destination that takes lanes does not fault. -/
theorem dstFault_of_canPut {dst : VSel} (h : canPut s t dst ty n = true) : dstFault (s.tile t) dst ty = none := by
  cases dst with
  | v v => rfl
  | q q =>
    obtain ⟨hgive, hfmt⟩ := canPut_q_iff.1 h
    simp only [dstFault, writeCheck_of_canGive hgive, hfmt, if_true, Option.orElse]

/-- A body after lanes are written: registers, streams and flags at most. -/
theorem putTo_body {dst : VSel} {ws : List Word} : ∃ g st a b c, (putTo s t dst ty ws).body t =
    { s.body t with regs := g, streams := st, qSat := a, nanSeen := b, accSat := c } := by
  cases dst with
  | v v => exact ⟨_, _, _, _, _, State.modRegs_body ..⟩
  | q q =>
    obtain ⟨st, hbody, -⟩ := gaveElems_body (s := s) (t := t) (q := q.val) (es := (narrowed (streamFmt (s.tile t) q.val) ty ws).1)
    exact ⟨_, st, _, _, _, by rw [putTo, State.raise_body, hbody]⟩

/-- Lanes written to a stream move it on and leave the tile's other streams. -/
theorem putTo_stream {q : QReg} {ws : List Word} : posOf (putTo s t (.q q) ty ws) t q.val = posOf s t q.val + ws.length ∧
    ∀ k, k ≠ q.val → (putTo s t (.q q) ty ws).stream t k = s.stream t k := by
  obtain ⟨st, hbody, hpos, hother⟩ :=
    gaveElems_body (s := s) (t := t) (q := q.val) (es := (narrowed (streamFmt (s.tile t) q.val) ty ws).1)
  rw [length_narrowed] at hpos
  refine ⟨?_, fun k hk => ?_⟩
  · rw [posOf, putTo, State.raise_body, hbody]
    exact hpos
  · rw [State.stream, putTo, State.raise_body, hbody]
    exact hother k hk

end Sys2Proof.Machine
end

section
/-! PROOFS. Vector engine operations (11 R252–R255, 08 R187–R201). -/
namespace Sys2Proof.Machine

/-! ## The commands as operations -/

theorem exec_vchain (i : Issue) (ch : Fin 16) (x y dst : VSel) (n : SReg) (s : State) :
    exec (.vchain i ch x y dst n) s = .next (runOp s i .v (vecIssue (.chain ch x y dst) n)) := rfl

theorem exec_vred (i : Issue) (o : RedOp) (ty : LaneTy) (sr : SReg) (x : VSel) (p : Option PReg) (n : SReg) (s : State) :
    exec (.vred i o ty sr x p n) s = .next (runOp s i .v (vecIssue (.red o ty sr x p) n)) := rfl

theorem exec_quant (i : Issue) (x : VSel) (q : QReg) (sr n : SReg) (a : AReg) (st : Option (Fin 8)) (s : State) :
    exec (.quant i x q sr n a st) s = .next (runOp s i .v (vecIssue (.quant x q sr a st) n)) := rfl

theorem exec_mxquant (i : Issue) (x : VSel) (q : QReg) (n : SReg) (st : Option (Fin 8)) (s : State) :
    exec (.mxquant i x q n st) s = .next (runOp s i .v (vecIssue (.mxquant x q st) n)) := rfl

theorem exec_requant (i : Issue) (x : VSel) (q : QReg) (a : AReg) (sr n : SReg) (s : State) :
    exec (.requant i x q a sr n) s = .next (runOp s i .v (vecIssue (.requant x q a sr) n)) := rfl

theorem exec_vupn (i : Issue) (qi qo : QReg) (fy fx : Fin 8) (dm n : SReg) (ty : LaneTy) (s : State) :
    exec (.vupn i qi qo fy fx dm n ty) s = .next (runOp s i .v (vecIssue (.upn qi qo fy fx dm ty) n)) := rfl

theorem exec_vupb (i : Issue) (qi qo : QReg) (fy fx : Fin 8) (dm n : SReg) (ty : LaneTy) (s : State) :
    exec (.vupb i qi qo fy fx dm n ty) s = .next (runOp s i .v (vecIssue (.upb qi qo fy fx dm ty) n)) := rfl

theorem exec_vcompress (i : Issue) (x : VSel) (p : PReg) (q : QReg) (d : SReg) (s : State) :
    exec (.vcompress i x p q d) s = .next (runOp s i .v (vcompressOp x p q.val d)) := rfl

theorem exec_vexpand (i : Issue) (q : QReg) (p : PReg) (f : Fill) (v : VReg) (s : State) :
    exec (.vexpand i q p f v) s = .next (runOp s i .v (vexpandOp q.val p f v)) := rfl

theorem exec_vrng (i : Issue) (v : VReg) (sr : SReg) (s : State) : exec (.vrng i v sr) s = .next (runOp s i .v (vrngOp v sr)) := rfl

theorem exec_vtscale (i : Issue) (sr : SReg) (int4 : Bool) (s : State) :
    exec (.vtscale i sr int4) s = .next (runOp s i .v (vtscaleOp sr int4)) := rfl

/-! ## One vector, more than one, too many -/

section
variable {s : State} {t : Nat} {op : VecOp} {n : SReg}

theorem vecPer_le (x : Tile) (op : VecOp) : vecPer x op ≤ 128 := by
  unfold vecPer
  split
  · omega
  · split <;> omega
  · omega

theorem vecIssue_short (h : countAt s t n ≤ vecPer (s.tile t) op) :
    vecIssue op n s t = vecStep (upBegin s t op (countAt s t n)) t op 0 (countAt s t n) (countAt s t n) (countAt s t n) none := by
  have hper := vecPer_le (s.tile t) op
  have h' : (sReg (s.tile t).before.regs n.val).toNat ≤ vecPer (s.tile t) op := h
  unfold vecIssue
  dsimp only
  rw [if_neg (by omega), if_pos h']
  rfl

theorem vecIssue_long {s1 : State} (h : vecPer (s.tile t) op < countAt s t n) (hmax : countAt s t n ≤ 16777215) (hslots : (s.tile t).slots = [.v])
    (hv : vecStep (upBegin s t op (countAt s t n)) t op 0 (vecPer (s.tile t) op) (countAt s t n) (countAt s t n) none = .ok s1) :
    vecIssue op n s t = .ok ((upBegin s t op (countAt s t n)).modBody t fun b =>
      { b with longOp := some { op, n, total := countAt s t n, done := 0, bundle := b.cur, preds := [], regs := s.regsAt t
                                block := some (opBlock (s.tile t) t op (countAt s t n)) } }) := by
  have h' : vecPer (s.tile t) op < (sReg (s.tile t).before.regs n.val).toNat := h
  have hmax' : (sReg (s.tile t).before.regs n.val).toNat ≤ 16777215 := hmax
  unfold countAt State.regsAt at hv
  unfold vecIssue countAt State.regsAt
  dsimp only
  rw [if_neg (by omega), if_neg (by omega), if_neg (not_not_intro hslots), hv]

theorem vecIssue_count (h : 16777215 < countAt s t n) : vecIssue op n s t = .fault (Code.til 0x03) := if_pos h

theorem vecIssue_beside (h : vecPer (s.tile t) op < countAt s t n) (hmax : countAt s t n ≤ 16777215) (hslots : (s.tile t).slots ≠ [.v]) :
    vecIssue op n s t = .fault (Code.til 0x04) := by
  have h' : vecPer (s.tile t) op < (sReg (s.tile t).before.regs n.val).toNat := h
  have hmax' : (sReg (s.tile t).before.regs n.val).toNat ≤ 16777215 := hmax
  unfold vecIssue
  dsimp only
  rw [if_neg (by omega), if_neg (by omega), if_pos hslots]

end

/-! ## VCHAIN -/

section
variable {s : State} {t m : Nat} {x y dst : VSel} {ch : Nat} {c : Chain} {last : Bool}

/-- The state after the lanes of both sources of a chain are taken; one stream named twice gives its lanes once. -/
def tookBoth (s : State) (t : Nat) (x y : VSel) (m : Nat) : State :=
  match x, y with
  | .q a, .q b => if a = b then tookLanes s t x m else tookLanes (tookLanes s t x m) t y m
  | _, _ => tookLanes (tookLanes s t x m) t y m

/-- One vector of a chain from the registers before the bundle: its results and its predicates. -/
def chainAt (s : State) (t : Nat) (x y : VSel) (c : Chain) (m : Nat) : List Word × Raised × List (Nat × BitVec 128) :=
  chainVec c (s.regsAt t) (lanesOf s t x c.inTy m) (lanesOf s t y c.inTy m)

/-- A chain's vector done. -/
def chainDone (s : State) (t : Nat) (x y dst : VSel) (c : Chain) (m : Nat) : State :=
  (putTo (tookBoth s t x y m) t dst c.outTy (chainAt s t x y c m).1).raise t (chainAt s t x y c m).2.1

@[simp] theorem tookBoth_regsAt : (tookBoth s t x y m).regsAt t = s.regsAt t := by
  unfold tookBoth
  split
  · split
    · exact tookLanes_regsAt
    · rw [tookLanes_regsAt, tookLanes_regsAt]
  · rw [tookLanes_regsAt, tookLanes_regsAt]

theorem length_chainVec (c : Chain) (r : TRegs) (xs ys : List Word) : (chainVec c r xs ys).1.length = xs.length := by simp [chainVec]

theorem sources_differ {a b : QReg} (h : a ≠ b) : ∀ a' b' : QReg, VSel.q a = .q a' → VSel.q b = .q b' → a' ≠ b' := by
  rintro a' b' ⟨⟩ ⟨⟩
  exact h

theorem canPut_tookBoth {ty : LaneTy} (hx : canLanes s t x c.inTy m = true) (hy : canLanes s t y c.inTy m = true)
    (hd : canPut s t dst ty m = true) : canPut (tookBoth s t x y m) t dst ty m = true := by
  have hone := canPut_tookLanes hx hd
  have htwo (hne : ∀ a b : QReg, x = .q a → y = .q b → a ≠ b) : canPut (tookLanes (tookLanes s t x m) t y m) t dst ty m = true :=
    canPut_tookLanes ((lanes_tookLanes hne).1.trans hy) hone
  unfold tookBoth
  split
  · next a b =>
    split
    · exact hone
    · next hab => exact htwo (sources_differ hab)
  · next hxy => exact htwo fun a b hax hby => absurd hby (hxy a b hax)

theorem chainStep_ok (hc : checkChain (chainOf (s.tile t) ch) = some c) (hx : canLanes s t x c.inTy m = true) (hy : canLanes s t y c.inTy m = true)
    (hd : canPut s t dst c.outTy m = true) (hm : 0 < m) (hm' : m ≤ 128) :
    chainStep s t ch x y dst m last = .ok (landPreds (chainDone s t x y dst c m) t last (chainAt s t x y c m).2.2) := by
  have hput := putLanes_canPut (s := tookBoth s t x y m) (t := t) (dst := dst) (ty := c.outTy) (ws := (chainAt s t x y c m).1)
    (k := fun s1 => .ok (landPreds (s1.raise t (chainAt s t x y c m).2.1) t last (chainAt s t x y c m).2.2))
    (by rw [chainAt, length_chainVec, length_lanesOf hx hm']; exact canPut_tookBoth hx hy hd)
  unfold chainStep
  simp only [hc, srcFault_canLanes hx, srcFault_canLanes hy, dstFault_of_canPut hd, Option.orElse]
  rw [if_neg (Nat.ne_of_gt hm), takeLanes_canLanes hx]
  have hsecond (hne : ∀ a b : QReg, x = .q a → y = .q b → a ≠ b) (k : State → List Word → OpRes) :
      takeLanes (tookLanes s t x m) t y c.inTy m k = k (tookLanes (tookLanes s t x m) t y m) (lanesOf s t y c.inTy m) := by
    obtain ⟨hcan, hlanes⟩ := lanes_tookLanes (s := s) (t := t) (m := m) (n := m) (ty := c.inTy) hne
    rw [takeLanes_canLanes (hcan.trans hy), hlanes]
  split
  · next a b =>
    split
    · next hab =>
      subst hab
      simpa only [chainDone, chainAt, tookBoth, if_true, tookLanes_regsAt] using hput
    · next hab =>
      rw [hsecond (sources_differ hab)]
      simpa only [chainDone, chainAt, tookBoth, if_neg hab, tookLanes_regsAt] using hput
  · next hxy =>
    rw [hsecond fun a b hax hby => absurd hby (hxy a b hax)]
    have hboth : tookBoth s t x y m = tookLanes (tookLanes s t x m) t y m := by
      unfold tookBoth
      split
      · next a b => exact absurd rfl (hxy a b rfl)
      · rfl
    rw [hboth] at hput
    simpa only [chainDone, chainAt, hboth, tookLanes_regsAt] using hput

end

end Sys2Proof.Machine
end

section
/-! PROOFS. Reductions and quantisations of one vector (08 R195, 07 R175–R182, 11 R254, R255). -/
namespace Sys2Proof.Machine

variable {s : State} {t m : Nat} {x : VSel}

/-! ## What adding to a tile's flags and statistics leaves alone -/

@[simp] theorem posOf_raise {q : Nat} {fl : Raised} : posOf (s.raise t fl) t q = posOf s t q := by simp [posOf]

@[simp] theorem posOf_modRegs {q : Nat} {f : TRegs → TRegs} : posOf (s.modRegs t f) t q = posOf s t q := by simp [posOf]

theorem State.addStats_body {slot : Nat} {items : List (Option (FVal × FVal))} :
    ∃ st, (s.addStats t slot items).body t = { s.body t with stats := st } := by
  unfold State.addStats
  dsimp only
  split
  · exact ⟨_, State.modBody_body ..⟩
  · exact ⟨_, rfl⟩

/-! ## VRED -/

theorem redStep_ok {o : RedOp} {ty : LaneTy} {sr : SReg} {p : Option PReg} (hty : ty ≠ .complex) (hm : 0 < m) (hx : canLanes s t x ty m = true) :
    redStep s t o ty sr x p m = .ok
      (let on (k : Nat) : Bool := match p with | some p => (pReg (s.regsAt t) p.val).getLsbD k | none => true
       let lanes := ((lanesOf s t x ty m).zipIdx).map fun e => if on e.2 then some e.1 else none
       let r := redCombine o ty (sReg (s.body t).regs sr.val) lanes
       ((tookLanes s t x m).modRegs t fun g => setS g sr.val r.1).raise t r.2) := by
  obtain ⟨st, hbody⟩ := tookLanes_body (s := s) (t := t) (x := x) (m := m)
  unfold redStep
  rw [if_neg hty]
  simp only [srcFault_canLanes hx]
  rw [if_neg (Nat.ne_of_gt hm), takeLanes_canLanes hx, hbody] <;> rfl

/-! ## Elements handed to a write stream after a source's lanes are taken -/

/-- A vector operation moved stream `q` on by `n` elements and left the tile's scratchpad alone. -/
def Passed (s : State) (t q n : Nat) (s1 : State) : Prop := posOf s1 t q = posOf s t q + n ∧ (s1.body t).sp = (s.body t).sp

theorem passed_gaveElems {q : Nat} {es : List Elem} (hx : canLanes s t x ty m = true) (hq : 4 ≤ q) (hes : es.length = n) :
    Passed s t q n (gaveElems (tookLanes s t x m) t q es) := by
  obtain ⟨st, hbody⟩ := tookLanes_body (s := s) (t := t) (x := x) (m := m)
  obtain ⟨st', hbody', -, -⟩ := gaveElems_body (s := tookLanes s t x m) (t := t) (q := q) (es := es)
  constructor
  · rw [posOf_gaveElems, hes, posOf_eq, tookLanes_stream_ne (ne_of_canLanes hx hq), posOf_eq]
  · rw [hbody', hbody]

theorem Passed.raise {q n : Nat} {s1 : State} {fl : Raised} (h : Passed s t q n s1) : Passed s t q n (s1.raise t fl) := by
  simpa [Passed] using h

theorem Passed.addStats {q n k : Nat} {s1 : State} {items : List (Option (FVal × FVal))} (h : Passed s t q n s1) :
    Passed s t q n (s1.addStats t k items) := by
  obtain ⟨st, hst⟩ := State.addStats_body (s := s1) (t := t) (slot := k) (items := items)
  unfold Passed posOf at h ⊢
  rw [hst]
  exact h

theorem Passed.modBody {q n : Nat} {s1 : State} {f : TileBody → TileBody} (h : Passed s t q n s1) (hst : ∀ b, (f b).streams = b.streams)
    (hsp : ∀ b, (f b).sp = b.sp) : Passed s t q n (s1.modBody t f) := by
  unfold Passed posOf at h ⊢
  rw [State.modBody_body, hst, hsp]
  exact h

/-- Statistics, where an operation keeps them. -/
theorem Passed.stats {q n : Nat} {s1 : State} {st : Option (Fin 8)} {items : List (Option (FVal × FVal))} (h : Passed s t q n s1) :
    Passed s t q n (match st with | some k => s1.addStats t k.val items | none => s1) := by
  cases st with
  | none => exact h
  | some k => exact h.addStats

/-! ## QUANT -/

/-- The maps that a QUANT reads are good: it names none, or its destination may have outliers and the scratchpad holds them. -/
def MapsReady (s : State) (t q m : Nat) (a : AReg) : Prop :=
  a.val = 0 ∨ (streamFmt (s.tile t) q ≠ .int16 ∧ streamFmt (s.tile t) q ≠ .bf16 ∧ canPeek s t (offAt s t a) 16 = true ∧
    (parseMaps (peeked s t (offAt s t a) 16) m).isSome = true)

theorem quantStep_ok {q : Nat} {sr : SReg} {a : AReg} {st : Option (Fin 8)} (hm : 0 < m) (hm' : m ≤ 128) (hx : canLanes s t x .fp32 m = true)
    (hg : canGive s t q m = true) (hf : quantFmt (streamFmt (s.tile t) q) = true)
    (hs : scaleBad (streamFmt (s.tile t) q) (sReg (s.regsAt t) sr.val) = false) (ha : MapsReady s t q m a) :
    ∃ s1, Passed s t q m s1 ∧ quantStep s t x q sr a st 0 m m none = .ok s1 := by
  have hs' : scaleBad (streamFmt (s.tile t) q) (sReg (s.tile t).before.regs sr.val) = false := hs
  unfold quantStep
  extract_lets -lift +onlyGivenNames tl
  have hgood : ((srcFault tl x .fp32).orElse fun _ => writeCheck tl q) = none := by
    simp [tl, srcFault_canLanes hx, writeCheck_of_canGive hg]
  rw [hgood]
  dsimp -zeta only
  extract_lets -lift +onlyGivenNames f reg scale
  rw [if_neg (by simpa [f, tl] using hf), if_neg (by simpa [f, tl, reg] using hs')]
  extract_lets -lift +onlyGivenNames keep run
  have hrun : ∀ maps, ∃ s1, Passed s t q m s1 ∧ run maps = .ok s1 := by
    intro maps
    simp only [run]
    rw [if_neg (Nat.ne_of_gt hm), takeLanes_canLanes hx, handOver_canGive (by simpa [length_lanesOf hx hm'] using canGive_tookLanes hx hg)]
    refine ⟨_, ?_, rfl⟩
    refine Passed.raise (Passed.stats (Passed.modBody ?_ (fun _ => rfl) fun _ => rfl))
    exact passed_gaveElems hx (four_le_of_canGive hg) (by simp [length_lanesOf hx hm'])
  clear_value run
  by_cases hz : a.val = 0
  · rw [if_pos hz]
    exact hrun []
  · obtain h0 | ⟨h16, hbf, hpeek, hmaps⟩ := ha
    · exact absurd h0 hz
    obtain ⟨maps, hmaps⟩ := Option.isSome_iff_exists.1 hmaps
    have hone : 16 * ceilDiv m 256 = 16 := by unfold ceilDiv; omega
    rw [if_neg hz, if_neg (by simp [f, tl, h16, hbf]), if_neg (Nat.ne_of_gt hm), blockBytes]
    rw [hone, show windowOff t (aReg (s.tile t).before.regs a.val).toNat = offAt s t a from rfl, peek_canPeek hpeek]
    simp only [hmaps]
    exact hrun maps

/-! ## MXQUANT -/

@[simp] theorem length_mxQuantise (f : Fmt) (xs : List FVal) : (mxQuantise f xs).1.length = xs.length := by
  unfold mxQuantise
  split
  · simp
  · simp

theorem length_mxBlocks (f : Fmt) (k : Nat) (xs : List FVal) (h : xs.length ≤ 32 * k) : (mxBlocks f k xs).1.length = xs.length := by
  induction k generalizing xs with
  | zero =>
    have : xs = [] := List.length_eq_zero_iff.1 (by omega)
    subst this
    rfl
  | succ k ih =>
    cases xs with
    | nil => rfl
    | cons x xs =>
      rw [mxBlocks]
      · dsimp only
        rw [List.length_append, length_mxQuantise, ih _ (by rw [List.length_drop]; omega), List.length_take, List.length_drop]
        omega
      · exact fun h => nomatch h

theorem mxStep_ok {q : Nat} {st : Option (Fin 8)} (hm : 0 < m) (hm' : m ≤ 128) (hx : canLanes s t x .fp32 m = true) (hg : canGive s t q m = true)
    (hf : isMx (streamFmt (s.tile t) q) = true) : ∃ s1, Passed s t q m s1 ∧ mxStep s t x q st m = .ok s1 := by
  have hlen : (mxBlocks (streamFmt (s.tile t) q) 4 ((lanesOf s t x .fp32 m).map val32)).1.length = m := by
    rw [length_mxBlocks _ _ _ (by rw [List.length_map, length_lanesOf hx hm']; omega), List.length_map, length_lanesOf hx hm']
  unfold mxStep
  simp only [srcFault_canLanes hx, writeCheck_of_canGive hg, Option.orElse, hf, Bool.not_true, Bool.false_eq_true, if_false]
  rw [if_neg (Nat.ne_of_gt hm), takeLanes_canLanes hx, handOver_canGive (by rw [hlen]; exact canGive_tookLanes hx hg)]
  exact ⟨_, (Passed.stats (passed_gaveElems hx (four_le_of_canGive hg) hlen)).raise, rfl⟩

/-! ## REQUANT -/

/-- A source that REQUANT takes from: int48 words of a stream, or int32 lanes. -/
def requantReady (s : State) (t : Nat) (x : VSel) (m : Nat) : Prop :=
  if requantWords (s.tile t) x then (match x with | .q k => canTake s t k.val m = true | .v _ => False) else canLanes s t x .int32 m = true

theorem passed_took_gave {q k : Nat} {es : List Elem} (hk : k ≠ q) (hes : es.length = m) :
    Passed s t q m (gaveElems (tookElems s t k m) t q es) := by
  obtain ⟨st, hbody, -, -⟩ := tookElems_body (s := s) (t := t) (q := k) (n := m)
  obtain ⟨st', hbody', -, -⟩ := gaveElems_body (s := tookElems s t k m) (t := t) (q := q) (es := es)
  constructor
  · rw [posOf_gaveElems, hes, posOf_eq, tookElems_stream_ne hk.symm, posOf_eq]
  · rw [hbody', hbody]

theorem requantStep_ok {q : QReg} {a : AReg} {sr : SReg} {r : Rqb} (hm : 0 < m) (hm' : m ≤ 128) (hsr : sr.val ≤ 28) (hx : requantReady s t x m)
    (hd : canPut s t (.q q) .int32 m = true) (hpeek : canPeek s t (offAt s t a) 1024 = true)
    (hr : parseRqb (peeked s t (offAt s t a) 1024) = some r) (hout : isIntOut r.out = true) :
    ∃ s1, Passed s t q.val m s1 ∧ requantStep s t x q.val a sr 0 m none = .ok s1 := by
  obtain ⟨hg, -⟩ := canPut_q_iff.1 hd
  have hq : Fin.ofNat 8 q.val = q := Fin.ext (Nat.mod_eq_of_lt q.isLt)
  unfold requantStep
  extract_lets -lift +onlyGivenNames tl words bad
  have hbad : bad = none := by
    unfold requantReady at hx
    cases hw : requantWords (s.tile t) x with
    | true =>
      rw [if_pos hw] at hx
      cases x with
      | v v => simp [bad, words, tl, hw]
      | q k => simpa [bad, words, tl, hw] using readCheck_of_canTake hx
    | false =>
      rw [if_neg (by simp [hw])] at hx
      simpa [bad, words, tl, hw] using srcFault_canLanes hx
  rw [hq, hbad, show dstFault tl (.q q) .int32 = none from dstFault_of_canPut hd]
  dsimp -zeta only [Option.orElse]
  rw [if_neg (by omega), blockBytes, show windowOff t (aReg (s.tile t).before.regs a.val).toNat = offAt s t a from rfl, peek_canPeek hpeek]
  simp only [hr, hout, Bool.not_true, Bool.false_eq_true, if_false]
  rw [if_neg (Nat.ne_of_gt hm)]
  unfold requantReady at hx
  cases hw : requantWords (s.tile t) x with
  | true =>
    rw [if_pos hw] at hx
    cases x with
    | v v => exact absurd hx id
    | q k =>
      have hne : k.val ≠ q.val := by have := lt_four_of_canTake hx; have := four_le_of_canGive hg; omega
      have hroom : canGive (tookElems s t k.val m) t q.val m = true := by rw [canGive_congr (tookElems_stream_ne hne.symm), hg]
      rw [show words = true from hw]
      dsimp -zeta only
      rw [takeElems_canTake hx, handOver_canGive (by simpa [length_nextElems hx] using hroom)]
      exact ⟨_, (passed_took_gave hne (by simp [length_nextElems hx])).raise, rfl⟩
  | false =>
    rw [if_neg (by simp [hw])] at hx
    rw [show words = false from hw]
    dsimp -zeta only
    rw [takeLanes_canLanes hx, handOver_canGive (by simpa [length_lanesOf hx hm'] using canGive_tookLanes hx hg)]
    exact ⟨_, (passed_gaveElems hx (four_le_of_canGive hg) (by simp [length_lanesOf hx hm'])).raise, rfl⟩

end Sys2Proof.Machine
end

section
/-! PROOFS. Up-sampling of a plane that fits one vector; the other vector operations (08 R196–R201). -/
namespace Sys2Proof.Machine

/-! ## The input positions of an output -/

theorem foldl_max_ge {a M : Nat} {l : List Nat} (h : M ≤ a ∨ M ∈ l) : M ≤ l.foldl max a := by
  induction l generalizing a with
  | nil => simpa using h
  | cons x l ih =>
    refine ih ?_
    obtain h | h := h
    · omega
    · obtain h | h := List.mem_cons.1 h
      · omega
      · exact .inr h

theorem foldl_max_le {a M : Nat} {l : List Nat} (ha : a ≤ M) (h : ∀ x ∈ l, x ≤ M) : l.foldl max a ≤ M := by
  induction l generalizing a with
  | nil => exact ha
  | cons x l ih => exact ih (Nat.max_le.2 ⟨ha, h x List.mem_cons_self⟩) fun y hy => h y (List.mem_cons_of_mem _ hy)

variable {f n o : Nat}

/-- The two input positions of the bilinear rule lie on the axis. -/
theorem upAxis_le (hn : 0 < n) : (upAxis f n o).1 ≤ n - 1 ∧ (upAxis f n o).2.1 ≤ n - 1 := by
  unfold upAxis
  dsimp only
  constructor
  · split
    · exact Nat.zero_le _
    · split
      · dsimp only; omega
      · dsimp only; omega
  · exact Nat.min_le_right ..

/-- The last output of an axis reads its last input. -/
theorem upAxis_last (hn : 0 < n) (hf : 0 < f) : (upAxis f n (n * f - 1)).2.1 = n - 1 := by
  have hpos : 1 ≤ n * f := Nat.mul_pos hn hf
  have hcast : ((n * f - 1 : Nat) : Int) = (n : Int) * f - 1 := by
    rw [Int.natCast_sub hpos, Int.natCast_mul]
    rfl
  have hi : (n : Int) - 1 ≤ Int.fdiv (2 * ((n * f - 1 : Nat) : Int) + 1 - f) (2 * f) := by
    rw [hcast, Int.fdiv_eq_ediv_of_nonneg _ (by omega), Int.le_ediv_iff_mul_le (by omega), Int.sub_mul, Int.mul_left_comm, Int.one_mul]
    omega
  unfold upAxis
  dsimp only
  rw [if_neg (by omega), if_pos hi]
  dsimp only
  omega

/-- The input elements that output `k` of a plane of width `w` is made of. -/
def cornersOf (lin : Bool) (fy fx h w k : Nat) : List Nat :=
  if lin then
    [(upAxis fy h (k / (w * fx))).1 * w + (upAxis fx w (k % (w * fx))).1, (upAxis fy h (k / (w * fx))).1 * w + (upAxis fx w (k % (w * fx))).2.1,
     (upAxis fy h (k / (w * fx))).2.1 * w + (upAxis fx w (k % (w * fx))).1, (upAxis fy h (k / (w * fx))).2.1 * w + (upAxis fx w (k % (w * fx))).2.1]
  else [k / (w * fx) / fy * w + k % (w * fx) / fx]

section
variable {lin : Bool} {fy fx h w k : Nat}

theorem place_le {y x : Nat} (hw : 0 < w) (hh : 0 < h) (hy : y ≤ h - 1) (hx : x ≤ w - 1) : y * w + x ≤ h * w - 1 := by
  have hmul : y * w ≤ (h - 1) * w := Nat.mul_le_mul_right w hy
  have hlast : (h - 1) * w + w = h * w := by rw [← Nat.succ_mul]; congr 1; omega
  omega

theorem le_of_mem_cornersOf (hh : 0 < h) (hw : 0 < w) (hk : k < h * fy * (w * fx)) : ∀ c ∈ cornersOf lin fy fx h w k, c ≤ h * w - 1 := by
  have hfx : 0 < fx := Nat.pos_of_ne_zero fun e => by simp [e] at hk
  have hfy : 0 < fy := Nat.pos_of_ne_zero fun e => by simp [e] at hk
  obtain ⟨hy0, hy1⟩ := upAxis_le (f := fy) (o := k / (w * fx)) hh
  obtain ⟨hx0, hx1⟩ := upAxis_le (f := fx) (o := k % (w * fx)) hw
  intro c hc
  unfold cornersOf at hc
  split at hc
  · simp only [List.mem_cons, List.not_mem_nil, or_false] at hc
    obtain rfl | rfl | rfl | rfl := hc
    · exact place_le hw hh hy0 hx0
    · exact place_le hw hh hy0 hx1
    · exact place_le hw hh hy1 hx0
    · exact place_le hw hh hy1 hx1
  · obtain rfl := List.mem_singleton.1 hc
    have hrow : k / (w * fx) < h * fy := Nat.div_lt_of_lt_mul (by rwa [Nat.mul_comm])
    have hcol : k % (w * fx) < w * fx := Nat.mod_lt _ (Nat.mul_pos hw hfx)
    have hy : k / (w * fx) / fy < h := Nat.div_lt_of_lt_mul (Nat.mul_comm h fy ▸ hrow)
    have hx : k % (w * fx) / fx < w := Nat.div_lt_of_lt_mul (Nat.mul_comm w fx ▸ hcol)
    exact place_le hw hh (by omega) (by omega)

/-- The last output is made of the plane's last input element among others. -/
theorem last_mem_cornersOf (hh : 0 < h) (hw : 0 < w) (hfy : 0 < fy) (hfx : 0 < fx) :
    h * w - 1 ∈ cornersOf lin fy fx h w (h * fy * (w * fx) - 1) := by
  have hwx : 0 < w * fx := Nat.mul_pos hw hfx
  have hhy : 0 < h * fy := Nat.mul_pos hh hfy
  have hk : h * fy * (w * fx) - 1 = (w * fx - 1) + w * fx * (h * fy - 1) := by
    rw [Nat.mul_sub, Nat.mul_one, Nat.mul_comm (w * fx) (h * fy)]
    have := Nat.le_mul_of_pos_left (w * fx) hhy
    omega
  have hrow : (h * fy * (w * fx) - 1) / (w * fx) = h * fy - 1 := by
    rw [hk, Nat.add_mul_div_left _ _ hwx, Nat.div_eq_of_lt (by omega), Nat.zero_add]
  have hcol : (h * fy * (w * fx) - 1) % (w * fx) = w * fx - 1 := by
    rw [hk, Nat.add_mul_mod_self_left, Nat.mod_eq_of_lt (by omega)]
  have hlast : (h - 1) * w + (w - 1) = h * w - 1 := by
    have : (h - 1) * w + w = h * w := by rw [← Nat.succ_mul]; congr 1; omega
    omega
  have hdiv {a b : Nat} (ha : 0 < a) (hb : 0 < b) : (a * b - 1) / b = a - 1 := by
    rw [show a * b - 1 = (b - 1) + b * (a - 1) from ?_, Nat.add_mul_div_left _ _ hb, Nat.div_eq_of_lt (by omega), Nat.zero_add]
    rw [Nat.mul_sub, Nat.mul_one, Nat.mul_comm b a]
    have := Nat.le_mul_of_pos_left b ha
    omega
  unfold cornersOf
  rw [hrow, hcol]
  split
  · rw [upAxis_last hh hfy, upAxis_last hw hfx, hlast]
    simp
  · rw [hdiv hh hfy, hdiv hw hfx, hlast]
    simp

/-- A whole plane of outputs needs exactly the elements of the plane of inputs. -/
theorem corners_max (hh : 0 < h) (hw : 0 < w) (hfy : 0 < fy) (hfx : 0 < fx) :
    ((upTo (h * fy * (w * fx))).flatMap (cornersOf lin fy fx h w)).foldl max 0 + 1 = h * w := by
  have hpos : 0 < h * w := Nat.mul_pos hh hw
  have hall : 0 < h * fy * (w * fx) := Nat.mul_pos (Nat.mul_pos hh hfy) (Nat.mul_pos hw hfx)
  have hmax : ((upTo (h * fy * (w * fx))).flatMap (cornersOf lin fy fx h w)).foldl max 0 = h * w - 1 := by
    apply Nat.le_antisymm
    · refine foldl_max_le (Nat.zero_le _) fun c hc => ?_
      obtain ⟨k, hk, hmem⟩ := List.mem_flatMap.1 hc
      exact le_of_mem_cornersOf hh hw (by simpa [upTo] using hk) c hmem
    · refine foldl_max_ge (.inr (List.mem_flatMap.2 ⟨_, ?_, last_mem_cornersOf hh hw hfy hfx⟩))
      simp only [upTo, List.mem_range]
      omega
  omega

end

/-! ## VUPN, VUPB -/

section
variable {s : State} {t m : Nat} {qi qo : QReg} {ty : LaneTy} {lin : Bool} {fy fx : Nat} {dm : SReg}

theorem canLanes_congr {s' : State} {q : QReg} (hst : s'.stream t q.val = s.stream t q.val) (hw : (s'.body t).wbufs = (s.body t).wbufs) :
    canLanes s' t (.q q) ty m = canLanes s t (.q q) ty m := by simp only [canLanes, canTake_congr hst hw, streamFmt_congr hst]

theorem canPut_congr {s' : State} {q : QReg} (hst : s'.stream t q.val = s.stream t q.val) : canPut s' t (.q q) ty m = canPut s t (.q q) ty m := by
  simp only [canPut, canGive_congr hst, streamFmt_congr hst]

/-- The whole of a plane is up-sampled by one vector that begins it. -/
theorem upStep_ok {h w : Nat} (hplane : planeOf (sReg (s.regsAt t) dm.val) = (h, w)) (hty : ty ≠ .complex) (hm : 0 < m)
    (hall : h * fy * (w * fx) = m) (hx : canLanes s t (.q qi) ty (h * w) = true) (hd : canPut s t (.q qo) ty m = true)
    (hhist : (s.body t).upHist = []) :
    ∃ s1, (posOf s1 t qi.val = posOf s t qi.val + h * w ∧ posOf s1 t qo.val = posOf s t qo.val + m) ∧
      upStep s t lin qi.val qo.val fy fx dm ty m m = .ok s1 := by
  subst hall
  have hh : 0 < h := Nat.pos_of_ne_zero fun e => by simp [e] at hm
  have hw : 0 < w := Nat.pos_of_ne_zero fun e => by simp [e] at hm
  have hfy : 0 < fy := Nat.pos_of_ne_zero fun e => by simp [e] at hm
  have hfx : 0 < fx := Nat.pos_of_ne_zero fun e => by simp [e] at hm
  obtain ⟨htake, -⟩ := canLanes_q_iff.1 hx
  obtain ⟨hgive, -⟩ := canPut_q_iff.1 hd
  have hne : qo.val ≠ qi.val := by have := lt_four_of_canTake htake; have := four_le_of_canGive hgive; omega
  have hqi : Fin.ofNat 8 qi.val = qi := Fin.ext (Nat.mod_eq_of_lt qi.isLt)
  have hqo : Fin.ofNat 8 qo.val = qo := Fin.ext (Nat.mod_eq_of_lt qo.isLt)
  unfold upStep
  extract_lets -lift +onlyGivenNames tl
  rw [if_neg hty, hqi, hqo, show srcFault tl (.q qi) ty = none from srcFault_canLanes hx, show dstFault tl (.q qo) ty = none from dstFault_of_canPut hd,
    show planeOf (sReg tl.before.regs dm.val) = (h, w) from hplane]
  dsimp -zeta only [Option.orElse]
  rw [if_neg (by simp; omega), if_neg (Nat.ne_of_gt hm)]
  extract_lets -lift +onlyGivenNames o0 hist out corner need
  have hcorner : corner = cornersOf lin fy fx h w := by
    funext k
    simp only [corner, out, o0, cornersOf, Nat.sub_self, Nat.zero_add]
  have hneed : need - hist.length = h * w := by
    have h1 : need = h * w := by simp only [need, hcorner, corners_max hh hw hfy hfx]
    have h2 : hist = [] := hhist
    rw [h1, h2]
    rfl
  rw [hneed, takeElems_canTake htake]
  obtain ⟨st, hbody, hpos, hother⟩ := tookElems_body (s := s) (t := t) (q := qi.val) (n := h * w)
  dsimp only
  generalize hws : List.map _ (upTo (h * fy * (w * fx))) = ws
  have hlen : ws.length = h * fy * (w * fx) := by rw [← hws, List.length_map, upTo, List.length_range]
  generalize hs2 : (tookElems s t qi.val (h * w)).modBody t _ = s2
  have hstreams : (s2.body t).streams = st := by rw [← hs2, State.modBody_body, hbody]
  have hstream (k : Nat) (hk : k ≠ qi.val) : s2.stream t k = s.stream t k := by rw [State.stream, hstreams, hother k hk]
  rw [putLanes_canPut (by rw [hlen, canPut_congr (hstream _ hne), hd])]
  obtain ⟨hput, hrest⟩ := putTo_stream (s := s2) (t := t) (ty := ty) (q := qo) (ws := ws)
  refine ⟨_, ⟨?_, ?_⟩, rfl⟩
  · rw [posOf_eq, hrest _ hne.symm, State.stream, hstreams, hpos, posOf_eq]
  · rw [hput, posOf_eq, hstream _ hne, posOf_eq, hlen]

end

/-! ## VCOMPRESS, VEXPAND, VTSCALE -/

section
variable {s : State} {t : Nat} {x : VSel} {p : PReg} {q : QReg} {ty : LaneTy}

@[simp] theorem sReg_setS (r : TRegs) (i : Nat) (w : Dword) : sReg (setS r i w) i = w := Table.get_set

/-- As many lanes are kept as the predicate has bits set. -/
theorem length_kept (b : BitVec 128) (xs : List Word) (h : xs.length = 128) :
    (((xs.zipIdx).filter fun e => b.getLsbD e.2).map (·.1)).length = predCount b := by
  have hidx : xs.zipIdx.map (·.2) = List.range 128 := by rw [List.zipIdx_map_snd, h, List.range_eq_range']
  rw [List.length_map, predCount, upTo, ← hidx, List.filter_map, List.length_map]
  rfl

theorem vcompressOp_ok {d : SReg} (hty : laneOf (streamFmt (s.tile t) q.val) = some ty) (hx : canLanes s t x ty 128 = true)
    (hd : canPut s t (.q q) ty (predCount (pReg (s.regsAt t) p.val)) = true) :
    ∃ s1, (sReg (s1.body t).regs d.val = sReg (s.regsAt t) d.val + BitVec.ofNat 64 (predCount (pReg (s.regsAt t) p.val)) ∧
        posOf s1 t q.val = posOf s t q.val + predCount (pReg (s.regsAt t) p.val)) ∧ vcompressOp x p q.val d s t = .ok s1 := by
  obtain ⟨hg, -⟩ := canPut_q_iff.1 hd
  have hq : Fin.ofNat 8 q.val = q := Fin.ext (Nat.mod_eq_of_lt q.isLt)
  have hkept := length_kept (pReg (s.regsAt t) p.val) (lanesOf s t x ty 128) (length_lanesOf hx (Nat.le_refl _))
  unfold vcompressOp
  simp only [writeCheck_of_canGive hg, hty, hq, srcFault_canLanes hx, dstFault_of_canPut hd, Option.orElse, takeLanes_canLanes hx]
  unfold State.regsAt at hkept hd hg ⊢
  rw [handOver_canGive (by rw [length_narrowed, hkept]; exact canGive_tookLanes hx hg)]
  refine ⟨_, ⟨?_, ?_⟩, rfl⟩
  · rw [State.raise_body, State.modRegs_body]
    simp only [length_narrowed, hkept, sReg_setS]
  · rw [posOf_raise, posOf_modRegs, posOf_gaveElems, posOf_eq, tookLanes_stream_ne (ne_of_canLanes hx (four_le_of_canGive hg)), length_narrowed, hkept,
      posOf_eq]

theorem vexpandOp_ok {f : Fill} {v : VReg} (htake : canTake s t q.val (predCount (pReg (s.regsAt t) p.val)) = true)
    (hty : laneOf (streamFmt (s.tile t) q.val) = some ty) :
    vexpandOp q.val p f v s t = .ok
      (let fill (k : Nat) : Word := match f with
        | .v r => vLane (s.regsAt t) r.val k
        | .zero => 0
        | .zeroCode => widen (streamFmt (s.tile t) q.val) ty { code := padCode (streamOf (s.body t) q.val).desc, scale := 127 }
       (tookElems s t q.val (predCount (pReg (s.regsAt t) p.val))).modRegs t fun r =>
        setV r v.val (expandLanes (pReg (s.regsAt t) p.val) fill 128
          ((nextElems s t q.val (predCount (pReg (s.regsAt t) p.val))).map (widen (streamFmt (s.tile t) q.val) ty)))) := by
  unfold vexpandOp
  simp only [readCheck_of_canTake htake, hty]
  rw [show (s.tile t).before.regs = s.regsAt t from rfl, takeElems_canTake htake] <;> rfl

theorem vtscaleOp_ok {sr : SReg} {int4 : Bool} (h : sr.val < 31) :
    vtscaleOp sr int4 s t = .ok
      (let r := tokenScale int4 ((sReg (s.regsAt t) sr.val).setWidth 32)
       (s.modRegs t fun g => setS (setS g sr.val (r.1.setWidth 64)) (sr.val + 1) (r.2.1.setWidth 64)).raise t r.2.2) := by
  rw [vtscaleOp, if_neg (by omega)]

end

end Sys2Proof.Machine
end

section
/-! PROOFS. Short and long vector operations (11 R252). -/
namespace Sys2Proof.Machine

section
variable {s : State} {t m : Nat} {x y dst : VSel} {ch : Fin 16} {c : Chain} {n : SReg}

/-! ## Operations of one vector -/

theorem vchain_short (hm : 0 < countAt s t n) (hm' : countAt s t n ≤ 128) (hc : checkChain (chainOf (s.tile t) ch.val) = some c)
    (hx : canLanes s t x c.inTy (countAt s t n) = true) (hy : canLanes s t y c.inTy (countAt s t n) = true)
    (hd : canPut s t dst c.outTy (countAt s t n) = true) :
    vecIssue (.chain ch x y dst) n s t = .ok ((chainDone s t x y dst c (countAt s t n)).modRegs t fun g =>
      setPreds g (chainAt s t x y c (countAt s t n)).2.2) := by
  rw [vecIssue_short hm']
  simp only [upBegin, vecStep, chainStep_ok hc hx hy hd hm hm', decide_true, landPreds, if_true]

theorem vchain_begins (hm : 128 < countAt s t n) (hmax : countAt s t n ≤ 16777215) (hslots : (s.tile t).slots = [.v])
    (hc : checkChain (chainOf (s.tile t) ch.val) = some c) (hx : canLanes s t x c.inTy 128 = true) (hy : canLanes s t y c.inTy 128 = true)
    (hd : canPut s t dst c.outTy 128 = true) :
    vecIssue (.chain ch x y dst) n s t = .ok (s.modBody t fun b =>
      { b with longOp := some { op := .chain ch x y dst, n, total := countAt s t n, done := 0, bundle := b.cur, preds := [], regs := s.regsAt t
                                block := some [] } }) :=
  vecIssue_long hm hmax hslots (chainStep_ok (m := 128) hc hx hy hd (by decide) (Nat.le_refl _))

theorem upBegin_fresh {fy fx : Fin 8} {dm : SReg} {k : Nat}
    (h : (planeOf (sReg (s.regsAt t) dm.val)).1 * (fy.val + 1) * ((planeOf (sReg (s.regsAt t) dm.val)).2 * (fx.val + 1)) = k) (qi qo : QReg) (ty : LaneTy) :
    upBegin s t (.upn qi qo fy fx dm ty) k = s.modBody t (fun b => { b with upHist := [] }) ∧
    upBegin s t (.upb qi qo fy fx dm ty) k = s.modBody t fun b => { b with upHist := [] } := by
  simp only [upBegin, h, beq_self_eq_true, if_true, and_self]

/-- Where a plane is whole in one vector the operation takes its elements and hands over its outputs. -/
theorem upStep_fresh {qi qo : QReg} {fy fx : Nat} {dm : SReg} {ty : LaneTy} {lin : Bool} (hty : ty ≠ .complex) (hm : 0 < m)
    (hall : (planeOf (sReg (s.regsAt t) dm.val)).1 * fy * ((planeOf (sReg (s.regsAt t) dm.val)).2 * fx) = m)
    (hx : canLanes s t (.q qi) ty ((planeOf (sReg (s.regsAt t) dm.val)).1 * (planeOf (sReg (s.regsAt t) dm.val)).2) = true)
    (hd : canPut s t (.q qo) ty m = true) :
    ∃ s1, (posOf s1 t qi.val = posOf s t qi.val + (planeOf (sReg (s.regsAt t) dm.val)).1 * (planeOf (sReg (s.regsAt t) dm.val)).2 ∧
        posOf s1 t qo.val = posOf s t qo.val + m) ∧
      upStep (s.modBody t fun b => { b with upHist := [] }) t lin qi.val qo.val fy fx dm ty m m = .ok s1 := by
  have hstream (k : Nat) : (s.modBody t fun b => { b with upHist := [] }).stream t k = s.stream t k := by rw [State.stream, State.modBody_body]; rfl
  have hpos (k : Nat) : posOf s t k = posOf (s.modBody t fun b => { b with upHist := [] }) t k := by rw [posOf_eq, posOf_eq, hstream]
  rw [hpos, hpos]
  refine upStep_ok (by rw [State.modBody_regsAt]) hty hm hall ?_ ?_ (by rw [State.modBody_body])
  · rw [canLanes_congr (hstream _) (by rw [State.modBody_body]), hx]
  · rw [canPut_congr (hstream _), hd]

/-! ## Long operations -/

/-- The bundle of a long operation ends only with its last vector. -/
theorem exec_longOpVectorComplete (tile : TileId) (s : State) : exec (.longOpVectorComplete tile) s = .next (longStep tile.val s) := rfl

/-- A vector of a long operation done: its count register and its progress, nothing else beside what the vector did. -/
def vectorEnded (s1 : State) (t : Nat) (o : LongOp) (m : Nat) (block : List Byte) : State :=
  ((s1.modBody t fun b =>
    { b with regs := setS b.regs o.n.val (BitVec.ofNat 64 (o.total - o.done - m)),
             longOp := if o.total - o.done - m = 0 then none else b.longOp.map fun l =>
               { l with done := o.done + m, block := some (o.block.getD block) } }).modTile t fun x => { x with hold := none }).closeBundle t

@[simp] theorem vecPer_againAt (o : LongOp) (x : Tile) (op : VecOp) : vecPer (againAt o x) op = vecPer x op := by
  unfold againAt
  split <;> rfl

theorem longStep_vector {o : LongOp} {s1 : State} (ho : (s.tile t).body.longOp = some o) (hr : (s.tile t).state = .running)
    (hm : m = min (o.total - o.done) (vecPer (s.tile t) o.op))
    (hv : vecStep (s.setTile t (againAt o (s.tile t))) t o.op o.done m (o.total - o.done) o.total o.block = .ok s1) :
    longStep t s = vectorEnded s1 t o m (opBlock ((s.setTile t (againAt o (s.tile t))).tile t) t o.op o.total) := by
  subst hm
  unfold longStep
  simp only [ho, hr, ne_eq, not_true_eq_false, if_false, hv]
  rfl

theorem vectorEnded_body {s1 : State} {o : LongOp} {block : List Byte} :
    sReg ((vectorEnded s1 t o m block).body t).regs o.n.val = BitVec.ofNat 64 (o.total - o.done - m) ∧
    ((vectorEnded s1 t o m block).tile t).slots = [] ∧
    ((s1.body t).longOp ≠ none → (((vectorEnded s1 t o m block).body t).longOp = none ↔ o.total - o.done - m = 0)) := by
  have hbody : (vectorEnded s1 t o m block).body t =
      { s1.body t with regs := setS (s1.body t).regs o.n.val (BitVec.ofNat 64 (o.total - o.done - m)),
                       longOp := if o.total - o.done - m = 0 then none else (s1.body t).longOp.map fun l =>
                         { l with done := o.done + m, block := some (o.block.getD block) } } := by
    simp [vectorEnded, State.closeBundle, State.body, State.modBody]
  refine ⟨by rw [hbody, sReg_setS], by simp [vectorEnded, State.closeBundle], fun hsome => ?_⟩
  rw [hbody]
  dsimp only
  split
  · next hz => simp [hz]
  · next hz => simp [hz, hsome]

/-- No vector of a chain ends the operation by itself. -/
theorem chainDone_longOp : ((chainDone s t x y dst c m).body t).longOp = (s.body t).longOp := by
  have hboth : ((tookBoth s t x y m).body t).longOp = (s.body t).longOp := by
    obtain ⟨st, hone⟩ := tookLanes_body (s := s) (t := t) (x := x) (m := m)
    obtain ⟨st', htwo⟩ := tookLanes_body (s := tookLanes s t x m) (t := t) (x := y) (m := m)
    unfold tookBoth
    split
    · split
      · rw [hone]
      · rw [htwo, hone]
    · rw [htwo, hone]
  obtain ⟨g, st, a, b, e, hput⟩ := putTo_body (s := tookBoth s t x y m) (t := t) (ty := c.outTy) (dst := dst) (ws := (chainAt s t x y c m).1)
  rw [chainDone, State.raise_body, hput]
  exact hboth

theorem landPreds_longOp {last : Bool} {ps : List (Nat × BitVec 128)} (h : (s.body t).longOp ≠ none) : ((landPreds s t last ps).body t).longOp ≠ none := by
  unfold landPreds
  split
  · rwa [State.modRegs_body]
  · rw [State.modBody_body]
    simpa using h

theorem vchain_next {o : LongOp} (ho : (s.tile t).body.longOp = some o) (hr : (s.tile t).state = .running) (hop : o.op = .chain ch x y dst)
    (hleft : o.done < o.total) (hc : checkChain (chainOf ((s.setTile t (againAt o (s.tile t))).tile t) ch.val) = some c)
    (hm : m = min (o.total - o.done) 128)
    (hx : canLanes (s.setTile t (againAt o (s.tile t))) t x c.inTy m = true) (hy : canLanes (s.setTile t (againAt o (s.tile t))) t y c.inTy m = true)
    (hd : canPut (s.setTile t (againAt o (s.tile t))) t dst c.outTy m = true) :
    sReg ((longStep t s).body t).regs o.n.val = BitVec.ofNat 64 (o.total - o.done - m) ∧
    (((longStep t s).body t).longOp = none ↔ o.total ≤ o.done + 128) ∧ ((longStep t s).tile t).slots = [] := by
  have hstep := chainStep_ok (last := decide (o.total - o.done = m)) hc hx hy hd (by omega) (by omega)
  have hper : vecPer (s.tile t) o.op = 128 := by rw [hop]; rfl
  have hlong := longStep_vector ho hr (m := m) (by rw [hper, hm]) (by rw [hop]; exact hstep)
  have hu : ((s.setTile t (againAt o (s.tile t))).body t).longOp = some o := by
    rw [State.body, State.setTile_tile, againAt]
    split <;> exact ho
  rw [hlong]
  obtain ⟨hcount, hslots, hover⟩ := vectorEnded_body (t := t) (m := m) (o := o)
    (s1 := landPreds (chainDone (s.setTile t (againAt o (s.tile t))) t x y dst c m) t (decide (o.total - o.done = m))
      (chainAt (s.setTile t (againAt o (s.tile t))) t x y c m).2.2)
    (block := opBlock ((s.setTile t (againAt o (s.tile t))).tile t) t o.op o.total)
  refine ⟨hcount, ?_, hslots⟩
  rw [hover (landPreds_longOp (by rw [chainDone_longOp, hu]; exact Option.some_ne_none _))]
  omega

end

/-- Settles O9: each operation by the rule for one vector of it; the long ones by `longStep_vector`. -/
theorem vectorOps : Obligations.VectorOps := by
  refine ⟨⟨?_, ?_, ?_, ?_, ?_, ?_, ?_, ?_, ?_, ?_, ?_, ?_, ?_, ?_, ?_, ?_, ?_, ?_, ?_, ?_⟩, ⟨?_, ?_⟩, ?_⟩
  · exact fun i ch x y dst n => runs_of_op (exec_vchain i ch x y dst n)
  · exact fun i o ty sr x p n => runs_of_op (exec_vred i o ty sr x p n)
  · exact fun i x q sr n a st => runs_of_op (exec_quant i x q sr n a st)
  · exact fun i x q n st => runs_of_op (exec_mxquant i x q n st)
  · exact fun i x q a sr n => runs_of_op (exec_requant i x q a sr n)
  · exact fun i qi qo fy fx dm n ty => runs_of_op (exec_vupn i qi qo fy fx dm n ty)
  · exact fun i qi qo fy fx dm n ty => runs_of_op (exec_vupb i qi qo fy fx dm n ty)
  · exact fun i x p q d => runs_of_op (exec_vcompress i x p q d)
  · exact fun i q p f v => runs_of_op (exec_vexpand i q p f v)
  · exact fun i ch x y dst n c => completes_of_op (exec_vchain i ch x y dst n) fun u ⟨hm, hm', hc, hx, hy, hd⟩ => vchain_short hm hm' hc hx hy hd
  · exact fun i ch x y dst n c => completes_of_op (exec_vchain i ch x y dst n) fun u ⟨hm, hmax, hslots, hc, hx, hy, hd⟩ =>
      vchain_begins hm hmax hslots hc hx hy hd
  · exact fun i o ty sr x p n hty => completes_of_op (exec_vred i o ty sr x p n) fun u ⟨hm, hm', hx⟩ =>
      (vecIssue_short hm').trans (redStep_ok hty hm hx)
  · refine fun i x q sr n a st => achieves_of_op (exec_quant i x q sr n a st) fun u ⟨hm, hm', hx, hg, hf, hs, ha⟩ => ?_
    rw [vecIssue_short hm']
    exact quantStep_ok hm hm' hx hg hf hs ha
  · refine fun i x q n st => achieves_of_op (exec_mxquant i x q n st) fun u ⟨hm, hm', hx, hg, hf⟩ => ?_
    rw [vecIssue_short hm']
    exact mxStep_ok hm hm' hx hg hf
  · refine fun i x q a sr n r hsr => achieves_of_op (exec_requant i x q a sr n) fun u ⟨hm, hm', hx, hd, hpeek, hr, hout⟩ => ?_
    rw [vecIssue_short hm']
    exact requantStep_ok hm (Nat.le_trans hm' (vecPer_le _ _)) hsr hx hd hpeek hr hout
  · refine fun i qi qo fy fx dm n ty hty => ⟨achieves_of_op (exec_vupn i qi qo fy fx dm n ty) fun u ⟨hm, hm', hall, hx, hd⟩ => ?_,
      achieves_of_op (exec_vupb i qi qo fy fx dm n ty) fun u ⟨hm, hm', hall, hx, hd⟩ => ?_⟩
    · rw [vecIssue_short hm', (upBegin_fresh hall qi qo ty).1]
      exact upStep_fresh hty hm hall hx hd
    · rw [vecIssue_short hm', (upBegin_fresh hall qi qo ty).2]
      exact upStep_fresh hty hm hall hx hd
  · exact fun i x p q d ty => achieves_of_op (exec_vcompress i x p q d) fun u ⟨hty, hx, hd⟩ => vcompressOp_ok hty hx hd
  · exact fun i q p f v ty => completes_of_op (exec_vexpand i q p f v) fun u ⟨htake, hty⟩ => vexpandOp_ok htake hty
  · exact fun i v sr => writes_of_op (exec_vrng i v sr) fun u => rfl
  · exact fun i sr int4 hsr => writes_of_op (exec_vtscale i sr int4) fun u => vtscaleOp_ok hsr
  · intro s tile o s1 t u n m ho hr hv
    have hper : vecPer (u.tile t) o.op = vecPer (s.tile t) o.op := by simp [u]
    rw [exec_longOpVectorComplete, longStep_vector ho hr (m := m) (by simp only [m, n, hper]) hv]
    rfl
  · intro s tile o ch x y dst c t u m ho hr hop hleft hc hx hy hd
    exact ⟨_, exec_longOpVectorComplete tile s, vchain_next ho hr hop hleft hc rfl hx hy hd⟩
  · intro s i op n hi u t cnt
    have hcnt : countAt u t n = cnt := rfl
    refine ⟨fun h => ?_, fun hmax h hslots => ?_⟩
    · exact runOp_fault hi (vecIssue_count h) (by decide)
    · exact runOp_fault hi (vecIssue_beside h hmax hslots) (by decide)

end Sys2Proof.Machine
end

section
/-! PROOFS. Row engine operations (06 R144–R163, 11 R256). -/
namespace Sys2Proof.Machine

/-! ## The commands as operations -/

theorem exec_mclr (i : Issue) (e : Fin 8) (ty : AccTy) (s : State) : exec (.mclr i e ty) s = .next (runOp s i .m (mclrOp e.val ty)) := rfl

theorem exec_mmac (i : Issue) (e : Fin 8) (b : Fin 2) (fa fw : Fmt) (q : QReg) (cj half : Bool) (s : State) :
    exec (.mmac i e b fa fw q cj half) s = .next (runOp s i .m (mmacOp e.val b.val fa fw q.val cj half)) := rfl

theorem exec_mout (i : Issue) (e : Fin 8) (m : OutPath) (q : QReg) (a : AReg) (sr : SReg) (s : State) :
    exec (.mout i e m q a sr) s = .next (runOp s i .m (moutOp e.val m q.val a.val sr.val)) := rfl

theorem exec_mwld (i : Issue) (b : Fin 2) (q : QReg) (s : State) : exec (.mwld i b q) s = .next (runOp s i .s (weightLoad b.val q.val false)) := rfl

theorem exec_mwldt (i : Issue) (b : Fin 2) (q : QReg) (s : State) : exec (.mwldt i b q) s = .next (runOp s i .s (weightLoad b.val q.val true)) := rfl

theorem exec_weightLoadComplete (tile : TileId) (b : Fin 2) (s : State) :
    exec (.weightLoadComplete tile b) s = .next (weightLoadEnd tile.val b.val s) := rfl

/-! ## MMAC -/

section
variable {s : State} {t : Nat}

theorem mmacOp_ok {e b q : Nat} {fa fw : Fmt} {cj half : Bool} {p : PairInfo} (hp : pairInfo fa fw = some p) (hhalf : half = true → p.halves = true)
    (heven : p.ty = .complex → e % 2 = 0) (htake : canTake s t q (128 * p.groups) = true) (hfmt : streamFmt (s.tile t) q = fa)
    (hload : ((s.tile t).before.wbufs.get WBuf.init b).loading = none)
    (hw : ((s.tile t).before.wbufs.get WBuf.init b).elems = [] ∨ ((s.tile t).before.wbufs.get WBuf.init b).fmt = fw)
    (hty : tyOf (s.body t) e = p.ty) (hk : kgroupsOf (s.body t) e + p.groups ≤ 16777215) :
    mmacOp e b fa fw q cj half s t = .ok
      (let u1 := tookElems s t q (128 * p.groups)
       let acts (g : Nat) : List (List Elem) := (upTo 4).map fun r => ((nextElems s t q (128 * p.groups)).drop (r * (32 * p.groups) + 32 * g)).take 32
       let w := (s.tile t).before.wbufs.get WBuf.init b
       let r0 := groupStep fa fw p.ty cj e (acts 0) w (if half then 32 else 0) (u1.body t, .none)
       let r := if p.groups = 2 then groupStep fa fw p.ty cj e (acts 1) w 32 r0 else r0
       (u1.modBody t fun _ => { r.1 with kgroups := r.1.kgroups.set 0 e (kgroupsOf r.1 e + p.groups) }).raise t r.2) := by
  have hty' : tyOf (s.tile t).body e = p.ty := hty
  have hk' : kgroupsOf (s.tile t).body e + p.groups ≤ 16777215 := hk
  unfold mmacOp
  simp only [readCheck_of_canTake htake, hp]
  rw [if_neg (by simpa using hhalf), if_neg (by rintro ⟨hc, ho⟩; have := heven hc; omega), if_neg (not_not_intro hfmt), if_neg (by simp [hload]),
    if_neg (by rcases hw with h | h <;> simp [h]), if_neg (not_not_intro hty'), if_neg (by omega), takeElems_canTake htake]

/-! ## MOUT -/

/-- The state after an MOUT's elements went to a stream: one MOUT more is counted. -/
def moutGave (s : State) (t q : Nat) (es : List Elem) : State :=
  s.modBody t fun b =>
    let st := (s.body t).streams.get StreamSt.init q
    let no := (s.body t).mouts + 1
    let st1 := if st.desc.compress then unitRun st.desc no es st
      else { st with pos := st.pos + es.length
                     pend := st.pend ++ (es.zipIdx.flatMap fun p => elemWrites s t st.desc no (st.pos + p.2) p.1) }
    { b with streams := b.streams.set StreamSt.init q st1, mouts := b.mouts + 1 }

theorem moutGave_body {q : Nat} {es : List Elem} : posOf (moutGave s t q es) t q = posOf s t q + es.length ∧
    ((moutGave s t q es).body t).acc = (s.body t).acc ∧ ((moutGave s t q es).body t).accTy = (s.body t).accTy := by
  unfold moutGave
  rw [posOf, State.modBody_body]
  refine ⟨?_, rfl, rfl⟩
  dsimp only
  rw [Table.get_set]
  split
  · exact pos_unitRun ..
  · rfl

/-- Room for elements takes an MOUT's as well. -/
theorem handOver_mout {q : Nat} {es : List Elem} {c : Half} {k : State → OpRes} (h : canGive s t q es.length = true) (hes : es ≠ []) :
    handOver s t q es c true k = k (moutGave s t q es) := by
  unfold canGive at h
  simp only [Bool.and_eq_true, Bool.or_eq_true, decide_eq_true_eq, beq_iff_eq, List.length_eq_zero_iff] at h
  obtain ⟨⟨h4, hvalid⟩, h⟩ := h
  obtain ⟨hlen, hpend⟩ := h.resolve_left hes
  unfold handOver
  dsimp only
  rw [if_neg (by omega), if_neg (by simp [hvalid]), if_neg (by simpa using hes), if_neg (by omega), if_neg (by omega)]
  rfl

@[simp] theorem length_storedAs (x : Tile) (q : Nat) (f : Fmt) (es : List Elem) : (storedAs x q f es).length = es.length := by
  unfold storedAs
  dsimp only
  split
  · rfl
  · exact List.length_map ..

theorem length_flatMap_of_length {α β : Type} {n : Nat} {f : α → List β} {l : List α} (h : ∀ x ∈ l, (f x).length = n) :
    (l.flatMap f).length = l.length * n := by
  rw [List.length_flatMap, List.map_congr_left h, List.map_const', List.sum_replicate_nat]

theorem length_rawElems (b : TileBody) (e : Nat) : (rawElems b e).length = if tyOf b e = .complex then 512 else 256 := by
  unfold rawElems
  dsimp only
  cases tyOf b e with
  | complex => rw [length_flatMap_of_length (n := 2) fun _ _ => rfl, upTo, List.length_range, if_pos rfl]
  | _ => rw [length_flatMap_of_length (n := 1) fun _ _ => rfl, upTo, List.length_range, if_neg (by decide)]

theorem length_convertedElems (f : Fmt) (zs : List Word) (h : zs.length = 256) : (convertedElems f zs).1.length = 256 := by
  unfold convertedElems
  split
  · have hblock : ∀ k ∈ upTo 8, (mxQuantise f (((zs.drop (32 * k)).take 32).map val32)).1.length = 32 := by
      intro k hk
      have hk : k < 8 := by simpa [upTo] using hk
      rw [length_mxQuantise, List.length_map, List.length_take, List.length_drop, h]
      omega
    dsimp only
    rw [List.flatMap_map, length_flatMap_of_length hblock]
    rfl
  · simp [h]

/-- The elements that an MOUT of an entry hands over. -/
def moutCount (b : TileBody) (e : Nat) : Nat := if tyOf b e = .complex then 512 else 256

/-- What an MOUT leaves: its stream moved on, the accumulators as they were. -/
def MoutDone (s : State) (t q n : Nat) (s1 : State) : Prop :=
  posOf s1 t q = posOf s t q + n ∧ (s1.body t).acc = (s.body t).acc ∧ (s1.body t).accTy = (s.body t).accTy

theorem MoutDone.raise {q n : Nat} {s1 : State} {fl : Raised} (h : MoutDone s t q n s1) : MoutDone s t q n (s1.raise t fl) := by
  simpa [MoutDone] using h

theorem MoutDone.addStats {q n k : Nat} {s1 : State} {items : List (Option (FVal × FVal))} (h : MoutDone s t q n s1) :
    MoutDone s t q n (s1.addStats t k items) := by
  obtain ⟨st, hst⟩ := State.addStats_body (s := s1) (t := t) (slot := k) (items := items)
  unfold MoutDone posOf at h ⊢
  rw [hst]
  exact h

theorem moutDone_gave {q n : Nat} {es : List Elem} (hes : es.length = n) : MoutDone s t q n (moutGave s t q es) := by
  subst hes
  exact moutGave_body

/-- What an MOUT of a path other than raw asks of its block. -/
def BlockReady (s : State) (t e : Nat) (m : OutPath) (a : AReg) (r : Rqb) : Prop :=
  canPeek s t (offAt s t a) 1024 = true ∧ parseRqb (peeked s t (offAt s t a) 1024) = some r ∧ rqbFault (s.body t) e m r = none

theorem moutOp_ok {e : Nat} {m : OutPath} {q : Nat} {a : AReg} {sr : Nat} {r : Rqb} (hpoison : poisoned (s.body t) e = false)
    (hused : tyOf (s.body t) e ≠ .unused) (hpair : tyOf (s.body t) e = .complex → e % 2 = 0 ∧ poisoned (s.body t) (e + 1) = false)
    (hg : canGive s t q (moutCount (s.body t) e) = true) (hint : m = .requantised → tyOf (s.body t) e = .int48)
    (hreal : m = .converted → tyOf (s.body t) e ≠ .complex) (hblock : m ≠ .raw → BlockReady s t e m a r) :
    ∃ s1, MoutDone s t q (moutCount (s.body t) e) s1 ∧ moutOp e m q a.val sr s t = .ok s1 := by
  have hout (es : List Elem) (hes : es.length = moutCount (s.body t) e) (c : Half) (k : State → OpRes) :
      handOver s t q es c true k = k (moutGave s t q es) := by
    refine handOver_mout (by rw [hes, hg]) fun h => ?_
    rw [h, moutCount] at hes
    split at hes <;> cases hes
  unfold State.body at *
  unfold moutOp
  extract_lets -lift +onlyGivenNames x b
  rw [show writeCheck x q = none from writeCheck_of_canGive hg]
  dsimp -zeta only
  rw [if_neg (by rintro ⟨hc, ho⟩; have := (hpair hc).1; omega),
    if_neg (not_or.2 ⟨by simp [b, x, hpoison], fun ⟨hc, h⟩ => absurd h (by simp [b, x, (hpair hc).2])⟩),
    if_neg (not_or.2 ⟨hused, not_or.2 ⟨fun ⟨hm, h⟩ => h (hint hm), fun ⟨hm, h⟩ => hreal hm h⟩⟩)]
  extract_lets -lift +onlyGivenNames out
  cases m with
  | raw =>
    dsimp only [out]
    rw [hout _ (by rw [length_storedAs, length_rawElems]; rfl)]
    exact ⟨_, moutDone_gave (by rw [length_storedAs, length_rawElems]; rfl), rfl⟩
  | requantised =>
    obtain ⟨hpeek, hparse, hfault⟩ := hblock (by decide)
    have hcount : moutCount b e = 256 := if_neg (by rw [hint rfl]; decide)
    dsimp only [out]
    rw [show windowOff t (aReg x.before.regs a.val).toNat = offAt s t a from rfl, peek_canPeek hpeek]
    simp only [hparse, show rqbFault b e .requantised r = none from hfault, if_true]
    rw [hout _ (by rw [length_storedAs, List.length_map, List.length_map, upTo, List.length_range, ← hcount])]
    exact ⟨_, (moutDone_gave (by rw [length_storedAs, List.length_map, List.length_map, upTo, List.length_range, ← hcount])).raise, rfl⟩
  | converted =>
    obtain ⟨hpeek, hparse, hfault⟩ := hblock (by decide)
    have hcount : moutCount b e = 256 := if_neg (hreal rfl)
    dsimp only [out]
    rw [show windowOff t (aReg x.before.regs a.val).toNat = offAt s t a from rfl, peek_canPeek hpeek]
    simp only [hparse, show rqbFault b e .converted r = none from hfault]
    have hlen (zs : List Word) (hz : zs.length = 256) : (storedAs x q r.out (convertedElems r.out zs).1).length = moutCount b e := by
      rw [length_storedAs, length_convertedElems _ _ hz, hcount]
    rw [if_neg (by decide)]
    generalize hzs : (upTo 256).map _ = zs
    have hz : zs.length = 256 := by rw [← hzs, List.length_map, upTo, List.length_range]
    rw [hout _ (hlen _ hz)]
    refine ⟨_, MoutDone.raise ?_, rfl⟩
    split
    · exact (moutDone_gave (hlen _ hz)).addStats.addStats
    · exact moutDone_gave (hlen _ hz)

/-! ## Weight loads -/

theorem weightLoad_ok {b q : Nat} {tr : Bool} (hq : q < 4) (hvalid : (streamOf (s.body t) q).valid = true)
    (hfmt : weightFmt (deliveredFmt (streamOf (s.body t) q).desc) = true)
    (htr : tr = true → deliveredFmt (streamOf (s.body t) q).desc ≠ .int4 ∧ isMx (deliveredFmt (streamOf (s.body t) q).desc) = false)
    (hfits : loadFits (streamOf (s.body t) q).desc (streamOf (s.body t) q).pos (64 * weightsPerLane (deliveredFmt (streamOf (s.body t) q).desc)) tr = true)
    (hcrest : ∀ c, (streamOf (s.body t) q).crest = some c →
      min ((streamOf (s.body t) q).pos + 64 * weightsPerLane (deliveredFmt (streamOf (s.body t) q).desc)) (streamOf (s.body t) q).desc.length ≤ c)
    (hbuf : ((s.body t).wbufs.get WBuf.init b).loading = none) (hload : loadingFrom (s.body t) q = false) :
    weightLoad b q tr s t = .ok (s.modBody t fun y => { y with
      wbufs := y.wbufs.set WBuf.init b { (y.wbufs.get WBuf.init b) with loading := some (q, deliveredFmt (streamOf (s.body t) q).desc, tr) } }) := by
  unfold streamOf State.body at *
  have hread : readCheck (s.tile t) q = none := by
    unfold readCheck
    rw [if_neg (by omega), if_neg (by simpa using hvalid)]
  unfold weightLoad
  simp only [hread, hfmt, hfits, Bool.not_true, Bool.false_or, Bool.false_eq_true, if_false]
  rw [if_neg (by simpa using htr), if_neg, if_neg (by simp [hbuf]), if_neg (by simp [hload])]
  split
  · next c hc =>
    have := hcrest c hc
    simp only [decide_eq_true_eq]
    omega
  · exact Bool.false_ne_true

theorem weightLoadEnd_done {b q : Nat} {f : Fmt} {tr : Bool} (hload : ((s.tile t).body.wbufs.get WBuf.init b).loading = some (q, f, tr))
    (hr : (s.tile t).state = .running)
    (hbuf : min (64 * weightsPerLane f) (((s.tile t).body.streams.get StreamSt.init q).desc.length - ((s.tile t).body.streams.get StreamSt.init q).pos) ≤
      ((s.tile t).body.streams.get StreamSt.init q).buf.length)
    (hgood : (((s.tile t).body.streams.get StreamSt.init q).buf.take (min (64 * weightsPerLane f)
      (((s.tile t).body.streams.get StreamSt.init q).desc.length - ((s.tile t).body.streams.get StreamSt.init q).pos))).any (·.bad) = false) :
    weightLoadEnd t b s = s.setTile t { s.tile t with body := weightsArrive (s.tile t) b q f tr } := by
  unfold weightLoadEnd
  simp only [hload]
  rw [if_neg (by simp only [hr, ne_eq, not_true_eq_false, false_or]; omega), if_neg (by simp [hgood])]

end

end Sys2Proof.Machine
end

section
/-! PROOFS. Levels of collectives (11 R257): what a rank without a partner, one that sends and one that receives do. -/
namespace Sys2Proof.Machine

theorem exec_xred (i : Issue) (a : AReg) (l : Fin 16) (s : State) : exec (.xred i a l) s = .next (runOp s i .c (levelOp false a l.val)) := rfl
theorem exec_xbc (i : Issue) (a : AReg) (l : Fin 16) (s : State) : exec (.xbc i a l) s = .next (runOp s i .c (levelOp true a l.val)) := rfl

theorem exec_level (bc : Bool) (i : Issue) (a : AReg) (l : Fin 16) (s : State) :
    exec (if bc then .xbc i a l else .xred i a l) s = .next (runOp s i .c (levelOp bc a l.val)) := by
  cases bc
  · exact exec_xred i a l s
  · exact exec_xbc i a l s

section
variable {s : State} {t l : Nat} {a : AReg} {ref : TaskRef} {d : RedDesc}

/-- A rank that has the descriptor of its group's collective. -/
def LevelReady (s : State) (t : Nat) (a : AReg) (ref : TaskRef) (d : RedDesc) : Prop :=
  (s.tile t).grouped = true ∧ canPeek s t (offAt s t a) 64 = true ∧ (s.tile t).ref = some ref ∧
    parseRed (peeked s t (offAt s t a) 64) (((s.taskSt ref t).map fun k => k.desc.group).getD 0) = .inl d

/-- The lower and the upper rank of a pair of level `l`. -/
abbrev lowerRank (x : Tile) (l : Nat) : Prop := x.rank % (2 * 2 ^ l) = 0 ∧ x.rank + 2 ^ l < x.groupSize
abbrev upperRank (x : Tile) (l : Nat) : Prop := x.rank % (2 * 2 ^ l) = 2 ^ l

theorem not_lower_of_upper {x : Tile} (h : upperRank x l) : ¬ lowerRank x l := by
  rintro ⟨h0, -⟩
  have := Nat.two_pow_pos l
  unfold upperRank at h
  omega

theorem levelOp_ready {bc : Bool} (h : LevelReady s t a ref d) : levelOp bc a l s t =
    (if bc then
      (if lowerRank (s.tile t) l then s.redSend t d l ((s.tile t).rank + 2 ^ l) d.dst ref
       else if upperRank (s.tile t) l then s.redReceive t d l true ref else .ok s)
     else
      (if upperRank (s.tile t) l then s.redSend t d l ((s.tile t).rank - 2 ^ l) d.src ref
       else if lowerRank (s.tile t) l then s.redReceive t d l false ref else .ok s)) := by
  obtain ⟨hgroup, hpeek, href, hparse⟩ := h
  unfold levelOp lowerRank upperRank
  dsimp only
  rw [hgroup, show windowOff t (aReg (s.tile t).before.regs a.val).toNat = offAt s t a from rfl]
  simp only [Bool.not_true, Bool.false_eq_true, if_false, peek_canPeek hpeek, href, hparse]

/-! ## A rank with no partner -/

theorem levelOp_alone {bc : Bool} (h : LevelReady s t a ref d) (hl : ¬ lowerRank (s.tile t) l) (hu : ¬ upperRank (s.tile t) l) :
    levelOp bc a l s t = .ok s := by
  rw [levelOp_ready h]
  cases bc
  · simp only [Bool.false_eq_true, if_false, if_neg hl, if_neg hu]
  · simp only [if_true, if_neg hl, if_neg hu]

/-! ## A rank that sends -/

@[simp] theorem State.extWrite_sched (s : State) (a : Nat) (bs : List Byte) : (s.extWrite a bs).sched = s.sched :=
  (Within.refl.extWrite (s := s)).same .sched (by decide)

/-- The transfer that a sender notes for a rank. -/
def transferOf (ref : TaskRef) (d : RedDesc) (rank l : Nat) : Transfer :=
  { job := (refKey ref).1, copy := (refKey ref).2, group := d.group, rank, level := l, op := d.op, ty := d.ty, count := d.count }

theorem semSignal_below {k : Nat} (h : (s.sem k).count < 65535) :
    s.semSignal k = (s.setSem k { s.sem k with count := (s.sem k).count + 1 }, false) := if_pos h

theorem semTake_above {k : Nat} (h : 0 < (s.sem k).count) : s.semTake k = some (s.setSem k { s.sem k with count := (s.sem k).count - 1 }) := if_pos h

theorem redSend_ok {peer off k : Nat} {desc : TaskDesc} (hn : 0 < d.count) (hpeek : canPeek s t (windowOff t off) (d.count * 4) = true)
    (hdesc : s.rankTask (s.tile t) peer = some desc) (hk : rankSem desc = some k) (hcount : (s.sem k).count < 65535)
    (hreach : s.taskReach (s.tile t).domain (s.tile t).job (d.recv + l * d.stride) (d.count * 4) = true)
    (hspan : s.outOfSpan (s.tile t) (d.recv + l * d.stride) = false) :
    s.redSend t d l peer off ref = .ok
      (let u1 := s.extWrite (s.twinAddr ref (d.recv + l * d.stride)) (peeked s t (windowOff t off) (d.count * 4))
       let u2 := u1.setSched { u1.sched with transfers := u1.sched.transfers ++ [transferOf ref d peer l] }
       u2.setSem k { u2.sem k with count := (s.sem k).count + 1 }) := by
  unfold State.redSend
  dsimp only
  rw [if_neg (by omega), peek_canPeek hpeek, hdesc]
  dsimp only
  rw [if_neg (by simp [hreach]), if_neg (by simp [hspan]), hk, if_neg (by omega)]
  dsimp only
  generalize hu2 : State.setSched _ _ = u2
  have hsem : u2.sem k = s.sem k := by rw [← hu2]; simp only [State.sem, State.setSched_sched, State.extWrite_sched]
  rw [semSignal_below (by rw [hsem]; exact hcount), hsem]
  simp only [Bool.false_eq_true, if_false]
  rw [← hsem]
  subst hu2
  rfl

/-! ## A rank that receives -/

/-- What a receiver of elements finds where it wants them: memory of its task, readable, and held slots to write. -/
def ElementsReady (s : State) (t l : Nat) (bc : Bool) (ref : TaskRef) (d : RedDesc) : Prop :=
  (bc = true ∨ canPeek s t (windowOff t d.src) (d.count * 4) = true) ∧ heldRange (s.tile t) (windowOff t d.dst) (d.count * 4) = true ∧
    tagWait (s.tile t) (windowOff t d.dst) (d.count * 4) false = none ∧
    s.taskReach (s.tile t).domain (s.tile t).job (d.recv + l * d.stride) (d.count * 4) = true ∧
    s.extBad (s.twinAddr ref (d.recv + l * d.stride)) (d.count * 4) = false ∧ spMergeBad (s.body t) (windowOff t d.dst) (d.count * 4) = false

/-- The receiver has taken its semaphore and its transfer. -/
def TransferTaken (s : State) (k : Nat) (tr : Transfer) (s1 : State) : Prop :=
  s1.sched.transfers = s.sched.transfers.erase tr ∧ (s1.sem k).count + 1 = (s.sem k).count

theorem transferTaken_of_sched {k : Nat} {tr : Transfer} {s1 s2 : State} (h : TransferTaken s k tr s1) (he : s2.sched = s1.sched) :
    TransferTaken s k tr s2 := by
  unfold TransferTaken State.sem at *
  rw [he]
  exact h

theorem transferTaken_of_take {k : Nat} {s1 : State} (h : s.semTake k = some s1) (tr : Transfer) :
    TransferTaken s k tr (s1.setSched { s1.sched with transfers := s1.sched.transfers.erase tr }) := by
  unfold State.semTake at h
  dsimp only at h
  split at h
  · next hpos =>
    obtain rfl := Option.some.inj h
    refine ⟨rfl, ?_⟩
    show ((s.setSem k { s.sem k with count := (s.sem k).count - 1 }).sem k).count + 1 = _
    rw [State.setSem_sem]
    dsimp only
    omega
  · cases h

theorem redReceive_ok {bc : Bool} {desc : TaskDesc} {k : Nat} {tr : Transfer} (hdesc : s.rankTask (s.tile t) (s.tile t).rank = some desc)
    (hk : rankSem desc = some k) (hfault : s.semFault (s.tile t) k = none) (hcount : 0 < (s.sem k).count)
    (htr : tr = transferOf ref d (s.tile t).rank l)
    (hfind : (s.sched.transfers.find? fun y => y.job == (refKey ref).1 && y.copy == (refKey ref).2 && y.group == d.group &&
      y.rank == (s.tile t).rank && y.level == l) = some tr)
    (hready : 0 < d.count → ElementsReady s t l bc ref d) :
    ∃ s1, TransferTaken s k tr s1 ∧ s.redReceive t d l bc ref = .ok s1 := by
  unfold transferOf at htr
  unfold State.redReceive
  extract_lets -lift +onlyGivenNames x n
  have hsem : (s.rankTask x x.rank).bind rankSem = some k := by rw [show s.rankTask x x.rank = some desc from hdesc, Option.bind_some, hk]
  split
  · next h => simp [hsem] at h
  next k' h =>
  obtain rfl : k' = k := by simpa [hsem] using h.symm
  split
  · next h => simp [x, hfault] at h
  · next h => simp [semTake_above hcount] at h
  next s1 _ htake =>
  have htaken := transferTaken_of_take htake tr
  split
  next job copy hkey =>
  rw [hkey] at htr hfind
  extract_lets -lift +onlyGivenNames mine own tr'
  have htr' : tr' = some tr := by
    have : own.find? (·.level == l) = some tr := by
      simp only [own, mine, x, List.find?_filter, Bool.decide_and, Bool.decide_eq_true]
      exact hfind
    simp only [tr', this]
    rfl
  clear_value tr'
  subst htr'
  rw [if_neg (by simp [htr])]
  generalize hs2 : s1.setSched _ = s2
  replace htaken : TransferTaken s k' tr s2 := by rw [← hs2]; exact htaken
  clear hs2
  by_cases hn : n = 0
  · rw [if_pos hn]
    exact ⟨_, htaken, rfl⟩
  · obtain ⟨hown, hheld, htag, hreach, hbad, hmerge⟩ := hready (by omega)
    rw [if_neg hn]
    extract_lets -lift +onlyGivenNames dst a
    have hheld : heldRange x dst n = true := hheld
    have htag : tagWait x dst n false = none := htag
    have hreach : s.taskReach x.domain x.job (d.recv + l * d.stride) n = true := hreach
    have hbad : s.extBad a n = false := hbad
    have hmerge : spMergeBad x.body dst n = false := hmerge
    clear_value dst a
    simp only [hheld, htag, hreach, hbad, hmerge, Bool.not_true, Bool.false_eq_true, if_false]
    cases bc with
    | true =>
      refine ⟨_, transferTaken_of_sched htaken ?_, rfl⟩
      exact (Within.refl.modBody.setTags.raise (s := s2)).same .sched (by decide)
    | false =>
      rw [if_neg Bool.false_ne_true, peek_canPeek (hown.resolve_left Bool.false_ne_true)]
      refine ⟨_, transferTaken_of_sched htaken ?_, rfl⟩
      exact (Within.refl.modBody.setTags.raise (s := s2)).same .sched (by decide)

end

/-- Settles O10: row engine operations and levels each by the rule of their operation. -/
theorem rowOps : Obligations.RowOps := by
  refine ⟨⟨?_, ?_, ?_, ?_, ?_, ?_, ?_, ?_, ?_, ?_⟩, ?_, ?_, ?_⟩
  · refine fun i e ty hused hpair => writes_of_op (exec_mclr i e ty) fun u => ?_
    cases ty with
    | unused => exact absurd rfl hused
    | complex => exact absurd rfl hpair
    | int48 => rfl
    | fp32 => rfl
  · exact fun i e heven => writes_of_op (exec_mclr i e .complex) fun u => if_neg (by omega)
  · exact fun i e b fa fw q cj half => runs_of_op (exec_mmac i e b fa fw q cj half)
  · exact fun i e m q a sr => runs_of_op (exec_mout i e m q a sr)
  · exact fun i b q => runs_of_op (exec_mwld i b q)
  · exact fun i b q => runs_of_op (exec_mwldt i b q)
  · exact fun i e b fa fw q cj half p hp hhalf heven => completes_of_op (exec_mmac i e b fa fw q cj half) fun u ⟨htake, hfmt, hload, hw, hty, hk⟩ =>
      mmacOp_ok hp hhalf heven htake hfmt hload hw hty hk
  · refine fun i e m q a sr r => achieves_of_op (exec_mout i e m q a sr) fun u ⟨hpoison, hused, hpair, hg, hpath⟩ => ?_
    refine moutOp_ok hpoison hused hpair hg ?_ ?_ ?_ (r := r)
    · rintro rfl
      exact hpath.1
    · rintro rfl
      exact hpath.1
    · intro hm
      cases m with
      | raw => exact absurd rfl hm
      | requantised => exact hpath.2
      | converted => exact hpath.2
  · intro i b q tr
    cases tr with
    | false => exact completes_of_op (exec_mwld i b q) fun u ⟨hq, hvalid, hfmt, htr, hfits, hcrest, hbuf, hload⟩ =>
        weightLoad_ok hq hvalid hfmt htr hfits hcrest hbuf hload
    | true => exact completes_of_op (exec_mwldt i b q) fun u ⟨hq, hvalid, hfmt, htr, hfits, hcrest, hbuf, hload⟩ =>
        weightLoad_ok hq hvalid hfmt htr hfits hcrest hbuf hload
  · intro s tile b q f tr x st m hload hr hbuf hgood
    rw [exec_weightLoadComplete, weightLoadEnd_done hload hr hbuf hgood]
  · exact fun i a l => runs_of_op (exec_xred i a l)
  · exact fun i a l => runs_of_op (exec_xbc i a l)
  · intro i a l bc ref d
    refine ⟨completes_of_op (exec_level bc i a l) fun u ⟨hready, hl, hu⟩ => levelOp_alone hready hl hu,
      fun desc k => completes_of_op (exec_level bc i a l) fun u ⟨hready, hrank, hn, hpeek, hdesc, hk, hcount, hreach, hspan⟩ => ?_,
      fun desc k tr => achieves_of_op (exec_level bc i a l) fun u ⟨hready, hrank, hdesc, hk, hfault, hcount, htr, hfind, helems⟩ => ?_⟩
    · rw [levelOp_ready hready]
      cases bc with
      | true => rw [if_pos rfl, if_pos (show lowerRank (u.tile i.tile.val) l.val from hrank)]; exact redSend_ok hn hpeek hdesc hk hcount hreach hspan
      | false => rw [if_neg Bool.false_ne_true, if_pos (show upperRank (u.tile i.tile.val) l.val from hrank)]; exact redSend_ok hn hpeek hdesc hk hcount hreach hspan
    · rw [levelOp_ready hready]
      cases bc with
      | true =>
        have hrank : upperRank (u.tile i.tile.val) l.val := hrank
        rw [if_pos rfl, if_neg (not_lower_of_upper hrank), if_pos hrank]
        exact redReceive_ok hdesc hk hfault hcount htr hfind helems
      | false =>
        have hrank : lowerRank (u.tile i.tile.val) l.val := hrank
        rw [if_neg Bool.false_ne_true, if_neg (fun h => not_lower_of_upper h hrank), if_pos hrank]
        exact redReceive_ok hdesc hk hfault hcount htr hfind helems

end Sys2Proof.Machine
end

section
/-! PROOFS. The integer K-group of a row engine (06 R148). -/
namespace Sys2Proof.Machine

/-- A run of values written from `B + j` on is read back; elsewhere a table is as it was. -/
theorem get_foldl_set_run {α : Type} [DecidableEq α] (d : α) (B k : Nat) (xs : List α) (j : Nat) (T : Table α) :
    ((xs.zipIdx j).foldl (fun t p => t.set d (B + p.2) p.1) T).get d (B + k) =
      if j ≤ k ∧ k < j + xs.length then xs.getD (k - j) d else T.get d (B + k) := by
  induction xs generalizing j T with
  | nil => rw [if_neg (by simp)] <;> rfl
  | cons x xs ih =>
    rw [List.zipIdx_cons, List.foldl_cons, ih, List.length_cons]
    by_cases hk : k = j
    · subst hk
      rw [if_neg (by omega), if_pos (by omega), Table.get_set, Nat.sub_self, List.getD_cons_zero]
    · rw [Table.get_set_ne (by omega)]
      by_cases hj : j + 1 ≤ k ∧ k < j + 1 + xs.length
      · rw [if_pos hj, if_pos (by omega), show k - j = (k - (j + 1)) + 1 by omega, List.getD_cons_succ]
      · rw [if_neg hj, if_neg (by omega)]

theorem accAt_setAcc {b : TileBody} {e k : Nat} {xs : List (BitVec 48)} (hk : k < xs.length) : accAt (setAcc b e xs) e k = xs.getD k 0 := by
  rw [accAt, setAcc, get_foldl_set_run, if_pos (by omega), Nat.sub_zero]

theorem satBits_48 (v : Int) : (satBits 48 v).1 = max (-(2 ^ 47)) (min (2 ^ 47 - 1) v) ∧
    ((satBits 48 v).2.q = true ↔ v < -(2 ^ 47) ∨ 2 ^ 47 - 1 < v) := by
  unfold satBits satFlag
  split
  · next h => exact ⟨by dsimp only; omega, by simp only [Raised.sat, true_iff]; exact .inl h⟩
  · next h =>
    split
    · next h' => exact ⟨by dsimp only; omega, by simp only [Raised.sat, true_iff]; exact .inr h'⟩
    · next h' => exact ⟨by dsimp only; omega, by simp only [Raised.none, Bool.false_eq_true, false_iff, not_or]; exact ⟨h, h'⟩⟩

/-- sat48 keeps the value inside 48 bits, and flags one that was outside. -/
theorem sat48_spec (v : Int) : (sat48 v).1.toInt = max (-(2 ^ 47)) (min (2 ^ 47 - 1) v) ∧
    ((sat48 v).2.acc = true ↔ v < -(2 ^ 47) ∨ 2 ^ 47 - 1 < v) := by
  obtain ⟨hval, hflag⟩ := satBits_48 v
  refine ⟨?_, hflag⟩
  rw [sat48, hval]
  exact BitVec.toInt_ofInt_eq_self (by decide) (by omega) (by omega)

/-- The flag that a run of operations sets: it was set before, or one of them sets it. -/
theorem foldl_or_acc {α : Type} (xs : List α) (fl : α → Raised) (r : Raised) :
    (xs.foldl (fun a x => a.or (fl x)) r).acc = true ↔ r.acc = true ∨ ∃ x ∈ xs, (fl x).acc = true := by
  induction xs generalizing r with
  | nil => simp
  | cons x xs ih => 
    rw [List.foldl_cons, ih, Raised.or, Bool.or_eq_true, or_assoc]
    simp only [List.mem_cons, exists_eq_or_imp]

/-- Settles O11: each lane by `sat48_spec`. -/
theorem integerKGroup : Obligations.IntegerKGroup := by
  intro b fa fw cj e acts w start br sum r
  constructor
  · intro k hk
    have hlane : accAt r.1 e k = (sat48 (sum k)).1 := by
      simp only [r, groupStep]
      rw [accAt_setAcc (by simpa [upTo] using hk)]
      simp [upTo, List.getD, hk]
      rfl
    rw [hlane, (sat48_spec _).1]
  · simp only [r, groupStep, foldl_or_acc, upTo, List.mem_map, List.mem_range]
    refine or_congr_right ⟨?_, ?_⟩
    · rintro ⟨x, ⟨k, hk, rfl⟩, hx⟩
      exact ⟨k, hk, (sat48_spec _).2.1 hx⟩
    · rintro ⟨k, hk, hx⟩
      exact ⟨_, ⟨k, hk, rfl⟩, (sat48_spec _).2.2 hx⟩

end Sys2Proof.Machine
end

section
/-! PROOFS. Streams fetch, return and land their elements (13 R290, R291). -/
namespace Sys2Proof.Machine

theorem exec_streamFetch (tile : TileId) (q : QReg) (n : Nat) (s : State) :
    exec (.streamFetch tile q n) s = .next (fetchStep tile.val q.val n s) := rfl

theorem exec_fetchReturn (tile : TileId) (q : QReg) (s : State) : exec (.fetchReturn tile q) s = .next (fetchBack tile.val q.val s) := rfl

theorem exec_streamWriteLand (tile : TileId) (q : QReg) (n : Nat) (s : State) :
    exec (.streamWriteLand tile q n) s = .next (landStep tile.val q.val n s) := rfl

section
variable {s : State} {t q n : Nat}

/-! ## Fetching -/

/-- A tile's body differs in its tags at most. -/
def TagsOnly (b b' : TileBody) : Prop := ∃ tags, b' = { b with tags := tags }

theorem TagsOnly.refl (b : TileBody) : TagsOnly b b := ⟨b.tags, rfl⟩

theorem TagsOnly.trans {b b' b'' : TileBody} (h : TagsOnly b b') (h' : TagsOnly b' b'') : TagsOnly b b'' := by
  obtain ⟨tags, rfl⟩ := h
  obtain ⟨tags', rfl⟩ := h'
  exact ⟨tags', rfl⟩

theorem TagsOnly.ite {b : TileBody} {c : Prop} [Decidable c] {u v : State} (hu : TagsOnly b (u.body t)) (hv : TagsOnly b (v.body t)) :
    TagsOnly b ((if c then u else v).body t) := by
  split
  · exact hu
  · exact hv

theorem tagsOnly_modTile {f : Tile → Tile} (hf : ∀ x, (f x).body = x.body) : TagsOnly (s.body t) ((s.modTile t f).body t) := by
  unfold State.body
  rw [State.modTile_tile, hf]
  exact .refl _

theorem tagsOnly_setTag {k : Nat × Nat} {full : Bool} : TagsOnly (s.body t) (((s.modBody k.1 fun b => setTag b k.2 full).closeBundle k.1).body t) := by
  by_cases hk : t = k.1
  · subst hk
    refine .trans ?_ (tagsOnly_modTile fun _ => rfl)
    rw [State.modBody_body]
    exact ⟨_, rfl⟩
  · have : ((s.modBody k.1 fun b => setTag b k.2 full).closeBundle k.1).body t = s.body t := by
      unfold State.body State.closeBundle State.modBody
      rw [State.modTile_tile_ne _ _ _ hk, State.modTile_tile_ne _ _ _ hk]
    rw [this]
    exact .refl _

theorem tagsOnly_setTags (slots : List (Nat × Nat)) (full : Bool) (s : State) : TagsOnly (s.body t) ((s.setTags slots full).body t) := by
  unfold State.setTags
  induction slots generalizing s with
  | nil => exact .refl _
  | cons k slots ih => exact .trans (.ite tagsOnly_setTag (.refl _)) (ih _)

/-- A run of fetches empties tags and counts errors; nothing else of a tile changes. -/
theorem tagsOnly_fetchRun (d : StreamDesc) (k : Nat) : TagsOnly (s.body t) ((s.fetchRun t d n k).st.body t) := by
  induction n generalizing s k with
  | zero => exact .refl _
  | succ n ih =>
    unfold State.fetchRun
    dsimp only
    split
    · exact .refl _
    · split
      · exact .refl _
      · exact .refl _
      · refine .trans ?_ (ih _)
        refine .trans (b' := (State.body (ite _ _ _) t)) ?_ (.ite (tagsOnly_modTile ?_) (.refl _))
        · exact .ite (tagsOnly_setTags ..) (.refl _)
        · exact fun _ => rfl

theorem fetchStep_ok (hr : (s.tile t).state = .running) (hq : q < 4) (hvalid : (streamOf (s.body t) q).valid = true)
    (hclean : (streamOf (s.body t) q).inflight.any (fun f => f.fault != 0) = false) {r : FetchRun}
    (hrun : s.fetchRun t (streamOf (s.body t) q).desc (min n (fetchRoom (s.body t) (streamOf (s.body t) q) q)) (streamOf (s.body t) q).fetched = r)
    (hsome : r.elems ≠ []) (hfault : r.fault = 0) :
    fetchStep t q n s = ((r.st.wcRun t (streamOf (s.body t) q).desc (streamOf (s.body t) q).fetched r.elems.length).modBody t fun b =>
      setStream b q { streamOf b q with
        fetched := (streamOf (s.body t) q).fetched + r.elems.length
        inflight := (streamOf (s.body t) q).inflight ++ [{ elems := r.elems, fault := 0 }] }).closeBundle t := by
  have hpos : min n (fetchRoom (s.body t) (streamOf (s.body t) q) q) ≠ 0 := by
    intro h
    rw [h] at hrun
    exact hsome (by rw [← hrun]; rfl)
  unfold State.body at *
  unfold fetchStep
  dsimp only
  rw [if_neg (by simp [hr, hvalid, hclean]; omega), if_neg hpos, hrun, hfault, if_neg (by simp [hsome])]
  rw [if_neg (by decide), if_neg (by decide)]

theorem fetchStep_spec {d : StreamDesc} {k : Nat} {r : FetchRun} {m : Nat} {g : StreamSt → StreamSt} (hrun : s.fetchRun t d m k = r) :
    ((((r.st.wcRun t d k r.elems.length).modBody t fun b => setStream b q (g (streamOf b q))).closeBundle t).body t =
      setStream ((r.st).body t) q (g (streamOf (s.body t) q))) ∧ TagsOnly (s.body t) (r.st.body t) := by
  have htags : TagsOnly (s.body t) (r.st.body t) := by rw [← hrun]; exact tagsOnly_fetchRun d k
  refine ⟨?_, htags⟩
  have hwc : (r.st.wcRun t d k r.elems.length).body t = r.st.body t := by
    have : (r.st.wcRun t d k r.elems.length).tiles = r.st.tiles := (Within.refl.wcRun (s := r.st)).same .tiles (by decide)
    simp only [State.body, State.tile, this]
  obtain ⟨tags, htags⟩ := htags
  have hstream : streamOf (r.st.body t) q = streamOf (s.body t) q := by rw [htags]; rfl
  rw [← hstream, ← hwc]
  simp [State.body, State.closeBundle, State.modBody]

/-! ## Returns -/

theorem fetchBack_ok {f : Flight} {r : List Flight} (hr : (s.tile t).state = .running) (hin : (streamOf (s.body t) q).inflight = f :: r)
    (hcopy : (streamOf (s.body t) q).desc.copy = false) :
    fetchBack t q s =
      (let u := (s.modBody t fun b => setStream b q { streamOf (s.body t) q with inflight := r, buf := (streamOf (s.body t) q).buf ++ f.elems }).closeBundle t
       if f.fault = 0 then u else u.taskFault t (BitVec.ofNat 16 f.fault) 2 false) := by
  have hin' : (streamOf (s.tile t).body q).inflight = f :: r := hin
  have hcopy' : (streamOf (s.tile t).body q).desc.copy = false := hcopy
  unfold fetchBack
  simp only [hr, ne_eq, not_true_eq_false, if_false, hin', hcopy', Bool.false_eq_true]
  rfl

/-! ## Landing -/

theorem landStep_write (hq : 4 ≤ q) : landStep t q n s = State.landRun t q n (s.closeBundle t) := if_pos hq

theorem landRun_one {w : PendWr} {s1 : State} (hw : ((s.body t).streams.get StreamSt.init q).pend.find? (fun w => !w.sent) = some w)
    (hl : s.landWrite t q ((s.body t).streams.get StreamSt.init q).desc ((s.body t).streams.get StreamSt.init q).granted w = .ok s1) :
    State.landRun t q 1 s = (s1.writeLanded t q w).keepPart t w.mout (s.moutPart t ((s.body t).streams.get StreamSt.init q).desc w) := by
  rw [State.landRun]
  simp only [hw, hl]
  rfl

theorem ringRun_one {e : Elem} {rest : List Elem} {s1 : State} (hbuf : ((s.body t).streams.get StreamSt.init q).buf = e :: rest) (hgood : e.bad = false)
    (hl : s.ringLand t ((s.body t).streams.get StreamSt.init q).desc ((s.body t).streams.get StreamSt.init q).pos e = some s1) :
    State.ringRun t q 1 s = s1.modBody t fun b =>
      { b with streams := b.streams.set StreamSt.init q { ((s.body t).streams.get StreamSt.init q) with pos := ((s.body t).streams.get StreamSt.init q).pos + 1, buf := rest } } := by
  rw [State.ringRun]
  simp only [hbuf, hgood, Bool.false_eq_true, if_false, hl]
  rfl

/-- A write to a slot of the tile's own that it holds. -/
theorem landWrite_tile {d : StreamDesc} {g : List Nat} {w : PendWr} {off : Nat} (hfar : d.farDev = 255) (htag : d.tag = 0) (hbuf : w.addr < bufferSpace)
    (hctx : w.addr < contextSpace) (hplace : s.place w.addr = .tile t off) (hheld : heldRange (s.tile t) off (maskBytes w).length = true)
    (hgood : spMergeBad (s.body t) off (maskBytes w).length = false) :
    s.landWrite t q d g w = .ok (s.setTile t { s.tile t with body := spWriteMasked (s.body t) off (maskBytes w) }) := by
  unfold State.body at *
  unfold State.landWrite
  simp only [hfar, beq_self_eq_true, Bool.true_or, Bool.not_true, Bool.false_eq_true, if_false]
  rw [if_neg (Nat.not_le.2 hctx), if_neg (Nat.not_le.2 hbuf)]
  simp only [hplace, hheld, htag, spLand, hgood, if_true, Bool.not_true, Bool.false_eq_true, if_false]
  simp

/-- A write to memory that the task reaches. -/
theorem landWrite_ext {d : StreamDesc} {g : List Nat} {w : PendWr} {a : Nat} (hfar : d.farDev = 255) (hbuf : w.addr < bufferSpace)
    (hctx : w.addr < contextSpace) (hplace : s.place w.addr = .ext a) (hspan : s.outOfSpan (s.tile t) a = false)
    (htwin : ∀ r, (s.tile t).ref = some r → s.twinAddr r a = a)
    (hreach : s.taskReach (s.tile t).domain (s.tile t).job a (maskBytes w).length = true) (hgood : s.mergeBad a (maskBytes w).length = false) :
    s.landWrite t q d g w = .ok (s.extMerge a (maskBytes w)) := by
  unfold State.landWrite
  simp only [hfar, beq_self_eq_true, Bool.true_or, Bool.not_true, Bool.false_eq_true, if_false]
  rw [if_neg (Nat.not_le.2 hctx), if_neg (Nat.not_le.2 hbuf)]
  simp only [hplace, hspan, Bool.false_eq_true, if_false]
  cases href : (s.tile t).ref with
  | none => simp only [hreach, Bool.not_true, Bool.false_eq_true, false_and, if_false, hgood]
  | some r => simp only [htwin r href, hreach, Bool.not_true, Bool.false_eq_true, false_and, if_false, hgood]

end

/-- Settles O12: fetches, returns and landings each by its rule. -/
theorem streamMotion : Obligations.StreamMotion := by
  refine ⟨?_, ?_, ?_, ?_, ?_, ?_⟩
  · intro s tile q n t st m r hr hq hvalid hclean hsome hfault
    have hstep := fetchStep_ok hr hq hvalid hclean (r := r) (n := n) rfl hsome hfault
    obtain ⟨hbody, tags, htags⟩ := fetchStep_spec (s := s) (t := t) (q := q.val) (r := r) (g := fun z =>
      { z with fetched := st.fetched + r.elems.length, inflight := st.inflight ++ [{ elems := r.elems, fault := 0 }] }) rfl
    refine ⟨_, by rw [exec_streamFetch, hstep], ?_⟩
    have hrest : Within [.tiles, .wcache] s (((r.st.wcRun t st.desc st.fetched r.elems.length).modBody t fun b => setStream b q.val
        { streamOf b q.val with fetched := st.fetched + r.elems.length, inflight := st.inflight ++ [{ elems := r.elems, fault := 0 }] }).closeBundle t) :=
      (Within.refl.fetchRun.wcRun.modBody.closeBundle (s := s)).mono
    refine ⟨?_, ?_, ?_, ?_, ?_, hrest.same .mem (by decide), hrest.same .radio (by decide), hrest.same .sched (by decide)⟩
    all_goals rw [hbody]
    · simp [setStream, streamOf]
    · simp [setStream, streamOf]
    · simp [setStream, streamOf]; rfl
    · simp [setStream, streamOf]; rfl
    · rw [htags]; rfl
  · intro s tile q f r t st u hr hin hcopy
    rw [exec_fetchReturn, fetchBack_ok hr hin hcopy]
    exact ⟨fun h => by rw [if_pos h], fun h => by rw [if_neg h]⟩
  · intro s tile q w rest s1 t u st hq hpend hl
    rw [exec_streamWriteLand, landStep_write hq, landRun_one (by rw [← List.head?_filter, hpend, List.head?_cons]) hl]
  · intro s tile q w off t u st n hq hpend hfar htag hbuf hctx hplace hheld hgood
    rw [exec_streamWriteLand, landStep_write hq, landRun_one hpend (landWrite_tile hfar htag hbuf hctx hplace hheld hgood)]
  · intro s tile q w a t u st n hq hpend hfar hbuf hctx hplace hspan htwin hreach hgood
    rw [exec_streamWriteLand, landStep_write hq, landRun_one hpend (landWrite_ext hfar hbuf hctx hplace hspan htwin hreach hgood)]
  · intro s tile q e rest s1 t u st hq hcopy hbuf hgood hl
    rw [exec_streamWriteLand, landStep, if_neg (by omega), if_pos hcopy, ringRun_one hbuf hgood hl]

end Sys2Proof.Machine
end

section
/-! PROOFS. Tile commands (11 R261, 12 R268, R282). -/
namespace Sys2Proof.Machine

theorem exec_assign (tile : TileId) (d : Domain) (s : State) : exec (.assign tile d) s = .next (assignTile tile.val d s) := rfl
theorem exec_tileZeroise (tile : TileId) (s : State) : exec (.tileZeroise tile) s = .next (zeroiseTile tile.val s) := rfl
theorem exec_tileKill (tile : TileId) (s : State) : exec (.tileKill tile) s = .next (killTile tile.val s) := rfl
theorem exec_zeroiseComplete (tile : TileId) (s : State) :
    exec (.zeroiseComplete tile) s = .next (((zeroiseEnd tile.val s).startSegment tile.val).abortSegments) := rfl
theorem exec_tileLoad (tile : TileId) (ref : TaskRef) (s : State) : exec (.tileLoad tile ref) s = .next (loadCommand tile.val ref s) := rfl

/-- Values set at the first `n` places are read back there. -/
theorem get_foldl_set_range {α : Type} [DecidableEq α] (d : α) (v : Nat → α) (T : Table α) (n k : Nat) :
    ((List.range n).foldl (fun m p => m.set d p (v p)) T).get d k = if k < n then v k else T.get d k := by
  induction n with
  | zero => rfl
  | succ n ih =>
    rw [List.range_succ, List.foldl_append, List.foldl_cons, List.foldl_nil]
    by_cases hk : k = n
    · subst hk
      rw [Table.get_set, if_pos (Nat.lt_succ_self _)]
    · rw [Table.get_set_ne hk, ih]
      simp only [show k < n + 1 ↔ k < n by omega]

section
variable {s : State} {t : Nat}

theorem poldersAt_get {kill : Bool} {ps : Table Polder} {p : Nat} (hp : p < 24) : ((poldersAt kill ps).get Polder.init p).state =
    if kill then (if (ps.get Polder.init p).state = .held then .locked else (ps.get Polder.init p).state) else .zeroising := by
  unfold poldersAt upTo
  rw [get_foldl_set_range, if_pos hp]

/-- The start of a zeroisation: state, domain to come, no task; polders by what started it. -/
theorem zeroiseStart_spec {next : Domain} {kill : Bool} :
    ((s.zeroiseStart t next kill).tile t).state = .zeroising ∧ ((s.zeroiseStart t next kill).tile t).nextDomain = next ∧
    ((s.zeroiseStart t next kill).tile t).ref = none ∧
    ∀ p, p < 24 → if kill then (((s.zeroiseStart t next kill).tile t).polders.get Polder.init p).state ≠ .held
      else (((s.zeroiseStart t next kill).tile t).polders.get Polder.init p).state = .zeroising := by
  unfold State.zeroiseStart
  dsimp only
  rw [State.modTile_tile]
  refine ⟨rfl, rfl, rfl, fun p hp => ?_⟩
  dsimp only
  rw [poldersAt_get hp]
  cases kill with
  | false => rfl
  | true =>
    simp only [if_true]
    split
    · exact fun h => nomatch h
    · assumption

theorem tileRefusal_tiles {code : Half} {ps : List Nat} : (s.record code t ps).tiles = s.tiles := (Within.refl.record (s := s)).same .tiles (by decide)

theorem abortSegments_none (h : s.assured.running.entries = []) : s.abortSegments = s := by
  unfold State.abortSegments
  rw [h]
  rfl

theorem startSegment_none (h : s.assured.slice.getLsbD t = false) : s.startSegment t = s := by
  unfold State.startSegment
  dsimp only
  rw [if_neg (by simp [h])]

theorem zeroiseEnd_zeroising (h : (s.tile t).state = .zeroising) : zeroiseEnd t s = s.modTile t fun x => zeroised x s.clock.cycle := if_pos h

end

/-- Settles O13: each command starts a zeroisation, ends it, or is refused, by the tile's state. -/
theorem tileCommands : Obligations.TileCommands := by
  refine ⟨⟨?_, ?_, ?_, ?_⟩, ?_⟩
  · intro s tile d hd hst
    obtain ⟨hstate, hnext, href, hpolders⟩ := zeroiseStart_spec (s := s) (t := tile.val) (next := d) (kill := false)
    refine ⟨_, ?_, hstate, hnext, href, fun p hp => by simpa using hpolders p hp⟩
    rw [exec_assign, assignTile, if_neg hd]
    rcases hst with h | h <;> simp only [h]
  · intro s tile hst
    obtain ⟨hstate, hnext, -, hpolders⟩ := zeroiseStart_spec (s := s) (t := tile.val) (next := (s.tile tile.val).domain) (kill := false)
    refine ⟨_, ?_, hstate, hnext, fun p hp => by simpa using hpolders p hp⟩
    rw [exec_tileZeroise, zeroiseTile]
    rcases hst with h | h <;> simp only [h]
  · intro s tile hidle hz
    obtain ⟨hstate, -, href, hpolders⟩ := zeroiseStart_spec (s := (s.voidDrain tile.val).taskKilled tile.val) (t := tile.val)
      (next := (s.tile tile.val).domain) (kill := true)
    refine ⟨_, ?_, hstate, href, fun p hp => by simpa using hpolders p hp⟩
    rw [exec_tileKill, killTile]
    split
    · next h => exact absurd h hidle
    · next h => exact absurd h hz
    · rfl
  · intro s tile hst hslice hrun
    refine ⟨_, by rw [exec_zeroiseComplete, zeroiseEnd_zeroising hst, startSegment_none (s := State.modTile _ _ _) hslice,
      abortSegments_none (s := State.modTile _ _ _) hrun], ?_⟩
    dsimp only
    rw [State.modTile_tile]
    exact ⟨rfl, rfl, rfl, rfl, rfl, fun k hk => State.modTile_tile_ne _ _ _ hk⟩
  · intro s tile st
    refine ⟨fun d hd hidle hfault => ?_, fun hidle hfault hz => ?_, fun ref hidle => ?_, fun code => tileRefusal_tiles⟩
    · rw [exec_assign, assignTile, if_neg hd]
      split
      · next h => exact absurd h hidle
      · next h => exact absurd h hfault
      · rfl
    · rw [exec_tileZeroise, zeroiseTile]
      split
      · next h => exact absurd h hidle
      · next h => exact absurd h hfault
      · next h => exact absurd h hz
      · rfl
    · rw [exec_tileLoad]
      unfold loadCommand
      dsimp only
      rw [if_pos (.inl hidle)]
      rfl

end Sys2Proof.Machine
end

section
/-! PROOFS. PREEMPT and the end of a drain (06 R162–R165, 12 R280, 14 R323). -/
namespace Sys2Proof.Machine

theorem exec_tilePreempt (tile : TileId) (s : State) : exec (.tilePreempt tile) s =
    .next (if s.sealedJob (s.tile tile.val).job then preemptTile tile.val s else traced 64 80 s (preemptTile tile.val s)) := rfl
theorem exec_drainComplete (tile : TileId) (s : State) : exec (.drainComplete tile) s = .next (drainEnd tile.val s) := rfl

/-- A key that a table does not list reads as the default. -/
theorem get_of_not_mem_keys {α : Type} {T : Table α} {d : α} {k : Nat} (h : k ∉ T.keys) : T.get d k = d := by
  have hlook : ∀ l : List (Nat × α), k ∉ l.map (·.1) → Table.look k l = none := by
    intro l
    induction l with
    | nil => exact fun _ => rfl
    | cons e l ih =>
      intro h
      obtain ⟨hne, hrest⟩ := not_or.1 fun hk => h (List.mem_cons.2 hk)
      rw [Table.look, if_neg hne, ih hrest]
  rw [Table.get, Table.find, hlook _ h]
  rfl

section
variable {s u : State} {t q : Nat}

/-! ## PREEMPT -/

theorem traced_tile (lo hi k : Nat) (s s1 : State) : (traced lo hi s s1).tile k = s1.tile k := by
  have h : (traced lo hi s s1).tiles = s1.tiles := (Within.refl.traced (s := s1)).same .tiles (by decide)
  rw [State.tile, h]
  rfl

theorem preempt_tile (tile : TileId) :
    ∃ u, exec (.tilePreempt tile) s = .next u ∧ ∀ k, u.tile k = (preemptTile tile.val s).tile k := by
  rw [exec_tilePreempt]
  split
  · exact ⟨_, rfl, fun _ => rfl⟩
  · exact ⟨_, rfl, fun k => traced_tile ..⟩

theorem preemptTile_running (h : (s.tile t).state = .running) : preemptTile t s = s.modTile t drainBegin := by
  unfold preemptTile
  rw [h]

theorem preemptTile_loading (h : (s.tile t).state = .loading) : preemptTile t s = s.unload t := by
  unfold preemptTile
  rw [h]

theorem modTask_tile {ref : TaskRef} {tile : Nat} {f : TaskSt → TaskSt} (k : Nat) : (s.modTask ref tile f).tile k = s.tile k := by
  have h : (s.modTask ref tile f).tiles = s.tiles := (Within.refl.modTask (s := s)).same .tiles (by decide)
  rw [State.tile, h]
  rfl

/-- A load given up leaves its tile IDLE without a task. -/
theorem unload_tile (h : (s.tile t).ref ≠ none) : ((s.unload t).tile t).state = .idle ∧ ((s.unload t).tile t).ref = none := by
  obtain ⟨ref, href⟩ := Option.ne_none_iff_exists'.1 h
  have hback (f : TaskSt → TaskSt) : ((s.modTile t fun x => { x with state := .idle, ref := none, since := s.clock.cycle }).modTask ref t f).tile t =
      { s.tile t with state := .idle, ref := none, since := s.clock.cycle } := by rw [modTask_tile, State.modTile_tile]
  unfold State.unload
  simp only [href]
  cases ref with
  | entry n =>
    dsimp only
    rw [State.setSched_tile, hback]
    exact ⟨rfl, rfl⟩
  | _ =>
    dsimp only
    rw [hback]
    exact ⟨rfl, rfl⟩

/-! ## The end of a drain -/

theorem taskSt_congr {ref : TaskRef} (h : u.sched = s.sched) : u.taskSt ref t = s.taskSt ref t := by
  unfold State.taskSt State.graph
  rw [h]

theorem flushStats_none (h : (s.tile t).body.stats = []) : s.flushStats t = s := by
  unfold State.flushStats
  simp only [h]
  rfl

/-- A tile without streams has nothing to land at a drain. -/
theorem drainStream_empty (h : (s.body t).streams = .empty) : ((s.drainStream t q).tile t = s.tile t) ∧ (s.drainStream t q).sched = s.sched := by
  unfold State.drainStream
  split
  · exact ⟨rfl, rfl⟩
  · have hopen : openUnit StreamSt.init = StreamSt.init := rfl
    have hset : (Table.empty : Table StreamSt).set StreamSt.init q StreamSt.init = .empty := by rw [Table.set, if_pos rfl]; rfl
    have hbody : ((s.modBody t fun b => { b with streams := b.streams.set StreamSt.init q (openUnit (b.streams.get StreamSt.init q)) }).body t) =
        s.body t := by
      rw [State.modBody_body, h, Table.get_empty, hopen, hset, ← h]
    dsimp only
    rw [hbody, h, Table.get_empty]
    refine ⟨?_, rfl⟩
    show State.tile (s.modBody t _) t = _
    have htile : ∀ f : TileBody → TileBody, f (s.tile t).body = (s.tile t).body → (s.modBody t f).tile t = s.tile t := by
      intro f hf
      rw [State.modBody, State.modTile_tile, hf]
    exact htile _ ((State.modBody_body s t _).symm.trans hbody)

theorem drainStreams_empty (qs : List Nat) (h : (s.body t).streams = .empty) :
    (qs.foldl (fun s q => s.drainStream t q) s).tile t = s.tile t ∧ (qs.foldl (fun s q => s.drainStream t q) s).sched = s.sched := by
  induction qs generalizing s with
  | nil => exact ⟨rfl, rfl⟩
  | cons q qs ih =>
    obtain ⟨htile, hsched⟩ := drainStream_empty (q := q) h
    obtain ⟨htile', hsched'⟩ := ih (s := s.drainStream t q) (by rw [State.body, htile]; exact h)
    exact ⟨htile'.trans htile, hsched'.trans hsched⟩

/-- A tile without the credits and requests of tile `t`'s streams. -/
def withoutCredits (t : Nat) (x : Tile) : Tile :=
  { x with credits := x.credits.filter fun c => !isWriter t c.writer, requests := x.requests.filter fun r => !isWriter t r.req.writer }

theorem withoutCredits_twice (t : Nat) (x : Tile) : withoutCredits t (withoutCredits t x) = withoutCredits t x := by
  simp [withoutCredits, List.filter_filter]

theorem foldl_withoutCredits (ks : List Nat) (k : Nat) (s : State) : (ks.foldl (fun s u => s.modTile u (withoutCredits t)) s).tile k =
    if k ∈ ks then withoutCredits t (s.tile k) else s.tile k := by
  induction ks generalizing s with
  | nil => rfl
  | cons j ks ih =>
    rw [List.foldl_cons, ih]
    by_cases hj : k = j
    · subst hj
      rw [State.modTile_tile, withoutCredits_twice]
      simp
    · rw [State.modTile_tile_ne _ _ _ hj]
      simp [hj]

/-- Every tile loses the credits of a tile's streams; one that nothing is listed of has none. -/
theorem endCredits_tile (k : Nat) : (s.endCredits t).tile k = withoutCredits t (s.tile k) := by
  have h := foldl_withoutCredits (t := t) s.tiles.keys k s
  refine (show (s.endCredits t).tile k = _ from h).trans ?_
  split
  · rfl
  · next hk =>
    have : s.tile k = Tile.init := get_of_not_mem_keys hk
    rw [this]
    rfl

theorem spillInbound_unknown {ref : TaskRef} (h : s.taskSt ref t = none) : s.spillInbound t ref = s := by
  unfold State.spillInbound
  simp only [h]

theorem modTask_unknown {ref : TaskRef} {f : TaskSt → TaskSt} (h : s.taskSt ref t = none) : s.modTask ref t f = s := by
  unfold State.modTask
  rw [h]

/-- The tile after a drain: its task saved in the area of its class, nothing of it left. -/
def drainedTile (x : Tile) (ref : TaskRef) (cycle : Nat) : Tile :=
  keepSaved x.cls (savedOfTile x ref)
    { x with state := .idle, ref := none, hold := none, slots := [], semSat := false, yielding := false, since := cycle
             body := { x.body with qSat := false, nanSeen := false, accSat := false, moutParts := [] } }

theorem drainEnd_tile {ref : TaskRef} (hst : (s.tile t).state = .draining) (href : (s.tile t).ref = some ref) (hstats : (s.tile t).body.stats = [])
    (hstreams : (s.tile t).body.streams = .empty) (htask : s.taskSt ref t = none) (k : Nat) :
    ∃ y, (drainEnd t s).tile k = withoutCredits t y ∧ (k = t → y = drainedTile (s.tile t) ref s.clock.cycle) := by
  obtain ⟨htile, hsched⟩ := drainStreams_empty (s := s) (t := t) [4, 5, 6, 7] hstreams
  unfold drainEnd
  rw [flushStats_none hstats]
  generalize [4, 5, 6, 7].foldl (fun s q => s.drainStream t q) s = s0 at *
  have htask0 : s0.taskSt ref t = none := (taskSt_congr hsched).trans htask
  simp only [htile, hst, href, spillInbound_unknown htask0]
  generalize hs1 : State.endCredits _ t = s1
  have htask1 : s1.taskSt ref t = none := by
    rw [← hs1, taskSt_congr (s := s0) ((Within.refl.modTile.endCredits (s := s0)).same .sched (by decide)), htask0]
  rw [modTask_unknown htask1]
  have hs1tile : ∃ y, s1.tile k = withoutCredits t y ∧ (k = t → y = drainedTile (s.tile t) ref s.clock.cycle) := by
    rw [← hs1, endCredits_tile]
    refine ⟨_, rfl, ?_⟩
    rintro rfl
    rw [State.modTile_tile, htile]
    unfold drainedTile keepSaved
    split <;> rfl
  have hkeep : ∀ u : State, u.tiles = s1.tiles → ∃ y, u.tile k = withoutCredits t y ∧ (k = t → y = drainedTile (s.tile t) ref s.clock.cycle) := by
    intro u hu
    rw [State.tile, hu]
    exact hs1tile
  split
  · split
    · split
      · split
        · exact hkeep _ ((Within.refl.setInbound (s := s1)).same .tiles (by decide))
        · exact hs1tile
      · exact hs1tile
    · exact hs1tile
  · exact hs1tile

end

/-- Settles O14: `drainBegin` at a running tile, `unload` at a loading one, and the tile that a drain leaves. -/
theorem preemption : Obligations.Preemption := by
  refine ⟨?_, ?_, ?_⟩
  · intro s tile hst
    obtain ⟨u, hu, htile⟩ := preempt_tile (s := s) tile
    refine ⟨u, hu, ?_⟩
    rw [preemptTile_running hst] at htile
    refine ⟨?_, ?_, fun k hk => ?_⟩
    · rw [htile, State.modTile_tile]; rfl
    · rw [htile, State.modTile_tile]; rfl
    · rw [htile, State.modTile_tile_ne _ _ _ hk]
  · intro s tile hst href
    obtain ⟨u, hu, htile⟩ := preempt_tile (s := s) tile
    refine ⟨u, hu, ?_⟩
    dsimp only
    rw [htile, preemptTile_loading hst]
    exact unload_tile href
  · intro s tile ref t x hst href hstats hstreams htask hcls
    have hrule := drainEnd_tile hst href hstats hstreams htask
    refine ⟨_, exec_drainComplete tile s, ?_⟩
    obtain ⟨y, hy, hown⟩ := hrule t
    obtain rfl := hown rfl
    have hrad : isRadio x.cls = false := by
      cases hc : x.cls with
      | radio => exact absurd hc hcls
      | _ => rfl
    refine ⟨?_, ?_, ?_, rfl, fun hlong => ⟨?_, rfl⟩, fun k => ?_⟩
    · rw [hy]; simp [withoutCredits, drainedTile, keepSaved, x, hrad] at *
    · rw [hy]; simp [withoutCredits, drainedTile, keepSaved, x, hrad] at *
    · rw [hy]; simp [withoutCredits, drainedTile, keepSaved, x, hrad] at *
    · simp only [savedOfTile, hlong]
    · obtain ⟨y, hy, -⟩ := hrule k
      rw [hy]
      simp [withoutCredits]

end Sys2Proof.Machine
end

section
/-! PROOFS. The loader's check and the loads of waiting tasks (11 R240, R241, 14 R319). -/
namespace Sys2Proof.Machine

theorem exec_imageLoadCheck (tile : TileId) (s : State) : exec (.imageLoadCheck tile) s = .next (imageCheck tile.val s) := rfl

section
variable {s : State} {t : Nat} {ref : TaskRef}

/-! ## The loader's check -/

theorem imageCheck_loading (href : (s.tile t).ref = some ref) (hst : (s.tile t).state = .loading) (hon : s.powerOf t = .on) :
    imageCheck t s =
      if (s.tile t).loadFault = Code.til 0x01 then s.taskFault t (Code.til 0x01) 0 false true
      else if (s.tile t).loadFault ≠ 0 then s.taskFault t (s.tile t).loadFault streamSlot false
      else match bundlesFault (s.tile t).nBundles 0 (s.tile t).bundles with
        | some (i, k) => (s.modBody t fun b => { b with cur := i }).taskFault t (Code.til 0x01) (slotCode k) false
        | none => s.beginTask t ref := by
  unfold imageCheck
  simp only [href]
  rw [if_neg (by simp [hst, hon])] <;> rfl

/-- A task that was not saved runs from its first bundle with the registers of its load. -/
theorem beginTask_unsaved (hsaved : s.savedOf ref = none) (hlong : (s.tile t).body.longOp = none) :
    s.beginTask t ref = s.modTile t fun x => { x with state := .running, before := x.body } := by
  have hlong' : (s.body t).longOp = none := hlong
  unfold State.beginTask
  simp only [hsaved, hlong']
  rfl

/-! ## Loads -/

theorem loadCommand_idle (hst : (s.tile t).state = .idle) (href : (s.tile t).ref = none) : ¬((s.tile t).state ≠ .idle ∨ (s.tile t).ref.isSome = true) := by
  simp [hst, href]

theorem loadCommand_graph {job : Word} {copy : Fin 3} {k : Nat} {g : Graph} {c : GraphCopy} {y : TaskSt} (hst : (s.tile t).state = .idle)
    (href : (s.tile t).ref = none) (hg : s.graph job = some g) (hc : g.copies[copy.val]? = some c) (hy : c.tasks[k]? = some y) (ho : g.outcome = none)
    (hw : isWaitingTask y = true) (hsuit : s.tileSuits g copy.val k y (otherTiles g copy.val k 2) t = true) :
    loadCommand t (.graph job copy k) s = s.placeOn g copy k t fun j => (c.tasks[j]?).map (·.tile) := by
  unfold loadCommand
  dsimp only
  rw [if_neg (loadCommand_idle hst href)]
  simp only [hg, Option.bind_some, hc, hy, Option.map_some]
  rw [if_pos ⟨by rw [ho]; rfl, hw, hsuit⟩]

theorem radioFree_iff : s.radioFree t = true ↔ (s.tile t).state = .idle ∧ (s.tile t).ref = none ∧ (s.tile t).domain = .radio ∧
    s.assured.running.get none t = none := by
  unfold State.radioFree
  simp only [Bool.and_eq_true, beq_iff_eq, Option.isNone_iff_eq_none, and_assoc]

theorem loadEntry_free {n : Nat} {e : CycEntry} (hclaim : s.sched.claims.get none t = some n) (hran : s.sched.ranOn.contains (n, t) = false)
    (hfree : s.radioFree t = true) : loadEntry n e s t =
      (s.loadRadio n e (.entry (Fin.ofNat 4096 n)) 0 t).setSched { (s.loadRadio n e (.entry (Fin.ofNat 4096 n)) 0 t).sched with
        ranOn := (n, t) :: (s.loadRadio n e (.entry (Fin.ofNat 4096 n)) 0 t).sched.ranOn } := by
  unfold loadEntry
  rw [if_pos ⟨hclaim, by rw [hran]; rfl, hfree⟩]

theorem wakeTile_tile (k : Nat) : (s.wakeTile t).tile k = s.tile k := by
  have h : (s.wakeTile t).tiles = s.tiles := (Within.refl.wakeTile (s := s)).same .tiles (by decide)
  rw [State.tile, h]
  rfl

/-- A loaded tile stands in LOADING with its task. -/
theorem loadTile_tile {l : LoadPlan} : ((s.loadTile t ref l).tile t).state = .loading ∧ ((s.loadTile t ref l).tile t).ref = some ref := by
  unfold State.loadTile
  dsimp only
  rw [modTask_tile, wakeTile_tile, State.setTile_tile]
  exact ⟨rfl, rfl⟩

theorem loadRadio_tile {n : Nat} {e : CycEntry} {seed : Dword} :
    ((s.loadRadio n e ref seed t).tile t).state = .loading ∧ ((s.loadRadio n e ref seed t).tile t).ref = some ref := by
  unfold State.loadRadio
  exact loadTile_tile

theorem loadCommand_entry {n : Fin 4096} {e : CycEntry} (hfree : s.radioFree t = true) (he : s.claimEntry n.val = some e) (ht : e.tiles.getLsbD t = true)
    (hslot : (s.sched.entrySlot.get none n.val).isSome = true) : loadCommand t (.entry n) s = loadEntry n.val e s t := by
  obtain ⟨hst, href, -, -⟩ := radioFree_iff.1 hfree
  unfold loadCommand
  dsimp only
  rw [if_neg (loadCommand_idle hst href)]
  simp only [he, ht, hslot, and_self, if_true]

theorem loadCommand_training {set : SetId} {n : Nat} {e : CycEntry} {r : AdaptRec} (he : s.standingOf set.val t = some (n, e))
    (hcfg : (s.aset set.val).cfg = some r) (hfree : s.radioFree t = true) (hbusy : s.shadowBusy set.val = false)
    (harea : s.areaFree (s.tile t).saveRad (.training set) t = true) :
    loadCommand t (.training set) s = s.loadRadio n e (.training set) r.seed t := by
  obtain ⟨hst, href, -, -⟩ := radioFree_iff.1 hfree
  unfold loadCommand
  dsimp only
  rw [if_neg (loadCommand_idle hst href)]
  simp only [he, hcfg, hfree, hbusy, harea, Bool.not_false, and_self, if_true]

end

/-- Settles O15: the loader's check by the tile's first fault, the loads each by the rule of their reference. -/
theorem taskStarts : Obligations.TaskStarts := by
  refine ⟨?_, ?_, ?_, ?_⟩
  · intro s tile ref t x href hst hon
    rw [exec_imageLoadCheck, imageCheck_loading href hst hon]
    refine ⟨fun hgood hbundles hsaved hlong => ?_, fun hfault => ?_, fun i k hgood hbundles => ?_⟩
    · rw [show (s.tile t).loadFault = 0 from hgood, if_neg (by decide), if_neg (by decide),
        show bundlesFault (s.tile t).nBundles 0 (s.tile t).bundles = none from hbundles]
      exact congrArg _ (beginTask_unsaved hsaved hlong)
    · rw [if_pos hfault]
    · rw [show (s.tile t).loadFault = 0 from hgood, if_neg (by decide), if_neg (by decide),
        show bundlesFault (s.tile t).nBundles 0 (s.tile t).bundles = some (i, k) from hbundles]
  · intro s tile job copy k g c y t hst href hg hc hy ho hw hsuit
    rw [exec_tileLoad, loadCommand_graph hst href hg hc hy ho hw hsuit]
  · intro s tile n e t u he ht hslot hclaim hran hfree
    have hn : Fin.ofNat 4096 n.val = n := Fin.ext (Nat.mod_eq_of_lt n.isLt)
    have hload := loadEntry_free (e := e) hclaim hran hfree
    rw [hn] at hload
    refine ⟨?_, loadRadio_tile⟩
    rw [exec_tileLoad, loadCommand_entry hfree he ht hslot, hload]
  · intro s tile set n e r t he hcfg hfree hbusy harea
    rw [exec_tileLoad, loadCommand_training he hcfg hfree hbusy harea]

end Sys2Proof.Machine
end

section
/-! PROOFS. Faults that hardware finds, polders, sluices (06 R163, 12 R266–R282). -/
namespace Sys2Proof.Machine

theorem exec_taskFault (tile : TileId) (f : HwFault) (s : State) : exec (.taskFault tile f) s = .next (hwFault tile.val f s) := rfl
theorem exec_tagWaitLimit (tile : TileId) (s : State) : exec (.tagWaitLimit tile) s = .next (tagLimit tile.val s) := rfl
theorem exec_scrubStep (tile : TileId) (p : Fin 24) (s : State) : exec (.scrubStep tile p) s = .next (scrubPolder tile.val p.val s) := rfl
theorem exec_polderAlloc (tile : TileId) (n : Fin 24) (p : PolderSet) (s : State) :
    exec (.polderAlloc tile n p) s = .next (polderAlloc tile.val n.val p s) := rfl
theorem exec_polderRelease (tile : TileId) (n : Fin 24) (s : State) :
    exec (.polderRelease tile n) s = .next (s.polderLeaves tile.val n.val .zeroising) := rfl
theorem exec_lockedPolderZeroiseStart (tile : TileId) (n : Fin 24) (s : State) :
    exec (.lockedPolderZeroiseStart tile n) s = .next (lockedStart tile.val n.val s) := rfl
theorem exec_polderZeroiseComplete (tile : TileId) (n : Fin 24) (s : State) :
    exec (.polderZeroiseComplete tile n) s = .next (polderZeroised tile.val n.val s) := rfl
theorem exec_creditRequest (tile : TileId) (r : CreditReq) (s : State) : exec (.creditRequest tile r) s = .next (s.creditAsk tile.val r) := rfl
theorem exec_creditGrant (tile : TileId) (s : State) : exec (.creditGrant tile) s = .next (s.grantCycle tile.val) := rfl
theorem exec_remoteWrite (tile : TileId) (w : RemoteWr) (s : State) : exec (.remoteWrite tile w) s = .next (s.remoteStore tile.val w) := rfl
theorem exec_sluiceNoCredit (tile : TileId) (s : State) : exec (.sluiceNoCredit tile) s = .next (s.discardNotice tile.val) := rfl
theorem exec_remoteRead (tile : TileId) (off n : Nat) (who : Reader) (s : State) :
    exec (.remoteRead tile off n who) s = .next (s.remoteRead tile.val off n who) := rfl

section
variable {s u : State} {t : Nat}

/-- Where the tiles are the same, a tile is. -/
theorem tile_congr (h : u.tiles = s.tiles) (k : Nat) : u.tile k = s.tile k := by
  rw [State.tile, h]
  rfl

/-! ## Faults -/

theorem foldl_poison {p : Table Bool} {e : Nat} (he : e < 8) : ((upTo 8).foldl (fun p e => p.set false e true) p).get false e = true := by
  unfold upTo
  rw [get_foldl_set_range false (fun _ => true) p 8 e, if_pos he]

/-- A faulted tile: its state, its code, and every accumulator poisoned. -/
def Faulted (x : Tile) (code : Half) : Prop := x.state = .faulted ∧ x.faultCode = code ∧ ∀ e, e < 8 → x.body.poison.get false e = true

theorem taskFault_tile {code : Half} {slot : Nat} {issue image : Bool} : Faulted ((s.taskFault t code slot issue image).tile t) code := by
  unfold State.taskFault
  dsimp only
  generalize State.undoMouts _ t = s0
  generalize hs1 : State.setTile s0 t _ = s1
  have hfault : Faulted (s1.tile t) code := by
    rw [← hs1, State.setTile_tile]
    exact ⟨rfl, rfl, fun e he => foldl_poison he⟩
  have hkeep : ∀ u : State, u.tiles = s1.tiles → Faulted (u.tile t) code := fun u hu => by rw [tile_congr hu]; exact hfault
  split
  · exact hfault
  · split
    · exact hkeep _ ((Within.refl.poolStop.modTask.graphFaulted.keepDump (s := s1)).same .tiles (by decide))
    · have hs2 : ∀ ref f, ((s1.poolStop ref).modTask ref t f).tiles = s1.tiles :=
        fun ref f => (Within.refl.poolStop.modTask (s := s1)).same .tiles (by decide)
      split
      · split
        · exact hkeep _ ((Within.refl.poolStop.modTask.classicalRerun (s := s1)).same .tiles (by decide))
        · exact hkeep _ (hs2 _ _)
      · exact hkeep _ (hs2 _ _)
    · exact hkeep _ ((Within.refl.poolStop.modTask (s := s1)).same .tiles (by decide))

theorem hwFault_running {f : HwFault} (h : (s.tile t).state = .running ∨ (s.tile t).state = .draining) :
    ∃ u : State, hwFault t f s = u.taskFault t (hwCode f) (hwSlot f) false := by
  unfold hwFault
  dsimp only
  rw [if_pos (h.elim .inl (.inr ∘ .inl))]
  exact ⟨_, rfl⟩

theorem tagLimit_beyond {slot : Nat} (hhold : (s.tile t).hold = some (.tag slot)) (hr : (s.tile t).state = .running) (hlim : (s.tile t).tagLimit ≠ 0)
    (hlate : (s.tile t).tagLimit < s.clock.cycle - (s.tile t).holdSince) :
    tagLimit t s = (s.taskFault t (Code.til 0x62) streamSlot false).emit (.word "SP_TAG_WAIT" slot) := by
  unfold tagLimit
  simp only [hhold]
  rw [if_pos ⟨hr, hlim, hlate⟩]

theorem scrubPolder_clean {p : Nat} (h : (s.tile t).body.spBad = []) :
    scrubPolder t p s = if p = 23 then s.modTile t fun x => { x with scrub := bump top32 x.scrub } else s := by
  unfold scrubPolder
  simp only [h, List.filter_nil, List.foldl_nil, ite_self]

theorem scrubPolder_one {p w : Nat} (hst : ((s.tile t).polders.get Polder.init p).state = .held ∨ ((s.tile t).polders.get Polder.init p).state = .free)
    (h : (s.tile t).body.spBad = [w]) (hw : w * 8 / 0x10000 = p) (hp : p < 23) :
    scrubPolder t p s = (s.record Code.spScrubUe t [t, w * 8]).modTile t fun x => { x with eccUe := bump top32 x.eccUe } := by
  have hfilter : [w].filter (fun w => w * 8 / 0x10000 = p) = [w] := by rw [List.filter_cons_of_pos (by simpa using hw)]; rfl
  unfold scrubPolder
  dsimp only
  rw [if_pos hst, if_neg (by omega), h, hfilter]
  rfl

end

/-- Settles O16: `taskFault_tile` gives what a fault leaves. -/
theorem hardwareFaults : Obligations.HardwareFaults := by
  refine ⟨?_, by decide, ?_, ?_, ?_⟩
  · intro s tile f hst
    obtain ⟨u, hu⟩ := hwFault_running (f := f) hst
    exact ⟨_, by rw [exec_taskFault, hu], taskFault_tile⟩
  · intro s tile slot x hhold hr hlim hlate
    refine ⟨_, by rw [exec_tagWaitLimit, tagLimit_beyond hhold hr hlim hlate], ?_⟩
    dsimp only
    rw [State.emit_tile]
    obtain ⟨hstate, hcode, -⟩ := taskFault_tile (s := s) (t := tile.val) (code := Code.til 0x62) (slot := streamSlot) (issue := false) (image := false)
    exact ⟨hstate, hcode.trans (by decide)⟩
  · intro s tile p h
    rw [exec_scrubStep, scrubPolder_clean h]
  · intro s tile p w x hst h hw hp
    rw [exec_scrubStep, scrubPolder_one hst h hw hp]

end Sys2Proof.Machine
end

section
/-! PROOFS. Allocation, release and zeroisation of polders; sluice credits and reads of tile windows (12 R268–R282). -/
namespace Sys2Proof.Machine

section
variable {s u : State} {t n : Nat}

/-! ## Polders -/

/-- The polder that an allocation takes. -/
def heldPolder (p : PolderSet) (c : JobClass) : Polder where
  state := .held
  cls := c
  tagged := p.tagged
  accRemote := p.accRemote
  winCount := p.winCount.toNat
  winBase := p.winBase.toNat
  job := p.job

theorem polderAlloc_free {p : PolderSet} {c : JobClass} (hc : classOf p.cls.toNat = some c) (hrange : p.winBase.toNat + p.winCount.toNat ≤ 256)
    (hfree : ((s.tile t).polders.get Polder.init n).state = .free) (hsuit : classSuits (s.tile t).domain c = true) :
    polderAlloc t n p s = s.setTile t { s.tile t with polders := (s.tile t).polders.set Polder.init n (heldPolder p c) } := by
  unfold polderAlloc
  simp only [hc]
  rw [if_neg (by omega), if_neg (by simp [hfree, hsuit])]
  rfl

theorem polderAlloc_range {p : PolderSet} (h : classOf p.cls.toNat = none ∨ 256 < p.winBase.toNat + p.winCount.toNat) :
    polderAlloc t n p s = s.emit (.word "POLDER_ALLOC" Code.cfgRange.toNat) := by
  unfold polderAlloc
  dsimp only
  split
  · rfl
  · next c hc => rw [if_pos (.inr (h.resolve_left (by simp [hc])))]

theorem polderAlloc_state {p : PolderSet} {c : JobClass} (hc : classOf p.cls.toNat = some c) (hrange : p.winBase.toNat + p.winCount.toNat ≤ 256)
    (h : ((s.tile t).polders.get Polder.init n).state ≠ .free ∨ classSuits (s.tile t).domain c = false) :
    polderAlloc t n p s = s.emit (.word "POLDER_ALLOC" Code.tileBadState.toNat) := by
  unfold polderAlloc
  simp only [hc]
  rw [if_neg (by omega), if_pos (h.imp id fun h => by simp [h])]

/-- A notice of a revoked credit leaves the credits and the polders of every tile alone. -/
theorem revokeNotice_tile {slot : Nat} {cls : JobClass} {job : Word} {w : Writer} (k : Nat) :
    ((s.revokeNotice t slot cls job w).tile k).credits = (s.tile k).credits := by
  unfold State.revokeNotice
  split
  · next v q =>
    unfold State.modBody
    by_cases hk : k = v.val
    · subst hk
      rw [State.modTile_tile]
    · rw [State.modTile_tile_ne _ _ _ hk]
  · rw [tile_congr (s := s) ((Within.refl.tellDevice (s := s)).same .tiles (by decide))]
  · rfl

theorem foldl_tile_credits {α : Type} {f : State → α → State} (hf : ∀ s e k, ((f s e).tile k).credits = (s.tile k).credits) (xs : List α) (s : State)
    (k : Nat) : ((xs.foldl f s).tile k).credits = (s.tile k).credits := by
  induction xs generalizing s with
  | nil => rfl
  | cons x xs ih => exact (ih (f s x)).trans (hf s x k)

/-- A polder that leaves HELD takes its credits with it. -/
theorem revokePolder_credits : ((s.revokePolder t n).tile t).credits = (s.tile t).credits.filter (·.polder ≠ n) := by
  unfold State.revokePolder
  dsimp only
  rw [foldl_tile_credits fun s r k => foldl_tile_credits (fun s i k => revokeNotice_tile k) _ _ k,
    foldl_tile_credits fun s c k => revokeNotice_tile k, State.setTile_tile]

theorem polderLeaves_held {st : PolderState} (h : ((s.tile t).polders.get Polder.init n).state = .held) :
    (((s.polderLeaves t n st).tile t).polders.get Polder.init n).state = st ∧
    ((s.polderLeaves t n st).tile t).credits.all (fun c => c.polder != n) = true := by
  unfold State.polderLeaves State.closeBundle
  rw [if_pos h, State.modTile_tile, State.modTile_tile, tile_congr (s := s.revokePolder t n) ((Within.refl.dropValid (s := _)).same .tiles (by decide))]
  refine ⟨by simp [setPolderState], ?_⟩
  show ((s.revokePolder t n).tile t).credits.all _ = true
  rw [revokePolder_credits]
  exact List.all_eq_true.2 fun c hc => by simpa using (List.mem_filter.1 hc).2

theorem lockedStart_lowest (hz : (s.tile t).state ≠ .zeroising) (hl : ((s.tile t).polders.get Polder.init n).state = .locked)
    (hlow : ∀ k, k < n → ((s.tile t).polders.get Polder.init k).state ≠ .locked)
    (hone : ∀ k, k < 24 → ((s.tile t).polders.get Polder.init k).state ≠ .zeroising) :
    lockedStart t n s = s.setTile t (setPolderState n .zeroising (s.tile t)) := by
  unfold lockedStart
  dsimp only
  rw [if_pos]
  refine ⟨hz, hl, ?_, ?_⟩
  · simpa [upTo] using hlow
  · simpa [upTo] using hone

theorem polderZeroised_tile (hz : (s.tile t).state ≠ .zeroising) (h : ((s.tile t).polders.get Polder.init n).state = .zeroising) :
    ((polderZeroised t n s).tile t).polders = (s.tile t).polders.set Polder.init n Polder.init ∧
    ((polderZeroised t n s).tile t).body = clearPolder (s.tile t).body n := by
  unfold polderZeroised State.closeBundle
  dsimp only
  rw [if_pos ⟨hz, h⟩, State.modTile_tile, State.setTile_tile]
  exact ⟨rfl, rfl⟩

end

/-- Settles O17: each command by the state of its polder. -/
theorem polderLife : Obligations.PolderLife := by
  refine ⟨?_, ?_, ?_, ?_, ?_⟩
  · intro s tile n p c x hc hrange hfree hsuit y
    rw [exec_polderAlloc, polderAlloc_free hc hrange hfree hsuit]
    rfl
  · refine fun s tile n p => ⟨fun h => ?_, fun c hc hrange h => ?_⟩
    · refine ⟨_, by rw [exec_polderAlloc, polderAlloc_range h], ?_⟩
      rfl
    · refine ⟨_, by rw [exec_polderAlloc, polderAlloc_state hc hrange h], ?_⟩
      rfl
  · exact fun s tile n h => ⟨_, exec_polderRelease tile n s, polderLeaves_held h⟩
  · intro s tile n x st hz hl hlow hone
    rw [exec_lockedPolderZeroiseStart, lockedStart_lowest hz hl hlow hone]
  · intro s tile n hz h
    obtain ⟨hpolders, hbody⟩ := polderZeroised_tile hz h
    refine ⟨_, exec_polderZeroiseComplete tile n s, ?_⟩
    dsimp only
    rw [hpolders, hbody]
    exact ⟨Table.get_set, fun o hlo hhi => Table.get_clearRange_of_mem ⟨hlo, hhi⟩, fun o ho => Table.get_clearRange_of_not_mem ho,
      fun k hlo hhi => Table.get_clearRange_of_mem ⟨hlo, hhi⟩⟩

section
variable {s u : State} {t n : Nat}

/-! ## Credits -/

theorem creditAsk_ok {r : CreditReq} (h0 : 0 < r.count) (hn : r.count ≤ 256)
    (hst : ((s.tile t).polders.get Polder.init r.polder.toNat).state = .held) (hjob : ((s.tile t).polders.get Polder.init r.polder.toNat).job = r.job)
    (hcls : ((s.tile t).polders.get Polder.init r.polder.toNat).cls = r.cls) (hlo : ((s.tile t).polders.get Polder.init r.polder.toNat).winBase ≤ r.first)
    (hhi : r.first + r.count ≤ ((s.tile t).polders.get Polder.init r.polder.toNat).winBase +
      ((s.tile t).polders.get Polder.init r.polder.toNat).winCount)
    (hacc : r.acc = true → ((s.tile t).polders.get Polder.init r.polder.toNat).accRemote = true ∧ r.fmt = .int32) :
    s.creditAsk t r = s.modTile t fun x => { x with requests := x.requests ++ [{ req := r, next := r.first, stop := r.first + r.count }] } := by
  have hgood : creditRefusal (s.tile t) r = none := by
    unfold creditRefusal
    dsimp only
    rw [if_neg (by omega), if_neg, if_neg, if_neg]
    · rintro ⟨ha, hf⟩; exact hf (hacc ha).2
    · rintro ⟨ha, hf⟩; rw [(hacc ha).2] at hf; cases hf
    · rintro (h | h | h | h | h | ⟨ha, h⟩)
      · exact h hst
      · exact h hjob
      · exact h hcls
      · omega
      · omega
      · simp [(hacc ha).1] at h
  unfold State.creditAsk
  rw [hgood]

/-- The one request of a tile, grantable, gets the credit of its next slot. -/
theorem grantRound_one {x : Tile} {r : PendReq} (h : grantable x r = true) :
    grantRound x [] [r] [] =
      (let c : Credit := { polder := r.req.polder.toNat, slot := r.next, acc := r.req.acc, cls := r.req.cls, job := r.req.job, writer := r.req.writer }
       (if r.next + 1 = r.stop then [] else [{ r with next := r.next + 1 }], x.credits ++ [c], [c])) := by
  have hx : grantable { x with credits := x.credits ++ [] } r = true := by rw [List.append_nil]; exact h
  unfold grantRound
  rw [if_pos (by rw [hx]; rfl)]
  rfl

theorem grantCycle_one {r : PendReq} {v : Fin 96} {q : Fin 8} (hw : s.array.waiting = []) (hr : (s.tile t).requests = [r])
    (hwr : r.req.writer = .stream v q) (h : grantable (s.tile t) r = true) :
    (s.grantCycle t).tile t = { s.tile t with
      requests := if r.next + 1 = r.stop then [] else [{ r with next := r.next + 1 }]
      credits := (s.tile t).credits ++
        [{ polder := r.req.polder.toNat, slot := r.next, acc := r.req.acc, cls := r.req.cls, job := r.req.job, writer := r.req.writer }] } := by
  have hadmit : s.admitWaiting t = s.setArray { s.array with waiting := [] } := by
    unfold State.admitWaiting
    simp only [hw]
    rfl
  unfold State.grantCycle
  rw [hadmit]
  simp only [State.setArray_tile, hr, grantRound_one h, List.foldl_cons, List.foldl_nil, hwr]
  rw [State.setTile_tile]

/-! ## Remote writes -/

theorem remoteStore_done {w : RemoteWr} {v : State} (h : s.sluiceWrite t w.off w.bytes w.acc w.closing w.writer = .done v false) :
    s.remoteStore t w = v := by
  unfold State.remoteStore
  simp only [h, Bool.false_eq_true, if_false]

theorem sluiceWrite_credit {w : RemoteWr} {c : Credit}
    (hc : (s.tile t).credits.find? (fun c => c.writer = w.writer && c.acc = w.acc && creditSlot c = w.off / 256) = some c)
    (hslot : w.off % 256 + w.bytes.length ≤ 256) (hheld : ((s.tile t).polders.get Polder.init c.polder).state = .held)
    (hgood : if w.acc then spUnreadable (s.tile t).body w.off w.bytes.length = false else spMergeBad (s.tile t).body w.off w.bytes.length = false) :
    s.sluiceWrite t w.off w.bytes w.acc w.closing w.writer = .done
      (let x := s.tile t
       let b := if w.acc then spWrite x.body w.off (accBytes false (spBytes x.body w.off w.bytes.length) (w.bytes.map (·.1)))
        else spWriteMasked x.body w.off w.bytes
       let b1 := if w.closing && !w.acc && slotTagged x (w.off / 256) then setTag b (w.off / 256) true else b
       (s.setTile t { x with body := b1, credits := if w.closing then x.credits.erase c else x.credits }).closeBundle t) false := by
  unfold State.sluiceWrite
  simp only [hc]
  rw [if_pos ⟨hslot, hheld⟩]
  cases ha : w.acc with
  | true =>
    simp only [ha, if_true] at hgood
    simp only [spLand, if_true, hgood, Bool.false_eq_true, if_false]
  | false =>
    simp only [ha, Bool.false_eq_true, if_false] at hgood
    simp only [spLand, hgood, Bool.false_eq_true, if_false]

/-- A discarded write is counted; credits and memory of the tile stay. -/
theorem discardWrite_tile {w : Writer} : ((s.discardWrite t w).tile t).refused = bump 255 (s.tile t).refused ∧
    ((s.discardWrite t w).tile t).credits = (s.tile t).credits ∧ ((s.discardWrite t w).tile t).body = (s.tile t).body := by
  have hcount : ((s.modTile t fun x => { x with refused := bump 255 x.refused }).tile t) = { s.tile t with refused := bump 255 (s.tile t).refused } :=
    State.modTile_tile ..
  cases w with
  | stream v q =>
    unfold State.discardWrite
    dsimp only
    split
    · by_cases hv : t = v.val
      · subst hv
        rw [State.modTile_tile, hcount]
        exact ⟨rfl, rfl, rfl⟩
      · rw [State.modTile_tile_ne _ _ _ hv, hcount]
        exact ⟨rfl, rfl, rfl⟩
    · rw [hcount]
      exact ⟨rfl, rfl, rfl⟩
  | device d v =>
    unfold State.discardWrite State.refuseWriter
    dsimp only
    rw [tile_congr (s := s.modTile t _) ((Within.refl.tellDevice (s := _)).same .tiles (by decide)), hcount]
    exact ⟨rfl, rfl, rfl⟩
  | engine =>
    unfold State.discardWrite State.refuseWriter
    dsimp only
    rw [State.emit_tile, hcount]
    exact ⟨rfl, rfl, rfl⟩

theorem remoteStore_noCredit {w : RemoteWr} (h : s.sluiceWrite t w.off w.bytes w.acc w.closing w.writer = .noCredit) :
    s.remoteStore t w = s.discardWrite t w.writer := by
  unfold State.remoteStore
  simp only [h]

theorem discardNotice_running {ref : TaskRef} {rest : List TaskRef} (hn : (s.tile t).notices = ref :: rest) (href : (s.tile t).ref = some ref)
    (hr : (s.tile t).state = .running) :
    s.discardNotice t = (s.modTile t fun x => { x with notices := rest }).taskFault t (Code.til 0x64) streamSlot false := by
  unfold State.discardNotice
  simp only [hn]
  rw [if_pos ⟨href, .inl hr⟩]

/-! ## Reads of a tile's window -/

theorem remoteRead_task {off : Nat} {v : Fin 96} (hr : (s.tile v.val).state = .running) (hz : (s.tile t).state ≠ .zeroising)
    (hheld : heldBy (s.tile t) (s.tile v.val).pjob off n = true) (hgood : spUnreadable (s.tile t).body off n = false) :
    s.remoteRead t off n (.task v) = s.emit (.word "SP_READ" (leNat (spBytes (s.tile t).body off n))) := by
  unfold State.remoteRead
  dsimp only
  rw [if_neg (not_not_intro hr), if_neg (by simp [hz, hheld]), if_neg (by simp [hgood])]

theorem remoteRead_denied {off : Nat} {v : Fin 96} (hr : (s.tile v.val).state = .running)
    (h : (s.tile t).state = .zeroising ∨ heldBy (s.tile t) (s.tile v.val).pjob off n = false) :
    s.remoteRead t off n (.task v) = s.taskFault v.val (Code.til 0x77) streamSlot false := by
  unfold State.remoteRead
  dsimp only
  rw [if_neg (not_not_intro hr), if_pos (h.imp id fun h => by simp [h])]

theorem windowOpen_host_radio {off : Nat} (hn : 0 < n) (h : ((s.tile t).polders.get Polder.init (off / 0x10000)).cls = .radio) :
    s.windowOpen t off n .host = false := by
  unfold State.windowOpen
  have hfirst : 0 < (off + n - 1) / 0x10000 + 1 - off / 0x10000 := by omega
  have hdenied : s.outsideMayRead .host ((s.tile t).polders.get Polder.init (off / 0x10000 + 0)) = false := by
    rw [Nat.add_zero, State.outsideMayRead, h]
    · exact Bool.and_false _
    · exact nofun
  dsimp only
  rw [Bool.and_eq_false_iff]
  right
  rw [List.all_eq_false]
  exact ⟨0, by simpa [upTo] using hfirst, by rw [hdenied]; exact Bool.false_ne_true⟩

theorem remoteRead_host {off : Nat} (h : s.windowOpen t off n .host = false) :
    s.remoteRead t off n .host = s.emit (.word "SP_READ_REFUSED" Code.spDenied.toNat) := by
  unfold State.remoteRead
  dsimp only
  rw [if_pos (by simp [h])]

end

/-- Settles O18: requests, grants, writes and reads each by its rule. -/
theorem sluiceCredits : Obligations.SluiceCredits := by
  refine ⟨⟨?_, ?_, ?_, ?_, ?_, ?_⟩, ?_, ?_, ?_⟩
  · intro s tile r p h0 hn hst hjob hcls hlo hhi hacc
    rw [exec_creditRequest, creditAsk_ok h0 hn hst hjob hcls hlo hhi hacc]
  · intro s tile r v q x c hw hr hwr h
    refine ⟨_, exec_creditGrant tile s, ?_⟩
    dsimp only
    rw [grantCycle_one hw hr hwr h]
    exact ⟨rfl, rfl⟩
  · intro s tile w v h
    rw [exec_remoteWrite, remoteStore_done h]
  · intro s tile w c x n hc hslot hheld hgood b b1
    rw [exec_remoteWrite, remoteStore_done (sluiceWrite_credit hc hslot hheld hgood)]
  · intro s tile w h
    refine ⟨_, by rw [exec_remoteWrite, remoteStore_noCredit h], discardWrite_tile⟩
  · intro s tile ref rest x hn href hr
    rw [exec_sluiceNoCredit, discardNotice_running hn href hr]
    rfl
  · intro s tile v off n hr hz hheld hgood
    rw [exec_remoteRead, remoteRead_task hr hz hheld hgood]
  · intro s tile v off n hr h
    rw [exec_remoteRead, remoteRead_denied hr h]
    rfl
  · intro s tile off n p hp hn h
    rw [exec_remoteRead, remoteRead_host (windowOpen_host_radio hn (by rw [hp]; exact h))]
    rfl

end Sys2Proof.Machine
end

section
/-! PROOFS. Weight-cache fills, refresh, patrol and cluster-cache pages (13 R301–R306); pooling jobs (09 R214–R217). -/
namespace Sys2Proof.Machine

theorem exec_wcLineFill (line : Nat) (s : State) : exec (.wcLineFill line) s = .next (wcFill line s) := rfl
theorem exec_memRefresh (chan : Fin 10) (hot : Bool) (s : State) : exec (.memRefresh chan hot) s = .next (refresh chan.val hot s) := rfl
theorem exec_patrolScrubPass (s : State) : exec .patrolScrubPass s = .next (patrol s) := rfl
theorem exec_clusterPageRelease (c : ClusterId) (p : Fin 56) (s : State) :
    exec (.clusterPageRelease c p) s = .next (pageRelease c.val p.val s) := rfl
theorem exec_poolJobStart (c : ClusterId) (s : State) : exec (.poolJobStart c) s = .next (poolStart c.val s) := rfl
theorem exec_poolJobComplete (c : ClusterId) (s : State) : exec (.poolJobComplete c) s = .next (poolEnd c.val s) := rfl

section
variable {s u : State} {c : Nat}

/-- Where the clusters are the same, a cluster is. -/
theorem cluster_congr (h : u.clusters = s.clusters) (k : Nat) : u.cluster k = s.cluster k := by
  rw [State.cluster, h]
  rfl

/-! ## Weight cache and memory -/

theorem wcFill_wcache {line : Nat} {e : Nat × Domain} (h : s.wcache.inflight.find? (·.1 = line) = some e) :
    (wcFill line s).wcache.lines.get none line = some { domain := e.2, used := s.clock.cycle } ∧
    (wcFill line s).wcache.inflight = s.wcache.inflight.erase e ∧ (wcFill line s).mem = s.mem := by
  unfold wcFill
  simp only [h]
  exact ⟨Table.get_set, rfl, rfl⟩

theorem ofNat_twoPow (k : Nat) : BitVec.ofNat 8 (2 ^ k) = BitVec.twoPow 8 k :=
  BitVec.eq_of_toNat_eq (by rw [BitVec.toNat_ofNat, BitVec.toNat_twoPow])

/-- A clear bit is set by a sum. -/
theorem ofNat_add_twoPow {x : BitVec 8} {k : Nat} (h : x.getLsbD k = false) : BitVec.ofNat 8 (x.toNat + 2 ^ k) = x ||| BitVec.twoPow 8 k := by
  rw [← BitVec.add_eq_or_of_and_eq_zero _ _ (by rw [BitVec.and_twoPow, h]; rfl), BitVec.ofNat_add, BitVec.ofNat_toNat, BitVec.setWidth_eq,
    ofNat_twoPow]

/-- A set bit is cleared by a difference. -/
theorem ofNat_sub_twoPow {x : BitVec 8} {k : Nat} (hk : k < 8) (h : x.getLsbD k = true) :
    BitVec.ofNat 8 (x.toNat - 2 ^ k) = x &&& ~~~BitVec.twoPow 8 k := by
  have hge : 2 ^ k ≤ x.toNat := Nat.ge_two_pow_of_testBit h
  have hback : (x &&& ~~~BitVec.twoPow 8 k) + BitVec.twoPow 8 k = x := by
    rw [BitVec.add_eq_or_of_and_eq_zero]
    · ext i hi
      by_cases hik : k = i
      · subst hik; simpa [hk] using h.symm
      · simp [Ne.symm hik]
    · rw [BitVec.and_assoc, BitVec.and_comm (~~~_), BitVec.and_not_self]
      exact BitVec.and_zero
  rw [← BitVec.ofNat_sub_ofNat_of_le _ _ (Nat.pow_lt_pow_right (by decide) hk) hge, BitVec.ofNat_toNat, BitVec.setWidth_eq, ofNat_twoPow]
  exact (BitVec.eq_sub_iff_add_eq.2 hback).symm

/-- A channel's report sets or clears its bit of `hot`. -/
theorem refresh_hot {hot : Bool} (hc : c < 8) :
    (refresh c hot s).mem.hot = if hot then s.mem.hot ||| BitVec.twoPow 8 c else s.mem.hot &&& ~~~BitVec.twoPow 8 c := by
  have hbit : s.mem.hot.toNat / 2 ^ c % 2 = 1 ↔ s.mem.hot.getLsbD c = true := by
    rw [BitVec.getLsbD, Nat.testBit_eq_decide_div_mod_eq, decide_eq_true_eq]
  have hkeep : BitVec.ofNat 8 s.mem.hot.toNat = s.mem.hot := by rw [BitVec.ofNat_toNat, BitVec.setWidth_eq]
  unfold refresh
  dsimp only
  rw [if_pos hc]
  show BitVec.ofNat 8 _ = _
  by_cases hb : s.mem.hot.getLsbD c = true
  · rw [if_pos (hbit.2 hb)]
    cases hot with
    | true =>
      simp only [if_true, hkeep]
      ext i hi
      by_cases hic : c = i
      · subst hic; simpa [hc] using hb
      · simp [Ne.symm hic]
    | false => simp only [Bool.false_eq_true, if_false, ofNat_sub_twoPow hc hb]
  · rw [if_neg (mt hbit.1 hb)]
    rw [Bool.not_eq_true] at hb
    cases hot with
    | true =>
      simp only [if_true, ← ofNat_add_twoPow hb]
      exact BitVec.eq_of_toNat_eq (by rw [BitVec.toNat_ofNat, BitVec.toNat_ofNat, Nat.mod_mod])
    | false =>
      simp only [Bool.false_eq_true, if_false, hkeep]
      ext i hi
      by_cases hic : c = i
      · subst hic; simpa [hc] using hb
      · simp [Ne.symm hic]

theorem patrol_clean (hon : s.mem.patrolOn = true) (hbad : s.mem.bad = []) :
    patrol s = s.setMem { s.mem with patrolSec := s.nowSec % 2 ^ 48 } := by
  unfold patrol
  rw [if_pos hon, hbad]
  rfl

theorem pageRelease_free {p : Nat} (hown : (s.cluster c).pages.get none p ≠ none) (hspill : s.spillInUse (c * 56 + p) = false) :
    pageRelease c p s = s.setCluster c { s.cluster c with
      pages := (s.cluster c).pages.set none p none
      cache := (s.cluster c).cache.clearRange (p * 0x10000) ((p + 1) * 0x10000)
      badWords := (s.cluster c).badWords.filter fun w => w * 8 / 0x10000 ≠ p } := by
  unfold pageRelease
  dsimp only
  rw [if_neg]
  rintro (h | h)
  · exact hown (Option.isNone_iff_eq_none.1 h)
  · simp [hspill] at h

/-! ## Pooling jobs -/

theorem poolStart_free {p : PoolJob} {r : List PoolJob} {d : PoolDesc} (hrun : (s.cluster c).poolRun = none) (hq : (s.cluster c).poolQueue = p :: r)
    (hp : parsePool p.bytes = some d) :
    poolStart c s = if d.waitSem = 0xFFFF then s.setCluster c { s.cluster c with poolQueue := r, poolRun := some p } else
      match s.semTake d.waitSem with
      | some u => u.setCluster c { u.cluster c with poolQueue := r, poolRun := some p }
      | none => s := by
  unfold poolStart
  simp only [hrun, hq, hp] <;> rfl

theorem poolEnd_done {p : PoolJob} {d : PoolDesc} (hrun : (s.cluster c).poolRun = some p) (hp : parsePool p.bytes = some d)
    (hstop : p.stopped = false) (hgood : poolUnreadable (s.cluster c) d = false) :
    poolEnd c s =
      (let w := s.poolWrite c d (poolRows d).length
       let u := w.setCluster c { (w.cluster c) with poolRun := none }
       if d.signalSem = 0xFFFF then u else u.poolSignal p.ref d.signalSem) := by
  unfold poolEnd
  simp only [hrun, hp, hstop, hgood, Bool.false_eq_true, if_false]

theorem poolEnd_stopped {p : PoolJob} {d : PoolDesc} (hrun : (s.cluster c).poolRun = some p) (hp : parsePool p.bytes = some d)
    (hstop : p.stopped = true) : ((poolEnd c s).cluster c).poolRun = none ∧ (poolEnd c s).sched.sems = s.sched.sems := by
  have hsched : ∀ n, (s.draw.2.poolWrite c d n).sched = s.sched := fun n => (Within.refl.draw.poolWrite (s := s)).same .sched (by decide)
  unfold poolEnd
  simp only [hrun, hp, hstop, if_true, State.setCluster_cluster, State.setCluster_sched, hsched]
  exact ⟨trivial, trivial⟩

end

/-- Settles O19: `refresh_hot` names the bit, and a released page is cleared over its range. -/
theorem memoryCommands : Obligations.MemoryCommands := by
  refine ⟨?_, ?_, ?_, ?_, ?_⟩
  · exact fun s line dom h => ⟨_, exec_wcLineFill line s, wcFill_wcache h⟩
  · refine fun s c => ⟨_, exec_memRefresh _ true s, ?_⟩
    dsimp only
    rw [refresh_hot c.isLt, if_pos rfl]
    exact ⟨by simp, fun k hk => by simp [Fin.val_ne_of_ne hk]⟩
  · refine fun s c => ⟨_, exec_memRefresh _ false s, ?_⟩
    dsimp only
    rw [refresh_hot c.isLt, if_neg Bool.false_ne_true]
    exact ⟨by simp, fun k hk => by simp [Fin.val_ne_of_ne hk]⟩
  · intro s hon hbad
    rw [exec_patrolScrubPass, patrol_clean hon hbad]
  · intro s c p hown hspill
    refine ⟨_, by rw [exec_clusterPageRelease, pageRelease_free hown hspill], ?_⟩
    dsimp only
    rw [State.setCluster_cluster]
    exact ⟨Table.get_set, fun o hlo hhi => Table.get_clearRange_of_mem ⟨hlo, hhi⟩, fun o ho => Table.get_clearRange_of_not_mem ho,
      fun k hk => State.setCluster_cluster_ne _ _ _ hk⟩

/-- Settles O20: the unit's start and end by the state of its job. -/
theorem poolingJobs : Obligations.PoolingJobs := by
  refine ⟨?_, ?_, ?_⟩
  · intro s c p r d cl hrun hq hp
    refine ⟨fun hw => ?_, fun u hw hu => ?_⟩
    · rw [exec_poolJobStart, poolStart_free hrun hq hp, if_pos hw]
    · have hcl : u.cluster c.val = cl := cluster_congr ((Within.refl.semTake hu).same .clusters (by decide)) c.val
      rw [exec_poolJobStart, poolStart_free hrun hq hp, if_neg hw, hu, ← hcl]
  · intro s c p d cl w u hrun hp hstop hgood
    rw [exec_poolJobComplete, poolEnd_done hrun hp hstop hgood]
  · exact fun s c p d hrun hp hstop => ⟨_, exec_poolJobComplete c s, poolEnd_stopped hrun hp hstop⟩

end Sys2Proof.Machine
end

section
/-! PROOFS. The operations of a CSP's program: issue, products, taps and tap updates (10 R225–R230). -/
namespace Sys2Proof.Machine

section
variable {s : State} {c : Instr} {i : CspIssue} {o : CspSlot} {op : Csp → CspRes} {g : Csp → Csp} {can : Csp → Prop}

/-! ## Issue -/

theorem State.setCsp_setCsp (s : State) (c : Nat) (x y : Csp) : (s.setCsp c x).setCsp c y = s.setCsp c y := by
  unfold State.setCsp
  rw [Table.set_set]

/-- A result that is put into a state overwrites the CSP there. -/
theorem cspSettle_setCsp_inl (s : State) (c : Nat) (x y : Csp) : (s.setCsp c x).cspSettle c (.inl y) = s.cspSettle c (.inl y) := by
  unfold State.cspSettle
  dsimp only
  rw [State.setCsp_setCsp]

/-- An operation that issues takes its effect in the state that `cspBegun` names. -/
theorem runCsp_issues {y : Csp} (hi : cspIssues s i o = true) (hop : op ((cspBegun s i o).csp i.cluster.val) = .inl y) :
    runCsp s i o op = (cspBegun s i o).cspSettle i.cluster.val (.inl y) := by
  unfold cspIssues at hi
  dsimp only at hi
  rw [Bool.and_eq_true, beq_iff_eq] at hi
  obtain ⟨hrun, hi⟩ := hi
  unfold cspBegun at hop ⊢
  unfold runCsp
  dsimp only at hop ⊢
  rw [if_neg (not_not_intro hrun)]
  by_cases hj : cspJoins s i o = true
  · have hjoin : i.joint = true ∧ canJoin (s.csp i.cluster.val).core o = true := by
      rw [← Bool.and_eq_true]; exact hj
    rw [if_pos hj, State.setCsp_csp] at hop
    rw [if_pos hj] at hi ⊢
    rw [if_pos hjoin, if_pos hi, hop, cspSettle_setCsp_inl]
  · have hjoin : ¬ (i.joint = true ∧ canJoin (s.csp i.cluster.val).core o = true) := by
      rw [← Bool.and_eq_true]; exact hj
    rw [if_neg hj, State.setCsp_csp] at hop
    rw [if_neg hj] at hi ⊢
    simp only [Bool.and_eq_true, beq_iff_eq, Bool.not_eq_true'] at hi
    obtain ⟨⟨⟨⟨⟨hz, hwait⟩, hy⟩, hpar⟩, hok⟩, hsp⟩ := hi
    have hstate : ((cspNext s i).csp i.cluster.val).state = .running := hy
    have hnext : (s.cspBoundary i.cluster.val).cspSettle i.cluster.val (passNops 4096 ((s.cspBoundary i.cluster.val).csp i.cluster.val)) =
      cspNext s i := rfl
    rw [if_neg hjoin, if_neg, hnext, if_neg (not_not_intro hstate), if_neg (by rw [hpar]; exact Bool.false_ne_true), if_neg (by rw [hok]; decide),
      if_neg (by rw [hsp]; decide), hop, cspSettle_setCsp_inl, cspSettle_setCsp_inl]
    rintro (h | h)
    · exact h hz
    · revert h hwait
      split <;> simp_all

/-- An operation runs as `g` says where its effect is `g` on every CSP that `can` holds of. -/
theorem cspRuns_of_op (he : ∀ s, exec c s = .next (runCsp s i o op)) (hop : ∀ x, can x → op x = .inl (g x)) : CspRuns c i o can g := by
  intro s hi hc
  rw [he, runCsp_issues hi (hop _ hc)]

end

section
variable {x : Csp} {f : CspCore → CspCore → CspRes} {op : CspRep}

theorem repOp_once (h : cspOnce x) : repOp op x = iterateCsp x x.atIssue op := by
  unfold repOp
  simp only [show x.core.repeats = false from h]

theorem plainOp_once (h : cspOnce x) : plainOp f x = f x.atIssue x.core := by
  unfold plainOp
  rw [if_neg (by rw [show x.core.repeats = false from h]; exact Bool.false_ne_true)]

theorem controlOp_once (h : cspOnce x) : controlOp f x = f x.atIssue x.core := by
  unfold controlOp
  rw [if_neg (by rw [show x.core.repeats = false from h]; exact Bool.false_ne_true)]

theorem withRead_good {a n : Nat} {h : List Byte → CspRes} {y : Csp} (hf : accessFault x a n true = none) (hy : h (dmemRead x.core a n) = .inl y) :
    withRead x a n h = .inl (correctRead a n y) := by
  unfold withRead
  simp only [hf, hy]

theorem accessFault_write {a n : Nat} (h : a % n = 0) : accessFault x a n false = none := by
  unfold accessFault
  rw [if_neg (not_not_intro h)]
  rfl

end

/-- TUPD's sums in the terms of the products of 10 R230: `neg` and the conjugate of the sample. -/
theorem tapUpdate_cmulParts (smp q : Word) (h : Nat) (neg : Bool) (m : Int × Int) :
    tapUpdate smp q h neg m =
      (let p := cmulParts q smp true neg
       let re := m.1 + rhuShift p.1 h
       let im := m.2 + rhuShift p.2 h
       ((satInt 32 re, satInt 32 im), satInt 32 re != re || satInt 32 im != im)) := by
  have hre : partRe smp * partRe q + partIm smp * partIm q = partRe q * partRe smp - partIm q * -partIm smp := by
    rw [Int.mul_neg, Int.sub_neg, Int.mul_comm (partRe smp), Int.mul_comm (partIm smp)]
  have him : partRe smp * partIm q - partIm smp * partRe q = partRe q * -partIm smp + partIm q * partRe smp := by
    rw [Int.mul_neg, Int.add_comm, ← Int.sub_eq_add_neg, Int.mul_comm (partRe smp), Int.mul_comm (partIm smp)]
  unfold tapUpdate cmulParts satTo
  rw [hre, him]
  cases neg <;> rfl

theorem tapCoefficient_eq (re im : Int) :
    tapCoefficient (re, im) =
      (packParts (satInt 16 (rhuShift re 16)) (satInt 16 (rhuShift im 16)),
        satInt 16 (rhuShift re 16) != rhuShift re 16 || satInt 16 (rhuShift im 16) != rhuShift im 16) := rfl

/-- TCOPY writes the rounded copy of the coefficient at once. -/
theorem iterateCsp_tcopy {x : Csp} {r : CspCore} {a b : CspMem} (hsrc : accessFault x (cI r a.i).toNat 16 true = none)
    (hdst : (cI r b.i).toNat % 4 = 0) :
    iterateCsp x r (.tcopy a b) = .inl (correctRead (cI r a.i).toNat 16
      (let v := dmemRead x.core (cI r a.i).toNat 16
       let re := rhuShift (signedOf 32 (leNat ((v.drop 8).take 4))) 16
       let im := rhuShift (signedOf 32 (leNat (v.drop 12))) 16
       let k := raiseSat (freeB x.core) (satInt 16 re != re || satInt 16 im != im)
       let m := dmemPut k.dmem (cI r b.i).toNat (leBytes 4 (packParts (satInt 16 re) (satInt 16 im)).toNat)
       { x with core := postMod r (postMod r { k with slots := 2, dmem := m } a) b })) := by
  unfold iterateCsp
  refine withRead_good hsrc ?_
  generalize dmemRead x.core (cI r a.i).toNat 16 = v
  simp -zeta only [accessFault_write hdst, tapCoefficient_eq]
  rfl

/-- Settles O21: `cspRuns_of_op` with each operation's effect outside a repeat. -/
theorem cspProducts : Obligations.CspProducts := by
  refine ⟨⟨?_, ?_, ?_, ?_, ?_, ?_, ?_, ?_⟩, ?_, ?_, ?_⟩
  · intro i acc a b conj neg
    refine cspRuns_of_op (fun _ => rfl) fun x hx => ?_
    rw [repOp_once hx]
    rfl
  · intro i acc a b conj neg
    refine cspRuns_of_op (fun _ => rfl) fun x ⟨hx, ha, hb⟩ => ?_
    rw [repOp_once hx]
    unfold iterateCsp
    refine withRead_good ha ?_
    exact withRead_good hb rfl
  · intro i acc a b neg
    refine cspRuns_of_op (fun _ => rfl) fun x ⟨hx, ha, hb⟩ => ?_
    rw [repOp_once hx]
    unfold iterateCsp
    refine withRead_good ha ?_
    exact withRead_good hb rfl
  · intro i acc
    refine cspRuns_of_op (fun _ => rfl) fun x hx => ?_
    exact plainOp_once hx
  · intro i acc a sh hsh
    refine cspRuns_of_op (fun _ => rfl) fun x ⟨hx, ha⟩ => (plainOp_once hx).trans ?_
    rw [if_neg (by omega)]
    exact withRead_good ha rfl
  · intro i acc a sh hsh
    refine cspRuns_of_op (fun _ => rfl) fun x hx => (plainOp_once hx).trans ?_
    rw [if_neg (by omega)]
    rfl
  · intro i acc a sh hsh
    refine cspRuns_of_op (fun _ => rfl) fun x hx => (plainOp_once hx).trans ?_
    rw [if_neg (by omega)]
    rfl
  · intro i dst a b sh conj hsh
    refine cspRuns_of_op (fun _ => rfl) fun x hx => (plainOp_once hx).trans ?_
    rw [if_neg (by omega)]
    rfl
  · intro i acc a conj neg mv hmv
    refine cspRuns_of_op (fun _ => rfl) fun x ⟨hx, ha⟩ => ?_
    rw [repOp_once hx]
    unfold iterateCsp
    refine (if_neg hmv).trans ?_
    exact withRead_good ha rfl
  · intro i a dq dh neg
    refine cspRuns_of_op (fun _ => rfl) fun x ⟨hx, ha, hh⟩ => ?_
    rw [repOp_once hx]
    unfold iterateCsp
    refine (if_neg (by omega)).trans ?_
    refine withRead_good ha ?_
    rw [tapUpdate_cmulParts]
    rfl
  · intro i a b
    exact cspRuns_of_op (fun _ => rfl) fun x ⟨hx, ha, hb⟩ => (repOp_once hx).trans (iterateCsp_tcopy ha hb)

end Sys2Proof.Machine
end

section
/-! PROOFS. Control operations of a CSP's program, its interrupts and its control (10 R223, R232–R237). -/
namespace Sys2Proof.Machine

section
variable {x : Csp}

/-! ## Branches, loops and repeats -/

theorem rptOp_ok {n : CspCount} {clr : Bool} {c : Nat} (hx : cspOnce x)
    (hn : c = match n with | .imm v => v.toNat | .reg d => (cD x.atIssue d).toNat) (hmax : c ≤ x.rptMax.toNat) :
    rptOp n clr x = .inl { x with core := { x.core with rpt := some (c, clr) } } := by
  have hsize := x.rptMax.isLt
  refine (controlOp_once hx).trans ?_
  cases n with
  | imm v => subst hn; exact if_neg (by dsimp only at hmax ⊢; omega)
  | reg d => subst hn; exact if_neg (by dsimp only at hmax ⊢; omega)

/-- The level that a LOOP finds active. -/
def activeLoops (r : CspCore) : Nat := if r.st.lpen then r.depth.toNat else 0

theorem loopOp_skip {d : CspD} {off : BitVec 10} (hx : cspOnce x) (hoff : off ≠ 0) (hact : activeLoops x.atIssue < 2) (hd : cD x.atIssue d = 0) :
    loopOp d off x = .inl { x with core := { x.core with
      st := { x.core.st with lpen := true }
      depth := BitVec.ofNat 2 (activeLoops x.atIssue)
      skip := some (x.atIssue.pc + off.zeroExtend 12) } } := by
  refine (controlOp_once hx).trans ?_
  unfold activeLoops at hact ⊢
  dsimp only
  rw [if_neg hoff, if_neg (by omega), if_pos hd]
  rfl

theorem loopOp_body {d : CspD} {off : BitVec 10} (hx : cspOnce x) (hoff : off ≠ 0) (hact : activeLoops x.atIssue < 2) (hd : cD x.atIssue d ≠ 0) :
    loopOp d off x =
      (let k := { x.core with st := { x.core.st with lpen := true }, depth := BitVec.ofNat 2 (activeLoops x.atIssue + 1) }
       .inl { x with core := if activeLoops x.atIssue = 0
          then { k with lc0 := cD x.atIssue d, ls0 := x.atIssue.pc + 1, le0 := x.atIssue.pc + off.zeroExtend 12 }
          else { k with lc1 := cD x.atIssue d, ls1 := x.atIssue.pc + 1, le1 := x.atIssue.pc + off.zeroExtend 12 } }) := by
  refine (controlOp_once hx).trans ?_
  unfold activeLoops at hact ⊢
  dsimp only
  rw [if_neg hoff, if_neg (by omega), if_neg hd]
  rfl

/-- Is the branch of a condition taken on a value? -/
def branches (cond : Nat) (v : Word) : Bool :=
  match cond with
  | 0 => true
  | 1 => v == 0
  | 2 => v != 0
  | 3 => v.slt 0
  | _ => !v.slt 0

theorem branches_iff {cond : BitVec 3} {v : Word} (hc : cond.toNat ≤ 4) :
    branches cond.toNat v = true ↔
      cond = 0 ∨ (cond = 1 ∧ v = 0) ∨ (cond = 2 ∧ v ≠ 0) ∨ (cond = 3 ∧ v.toInt < 0) ∨ (cond = 4 ∧ 0 ≤ v.toInt) := by
  have hcase : cond = 0 ∨ cond = 1 ∨ cond = 2 ∨ cond = 3 ∨ cond = 4 := by bv_omega
  have hneg : v.slt 0#32 = true ↔ v.toInt < 0 := BitVec.slt_iff_toInt_lt
  obtain rfl | rfl | rfl | rfl | rfl := hcase
  · simp [branches]
  · simp [branches]
  · simp [branches]
  · simp [branches, hneg]
  · simp [branches, ← hneg, ← Int.not_lt]

theorem cspBrOp_ok {d : CspD} {cond : BitVec 3} {off : BitVec 12} (hx : cspOnce x) (hc : cond.toNat ≤ 4) :
    cspBrOp d cond off x = .inl (if branches cond.toNat (cD x.atIssue d) = true then
      { x with core := { x.core with target := some (x.atIssue.pc + off) } } else x) := by
  refine (controlOp_once hx).trans ((if_neg (by omega)).trans ?_)
  show okCore x (if branches cond.toNat (cD x.atIssue d) = true then _ else _) = _
  cases branches cond.toNat (cD x.atIssue d) with
  | true => rfl
  | false => rfl

theorem iretOp_one (hx : cspOnce x) (h : x.atIssue.st.level = 1) :
    iretOp x = .inl { x with core := { x.core with st := x.atIssue.est1, target := some x.atIssue.epc1 } } := by
  refine (controlOp_once hx).trans ?_
  dsimp only
  rw [h]
  rfl

theorem iretOp_two (hx : cspOnce x) (h : x.atIssue.st.level = 2) :
    iretOp x = .inl { x with core := { x.core with st := x.atIssue.est2, target := some x.atIssue.epc2 } } := by
  refine (controlOp_once hx).trans ?_
  dsimp only
  rw [h]
  rfl

/-- Without a repeat the bundle in issue ends. -/
theorem endBundle_once (hx : cspOnce x) (hrep : x.core.rep = none) : ∃ y, endBundle x = .inl y := by
  unfold endBundle
  by_cases hb : x.core.busy = true
  · have hrest : restIterations 65536 x = .inl x := by
      rw [restIterations, hrep]
    rw [if_neg (by simp [hb]), if_neg (by rw [show x.core.repeats = false from hx]; simp), hrest]
    dsimp only
    split
    · exact ⟨_, rfl⟩
    · exact ⟨_, rfl⟩
  · exact ⟨x, by rw [if_pos (by simpa using hb)]⟩

/-! ## LSAVE and LREST -/

theorem leNat_leBytes (n v : Nat) : leNat (leBytes n v) = v % 256 ^ n := by
  induction n generalizing v with
  | zero => rw [Nat.pow_zero, Nat.mod_one]; rfl
  | succ n ih =>
    have hsplit : v % 256 ^ (n + 1) = v % 256 + 256 * (v / 256 % 256 ^ n) := by rw [Nat.pow_succ', Nat.mod_mul]
    rw [leBytes, leNat, ih, BitVec.toNat_ofNat, hsplit]

/-- A register of `n` bits reads back from its bytes. -/
theorem ofNat_leBytes {n : Nat} (m : Nat) (v : BitVec n) (h : n ≤ 8 * m) : BitVec.ofNat n (leNat (leBytes m v.toNat)) = v := by
  have hlt : v.toNat < 256 ^ m := Nat.lt_of_lt_of_le v.isLt (by rw [show (256 : Nat) = 2 ^ 8 from rfl, ← Nat.pow_mul]; exact Nat.pow_le_pow_right (by decide) h)
  rw [leNat_leBytes, Nat.mod_eq_of_lt hlt, BitVec.ofNat_toNat, BitVec.setWidth_eq]

theorem length_dmemRead (k : CspCore) (a n : Nat) : (dmemRead k a n).length = n := by
  rw [dmemRead, List.length_map, upTo, List.length_range]

theorem lsaveOp_ok {a : CspI} (hx : cspOnce x) (ha : (cI x.atIssue a).toNat % 16 = 0) :
    lsaveOp a x = .inl
      (let k := (cspSlots 2 x).core
       let put (t : Table Byte) (e : Byte × Nat) : Table Byte := t.set 0 (((cI x.atIssue a).toNat + e.2) % 2 ^ 18) e.1
       { x with core := { k with dmem := (loopBytes x.atIssue).zipIdx.foldl put k.dmem } }) := by
  refine (controlOp_once hx).trans ?_
  dsimp only
  rw [accessFault_write ha, List.foldl_map]
  rfl

theorem lrestOp_ok {a : CspI} {k : CspCore} (hx : cspOnce x) (h1 : accessFault (cspSlots 2 x) (cI x.atIssue a).toNat 16 true = none)
    (h2 : accessFault (cspSlots 2 x) (((cI x.atIssue a).toNat + 16) % 2 ^ 18) 16 true = none)
    (hk : dmemRead (cspSlots 2 x).core (cI x.atIssue a).toNat 16 ++ dmemRead (cspSlots 2 x).core (((cI x.atIssue a).toNat + 16) % 2 ^ 18) 16 =
      loopBytes k) :
    lrestOp a x = .inl
      (let y := cspSlots 2 x
       let p := (cI x.atIssue a).toNat
       correctRead p 16 (correctRead ((p + 16) % 2 ^ 18) 16
        { x with core := { y.core with
            lc0 := k.lc0, ls0 := k.ls0, le0 := k.le0, lc1 := k.lc1, ls1 := k.ls1, le1 := k.le1, depth := k.depth
            st := { y.core.st with lpen := y.core.st.lpen || k.depth != 0 } } })) := by
  have hlo : dmemRead (takeX 2 x.core) (cI x.atIssue a).toNat 16 = (loopBytes k).take 16 := by
    rw [← hk, List.take_left' (length_dmemRead _ _ _)]
    rfl
  have hhi : dmemRead (takeX 2 x.core) (((cI x.atIssue a).toNat + 16) % 2 ^ 18) 16 = (loopBytes k).drop 16 := by
    rw [← hk, List.drop_left' (length_dmemRead _ _ _)]
    rfl
  refine (controlOp_once hx).trans (withRead_good h1 (withRead_good h2 ?_))
  have hlc0 : BitVec.ofNat 32 (leNat ((((loopBytes k).take 16).drop 0).take 4)) = k.lc0 := ofNat_leBytes 4 k.lc0 (by decide)
  have hls0 : BitVec.ofNat 12 (leNat ((((loopBytes k).take 16).drop 4).take 2)) = k.ls0 := ofNat_leBytes 2 k.ls0 (by decide)
  have hle0 : BitVec.ofNat 12 (leNat ((((loopBytes k).take 16).drop 6).take 2)) = k.le0 := ofNat_leBytes 2 k.le0 (by decide)
  have hlc1 : BitVec.ofNat 32 (leNat ((((loopBytes k).take 16).drop 8).take 4)) = k.lc1 := ofNat_leBytes 4 k.lc1 (by decide)
  have hls1 : BitVec.ofNat 12 (leNat ((((loopBytes k).take 16).drop 12).take 2)) = k.ls1 := ofNat_leBytes 2 k.ls1 (by decide)
  have hle1 : BitVec.ofNat 12 (leNat ((((loopBytes k).take 16).drop 14).take 2)) = k.le1 := ofNat_leBytes 2 k.le1 (by decide)
  have hdepth : BitVec.ofNat 2 (leNat (((loopBytes k).drop 16).take 1)) = k.depth := ofNat_leBytes 1 k.depth (by decide)
  simp only [hlo, hhi, hlc0, hls0, hle0, hlc1, hls1, hle1, hdepth]
  rfl

theorem haltOp_ok (hx : cspOnce x) (hrep : x.core.rep = none) :
    haltOp x = .inl (match endBundle x with
      | .inl y => { y with state := .stopped, stopPc := x.atIssue.pc, run := false, core := landAll y.core }
      | .inr _ => x) := by
  obtain ⟨y, hy⟩ := endBundle_once hx hrep
  refine (controlOp_once hx).trans ?_
  rw [hy] <;> rfl

theorem cspSignal_found {s : State} {c : Nat} {n : BitVec 4} {e : BitVec 4 × Fin 1024} (h : (s.csp c).signals.find? (·.1 = n) = some e) :
    s.cspSignal c n = (s.semSignal e.2.val).1 := by
  unfold State.cspSignal
  rw [h]

theorem cspSignal_mailbox {s : State} {c : Nat} {n : BitVec 4} (h : (s.csp c).signals.find? (·.1 = n) = none) :
    s.cspSignal c n = s.setCsp c { s.csp c with mailbox := some n } := by
  unfold State.cspSignal
  rw [h]

end

/-- Settles O23: `cspRuns_of_op` with each operation's effect. -/
theorem cspControl : Obligations.CspControl := by
  refine ⟨⟨?_, ?_, ?_, ?_, ?_, ?_, ?_, ?_, ?_, ?_, ?_, ?_, ?_, ?_⟩, ?_, ?_⟩
  · exact fun i n clr => cspRuns_of_op (fun _ => rfl) fun x ⟨hx, hn⟩ => rptOp_ok hx rfl hn
  · exact fun i d clr => cspRuns_of_op (fun _ => rfl) fun x ⟨hx, hn⟩ => rptOp_ok hx rfl hn
  · intro i d off hoff
    refine ⟨cspRuns_of_op (fun _ => rfl) fun x ⟨hx, hlp, hd⟩ => ?_, cspRuns_of_op (fun _ => rfl) fun x ⟨hx, hlp, hdep, hd⟩ => ?_,
      cspRuns_of_op (fun _ => rfl) fun x ⟨hx, hdep, hd⟩ => ?_⟩
    · have hact : activeLoops x.atIssue = 0 := if_neg (by rw [hlp]; exact Bool.false_ne_true)
      rw [loopOp_body hx hoff (by omega) hd, hact]
      rfl
    · have hact : activeLoops x.atIssue = 1 := (if_pos hlp).trans (by rw [hdep]; rfl)
      rw [loopOp_body hx hoff (by omega) hd, hact]
      rfl
    · have hact : activeLoops x.atIssue < 2 := by
        unfold activeLoops
        split
        · next h => exact Nat.lt_succ_of_le (hdep h)
        · decide
      have hdepth : BitVec.ofNat 2 (activeLoops x.atIssue) = if x.atIssue.st.lpen then x.atIssue.depth else 0 := by
        unfold activeLoops
        split
        · rw [BitVec.ofNat_toNat, BitVec.setWidth_eq]
        · rfl
      rw [loopOp_skip hx hoff hact hd, hdepth]
  · intro i d cond off hc
    refine cspRuns_of_op (fun _ => rfl) fun x hx => ?_
    rw [cspBrOp_ok hx hc]
    exact congrArg Sum.inl (ite_congr (propext (branches_iff hc)) (fun _ => rfl) fun _ => rfl)
  · exact fun i off => cspRuns_of_op (fun _ => rfl) fun x hx => controlOp_once hx
  · exact fun i => cspRuns_of_op (fun _ => rfl) fun x hx => controlOp_once hx
  · exact fun i => cspRuns_of_op (fun _ => rfl) fun x ⟨hx, hl⟩ => iretOp_one hx hl
  · exact fun i => cspRuns_of_op (fun _ => rfl) fun x ⟨hx, hl⟩ => iretOp_two hx hl
  · exact fun i mask => cspRuns_of_op (fun _ => rfl) fun x hx => controlOp_once hx
  · exact fun i n => cspRuns_of_op (fun _ => rfl) fun x hx => controlOp_once hx
  · exact fun s c n => ⟨fun e h => cspSignal_found h, fun h => cspSignal_mailbox h⟩
  · exact fun i => cspRuns_of_op (fun _ => rfl) fun x hx => controlOp_once hx
  · exact fun i => cspRuns_of_op (fun _ => rfl) fun x hx => controlOp_once hx
  · exact fun i => cspRuns_of_op (fun _ => rfl) fun x ⟨hx, hrep⟩ => haltOp_ok hx hrep
  · exact fun i a => cspRuns_of_op (fun _ => rfl) fun x ⟨hx, ha⟩ => lsaveOp_ok hx ha
  · exact fun i a k => cspRuns_of_op (fun _ => rfl) fun x ⟨hx, h1, h2, hk⟩ => lrestOp_ok hx h1 h2 hk

end Sys2Proof.Machine
end

section
/-! PROOFS. Events and control of a CSP (10 R223, R234–R237). -/
namespace Sys2Proof.Machine

section
variable {s u : State} {c : Nat} {x : Csp}

/-- Where the CSPs are the same, a CSP is. -/
theorem csp_congr (h : u.csps = s.csps) (k : Nat) : u.csp k = s.csp k := by
  rw [State.csp, h]
  rfl

/-! ## Results put into the state -/

/-- A CSP whose signals and answers have gone out, its mailbox apart. -/
def Flushed (x y : Csp) : Prop :=
  ∃ m, y = { x with signalled := [], mailbox := m, core := { x.core with ext := { x.core.ext with answers := [] } } }

theorem cspSignal_flushed {n : BitVec 4} (h : Flushed x (s.csp c)) : Flushed x ((s.cspSignal c n).csp c) := by
  obtain ⟨m, hm⟩ := h
  unfold State.cspSignal
  split
  · exact ⟨m, by rw [csp_congr ((Within.refl.semSignal (s := s)).same .csps (by decide)), hm]⟩
  · exact ⟨some n, by rw [State.setCsp_csp, hm]⟩

theorem cspFlush_flushed : Flushed (s.csp c) ((s.cspFlush c).csp c) := by
  have hsignals : ∀ (ns : List (BitVec 4)) (u : State), Flushed (s.csp c) (u.csp c) → Flushed (s.csp c) ((ns.foldl (State.cspSignal c) u).csp c) := by
    intro ns
    induction ns with
    | nil => exact fun u h => h
    | cons n ns ih => exact fun u h => ih _ (cspSignal_flushed h)
  have hanswers : ∀ (es : List (Bool × Nat)) (u : State),
      (es.foldl (fun s e => s.emit (if e.1 then .word "CSP_READ_REFUSED" (Code.csp 3).toNat else .word "CSP_READ" e.2)) u).csp c = u.csp c := by
    intro es
    induction es with
    | nil => exact fun u => rfl
    | cons e es ih => exact fun u => ih _
  unfold State.cspFlush
  refine hsignals _ _ ⟨(s.csp c).mailbox, ?_⟩
  rw [hanswers, State.setCsp_csp]

/-- A result stands in the CSP, flushed where it has signals or answers. -/
theorem cspSettle_csp : (s.cspSettle c (.inl x)).csp c = x ∨ Flushed x ((s.cspSettle c (.inl x)).csp c) := by
  unfold State.cspSettle
  dsimp only
  split
  · exact .inl (State.setCsp_csp ..)
  · have h := cspFlush_flushed (s := s.setCsp c x) (c := c)
    rw [State.setCsp_csp] at h
    exact .inr h

/-- What the next bundle depends on is the same in two CSPs: state, registers of control, and what pends. -/
structure SameControl (x y : Csp) : Prop where
  state : y.state = x.state
  rpt : y.core.rpt = x.core.rpt
  waiting : y.core.waiting = x.core.waiting
  st : y.core.st = x.core.st
  pc : y.core.pc = x.core.pc
  pending : y.pending = x.pending
  irqLevel : y.irqLevel = x.irqLevel

theorem boundary_idle (hrun : (s.csp c).state = .running) (hb : (s.csp c).core.busy = false) : SameControl (s.csp c) ((s.cspBoundary c).csp c) := by
  have hend : endBundle (s.csp c) = .inl (s.csp c) := by
    unfold endBundle
    rw [if_pos (by rw [hb]; rfl)]
  unfold State.cspBoundary
  rw [if_pos hrun, hend]
  rcases cspSettle_csp (s := s) (c := c) (x := s.csp c) with h | ⟨m, h⟩
  · rw [h]; exact ⟨rfl, rfl, rfl, rfl, rfl, rfl, rfl⟩
  · rw [h]; exact ⟨rfl, rfl, rfl, rfl, rfl, rfl, rfl⟩

/-! ## Interrupts -/

theorem nextSource_congr {y : Csp} (h : SameControl x y) : nextSource y = nextSource x := by
  unfold nextSource srcLevel
  rw [h.st, h.pending, h.irqLevel]

theorem cspInterrupt_taken {n : Nat} (hrun : (s.csp c).state = .running) (hb : (s.csp c).core.busy = false) (hrpt : (s.csp c).core.rpt = none)
    (hn : nextSource (s.csp c) = some n) : cspInterrupt c s = (s.cspBoundary c).setCsp c (takeInterrupt ((s.cspBoundary c).csp c) n) := by
  have h := boundary_idle hrun hb
  unfold cspInterrupt
  dsimp only
  rw [if_neg, nextSource_congr h, hn]
  rw [h.state, h.rpt, hrun, hrpt]
  simp

/-- Entry: the level's pair holds pc and status, and the source no longer pends. -/
theorem takeInterrupt_entry {y : Csp} {n : Nat} (h : SameControl x y) (hw : x.core.waiting = none) :
    (takeInterrupt y n).core.st = { x.core.st with level := BitVec.ofNat 2 (srcLevel x n), ie := false, lpen := false } ∧
    (takeInterrupt y n).core.pc = (if srcLevel x n = 2 then 0x020 else 0x010) ∧
    (srcLevel x n = 2 → (takeInterrupt y n).core.epc2 = x.core.pc ∧ (takeInterrupt y n).core.est2 = x.core.st) ∧
    (srcLevel x n ≠ 2 → (takeInterrupt y n).core.epc1 = x.core.pc ∧ (takeInterrupt y n).core.est1 = x.core.st) ∧
    (takeInterrupt y n).pending = x.pending &&& ~~~(BitVec.ofNat 8 (2 ^ n)) := by
  have hlevel : srcLevel y n = srcLevel x n := by unfold srcLevel; rw [h.irqLevel]
  unfold takeInterrupt
  simp only [hlevel, h.waiting, hw, h.st, h.pc, h.pending, Bool.false_eq_true, if_false]
  by_cases h2 : srcLevel x n = 2
  · simp only [h2, if_true]
    exact ⟨trivial, trivial, fun _ => ⟨trivial, trivial⟩, fun h => absurd rfl h, trivial⟩
  · simp only [h2, if_false]
    exact ⟨trivial, trivial, fun h => absurd h id, fun _ => ⟨trivial, trivial⟩, trivial⟩

/-! ## Control -/

theorem runProg_start (h : x.state = .loaded ∨ x.state = .stopped) :
    (runProg x).state = .running ∧ (runProg x).core.pc = 0 ∧ (runProg x).fault = none ∧ (runProg x).run = true ∧ (runProg x).core.d = x.core.d ∧
    (runProg x).prog = x.prog ∧ (runProg x).signals = x.signals := by
  unfold runProg
  rcases h with h | h
  · simp only [h]; exact ⟨trivial, trivial, trivial, trivial, trivial, trivial, trivial⟩
  · simp only [h]; exact ⟨trivial, trivial, trivial, trivial, trivial, trivial, trivial⟩

theorem loadProg_full {p : CspImage} (h : x.state ≠ .empty) : loadProg p x = x := by
  unfold loadProg
  rw [if_neg fun h' => h h'.1]

theorem loadProg_empty {p : CspImage} (h : x.state = .empty) (hp : p.bundles ≠ []) :
    (loadProg p x).state = .loaded ∧ (loadProg p x).signals = p.signals ∧
    (loadProg p x).prog = ((p.bundles.take 4096).zipIdx).foldl (fun t e => t.set 0 e.2 e.1) x.prog := by
  unfold loadProg
  rw [if_pos ⟨h, by simpa using hp⟩]
  exact ⟨rfl, rfl, rfl⟩

theorem runProg_other (h : x.state = .running ∨ x.state = .faulted ∨ x.state = .zeroising) : runProg x = { x with run := true } := by
  unfold runProg
  rcases h with h | h | h
  · simp only [h]
  · simp only [h]
  · simp only [h]

theorem forceStop_running (h : x.state = .running) :
    (forceStop x).state = .stopped ∧ (forceStop x).core.defers = [] ∧ (forceStop x).core.dmem = x.core.dmem ∧ (forceStop x).core.d = x.core.d := by
  unfold forceStop
  rw [if_pos h]
  exact ⟨rfl, rfl, rfl, rfl⟩

theorem exec_cspRun (c : ClusterId) (image : CspImage) (s : State) :
    exec (.cspRun c image) s = .next (s.setCsp c.val (runProg (loadProg image (s.csp c.val)))) := rfl

/-! ## External accesses -/

theorem cspAccess_refused {a : CspAccess} (h : accessOk a = false) : s.cspAccess c a = s.emit (.word "CSP_ACCESS_REFUSED" (Code.csp 2).toNat) := by
  unfold State.cspAccess
  dsimp only
  rw [if_pos (by rw [h]; rfl)]

theorem cspAccess_served {a : CspAccess} (h : accessOk a = true) (hidle : (s.csp c).state ≠ .running ∨ (s.csp c).core.waiting.isSome = true) :
    s.cspAccess c a = s.cspSettle c (.inl { s.csp c with core := serveAccess (s.csp c).core a }) := by
  unfold State.cspAccess
  dsimp only
  rw [if_neg (by rw [h]; decide), if_pos hidle]

theorem cspAccess_waits {a : CspAccess} (h : accessOk a = true) (hrun : (s.csp c).state = .running) (hw : (s.csp c).core.waiting = none) :
    s.cspAccess c a = s.setCsp c { s.csp c with core := { (s.csp c).core with
      ext := { (s.csp c).core.ext with waiting := (s.csp c).core.ext.waiting ++ [(a, 0)] } } } := by
  unfold State.cspAccess
  dsimp only
  rw [if_neg (by rw [h]; decide), if_neg (by rw [hrun, hw]; decide)]

theorem stealSlot_due {k : CspCore} {a : CspAccess} {w : Nat} {r : List (CspAccess × Nat)} (hk : k.ext.waiting = (a, w) :: r) (hw : 64 ≤ w) :
    stealSlot k = serveAccess { k with ext := { k.ext with waiting := r, stolen := true } } a := by
  unfold stealSlot
  simp only [hk]
  rw [if_pos hw]

theorem exec_cspExternalAccess (c : ClusterId) (cause : CspCause) (a : CspAccess) (s : State) :
    exec (.cspExternalAccess c cause a) s = .next (externalAccess c.val cause a s) := rfl

theorem externalAccess_none (a : CspAccess) : externalAccess c .none a s = s.cspAccess c a := rfl

theorem externalAccess_cause {cause : CspCause} {n : Nat} (a : CspAccess) (h : causeSource cause = some n) :
    externalAccess c cause a s = externalAccess c .none a (s.cspPend c n) := by
  rw [externalAccess_none]
  unfold externalAccess
  rw [h]

theorem exec_cspExternalSteal (c : ClusterId) (s : State) :
    exec (.cspExternalSteal c) s = .next (s.cspSettle c.val (.inl { s.csp c.val with core := stealSlot (s.csp c.val).core })) := rfl

end

/-- Settles O24: interrupts through `boundary_idle`, control and accesses by the CSP's state. -/
theorem cspEvents : Obligations.CspEvents := by
  refine ⟨?_, ?_, ?_, ?_, ?_, ?_, ?_, ?_, ?_, ?_⟩
  · intro s c n x hrun hb hrpt hw hn
    obtain ⟨hst, hpc, h2, h1, hpend⟩ := takeInterrupt_entry (n := n) (boundary_idle hrun hb) hw
    refine ⟨_, congrArg Host.Outcome.next (cspInterrupt_taken hrun hb hrpt hn), ?_⟩
    dsimp only
    rw [State.setCsp_csp, hst]
    exact ⟨rfl, rfl, rfl, hpc, h2, h1, hpend⟩
  · intro s c image h
    refine ⟨_, exec_cspRun c image s, ?_⟩
    dsimp only
    rw [State.setCsp_csp, loadProg_full (by rcases h with h | h <;> rw [h] <;> decide)]
    obtain ⟨hstate, hpc, hfault, hrun, hd, hprog, -⟩ := runProg_start h
    exact ⟨hstate, hpc, hfault, hrun, hd, hprog⟩
  · intro s c image h hp
    refine ⟨_, exec_cspRun c image s, ?_⟩
    dsimp only
    obtain ⟨hloaded, hsignals, hprog⟩ := loadProg_empty h hp
    obtain ⟨hstate, hpc, -, -, -, hprog', hsignals'⟩ := runProg_start (.inl hloaded)
    rw [State.setCsp_csp]
    exact ⟨hstate, hpc, hsignals'.trans hsignals, hprog'.trans hprog⟩
  · intro s c image h
    rw [exec_cspRun, loadProg_full (by rcases h with h | h | h <;> rw [h] <;> decide), runProg_other h]
  · intro s c h
    refine ⟨s.setCsp c.val (forceStop (s.csp c.val)), rfl, ?_⟩
    dsimp only
    rw [State.setCsp_csp]
    exact forceStop_running h
  · intro s c h
    exact congrArg (fun y => Host.Outcome.next (s.setCsp c.val y)) (if_neg h)
  · intro s c h
    refine ⟨s.setCsp c.val (zeroedCsp (s.csp c.val)), rfl, ?_⟩
    dsimp only
    rw [State.setCsp_csp, zeroedCsp, if_pos h]
    exact ⟨rfl, rfl, rfl, rfl, rfl⟩
  · intro s c a x
    refine ⟨fun h hidle => ?_, fun h hrun hw => ?_, fun h => ?_, fun cause n h => ?_⟩
    · rw [exec_cspExternalAccess, externalAccess_none, cspAccess_served h hidle]
    · rw [exec_cspExternalAccess, externalAccess_none, cspAccess_waits h hrun hw]
    · rw [exec_cspExternalAccess, externalAccess_none, cspAccess_refused h]
      rfl
    · rw [exec_cspExternalAccess, externalAccess_cause a h, exec_cspExternalAccess]
  · exact fun k addr bytes => ⟨rfl, rfl, rfl⟩
  · intro s c a w r x hx hw
    rw [exec_cspExternalSteal, stealSlot_due hx hw]

end Sys2Proof.Machine
end

section
/-! PROOFS. CELL_CONFIG: records that fit take effect or wait, others are refused (02 R28, R54; 03 R67). -/
namespace Sys2Proof.Machine

section
variable {s : State} {u : UlCell} {d : DlCell}

theorem exec_cellConfig (h : QcpHdr) (u : UlCell) (d : DlCell) (s : State) :
    exec (.cellConfig h u d) s = .next (serve s h { role := .operate, legal := [.running] } (cellConfigBody u d)) := rfl

/-- Are the records of one cell, with a HARQ pool inside the radio region of the HBM? -/
def RecordsFit (s : State) (u : UlCell) (d : DlCell) : Prop :=
  d.cellIndex = u.cellIndex ∧ s.inRegion .radio (poolOf u).1 (poolOf u).2 = true ∧ (poolOf u).1 + (poolOf u).2 ≤ hbmSize

theorem cellConfigBody_range (h : ulCellOk u = false ∨ dlCellOk d = false ∨ ¬ RecordsFit s u d) :
    cellConfigBody u d s = (s, .now Code.cfgRange .empty) := by
  unfold cellConfigBody
  dsimp only
  rw [if_pos]
  · rfl
  rcases h with h | h | h
  · exact .inl (by rw [h]; rfl)
  · exact .inr (.inl (by rw [h]; rfl))
  · unfold RecordsFit at h
    refine Classical.byContradiction fun hc => ?_
    simp only [not_or, Bool.not_eq_true', Bool.not_eq_false, Classical.not_not, Nat.not_lt] at hc
    obtain ⟨-, -, hcell, hin, hsize⟩ := hc
    exact h ⟨hcell, hin, hsize⟩

theorem cellConfigBody_fit (hu : ulCellOk u = true) (hd : dlCellOk d = true) (hf : RecordsFit s u d) :
    cellConfigBody u d s =
      (let n := u.cellIndex.toNat
       if s.cellOver n u d then (s, .now Code.cfgCapacity .empty)
       else if (s.cell n).ul.isNone then (s.cellApply n u d, .now Code.ok .empty)
       else (s.modCell n fun c => { c with pending := some (u, d) }, .now Code.ok .empty)) := by
  obtain ⟨hcell, hin, hsize⟩ := hf
  unfold cellConfigBody
  dsimp only
  rw [if_neg]
  · rfl
  · simp only [hu, hd, hcell, hin, Bool.not_true, Bool.false_eq_true, ne_eq, not_true_eq_false, false_or]
    exact Nat.not_lt.2 hsize

end

/-- Settles O25: `cellConfigBody_fit` and `cellConfigBody_range`. -/
theorem cellConfigured : Obligations.CellConfigured := by
  intro h ul dl n m fits
  refine ⟨fun hu hd => ?_, fun hu hd => ?_, fun hu hd => ?_, ?_⟩
  · refine serves_of_body (fun s => exec_cellConfig h ul dl s) fun s ⟨hf, hover, hnone⟩ => ?_
    rw [cellConfigBody_fit hu hd hf]
    dsimp only
    rw [hover, if_neg Bool.false_ne_true, hnone]
    rfl
  · refine serves_of_body (fun s => exec_cellConfig h ul dl s) fun s ⟨hf, hover, hsome⟩ => ?_
    rw [cellConfigBody_fit hu hd hf]
    dsimp only
    rw [hover, if_neg Bool.false_ne_true, if_neg (mt Option.isNone_iff_eq_none.1 hsome)]
  · refine refuses_of_body (fun s => exec_cellConfig h ul dl s) (by decide) fun s ⟨hf, hover⟩ => ?_
    rw [cellConfigBody_fit hu hd hf]
    dsimp only
    rw [hover, if_pos rfl]
    rfl
  · exact refuses_of_body (fun s => exec_cellConfig h ul dl s) (by decide) fun s hbad => cellConfigBody_range hbad

end Sys2Proof.Machine
end

section
/-! PROOFS. Uplink slot configurations, U-plane sections and HARQ staging (02 R30–R36, R46, R47). -/
namespace Sys2Proof.Machine

theorem exec_ulSlotConfig (c : UlSlotCfg) (t0 : Nat) (s : State) : exec (.ulSlotConfig c t0) s = .next (ulSlotConfig c t0 s) := rfl
theorem exec_uplaneSection (sec : USection) (t0 : Nat) (s : State) : exec (.uplaneSection sec t0) s = .next (uplaneSection sec t0 s) := rfl
theorem exec_harqStagingStart (cell : CellId) (slot : AbsSlot) (s : State) :
    exec (.harqStagingStart cell slot) s = .next (harqStart cell.val slot.toNat s) := rfl
theorem exec_harqStagingComplete (cell : CellId) (slot : AbsSlot) (i : Nat) (s : State) :
    exec (.harqStagingComplete cell slot i) s = .next (harqStaged cell.val slot.toNat i s) := rfl
theorem exec_harqWritebackComplete (ue : Fin 4096) (h : Fin 16) (s : State) :
    exec (.harqWritebackComplete ue h) s = .next (writebackDone ue.val h.val s) := rfl

section
variable {s u : State} {cell slot i : Nat}

/-- Where the radio part is the same, cells and their slots are. -/
theorem cell_congr (h : u.radio = s.radio) (c : Nat) : u.cell c = s.cell c := by
  rw [State.cell, h]
  rfl

theorem ulSlot_congr (h : u.radio = s.radio) (c k : Nat) : u.ulSlot c k = s.ulSlot c k := by
  rw [State.ulSlot, cell_congr h]
  rfl

theorem pusch_congr (h : u.ulSlot cell slot = s.ulSlot cell slot) : u.pusch cell slot i = s.pusch cell slot i := by
  rw [State.pusch, h]
  rfl

/-! ## Slot configurations -/

theorem newPuschs_spec (late : Bool) (seen ps : List Pusch) (s : State) :
    (newPuschs late seen ps s).1.map (·.cfg) = ps ∧ (late = true → (newPuschs late seen ps s).1.all (·.noConfig) = true) ∧
    (newPuschs late seen ps s).2.radio = s.radio := by
  induction ps generalizing seen s with
  | nil => exact ⟨rfl, fun _ => rfl, rfl⟩
  | cons p ps ih =>
    unfold newPuschs
    dsimp only
    obtain ⟨hcfg, hlate, hradio⟩ := ih (if (late || seen.any fun q => q.ueCtx == p.ueCtx && q.harqId == p.harqId) then seen else p :: seen) s.draw.2
    refine ⟨congrArg (p :: ·) hcfg, fun h => ?_, hradio.trans rfl⟩
    rw [List.all_cons, hlate h, h]
    rfl

theorem newPucchs_spec (late : Bool) (ps : List Pucch) (s : State) :
    (newPucchs late ps s).1.map (·.cfg) = ps ∧ (late = true → (newPucchs late ps s).1.all (·.noConfig) = true) ∧
    (newPucchs late ps s).2.radio = s.radio := by
  induction ps generalizing s with
  | nil => exact ⟨rfl, fun _ => rfl, rfl⟩
  | cons p ps ih =>
    unfold newPucchs
    dsimp only
    obtain ⟨hcfg, hlate, hradio⟩ := ih s.draw.2
    refine ⟨congrArg (p :: ·) hcfg, fun h => ?_, hradio.trans rfl⟩
    rw [List.all_cons, hlate h, h]
    rfl

/-- What an accepted or late configuration leaves of its slot. -/
structure HoldsConfig (c : UlSlotCfg) (u : UlCell) (t0 : Nat) (late : Bool) (x : UlSlot) : Prop where
  lateCfg : x.lateCfg = late
  accepted : x.accepted = !late
  config : x.config = u
  t0 : x.t0 = t0
  pusch : x.pusch.map (·.cfg) = c.pusch
  pucch : x.pucch.map (·.cfg) = c.pucch
  marked : late = true → (x.pusch.all (·.noConfig) && x.pucch.all (·.noConfig)) = true

theorem ulAccept_spec (r : UlCell) (c : UlSlotCfg) (t0 : Nat) (late : Bool) (s : State) :
    (∃ x, (ulAccept r c t0 late s).ulSlot c.cell.val c.absSlot.toNat = some x ∧ HoldsConfig c r t0 late x) ∧
    ((ulAccept r c t0 late s).cell c.cell.val).ulServed = c.absSlot.toNat :: (s.cell c.cell.val).ulServed := by
  obtain ⟨hp, hplate, hpradio⟩ := newPuschs_spec late [] c.pusch s
  obtain ⟨hq, hqlate, hqradio⟩ := newPucchs_spec late c.pucch (newPuschs late [] c.pusch s).2
  have hcell := cell_congr (hqradio.trans hpradio) c.cell.val
  unfold ulAccept
  dsimp only
  rw [State.setUlSlot_ulSlot]
  constructor
  · refine ⟨_, rfl, ?_⟩
    have hmarked : late = true → ((newPuschs late [] c.pusch s).1.all (·.noConfig) &&
        (newPucchs late c.pucch (newPuschs late [] c.pusch s).2).1.all (·.noConfig)) = true := fun h => by rw [hplate h, hqlate h]; rfl
    cases late with
    | true => exact ⟨rfl, rfl, rfl, rfl, hp, hq, hmarked⟩
    | false => exact ⟨rfl, rfl, rfl, rfl, hp, hq, hmarked⟩
  · rw [State.setUlSlot, State.modCell_cell, State.modCell_cell, hcell]

theorem ulSlotConfig_ok {c : UlSlotCfg} {t0 : Nat} {r : UlCell} {d : DlCell} (hp : s.radio.paused = false)
    (hnew : (s.cell c.cell.val).ulServed.contains c.absSlot.toNat = false) (hr : s.recordsFor c.cell.val c.absSlot.toNat = some (r, d))
    (hok : (c.pusch.all (puschOk r) && c.pucch.all (pucchOk r) && c.prach.all (prachOk r) && c.srs.all (srsOk r)) = true)
    (hberm : s.host.berm = false ∨ c.srs = []) (hcap : ulSlotOver r c = false) :
    ulSlotConfig c t0 s = ulAccept r c t0 (decide (t0 < s.nowNs + ulConfigLead r.mu.toNat)) s := by
  have hgood : ¬ ((!(c.pusch.all (puschOk r) && c.pucch.all (pucchOk r) && c.prach.all (prachOk r) && c.srs.all (srsOk r))) = true ∨
      s.host.berm = true ∧ (!c.srs.isEmpty) = true) := by
    rw [hok]
    rcases hberm with h | h
    · simp [h]
    · simp [h]
  unfold ulSlotConfig
  dsimp only
  rw [if_neg (by rw [hp]; exact Bool.false_ne_true), if_neg (by rw [hnew]; exact Bool.false_ne_true), hr]
  dsimp only
  rw [if_neg hgood, if_neg (by rw [hcap]; exact Bool.false_ne_true)]

theorem ulSlotConfig_twice {c : UlSlotCfg} {t0 : Nat} (hp : s.radio.paused = false)
    (hdup : (s.cell c.cell.val).ulServed.contains c.absSlot.toNat = true) :
    ulSlotConfig c t0 s = s.modCell c.cell.val fun x => { x with cfgDup := bump top32 x.cfgDup } := by
  unfold ulSlotConfig
  dsimp only
  rw [if_neg (by rw [hp]; exact Bool.false_ne_true), if_pos hdup]

/-! ## U-plane sections -/

/-- The cover that a section gives. -/
def coverOf (sec : USection) (stream : Nat) : Cover := { stream, sym := sec.sym.val, prb := sec.prbStart.toNat, count := sec.prbs.length }

/-- The slot that a section meets. -/
def sectionSlot (s : State) (sec : USection) (t0 cell : Nat) (u : UlCell) : UlSlot :=
  (s.ulSlot cell sec.absSlot.toNat).getD (UlSlotEmpty u sec.absSlot t0)

/-- The grid with a section's PRBs put in. -/
def sectionGrid (sec : USection) (u : UlCell) (stream : Nat) (g : Table Word) : Table Word :=
  (inCarrier u sec.prbStart.toNat sec.prbs).zipIdx.foldl (fun g e => gridPut u stream sec.sym.val (sec.prbStart.toNat + e.2) g e.1) g

theorem uplaneSection_of_cell {sec : USection} {t0 : Nat} {r : UlCell} {stream : Nat}
    (hc : s.ulCellOf sec.eaxc.toNat sec.absSlot.toNat = some (cell, r, stream)) (hp : s.radio.paused = false)
    (hl : (sectionSlot s sec t0 cell r).lateCfg = false) :
    uplaneSection sec t0 s =
      (let x := sectionSlot s sec t0 cell r
       if s.nowNs + 2 * slotNs r.mu.toNat < x.t0 then s.modCell cell fun c => { c with early := bump top32 c.early }
       else if x.t0 < s.nowNs ∨ x.intake then s.modCell cell fun c => { c with late := bump top32 c.late }
       else if x.covers.contains (coverOf sec stream) then s.modCell cell fun c => { c with dup := bump top32 c.dup }
       else s.setUlSlot cell sec.absSlot.toNat (some { x with covers := x.covers ++ [coverOf sec stream], grid := sectionGrid sec r stream x.grid })) := by
  unfold uplaneSection
  simp only [hc]
  rw [if_neg]
  · rfl
  · rw [hp]
    exact fun h => h.elim Bool.false_ne_true (by unfold sectionSlot at hl; rw [hl]; exact Bool.false_ne_true)

theorem length_bfpPrb (w : Nat) (p : BfpPrb) : (bfpPrb w p).length = 12 := by
  rw [bfpPrb, List.length_map, upTo, List.length_range]

theorem gridPut_get {r : UlCell} {stream sym prb k : Nat} (g : Table Word) (p : BfpPrb) (hk : k < 12) :
    (gridPut r stream sym prb g p).get 0 (reKey stream sym prb k) =
      reWord (bfpComp r.iqWidth.toNat p.exp.toNat (p.mant.getD (2 * k) 0)) (bfpComp r.iqWidth.toNat p.exp.toNat (p.mant.getD (2 * k + 1) 0)) := by
  unfold gridPut reKey
  rw [get_foldl_set_run, if_pos (by rw [length_bfpPrb]; omega), Nat.sub_zero]
  have hlen : k < (bfpPrb r.iqWidth.toNat p).length := by rw [length_bfpPrb]; exact hk
  rw [List.getD_eq_getElem?_getD, List.getElem?_eq_getElem hlen, Option.getD_some]
  simp [bfpPrb, upTo]

theorem sectionGrid_one {sec : USection} {r : UlCell} {stream : Nat} {p : BfpPrb} (g : Table Word) (hs : sec.prbs = [p])
    (hin : sec.prbStart.toNat < r.nPrb.toNat) : sectionGrid sec r stream g = gridPut r stream sec.sym.val sec.prbStart.toNat g p := by
  have hone : inCarrier r sec.prbStart.toNat sec.prbs = [p] := by
    rw [inCarrier, hs]
    exact List.take_of_length_le (by rw [List.length_singleton]; omega)
  unfold sectionGrid
  rw [hone, List.zipIdx_cons, List.zipIdx_nil, List.foldl_cons, List.foldl_nil, Nat.add_zero]

/-! ## HARQ staging -/

theorem harqStart_one {x : UlSlot} {p : PuschSt} (hx : s.ulSlot cell slot = some x) (ha : x.accepted = true)
    (ht : x.t0 ≤ s.nowNs + stagingLead x.config.mu.toNat) (hp : x.pusch = [p]) :
    (harqStart cell slot s).pusch cell slot 0 = some (stageOne cell p s).1 := by
  unfold harqStart
  simp only [hx]
  rw [if_neg]
  · rw [State.pusch, State.setUlSlot_ulSlot, hp]
    rfl
  · rintro (h | h)
    · rw [ha] at h; exact Bool.false_ne_true h
    · omega

theorem stageOne_staging {p : PuschSt} (hidle : p.staging = .idle) (hin : inHarq p = true) :
    (stageOne cell p s).1.staging = if (s.harq p.cfg.ueCtx.toNat p.cfg.harqId.toNat).ndi ≠ some p.cfg.ndi then .complete
      else if (s.harq p.cfg.ueCtx.toNat p.cfg.harqId.toNat).writeback.isSome then .waiting else .started := by
  unfold stageOne
  dsimp only
  rw [if_neg]
  · split
    · rfl
    · rfl
  · rw [hidle, hin]
    exact fun h => h.elim (fun h => h rfl) Bool.false_ne_true

theorem modPusch_ulSlot {x : UlSlot} {f : PuschSt → PuschSt} (hx : s.ulSlot cell slot = some x) :
    (s.modPusch cell slot i f).ulSlot cell slot = some { x with pusch := modAt x.pusch i f } := by
  unfold State.modPusch
  simp only [hx, State.setUlSlot_ulSlot]

theorem modPusch_pusch {p : PuschSt} {f : PuschSt → PuschSt} (h : s.pusch cell slot i = some p) :
    (s.modPusch cell slot i f).pusch cell slot i = some (f p) := by
  unfold State.pusch at h ⊢
  obtain ⟨x, hx, hp⟩ := Option.bind_eq_some_iff.1 h
  rw [modPusch_ulSlot hx]
  show (modAt x.pusch i f)[i]? = some (f p)
  rw [modAt, List.getElem?_modify_eq, hp]
  rfl

theorem modPusch_harq {f : PuschSt → PuschSt} (a b : Nat) : (s.modPusch cell slot i f).harq a b = s.harq a b := by
  unfold State.modPusch
  split
  · rfl
  · rfl

theorem bankQueue_ulSlot (b add sub c k : Nat) : (s.bankQueue b add sub).ulSlot c k = s.ulSlot c k := rfl

theorem releaseHarq_ulSlot (cell a b c k : Nat) : (s.releaseHarq cell a b).ulSlot c k = s.ulSlot c k := by
  unfold State.releaseHarq State.freePages
  rw [State.setHarq_ulSlot]
  exact State.modCell_ulSlot fun _ => rfl

/-- Combining adds soft values to a PUSCH, and nothing else of it changes. -/
theorem combineBlocks_pusch {p : PuschSt} (hp : s.pusch cell slot i = some p) :
    ∃ soft, (combineBlocks cell slot i s).pusch cell slot i = some { p with soft } := by
  obtain ⟨x, hx, -⟩ := Option.bind_eq_some_iff.1 hp
  unfold combineBlocks
  simp only [hx, hp]
  split
  · exact ⟨p.soft, hp⟩
  · rw [pusch_congr (bankQueue_ulSlot ..)]
    refine ⟨_, modPusch_pusch (p := p) ?_⟩
    rw [pusch_congr (State.setHarq_ulSlot ..)]
    split
    · rw [pusch_congr (releaseHarq_ulSlot ..), hp]
    · exact hp

theorem readPages_good {ps : List Nat} (h : ps.all (fun a => !s.extBad a softMax) = true) :
    s.readPages ps = (ps.map fun a => s.extRead a softMax, s) := by
  induction ps with
  | nil => rfl
  | cons a ps ih =>
    rw [List.all_cons, Bool.and_eq_true, Bool.not_eq_true'] at h
    obtain ⟨ha, hps⟩ := h
    have hread : s.readPage a = (s.extRead a softMax, s) := by
      unfold State.readPage
      rw [ha, if_neg Bool.false_ne_true]
    rw [State.readPages, hread]
    dsimp only
    rw [ih hps]
    rfl

theorem harqStaged_ok {p : PuschSt} (hp : s.pusch cell slot i = some p) (hst : p.staging = .started)
    (hgood : (s.harq p.cfg.ueCtx.toNat p.cfg.harqId.toNat).pages.all (fun a => !s.extBad a softMax) = true) :
    ∃ r, (harqStaged cell slot i s).pusch cell slot i = some r ∧ r.staging = .complete ∧
      r.staged = (s.harq p.cfg.ueCtx.toNat p.cfg.harqId.toNat).pages.map fun a => s.extRead a softMax := by
  unfold harqStaged
  simp only [hp]
  rw [if_neg (not_not_intro hst), readPages_good hgood]
  dsimp only
  obtain ⟨soft, h⟩ := combineBlocks_pusch (modPusch_pusch (f := fun p' => { p' with
    staging := .complete, staged := (s.harq p.cfg.ueCtx.toNat p.cfg.harqId.toNat).pages.map fun a => s.extRead a softMax }) hp)
  exact ⟨_, h, rfl, rfl⟩

theorem writebackDone_harq {a b : Nat} (h : (s.harq a b).writeback ≠ none) :
    (writebackDone a b s).harq a b = { s.harq a b with writeback := none } := by
  obtain ⟨bs, hbs⟩ := Option.ne_none_iff_exists'.1 h
  have hcells : ∀ (cs : List Nat) (f : CellSt → CellSt) (u : State), (cs.foldl (fun s c => s.modCell c f) u).harq a b = u.harq a b := by
    intro cs f
    induction cs with
    | nil => exact fun u => rfl
    | cons c cs ih => exact fun u => (ih _).trans rfl
  unfold writebackDone
  simp only [hbs]
  rw [hcells, State.setHarq_harq]

end

/-- Settles O26: configurations through `ulAccept_spec`, sections through `uplaneSection_of_cell`, staging through `stageOne_staging`. -/
theorem uplinkIntake : Obligations.UplinkIntake := by
  refine ⟨⟨?_, ?_, ?_⟩, ?_, ?_, ?_⟩
  · intro s c t0 r d slot hp hnew hr hok hberm hcap
    obtain ⟨⟨x, hx, hh⟩, hserved⟩ := ulAccept_spec r c t0 (decide (t0 < s.nowNs + ulConfigLead r.mu.toNat)) s
    refine ⟨_, congrArg Host.Outcome.next (ulSlotConfig_ok hp hnew hr hok hberm hcap), x, hx, hh.lateCfg, ?_, hh.config, hh.t0, hh.pusch, hh.pucch,
      fun hl => hh.marked (hh.lateCfg.symm.trans hl), hserved⟩
    rw [hh.lateCfg, hh.accepted]
  · intro s c t0 hp hdup
    rw [exec_ulSlotConfig, ulSlotConfig_twice hp hdup]
  · intro s sec t0 cell r stream slot x cover hc hp hl
    have hsec := uplaneSection_of_cell hc hp hl
    refine ⟨fun h => ?_, fun h1 h2 => ?_, fun h1 h2 h3 h4 => ?_, fun h1 h2 h3 h4 => ?_⟩
    · rw [exec_uplaneSection, hsec]
      exact congrArg Host.Outcome.next (if_pos h)
    · rw [exec_uplaneSection, hsec]
      exact congrArg Host.Outcome.next ((if_neg (Nat.not_lt.2 h1)).trans (if_pos h2))
    · have hopen : ¬ (x.t0 < s.nowNs ∨ x.intake = true) := by rw [h3]; simpa using h2
      rw [exec_uplaneSection, hsec]
      exact congrArg Host.Outcome.next ((if_neg (Nat.not_lt.2 h1)).trans ((if_neg hopen).trans (if_pos h4)))
    · have hopen : ¬ (x.t0 < s.nowNs ∨ x.intake = true) := by rw [h3]; simpa using h2
      have hnew : ¬ x.covers.contains (coverOf sec stream) = true := by rw [show x.covers.contains (coverOf sec stream) = false from h4]; decide
      refine ⟨_, congrArg Host.Outcome.next (hsec.trans ((if_neg (Nat.not_lt.2 h1)).trans ((if_neg hopen).trans (if_neg hnew)))), ?_⟩
      dsimp only
      rw [State.setUlSlot_ulSlot]
      refine ⟨_, rfl, rfl, fun p hs hin k hk => ?_⟩
      dsimp only
      rw [sectionGrid_one _ hs hin, gridPut_get _ _ hk]
  · intro s cell slot x p k q hx ha ht hp hidle hin
    have hst := stageOne_staging (s := s) (cell := cell.val) hidle hin
    refine ⟨_, exec_harqStagingStart cell slot s, _, harqStart_one hx ha ht hp, fun h => ?_, fun h hw => ?_, fun h hw => ?_⟩
    · rw [hst, if_pos h]
    · rw [hst, if_neg (not_not_intro h), hw]
      rfl
    · rw [hst, if_neg (not_not_intro h), if_pos (Option.isSome_iff_ne_none.2 hw)]
  · exact fun s cell slot i p hp hst hgood => ⟨_, exec_harqStagingComplete cell slot i s, harqStaged_ok hp hst hgood⟩
  · intro s ue h hw
    refine ⟨_, exec_harqWritebackComplete ue h s, ?_⟩
    dsimp only
    rw [writebackDone_harq hw]
    exact ⟨rfl, rfl, rfl⟩

end Sys2Proof.Machine
end

section
/-! PROOFS. Stages, decoded blocks and the decision of an uplink slot (02 R22–R27, R50–R53, R58, R59). -/
namespace Sys2Proof.Machine

theorem exec_ulStageComplete (cell : CellId) (slot : AbsSlot) (i : Nat) (stage : UlStage) (upto : Nat) (s : State) :
    exec (.ulStageComplete cell slot i stage upto) s = .next (traced 0 32 s (stageComplete cell.val slot.toNat i stage upto s)) := rfl
theorem exec_prachDetection (cell : CellId) (slot : AbsSlot) (k : Nat) (s : State) :
    exec (.prachDetection cell slot k) s = .next (prachFound cell.val slot.toNat k s) := rfl
theorem exec_codeBlockDecoded (cell : CellId) (slot : AbsSlot) (i block : Nat) (s : State) :
    exec (.codeBlockDecoded cell slot i block) s = .next (blockDecoded cell.val slot.toNat i block s) := rfl
theorem exec_ulSlotDecided (cell : CellId) (slot : AbsSlot) (s : State) :
    exec (.ulSlotDecided cell slot) s = .next (traced 0 32 s (slotDecided cell.val slot.toNat s)) := rfl
theorem exec_ulSlotDeadline (cell : CellId) (slot : AbsSlot) (s : State) :
    exec (.ulSlotDeadline cell slot) s = .next (slotDeadline cell.val slot.toNat s) := rfl

section
variable {s u : State} {cell slot i upto lo hi : Nat} {x : UlSlot} {p : PuschSt}

theorem traced_ulSlot (c k : Nat) : (traced lo hi s u).ulSlot c k = u.ulSlot c k :=
  ulSlot_congr ((Within.refl.traced (s := u)).same .radio (by decide)) c k

theorem traced_pusch : (traced lo hi s u).pusch cell slot i = u.pusch cell slot i := pusch_congr (traced_ulSlot ..)

/-! ## Stages of a PUSCH -/

theorem pusch_of_slot (hx : s.ulSlot cell slot = some x) (hp : x.pusch[i]? = some p) : s.pusch cell slot i = some p := by
  rw [State.pusch, hx]
  exact hp

theorem markTime_ulSlot {k : Nat} (hx : s.ulSlot cell slot = some x) :
    (s.markTime cell slot k).ulSlot cell slot = some { x with times := setAt x.times k (s.stageTime x.t0) } := by
  unfold State.markTime
  simp only [hx, State.setUlSlot_ulSlot]

theorem markTime_pusch {k : Nat} (h : s.pusch cell slot i = some p) : (s.markTime cell slot k).pusch cell slot i = some p := by
  obtain ⟨x, hx, hp⟩ := Option.bind_eq_some_iff.1 h
  rw [State.pusch, markTime_ulSlot hx]
  exact hp

/-- A stage of a PUSCH whose slot is in service, in its place. -/
theorem stageComplete_pusch {stage : UlStage} (hx : s.ulSlot cell slot = some x) (hin : x.intake = true) (hc : x.closed = false)
    (hp : x.pusch[i]? = some p) (hplace : s.stagePlace cell slot x stage = true) :
    stageComplete cell slot i stage upto s = stagePusch cell slot i stage upto x p s := by
  have hclosed : closeIntake cell slot s = s := by
    unfold closeIntake
    simp only [hx]
    rw [if_pos (.inr (.inl hin))]
  unfold stageComplete
  rw [hclosed, ite_self]
  simp only [hx]
  rw [if_neg]
  · simp only [hp]
  · rw [hin, hc, hplace]
    decide

theorem stagePusch_grid (hp : s.pusch cell slot i = some p) (hd : p.decided = false) (hst : p.stage = 0) :
    (stagePusch cell slot i .grid upto x p s).pusch cell slot i = some { p with stage := 1 } := by
  unfold stagePusch
  dsimp only
  rw [if_neg (by rw [hd]; exact Bool.false_ne_true), if_pos hst]
  exact markTime_pusch (modPusch_pusch (f := fun p => { p with stage := 1 }) hp)

theorem userEstimate_pusch {est : List EstBlock} : (s.userEstimate p est).pusch cell slot i = s.pusch cell slot i := pusch_congr rfl

theorem stagePusch_estimation (hp : s.pusch cell slot i = some p) (hd : p.decided = false) (hst : p.stage = 1) :
    (stagePusch cell slot i .estimation upto x p s).pusch cell slot i =
      some { p with stage := 2, est := estimate (s.receiverOf cell x) x p.cfg } := by
  unfold stagePusch
  dsimp only
  rw [if_neg (by rw [hd]; exact Bool.false_ne_true), if_pos hst]
  refine markTime_pusch ?_
  rw [userEstimate_pusch]
  exact modPusch_pusch (f := fun p' => { p' with stage := 2, est := estimate (s.receiverOf cell x) x p.cfg }) hp

theorem stagePusch_detection (hp : s.pusch cell slot i = some p) (hd : p.decided = false) (hst : p.stage = 2) (hu : usersEstimated x p.cfg = true) :
    (stagePusch cell slot i .detection upto x p s).pusch cell slot i =
      some { p with stage := 3, det := detect (s.receiverOf cell x) x ((received x).map fun q => (q.cfg, q.est)) (receivedIndex x i) p.cfg } := by
  unfold stagePusch
  dsimp only
  rw [if_neg (by rw [hd]; exact Bool.false_ne_true), if_pos ⟨hst, hu⟩]
  exact markTime_pusch (modPusch_pusch (f := fun p' => { p' with
    stage := 3, det := detect (s.receiverOf cell x) x ((received x).map fun q => (q.cfg, q.est)) (receivedIndex x i) p.cfg }) hp)

theorem stagePusch_demapping (hp : s.pusch cell slot i = some p) (hd : p.decided = false) (hst : p.stage = 3) (hu : p.demapped < upto) :
    ∃ soft, (stagePusch cell slot i .demapping upto x p s).pusch cell slot i = some { demapPusch (s.receiverOf cell x) x upto p with soft } := by
  unfold stagePusch
  dsimp only
  rw [if_neg (by rw [hd]; exact Bool.false_ne_true), if_pos ⟨hst, hu⟩]
  have hmod := modPusch_pusch (f := demapPusch (s.receiverOf cell x) x upto) hp
  refine combineBlocks_pusch ?_
  split
  · exact markTime_pusch hmod
  · exact hmod

/-- What a demapping gives. -/
theorem demapPusch_spec (rcv : Receiver) (x : UlSlot) (upto : Nat) (p : PuschSt) :
    (demapPusch rcv x upto p).demapped = max (min upto p.cfg.symCount.toNat) p.demapped ∧ (demapPusch rcv x upto p).decided = p.decided ∧
    (demapPusch rcv x upto p).llrs = p.llrs ++
      (upTo (min upto p.cfg.symCount.toNat - p.demapped)).flatMap (fun n => demapSymbol rcv x p.cfg p.det (p.demapped + n)) ∧
    (p.cfg.symCount.toNat ≤ upto → (demapPusch rcv x upto p).stage = 4) := by
  unfold demapPusch
  dsimp only
  split
  · next h => exact ⟨rfl, rfl, rfl, fun hu => by omega⟩
  · exact ⟨rfl, rfl, rfl, fun _ => rfl⟩

/-! ## The close of the intake -/

/-- What the close of the intake decides is the same in two slots. -/
structure SameIntake (x y : UlSlot) : Prop where
  intake : y.intake = x.intake
  erased : y.erased = x.erased
  classical : y.classical = x.classical
  version : y.version = x.version

/-- A slot stays, with what the close of its intake decided. -/
def KeepsIntake (cell slot : Nat) (s u : State) : Prop := ∀ x, s.ulSlot cell slot = some x → ∃ y, u.ulSlot cell slot = some y ∧ SameIntake x y

theorem KeepsIntake.of_eq (h : u.ulSlot cell slot = s.ulSlot cell slot) : KeepsIntake cell slot s u :=
  fun x hx => ⟨x, h.trans hx, rfl, rfl, rfl, rfl⟩

theorem KeepsIntake.trans {v : State} (h1 : KeepsIntake cell slot s u) (h2 : KeepsIntake cell slot u v) : KeepsIntake cell slot s v := by
  intro x hx
  obtain ⟨y, hy, a⟩ := h1 x hx
  obtain ⟨z, hz, b⟩ := h2 y hy
  exact ⟨z, hz, b.intake.trans a.intake, b.erased.trans a.erased, b.classical.trans a.classical, b.version.trans a.version⟩

theorem KeepsIntake.markTime (k : Nat) : KeepsIntake cell slot s (s.markTime cell slot k) :=
  fun _ hx => ⟨_, markTime_ulSlot hx, rfl, rfl, rfl, rfl⟩

theorem KeepsIntake.modPusch {f : PuschSt → PuschSt} : KeepsIntake cell slot s (s.modPusch cell slot i f) :=
  fun _ hx => ⟨_, modPusch_ulSlot hx, rfl, rfl, rfl, rfl⟩

theorem stagePusch_grid_keeps : KeepsIntake cell slot s (stagePusch cell slot i .grid upto x p s) := by
  unfold stagePusch
  dsimp only
  split
  · exact .of_eq rfl
  · split
    · exact KeepsIntake.modPusch.trans (.markTime 0)
    · exact .of_eq rfl

theorem prachReady_ulSlot (c k : Nat) : (s.prachReady cell slot x).ulSlot c k = s.ulSlot c k :=
  ulSlot_congr ((Within.refl.prachReady (s := s)).same .radio (by decide)) c k

theorem stageComplete_grid_keeps : KeepsIntake cell slot (closeIntake cell slot s) (stageComplete cell slot i .grid upto s) := by
  unfold stageComplete
  rw [if_pos rfl]
  generalize closeIntake cell slot s = s0
  dsimp only
  split
  · next x hx =>
    split
    · exact .of_eq rfl
    · split
      · exact stagePusch_grid_keeps
      · split
        · rw [if_pos rfl]
          refine KeepsIntake.trans (u := s0.setUlSlot cell slot _) (fun y hy => ?_) (.markTime 0)
          rw [hx] at hy
          cases hy
          exact ⟨_, State.setUlSlot_ulSlot .., rfl, rfl, rfl, rfl⟩
        · exact (KeepsIntake.markTime 0).trans (.of_eq (prachReady_ulSlot ..))
  · exact .of_eq rfl

theorem yieldTraining_ulSlot (n c k : Nat) : (s.yieldTraining n).ulSlot c k = s.ulSlot c k :=
  ulSlot_congr ((Within.refl.yieldTraining (s := s)).same .radio (by decide)) c k

theorem closeIntake_ulSlot (hx : s.ulSlot cell slot = some x) (ha : x.accepted = true) (hin : x.intake = false) (ht : x.t0 ≤ s.nowNs) :
    ∃ y, (closeIntake cell slot s).ulSlot cell slot = some y ∧ y.intake = true ∧ y.erased = erasedRes x.config x.covers ∧
      y.classical = s.needsClassical cell x.config ∧ (y.classical = true → y.version = 0) := by
  unfold closeIntake
  simp only [hx]
  rw [if_neg]
  · split
    · rw [yieldTraining_ulSlot, State.setUlSlot_ulSlot]
      exact ⟨_, rfl, rfl, rfl, rfl, fun h => if_pos h⟩
    · rw [State.setUlSlot_ulSlot]
      exact ⟨_, rfl, rfl, rfl, rfl, fun h => if_pos h⟩
  · rw [ha, hin]
    simpa using ht

theorem prachFound_ok {k : Nat} {r : Prach} {old : List Preamble} (hx : s.ulSlot cell slot = some x) (hin : x.intake = true)
    (hk : x.prach[k]? = some (r, old)) :
    prachFound cell slot k s =
      (let f := if s.prachDown cell slot then [] else (Config.prachDetect r (prachRes x r)).take 64
       (s.setUlSlot cell slot (some { x with prach := setAt x.prach k (r, f) })).sendAqmor x.config.resultPort.toNat false
         (.prachReport (Fin.ofNat 8 cell) x.absSlot k f)) := by
  unfold prachFound
  simp only [hx, hk]
  rw [if_neg (by rw [hin]; decide)]

/-! ## Decoded blocks -/

theorem modPusch_bank {f : PuschSt → PuschSt} (b : Nat) : (s.modPusch cell slot i f).bank b = s.bank b := by
  unfold State.modPusch
  split
  · rfl
  · rfl

theorem markTime_bank (k b : Nat) : (s.markTime cell slot k).bank b = s.bank b := by
  unfold State.markTime
  split
  · rfl
  · rfl

/-- A bank's counters after a block, and one that left its queue. -/
theorem bankCount_bankQueue (b it : Nat) (crc : Bool) :
    (((s.bankCount b it crc).bankQueue b 0 1).bank b).blocks = bump top64 (s.bank b).blocks ∧
    (((s.bankCount b it crc).bankQueue b 0 1).bank b).crcFail = if crc then (s.bank b).crcFail else bump top64 (s.bank b).crcFail := by
  unfold State.bankQueue State.bankCount
  simp only [State.setBank_bank]
  exact ⟨trivial, trivial⟩

/-- A decoded block of a PUSCH that is open: `q` is the PUSCH that it leaves. -/
theorem blockDecoded_spec {block : Nat} (hx : s.ulSlot cell slot = some x) (hp : x.pusch[i]? = some p) (hd : p.decided = false)
    (hc : x.closed = false) (hb : block < p.soft.length) (hnew : p.cbs.get none block = none) (hw : s.replaying = true ∨ s.pastDeadline x = false) :
    let b := x.config.decoderBank.toNat
    let r := decodeBlock (s.receiverOf cell x) x.config p.cfg (p.soft.getD block [])
    let cbs := p.cbs.set none block (some { crc := r.2.1, bits := r.2.2 })
    ∃ q, (blockDecoded cell slot i block s).pusch cell slot i = some q ∧ q.cbs = cbs ∧
      ((blockDecoded cell slot i block s).bank b).blocks = bump top64 (s.bank b).blocks ∧
      ((blockDecoded cell slot i block s).bank b).crcFail = (if r.2.1 then (s.bank b).crcFail else bump top64 (s.bank b).crcFail) ∧
      (cbs.entries.length < (codeOf p.cfg).blocks → q.decided = false) ∧
      ((codeOf p.cfg).blocks ≤ cbs.entries.length → q.decided = true ∧
        q.crcPass = transportOk p.cfg (cbs.values.filterMap fun c => c.map fun c => (c.crc, c.bits))) := by
  have hopen : ¬ (p.decided = true ∨ x.closed = true ∨ p.soft.length ≤ block ∨ (p.cbs.get none block).isSome = true ∨
      (!s.replaying) = true ∧ s.pastDeadline x = true) := by
    rw [hd, hc, hnew]
    rintro (h | h | h | h | ⟨h1, h2⟩)
    · cases h
    · cases h
    · omega
    · cases h
    · rcases hw with hw | hw
      · rw [hw] at h1; cases h1
      · rw [hw] at h2; cases h2
  intro b r cbs
  obtain ⟨hblocks, hfail⟩ := bankCount_bankQueue (s := s) b r.1 r.2.1
  have hp1 : ((s.bankCount b r.1 r.2.1).bankQueue b 0 1).pusch cell slot i = some p := pusch_of_slot hx hp
  unfold blockDecoded
  simp only [hx, pusch_of_slot hx hp]
  rw [if_neg hopen]
  by_cases hlen : cbs.entries.length < (codeOf p.cfg).blocks
  · rw [if_pos hlen, modPusch_bank]
    exact ⟨_, modPusch_pusch hp1, rfl, hblocks, hfail, fun _ => hd, fun h => by omega⟩
  · rw [if_neg hlen, markTime_bank, modPusch_bank]
    exact ⟨_, markTime_pusch (modPusch_pusch hp1), rfl, hblocks, hfail, fun h => absurd h hlen, fun _ => ⟨rfl, rfl⟩⟩

/-! ## The decision and the end of a slot -/

theorem sendAqmor_out {port : Nat} {d : List Byte} {f : TxFrame} (hd : (s.netPort port).peerTb = some d) :
    (s.sendAqmor port false f).out = s.out ++ [.aqmor port d (s.netPort port).seqTb f] := by
  unfold State.sendAqmor
  simp only [Bool.false_eq_true, if_false, hd]
  exact (Within.refl.digestFrame (s := _)).same .out (by decide)

/-- The frame of a slot leaves, and the slot is closed with its grid gone. -/
theorem sendResults_spec {late : Bool} {d : List Byte} (hd : (s.netPort x.config.resultPort.toNat).peerTb = some d) :
    (sendResults cell slot late x s).out = s.out ++
      [.aqmor x.config.resultPort.toNat d (s.netPort x.config.resultPort.toNat).seqTb
        (.ulResults (Fin.ofNat 8 cell) x.absSlot (ulFrame late x).1 (ulFrame late x).2)] ∧
    ∃ z, (sendResults cell slot late x s).ulSlot cell slot = some z ∧ z.closed = true ∧ z.grid = .empty := by
  unfold sendResults
  dsimp only
  rw [State.setUlSlot_ulSlot, State.setUlSlot_out]
  refine ⟨?_, _, rfl, rfl, rfl⟩
  rw [(Within.refl.crossCell (s := State.modCell _ cell _)).same .out (by decide)]
  exact sendAqmor_out hd

theorem netPort_congr (h : u.net = s.net) (k : Nat) : u.netPort k = s.netPort k := by
  rw [State.netPort, h]
  rfl

theorem slotDecided_ok (hx : s.ulSlot cell slot = some x) (hc : x.closed = false) (hin : x.intake = true ∨ x.lateCfg = true)
    (hall : allDecided x = true) (hw : s.replaying = true ∨ s.pastDeadline x = false) (hf : s.fated 1 slot cell 0 = false) :
    slotDecided cell slot s = decideSlot cell slot x s := by
  unfold slotDecided
  simp only [hx]
  rw [if_neg]
  rw [hc, hall, hf]
  rintro (h | h | h | ⟨h1, h2⟩ | h)
  · cases h
  · rcases hin with hin | hin
    · rw [hin] at h; cases h
    · rw [hin, Bool.or_true] at h; cases h
  · cases h
  · rcases hw with hw | hw
    · rw [hw] at h1; cases h1
    · rw [hw] at h2; cases h2
  · cases h

theorem decideSlot_spec {d : List Byte} (hd : (s.netPort x.config.resultPort.toNat).peerTb = some d) :
    let y := { x with pusch := (endHarqs x.config cell false x.pusch s).1 }
    (decideSlot cell slot x s).out = s.out ++
      [.aqmor x.config.resultPort.toNat d (s.netPort x.config.resultPort.toNat).seqTb
        (.ulResults (Fin.ofNat 8 cell) x.absSlot (ulFrame false y).1 (ulFrame false y).2)] ∧
    ∃ z, (decideSlot cell slot x s).ulSlot cell slot = some z ∧ z.closed = true ∧ z.grid = .empty := by
  intro y
  have hharq := Within.refl.endHarqs (s := s) (c := x.config) (cell := cell) (late := false) (ps := x.pusch)
  have hnet : ∀ k, ((endHarqs x.config cell false x.pusch s).2.modCell cell (guardCount y)).netPort k = s.netPort k :=
    fun k => netPort_congr (hharq.same .net (by decide)) k
  have hout : ((endHarqs x.config cell false x.pusch s).2.modCell cell (guardCount y)).out = s.out := hharq.same .out (by decide)
  obtain ⟨hsent, z, hz, hzs⟩ := sendResults_spec (s := (endHarqs x.config cell false x.pusch s).2.modCell cell (guardCount y)) (x := y)
    (cell := cell) (slot := slot) (late := false) (d := d) (by rw [hnet]; exact hd)
  rw [hnet, hout] at hsent
  unfold decideSlot
  dsimp only
  have hoffer := Within.refl.offerSamples (s := sendResults cell slot false y ((endHarqs x.config cell false x.pusch s).2.modCell cell (guardCount y)))
    (cell := cell) (x := y)
  refine ⟨(hoffer.same .out (by decide)).trans hsent, z, ?_, hzs⟩
  rw [ulSlot_congr (hoffer.same .radio (by decide)), hz]

theorem setHarq_cell (a b c : Nat) (h : HarqProc) : (s.setHarq a b h).cell c = s.cell c := rfl

theorem bankQueue_cell (b add sub c : Nat) : (s.bankQueue b add sub).cell c = s.cell c := rfl

/-- HARQ handling leaves the counts of late slots alone. -/
theorem endHarqs_lateSlots (r : UlCell) (late : Bool) (ps : List PuschSt) (s : State) :
    ((endHarqs r cell late ps s).2.cell cell).lateSlots = (s.cell cell).lateSlots := by
  have hone : ∀ (p : PuschSt) (pass : Bool) (s : State), ((endHarq r cell pass p s).2.cell cell).lateSlots = (s.cell cell).lateSlots := by
    intro p pass s
    unfold endHarq storeHarq State.releaseHarq State.freePages
    dsimp only
    split
    · rfl
    · split
      · rw [setHarq_cell, State.modCell_cell]
      · split
        · rw [setHarq_cell, State.modCell_cell]
        · rw [setHarq_cell, State.modCell_cell]
  induction ps generalizing s with
  | nil => rfl
  | cons p ps ih => exact (ih _).trans (hone p _ s)

theorem sendResults_lateSlots {late : Bool} : ((sendResults cell slot late x s).cell cell).lateSlots = (s.cell cell).lateSlots := by
  unfold sendResults State.setUlSlot
  dsimp only
  rw [State.modCell_cell]
  dsimp only
  rw [cell_congr ((Within.refl.crossCell (s := State.modCell _ cell _)).same .radio (by decide)), State.modCell_cell]
  dsimp only
  rw [cell_congr ((Within.refl.sendAqmor (s := s)).same .radio (by decide))]

theorem lateSlot_spec : (lateSlot cell slot x s).ulSlot cell slot = none ∧
    ((lateSlot cell slot x s).cell cell).lateSlots = bump top32 (s.cell cell).lateSlots := by
  unfold lateSlot
  dsimp only
  refine ⟨State.setUlSlot_ulSlot .., ?_⟩
  unfold State.setUlSlot
  rw [State.modCell_cell]
  dsimp only
  rw [cell_congr ((Within.refl.record.captureDecision (s := State.modCell _ cell _)).same .radio (by decide)), State.modCell_cell]
  dsimp only
  rw [sendResults_lateSlots, endHarqs_lateSlots, bankQueue_cell, cell_congr ((Within.refl.endSlotTasks (s := s)).same .radio (by decide))]

theorem replayTaken_cell (k : Nat) : s.replayTaken.cell k = s.cell k := rfl

theorem slotDeadline_late (hx : s.ulSlot cell slot = some x) (ha : x.accepted = true) (hc : x.closed = false) (hall : allDecided x = false)
    (hr : s.capture.replay = none) (ht : x.t0 + ulDeadlineNs x.config.mu.toNat ≤ s.nowNs) :
    slotDeadline cell slot s = (lateSlot cell slot x s).replayTaken := by
  have hreplay : s.replaying = false := by rw [State.replaying, hr]; rfl
  unfold slotDeadline
  simp only [hx]
  rw [if_neg (by simp [ha]), if_neg (by rw [hc]; decide), if_neg (by rw [hall]; exact fun h => Bool.false_ne_true h.1), if_pos]
  rw [State.watchedAt, hreplay, if_neg Bool.false_ne_true]
  exact decide_eq_true ht

theorem slotDeadline_done (hx : s.ulSlot cell slot = some x) (ha : x.accepted = true) (hc : x.closed = true)
    (ht : x.t0 + ulDeadlineNs x.config.mu.toNat ≤ s.nowNs) : slotDeadline cell slot s = shadowSlot cell x (s.setUlSlot cell slot none) := by
  unfold slotDeadline
  simp only [hx]
  rw [if_neg (by simp [ha]), if_pos hc, if_pos (decide_eq_true ht)]
  rfl

/-- The status byte is the sum of its bits. -/
theorem statusByte_bits : ∀ a b c d e f g l : Bool,
    let w : Byte := BitVec.ofNat 8 (bit' a 7 + bit' b 6 + bit' c 5 + bit' d 4 + bit' e 3 + bit' l 2 + bit' f 1 + bit' g 0)
    w.getLsbD 2 = l ∧ w.getLsbD 0 = g ∧ w.getLsbD 7 = a := by
  decide

end

/-- Settles O27: stages through `stageComplete_pusch`, blocks through `blockDecoded_spec`, the end of a slot through `decideSlot_spec` and
`lateSlot_spec`. -/
theorem uplinkStages : Obligations.UplinkStages := by
  refine ⟨⟨?_, ?_, ?_, ?_⟩, ?_, ?_, ?_, ?_⟩
  · intro s cell slot i upto x p k rcv hx hin hc hp hd
    have hpusch := pusch_of_slot hx hp
    have hstage : ∀ stage, s.stagePlace cell.val k x stage = true →
        ∀ q, (stagePusch cell.val k i stage upto x p s).pusch cell.val k i = some q →
          ∃ v, exec (.ulStageComplete cell slot i stage upto) s = .next v ∧ v.pusch cell.val k i = some q := by
      intro stage hplace q hq
      exact ⟨_, exec_ulStageComplete cell slot i stage upto s, by rw [traced_pusch, stageComplete_pusch hx hin hc hp hplace, hq]⟩
    refine ⟨fun hst => ?_, fun hplace => ?_⟩
    · obtain ⟨v, hv, hq⟩ := hstage .grid rfl _ (stagePusch_grid hpusch hd hst)
      exact ⟨v, hv, _, hq, rfl⟩
    · have hother : ∀ stage, s.stagePlace cell.val k x stage = true := fun stage => by
        unfold State.stagePlace
        rcases hplace with h | h
        · rw [h, Bool.or_true, Bool.true_or]
        · rw [h, Bool.or_true]
      refine ⟨fun hst => ?_, fun hst hu => ?_, fun hst hu => ?_⟩
      · obtain ⟨v, hv, hq⟩ := hstage .estimation (hother _) _ (stagePusch_estimation hpusch hd hst)
        exact ⟨v, hv, _, hq, rfl, rfl, hd⟩
      · obtain ⟨v, hv, hq⟩ := hstage .detection (hother _) _ (stagePusch_detection hpusch hd hst hu)
        exact ⟨v, hv, _, hq, rfl, hd, rfl⟩
      · obtain ⟨soft, hsoft⟩ := stagePusch_demapping (x := x) hpusch hd hst hu
        obtain ⟨v, hv, hq⟩ := hstage .demapping (hother _) _ hsoft
        obtain ⟨hdem, hdec, hllrs, hfour⟩ := demapPusch_spec rcv x upto p
        exact ⟨v, hv, _, hq, hdem, hdec.trans hd, hllrs, hfour⟩
  · intro s cell slot i upto x hx ha hin ht
    obtain ⟨y, hy, hyin, hye, hyc, hyv⟩ := closeIntake_ulSlot hx ha hin ht
    obtain ⟨z, hz, hk⟩ := stageComplete_grid_keeps (i := i) (upto := upto) y hy
    refine ⟨_, exec_ulStageComplete cell slot i .grid upto s, z, (traced_ulSlot ..).trans hz, hk.intake.trans hyin, hk.erased.trans hye,
      hk.classical.trans hyc, fun h => hk.version.trans (hyv (hk.classical.symm.trans h))⟩
  · intro s cell slot k x p old hx hin hk
    rw [exec_prachDetection, prachFound_ok hx hin hk]
  · intro s cell slot i block x p b r cbs hx hp hd hc hb hnew hw
    exact ⟨_, exec_codeBlockDecoded cell slot i block s, blockDecoded_spec hx hp hd hc hb hnew hw⟩
  · intro s cell slot x d hx hc hin hall hw hf y port hd
    refine ⟨_, exec_ulSlotDecided cell slot s, ?_⟩
    dsimp only
    rw [slotDecided_ok hx hc hin hall hw hf, traced_ulSlot, traced_out]
    exact decideSlot_spec hd
  · intro s cell slot x hx ha hc hall hr ht
    refine ⟨_, by rw [exec_ulSlotDeadline, slotDeadline_late hx ha hc hall hr ht], ?_⟩
    exact lateSlot_spec
  · intro s cell slot x hx ha hc ht
    rw [exec_ulSlotDeadline, slotDeadline_done hx ha hc ht]
  · intro p
    have hlate := statusByte_bits p.noConfig (p.classical && inHarq p) p.noReceiver p.noDmrs p.notStored p.uciFail (p.crcPass && !true) true
    have htime := statusByte_bits p.noConfig (p.classical && inHarq p) p.noReceiver p.noDmrs p.notStored p.uciFail (p.crcPass && !false) false
    obtain ⟨l2, l0, -⟩ := hlate
    obtain ⟨t2, t0, t7⟩ := htime
    exact ⟨l2, l0.trans (Bool.and_false _), t2, t0.trans (Bool.and_true _), t7⟩

end Sys2Proof.Machine
end

section
/-! PROOFS. Downlink slots: configuration, encoding, precoding, the C-plane and the transmit windows (03 R68–R85). -/
namespace Sys2Proof.Machine

theorem exec_dlSlotConfig (c : DlSlotCfg) (t0 : Nat) (s : State) : exec (.dlSlotConfig c t0) s = .next (dlSlotConfig c t0 s) := rfl
theorem exec_dlEncodeComplete (cell : CellId) (slot : AbsSlot) (s : State) :
    exec (.dlEncodeComplete cell slot) s = .next (dlEncoded cell.val slot.toNat s) := rfl
theorem exec_precoderComplete (cell : CellId) (slot : AbsSlot) (upto : Nat) (s : State) :
    exec (.precoderComplete cell slot upto) s = .next (traced 32 64 s (precoded cell.val slot.toNat upto s)) := rfl
theorem exec_cplaneSend (cell : CellId) (slot : AbsSlot) (s : State) : exec (.cplaneSend cell slot) s = .next (cplane cell.val slot.toNat s) := rfl
theorem exec_dlSymbolWindowOpen (cell : CellId) (slot : AbsSlot) (m : Fin 14) (s : State) :
    exec (.dlSymbolWindowOpen cell slot m) s = .next (traced 32 64 s (windowOpen cell.val slot.toNat m.val s)) := rfl
theorem exec_dlSymbolWindowClose (cell : CellId) (slot : AbsSlot) (m : Fin 14) (s : State) :
    exec (.dlSymbolWindowClose cell slot m) s = .next (windowClose cell.val slot.toNat m.val s) := rfl

section
variable {s u : State} {cell slot m upto lo hi : Nat} {x : DlSlot}

theorem dlSlot_congr (h : u.radio = s.radio) (c k : Nat) : u.dlSlot c k = s.dlSlot c k := by
  rw [State.dlSlot, cell_congr h]
  rfl

theorem traced_dlSlot (c k : Nat) : (traced lo hi s u).dlSlot c k = u.dlSlot c k :=
  dlSlot_congr ((Within.refl.traced (s := u)).same .radio (by decide)) c k

/-! ## Configuration and encoding -/

theorem newPdschs_cfg (d : DlCell) (late : Bool) (ps : List Pdsch) (pays : List (List Byte)) (pres : List (List Half)) :
    (newPdschs d late ps pays pres).map (·.cfg) = ps := by
  induction ps generalizing pays pres with
  | nil => rfl
  | cons p ps ih => exact congrArg (p :: ·) (ih _ _)

theorem newPdschs_payload (d : DlCell) (late : Bool) (ps : List Pdsch) (pays : List (List Byte)) (pres : List (List Half))
    (h : pays.length = ps.length) : (newPdschs d late ps pays pres).map (·.payload) = pays := by
  induction ps generalizing pays pres with
  | nil => rw [List.eq_nil_of_length_eq_zero h] <;> rfl
  | cons p ps ih =>
    cases pays with
    | nil => cases h
    | cons y ys => exact congrArg (y :: ·) (ih ys _ (Nat.succ.inj h))

/-- What an accepted or late configuration leaves of its slot. -/
structure HoldsDlConfig (c : DlSlotCfg) (d : DlCell) (late : Bool) (x : DlSlot) : Prop where
  accepted : x.accepted = !late
  config : x.config = d
  pdsch : x.pdsch.map (·.cfg) = c.pdsch
  payloads : c.payloads.length = c.pdsch.length → x.pdsch.map (·.payload) = c.payloads
  encoded : x.encoded = false
  precoded : x.precoded = false

theorem dlAccept_spec (r : UlCell) (d : DlCell) (c : DlSlotCfg) (t0 : Nat) (late : Bool) (s : State) :
    (∃ x, (dlAccept r d c t0 late s).dlSlot c.cell.val c.absSlot.toNat = some x ∧ HoldsDlConfig c d late x) ∧
    ((dlAccept r d c t0 late s).cell c.cell.val).dlServed = c.absSlot.toNat :: (s.cell c.cell.val).dlServed := by
  unfold dlAccept
  dsimp only
  rw [State.setDlSlot_dlSlot]
  constructor
  · exact ⟨_, rfl, rfl, rfl, newPdschs_cfg .., newPdschs_payload _ _ _ _ _, rfl, rfl⟩
  · rw [State.setDlSlot, State.modCell_cell, State.modCell_cell]
    dsimp only
    cases late with
    | true => rfl
    | false =>
      rw [if_neg Bool.false_ne_true, cell_congr ((Within.refl.crossCell (s := s)).same .radio (by decide))]

theorem length_payloads {c : DlSlotCfg} {d : DlCell} (h : tailOk d c = true) : c.payloads.length = c.pdsch.length := by
  unfold tailOk at h
  rw [Bool.and_eq_true, beq_iff_eq] at h
  simpa using congrArg List.length h.1

theorem dlSlotConfig_ok {c : DlSlotCfg} {t0 : Nat} {r : UlCell} {d : DlCell} (hp : s.radio.paused = false)
    (hnew : (s.cell c.cell.val).dlServed.contains c.absSlot.toNat = false) (hr : s.dlRecordsFor c.cell.val c.absSlot.toNat = some (r, d))
    (hok : (c.pdsch.all (pdschOk d) && c.pdcch.all (pdcchOk d) && c.csirs.all (csirsOk d) && sharesOk d c.pdsch && tailOk d c) = true)
    (hberm : s.host.berm = false) (hcap : dlSlotOver d c = false) :
    dlSlotConfig c t0 s = dlAccept r d c t0 (decide (t0 < s.nowNs + dlConfigLead d.mu.toNat)) s := by
  unfold dlSlotConfig
  dsimp only
  rw [if_neg (by rw [hp]; exact Bool.false_ne_true), if_neg (by rw [hnew]; exact Bool.false_ne_true), hr]
  dsimp only
  rw [hok, hberm, if_neg (not_or.2 ⟨(by decide : ¬(!true) = true), fun h => Bool.false_ne_true h.1⟩),
    if_neg (by rw [hcap]; exact Bool.false_ne_true)]

theorem dlEncoded_ok (hx : s.dlSlot cell slot = some x) (ha : x.accepted = true) (he : x.encoded = false) (ht : s.nowNs ≤ x.t0) :
    dlEncoded cell slot s = s.setDlSlot cell slot (some { x with
      encoded := true
      pdsch := x.pdsch.map fun p => { p with coded := encodePdsch x.config p.cfg p.payload }
      pdcch := x.pdcch.map fun p => { p with coded := encodePdcch p.cfg } }) := by
  unfold dlEncoded
  simp only [hx]
  rw [if_pos ⟨ha, by rw [he]; rfl, ht⟩]

/-! ## Precoding -/

/-- A slot with the SRS sets that its precoders read. -/
theorem holdSrs_spec (hx : s.dlSlot cell slot = some x) :
    (∃ held, (holdSrs cell slot s).dlSlot cell slot = some { x with srsHeld := held }) ∧ (holdSrs cell slot s).nowNs = s.nowNs ∧
    (holdSrs cell slot s).entryRuns cell slot = s.entryRuns cell slot := by
  unfold holdSrs
  simp only [hx]
  split
  · exact ⟨⟨x.srsHeld, hx⟩, rfl, rfl⟩
  · exact ⟨⟨_, State.setDlSlot_dlSlot ..⟩, rfl, rfl⟩

/-- What precoding leaves alone. -/
structure SameRecords (x y : DlSlot) : Prop where
  precoded : y.precoded = x.precoded
  encoded : y.encoded = x.encoded
  pdsch : y.pdsch.map (·.cfg) = x.pdsch.map (·.cfg)

theorem precoders_spec (noise : Nat → Half) (x : DlSlot) :
    (precoders noise x).precoded = true ∧ (precoders noise x).encoded = x.encoded ∧ (precoders noise x).built = x.built ∧
    (precoders noise x).pdsch.map (·.cfg) = x.pdsch.map (·.cfg) := by
  refine ⟨rfl, rfl, rfl, ?_⟩
  unfold precoders
  rw [List.map_map]
  refine List.map_congr_left fun p _ => ?_
  rw [Function.comp_apply]
  split
  · rfl
  · split
    · rfl
    · rfl

theorem buildSymbol_records (x : DlSlot) (m : Nat) : SameRecords x (buildSymbol x m) := by
  refine ⟨rfl, rfl, ?_⟩
  unfold buildSymbol
  rw [List.map_map]
  refine List.map_congr_left fun p _ => ?_
  rw [Function.comp_apply]
  split
  · rfl
  · rfl

/-- The symbols from the first not yet built up to a bound are built in their order. -/
theorem foldl_buildSymbol (y : DlSlot) (n : Nat) :
    SameRecords y (((upTo n).filter (y.built ≤ ·)).foldl buildSymbol y) ∧
    (((upTo n).filter (y.built ≤ ·)).foldl buildSymbol y).built = if y.built < n then n else y.built := by
  unfold upTo
  induction n with
  | zero => exact ⟨⟨rfl, rfl, rfl⟩, rfl⟩
  | succ n ih =>
    rw [List.range_succ, List.filter_append, List.foldl_append]
    obtain ⟨hsame, hbuilt⟩ := ih
    generalize ((List.range n).filter (y.built ≤ ·)).foldl buildSymbol y = z at hsame hbuilt ⊢
    by_cases h : y.built ≤ n
    · rw [List.filter_cons_of_pos (by simpa using h), List.filter_nil, List.foldl_cons, List.foldl_nil, if_pos (by omega)]
      have hs := buildSymbol_records z n
      exact ⟨⟨hs.precoded.trans hsame.precoded, hs.encoded.trans hsame.encoded, hs.pdsch.trans hsame.pdsch⟩, rfl⟩
    · rw [List.filter_cons_of_neg (by simpa using h), List.filter_nil, List.foldl_nil, if_neg (by omega)]
      exact ⟨hsame, hbuilt.trans (if_neg (by omega))⟩

theorem precoded_spec (hx : s.dlSlot cell slot = some x) (ha : x.accepted = true) (hp : x.precoded = false) (ht : x.t0 ≤ s.nowNs)
    (hruns : s.entryRuns cell slot = true) :
    ∃ y, (precoded cell slot upto s).dlSlot cell slot = some y ∧ y.precoded = true ∧ y.encoded = x.encoded ∧
      y.pdsch.map (·.cfg) = x.pdsch.map (·.cfg) ∧ y.built = (if x.encoded ∧ x.built < min upto 14 then min upto 14 else x.built) := by
  obtain ⟨⟨held, hheld⟩, hnow, hentry⟩ := holdSrs_spec hx
  unfold precoded
  simp only [hheld, hnow, hentry]
  rw [if_neg]
  · rw [State.setDlSlot_dlSlot, if_neg (by rw [hp]; exact Bool.false_ne_true)]
    obtain ⟨ppre, penc, pbuilt, ppdsch⟩ := precoders_spec (fun u => ((holdSrs cell slot s).user u).noise) { x with srsHeld := held }
    generalize precoders (fun u => ((holdSrs cell slot s).user u).noise) { x with srsHeld := held } = y at ppre penc pbuilt ppdsch
    refine ⟨_, rfl, ?_⟩
    by_cases he : x.encoded = true
    · rw [if_pos (penc.trans he)]
      obtain ⟨hsame, hbuilt⟩ := foldl_buildSymbol y (min upto 14)
      exact ⟨hsame.precoded.trans ppre, hsame.encoded.trans penc, hsame.pdsch.trans ppdsch, by rw [hbuilt, pbuilt]; simp [he]⟩
    · rw [if_neg (by rw [penc]; exact he)]
      exact ⟨ppre, penc, ppdsch, by rw [if_neg fun h => he h.1]; exact pbuilt⟩
  · rw [ha, hruns]
    simpa using ht

/-! ## The C-plane and the windows -/

theorem cplane_ok (hx : s.dlSlot cell slot = some x) (hc : x.cplane = false) (hr : dlReady x = true) (ht : s.nowNs ≤ cplaneLimit x)
    (ha : x.accepted = true ∨ hasSsb x.config slot = true) :
    cplane cell slot s = (s.send (Config.fronthaulPort cell) (.cplane (Fin.ofNat 8 cell) x.absSlot (ext1Of x))).setDlSlot cell slot
      (some { x with cplane := true }) := by
  unfold cplane
  simp only [State.slotToSend_held s cell slot x hx]
  rw [if_neg]
  rw [hc, hr]
  rintro (h | h | h | ⟨h1, h2⟩)
  · cases h
  · cases h
  · omega
  · rcases ha with ha | ha
    · rw [ha] at h1; cases h1
    · rw [ha] at h2; cases h2

theorem windowOpen_ready (hx : s.dlSlot cell slot = some x) (hr : symbolReady x m = true) (hs : x.sent.contains m = false) (hc : x.closedTo ≤ m)
    (hb : windowBegun x slot m s.nowNs = true) (hp : windowPast x slot m s.nowNs = false) (hf : s.fated 2 slot cell m = false) :
    windowOpen cell slot m s = sendSymbol cell slot m x s := by
  unfold windowOpen
  simp only [State.slotToSend_held s cell slot x hx]
  rw [if_neg]
  rw [hr, hs, hb, hp, hf]
  simp [hc]

theorem send_out (port : Nat) (f : TxFrame) : (s.send port f).out = s.out ++ [.frame port f] :=
  (Within.refl.digestFrame (s := s.emit (.frame port f))).same .out (by decide)

/-- The U-plane messages of a symbol. -/
theorem sendSymbol_spec :
    let prbs := (if x.config.compMethod == 1 then ssbPrbs x m else assembled x m).map (bfpTx x.config.iqWidth.toNat)
    let mods := if x.config.compMethod == 1 && x.accepted then modSections x m else []
    (sendSymbol cell slot m x s).dlSlot cell slot = some { x with sent := m :: x.sent } ∧
    (sendSymbol cell slot m x s).out = s.out ++ (if prbs.isEmpty && mods.isEmpty then [] else [.frame (Config.fronthaulPort cell)
      (.uplane (Fin.ofNat 8 cell) x.absSlot (Fin.ofNat 14 m) (ssbAt x.config slot m) prbs mods)]) := by
  intro prbs mods
  refine ⟨State.setDlSlot_dlSlot .., ?_⟩
  show (if prbs.isEmpty && mods.isEmpty then s else s.send (Config.fronthaulPort cell)
    (.uplane (Fin.ofNat 8 cell) x.absSlot (Fin.ofNat 14 m) (ssbAt x.config slot m) prbs mods)).out = _
  cases prbs.isEmpty && mods.isEmpty with
  | true => exact (List.append_nil _).symm
  | false => exact send_out _ _

theorem windowClose_sent (hx : s.dlSlot cell slot = some x) (hs : x.sent.contains m = true) (hc : x.closedTo ≤ m)
    (he : windowEnded x slot m s.nowNs = true) :
    windowClose cell slot m s = if m < 13 then s.setDlSlot cell slot (some { x with closedTo := m + 1 })
      else (s.sendAqmor x.resultPort false (.dlStatus (Fin.ofNat 8 cell) x.absSlot (dlStatusOf x))).setDlSlot cell slot none := by
  unfold windowClose
  simp only [hx]
  rw [if_neg]
  · simp only [hs, hx, Bool.not_true, Bool.false_and, Bool.false_eq_true, if_false, Bool.true_or, if_true]
  · rw [he]
    simp [hc]

/-- A symbol that is not ready when its window ends is late. -/
theorem windowClose_late (hx : s.dlSlot cell slot = some x) (hs : x.sent.contains m = false) (hm : m < 13) (ha : x.accepted = true)
    (hr : symbolReady x m = false) (hc : x.closedTo ≤ m) (hrep : s.capture.replay = none) (he : windowEnded x slot m s.nowNs = true) :
    ((windowClose cell slot m s).cell cell).dlLate = bump top32 (s.cell cell).dlLate ∧
    (windowClose cell slot m s).dlSlot cell slot = some { lateSymbol x m with closedTo := m + 1 } := by
  have hwatch : ∀ b, s.watchedAt 2 slot cell m b = b := fun b => by
    rw [State.watchedAt, State.replaying, hrep]
    rfl
  generalize hs1 : (((s.modCell cell fun c => { c with dlLate := bump top32 c.dlLate }).captureDecision 0 slot cell 2 0 m).setDlSlot cell slot
    (some (lateSymbol x m))).replayTaken = s1
  have hslot : s1.dlSlot cell slot = some (lateSymbol x m) := by
    rw [← hs1]
    exact State.setDlSlot_dlSlot ..
  have hcount : (s1.cell cell).dlLate = bump top32 (s.cell cell).dlLate := by
    rw [← hs1, replayTaken_cell, State.setDlSlot, State.modCell_cell]
    dsimp only
    rw [cell_congr ((Within.refl.captureDecision (s := State.modCell _ cell _)).same .radio (by decide)), State.modCell_cell]
  have hclose : windowClose cell slot m s = s1.setDlSlot cell slot (some { lateSymbol x m with closedTo := m + 1 }) := by
    unfold windowClose
    simp only [hx]
    rw [if_neg]
    · simp only [hs, ha, hr, hwatch, Bool.not_false, Bool.true_or, Bool.and_true, Bool.not_true, Bool.and_false, Bool.false_eq_true,
        if_false, if_true, hs1, hslot]
      rw [if_pos hm]
    · rw [he]
      simp [hc]
  rw [hclose]
  refine ⟨?_, State.setDlSlot_dlSlot ..⟩
  rw [State.setDlSlot, State.modCell_cell]
  exact hcount

end

/-- Settles O28: each command by the slot that it meets. -/
theorem downlinkSlots : Obligations.DownlinkSlots := by
  refine ⟨?_, ?_, ?_, ?_, ?_, ?_, ?_⟩
  · intro s c t0 r d slot hp hnew hr hok hberm hcap
    obtain ⟨⟨x, hx, hh⟩, hserved⟩ := dlAccept_spec r d c t0 (decide (t0 < s.nowNs + dlConfigLead d.mu.toNat)) s
    have htail : tailOk d c = true := (Bool.and_eq_true_iff.1 hok).2
    refine ⟨_, congrArg Host.Outcome.next (dlSlotConfig_ok hp hnew hr hok hberm hcap), x, hx, ?_, hh.config, hh.pdsch,
      hh.payloads (length_payloads htail), hh.encoded, hh.precoded, hserved⟩
    rw [hh.accepted, ← decide_not]
    exact decide_eq_decide.2 Nat.not_lt
  · intro s cell slot x hx ha he ht
    rw [exec_dlEncodeComplete, dlEncoded_ok hx ha he ht]
  · intro s cell slot upto x hx ha hp ht hruns
    obtain ⟨y, hy, hspec⟩ := precoded_spec (upto := upto) hx ha hp ht hruns
    exact ⟨_, exec_precoderComplete cell slot upto s, y, (traced_dlSlot ..).trans hy, hspec⟩
  · intro s cell slot x hx hc hr ht ha
    rw [exec_cplaneSend, cplane_ok hx hc hr ht ha]
  · intro s cell slot m x hx hr hs hc hb hp hf prbs mods
    refine ⟨_, exec_dlSymbolWindowOpen cell slot m s, ?_⟩
    dsimp only
    rw [windowOpen_ready hx hr hs hc hb hp hf, traced_dlSlot, traced_out]
    exact sendSymbol_spec
  · intro s cell slot m x hx hs hc he
    rw [exec_dlSymbolWindowClose, windowClose_sent hx hs hc he]
  · intro s cell slot m x hx hs hm ha hr hc hrep he
    exact ⟨_, exec_dlSymbolWindowClose cell slot m s, windowClose_late hx hs hm ha hr hc hrep he⟩

end Sys2Proof.Machine
end

section
/-! PROOFS. Sweep settings, samples, erasures and windows (04 R95–R99, R109). -/
namespace Sys2Proof.Machine

theorem exec_sweepConfig (h : QcpHdr) (chan : Byte) (r : SweepRec) (s : State) :
    exec (.sweepConfig h chan r) s = .next (serve s h { role := .operate, legal := [.running] } (sweepConfigBody chan.toNat r)) := rfl
theorem exec_sweepCtx (h : QcpHdr) (ctx : Half) (addr : Word) (chan : Byte) (s : State) :
    exec (.sweepCtx h ctx addr chan) s =
      .next (serve s h { role := .operate, legal := [.running] } (sweepCtxBody ctx.toNat addr chan.toNat)) := rfl
theorem exec_sweepDownlinkItem (addr : Word) (item : List Byte) (s : State) :
    exec (.sweepDownlinkItem addr item) s = .next (sweepItem addr item s) := rfl
theorem exec_sweepSection (x : SweepSection) (s : State) : exec (.sweepSection x) s = .next (sweepSection x s) := rfl
theorem exec_sweepSampleErase (chan : ChanId) (stream : Fin 16) (n : Nat) (s : State) :
    exec (.sweepSampleErase chan stream n) s = .next (eraseSample chan.val stream.val n s) := rfl
theorem exec_sweepWindow (chan : ChanId) (order : Fin 16) (start : Nat) (dn : Bool) (s : State) :
    exec (.sweepWindow chan order start dn) s = .next (sweepWindow chan.val order.val start dn s) := rfl

section
variable {s : State}

/-! ## Settings -/

theorem sweepConfigBody_range {chan : Nat} {r : SweepRec} (h : sweepRecOk chan r = false) :
    sweepConfigBody chan r s = (s, .now Code.cfgRange .empty) := by
  unfold sweepConfigBody
  rw [h]
  rfl

theorem sweepConfigBody_ok {chan : Nat} {r : SweepRec} (h : sweepRecOk chan r = true) (hr : s.rst.heldRadio = false)
    (hc : s.rst.held.contains 116 = false) :
    sweepConfigBody chan r s =
      (let y := s.chan chan
       let changed : Bool := match y.cfg with
         | some o => o.nRx != r.nRx
         | none => false
       ((s.setChan chan (if changed = true then { y with pending := some r } else { y with cfg := some r, pending := none })).wakeDomain 116,
         .now Code.ok .empty)) := by
  unfold sweepConfigBody
  rw [h, hr, hc]
  rfl

theorem sweepCtxBody_ok {ctx chan : Nat} {addr : Word} (hctx : ctx ≤ 32767) (hchan : chan ≤ 3) (h0 : addr ≠ 0) (h1 : addr ≠ 0xFFFFFFFF) :
    sweepCtxBody ctx addr chan s =
      (s.setCtx ctx { EndCtx.init with bound := true, addr, channel := Fin.ofNat 4 chan }, .now Code.ok .empty) := by
  unfold sweepCtxBody
  rw [if_neg]
  · rfl
  · simp only [h0, h1, or_false]
    omega

theorem sweepItem_ok {addr : Word} {item : List Byte} {n : Nat} (hn : s.ctxOf addr = some n) (hl : item.length ≤ 32) :
    sweepItem addr item s = s.setCtx n { s.ctx n with item := some item } := by
  unfold sweepItem
  rw [hn]
  exact if_pos hl

/-! ## Samples -/

theorem sampleKey_inj (stream : Nat) {m n : Nat} (h : sampleKey stream m = sampleKey stream n) : m = n :=
  Nat.add_left_cancel h

/-- A key that holds a value keeps it while samples are put. -/
theorem putSample_keeps (stream first : Nat) (xs : List (Cplx16 × Nat)) (t : Table (Option SampleSt)) {k : Nat} {w : SampleSt}
    (h : t.get none k = some w) : (xs.foldl (putSample stream first) t).get none k = some w := by
  induction xs generalizing t with
  | nil => exact h
  | cons e xs ih =>
    refine ih _ ?_
    unfold putSample
    dsimp only
    split
    · exact h
    · next hnone =>
      rw [Table.get_set_ne]
      · exact h
      · rintro rfl
        rw [h] at hnone
        exact hnone rfl

/-- The samples of a section go to keys of their own, so each that is not there yet is put. -/
theorem putSample_puts (stream first : Nat) (xs : List Cplx16) (base : Nat) (t : Table (Option SampleSt)) {e : Nat} {v : Cplx16}
    (hv : xs[e]? = some v) (hnone : t.get none (sampleKey stream (first + (base + e))) = none) :
    ((xs.zipIdx base).foldl (putSample stream first) t).get none (sampleKey stream (first + (base + e))) =
      some { value := v, erased := false } := by
  induction xs generalizing base t e with
  | nil => cases hv
  | cons x xs ih =>
    rw [List.zipIdx_cons, List.foldl_cons]
    cases e with
    | zero =>
      obtain rfl : x = v := Option.some.inj hv
      refine putSample_keeps _ _ _ _ ?_
      unfold putSample
      dsimp only
      rw [Nat.add_zero] at hnone ⊢
      rw [hnone, if_neg (by simp), Table.get_set]
    | succ e =>
      rw [Nat.add_comm e 1, ← Nat.add_assoc base] at hnone ⊢
      refine ih (base + 1) _ hv ?_
      unfold putSample
      dsimp only
      split
      · exact hnone
      · rw [Table.get_set_ne]
        · exact hnone
        · intro h
          have := sampleKey_inj stream h
          omega

variable {x : SweepSection} {c stream : Nat} {r : SweepRec}

theorem sweepSection_late (hc : s.chanOf x.eaxc.toNat = some (c, r, stream)) (hp : s.radio.paused = false) (hok : sectionOk r x = true)
    (hl : sampleNs r (secondOf s.nowSec x.secLo.toNat * sampleRate r + x.sample.toNat) + 2000000 < s.nowNs) :
    sweepSection x s = s.modChan c fun y => { y with late := bump top32 y.late } := by
  unfold sweepSection
  rw [hc]
  dsimp only
  rw [hp, hok, if_neg (by simp), if_pos hl]

theorem sweepSection_inTime (hc : s.chanOf x.eaxc.toNat = some (c, r, stream)) (hp : s.radio.paused = false) (hok : sectionOk r x = true)
    (hl : s.nowNs ≤ sampleNs r (secondOf s.nowSec x.secLo.toNat * sampleRate r + x.sample.toNat) + 2000000) :
    sweepSection x s = s.modChan c fun y => { y with
      samples := ((sectionSamples x.samples).take x.count.toNat).zipIdx.foldl
        (putSample stream (secondOf s.nowSec x.secLo.toNat * sampleRate r + x.sample.toNat)) y.samples } := by
  unfold sweepSection
  rw [hc]
  dsimp only
  rw [hp, hok, if_neg (by simp), if_neg (Nat.not_lt.2 hl)]

theorem eraseSample_ok {n : Nat} (hr : (s.chan c).cfg = some r) (hs : stream < r.nRx.toNat)
    (hn : (s.chan c).samples.get none (sampleKey stream n) = none) (ht : sampleNs r n + 2000000 ≤ s.nowNs) :
    eraseSample c stream n s = s.setChan c { s.chan c with
      samples := (s.chan c).samples.set none (sampleKey stream n) (some { value := ⟨0, 0⟩, erased := true }) } := by
  unfold eraseSample
  dsimp only
  rw [hr]
  dsimp only
  rw [hn, if_pos ⟨hs, rfl, ht⟩]

/-! ## Windows -/

/-- The larger of what is held and a pair, the one held where they are equal. -/
def larger (a : Option (Nat × Nat)) (e : Nat × Nat) : Option (Nat × Nat) :=
  match a with
  | none => some e
  | some b => if b.1 < e.1 then some e else some b

theorem largest_eq (ps : List (Nat × Nat)) : largest ps = ps.foldl larger none := rfl

theorem foldl_larger_mem (ps : List (Nat × Nat)) (b : Nat × Nat) : ∃ e, ps.foldl larger (some b) = some e ∧ (e = b ∨ e ∈ ps) := by
  induction ps generalizing b with
  | nil => exact ⟨b, rfl, .inl rfl⟩
  | cons p ps ih =>
    rw [List.foldl_cons, larger]
    split
    · obtain ⟨e, he, h⟩ := ih p
      exact ⟨e, he, .inr (h.elim (· ▸ List.mem_cons_self) (List.mem_cons_of_mem _))⟩
    · obtain ⟨e, he, h⟩ := ih b
      exact ⟨e, he, h.imp_right (List.mem_cons_of_mem _)⟩

theorem largest_mem {ps : List (Nat × Nat)} (h : ps ≠ []) : ∃ e, largest ps = some e ∧ e ∈ ps := by
  cases ps with
  | nil => exact absurd rfl h
  | cons p ps =>
    obtain ⟨e, he, hm⟩ := foldl_larger_mem ps p
    exact ⟨e, he, hm.elim (· ▸ List.mem_cons_self) (List.mem_cons_of_mem _)⟩

theorem length_topBins {k : Nat} {ps : List (Nat × Nat)} (h : k ≤ ps.length) : (topBins k ps).length = k := by
  induction k generalizing ps with
  | zero => rfl
  | succ k ih =>
    obtain ⟨e, he, hm⟩ := largest_mem (List.length_pos_iff.1 (Nat.lt_of_lt_of_le k.succ_pos h))
    rw [topBins, he]
    dsimp only
    rw [List.length_cons, ih]
    rw [List.length_erase_of_mem hm]
    omega

theorem length_peaksOf {ps : List Nat} (h : 8 ≤ ps.length) : (peaksOf ps).length = 8 :=
  length_topBins (by rwa [List.length_zipIdx])

theorem length_binPowers (order : Nat) (dn : Bool) (ws : List (Nat → CInt)) : (binPowers order dn ws).length = 2 ^ order := by
  rw [binPowers, List.length_map, upTo, List.length_range, chipsOf]

theorem sweepWindow_ok {order start : Nat} {dn : Bool} (hr : (s.chan c).cfg = some r) (hp : s.radio.paused = false) (h6 : 6 ≤ order)
    (hm : r.orderMask.getLsbD order = true) (hs : start % (chipsOf order / 2) = 0)
    (hin : samplesIn (s.chan c) r.nRx.toNat start (2 * chipsOf order) = true) :
    sweepWindow c order start dn s = s.setChan c { s.chan c with
      windows := (searchWindow s c order start dn r :: (s.chan c).windows).take windowsKept
      lastPeaks := (searchWindow s c order start dn r).peaks.map (·.1) } := by
  unfold sweepWindow
  dsimp only
  rw [hr]
  dsimp only
  rw [hp, hm, hs, hin, if_neg]
  simp only [Bool.false_eq_true, Bool.not_true, ne_eq, not_true_eq_false, or_false, false_or]
  exact Nat.not_lt.2 h6

theorem searchWindow_peaks (s : State) (c order start : Nat) (dn : Bool) (r : SweepRec) :
    (searchWindow s c order start dn r).peaks.map (·.1) = peaksOf (binPowers order dn
      ((upTo r.nRx.toNat).map fun k n => cplxInt (sampleValue (s.chan c) k ((start + n : Nat) : Int)))) := by
  unfold searchWindow
  dsimp only
  rw [List.map_map]
  exact List.zipIdx_map_fst 0 _

end

/-- Settles O30: a section's samples go to keys of their own (`putSample_puts`) and none that is held changes (`putSample_keeps`); a window has
2^order bins, at least 64, so eight peaks are found (`length_peaksOf`). -/
theorem sweepSampling : Obligations.SweepSampling := by
  refine ⟨⟨fun h chan r hok => ?_, fun h chan r hbad => ?_, fun h ctx addr chan hctx hchan h0 h1 => ?_, fun s addr item n hn hl => ?_⟩,
    ?_, fun s chan stream n r hr hs hn ht => ?_, ?_⟩
  · exact serves_of_body (fun s => exec_sweepConfig h chan r s) fun s ⟨hr, hc⟩ => sweepConfigBody_ok hok hr hc
  · exact refuses_of_body (fun s => exec_sweepConfig h chan r s) (by decide) fun s _ => sweepConfigBody_range hbad
  · exact serves_of_body (fun s => exec_sweepCtx h ctx addr chan s) fun s _ => sweepCtxBody_ok hctx hchan h0 h1
  · rw [exec_sweepDownlinkItem, sweepItem_ok hn hl]
  · intro s x c r stream first hc hp hok
    refine ⟨fun ht => ?_, fun ht => ?_⟩
    · refine ⟨_, by rw [exec_sweepSection, sweepSection_inTime hc hp hok ht], ?_⟩
      dsimp only
      rw [State.modChan_chan]
      refine ⟨fun e v hv hnone => ?_, fun k w hk => putSample_keeps _ _ _ _ hk⟩
      have h := putSample_puts stream first _ 0 (s.chan c).samples hv (by rw [Nat.zero_add]; exact hnone)
      rw [Nat.zero_add] at h
      exact h
    · rw [exec_sweepSection, sweepSection_late hc hp hok ht]
  · refine ⟨_, by rw [exec_sweepSampleErase, eraseSample_ok hr hs hn ht], ?_⟩
    dsimp only
    rw [State.setChan_chan, Table.get_set]
  · intro s chan order start dn r y ws hr hp h6 hm hs hin
    refine ⟨_, by rw [exec_sweepWindow, sweepWindow_ok hr hp h6 hm hs hin], ?_⟩
    dsimp only
    rw [State.setChan_chan]
    refine ⟨searchWindow_peaks .., ?_, rfl⟩
    refine (congrArg List.length (searchWindow_peaks ..)).trans (length_peaksOf ?_)
    rw [length_binPowers]
    exact Nat.le_trans (by decide : 8 ≤ 2 ^ 6) (Nat.pow_le_pow_right (by decide) h6)

end Sys2Proof.Machine
end

section
/-! PROOFS. Sweep receptions: detections, symbols, headers and payloads (04 R101–R116). -/
namespace Sys2Proof.Machine

theorem exec_sweepReceptionStart (chan : ChanId) (order : Fin 16) (down bin dnBin : Nat) (s : State) :
    exec (.sweepReceptionStart chan order down bin dnBin) s = .next (receptionStart chan.val order.val down bin dnBin s) := rfl
theorem exec_sweepSymbolDecided (chan : ChanId) (id sym : Nat) (s : State) :
    exec (.sweepSymbolDecided chan id sym) s = .next (symbolDecided chan.val id sym s) := rfl
theorem exec_sweepHeaderDecoded (chan : ChanId) (id : Nat) (s : State) :
    exec (.sweepHeaderDecoded chan id) s = .next (headerDecoded chan.val id s) := rfl
theorem exec_sweepPayloadDecoded (chan : ChanId) (id : Nat) (s : State) :
    exec (.sweepPayloadDecoded chan id) s = .next (payloadDecoded chan.val id s) := rfl

/-- A command gives what holds of the state it leads to. -/
theorem gives_of_exec {c : Instr} {s t : State} {P : State → Prop} (he : exec c s = .next t) (hp : P t) : Gives c s P := ⟨t, he, hp⟩

theorem reply_out (s : State) (h : QcpHdr) (hw : Bool) (code : Half) (b : ReplyBody) :
    (s.reply h hw code b).out = s.out ++ [.reply (replyOf s h hw code b)] := by
  unfold State.reply
  dsimp only
  rw [State.emit_out]
  split <;> rfl

section
variable {s u : State} {c id : Nat} {q p : Reception} {y : ChanSt}

theorem chan_congr (h : u.sweep = s.sweep) (c : Nat) : u.chan c = s.chan c := by rw [State.chan, h]; rfl
theorem ctxOf_congr (h : u.sweep = s.sweep) (a : Word) : u.ctxOf a = s.ctxOf a := by rw [State.ctxOf, h]; rfl
theorem unqueue_chan (s : State) (q : Reception) (c : Nat) : (s.unqueue q).chan c = s.chan c :=
  chan_congr (Within.refl.unqueue.same .sweep (by decide)) c

/-! ## Detections -/

theorem identityOk_recep (y : ChanSt) (l : List Reception) (n : Nat) (q : Reception) :
    identityOk { y with recep := l, nextId := n } q = identityOk y q := rfl

theorem checkIdentity_ok (h : identityOk (s.chan c) q = true) : checkIdentity c q s = s := if_pos h

theorem checkIdentity_bad (h : identityOk (s.chan c) q = false) :
    checkIdentity c q s = s.modChan c fun y =>
      { y with recep := y.recep.filter fun p => p.id ≠ q.id, netidMismatch := bump top32 y.netidMismatch } :=
  if_neg (by rw [h]; exact Bool.false_ne_true)

theorem newReception_unequalised {r : SweepRec} {d : Detection} {down : Nat} (h : r.eqMode ≠ 0) :
    (newReception c r d down s).unequalised = true := by
  unfold newReception
  dsimp only
  rw [if_neg fun h' => h h'.1]
  rfl

section
variable {order down bin dnBin : Nat} {r : SweepRec} {d : Detection}

/-- A detection at an order of the mask, its identity word held. -/
structure Detected (s : State) (c order down bin dnBin : Nat) (r : SweepRec) (d : Detection) : Prop where
  config : (s.chan c).cfg = some r
  found : detectionAt (s.chan c) order down bin dnBin = some d
  serves : s.radio.paused = false
  inOrders : order ≤ 15
  mask : r.orderMask.getLsbD order = true
  readable : symbolReadable (s.chan c) (newReception c r d down s) 19 = true

theorem receptionStart_detected (h : Detected s c order down bin dnBin r d) :
    receptionStart c order down bin dnBin s =
      (let y := s.chan c
       let q := newReception c r d down s
       match y.recep.find? fun p => sameDetection p.det d with
        | some p =>
          if p.det.power < d.power then
            let s0 := s.setChan c { y with recep := y.recep.filter fun x => x.id ≠ p.id }
            let n := { (newReception c r d down s0) with id := p.id }
            checkIdentity c n ((s.setChan c { y with recep := y.recep.map fun x => if x.id = p.id then n else x }).unqueue p)
          else s
        | none =>
          if 256 ≤ y.recep.length then s.setChan c { y with overflow := bump top32 y.overflow }
          else checkIdentity c q (s.setChan c { y with recep := y.recep ++ [q], nextId := y.nextId + 1 })) := by
  obtain ⟨hr, hd, hp, ho, hm, hread⟩ := h
  unfold receptionStart
  simp only [hr, hd]
  rw [hp, hm, if_neg (by simp only [Bool.false_eq_true, Bool.not_true, or_false, false_or]; omega), hread,
    if_neg (by simp)] <;> rfl

/-- A reception that begins stays where its identity word matches. -/
theorem receptionStart_new (h : Detected s c order down bin dnBin r d)
    (hnew : (s.chan c).recep.find? (fun p => sameDetection p.det d) = none) (hroom : (s.chan c).recep.length < 256) :
    receptionStart c order down bin dnBin s = checkIdentity c (newReception c r d down s) (s.setChan c { s.chan c with
      recep := (s.chan c).recep ++ [newReception c r d down s]
      nextId := (s.chan c).nextId + 1 }) := by
  rw [receptionStart_detected h]
  dsimp only
  rw [hnew]
  exact if_neg (Nat.not_le.2 hroom)

theorem receptionStart_full (h : Detected s c order down bin dnBin r d)
    (hnew : (s.chan c).recep.find? (fun p => sameDetection p.det d) = none) (hfull : 256 ≤ (s.chan c).recep.length) :
    receptionStart c order down bin dnBin s = s.setChan c { s.chan c with overflow := bump top32 (s.chan c).overflow } := by
  rw [receptionStart_detected h]
  dsimp only
  rw [hnew]
  exact if_pos hfull

theorem receptionStart_weaker (h : Detected s c order down bin dnBin r d)
    (hold : (s.chan c).recep.find? (fun p => sameDetection p.det d) = some p) (hw : d.power ≤ p.det.power) :
    receptionStart c order down bin dnBin s = s := by
  rw [receptionStart_detected h]
  dsimp only
  rw [hold]
  exact if_neg (Nat.not_lt.2 hw)

/-- The reception that a stronger detection puts in the place of `p`. -/
def inPlaceOf (s : State) (c down : Nat) (r : SweepRec) (d : Detection) (p : Reception) : Reception :=
  { (newReception c r d down (s.setChan c { s.chan c with recep := (s.chan c).recep.filter fun x => x.id ≠ p.id })) with id := p.id }

theorem receptionStart_stronger (h : Detected s c order down bin dnBin r d)
    (hold : (s.chan c).recep.find? (fun p => sameDetection p.det d) = some p) (hw : p.det.power < d.power)
    (hid : identityOk (s.chan c) (inPlaceOf s c down r d p) = true) :
    receptionStart c order down bin dnBin s = (s.setChan c { s.chan c with
      recep := (s.chan c).recep.map fun x => if x.id = p.id then inPlaceOf s c down r d p else x }).unqueue p := by
  rw [receptionStart_detected h]
  dsimp only
  rw [hold]
  refine (if_pos hw).trans (checkIdentity_ok ?_)
  rw [unqueue_chan, State.setChan_chan]
  exact (identityOk_recep _ _ (s.chan c).nextId _).trans hid

/-- The reception added last leaves again, and none before it. -/
theorem filter_appended {l : List Reception} (h : ∀ p ∈ l, p.id < q.id) : (l ++ [q]).filter (fun p => p.id ≠ q.id) = l := by
  rw [List.filter_append, List.filter_eq_self.2 fun p hp => by simpa using Nat.ne_of_lt (h p hp)]
  simp

end

/-! ## Symbols -/

/-- The reception of a number after a change of that reception alone. -/
theorem find?_modified {l : List Reception} {f : Reception → Reception} (h : l.find? (·.id = id) = some q) (hf : (f q).id = id) :
    (l.map fun p => if p.id = id then f p else p).find? (·.id = id) = some (f q) := by
  induction l with
  | nil => cases h
  | cons p l ih =>
    rw [List.map_cons]
    by_cases hp : p.id = id
    · rw [List.find?_cons_of_pos (by simpa using hp)] at h
      cases h
      rw [if_pos hp, List.find?_cons_of_pos (by simpa using hf)]
    · rw [List.find?_cons_of_neg (by simpa using hp)] at h
      rw [if_neg hp, List.find?_cons_of_neg (by simpa using hp), ih h]

theorem id_of_find? {l : List Reception} (h : l.find? (·.id = id) = some q) : q.id = id := by simpa using List.find?_some h

/-- The symbols that the block in progress needs. -/
def blockNeeds (q : Reception) : Nat := (frameSymbols q).getD (headSymbols + headerSymbols q.det.order)

/-- A complete block joins a queue: its reception notes the bank, and nothing else of the channel changes. -/
theorem queueIfDone_chan (h : (s.chan c).recep.find? (·.id = id) = some q) :
    ∃ b, ((s.queueIfDone c id q).chan c).recep.find? (·.id = id) = some { q with bank := b } ∧
      (b.isSome ↔ q.bank.isSome ∨ blockNeeds q ≤ q.symbols.length) ∧
      ((s.queueIfDone c id q).chan c).hdrFail = (s.chan c).hdrFail := by
  unfold State.queueIfDone
  dsimp only
  split
  · next hdone =>
    unfold State.queueSweep
    extract_lets b x n
    rw [State.modChan_chan]
    dsimp only
    refine ⟨some b, ?_, iff_of_true rfl (.inr hdone.2), rfl⟩
    exact find?_modified (f := fun p => { p with bank := some b }) (q := q) h (id_of_find? (q := q) h)
  · next hdone =>
    refine ⟨q.bank, h, ⟨.inl, fun hor => hor.elim (fun hb => hb) fun hn => ?_⟩, rfl⟩
    refine Classical.byContradiction fun hb => ?_
    exact hdone ⟨by simpa using hb, hn⟩

/-- A decided symbol is noted, and what the queue of a bank goes by stays. -/
theorem symbolAfter_spec (y : ChanSt) (w : List Byte) (q : Reception) (n : Nat) :
    (symbolAfter y w q n).id = q.id ∧ (symbolAfter y w q n).symbols.length = q.symbols.length + 1 ∧
    (symbolAfter y w q n).bank = q.bank ∧ (symbolAfter y w q n).det = q.det ∧ (symbolAfter y w q n).header = q.header := by
  unfold symbolAfter
  extract_lets sf ys
  split
  extract_lets k eq
  split <;> exact ⟨rfl, rfl, rfl, rfl, rfl⟩

theorem symbolDecided_ok {sym : Nat} (hq : (s.chan c).recep.find? (·.id = id) = some q) (hsym : sym = q.symbols.length)
    (hin : ∀ k, frameSymbols q = some k → sym < k) (hread : symbolReadable (s.chan c) q sym = true) :
    let n := symbolAfter (s.chan c) (s.weightsOf (8 + c) q.version) q sym
    ∃ u : State, u.chan c = { s.chan c with recep := (s.chan c).recep.map fun p => if p.id = id then n else p } ∧
      symbolDecided c id sym s = u.queueIfDone c id n := by
  intro n
  have hbeyond : (match frameSymbols q with | some k => decide (k ≤ sym) | none => false) = false := by
    cases hk : frameSymbols q with
    | none => rfl
    | some k => exact decide_eq_false (Nat.not_le.2 (hin k hk))
  unfold symbolDecided
  dsimp only
  rw [hq]
  dsimp only
  rw [if_neg (by
    rintro (h | h | h)
    · exact h hsym
    · exact Bool.false_ne_true (hbeyond.symm.trans h)
    · rw [hread] at h
      exact Bool.false_ne_true h)]
  refine ⟨_, ?_, rfl⟩
  split
  · rw [chan_congr (Within.refl.cspPend.cspPend.same .sweep (by decide)), State.setChan_chan]
  · rw [State.setChan_chan]

/-! ## Headers -/

theorem headerDecoded_turn {b : Nat} (hq : (s.chan c).recep.find? (·.id = id) = some q) (hh : q.header = none) (hb : s.sweepTurn q = some b) :
    let r := sweepDecoded headerCode (s.sweepTable c q) 0 (q.det.order * headerSymbols q.det.order) q.llrs
    let h := headerOf r.2.2
    headerDecoded c id s =
      (let s1 := s.sweepCount q b r.1 r.2.1
       if (!r.2.1) = true ∨ (!headerOk h) = true then (s1.endReception c id).modChan c fun y => { y with hdrFail := bump top32 y.hdrFail }
       else
        let ctx := s1.ctxOf h.addr
        let dup : Bool := match ctx with | some n => isDuplicate (s1.ctx n) h.fcnt | none => false
        let q1 := latePayload h { q with header := some h, ctx := ctx.map (Fin.ofNat 32768), duplicate := dup, bank := none }
        (s1.modChan c fun y => { y with recep := y.recep.map fun p => if p.id = id then q1 else p }).queueIfDone c id q1) := by
  intro r h
  unfold headerDecoded
  simp -zeta only [hq, hh, hb] <;> rfl

theorem sweepCount_sweep {b it : Nat} {crc : Bool} : (s.sweepCount q b it crc).sweep = s.sweep :=
  Within.refl.sweepCount.same .sweep (by decide)

theorem headerDecoded_fail {b : Nat} (hq : (s.chan c).recep.find? (·.id = id) = some q) (hh : q.header = none) (hb : s.sweepTurn q = some b) :
    let r := sweepDecoded headerCode (s.sweepTable c q) 0 (q.det.order * headerSymbols q.det.order) q.llrs
    r.2.1 = false ∨ headerOk (headerOf r.2.2) = false →
      ((headerDecoded c id s).chan c).recep = (s.chan c).recep.filter (fun p => p.id ≠ id) ∧
      ((headerDecoded c id s).chan c).hdrFail = bump top32 (s.chan c).hdrFail := by
  intro r hbad
  rw [headerDecoded_turn hq hh hb]
  extract_lets s1
  rw [if_pos (hbad.imp (fun h => by rw [h]; rfl) fun h => by rw [h]; rfl), State.modChan_chan, State.endReception, State.modChan_chan,
    chan_congr sweepCount_sweep]
  exact ⟨rfl, rfl⟩

theorem headerDecoded_pass {b : Nat} (hq : (s.chan c).recep.find? (·.id = id) = some q) (hh : q.header = none) (hb : s.sweepTurn q = some b) :
    let r := sweepDecoded headerCode (s.sweepTable c q) 0 (q.det.order * headerSymbols q.det.order) q.llrs
    let h := headerOf r.2.2
    r.2.1 = true → headerOk h = true →
      ∃ p, ((headerDecoded c id s).chan c).recep.find? (·.id = id) = some p ∧ p.header = some h ∧
        p.ctx = (s.ctxOf h.addr).map (Fin.ofNat 32768) ∧ ((headerDecoded c id s).chan c).hdrFail = (s.chan c).hdrFail := by
  intro r h hcrc hok
  rw [headerDecoded_turn hq hh hb]
  extract_lets s1 ctx dup q1
  rw [if_neg (by
    rintro (hbad | hbad)
    · exact Bool.false_ne_true ((congrArg not hcrc).symm.trans hbad)
    · exact Bool.false_ne_true ((congrArg not hok).symm.trans hbad))]
  have hs1 : s1.chan c = s.chan c := chan_congr sweepCount_sweep c
  have hfind : ((s1.modChan c fun y => { y with recep := y.recep.map fun p => if p.id = id then q1 else p }).chan c).recep.find?
      (·.id = id) = some q1 := by
    rw [State.modChan_chan, hs1]
    exact find?_modified (f := fun _ => q1) hq (id_of_find? (q := q) hq)
  obtain ⟨b, hb, -, hfail⟩ := queueIfDone_chan hfind
  refine ⟨_, hb, rfl, congrArg (Option.map _) (ctxOf_congr sweepCount_sweep _), hfail.trans ?_⟩
  rw [State.modChan_chan, hs1]

/-! ## Payloads -/

theorem prefix_of_eq {α : Type} {l m : List α} (h : m = l) : l <+: m := h ▸ List.prefix_refl _

/-- What falls on a set's boundary only adds to what the device sends: replies of operations that waited. -/
theorem setBoundary_out (s : State) (n : Nat) : s.out <+: (s.setBoundary n).out := by
  have hdue : s.out <+: (s.controlsDue n).out := by
    unfold State.controlsDue
    dsimp only
    generalize hu : s.setAset n _ = u
    have hout : u.out = s.out := hu ▸ State.setAset_out ..
    rw [← hout]
    clear hu hout
    generalize List.filter _ _ = l
    induction l generalizing u with
    | nil => exact List.prefix_refl _
    | cons e l ih =>
      refine List.IsPrefix.trans ?_ (ih _)
      have happly : (applyControl n e.op u).1.out = u.out := Within.refl.applyControl.same .out (by decide)
      dsimp only
      split
      · rw [reply_out, happly]
        exact List.prefix_append _ _
      · exact prefix_of_eq happly
  have hrest : (s.setBoundary n).out = (s.controlsDue n).out := Within.refl.guardTrip.adaptDecide.same .out (by decide)
  rw [hrest]
  exact hdue

theorem shadowCount_out (s : State) (n blocks active other : Nat) : s.out <+: (s.shadowCount n blocks active other).out := by
  unfold State.shadowCount
  dsimp only
  generalize hu : s.setAset n _ = u
  rw [show s.out = u.out from hu ▸ (State.setAset_out ..).symm]
  exact setBoundary_out u n

theorem shadowReception_out (h : SweepHdr) (crc : Bool) (m : SweepMeasure) : s.out <+: (shadowReception c q h crc m s).out := by
  unfold shadowReception
  dsimp only
  split
  · split
    · exact List.prefix_refl _
    · exact shadowCount_out s.draw.2 _ _ _ _
  · exact List.prefix_refl _

theorem reserveAck_recep {n : Nat} {fcnt : Half} {m : SweepMeasure} :
    ((reserveAck c q n fcnt m s).1.chan c).recep = (s.chan c).recep := by
  unfold reserveAck
  dsimp only
  split
  · exact congrArg ChanSt.recep (chan_congr (Within.refl.captureDecision.same .sweep (by decide)) c)
  · dsimp only
    rw [State.setChan_chan]

/-- An acknowledgement's decision leaves the receptions, what was sent and the ports as they were. -/
theorem ackDecide_spec {h : SweepHdr} {crc : Bool} {m : SweepMeasure} :
    ((ackDecide c q h crc m s).1.chan c).recep = (s.chan c).recep ∧ (ackDecide c q h crc m s).1.out = s.out ∧
    (ackDecide c q h crc m s).1.net = s.net := by
  refine ⟨?_, Within.refl.ackDecide.same .out (by decide), Within.refl.ackDecide.same .net (by decide)⟩
  unfold ackDecide
  split
  · rfl
  · dsimp only
    split
    · dsimp only
      rw [reserveAck_recep]
      split <;> rfl
    · dsimp only
      split <;> rfl

/-- The bits of a result's status. -/
theorem sweepStatus_bits (hold sched drop crc : Bool) :
    let st := sweepStatus q hold sched drop crc
    st.getLsbD 0 = crc ∧ st.getLsbD 7 = q.ctx.isNone ∧ st.getLsbD 6 = q.duplicate ∧ st.getLsbD 5 = q.unequalised ∧ st.getLsbD 4 = hold := by
  unfold sweepStatus
  generalize q.ctx.isNone = a
  generalize q.duplicate = b
  generalize q.unequalised = e
  revert a b e hold sched drop crc
  decide

theorem payloadDecoded_spec {b : Nat} {h : SweepHdr} {d : List Byte} (hq : (s.chan c).recep.find? (·.id = id) = some q) (hh : q.header = some h)
    (hb : s.sweepTurn q = some b) (hd : (s.netPort q.record.resultPort.toNat).peerTb = some d) :
    let count := payloadSymbols q.det.order h
    let r := sweepDecoded (payloadCode h.len.toNat) (s.sweepTable c q) (2 ^ 20) (q.det.order * count) q.llrs
    let m := measured q (headSymbols + headerSymbols q.det.order + count)
    let port := q.record.resultPort.toNat
    ((payloadDecoded c id s).chan c).recep = (s.chan c).recep.filter (fun p => p.id ≠ id) ∧
    ∃ sched drop, s.out ++ [Out.aqmor port d (s.netPort port).seqTb
        (.sweepResult (sweepRecord c q h (sweepStatus q (dopplerHold q.record m) sched drop r.2.1) r.2.1 m) (if r.2.1 then bytesOfBits r.2.2 else []))] <+:
      (payloadDecoded c id s).out := by
  intro count r m port
  obtain ⟨hrecep, hout, hnet⟩ := ackDecide_spec (s := s.sweepCount q b r.1 r.2.1) (c := c) (q := q) (h := h) (crc := r.2.1) (m := m)
  have hout1 : (s.sweepCount q b r.1 r.2.1).out = s.out := Within.refl.sweepCount.same .out (by decide)
  have hnet1 : (s.sweepCount q b r.1 r.2.1).net = s.net := Within.refl.sweepCount.same .net (by decide)
  rw [chan_congr sweepCount_sweep] at hrecep
  have heq : payloadDecoded c id s =
      (let a := ackDecide c q h r.2.1 m (s.sweepCount q b r.1 r.2.1)
       let out := if r.2.1 then bytesOfBits r.2.2 else []
       let s3 := (a.1.endReception c id).sendAqmor port false
        (.sweepResult (sweepRecord c q h (sweepStatus q (dopplerHold q.record m) a.2.1 a.2.2 r.2.1) r.2.1 m) out)
       let s4 := s3.crossChan c fun x =>
        { x with seen := seeOne h.addr.toNat x.seen, n := x.n + 1, failed := x.failed + (if r.2.1 then 0 else 1),
                 quality := x.quality + m.snr.toInt, rssi := x.rssi + m.rssi.toInt }
       shadowReception c q h r.2.1 m (offerReception c q h r.2.1 m out s4)) := by
    unfold payloadDecoded
    simp -zeta only [hq, hh, hb] <;> rfl
  rw [heq]
  extract_lets a out s3 s4
  constructor
  · have hs4 : (shadowReception c q h r.2.1 m (offerReception c q h r.2.1 m out s4)).sweep = (a.1.endReception c id).sweep :=
      Within.refl.sendAqmor.crossChan.offerReception.shadowReception.same .sweep (by decide)
    rw [chan_congr hs4, State.endReception, State.modChan_chan]
    dsimp only
    rw [hrecep]
  · refine ⟨a.2.1, a.2.2, ?_⟩
    have hoff : (offerReception c q h r.2.1 m out s4).out = s3.out := Within.refl.crossChan.offerReception.same .out (by decide)
    refine List.IsPrefix.trans ?_ (shadowReception_out h r.2.1 m)
    have hport : (a.1.endReception c id).netPort port = s.netPort port := netPort_congr (hnet.trans hnet1) port
    refine prefix_of_eq ?_
    rw [hoff, sendAqmor_out (hport ▸ hd), hport, show (a.1.endReception c id).out = s.out from hout.trans hout1]

end

/-- Settles O31: detections through `receptionStart_detected`, symbols and headers through the queue's rule `queueIfDone_chan`, payloads through
`payloadDecoded_spec`. -/
theorem sweepReceptions : Obligations.SweepReceptions := by
  refine ⟨?_, ?_, ?_, ?_⟩
  · intro s chan order down bin dnBin r d c y q cmd hr hd hp hm hread
    have hdet : Detected s c order.val down bin dnBin r d := ⟨hr, hd, hp, Nat.le_of_lt_succ order.isLt, hm, hread⟩
    refine ⟨⟨rfl, rfl, rfl, rfl, rfl, newReception_unequalised⟩, fun hnew hroom hids => ⟨fun hid => ?_, fun hid => ?_⟩, fun hnew hfull => ?_,
      ?_, fun p hold hw => ?_⟩
    · refine gives_of_exec (congrArg Host.Outcome.next ((receptionStart_new hdet hnew hroom).trans (checkIdentity_ok ?_))) ?_
      · rw [State.setChan_chan]
        exact hid
      · rw [State.setChan_chan]
        exact ⟨rfl, rfl, rfl⟩
    · refine gives_of_exec (congrArg Host.Outcome.next ((receptionStart_new hdet hnew hroom).trans (checkIdentity_bad ?_))) ?_
      · rw [State.setChan_chan]
        exact hid
      · rw [State.modChan_chan, State.setChan_chan]
        exact ⟨filter_appended hids, rfl⟩
    · exact congrArg Host.Outcome.next (receptionStart_full hdet hnew hfull)
    · intro p hold hw n hid
      refine gives_of_exec (congrArg Host.Outcome.next (receptionStart_stronger hdet hold hw hid)) ?_
      rw [unqueue_chan, State.setChan_chan]
      exact ⟨rfl, rfl⟩
    · exact congrArg Host.Outcome.next (receptionStart_weaker hdet hold hw)
  · intro s chan id sym q y n need hq hsym hin hread
    obtain ⟨u, hu, he⟩ := symbolDecided_ok hq hsym hin hread
    obtain ⟨hid, hlen, hbank, hdet, hheader⟩ := symbolAfter_spec y (s.weightsOf (8 + chan.val) q.version) q sym
    refine gives_of_exec (congrArg Host.Outcome.next he) ?_
    have hfind : (u.chan chan.val).recep.find? (·.id = id) = some n := by
      rw [hu]
      exact find?_modified (f := fun _ => n) hq (hid.trans (id_of_find? hq))
    obtain ⟨b, hb, hiff, -⟩ := queueIfDone_chan hfind
    refine ⟨_, hb, rfl, hlen, hiff.trans ?_⟩
    have hneeds : blockNeeds n = need := by
      unfold blockNeeds frameSymbols
      rw [hdet, hheader]
      rfl
    rw [hneeds, hbank, hlen, hsym]
  · intro s chan id q b y r h hq hh hb
    exact ⟨fun hcrc hok => gives_of_exec rfl (headerDecoded_pass hq hh hb hcrc hok),
      fun hbad => gives_of_exec rfl (headerDecoded_fail hq hh hb hbad)⟩
  · intro s chan id q b h d y count r m port hq hh hb hd
    obtain ⟨hrecep, sched, drop, hout⟩ := payloadDecoded_spec hq hh hb hd
    refine gives_of_exec rfl ⟨hrecep, _, ?_, sweepStatus_bits _ sched drop _⟩
    obtain ⟨l, hl⟩ := hout
    rw [← hl, List.append_assoc, List.drop_left]
    exact List.mem_cons_self

end Sys2Proof.Machine
end

section
/-! PROOFS. Sweep acknowledgements (04 R113, R114). -/
namespace Sys2Proof.Machine

theorem exec_sweepAckTransmit (chan : ChanId) (id : Nat) (s : State) :
    exec (.sweepAckTransmit chan id) s = .next (ackTransmit chan.val id s) := rfl
theorem exec_sweepAckComplete (chan : ChanId) (id : Nat) (s : State) :
    exec (.sweepAckComplete chan id) s = .next (ackComplete chan.val id s) := rfl

section
variable {s : State} {c id : Nat} {a : Ack}

theorem ctx_congr {s u : State} (h : u.sweep = s.sweep) (n : Nat) : u.ctx n = s.ctx n := by rw [State.ctx, h]; rfl

theorem send_ctx (s : State) (port : Nat) (f : TxFrame) (n : Nat) : (s.send port f).ctx n = s.ctx n :=
  ctx_congr (Within.refl.send.same .sweep (by decide)) n

theorem setChan_ctx (s : State) (c : Nat) (y : ChanSt) (n : Nat) : (s.setChan c y).ctx n = s.ctx n := rfl

theorem ackTransmit_spec (ha : (s.chan c).acks.find? (fun a => a.recep = id) = some a) (hsent : a.sent = none)
    (ht : a.startNs ≤ s.nowNs + 1000000000 / sampleRate a.record) :
    ((ackTransmit c id s).ctx a.ctx).dlFcnt = (s.ctx a.ctx).dlFcnt + 1 ∧
    ((ackTransmit c id s).ctx a.ctx).item = (if a.again then (s.ctx a.ctx).item else none) ∧
    (ackTransmit c id s).out = s.out ++ [.frame (Config.fronthaulPort (8 + c)) (.sweepDown (Fin.ofNat 4 c) a.order
      (ackFrame a (s.ctx a.ctx)).1 (ackFrame a (s.ctx a.ctx)).2 a.startNs a.record.dlBackoff
      (ackSections a (s.chan c).dlSeq (ackFrame a (s.ctx a.ctx)).1 (ackFrame a (s.ctx a.ctx)).2))] := by
  unfold ackTransmit
  dsimp only
  rw [ha]
  dsimp only
  rw [if_neg (by
    rintro (h | h)
    · rw [hsent] at h
      exact Bool.false_ne_true h
    · exact Nat.not_le.2 h ht), send_ctx, setChan_ctx, State.setCtx_ctx, send_out]
  exact ⟨rfl, rfl, rfl⟩

theorem ackComplete_ok {len : Nat} (ha : (s.chan c).acks.find? (fun a => a.recep = id) = some a) (hsent : a.sent = some len)
    (ht : a.startNs + ackNs a len ≤ s.nowNs) :
    ackComplete c id s = s.setChan c { s.chan c with acks := (s.chan c).acks.filter fun b => b.recep ≠ id } := by
  unfold ackComplete
  dsimp only
  rw [ha]
  dsimp only
  rw [hsent]
  exact if_pos ht

end

/-- Settles O32: `ackTransmit_spec` and `ackComplete_ok`. -/
theorem sweepAcknowledgements : Obligations.SweepAcknowledgements :=
  ⟨fun _ _ _ _ ha hsent ht => gives_of_exec rfl (ackTransmit_spec ha hsent ht),
    fun _ _ _ _ _ ha hsent ht => congrArg Host.Outcome.next (ackComplete_ok ha hsent ht)⟩

end Sys2Proof.Machine
end

section
/-! PROOFS. Adaptation sets: how the shared operations change a set, messages and control operations (05 R120–R123, R137–R141). -/
namespace Sys2Proof.Machine

theorem exec_adaptConfig (h : QcpHdr) (r : AdaptRec) (s : State) :
    exec (.adaptConfig h r) s = .next (serve s h { role := .operate, legal := [.running] } (adaptConfigBody r)) := rfl
theorem exec_adaptControl (h : QcpHdr) (set : Byte) (op : AdaptOp) (s : State) :
    exec (.adaptControl h set op) s = .next (serve s h { role := .operate, legal := [.running] } (adaptControlBody h set.toNat op)) := rfl
theorem exec_adaptStatus (h : QcpHdr) (set : Byte) (s : State) :
    exec (.adaptStatus h set) s = .next (serve s h { role := .read, legal := [.running], reads := true } (adaptStatusBody set.toNat)) := rfl
theorem exec_adaptSave (h : QcpHdr) (set : Byte) (version : Word) (addr : Dword) (s : State) :
    exec (.adaptSave h set version addr) s =
      .next (serve s h { role := .operate, legal := [.running] } (adaptSaveBody set.toNat version addr.toNat)) := rfl
theorem exec_adaptLoad (h : QcpHdr) (set : Byte) (src : VersionSource) (s : State) :
    exec (.adaptLoad h set src) s = .next (serve s h { role := .operate, legal := [.running] } (adaptLoadBody set.toNat src)) := rfl

/-- The command that the boundary of a waiting operation is. -/
def boundaryOf (set : SetId) : AdaptOp → Instr
  | .freeze => .freeze set
  | .unfreeze => .unfreeze set
  | .select v => .select set v
  | .pin v => .pin set v
  | .unpin v => .unpin set v
  | .discardPool => .discardPool set

theorem exec_boundaryOf (set : SetId) (op : AdaptOp) (s : State) : exec (boundaryOf set op) s = .next (controlBoundary set.val op s) := by
  cases op <;> rfl

section
variable {s u : State} {n : Nat} {a : AdaptSet} {v : Word}

theorem aset_congr (h : u.adapt = s.adapt) (n : Nat) : u.aset n = s.aset n := by rw [State.aset, h]; rfl

/-! ## What the shared operations change of a set -/

/-- A change of state touches the state, the note that tiles are missing and the count of samples taken, nothing else of the set. -/
theorem adaptTo_aset (s : State) (n : Nat) (code : Half) (st : AdaptState) (vs : Word × Word) :
    ∃ nt tk, (s.adaptTo n code st vs).aset n = { s.aset n with state := st, noTiles := nt, taken := tk } := by
  unfold State.adaptTo
  dsimp only
  split
  · next h => exact ⟨(s.aset n).noTiles, (s.aset n).taken, by rw [← h]⟩
  · exact ⟨_, _, (aset_congr (Within.refl.record.tracePoint.same .adapt (by decide)) n).trans (State.setAset_aset ..)⟩

theorem adaptMove_aset (s : State) (n : Nat) (st : AdaptState) :
    ∃ nt tk, (s.adaptMove n st).aset n = { s.aset n with state := st, noTiles := nt, taken := tk } := adaptTo_aset ..

theorem activate_aset (s : State) (n : Nat) (w : Option Word) : (s.activate n w).aset n = { s.aset n with active := w } := by
  unfold State.activate
  dsimp only
  split
  · next h => rw [← h]
  · rw [aset_congr (Within.refl.captureVersion.same .adapt (by decide)), State.setAset_aset]

theorem collectDone_aset (s : State) (n : Nat) :
    ∃ st nt tk, (s.collectDone n).aset n = { s.aset n with state := st, noTiles := nt, taken := tk } := by
  unfold State.collectDone
  dsimp only
  split
  · obtain ⟨nt, tk, h⟩ := adaptMove_aset (s.setAset n { s.aset n with noTiles := (s.aset n).state != .off && !s.standing n }) n .train
    exact ⟨_, nt, tk, h.trans (by rw [State.setAset_aset])⟩
  · exact ⟨_, _, _, State.setAset_aset ..⟩

theorem writeStore_aset (s : State) (n m : Nat) : (s.writeStore n).aset m = s.aset m :=
  aset_congr (Within.refl.writeStore.same .adapt (by decide)) m

/-- A candidate that is given up frees its entry of the store; nothing else of the set changes but the steps. -/
theorem dropCandidate_eq (a : AdaptSet) : ∃ l, dropCandidate a = { a with store := l, candidate := none, steps := 0 } := by
  unfold dropCandidate
  split
  · exact ⟨_, rfl⟩
  · next h => exact ⟨a.store, by rw [← h]⟩

/-- A pinned or unpinned version is so marked. -/
theorem pinVersion_store (s : State) (n : Nat) (v : Word) (on : Bool) :
    ∀ x ∈ storeOf ((s.pinVersion n v on).aset n), x.number = v → x.pinned = on := by
  intro x hx hv
  unfold State.pinVersion storeOf at hx
  rw [State.setAset_aset] at hx
  obtain ⟨_, he, rfl⟩ := List.mem_filterMap.1 hx
  obtain ⟨e, -, he⟩ := List.mem_map.1 he
  obtain ⟨y, rfl, rfl⟩ := Option.map_eq_some_iff.1 he
  split
  · rfl
  · next hne =>
    rw [if_neg hne] at hv
    exact absurd hv hne

theorem putVersion_eq (a : AdaptSet) (v : Version) :
    ∃ k, putVersion a v = { a with store := (putVersion a v).store, arrivals := k } := by
  unfold putVersion
  split <;> exact ⟨_, rfl⟩

/-! ## Control operations -/

/-- What the boundary of the operation that waits first does, once it has come: the operation is applied to the set without it, and its request
answered. -/
def afterBoundary (n : Nat) (op : AdaptOp) (rest : List PendingCtl) (s : State) : Option QcpHdr → State
  | some h => (applyControl n op (s.setAset n { s.aset n with controls := rest })).1.reply h false
      (applyControl n op (s.setAset n { s.aset n with controls := rest })).2 .empty
  | none => (applyControl n op (s.setAset n { s.aset n with controls := rest })).1

theorem controlBoundary_due {op : AdaptOp} {k : Nat} {hdr : Option QcpHdr} {rest : List PendingCtl}
    (hc : (s.aset n).controls = { op, hdr, slot := k } :: rest) (hk : k < s.slotNow n) :
    controlBoundary n op s = afterBoundary n op rest s hdr := by
  unfold controlBoundary
  dsimp only
  split
  · next h =>
    rw [hc] at h
    cases h
  · next h =>
    rw [hc] at h
    cases h
    rw [if_neg (not_or.2 ⟨fun h => h rfl, Nat.not_le.2 hk⟩)]
    cases hdr <;> rfl

/-- A waiting operation without a request to answer gives its effect. -/
theorem gives_boundary {set : SetId} {op : AdaptOp} {k : Nat} {rest : List PendingCtl} {P : State → Prop}
    (hc : (s.aset set.val).controls = { op, hdr := none, slot := k } :: rest) (hk : k < s.slotNow set.val)
    (hp : P (applyControl set.val op (s.setAset set.val { s.aset set.val with controls := rest })).1) : Gives (boundaryOf set op) s P :=
  gives_of_exec ((exec_boundaryOf set op s).trans (congrArg Host.Outcome.next (controlBoundary_due hc hk))) hp

theorem freeze_spec (s : State) (n : Nat) :
    let b := (applyControl n .freeze s).1.aset n
    b.state = .frozen ∧ b.candidate = none ∧ b.controls = (s.aset n).controls ∧ b.active = (s.aset n).active := by
  obtain ⟨l, hl⟩ := dropCandidate_eq (s.aset n)
  obtain ⟨nt, tk, h⟩ := adaptTo_aset (s.setAset n (dropCandidate (s.aset n))) n Code.adaptFreeze .frozen (versionsOf (s.aset n))
  rw [State.setAset_aset, hl] at h
  unfold applyControl
  dsimp only
  rw [hl, h]
  exact ⟨rfl, rfl, rfl, rfl⟩

theorem restState_eq_train (s : State) (n : Nat) (standing : Bool) :
    s.restState n standing = .train ↔ s.minSamples n ≤ (s.aset n).fill ∧ standing = true := by
  unfold State.restState
  split <;> simp_all

theorem restState_cases (s : State) (n : Nat) (standing : Bool) : s.restState n standing = .train ∨ s.restState n standing = .collect := by
  unfold State.restState
  split
  · exact .inl rfl
  · exact .inr rfl

/-- What the state a set goes on in depends on. -/
theorem restState_congr (hcfg : (u.aset n).cfg = (s.aset n).cfg) (hfill : (u.aset n).fill = (s.aset n).fill) (st : Bool) :
    u.restState n st = s.restState n st := by
  unfold State.restState State.minSamples
  rw [hcfg, hfill] <;> rfl

theorem standing_congr (h : u.sched = s.sched) (n : Nat) : u.standing n = s.standing n := by
  unfold State.standing
  rw [h]

theorem unfreeze_spec (h : (s.aset n).state = .frozen) :
    let b := (applyControl n .unfreeze s).1.aset n
    b.state = s.restState n true ∧ b.controls = (s.aset n).controls := by
  obtain ⟨nt, tk, hb⟩ := adaptMove_aset s n (s.restState n true)
  unfold applyControl
  dsimp only
  rw [if_neg (by rw [h]; exact fun hne => hne rfl), hb]
  exact ⟨rfl, rfl⟩

theorem unfreeze_bad (h : (s.aset n).state ≠ .frozen) : applyControl n .unfreeze s = (s, Code.badState) := if_pos h

theorem select_spec (hv : hasVersion (s.aset n) v = true) :
    let b := (applyControl n (.select v) s).1.aset n
    b.active = some v ∧ b.previous = (s.aset n).active ∧ b.candidate = none ∧
    b.state = if (s.aset n).state = .off ∨ (s.aset n).state = .frozen then (s.aset n).state else s.restState n (s.standing n) := by
  have ha1 : ∃ l, (if (s.aset n).candidate = some v then { s.aset n with candidate := none, steps := 0 } else dropCandidate (s.aset n)) =
      { s.aset n with store := l, candidate := none, steps := 0 } := by
    split
    · exact ⟨_, rfl⟩
    · exact dropCandidate_eq _
  obtain ⟨l, hl⟩ := ha1
  unfold applyControl State.selectVersion
  dsimp only
  rw [hv, if_neg (by simp), hl]
  generalize ht : (s.setAset n _).activate n (some v) = t
  have hset : t.aset n = { zeroEval { s.aset n with store := l, candidate := none, steps := 0 } with
      previous := (s.aset n).active, active := some v } := by
    rw [← ht, activate_aset, State.setAset_aset]
  have hsched : t.sched = s.sched := by
    rw [← ht]
    exact Within.refl.setAset.activate.same .sched (by decide)
  split
  · rw [hset]
    exact ⟨rfl, rfl, rfl, rfl⟩
  · obtain ⟨nt, tk, hb⟩ := adaptMove_aset t n (t.restState n (t.standing n))
    dsimp only
    rw [hb, hset, standing_congr hsched, restState_congr (s := s) (by rw [hset] <;> rfl) (by rw [hset] <;> rfl)]
    exact ⟨rfl, rfl, rfl, rfl⟩

/-- The state a set is in with its pool discarded. -/
def discardedState : AdaptState → AdaptState
  | .train | .shadow | .probation => .collect
  | st => st

theorem discardPool_spec (s : State) (n : Nat) :
    let b := (applyControl n .discardPool s).1.aset n
    b.fill = 0 ∧ b.candidate = none ∧ b.units = [] ∧ b.state = discardedState (s.aset n).state := by
  obtain ⟨l, hl⟩ := dropCandidate_eq (emptyPool (s.aset n))
  have hset : (s.setAset n (dropCandidate (emptyPool (s.aset n)))).aset n =
      { emptyPool (s.aset n) with store := l, candidate := none, steps := 0 } := by rw [State.setAset_aset, hl]
  obtain ⟨nt, tk, hb⟩ := adaptTo_aset (s.setAset n (dropCandidate (emptyPool (s.aset n)))) n Code.adaptState .collect (versionsOf (s.aset n))
  rw [hset] at hb
  unfold applyControl
  dsimp only
  cases hst : (s.aset n).state <;> dsimp only
  case train | shadow | probation =>
    rw [hb]
    exact ⟨rfl, rfl, rfl, rfl⟩
  case off | collect | frozen =>
    rw [hset]
    exact ⟨rfl, rfl, rfl, hst⟩

/-! ## Messages -/

theorem adaptConfigBody_range {r : AdaptRec} (h : adaptInRange r = false) : adaptConfigBody r s = (s, .now Code.cfgRange .empty) := by
  unfold adaptConfigBody
  dsimp only
  rw [h] <;> rfl

theorem adaptConfigBody_ok {r : AdaptRec} (h : adaptInRange r = true) (hsize : (adaptRegion r).1 + (adaptRegion r).2 ≤ hbmSize)
    (hdom : s.domainOk .radio (adaptRegion r).1 (adaptRegion r).2 = true)
    (hmeet : (s.adaptRegions r.set.toNat ++ s.harqPools 8).any (rangesMeet (adaptRegion r)) = false) :
    adaptConfigBody r s = (s.setAset r.set.toNat { s.aset r.set.toNat with pendingCfg := some r }, .now Code.ok .empty) := by
  unfold adaptConfigBody
  dsimp only
  rw [h, if_neg (by simp), hdom, hmeet, if_neg]
  · rfl
  · simp only [Bool.not_true, Bool.false_eq_true, or_false]
    exact Nat.not_lt.2 hsize

theorem adaptControlBody_ok {h : QcpHdr} {op : AdaptOp} (hn : n ≤ 11) :
    adaptControlBody h n op s = (s.setAset n { s.aset n with controls := (s.aset n).controls ++ [{ op, hdr := some h, slot := s.slotNow n }] },
      .later) := if_neg (Nat.not_lt.2 hn)

theorem adaptStatusBody_ok (hn : n ≤ 11) : adaptStatusBody n s = (s, .now Code.ok (.nums (adaptStatusFields n (s.aset n)))) :=
  if_neg (Nat.not_lt.2 hn)

theorem adaptSaveBody_ok {addr : Nat} {x : Version} (hn : n ≤ 11) (hx : (storeOf (s.aset n)).find? (·.number = v) = some x)
    (hext : s.extRange addr (s.sealBlob 1 (versionBytes x)).1.length = true)
    (hdom : s.domainOk .management addr (s.sealBlob 1 (versionBytes x)).1.length = true) :
    adaptSaveBody n v addr s = ((s.sealBlob 1 (versionBytes x)).2.extWrite addr (s.sealBlob 1 (versionBytes x)).1,
      .now Code.ok (.nums [(s.sealBlob 1 (versionBytes x)).1.length])) := by
  unfold adaptSaveBody
  rw [if_neg (Nat.not_lt.2 hn), hx]
  exact if_pos ⟨hext, hdom⟩

/-- Can a load read what it names? -/
def LoadReads (s : State) (src : VersionSource) : Prop :=
  s.extRange (s.sourceSpan src).1 32 = true ∧ s.extRange (s.sourceSpan src).1 (s.sourceSpan src).2 = true ∧
    s.domainOk .management (s.sourceSpan src).1 (s.sourceSpan src).2 = true

theorem adaptLoadBody_reads {src : VersionSource} (hn : n ≤ 11) (hr : LoadReads s src) :
    adaptLoadBody n src s = (match s.loadedVersion src with
      | none => (s, .now Code.authFail .empty)
      | some x => takeVersion n x s) := by
  obtain ⟨h32, hspan, hdom⟩ := hr
  unfold adaptLoadBody
  dsimp only
  rw [if_neg (Nat.not_lt.2 hn), h32, hspan, hdom, if_neg (by simp)] <;> rfl

/-- The set with a version that enters its store. -/
def withVersion (n : Nat) (x : Version) (s : State) : State := (s.setAset n (putVersion (s.aset n) x)).writeStore n

theorem withVersion_aset (n : Nat) (x : Version) (s : State) : (withVersion n x s).aset n = putVersion (s.aset n) x := by
  rw [withVersion, writeStore_aset, State.setAset_aset]

/-- May a version enter the store of a set: its number, and room? -/
structure Enters (s : State) (n : Nat) (x : Version) : Prop where
  number : x.number ≠ 0
  origin : x.device = true ∨ x.number.getLsbD 31 = false
  fresh : hasVersion (s.aset n) x.number = false
  room : (s.aset n).store.all (·.isSome) = false

theorem takeVersion_enters {x : Version} (h : Enters s n x) :
    takeVersion n x s =
      (if s.loadTakes n x then
        let s2 := ((withVersion n x s).setAset n { (withVersion n x s).aset n with previous := (s.aset n).active }).activate n (some x.number)
        let on : Bool := match (s.aset n).cfg with | some r => r.enable | none => false
        if (s.aset n).state = .off ∧ (s.aset n).active.isNone ∧ on = true then ((s2.adaptMove n .collect).collectDone n, .ok) else (s2, .ok)
      else (withVersion n x s, .ok)) := by
  obtain ⟨h0, horigin, hfresh, hroom⟩ := h
  have hnumber : ¬(x.number = 0 ∨ (!x.device) = true ∧ x.number.getLsbD 31 = true) := by
    rintro (h | ⟨h, h'⟩)
    · exact h0 h
    · rcases horigin with hd | hb
      · rw [hd] at h
        exact Bool.false_ne_true h
      · rw [hb] at h'
        exact Bool.false_ne_true h'
  unfold takeVersion
  dsimp only
  rw [if_neg hnumber, hfresh, if_neg (by simp), hroom, if_neg (by simp)] <;> rfl

theorem takeVersion_kept {x : Version} (h : Enters s n x) (ht : s.loadTakes n x = false) :
    takeVersion n x s = (withVersion n x s, .now Code.ok .empty) := by
  rw [takeVersion_enters h]
  exact if_neg (by rw [ht]; exact Bool.false_ne_true)

/-- A version that goes into force: the old one is the previous one. -/
theorem takeVersion_active {x : Version} (h : Enters s n x) (ht : s.loadTakes n x = true) :
    ∃ t, ((t.aset n).active = some x.number ∧ (t.aset n).previous = (s.aset n).active ∧
      (t.aset n).store = (putVersion (s.aset n) x).store) ∧ takeVersion n x s = (t, .now Code.ok .empty) := by
  rw [takeVersion_enters h, if_pos ht]
  extract_lets src s2 on
  have hs2 : s2.aset n = { putVersion (s.aset n) x with previous := (s.aset n).active, active := some x.number } := by
    rw [activate_aset, State.setAset_aset, show src = _ from withVersion_aset ..]
  split
  · obtain ⟨nt, tk, hmove⟩ := adaptMove_aset s2 n .collect
    obtain ⟨st, nt', tk', hdone⟩ := collectDone_aset (s2.adaptMove n .collect) n
    refine ⟨_, ?_, rfl⟩
    rw [hdone, hmove, hs2]
    exact ⟨rfl, rfl, rfl⟩
  · refine ⟨_, ?_, rfl⟩
    rw [hs2]
    exact ⟨rfl, rfl, rfl⟩

end

/-- Settles O33: messages through their bodies, control operations through `gives_boundary` and the rule of each operation. -/
theorem adaptMessages : Obligations.AdaptMessages := by
  refine ⟨⟨fun h r hok => ?_, fun h r hbad => ?_, ?_, fun h set hn => ?_, fun h set version addr v hn => ?_, ?_⟩,
    fun s set k rest hc hk => ?_, fun s set k rest hc hk hst => ?_, fun s set k rest v hc hk hv => ?_, fun s set k rest v hc hk hv => ?_,
    fun s set k rest v hc hk hv => ?_, fun s set k rest hc hk => ?_, fun s set k rest h hc hk hst => ?_⟩
  · exact serves_of_body (fun s => exec_adaptConfig h r s) fun s ⟨hsize, hdom, hmeet⟩ => adaptConfigBody_ok hok hsize hdom hmeet
  · exact refuses_of_body (fun s => exec_adaptConfig h r s) (by decide) fun s _ => adaptConfigBody_range hbad
  · intro s h set op ha hn u
    rw [exec_adaptControl, serve_accepted ha (by rw [adaptControlBody_ok hn]; rfl), adaptControlBody_ok hn]
  · exact serves_of_body (fun s => exec_adaptStatus h set s) fun s _ => adaptStatusBody_ok hn
  · exact serves_of_body (fun s => exec_adaptSave h set version addr s) fun s ⟨hv, hext, hdom⟩ => adaptSaveBody_ok hn hv hext hdom
  · intro h set src v hn reads holds m
    refine ⟨serves_of_body (fun s => exec_adaptLoad h set src s) ?_, answers_of_body (fun s => exec_adaptLoad h set src s) ?_,
      refuses_of_body (fun s => exec_adaptLoad h set src s) (by decide) ?_⟩
    · intro s ⟨hr, ⟨hl, h0, horigin⟩, hfresh, hroom, ht⟩
      rw [adaptLoadBody_reads hn hr, hl]
      exact takeVersion_kept ⟨h0, horigin, hfresh, hroom⟩ ht
    · intro s ⟨hr, ⟨hl, h0, horigin⟩, hfresh, hroom, ht⟩
      rw [adaptLoadBody_reads hn hr, hl]
      exact takeVersion_active ⟨h0, horigin, hfresh, hroom⟩ ht
    · intro s ⟨hr, hl⟩
      rw [adaptLoadBody_reads hn hr, hl]
      rfl
  · refine gives_boundary (op := .freeze) hc hk ?_
    have h := freeze_spec (s.setAset set.val { s.aset set.val with controls := rest }) set.val
    rw [State.setAset_aset] at h
    exact h
  · obtain ⟨hstate, hctl⟩ := unfreeze_spec (s := s.setAset set.val { s.aset set.val with controls := rest }) (n := set.val)
      (by rw [State.setAset_aset]; exact hst)
    rw [State.setAset_aset] at hctl
    have hrest := restState_congr (s := s) (u := s.setAset set.val { s.aset set.val with controls := rest }) (n := set.val)
      (by rw [State.setAset_aset]) (by rw [State.setAset_aset]) true
    rw [hrest] at hstate
    refine gives_boundary (op := .unfreeze) hc hk ⟨?_, ?_, hctl⟩
    · rw [hstate]
      exact restState_cases ..
    · rw [hstate, restState_eq_train]
      exact and_iff_left rfl
  · have h := select_spec (s := s.setAset set.val { s.aset set.val with controls := rest }) (n := set.val)
      (by rw [State.setAset_aset]; exact hv)
    rw [State.setAset_aset, restState_congr (s := s) (by rw [State.setAset_aset]) (by rw [State.setAset_aset])] at h
    exact gives_boundary (op := .select v) hc hk h
  · refine gives_boundary (op := .pin v) hc hk ?_
    rw [show applyControl set.val (.pin v) _ = _ from if_pos (by rw [State.setAset_aset]; exact hv)]
    exact pinVersion_store _ _ _ _
  · refine gives_boundary (op := .unpin v) hc hk ?_
    rw [show applyControl set.val (.unpin v) _ = _ from if_pos (by rw [State.setAset_aset]; exact hv)]
    exact pinVersion_store _ _ _ _
  · obtain ⟨hfill, hcand, hunits, hstate⟩ := discardPool_spec (s.setAset set.val { s.aset set.val with controls := rest }) set.val
    rw [State.setAset_aset] at hstate
    refine gives_boundary (op := .discardPool) hc hk ⟨hfill, hcand, hunits, hstate.trans ?_⟩
    dsimp only
    cases (s.aset set.val).state <;> rfl
  · refine (exec_boundaryOf set .unfreeze s).trans (congrArg Host.Outcome.next ((controlBoundary_due hc hk).trans ?_))
    unfold afterBoundary
    rw [unfreeze_bad (by rw [State.setAset_aset]; exact hst)] <;> rfl

end Sys2Proof.Machine
end

section
/-! PROOFS. Samples, training steps and guard windows of an adaptation set (05 R124–R131, R136). -/
namespace Sys2Proof.Machine

theorem exec_sampleLabelWrite (set : SetId) (s : State) : exec (.sampleLabelWrite set) s = .next (sampleWrite set.val s) := rfl
theorem exec_sampleDropTimeout (set : SetId) (s : State) : exec (.sampleDropTimeout set) s = .next (sampleDrop set.val s) := rfl
theorem exec_trainingStep (set : SetId) (s : State) : exec (.trainingStep set) s = .next (trainStep set.val s) := rfl
theorem exec_guardWindowEnd (set : SetId) (s : State) : exec (.guardWindowEnd set) s = .next (guardEnd set.val s) := rfl

section
variable {s : State} {n : Nat} {r : AdaptRec}

/-! ## Samples -/

theorem collectDone_mem (h : (s.aset n).state ≠ .collect) : (s.collectDone n).mem = s.mem := by
  unfold State.collectDone
  dsimp only
  rw [if_neg fun h' => h h'.1]
  rfl

theorem sampleWrite_spec {u : PoolUnit} {rest : List PoolUnit} (hu : (s.aset n).units = u :: rest) (hr : (s.aset n).cfg = some r)
    (ht : s.nowNs ≤ u.due) :
    let b := (sampleWrite n s).aset n
    b.units = rest ∧ b.fill = min r.poolRecords.toNat ((s.aset n).fill + 1) ∧
    b.ringPos = ((s.aset n).ringPos + 1) % r.poolRecords.toNat ∧
    ((s.aset n).state ≠ .collect → (sampleWrite n s).mem = (s.extWrite (recordPlace r (s.aset n).ringPos) (unitRecord u)).mem) := by
  unfold sampleWrite
  dsimp only
  rw [hu, hr]
  dsimp only
  rw [if_neg (Nat.not_lt.2 ht)]
  generalize hv : State.setAset _ n _ = v
  have hset : v.aset n = { s.aset n with
      units := rest, fill := min r.poolRecords.toNat ((s.aset n).fill + 1), ringPos := ((s.aset n).ringPos + 1) % r.poolRecords.toNat } := by
    rw [← hv, State.setAset_aset, ← hr]
  obtain ⟨st, nt, tk, hdone⟩ := collectDone_aset v n
  rw [hdone, hset]
  refine ⟨rfl, rfl, rfl, fun hst => ?_⟩
  rw [collectDone_mem (by rw [hset]; exact hst), ← hv]
  rfl

theorem sampleDrop_late {u : PoolUnit} {rest : List PoolUnit} (hu : (s.aset n).units = u :: rest) (ht : u.due < s.nowNs) :
    sampleDrop n s = s.setAset n { s.aset n with units := rest, dropped := bump top32 (s.aset n).dropped } := by
  unfold sampleDrop
  dsimp only
  rw [hu]
  exact if_pos ht

/-! ## Training steps -/

/-- What a step makes of the momentum of weight `i`, from its gradient. -/
def newMomentum (mom : Word) (a : AdaptSet) (g : Nat → Word) (i : Nat) : Word := add32 (mul32 mom (a.momentum.get 0 i)) (g i)

/-- The set with the first `k` weights updated: their momenta and masters are new, and nothing else of the set is. -/
theorem foldl_updateWeight (lr mom : Word) (g : Nat → Word) (a : AdaptSet) (k : Nat) :
    let b := (upTo k).foldl (fun x i => updateWeight lr mom x i (g i)) a
    (∃ m t, b = { a with momentum := m, master := t }) ∧
    (∀ i, i < k → b.momentum.get 0 i = newMomentum mom a g i ∧
      b.master.get none i = some (sub32 (masterOf a i) (mul32 lr (newMomentum mom a g i)))) ∧
    (∀ i, k ≤ i → b.momentum.get 0 i = a.momentum.get 0 i ∧ b.master.get none i = a.master.get none i) := by
  induction k with
  | zero => exact ⟨⟨_, _, rfl⟩, fun i hi => absurd hi (Nat.not_lt_zero i), fun i _ => ⟨rfl, rfl⟩⟩
  | succ k ih =>
    unfold upTo at ih ⊢
    rw [List.range_succ, List.foldl_append, List.foldl_cons, List.foldl_nil]
    generalize (List.range k).foldl _ a = b at ih
    obtain ⟨⟨m, t, hb⟩, hdone, hrest⟩ := ih
    have hmaster : masterOf b k = masterOf a k := by
      unfold masterOf
      rw [(hrest k (Nat.le_refl _)).2, hb]
    refine ⟨⟨_, _, by rw [hb]; rfl⟩, fun i hi => ?_, fun i hi => ?_⟩
    · unfold updateWeight
      dsimp only
      rcases Nat.lt_succ_iff_lt_or_eq.1 hi with hlt | rfl
      · rw [Table.get_set_ne (Nat.ne_of_lt hlt), Table.get_set_ne (Nat.ne_of_lt hlt)]
        exact hdone i hlt
      · rw [Table.get_set, Table.get_set, hmaster, (hrest i (Nat.le_refl _)).1]
        exact ⟨rfl, rfl⟩
    · unfold updateWeight
      dsimp only
      rw [Table.get_set_ne (Nat.ne_of_gt (Nat.lt_of_succ_le hi)), Table.get_set_ne (Nat.ne_of_gt (Nat.lt_of_succ_le hi))]
      exact hrest i (Nat.le_of_succ_le hi)

/-- The set that a step begins from. -/
def stepBase (a : AdaptSet) : AdaptSet := if a.steps = 0 then freshTraining a else a

theorem stepBase_eq (a : AdaptSet) : ∃ m t b, stepBase a = { a with momentum := m, master := t, base := b } := by
  unfold stepBase
  split
  · exact ⟨_, _, _, rfl⟩
  · exact ⟨a.momentum, a.master, a.base, rfl⟩

/-- The gradient of a weight in a step. -/
def stepGradient (n iters : Nat) (records : List (List Byte)) (a : AdaptSet) (i : Nat) : Word :=
  Config.gradient ((stepBase a).base, mastersOf (stepBase a)) records (if n < 8 then records.map estimatorLabels else []) iters i

theorem afterStep_eq (n : Nat) (r : AdaptRec) (iters : Nat) (records : List (List Byte)) (a : AdaptSet) :
    afterStep n r iters records a =
      (let b := (upTo (Config.weightCount (stepBase a).base)).foldl
        (fun x i => updateWeight (bfWord r.lr) (bfWord r.momentum) x i (stepGradient n iters records a i)) (stepBase a)
       { b with steps := min r.stepsPerCandidate.toNat (a.steps + 1), stepCounter := (a.stepCounter + 1) % 2 ^ 64 }) := rfl

/-- A step leaves the rest of the set as it was, but for its own counts. -/
theorem afterStep_rest (n : Nat) (r : AdaptRec) (iters : Nat) (records : List (List Byte)) (a : AdaptSet) :
    ∃ m t b k, afterStep n r iters records a =
      { a with momentum := m, master := t, base := b, steps := min r.stepsPerCandidate.toNat (a.steps + 1), stepCounter := k } := by
  obtain ⟨m, t, b, hbase⟩ := stepBase_eq a
  obtain ⟨⟨m', t', hfold⟩, -, -⟩ := foldl_updateWeight (bfWord r.lr) (bfWord r.momentum) (stepGradient n iters records a) (stepBase a)
    (Config.weightCount (stepBase a).base)
  rw [afterStep_eq, hfold, hbase]
  exact ⟨_, _, _, _, rfl⟩

/-- Every weight of a step has its new momentum and master. -/
theorem afterStep_weights (n : Nat) (r : AdaptRec) (iters : Nat) (records : List (List Byte)) (a : AdaptSet) :
    let b := afterStep n r iters records a
    let g := stepGradient n iters records a
    (∀ i, i < Config.weightCount (stepBase a).base → b.momentum.get 0 i = newMomentum (bfWord r.momentum) (stepBase a) g i ∧
      b.master.get none i = some (sub32 (masterOf (stepBase a) i) (mul32 (bfWord r.lr) (newMomentum (bfWord r.momentum) (stepBase a) g i)))) ∧
    (∀ i, Config.weightCount (stepBase a).base ≤ i → b.momentum.get 0 i = (stepBase a).momentum.get 0 i ∧
      b.master.get none i = (stepBase a).master.get none i) :=
  (foldl_updateWeight (bfWord r.lr) (bfWord r.momentum) (stepGradient n iters records a) (stepBase a)
    (Config.weightCount (stepBase a).base)).2

/-- The decoder iterations that a set's cell asks for. -/
def iterationsOf (s : State) (n : Nat) : Nat := match (s.cell n).ul with | some u => u.ldpcMaxIter.toNat | none => 0

/-- The records of the batch of the next step. -/
def batchOf (s : State) (n : Nat) (r : AdaptRec) : List (List Byte) :=
  (batchRecords n r (s.aset n)).map fun i => s.extRead (recordPlace r i) 0x10000

/-- May a set take a step? -/
structure Trains (s : State) (n : Nat) (r : AdaptRec) : Prop where
  config : (s.aset n).cfg = some r
  live : s.capture.replay = none
  state : (s.aset n).state = .train ∨ (s.aset n).state = .probation
  pool : (s.aset n).fill ≠ 0
  tiles : s.trainingRuns n = true
  candidate : (s.aset n).candidate = none

theorem trainStep_trains (h : Trains s n r) (hsteps : (s.aset n).steps < r.stepsPerCandidate.toNat) :
    let b := afterStep n r (iterationsOf s n) (batchOf s n r) (s.aset n)
    ∃ u : State, u.aset n = b ∧ trainStep n s = if r.stepsPerCandidate.toNat ≤ b.steps then formCandidate n (candidateBytes b) u else u := by
  obtain ⟨hr, hlive, hstate, hpool, htiles, hcand⟩ := h
  intro b
  have hgo : ¬(s.replaying = true ∨ (!decide ((s.aset n).state = .train ∨ (s.aset n).state = .probation)) = true ∨ (s.aset n).fill = 0 ∨
      (!s.trainingRuns n) = true ∨ (s.aset n).candidate.isSome = true) := by
    rw [State.replaying, hlive, htiles, hcand, decide_eq_true hstate]
    simpa using hpool
  unfold trainStep
  dsimp only
  rw [hr]
  dsimp only
  rw [if_neg hgo, if_neg (Nat.not_le.2 hsteps)]
  exact ⟨_, State.setAset_aset .., rfl⟩

/-- A version put where the store has room is in it. -/
theorem putVersion_mem {a : AdaptSet} (h : a.store.any (·.isNone) = true) (v : Version) :
    { v with arrival := a.arrivals } ∈ storeOf (putVersion a v) := by
  unfold putVersion
  obtain ⟨i, hi⟩ := Option.isSome_iff_exists.1 (List.findIdx?_isSome.trans h)
  rw [hi]
  have hlt := (List.findIdx?_eq_some_iff_getElem.1 hi).1
  exact List.mem_filterMap.2 ⟨_, List.mem_iff_getElem.2 ⟨i, by simpa using hlt, by simp⟩, rfl⟩

/-- A candidate that the store has room for is in it under its number, and the set goes from TRAIN to SHADOW. -/
theorem formCandidate_room {ws : List Byte} (hgen : (s.aset n).nextGen < 2 ^ 27)
    (hnew : hasVersion (s.aset n) (candidateNumber n (s.aset n).nextGen) = false) (hroom : (s.aset n).store.any (·.isNone) = true) :
    let num := candidateNumber n (s.aset n).nextGen
    let b := (formCandidate n ws s).aset n
    b.candidate = some num ∧ b.nextGen = (s.aset n).nextGen + 1 ∧
    b.state = (if (s.aset n).state = .train then .shadow else (s.aset n).state) ∧
    ∃ x ∈ storeOf b, x.number = num ∧ x.device = true ∧ x.weights = ws := by
  intro num b
  have hb : b = (formCandidate n ws s).aset n := rfl
  clear_value b
  unfold formCandidate makeRoom at hb
  dsimp only at hb
  rw [if_neg (Nat.not_le.2 hgen), if_neg (by rw [hnew]; exact Bool.false_ne_true), if_pos hroom] at hb
  dsimp only at hb
  generalize hx : ({ number := candidateNumber n (s.aset n).nextGen, pinned := false, device := true, arrival := 0, mu := _, nRx := _, layers := _, weights := ws } : Version) = x at hb
  have hmem := putVersion_mem hroom x
  obtain ⟨k, hput⟩ := putVersion_eq (s.aset n) x
  generalize hu : State.writeStore _ n = u at hb
  have hset : u.aset n = { putVersion (s.aset n) x with candidate := some num, nextGen := (s.aset n).nextGen + 1, steps := 0 } := by
    rw [← hu, writeStore_aset, State.setAset_aset]
  have hin : ∃ y ∈ storeOf (putVersion (s.aset n) x), y.number = num ∧ y.device = true ∧ y.weights = ws :=
    ⟨_, hmem, by rw [← hx], by rw [← hx], by rw [← hx]⟩
  have hkeep : (putVersion (s.aset n) x).state = (s.aset n).state := by rw [hput]
  split at hb
  · next htrain =>
    obtain ⟨nt, tk, hmove⟩ := adaptMove_aset (u.setAset n (zeroEval (u.aset n))) n .shadow
    rw [State.setAset_aset] at hmove
    rw [hb, hmove, hset]
    exact ⟨rfl, rfl, (if_pos htrain).symm, hin⟩
  · next htrain =>
    rw [hb, hset]
    exact ⟨rfl, rfl, hkeep.trans (if_neg htrain).symm, hin⟩

/-! ## Guard windows -/

theorem controlsDue_none (h : (s.aset n).controls = []) : s.controlsDue n = s.setAset n (s.aset n) := by
  unfold State.controlsDue
  dsimp only
  rw [h]
  dsimp only [List.filter_nil, List.foldl_nil]
  rw [← h]

theorem adaptDecide_other {s : State} (h : (s.aset n).state = .train ∨ (s.aset n).state = .frozen) : adaptDecide n s = s := by
  unfold adaptDecide
  dsimp only
  split
  · rfl
  · rcases h with h | h <;> rw [h]

/-- The set whose guard window is renewed. -/
def renewed (s : State) (n : Nat) (r : AdaptRec) : AdaptSet :=
  { s.aset n with
    lossStart := (s.cell n).guardLoss
    gainStart := (s.cell n).guardGain
    guardStart := (s.aset n).guardStart + r.guardWindow.toNat }

/-- Does a guard window that is over trip? -/
def Trips (s : State) (n : Nat) (r : AdaptRec) (u : UlCell) : Prop :=
  n < 8 ∧ r.guardCheck = true ∧ u.rxMode = 2 ∧ s.capture.replay = none ∧
    (s.cell n).guardGain - (s.aset n).gainStart + r.guardLimit.toNat ≤ (s.cell n).guardLoss - (s.aset n).lossStart

theorem guardTrip_over {u : UlCell} (hr : (s.aset n).cfg = some r) (hu : (s.cell n).ul = some u) (hst : (s.aset n).state = .train)
    (hover : (s.aset n).guardStart + r.guardWindow.toNat ≤ s.slotNow n) :
    (Trips s n r u → ∃ l nt tk, (s.guardTrip n).aset n = { renewed s n r with
      state := .frozen, guardTripped := true, store := l, candidate := none, steps := 0, noTiles := nt, taken := tk }) ∧
    (¬ Trips s n r u → (s.guardTrip n).aset n = renewed s n r) := by
  have hreplay : (!s.replaying) = true ↔ s.capture.replay = none := by
    unfold State.replaying
    cases s.capture.replay <;> simp
  unfold State.guardTrip
  dsimp only
  rw [hr, hu]
  dsimp only
  rw [if_neg (Nat.not_lt.2 hover), hst]
  constructor
  · rintro ⟨hn, hcheck, hmode, hlive, hlimit⟩
    rw [if_pos ⟨hn, hcheck, hmode, hreplay.2 hlive, hlimit⟩, if_neg (by decide)]
    generalize hv : State.record _ _ _ _ = v
    have hset : v.aset n = { renewed s n r with guardTripped := true } := by
      rw [← hv, aset_congr (Within.refl.record.same .adapt (by decide)), State.setAset_aset, State.setAset_aset, renewed, hr, hst]
    obtain ⟨l, hl⟩ := dropCandidate_eq (v.aset n)
    obtain ⟨nt, tk, hto⟩ := adaptTo_aset (v.setAset n (dropCandidate (v.aset n))) n Code.adaptFreeze .frozen (versionsOf (s.aset n))
    rw [State.setAset_aset] at hto
    refine ⟨l, nt, tk, hto.trans ?_⟩
    rw [hl, hset]
  · intro hno
    rw [if_neg fun ⟨hn, hcheck, hmode, hlive, hlimit⟩ => hno ⟨hn, hcheck, hmode, hreplay.1 hlive, hlimit⟩, State.setAset_aset, renewed,
      hr, hst]

theorem guardEnd_spec {u : UlCell} (hr : (s.aset n).cfg = some r) (hu : (s.cell n).ul = some u) (hc : (s.aset n).controls = [])
    (hst : (s.aset n).state = .train) (hover : (s.aset n).guardStart + r.guardWindow.toNat ≤ s.slotNow n) :
    (Trips s n r u → ∃ l nt tk, (guardEnd n s).aset n = { renewed s n r with
      state := .frozen, guardTripped := true, store := l, candidate := none, steps := 0, noTiles := nt, taken := tk }) ∧
    (¬ Trips s n r u → (guardEnd n s).aset n = renewed s n r) := by
  have hself : (s.setAset n (s.aset n)).aset n = s.aset n := State.setAset_aset ..
  have hrenewed : renewed (s.setAset n (s.aset n)) n r = renewed s n r := by
    unfold renewed
    rw [hself, State.setAset_cell]
  have htrips : Trips (s.setAset n (s.aset n)) n r u ↔ Trips s n r u := by
    unfold Trips
    rw [hself, State.setAset_cell, State.setAset_capture]
  obtain ⟨htrip, hkeep⟩ := guardTrip_over (s := s.setAset n (s.aset n)) (n := n) (by rw [hself]; exact hr) hu
    (by rw [hself]; exact hst) (by rw [hself]; exact hover)
  rw [hrenewed, htrips] at htrip hkeep
  unfold guardEnd State.setBoundary
  rw [controlsDue_none hc]
  constructor
  · intro h
    obtain ⟨l, nt, tk, he⟩ := htrip h
    rw [adaptDecide_other (.inr (by rw [he]))]
    exact ⟨l, nt, tk, he⟩
  · intro h
    have he := hkeep h
    rw [adaptDecide_other (.inl (by rw [he]; exact hst)), he]

end

/-- Settles O34: samples by `sampleWrite_spec`, every weight of a step by `afterStep_weights` (an induction over the weights), a candidate by
`formCandidate_room`, a guard window by `guardEnd_spec`. -/
theorem adaptTraining : Obligations.AdaptTraining := by
  refine ⟨?_, ?_, ?_, ?_⟩
  · intro s set u rest r a hu hr ht
    exact gives_of_exec rfl (sampleWrite_spec hu hr ht)
  · intro s set u rest hu ht
    exact congrArg Host.Outcome.next (sampleDrop_late hu ht)
  · intro s set r a records iters a0 g v count num hr hlive hstate hpool htiles hcand
    have htrain : Trains s set.val r := ⟨hr, hlive, hstate, hpool, htiles, hcand⟩
    obtain ⟨m, t, b, k, hrest⟩ := afterStep_rest set.val r (iterationsOf s set.val) (batchOf s set.val r) a
    constructor
    · intro hsteps
      obtain ⟨u, hu, he⟩ := trainStep_trains htrain (Nat.lt_of_succ_lt hsteps)
      have hcount : (afterStep set.val r (iterationsOf s set.val) (batchOf s set.val r) a).steps = a.steps + 1 := by
        rw [hrest]
        exact Nat.min_eq_right (Nat.le_of_lt hsteps)
      rw [hcount, if_neg (Nat.not_le.2 hsteps)] at he
      refine gives_of_exec (congrArg Host.Outcome.next he) ?_
      rw [hu]
      exact ⟨hcount, afterStep_weights set.val r (iterationsOf s set.val) (batchOf s set.val r) a⟩
    · intro hsteps hgen hnew hroom
      obtain ⟨u, hu, he⟩ := trainStep_trains htrain (hsteps ▸ Nat.lt_succ_self _)
      have hcount : r.stepsPerCandidate.toNat ≤ (afterStep set.val r (iterationsOf s set.val) (batchOf s set.val r) a).steps := by
        rw [hrest]
        exact Nat.le_min.2 ⟨Nat.le_refl _, Nat.le_of_eq hsteps.symm⟩
      rw [if_pos hcount] at he
      refine gives_of_exec (congrArg Host.Outcome.next he) ?_
      have hform := formCandidate_room (s := u) (n := set.val)
        (ws := candidateBytes (afterStep set.val r (iterationsOf s set.val) (batchOf s set.val r) a))
        (by rw [hu, hrest]; exact hgen) (by rw [hu, hrest]; exact hnew) (by rw [hu, hrest]; exact hroom)
      rw [hu, show (afterStep set.val r (iterationsOf s set.val) (batchOf s set.val r) (s.aset set.val)).nextGen = a.nextGen by
          rw [show s.aset set.val = a from rfl, hrest],
        show (afterStep set.val r (iterationsOf s set.val) (batchOf s set.val r) (s.aset set.val)).state = a.state by
          rw [show s.aset set.val = a from rfl, hrest]] at hform
      obtain ⟨hc, hg, hst, hx⟩ := hform
      refine ⟨hc, hg, hst.trans ?_, hx⟩
      rcases hstate with h | h
      · rw [if_pos h, if_pos h]
      · rw [if_neg (by rw [h]; decide), if_neg (by rw [h]; decide), h]
  · intro s set r u a c hr hu hc hst hover
    obtain ⟨htrip, hkeep⟩ := guardEnd_spec hr hu hc hst hover
    refine gives_of_exec rfl ?_
    by_cases h : Trips s set.val r u
    · obtain ⟨l, nt, tk, he⟩ := htrip h
      rw [he]
      exact ⟨rfl, rfl, rfl, fun _ _ _ _ _ => ⟨rfl, rfl, rfl⟩, fun hno => absurd h.2.1 (by rw [hno]; exact Bool.false_ne_true)⟩
    · rw [hkeep h]
      exact ⟨rfl, rfl, rfl, fun h8 hcheck hmode hlive hlimit => absurd ⟨h8, hcheck, hmode, hlive, hlimit⟩ h, fun _ => ⟨hst, rfl⟩⟩

end Sys2Proof.Machine
end

section
/-! PROOFS. What the operations of a table's claims leave of the tables in force and loaded (14 R327). -/
namespace Sys2Proof.Machine

/-- Of the scheduling only the states of tasks change. -/
def TasksOnly (s u : State) : Prop := ∃ gs ts tr, u.sched = { s.sched with graphs := gs, tileTasks := ts, training := tr }

namespace TasksOnly
variable {s u v : State} {t : Nat}

theorem refl : TasksOnly s s := ⟨_, _, _, rfl⟩
theorem of_sched (h : u.sched = s.sched) : TasksOnly s u := ⟨_, _, _, h⟩
theorem trans (h : TasksOnly s u) (h' : TasksOnly u v) : TasksOnly s v := by
  obtain ⟨_, _, _, h⟩ := h
  obtain ⟨_, _, _, h'⟩ := h'
  exact ⟨_, _, _, h'.trans (by rw [h])⟩

theorem zeroiseStart {d : Domain} {kill : Bool} : TasksOnly s (s.zeroiseStart t d kill) := by
  have hrevoked : ((upTo 24).foldl (fun s p => s.revokePolder t p) s).sched = s.sched :=
    ((Within.refl (s := s)).foldl (f := fun s p => s.revokePolder t p) (xs := upTo 24) fun _ _ => Within.refl.revokePolder).same .sched
      (by decide)
  unfold State.zeroiseStart
  dsimp only
  generalize (upTo 24).foldl _ s = u at hrevoked
  have hended : (u.endCredits t).sched = s.sched := (Within.refl.endCredits.same .sched (by decide)).trans hrevoked
  refine (of_sched hended).trans ⟨_, _, _, rfl⟩

theorem assignTile {d : Domain} : TasksOnly s (assignTile t d s) := by
  unfold Machine.assignTile
  dsimp only
  split
  · exact refl
  · split
    · exact zeroiseStart
    · exact zeroiseStart
    · exact of_sched (Within.refl.tileRefusal.same .sched (by decide))

theorem modTask {ref : TaskRef} {f : TaskSt → TaskSt} : TasksOnly s (s.modTask ref t f) := by
  unfold State.modTask
  split
  · exact refl
  · refine TasksOnly.trans ?_ (of_sched (Within.refl.writeStatus.same .sched (by decide)))
    split <;> exact ⟨_, _, _, rfl⟩

theorem unload : TasksOnly s (s.unload t) := by
  unfold State.unload
  dsimp only
  split
  · exact refl
  · generalize hv : State.modTile s t _ = v
    have hmoved : TasksOnly s v := hv ▸ ⟨_, _, _, rfl⟩
    split
    · exact (hmoved.trans modTask).trans ⟨_, _, _, rfl⟩
    · exact hmoved.trans modTask

theorem preemptTile : TasksOnly s (preemptTile t s) := by
  unfold Machine.preemptTile
  split
  · exact unload
  · exact ⟨_, _, _, rfl⟩
  · exact refl

end TasksOnly

/-- The table in force and the loaded one are as before. -/
structure KeepsTables (s u : State) : Prop where
  table : u.sched.table = s.sched.table
  next : u.sched.nextTable = s.sched.nextTable

namespace KeepsTables
variable {s u v : State} {t n : Nat}

theorem refl : KeepsTables s s := ⟨rfl, rfl⟩
theorem trans (h : KeepsTables s u) (h' : KeepsTables u v) : KeepsTables s v := ⟨h'.table.trans h.table, h'.next.trans h.next⟩
theorem of_sched (h : u.sched = s.sched) : KeepsTables s u := ⟨by rw [h], by rw [h]⟩

theorem of_tasks (h : TasksOnly s u) : KeepsTables s u := by
  obtain ⟨_, _, _, h⟩ := h
  exact ⟨by rw [h], by rw [h]⟩

theorem foldl {α : Type} {f : State → α → State} (hf : ∀ t x, KeepsTables t (f t x)) (xs : List α) : KeepsTables s (xs.foldl f s) := by
  induction xs generalizing s with
  | nil => exact refl
  | cons x xs ih => exact (hf s x).trans ih

theorem dropSems (l : List (Nat × Nat)) : KeepsTables s (s.dropSems l) := foldl (f := fun s e => s.setSem e.1 _) (fun _ _ => ⟨rfl, rfl⟩) l
theorem takeSems (l : List (Nat × Nat)) (c : SemClaim) : KeepsTables s (s.takeSems l c) := foldl (f := fun s e => s.setSem e.1 _) (fun _ _ => ⟨rfl, rfl⟩) l

theorem claimTile : KeepsTables s (claimTile n s t) := by
  unfold Machine.claimTile
  dsimp only
  split
  · refine KeepsTables.trans ?_ (of_tasks .preemptTile)
    exact ⟨rfl, rfl⟩
  · split <;> exact ⟨rfl, rfl⟩

theorem toRadio : KeepsTables s (toRadio n s t) := by
  unfold Machine.toRadio
  dsimp only
  split
  · exact of_tasks .assignTile
  · exact refl

theorem toInference : KeepsTables s (toInference n s t) := by
  unfold Machine.toInference
  dsimp only
  split
  · split
    · refine KeepsTables.trans ?_ (of_tasks .assignTile)
      exact ⟨rfl, rfl⟩
    · exact ⟨rfl, rfl⟩
  · exact refl

theorem standingSwitch {old : Option CycTable} {new : CycTable} : KeepsTables s (standingSwitch old new s) :=
  (foldl (fun _ _ => foldl (fun _ _ => toInference) _) _).trans (foldl (fun _ _ => foldl (fun _ _ => claimTile.trans toRadio) _) _)

end KeepsTables

/-! ## The boundary in parts -/

section
variable {s u : State} {n c m : Nat} {r : AdaptRec}

/-- A property that each part of a run over units keeps holds at its end. -/
theorem each_keeps {P : State → Prop} {f : Nat → State → State} (hs : P s) (hf : ∀ i t, P t → P (f i t)) (n : Nat) : P (s.each n f) := by
  unfold State.each
  induction upTo n generalizing s with
  | nil => exact hs
  | cons i l ih => exact ih (hf i s hs)

/-- A run over units: what one unit's part establishes the later ones keep, where the earlier ones kept what it needs. -/
theorem each_establishes {P Q : State → Prop} {f : Nat → State → State} (hc : c < n) (hs : P s) (hbefore : ∀ i t, i ≠ c → P t → P (f i t))
    (hat : ∀ t, P t → Q (f c t)) (hafter : ∀ i t, i ≠ c → Q t → Q (f i t)) : Q (s.each n f) := by
  have h : ∀ k, (k ≤ c → P (s.each k f)) ∧ (c < k → Q (s.each k f)) := by
    intro k
    induction k with
    | zero => exact ⟨fun _ => hs, fun h => absurd h (Nat.not_lt_zero c)⟩
    | succ k ih =>
      have hstep : s.each (k + 1) f = f k (s.each k f) := by
        unfold State.each upTo
        rw [List.range_succ, List.foldl_append]
        rfl
      rw [hstep]
      refine ⟨fun hk => hbefore k _ (Nat.ne_of_lt hk) (ih.1 (Nat.le_of_succ_le hk)), fun hk => ?_⟩
      rcases Nat.lt_succ_iff_lt_or_eq.1 hk with hlt | rfl
      · exact hafter k _ (Nat.ne_of_gt hlt) (ih.2 hlt)
      · exact hat _ (ih.1 (Nat.le_refl _))
  exact (h n).2 hc

/-- The boundary up to the cells' records, the channels', the sets' and the table; and what comes after. -/
def frameCells (s : State) : State := (bermBoundary (resumeBoundary s)).each 8 cellBoundary
def frameChans (s : State) : State := (frameCells s).each 4 chanBoundary
def frameSets (s : State) : State := (frameChans s).each 12 adaptApply
def frameCores (s : State) : State :=
  ((takeoverBoundary (takeoverCore s)).each 12 fun c s => s.setCsp c (cspReload (s.csp c))).each 12 coreBoundary
def frameModes (s : State) : State := replayBoundary (captureBoundary (crossStart (laneFrame (frameCores s))))
def frameClose (s : State) : State := (s.setSched { s.sched with frame := s.frameNow }).logRecord

theorem frameBoundary_eq (s : State) : frameBoundary s = frameClose (frameModes (tableSwitch (frameSets s))) := by
  unfold frameBoundary frameClose frameModes frameCores frameSets frameChans frameCells
  rfl

theorem frameCores_within (s : State) : Within [.host, .clusters, .csps] s (frameCores s) :=
  ((Within.refl.takeoverCore.takeoverBoundary.each (n := 12) (f := fun c s => s.setCsp c (cspReload (s.csp c))) fun _ _ =>
    Within.refl.setCsp).each (n := 12) (f := coreBoundary) fun _ _ => Within.refl.coreBoundary).mono

theorem frameModes_within (s : State) :
    Within [.host, .clusters, .csps, .events, .assured, .sec, .mem, .wcache, .capture, .time] s (frameModes s) :=
  ((frameCores_within s).laneFrame.crossStart.captureBoundary.replayBoundary).mono

theorem frameClose_within (s : State) : Within [.events, .host, .mem, .wcache, .free, .sched] s (frameClose s) :=
  Within.refl.setSched.logRecord.mono

/-- What follows the table leaves cells, channels and sets as they are. -/
theorem frameAfter_within (s : State) :
    Within [.host, .clusters, .csps, .events, .assured, .sec, .mem, .wcache, .capture, .time, .free, .sched] s (frameClose (frameModes s)) :=
  ((frameModes_within s).andThen (frameClose_within _)).mono

/-! ## Adaptation sets at a boundary -/

theorem adaptTo_aset_ne {code : Half} {st : AdaptState} {vs : Word × Word} (h : m ≠ n) : (s.adaptTo n code st vs).aset m = s.aset m := by
  unfold State.adaptTo
  dsimp only
  split
  · rfl
  · exact (aset_congr (Within.refl.record.tracePoint.same .adapt (by decide)) m).trans (State.setAset_aset_ne _ _ _ h)

theorem collectDone_aset_ne (h : m ≠ n) : (s.collectDone n).aset m = s.aset m := by
  unfold State.collectDone
  dsimp only
  split
  · exact (adaptTo_aset_ne h).trans (State.setAset_aset_ne _ _ _ h)
  · exact State.setAset_aset_ne _ _ _ h

theorem shapeOff_aset_ne (h : m ≠ n) : (s.shapeOff n).aset m = s.aset m :=
  (adaptTo_aset_ne h).trans (State.setAset_aset_ne _ _ _ h)

/-- A set that goes to OFF keeps its records, and has no candidate. -/
theorem shapeOff_spec (s : State) (n : Nat) :
    let a := (s.shapeOff n).aset n
    a.cfg = (s.aset n).cfg ∧ a.pendingCfg = (s.aset n).pendingCfg ∧ a.state = .off ∧ a.candidate = none := by
  obtain ⟨l, hl⟩ := dropCandidate_eq (emptyPool (s.aset n))
  obtain ⟨nt, tk, h⟩ := adaptTo_aset (s.setAset n (dropCandidate (emptyPool (s.aset n)))) n Code.adaptState .off (versionsOf (s.aset n))
  rw [State.setAset_aset] at h
  unfold State.shapeOff
  rw [h, hl]
  exact ⟨rfl, rfl, rfl, rfl⟩

theorem pinVersion_aset_ne {v : Word} {on : Bool} (h : m ≠ n) : (s.pinVersion n v on).aset m = s.aset m := State.setAset_aset_ne _ _ _ h

theorem pinVersion_eq {v : Word} {on : Bool} : ∃ l, (s.pinVersion n v on).aset n = { s.aset n with store := l } :=
  ⟨_, State.setAset_aset ..⟩

theorem adaptApply_none (h : (s.aset n).pendingCfg = none) : adaptApply n s = s := by
  unfold adaptApply
  dsimp only
  rw [h]

/-- The set with a record that is applied: its pool emptied where the region moved, a guard window begun. -/
def withRecord (s : State) (n : Nat) (r : AdaptRec) : AdaptSet :=
  let a := s.aset n
  let moved := match a.cfg with
    | some o => o.regionBase != r.regionBase || o.poolRecords != r.poolRecords
    | none => false
  let c := s.cell n
  let a1 := { (if moved then emptyPool a else a) with
    cfg := some r, pendingCfg := none, guardStart := s.slotNow n, lossStart := c.guardLoss, gainStart := c.guardGain }
  if a.cfg.isNone ∨ a.state = .off then { a1 with nextGen := r.genBase.toNat } else a1

/-- The state in which a record's set then starts, collects or goes to OFF. -/
def recordTaken (n : Nat) (r : AdaptRec) (s : State) : State :=
  let s1 := (s.setAset n (withRecord s n r)).writeStore n
  if r.pinActive then (match (s.aset n).active with | some v => s1.pinVersion n v true | none => s1) else s1

theorem adaptApply_some (hr : (s.aset n).pendingCfg = some r) :
    adaptApply n s =
      (let s2 := recordTaken n r s
       if !r.enable then s2.shapeOff n
       else if (s.aset n).state = .off ∧ (s.aset n).active.isSome then (s2.adaptMove n .collect).collectDone n
       else s2.collectDone n) := by
  unfold adaptApply
  extract_lets a
  split
  · next h =>
    rw [show a.pendingCfg = _ from hr] at h
    cases h
  · next h =>
    rw [show a.pendingCfg = _ from hr] at h
    cases h
    rfl

theorem withRecord_spec : (withRecord s n r).cfg = some r ∧ (withRecord s n r).pendingCfg = none := by
  unfold withRecord
  extract_lets a moved c
  split <;> exact ⟨rfl, rfl⟩

theorem recordTaken_spec :
    ((recordTaken n r s).aset n).cfg = some r ∧ ((recordTaken n r s).aset n).pendingCfg = none ∧
    (m ≠ n → (recordTaken n r s).aset m = s.aset m) := by
  unfold recordTaken
  extract_lets s1
  have hs1 : s1.aset n = withRecord s n r := (writeStore_aset _ _ _).trans (State.setAset_aset ..)
  have hne : m ≠ n → s1.aset m = s.aset m := fun h => (writeStore_aset _ _ _).trans (State.setAset_aset_ne _ _ _ h)
  obtain ⟨hcfg, hpend⟩ := withRecord_spec (s := s) (n := n) (r := r)
  rw [← hs1] at hcfg hpend
  split
  · split
    · next v hv =>
      obtain ⟨l, hl⟩ := pinVersion_eq (s := s1) (n := n) (v := v) (on := true)
      rw [hl]
      exact ⟨hcfg, hpend, fun h => (pinVersion_aset_ne h).trans (hne h)⟩
    · exact ⟨hcfg, hpend, hne⟩
  · exact ⟨hcfg, hpend, hne⟩

/-- Applying a record touches its own set alone. -/
theorem adaptApply_aset_ne (h : m ≠ n) : (adaptApply n s).aset m = s.aset m := by
  cases hr : (s.aset n).pendingCfg with
  | none => rw [adaptApply_none hr]
  | some r =>
    have h2 := (recordTaken_spec (s := s) (n := n) (m := m) (r := r)).2.2 h
    rw [adaptApply_some hr]
    extract_lets s2
    split
    · exact (shapeOff_aset_ne h).trans h2
    · split
      · exact (collectDone_aset_ne h).trans ((adaptTo_aset_ne h).trans h2)
      · exact (collectDone_aset_ne h).trans h2

/-- A waiting record is applied. -/
theorem adaptApply_spec (hr : (s.aset n).pendingCfg = some r) :
    ((adaptApply n s).aset n).cfg = some r ∧ ((adaptApply n s).aset n).pendingCfg = none := by
  obtain ⟨hcfg, hpend, -⟩ := recordTaken_spec (s := s) (n := n) (m := n) (r := r)
  rw [adaptApply_some hr]
  extract_lets s2
  split
  · obtain ⟨hcfg', hpend', -, -⟩ := shapeOff_spec s2 n
    exact ⟨hcfg'.trans hcfg, hpend'.trans hpend⟩
  · split
    · obtain ⟨st, nt, tk, hdone⟩ := collectDone_aset (s2.adaptMove n .collect) n
      obtain ⟨nt', tk', hmove⟩ := adaptMove_aset s2 n .collect
      rw [hdone, hmove]
      exact ⟨hcfg, hpend⟩
    · obtain ⟨st, nt, tk, hdone⟩ := collectDone_aset s2 n
      rw [hdone]
      exact ⟨hcfg, hpend⟩

end

end Sys2Proof.Machine
end

section
/-! PROOFS. What a frame boundary applies (02 R28, 05 R141, R142, 14 R327). -/
namespace Sys2Proof.Machine

theorem exec_frameBoundary (s : State) : exec .frameBoundary s = .next (frameBoundary s) := rfl

section
variable {s u : State} {n c m : Nat}

/-! ## Cells -/

theorem logWrite_bermPending (s : State) (r : LogRing) (level v : Nat) : (s.logWrite r level v).host.bermPending = s.host.bermPending := by
  unfold State.logWrite
  dsimp only
  rw [show (State.extWrite (State.setHost _ _) _ _).host = _ from Within.refl.extWrite.same .host (by decide), State.setHost_host]
  dsimp only
  rw [show (State.extWrite _ _ _).host = _ from Within.refl.extWrite.same .host (by decide)]

theorem tracePoint_bermPending (s : State) (lo hi : Nat) : (s.tracePoint lo hi).host.bermPending = s.host.bermPending := by
  unfold State.tracePoint
  split
  · dsimp only
    split
    · exact logWrite_bermPending s.draw.2 _ _ _
    · rfl
  · rfl

theorem shapeOff_bermPending (s : State) (n : Nat) : (s.shapeOff n).host.bermPending = s.host.bermPending := by
  unfold State.shapeOff State.adaptTo
  dsimp only
  split
  · rfl
  · rw [tracePoint_bermPending, show (State.record _ _ _ _).host = _ from Within.refl.record.same .host (by decide)]
    rfl

/-- New records of a cell: its own fields, and nothing of another cell. -/
theorem cellApply_spec (s : State) (n : Nat) (x : UlCell) (d : DlCell) :
    (s.cellApply n x d).radio = (s.setCell n { s.cell n with ul := some x, dl := some d, pending := none }).radio ∧
    (s.cellApply n x d).host.bermPending = s.host.bermPending := by
  have hpower : (s.setCell n { s.cell n with ul := some x, dl := some d, pending := none }).radioPower.host = s.host :=
    Within.refl.setCell.radioPower.same .host (by decide)
  unfold State.cellApply
  dsimp only
  split
  · split
    · exact ⟨Within.refl.radioPower.shapeOff.same .radio (by decide), (shapeOff_bermPending ..).trans (congrArg _ hpower)⟩
    · exact ⟨Within.refl.radioPower.same .radio (by decide), congrArg _ hpower⟩
  · exact ⟨Within.refl.radioPower.same .radio (by decide), congrArg _ hpower⟩

theorem cellBoundary_some {x : UlCell} {d : DlCell} (hb : s.host.bermPending = false) (hp : (s.cell n).pending = some (x, d)) :
    cellBoundary n s = s.cellApply n x d := by
  unfold cellBoundary
  rw [hp]
  exact if_neg (by rw [hb]; exact Bool.false_ne_true)

theorem cellBoundary_spec (s : State) (n : Nat) :
    (m ≠ n → (cellBoundary n s).cell m = s.cell m) ∧ (cellBoundary n s).radio.paused = s.radio.paused ∧
    (cellBoundary n s).host.bermPending = s.host.bermPending := by
  unfold cellBoundary
  split
  · next x d _ =>
    split
    · exact ⟨fun _ => rfl, rfl, rfl⟩
    · obtain ⟨hradio, hberm⟩ := cellApply_spec s n x d
      exact ⟨fun h => (cell_congr hradio m).trans (State.setCell_cell_ne _ _ _ h), (congrArg Radio.paused hradio).trans rfl, hberm⟩
  · exact ⟨fun _ => rfl, rfl, rfl⟩

theorem bermBoundary_bermPending (h : s.host.bermPending = false) : (bermBoundary s).host.bermPending = false := by
  unfold bermBoundary
  split
  · rfl
  · exact h

/-- The cells' records that waited are in force once their part of the boundary is over. -/
theorem frameCells_cell {x : UlCell} {d : DlCell} (hc : c < 8) (hb : s.host.bermPending = false) (hp : (s.cell c).pending = some (x, d)) :
    let y := (frameCells s).cell c
    y.ul = some x ∧ y.dl = some d ∧ y.pending = none := by
  unfold frameCells
  refine each_establishes (P := fun t => t.host.bermPending = false ∧ (t.cell c).pending = some (x, d))
    (Q := fun t => (t.cell c).ul = some x ∧ (t.cell c).dl = some d ∧ (t.cell c).pending = none) hc ?_ ?_ ?_ ?_
  · have hradio : (bermBoundary (resumeBoundary s)).radio = (resumeBoundary s).radio := Within.refl.bermBoundary.same .radio (by decide)
    exact ⟨bermBoundary_bermPending hb, (congrArg CellSt.pending (cell_congr hradio c)).trans hp⟩
  · intro i t hi ⟨hberm, hpend⟩
    obtain ⟨hcell, -, hkeep⟩ := cellBoundary_spec (m := c) t i
    exact ⟨hkeep.trans hberm, by rw [hcell hi.symm]; exact hpend⟩
  · intro t ⟨hberm, hpend⟩
    rw [cellBoundary_some hberm hpend, cell_congr (cellApply_spec t c x d).1, State.setCell_cell]
    exact ⟨rfl, rfl, rfl⟩
  · intro i t hi h
    rw [(cellBoundary_spec (m := c) t i).1 hi.symm]
    exact h

theorem frameCells_paused (s : State) : (frameCells s).radio.paused = false := by
  unfold frameCells
  refine each_keeps (P := fun t => t.radio.paused = false) ?_ (fun i t h => (cellBoundary_spec (m := 0) t i).2.1.trans h) 8
  exact congrArg Radio.paused (Within.refl.bermBoundary.same .radio (by decide) : (bermBoundary (resumeBoundary s)).radio = _)

theorem frameChans_within (s : State) :
    Within [.events, .host, .sweep, .adapt, .mem, .wcache, .free] (frameCells s) (frameChans s) :=
  (Within.refl.each (n := 4) (f := chanBoundary) fun _ _ => Within.refl.chanBoundary).mono

theorem frameSets_within (s : State) : Within [.events, .host, .adapt, .mem, .wcache, .free] (frameChans s) (frameSets s) :=
  (Within.refl.each (n := 12) (f := adaptApply) fun _ _ => Within.refl.adaptApply).mono

/-- The boundary after the cells leaves the radio block as it is. -/
theorem frameBoundary_radio (s : State) : (frameBoundary s).radio = (frameCells s).radio := by
  rw [frameBoundary_eq]
  exact ((((frameChans_within s).andThen (frameSets_within s)).tableSwitch).andThen (frameAfter_within _)).same .radio (by decide)

/-! ## Adaptation sets -/

/-- A set's records are as before, or its waiting one. -/
theorem shapeOff_pendingCfg (s : State) (n m : Nat) : ((s.shapeOff n).aset m).pendingCfg = (s.aset m).pendingCfg := by
  by_cases h : m = n
  · rw [h]
    exact (shapeOff_spec s n).2.1
  · rw [shapeOff_aset_ne h]

theorem cellBoundary_pendingCfg (s : State) (n m : Nat) : ((cellBoundary n s).aset m).pendingCfg = (s.aset m).pendingCfg := by
  unfold cellBoundary
  split
  · split
    · rfl
    · unfold State.cellApply
      dsimp only
      have hset : ∀ x, ((s.setCell n x).radioPower).aset m = s.aset m := fun x =>
        aset_congr (Within.refl.setCell.radioPower.same .adapt (by decide)) m
      split
      · split
        · rw [shapeOff_pendingCfg, hset]
        · rw [hset]
      · rw [hset]
  · rfl

theorem chanBoundary_pendingCfg (s : State) (n m : Nat) : ((chanBoundary n s).aset m).pendingCfg = (s.aset m).pendingCfg := by
  unfold chanBoundary
  dsimp only
  split
  · exact shapeOff_pendingCfg ..
  · rfl

theorem frameCells_pendingCfg (s : State) (m : Nat) : ((frameCells s).aset m).pendingCfg = (s.aset m).pendingCfg := by
  unfold frameCells
  refine each_keeps (P := fun t => (t.aset m).pendingCfg = (s.aset m).pendingCfg) ?_ (fun i t h => (cellBoundary_pendingCfg t i m).trans h) 8
  exact congrArg AdaptSet.pendingCfg (aset_congr (Within.refl.resumeBoundary.bermBoundary.same .adapt (by decide)) m)

theorem frameChans_pendingCfg (s : State) (m : Nat) : ((frameChans s).aset m).pendingCfg = (s.aset m).pendingCfg :=
  each_keeps (P := fun t => (t.aset m).pendingCfg = (s.aset m).pendingCfg) (frameCells_pendingCfg s m)
    (fun i t h => (chanBoundary_pendingCfg t i m).trans h) 4

/-- A set's waiting record is in force once the sets' part is over. -/
theorem frameSets_applied {r : AdaptRec} (hm : m < 12) (hr : (s.aset m).pendingCfg = some r) :
    ((frameSets s).aset m).cfg = some r ∧ ((frameSets s).aset m).pendingCfg = none :=
  each_establishes (P := fun t => (t.aset m).pendingCfg = some r) (Q := fun t => (t.aset m).cfg = some r ∧ (t.aset m).pendingCfg = none) hm
    ((frameChans_pendingCfg s m).trans hr) (fun i t hi h => by rw [adaptApply_aset_ne hi.symm]; exact h) (fun t h => adaptApply_spec h)
    (fun i t hi h => by rw [adaptApply_aset_ne hi.symm]; exact h)

/-- The switch of tables leaves a set's records and candidate, and a set in OFF stays there. -/
theorem collectDone_keeps (s : State) (n m : Nat) :
    ((s.collectDone n).aset m).cfg = (s.aset m).cfg ∧ ((s.collectDone n).aset m).pendingCfg = (s.aset m).pendingCfg ∧
    ((s.aset m).state = .off → ((s.collectDone n).aset m).state = .off) ∧ ((s.collectDone n).aset m).candidate = (s.aset m).candidate := by
  by_cases h : m = n
  · subst h
    obtain ⟨st, nt, tk, hdone⟩ := collectDone_aset s m
    refine ⟨by rw [hdone], by rw [hdone], fun hoff => ?_, by rw [hdone]⟩
    unfold State.collectDone
    dsimp only
    rw [if_neg fun h' => by rw [hoff] at h'; exact absurd h'.1 (by decide), State.setAset_aset]
    exact hoff
  · rw [collectDone_aset_ne h]
    exact ⟨rfl, rfl, fun h => h, rfl⟩

/-- What the sets keep when the table switches. -/
structure KeepsSet (m : Nat) (s u : State) : Prop where
  cfg : (u.aset m).cfg = (s.aset m).cfg
  pendingCfg : (u.aset m).pendingCfg = (s.aset m).pendingCfg
  off : (s.aset m).state = .off → (u.aset m).state = .off
  candidate : (u.aset m).candidate = (s.aset m).candidate

theorem tableSwitch_keepsSet (s : State) (m : Nat) : KeepsSet m s (tableSwitch s) := by
  have hrefl : KeepsSet m s s := ⟨rfl, rfl, fun h => h, rfl⟩
  unfold tableSwitch
  split
  · exact hrefl
  · next tb _ =>
    split
    · exact hrefl
    · extract_lets old src s1 s2 s3
      have hadapt : (standingSwitch old tb s3).adapt = s.adapt :=
        (((Within.refl (s := s)).setSched.dropSems.takeSems.foldl fun t x => Within.refl.foldl fun t x => Within.refl.toInference).standingSwitch).same
          .adapt (by decide)
      have hstart : KeepsSet m s (standingSwitch old tb s3) := by
        have hset := aset_congr hadapt m
        exact ⟨by rw [hset], by rw [hset], fun h => by rw [hset]; exact h, by rw [hset]⟩
      refine each_keeps (P := fun t => KeepsSet m s t) hstart (fun i t h => ?_) 12
      obtain ⟨hcfg, hpend, hoff, hcand⟩ := collectDone_keeps t i m
      exact ⟨hcfg.trans h.cfg, hpend.trans h.pendingCfg, fun h' => hoff (h.off h'), hcand.trans h.candidate⟩

theorem frameAfter_aset (s : State) (m : Nat) : (frameClose (frameModes s)).aset m = s.aset m :=
  aset_congr ((frameAfter_within s).same .adapt (by decide)) m

/-! ## Sweep channels -/

theorem chanBoundary_chan_ne (h : m ≠ n) : (chanBoundary n s).chan m = s.chan m := by
  unfold chanBoundary
  dsimp only
  split
  · exact (chan_congr (Within.refl.shapeOff.same .sweep (by decide)) m).trans (State.setChan_chan_ne _ _ _ h)
  · rfl

theorem chanBoundary_aset_ne (h : m ≠ 8 + n) : (chanBoundary n s).aset m = s.aset m := by
  unfold chanBoundary
  dsimp only
  split
  · exact shapeOff_aset_ne h
  · rfl

/-- A waiting record of a channel takes effect, and its set goes to OFF. -/
theorem chanBoundary_some {r : SweepRec} (hr : (s.chan n).pending = some r) :
    ((chanBoundary n s).chan n).cfg = some r ∧ ((chanBoundary n s).chan n).pending = none ∧
    ((chanBoundary n s).aset (8 + n)).state = .off ∧ ((chanBoundary n s).aset (8 + n)).candidate = none := by
  unfold chanBoundary
  dsimp only
  rw [hr]
  dsimp only
  generalize hv : s.setChan n _ = v
  obtain ⟨-, -, hoff, hcand⟩ := shapeOff_spec v (8 + n)
  rw [chan_congr (Within.refl.shapeOff.same .sweep (by decide)), ← hv, State.setChan_chan]
  exact ⟨rfl, rfl, hv ▸ hoff, hv ▸ hcand⟩

theorem frameChans_chan {r : SweepRec} (hc : c < 4) (hr : (s.chan c).pending = some r) :
    ((frameChans s).chan c).cfg = some r ∧ ((frameChans s).chan c).pending = none ∧
    ((frameChans s).aset (8 + c)).state = .off ∧ ((frameChans s).aset (8 + c)).candidate = none := by
  refine each_establishes (f := chanBoundary) (P := fun t => (t.chan c).pending = some r)
    (Q := fun t => (t.chan c).cfg = some r ∧ (t.chan c).pending = none ∧ (t.aset (8 + c)).state = .off ∧ (t.aset (8 + c)).candidate = none)
    hc ?_ ?_ ?_ ?_
  · have hsweep : (frameCells s).sweep = s.sweep :=
      (Within.refl.resumeBoundary.bermBoundary.each (n := 8) (f := cellBoundary) fun _ _ => Within.refl.cellBoundary).same .sweep (by decide)
    exact (congrArg ChanSt.pending (chan_congr hsweep c)).trans hr
  · intro i t hi h
    rw [chanBoundary_chan_ne hi.symm]
    exact h
  · exact fun t h => chanBoundary_some h
  · intro i t hi h
    rw [chanBoundary_chan_ne hi.symm, chanBoundary_aset_ne (by omega)]
    exact h

/-- The sets' part leaves a set that has no waiting record. -/
theorem frameSets_none (h : ((frameChans s).aset m).pendingCfg = none) : (frameSets s).aset m = (frameChans s).aset m := by
  refine each_keeps (f := adaptApply) (P := fun t => t.aset m = (frameChans s).aset m) rfl (fun i t ht => ?_) 12
  by_cases hi : m = i
  · rw [adaptApply_none (by rw [← hi, ht]; exact h)]
    exact ht
  · rw [adaptApply_aset_ne hi]
    exact ht

/-! ## Tables -/

/-- The boundary before the table leaves tiles and scheduling as they were. -/
theorem frameSets_before (s : State) :
    Within [.events, .host, .radio, .adapt, .mem, .wcache, .power, .free, .sweep] s (frameSets s) :=
  (((Within.refl.resumeBoundary.bermBoundary.each (n := 8) (f := cellBoundary) fun _ _ => Within.refl.cellBoundary).andThen
    (frameChans_within s)).andThen (frameSets_within s)).mono

theorem frameAfter_tables (s : State) : KeepsTables s (frameClose (frameModes s)) := by
  have hmodes : KeepsTables s (frameModes s) := .of_sched ((frameModes_within s).same .sched (by decide))
  refine hmodes.trans ?_
  generalize frameModes s = u
  unfold frameClose
  refine KeepsTables.trans ?_ (.of_sched (Within.refl.logRecord.same .sched (by decide)))
  exact ⟨rfl, rfl⟩

theorem tableSwitch_assured {tb : CycTable} (ht : s.sched.nextTable = some tb) (ha : s.assuredOn tb = true) : tableSwitch s = s := by
  unfold tableSwitch
  rw [ht]
  exact if_pos ha

theorem tableSwitch_loaded {tb : CycTable} (ht : s.sched.nextTable = some tb) (ha : s.assuredOn tb = false) :
    (tableSwitch s).sched.table = some tb ∧ (tableSwitch s).sched.nextTable = none := by
  unfold tableSwitch
  split
  · next h =>
    rw [ht] at h
    cases h
  · next h =>
    rw [ht] at h
    cases h
    rw [if_neg (by rw [ha]; exact Bool.false_ne_true)]
    extract_lets old src s1 s2 s3
    have hs1 : s1.sched.table = some tb ∧ s1.sched.nextTable = none := ⟨rfl, rfl⟩
    have hkeep : KeepsTables s1 ((upTo 12).foldl (fun s n => s.collectDone n) (standingSwitch old tb s3)) := by
      refine KeepsTables.trans ?_ (KeepsTables.foldl (fun t n => .of_sched (Within.refl.collectDone.same .sched (by decide))) _)
      refine KeepsTables.trans ?_ KeepsTables.standingSwitch
      exact ((KeepsTables.dropSems _).trans (KeepsTables.takeSems _ _)).trans
        (KeepsTables.foldl (fun t n => KeepsTables.foldl (fun t x => KeepsTables.toInference) _) _)
    exact ⟨hkeep.table.trans hs1.1, hkeep.next.trans hs1.2⟩

theorem assuredOn_congr (h : u.tiles = s.tiles) (tb : CycTable) : u.assuredOn tb = s.assuredOn tb := by rw [State.assuredOn, h]; rfl

/-! ## Device time -/

theorem ringPut_replay (d : Nat) (e : CapEntry) : (s.ringPut d e).capture.replay = s.capture.replay := by
  have hext : ∀ a bs, (s.extWrite a bs).capture = s.capture := fun a bs => Within.refl.extWrite.same .capture (by decide)
  unfold State.ringPut
  dsimp only
  rw [State.setCapture_capture]
  dsimp only
  rw [hext]

theorem capturePut_replay (l : List CapEntry) : ∀ s : State, (State.capturePut l s).1.capture.replay = s.capture.replay := by
  induction l with
  | nil => exact fun s => rfl
  | cons e l ih =>
    intro s
    unfold State.capturePut
    split
    · exact (ih _).trans (ringPut_replay _ _)
    · rfl

theorem captureEnd_replay (s : State) : s.captureEnd.capture.replay = s.capture.replay := by
  unfold State.captureEnd State.captureFlush
  dsimp only
  rw [State.setCapture_capture]
  dsimp only
  rw [ringPut_replay, State.setCapture_capture]
  exact capturePut_replay _ _

theorem captureBegin_replay (s : State) : s.captureBegin.capture.replay = s.capture.replay := by
  unfold State.captureBegin
  dsimp only
  rw [ringPut_replay]
  rfl

theorem captureBoundary_replay (s : State) : (captureBoundary s).capture.replay = s.capture.replay := by
  unfold captureBoundary
  extract_lets s1
  have hs1 : s1.capture.replay = s.capture.replay := by
    show (State.capture (if _ then _ else _)).replay = _
    split
    · exact captureEnd_replay s
    · rfl
  split
  · split
    · exact (captureBegin_replay s1).trans hs1
    · exact hs1
  · exact hs1

theorem replayBoundary_running (h : ∀ r, s.capture.replay = some r → r.started = true) : replayBoundary s = s := by
  unfold replayBoundary
  split
  · rfl
  · next r hr => exact if_pos (h r hr)

theorem frameNow_congr (h : u.time = s.time) : u.frameNow = s.frameNow := by rw [State.frameNow, State.nowNs, h]; rfl

/-- Where no replay begins, device time stands, and the frame that begins is noted. -/
theorem frameBoundary_time (h : ∀ r, s.capture.replay = some r → r.started = true) :
    (frameBoundary s).time = s.time ∧ (frameBoundary s).sched.frame = s.frameNow := by
  rw [frameBoundary_eq]
  generalize hb : tableSwitch (frameSets s) = b
  have hwithin := (frameSets_before s).tableSwitch
  rw [hb] at hwithin
  have hlane := ((frameCores_within b).laneFrame).crossStart
  have hcapture : (crossStart (laneFrame (frameCores b))).capture = s.capture :=
    (hlane.same .capture (by decide)).trans (hwithin.same .capture (by decide))
  have hmodes : frameModes b = captureBoundary (crossStart (laneFrame (frameCores b))) := by
    refine replayBoundary_running ?_
    rw [captureBoundary_replay, hcapture]
    exact h
  have htime : (frameModes b).time = s.time := by
    rw [hmodes]
    exact (hlane.captureBoundary.same .time (by decide)).trans (hwithin.same .time (by decide))
  refine ⟨((frameClose_within _).same .time (by decide)).trans htime, ?_⟩
  unfold frameClose
  have hlog : ∀ t : State, t.logRecord.sched = t.sched := fun t => Within.refl.logRecord.same .sched (by decide)
  rw [hlog, State.setSched_sched]
  exact frameNow_congr htime

end

/-- Settles O35: each part of the boundary is a run over units in which one unit's step establishes what the others keep (`each_establishes`). -/
theorem frameBoundaries : Obligations.FrameBoundaries := by
  refine ⟨fun s c x d hb hp => ?_, fun s h => ?_, fun s a r hr => ?_, fun s c r hr => ?_, fun s tb ht ha => ?_, fun s tb ht ha => ?_⟩
  · refine gives_of_exec (exec_frameBoundary s) ?_
    rw [cell_congr (frameBoundary_radio s)]
    exact frameCells_cell c.isLt hb hp
  · obtain ⟨htime, hframe⟩ := frameBoundary_time h
    exact gives_of_exec (exec_frameBoundary s)
      ⟨(congrArg Radio.paused (frameBoundary_radio s)).trans (frameCells_paused s), congrArg TimeUnit.now htime, hframe⟩
  · obtain ⟨hcfg, hpend⟩ := frameSets_applied a.isLt hr
    have hkeep := tableSwitch_keepsSet (frameSets s) a.val
    refine gives_of_exec (exec_frameBoundary s) ?_
    rw [frameBoundary_eq, frameAfter_aset]
    exact ⟨hkeep.cfg.trans hcfg, hkeep.pendingCfg.trans hpend⟩
  · obtain ⟨hcfg, hpend, hoff, hcand⟩ := frameChans_chan c.isLt hr
    have hsweep : (frameClose (frameModes (tableSwitch (frameSets s)))).sweep = (frameChans s).sweep :=
      ((frameSets_within s).tableSwitch.andThen (frameAfter_within _)).same .sweep (by decide)
    refine gives_of_exec (exec_frameBoundary s) ?_
    rw [frameBoundary_eq]
    refine ⟨?_, ?_, fun hnone => ?_⟩
    · rw [chan_congr hsweep]
      exact hcfg
    · rw [chan_congr hsweep]
      exact hpend
    · have hset := frameSets_none ((frameChans_pendingCfg s (8 + c.val)).trans hnone)
      have hkeep := tableSwitch_keepsSet (frameSets s) (8 + c.val)
      rw [frameAfter_aset]
      exact ⟨hkeep.off (by rw [hset]; exact hoff), hkeep.candidate.trans (by rw [hset]; exact hcand)⟩
  · have hbefore := frameSets_before s
    have hsched := hbefore.same .sched (by decide)
    obtain ⟨htable, hnext⟩ := tableSwitch_loaded (s := frameSets s) ((congrArg Sched.nextTable hsched).trans ht)
      ((assuredOn_congr (hbefore.same .tiles (by decide)) tb).trans ha)
    have hafter := frameAfter_tables (tableSwitch (frameSets s))
    refine gives_of_exec (exec_frameBoundary s) ?_
    rw [frameBoundary_eq]
    exact ⟨hafter.table.trans htable, hafter.next.trans hnext⟩
  · have hbefore := frameSets_before s
    have hsched := hbefore.same .sched (by decide)
    have hsame := tableSwitch_assured (s := frameSets s) ((congrArg Sched.nextTable hsched).trans ht)
      ((assuredOn_congr (hbefore.same .tiles (by decide)) tb).trans ha)
    have hafter := frameAfter_tables (tableSwitch (frameSets s))
    rw [hsame] at hafter
    refine gives_of_exec (exec_frameBoundary s) ?_
    rw [frameBoundary_eq, hsame]
    exact ⟨hafter.table.trans (congrArg Sched.table hsched), (hafter.next.trans (congrArg Sched.nextTable hsched)).trans ht⟩

end Sys2Proof.Machine
end

section
/-! PROOFS. Requests on graphs and the cycle table: SUBMIT, KILL, JOB_STATUS, CYC_LOAD (14 R311–R316, R325, R334, 19 R423). -/
namespace Sys2Proof.Machine

theorem exec_submit (h : QcpHdr) (b : SubmitBody) (s : State) :
    exec (.submit h b) s = .next (serve s h { role := .operate, legal := [.running] } (submitBody h b)) := rfl
theorem exec_kill (h : QcpHdr) (job : Word) (s : State) :
    exec (.kill h job) s = .next (serve s h { role := .operate, legal := [.running] } (killBody job)) := rfl
theorem exec_jobStatus (h : QcpHdr) (job : Word) (s : State) :
    exec (.jobStatus h job) s = .next (serve s h { role := .read, legal := [.running], reads := true } (statusBody job)) := rfl
theorem exec_cycLoad (h : QcpHdr) (addr : Dword) (s : State) :
    exec (.cycLoad h addr) s = .next (serve s h { role := .operate, legal := [.started, .running] } (cycLoadBody addr)) := rfl

section
variable {s : State} {job : Word} {g : Graph}

/-! ## Admission -/

/-- The parts of an admission, in their order. -/
def admitStep (a : Admission) (s : State) : State × List Nat :=
  match a.batch with
  | some r => s.takeJob.2.applyStep r
  | none => (s.takeJob.2, [])

def admitSems (a : Admission) (job : Word) (s : State) : State :=
  a.sems.foldl (fun s e => s.setSem e.1 { (s.sem e.1) with count := e.2, claim := some (.job job) }) s

def admitPages (a : Admission) (s : State) : State :=
  (upTo 12).foldl (fun s c => s.setCluster c { (s.cluster c) with spillReserved := (s.cluster c).spillReserved + a.hdr.spillPages }) s

/-- The twin regions of an assured graph. -/
def admitRooms (a : Admission) (s : State) : Option (Nat × Nat) :=
  if a.hdr.cls = 2 then s.twinRooms (spanOf a.tasks a.tensors).2 else none

def admitTwins (a : Admission) (job : Word) (rooms : Option (Nat × Nat)) (s : State) : State :=
  match rooms with
  | some (t1, t2) => s.setAssured { s.assured with
      twins := s.assured.twins ++ [(job, t1, (spanOf a.tasks a.tensors).2), (job, t2, (spanOf a.tasks a.tensors).2)] }
  | none => s

def admitSlot (b : SubmitBody) (job : Word) (s : State) : State :=
  if b.modelSlot.toNat < 64 then s.setSec { s.sec with
    slots := s.sec.slots.set none b.modelSlot.toNat ((s.sec.slots.get none b.modelSlot.toNat).map fun k => { k with job := some job }) } else s

/-- What admission takes before the graph enters the table. -/
def admitTakes (b : SubmitBody) (a : Admission) (s : State) : State :=
  admitSlot b s.sched.nextJob (admitTwins a s.sched.nextJob (admitRooms a s) (admitPages a (admitSems a s.sched.nextJob (admitStep a s).1)))

/-- The graph that enters the table. -/
def admitted (h : QcpHdr) (b : SubmitBody) (a : Admission) (s : State) : Graph :=
  { job := s.sched.nextJob, arrayJob := b.arrayJob, session := h.session.toNat, header := b.graph.toNat, hdr := a.hdr, seed := b.seed
    modelSlot := if b.modelSlot.toNat < 64 then some (Fin.ofNat 64 b.modelSlot.toNat) else none, ports := b.portAddr.map (·.toNat)
    dumpAddr := b.dumpAddr.toNat, tensors := a.tensors, sems := a.sems
    copies := if a.hdr.cls = 2 then [newCopy s.clock.cycle a.tasks, newCopy s.clock.cycle a.tasks] else [newCopy s.clock.cycle a.tasks]
    batch := a.batch.map (·.kvBase), refused := (admitStep a s).2
    submitNs := s.nowNs, late := false, outcome := none, faultTask := 0, faultCode := 0, verdict := none, degraded := false
    deciding := false, disagreeNs := 0
    patches := match admitRooms a s with | some (t1, t2) => [spanOf a.tasks a.tensors, (t1, 0), (t2, 0)] | none => [] }

theorem admitGraph_eq (h : QcpHdr) (b : SubmitBody) (a : Admission) (s : State) :
    s.admitGraph h b a = ((((admitTakes b a s).setSched { (admitTakes b a s).sched with
      graphs := (admitTakes b a s).sched.graphs ++ [admitted h b a s] }).abortSegments), s.sched.nextJob) := rfl

/-- A job number is taken, and the next one is never 0. -/
theorem takeJob_spec (s : State) :
    s.takeJob.2.sched.nextJob ≠ 0 ∧ s.takeJob.2.sched.graphs = s.sched.graphs ∧ s.takeJob.2.assured = s.assured := by
  refine ⟨?_, rfl, rfl⟩
  show (if s.sched.nextJob = 0xFFFFFFFF then 1 else s.sched.nextJob + 1) ≠ (0 : Word)
  split
  · decide
  · next h =>
    intro h'
    exact h (by bv_omega)

theorem applyStep_sched (s : State) (r : BatchRec) : ∃ l, (s.applyStep r).1.sched = { s.sched with batches := l } :=
  ⟨_, ((Within.refl (s := s.setSched _)).foldl (f := fun s m => s.seqEntry r m) fun _ _ => Within.refl.seqEntry).same .sched (by decide)⟩

/-- The batch step of an admission leaves job numbers, graphs and the lane. -/
theorem admitStep_spec (a : Admission) (s : State) :
    (admitStep a s).1.sched.nextJob ≠ 0 ∧ (admitStep a s).1.sched.graphs = s.sched.graphs ∧ (admitStep a s).1.assured = s.assured := by
  obtain ⟨hjob, hgraphs, hlane⟩ := takeJob_spec s
  unfold admitStep
  split
  · next r _ =>
    obtain ⟨l, hl⟩ := applyStep_sched s.takeJob.2 r
    rw [hl]
    exact ⟨hjob, hgraphs, (Within.refl.applyStep.same .assured (by decide)).trans hlane⟩
  · exact ⟨hjob, hgraphs, hlane⟩

/-- Setting semaphores leaves the rest of the scheduler. -/
theorem foldl_setSem_sched (f : State → Nat × Nat → Sem) (l : List (Nat × Nat)) :
    ∃ t, (l.foldl (fun s e => s.setSem e.1 (f s e)) s).sched = { s.sched with sems := t } := by
  induction l generalizing s with
  | nil => exact ⟨_, rfl⟩
  | cons e l ih =>
    obtain ⟨t, ht⟩ := ih (s := s.setSem e.1 (f s e))
    exact ⟨t, ht⟩

/-- What every one of a run of settings establishes of its semaphore holds of a semaphore that one of them sets. -/
theorem foldl_setSem_of {P : Sem → Prop} {f : State → Nat × Nat → Sem} (hf : ∀ s e, P (f s e)) (l : List (Nat × Nat)) (k : Nat)
    (h : P (s.sem k) ∨ ∃ e ∈ l, e.1 = k) : P ((l.foldl (fun s e => s.setSem e.1 (f s e)) s).sem k) := by
  induction l generalizing s with
  | nil => exact h.resolve_right (by simp)
  | cons e l ih =>
    rw [List.foldl_cons]
    refine ih ?_
    by_cases hk : e.1 = k
    · rw [← hk, State.setSem_sem]
      exact .inl (hf s e)
    · rw [State.setSem_sem_ne _ _ _ (Ne.symm hk)]
      refine h.imp id ?_
      rintro ⟨x, hx, rfl⟩
      rcases List.mem_cons.1 hx with rfl | hx
      · exact absurd rfl hk
      · exact ⟨x, hx, rfl⟩

theorem sem_congr {s u : State} (h : u.sched = s.sched) (k : Nat) : u.sem k = s.sem k := by rw [State.sem, h] <;> rfl

theorem admitTakes_sched (b : SubmitBody) (a : Admission) (s : State) :
    (admitTakes b a s).sched = (admitSems a s.sched.nextJob (admitStep a s).1).sched := by
  have hslot : ∀ (job : Word) (t : State), (admitSlot b job t).sched = t.sched := fun job t => by
    unfold admitSlot
    split <;> rfl
  have htwins : ∀ (job : Word) rooms (t : State), (admitTwins a job rooms t).sched = t.sched := fun job rooms t => by
    unfold admitTwins
    split <;> rfl
  have hpages : ∀ t : State, (admitPages a t).sched = t.sched := fun t =>
    (Within.refl.foldl fun _ _ => Within.refl.setCluster).same .sched (by decide)
  unfold admitTakes
  rw [hslot, htwins, hpages]

theorem admitTakes_running (b : SubmitBody) (a : Admission) (s : State) : (admitTakes b a s).assured.running = s.assured.running := by
  have hslot : ∀ (job : Word) (t : State), (admitSlot b job t).assured = t.assured := fun job t => by
    unfold admitSlot
    split <;> rfl
  have htwins : ∀ (job : Word) rooms (t : State), (admitTwins a job rooms t).assured.running = t.assured.running := fun job rooms t => by
    unfold admitTwins
    split <;> rfl
  have hpages : ∀ t : State, (admitPages a t).assured = t.assured := fun t =>
    (Within.refl.foldl fun _ _ => Within.refl.setCluster).same .assured (by decide)
  have hsems : ∀ (job : Word) (t : State), (admitSems a job t).assured = t.assured := fun job t =>
    (Within.refl.foldl fun _ _ => Within.refl.setSem).same .assured (by decide)
  unfold admitTakes
  rw [hslot, htwins, hpages, hsems, (admitStep_spec a s).2.2]

/-- Where no tile runs a test segment, none has to give way. -/
theorem abortSegments_idle (h : s.assured.running.entries = []) : s.abortSegments = s := by
  unfold State.abortSegments
  exact if_pos (by rw [h]; rfl)

/-- What admission takes: the job number, the semaphores, a place in the table. -/
theorem admitGraph_spec (h : QcpHdr) (b : SubmitBody) (a : Admission) (hidle : s.assured.running.entries = []) :
    let u := (s.admitGraph h b a).1
    u.sched.nextJob ≠ 0 ∧ (∀ e ∈ a.sems, (u.sem e.1).claim = some (.job s.sched.nextJob)) ∧
    u.sched.graphs = s.sched.graphs ++ [admitted h b a s] := by
  obtain ⟨hjob, hgraphs, -⟩ := admitStep_spec a s
  have hsems : ∃ t, (admitSems a s.sched.nextJob (admitStep a s).1).sched = { (admitStep a s).1.sched with sems := t } :=
    foldl_setSem_sched (fun u e => { (u.sem e.1) with count := e.2, claim := some (.job s.sched.nextJob) }) a.sems
  obtain ⟨t, ht⟩ := hsems
  rw [admitGraph_eq]
  dsimp only
  rw [abortSegments_idle (by rw [State.setSched_assured, admitTakes_running]; exact hidle)]
  refine ⟨?_, fun e he => ?_, ?_⟩
  · rw [State.setSched_sched]
    dsimp only
    rw [admitTakes_sched, ht]
    exact hjob
  · have hclaim : ((admitSems a s.sched.nextJob (admitStep a s).1).sem e.1).claim = some (.job s.sched.nextJob) :=
      foldl_setSem_of (P := fun x => x.claim = some (.job s.sched.nextJob)) (f := fun u e => { (u.sem e.1) with count := e.2, claim := some (.job s.sched.nextJob) }) (fun _ _ => rfl) a.sems e.1
        (.inr ⟨e, he, rfl⟩)
    rw [← sem_congr (admitTakes_sched b a s)] at hclaim
    exact hclaim
  · rw [State.setSched_sched]
    dsimp only
    rw [admitTakes_sched, ht]
    dsimp only
    rw [hgraphs]

theorem submitBody_admitted {h : QcpHdr} {b : SubmitBody} {a : Admission} (ha : s.admission b = .inl a) :
    submitBody h b s = (if b.modelSlot.toNat < 64 then (s.admitGraph h b a).1 else (s.admitGraph h b a).1.tracePoint 80 96,
      .now Code.ok (.nums [(s.admitGraph h b a).2.toNat])) := by
  unfold submitBody
  rw [ha]

theorem submitBody_refused {h : QcpHdr} {b : SubmitBody} {c : Half} (hc : s.admission b = .inr c) :
    submitBody h b s = (s, .now c .empty) := by
  unfold submitBody
  rw [hc] <;> rfl

/-! ## KILL, JOB_STATUS, CYC_LOAD -/

theorem killBody_ended (hg : s.graph job = some g) (ho : g.outcome ≠ none) : killBody job s = (s, .now Code.ok .empty) := by
  unfold killBody
  rw [hg]
  exact if_pos (Option.isSome_iff_ne_none.2 ho)

theorem killBody_runs (hg : s.graph job = some g) (ho : g.outcome = none) :
    killBody job s = (if g.hdr.cls = 2 ∧ g.copies.length = 3 then (s.withhold job .disagree .killed).endTasks g else s.killGraph g,
      .now Code.ok .empty) := by
  unfold killBody
  rw [hg]
  dsimp only
  rw [ho, if_neg (by simp)]
  split <;> rfl

theorem statusBody_done {body : ReplyBody} (h : s.host.done.find? (·.1 = job) = some (job, body)) :
    statusBody job s = (s, .now Code.ok body) := by
  unfold statusBody
  rw [h]

theorem cycLoadBody_good {addr : Dword} {t : CycTable} (h : s.readTable addr.toNat = .inl t) :
    cycLoadBody addr s = (s.setSched { s.sched with nextTable := some t }, .now Code.ok .empty) := by
  unfold cycLoadBody
  rw [h] <;> rfl

theorem cycLoadBody_bad {addr : Dword} {c : Half} (h : s.readTable addr.toNat = .inr c) : cycLoadBody addr s = (s, .now c .empty) := by
  unfold cycLoadBody
  rw [h] <;> rfl

end

/-- Settles O36: what admission takes is `admitGraph_spec`. -/
theorem graphRequests : Obligations.GraphRequests := by
  refine ⟨fun h b a => ?_, fun h b c hc => ?_, fun s h b a hidle => ?_, fun h job g => ?_, fun h job g => ?_, fun h job g => ?_,
    fun h job body => ?_, fun h addr t => ?_, fun h addr c hc => ?_⟩
  · exact serves_of_body (fun s => exec_submit h b s) fun s ha => submitBody_admitted ha
  · exact refuses_of_body (fun s => exec_submit h b s) hc fun s ha => submitBody_refused ha
  · obtain ⟨hjob, hsems, hgraphs⟩ := admitGraph_spec h b a hidle
    refine ⟨rfl, hjob, hsems, _, hgraphs, rfl, rfl, rfl, ?_⟩
    unfold admitted
    dsimp only
    split <;> rfl
  · exact serves_of_body (fun s => exec_kill h job s) fun s ⟨hg, ho, hn⟩ => by rw [killBody_runs hg ho, if_neg hn]
  · exact serves_of_body (fun s => exec_kill h job s) fun s ⟨hg, ho, hcls, hlen⟩ => by rw [killBody_runs hg ho, if_pos ⟨hcls, hlen⟩]
  · exact serves_of_body (fun s => exec_kill h job s) fun s ⟨hg, ho⟩ => killBody_ended hg ho
  · exact serves_of_body (fun s => exec_jobStatus h job s) fun s hd => statusBody_done hd
  · exact serves_of_body (fun s => exec_cycLoad h addr s) fun s ht => cycLoadBody_good ht
  · exact refuses_of_body (fun s => exec_cycLoad h addr s) hc fun s ht => cycLoadBody_bad ht

end Sys2Proof.Machine
end

section
/-! PROOFS. What operations on tasks and polders leave of a graph that has ended: its outcome, its verdict, its lateness (14 R316, R334). -/
namespace Sys2Proof.Machine

section
variable {s u v : State} {job : Word} {g : Graph}

/-- How a graph stands: its outcome, verdict, and whether it was late or released degraded. -/
def standingOf (g : Graph) : Option GraphOutcome × Option Verdict × Bool × Bool := (g.outcome, g.verdict, g.late, g.degraded)

theorem graph_congr (h : u.sched = s.sched) (job : Word) : u.graph job = s.graph job := by rw [State.graph, h] <;> rfl

theorem job_of_graph (h : s.graph job = some g) : g.job = job := by simpa using List.find?_some h

/-- A change of the graphs that keeps their numbers. -/
theorem graph_of_map {f : Graph → Graph} (h : u.sched.graphs = s.sched.graphs.map f) (hf : ∀ g, (f g).job = g.job) (job : Word) :
    u.graph job = (s.graph job).map f := by
  unfold State.graph
  rw [h, List.find?_map]
  exact congrArg (Option.map f) (congrArg (fun p => List.find? p s.sched.graphs) (funext fun g => by simp [hf]))

theorem modGraph_graph {j : Word} {f : Graph → Graph} (hf : ∀ g, (f g).job = g.job) (job : Word) :
    (s.modGraph j f).graph job = (s.graph job).map fun g => if g.job = j then f g else g := by
  refine graph_of_map (f := fun g => if g.job = j then f g else g) rfl (fun g => ?_) job
  split
  · exact hf g
  · rfl

theorem modGraph_graph_same {f : Graph → Graph} (hf : ∀ g, (f g).job = g.job) (h : s.graph job = some g) :
    (s.modGraph job f).graph job = some (f g) := by
  rw [modGraph_graph hf, h]
  exact congrArg some (if_pos (job_of_graph h))

/-! ## How graphs stand is kept -/

/-- Every graph stands as before. -/
def KeepsStanding (s u : State) : Prop := ∀ job, (u.graph job).map standingOf = (s.graph job).map standingOf

/-- Every graph that has ended stands as before. -/
def KeepsEnded (s u : State) : Prop :=
  ∀ job g, s.graph job = some g → g.outcome ≠ none → ∃ x, u.graph job = some x ∧ standingOf x = standingOf g

namespace KeepsStanding

theorem refl : KeepsStanding s s := fun _ => rfl
theorem trans (h : KeepsStanding s u) (h' : KeepsStanding u v) : KeepsStanding s v := fun job => (h' job).trans (h job)
theorem of_sched (h : u.sched = s.sched) : KeepsStanding s u := fun job => by rw [graph_congr h]

theorem of_map {f : Graph → Graph} (h : u.sched.graphs = s.sched.graphs.map f) (hf : ∀ g, (f g).job = g.job)
    (hs : ∀ g, standingOf (f g) = standingOf g) : KeepsStanding s u := fun job => by
  rw [graph_of_map h hf, Option.map_map]
  exact congrArg (fun p => Option.map p (s.graph job)) (funext hs)

theorem modTask {ref : TaskRef} {tile : Nat} {f : TaskSt → TaskSt} : KeepsStanding s (s.modTask ref tile f) := by
  unfold State.modTask
  split
  · exact refl
  · refine KeepsStanding.trans ?_ (of_sched (Within.refl.writeStatus.same .sched (by decide)))
    split
    · exact of_map rfl (fun g => by split <;> rfl) fun g => by split <;> rfl
    · exact of_map (f := fun g => g) (List.map_id' _).symm (fun _ => rfl) fun _ => rfl
    · exact of_map (f := fun g => g) (List.map_id' _).symm (fun _ => rfl) fun _ => rfl

theorem foldl {α : Type} {f : State → α → State} (hf : ∀ t x, KeepsStanding t (f t x)) (xs : List α) : KeepsStanding s (xs.foldl f s) := by
  induction xs generalizing s with
  | nil => exact refl
  | cons x xs ih => exact (hf s x).trans ih

theorem dropValid {t : Nat} {keep : Nat → Bool} : KeepsStanding s (s.dropValid t keep) := of_map rfl (fun _ => rfl) fun _ => rfl

theorem zeroiseStart {t : Nat} {d : Domain} {kill : Bool} : KeepsStanding s (s.zeroiseStart t d kill) := by
  have hrevoked : ((upTo 24).foldl (fun s p => s.revokePolder t p) s).sched = s.sched :=
    ((Within.refl (s := s)).foldl (f := fun s p => s.revokePolder t p) (xs := upTo 24) fun _ _ => Within.refl.revokePolder).same .sched
      (by decide)
  unfold State.zeroiseStart
  dsimp only
  generalize (upTo 24).foldl _ s = u at hrevoked
  have hended : (u.endCredits t).sched = s.sched := (Within.refl.endCredits.same .sched (by decide)).trans hrevoked
  refine ((of_sched hended).trans (dropValid (t := t) (keep := fun _ => false))).trans ?_
  exact of_sched rfl

theorem polderLeaves {t n : Nat} {st : PolderState} : KeepsStanding s (s.polderLeaves t n st) := by
  unfold State.polderLeaves
  split
  · have hrevoked : (s.revokePolder t n).sched = s.sched := Within.refl.revokePolder.same .sched (by decide)
    generalize s.revokePolder t n = u at hrevoked
    refine ((of_sched hrevoked).trans (dropValid (t := t) (keep := (· ≠ n)))).trans ?_
    exact of_sched rfl
  · exact refl

theorem leavePolders {st : PolderState} : KeepsStanding s (s.leavePolders g st) := by
  unfold State.leavePolders
  refine foldl (fun t k => foldl (fun t p => ?_) _) _
  dsimp only
  split
  · exact polderLeaves
  · exact refl

theorem lockPage {p : Nat} : KeepsStanding s (s.lockPage p) := of_sched rfl

theorem dropTask {ref : TaskRef} {k : TaskSt} : KeepsStanding s (s.dropTask ref k) := by
  have hdropped : ∀ (u : State) f, KeepsStanding s u → KeepsStanding s (((u.poolStop ref).dropSaved ref).modTask ref k.tile f) := fun u f h =>
    (h.trans (of_sched (Within.refl.poolStop.dropSaved.same .sched (by decide)))).trans modTask
  have hlocked : KeepsStanding s (match k.spill with | some (p, _) => s.lockPage p | none => s) := by
    split
    · exact lockPage
    · exact refl
  unfold State.dropTask
  split
  · exact hdropped _ _ hlocked
  · exact hdropped _ _ hlocked
  · exact hdropped _ _ hlocked
  · exact refl

end KeepsStanding

namespace KeepsEnded

theorem refl : KeepsEnded s s := fun _ g h _ => ⟨g, h, rfl⟩
theorem trans (h : KeepsEnded s u) (h' : KeepsEnded u v) : KeepsEnded s v := fun job g hg ho => by
  obtain ⟨x, hx, hsx⟩ := h job g hg ho
  have hox : x.outcome = g.outcome := congrArg Prod.fst hsx
  obtain ⟨y, hy, hsy⟩ := h' job x hx (by rw [hox]; exact ho)
  exact ⟨y, hy, hsy.trans hsx⟩

theorem of_standing (h : KeepsStanding s u) : KeepsEnded s u := fun job g hg _ => by
  have hj := h job
  rw [hg] at hj
  obtain ⟨x, hx, hs⟩ := Option.map_eq_some_iff.1 hj
  exact ⟨x, hx, hs⟩

theorem foldl {α : Type} {f : State → α → State} (hf : ∀ t x, KeepsEnded t (f t x)) (xs : List α) : KeepsEnded s (xs.foldl f s) := by
  induction xs generalizing s with
  | nil => exact refl
  | cons x xs ih => exact (hf s x).trans ih

/-- A kill marks only a graph that has not ended. -/
theorem graphKilled {j : Word} : KeepsEnded s (s.graphKilled j) := fun job g hg ho => by
  refine ⟨_, (modGraph_graph (fun x => by split <;> rfl) job).trans (congrArg (Option.map _) hg), ?_⟩
  dsimp only
  split
  · rw [if_pos (Option.isSome_iff_ne_none.2 ho)]
  · rfl

theorem taskKilled {t : Nat} : KeepsEnded s (s.taskKilled t) := by
  have hmark : ∀ ref f, KeepsEnded s ((s.poolStop ref).modTask ref t f) := fun ref f =>
    of_standing ((KeepsStanding.of_sched (Within.refl.poolStop.same .sched (by decide))).trans .modTask)
  unfold State.taskKilled
  split
  · exact refl
  next ref _ =>
    extract_lets s1
    have hs1 : KeepsEnded s s1 := hmark ref _
    split
    · extract_lets s2
      have hs2 : KeepsEnded s s2 := hs1.trans graphKilled
      split
      · split
        · split
          · exact hs2.trans (of_standing (.of_sched (Within.refl.setInbound.same .sched (by decide))))
          · exact hs2
        · exact hs2
      · exact hs2
    · exact hs1

theorem killTile {t : Nat} : KeepsEnded s (killTile t s) := by
  unfold Machine.killTile
  dsimp only
  split
  · exact refl
  · exact refl
  · exact ((of_standing (.of_sched (Within.refl.voidDrain.same .sched (by decide)))).trans taskKilled).trans (of_standing .zeroiseStart)

theorem endTasks : KeepsEnded s (s.endTasks g) := by
  have hkill (t : State) (k : Nat) :
      KeepsEnded t (match (t.tile k).ref with | some (.graph job _ _) => if job = g.job then Machine.killTile k t else t | _ => t) := by
    split
    · split
      · exact killTile
      · exact refl
    · exact refl
  unfold State.endTasks
  extract_lets s1
  have hs1 : KeepsEnded s s1 := foldl hkill _
  split
  · exact hs1
  · exact hs1.trans (foldl (fun t c => foldl (fun t k => of_standing .dropTask) _) _)

end KeepsEnded

end

end Sys2Proof.Machine
end

section
/-! PROOFS. The life of a graph: placement, yields, ends, COMPLETE, deadlines and notifications (14 R316–R323, R333, R334, 17 R375, 19 R424). -/
namespace Sys2Proof.Machine

theorem exec_taskPlace (s : State) : exec .taskPlace s = .next (taskPlace s).abortSegments := rfl
theorem exec_taskYield (tile : TileId) (s : State) : exec (.taskYield tile) s =
    .next (if s.sealedJob (s.tile tile.val).job then yieldTask tile.val s else traced 64 80 s (yieldTask tile.val s)) := rfl
theorem exec_graphEnd (job : Word) (s : State) : exec (.graphEnd job) s = .next (graphEnd job s) := rfl
theorem exec_complete (job : Word) (s : State) :
    exec (.complete job) s = .next (if s.sealedJob job then complete job s else traced 80 96 s (complete job s)) := rfl
theorem exec_graphDeadline (job : Word) (s : State) : exec (.graphDeadline job) s = .next (graphDeadline job s) := rfl
theorem exec_assuredTaskDeadline (job : Word) (task : Option Nat) (s : State) :
    exec (.assuredTaskDeadline job task) s = .next (assuredDeadline job task s) := rfl
theorem exec_notificationResend (n : Fin 8) (seq : Word) (s : State) :
    exec (.notificationResend n seq) s = .next (resend (n.val + 1) seq s) := rfl
theorem exec_notificationAck (n : Fin 8) (seq : Word) (s : State) :
    exec (.notificationAck n seq) s = .next (acknowledge (n.val + 1) seq s) := rfl

section
variable {s : State} {job : Word} {g : Graph}

/-! ## Placement (14 R317, R319) -/

/-- What a tile holds: its state, its task and the task's job. -/
def taskOf (x : Tile) : TileState × Option TaskRef × Word := (x.state, x.ref, x.job)

theorem loadTile_taskOf {t : Nat} {ref : TaskRef} {l : LoadPlan} :
    taskOf ((s.loadTile t ref l).tile t) = (.loading, some ref, l.job) := by
  unfold State.loadTile
  dsimp only
  rw [modTask_tile, wakeTile_tile, State.setTile_tile]
  rfl

theorem modTile_taskOf {t : Nat} {f : Tile → Tile} (hf : ∀ x, taskOf (f x) = taskOf x) :
    taskOf ((s.modTile t f).tile t) = taskOf (s.tile t) := by rw [State.modTile_tile, hf]

theorem modRegs_taskOf {t : Nat} {f : TRegs → TRegs} : taskOf ((s.modRegs t f).tile t) = taskOf (s.tile t) := by
  unfold State.modRegs State.modBody
  exact modTile_taskOf fun _ => rfl

theorem foldl_taskOf {α : Type} {t : Nat} {f : State → α → State} (hf : ∀ s e, taskOf ((f s e).tile t) = taskOf (s.tile t)) (xs : List α) (s : State) :
    taskOf ((xs.foldl f s).tile t) = taskOf (s.tile t) := by
  induction xs generalizing s with
  | nil => rfl
  | cons x xs ih => exact (ih _).trans (hf s x)

/-- A placed tile loads the task. -/
theorem placeOn_taskOf {copy : Fin 3} {k t : Nat} {peer : Nat → Option Nat} {c : GraphCopy} {task : TaskSt} (hc : g.copies[copy.val]? = some c)
    (hk : c.tasks[k]? = some task) : taskOf ((s.placeOn g copy k t peer).tile t) = (.loading, some (.graph g.job copy k), g.job) := by
  unfold State.placeOn
  rw [hc]
  dsimp -zeta only
  rw [hk]
  dsimp -zeta only
  extract_lets d ref plan s1 s2 s3 resumed s4 s5 s6 s7 s8 v s9
  have h5 : taskOf (s5.tile t) = (.loading, some ref, g.job) := by
    rw [show s5.tile t = (s4.loadTile t ref plan).tile t from modTask_tile t]
    exact loadTile_taskOf
  have h6 : taskOf (s6.tile t) = taskOf (s5.tile t) := foldl_taskOf (fun u p => by
    split
    · exact modRegs_taskOf
    · rfl) _ _
  have h7 : taskOf (s7.tile t) = taskOf (s6.tile t) := modTile_taskOf fun _ => rfl
  have h8 : s8.tile t = s7.tile t := tile_congr (Within.refl.modGraph.same .tiles (by decide)) t
  have h9 : s9.tile t = s8.tile t := by
    clear_value s8
    unfold s9
    split
    · rfl
    · exact (modTask_tile t).trans (tile_congr (Within.refl.draw.same .tiles (by decide)) t)
  clear_value s9 s8 s7 s6 s5
  have hend : (if d.inbound = true then s9.setInbound g c.tasks k (some (Fin.ofNat 96 t)) else s9).tile t = s9.tile t := by
    split
    · exact tile_congr (Within.refl.setInbound.same .tiles (by decide)) t
    · rfl
  rw [hend, h9, h8, h7, h6, h5]

/-- A fold that keeps what it has or takes the next element gives one of them. -/
theorem foldl_choice_mem {β : Type} {f : Option β → β → Option β} (hf : ∀ a e, f a e = a ∨ f a e = some e) (xs : List β) (a : Option β) {x : β}
    (h : xs.foldl f a = some x) : a = some x ∨ x ∈ xs := by
  induction xs generalizing a with
  | nil => exact .inl h
  | cons y ys ih =>
    rcases ih _ h with h | h
    · rcases hf a y with hkeep | htake
      · exact .inl (hkeep ▸ h)
      · rw [htake] at h
        cases h
        exact .inr (.head _)
    · exact .inr (.tail _ h)

/-- The next placement is one that the tasks of an admitted graph find. -/
theorem nextPlacement_spec {copy : Nat} {l : List (Nat × Nat)} (h : s.nextPlacement = some (g, copy, l)) :
    s.graph g.job = some g ∧ ∃ k, s.placementOf g copy k = some l := by
  unfold State.nextPlacement at h
  obtain ⟨⟨r, g', l'⟩, hfirst, heq⟩ := Option.map_eq_some_iff.1 h
  obtain ⟨rfl, rfl, rfl⟩ : g' = g ∧ r.copy = copy ∧ l' = l := by simpa using heq
  have hmem := foldl_choice_mem (fun a e => by
    split
    · exact .inr rfl
    · split
      · exact .inr rfl
      · exact .inl rfl) _ _ hfirst
  rcases hmem with hnone | hmem
  · cases hnone
  · obtain ⟨r', -, hr⟩ := List.mem_filterMap.1 hmem
    obtain ⟨g'', hg, hl⟩ := Option.bind_eq_some_iff.1 hr
    obtain ⟨l'', hp, hl⟩ := Option.map_eq_some_iff.1 hl
    obtain ⟨rfl, rfl, rfl⟩ : r' = r ∧ g'' = g' ∧ l'' = l' := by simpa using hl
    exact ⟨by rw [job_of_graph hg]; exact hg, _, hp⟩

theorem chooseTile_task {copy k t : Nat} {used : List Nat} (h : s.chooseTile g copy k used = some t) :
    ∃ c task, g.copies[copy]? = some c ∧ c.tasks[k]? = some task := by
  unfold State.chooseTile at h
  split at h
  · cases h
  next c task hct =>
    obtain ⟨c', hc, ht⟩ := Option.bind_eq_some_iff.1 hct
    obtain ⟨task', hk, he⟩ := Option.map_eq_some_iff.1 ht
    cases he
    exact ⟨_, _, hc, hk⟩

theorem placementOf_one {copy k j t : Nat} (h : s.placementOf g copy j = some [(k, t)]) :
    ∃ c task, g.copies[copy]? = some c ∧ c.tasks[k]? = some task := by
  unfold State.placementOf at h
  split at h
  · cases h
  · dsimp only at h
    split at h
    · revert h
      generalize List.filter _ _ = set
      intro h
      cases set with
      | nil => cases h
      | cons i r =>
        obtain ⟨t', ht, hr⟩ := Option.bind_eq_some_iff.1 h
        obtain ⟨l, -, hl⟩ := Option.map_eq_some_iff.1 hr
        cases hl
        exact chooseTile_task ht
    · cases h

theorem taskPlace_one {copy : Fin 3} {k t : Nat} (h : s.nextPlacement = some (g, copy.val, [(k, t)])) :
    taskOf ((taskPlace s).tile t) = (.loading, some (.graph g.job copy k), g.job) := by
  obtain ⟨hg, j, hp⟩ := nextPlacement_spec h
  obtain ⟨c, task, hc, hk⟩ := placementOf_one hp
  unfold taskPlace
  rw [h]
  simp only [List.foldl, hg, Fin.ofNat_val_eq_self]
  exact placeOn_taskOf hc hk

/-! ## Yields (14 R323) -/

theorem yieldTask_tile {t n : Nat} {ref : TaskRef} (hhold : (s.tile t).hold = some (.semaphore n)) (href : (s.tile t).ref = some ref)
    (h : (s.tile t).state = .running ∧ s.sched.yieldLimit ≠ 0 ∧ s.sched.yieldLimit < s.clock.cycle - (s.tile t).holdSince ∧
      (s.tile t).cls ≠ .radio ∧ s.starved (s.tile t).cls = true) :
    (yieldTask t s).tile t = { drainBegin (s.tile t) with yielding := true } := by
  unfold yieldTask
  simp only [hhold, href]
  rw [if_pos h, modTask_tile, State.modTile_tile]

/-! ## The end of a graph (14 R316) -/

theorem leavePages_standing : KeepsStanding s (s.leavePages g) := .of_sched (Within.refl.leavePages.same .sched (by decide))

theorem leaveArray_graphs : (s.leaveArray g).sched.graphs = s.sched.graphs := by
  unfold State.leaveArray
  dsimp only
  split <;> rfl

theorem leaveArray_standing : KeepsStanding s (s.leaveArray g) :=
  .of_map (f := fun g => g) (leaveArray_graphs.trans (List.map_id' _).symm) (fun _ => rfl) fun _ => rfl

theorem leaveArray_transfers (x : Transfer) (h : x ∈ (s.leaveArray g).sched.transfers) : x.job ≠ g.job := by
  unfold State.leaveArray at h
  simpa using (List.mem_filter.1 h).2

theorem leaveArray_inbound (h : g.arrayJob ≠ 0) {n : Nat} (hn : n < 128) :
    (s.leaveArray g).array.inbound.get none (g.arrayJob.toNat * 128 + n) = none := by
  unfold State.leaveArray
  dsimp only
  rw [if_neg h]
  exact Table.get_clearRange_of_mem (by omega)

theorem graphEnd_spec (hg : s.graph job = some g) (h : g.outcome ≠ none ∨ allDone g = true) :
    ((graphEnd job s).graph job).map (·.outcome) = some (some (g.outcome.getD .done)) ∧
      (∀ x ∈ (graphEnd job s).sched.transfers, x.job ≠ job) ∧
      (g.arrayJob ≠ 0 → ∀ n, n < 128 → (graphEnd job s).array.inbound.get none (g.arrayJob.toNat * 128 + n) = none) := by
  have hends : ¬(g.outcome.isNone = true ∧ (!allDone g) = true) := by
    rintro ⟨hnone, hnot⟩
    rcases h with h | h
    · exact h (Option.isNone_iff_eq_none.1 hnone)
    · rw [h] at hnot
      cases hnot
  unfold graphEnd
  simp only [hg]
  rw [if_neg hends]
  refine ⟨?_, fun x hx => job_of_graph hg ▸ leaveArray_transfers x hx, fun ha n hn => leaveArray_inbound ha hn⟩
  have hmarked := modGraph_graph_same (s := s) (f := fun g' => { g' with outcome := some (g.outcome.getD .done) }) (fun _ => rfl) hg
  obtain ⟨x, hx, hsx⟩ := ((((KeepsEnded.endTasks (g := g)).trans (.of_standing KeepsStanding.leavePolders)).trans
    (.of_standing leavePages_standing)).trans (.of_standing leaveArray_standing)) job _ hmarked (by simp)
  rw [hx]
  exact congrArg some (congrArg Prod.fst hsx)

/-! ## Deadlines (14 R333, 17 R375) -/

theorem undecided_live (h : s.capture.replay = none) : s.undecided job = s := by
  unfold State.undecided State.replaying
  rw [h] <;> rfl

theorem watchedAt_live (h : s.capture.replay = none) (code slot unit num : Nat) (due : Bool) : s.watchedAt code slot unit num due = due := by
  unfold State.watchedAt State.replaying
  rw [h] <;> rfl

theorem captureDecision_graph {domain slot unit code index num : Nat} :
    (s.captureDecision domain slot unit code index num).graph job = s.graph job :=
  graph_congr (Within.refl.captureDecision.same .sched (by decide)) job

/-- A graph that passes its deadline is late. -/
theorem graphDeadline_late (hg : s.graph job = some g) (ho : g.outcome = none) (hc : g.hdr.cls ≠ 2) (hk : g.hdr.killAtDeadline = false)
    (hdue : s.deadlineDue g = true) : ((graphDeadline job s).graph job).map (fun x => (x.late, x.outcome)) = some (true, none) := by
  unfold graphDeadline
  simp only [hg]
  have hlate := modGraph_graph_same (s := s) (f := fun g => { g with late := true }) (fun _ => rfl) hg
  rw [if_pos ⟨hc, by rw [hk]; rfl⟩, if_pos ⟨by rw [ho]; rfl, hdue⟩, hlate, ← ho]
  rfl

/-- One that its header says to kill is killed as well. -/
theorem graphDeadline_killed (hg : s.graph job = some g) (ho : g.outcome = none) (hc : g.hdr.cls ≠ 2) (hk : g.hdr.killAtDeadline = true)
    (hr : s.capture.replay = none) (hdue : s.deadlineDue g = true) :
    ((graphDeadline job s).graph job).map (fun x => (x.late, x.outcome)) = some (true, some .killed) := by
  have hjob := job_of_graph hg
  unfold graphDeadline
  simp only [hg]
  rw [if_neg (by rw [hk]; simp), if_neg (by rw [watchedAt_live hr, hdue, ho]; simp), if_neg hc, undecided_live hr, captureDecision_graph]
  have hlate := modGraph_graph_same (s := s.replayTaken) (job := job) (f := fun g => { g with late := true }) (fun _ => rfl) hg
  have hkilled := modGraph_graph_same (f := fun (g : Graph) => if g.outcome.isSome then g else { g with outcome := some .killed })
    (fun g => by split <;> rfl) hlate
  simp only [ho, Option.isSome_none, Bool.false_eq_true, if_false] at hkilled
  unfold State.killGraph State.graphKilled
  rw [hjob]
  obtain ⟨x, hx, hsx⟩ := KeepsEnded.endTasks (g := g) job _ hkilled (by simp)
  rw [hx]
  exact congrArg (fun y => some (y.2.2.1, y.1)) hsx

/-- A graph withheld as late has been killed with that verdict, and is counted. -/
theorem withhold_late (hg : s.graph job = some g) (ho : g.outcome = none) :
    (∃ x, (s.withhold job .late .killed).graph job = some x ∧ standingOf x = (some .killed, some .late, true, g.degraded)) ∧
      (s.withhold job .late .killed).assured.countWh = bump top32 s.assured.countWh := by
  unfold State.withhold
  simp only [hg]
  rw [if_neg (by rw [ho]; simp)]
  constructor
  · refine ⟨_, (graph_congr (Within.refl.record.same .sched (by decide)) job).trans
      (modGraph_graph_same (s := s) (f := fun g => { g with outcome := some .killed, verdict := some .late, late := g.late || Verdict.late == .late })
        (fun _ => rfl) hg), ?_⟩
    simp [standingOf]
  · rw [show (State.record _ _ _ _).assured = _ from Within.refl.record.same .assured (by decide)]
    rfl

/-- The mark of an overdue task leaves how graphs stand, and the lane. -/
theorem assuredDeadline_spec {task : Option Nat} (hg : s.graph job = some g) (ho : g.outcome = none) (hc : g.hdr.cls = 2) (hr : s.capture.replay = none)
    (hdue : (match task with | some k => s.taskOverdue g k | none => s.deadlineDue g) = true) :
    ((assuredDeadline job task s).graph job).map (fun x => (x.outcome, x.verdict, x.late)) = some (some .killed, some .late, true) ∧
      (assuredDeadline job task s).assured.countWh = bump top32 s.assured.countWh := by
  unfold assuredDeadline
  simp -zeta only [hg]
  extract_lets due s0 s1
  rw [if_pos ⟨hc, .inl (by rw [ho]; rfl), (watchedAt_live hr ..).trans hdue⟩]
  have hs0 : s0 = s.replayTaken := congrArg State.replayTaken (undecided_live hr)
  have hmarked : KeepsStanding s s1 ∧ s1.assured = s.assured := by
    unfold s1
    rw [hs0]
    split
    · exact ⟨(KeepsStanding.of_sched rfl).trans (.foldl (fun _ _ => .modTask) _),
        (Within.refl.replayTaken.foldl fun _ _ => Within.refl.modTask).same .assured (by decide)⟩
    · exact ⟨.of_sched rfl, rfl⟩
  have hstands := hmarked.1 job
  rw [hg] at hstands
  obtain ⟨x, hx, hsx⟩ := Option.map_eq_some_iff.1 hstands
  obtain ⟨⟨y, hy, hsy⟩, hcount⟩ := withhold_late hx ((congrArg Prod.fst hsx).trans ho)
  obtain ⟨z, hz, hsz⟩ := KeepsEnded.endTasks (g := g) (s := s1.assuredLate job) job y (captureDecision_graph.trans hy)
    (by rw [show y.outcome = some .killed from congrArg Prod.fst hsy]; simp)
  have hsz := hsz.trans hsy
  constructor
  · rw [hz]
    exact congrArg (fun y => some (y.1, y.2.1, y.2.2.1)) hsz
  · rw [show (State.endTasks _ g).assured = _ from Within.refl.endTasks.same .assured (by decide),
      show (s1.assuredLate job).assured = (s1.withhold job .late .killed).assured from Within.refl.captureDecision.same .assured (by decide),
      hcount, hmarked.2]

/-! ## COMPLETE (14 R316) -/

theorem logWrite_done (s : State) (r : LogRing) (level v : Nat) : (s.logWrite r level v).host.done = s.host.done := by
  unfold State.logWrite
  dsimp only
  rw [show (State.extWrite (State.setHost _ _) _ _).host = _ from Within.refl.extWrite.same .host (by decide), State.setHost_host]
  dsimp only
  rw [show (State.extWrite _ _ _).host = _ from Within.refl.extWrite.same .host (by decide)]

theorem tracePoint_done (s : State) (lo hi : Nat) : (s.tracePoint lo hi).host.done = s.host.done := by
  unfold State.tracePoint
  split
  · dsimp only
    split
    · exact logWrite_done s.draw.2 _ _ _
    · rfl
  · rfl

theorem traced_done {lo hi : Nat} {u : State} : (traced lo hi s u).host.done = u.host.done := by
  unfold traced
  split
  · split
    · rfl
    · exact tracePoint_done u lo hi
  · rfl

theorem notify_done {session : Nat} {type : Half} {body : ReplyBody} : (s.notify session type body).host.done = s.host.done := by
  unfold State.notify
  split
  · rfl
  · split
    · rfl
    · rfl

theorem batchDone_sems : (s.batchDone g).sched.sems = s.sched.sems := by
  unfold State.batchDone
  split <;> rfl

/-- What COMPLETE leaves once nothing of the graph is left. -/
structure Completed (s : State) (job : Word) (g : Graph) (u : State) : Prop where
  graph : u.graph job = none
  done : u.host.done.head? = some (job, completeBody s g)
  sems : ∀ e ∈ g.sems, (u.sem e.1).count = 0 ∧ (u.sem e.1).claim = none
  twins : ∀ x ∈ u.assured.twins, x.1 ≠ job

theorem Completed.congr {u v : State} (h : Completed s job g u) (hsched : v.sched = u.sched) (hdone : v.host.done = u.host.done)
    (hlane : v.assured = u.assured) : Completed s job g v where
  graph := (graph_congr hsched job).trans h.graph
  done := (congrArg _ hdone).trans h.done
  sems e he := by
    rw [sem_congr hsched]
    exact h.sems e he
  twins := by
    rw [hlane]
    exact h.twins

theorem complete_completed (hg : s.graph job = some g) (ho : g.outcome ≠ none)
    (hended : ∀ c ∈ g.copies, ∀ k ∈ c.tasks, k.state = .done ∨ k.state = .faulted ∨ k.state = .killed)
    (hheld : s.jobHolds job = false) (hpolders : s.jobHolds (polderJob g) = false)
    (hfate : s.fated (deadlineCode g) 0 0 job.toNat = false) : Completed s job g (complete job s) := by
  have hidle : (g.copies.any fun c => c.tasks.any fun k =>
      k.state == .running || k.state == .ready || k.state == .pending || k.state == .preempted) = false := by
    simp only [List.any_eq_false]
    intro c hc
    simp only [Bool.not_eq_true, List.any_eq_false]
    intro k hk
    rcases hended c hc k hk with h | h | h <;> rw [h] <;> decide
  unfold complete
  simp -zeta only [hg]
  extract_lets busy s1 mine s2 src3 s3 s4 give s5 src6 s6 src7 s7 body src8 s8 s9
  rw [if_neg (by simp [show busy = false from hidle, hheld, hpolders, hfate, ho])]
  have hs4 : ∀ e ∈ g.sems, (s4.sem e.1).count = 0 ∧ (s4.sem e.1).claim = none := fun e he =>
    foldl_setSem_of (P := fun x => x.count = 0 ∧ x.claim = none)
      (f := fun s e => { (s.sem e.1) with count := 0, claim := none }) (fun _ _ => ⟨rfl, rfl⟩) g.sems e.1 (.inr ⟨e, he, rfl⟩)
  have hlane4 : s4.assured = s3.assured := (Within.refl.foldl fun _ _ => Within.refl.setSem).same .assured (by decide)
  clear_value s4
  have hs5 : s5.sched = s4.sched := (Within.refl.foldl fun _ _ => Within.refl.setCluster).same .sched (by decide)
  have hlane5 : s5.assured = s4.assured := (Within.refl.foldl fun _ _ => Within.refl.setCluster).same .assured (by decide)
  clear_value s5
  have hs6 : s6.sched = s5.sched ∧ s6.assured = s5.assured := by
    unfold s6
    split <;> exact ⟨rfl, rfl⟩
  clear_value s6
  have hlane : s7.assured = s3.assured := (Within.refl.batchDone.same .assured (by decide)).trans (hs6.2.trans (hlane5.trans hlane4))
  have h8 : Completed s job g s8 := by
    refine ⟨?_, rfl, fun e he => ?_, fun x hx => ?_⟩
    · exact List.find?_eq_none.2 fun x hx => by simpa using (List.mem_filter.1 hx).2
    · have hsem : s8.sem e.1 = s4.sem e.1 := by
        show (s6.batchDone g).sched.sems.get Sem.init e.1 = _
        rw [batchDone_sems, hs6.1, hs5]
        rfl
      rw [hsem]
      exact hs4 e he
    · have hx : x ∈ s3.assured.twins := hlane ▸ hx
      simpa using (List.mem_filter.1 hx).2
  have h9 : Completed s job g s9 :=
    h8.congr (Within.refl.notify.same .sched (by decide)) notify_done (Within.refl.notify.same .assured (by decide))
  show Completed s job g (s9.digestAdd _)
  exact h9.congr (Within.refl.digestAdd.same .sched (by decide)) rfl (Within.refl.digestAdd.same .assured (by decide))

theorem Completed.traced {u : State} {lo hi : Nat} (h : Completed s job g u) : Completed s job g (traced lo hi s u) :=
  h.congr (Within.refl.traced.same .sched (by decide)) traced_done (Within.refl.traced.same .assured (by decide))

end

/-! ## Notifications (19 R424) -/

theorem notificationResend_gives (s : State) (n : Fin 8) (seq : Word) (x : Notice)
    (hx : s.host.notices.find? (fun m => m.session == n.val + 1 && m.seq == seq) = some x) (hdue : x.sentNs + 10000000 ≤ s.nowNs) :
    (x.sends < 9 → (s.session (n.val + 1)).isSome = true →
      Gives (.notificationResend n seq) s fun u => u.out = s.out ++ [.notify (BitVec.ofNat 16 (n.val + 1)) x.type x.seq x.body] ∧
        u.host.notifyLost = s.host.notifyLost) ∧
    (9 ≤ x.sends → Gives (.notificationResend n seq) s fun u => u.host.notifyLost = bump top32 s.host.notifyLost ∧
      u.host.notices = s.host.notices.filter (fun m => !(m.session == n.val + 1 && m.seq == seq)) ∧ u.out = s.out) := by
  constructor
  · intro hsends hopen
    refine gives_of_exec (exec_notificationResend n seq s) ?_
    unfold resend
    simp only [hx]
    rw [if_neg (by omega), if_neg (by omega), if_neg (by rw [Option.isSome_iff_exists] at hopen; obtain ⟨y, hy⟩ := hopen; rw [hy]; simp)]
    exact ⟨rfl, rfl⟩
  · intro hsends
    refine gives_of_exec (exec_notificationResend n seq s) ?_
    unfold resend
    simp only [hx]
    rw [if_neg (by omega), if_pos hsends]
    exact ⟨rfl, rfl, rfl⟩

theorem notificationAck_gives (s : State) (n : Fin 8) (seq : Word)
    (hx : s.host.notices.any (fun m => m.session == n.val + 1 && m.seq == seq) = true) :
    Gives (.notificationAck n seq) s fun u =>
      u.host.notices = s.host.notices.filter (fun m => !(m.session == n.val + 1 && m.seq == seq)) ∧
      u.session (n.val + 1) = (s.session (n.val + 1)).map fun x => { x with idleNs := s.nowNs } := by
  refine gives_of_exec (exec_notificationAck n seq s) ?_
  unfold acknowledge
  dsimp only
  rw [if_pos hx]
  exact ⟨rfl, Table.get_set ..⟩

/-- Settles O37: a placed task's tile loads it, a yield drains, the ends of a graph keep how it stands through the ends of its tasks, COMPLETE
takes it from the table, and deadlines and notifications act as 14 R333 and 19 R424 say. -/
theorem graphLife : Obligations.GraphLife := by
  refine ⟨⟨?_, ?_, ?_, ?_, ?_, ?_, ?_⟩, fun s n seq => ?_⟩
  · intro s g copy k t hplace hidle
    refine gives_of_exec (exec_taskPlace s) ?_
    rw [abortSegments_idle (by rw [show (taskPlace s).assured = s.assured from Within.refl.taskPlace.same .assured (by decide)]; exact hidle)]
    have h := taskPlace_one hplace
    exact ⟨congrArg Prod.fst h, congrArg (fun x => x.2.1) h, congrArg (fun x => x.2.2) h⟩
  · intro s t n ref x hhold href hst hlimit hlong hcls hstarved
    have h := yieldTask_tile hhold href ⟨hst, hlimit, hlong, hcls, hstarved⟩
    refine gives_of_exec (exec_taskYield t s) ?_
    split
    · rw [h]
      exact ⟨rfl, rfl, rfl⟩
    · rw [traced_tile, h]
      exact ⟨rfl, rfl, rfl⟩
  · exact fun s job g hg hend => gives_of_exec (exec_graphEnd job s) (graphEnd_spec hg hend)
  · intro s job g hg ho hnot
    rw [exec_graphEnd, graphEnd, hg]
    exact congrArg _ (if_pos ⟨by rw [ho]; rfl, by rw [hnot]; rfl⟩)
  · intro s job g hg ho hended hheld hpolders hfate
    have h := complete_completed hg ho hended hheld hpolders hfate
    refine gives_of_exec (exec_complete job s) ?_
    split
    · exact ⟨h.graph, h.done, h.sems, h.twins⟩
    · exact ⟨h.traced.graph, h.traced.done, h.traced.sems, h.traced.twins⟩
  · intro s job g hg ho hc hr hdue
    exact ⟨fun hk => gives_of_exec (exec_graphDeadline job s) (graphDeadline_late hg ho hc hk hdue),
      fun hk => gives_of_exec (exec_graphDeadline job s) (graphDeadline_killed hg ho hc hk hr hdue)⟩
  · exact fun s job g task hg ho hc hr hdue =>
      gives_of_exec (exec_assuredTaskDeadline job task s) (assuredDeadline_spec hg ho hc hr hdue)
  · exact ⟨fun x hx hdue hsends hopen => (notificationResend_gives s n seq x hx hdue).1 hsends hopen,
      fun x hx hdue hsends => (notificationResend_gives s n seq x hx hdue).2 hsends, notificationAck_gives s n seq⟩

end Sys2Proof.Machine
end

section
/-! PROOFS. The claim of an entry of the slot cycle table, from the wake of its tiles to its end (01 R23, 14 R325–R327). -/
namespace Sys2Proof.Machine

theorem exec_claimPreWake (e : Fin 4096) (s : State) : exec (.claimPreWake e) s = .next (preWake e.val s) := rfl
theorem exec_claimPreemptRequest (e : Fin 4096) (s : State) :
    exec (.claimPreemptRequest e) s = .next (traced 64 80 s (preempts e.val s)) := rfl
theorem exec_claimReassign (e : Fin 4096) (s : State) : exec (.claimReassign e) s = .next (reassigns e.val s) := rfl
theorem exec_claimEntryOffset (e : Fin 4096) (slot : AbsSlot) (s : State) :
    exec (.claimEntryOffset e slot) s = .next (traced 64 80 s (entryOffset e.val slot s)) := rfl
theorem exec_claimTaskEnd (e : Fin 4096) (s : State) : exec (.claimTaskEnd e) s = .next (claimEnd e.val s) := rfl

/-! ## Runs over the tiles of a set -/

theorem mem_tilesOf {m : BitVec 96} {t : Nat} : t ∈ tilesOf m ↔ t < 96 ∧ m.getLsbD t = true := by
  unfold tilesOf upTo
  rw [List.mem_filter, List.mem_range]

theorem tilesOf_nodup (m : BitVec 96) : (tilesOf m).Nodup := List.nodup_range.filter _

/-- What a run keeps at each of its parts holds at its end. -/
theorem foldl_keeps {α : Type} {P : State → Prop} {f : State → α → State} {xs : List α} {s : State} (hs : P s) (hf : ∀ u, ∀ i ∈ xs, P u → P (f u i)) :
    P (xs.foldl f s) := by
  induction xs generalizing s with
  | nil => exact hs
  | cons x xs ih => exact ih (hf s x (.head _) hs) fun u i hi => hf u i (.tail _ hi)

/-- What a run over distinct tiles establishes at one of them: the earlier parts keep what it needs, the later ones what it gives. -/
theorem foldl_establishes {P Q : State → Prop} {f : State → Nat → State} {xs : List Nat} {t : Nat} {s : State} (hd : xs.Nodup) (ht : t ∈ xs) (hs : P s)
    (hbefore : ∀ u i, i ≠ t → P u → P (f u i)) (hat : ∀ u, P u → Q (f u t)) (hafter : ∀ u i, i ≠ t → Q u → Q (f u i)) : Q (xs.foldl f s) := by
  induction xs generalizing s with
  | nil => cases ht
  | cons x xs ih =>
    obtain ⟨hx, hd⟩ := List.nodup_cons.1 hd
    by_cases hxt : x = t
    · subst hxt
      rw [List.foldl_cons]
      exact foldl_keeps (hat s hs) fun u i hi hu => hafter u i (fun h => hx (h ▸ hi)) hu
    · exact ih hd ((List.mem_cons.1 ht).resolve_left (Ne.symm hxt)) (hbefore s x hxt hs)

section
variable {s u : State} {t i n k : Nat}

/-! ## Waking -/

theorem wakeDomain_powerOf (hheld : s.rst.held.contains k = false) (h : s.powerOf k = .off) : (s.wakeDomain k).powerOf k = .waking := by
  unfold State.wakeDomain
  rw [if_neg (by rw [hheld]; simp)]
  simp only [h]
  exact Table.get_set ..

theorem wakeDomain_powerOf_ne (h : k ≠ i) : (s.wakeDomain i).powerOf k = s.powerOf k := by
  unfold State.wakeDomain
  split
  · rfl
  · split
    · exact Table.get_set_ne h
    · exact Table.get_set_ne h
    · rfl

theorem wakeDomain_rst : (s.wakeDomain i).rst = s.rst := Within.refl.wakeDomain.same .rst (by decide)
theorem wakeTile_rst : (s.wakeTile i).rst = s.rst := Within.refl.wakeTile.same .rst (by decide)

theorem wakeTile_powerOf_ne (ht : t < 96) (h : t ≠ i) : (s.wakeTile i).powerOf t = s.powerOf t := by
  unfold State.wakeTile
  split
  · rfl
  · rw [wakeDomain_powerOf_ne h, wakeDomain_powerOf_ne (by omega)]

theorem wakeTile_powerOf (ht : t < 96) (hheld : s.tileHeld t = false) (h : s.powerOf t = .off) : (s.wakeTile t).powerOf t = .waking := by
  have hown : s.rst.held.contains t = false := (Bool.or_eq_false_iff.1 hheld).2
  unfold State.wakeTile
  rw [if_neg (by rw [hheld]; simp)]
  exact wakeDomain_powerOf (by rw [wakeDomain_rst]; exact hown) ((wakeDomain_powerOf_ne (by omega)).trans h)

theorem tileHeld_congr (h : u.rst = s.rst) (t : Nat) : u.tileHeld t = s.tileHeld t := by rw [State.tileHeld, h] <;> rfl

theorem preWake_powerOf {e : CycEntry} (he : s.claimEntry n = some e) (ht : t < 96) (hset : e.tiles.getLsbD t = true)
    (hbefore : before e (slotNs e.mu) s.nowNs = true) (hheld : s.tileHeld t = false) (h : s.powerOf t = .off) :
    (preWake n s).powerOf t = .waking := by
  unfold preWake
  simp only [he]
  rw [if_pos hbefore]
  exact foldl_establishes (P := fun u => u.tileHeld t = false ∧ u.powerOf t = .off) (Q := fun u => u.powerOf t = .waking) (tilesOf_nodup _)
    (mem_tilesOf.2 ⟨ht, hset⟩) ⟨hheld, h⟩
    (fun u i hi hu => ⟨(tileHeld_congr wakeTile_rst t).trans hu.1, (wakeTile_powerOf_ne ht hi.symm).trans hu.2⟩)
    (fun u hu => wakeTile_powerOf ht hu.1 hu.2) fun u i hi hu => (wakeTile_powerOf_ne ht hi.symm).trans hu

/-! ## Other tiles -/

theorem unload_tile_ne (h : k ≠ t) : (s.unload t).tile k = s.tile k := by
  unfold State.unload
  dsimp only
  split
  · rfl
  · next ref _ =>
    have hmoved : ∀ f g, ((s.modTile t f).modTask ref t g).tile k = s.tile k := fun f g =>
      (modTask_tile k).trans (State.modTile_tile_ne _ _ _ h)
    split
    · exact hmoved _ _
    · exact hmoved _ _

theorem preemptTile_tile_ne (h : k ≠ t) : (preemptTile t s).tile k = s.tile k := by
  unfold preemptTile
  split
  · exact unload_tile_ne h
  · exact State.modTile_tile_ne _ _ _ h
  · rfl

/-- A preemption leaves a free tile alone. -/
theorem preemptTile_idle (h : (s.tile k).state = .idle) : (preemptTile t s).tile k = s.tile k := by
  by_cases hk : k = t
  · subst hk
    unfold preemptTile
    rw [h]
  · exact preemptTile_tile_ne hk

theorem tasksOnly_claims (h : TasksOnly s u) : u.sched.claims = s.sched.claims ∧ u.sched.entrySlot = s.sched.entrySlot ∧ u.sched.ranOn = s.sched.ranOn := by
  obtain ⟨_, _, _, h⟩ := h
  rw [h]
  exact ⟨rfl, rfl, rfl⟩

/-! ## Claims -/

theorem claimTile_claims : (claimTile n s t).sched.claims = s.sched.claims.set none t (some n) := by
  unfold claimTile
  dsimp only
  split
  · exact (tasksOnly_claims .preemptTile).1
  · split <;> rfl

theorem claimTile_tile_ne (h : k ≠ t) : (claimTile n s t).tile k = s.tile k := by
  unfold claimTile
  dsimp only
  split
  · exact preemptTile_tile_ne h
  · split
    · exact State.modTile_tile_ne _ _ _ h
    · rfl

/-- A running inference task on a claimed tile drains. -/
theorem claimTile_running (hcls : (s.tile t).cls = .inference) (hst : (s.tile t).state = .running) :
    ((claimTile n s t).tile t).state = .draining := by
  unfold claimTile
  dsimp only
  generalize hv : State.setSched s _ = v
  have hv : v.tile t = s.tile t := hv ▸ rfl
  rw [hv, if_pos ⟨hcls, .inl hst⟩, preemptTile_running (by rw [hv]; exact hst), State.modTile_tile]
  rfl

theorem preempts_claimed {e : CycEntry} (he : s.claimEntry n = some e) (ht : t < 96) (hset : e.tiles.getLsbD t = true)
    (hbefore : before e 2000 s.nowNs = true) (hcls : (s.tile t).cls = .inference) (hst : (s.tile t).state = .running) :
    ((preempts n s).tile t).state = .draining ∧ (preempts n s).sched.claims.get none t = some n := by
  unfold preempts
  simp only [he]
  rw [if_pos hbefore]
  refine foldl_establishes (P := fun u => u.tile t = s.tile t)
    (Q := fun u => (u.tile t).state = .draining ∧ u.sched.claims.get none t = some n) (tilesOf_nodup _) (mem_tilesOf.2 ⟨ht, hset⟩) rfl
    (fun u i hi hu => (claimTile_tile_ne hi.symm).trans hu) (fun u hu => ?_) fun u i hi hu => ?_
  · rw [claimTile_claims]
    exact ⟨claimTile_running (by rw [hu]; exact hcls) (by rw [hu]; exact hst), Table.get_set ..⟩
  · rw [claimTile_claims, claimTile_tile_ne hi.symm, Table.get_set_ne hi.symm]
    exact hu

/-! ## Tiles that go to another domain -/

/-- What a zeroisation of another tile leaves of a tile: its state, its domains, its task. -/
def standOf (x : Tile) : TileState × Domain × Domain × Option TaskRef := (x.state, x.domain, x.nextDomain, x.ref)

theorem foldl_standOf {α : Type} {f : State → α → State} (hf : ∀ s e, standOf ((f s e).tile k) = standOf (s.tile k)) (xs : List α) (s : State) :
    standOf ((xs.foldl f s).tile k) = standOf (s.tile k) := by
  induction xs generalizing s with
  | nil => rfl
  | cons x xs ih => exact (ih _).trans (hf s x)

theorem revokeNotice_standOf {slot : Nat} {cls : JobClass} {job : Word} {w : Writer} :
    standOf ((s.revokeNotice t slot cls job w).tile k) = standOf (s.tile k) := by
  unfold State.revokeNotice
  split
  · next v q =>
    unfold State.modBody
    by_cases hk : k = v.val
    · subst hk
      rw [State.modTile_tile]
      rfl
    · rw [State.modTile_tile_ne _ _ _ hk]
  · rw [tile_congr (s := s) ((Within.refl.tellDevice (s := s)).same .tiles (by decide))]
  · rfl

theorem revokePolder_standOf {p : Nat} : standOf ((s.revokePolder t p).tile k) = standOf (s.tile k) := by
  unfold State.revokePolder
  dsimp only
  rw [foldl_standOf fun s r => foldl_standOf (fun s i => revokeNotice_standOf) _ _, foldl_standOf fun s c => revokeNotice_standOf]
  by_cases hk : k = t
  · subst hk
    rw [State.setTile_tile]
    rfl
  · rw [State.setTile_tile_ne _ _ _ hk]

theorem zeroiseStart_standOf_ne {d : Domain} {kill : Bool} (h : k ≠ t) : standOf ((s.zeroiseStart t d kill).tile k) = standOf (s.tile k) := by
  unfold State.zeroiseStart
  dsimp only
  rw [State.modTile_tile_ne _ _ _ h]
  have hrevoked : standOf (((upTo 24).foldl (fun s p => s.revokePolder t p) s).tile k) = standOf (s.tile k) :=
    foldl_standOf (fun s p => revokePolder_standOf) _ _
  generalize (upTo 24).foldl _ s = v at hrevoked
  have hended : ((v.endCredits t).dropValid t fun _ => false).tile k = withoutCredits t (v.tile k) :=
    (tile_congr (Within.refl.dropValid.same .tiles (by decide)) k).trans (endCredits_tile k)
  rw [hended]
  exact hrevoked

theorem assignTile_standOf_ne {d : Domain} (h : k ≠ t) : standOf ((assignTile t d s).tile k) = standOf (s.tile k) := by
  unfold assignTile
  dsimp only
  split
  · rfl
  · split
    · exact zeroiseStart_standOf_ne h
    · exact zeroiseStart_standOf_ne h
    · exact congrArg standOf (tile_congr (Within.refl.tileRefusal.same .tiles (by decide)) k)

theorem toRadio_standOf_ne (h : k ≠ t) : standOf ((toRadio n s t).tile k) = standOf (s.tile k) := by
  unfold toRadio
  dsimp only
  split
  · exact assignTile_standOf_ne h
  · rfl

theorem toRadio_tasks : TasksOnly s (toRadio n s t) := by
  unfold toRadio
  dsimp only
  split
  · exact .assignTile
  · exact .refl

/-- A claimed tile that is free and of another domain is zeroised for the radio domain. -/
theorem toRadio_free (hclaim : s.sched.claims.get none t = some n) (hst : (s.tile t).state = .idle ∨ (s.tile t).state = .faulted)
    (hd : (s.tile t).domain ≠ .radio) : ((toRadio n s t).tile t).state = .zeroising ∧ ((toRadio n s t).tile t).nextDomain = .radio := by
  have hassign : assignTile t .radio s = s.zeroiseStart t .radio false := by
    unfold assignTile
    dsimp only
    rw [if_neg (by decide)]
    rcases hst with h | h <;> rw [h]
  unfold toRadio
  dsimp only
  rw [if_pos ⟨hclaim, hst, hd⟩, hassign]
  obtain ⟨hstate, hnext, -⟩ := zeroiseStart_spec (s := s) (t := t) (next := .radio) (kill := false)
  exact ⟨hstate, hnext⟩

theorem reassigns_free {e : CycEntry} (he : s.claimEntry n = some e) (ht : t < 96) (hset : e.tiles.getLsbD t = true)
    (hclaim : s.sched.claims.get none t = some n) (hst : (s.tile t).state = .idle ∨ (s.tile t).state = .faulted)
    (hd : (s.tile t).domain ≠ .radio) : ((reassigns n s).tile t).state = .zeroising ∧ ((reassigns n s).tile t).nextDomain = .radio := by
  unfold reassigns
  simp only [he]
  refine foldl_establishes (P := fun u => u.sched.claims = s.sched.claims ∧ standOf (u.tile t) = standOf (s.tile t))
    (Q := fun u => (u.tile t).state = .zeroising ∧ (u.tile t).nextDomain = .radio) (tilesOf_nodup _) (mem_tilesOf.2 ⟨ht, hset⟩) ⟨rfl, rfl⟩
    (fun u i hi hu => ⟨(tasksOnly_claims toRadio_tasks).1.trans hu.1, (toRadio_standOf_ne hi.symm).trans hu.2⟩) (fun u hu => ?_) fun u i hi hu => ?_
  · obtain ⟨hclaims, hstand⟩ := hu
    have hstate : (u.tile t).state = (s.tile t).state := congrArg Prod.fst hstand
    have hdom : (u.tile t).domain = (s.tile t).domain := congrArg (·.2.1) hstand
    exact toRadio_free (by rw [hclaims]; exact hclaim) (by rw [hstate]; exact hst) (by rw [hdom]; exact hd)
  · have hstand := toRadio_standOf_ne (n := n) (s := u) hi.symm
    exact ⟨(congrArg Prod.fst hstand).trans hu.1, (congrArg (·.2.2.1) hstand).trans hu.2⟩

/-! ## The load at the offset -/

theorem claimEntry_some {e : CycEntry} (he : s.claimEntry n = some e) : s.tableRuns = true ∧ s.sched.table.bind (·.entries[n]?) = some e := by
  unfold State.claimEntry at he
  split at he
  · next hruns => exact ⟨hruns, (Option.filter_eq_some_iff.1 he).1⟩
  · cases he

/-- What lets an entry's task be loaded on a tile. -/
structure Loadable (n t slot : Nat) (s : State) : Prop where
  claim : s.sched.claims.get none t = some n
  free : s.radioFree t = true
  fresh : s.sched.ranOn.contains (n, t) = false
  slot : s.sched.entrySlot.get none n = some slot

/-- What its load leaves. -/
structure LoadedFor (n t slot : Nat) (s : State) : Prop where
  state : (s.tile t).state = .loading
  ref : (s.tile t).ref = some (.entry (Fin.ofNat 4096 n))
  slot : s.sched.entrySlot.get none n = some slot

theorem radioFree_congr (htile : u.tile t = s.tile t) (hlane : u.assured = s.assured) : u.radioFree t = s.radioFree t := by
  rw [State.radioFree, htile, hlane] <;> rfl

theorem loadTile_tile_ne {ref : TaskRef} {l : LoadPlan} (h : k ≠ t) : (s.loadTile t ref l).tile k = s.tile k := by
  unfold State.loadTile
  dsimp only
  rw [modTask_tile, wakeTile_tile, State.setTile_tile_ne _ _ _ h]

theorem loadTile_tasks {ref : TaskRef} {l : LoadPlan} : TasksOnly s (s.loadTile t ref l) := by
  unfold State.loadTile
  exact TasksOnly.trans (.of_sched (Within.refl.setTile.wakeTile.same .sched (by decide))) .modTask

theorem loadRadio_ne {e : CycEntry} {ref : TaskRef} {seed : Dword} (h : k ≠ t) :
    (s.loadRadio n e ref seed t).tile k = s.tile k ∧ TasksOnly s (s.loadRadio n e ref seed t) ∧ (s.loadRadio n e ref seed t).assured = s.assured := by
  refine ⟨?_, ?_, Within.refl.loadRadio.same .assured (by decide)⟩
  · unfold State.loadRadio
    dsimp only
    rw [loadTile_tile_ne h, State.modTile_tile_ne _ _ _ h]
    split <;> rfl
  · unfold State.loadRadio
    refine TasksOnly.trans ?_ loadTile_tasks
    refine TasksOnly.trans ?_ (.of_sched rfl)
    split <;> exact ⟨_, _, _, rfl⟩

theorem loadRadio_tasks {e : CycEntry} {ref : TaskRef} {seed : Dword} : TasksOnly s (s.loadRadio n e ref seed t) :=
  (loadRadio_ne (Nat.succ_ne_self t)).2.1

/-- The load on one tile leaves another one, and its claim, as they were. -/
theorem loadEntry_ne {e : CycEntry} (h : t ≠ i) : (loadEntry n e s i).tile t = s.tile t ∧
    (loadEntry n e s i).sched.claims = s.sched.claims ∧ (loadEntry n e s i).sched.entrySlot = s.sched.entrySlot ∧
    (loadEntry n e s i).sched.ranOn.contains (n, t) = s.sched.ranOn.contains (n, t) ∧ (loadEntry n e s i).assured = s.assured := by
  unfold loadEntry
  split
  · obtain ⟨htile, htasks, hlane⟩ := loadRadio_ne (s := s) (n := n) (e := e) (ref := .entry (Fin.ofNat 4096 n)) (seed := 0) h
    dsimp only
    generalize s.loadRadio n e _ 0 i = v at htile htasks hlane
    obtain ⟨hclaims, hslots, hran⟩ := tasksOnly_claims htasks
    refine ⟨htile, hclaims, hslots, ?_, hlane⟩
    rw [State.setSched_sched]
    dsimp only
    rw [hran, List.contains_cons]
    simp [h]
  · exact ⟨rfl, rfl, rfl, rfl, rfl⟩

theorem loadEntry_loadable {e : CycEntry} {slot : Nat} (h : Loadable n t slot s) : LoadedFor n t slot (loadEntry n e s t) := by
  rw [loadEntry_free h.claim h.fresh h.free]
  obtain ⟨hstate, href⟩ := loadRadio_tile (s := s) (t := t) (n := n) (e := e) (ref := .entry (Fin.ofNat 4096 n)) (seed := 0)
  obtain ⟨-, hslots, -⟩ := tasksOnly_claims (loadRadio_tasks (s := s) (t := t) (n := n) (e := e) (ref := .entry (Fin.ofNat 4096 n)) (seed := 0))
  dsimp only
  generalize s.loadRadio n e _ 0 t = v at hstate href hslots
  exact ⟨hstate, href, (congrArg (fun x => Table.get x none n) hslots).trans h.slot⟩

theorem loadEntries_loaded {e : CycEntry} {slot : Nat} (ht : t < 96) (hset : e.tiles.getLsbD t = true) (h : Loadable n t slot s) :
    LoadedFor n t slot ((tilesOf e.tiles).foldl (loadEntry n e) s) := by
  refine foldl_establishes (tilesOf_nodup _) (mem_tilesOf.2 ⟨ht, hset⟩) h (fun u i hi hu => ?_) (fun u hu => loadEntry_loadable hu) fun u i hi hu => ?_
  · obtain ⟨htile, hclaims, hslots, hran, hlane⟩ := loadEntry_ne (s := u) (n := n) (e := e) hi.symm
    exact ⟨by rw [hclaims]; exact hu.claim, (radioFree_congr htile hlane).trans hu.free, hran.trans hu.fresh, by rw [hslots]; exact hu.slot⟩
  · obtain ⟨htile, -, hslots, -, -⟩ := loadEntry_ne (s := u) (n := n) (e := e) hi.symm
    exact ⟨by rw [htile]; exact hu.state, by rw [htile]; exact hu.ref, by rw [hslots]; exact hu.slot⟩

theorem yieldTraining_free (h : (s.tile t).state = .idle) : (s.yieldTraining k).tile t = s.tile t ∧ TasksOnly s (s.yieldTraining k) := by
  unfold State.yieldTraining
  refine foldl_keeps (P := fun u => u.tile t = s.tile t ∧ TasksOnly s u) ⟨rfl, .refl⟩ fun u i _ hu => ?_
  obtain ⟨htile, htasks⟩ := hu
  split
  · exact ⟨(preemptTile_idle (by rw [htile]; exact h)).trans htile, htasks.trans .preemptTile⟩
  · exact ⟨htile, htasks⟩

/-- The close of an intake leaves a free tile and the claims. -/
theorem closeIntake_free {cell slot : Nat} (h : (s.tile t).state = .idle) :
    (closeIntake cell slot s).tile t = s.tile t ∧ TasksOnly s (closeIntake cell slot s) := by
  unfold closeIntake
  split
  · exact ⟨rfl, .refl⟩
  · split
    · exact ⟨rfl, .refl⟩
    · dsimp only
      generalize hv : State.setUlSlot _ cell slot _ = v
      have hrest : v.tile t = s.tile t ∧ v.sched = s.sched := hv ▸ ⟨rfl, rfl⟩
      split
      · obtain ⟨htile, htasks⟩ := yieldTraining_free (k := cell) (s := v) (by rw [hrest.1]; exact h)
        exact ⟨htile.trans hrest.1, .trans (.of_sched hrest.2) htasks⟩
      · exact ⟨hrest.1, .of_sched hrest.2⟩

/-- The slot's intake closes, and its SRS sets are held, before the entry's task starts. -/
def offsetOpening (e : CycEntry) (slot : Nat) (s : State) : State := if e.owner < 8 then holdSrs e.owner slot (closeIntake e.owner slot s) else s

theorem offsetOpening_free {e : CycEntry} {slot : Nat} (h : (s.tile t).state = .idle) : (offsetOpening e slot s).tile t = s.tile t ∧
    TasksOnly s (offsetOpening e slot s) ∧ (offsetOpening e slot s).assured = s.assured := by
  unfold offsetOpening
  split
  · obtain ⟨htile, htasks⟩ := closeIntake_free (cell := e.owner) (slot := slot) h
    exact ⟨(tile_congr (Within.refl.holdSrs.same .tiles (by decide)) t).trans htile,
      htasks.trans (.of_sched (Within.refl.holdSrs.same .sched (by decide))), Within.refl.closeIntake.holdSrs.same .assured (by decide)⟩
  · exact ⟨rfl, .refl, rfl⟩

theorem entryOffset_task {e : CycEntry} {slot : AbsSlot} (hruns : s.tableRuns = true) (he : s.sched.table.bind (·.entries[n]?) = some e)
    (hsince : sinceOffset e s.nowNs < slotNs e.mu) (hkind : e.kind = 0)
    (hslot : s.sched.entrySlot.get none n = none ∨ s.sched.entrySlot.get none n = some slot.toNat) :
    entryOffset n slot s = (tilesOf e.tiles).foldl (loadEntry n e) ((offsetOpening e slot.toNat s).setSched
      { (offsetOpening e slot.toNat s).sched with entrySlot := (offsetOpening e slot.toNat s).sched.entrySlot.set none n (some slot.toNat) }) := by
  unfold entryOffset
  rw [if_pos hruns, he]
  dsimp only
  rw [if_neg (by omega), if_pos ⟨hkind, hslot⟩]
  rfl

theorem entryOffset_loaded {e : CycEntry} {slot : AbsSlot} (he : s.claimEntry n = some e) (ht : t < 96) (hset : e.tiles.getLsbD t = true)
    (hkind : e.kind = 0) (hclaim : s.sched.claims.get none t = some n) (hfree : s.radioFree t = true)
    (hsince : sinceOffset e s.nowNs < slotNs e.mu) (hran : s.sched.ranOn.contains (n, t) = false)
    (hslot : s.sched.entrySlot.get none n = none ∨ s.sched.entrySlot.get none n = some slot.toNat) :
    LoadedFor n t slot.toNat (entryOffset n slot s) := by
  obtain ⟨hruns, he⟩ := claimEntry_some he
  rw [entryOffset_task hruns he hsince hkind hslot]
  obtain ⟨htile, htasks, hlane⟩ := offsetOpening_free (e := e) (slot := slot.toNat) (radioFree_iff.1 hfree).1
  obtain ⟨hclaims, -, hranOn⟩ := tasksOnly_claims htasks
  generalize offsetOpening e slot.toNat s = v at htile hlane hclaims hranOn
  exact loadEntries_loaded ht hset ⟨by rw [← hclaims] at hclaim; exact hclaim, (radioFree_congr (u := v.setSched _) htile hlane).trans hfree,
    by rw [← hranOn] at hran; exact hran, Table.get_set ..⟩

/-! ## The end of a claim -/

theorem toInference_other (h : k ≠ t) : standOf ((toInference n s t).tile k) = standOf (s.tile k) ∧
    (toInference n s t).sched.claims.get none k = s.sched.claims.get none k := by
  unfold toInference
  dsimp only
  split
  · have hclaims : (s.sched.claims.set none t none).get none k = s.sched.claims.get none k := Table.get_set_ne h
    split
    · refine ⟨assignTile_standOf_ne h, ?_⟩
      rw [(tasksOnly_claims .assignTile).1]
      exact hclaims
    · exact ⟨rfl, hclaims⟩
  · exact ⟨rfl, rfl⟩

theorem toInference_tasks : ∃ c, TasksOnly (s.setSched { s.sched with claims := c }) (toInference n s t) := by
  unfold toInference
  dsimp only
  split
  · split
    · exact ⟨_, .assignTile⟩
    · exact ⟨_, .refl⟩
  · exact ⟨_, .refl⟩

theorem toInference_rest : (toInference n s t).sched.entrySlot = s.sched.entrySlot ∧ (toInference n s t).sched.ranOn = s.sched.ranOn ∧
    (toInference n s t).sched.table = s.sched.table ∧ (toInference n s t).time = s.time := by
  obtain ⟨c, hc⟩ := toInference_tasks (n := n) (s := s) (t := t)
  obtain ⟨-, hslots, hran⟩ := tasksOnly_claims hc
  exact ⟨hslots, hran, KeepsTables.toInference.table, Within.refl.toInference.same .time (by decide)⟩

/-- A tile with the entry's claim loses it. -/
theorem toInference_claim (h : s.sched.claims.get none t = some n ∨ s.sched.claims.get none t = none) :
    (toInference n s t).sched.claims.get none t = none := by
  unfold toInference
  dsimp only
  rcases h with h | h
  · rw [if_pos h]
    have hset : (s.sched.claims.set none t none).get none t = none := Table.get_set ..
    split
    · rw [(tasksOnly_claims .assignTile).1]
      exact hset
    · exact hset
  · rw [if_neg (by rw [h]; simp)]
    exact h

/-- What the end of an entry's task reads of a state. -/
structure SameEnd (n : Nat) (e : CycEntry) (s u : State) : Prop where
  slots : u.sched.entrySlot = s.sched.entrySlot
  ran : u.sched.ranOn = s.sched.ranOn
  table : u.sched.table = s.sched.table
  time : u.time = s.time
  tiles : ∀ t ∈ tilesOf e.tiles, standOf (u.tile t) = standOf (s.tile t) ∧ u.sched.claims.get none t = s.sched.claims.get none t

theorem entryEnded_congr {e : CycEntry} (h : SameEnd n e s u) : entryEnded u n e = entryEnded s n e := by
  have hbusy : ∀ t ∈ tilesOf e.tiles, busyOn u n t = busyOn s n t := fun t ht => by
    obtain ⟨hstand, -⟩ := h.tiles t ht
    have hstate : (u.tile t).state = (s.tile t).state := congrArg Prod.fst hstand
    have href : (u.tile t).ref = (s.tile t).ref := congrArg (·.2.2.2) hstand
    rw [busyOn, hstate, href] <;> rfl
  have hnow : u.nowNs = s.nowNs := by rw [State.nowNs, h.time] <;> rfl
  unfold entryEnded
  rw [h.slots, h.ran, hnow]
  congr 1
  rw [Bool.eq_iff_iff, List.all_eq_true, List.all_eq_true]
  exact forall₂_congr fun t ht => by rw [hbusy t ht]

/-- The tiles of an earlier table's entry are not those of the one in force. -/
theorem staleTiles_disjoint {e : CycEntry} (he : (s.sched.table.bind (·.entries[n]?)).filter isTask = some e) (hi : i ∈ staleTiles s n)
    (ht : t ∈ tilesOf e.tiles) : t ≠ i := by
  rintro rfl
  unfold staleTiles at hi
  rw [he] at hi
  obtain ⟨-, hi⟩ := List.mem_filter.1 hi
  rw [(mem_tilesOf.1 ht).2] at hi
  simp at hi

theorem staleTiles_sameEnd {e : CycEntry} (he : (s.sched.table.bind (·.entries[n]?)).filter isTask = some e) :
    SameEnd n e s ((staleTiles s n).foldl (toInference n) s) := by
  refine foldl_keeps (P := SameEnd n e s) ⟨rfl, rfl, rfl, rfl, fun t _ => ⟨rfl, rfl⟩⟩ fun u i hi hu => ?_
  obtain ⟨hslots, hran, htable, htime⟩ := toInference_rest (n := n) (s := u) (t := i)
  refine ⟨hslots.trans hu.slots, hran.trans hu.ran, htable.trans hu.table, htime.trans hu.time, fun t ht => ?_⟩
  obtain ⟨hstand, hclaim⟩ := toInference_other (n := n) (s := u) (staleTiles_disjoint he hi ht)
  exact ⟨hstand.trans (hu.tiles t ht).1, hclaim.trans (hu.tiles t ht).2⟩

/-- The end of an entry's task on all its tiles ends its slot and its claims. -/
theorem claimEnd_ended {e : CycEntry} (he : (s.sched.table.bind (·.entries[n]?)).filter isTask = some e) (hkind : e.kind = 0)
    (hend : entryEnded s n e = true) : (claimEnd n s).sched.entrySlot.get none n = none ∧
      ∀ t ∈ tilesOf e.tiles, s.sched.claims.get none t = some n → (claimEnd n s).sched.claims.get none t = none := by
  have hsame := staleTiles_sameEnd he
  unfold claimEnd
  dsimp only
  generalize (staleTiles s n).foldl (toInference n) s = v at hsame
  rw [hsame.table, he]
  dsimp only
  rw [if_pos ⟨hkind, (entryEnded_congr hsame).trans hend⟩]
  refine ⟨?_, fun t ht hclaim => ?_⟩
  · refine foldl_keeps (P := fun u => u.sched.entrySlot.get none n = none) (Table.get_set ..) fun u i _ hu => ?_
    rw [toInference_rest.1]
    exact hu
  · exact foldl_establishes (P := fun u => u.sched.claims.get none t = some n) (Q := fun u => u.sched.claims.get none t = none)
      (tilesOf_nodup _) ht ((hsame.tiles t ht).2.trans hclaim) (fun u i hi hu => (toInference_other hi.symm).2.trans hu)
      (fun u hu => toInference_claim (.inl hu)) fun u i hi hu => (toInference_other hi.symm).2.trans hu

end

theorem traced_claims {lo hi : Nat} {s u : State} : (traced lo hi s u).sched = u.sched := Within.refl.traced.same .sched (by decide)

/-- Settles O38: each run over the set's tiles establishes its result at a tile and keeps it at the others. -/
theorem tableClaims : Obligations.TableClaims := by
  refine ⟨fun s e x t he hset => ⟨?_, ?_, ?_, ?_⟩, fun s e tb x ht hx hkind hend => ?_⟩
  · exact fun hbefore hheld hoff => gives_of_exec (exec_claimPreWake e s) (preWake_powerOf he t.isLt hset hbefore hheld hoff)
  · intro hbefore hcls hst
    refine gives_of_exec (exec_claimPreemptRequest e s) ?_
    rw [traced_tile, traced_claims]
    exact preempts_claimed he t.isLt hset hbefore hcls hst
  · exact fun hclaim hst hd => gives_of_exec (exec_claimReassign e s) (reassigns_free he t.isLt hset hclaim hst hd)
  · intro hkind hclaim hfree hsince hran slot hslot
    have h := entryOffset_loaded he t.isLt hset hkind hclaim hfree hsince hran hslot
    refine gives_of_exec (exec_claimEntryOffset e slot s) ?_
    rw [traced_tile, traced_claims]
    exact ⟨h.state, h.ref.trans (by rw [Fin.ofNat_val_eq_self]), h.slot⟩
  · have he : (s.sched.table.bind (·.entries[e.val]?)).filter isTask = some x := by
      rw [ht, Option.bind_some, hx]
      exact Option.filter_some_pos (by rw [isTask, hkind]; rfl)
    exact gives_of_exec (exec_claimTaskEnd e s) (claimEnd_ended he hkind hend)

end Sys2Proof.Machine
end

section
/-! PROOFS. The assured lane: signatures and verdicts, slices and segments, windows (17 R367–R381). -/
namespace Sys2Proof.Machine

theorem exec_copySignature (job : Word) (copy : Fin 3) (s : State) : exec (.copySignature job copy) s = .next (copySignature job copy s) := rfl
theorem exec_selftestSliceStart (n : Fin 4096) (s : State) : exec (.selftestSliceStart n) s = .next (sliceStart n.val s) := rfl
theorem exec_selftestSliceEnd (n : Fin 4096) (s : State) : exec (.selftestSliceEnd n) s = .next (sliceEnd n.val s) := rfl
theorem exec_selftestSegmentEnd (t : TileId) (sig : Word) (s : State) : exec (.selftestSegmentEnd t sig) s = .next (segmentEnd t.val sig s) := rfl
theorem exec_fttiWindowEnd (s : State) : exec .fttiWindowEnd s = .next (windowOver s) := rfl

/-- Of the lane only its state, its tiles that are out and the reasons for that change. -/
def LaneOnly (s u : State) : Prop :=
  ∃ st few rem ex, u.assured = { s.assured with state := st, reasonFew := few, reasonRemoved := rem, excl := ex }

section
variable {s u v : State} {job : Word} {g : Graph} {t n : Nat}

theorem record_assured {code : Half} {unit : Nat} {ps : List Nat} : (s.record code unit ps).assured = s.assured :=
  Within.refl.record.same .assured (by decide)

namespace LaneOnly

theorem refl : LaneOnly s s := ⟨_, _, _, _, rfl⟩
theorem of_assured (h : u.assured = s.assured) : LaneOnly s u := ⟨_, _, _, _, h⟩
theorem trans (h : LaneOnly s u) (h' : LaneOnly u v) : LaneOnly s v := by
  obtain ⟨_, _, _, _, h⟩ := h
  obtain ⟨_, _, _, _, h'⟩ := h'
  exact ⟨_, _, _, _, h'.trans (by rw [h])⟩

theorem laneTo {st : LaneState} : LaneOnly s (s.laneTo st) := by
  unfold State.laneTo
  split
  · exact refl
  · refine LaneOnly.trans ?_ (of_assured record_assured)
    exact ⟨_, _, _, _, rfl⟩

theorem laneLoss : LaneOnly s s.laneLoss := by
  unfold State.laneLoss
  split
  · split
    · refine LaneOnly.trans ?_ laneTo
      exact ⟨_, _, _, _, rfl⟩
    · exact laneTo
  · exact refl

theorem tileOut : LaneOnly s (s.tileOut t) := by
  unfold State.tileOut
  split
  · exact refl
  · refine LaneOnly.trans ?_ laneLoss
    refine LaneOnly.trans ?_ (of_assured record_assured)
    exact ⟨_, _, _, _, rfl⟩

theorem foldl {α : Type} {f : State → α → State} (hf : ∀ t x, LaneOnly t (f t x)) (xs : List α) : LaneOnly s (xs.foldl f s) := by
  induction xs generalizing s with
  | nil => exact refl
  | cons x xs ih => exact (hf s x).trans ih

end LaneOnly

theorem laneTo_state {st : LaneState} : (s.laneTo st).assured.state = st := by
  unfold State.laneTo
  split
  · assumption
  · rw [record_assured]
    rfl

/-- A lane that loses a tile goes to DEGRADED, or to SAFE. -/
theorem laneLoss_active (h : s.assured.state = .active) : s.laneLoss.assured.state = .degraded ∨ s.laneLoss.assured.state = .safe := by
  unfold State.laneLoss
  rw [if_pos (.inl h)]
  split
  · exact .inr laneTo_state
  · exact .inl laneTo_state

/-! ## Signatures (17 R371–R375) -/

theorem withhold_countDis {w : Verdict} {o : GraphOutcome} : (s.withhold job w o).assured.countDis = s.assured.countDis := by
  unfold State.withhold
  split
  · rfl
  · split
    · rfl
    · rw [record_assured]
      rfl

theorem abortSegments_countDis : s.abortSegments.assured.countDis = s.assured.countDis := by
  unfold State.abortSegments
  split
  · rfl
  · split
    · rfl
    · split
      · rw [show (State.zeroiseStart _ _ _ _).assured = _ from Within.refl.zeroiseStart.same .assured (by decide)]
        rfl
      · rfl

theorem disagreement_countDis : (s.disagreement g).assured.countDis = bump top32 s.assured.countDis := by
  unfold State.disagreement
  extract_lets sig ts now marks src s1 s2
  have h2 : s2.assured.countDis = bump top32 s.assured.countDis := congrArg Assured.countDis record_assured
  obtain ⟨_, _, _, _, h⟩ := LaneOnly.foldl (s := s2) (f := State.tileOut) (fun _ _ => .tileOut) (ts.filter fun t => decide (3 ≤ (marks.filter (·.1 = t)).length))
  rw [h]
  exact h2

theorem rule_released (hg : s.graph job = some g) (h : s.assured.state = .active ∨ s.assured.state = .degraded) :
    ((s.rule g .released).graph job).map (fun x => (x.outcome, x.verdict, x.degraded)) =
      some (some .done, some .released, s.assured.state == .degraded) := by
  unfold State.rule
  rw [if_pos h, job_of_graph hg]
  have hruled := modGraph_graph_same (s := s) (f := fun g => { g with outcome := some .done, verdict := some .released, degraded := s.assured.state == .degraded })
    (fun _ => rfl) hg
  rw [hruled]
  rfl

/-- A disagreement is counted, whether a third run follows or the result is withheld. -/
theorem compare_differ {c0 c1 : GraphCopy} {a b : List Byte} (hc : g.copies = [c0, c1]) (ha : c0.signature = some a) (hb : c1.signature = some b)
    (hdue : s.deadlineDue g = false) (hab : a ≠ b) : (s.compare g).assured.countDis = bump top32 s.assured.countDis := by
  unfold State.compare
  simp only [hc, ha, hb, hdue]
  rw [if_neg (by simp), if_neg hab]
  split
  · rw [abortSegments_countDis]
    exact disagreement_countDis
  · rw [withhold_countDis]
    exact disagreement_countDis

theorem compare_agree {c0 c1 : GraphCopy} {a : List Byte} (hc : g.copies = [c0, c1]) (ha : c0.signature = some a) (hb : c1.signature = some a)
    (hdue : s.deadlineDue g = false) : s.compare g = s.rule g .released := by
  unfold State.compare
  simp only [hc, ha, hb, hdue]
  rfl

/-- The signature of a copy whose tasks have ended and whose sinks can be read. -/
def signed (s : State) (job : Word) (g : Graph) : State :=
  s.modGraph job fun x => { x with copies := modAt x.copies (1 : Fin 3).val fun c => { c with signature := some (leBytes 4 (crc32c (s.sinkBytes g 1).1).toNat) } }

theorem copySignature_signed {c0 c1 : GraphCopy} (hg : s.graph job = some g) (hcls : g.hdr.cls = 2) (ho : g.outcome = none) (hc : g.copies = [c0, c1])
    (hnew : c1.signature = none) (hdone : c1.tasks.all (·.state == .done) = true) (hread : (s.sinkBytes g 1).2 = false) :
    ∃ x, (signed s job g).graph job = some x ∧ x.copies = [c0, { c1 with signature := some (leBytes 4 (crc32c (s.sinkBytes g 1).1).toNat) }] ∧
      x.hdr = g.hdr ∧ x.submitNs = g.submitNs ∧ copySignature job 1 s = (signed s job g).compare x := by
  have hsigned := modGraph_graph_same (s := s) (f := fun x =>
    { x with copies := modAt x.copies (1 : Fin 3).val fun c => { c with signature := some (leBytes 4 (crc32c (s.sinkBytes g 1).1).toNat) } }) (fun _ => rfl) hg
  refine ⟨_, hsigned, ?_, rfl, rfl, ?_⟩
  · show modAt g.copies (1 : Fin 3).val _ = _
    rw [hc]
    rfl
  · unfold copySignature
    have hc1 : g.copies[(1 : Fin 3).val]? = some c1 := by rw [hc]; rfl
    simp only [hg, hc1]
    rw [if_neg (by simp [hcls, ho, hnew, hdone])]
    simp only [hread, Bool.false_eq_true, if_false]
    split
    · next x hx =>
      cases hx.symm.trans hsigned
      rfl
    · next hx => cases hx.symm.trans hsigned

/-! ## Slices and segments (17 R376–R379) -/

theorem abortSegments_nothing (h : s.readyTasks = []) : s.abortSegments = s := by
  unfold State.abortSegments
  split
  · rfl
  · split
    · rfl
    · rw [h] <;> rfl

theorem readyTasks_congr (h : u.sched = s.sched) : u.readyTasks = s.readyTasks := by rw [State.readyTasks, h] <;> rfl

/-- What lets a tile of a slice start its next segment. -/
structure Startable (seg t : Nat) (tiles : BitVec 96) (s : State) : Prop where
  slice : s.assured.slice = tiles
  next : s.assured.nextSeg.get 0 t = seg
  running : s.assured.running.get none t = none
  power : s.powerOf t = .on
  idle : (s.tile t).state = .idle
  before : s.beforeClaim t (segmentNs seg) = true

theorem beforeClaim_congr (hsched : u.sched = s.sched) (htime : u.time = s.time) (t len : Nat) : u.beforeClaim t len = s.beforeClaim t len := by
  rw [State.beforeClaim, State.nowNs, hsched, htime] <;> rfl

theorem wakeTile_sched : (s.wakeTile n).sched = s.sched := Within.refl.wakeTile.same .sched (by decide)
theorem wakeTile_time : (s.wakeTile n).time = s.time := Within.refl.wakeTile.same .time (by decide)
theorem wakeTile_assured : (s.wakeTile n).assured = s.assured := Within.refl.wakeTile.same .assured (by decide)

theorem wakeDomain_on (h : s.powerOf n = .on) (k : Nat) : (s.wakeDomain k).powerOf n = .on := by
  by_cases hk : n = k
  · subst hk
    unfold State.wakeDomain
    simp only [h]
    split <;> exact h
  · exact (wakeDomain_powerOf_ne hk).trans h

theorem wakeTile_on (h : s.powerOf t = .on) : (s.wakeTile n).powerOf t = .on := by
  unfold State.wakeTile
  split
  · exact h
  · exact wakeDomain_on (wakeDomain_on h _) _

theorem Startable.wake {seg : Nat} {tiles : BitVec 96} (h : Startable seg t tiles s) : Startable seg t tiles (s.wakeTile n) where
  slice := (congrArg Assured.slice wakeTile_assured).trans h.slice
  next := by rw [wakeTile_assured]; exact h.next
  running := by rw [wakeTile_assured]; exact h.running
  power := wakeTile_on h.power
  idle := by rw [wakeTile_tile]; exact h.idle
  before := (beforeClaim_congr wakeTile_sched wakeTile_time ..).trans h.before

/-- A tile of the slice starts its segment. -/
theorem startSegment_starts {seg : Nat} {tiles : BitVec 96} (h : Startable seg t tiles s) (ht : tiles.getLsbD t = true) :
    (s.startSegment t).assured = { s.assured with running := s.assured.running.set none t (some seg) } := by
  unfold State.startSegment
  dsimp only
  rw [h.next, if_pos ⟨by rw [h.slice]; exact ht, h.power, h.idle, by rw [h.running]; rfl, h.before⟩]
  rfl

/-- Another tile's segment leaves this one's. -/
theorem startSegment_ne (hn : t ≠ n) : ∃ r, (s.startSegment n).assured = { s.assured with running := r } ∧ r.get none t = s.assured.running.get none t := by
  unfold State.startSegment
  dsimp only
  split
  · exact ⟨_, rfl, Table.get_set_ne hn⟩
  · exact ⟨_, rfl, rfl⟩

theorem startSegment_rest : (s.startSegment n).sched = s.sched ∧ (s.startSegment n).time = s.time ∧ (s.startSegment n).tiles = s.tiles ∧
    (s.startSegment n).power = s.power := by
  unfold State.startSegment
  dsimp only
  split <;> exact ⟨rfl, rfl, rfl, rfl⟩

theorem powerOf_congr (h : u.power = s.power) (d : Nat) : u.powerOf d = s.powerOf d := by rw [State.powerOf, h] <;> rfl

theorem Startable.start_ne {seg : Nat} {tiles : BitVec 96} (h : Startable seg t tiles s) (hn : t ≠ n) : Startable seg t tiles (s.startSegment n) := by
  obtain ⟨r, hr, hrun⟩ := startSegment_ne (s := s) hn
  obtain ⟨hsched, htime, htiles, hpower⟩ := startSegment_rest (s := s) (n := n)
  exact ⟨by rw [hr]; exact h.slice, by rw [hr]; exact h.next, by rw [hr]; exact hrun.trans h.running, (powerOf_congr hpower t).trans h.power,
    by rw [tile_congr htiles]; exact h.idle, (beforeClaim_congr hsched htime ..).trans h.before⟩

/-- The tiles of a slice, each woken and started. -/
def startSlice (tiles : BitVec 96) (s : State) : State :=
  (tilesOf tiles).foldl (fun s t => (s.wakeTile t).startSegment t) (s.setAssured { s.assured with slice := s.assured.slice ||| tiles })

theorem startSlice_sched (tiles : BitVec 96) (s : State) : (startSlice tiles s).sched = s.sched :=
  foldl_keeps (P := fun u => u.sched = s.sched) rfl fun u i _ hu => startSegment_rest.1.trans (wakeTile_sched.trans hu)

theorem startSegment_slice : (s.startSegment n).assured.slice = s.assured.slice := by
  unfold State.startSegment
  dsimp only
  split <;> rfl

theorem startSlice_slice (tiles : BitVec 96) (s : State) : (startSlice tiles s).assured.slice = s.assured.slice ||| tiles :=
  foldl_keeps (P := fun u => u.assured.slice = s.assured.slice ||| tiles) rfl fun u i _ hu =>
    startSegment_slice.trans ((congrArg Assured.slice wakeTile_assured).trans hu)

theorem startSlice_runs {tiles : BitVec 96} (ht : t < 96) (hset : tiles.getLsbD t = true) (hon : s.powerOf t = .on) (hidle : (s.tile t).state = .idle)
    (hrun : s.assured.running.get none t = none) (hbefore : s.beforeClaim t (segmentNs (s.assured.nextSeg.get 0 t)) = true) :
    (startSlice tiles s).assured.running.get none t = some (s.assured.nextSeg.get 0 t) := by
  refine foldl_establishes (P := Startable (s.assured.nextSeg.get 0 t) t (s.assured.slice ||| tiles))
    (Q := fun u => u.assured.running.get none t = some (s.assured.nextSeg.get 0 t)) (tilesOf_nodup _) (mem_tilesOf.2 ⟨ht, hset⟩)
    ⟨rfl, rfl, hrun, hon, hidle, hbefore⟩ (fun u i hi hu => hu.wake.start_ne hi.symm) (fun u hu => ?_) fun u i hi hu => ?_
  · rw [startSegment_starts hu.wake (by rw [BitVec.getLsbD_or, hset, Bool.or_true])]
    exact Table.get_set ..
  · obtain ⟨r, hr, hrun⟩ := startSegment_ne (s := u.wakeTile i) hi.symm
    rw [hr]
    exact hrun.trans ((congrArg (fun a => a.running.get none t) wakeTile_assured).trans hu)

theorem sliceStart_begins {x : CycEntry} (hx : s.sched.table.bind (·.entries[n]?) = some x) (hkind : x.kind = 2) (hruns : s.tableRuns = true)
    (hsince : sinceOffset x s.nowNs < x.deadlineNs) (hready : s.readyTasks = []) : sliceStart n s = startSlice x.tiles s := by
  unfold sliceStart
  simp only [hx]
  rw [if_neg (by simp [hkind, hruns]; omega)]
  exact abortSegments_nothing ((readyTasks_congr (startSlice_sched x.tiles s)).trans hready)

theorem sliceEnd_ends {x : CycEntry} (hx : s.sched.table.bind (·.entries[n]?) = some x) (hkind : x.kind = 2)
    (hsince : x.deadlineNs ≤ sinceOffset x s.nowNs) (hready : s.readyTasks = []) :
    sliceEnd n s = s.setAssured { s.assured with slice := s.assured.slice &&& ~~~x.tiles } := by
  unfold sliceEnd
  simp only [hx]
  rw [if_neg (by simp [hkind]; omega)]
  exact abortSegments_nothing ((readyTasks_congr rfl).trans hready)

theorem getLsbD_bit {t : Nat} (ht : t < 96) : (BitVec.ofNat 96 (2 ^ t)).getLsbD t = true := by
  rw [BitVec.getLsbD_ofNat, Nat.testBit_two_pow_self, decide_eq_true ht]
  rfl

/-- A tile that is removed is out. -/
theorem tileOut_excl (ht : t < 96) : (s.tileOut t).assured.excl.getLsbD t = true := by
  unfold State.tileOut
  split
  · assumption
  · generalize hv : State.record _ _ _ _ = v
    have hv : v.assured.excl = s.assured.excl ||| BitVec.ofNat 96 (2 ^ t) := by
      rw [← hv, record_assured]
      rfl
    have hloss : v.laneLoss.assured.excl = v.assured.excl := by
      have hto : ∀ (w : State) st, (w.laneTo st).assured.excl = w.assured.excl := fun w st => by
        unfold State.laneTo
        split
        · rfl
        · rw [record_assured]
          rfl
      unfold State.laneLoss
      split
      · split
        · exact hto _ _
        · exact hto _ _
      · rfl
    rw [hloss, hv, BitVec.getLsbD_or, getLsbD_bit ht, Bool.or_true]

theorem contains_added {a : Nat × Nat} {l : List (Nat × Nat)} : (if l.contains a then l else l ++ [a]).contains a = true := by
  split
  · assumption
  · simp

theorem segmentEnd_passed {seg : Nat} {sig : Word} (hrun : s.assured.running.get none t = some seg)
    (hsig : s.host.bundle.bind (·.segSigs[seg]?) = some sig) :
    (segmentEnd t sig s).assured.running.get none t = none ∧ (segmentEnd t sig s).assured.passed.contains (t, seg) = true ∧
      (segmentEnd t sig s).assured.nextSeg.get 0 t = (seg + 1) % 4 ∧ (segmentEnd t sig s).assured.excl = s.assured.excl := by
  unfold segmentEnd
  simp only [hrun]
  rw [if_pos hsig]
  exact ⟨Table.get_set .., contains_added, Table.get_set .., rfl⟩

theorem segmentEnd_failed {seg : Nat} {sig : Word} (ht : t < 96) (hrun : s.assured.running.get none t = some seg)
    (hsig : s.host.bundle.bind (·.segSigs[seg]?) ≠ some sig) :
    (segmentEnd t sig s).assured.running.get none t = none ∧ (segmentEnd t sig s).assured.excl.getLsbD t = true ∧
      (segmentEnd t sig s).assured.passed = s.assured.passed := by
  unfold segmentEnd
  simp only [hrun]
  rw [if_neg hsig]
  generalize hv : State.record _ _ _ _ = v
  have hv : v.assured.running.get none t = none ∧ v.assured.passed = s.assured.passed := by
    rw [← hv, record_assured]
    exact ⟨Table.get_set .., rfl⟩
  refine ⟨?_, tileOut_excl ht, ?_⟩
  all_goals
    obtain ⟨_, _, _, _, h⟩ := LaneOnly.tileOut (s := v) (t := t)
    rw [h]
  · exact hv.1
  · exact hv.2

/-! ## Windows (17 R367, R377) -/

/-- What a window's end sets, whatever becomes of the lane's state. -/
theorem windowOver_next (hen : s.assured.enable = true) (hend : s.assured.windowEnd ≤ s.frameNow) :
    (windowOver s).assured.windows = s.assured.windows + 1 ∧ (windowOver s).assured.passed = [] ∧
      (windowOver s).assured.fttiFrames = s.assured.fttiNext ∧ (windowOver s).assured.windowEnd = s.assured.windowEnd + s.assured.fttiNext ∧
      (s.assured.state = .active → (∃ t : TileId, s.assured.excl.getLsbD t.val = false ∧ covered s.assured t.val = false) →
        (windowOver s).assured.state = .degraded ∨ (windowOver s).assured.state = .safe) := by
  unfold windowOver
  extract_lets a missing untested all s1 s2
  rw [if_neg (by simp [show a.enable = true from hen]; omega)]
  have hs2 : s2.assured = s1.assured := (Within.refl.foldl fun _ _ => Within.refl.record).same .assured (by decide)
  have hwindow : ∀ u, LaneOnly s2 u → (a.state = .active → all = false → u.assured.state = .degraded ∨ u.assured.state = .safe) →
      u.assured.windows = s.assured.windows + 1 ∧ u.assured.passed = [] ∧ u.assured.fttiFrames = s.assured.fttiNext ∧
      u.assured.windowEnd = s.assured.windowEnd + s.assured.fttiNext ∧
      (s.assured.state = .active → (∃ t : TileId, s.assured.excl.getLsbD t.val = false ∧ covered s.assured t.val = false) →
        u.assured.state = .degraded ∨ u.assured.state = .safe) := fun u hu hlane => by
    have hall : (∃ t : TileId, s.assured.excl.getLsbD t.val = false ∧ covered s.assured t.val = false) → all = false := by
      rintro ⟨t, hin, hout⟩
      have hmem : t.val ∈ missing := List.mem_filter.2 ⟨List.mem_range.2 t.isLt, by rw [show a.excl.getLsbD t.val = false from hin, show covered a t.val = false from hout]; rfl⟩
      exact List.isEmpty_eq_false_iff.2 (List.ne_nil_of_mem hmem)
    obtain ⟨_, _, _, _, h⟩ := hu
    refine ⟨?_, ?_, ?_, ?_, fun hact hex => hlane hact (hall hex)⟩
    all_goals
      rw [h, hs2]
      rfl
  split
  · next hoff =>
    split
    · exact hwindow _ .laneTo fun hact => nomatch hoff.symm.trans hact
    · exact hwindow _ .refl fun hact => nomatch hoff.symm.trans hact
  · next hact =>
    split
    · next hall => exact hwindow _ .refl fun _ hnot => absurd hall (by rw [hnot]; simp)
    · exact hwindow _ .laneLoss fun _ _ => laneLoss_active ((congrArg Assured.state hs2).trans hact)
  · next hdeg =>
    split
    · exact hwindow _ .laneTo fun hact => nomatch hdeg.symm.trans hact
    · exact hwindow _ .laneLoss fun hact => nomatch hdeg.symm.trans hact
  · next hsafe => exact hwindow _ .refl fun hact => nomatch hsafe.symm.trans hact

end

/-- Settles O39: signatures are compared once both stand, segments start and end tile by tile, a window's end begins the next. -/
theorem assuredLane : Obligations.AssuredLane := by
  refine ⟨?_, fun s n x hx hkind hready => ⟨?_, ?_⟩, fun s t seg sig hrun => ⟨?_, ?_⟩, ?_⟩
  · intro s job g c0 c1 a hg hcls ho hc ha hnew hdone hread hdue b
    obtain ⟨x, hx, hxc, hxh, hxs, hsign⟩ := copySignature_signed hg hcls ho hc hnew hdone hread
    have hxdue : (signed s job g).deadlineDue x = false := by
      rw [State.deadlineDue, hxh, hxs]
      exact hdue
    refine ⟨fun hab hst => ?_, fun hab => ?_⟩
    · refine gives_of_exec (exec_copySignature job 1 s) ?_
      rw [hsign, compare_agree hxc ha (congrArg some hab.symm) hxdue, ← job_of_graph hx]
      exact rule_released ((job_of_graph hx).symm ▸ hx) hst
    · refine gives_of_exec (exec_copySignature job 1 s) ?_
      rw [hsign]
      exact compare_differ hxc ha rfl hxdue hab
  · intro hruns hsince
    refine gives_of_exec (exec_selftestSliceStart n s) ?_
    rw [sliceStart_begins hx hkind hruns hsince hready]
    exact ⟨startSlice_slice x.tiles s, fun t hset hon hidle hrun hbefore => startSlice_runs t.isLt hset hon hidle hrun hbefore⟩
  · intro hsince
    refine gives_of_exec (exec_selftestSliceEnd n s) ?_
    rw [sliceEnd_ends hx hkind hsince hready]
    rfl
  · exact fun hsig => gives_of_exec (exec_selftestSegmentEnd t sig s) (segmentEnd_passed hrun hsig)
  · exact fun hsig => gives_of_exec (exec_selftestSegmentEnd t sig s) (segmentEnd_failed t.isLt hrun hsig)
  · exact fun s hen hend => gives_of_exec (exec_fttiWindowEnd s) (windowOver_next hen hend)

end Sys2Proof.Machine
end

section
/-! PROOFS. Recording and replay (16 R358–R365). -/
namespace Sys2Proof.Machine

theorem exec_recordConfig (h : QcpHdr) (b n : Dword × Dword × Dword) (s : State) :
    exec (.recordConfig h b n) s = .next (serve s h recordRow (recordConfigBody b n)) := rfl
theorem exec_recordStart (h : QcpHdr) (slot : AbsSlot) (s : State) :
    exec (.recordStart h slot) s = .next (serve s h recordRow (recordStartBody slot)) := rfl
theorem exec_recordStop (h : QcpHdr) (s : State) : exec (.recordStop h) s = .next (serve s h recordRow recordStopBody) := rfl
theorem exec_recordSave (h : QcpHdr) (ring : Byte) (addr : Dword) (s : State) :
    exec (.recordSave h ring addr) s = .next (serve s h recordRow (recordSaveBody ring.toNat addr.toNat)) := rfl
theorem exec_recordLoad (h : QcpHdr) (ring : Byte) (addr : Dword) (s : State) :
    exec (.recordLoad h ring addr) s = .next (serve s h recordRow (recordLoadBody ring.toNat addr.toNat)) := rfl
theorem exec_replayStart (h : QcpHdr) (b : Dword × Dword × Dword) (s : State) :
    exec (.replayStart h b) s = .next (serve s h recordRow (replayStartBody b)) := rfl
theorem exec_replayStatus (h : QcpHdr) (s : State) :
    exec (.replayStatus h) s = .next (serve s h { recordRow with role := .read, reads := true } replayStatusBody) := rfl

/-- REPLAY_STOP ends a replay that runs. -/
def replayStopBody (s : State) : State × Answer := if s.replaying then (s.replayEnd, .ok) else (s, .err Code.badState)

theorem exec_replayStop (h : QcpHdr) (s : State) : exec (.replayStop h) s = .next (serve s h { recordRow with reads := true } replayStopBody) := rfl
theorem exec_replayEntryDeliver (s : State) : exec .replayEntryDeliver s = .next (replayDeliver s) := rfl

section
variable {s : State} {b n : Dword × Dword × Dword} {r : Replay}

/-! ## Rings -/

/-- A ring that is named stands empty. -/
def emptyRing (base size : Dword) : Ring := { base := base.toNat, size := size.toNat, used := 0, count := 0 }

theorem recordConfigBody_good (hon : s.capture.on = false) (hr : s.ringOk .radio b.1.toNat n.1.toNat = true)
    (hi : s.ringOk .inference b.2.1.toNat n.2.1.toNat = true) (hm : s.ringOk .management b.2.2.toNat n.2.2.toNat = true) :
    recordConfigBody b n s = (s.setCapture { s.capture with
      rings := [emptyRing b.1 n.1, emptyRing b.2.1 n.2.1, emptyRing b.2.2 n.2.2], armed := none, full := false }, .now Code.ok .empty) := by
  unfold recordConfigBody
  simp only [hon, hr, hi, hm]
  rfl

theorem recordStartBody_good {slot : AbsSlot} (hl : s.capture.rings.length = 3) (hon : s.capture.on = false) :
    recordStartBody slot s = (s.setCapture { s.capture with armed := some slot }, .now Code.ok .empty) := by
  unfold recordStartBody
  rw [if_neg (by simp [hl, hon])]
  rfl

theorem rings_ready {k : Nat} (hk : k ≤ 2) (hl : s.capture.rings.length = 3) (hon : s.capture.on = false) :
    ¬2 < k ∧ ¬(s.capture.rings.length ≠ 3 ∨ s.capture.on = true) := by
  refine ⟨by omega, ?_⟩
  simp [hl, hon]

theorem recordSaveBody_good {k a : Nat} (hk : k ≤ 2) (hl : s.capture.rings.length = 3) (hon : s.capture.on = false)
    (hr : s.extRange a (48 + (s.ring k).used) = true) (hd : s.domainOk .management a (48 + (s.ring k).used) = true) :
    recordSaveBody k a s = ((s.sealBlob 2 (s.extRead (s.ring k).base (s.ring k).used)).2.extWrite a
      (s.sealBlob 2 (s.extRead (s.ring k).base (s.ring k).used)).1, .now Code.ok (.nums [48 + (s.ring k).used])) := by
  obtain ⟨hrange, hready⟩ := rings_ready hk hl hon
  have hsize : 32 + (s.ring k).used + 16 = 48 + (s.ring k).used := by omega
  unfold recordSaveBody
  dsimp only
  rw [if_neg hrange, if_neg hready, hsize, if_pos ⟨hr, hd⟩]

/-- What a blob that is opened puts into its ring. -/
def ringLoaded (k : Nat) (bs : List Byte) (s : State) : State :=
  (s.extWrite (s.ring k).base bs).setCapture { (s.extWrite (s.ring k).base bs).capture with
    rings := setAt (s.extWrite (s.ring k).base bs).capture.rings k
      { s.ring k with used := bs.length, count := (entriesOf bs.length bs).length } }

theorem ringLoaded_ring {k : Nat} {bs : List Byte} (hk : k ≤ 2) (hl : s.capture.rings.length = 3) :
    (ringLoaded k bs s).ring k = { s.ring k with used := bs.length, count := (entriesOf bs.length bs).length } := by
  have hcap : (s.extWrite (s.ring k).base bs).capture = s.capture := Within.refl.extWrite.same .capture (by decide)
  unfold State.ring ringLoaded
  rw [State.setCapture_capture]
  dsimp only
  rw [hcap, setAt, List.getD_eq_getElem?_getD, List.getElem?_set_self (by omega)] <;> rfl

section
variable {k a : Nat} (hk : k ≤ 2) (hl : s.capture.rings.length = 3) (hon : s.capture.on = false) (hhead : s.extRange a 32 = true)
  (hr : s.extRange a (48 + s.extNat (a + 8) 8) = true) (hd : s.domainOk .management a (48 + s.extNat (a + 8) 8) = true)
include hk hl hon hhead hr hd

theorem recordLoadBody_good {bs : List Byte} (hopen : s.openBlob 2 a = some bs) (hsize : bs.length ≤ (s.ring k).size) :
    recordLoadBody k a s = (ringLoaded k bs s, .now Code.ok .empty) := by
  obtain ⟨hrange, hready⟩ := rings_ready hk hl hon
  unfold recordLoadBody
  dsimp only
  rw [if_neg hrange, if_neg hready, if_neg (by simp [hhead, hr, hd])]
  simp only [hopen]
  exact if_neg (by omega)

theorem recordLoadBody_foreign (hopen : s.openBlob 2 a = none) : recordLoadBody k a s = (s, .now Code.authFail .empty) := by
  obtain ⟨hrange, hready⟩ := rings_ready hk hl hon
  unfold recordLoadBody
  dsimp only
  rw [if_neg hrange, if_neg hready, if_neg (by simp [hhead, hr, hd])]
  simp only [hopen]
  rfl

end

/-! ## Replays -/

/-- The replay that a start marker opens: the recorded entries in order, and the state to come back to. -/
def replayOf (m : CapEntry) (s : State) : Replay :=
  { left := sortEntries (((upTo 3).map s.ringEntries).flatten.filter (·.kind ≠ 5)), started := false, current := none, versions := [],
    origin := entryTime m, digest := 0, frames := 0, recDigest := 0, recFrames := 0, savedNow := 0, savedMode := 0, radio := s.radio, sweep := s.sweep
    adapt := s.adapt, sched := s.sched, assured := s.assured, crossing := s.sec.crossing }

theorem replayStartBody_good {m : CapEntry} (hm : s.startMarker = some m) (hnamed : s.capture.rings.map (·.base) = [b.1.toNat, b.2.1.toNat, b.2.2.toNat])
    (hoff : s.allOff = true) (hon : s.capture.on = false) : replayStartBody b s =
      (s.setCapture { s.capture with replay := some (replayOf m s), armed := none }, .now Code.ok .empty) := by
  unfold replayStartBody
  simp only [hm, hnamed, hoff, hon]
  rw [if_neg (by simp)]
  rfl

theorem replayStatusBody_runs (h : s.capture.replay = some r) :
    replayStatusBody s = (s, .now Code.ok (.nums [1, r.digest, r.frames, r.recDigest, r.recFrames])) := by
  unfold replayStatusBody
  rw [h] <;> rfl

theorem replayStopBody_runs (h : s.capture.replay ≠ none) : replayStopBody s = (s.replayEnd, .now Code.ok .empty) := by
  unfold replayStopBody State.replaying
  rw [if_pos (Option.isSome_iff_ne_none.2 h)]
  rfl

/-- The device at the end of a replay: its own time, as it would have gone on, and the outcome to be read. -/
theorem replayEnd_spec (h : s.capture.replay = some r) (hstarted : r.started = true) :
    s.replayEnd.capture.replay = none ∧ s.replayEnd.time.now = r.savedNow + (s.time.now - r.origin) ∧ s.replayEnd.time.mode = r.savedMode ∧
      s.replayEnd.capture.lastReplay = some (r.digest, r.frames, r.recDigest, r.recFrames) := by
  unfold State.replayEnd
  simp only [h, hstarted]
  generalize hv : State.setCapture _ _ = v
  have htime : v.radioPower.time = v.time := Within.refl.radioPower.same .time (by decide)
  have hcapture : v.radioPower.capture = v.capture := Within.refl.radioPower.same .capture (by decide)
  rw [htime, hcapture, ← hv]
  exact ⟨rfl, rfl, rfl, rfl⟩

theorem replayDeliver_due {e : CapEntry} {rest : List CapEntry} (h : s.capture.replay = some r) (hl : r.left = e :: rest)
    (hs : r.started = true) (hdue : entryTime e ≤ s.time.now) : replayDeliver s =
      if e.kind = 4 then s.setCapture { s.capture with replay := some { r with
        left := rest, current := none, versions := (leNat ((e.payload.drop 0).take 1), BitVec.ofNat 32 (leNat ((e.payload.drop 4).take 4))) ::
          r.versions.filter (·.1 ≠ leNat ((e.payload.drop 0).take 1)) } }
      else if e.kind = 6 then (s.setCapture { s.capture with replay := some { r with
        left := rest, current := none, recDigest := leNat ((e.payload.drop 24).take 32), recFrames := leNat ((e.payload.drop 56).take 8) } }).replayEnd
      else s.setCapture { s.capture with replay := some { r with left := rest, current := some e } } := by
  unfold replayDeliver
  simp only [h, hl]
  rw [if_neg (by simp [hs]; omega)]

theorem replayDeliver_early {e : CapEntry} {rest : List CapEntry} (h : s.capture.replay = some r) (hl : r.left = e :: rest)
    (hdue : s.time.now < entryTime e) : replayDeliver s = s := by
  unfold replayDeliver
  simp only [h, hl]
  rw [if_pos (.inr hdue)]

end

/-- Settles O40: requests by the checks of their bodies, the delivery of an entry by its kind. -/
theorem recording : Obligations.Recording := by
  refine ⟨⟨fun h b n => ?_, fun h slot => ?_, fun h => ?_, fun h ring addr hk => ?_, fun h ring addr bs hk => ?_, fun h ring addr hk => ?_⟩,
    fun h b m => ?_, fun h b => ?_, fun h r => ?_, fun h => ?_, ?_, ?_⟩
  · exact serves_of_body (exec_recordConfig h b n) fun s ⟨hon, hr, hi, hm⟩ => recordConfigBody_good hon hr hi hm
  · exact serves_of_body (exec_recordStart h slot) fun s ⟨hl, hon⟩ => recordStartBody_good hl hon
  · exact serves_of_body (exec_recordStop h) fun s _ => rfl
  · exact serves_of_body (exec_recordSave h ring addr) fun s ⟨hl, hon, hr, hd⟩ => recordSaveBody_good hk hl hon hr hd
  · refine answers_of_body (exec_recordLoad h ring addr) fun s ⟨hl, hon, hhead, hr, hd, hopen, hsize⟩ => ⟨ringLoaded ring.toNat bs s, ?_, ?_⟩
    · rw [ringLoaded_ring hk hl]
      exact ⟨rfl, rfl, rfl⟩
    · exact recordLoadBody_good hk hl hon hhead hr hd hopen hsize
  · exact refuses_of_body (exec_recordLoad h ring addr) (by decide) fun s ⟨hl, hon, hhead, hr, hd, hopen⟩ =>
      recordLoadBody_foreign hk hl hon hhead hr hd hopen
  · exact answers_of_body (exec_replayStart h b) fun s ⟨hm, hnamed, hoff, hon⟩ =>
      ⟨_, ⟨replayOf m s, rfl, rfl, rfl, rfl, rfl, rfl, rfl⟩, replayStartBody_good hm hnamed hoff hon⟩
  · refine refuses_of_body (exec_replayStart h b) (by decide) fun s hm => ?_
    unfold replayStartBody
    simp only [hm]
    rfl
  · exact serves_of_body (exec_replayStatus h) fun s hr => replayStatusBody_runs hr
  · exact serves_of_body (exec_replayStop h) fun s hr => replayStopBody_runs hr
  · intro s r e rest hr hl hs hdue
    refine ⟨fun h4 h6 => ?_, fun h4 => ?_, fun h6 => ?_⟩
    · rw [exec_replayEntryDeliver, replayDeliver_due hr hl hs hdue, if_neg h4, if_neg h6]
    · refine gives_of_exec (exec_replayEntryDeliver s) ?_
      rw [replayDeliver_due hr hl hs hdue, if_pos h4]
      exact ⟨_, rfl, rfl, rfl, rfl⟩
    · refine gives_of_exec (exec_replayEntryDeliver s) ?_
      rw [replayDeliver_due hr hl hs hdue, if_neg (by omega), if_pos h6]
      exact replayEnd_spec (s := s.setCapture _) (r := { r with
        left := rest, current := none, recDigest := leNat ((e.payload.drop 24).take 32), recFrames := leNat ((e.payload.drop 56).take 8) }) rfl hs
  · intro s r e rest hr hl hearly
    rw [exec_replayEntryDeliver, replayDeliver_early hr hl hearly]

end Sys2Proof.Machine
end

section
/-! PROOFS. The dike crossing's record and periods (18 R388, R389). -/
namespace Sys2Proof.Machine

theorem exec_crossingConfig (h : QcpHdr) (r : CrossRec) (s : State) :
    exec (.crossingConfig h r) s = .next (serve s h { role := .admin, legal := [.running] } (crossConfigBody r)) := rfl
theorem exec_crossingPeriodEnd (s : State) : exec .crossingPeriodEnd s = .next (crossPeriod s) := rfl

section
variable {s : State} {c : CrossCfg} {partial' : Bool}

/-- A record takes one index. -/
theorem crossWrite_spec (r : Nat × Nat × CrossCount × List Byte) :
    (crossWrite c partial' s r).sec.crossing = { s.sec.crossing with write := s.sec.crossing.write + 1 } ∧
      (crossWrite c partial' s r).time = s.time := by
  have hsec : ∀ (u : State) a bs, (u.extWrite a bs).sec = u.sec := fun u a bs => Within.refl.extWrite.same .sec (by decide)
  refine ⟨?_, Within.refl.crossWrite.same .time (by decide)⟩
  unfold crossWrite
  dsimp only
  rw [State.setCrossing, State.setSec_sec]
  dsimp only
  rw [hsec, hsec]

theorem crossWrites_spec (rs : List (Nat × Nat × CrossCount × List Byte)) (s : State) :
    (rs.foldl (crossWrite c partial') s).sec.crossing = { s.sec.crossing with write := s.sec.crossing.write + rs.length } ∧
      (rs.foldl (crossWrite c partial') s).time = s.time := by
  induction rs generalizing s with
  | nil => exact ⟨rfl, rfl⟩
  | cons r rs ih =>
    obtain ⟨hx, ht⟩ := crossWrite_spec (s := s) (c := c) (partial' := partial') r
    obtain ⟨hxs, hts⟩ := ih (crossWrite c partial' s r)
    refine ⟨hxs.trans ?_, hts.trans ht⟩
    rw [hx, List.length_cons]
    dsimp only
    rw [show s.sec.crossing.write + 1 + rs.length = s.sec.crossing.write + (rs.length + 1) by omega]

/-- The end of a period: one record for each unit of the masks, and counts that start over. -/
theorem crossEnd_running (hc : s.sec.crossing.cfg = some c) (hr : s.sec.crossing.running = true) :
    (crossEnd partial' s).sec.crossing = { s.sec.crossing with
      write := s.sec.crossing.write + (((upTo 8).filter fun i => c.kinds.getLsbD 0 && c.cells.getLsbD i).length +
        ((upTo 4).filter fun i => c.kinds.getLsbD 1 && c.channels.getLsbD i).length)
      cells := .empty, chans := .empty, startNs := s.nowNs } := by
  unfold crossEnd
  extract_lets x period
  split
  · next h => cases hc.symm.trans h
  · next c' h =>
    cases hc.symm.trans h
    rw [if_neg (by rw [show x.running = true from hr]; decide)]
    extract_lets cells chans s1 src1
    obtain ⟨hx, ht⟩ := crossWrites_spec (c := c) (partial' := partial') (cells ++ chans) s
    rw [State.setCrossing, State.setSec_sec]
    dsimp only
    rw [show src1 = _ from hx, List.length_append, List.length_map, List.length_map]

theorem crossCut_running (s : State) : (crossCut s).sec.crossing.running = false := rfl

/-- A good record in a region of the inference domain. -/
theorem crossConfigBody_good {r : CrossRec} (ha : aligned 0x10000 r.ringBase.toNat = true) (hn : 1024 ≤ r.records.toNat)
    (hn' : r.records.toNat ≤ 1048576) (hp : 100 ≤ r.periodMs.toNat) (hp' : r.periodMs.toNat ≤ 60000) (hp100 : r.periodMs.toNat % 100 = 0)
    (hk : r.kinds.toNat ≤ 3) (hch : r.channels.toNat ≤ 15) (hmin : 8 ≤ r.minCount.toNat)
    (hrange : s.extRange r.ringBase.toNat (64 + 64 * r.records.toNat) = true)
    (hregion : s.inRegion .inference r.ringBase.toNat (64 + 64 * r.records.toNat) = true) :
    crossConfigBody r s = ((crossCut s).setCrossing { (crossCut s).sec.crossing with
      cells := .empty, chans := .empty, write := 0
      cfg := some { ringBase := r.ringBase.toNat, records := r.records.toNat, periodMs := r.periodMs.toNat, kinds := r.kinds.setWidth 2, cells := r.cells
                    channels := r.channels.setWidth 4, minCount := r.minCount.toNat } }, .now Code.ok .empty) := by
  have haligned : aligned 100 r.periodMs.toNat = true := by rw [aligned, hp100] <;> rfl
  unfold crossConfigBody
  dsimp only
  rw [if_neg (by simp only [ha, haligned, Bool.not_true, Bool.false_eq_true, false_or]; omega), if_neg (by simp [hrange, hregion])]
  rfl

end

/-- Settles O41: a period's end by the records of its masks. -/
theorem crossings : Obligations.Crossings := by
  refine ⟨fun h r ha hn hn' hp hp' hp100 hk hch hmin => ?_, fun s c hc hr hdue => ?_⟩
  · exact answers_of_body (exec_crossingConfig h r) fun s ⟨hrange, hregion⟩ =>
      ⟨_, ⟨rfl, rfl, rfl, rfl⟩, crossConfigBody_good ha hn hn' hp hp' hp100 hk hch hmin hrange hregion⟩
  · refine gives_of_exec (exec_crossingPeriodEnd s) ?_
    unfold crossPeriod
    simp only [hc]
    rw [if_pos ⟨hr, hdue⟩, crossEnd_running hc hr]
    exact ⟨rfl, rfl, rfl, hr, (Nat.add_assoc ..).symm⟩

end Sys2Proof.Machine
end

section
/-! PROOFS. Array links: shape, admission, flits, retraining, time and reset (15 R336–R350). -/
namespace Sys2Proof.Machine

theorem exec_arrayConfig (h : QcpHdr) (nx ny x y master : Byte) (s : State) : exec (.arrayConfig h nx ny x y master) s =
    .next (serve s h { role := .admin, legal := [.started] } (arrayConfigBody nx.toNat ny.toNat x.toNat y.toNat master.toNat)) := rfl
theorem exec_linkAdmission (k : Fin 4) (i : LinkIdentity) (s : State) : exec (.linkAdmission k i) s = .next (linkAdmit k.val i s) := rfl
theorem exec_linkAdmitTimeout (k : Fin 4) (s : State) : exec (.linkAdmitTimeout k) s = .next (admitTimeout k.val s) := rfl
theorem exec_flitReceive (k : Fin 4) (f : Flit) (c : FlitCheck) (s : State) : exec (.flitReceive k f c) s = .next (flitReceive k.val f c s) := rfl
theorem exec_retrain (k : Fin 4) (s : State) : exec (.retrain k) s = .next (retrain k.val s) := rfl
theorem exec_arrayTimeMessage (k : Fin 4) (theta : Int) (replayed : Bool) (s : State) :
    exec (.arrayTimeMessage k theta replayed) s = .next (arrayTime k.val theta replayed s) := rfl
theorem exec_arrayResetMessage (k : Fin 4) (s : State) : exec (.arrayResetMessage k) s = .next (arrayReset k.val s) := rfl

section
variable {s u v : State} {k i : Nat} {l : Link}

/-! ## Links by number -/

/-- A link that is used is one of the array's. -/
theorem link_lt (h : (s.link k).state ≠ .unused) : k < s.array.links.length := by
  refine Classical.byContradiction fun hk => ?_
  refine h ?_
  rw [State.link, List.getD_eq_getElem?_getD, List.getElem?_eq_none (Nat.not_lt.1 hk)]
  rfl

theorem setLink_link (h : k < s.array.links.length) : (s.setLink k l).link k = l := by
  unfold State.link State.setLink setAt
  rw [State.setArray_array, List.getD_eq_getElem?_getD]
  dsimp only
  rw [List.getElem?_set_self h] <;> rfl

theorem setLink_link_ne (h : k ≠ i) : (s.setLink i l).link k = s.link k := by
  unfold State.link State.setLink setAt
  rw [State.setArray_array, List.getD_eq_getElem?_getD, List.getD_eq_getElem?_getD]
  dsimp only
  rw [List.getElem?_set_ne h.symm]

theorem setLink_length : (s.setLink i l).array.links.length = s.array.links.length := List.length_set

theorem link_congr (h : u.array = s.array) (k : Nat) : u.link k = s.link k := by rw [State.link, h] <;> rfl

/-! ## Waiting flits -/

/-- What flits that leave keep of a link and of the messages under way. -/
structure LinkKept (k : Nat) (s u : State) : Prop where
  length : u.array.links.length = s.array.links.length
  state : (u.link k).state = (s.link k).state
  keyed : (u.link k).keyed = (s.link k).keyed
  neighbour : (u.link k).neighbour = (s.link k).neighbour
  expect : (u.link k).expect = (s.link k).expect
  partials : u.array.partials = s.array.partials

theorem LinkKept.refl : LinkKept k s s := ⟨rfl, rfl, rfl, rfl, rfl, rfl⟩

theorem LinkKept.trans (h : LinkKept k s u) (h' : LinkKept k u v) : LinkKept k s v :=
  ⟨h'.length.trans h.length, h'.state.trans h.state, h'.keyed.trans h.keyed, h'.neighbour.trans h.neighbour, h'.expect.trans h.expect,
    h'.partials.trans h.partials⟩

theorem LinkKept.setLink (h : k < s.array.links.length) (hs : l.state = (s.link k).state) (hk : l.keyed = (s.link k).keyed)
    (hn : l.neighbour = (s.link k).neighbour) (he : l.expect = (s.link k).expect) : LinkKept k s (s.setLink k l) := by
  have hl := setLink_link (l := l) h
  exact ⟨setLink_length, by rw [hl, hs], by rw [hl, hk], by rw [hl, hn], by rw [hl, he], rfl⟩

theorem LinkKept.putFlit {t : Nat} {f : Flit} (h : k < s.array.links.length) : LinkKept k s (s.putFlit k t f) := by
  unfold State.putFlit
  dsimp only
  split
  · refine LinkKept.trans (u := State.setLink s k _) (.setLink h ?_ ?_ ?_ ?_) ⟨rfl, rfl, rfl, rfl, rfl, rfl⟩ <;> rfl
  · exact .setLink h rfl rfl rfl rfl

theorem LinkKept.flushLink (n : Nat) (h : k < s.array.links.length) : LinkKept k s (State.flushLink k n s) := by
  induction n generalizing s with
  | zero => exact .refl
  | succ n ih =>
    unfold State.flushLink
    dsimp only
    split
    · exact .refl
    · next t f r _ =>
      split
      · have hq : LinkKept k s (s.setLink k { s.link k with queue := r }) := .setLink h rfl rfl rfl rfl
        have hput := hq.trans (.putFlit (t := t) (f := f) (hq.length ▸ h))
        exact hput.trans (ih (hput.length ▸ h))
      · exact .refl

/-! ## Admission (15 R338) -/

theorem replayLink_empty (h : (s.link k).replay = []) : s.replayLink k = s := by
  unfold State.replayLink
  dsimp only
  rw [h]
  rfl

theorem linkAdmit_good {id : LinkIdentity} (ht : (s.link k).state = .training) (hok : s.neighbourOk k id = true) (hr : (s.link k).replay = []) :
    ((linkAdmit k id s).link k).state = .admitted ∧ ((linkAdmit k id s).link k).keyed = true ∧
      ((linkAdmit k id s).link k).neighbour = id.device.toNat % 16 := by
  have hlt : k < s.array.links.length := link_lt (by rw [ht]; decide)
  unfold linkAdmit
  extract_lets l l1 s1 src s2
  rw [if_neg (by simp [show l.state = _ from ht]), if_pos hok]
  have hs1 : s1.link k = { l1 with state := .admitted, keyed := true } := setLink_link hlt
  have hs2 : s2.link k = s1.link k ∧ s2.array.links.length = s1.array.links.length := by
    unfold s2
    split <;> exact ⟨rfl, rfl⟩
  rw [replayLink_empty (by rw [hs2.1, hs1]; exact hr)]
  have hkept : LinkKept k s2 (State.flushLink k 512 s2) := .flushLink 512 (by rw [hs2.2, show s1.array.links.length = _ from setLink_length]; exact hlt)
  rw [hkept.state, hkept.keyed, hkept.neighbour, hs2.1, hs1]
  exact ⟨rfl, rfl, rfl⟩

theorem linkAdmit_bad {id : LinkIdentity} (ht : (s.link k).state = .training) (hok : s.neighbourOk k id = false) :
    linkAdmit k id s = (s.setLink k { s.link k with neighbour := id.device.toNat % 16, state := .down }).record 0x1402 k [] := by
  unfold linkAdmit
  dsimp only
  rw [if_neg (by simp [ht]), if_neg (by simp [hok])]
  rfl

theorem parentLost_link : (s.parentLost k).link i = s.link i := by
  unfold State.parentLost
  split
  · rw [link_congr (s := s.setArray _) (Within.refl.record.holdover.same .array (by decide))]
    rfl
  · rfl

theorem linkFalls_link (h : k < s.array.links.length) :
    (s.linkFalls k).link k = { Link.init with state := .down, neighbour := (s.link k).neighbour, replays := (s.link k).replays } := by
  unfold State.linkFalls
  extract_lets l tiles src s1 s2
  have hs2 : s2.array = s1.array :=
    (Within.refl.foldl fun _ _ => Within.ite (Within.refl.taskFault) Within.refl).same .array (by decide)
  rw [parentLost_link, link_congr hs2]
  exact setLink_link h

theorem admitTimeout_late (ht : (s.link k).state = .training) (hlate : (s.link k).sinceNs + 250000000 ≤ s.nowNs) :
    admitTimeout k s = s.linkFalls k := by
  unfold admitTimeout
  exact if_pos ⟨ht, hlate⟩

/-! ## Flits (15 R339) -/

/-- A good flit of an admitted link moves the link on to the next number, and lets waiting flits leave. -/
def flitTaken (k : Nat) (f : Flit) (s : State) : State :=
  State.flushLink k 512 (s.setLink k (freeAcked f.ack { s.link k with expect := ((s.link k).expect + 1) % 65536 }))

theorem flitReceive_bad {f : Flit} {c : FlitCheck} (ha : (s.link k).state = .admitted) (hbad : flitGood (s.link k) f c = false) :
    flitReceive k f c s = s.emit (.nak (Fin.ofNat 4 k) (s.link k).expect) := by
  unfold flitReceive
  dsimp only
  rw [if_neg (by simp [ha]), if_pos (by rw [hbad]; rfl)]

theorem flitReceive_good {f : Flit} {c : FlitCheck} (ha : (s.link k).state = .admitted) (hgood : flitGood (s.link k) f c = true)
    (hnak : f.nak = false) : flitReceive k f c s =
      if f.kind.toNat = 0 ∨ 6 ≤ f.kind.toNat then flitTaken k f s
      else if f.dst.toNat = s.devNumber then (flitTaken k f s).joinFlit k f c.auth
      else if s.devInShape f.dst.toNat then (flitTaken k f s).forward k f
      else flitTaken k f s := by
  unfold flitReceive
  extract_lets l s1 s2
  have hs2 : s2 = flitTaken k f s := if_neg (by simp [hnak])
  rw [if_neg (by simp [show l.state = .admitted from ha]), if_neg (by simp [show flitGood l f c = true from hgood]), hs2]

theorem flitTaken_spec {f : Flit} (ha : (s.link k).state = .admitted) :
    ((flitTaken k f s).link k).expect = ((s.link k).expect + 1) % 65536 ∧ ((flitTaken k f s).link k).state = .admitted := by
  have hlt : k < s.array.links.length := link_lt (by rw [ha]; decide)
  unfold flitTaken
  generalize hv : s.setLink k _ = v
  have hlink : v.link k = freeAcked f.ack { s.link k with expect := ((s.link k).expect + 1) % 65536 } := hv ▸ setLink_link hlt
  have hkept : LinkKept k v (State.flushLink k 512 v) := .flushLink 512 (by rw [← hv, setLink_length]; exact hlt)
  constructor
  · rw [hkept.expect, hlink]
    rfl
  · rw [hkept.state, hlink]
    exact ha

/-- A flit that begins a longer message waits for the rest. -/
theorem joinFlit_first {f : Flit} {auth : Bool} (hfirst : f.first = true) (hlast : f.last = false) :
    s.joinFlit k f auth = s.setArray { s.array with partials := s.array.partials.filter (fun g => !sameMessage f g) ++ [f] } := by
  unfold State.joinFlit
  dsimp only
  rw [if_pos hfirst, if_pos (by rw [hlast]; rfl)]

/-! ## Identity messages -/

theorem sendIdentity_out : (s.sendIdentity k).out = s.out ++ [.linkIdentity (Fin.ofNat 4 k) s.devNumber s.array.nx s.array.ny s.sec.fuses.serial] := rfl

/-- The identity message draws a link's random value and leaves the rest of the links. -/
theorem sendIdentity_link (h : i < s.array.links.length) : ∃ bs, ((s.sendIdentity i).link i) = { s.link i with random := bs } :=
  ⟨_, setLink_link (s := s.draw.2) (k := i) h⟩

theorem sendIdentity_link_ne (h : k ≠ i) : (s.sendIdentity i).link k = s.link k := setLink_link_ne (s := s.draw.2) h

theorem retrain_spec (h : (s.link k).state ≠ .unused) :
    ((retrain k s).link k).state = .training ∧ ((retrain k s).link k).keyed = false ∧ ((retrain k s).link k).sinceNs = s.nowNs ∧
      (retrain k s).out = s.out ++ [.linkIdentity (Fin.ofNat 4 k) s.devNumber s.array.nx s.array.ny s.sec.fuses.serial] := by
  have hlt := link_lt h
  unfold retrain
  rw [if_neg h]
  generalize hv : s.setLink k _ = v
  have hlink : v.link k = { s.link k with state := .training, sinceNs := s.nowNs, keyed := false } := hv ▸ setLink_link hlt
  obtain ⟨bs, hid⟩ := sendIdentity_link (s := v) (i := k) (by rw [← hv, setLink_length]; exact hlt)
  rw [hid, hlink, sendIdentity_out, ← hv]
  exact ⟨rfl, rfl, rfl, rfl⟩

/-! ## Shape (15 R336) -/

/-- An array that is configured, its links in training where their dimension is used. -/
structure Shaped (nx ny x y master : Nat) (s : State) : Prop where
  shape : (s.array.nx, s.array.ny, s.array.x, s.array.y, s.array.master, s.array.configured) = (nx, ny, x, y, master, true)
  length : s.array.links.length = 4
  links : ∀ k, k < 4 → (s.link k).state = if usedLink nx ny k then .training else .unused

theorem Shaped.of_array {nx ny x y master : Nat} (h : Shaped nx ny x y master s) (ha : u.array = s.array) : Shaped nx ny x y master u :=
  ⟨by rw [ha]; exact h.shape, by rw [ha]; exact h.length, fun k hk => by rw [link_congr ha]; exact h.links k hk⟩

theorem Shaped.sendIdentity {nx ny x y master : Nat} (h : Shaped nx ny x y master s) (hi : i < 4) : Shaped nx ny x y master (s.sendIdentity i) := by
  refine ⟨h.shape, setLink_length.trans h.length, fun k hk => ?_⟩
  by_cases hki : k = i
  · subst hki
    obtain ⟨bs, hb⟩ := sendIdentity_link (s := s) (i := k) (by rw [h.length]; exact hk)
    rw [hb]
    exact h.links k hk
  · rw [sendIdentity_link_ne hki]
    exact h.links k hk

theorem arrayConfigBody_good {nx ny x y master : Nat} (hnx : [1, 2, 4].contains nx = true) (hny : [1, 2, 4].contains ny = true) (hx : x < nx)
    (hy : y < ny) (hm : master < nx * ny) :
    ∃ t, Shaped nx ny x y master t ∧ arrayConfigBody nx ny x y master s = (t, .now Code.ok .empty) := by
  unfold arrayConfigBody
  rw [if_neg (by simp only [hnx, hny, Bool.not_true, Bool.false_eq_true, false_or]; omega)]
  extract_lets init link src s1 s2 src2
  have hlink : ∀ k, k < 4 → s1.link k = link k := fun k hk => by
    unfold s1 State.link
    rw [State.setArray_array]
    dsimp only
    rw [List.getD_eq_getElem?_getD, List.getElem?_map, upTo, List.getElem?_range hk] <;> rfl
  have hs1 : Shaped nx ny x y master s1 := by
    refine ⟨rfl, rfl, fun k hk => ?_⟩
    rw [hlink k hk]
    unfold link
    split <;> rfl
  have hs2 : Shaped nx ny x y master s2 := by
    refine foldl_keeps hs1 fun u i hi hu => ?_
    split
    · exact (hu.of_array (Within.refl.wakeDomain.same .array (by decide))).sendIdentity (List.mem_range.1 hi)
    · exact hu.of_array rfl
  refine ⟨_, ?_, rfl⟩
  split
  · exact hs2.of_array rfl
  · exact hs2

end

/-- Settles O42: each command by the link it names, the shape by its fold over the links. -/
theorem arrayLinks : Obligations.ArrayLinks := by
  refine ⟨fun h nx ny x y master hnx hny hx hy hm => ?_, fun s k i ht => ⟨?_, ?_, ?_⟩, fun s k f chk ha => ⟨?_, ?_, ?_⟩, fun s k hk => ?_,
    fun s k theta replayed ha => ⟨?_, ?_⟩, fun s k hf hp ha hc => ?_⟩
  · refine answers_of_body (exec_arrayConfig h nx ny x y master) fun s _ => ?_
    obtain ⟨t, ht, hbody⟩ := arrayConfigBody_good (s := s) hnx hny hx hy hm
    have hshape := ht.shape
    simp only [Prod.mk.injEq] at hshape
    obtain ⟨h1, h2, h3, h4, h5, h6⟩ := hshape
    exact ⟨t, ⟨h1, h2, h3, h4, h5, h6, ht.links⟩, hbody⟩
  · exact fun hok hr => gives_of_exec (exec_linkAdmission k i s) (linkAdmit_good ht hok hr)
  · intro hok
    rw [exec_linkAdmission, linkAdmit_bad ht hok]
  · intro hlate
    refine gives_of_exec (exec_linkAdmitTimeout k s) ?_
    rw [admitTimeout_late ht hlate, linkFalls_link (link_lt (by rw [ht]; decide))]
    exact ⟨rfl, rfl, rfl⟩
  · intro hbad
    rw [exec_flitReceive, flitReceive_bad ha hbad, Fin.ofNat_val_eq_self]
  · intro hgood hnak hkind
    obtain ⟨hexpect, hstate⟩ := flitTaken_spec (f := f) ha
    refine gives_of_exec (exec_flitReceive k f chk s) ?_
    rw [flitReceive_good ha hgood hnak, if_pos (.inl hkind)]
    exact ⟨hexpect, hstate⟩
  · intro hgood hnak hlo hhi hdst hfirst hlast
    obtain ⟨hexpect, -⟩ := flitTaken_spec (f := f) ha
    refine gives_of_exec (exec_flitReceive k f chk s) ?_
    rw [flitReceive_good ha hgood hnak, if_neg (by omega), if_pos hdst, joinFlit_first hfirst hlast]
    exact ⟨List.mem_append_right _ (.head _), hexpect⟩
  · have h := retrain_spec hk
    rw [Fin.ofNat_val_eq_self] at h
    exact gives_of_exec (exec_retrain k s) h
  · intro hnot
    rw [exec_arrayTimeMessage, arrayTime, if_neg (by simp [ha]), Fin.ofNat_val_eq_self]
    refine congrArg _ (if_neg ?_)
    rintro ⟨hf, hp, hr, hs⟩
    rcases hnot with h | h | h | h
    · exact absurd (hf.symm.trans h) (by decide)
    · exact h hp
    · rw [h] at hr
      cases hr
    · exact h hs
  · intro hf hp hr hs
    rw [exec_arrayTimeMessage, arrayTime, if_neg (by simp [ha]), Fin.ofNat_val_eq_self]
    exact congrArg _ (if_pos ⟨hf, hp, by rw [hr]; rfl, hs⟩)
  · rw [exec_arrayResetMessage, arrayReset, if_pos ⟨hf, hp, ha⟩, hc]
    rfl

end Sys2Proof.Machine
end

section
/-! PROOFS. The checks of a QCP request and their codes (19 R418–R421, 16 R363). -/
namespace Sys2Proof.Machine

section
variable {s : State} {h : QcpHdr} {m : MsgRow} {body : State → State × Answer} {x : Session} {start : Bool} {role : Role}

theorem boundSession_session (hx : s.boundSession h = some x) : s.session h.session.toNat = some x := by
  unfold State.boundSession at hx
  split at hx
  · next y hy =>
    split at hx
    · cases hx
      exact hy
    · cases hx
  · cases hx

theorem taken_bound (hx : s.boundSession h = some x) :
    taken s h = s.setSession h.session.toNat (some { x with lastSeq := some h.seq, idleNs := s.nowNs }) := by
  unfold taken
  rw [boundSession_session hx]

section
variable (hp : s.portDrops h = false) (hr : s.replayQcp h.raw = false) (hx : s.boundSession h = some x)
include hp hr hx

theorem serve_old (hseq : seqCheck x.lastSeq h.seq = .old) : serve s h m body start = s.mbxDrop := by
  unfold serve
  rw [if_neg (by simp [hp]), if_neg (by simp [hr])]
  simp only [hx, hseq]

theorem serve_again {r : QcpReply} (hseq : seqCheck x.lastSeq h.seq = .again) (hc : x.cache.find? (·.ref = h.seq) = some r) :
    serve s h m body start = s.emit (.reply r) := by
  unfold serve
  rw [if_neg (by simp [hp]), if_neg (by simp [hr])]
  simp only [hx, hseq, hc]

theorem serve_fresh (hseq : seqCheck x.lastSeq h.seq = .fresh) : serve s h m body start =
    if (taken s h).replaying ∧ !m.reads then (taken s h).reply h m.hw Code.replayBusy .empty else serveAs (taken s h) h m x.role start body := by
  unfold serve
  rw [if_neg (by simp [hp]), if_neg (by simp [hr])]
  simp only [hx, hseq, taken_bound hx]

/-- With no replay a fresh request meets checks 2 to 5. -/
theorem serve_live (hseq : seqCheck x.lastSeq h.seq = .fresh) (hlive : s.capture.replay = none) :
    serve s h m body start = serveAs (taken s h) h m x.role start body := by
  rw [serve_fresh hp hr hx hseq, if_neg]
  rw [taken_bound hx]
  rintro ⟨h, -⟩
  rw [State.replaying, show State.capture (State.setSession s _ _) = s.capture from rfl, hlive] at h
  cases h

end

/-- In FAULTED a message that firmware does not serve there is answered by hardware. -/
theorem serveAs_faulted (hst : s.host.state = .faulted) (hhw : m.hw = false) (hlegal : m.legal.contains .faulted = false) :
    serveAs s h m role start body = s.reply h true Code.badState .empty := by
  unfold serveAs
  exact if_pos ⟨hst, by rw [hhw]; rfl, by rw [hlegal]; rfl⟩

section
variable (hst : s.host.state ≠ .faulted)
include hst

theorem serveAs_version (hhw : m.hw = false) (hmajor : h.major ≠ s.host.fwMajor) :
    serveAs s h m role false body = s.reply h false Code.versionMismatch .empty := by
  unfold serveAs
  rw [if_neg (fun hf => hst hf.1), if_pos ⟨by rw [hhw]; rfl, hmajor⟩]
  exact congrArg (fun u : State => u.reply h false Code.versionMismatch .empty) (if_neg (by simp))

variable (hver : m.hw = true ∨ h.major = s.host.fwMajor)
include hver

theorem serveAs_role (hrole : roleRank role < roleRank m.role) : serveAs s h m role start body = s.reply h m.hw Code.roleDenied .empty := by
  have hv : ¬((!m.hw) = true ∧ h.major ≠ s.host.fwMajor) := by
    rintro ⟨h1, h2⟩
    rcases hver with h | h
    · rw [h] at h1
      cases h1
    · exact h2 h
  unfold serveAs
  rw [if_neg (fun hf => hst hf.1), if_neg hv, if_pos hrole]

theorem serveAs_state (hrole : roleRank m.role ≤ roleRank role) (hlegal : m.legal.contains s.host.state = false) :
    serveAs s h m role start body = s.reply h m.hw Code.badState .empty := by
  have hv : ¬((!m.hw) = true ∧ h.major ≠ s.host.fwMajor) := by
    rintro ⟨h1, h2⟩
    rcases hver with h | h
    · rw [h] at h1
      cases h1
    · exact h2 h
  unfold serveAs
  rw [if_neg (fun hf => hst hf.1), if_neg hv, if_neg (by omega), if_pos (by rw [hlegal]; rfl)]

end

theorem taken_state : (taken s h).host.state = s.host.state ∧ (taken s h).host.fwMajor = s.host.fwMajor := by
  unfold taken
  split <;> exact ⟨rfl, rfl⟩

end

/-- Settles O43: a request meets its checks in their order, the state it is checked in being the one that has taken its seq. -/
theorem qcpChecks : Obligations.QcpChecks := by
  intro s h m body x hp hr hx
  obtain ⟨hstate, hmajor⟩ := taken_state (s := s) (h := h)
  refine ⟨serve_old hp hr hx, fun hseq hreplay hreads => ?_, fun hseq hlive hst hhw hver => ?_, fun hseq hlive hst hver hrole => ?_,
    fun hseq hlive hst hver hrole hlegal => ?_, fun hseq hlive hst hhw hlegal => ?_, fun r hseq hc => serve_again hp hr hx hseq hc⟩
  · have hruns : (taken s h).replaying = true := by
      rw [taken_bound hx]
      exact Option.isSome_iff_ne_none.2 hreplay
    exact (serve_fresh hp hr hx hseq).trans (if_pos ⟨hruns, by rw [hreads]; rfl⟩)
  · rw [serve_live hp hr hx hseq hlive, serveAs_version (by rw [hstate]; exact hst) hhw (by rw [hmajor]; exact hver)]
    rfl
  · rw [serve_live hp hr hx hseq hlive, serveAs_role (by rw [hstate]; exact hst) (by rw [hmajor]; exact hver) hrole]
    rfl
  · rw [serve_live hp hr hx hseq hlive,
      serveAs_state (by rw [hstate]; exact hst) (by rw [hmajor]; exact hver) hrole (by rw [hstate]; exact hlegal)]
    rfl
  · rw [serve_live hp hr hx hseq hlive, serveAs_faulted (by rw [hstate]; exact hst) hhw hlegal]
    rfl

end Sys2Proof.Machine
end

section
/-! PROOFS. Sessions open, authenticate, close and time out; the role-key table; unknown types (19 R416–R420). -/
namespace Sys2Proof.Machine

theorem exec_sessionOpen (h : QcpHdr) (s : State) : exec (.sessionOpen h) s = .next (sessionOpen h s) := rfl
theorem exec_sessionAuth (h : QcpHdr) (b : AuthBody) (s : State) :
    exec (.sessionAuth h b) s = .next (serve s h { role := .none, legal := s.sessionStates } (sessionAuthBody h b)) := rfl

/-- SESSION_CLOSE ends the session it came in. -/
def sessionCloseBody (h : QcpHdr) (s : State) : State × Answer := (s.setSession h.session.toNat none, .ok)

theorem exec_sessionClose (h : QcpHdr) (s : State) :
    exec (.sessionClose h) s = .next (serve s h { role := .none, legal := s.sessionStates } (sessionCloseBody h)) := rfl
theorem exec_sessionTimeout (n : Fin 8) (s : State) : exec (.sessionTimeout n) s = .next (sessionTimeout (n.val + 1) s) := rfl
theorem exec_roleKeySet (h : QcpHdr) (es : List (List Byte × Byte)) (s : State) :
    exec (.roleKeySet h es) s = .next (serve s h adminLate (roleKeyBody es)) := rfl
theorem exec_qcpUnknownType (h : QcpHdr) (type : Half) (s : State) : exec (.qcpUnknownType h type) s = .next (unknownType h type.toNat s) := rfl

section
variable {s u : State} {h : QcpHdr} {m : MsgRow} {x : Session} {hw : Bool} {code : Half} {b : ReplyBody} {n : Nat}

/-! ## What a request's capture and its reply leave -/

theorem session_congr (h : u.host = s.host) (n : Nat) : u.session n = s.session n := by rw [State.session, h] <;> rfl

theorem heard_host : (heard s h m).host = (taken s h).host := by
  unfold heard
  split
  · rfl
  · exact Within.refl.captureItem.same .host (by decide)

theorem heard_sec : (heard s h m).sec = (taken s h).sec := by
  unfold heard
  split
  · rfl
  · exact Within.refl.captureItem.same .sec (by decide)

theorem taken_sec : (taken s h).sec = s.sec := by
  unfold taken
  split <;> rfl

theorem taken_session (hx : s.session h.session.toNat = some x) :
    (taken s h).session h.session.toNat = some { x with lastSeq := some h.seq, idleNs := s.nowNs } := by
  unfold taken
  rw [hx]
  exact Table.get_set ..

@[simp] theorem setSession_session {y : Option Session} : (s.setSession n y).session n = y := Table.get_set ..

/-- A reply leaves the sessions, but for the one it answers, which keeps it. -/
theorem reply_session : (s.reply h hw code b).session n =
    if n = h.session.toNat then (s.session n).map fun x => { x with cache := (replyOf s h hw code b :: x.cache).take 16 } else s.session n := by
  unfold State.reply
  dsimp only
  split
  · next y hy =>
    by_cases hn : n = h.session.toNat
    · rw [if_pos hn, hn, hy]
      exact Table.get_set ..
    · rw [if_neg hn]
      exact Table.get_set_ne hn
  · next hy =>
    split
    · next hn =>
      rw [hn, hy]
      exact hy
    · rfl

/-! ## SESSION_OPEN -/

/-- The session that opens: where the request came from, no role yet, a random nonce. -/
def openedSession (h : QcpHdr) (s : State) : Session :=
  { port := h.port, addr := h.addr, udp := h.udp, role := .none, nonce := leBytes 32 s.draw.1, lastSeq := none, cache := [], idleNs := s.nowNs
    nextSeq := 0 }

theorem sessionOpenBody_free {i : Nat} (hi : i < 8) (hbusy : ∀ j, j < i → (s.session (j + 1)).isSome = true) (hfree : s.session (i + 1) = none) :
    sessionOpenBody h s = (s.draw.2.setSession (i + 1) (some (openedSession h s)),
      .now Code.ok (.bytes (leBytes 2 (i + 1) ++ leBytes 32 s.draw.1))) := by
  have hfind : (upTo 8).find? (fun i => (s.session (i + 1)).isNone) = some i := by
    rw [upTo, List.find?_range_eq_some]
    refine ⟨by rw [hfree]; rfl, List.mem_range.2 hi, fun j hj => ?_⟩
    rw [Bool.not_eq_true', Option.isNone_eq_false_iff]
    exact hbusy j hj
  unfold sessionOpenBody
  rw [hfind]
  rfl

/-- The state in which a request that is not a read takes effect. -/
def captured (h : QcpHdr) (s : State) : State := s.captureItem 2 (8 + h.port.val) 2 h.raw

theorem captured_host : (captured h s).host = s.host := Within.refl.captureItem.same .host (by decide)
theorem captured_out : (captured h s).out = s.out := Within.refl.captureItem.same .out (by decide)
theorem captured_nowNs : (captured h s).nowNs = s.nowNs := by
  rw [State.nowNs, show (captured h s).time = s.time from Within.refl.captureItem.same .time (by decide)] <;> rfl

theorem serveAs_done {body : State → State × Answer} {role : Role} {start : Bool} {t : State} (hver : m.hw = true ∨ h.major = s.host.fwMajor)
    (hrole : roleRank m.role ≤ roleRank role) (hlegal : m.legal.contains s.host.state = true) (hreads : m.reads = false)
    (hok : (body s).2.refuses = false) (hb : body (captured h s) = (t, .now code b)) :
    serveAs s h m role start body = t.reply h m.hw code b := by
  unfold serveAs
  rw [if_neg, if_neg, if_neg (by omega), if_neg (by rw [hlegal]; simp), hreads, hok]
  · unfold captured at hb
    simp only [Bool.or_self, Bool.false_eq_true, if_false, hb]
  · rintro ⟨h1, h2⟩
    rcases hver with h3 | h3
    · rw [h3] at h1
      cases h1
    · exact h2 h3
  · rintro ⟨h1, -, h3⟩
    rw [← h1, hlegal] at h3
    cases h3

theorem sessionOpen_opens {i : Nat} (hzero : h.session = 0) (hp : s.portDrops h = false) (hr : s.replayQcp h.raw = false)
    (hlive : s.capture.replay = none) (hmajor : h.major = s.host.fwMajor) (hlegal : s.sessionStates.contains s.host.state = true) (hi : i < 8)
    (hbusy : ∀ j, j < i → (s.session (j + 1)).isSome = true) (hfree : s.session (i + 1) = none) :
    ∃ (t : State) (r : ReplyBody), sessionOpen h s = t.reply h false Code.ok r ∧ t.session (i + 1) = some (openedSession h (captured h s)) ∧
      t.out = s.out := by
  have hbody := sessionOpenBody_free (h := h) (s := captured h s) hi (fun j hj => by rw [session_congr captured_host]; exact hbusy j hj)
    (by rw [session_congr captured_host]; exact hfree)
  have hfirst := sessionOpenBody_free (h := h) hi hbusy hfree
  refine ⟨(captured h s).draw.2.setSession (i + 1) (some (openedSession h (captured h s))),
    .bytes (leBytes 2 (i + 1) ++ leBytes 32 (captured h s).draw.1), ?_, setSession_session, captured_out (h := h)⟩
  unfold sessionOpen
  dsimp only
  rw [if_neg (by simp [hzero]), if_neg (by simp [hp]), if_neg (by simp [State.replaying, hlive]), if_neg (by simp [hr])]
  exact serveAs_done (.inr hmajor) (Nat.zero_le _) hlegal rfl (by rw [hfirst]; rfl) hbody

/-! ## SESSION_AUTH, SESSION_CLOSE and time-outs -/

theorem authOk_congr {a : AuthBody} {msg : List Byte} (hsec : u.sec = s.sec) (hkeys : u.host.roleKeys = s.host.roleKeys) :
    u.authOk a msg = s.authOk a msg := by
  rw [State.authOk, hsec, hkeys] <;> rfl

/-- Does the device grant the role that a request asks for? -/
def Genuine (h : QcpHdr) (a : AuthBody) (nonce : List Byte) (s : State) : Prop :=
  s.sec.lifecycle = .opened ∨ s.authOk a (nonce ++ leBytes 2 h.session.toNat ++ [a.role]) = true

theorem sessionAuthBody_genuine {a : AuthBody} (hx : s.session h.session.toNat = some x) (hlo : 1 ≤ a.role.toNat) (hhi : a.role.toNat ≤ 3)
    (hg : Genuine h a x.nonce s) : sessionAuthBody h a s =
      (s.setSession h.session.toNat (some { x with role := roleOfCode a.role.toNat }), .now Code.ok .empty) := by
  unfold Genuine at hg
  unfold sessionAuthBody
  simp only [hx]
  rw [if_neg (by simp [between, hlo, hhi]), if_pos hg]
  rfl

theorem sessionAuthBody_refused {a : AuthBody} (hx : s.session h.session.toNat = some x) (hlo : 1 ≤ a.role.toNat) (hhi : a.role.toNat ≤ 3)
    (hg : ¬Genuine h a x.nonce s) : sessionAuthBody h a s = (s, .now Code.authFail .empty) := by
  unfold Genuine at hg
  unfold sessionAuthBody
  simp only [hx]
  rw [if_neg (by simp [between, hlo, hhi]), if_neg hg]
  rfl

theorem genuine_congr {a : AuthBody} {nonce : List Byte} (hsec : u.sec = s.sec) (hkeys : u.host.roleKeys = s.host.roleKeys) :
    Genuine h a nonce u ↔ Genuine h a nonce s := by
  unfold Genuine
  rw [hsec, authOk_congr hsec hkeys]

theorem taken_roleKeys : (taken s h).host.roleKeys = s.host.roleKeys := by
  unfold taken
  split <;> rfl

theorem sessionTimeout_silent (hx : s.session n = some x) : sessionTimeout n s = if x.idleNs + 600000000000 ≤ s.nowNs then s.setSession n none else s := by
  unfold sessionTimeout
  simp only [hx]

theorem roleKeyBody_good {es : List (List Byte × Byte)} (hl : es.length ≤ 8) (he : ∀ e ∈ es, 1 ≤ e.2.toNat ∧ e.2.toNat ≤ 3) :
    roleKeyBody es s = (s.setHost { s.host with roleKeys := es.map fun e => (e.1, roleOfCode e.2.toNat) }, .now Code.ok .empty) := by
  have hall : (es.all fun e => between 1 3 e.2.toNat) = true := List.all_eq_true.2 fun e h => by
    obtain ⟨hlo, hhi⟩ := he e h
    simp [between, hlo, hhi]
  unfold roleKeyBody
  rw [if_neg (by rw [hall]; simp; omega)]
  rfl

end

/-- Settles O44: a session's request by the body of its message in the state that has heard it. -/
theorem sessionLife : Obligations.SessionLife := by
  refine ⟨?_, fun s h b x ha hx hlo hhi => ?_, fun s h ha => ?_, fun s n x hx => ⟨fun hdue => ?_, fun hdue => ?_⟩, fun h es hl he => ?_, fun s p => rfl,
    fun h type htype => ?_⟩
  · intro s h i hzero hp hr hlive hmajor hlegal hi hbusy hfree
    obtain ⟨t, r, hopen, hsession, hout⟩ := sessionOpen_opens hzero hp hr hlive hmajor hlegal hi hbusy hfree
    refine gives_of_exec (exec_sessionOpen h s) ?_
    rw [hopen, reply_session, if_neg (by rw [hzero]; exact Nat.succ_ne_zero i), reply_out, hout]
    exact ⟨⟨_, hsession, rfl, rfl, rfl, rfl, rfl, captured_nowNs⟩, _, rfl, rfl, rfl⟩
  · have htaken := taken_session (h := h) hx
    have hheard := (session_congr (s := taken s h) (u := heard s h { role := .none, legal := s.sessionStates }) heard_host h.session.toNat).trans htaken
    refine ⟨fun hg => ?_, fun hg => ?_⟩
    · refine gives_of_exec (exec_sessionAuth h b s) ?_
      have hgt : Genuine h b x.nonce (taken s h) := (genuine_congr taken_sec taken_roleKeys).2 hg
      have hgh : Genuine h b x.nonce (heard s h { role := .none, legal := s.sessionStates }) :=
        (genuine_congr heard_sec (by rw [heard_host])).2 hgt
      have hbt := sessionAuthBody_genuine htaken hlo hhi hgt
      rw [serve_accepted ha (by rw [hbt]; rfl), sessionAuthBody_genuine hheard hlo hhi hgh, reply_session, if_pos rfl, setSession_session]
      rfl
    · have hbt := sessionAuthBody_refused htaken hlo hhi (mt (genuine_congr taken_sec taken_roleKeys).1 hg)
      rw [exec_sessionAuth, serve_refused ha (by rw [hbt]; rfl), hbt]
      rfl
  · refine gives_of_exec (exec_sessionClose h s) ?_
    rw [serve_accepted ha rfl]
    show ((State.setSession _ _ _).reply h _ _ _).session _ = none
    rw [reply_session, if_pos rfl, setSession_session]
    rfl
  · rw [exec_sessionTimeout, sessionTimeout_silent hx, if_pos hdue]
  · rw [exec_sessionTimeout, sessionTimeout_silent hx, if_neg (by omega)]
  · exact serves_of_body (exec_roleKeySet h es) fun s _ => roleKeyBody_good hl he
  · refine refuses_of_body (body := refuse Code.unknownType) (start := false) (fun s => ?_) (by decide) fun s _ => rfl
    rw [exec_qcpUnknownType, unknownType, if_neg (by rw [htype]; simp)]

end Sys2Proof.Machine
end

section
/-! PROOFS. What a host reads and writes: memory, the device's state, the event recorder (19 R421, R422, R430–R434). -/
namespace Sys2Proof.Machine

theorem exec_memWrite (h : QcpHdr) (addr : Addr) (data : List Byte) (s : State) : exec (.memWrite h addr data) s =
    .next (serve s h { role := .operate, legal := [.anchor, .berm, .started, .running] } (memWriteBody h addr.toNat data)) := rfl
theorem exec_memRead (h : QcpHdr) (addr : Addr) (n : Half) (s : State) : exec (.memRead h addr n) s =
    .next (serve s h { role := .read, legal := [.anchor, .berm, .started, .running], reads := true } (memReadBody addr.toNat n.toNat)) := rfl
theorem exec_stateRead (h : QcpHdr) (s : State) :
    exec (.stateRead h) s = .next (serve s h { role := .read, legal := allStates, hw := true, reads := true } stateReadBody) := rfl
theorem exec_recorderRead (h : QcpHdr) (first count : Half) (s : State) : exec (.recorderRead h first count) s =
    .next (serve s h { role := .read, legal := allStates, hw := true, reads := true } (recorderBody first.toNat count.toNat)) := rfl
theorem exec_evrRecordWrite (s : State) : exec .evrRecordWrite s = .next (recordWrite s) := rfl

section
variable {s : State} {h : QcpHdr} {a n : Nat} {data : List Byte}

theorem between_of_le {lo hi n : Nat} (h : lo ≤ n) (h' : n ≤ hi) : between lo hi n = true := by simp [between, h, h']

/-! ## Memory outside the register region -/

theorem memWriteBody_ordinary (hlo : 1 ≤ data.length) (hhi : data.length ≤ 8144) (hreg : a + data.length ≤ regBase)
    (hok : s.hostRefusal a data.length true = none) (hplace : ∃ x, s.place a = .ext x) (hgood : s.mergeBad a data.length = false) :
    memWriteBody h a data s = (s.extWrite a data, .now Code.ok .empty) := by
  obtain ⟨x, hx⟩ := hplace
  unfold memWriteBody
  dsimp only
  rw [if_neg (by rw [between_of_le hlo hhi]; decide), if_neg (by omega)]
  simp only [hok, hx, hgood]
  rfl

theorem memWriteBody_refused {c : Half} (hlo : 1 ≤ data.length) (hhi : data.length ≤ 8144) (hreg : a + data.length ≤ regBase)
    (hc : s.hostRefusal a data.length true = some c) : memWriteBody h a data s = (s, .now c .empty) := by
  unfold memWriteBody
  dsimp only
  rw [if_neg (by rw [between_of_le hlo hhi]; decide), if_neg (by omega)]
  simp only [hc]
  rfl

theorem memReadBody_ordinary (hlo : 1 ≤ n) (hhi : n ≤ 8160) (hreg : a + n ≤ regBase) (hok : s.hostRefusal a n false = none)
    (hplace : ∃ x, s.place a = .ext x) (hgood : s.extBad a n = false) : memReadBody a n s = (s, .now Code.ok (.bytes (s.extRead a n))) := by
  obtain ⟨x, hx⟩ := hplace
  unfold memReadBody
  rw [if_neg (by rw [between_of_le hlo hhi]; decide), if_neg (by omega)]
  simp only [hok, hx, hgood]
  rfl

/-! ## The recorder -/

theorem recorderBody_good {first count : Nat} (hfirst : first ≤ 8191) (hlo : 1 ≤ count) (hhi : count ≤ 254) : recorderBody first count s =
    (s, .now Code.ok (.records s.events.count ((recordIndexes count first).map fun i => s.events.records.get none i))) := by
  unfold recorderBody
  rw [if_neg (by rw [between_of_le hlo hhi]; simp; omega)]

/-- The oldest record is written at its place and counted; a record of what was lost takes its room. -/
theorem recordWrite_oldest {r : EvRec} {rest : List EvRec} (hq : s.events.queue = r :: rest) : (recordWrite s).events =
    { count := (s.events.count + 1) % 2 ^ 64, dropped := s.events.dropped, lostSince := 0
      queue := if s.events.lostSince ≠ 0 then rest ++ [s.lostRecord] else rest
      records := s.events.records.set none (recordIndex s.events.count)
        (some { valid := true, count := BitVec.ofNat 31 s.events.count, entry := r }) } := by
  unfold recordWrite
  simp only [hq]

end

/-- Settles O45: ordinary memory by the body of its message, the recorder's write by its oldest record. -/
theorem hostReads : Obligations.HostReads := by
  refine ⟨fun h addr data hlo hhi hreg => ?_, fun h addr data c hlo hhi hreg => ?_, fun h addr n hlo hhi hreg => ?_, fun h => ?_,
    fun h first count hfirst hlo hhi => ?_, fun s r rest hq => ?_⟩
  · exact serves_of_body (exec_memWrite h addr data) fun s ⟨hok, hplace, hgood⟩ => memWriteBody_ordinary hlo hhi hreg hok hplace hgood
  · intro s ha hc
    obtain ⟨hrefused, hc⟩ := hc
    have hbody := memWriteBody_refused (h := h) hlo hhi hreg hrefused
    rw [exec_memWrite, serve_refused ha (by rw [hbody]; exact bne_iff_ne.2 hc), hbody]
  · exact serves_of_body (exec_memRead h addr n) fun s ⟨hok, hplace, hgood⟩ => memReadBody_ordinary hlo hhi hreg hok hplace hgood
  · exact serves_of_body (exec_stateRead h) fun s _ => rfl
  · exact serves_of_body (exec_recorderRead h first count) fun s _ => recorderBody_good hfirst hlo hhi
  · refine gives_of_exec (exec_evrRecordWrite s) ?_
    rw [recordWrite_oldest hq]
    refine ⟨rfl, Table.get_set .., rfl, rfl, fun hnone => if_neg (by simp [hnone]), fun hlost => ⟨_, if_pos hlost, rfl⟩⟩

end Sys2Proof.Machine
end

section
/-! PROOFS. Bring-up and service messages; traps of firmware (18 R391, R392, 19 R410–R415, R427, R428, 22 R482). -/
namespace Sys2Proof

namespace Table
variable {α : Type} {k : Nat} {v : α}

theorem mem_put {e : Nat × α} : ∀ {l : List (Nat × α)}, e ∈ put k v l → e = (k, v) ∨ e ∈ l
  | [], h => .inl (List.mem_singleton.1 h)
  | (k', v') :: r, h => by
    unfold put at h
    split at h
    · rcases List.mem_cons.1 h with h | h
      · exact .inl h
      · exact .inr h
    · rcases List.mem_cons.1 h with h | h
      · exact .inr (h ▸ .head _)
      · exact (mem_put h).imp id (.tail _)

/-- An entry of a table after a write is the written one, or one of before of another key. -/
theorem mem_set [DecidableEq α] {d : α} {t : Table α} {e : Nat × α} (h : e ∈ (t.set d k v).entries) : e = (k, v) ∨ e ∈ t.entries ∧ e.1 ≠ k := by
  have hwithout : e ∈ without k t.entries → e ∈ t.entries ∧ e.1 ≠ k := fun h => by simpa [without] using h
  unfold set at h
  dsimp only at h
  split at h
  · exact .inr (hwithout h)
  · exact (mem_put h).imp id hwithout

end Table

namespace Machine

theorem exec_load (h : QcpHdr) (offset length : Dword) (s : State) : exec (.load h offset length) s =
    .next (serve s h { role := .admin, legal := [.anchor, .berm] } (loadBody offset.toNat length.toNat)) := rfl
theorem exec_start (h : QcpHdr) (s : State) : exec (.start h) s = .next (serve s h { role := .admin, legal := [.loaded] } startBody true) := rfl
theorem exec_run (h : QcpHdr) (s : State) : exec (.run h) s = .next (serve s h { role := .admin, legal := [.started] } runBody) := rfl
theorem exec_bermStart (h : QcpHdr) (b : BermBody) (s : State) :
    exec (.bermStart h b) s = .next (serve s h { role := .admin, legal := [.anchor] } (bermStartBody b)) := rfl
theorem exec_logConfig (h : QcpHdr) (base : Dword) (records : Word) (level : Byte) (s : State) : exec (.logConfig h base records level) s =
    .next (serve s h adminLate (logConfigBody base.toNat records.toNat level.toNat)) := rfl
theorem exec_traceSet (h : QcpHdr) (mask : BitVec 256) (s : State) :
    exec (.traceSet h mask) s = .next (serve s h { role := .operate, legal := [.running] } (traceBody mask)) := rfl
theorem exec_fwFault (k : FwCore) (cause lo hi : Word) (s : State) :
    exec (.fwFault k cause lo hi) s = .next (fwTrap k cause.toNat lo.toNat hi.toNat s) := rfl

section
variable {s u v : State} {c t : Nat} {g : Graph}

/-! ## Kills change only the states of tasks, and leave a trapped core trapped -/

namespace TasksOnly

theorem foldl {α : Type} {f : State → α → State} (hf : ∀ t x, TasksOnly t (f t x)) (xs : List α) : TasksOnly s (xs.foldl f s) :=
  foldl_keeps (P := TasksOnly s) .refl fun u x _ hu => hu.trans (hf u x)

theorem graphKilled {job : Word} : TasksOnly s (s.graphKilled job) := ⟨_, _, _, rfl⟩

theorem taskKilled : TasksOnly s (s.taskKilled t) := by
  unfold State.taskKilled
  split
  · exact refl
  next ref _ =>
    extract_lets s1
    have hs1 : TasksOnly s s1 := (of_sched (Within.refl.poolStop.same .sched (by decide))).trans modTask
    split
    · extract_lets s2
      have hs2 : TasksOnly s s2 := hs1.trans graphKilled
      split
      · split
        · split
          · exact hs2.trans (of_sched (Within.refl.setInbound.same .sched (by decide)))
          · exact hs2
        · exact hs2
      · exact hs2
    · exact hs1

theorem killTile : TasksOnly s (killTile t s) := by
  unfold Machine.killTile
  dsimp only
  split
  · exact refl
  · exact refl
  · exact ((of_sched (Within.refl.voidDrain.same .sched (by decide))).trans taskKilled).trans zeroiseStart

theorem dropTask {ref : TaskRef} {k : TaskSt} : TasksOnly s (s.dropTask ref k) := by
  have hdropped : ∀ (u : State) f, TasksOnly s u → TasksOnly s (((u.poolStop ref).dropSaved ref).modTask ref k.tile f) := fun u f h =>
    (h.trans (of_sched (Within.refl.poolStop.dropSaved.same .sched (by decide)))).trans modTask
  have hlocked : TasksOnly s (match k.spill with | some (p, _) => s.lockPage p | none => s) := by
    split
    · exact of_sched rfl
    · exact refl
  unfold State.dropTask
  split
  · exact hdropped _ _ hlocked
  · exact hdropped _ _ hlocked
  · exact hdropped _ _ hlocked
  · exact refl

theorem killOf (g : Graph) (t : State) (k : Nat) :
    TasksOnly t (match (t.tile k).ref with | some (.graph job _ _) => if job = g.job then Machine.killTile k t else t | _ => t) := by
  split
  · split
    · exact killTile
    · exact refl
  · exact refl

theorem endTasks : TasksOnly s (s.endTasks g) := by
  unfold State.endTasks
  extract_lets s1
  have hs1 : TasksOnly s s1 := foldl (killOf g) _
  split
  · exact hs1
  · exact hs1.trans (foldl (fun t c => foldl (fun t k => dropTask) _) _)

theorem killGraph : TasksOnly s (s.killGraph g) := graphKilled.trans endTasks

end TasksOnly

/-- The core of a cluster has trapped, in the cluster's value and in every listed one. -/
structure CoreTrapped (c : Nat) (s : State) : Prop where
  core : (s.cluster c).core = .faulted
  listed : ∀ e ∈ s.clusters.entries, e.1 = c → e.2.core = .faulted

namespace CoreTrapped

theorem of_clusters (h : CoreTrapped c s) (hu : u.clusters = s.clusters) : CoreTrapped c u :=
  ⟨by rw [cluster_congr hu]; exact h.core, by rw [hu]; exact h.listed⟩

/-- A write of a cluster that keeps the trapped core. -/
theorem write {k : Nat} {x : ClusterSt} (h : CoreTrapped c s) (hx : k = c → x.core = .faulted)
    (hu : u.clusters = s.clusters.set ClusterSt.init k x) : CoreTrapped c u := by
  refine ⟨?_, fun e he hc => ?_⟩
  · rw [State.cluster, hu]
    by_cases hk : c = k
    · subst hk
      rw [Table.get_set]
      exact hx rfl
    · rw [Table.get_set_ne hk]
      exact h.core
  · rw [hu] at he
    rcases Table.mem_set he with rfl | ⟨he, -⟩
    · exact hx hc
    · exact h.listed e he hc

theorem setCluster {k : Nat} {x : ClusterSt} (h : CoreTrapped c s) (hx : k = c → x.core = .faulted) : CoreTrapped c (s.setCluster k x) :=
  h.write hx rfl

theorem trap {x : ClusterSt} (hx : x.core = .faulted) : CoreTrapped c (s.setCluster c x) := by
  refine ⟨by rw [State.setCluster_cluster]; exact hx, fun e he hc => ?_⟩
  rcases Table.mem_set he with rfl | ⟨-, hne⟩
  · exact hx
  · exact absurd hc hne

theorem poolStop {ref : TaskRef} (h : CoreTrapped c s) : CoreTrapped c (s.poolStop ref) := by
  have hfold : ∀ (es : List (Nat × ClusterSt)) (u : State), (∀ e ∈ es, e.1 = c → e.2.core = .faulted) → CoreTrapped c u →
      CoreTrapped c { u with clusters := es.foldl (fun t e => t.set ClusterSt.init e.1 (poolDrop ref e.2)) u.clusters } := by
    intro es
    induction es with
    | nil => exact fun u _ hu => hu
    | cons e es ih =>
      intro u hes hu
      exact ih (u.setCluster e.1 (poolDrop ref e.2)) (fun e he => hes e (.tail _ he)) (hu.setCluster fun hc => hes e (.head _) hc)
  exact hfold _ s h.listed h

theorem lockPage {p : Nat} (h : CoreTrapped c s) : CoreTrapped c (s.lockPage p) :=
  h.setCluster fun hp => by
    subst hp
    exact h.core

theorem foldl {α : Type} {f : State → α → State} (h : CoreTrapped c s) (hf : ∀ u x, CoreTrapped c u → CoreTrapped c (f u x)) (xs : List α) :
    CoreTrapped c (xs.foldl f s) := foldl_keeps h fun u x _ hu => hf u x hu

theorem taskKilled (h : CoreTrapped c s) : CoreTrapped c (s.taskKilled t) := by
  unfold State.taskKilled
  split
  · exact h
  next ref _ =>
    extract_lets s1
    have hs1 : CoreTrapped c s1 := (h.poolStop (ref := ref)).of_clusters (Within.refl.modTask.same .clusters (by decide))
    split
    · extract_lets s2
      have hs2 : CoreTrapped c s2 := hs1.of_clusters rfl
      split
      · split
        · split
          · exact hs2.of_clusters (Within.refl.setInbound.same .clusters (by decide))
          · exact hs2
        · exact hs2
      · exact hs2
    · exact hs1

theorem killTile (h : CoreTrapped c s) : CoreTrapped c (killTile t s) := by
  unfold Machine.killTile
  dsimp only
  split
  · exact h
  · exact h
  · exact (h.of_clusters (Within.refl.voidDrain.same .clusters (by decide))).taskKilled.of_clusters
      (Within.refl.zeroiseStart.same .clusters (by decide))

theorem dropTask {ref : TaskRef} {k : TaskSt} (h : CoreTrapped c s) : CoreTrapped c (s.dropTask ref k) := by
  have hdropped : ∀ (u : State) f, CoreTrapped c u → CoreTrapped c (((u.poolStop ref).dropSaved ref).modTask ref k.tile f) := fun u f hu =>
    hu.poolStop.of_clusters (Within.refl.dropSaved.modTask.same .clusters (by decide))
  have hlocked : CoreTrapped c (match k.spill with | some (p, _) => s.lockPage p | none => s) := by
    split
    · exact h.lockPage
    · exact h
  unfold State.dropTask
  split
  · exact hdropped _ _ hlocked
  · exact hdropped _ _ hlocked
  · exact hdropped _ _ hlocked
  · exact h

theorem endTasks (h : CoreTrapped c s) : CoreTrapped c (s.endTasks g) := by
  unfold State.endTasks
  extract_lets s1
  have hs1 : CoreTrapped c s1 := h.foldl (fun u k hu => by
    split
    · split
      · exact hu.killTile
      · exact hu
    · exact hu) _
  split
  · exact hs1
  · exact hs1.foldl (fun u c hu => hu.foldl (fun u k hu => hu.dropTask) _) _

theorem killGraph (h : CoreTrapped c s) : CoreTrapped c (s.killGraph g) := (h.of_clusters (u := s.graphKilled g.job) rfl).endTasks

end CoreTrapped

/-! ## Traps (19 R411, R415) -/

/-- The kills that FAULTED begins with. -/
def killAllOf (s : State) : State :=
  let s3 := (s.sched.graphs.filter (·.outcome.isNone)).foldl State.killGraph s
  s3.tiles.keys.foldl (fun s t => if (s.tile t).ref.isSome then killTile t s else s) s3

theorem killAllOf_tasks : TasksOnly s (killAllOf s) := by
  refine (TasksOnly.foldl (fun _ _ => .killGraph) _).trans (TasksOnly.foldl (fun u k => ?_) _)
  split
  · exact .killTile
  · exact .refl

theorem killAllOf_trapped (h : CoreTrapped c s) : CoreTrapped c (killAllOf s) := by
  refine (h.foldl (fun _ _ hu => hu.killGraph) _).foldl (fun u k hu => ?_) _
  split
  · exact hu.killTile
  · exact hu

theorem killAllOf_host : (killAllOf s).host = s.host :=
  ((Within.refl.foldl fun _ _ => Within.refl.killGraph).foldl fun _ _ => Within.ite Within.refl.killTile Within.refl).same .host (by decide)

/-- The device in FAULTED, before its kills: the core that trapped first, and the last frame of the table. -/
def faultedAt (n : Nat) (s : State) : State :=
  let s1 := s.setHost { s.host with state := .faulted, faultedCore := if s.host.state = .faulted then s.host.faultedCore else n }
  s1.setSched { s1.sched with halt := some s1.frameNow }

theorem faulted_eq (n : Nat) (s : State) : s.faulted n = killAllOf (faultedAt n s) := rfl

theorem faulted_spec (n : Nat) (s : State) : (s.faulted n).host.state = .faulted ∧ (s.faulted n).sched.halt = some s.frameNow ∧
    (s.faulted n).host.faultedCore = (if s.host.state = .faulted then s.host.faultedCore else n) := by
  rw [faulted_eq, killAllOf_host]
  refine ⟨rfl, ?_, rfl⟩
  obtain ⟨_, _, _, h⟩ := killAllOf_tasks (s := faultedAt n s)
  rw [h]
  rfl

/-- The core's own stop: its trap record, its cluster or the security core. -/
def coreStopped (k : FwCore) (cause lo hi : Nat) (s : State) : State :=
  let clu := match k with | .cluster c => c.val | _ => 0xFF
  let s1 := s.record (Code.fwFault (coreBlock k)) (coreUnit k) [cause, lo, hi, clu]
  match k with
  | .cluster c => s1.setCluster c.val { (s1.cluster c.val) with core := .faulted, reload := false }
  | .security => s1.setHost { s1.host with secFault := true }
  | _ => s1

theorem fwTrap_eq (k : FwCore) (cause lo hi : Nat) (s : State) : fwTrap k cause lo hi s =
    if s.host.state = .anchor then (coreStopped k cause lo hi s).setHost { (coreStopped k cause lo hi s).host with faultedCore := coreNumber k }
    else (coreStopped k cause lo hi s).faulted (coreNumber k) := rfl

theorem coreStopped_host (k : FwCore) (cause lo hi : Nat) (s : State) : (coreStopped k cause lo hi s).host.state = s.host.state ∧
    (coreStopped k cause lo hi s).host.faultedCore = s.host.faultedCore ∧ (coreStopped k cause lo hi s).time = s.time := by
  unfold coreStopped
  extract_lets clu s1
  have hhost : s1.host = s.host := Within.refl.record.same .host (by decide)
  have htime : s1.time = s.time := Within.refl.record.same .time (by decide)
  have hstate : s1.host.state = s.host.state := by rw [hhost]
  have hcore : s1.host.faultedCore = s.host.faultedCore := by rw [hhost]
  split <;> exact ⟨hstate, hcore, htime⟩

theorem fwTrap_anchor (k : FwCore) (cause lo hi : Nat) (h : s.host.state = .anchor) :
    (fwTrap k cause lo hi s).host.state = .anchor ∧ (fwTrap k cause lo hi s).host.faultedCore = coreNumber k := by
  rw [fwTrap_eq, if_pos h]
  exact ⟨(coreStopped_host k cause lo hi s).1.trans h, rfl⟩

theorem fwTrap_later (k : FwCore) (cause lo hi : Nat) (h : s.host.state ≠ .anchor) : (fwTrap k cause lo hi s).host.state = .faulted ∧
    (fwTrap k cause lo hi s).sched.halt = some s.frameNow ∧
    (fwTrap k cause lo hi s).host.faultedCore = (if s.host.state = .faulted then s.host.faultedCore else coreNumber k) := by
  obtain ⟨hstate, hcore, htime⟩ := coreStopped_host k cause lo hi s
  rw [fwTrap_eq, if_neg h]
  have hspec := faulted_spec (coreNumber k) (coreStopped k cause lo hi s)
  rw [hstate, hcore, State.frameNow, State.nowNs, htime] at hspec
  exact hspec

theorem fwTrap_cluster (c : ClusterId) (cause lo hi : Nat) : ((fwTrap (.cluster c) cause lo hi s).cluster c.val).core = .faulted := by
  have hstopped : CoreTrapped c.val (coreStopped (.cluster c) cause lo hi s) := .trap rfl
  rw [fwTrap_eq]
  split
  · exact hstopped.core
  · rw [faulted_eq]
    exact (killAllOf_trapped (hstopped.of_clusters (u := faultedAt _ _) rfl)).core

/-! ## LOAD, START, BERM_START, LOG_CONFIG -/

theorem wakes_rest (ds : List Nat) : ((ds.foldl State.wakeDomain s).radioStart).host = s.host ∧
    ((ds.foldl State.wakeDomain s).radioStart).sec = s.sec ∧ ((ds.foldl State.wakeDomain s).radioStart).time = s.time := by
  have h := (Within.refl.foldl (f := State.wakeDomain) (xs := ds) (s := s) fun _ _ => Within.refl.wakeDomain).radioStart
  exact ⟨h.same .host (by decide), h.same .sec (by decide), h.same .time (by decide)⟩

theorem loadBody_good {offset length : Nat} (hroom : offset + length ≤ stagingSize)
    (hgood : bootFault s.sec.fuses (s.extRead offset length) = none) :
    ∃ t : State, (t.host.state = .loaded ∧ t.host.fwMajor = BitVec.ofNat 8 (field (s.extRead offset length) 4 4 / 65536) ∧
      t.host.bundle.map (·.measure) = some (Config.sha256 ((s.extRead offset length).take 0xD60)) ∧ t.sec = s.sec) ∧
      loadBody offset length s = (t, .now Code.ok .empty) := by
  unfold loadBody
  extract_lets b
  have hb : b = s.extRead offset length := if_pos hroom
  split
  · next c hc =>
    rw [hb, hgood] at hc
    cases hc
  · rename_i v hash bundle src s1 _ _
    obtain ⟨hhost, hsec, -⟩ := wakes_rest (s := s1) [127, 128, 129, 130]
    refine ⟨_, ⟨?_, ?_, ?_, hsec⟩, rfl⟩
    · rw [hhost]
      rfl
    · rw [hhost]
      exact congrArg (fun b => BitVec.ofNat 8 (field b 4 4 / 65536)) hb
    · rw [hhost]
      exact congrArg (fun b => some (Config.sha256 (b.take 0xD60))) hb

theorem loadBody_bad {offset length : Nat} {code : Half} (hroom : offset + length ≤ stagingSize)
    (hbad : bootFault s.sec.fuses (s.extRead offset length) = some code) :
    loadBody offset length s = (s.record Code.secBootFail 0 [code.toNat], .now code .empty) := by
  unfold loadBody
  rw [if_pos hroom]
  simp only [hbad]
  rfl

theorem coresStart_core (hc : c < 12) (hheld : s.rst.held.contains (96 + c) = false) (hrom : s.host.berm = false ∨ c ≠ 0) :
    (s.coresStart.cluster c).core = .image := by
  unfold State.coresStart
  refine foldl_establishes (P := fun u => u.rst = s.rst ∧ u.host = s.host) (Q := fun u => (u.cluster c).core = .image) List.nodup_range
    (List.mem_range.2 hc) ⟨rfl, rfl⟩ (fun u i _ hu => ?_) (fun u hu => ?_) fun u i hi hu => ?_
  · split
    · exact hu
    · exact hu
  · rw [if_neg, State.setCluster_cluster]
    rw [hu.1, hu.2, hheld]
    rcases hrom with h | h
    · rw [h]
      simp
    · simp [h]
  · split
    · exact hu
    · rw [State.setCluster_cluster_ne _ _ _ hi.symm]
      exact hu

theorem startBody_spec : ∃ t : State, (t.host.state = .started ∧ t.host.coresHalted = false ∧ t.sched.nextJob = 1 ∧
    (∀ c, c < 12 → s.rst.held.contains (96 + c) = false → (s.host.berm = false ∨ c ≠ 0) → (t.cluster c).core = .image)) ∧
    startBody s = (t, .now Code.ok .empty) := by
  unfold startBody
  extract_lets src s1 src1
  have hhost : s1.host = { src with state := .started, coresHalted := false } := Within.refl.coresStart.same .host (by decide)
  have hcore : ∀ c, c < 12 → s.rst.held.contains (96 + c) = false → (s.host.berm = false ∨ c ≠ 0) → (s1.cluster c).core = .image :=
    fun c hc hheld hrom => coresStart_core (s := s.setHost { s.host with state := .started, coresHalted := false }) hc hheld hrom
  clear_value s1
  refine ⟨s1.setSched { src1 with nextJob := 1 }, ⟨?_, ?_, rfl, hcore⟩, rfl⟩
  · rw [State.setSched_host, hhost]
  · rw [State.setSched_host, hhost]

theorem reIncr_source (t : TimeUnit) : (reIncr t).source = t.source := by
  unfold reIncr
  split <;> rfl

theorem bermEnter_spec (ul : UlCell) (dl : DlCell) (port : Bool) (domain : Byte) : (s.bermEnter ul dl port domain).host.state = .berm ∧
    (s.bermEnter ul dl port domain).host.berm = true ∧ (s.bermEnter ul dl port domain).host.bermPending = true ∧
    (s.bermEnter ul dl port domain).time.source = port.toNat := by
  unfold State.bermEnter
  extract_lets n s1 src2 s2 s3 src4 s4 src5 s5
  obtain ⟨hhost, -, htime⟩ := wakes_rest (s := s5) [96, 108, 112, 127]
  rw [hhost, htime]
  refine ⟨rfl, rfl, rfl, ?_⟩
  refine (reIncr_source _).trans ?_
  cases port <;> rfl

theorem logConfigBody_good {base n level : Nat} (ha : aligned 0x10000 base = true) (hlo : 1024 ≤ n) (hhi : n ≤ 1048576) (hl : level ≤ 3)
    (hrange : s.extRange base (64 + 64 * n) = true) (hd : s.domainOk .management base (64 + 64 * n) = true) :
    logConfigBody base n level s =
      ((s.setHost { s.host with log := some { base, records := n, level, write := 0 } }).extWrite base (leBytes 8 0), .now Code.ok .empty) := by
  unfold logConfigBody
  dsimp only
  rw [if_neg (by simp only [ha, between_of_le hlo hhi, hrange, hd, Bool.not_true, Bool.false_eq_true, false_or, or_false]; omega)]
  rfl

theorem taken_extRead {h : QcpHdr} (a n : Nat) : (taken s h).extRead a n = s.extRead a n := by
  unfold taken
  split <;> rfl

end

/-- Settles O46: bring-up by the bodies of its messages, a trap by its core's stop and the kills of FAULTED. -/
theorem bringUp : Obligations.BringUp := by
  refine ⟨fun h offset length hroom => ?_, fun s h offset length c ha hc hroom hbad => ?_, fun h => ?_, fun h => ?_, fun h b hb => ?_,
    fun h b hb => ?_, fun h base records level hal hlo hhi hl => ?_, fun h mask => ?_, fun s k cause lo hi => ⟨fun hst => ?_, fun hst => ?_, ?_⟩⟩
  · exact answers_of_body (exec_load h offset length) fun s hgood => loadBody_good hroom hgood
  · have hbody := loadBody_bad (s := taken s h) hroom (by rw [taken_sec, taken_extRead]; exact hbad)
    rw [exec_load, serve_refused ha (by rw [hbody]; exact bne_iff_ne.2 hc), hbody] <;> rfl
  · exact answers_of_body (exec_start h) fun s _ => startBody_spec
  · exact serves_of_body (exec_run h) fun s _ => rfl
  · exact answers_of_body (exec_bermStart h b) fun s _ =>
      ⟨s.bermEnter b.ul b.dl b.port b.domain, bermEnter_spec b.ul b.dl b.port b.domain, if_pos hb⟩
  · refine refuses_of_body (exec_bermStart h b) (by decide) fun s _ => ?_
    exact if_neg (by rw [hb]; decide)
  · exact serves_of_body (exec_logConfig h base records level) fun s ⟨hrange, hd⟩ => logConfigBody_good hal hlo hhi hl hrange hd
  · exact serves_of_body (exec_traceSet h mask) fun s _ => rfl
  · exact gives_of_exec (exec_fwFault k cause lo hi s) (fwTrap_anchor k _ _ _ hst)
  · exact gives_of_exec (exec_fwFault k cause lo hi s) (fwTrap_later k _ _ _ hst)
  · rintro c rfl
    exact gives_of_exec (exec_fwFault (.cluster c) cause lo hi s) (fwTrap_cluster c _ _ _)

end Machine
end Sys2Proof
end

section
/-! PROOFS. Regions and fuses: REGION_SET, the end of its zeros, rollback, fuse writes, the seal (18 R385, R393, R402, R403). -/
namespace Sys2Proof.Machine

theorem exec_regionSet (h : QcpHdr) (index domain : Byte) (r2 : Half) (base size rc : Word) (s : State) :
    exec (.regionSet h index domain r2 base size rc) s =
      .next (serve s h adminRow (regionSetBody h index.toNat domain.toNat base.toNat size.toNat (r2 != 0 || rc != 0))) := rfl
theorem exec_regionZeroiseComplete (i : Fin 128) (s : State) : exec (.regionZeroiseComplete i) s = .next (regionZeroised i.val s) := rfl
theorem exec_rollbackCommit (h : QcpHdr) (good : Nat) (s : State) :
    exec (.rollbackCommit h good) s = .next (serve s h { role := .admin, legal := [.running] } (rollbackBody good)) := rfl
theorem exec_fuseWrite (h : QcpHdr) (x : FuseField) (s : State) :
    exec (.fuseWrite h x) s = .next (serve s h { role := .admin, legal := [.started] } (fuseWriteBody x)) := rfl
theorem exec_sealFuse (h : QcpHdr) (s : State) :
    exec (.sealFuse h) s = .next (serve s h { role := .admin, legal := [.started] } sealBody) := rfl

section
variable {s u : State} {h : QcpHdr} {i domain base size : Nat} {rsvd : Bool}

theorem region_congr (h : u.sec.regions = s.sec.regions) (i : Nat) : u.region i = s.region i := by rw [State.region, h] <;> rfl

/-! ## REGION_SET (18 R385) -/

/-- Base and size of a region of a domain, domain 3 taking none. -/
def regionFieldsOk (domain base size : Nat) : Bool :=
  if domain = 3 then base == 0 && size == 0 else decide (base < 2 ^ 28) && between 1 (2 ^ 28 - 1) size

/-- Are the fields of REGION_SET in range? -/
def RegionFields (i domain base size : Nat) (rsvd : Bool) : Prop :=
  ¬(127 < i ∨ 3 < domain ∨ (!regionFieldsOk domain base size) = true ∨ rsvd = true)

theorem regionSetBody_range (hf : ¬RegionFields i domain base size rsvd) : regionSetBody h i domain base size rsvd s = (s, .now Code.msgRange .empty) := by
  unfold regionSetBody
  exact if_pos (Classical.not_not.1 hf)

theorem regionSetBody_busy (hf : RegionFields i domain base size rsvd) (hb : (s.region i).changing = true ∨ (s.region i).sealed = true) :
    regionSetBody h i domain base size rsvd s = (s, .now Code.badState .empty) := by
  unfold regionSetBody
  exact (if_neg hf).trans (if_pos hb)

theorem regionSetBody_overlaps (hf : RegionFields i domain base size rsvd) (hd : domain ≠ 3) (hc : (s.region i).changing = false)
    (hs : (s.region i).sealed = false) (hr : s.extRange (base * 2 ^ 20) (size * 2 ^ 20) = true) (ho : s.overlapsEntry i base size = true) :
    regionSetBody h i domain base size rsvd s = (s, .now Code.cfgRange .empty) := by
  unfold regionSetBody
  refine (if_neg hf).trans ((if_neg (by simp [hc, hs])).trans ((if_neg ?_).trans (if_pos ⟨hd, ho⟩)))
  rintro ⟨-, h⟩
  rw [hr] at h
  cases h

/-- The entry that a change makes. -/
def changedRegion (r : Region) (domain base size : Nat) : Region :=
  if domain = 3 then { r with domain := 3, changing := true } else { domain := BitVec.ofNat 2 domain, sealed := false, changing := true, base, size }

/-- The state that begins a change: the entry changes, what changes domain reads as zeros, cache lines of the range are gone. -/
def regionMoved (h : QcpHdr) (i domain base size : Nat) (s : State) : State :=
  let new := changedRegion (s.region i) domain base size
  let s1 := s.setSec { s.sec with
    regions := s.sec.regions.set Region.init i new, changes := s.sec.changes ++ [{ index := i, hdr := some h }] }
  let moved := altered (s.region i) domain base size
  ((moved.1 ++ moved.2).foldl (fun s p => s.extZero p.1 (p.2 - p.1)) s1).wcInvalidate (new.base * 2 ^ 20) (new.size * 2 ^ 20)

theorem regionSetBody_moves (hf : RegionFields i domain base size rsvd) (hc : (s.region i).changing = false) (hs : (s.region i).sealed = false)
    (hr : domain ≠ 3 → s.extRange (base * 2 ^ 20) (size * 2 ^ 20) = true ∧ s.overlapsEntry i base size = false)
    (hu : ∀ x ∈ s.usedRanges, x.2 ≠ 0 → ∀ r ∈ (altered (s.region i) domain base size).1 ++ (altered (s.region i) domain base size).2,
      meetsEnd x r = false) :
    regionSetBody h i domain base size rsvd s = (regionMoved h i domain base size s, .later) := by
  have hused : (s.usedRanges.any fun u => u.2 != 0 &&
      ((altered (s.region i) domain base size).1 ++ (altered (s.region i) domain base size).2).any (meetsEnd u)) = false := by
    rw [List.any_eq_false]
    intro x hx
    rw [Bool.not_eq_true, Bool.and_eq_false_iff]
    by_cases hz : x.2 = 0
    · exact .inl (by rw [hz]; rfl)
    · refine .inr (List.any_eq_false.2 fun r hrm => ?_)
      rw [hu x hx hz r hrm]
      decide
  unfold regionSetBody
  refine (if_neg hf).trans ((if_neg (by simp [hc, hs])).trans ((if_neg ?_).trans ((if_neg ?_).trans ((if_neg ?_).trans rfl))))
  · rintro ⟨hd, h⟩
    rw [(hr hd).1] at h
    cases h
  · rintro ⟨hd, h⟩
    rw [(hr hd).2] at h
    cases h
  · exact fun h => Bool.false_ne_true (hused.symm.trans h)

theorem regionMoved_sec : (regionMoved h i domain base size s).sec = { s.sec with
    regions := s.sec.regions.set Region.init i (changedRegion (s.region i) domain base size)
    changes := s.sec.changes ++ [{ index := i, hdr := some h }] } :=
  ((Within.refl.foldl fun _ _ => Within.refl.extZero).wcInvalidate).same .sec (by decide)

theorem regionMoved_out : (regionMoved h i domain base size s).out = s.out :=
  ((Within.refl.setSec.foldl fun _ _ => Within.refl.extZero).wcInvalidate).same .out (by decide)

theorem regionMoved_region : (regionMoved h i domain base size s).region i = changedRegion (s.region i) domain base size := by
  unfold State.region
  rw [regionMoved_sec]
  exact Table.get_set ..

theorem regionMoved_region_ne {j : Nat} (hj : j ≠ i) : (regionMoved h i domain base size s).region j = s.region j := by
  unfold State.region
  rw [regionMoved_sec]
  exact Table.get_set_ne hj

theorem changedRegion_changing (r : Region) : (changedRegion r domain base size).changing = true := by
  unfold changedRegion
  split <;> rfl

/-- The fields as the statement has them, by words. -/
theorem regionFields_iff {index domain : Byte} {r2 : Half} {base size rc : Word} :
    (index.toNat ≤ 127 ∧ r2 = 0 ∧ rc = 0 ∧ domain.toNat ≤ 3 ∧ (if domain.toNat = 3 then base = 0 ∧ size = 0
      else base.toNat < 2 ^ 28 ∧ 1 ≤ size.toNat ∧ size.toNat < 2 ^ 28)) ↔
      RegionFields index.toNat domain.toNat base.toNat size.toNat (r2 != 0 || rc != 0) := by
  have hzero : ∀ w : Word, w.toNat = 0 ↔ w = 0 := fun w => ⟨fun h => BitVec.eq_of_toNat_eq h, fun h => by rw [h]; rfl⟩
  have hok : regionFieldsOk domain.toNat base.toNat size.toNat = true ↔ (if domain.toNat = 3 then base = 0 ∧ size = 0
      else base.toNat < 2 ^ 28 ∧ 1 ≤ size.toNat ∧ size.toNat < 2 ^ 28) := by
    unfold regionFieldsOk
    split
    · rw [Bool.and_eq_true, beq_iff_eq, beq_iff_eq, hzero, hzero]
    · simp only [between, Bool.and_eq_true, decide_eq_true_eq]
      omega
  rw [← hok]
  clear hok
  unfold RegionFields
  generalize regionFieldsOk domain.toNat base.toNat size.toNat = ok
  have hrsvd : (r2 != 0 || rc != 0) = false ↔ r2 = 0 ∧ rc = 0 := by
    rw [Bool.or_eq_false_iff, bne_eq_false_iff_eq, bne_eq_false_iff_eq]
  constructor
  · rintro ⟨hi, hr2, hrc, hd, hb⟩ (h | h | h | h)
    · exact absurd hi (by omega)
    · exact absurd hd (by omega)
    · exact absurd hb (by simpa using h)
    · exact absurd (hrsvd.2 ⟨hr2, hrc⟩) (by rw [h]; decide)
  · intro h
    rw [not_or, not_or, not_or] at h
    obtain ⟨hi, hd, hb, hr⟩ := h
    obtain ⟨hr2, hrc⟩ := hrsvd.1 (Bool.eq_false_iff.2 hr)
    exact ⟨by omega, hr2, hrc, by omega, by simpa using hb⟩

/-! ## The end of a change -/

theorem regionZeroised_region {j : Nat} (hc : (s.region i).changing = true) : (regionZeroised i s).region j =
    if j = i then (if (s.region i).domain = 3 then Region.init else { s.region i with changing := false }) else s.region j := by
  unfold regionZeroised
  extract_lets r new src s1
  rw [if_neg (by simp [show r.changing = true from hc])]
  have hs1 : s1.region j = if j = i then new else s.region j := by
    split
    · next hj =>
      subst hj
      exact Table.get_set ..
    · next hj => exact Table.get_set_ne hj
  have hreply : ∀ (h : QcpHdr) (u : State), (u.reply h false Code.ok .empty).region j = u.region j := fun h u =>
    region_congr (by rw [show (u.reply h false Code.ok .empty).sec = u.sec from Within.refl.reply.same .sec (by decide)]) j
  split
  · rw [hreply]
    exact hs1
  · exact hs1

/-! ## Fuses (18 R393, R402, R403) -/

theorem rollbackBody_good {good : Nat} {b : Bundle} (hb : s.host.bundle = some b) (hgood : b.security - s.sec.fuses.rollback ≤ good) :
    rollbackBody good s =
      (s.setFuses { s.sec.fuses with rollback := s.sec.fuses.rollback + (b.security - s.sec.fuses.rollback) }, .now Code.ok .empty) := by
  unfold rollbackBody
  simp only [hb]
  exact if_pos hgood

theorem opRsaBody_first {k : List Byte} (hl : s.sec.lifecycle = .opened) (hn : s.sec.fuses.opRsa = none) :
    fuseWriteBody (.opRsa k) s = (s.setFuses { s.sec.fuses with opRsa := some k }, .now Code.ok .empty) := by
  unfold fuseWriteBody
  exact if_pos ⟨by rw [hl]; rfl, by rw [hn]; rfl⟩

theorem opRsaBody_late {k : List Byte} (h : s.sec.lifecycle ≠ .opened ∨ s.sec.fuses.opRsa ≠ none) :
    fuseWriteBody (.opRsa k) s = (s, .now Code.badState .empty) := by
  unfold fuseWriteBody
  refine if_neg ?_
  rintro ⟨h1, h2⟩
  rcases h with h | h
  · exact h (beq_iff_eq.1 h1)
  · exact h (Option.isNone_iff_eq_none.1 h2)

theorem sealBody_opened (hk : s.sec.fuses.opRsa ≠ none) (hl : s.sec.lifecycle = .opened) : sealBody s =
    (s.setSec { s.sec with fuses := { s.sec.fuses with sealBlown := true }, lifecycle := .sealed }, .now Code.ok .empty) := by
  unfold sealBody
  dsimp only
  rw [if_neg (fun h => hk (Option.isNone_iff_eq_none.1 h)), if_pos hl]
  rfl

theorem sealBody_unset (hk : s.sec.fuses.opRsa = none) : sealBody s = (s, .now Code.badState .empty) := by
  unfold sealBody
  exact if_pos (by rw [hk]; rfl)

end

/-- Settles O47: REGION_SET by its checks and the state that begins its change, fuses by their own checks. -/
theorem regionsAndFuses : Obligations.RegionsAndFuses := by
  refine ⟨?_, fun s i hc => ?_, fun h good b => ?_, fun h => ?_, fun h k => ?_, fun h k => ?_, fun h => ?_, fun h => ?_⟩
  · intro h index domain r2 base size rc m i fields placed moved
    have hiff : fields ↔ RegionFields index.toNat domain.toNat base.toNat size.toNat (r2 != 0 || rc != 0) := regionFields_iff
    refine ⟨fun hf => ?_, fun hf => ?_, fun hf => ?_, fun hf hd => ?_⟩
    · refine starts_of_body (exec_regionSet h index domain r2 base size rc) fun s ⟨hc, hs, hr, hu⟩ =>
        ⟨_, ⟨?_, regionMoved_out, fun j hj => regionMoved_region_ne hj, fun hd => ?_⟩, regionSetBody_moves (hiff.1 hf) hc hs hr hu⟩
      · rw [regionMoved_region]
        exact changedRegion_changing _
      · rw [regionMoved_region, changedRegion, if_neg hd]
        have hle : domain.toNat ≤ 3 := hf.2.2.2.1
        exact ⟨(BitVec.toNat_ofNat _ _).trans (Nat.mod_eq_of_lt (by omega)), rfl, rfl⟩
    · exact refuses_of_body (exec_regionSet h index domain r2 base size rc) (by decide) fun s _ => regionSetBody_range (mt hiff.2 hf)
    · exact refuses_of_body (exec_regionSet h index domain r2 base size rc) (by decide) fun s hb => regionSetBody_busy (hiff.1 hf) hb
    · exact refuses_of_body (exec_regionSet h index domain r2 base size rc) (by decide) fun s ⟨hc, hs, hr, ho⟩ =>
        regionSetBody_overlaps (hiff.1 hf) hd hc hs hr ho
  · refine gives_of_exec (exec_regionZeroiseComplete i s) ⟨?_, fun j hj => ?_, fun hd => ?_⟩
    · rw [regionZeroised_region hc, if_pos rfl]
      split <;> rfl
    · rw [regionZeroised_region hc, if_neg hj]
    · rw [regionZeroised_region hc, if_pos rfl, if_neg hd]
      exact ⟨rfl, rfl⟩
  · exact serves_of_body (exec_rollbackCommit h good) fun s ⟨hb, hgood⟩ => rollbackBody_good hb hgood
  · exact serves_of_body (exec_fuseWrite h .debugDisabled) fun s _ => rfl
  · exact serves_of_body (exec_fuseWrite h (.opRsa k)) fun s ⟨hl, hn⟩ => opRsaBody_first hl hn
  · exact refuses_of_body (exec_fuseWrite h (.opRsa k)) (by decide) fun s hl => opRsaBody_late hl
  · exact serves_of_body (exec_sealFuse h) fun s ⟨hk, hl⟩ => sealBody_opened hk hl
  · exact refuses_of_body (exec_sealFuse h) (by decide) fun s hk => sealBody_unset hk

end Sys2Proof.Machine
end

section
/-! PROOFS. Sealed models, quotes, debug unlock and crash dumps (18 R397 to R400, R405, 19 R429). -/
namespace Sys2Proof.Machine

theorem exec_modelLoad (h : QcpHdr) (addr : Dword) (region : Byte) (s : State) : exec (.modelLoad h addr region) s =
    .next (serve s h { role := .operate, legal := [.running] } (modelLoadBody h addr.toNat region.toNat)) := rfl
theorem exec_modelLoadComplete (s : State) : exec .modelLoadComplete s = .next (modelLoaded s) := rfl
theorem exec_modelUnload (h : QcpHdr) (slot : Byte) (s : State) : exec (.modelUnload h slot) s =
    .next (serve s h { role := .operate, legal := [.running] } (modelUnloadBody slot.toNat)) := rfl
theorem exec_quote (h : QcpHdr) (nonce : List Byte) (s : State) : exec (.quote h nonce) s =
    .next (serve s h { role := .read, legal := [.loaded, .started, .running] } (quoteBody nonce)) := rfl
theorem exec_debugChallenge (h : QcpHdr) (s : State) : exec (.debugChallenge h) s = .next (serve s h adminRow challengeBody) := rfl
theorem exec_debugUnlock (h : QcpHdr) (b : UnlockBody) (s : State) : exec (.debugUnlock h b) s = .next (serve s h adminRow (unlockBody b)) := rfl
theorem exec_dumpReady (job : Word) (s : State) : exec (.dumpReady job) s = .next (dumpReady job s) := rfl

section
variable {s u : State} {h : QcpHdr} {k : KeySlot} {l : ModelLoad}

/-! ## MODEL_LOAD, its completion and MODEL_UNLOAD (18 R397) -/

/-- The region's entry is sealed, and the load is under way. -/
def modelLoading (h : QcpHdr) (slot region : Nat) (k : KeySlot) (s : State) : State :=
  s.setSec { s.sec with
    regions := s.sec.regions.set Region.init region { s.region region with sealed := true },
    loading := some { slot, region, hdr := some h, filled := k } }

theorem modelLoadBody_starts {addr region slot : Nat} (hregion : region ≤ 127) (hlife : s.sec.lifecycle = .sealed) (hnone : s.sec.loading = none)
    (hslot : (upTo 64).find? (fun i => (s.sec.slots.get none i).isNone) = some slot) (hdom : (s.region region).domain = 1)
    (hopen : (s.region region).sealed = false) (hstill : (s.region region).changing = false) (hin : s.inRegion .inference addr 0x700 = true)
    (hk : s.modelHeader addr region = some k) (hsize : 4096 * k.nGraph ≤ (s.region region).size * 2 ^ 20) :
    modelLoadBody h addr region s = (modelLoading h slot region k s, .later) := by
  unfold modelLoadBody
  extract_lets r usable
  have husable : ¬(!usable) = true := by simp [usable, r, hregion, hdom, hopen, hstill, hin]
  have hready : ¬(s.sec.lifecycle ≠ .sealed ∨ s.sec.loading.isSome = true) := by simp [hlife, hnone]
  clear_value usable
  simp only [hslot]
  rw [if_neg hready, if_neg husable]
  simp only [hk]
  exact if_neg (Nat.not_lt.2 hsize)

theorem unsealRegion_sec (i : Nat) : (s.unsealRegion i).sec =
    { s.sec with regions := s.sec.regions.set Region.init i { s.region i with sealed := false } } := rfl

theorem unsealRegion_unsealed (i : Nat) : ((s.unsealRegion i).region i).sealed = false := by
  rw [State.region, unsealRegion_sec, Table.get_set]

/-- The state in which the steps after the decryption run. -/
def modelDecrypted (s : State) : State := s.setSec { s.sec with loading := none }

theorem modelLoaded_unopened (hl : s.sec.loading = some l) (ho : s.openGraph l.filled = none) :
    (modelLoaded s).sec = ((modelDecrypted s).unsealRegion l.region).sec := by
  unfold modelLoaded
  simp only [hl, ho]
  split
  · exact Within.refl.reply.same .sec (by decide)
  · rfl

theorem modelLoaded_filled {bs : List Byte} (hl : s.sec.loading = some l) (ho : s.openGraph l.filled = some bs)
    (hr : (relocateGraph l.filled l.slot ((modelDecrypted s).extWrite l.filled.graph bs)).2 = true)
    (hok : (relocateGraph l.filled l.slot ((modelDecrypted s).extWrite l.filled.graph bs)).1.modelGraphOk l.filled = true) :
    (modelLoaded s).sec = { (modelDecrypted s).sec with slots := s.sec.slots.set none l.slot (some l.filled) } := by
  have hsec : (relocateGraph l.filled l.slot ((modelDecrypted s).extWrite l.filled.graph bs)).1.sec = (modelDecrypted s).sec :=
    Within.refl.extWrite.relocateGraph.same .sec (by decide)
  unfold modelDecrypted at hr hok hsec ⊢
  unfold modelLoaded
  simp only [hl, ho]
  rw [if_pos (by rw [hr, hok]; rfl)]
  split
  · refine (Within.refl.reply.same .sec (by decide)).trans ?_
    rw [State.setSec_sec, hsec]
    rfl
  · rw [State.setSec_sec, hsec]
    rfl

/-- The state that an unload leaves. -/
def modelUnloaded (slot : Nat) (k : KeySlot) (s : State) : State :=
  (s.unsealRegion k.region).setSec { (s.unsealRegion k.region).sec with slots := (s.unsealRegion k.region).sec.slots.set none slot none }

theorem modelUnloadBody_free {slot : Nat} (hs : slot ≤ 63) (hk : s.sec.slots.get none slot = some k) (hj : k.job = none) :
    modelUnloadBody slot s = (modelUnloaded slot k s, .now Code.ok .empty) := by
  unfold modelUnloadBody
  simp only [hk, hj]
  exact if_neg (Nat.not_lt.2 hs)

theorem modelUnloadBody_bound {slot : Nat} (hs : slot ≤ 63) (hk : s.sec.slots.get none slot = some k) (hj : k.job ≠ none) :
    modelUnloadBody slot s = (s, .now Code.badState .empty) := by
  unfold modelUnloadBody
  simp only [hk]
  exact (if_neg (Nat.not_lt.2 hs)).trans (if_pos (Option.isSome_iff_ne_none.2 hj))

/-! ## Debug unlock (18 R405) -/

/-- Adaptation stores and cache lines gone, the memory keys not replaced yet. -/
structure Emptied (s u : State) : Prop where
  adapt : u.adapt = .empty
  lines : u.wcache.lines = .empty
  gen : u.sec.keyGen = s.sec.keyGen

theorem Emptied.unsealRegion {i : Nat} (h : Emptied s u) : Emptied s (u.unsealRegion i) where
  adapt := (Within.refl.unsealRegion.same .adapt (by decide)).trans h.adapt
  lines := by
    show u.wcache.lines.clearRange _ _ = .empty
    rw [h.lines]
    rfl
  gen := h.gen

theorem Emptied.radioPower (h : Emptied s u) : Emptied s u.radioPower where
  adapt := (Within.refl.radioPower.same .adapt (by decide)).trans h.adapt
  lines := (congrArg WeightCache.lines (Within.refl.radioPower.same .wcache (by decide))).trans h.lines
  gen := (congrArg Security.keyGen (Within.refl.radioPower.same .sec (by decide))).trans h.gen

theorem debugOpens_spec (s : State) : s.debugOpens.sec.lifecycle = .debug ∧ s.debugOpens.sec.debugOpen = true ∧
    s.debugOpens.sec.challenge = none ∧ s.debugOpens.sec.slots = .empty ∧ s.debugOpens.sec.keyGen = s.sec.keyGen + 1 ∧
    s.debugOpens.adapt = .empty ∧ s.debugOpens.wcache.lines = .empty := by
  have hkilled : s.killAll.sec = s.sec := Within.refl.killAll.same .sec (by decide)
  unfold State.debugOpens
  extract_lets s1 c1 sched assured cache s2 sealed s3
  have h2 : Emptied s s2 := ⟨rfl, rfl, congrArg Security.keyGen hkilled⟩
  have h3 : Emptied s s3 := foldl_keeps h2.radioPower fun _ _ _ hu => hu.unsealRegion
  clear_value s3
  exact ⟨rfl, rfl, rfl, rfl, congrArg (· + 1) h3.gen, h3.adapt, h3.lines⟩

theorem unlockBody_opens {b : UnlockBody} {c : List Byte} (hd : s.sec.fuses.debugDisabled = false) (hc : s.sec.challenge = some c)
    (hok : unlockOk s.sec.fuses c b = true) : unlockBody b s = (s.debugOpens, .now Code.ok .empty) := by
  unfold unlockBody
  simp only [hc]
  exact (if_neg (by rw [hd]; decide)).trans (if_pos hok)

theorem unlockBody_disabled {b : UnlockBody} (hd : s.sec.fuses.debugDisabled = true) : unlockBody b s = (s, .now Code.badState .empty) := by
  unfold unlockBody
  exact if_pos hd

/-! ## Crash dumps (19 R429) -/

theorem notify_out {n : Nat} {type : Half} {body : ReplyBody} {x : Session} (hx : s.session n = some x) :
    (s.notify n type body).out = s.out ++ [.notify (BitVec.ofNat 16 n) type x.nextSeq body] := by
  unfold State.notify
  rw [if_pos (by rw [hx]; rfl)]
  simp only [hx]
  rfl

/-- The dump lies in memory, and waits no longer. -/
def dumpWritten (job : Word) (a : Nat) (bytes : List Byte) (s : State) : State :=
  let u := s.draw.2.draw.2.extWrite a bytes
  u.setSched { u.sched with dumps := u.sched.dumps.filter (·.job ≠ job) }

theorem dumpWritten_within (job : Word) (a : Nat) (bytes : List Byte) (s : State) :
    Within [.free, .events, .mem, .wcache, .sched] s (dumpWritten job a bytes s) := Within.refl.draw.draw.extWrite.setSched.mono

theorem dumpReady_eq {job : Word} {d : Dump} {g : Graph} {n : Fin 64} (hd : s.sched.dumps.find? (·.job = job) = some d)
    (hg : s.graph job = some g) (hn : g.modelSlot = some n) (hk : s.sec.slots.get none n.val = some k) :
    ∃ bytes, dumpReady job s = (dumpWritten job g.dumpAddr bytes s).notify g.session 0x8002 (.nums [job.toNat, bytes.length]) := by
  unfold dumpReady
  simp only [hd, hg, hn, Option.bind_some, hk]
  exact ⟨_, rfl⟩

theorem dumpReady_spec {job : Word} {d : Dump} {g : Graph} {n : Fin 64} {x : Session} (hd : s.sched.dumps.find? (·.job = job) = some d)
    (hg : s.graph job = some g) (hn : g.modelSlot = some n) (hk : s.sec.slots.get none n.val = some k) (hx : s.session g.session = some x) :
    (∀ y ∈ (dumpReady job s).sched.dumps, y.job ≠ job) ∧
      ∃ len, (dumpReady job s).out = s.out ++ [.notify (BitVec.ofNat 16 g.session) 0x8002 x.nextSeq (.nums [job.toNat, len])] := by
  obtain ⟨bytes, he⟩ := dumpReady_eq hd hg hn hk
  have hw := dumpWritten_within job g.dumpAddr bytes s
  rw [he]
  constructor
  · rw [Within.refl.notify.same .sched (by decide)]
    intro y hy
    simpa using (List.mem_filter.1 hy).2
  · refine ⟨bytes.length, (notify_out ((session_congr (hw.same .host (by decide)) _).trans hx)).trans ?_⟩
    rw [hw.same .out (by decide)]

end

/-- Settles O48: each message by its body, the unlock by what the kills, the power of the radio blocks and the unsealed regions keep. -/
theorem modelsAndDebug : Obligations.ModelsAndDebug := by
  refine ⟨fun h addr region slot k hregion => ?_, fun s l bs hl ho => ?_, fun s l hl ho => ?_, fun h slot k hs => ?_, fun h slot k hs => ?_,
    fun h nonce => ?_, fun h => ?_, fun h b c => ?_, fun h b => ?_, fun s job d g n k x hd hg hn hk hx => ?_⟩
  · exact starts_of_body (exec_modelLoad h addr region) fun s ⟨hlife, hnone, hslot, hdom, hopen, hstill, hin, hk, hsize⟩ =>
      ⟨modelLoading h slot region.toNat k s, ⟨congrArg Region.sealed (Table.get_set ..), rfl, rfl⟩,
        modelLoadBody_starts hregion hlife hnone hslot hdom hopen hstill hin hk hsize⟩
  · intro r hr hok
    refine gives_of_exec (exec_modelLoadComplete s) ?_
    rw [modelLoaded_filled hl ho hr hok]
    exact ⟨rfl, Table.get_set ..⟩
  · refine gives_of_exec (exec_modelLoadComplete s) ?_
    rw [region_congr (congrArg Security.regions (modelLoaded_unopened hl ho)), modelLoaded_unopened hl ho]
    exact ⟨rfl, rfl, unsealRegion_unsealed l.region⟩
  · exact answers_of_body (exec_modelUnload h slot) fun s ⟨hk, hj⟩ =>
      ⟨modelUnloaded slot.toNat k s, ⟨Table.get_set .., unsealRegion_unsealed (s := s) k.region⟩, modelUnloadBody_free hs hk hj⟩
  · exact refuses_of_body (exec_modelUnload h slot) (by decide) fun s ⟨hk, hj⟩ => modelUnloadBody_bound hs hk hj
  · exact serves_of_body (exec_quote h nonce) fun s _ => rfl
  · exact serves_of_body (exec_debugChallenge h) fun s _ => rfl
  · exact answers_of_body (exec_debugUnlock h b) fun s ⟨hd, hc, hok⟩ => ⟨s.debugOpens, debugOpens_spec s, unlockBody_opens hd hc hok⟩
  · exact refuses_of_body (exec_debugUnlock h b) (by decide) fun s hd => unlockBody_disabled hd
  · exact gives_of_exec (exec_dumpReady job s) (dumpReady_spec hd hg hn hk hx)

end Sys2Proof.Machine
end

section
/-! PROOFS. Offsets, steps, slews, holdover and reference windows of the time unit (20 R437 to R446). -/
namespace Sys2Proof.Machine

theorem exec_ptpOffset (theta : Int) (s : State) : exec (.ptpOffset theta) s = .next (ptpOffset theta s) := rfl
theorem exec_announceTimeout (s : State) : exec .announceTimeout s = .next (announceTimeout s) := rfl
theorem exec_holdoverLimit (s : State) : exec .holdoverLimit s = .next (holdoverLimit s) := rfl
theorem exec_timStepWrite (step : Dword) (s : State) : exec (.timStepWrite step) s = .next (stepWrite step s) := rfl
theorem exec_slewComplete (s : State) : exec .slewComplete s = .next s.slewEnd := rfl
theorem exec_refMonitorWindow (count : Nat) (s : State) : exec (.refMonitorWindow count) s = .next (refWindow count s) := rfl
theorem exec_synceMeasure (offset : Int) (s : State) : exec (.synceMeasure offset) s = .next (synceMeasure offset s) := rfl

section
variable {s u : State}

/-! ## What the parts of the time unit change -/

theorem reIncr_eq (t : TimeUnit) : ∃ incr, reIncr t = { t with incr } := by
  unfold reIncr
  split <;> exact ⟨_, rfl⟩

/-- Nothing of the time unit changed but its pulse outputs. -/
def PulsesOnly (s u : State) : Prop := ∃ pps, u.time = { s.time with pps }

theorem PulsesOnly.setPps {n : Nat} {p : Pps} (h : PulsesOnly s u) : PulsesOnly s (u.setPps n p) := by
  obtain ⟨pps, he⟩ := h
  refine ⟨setAt u.time.pps n p, ?_⟩
  rw [State.setPps, State.setTime_time, he]

theorem PulsesOnly.raiseEdge {n : Nat} (h : PulsesOnly s u) : PulsesOnly s (u.raiseEdge n) := by
  unfold State.raiseEdge
  dsimp only
  split
  · exact h.setPps
  · exact h

/-- The time unit after a step, but for its pulse outputs. -/
def steppedTime (t : TimeUnit) (d : Int) : TimeUnit :=
  let span : Int := 2 ^ 48 * 1000000000 * 2 ^ 40
  { t with now := ((t.now + d) % span).toNat, slew := 0, lastTheta := t.lastTheta.map fun x => (x + d).toNat, avgAt := (t.avgAt + d).toNat }

theorem stepTime_time (s : State) (d : Int) : ∃ pps, (s.stepTime d).time = { steppedTime s.time d with pps } :=
  foldl_keeps (P := PulsesOnly (s.setTime (steppedTime s.time d))) ⟨s.time.pps, rfl⟩ fun _ _ _ hu => hu.raiseEdge

/-- Nothing of the time unit changed but c, its average and the increment. -/
def SteeringOnly (s u : State) : Prop := ∃ c cAvg avgAt incr, u.time = { s.time with c, cAvg, avgAt, incr }

theorem setC_time (s : State) (c : Int) : SteeringOnly s (s.setC c) := by
  unfold State.setC
  dsimp only
  split
  · obtain ⟨incr, h⟩ := reIncr_eq { averaged s.time with c }
    exact ⟨_, _, _, incr, h⟩
  · obtain ⟨incr, h⟩ := reIncr_eq { averaged s.time with c := signedOf 48 s.draw.1 }
    exact ⟨_, _, _, incr, h⟩

theorem servo_time (s : State) (theta : Int) : SteeringOnly s (s.servo theta) := by
  unfold State.servo
  dsimp only
  split
  · exact ⟨_, _, _, _, rfl⟩
  · split
    · exact ⟨_, _, _, _, rfl⟩
    · split
      · exact setC_time s.draw.2 _
      · exact setC_time s _

theorem timeHeld_congr (hr : u.radio = s.radio) (hw : u.sweep = s.sweep) (hc : u.capture = s.capture) : u.timeHeld = s.timeHeld := by
  rw [State.timeHeld, State.replaying, hr, hw, hc]; rfl

theorem servo_timeHeld (s : State) (theta : Int) : (s.servo theta).timeHeld = s.timeHeld :=
  have h : Within _ s (s.servo theta) := Within.refl.servo
  timeHeld_congr (h.same .radio (by decide)) (h.same .sweep (by decide)) (h.same .capture (by decide))

theorem correct_held {x : Int} (h : s.timeHeld = true) : s.correct x = s.setTime { s.time with slew := x * 2 ^ 24 } := if_pos h

theorem correct_free {x : Int} (h : s.timeHeld = false) : s.correct x = s.stepTime (x * 2 ^ 24) := if_neg (by rw [h]; decide)

theorem correct_okRun (s : State) (x : Int) : (s.correct x).time.okRun = s.time.okRun ∧ (s.correct x).time.state = s.time.state := by
  cases h : s.timeHeld with
  | true => rw [correct_held h]; exact ⟨rfl, rfl⟩
  | false =>
    obtain ⟨pps, he⟩ := stepTime_time s (x * 2 ^ 24)
    rw [correct_free h, he]
    exact ⟨rfl, rfl⟩

theorem leveeRefuse_time (s : State) (x : Int) : (s.leveeRefuse x).time = { s.time with leveeFlag := true } :=
  Within.refl.record.same .time (by decide)

/-! ## Offsets (20 R445) -/

/-- Device time at the last accepted θ is noted. -/
def thetaTaken (s : State) : State := s.setTime { s.time with lastTheta := some s.time.now }

/-- No mode waits, and the offset is looked at. -/
structure Listening (s : State) : Prop where
  source : s.time.source ≤ 9
  mode : s.time.nextMode = none
  replay : s.capture.replay = none
  reference : ¬(s.time.state = .holdover ∧ s.time.refLost = true)

theorem nextMode_none {t : TimeUnit} (h : t.nextMode = none) : nextMode t = t := by
  unfold nextMode
  simp only [h]

theorem Listening.looked (h : Listening s) :
    ¬((nextMode s.time).source = 15 ∨ s.replaying = true ∨ (nextMode s.time).state = .holdover ∧ (nextMode s.time).refLost = true) := by
  rw [nextMode_none h.mode]
  rintro (hs | hr | hl)
  · exact absurd h.source (by rw [hs]; decide)
  · rw [State.replaying, h.replay] at hr
    cases hr
  · exact h.reference hl

/-- The first θ of all is noted, and ACQUIRE begins. -/
def thetaFirst (theta : Int) (s : State) : State :=
  thetaTaken (s.setTime { s.time with state := .acquire, okRun := if decide (theta.natAbs ≤ 100 * 2 ^ 16) = true then 1 else 0 })

theorem ptpOffset_first {theta : Int} (h : Listening s) (hf : s.time.state = .free) (hm : s.time.mode ≠ 0) :
    ptpOffset theta s = thetaFirst theta (s.stepTime (-theta * 2 ^ 24)) := by
  unfold ptpOffset State.offset
  rw [if_pos h.source]
  refine (if_neg h.looked).trans ?_
  simp only [nextMode_none h.mode]
  exact (if_pos hf).trans (congrArg (thetaFirst theta) (if_neg hm))

theorem ptpOffset_beyond {theta : Int} (h : Listening s) (hf : s.time.state ≠ .free) (hl : s.time.levee * 2 ^ 16 < theta.natAbs) :
    ptpOffset theta s = s.leveeRefuse theta := by
  unfold ptpOffset State.offset
  rw [if_pos h.source]
  refine (if_neg h.looked).trans ?_
  simp only [nextMode_none h.mode]
  exact (if_neg hf).trans (if_pos (decide_eq_true hl))

/-- The state in which an accepted later θ has moved c and the phase. -/
def thetaApplied (theta : Int) (s : State) : State :=
  if s.time.mode = 0 then s.servo theta else (s.servo theta).correct (-theta)

/-- The small offsets in a row. -/
def thetaRun (theta : Int) (s : State) : Nat := if decide (theta.natAbs ≤ 100 * 2 ^ 16) = true then (thetaApplied theta s).time.okRun + 1 else 0

theorem ptpOffset_later {theta : Int} (h : Listening s) (hf : s.time.state ≠ .free) (hl : theta.natAbs ≤ s.time.levee * 2 ^ 16) :
    ptpOffset theta s =
      let s3 := thetaTaken ((thetaApplied theta s).setTime { (thetaApplied theta s).time with okRun := thetaRun theta s })
      if s.time.state = .holdover ∨ s.time.state = .acquire ∧ 16 ≤ thetaRun theta s then s3.lock else s3 := by
  unfold ptpOffset State.offset
  rw [if_pos h.source]
  refine (if_neg h.looked).trans ?_
  simp only [nextMode_none h.mode]
  exact (if_neg hf).trans (if_neg fun hb => absurd (of_decide_eq_true hb) (Nat.not_lt.2 hl))

theorem thetaApplied_okRun (theta : Int) (s : State) : (thetaApplied theta s).time.okRun = s.time.okRun := by
  obtain ⟨_, _, _, _, he⟩ := servo_time s theta
  unfold thetaApplied
  split
  · rw [he]
  · rw [(correct_okRun ..).1, he]

theorem ptpOffset_locked {theta : Int} (h : Listening s) (hs : s.time.state = .locked) (hl : theta.natAbs ≤ s.time.levee * 2 ^ 16)
    (hm : s.time.mode ≠ 0) (hh : s.timeHeld = true) : (ptpOffset theta s).time.slew = -theta * 2 ^ 24 ∧
      (ptpOffset theta s).time.now = s.time.now ∧ (ptpOffset theta s).time.state = .locked ∧
        (ptpOffset theta s).time.lastTheta = some s.time.now := by
  have ha : thetaApplied theta s = (s.servo theta).setTime { (s.servo theta).time with slew := -theta * 2 ^ 24 } :=
    (if_neg hm).trans (correct_held (by rw [servo_timeHeld, hh]))
  obtain ⟨_, _, _, _, he⟩ := servo_time s theta
  rw [ptpOffset_later h (by rw [hs]; decide) hl]
  dsimp only
  rw [if_neg (by simp [hs]), ha]
  simp only [thetaTaken, State.setTime_time, he, hs, and_self]

theorem lock_state (s : State) : s.lock.time.state = .locked := rfl

theorem ptpOffset_sixteenth {theta : Int} (h : Listening s) (hs : s.time.state = .acquire) (hl : theta.natAbs ≤ s.time.levee * 2 ^ 16)
    (hsmall : theta.natAbs ≤ 100 * 2 ^ 16) (hr : s.time.okRun = 15) : (ptpOffset theta s).time.state = .locked := by
  have hrun : thetaRun theta s = 16 := (if_pos (decide_eq_true hsmall)).trans (by rw [thetaApplied_okRun, hr])
  rw [ptpOffset_later h (by rw [hs]; decide) hl]
  dsimp only
  rw [if_pos (.inr ⟨hs, Nat.le_of_eq hrun.symm⟩)]
  exact lock_state _

/-! ## Holdover -/

theorem holdover_entered (h : s.time.state ≠ .holdover) : s.holdover.time.state = .holdover ∧ s.holdover.time.clockClass = 135 ∧
    s.holdover.time.heldNs = s.nowNs ∧ s.holdover.time.c = s.holdover.time.cAvg := by
  obtain ⟨incr, he⟩ := reIncr_eq { averaged s.time with
    state := .holdover, c := (averaged s.time).cAvg, clockClass := 135, heldNs := s.nowNs, okRun := 0 }
  have hh : s.holdover.time = _ := (congrArg State.time (if_neg h)).trans he
  rw [hh]
  exact ⟨rfl, rfl, rfl, rfl⟩

theorem holdover_time (s : State) : s.holdover.time.state = .holdover ∧ s.holdover.time.refLost = s.time.refLost ∧
    s.holdover.time.goodWins = s.time.goodWins := by
  by_cases h : s.time.state = .holdover
  · rw [show s.holdover = s from if_pos h]
    exact ⟨h, rfl, rfl⟩
  · obtain ⟨incr, he⟩ := reIncr_eq { averaged s.time with
      state := .holdover, c := (averaged s.time).cAvg, clockClass := 135, heldNs := s.nowNs, okRun := 0 }
    have hh : s.holdover.time = _ := (congrArg State.time (if_neg h)).trans he
    rw [hh]
    exact ⟨rfl, rfl, rfl⟩

/-! ## Steps written (20 R446) -/

theorem stepWrite_accepted {step : Dword} (hm : s.time.mode = 0)
    (hok : s.time.state = .free ∨ step.toInt.natAbs ≤ s.time.levee * 2 ^ 16) : stepWrite step s = s.correct step.toInt := by
  unfold stepWrite
  refine (if_neg (Classical.not_not.2 hm)).trans (if_neg ?_)
  rintro ⟨hf, hb⟩
  rcases hok with h | h
  · exact hf h
  · exact absurd (of_decide_eq_true hb) (Nat.not_lt.2 h)

theorem stepWrite_beyond {step : Dword} (hm : s.time.mode = 0) (hf : s.time.state ≠ .free) (hl : s.time.levee * 2 ^ 16 < step.toInt.natAbs) :
    stepWrite step s = s.leveeRefuse step.toInt :=
  (if_neg (Classical.not_not.2 hm)).trans (if_pos ⟨hf, decide_eq_true hl⟩)

/-! ## Reference windows (20 R438) -/

theorem pllStart_refclk (s : State) : s.pllStart.power.refclkOk = s.power.refclkOk := by
  unfold State.pllStart
  dsimp only
  split <;> rfl

/-- The windows in a row that were good, this one among them. -/
def goodRun (s : State) : Nat := min 16 (s.time.goodWins + 1)

theorem refWindow_bad {count : Nat} (hb : count = 0 ∨ 1000 * refNominal s.time.refFreq <
      (if count < refNominal s.time.refFreq then refNominal s.time.refFreq - count else count - refNominal s.time.refFreq) * 1000000) :
    refWindow count s = ((s.setPower { s.power with refclkOk := false }).setTime { s.time with refLost := true, goodWins := 0 }).holdover :=
  if_pos hb

theorem refWindow_good {count : Nat} (hb : ¬(count = 0 ∨ 1000 * refNominal s.time.refFreq <
      (if count < refNominal s.time.refFreq then refNominal s.time.refFreq - count else count - refNominal s.time.refFreq) * 1000000)) :
    refWindow count s = (if goodRun s = 16 then (s.setPower { s.power with refclkOk := true }).pllStart else s).setTime
      { s.time with goodWins := goodRun s, refLost := s.time.refLost && goodRun s < 16 } :=
  if_neg hb

end

/-- Settles O49: each offset by what the servo, the correction and the note of its time change of the time unit. -/
theorem timeCorrections : Obligations.TimeCorrections := by
  unfold Obligations.TimeCorrections
  intro span
  refine ⟨fun s theta hsource hmode hreplay => ⟨fun hf hm => ?_, fun hf hl hb => ?_, fun hs hl hm hh => ?_, fun hs hl hsmall hr => ?_⟩,
    fun s theta h => ?_, fun s => ⟨fun hf => ?_, fun hf hh => ?_⟩, fun s hs hd => ?_,
    fun s step => ⟨fun hm => ?_, fun hm hf hl => ?_, fun hm hok => ⟨fun hh => ?_, fun hh => ?_⟩⟩, fun s hs => ?_, fun s count => ?_,
    fun s offset hfreq hreplay => ⟨fun hm => ?_, fun hm hs => ?_⟩⟩
  · refine gives_of_exec (exec_ptpOffset theta s) ?_
    obtain ⟨pps, he⟩ := stepTime_time s (-theta * 2 ^ 24)
    rw [ptpOffset_first ⟨hsource, hmode, hreplay, by simp [hf]⟩ hf hm]
    simp only [thetaFirst, thetaTaken, State.setTime_time, he, steppedTime, and_true, true_and]
    rw [Int.neg_mul, ← Int.sub_eq_add_neg]
  · refine gives_of_exec (exec_ptpOffset theta s) ?_
    rw [ptpOffset_beyond ⟨hsource, hmode, hreplay, fun ⟨h1, h2⟩ => hl.elim (· h1) (fun h => by rw [h] at h2; cases h2)⟩ hf hb, leveeRefuse_time]
    exact ⟨rfl, rfl, rfl, rfl, rfl⟩
  · exact gives_of_exec (exec_ptpOffset theta s) (ptpOffset_locked ⟨hsource, hmode, hreplay, by simp [hs]⟩ hs hl hm hh)
  · exact gives_of_exec (exec_ptpOffset theta s) (ptpOffset_sixteenth ⟨hsource, hmode, hreplay, by simp [hs]⟩ hs hl hsmall hr)
  · exact congrArg Host.Outcome.next (if_neg (Nat.not_le.2 h))
  · exact congrArg Host.Outcome.next (if_pos hf)
  · refine gives_of_exec (exec_announceTimeout s) ?_
    rw [show announceTimeout s = s.holdover from if_neg hf]
    exact holdover_entered hh
  · exact congrArg Host.Outcome.next (if_pos ⟨hs, hd⟩)
  · exact congrArg Host.Outcome.next (if_pos hm)
  · refine gives_of_exec (exec_timStepWrite step s) ?_
    rw [stepWrite_beyond hm hf hl, leveeRefuse_time]
    exact ⟨rfl, rfl, rfl⟩
  · rw [exec_timStepWrite, stepWrite_accepted hm hok, correct_held hh]
  · refine gives_of_exec (exec_timStepWrite step s) ?_
    obtain ⟨pps, he⟩ := stepTime_time s (step.toInt * 2 ^ 24)
    rw [stepWrite_accepted hm hok, correct_free hh, he]
    rfl
  · exact congrArg Host.Outcome.next (if_pos hs)
  · intro n off
    refine ⟨fun hb => gives_of_exec (exec_refMonitorWindow count s) ?_, fun hc ho => gives_of_exec (exec_refMonitorWindow count s) ?_⟩
    · rw [refWindow_bad hb]
      obtain ⟨h1, h2, h3⟩ := holdover_time ((s.setPower { s.power with refclkOk := false }).setTime { s.time with refLost := true, goodWins := 0 })
      exact ⟨h1, h2, h3, congrArg Power.refclkOk (Within.refl.holdover.same .power (by decide))⟩
    · rw [refWindow_good (not_or.2 ⟨hc, Nat.not_lt.2 ho⟩)]
      refine ⟨rfl, fun hw => ?_⟩
      have hrun : goodRun s = 16 := Nat.min_eq_left (by omega)
      rw [hrun, if_pos rfl]
      exact ⟨pllStart_refclk _, Bool.and_false _⟩
  · refine gives_of_exec (exec_synceMeasure offset s) ?_
    have hopen : ¬(7 < s.time.freqRef ∨ s.replaying = true) := by simp [hfreq, State.replaying, hreplay]
    rw [show synceMeasure offset s = s.setTime { s.time with meas := signedOf 48 (BitVec.ofInt 48 offset).toNat } from
      (if_neg hopen).trans (if_pos hm)]
    exact ⟨rfl, rfl⟩
  · have hopen : ¬(7 < s.time.freqRef ∨ s.replaying = true) := by simp [hfreq, State.replaying, hreplay]
    exact congrArg Host.Outcome.next ((if_neg hopen).trans ((if_neg (by rw [hm]; decide)).trans (if_pos ⟨hm, hs⟩)))

end Sys2Proof.Machine
end

section
/-! PROOFS. What the time unit sends and holds: synthesiser frames, timestamps, pulses, PTP messages, its settings (20 R440 to R450). -/
namespace Sys2Proof.Machine

theorem exec_synFcwFrame (s : State) : exec .synFcwFrame s = .next (synFrame s) := rfl
theorem exec_txTimestamp (ident : Half) (port : Fin 10) (s : State) : exec (.txTimestamp ident port) s = .next (txTimestamp ident port.val s) := rfl
theorem exec_txtsPop (s : State) : exec .txtsPop s = .next ((txtsPop s).2.emit (.word "TIM_TXTS_LO" (txtsPop s).1)) := rfl
theorem exec_timeReadLatch (s : State) :
    exec .timeReadLatch s = .next ((timeLatch s).emit (.word "TIM_NOW_S" (s.nowSec % 2 ^ 48))) := rfl
theorem exec_ppsArm (n : Fin 4) (p : PpsSet) (s : State) : exec (.ppsArm n p) s = .next (s.ppsArm n.val p) := rfl
theorem exec_ppsEdge (n : Fin 4) (s : State) : exec (.ppsEdge n) s = .next (s.raiseEdge n.val) := rfl
theorem exec_ppsPulseEnd (n : Fin 4) (s : State) : exec (.ppsPulseEnd n) s = .next (s.pulseEnd n.val) := rfl
theorem exec_ptpMessageTransmit (port : Fin 10) (m : PtpMsg) (s : State) :
    exec (.ptpMessageTransmit port m) s = .next (ptpTransmit port.val m s) := rfl
theorem exec_timeConfig (h : QcpHdr) (c : TimeCfg) (s : State) : exec (.timeConfig h c) s = .next (serve s h timeStates (timeConfigBody c)) := rfl
theorem exec_relock (h : QcpHdr) (s : State) : exec (.relock h) s = .next (serve s h timeStates relockBody) := rfl

section
variable {s : State} {n : Nat}

/-! ## The synthesiser port (20 R440) -/

/-- The state after a frame of the synthesiser port, before the frame goes out. -/
def synSent (s : State) : State :=
  let raw := rhuDiv (s.time.c * s.time.gain) (2 ^ 32)
  let f := satInt s.time.fcwWidth raw
  s.setTime { s.time with synSat := s.time.synSat || f ≠ raw, last := (BitVec.ofInt 40 f).toNat }

theorem synFrame_sends (he : s.time.synEn = true) (hr : s.capture.replay = none) (hb : s.host.berm = false) : synFrame s = (synSent s).emit (.spi
    (bitsOf (s.time.prefixVal % 2 ^ s.time.prefixLen) s.time.prefixLen ++ bitsOf ((synSent s).time.last % 2 ^ s.time.fcwWidth) s.time.fcwWidth)) := by
  refine if_neg ?_
  rw [he, hb, State.replaying, hr]
  decide

/-! ## Egress timestamps (20 R442, R451) -/

theorem txTimestamp_full {ident : Half} {port : Nat} (h : 64 ≤ s.time.queue.length) :
    (txTimestamp ident port s).time = { s.time with txtsOvf := true, txDropped := bump 65535 s.time.txDropped } :=
  (congrArg State.time (if_pos h)).trans (Within.refl.record.same .time (by decide))

theorem txTimestamp_room {ident : Half} {port : Nat} (h : s.time.queue.length < 64) :
    ∃ e : Txts, (txTimestamp ident port s).time = { s.time with queue := s.time.queue ++ [e] } ∧ e.ident = ident ∧ e.port = port :=
  ⟨_, congrArg State.time (if_neg (Nat.not_le.2 h)), rfl, rfl⟩

theorem txtsPop_empty (h : s.time.queue = []) : txtsPop s = (0, s) := by
  unfold txtsPop
  simp only [h]

theorem txtsPop_head {e : Txts} {rest : List Txts} (h : s.time.queue = e :: rest) : txtsPop s =
    (2 ^ 63 + e.port * 2 ^ 59 + e.ns * 2 ^ 16 + e.frac, s.setTime { s.time with queue := rest, txHi := e.ident.toNat * 2 ^ 48 + e.sec }) := by
  unfold txtsPop
  simp only [h]

/-! ## Pulse outputs (20 R449) -/

theorem pps_lt (h : s.pps n ≠ Pps.init) : n < s.time.pps.length := by
  refine Classical.byContradiction fun hn => ?_
  rw [State.pps, List.getD_eq_getElem?_getD, List.getElem?_eq_none (Nat.not_lt.1 hn)] at h
  exact h rfl

theorem setPps_pps {p : Pps} (h : n < s.time.pps.length) : (s.setPps n p).pps n = p := by
  simp [State.setPps, State.pps, setAt, h]

/-- An output after an edge that was due. -/
def raisedPps (s : State) (n : Nat) : Pps :=
  let p := s.pps n
  let again := p.mode = 2 ∧ 0 < p.period
  { p with high := true, until' := p.next + ppsWidth p, armed := again, next := if again then firstAfter p s.nowNs else p.next }

theorem raiseEdge_due (ha : (s.pps n).armed = true) (hd : (s.pps n).next ≤ s.nowNs) :
    s.raiseEdge n = (s.setPps n (raisedPps s n)).emit (.pulse (Fin.ofNat 4 n) (!(s.pps n).polarity)) := if_pos ⟨ha, hd⟩

theorem raiseEdge_unarmed (ha : (s.pps n).armed = false) : s.raiseEdge n = s := if_neg (by rw [ha]; exact fun h => Bool.false_ne_true h.1)

theorem pulseEnd_due (hh : (s.pps n).high = true) (hd : (s.pps n).until' ≤ s.nowNs) :
    s.pulseEnd n = (s.setPps n { s.pps n with high := false }).emit (.pulse (Fin.ofNat 4 n) (s.pps n).polarity) := if_pos ⟨hh, hd⟩

/-- The settings that a write of a pulse output takes. -/
def writtenPps (o : Pps) (p : PpsSet) : Pps :=
  { o with sec := p.sec.toNat, ns := p.ns.toNat, period := p.period.toNat, width := p.width.toNat,
           unit256 := p.unit256, polarity := p.polarity, mode := p.mode.toNat, armed := false }

/-- The output that a write leaves, by its mode. -/
def armedPps (s : State) (n : Nat) (p : PpsSet) : Pps :=
  let q := writtenPps (s.pps n) p
  if p.mode = 0 then q
  else if p.mode = 1 then (if ppsStart q ≤ s.nowNs then { q with missed := true } else { q with armed := true, next := ppsStart q })
  else { q with armed := true, next := firstAfter q s.nowNs }

theorem ppsArm_bad {p : PpsSet} (ha : (s.pps n).armed = false) (hp : ppsOk p = false) : s.ppsArm n p = s := by
  unfold State.ppsArm
  rw [raiseEdge_unarmed ha]
  exact if_pos (by rw [hp]; rfl)

theorem ppsArm_pps {p : PpsSet} (ha : (s.pps n).armed = false) (hp : ppsOk p = true) (hn : n < s.time.pps.length) :
    (s.ppsArm n p).pps n = armedPps s n p := by
  unfold State.ppsArm armedPps
  rw [raiseEdge_unarmed ha]
  refine (congrArg (fun u : State => u.pps n) (if_neg (by rw [hp]; decide))).trans ?_
  unfold writtenPps
  dsimp only
  split
  · exact setPps_pps hn
  · split
    · split <;> exact setPps_pps hn
    · exact setPps_pps hn

/-- The first edge of a periodic output is in the future, and a whole number of periods after its start. -/
theorem firstAfter_spec {q : Pps} {now : Nat} (hp : 0 < q.period) :
    now < firstAfter q now ∧ ppsStart q ≤ firstAfter q now ∧ (firstAfter q now - ppsStart q) % q.period = 0 := by
  unfold firstAfter
  split
  · next h => exact ⟨h, Nat.le_refl _, by rw [Nat.sub_self, Nat.zero_mod]⟩
  · next h =>
    refine ⟨?_, Nat.le_add_right .., by rw [Nat.add_sub_cancel_left, Nat.mul_mod_left]⟩
    have := Nat.lt_mul_of_div_lt (Nat.lt_succ_self ((now - ppsStart q) / q.period)) hp
    rw [Nat.succ_eq_add_one] at this
    omega

theorem period_pos {p : PpsSet} (hp : ppsOk p = true) (hm : p.mode = 2) : 0 < p.period.toNat := by
  simp only [ppsOk, hm, Bool.and_eq_true, Bool.or_eq_true, decide_eq_true_eq] at hp
  rcases hp.2 with h | h
  · exact absurd h (by decide)
  · omega

/-! ## PTP messages (20 R443) -/

theorem ptpTransmit_delayReq {port : Nat} (hu : (s.netPort port).up = true) (hs : s.time.source = port) :
    ptpTransmit port .delayReq s = s.send port (.ptp 1 (BitVec.ofNat 8 s.time.clockClass) (BitVec.ofNat 8 s.time.domain) s.nowSec s.nowSub) :=
  (if_neg (by rw [hu]; decide)).trans (if_pos hs)

theorem ptpTransmit_sync_out {port : Nat} (hu : (s.netPort port).up = true) (hs : s.time.source ≠ port) (hb : s.host.berm = false) :
    let msg (k : Nat) : Out := .frame port (.ptp k (BitVec.ofNat 8 s.time.clockClass) (BitVec.ofNat 8 s.time.domain) s.nowSec s.nowSub)
    (ptpTransmit port .sync s).out = s.out ++ (if s.time.oneStep = true ∧ port < 8 then [msg 0] else [msg 0, msg 8]) := by
  unfold ptpTransmit
  rw [if_neg (by rw [hu]; decide)]
  dsimp only
  rw [if_neg (by simp [hs, hb])]
  split
  · exact send_out ..
  · rw [send_out, send_out, List.append_assoc]
    rfl

/-! ## TIME_CONFIG (20 R448) -/

/-- The settings that TIME_CONFIG writes. -/
def configuredTime (c : TimeCfg) (t : TimeUnit) : TimeUnit :=
  let later := t.slew ≠ 0 ∧ t.mode ≠ c.mode.toNat
  { t with
      mode := if later then t.mode else c.mode.toNat, nextMode := if later then some c.mode.toNat else none,
      source := c.source.toNat, refFreq := c.refFreq.toNat, freqRef := c.freqRef.toNat, domain := c.domain.toNat,
      synEn := c.synEn, oneStep := c.oneStep, levee := c.levee.toNat, ki := c.ki.toNat, slewMax := c.slewMax.toNat,
      holdLimit := c.holdLimit.toNat, fcwWidth := c.fcwWidth.toNat, prefixLen := c.prefixLen.toNat, div := c.div.toNat,
      prefixVal := c.prefixVal.toNat, gain := c.gain.toNat }

theorem timeConfigBody_range {c : TimeCfg} (hc : timeCfgOk c = false) : timeConfigBody c s = (s, .now Code.cfgRange .empty) :=
  if_pos (by rw [hc]; rfl)

theorem timeConfigBody_takes {c : TimeCfg} (hc : timeCfgOk c = true) (hf : s.follows = false ∨ (c.source = 10 ∧ c.mode = 1)) :
    ∃ u : State, timeConfigBody c s = (u, .now Code.ok .empty) ∧
      ∃ incr, u.time = { (if c.source = 15 then freed (configuredTime c s.time) else configuredTime c s.time) with incr } := by
  obtain ⟨incr, he⟩ := reIncr_eq (if c.source = 15 then freed (configuredTime c s.time) else configuredTime c s.time)
  refine ⟨_, (if_neg (by rw [hc]; decide)).trans (if_neg ?_), incr, ?_⟩
  · rintro ⟨h1, h2⟩
    rcases hf with h | ⟨h, h'⟩
    · exact Bool.false_ne_true (h.symm.trans h1)
    · exact h2.elim (· h) (· h')
  · refine Eq.trans ?_ he
    split <;> rfl

end

/-- Settles O50: each output by the case of its operation, a pulse output by the settings that its write leaves. -/
theorem timeOutputs : Obligations.TimeOutputs := by
  refine ⟨fun s he hr hb => ?_, fun s ident port => ⟨fun h => ?_, fun h => ?_⟩, fun s => ⟨fun h => ?_, fun e rest h => ?_⟩, fun s => ?_,
    fun s n p hn ha => ?_, fun s n ha hd => ?_, fun s n hh hd => ?_, fun s port hu hs => ?_, fun s port hu hs hb => ?_, fun h c hc => ?_,
    fun h c hc => ?_, fun h => ?_⟩
  · refine gives_of_exec (exec_synFcwFrame s) ?_
    rw [synFrame_sends he hr hb]
    exact ⟨rfl, rfl, fun hne => (congrArg (s.time.synSat || ·) (decide_eq_true hne)).trans (Bool.or_true _)⟩
  · refine gives_of_exec (exec_txTimestamp ident port s) ?_
    obtain ⟨e, he, hi, hp⟩ := txTimestamp_room (ident := ident) (port := port.val) h
    rw [he]
    exact ⟨e, rfl, hi, hp, rfl⟩
  · refine gives_of_exec (exec_txTimestamp ident port s) ?_
    rw [txTimestamp_full h]
    exact ⟨rfl, rfl, rfl⟩
  · rw [exec_txtsPop, txtsPop_empty h]
  · refine gives_of_exec (exec_txtsPop s) ?_
    rw [txtsPop_head h]
    exact ⟨rfl, rfl, rfl⟩
  · exact gives_of_exec (exec_timeReadLatch s) ⟨rfl, rfl⟩
  · intro start
    refine ⟨fun hp => ?_, fun hp hm => ?_, fun hp hm hs => ?_, fun hp hm hs => ?_, fun hp hm => ?_⟩
    · rw [exec_ppsArm, ppsArm_bad ha hp]
    all_goals
      refine gives_of_exec (exec_ppsArm n p s) ?_
      rw [ppsArm_pps ha hp hn, armedPps]
    · rw [if_pos hm]
      exact ⟨rfl, congrArg BitVec.toNat hm⟩
    · rw [if_neg (by rw [hm]; decide), if_pos hm, if_neg (show ¬ppsStart (writtenPps (s.pps n.val) p) ≤ s.nowNs from Nat.not_le.2 hs)]
      exact ⟨rfl, rfl⟩
    · rw [if_neg (by rw [hm]; decide), if_pos hm, if_pos (show ppsStart (writtenPps (s.pps n.val) p) ≤ s.nowNs from hs)]
      exact ⟨rfl, rfl⟩
    · rw [if_neg (by rw [hm]; decide), if_neg (by rw [hm]; decide)]
      exact ⟨rfl, firstAfter_spec (q := writtenPps (s.pps n.val) p) (period_pos hp hm)⟩
  · refine gives_of_exec (exec_ppsEdge n s) ?_
    have hlt := pps_lt (s := s) (n := n.val) (by rintro he; rw [he] at ha; cases ha)
    rw [raiseEdge_due ha hd, show ∀ (u : State) (o : Out), (u.emit o).pps n.val = u.pps n.val from fun _ _ => rfl, setPps_pps hlt, Fin.ofNat_val_eq_self]
    exact ⟨rfl, rfl, fun hm => decide_eq_false (by rw [hm]; rintro ⟨h, -⟩; cases h)⟩
  · refine gives_of_exec (exec_ppsPulseEnd n s) ?_
    have hlt := pps_lt (s := s) (n := n.val) (by rintro he; rw [he] at hh; cases hh)
    rw [pulseEnd_due hh hd, show ∀ (u : State) (o : Out), (u.emit o).pps n.val = u.pps n.val from fun _ _ => rfl, setPps_pps hlt, Fin.ofNat_val_eq_self]
    exact ⟨rfl, rfl⟩
  · refine gives_of_exec (exec_ptpMessageTransmit port .delayReq s) ?_
    rw [ptpTransmit_delayReq hu hs, send_out]
  · exact gives_of_exec (exec_ptpMessageTransmit port .sync s) (ptpTransmit_sync_out hu hs hb)
  · refine answers_of_body (exec_timeConfig h c) fun s hf => ?_
    obtain ⟨u, he, incr, ht⟩ := timeConfigBody_takes hc hf
    refine ⟨u, ?_, he⟩
    rw [ht]
    split
    · exact ⟨rfl, rfl, rfl, rfl, rfl, rfl, fun _ => ⟨rfl, rfl⟩⟩
    · next h15 => exact ⟨rfl, rfl, rfl, rfl, rfl, rfl, fun h => absurd h h15⟩
  · exact refuses_of_body (exec_timeConfig h c) (by decide) fun s _ => timeConfigBody_range hc
  · exact serves_of_body (exec_relock h) fun s hh => if_neg (by rw [hh]; decide)

end Sys2Proof.Machine
end

section
/-! PROOFS. Power: retention, wakes, the cap, temperature, supply voltages (21 R456 to R466). -/
namespace Sys2Proof.Machine

theorem exec_tileIdleRetain (tile : TileId) (s : State) : exec (.tileIdleRetain tile) s = .next (idleRetain tile.val s) := rfl
theorem exec_tileRetainOff (tile : TileId) (s : State) : exec (.tileRetainOff tile) s = .next (retainOff tile.val s) := rfl
theorem exec_retainScrubWake (s : State) : exec .retainScrubWake s = .next (scrubWake s) := rfl
theorem exec_domainWakeComplete (d : Fin 136) (r : Option Training) (s : State) : exec (.domainWakeComplete d r) s = .next (wakeDone d.val r s) := rfl
theorem exec_powerEstimate (w : Nat) (s : State) : exec (.powerEstimate w) s = .next (traced 112 128 s (powerEstimate w s)) := rfl
theorem exec_thermalUpdate (tj : Int) (s : State) : exec (.thermalUpdate tj) s = .next (traced 112 128 s (thermalUpdate tj s)) := rfl
theorem exec_ageingPlan (vreq : List Nat) (s : State) : exec (.ageingPlan vreq) s = .next (traced 112 128 s (ageingPlan vreq s)) := rfl
theorem exec_ageNearmiss (c : ClusterId) (s : State) : exec (.ageNearmiss c) s = .next (traced 112 128 s (nearMiss c.val s)) := rfl
theorem exec_ageStepdown (c : ClusterId) (s : State) : exec (.ageStepdown c) s = .next (traced 112 128 s (stepDown c.val s)) := rfl

section
variable {s u : State} {t p c k d : Nat}

theorem traced_power {lo hi : Nat} : (traced lo hi s u).power = u.power := Within.refl.traced.same .power (by decide)
theorem traced_rst {lo hi : Nat} : (traced lo hi s u).rst = u.rst := Within.refl.traced.same .rst (by decide)
theorem traced_tiles {lo hi : Nat} : (traced lo hi s u).tiles = u.tiles := Within.refl.traced.same .tiles (by decide)
theorem traced_clock {lo hi : Nat} : (traced lo hi s u).clock = u.clock := Within.refl.traced.same .clock (by decide)
theorem ageing_congr (h : u.power = s.power) (c : Nat) : u.ageing c = s.ageing c := by rw [State.ageing, h]; rfl

theorem setPowerOf_powerOf {x : PowerSt} : (s.setPowerOf d x).powerOf d = x := Table.get_set ..
theorem setPowerOf_powerOf_ne {x : PowerSt} (h : k ≠ d) : (s.setPowerOf d x).powerOf k = s.powerOf k := Table.get_set_ne h
theorem setAgeing_ageing {a : Ageing} : (s.setAgeing c a).ageing c = a := Table.get_set ..
theorem setAgeing_ageing_ne {a : Ageing} (h : k ≠ c) : (s.setAgeing c a).ageing k = s.ageing k := Table.get_set_ne h

/-! ## Retention (21 R456, R457) -/

theorem fabricRest_powerOf (hk : k < 96) : (s.fabricRest c).powerOf k = s.powerOf k := by
  unfold State.fabricRest
  dsimp only
  split
  · exact setPowerOf_powerOf_ne (by omega)
  · rfl

theorem fabricRest_tile (s : State) (c k : Nat) : (s.fabricRest c).tile k = s.tile k :=
  tile_congr (Within.refl.fabricRest.same .tiles (by decide)) k

theorem fabricRest_cluLock (s : State) (c : Nat) : (s.fabricRest c).power.cluLock = s.power.cluLock := by
  unfold State.fabricRest
  dsimp only
  split <;> rfl

theorem idleRetain_due (hon : s.powerOf t = .on) (hidle : (s.tile t).state = .idle) (hrun : s.assured.running.get none t = none)
    (hafter : s.power.retainAfter ≠ 0) (hdue : (s.tile t).since + s.power.retainAfter ≤ s.clock.cycle) :
    idleRetain t s = ((s.setPowerOf t .retain).modTile t fun x => { x with since := s.clock.cycle }).fabricRest (t / 8) :=
  if_pos ⟨hon, hidle, by rw [hrun]; rfl, hafter, hdue⟩

theorem retainOff_due (hret : s.powerOf t = .retain) (hafter : s.power.offAfter ≠ 0) (hdue : (s.tile t).since + s.power.offAfter ≤ s.clock.cycle)
    (hfree : (upTo 24).all (fun p => ((s.tile t).polders.get Polder.init p).state == .free) = true) :
    retainOff t s = ((s.setTile t (offTile (s.tile t))).setPowerOf t .off).fabricRest (t / 8) :=
  if_pos ⟨hret, hafter, hdue, hfree⟩

/-! ## The scrub pass of retained tiles (21 R457, 12 R267) -/

/-- The end of a pass, which polder 23 brings. -/
def passCounted (t p : Nat) (s : State) : State := if p = 23 then s.modTile t fun x => { x with scrub := bump top32 x.scrub } else s

theorem scrubPolder_eq (t p : Nat) (s : State) : ∃ u : State, scrubPolder t p s = passCounted t p u ∧ (u.tile t).scrub = (s.tile t).scrub ∧
    ∀ k, k ≠ t → u.tile k = s.tile k := by
  unfold scrubPolder
  refine ⟨_, rfl, ?_⟩
  split
  · refine foldl_keeps (P := fun u => (u.tile t).scrub = (s.tile t).scrub ∧ ∀ k, k ≠ t → u.tile k = s.tile k) ⟨rfl, fun _ _ => rfl⟩
      fun u w _ ⟨hscrub, hother⟩ => ⟨?_, fun k hk => ?_⟩
    · rw [State.modTile_tile, tile_congr (Within.refl.record.same .tiles (by decide))]
      exact hscrub
    · rw [State.modTile_tile_ne _ _ _ hk, tile_congr (Within.refl.record.same .tiles (by decide)), hother k hk]
  · exact ⟨rfl, fun _ _ => rfl⟩

theorem scrubPolder_ne (hk : k ≠ t) : (scrubPolder t p s).tile k = s.tile k := by
  obtain ⟨u, he, -, hother⟩ := scrubPolder_eq t p s
  rw [he, passCounted]
  split
  · rw [State.modTile_tile_ne _ _ _ hk, hother k hk]
  · exact hother k hk

theorem scrubPolder_scrub : ((scrubPolder t p s).tile t).scrub = if p = 23 then bump top32 (s.tile t).scrub else (s.tile t).scrub := by
  obtain ⟨u, he, hscrub, -⟩ := scrubPolder_eq t p s
  rw [he, passCounted]
  split
  · rw [State.modTile_tile, hscrub]
  · exact hscrub

/-- One scrub pass of a tile. -/
def scrubPass (t : Nat) (s : State) : State := (upTo 24).foldl (fun s p => scrubPolder t p s) s

theorem scrubPass_scrub : ((scrubPass t s).tile t).scrub = bump top32 (s.tile t).scrub :=
  foldl_establishes (P := fun u => (u.tile t).scrub = (s.tile t).scrub) (Q := fun u => (u.tile t).scrub = bump top32 (s.tile t).scrub)
    (t := 23) List.nodup_range (List.mem_range.2 (by decide)) rfl
    (fun u i hi hu => by rw [scrubPolder_scrub, if_neg hi]; exact hu)
    (fun u hu => by rw [scrubPolder_scrub, if_pos rfl, hu])
    (fun u i hi hu => by rw [scrubPolder_scrub, if_neg hi]; exact hu)

theorem scrubPass_ne (hk : k ≠ t) : (scrubPass t s).tile k = s.tile k :=
  foldl_keeps (P := fun u => u.tile k = s.tile k) rfl fun _ _ _ hu => (scrubPolder_ne hk).trans hu

theorem scrubWake_scrub (ht : t < 96) (hret : s.powerOf t = .retain) : ((scrubWake s).tile t).scrub = bump top32 (s.tile t).scrub :=
  foldl_establishes (P := fun u => u.tile t = s.tile t) (Q := fun u => (u.tile t).scrub = bump top32 (s.tile t).scrub)
    (f := fun s t => scrubPass t s) (List.nodup_range.filter _) (List.mem_filter.2 ⟨List.mem_range.2 ht, decide_eq_true hret⟩) rfl
    (fun u i hi hu => (scrubPass_ne (Ne.symm hi)).trans hu)
    (fun u hu => by rw [scrubPass_scrub, hu])
    (fun u i hi hu => by rw [scrubPass_ne (Ne.symm hi)]; exact hu)

/-! ## Wakes (21 R453) -/

/-- What a domain that has woken begins. -/
theorem wakeDone_power {r : Option Training} (hw : s.powerOf d = .waking) (hh : s.rst.held.contains d = false)
    (hf : d < 96 → s.powerOf (96 + d / 8) = .on) (hd : d < 96 ∨ 108 ≤ d) : (wakeDone d r s).powerOf d = .on := by
  have hon : (s.setPowerOf d .on).powerOf d = .on := setPowerOf_powerOf
  unfold wakeDone
  rw [if_neg (not_or.2 ⟨fun h => h hw, not_or.2 ⟨fun h => Bool.false_ne_true (hh.symm.trans h), fun ⟨h1, h2⟩ => h2 (hf h1)⟩⟩)]
  dsimp only
  split
  · exact (powerOf_congr startSegment_rest.2.2.2 d).trans hon
  · rw [if_neg (show ¬d < 108 by omega)]
    split
    · exact hon
    · split
      · split
        · exact (powerOf_congr (Within.refl.memPopulation.same .power (by decide)) d).trans hon
        · exact hon
      · split
        · unfold State.radioStart
          split <;> exact hon
        · exact hon

theorem wakeDone_cluLock {r : Option Training} (hw : s.powerOf d = .waking) (hh : s.rst.held.contains d = false) (h96 : 96 ≤ d) (h108 : d < 108) :
    (wakeDone d r s).power.cluLock.getLsbD (d - 96) = true := by
  unfold wakeDone
  rw [if_neg (not_or.2 ⟨fun h => h hw, not_or.2 ⟨fun h => Bool.false_ne_true (hh.symm.trans h), fun ⟨h1, _⟩ => Nat.not_lt.2 h96 h1⟩⟩)]
  dsimp only
  rw [if_neg (show ¬d < 96 by omega), if_pos h108, fabricRest_cluLock, State.setPower_power, BitVec.getLsbD_or, BitVec.getLsbD_ofNat,
    Nat.testBit_two_pow_self, decide_eq_true (show d - 96 < 12 by omega)]
  exact Bool.or_true _

/-! ## Temperature (21 R462) -/

theorem thermalUpdate_power (s : State) (tj : Int) : (thermalUpdate tj s).power.tj = tj ∧ (thermalUpdate tj s).power.level = levelAfter s.power tj ∧
    (thermalUpdate tj s).power.dutyTherm = (if levelAfter s.power tj = 0 then s.power.dutyTherm - 1
      else if levelAfter s.power tj = 1 then min 15 (s.power.dutyTherm + 1) else s.power.dutyTherm) ∧
    (tj < 100 → (thermalUpdate tj s).rst.thermalHold = false) := by
  unfold thermalUpdate
  extract_lets p level dutyTherm since s0 rst s1
  have hpower : s1.power = s0.power := by
    unfold s1
    split <;> rfl
  have hhold : tj < 100 → s1.rst.thermalHold = false := fun h => by
    unfold s1
    rw [if_pos h]
    rfl
  have hrecord : ∀ {c : Half} {n : Nat} {ps : List Nat}, (s1.record c n ps).power = s0.power ∧ (s1.record c n ps).rst = s1.rst :=
    ⟨(Within.refl.record.same .power (by decide)).trans hpower, Within.refl.record.same .rst (by decide)⟩
  split
  · rw [hrecord.1, hrecord.2]
    exact ⟨rfl, rfl, rfl, hhold⟩
  · rw [hpower]
    exact ⟨rfl, rfl, rfl, hhold⟩

/-! ## Supply voltages (21 R463 to R466) -/

/-- What a plan leaves of a cluster that it names. -/
def plannedAgeing (s : State) (c v : Nat) : Ageing :=
  planCluster s.power.guardMv v s.rst.shadow.trimMv s.frameNow s.power.fresh (s.ageing c)

theorem ageingPlan_due {vreq : List Nat} {v : Nat} (hdue : s.planDue = true) (hc : c < 12) (hv : vreq[c]? = some v) :
    (ageingPlan vreq s).ageing c = plannedAgeing s c v ∧ (ageingPlan vreq s).power.lastPlan = s.nowSec ∧
      (ageingPlan vreq s).power.planTj = s.power.tj := by
  unfold ageingPlan
  rw [if_neg (by rw [hdue]; decide)]
  extract_lets p s1
  have hplanned : s1.ageing c = plannedAgeing s c v := by
    refine foldl_establishes (P := fun u => u.ageing c = s.ageing c ∧ u.rst = s.rst ∧ u.time = s.time) (Q := fun u => u.ageing c = plannedAgeing s c v)
      List.nodup_range (List.mem_range.2 hc) ⟨rfl, rfl, rfl⟩ (fun u i hi ⟨ha, hr, ht⟩ => ?_) (fun u ⟨ha, hr, ht⟩ => ?_) (fun u i hi hu => ?_)
    · split
      · exact ⟨(setAgeing_ageing_ne (Ne.symm hi)).trans ha, hr, ht⟩
      · exact ⟨ha, hr, ht⟩
    · simp only [hv]
      rw [setAgeing_ageing, ha, hr, frameNow_congr ht]
      rfl
    · split
      · exact (setAgeing_ageing_ne (Ne.symm hi)).trans hu
      · exact hu
  clear_value s1
  have hpower : ((s1.setPower { s1.power with lastPlan := s.nowSec, planTj := p.tj, fresh := false, driftSince := none }).record
    Pwr.agePlan 0 []).power = _ := Within.refl.record.same .power (by decide)
  exact ⟨(ageing_congr hpower c).trans hplanned, (congrArg Power.lastPlan hpower), congrArg Power.planTj hpower⟩

theorem nearMiss_vdd (s : State) (c : Nat) : ((nearMiss c s).ageing c).vdd = min 800 ((s.ageing c).vdd + 5) := by
  unfold nearMiss
  dsimp only
  rw [ageing_congr (Within.refl.record.same .power (by decide)), setAgeing_ageing]
  rfl

theorem stepDown_due (hn : (s.ageing c).stepNext = true) (hf : (s.ageing c).stepFrame ≤ s.frameNow) :
    (stepDown c s).ageing c = { s.ageing c with stepped := true, stepNext := false } := by
  unfold stepDown
  dsimp only
  rw [if_pos ⟨hn, hf⟩, ageing_congr (Within.refl.record.sweepFit.same .power (by decide)), setAgeing_ageing]

end

/-- Settles O51: each rule by its due case, a plan by what it leaves of one cluster while it goes through all of them. -/
theorem powerRules : Obligations.PowerRules := by
  refine ⟨fun s t hon hidle hafter hrun hdue => ?_, fun s t hret hafter hdue hfree => ?_, fun s t hret => ?_, fun s d r hw hh hf => ⟨fun hd => ?_, fun h96 h108 => ?_⟩,
    fun s w => ?_, fun s w tj => ⟨?_, ?_⟩, fun s tj => ?_, fun s vreq hdue => ?_, fun s vreq c v hdue hv => ?_, fun s c => ?_, fun s c hn hf => ?_⟩
  · refine gives_of_exec (exec_tileIdleRetain t s) ?_
    rw [idleRetain_due hon hidle hrun hafter hdue, fabricRest_powerOf t.isLt, fabricRest_tile, State.modTile_tile]
    exact ⟨setPowerOf_powerOf, rfl⟩
  · refine gives_of_exec (exec_tileRetainOff t s) ?_
    rw [retainOff_due hret hafter hdue hfree, fabricRest_powerOf t.isLt, fabricRest_tile]
    refine ⟨setPowerOf_powerOf, ?_⟩
    rw [show ∀ u : State, (u.setPowerOf t.val .off).tile t.val = u.tile t.val from fun _ => rfl, State.setTile_tile]
    exact ⟨rfl, rfl, rfl⟩
  · refine gives_of_exec (exec_retainScrubWake s) ⟨scrubWake_scrub t.isLt hret, ?_⟩
    exact (powerOf_congr (Within.refl.scrubWake.same .power (by decide)) t.val).trans hret
  · exact gives_of_exec (exec_domainWakeComplete d r s) (wakeDone_power hw hh hf hd)
  · exact gives_of_exec (exec_domainWakeComplete d r s) (wakeDone_cluLock hw hh h96 h108)
  · refine gives_of_exec (exec_powerEstimate w s) ?_
    rw [traced_power]
    exact ⟨rfl, rfl⟩
  · refine gives_of_exec (exec_powerEstimate w s) ?_
    rw [traced_tiles, traced_clock]
    exact ⟨rfl, rfl⟩
  · refine gives_of_exec (exec_thermalUpdate tj s) ?_
    rw [traced_tiles, traced_clock]
    exact ⟨Within.refl.thermalUpdate.same .tiles (by decide), Within.refl.thermalUpdate.same .clock (by decide)⟩
  · refine gives_of_exec (exec_thermalUpdate tj s) ?_
    rw [traced_power, traced_rst]
    exact thermalUpdate_power s tj
  · refine gives_of_exec (exec_ageingPlan vreq s) ?_
    rw [traced_power, show ageingPlan vreq s = s from if_pos (by rw [hdue]; rfl)]
  · refine gives_of_exec (exec_ageingPlan vreq s) ?_
    obtain ⟨ha, hl, hp⟩ := ageingPlan_due hdue c.isLt hv
    rw [ageing_congr traced_power, traced_power, ha]
    exact ⟨rfl, rfl, hl, hp⟩
  · refine gives_of_exec (exec_ageNearmiss c s) ?_
    rw [ageing_congr traced_power]
    exact nearMiss_vdd s c.val
  · refine gives_of_exec (exec_ageStepdown c s) ?_
    rw [ageing_congr traced_power, stepDown_due hn hf]
    exact ⟨rfl, rfl, rfl⟩

end Sys2Proof.Machine
end

section
/-! PROOFS. Whatever a reset ends, what has left the device stays sent. -/
namespace Sys2Proof.Machine

/-- The outputs before are the first of the outputs after. -/
def OutGrows (s u : State) : Prop := s.out <+: u.out

namespace OutGrows
variable {s u v : State} {t k : Nat} {g : Graph} {job : Word}

theorem refl : OutGrows s s := List.prefix_refl _
theorem of_out (h : u.out = s.out) : OutGrows s u := prefix_of_eq h
theorem ite {c : Prop} [Decidable c] (h : OutGrows s u) (h' : OutGrows s v) : OutGrows s (if c then u else v) := by
  split
  · exact h
  · exact h'
theorem trans (h : OutGrows s u) (h' : OutGrows u v) : OutGrows s v := List.IsPrefix.trans h h'
theorem emit {o : Out} (h : OutGrows s u) : OutGrows s (u.emit o) := h.trans (List.prefix_append _ _)

theorem mem {o : Out} (h : OutGrows s u) (ho : o ∈ s.out) : o ∈ u.out := h.subset ho

theorem foldl {α : Type} {f : State → α → State} (hf : ∀ t x, OutGrows t (f t x)) (xs : List α) : OutGrows s (xs.foldl f s) :=
  foldl_keeps refl fun t x _ ht => ht.trans (hf t x)

/-! ## The messages of a tile that is zeroised (12 R282, 15 R341) -/

theorem putFlit {tile : Nat} {f : Flit} : OutGrows s (s.putFlit k tile f) := by
  unfold State.putFlit
  dsimp only
  split
  · exact (of_out (u := s.setLink k _) rfl).emit
  · exact of_out rfl

theorem sendFlit {tile : Nat} {f : Flit} : OutGrows s (s.sendFlit k tile f) := by
  unfold State.sendFlit
  dsimp only
  split
  · exact putFlit
  · exact of_out rfl

theorem sendFar {m : FarMsg} : OutGrows s (s.sendFar m) := by
  unfold State.sendFar
  dsimp only
  generalize farFlits _ _ m = fs
  exact (of_out (Within.refl.countIv.same .out (by decide))).trans (foldl (fun _ _ => sendFlit) fs)

theorem revokeNotice {slot : Nat} {cls : JobClass} {w : Writer} : OutGrows s (s.revokeNotice t slot cls job w) := by
  unfold State.revokeNotice
  split
  · exact of_out rfl
  · exact sendFar
  · exact refl.emit

theorem revokePolder {p : Nat} : OutGrows s (s.revokePolder t p) := by
  unfold State.revokePolder
  extract_lets x cs rs s1 s2
  have h2 : OutGrows s s2 := (of_out (u := s1) rfl).trans (foldl (fun _ _ => revokeNotice) cs)
  exact h2.trans (foldl (fun _ _ => foldl (fun _ _ => revokeNotice) _) rs)

theorem zeroiseStart {next : Domain} {kill : Bool} : OutGrows s (s.zeroiseStart t next kill) := by
  have hrevoked : OutGrows s ((upTo 24).foldl (fun s p => s.revokePolder t p) s) := foldl (fun _ _ => revokePolder) _
  unfold State.zeroiseStart
  exact hrevoked.trans (of_out (Within.refl.endCredits.dropValid.modTile.same .out (by decide)))

/-! ## Tasks and graphs that end (14 R325) -/

theorem killTile : OutGrows s (killTile t s) := by
  unfold Machine.killTile
  dsimp only
  split
  · exact refl
  · exact refl
  · exact (of_out (Within.refl.voidDrain.taskKilled.same .out (by decide))).trans zeroiseStart

theorem killOf (g : Graph) (t : State) (k : Nat) :
    OutGrows t (match (t.tile k).ref with | some (.graph job _ _) => if job = g.job then Machine.killTile k t else t | _ => t) := by
  split
  · split
    · exact killTile
    · exact refl
  · exact refl

theorem endTasks : OutGrows s (s.endTasks g) := by
  unfold State.endTasks
  extract_lets s1
  have hs1 : OutGrows s s1 := foldl (killOf g) _
  split
  · exact hs1
  · exact hs1.trans (of_out (((Within.refl (s := s1)).foldl fun _ _ => Within.refl.foldl fun _ _ => Within.refl.dropTask).same .out (by decide)))

theorem polderLeaves {n : Nat} {st : PolderState} : OutGrows s (s.polderLeaves t n st) := by
  unfold State.polderLeaves
  split
  · exact revokePolder.trans (of_out (Within.refl.dropValid.modTile.closeBundle.same .out (by decide)))
  · exact refl

theorem leavePolders {st : PolderState} : OutGrows s (s.leavePolders g st) :=
  foldl (fun _ _ => foldl (fun _ _ => ite polderLeaves refl) _) _

theorem graphEnd : OutGrows s (graphEnd job s) := by
  unfold Machine.graphEnd
  split
  · exact refl
  · dsimp only
    split
    · exact refl
    · exact ((of_out (Within.refl.modGraph.same .out (by decide))).trans endTasks).trans
        (leavePolders.trans (of_out (Within.refl.leavePages.leaveArray.same .out (by decide))))

theorem killGraph : OutGrows s (s.killGraph g) := (of_out (Within.refl.graphKilled.same .out (by decide))).trans endTasks

theorem killAll : OutGrows s s.killAll :=
  (foldl (fun _ _ => (ite killGraph refl).trans graphEnd) s.sched.graphs).trans
    (foldl (fun _ _ => ite killTile refl) _)

/-! ## A reset (22 R474) -/

theorem radioPower_out (v : State) : v.radioPower.out = v.out := Within.refl.radioPower.same .out (by decide)

theorem replayEnd : OutGrows s s.replayEnd := by
  unfold State.replayEnd
  split
  · exact refl
  · have hkilled : OutGrows s s.killAll := killAll
    generalize s.killAll = s1 at hkilled ⊢
    rw [OutGrows, radioPower_out]
    simp only [State.setCapture_out, State.setTime_out, State.setCrossing, State.setSec_out, State.setAssured_out, State.setSched_out,
      State.setSweep_out, State.setRadio_out]
    exact hkilled

theorem resetCommon : OutGrows s s.resetCommon := by
  have hreplay : OutGrows s (if s.replaying then s.replayEnd else s) := ite replayEnd refl
  unfold State.resetCommon
  dsimp only
  generalize (if s.replaying then s.replayEnd else s) = u at hreplay ⊢
  exact hreplay.trans (ite (of_out (Within.refl.captureEnd.same .out (by decide))) refl)

end OutGrows
end Sys2Proof.Machine
end

section
/-! PROOFS. What each reset level clears and keeps (22 R474, Table 2). -/
namespace Sys2Proof.Machine

section
variable {s u : State} {l : Level}

/-- A change of every listed value: an unlisted one stays at the default. -/
theorem get_mapTo_or {α : Type} [DecidableEq α] {t : Table α} {d : α} {f : α → α} (k : Nat) :
    (t.mapTo d f).get d k = f (t.get d k) ∨ (t.mapTo d f).get d k = d ∧ t.get d k = d := by
  have h : ∀ xs : List (Nat × α), (xs.foldr (fun e a => a.set d e.1 (f e.2)) (Table.empty : Table α)).get d k = f ((Table.look k xs).getD d) ∨
      (xs.foldr (fun e a => a.set d e.1 (f e.2)) (Table.empty : Table α)).get d k = d ∧ (Table.look k xs).getD d = d := by
    intro xs
    induction xs with
    | nil => exact .inr ⟨rfl, rfl⟩
    | cons e r ih =>
      obtain ⟨j, v⟩ := e
      rw [List.foldr_cons, Table.look]
      by_cases hk : k = j
      · rw [if_pos hk, hk, Table.get_set]
        exact .inl rfl
      · rw [if_neg hk, Table.get_set_ne hk]
        exact ih
  exact h t.entries

/-- A run over keys that sets each to a value of its own: keys it does not go over keep theirs. -/
theorem get_foldl_set_keys {α : Type} [DecidableEq α] (d : α) (v : Nat → α) (T : Table α) (ks : List Nat) (k : Nat) :
    (ks.foldl (fun m p => m.set d p (v p)) T).get d k = if k ∈ ks then v k else T.get d k := by
  induction ks generalizing T with
  | nil => rfl
  | cons j ks ih =>
    rw [List.foldl_cons, ih]
    by_cases hk : k = j
    · subst hk
      simp
    · rw [Table.get_set_ne hk]
      simp [hk]

/-! ## What every level clears -/

/-- What every level clears, and the fuses, which all keep. -/
structure Cleared (s u : State) : Prop where
  fuses : u.sec.fuses = s.sec.fuses
  users : u.radio.users = .empty
  adapt : u.adapt = .empty
  capture : u.capture.on = false
  replay : u.capture.replay = none

theorem replayEnd_fuses (s : State) : s.replayEnd.sec.fuses = s.sec.fuses ∧ s.replayEnd.capture.replay = none := by
  unfold State.replayEnd
  split
  · next h => exact ⟨rfl, h⟩
  · have hsec : s.killAll.sec = s.sec := Within.refl.killAll.same .sec (by decide)
    generalize s.killAll = s1 at hsec ⊢
    have hpower : ∀ v : State, v.radioPower.sec = v.sec ∧ v.radioPower.capture = v.capture := fun v =>
      ⟨Within.refl.radioPower.same .sec (by decide), Within.refl.radioPower.same .capture (by decide)⟩
    rw [(hpower _).1, (hpower _).2]
    simp only [State.setCapture_sec, State.setCapture_capture, State.setTime_sec, State.setCrossing, State.setSec_sec, State.setAssured_sec,
      State.setSched_sec, State.setSweep_sec, State.setRadio_sec, hsec, and_self]

theorem captureEnd_rest (s : State) : s.captureEnd.sec = s.sec ∧ s.captureEnd.capture.on = false :=
  ⟨Within.refl.captureEnd.same .sec (by decide), rfl⟩

/-- Captures and replays are over. -/
def stillState (s : State) : State :=
  let s0 := if s.replaying then s.replayEnd else s
  if s0.capture.on then s0.captureEnd else s0

theorem stillState_spec (s : State) :
    (stillState s).sec.fuses = s.sec.fuses ∧ (stillState s).capture.on = false ∧ (stillState s).capture.replay = none := by
  have h0 : ((if s.replaying then s.replayEnd else s).sec.fuses = s.sec.fuses) ∧ (if s.replaying then s.replayEnd else s).capture.replay = none := by
    split
    · exact replayEnd_fuses s
    · next h => exact ⟨rfl, Option.not_isSome_iff_eq_none.1 h⟩
  unfold stillState
  dsimp only
  generalize (if s.replaying then s.replayEnd else s) = u at h0 ⊢
  split
  · rw [(captureEnd_rest u).1, (captureEnd_rest u).2, captureEnd_replay]
    exact ⟨h0.1, rfl, h0.2⟩
  · next h => exact ⟨h0.1, Bool.eq_false_iff.2 h, h0.2⟩

/-- What every level clears after capture and replay have ended. -/
def clearedState (s : State) : State :=
  let s2 := s.setCapture { s.capture with armed := none }
  let s3 := s2.setSec { s2.sec with
    challenge := none, changes := s2.sec.changes.map fun c => { c with hdr := none },
    loading := s2.sec.loading.map fun l => { l with hdr := none } }
  { s3 with adapt := .empty, events := Recorder.init, radio := Radio.init, sweep := Sweep.init }

theorem resetCommon_eq (s : State) : s.resetCommon = clearedState (stillState s) := rfl

theorem resetCommon_cleared (s : State) : Cleared s s.resetCommon := by
  obtain ⟨hf, hc, hr⟩ := stillState_spec s
  rw [resetCommon_eq]
  exact ⟨hf, rfl, rfl, hc, hr⟩

/-- With no capture and no replay, nothing ends. -/
theorem resetCommon_quiet (hc : s.capture.on = false) (hr : s.capture.replay = none) : s.resetCommon = clearedState s := by
  rw [resetCommon_eq, stillState, State.replaying, hr]
  exact congrArg clearedState (if_neg (by simp [hc]))

/-! ## L0 and L1 -/

theorem resetCold_cleared (s : State) (l0 : Bool) : Cleared s (s.resetCold l0) where
  fuses := rfl
  users := congrArg Radio.users (show s.resetCommon.radio = Radio.init from rfl)
  adapt := (resetCommon_cleared s).adapt
  capture := rfl
  replay := rfl

/-! ## L2 -/

/-- The links fall, and the crossing's period is cut. -/
def linksFallen (s : State) : State := ((upTo 4).filter fun k => (s.link k).state ≠ .unused).foldl State.linkFalls (crossCut s)

/-- Of the security part only the crossing changed. -/
def CrossingOnly (s u : State) : Prop := { u.sec with crossing := Crossing.init } = { s.sec with crossing := Crossing.init }

theorem CrossingOnly.of_sec (h : u.sec = s.sec) : CrossingOnly s u := by rw [CrossingOnly, h]
theorem CrossingOnly.setCrossing {x : Crossing} (h : CrossingOnly s u) : CrossingOnly s (u.setCrossing x) := h

theorem crossWrite_only {c : CrossCfg} {p : Bool} {r : Nat × Nat × CrossCount × List Byte} (h : CrossingOnly s u) :
    CrossingOnly s (crossWrite c p u r) :=
  (show CrossingOnly u (crossWrite c p u r) from .setCrossing (.of_sec (Within.refl.extWrite.extWrite.same .sec (by decide)))).trans h

theorem crossEnd_only (s : State) (p : Bool) : CrossingOnly s (crossEnd p s) := by
  unfold crossEnd
  dsimp only
  split
  · exact .of_sec rfl
  · split
    · exact .of_sec rfl
    · exact .setCrossing (foldl_keeps (.of_sec rfl) fun _ _ _ hu => crossWrite_only hu)

theorem crossCut_only (s : State) : CrossingOnly s (crossCut s) := .setCrossing (crossEnd_only s true)

theorem holdover_now (s : State) : s.holdover.time.now = s.time.now := by
  unfold State.holdover
  split
  · rfl
  · obtain ⟨incr, he⟩ := reIncr_eq { averaged s.time with
      state := .holdover, c := (averaged s.time).cAvg, clockClass := 135, heldNs := s.nowNs, okRun := 0 }
    dsimp only at he ⊢
    rw [State.setTime_time, he]
    rfl

theorem linkFalls_now (s : State) (k : Nat) : (s.linkFalls k).time.now = s.time.now := by
  unfold State.linkFalls
  extract_lets l tiles init s1 s2
  have h2 : s2.time = s.time :=
    ((Within.refl (s := s1)).foldl fun _ _ => Within.ite Within.refl.taskFault Within.refl).same .time (by decide)
  unfold State.parentLost
  split
  · rw [holdover_now]
    exact congrArg TimeUnit.now ((Within.refl.record.same .time (by decide)).trans h2)
  · rw [h2]

/-- What the falls of the links leave as it is. -/
theorem linksFallen_rest (s : State) : (linksFallen s).host = s.host ∧ (linksFallen s).capture = s.capture ∧
    (linksFallen s).time.now = s.time.now ∧ CrossingOnly s (linksFallen s) := by
  have hcut : Within _ s (crossCut s) := Within.refl.crossCut
  have hfell : Within _ (crossCut s) (linksFallen s) := Within.refl.foldl fun _ _ => Within.refl.linkFalls
  refine ⟨(hfell.same .host (by decide)).trans (hcut.same .host (by decide)), (hfell.same .capture (by decide)).trans (hcut.same .capture (by decide)),
    ?_, (CrossingOnly.of_sec (hfell.same .sec (by decide))).trans (crossCut_only s)⟩
  exact foldl_keeps (P := fun u => u.time.now = s.time.now) (congrArg TimeUnit.now (hcut.same .time (by decide)))
    fun u k _ hu => (linkFalls_now u k).trans hu

/-- The device before the power of its blocks at L2. -/
def warmState (regions : Table Region) (s : State) : State :=
  let h := s.host
  let s1 := { s.resetLane.resetCommon with
    host := { h with
      state := if h.state = DevState.anchor ∨ h.state = DevState.berm then DevState.anchor else DevState.loaded, berm := false, faultedCore := 0, secFault := false,
      coresHalted := true, log := none, trace := 0, bermPending := false, takeover := false, notices := [], done := [] }
    tiles := s.tiles.mapTo Tile.init (resetTile s.clock.cycle false),
    clusters := .empty, csps := .empty, sched := { Sched.init with sems := s.resetSems } }
  let s2 := s1.setSec { s1.sec with
    regions, bermRegion := none, crossing := Crossing.init,
    slots := s1.sec.slots.mapTo none fun e => e.map fun k => { k with job := none } }
  let s3 := s2.setAssured { s2.assured with twins := [], disagree := [] }
  s3.setWcache { s3.wcache with lines := .empty, inflight := [] }

theorem resetWarm_within (s : State) : ∃ regions, Within [.power] (warmState regions (linksFallen s)) s.resetWarm :=
  ⟨_, (Within.ite ((Within.refl.radioPower.foldl fun _ _ => Within.ite Within.refl.setPowerOf Within.refl).foldl fun _ _ => Within.refl.setPowerOf)
    (Within.refl.radioPower.foldl fun _ _ => Within.ite Within.refl.setPowerOf Within.refl)).mono⟩

theorem CrossingOnly.fuses (h : CrossingOnly s u) : u.sec.fuses = s.sec.fuses := (congrArg Security.fuses h : _)
theorem CrossingOnly.keyGen (h : CrossingOnly s u) : u.sec.keyGen = s.sec.keyGen := (congrArg Security.keyGen h : _)

theorem resetWarm_cleared (s : State) : Cleared s s.resetWarm := by
  obtain ⟨regions, hw⟩ := resetWarm_within s
  have hc := resetCommon_cleared (linksFallen s).resetLane
  refine ⟨?_, ?_, ?_, ?_, ?_⟩
  · rw [hw.same .sec (by decide)]
    exact hc.fuses.trans (linksFallen_rest s).2.2.2.fuses
  · rw [hw.same .radio (by decide)]
    exact hc.users
  · rw [hw.same .adapt (by decide)]
    exact hc.adapt
  · rw [hw.same .capture (by decide)]
    exact hc.capture
  · rw [hw.same .capture (by decide)]
    exact hc.replay

theorem resetTile_ref (cycle : Nat) (inf : Bool) (x : Tile) : (resetTile cycle inf x).ref = none := rfl

theorem resetWarm_quiet (hc : s.capture.on = false) (hr : s.capture.replay = none) :
    s.resetWarm.host.state = (if s.host.state = .anchor ∨ s.host.state = .berm then .anchor else .loaded) ∧
    s.resetWarm.host.sessions = s.host.sessions ∧ s.resetWarm.host.bundle = s.host.bundle ∧ s.resetWarm.sec.keyGen = s.sec.keyGen ∧
    s.resetWarm.sched.graphs = [] ∧ s.resetWarm.time.now = s.time.now ∧
    (∀ t, (s.resetWarm.tile t).ref = none ∧ (s.resetWarm.tile t).saveInf = none) := by
  obtain ⟨regions, hw⟩ := resetWarm_within s
  obtain ⟨hhost, hcapture, hnow, hcross⟩ := linksFallen_rest s
  have hquiet : (linksFallen s).resetLane.resetCommon = clearedState (linksFallen s).resetLane :=
    resetCommon_quiet (by rw [show (linksFallen s).resetLane.capture = (linksFallen s).capture from rfl, hcapture, hc])
      (by rw [show (linksFallen s).resetLane.capture = (linksFallen s).capture from rfl, hcapture, hr])
  rw [hw.same .host (by decide), hw.same .sec (by decide), hw.same .sched (by decide), hw.same .time (by decide)]
  refine ⟨?_, ?_, ?_, ?_, rfl, ?_, fun t => ?_⟩
  · rw [← hhost]
    rfl
  · rw [← hhost]
    rfl
  · rw [← hhost]
    rfl
  · exact (congrArg (fun u : State => u.sec.keyGen) hquiet).trans hcross.keyGen
  · exact (congrArg (fun u : State => u.time.now) hquiet).trans hnow
  · rw [tile_congr (hw.same .tiles (by decide))]
    rcases get_mapTo_or (t := (linksFallen s).tiles) (d := Tile.init) (f := resetTile (linksFallen s).clock.cycle false) t with h | ⟨h, -⟩
    · exact ⟨congrArg Tile.ref h, congrArg Tile.saveInf h⟩
    · exact ⟨congrArg Tile.ref h, congrArg Tile.saveInf h⟩

/-! ## L3 -/

/-- The device as the radio blocks are cleared: the crossing's period is cut, a replay is over. -/
def radioBase (s : State) : State := if (crossCut s).replaying then (crossCut s).replayEnd else crossCut s

theorem radioBase_fuses (s : State) : (radioBase s).sec.fuses = s.sec.fuses := by
  unfold radioBase
  split
  · exact (replayEnd_fuses _).1.trans (crossCut_only s).fuses
  · exact (crossCut_only s).fuses

theorem resetRadio_cleared (s : State) : Cleared s s.resetRadio where
  fuses := (resetCommon_cleared (radioBase s).resetLane).fuses.trans (radioBase_fuses s)
  users := rfl
  adapt := (resetCommon_cleared (radioBase s).resetLane).adapt
  capture := (resetCommon_cleared (radioBase s).resetLane).capture
  replay := (resetCommon_cleared (radioBase s).resetLane).replay

theorem radioBase_quiet (hr : s.capture.replay = none) : radioBase s = crossCut s := by
  refine if_neg ?_
  rw [State.replaying, show (crossCut s).capture = s.capture from Within.refl.crossCut.same .capture (by decide), hr]
  decide

/-- A cell after L3: its configuration, and the one that waits. -/
def radioCell (s : State) (c : Nat) : CellSt := { CellSt.init with ul := (s.cell c).ul, dl := (s.cell c).dl, pending := (s.cell c).pending }

theorem resetRadio_quiet (hr : s.capture.replay = none) :
    s.resetRadio.host = s.host ∧ s.resetRadio.sched.graphs = s.sched.graphs ∧ s.resetRadio.radio.paused = true ∧
    (∀ t, (s.tile t).domain ≠ .radio → s.resetRadio.tile t = { s.tile t with saveRad := none }) ∧
    (∀ t, (s.tile t).domain = .radio → (s.resetRadio.tile t).ref = none) ∧
    (∀ c, (s.resetRadio.cell c).ul = (s.cell c).ul ∧ (s.resetRadio.cell c).dl = (s.cell c).dl) := by
  have hcut : Within _ s (crossCut s) := Within.refl.crossCut
  have htiles : ∀ t, (s.resetRadio.tile t = if (s.tile t).domain = .radio then resetTile (radioBase s).clock.cycle true (s.tile t)
      else { s.tile t with saveRad := none }) ∨ s.resetRadio.tile t = Tile.init ∧ s.tile t = Tile.init := fun t => by
    have h := get_mapTo_or (t := (radioBase s).tiles) (d := Tile.init)
      (f := fun x => if x.domain = .radio then resetTile (radioBase s).clock.cycle true x else { x with saveRad := none }) t
    rw [show (radioBase s).tiles.get Tile.init t = s.tile t by
      rw [radioBase_quiet hr, hcut.same .tiles (by decide)]; rfl] at h
    exact h
  refine ⟨?_, ?_, rfl, fun t hd => ?_, fun t hd => ?_, fun c => ?_⟩
  · have hhost : (radioBase s).resetLane.resetCommon.host = (radioBase s).host := Within.refl.resetLane.resetCommon.same .host (by decide)
    refine Eq.trans (b := (radioBase s).resetLane.resetCommon.host) rfl (hhost.trans ?_)
    rw [radioBase_quiet hr, hcut.same .host (by decide)]
  · show (radioBase s).sched.graphs = _
    rw [radioBase_quiet hr, hcut.same .sched (by decide)]
  · rcases htiles t with h | ⟨-, h⟩
    · rw [h, if_neg hd]
    · exact absurd (by rw [h]; rfl) hd
  · rcases htiles t with h | ⟨h, -⟩
    · rw [h, if_pos hd, resetTile_ref]
    · rw [h]
      rfl
  · have hcell : s.resetRadio.cell c = if c ∈ (radioBase s).radio.cells.keys then radioCell (radioBase s) c else CellSt.init :=
      get_foldl_set_keys CellSt.init (radioCell (radioBase s)) .empty _ c
    have hbase : (radioBase s).cell c = s.cell c := by
      rw [radioBase_quiet hr]
      exact cell_congr (hcut.same .radio (by decide)) c
    rw [hcell]
    split
    · rw [radioCell, hbase]
      exact ⟨rfl, rfl⟩
    · next h =>
      have hinit : s.cell c = CellSt.init := hbase.symm.trans (get_of_not_mem_keys h)
      rw [hinit]
      exact ⟨rfl, rfl⟩

/-! ## A reset at a level -/

/-- What a level clears, before the reset controller is set. -/
def levelReset (l : Level) (s : State) : State :=
  match l with
  | .l0 => s.resetCold true
  | .l1 => s.resetCold false
  | .l2 => s.resetWarm
  | .l3 => s.resetRadio

theorem applyReset_eq (l : Level) (s : State) :
    s.applyReset l = (levelReset l s).setRst (resetControl l s.clock.cycle (levelReset l s).rst) := by
  cases l <;> rfl

theorem levelReset_rst (l : Level) (s : State) : (levelReset l s).rst = s.rst := by
  cases l with
  | l0 => exact Within.refl.resetCold.same .rst (by decide)
  | l1 => exact Within.refl.resetCold.same .rst (by decide)
  | l2 => exact Within.refl.resetWarm.same .rst (by decide)
  | l3 => exact Within.refl.resetRadio.same .rst (by decide)

theorem applyReset_rst (l : Level) (s : State) : (s.applyReset l).rst = resetControl l s.clock.cycle s.rst := by
  rw [applyReset_eq, State.setRst_rst, levelReset_rst]

theorem levelReset_cleared (l : Level) (s : State) : Cleared s (levelReset l s) := by
  cases l with
  | l0 => exact resetCold_cleared s true
  | l1 => exact resetCold_cleared s false
  | l2 => exact resetWarm_cleared s
  | l3 => exact resetRadio_cleared s

theorem applyReset_cleared (l : Level) (s : State) : Cleared s (s.applyReset l) := by
  have h := levelReset_cleared l s
  rw [applyReset_eq]
  exact ⟨h.fuses, h.users, h.adapt, h.capture, h.replay⟩

end
end Sys2Proof.Machine
end

section
/-! PROOFS. Sources of resets, pins and watchdogs, the load of the fuses, the release of blocks, power and standby (22 R471 to R481). -/
namespace Sys2Proof.Machine

theorem exec_resetNAssert (s : State) : exec .resetNAssert s = .next (resetPin s) := rfl
theorem exec_resetNRelease (s : State) : exec .resetNRelease s = .next (resetPinRise s) := rfl
theorem exec_schWatchdogExpire (s : State) : exec .schWatchdogExpire s = .next (schDog s) := rfl
theorem exec_secWatchdogExpire (s : State) : exec .secWatchdogExpire s = .next (secDog s) := rfl
theorem exec_wdtArm (period : Half) (s : State) : exec (.wdtArm period) s = .next (wdtArm period.toNat s) := rfl
theorem exec_thermalTrip (sensor : Half) (s : State) : exec (.thermalTrip sensor) s = .next (thermalTrip sensor s) := rfl
theorem exec_reset (h : QcpHdr) (level : Level) (s : State) :
    exec (.reset h level) s = .next (serve s h { role := .admin, legal := allStates, hw := true } (resetBody h level)) := rfl
theorem exec_trimLoadAttempt (pass : Bool) (s : State) : exec (.trimLoadAttempt pass) s = .next (trimLoad pass s) := rfl
theorem exec_blockRelease (d : Fin 136) (s : State) : exec (.blockRelease d) s = .next (blockRelease d.val s) := rfl
theorem exec_clockStuckTimeout (b : StuckClock) (s : State) : exec (.clockStuckTimeout b) s = .next (clockStuck b s) := rfl
theorem exec_powerOn (cp : BitVec 2) (s : State) : exec (.powerOn cp) s = .next (powerOn cp s) := rfl
theorem exec_pwrgdFall (s : State) : exec .pwrgdFall s = .next (powerFall s) := rfl
theorem exec_stbyNRise (s : State) : exec .stbyNRise s = .next (standbyEnd s) := rfl
theorem exec_stbyNFall (s : State) : exec .stbyNFall s = .next (standby s) := rfl

section
variable {s u : State} {source detail d i k : Nat} {l : Level}

/-! ## Sources (22 R471) -/

/-- The reset controller with the cause of a reset written. -/
def resetCause (source : Nat) (l : Level) (detail : Nat) (merged : Bool) (s : State) : ResetCtl :=
  { s.rst with source, level := l, merged, detail := BitVec.ofNat 16 detail, assertCycle := s.clock.cycle }

theorem assertReset_begins (hp : s.rst.phase = 3) (ht : s.rst.assertCycle / slowCycle ≠ s.clock.cycle / slowCycle) :
    s.assertReset source l detail = (s.setRst (resetCause source l detail false s)).applyReset l := by
  unfold State.assertReset
  dsimp only
  rw [if_neg (show ¬s.rst.phase = 1 by omega), if_pos ⟨hp, by rw [beq_eq_false_iff_ne.2 ht]; rfl⟩]
  rfl

theorem assertReset_absorbed (hp : s.rst.phase = 2) (hl : levelCode s.rst.level ≤ levelCode l)
    (ht : s.rst.assertCycle / slowCycle ≠ s.clock.cycle / slowCycle) : s.assertReset source l detail = s.setRst { s.rst with merged := true } := by
  unfold State.assertReset
  dsimp only
  rw [if_neg (show ¬s.rst.phase = 1 by omega), if_neg (by omega), if_neg (Nat.not_lt.2 hl), if_neg]
  rintro ⟨-, h, -⟩
  rw [beq_eq_false_iff_ne.2 ht] at h
  cases h

theorem assertReset_rst (hp : s.rst.phase = 3) (ht : s.rst.assertCycle / slowCycle ≠ s.clock.cycle / slowCycle) :
    (s.assertReset source l detail).rst = resetControl l s.clock.cycle (resetCause source l detail false s) := by
  rw [assertReset_begins hp ht, applyReset_rst]
  rfl

theorem resetPin_rst (hp : s.rst.phase = 3) (ht : s.rst.assertCycle / slowCycle ≠ s.clock.cycle / slowCycle) :
    (resetPin s).rst.pinLow = true ∧ (resetPin s).rst.phase = 0 ∧ (resetPin s).rst.source = 1 ∧ (resetPin s).rst.level = s.mapLevel 1 := by
  have h : (resetPin s).rst = _ := assertReset_rst (s := s.setRst { s.rst with pinLow := true }) (source := 1) (detail := 0)
    (l := (s.setRst { s.rst with pinLow := true }).mapLevel 1) hp ht
  rw [h]
  exact ⟨rfl, if_pos (.inr rfl), rfl, rfl⟩

theorem resetPinRise_phase (hpin : s.rst.pinLow = true) (hp : s.rst.phase = 0) (hl : s.rst.level = .l1 ∨ s.rst.level = .l2) :
    (resetPinRise s).rst.phase = 2 := by
  unfold resetPinRise
  rcases hl with h | h <;> simp [hpin, hp, h]

/-! ## Temperature (22 R476) -/

/-- The warning pin is low, and its fall has left the device. -/
def Warned (s : State) : Prop := s.power.thermLow = true ∧ Out.thermLow ∈ s.out

theorem Warned.applyReset (h : Warned s) (hl : l = .l0 ∨ l = .l1) : Warned (s.applyReset l) := by
  rw [applyReset_eq]
  rcases hl with rfl | rfl
  · exact ⟨h.1, OutGrows.resetCommon.mem h.2⟩
  · exact ⟨h.1, OutGrows.resetCommon.mem h.2⟩

theorem Warned.assertReset (h : Warned s) (hl : l = .l0 ∨ l = .l1) : Warned (s.assertReset source l detail) := by
  unfold State.assertReset
  extract_lets r same caused s1
  have h1 : Warned s1 := by
    unfold s1
    split <;> exact h
  have hset : ∀ r, Warned (s1.setRst r) := fun _ => h1
  clear_value s1
  split
  · exact (hset _).applyReset hl
  · split
    · exact (hset _).applyReset hl
    · split
      · exact hset _
      · exact hset _

theorem levelOfCode_cold (n : Nat) : levelOfCode (min n 1) = .l0 ∨ levelOfCode (min n 1) = .l1 := by
  unfold levelOfCode
  by_cases h : min n 1 = 0
  · exact .inl (if_pos h)
  · exact .inr ((if_neg h).trans (if_pos (by omega)))

theorem mapLevel_thermal (s : State) : s.mapLevel 4 = .l0 ∨ s.mapLevel 4 = .l1 := levelOfCode_cold _

theorem thermalTrip_hot {sensor : Half} (hot : 115 ≤ s.power.tj) (hs : s.power.hotSince = some k) (hk : k + 1250000 ≤ s.clock.cycle) :
    Warned (thermalTrip sensor s) ∧ (thermalTrip sensor s).rst.thermalHold = ((thermalTrip sensor s).rst.level == .l0) := by
  unfold thermalTrip
  rw [if_neg]
  · extract_lets p s1 s2
    have h1 : Warned s1 := ⟨rfl, List.mem_append_right _ (List.mem_singleton.2 rfl)⟩
    have h2 : Warned s2 := h1.assertReset (mapLevel_thermal s1)
    clear_value s2
    exact ⟨h2, rfl⟩
  · rw [hs]
    rintro (h | h)
    · omega
    · rw [Option.any_some, msCycles, decide_eq_true hk] at h
      cases h

/-! ## The load of the fuses (22 R479) -/

theorem pllStart_eq (s : State) : ∃ lock wait, s.pllStart = (s.setPower { s.power with devLock := lock }).setRst { s.rst with refclkWait := wait } := by
  unfold State.pllStart
  dsimp only
  split <;> exact ⟨_, _, rfl⟩

/-- An attempt of the load may run. -/
structure Loads (s : State) : Prop where
  phase : s.rst.phase ≤ 1
  level : s.rst.level = .l0
  trim : s.rst.trimFail = false
  hold : s.rst.thermalHold = false
  pin : s.rst.pinLow = false
  good : s.power.pwrgd = true

theorem Loads.runs (h : Loads s) : ¬(1 < s.rst.phase ∨ s.rst.level ≠ .l0 ∨ s.rst.trimFail = true ∨ s.rst.thermalHold = true ∨ s.rst.pinLow = true ∨
    (!s.power.pwrgd) = true) := by
  simp [h.phase, h.level, h.trim, h.hold, h.pin, h.good]

theorem trimLoad_pass (h : Loads s) : (trimLoad true s).rst.phase = 2 ∧ (trimLoad true s).rst.shadow = s.sec.fuses.options ∧
    ∀ c, c < 12 → ((trimLoad true s).ageing c).vdd = s.sec.fuses.options.trimMv := by
  unfold trimLoad
  extract_lets r o init ages
  rw [if_neg h.runs, if_pos rfl]
  obtain ⟨lock, wait, he⟩ := pllStart_eq ((s.setPower { s.power with ages }).setRst { r with
    phase := 2, loads := r.loads + 1, shadow := o, refclkWait := !s.power.refclkOk })
  rw [he]
  refine ⟨rfl, rfl, fun c hc => ?_⟩
  exact congrArg Ageing.vdd ((get_foldl_set_range Ageing.init (fun _ => { Ageing.init with vdd := o.trimMv }) .empty 12 c).trans (if_pos hc))

theorem trimLoad_third (h : Loads s) (hl : s.rst.loads = 2) : (trimLoad false s).rst.trimFail = true ∧ (trimLoad false s).rst.phase = 0 := by
  unfold trimLoad
  dsimp only
  rw [if_neg h.runs, if_neg Bool.false_ne_true, if_pos hl]
  exact ⟨rfl, rfl⟩

theorem trimLoad_again (h : Loads s) (hl : s.rst.loads < 2) : (trimLoad false s).rst.phase = 1 ∧ (trimLoad false s).rst.loads = s.rst.loads + 1 := by
  unfold trimLoad
  dsimp only
  rw [if_neg h.runs, if_neg Bool.false_ne_true, if_neg (show ¬s.rst.loads = 2 by omega)]
  exact ⟨rfl, rfl⟩

/-! ## Release (22 R477, R478) -/

/-- A domain that no wake moves. -/
def Settled (k : Nat) (s : State) : Prop := s.powerOf k = .waking ∨ s.powerOf k = .on ∨ s.rst.held.contains k = true

/-- The held blocks and the power of one domain are as before. -/
structure Unmoved (k : Nat) (s u : State) : Prop where
  held : u.rst.held = s.rst.held
  power : u.powerOf k = s.powerOf k

theorem Unmoved.settled (h : Unmoved k s u) (hs : Settled k s) : Settled k u := by
  unfold Settled
  rwa [h.held, h.power]

theorem wakeDomain_settled (hs : Settled k s) : (s.wakeDomain i).powerOf k = s.powerOf k := by
  by_cases hk : k = i
  · subst hk
    unfold State.wakeDomain
    split
    · rfl
    · next hheld =>
      rcases hs with h | h | h
      · simp only [h]
      · simp only [h]
      · exact absurd h hheld
  · exact wakeDomain_powerOf_ne hk

theorem Unmoved.wakes (h : Unmoved k s u) (hs : Settled k s) (ds : List Nat) : Unmoved k s (ds.foldl State.wakeDomain u) :=
  foldl_keeps h fun _ _ _ hv => ⟨(congrArg ResetCtl.held wakeDomain_rst).trans hv.held, (wakeDomain_settled (hv.settled hs)).trans hv.power⟩

theorem Unmoved.of_within {v : State} {ps : List Part} (h : Unmoved k s u) (hw : Within ps u v) (hr : Part.rst ∉ ps) (hp : Part.power ∉ ps) :
    Unmoved k s v :=
  ⟨(congrArg ResetCtl.held (hw.same .rst hr)).trans h.held, (powerOf_congr (hw.same .power hp) k).trans h.power⟩

theorem Unmoved.radioStart (h : Unmoved k s u) : Unmoved k s u.radioStart := by
  unfold State.radioStart
  split
  · exact h
  · exact ⟨h.held, h.power⟩

theorem Unmoved.bermEnter {ul : UlCell} {dl : DlCell} {port : Bool} {domain : Byte} (h : Unmoved k s u) (hs : Settled k s) :
    Unmoved k s (u.bermEnter ul dl port domain) := by
  have h5 {f g a b c} : Within [.host, .time, .radio, .clusters, .mem, .wcache, .sec] u
      ((((((u.bermRegionSet ul).setHost f).modCell a g).setTime b).setCluster 0 c)) :=
    Within.refl.bermRegionSet.setHost.modCell.setTime.setCluster.mono
  unfold State.bermEnter
  exact ((h.of_within h5 (by decide) (by decide)).wakes hs _).radioStart

theorem Unmoved.record {c : Half} {n : Nat} {ps : List Nat} (h : Unmoved k s u) : Unmoved k s (u.record c n ps) :=
  h.of_within Within.refl.record (by decide) (by decide)

theorem Unmoved.bermAutoStart (h : Unmoved k s u) (hs : Settled k s) : Unmoved k s u.bermAutoStart := by
  unfold State.bermAutoStart
  dsimp only
  split
  · exact h
  · split
    · split
      · exact h.bermEnter hs
      · exact h.record
    · exact h.record

theorem releaseEnd_unmoved (hs : Settled k s) : Unmoved k s s.releaseEnd := by
  unfold State.releaseEnd
  extract_lets r out s1
  have h1 : Unmoved k s s1 := ⟨rfl, rfl⟩
  clear_value s1
  split
  · exact ⟨rfl, rfl⟩
  · split
    · exact h1
    · exact (h1.wakes hs _).bermAutoStart hs

theorem releaseEnd_held (s : State) : s.releaseEnd.rst.held = s.rst.held ∧ s.releaseEnd.rst.heldRadio = s.rst.heldRadio := by
  unfold State.releaseEnd
  extract_lets r out s1
  split
  · exact ⟨rfl, rfl⟩
  · split
    · exact ⟨rfl, rfl⟩
    · have h : ∀ (v : State) (ds : List Nat), (ds.foldl State.wakeDomain v).bermAutoStart.rst = v.rst := fun _ _ =>
        (Within.refl.foldl fun _ _ => Within.refl.wakeDomain).bermAutoStart.same .rst (by decide)
      rw [h]
      exact ⟨rfl, rfl⟩

/-- A reset in its release, whose block `d` is one of the steps, and not held. -/
structure Releasing (d : Nat) (s : State) : Prop where
  phase : s.rst.phase = 2
  lock : s.power.devLock = true
  step : (stepDomains s.rst.level).contains d = true
  held : s.rst.held.contains d = false

theorem Releasing.runs (h : Releasing d s) :
    ¬(s.rst.phase ≠ 2 ∨ (!s.power.devLock) = true ∨ (!(stepDomains s.rst.level).contains d) = true ∨ s.rst.held.contains d = true) := by
  rw [h.phase, h.lock, h.step, h.held]
  decide

theorem blockRelease_warm (h : Releasing d s) (hl : s.rst.level = .l2) (hr : s.powerOf d = .retain) : (blockRelease d s).powerOf d = .on := by
  unfold blockRelease
  dsimp only
  rw [if_neg h.runs, if_pos hl, if_pos hr]
  exact (releaseEnd_unmoved (.inr (.inl setPowerOf_powerOf))).power.trans setPowerOf_powerOf

theorem blockRelease_cold (h : Releasing d s) (hl : s.rst.level ≠ .l2) (hs : s.power.stby = true) (ho : s.powerOf d = .off) :
    (blockRelease d s).powerOf d = .waking := by
  have hw := wakeDomain_powerOf h.held ho
  unfold blockRelease
  dsimp only
  rw [if_neg h.runs, if_neg hl, if_pos hs]
  exact (releaseEnd_unmoved (.inl hw)).power.trans hw

/-! ## Stuck clocks (22 R478) -/

theorem holdDomain_rst (s : State) (d : Nat) :
    (s.holdDomain d).rst = { s.rst with held := s.rst.held ++ (if s.rst.held.contains d then [] else [d]) } := by
  unfold State.holdDomain
  dsimp only
  generalize hs1 : List.foldl _ s _ = s1
  have h1 : s1.rst = s.rst := hs1 ▸ (Within.refl.foldl fun _ _ => Within.refl.setPowerOf).same .rst (by decide)
  rw [State.setRst_rst, h1]

theorem holdDomain_held (s : State) (d : Nat) : (s.holdDomain d).rst.held.contains d = true := by
  rw [holdDomain_rst]
  dsimp only
  split
  · next h => rw [List.append_nil, h]
  · simp

theorem holdDomain_keeps (h : s.rst.held.contains k = true) : (s.holdDomain d).rst.held.contains k = true := by
  rw [holdDomain_rst]
  rw [List.contains_iff_mem] at h ⊢
  exact List.mem_append_left _ h

/-- The domains that are off with a held one: a fabric's tiles count with it. -/
def ownDomains (d : Nat) : List Nat := if 96 ≤ d ∧ d < 108 then d :: (upTo 8).map (· + (d - 96) * 8) else [d]

theorem holdDomain_powerOf (s : State) (d : Nat) :
    (s.holdDomain d).powerOf d = ((ownDomains d).foldl (fun s d => s.setPowerOf d .off) s).powerOf d := rfl

theorem holdDomain_off (s : State) (d : Nat) : (s.holdDomain d).powerOf d = .off := by
  have hoff : ∀ ds : List Nat, (ds.foldl (fun s d => s.setPowerOf d .off) (s.setPowerOf d .off)).powerOf d = .off :=
    fun ds => foldl_keeps (P := fun v => v.powerOf d = .off) setPowerOf_powerOf fun v i _ hv => by
      by_cases hi : d = i
      · subst hi
        exact setPowerOf_powerOf
      · rw [setPowerOf_powerOf_ne hi, hv]
  rw [holdDomain_powerOf, ownDomains]
  split
  · rw [List.foldl_cons]
    exact hoff _
  · rw [List.foldl_cons]
    exact hoff []

theorem clockStuck_domain (d : Fin 136) (s : State) :
    (clockStuck (.domain d) s).rst.held.contains d.val = true ∧ (clockStuck (.domain d) s).powerOf d.val = .off := by
  have hu : Unmoved d.val (s.holdDomain d.val) ((s.holdDomain d.val).record Rst.clkStuck (d.val % 256) [d.val]) := Unmoved.record ⟨rfl, rfl⟩
  have hend := releaseEnd_unmoved (hu.settled (.inr (.inr (holdDomain_held s d.val))))
  refine ⟨?_, hend.power.trans (hu.power.trans (holdDomain_off s d.val))⟩
  exact (congrArg (·.contains d.val) (hend.held.trans hu.held)).trans (holdDomain_held s d.val)

theorem radioHeld_held (s : State) (hd : d ∈ radioHeld) : (radioHeld.foldl State.holdDomain s).rst.held.contains d = true :=
  foldl_establishes (P := fun _ => True) (Q := fun u => u.rst.held.contains d = true) (by decide) hd trivial (fun _ _ _ _ => trivial)
    (fun u _ => holdDomain_held u d) (fun _ _ _ hu => holdDomain_keeps hu)

/-- The radio PLL and the blocks that depend on it are held. -/
def radioPllHeld (s : State) : State :=
  let s1 := radioHeld.foldl State.holdDomain s
  (s1.setPower { s1.power with radioLock := false }).setRst { s1.rst with heldRadio := true }

theorem clockStuck_radioPll (s : State) : clockStuck .radioPll s = ((radioPllHeld s).record Rst.clkStuck 136 [136]).releaseEnd := rfl

theorem clockStuck_radio (s : State) : (clockStuck .radioPll s).rst.heldRadio = true ∧
    ∀ d, d ∈ radioHeld → (clockStuck .radioPll s).rst.held.contains d = true := by
  have hrecord : ((radioPllHeld s).record Rst.clkStuck 136 [136]).rst = (radioPllHeld s).rst := Within.refl.record.same .rst (by decide)
  obtain ⟨hheld, hradio⟩ := releaseEnd_held ((radioPllHeld s).record Rst.clkStuck 136 [136])
  rw [clockStuck_radioPll, hheld, hradio, hrecord]
  exact ⟨rfl, fun d hd => radioHeld_held s hd⟩

/-! ## Standby (21 R459) -/

theorem wakeDomain_stby : (s.wakeDomain d).power.stby = s.power.stby := by
  unfold State.wakeDomain
  split
  · rfl
  · split <;> rfl

theorem standbyEnd_spec (hp : s.rst.phase = 3) : (standbyEnd s).power.stby = true ∧
    ∀ d, (117 ≤ d ∧ d ≤ 126 ∨ d = 131) → s.rst.held.contains d = false → s.powerOf d = .off → (standbyEnd s).powerOf d = .waking := by
  unfold standbyEnd
  extract_lets p s1 r s2
  obtain ⟨lock, wait, he⟩ := pllStart_eq (s.setPower { s.power with stby := true })
  have hs1 : s1 = _ := he
  have hphase : s2.rst.phase = s.rst.phase := by
    show s1.rst.phase = _
    rw [hs1]
    rfl
  have hheld : s2.rst.held = s.rst.held := by
    show s1.rst.held = _
    rw [hs1]
    rfl
  have hpower : ∀ d, s2.powerOf d = s.powerOf d := fun d => by
    show s1.powerOf d = _
    rw [hs1]
    rfl
  have hstby : s2.power.stby = true := by
    show s1.power.stby = _
    rw [hs1]
    rfl
  clear_value s2
  rw [if_pos (hphase.trans hp)]
  refine ⟨foldl_keeps (P := fun u => u.power.stby = true) hstby fun _ _ _ hu => wakeDomain_stby.trans hu, fun d hd hh ho => ?_⟩
  refine foldl_establishes (P := fun u => u.powerOf d = .off ∧ u.rst.held.contains d = false) (Q := fun u => u.powerOf d = .waking) (by decide)
    ?_ ⟨(hpower d).trans ho, by rw [hheld, hh]⟩ (fun u j hj ⟨ho, hh⟩ => ⟨(wakeDomain_powerOf_ne (Ne.symm hj)).trans ho, by rw [wakeDomain_rst, hh]⟩)
    (fun u ⟨ho, hh⟩ => wakeDomain_powerOf hh ho) (fun u j hj hu => (wakeDomain_powerOf_ne (Ne.symm hj)).trans hu)
  rcases hd with ⟨h1, h2⟩ | rfl
  · exact List.mem_append_left _ (List.mem_map.2 ⟨d - 117, List.mem_range.2 (by omega), by omega⟩)
  · decide

end

/-- Settles O52: each level by what it clears, each source by the cause it writes, each release by the domains that wakes do not move. -/
theorem resets : Obligations.Resets := by
  refine ⟨⟨fun s l => ?_, fun s l hl => ?_, fun s hc hr => ?_, fun s hc hr => ?_⟩,
    fun s source l detail => ⟨fun hp ht => ?_, fun hp hl ht => assertReset_absorbed hp hl ht⟩, fun s hp ht => ?_, fun s => ?_,
    fun s => ?_, fun s hp hd hk => ?_, fun s period => ?_, fun s => ⟨rfl, rfl, rfl, rfl, rfl⟩, fun s sensor => ⟨fun ht => ?_, fun k ht hs hk => ?_⟩,
    fun s h level ha => ?_, fun s hp hl htrim hhold hpin hgood => ?_, fun s d hp hl hs hh => ⟨fun h2 hr => ?_, fun h2 hs' ho => ?_⟩, fun s d => ?_,
    fun s => ?_, fun s => ?_, fun s cp => ?_, fun s => ?_, fun s hp => ?_, fun s => ?_⟩
  · intro u
    have h := applyReset_cleared l s
    have hrst : u.rst = _ := applyReset_rst l s
    refine ⟨h.fuses, h.users, h.adapt, h.capture, h.replay, ?_⟩
    rw [hrst]
    exact ⟨rfl, rfl⟩
  · intro u
    have hu : u = _ := applyReset_eq l s
    rw [hu]
    rcases hl with rfl | rfl
    all_goals exact ⟨rfl, rfl, rfl, rfl, rfl, rfl, rfl, rfl, rfl, rfl, rfl⟩
  · intro u
    have hu : u = _ := applyReset_eq .l2 s
    rw [hu]
    exact resetWarm_quiet hc hr
  · intro u
    have hu : u = _ := applyReset_eq .l3 s
    obtain ⟨hhost, hgraphs, hpaused, htiles, hradio, hcells⟩ := resetRadio_quiet (s := s) hr
    rw [hu]
    exact ⟨hhost, hgraphs, hpaused, htiles, hradio, fun c _ => hcells c⟩
  · intro u
    have hu : u.rst = _ := assertReset_rst hp ht
    rw [hu]
    exact ⟨rfl, rfl, rfl, rfl⟩
  · exact gives_of_exec (exec_resetNAssert s) (resetPin_rst hp ht)
  · exact gives_of_exec (exec_resetNRelease s) ⟨rfl, resetPinRise_phase⟩
  · intro due
    refine ⟨fun he hd hk => congrArg Host.Outcome.next (if_pos ⟨he, hd, hk⟩), fun h => congrArg Host.Outcome.next (if_neg ?_)⟩
    rintro ⟨he, hd, hk⟩
    rcases h with h | h | h
    · exact Bool.false_ne_true (h.symm.trans he)
    · exact Bool.false_ne_true (h.symm.trans hd)
    · exact absurd hk (Nat.not_le.2 h)
  · exact congrArg Host.Outcome.next (if_pos ⟨hp, hd, hk⟩)
  · refine gives_of_exec (exec_wdtArm period s) ⟨rfl, ?_, fun h => if_neg (by rw [h]; decide)⟩
    show (if between 10 60000 period.toNat = true then _ else _) = _
    simp only [between, Bool.and_eq_true, decide_eq_true_eq]
  · exact congrArg Host.Outcome.next (if_pos (.inl ht))
  · obtain ⟨⟨hlow, hout⟩, hhold⟩ := thermalTrip_hot (sensor := sensor) ht hs hk
    exact gives_of_exec (exec_thermalTrip sensor s) ⟨hlow, hout, hhold⟩
  · intro u
    rw [exec_reset, serve_accepted ha rfl]
    rfl
  · have h : Loads s := ⟨hp, hl, htrim, hhold, hpin, hgood⟩
    exact ⟨gives_of_exec (exec_trimLoadAttempt true s) (trimLoad_pass h),
      fun hloads => gives_of_exec (exec_trimLoadAttempt false s) (trimLoad_third h hloads),
      fun hloads => gives_of_exec (exec_trimLoadAttempt false s) (trimLoad_again h hloads)⟩
  · exact gives_of_exec (exec_blockRelease d s) (blockRelease_warm ⟨hp, hl, hs, hh⟩ h2 hr)
  · exact gives_of_exec (exec_blockRelease d s) (blockRelease_cold ⟨hp, hl, hs, hh⟩ h2 hs' ho)
  · exact gives_of_exec (exec_clockStuckTimeout (.domain d) s) (clockStuck_domain d s)
  · exact gives_of_exec (exec_clockStuckTimeout .devicePll s) ⟨rfl, rfl⟩
  · exact gives_of_exec (exec_clockStuckTimeout .radioPll s) (clockStuck_radio s)
  · exact gives_of_exec (exec_powerOn cp s) ⟨rfl, rfl, rfl, rfl, rfl, rfl, rfl, rfl⟩
  · exact gives_of_exec (exec_pwrgdFall s) ⟨rfl, rfl, rfl⟩
  · exact gives_of_exec (exec_stbyNRise s) (standbyEnd_spec hp)
  · exact gives_of_exec (exec_stbyNFall s) ⟨rfl, rfl, fun _ => rfl, rfl, (resetCommon_cleared s).fuses, rfl, rfl⟩

end Sys2Proof.Machine
end

section
/-! PROOFS. The test access port and the writes of registers (23 R499, 18 R404, 24 R502 to R516). -/
namespace Sys2Proof.Machine

theorem exec_cluReload (c : ClusterId) (s : State) : exec (.cluReload c) s = .next (reloadAsk c.val s) := rfl
theorem exec_ldpQueueRead (b : Fin 4) (s : State) :
    exec (.ldpQueueRead b) s = .next ((ldpRead b.val s).emit (.word "LDP_QUEUE" (ldpReg s b.val 0x18))) := rfl

section
variable {s : State} {m : Master} {addr v : Nat}

/-! ## The test access port (23 R499) -/

theorem drives_anchor {u : State} (h : s.host.state = .anchor) : s.drives u = u := if_pos h

theorem boundary_value (s : State) (code : Nat) : ∃ v, v < 2 ^ 3210 ∧ s.boundary code = s.draw.2.tap code v :=
  ⟨s.draw.1 % 2 ^ 3210, Nat.mod_lt _ (Nat.two_pow_pos _), rfl⟩

theorem debugAccess_opened {code : Nat} (h : s.sec.lifecycle = .opened) : debugAccess code s = s.draw.2.tap (0x20 + code) s.draw.1 := by
  unfold debugAccess
  exact if_neg (by rw [h]; rintro (h | ⟨h, -⟩) <;> cases h)

/-! ## Writes of registers (24 R502, R503) -/

/-- An address that a block of the register region covers, a multiple of 8. -/
structure Mapped (addr : Nat) : Prop where
  low : regBase ≤ addr
  high : addr - regBase < 0x100000000
  aligned : addr % 8 = 0
  block : blockOf ((addr - regBase) / 0x10000) ≠ .none

theorem Mapped.serves (h : Mapped addr) : ¬(addr < regBase ∨ 0x100000000 ≤ addr - regBase ∨ (if false = true then addr % 4 ≠ 0 else addr % 8 ≠ 0) ∨
    blockOf ((addr - regBase) / 0x10000) = .none) := by
  rintro (h1 | h2 | h3 | h4)
  · exact absurd h.low (Nat.not_le.2 h1)
  · exact absurd h.high (Nat.not_lt.2 h2)
  · exact h3 h.aligned
  · exact h.block h4

theorem registerWrite_unmapped (h : addr < regBase ∨ addr % 8 ≠ 0) :
    registerWrite m addr false v s = s.emit (.word "REGISTER_WRITE" Code.addrUnmapped.toNat) :=
  if_pos (h.imp_right fun h => .inr (.inl h))

theorem registerWrite_keyStore (h : Mapped addr) (hk : keyStoreAt (addr - regBase) = true) (hm : m ≠ .security) :
    registerWrite m addr false v s = s.sourceReset 7 2 :=
  (if_neg h.serves).trans ((if_pos hk).trans (if_neg hm))

theorem offset_slot {base : Nat} (ha : addr % 8 = 0) (hb : base % 8 = 0) : (addr - base) / 8 * 8 = addr - base := by omega

theorem Mapped.slot (h : Mapped addr) : (addr - regBase) / 8 * 8 = addr - regBase := offset_slot h.aligned (by decide)

theorem registerWrite_ignored (h : Mapped addr) (hk : keyStoreAt (addr - regBase) = false) (hm : mayWrite m (addr - regBase) = false) :
    registerWrite m addr false v s = s := by
  refine (if_neg h.serves).trans ((if_neg (by rw [hk]; decide)).trans (if_neg ?_))
  rw [h.slot, hm]
  decide

theorem registerWrite_takes {u : State} (h : Mapped addr) (hk : keyStoreAt (addr - regBase) = false) (hm : mayWrite m (addr - regBase) = true)
    (hw : s.regWrite m (addr - regBase) v = (u, false)) : registerWrite m addr false v s = u := by
  unfold registerWrite
  dsimp only
  rw [if_neg h.serves, if_neg (by rw [hk]; decide), h.slot, if_pos hm, show s.slotValue (addr - regBase) false v = v from rfl]
  simp only [hw]

theorem registerWrite_refuses {u : State} (h : Mapped addr) (hk : keyStoreAt (addr - regBase) = false) (hm : mayWrite m (addr - regBase) = true)
    (hw : s.regWrite m (addr - regBase) v = (u, true)) :
    registerWrite m addr false v s = u.emit (.word "REGISTER_WRITE" Code.cfgRange.toNat) := by
  unfold registerWrite
  dsimp only
  rw [if_neg h.serves, if_neg (by rw [hk]; decide), h.slot, if_pos hm, show s.slotValue (addr - regBase) false v = v from rfl]
  simp only [hw]

/-! ## PWR_CAP and CYC_HALT (21 R470, 24 Table 2) -/

theorem capOffset : (0xFF0000020010 : Addr).toNat - regBase = 0x20010 := by decide
theorem haltOffset : (0xFF00000E0020 : Addr).toNat - regBase = 0xE0020 := by decide

theorem cap_mapped : Mapped (0xFF0000020010 : Addr).toNat where
  low := by decide
  high := by rw [capOffset]; decide
  aligned := by decide
  block := by rw [capOffset]; decide

theorem halt_mapped : Mapped (0xFF00000E0020 : Addr).toNat where
  low := by decide
  high := by rw [haltOffset]; decide
  aligned := by decide
  block := by rw [haltOffset]; decide

theorem cap_mayWrite (h : m = .host ∨ m = .power) : mayWrite m 0x20010 = true := by
  rcases h with rfl | rfl <;> decide

theorem bits_half (v : Nat) : bits v 0 16 = v % 65536 := by
  unfold bits
  omega

/-- PWR_CAP written. -/
theorem capWrite (s : State) (m : Master) (v : Nat) : s.regWrite m 0x20010 v =
    if between 25 320 (v % 65536) = true then (s.setPower { s.power with cap := v % 65536 }, false) else (s, true) := by
  rw [← bits_half]
  rfl

theorem between_iff {lo hi x : Nat} : between lo hi x = true ↔ lo ≤ x ∧ x ≤ hi := by
  simp only [between, Bool.and_eq_true, decide_eq_true_eq]

theorem bits_low (v : Dword) : bits v.toNat 0 1 = 1 ↔ v.getLsbD 0 = true := by
  rw [BitVec.getLsbD, Nat.testBit_zero, decide_eq_true_eq, bits, Nat.pow_zero, Nat.div_one, Nat.pow_one]

/-- CYC_HALT written. -/
theorem haltWrite (s : State) (m : Master) (v : Dword) : s.regWrite m 0xE0020 v.toNat =
    (s.setSched { s.sched with halt := if v.getLsbD 0 then s.sched.halt <|> some s.frameNow else none }, false) := by
  rw [show s.regWrite m 0xE0020 v.toNat =
    (s.setSched { s.sched with halt := if bits v.toNat 0 1 = 1 then s.sched.halt <|> some s.frameNow else none }, false) from rfl]
  simp only [bits_low]

end

/-- Settles O53: the port's instructions by their captures, a write by its address, its master and its register. -/
theorem accessPorts : Obligations.AccessPorts := by
  refine ⟨fun s => ⟨rfl, rfl, rfl, rfl, ?_, fun ha => ⟨?_, ?_, ?_⟩, fun code ho => ?_⟩, fun s m addr v => ?_, fun s m v hm => ⟨fun h1 h2 => ?_, fun h => ?_⟩,
    fun s v => ?_, fun s c => ⟨fun h => ?_, fun h => ?_⟩, fun s b => ?_⟩
  · obtain ⟨v, hv, he⟩ := boundary_value s 0x02
    exact ⟨v, hv, congrArg Host.Outcome.next he⟩
  · obtain ⟨v, hv, he⟩ := boundary_value s 0x00
    exact ⟨v, hv, congrArg Host.Outcome.next ((drives_anchor ha).trans he)⟩
  · obtain ⟨v, hv, he⟩ := boundary_value s 0x03
    exact ⟨v, hv, congrArg Host.Outcome.next ((drives_anchor ha).trans he)⟩
  · exact congrArg Host.Outcome.next (drives_anchor ha)
  · exact ⟨_, congrArg Host.Outcome.next (debugAccess_opened ho)⟩
  · intro off
    refine ⟨fun h => ?_, fun h1 h2 h3 h4 => ⟨fun hk hne => ?_, fun hk hw => ?_⟩⟩
    · exact congrArg Host.Outcome.next (registerWrite_unmapped h)
    · exact congrArg Host.Outcome.next (registerWrite_keyStore ⟨h1, h2, h3, h4⟩ hk hne)
    · exact congrArg Host.Outcome.next (registerWrite_ignored ⟨h1, h2, h3, h4⟩ hk hw)
  · refine congrArg Host.Outcome.next (registerWrite_takes cap_mapped (by rw [capOffset]; decide) (by rw [capOffset, cap_mayWrite hm]) ?_)
    rw [capOffset, capWrite, if_pos (between_iff.2 ⟨h1, h2⟩)]
  · refine congrArg Host.Outcome.next (registerWrite_refuses cap_mapped (by rw [capOffset]; decide) (by rw [capOffset, cap_mayWrite hm]) ?_)
    rw [capOffset, capWrite, if_neg (by rw [between_iff]; omega)]
  · refine congrArg Host.Outcome.next (registerWrite_takes halt_mapped (by rw [haltOffset]; decide) (by rw [haltOffset]; decide) ?_)
    rw [haltOffset, haltWrite]
  · exact congrArg Host.Outcome.next (if_pos h)
  · exact congrArg Host.Outcome.next (if_neg (by rcases h with h | h | h <;> rw [h] <;> decide))
  · refine gives_of_exec (exec_ldpQueueRead b s) ⟨?_, rfl⟩
    exact congrArg BankSt.peak (Table.get_set ..)

end Sys2Proof.Machine
end

section
/-! PROOFS. Frames and links of the ports (01 R21, 23 R486 to R491). -/
namespace Sys2Proof.Machine

theorem exec_npFrameReceive (p : Fin 8) (f : NpFrame) (s : State) : exec (.npFrameReceive p f) s = .next (frameReceive p.val f s) := rfl
theorem exec_portLinkLoss (p : Fin 10) (s : State) : exec (.portLinkLoss p) s = .next (s.modPort p.val linkLoss) := rfl
theorem exec_portLinkUp (p : Fin 10) (s : State) : exec (.portLinkUp p) s = .next (linkUp p.val s) := rfl
theorem exec_mkaExchange (p : Fin 2) (cak : List Byte) (s : State) : exec (.mkaExchange p cak) s = .next (mkaEnd p.val cak s) := rfl
theorem exec_arpNdReply (p : Fin 2) (v6 : Bool) (target : List Byte) (s : State) :
    exec (.arpNdReply p v6 target) s = .next (addressReply p.val v6 target s) := rfl

section
variable {s : State} {x : Net} {p : Nat} {g : AqmorSeg} {q : Port}

theorem setPort_netPort : (s.setPort p q).netPort p = q := Table.get_set ..
theorem modPort_netPort {f : Port → Port} : (s.modPort p f).netPort p = f (s.netPort p) := Table.get_set ..

/-! ## A write of external memory does not look at the ports -/

theorem writeUnit_setNet (a : Nat) (bs : List Byte) : (s.setNet x).writeUnit a bs = (s.writeUnit a bs).setNet x := by
  unfold State.writeUnit
  dsimp only
  rw [State.setNet_mem]
  by_cases h : (s.mem.bad.contains (a / 64) && !decide (bs.length = 64)) = true
  · rw [if_pos h, if_pos h]
  · rw [if_neg h, if_neg h]
    rfl

theorem writeUnits_setNet (fuel a : Nat) (bs : List Byte) :
    State.writeUnits fuel (s.setNet x) a bs = (State.writeUnits fuel s a bs).setNet x := by
  induction fuel generalizing s a bs with
  | zero => rfl
  | succ f ih =>
    cases bs with
    | nil => rfl
    | cons b r =>
      rw [State.writeUnits, State.writeUnits, writeUnit_setNet, ih]

/-- An uncorrectable error counted on the channel of an address. -/
def ueCounted (a : Nat) (m : ExtMem) : ExtMem :=
  { m with eccUncorr := m.eccUncorr.set 0 (memChannel a) (bump top32 (m.eccUncorr.get 0 (memChannel a))) }

theorem extWrite_mem (a : Nat) (bs : List Byte) : (s.extWrite a bs).mem = if bs.isEmpty then s.mem
    else if s.mergeBad a bs.length then ueCounted a (State.writeUnits (bs.length / 64 + 2) s a bs).mem
    else (State.writeUnits (bs.length / 64 + 2) s a bs).mem := by
  unfold State.extWrite
  dsimp only
  split
  · rfl
  · split
    · exact Within.refl.record.same .mem (by decide)
    · rfl

theorem extWrite_setNet_mem (a : Nat) (bs : List Byte) : ((s.setNet x).extWrite a bs).mem = (s.extWrite a bs).mem := by
  rw [extWrite_mem, extWrite_mem, writeUnits_setNet]
  rfl

/-! ## Inference messages (23 R487 to R489) -/

/-- A whole inference message in one segment that keeps 23 Table 3. -/
structure WholeInput (g : AqmorSeg) : Prop where
  inf : g.inf = true
  ok : segOk g = true
  first : g.first = true
  last : g.last = true
  type : g.type = 7
  head : 8 ≤ g.data.length

theorem WholeInput.length (h : WholeInput g) : g.data.length = g.length.toNat := by
  have hok := h.ok
  simp only [segOk, Bool.and_eq_true, h.first, h.last, beq_iff_eq] at hok
  obtain ⟨⟨-, hfirst⟩, hlast⟩ := hok
  have hzero : g.offset = 0 := by simpa using hfirst.symm
  have hsum : g.offset.toNat + g.data.length = g.length.toNat := by simpa using hlast.symm
  rw [hzero] at hsum
  simpa using hsum

/-- The message as a segment begins it. -/
def firstReasm (g : AqmorSeg) : Reasm := { seq := g.seq, type := g.type, length := g.length.toNat, got := g.data }

theorem takeSegment_whole (h : WholeInput g) (hq : q.reasmInf = none) : takeSegment q g = ({ q with reasmInf := none }, some (firstReasm g)) := by
  unfold takeSegment reasmOf
  simp only [h.inf, h.ok, h.first, hq]
  exact if_pos h.length

/-- The port and the last inference port after a whole inference message. -/
def inputNet (p : Nat) (sender : List Byte) (s : State) : Net :=
  { s.net with ports := s.net.ports.set Port.init p { s.netPort p with peerInf := some sender, reasmInf := none }, lastInf := some p }

theorem aqmor_whole {sender : List Byte} (h : WholeInput g) (hq : (s.netPort p).reasmInf = none) :
    s.aqmor p sender g = (s.setNet (inputNet p sender s)).inferenceInput p (firstReasm g) := by
  have htaken := takeSegment_whole (q := { s.netPort p with peerInf := some sender }) h hq
  dsimp only at htaken
  unfold State.aqmor
  simp only [h.ok, h.inf, Bool.not_true, Bool.false_eq_true, if_false, if_true, and_self]
  rw [htaken]
  rfl

theorem inferenceInput_writes (h : WholeInput g) (hr : s.extRange (leNat (g.data.take 8)) (g.data.drop 8).length = true)
    (hd : s.domainOk .inference (leNat (g.data.take 8)) (g.data.drop 8).length = true) :
    s.inferenceInput p (firstReasm g) = s.extWrite (leNat (g.data.take 8)) (g.data.drop 8) :=
  (if_neg (Classical.not_not.2 h.type)).trans (if_pos ⟨h.head, hr, hd⟩)

theorem inferenceInput_drops (h : WholeInput g) (hd : s.domainOk .inference (leNat (g.data.take 8)) (g.data.drop 8).length = false) :
    s.inferenceInput p (firstReasm g) = s.modPort p fun p => { p with dropDomain := bump top32 p.dropDomain } :=
  (if_neg (Classical.not_not.2 h.type)).trans (if_neg fun ⟨_, _, h⟩ => Bool.false_ne_true (hd.symm.trans h))

/-! ## Frames (01 R21) -/

/-- A frame that comes on a port that is up, outside replay. -/
theorem frameReceive_live {f : NpFrame} (hu : (s.netPort p).up = true) (hr : s.capture.replay = none) :
    ¬((!(s.netPort p).up) = true ∧ (s.replayEntry 1).isNone = true) ∧
    ¬(s.replaying = true ∧ (!(s.replayEntry 1).any fun e => e.port == p && e.payload == f.bytes) = true) ∧ ¬s.replaying = true := by
  have hreplay : s.replaying = false := by rw [State.replaying, hr]; rfl
  rw [hu, hreplay]
  exact ⟨fun h => Bool.false_ne_true h.1, fun h => Bool.false_ne_true h.1, Bool.false_ne_true⟩

theorem frameReceive_unclassified {f : NpFrame} (hu : (s.netPort p).up = true) (hr : s.capture.replay = none) (hf : s.frameDomain f = none) :
    frameReceive p f s = s.modPort p fun x => { x with unclassified := bump top32 x.unclassified } := by
  obtain ⟨h1, h2, h3⟩ := frameReceive_live (f := f) hu hr
  unfold frameReceive
  rw [if_neg h1, if_neg h2, if_neg h3]
  simp only [hf]

theorem frameReceive_inference {f : NpFrame} (hu : (s.netPort p).up = true) (hr : s.capture.replay = none) (hc : s.capture.on = false)
    (hf : s.frameDomain f = some .inference) (hk : f.kind = .aqmor g) : frameReceive p f s = s.aqmor p f.sender g := by
  obtain ⟨h1, h2, h3⟩ := frameReceive_live (f := f) hu hr
  unfold frameReceive
  rw [if_neg h1, if_neg h2, if_neg h3]
  simp only [hf, hk]
  rw [show s.captureItem 1 p 1 f.bytes = s from if_pos (by rw [hc]; rfl)]

/-! ## Links (23 R489) -/

theorem linkLoss_down (q : Port) : (linkLoss q).up = false ∧ (linkLoss q).macsec = false ∧ (linkLoss q).reasmTb = none ∧
    (linkLoss q).reasmInf = none := by
  unfold linkLoss
  extract_lets p1 p2
  have h1 : p1.reasmTb = none := by
    unfold p1
    split
    · rfl
    · next h => exact Option.not_isSome_iff_eq_none.1 h
  have h2 : p2.reasmTb = none ∧ p2.reasmInf = none := by
    unfold p2
    split
    · exact ⟨h1, rfl⟩
    · next h => exact ⟨h1, Option.not_isSome_iff_eq_none.1 h⟩
  exact ⟨rfl, rfl, h2.1, h2.2⟩

end

/-- Settles O55: a frame by its domain, a whole inference message by the one write it asks for, links and addresses by their cases. -/
theorem portFrames : Obligations.PortFrames := by
  refine ⟨fun s p f hu hr hf => congrArg Host.Outcome.next (frameReceive_unclassified hu hr hf), fun s p f g => ?_, fun s p => ?_,
    fun s p => ⟨fun hm => ?_, fun hm => congrArg Host.Outcome.next (if_pos hm)⟩, fun s p cak hu => ?_, fun s p v6 target => ?_⟩
  · intro a rest hu hr hc hf hk hinf hok hfirst hlast htype hq hhead
    have hwhole : WholeInput g := ⟨hinf, hok, hfirst, hlast, htype, hhead⟩
    have hframe : frameReceive p.val f s = (s.setNet (inputNet p.val f.sender s)).inferenceInput p.val (firstReasm g) :=
      (frameReceive_inference hu hr hc hf hk).trans (aqmor_whole hwhole hq)
    refine ⟨fun hrange hd => gives_of_exec (exec_npFrameReceive p f s) ?_, fun hd => gives_of_exec (exec_npFrameReceive p f s) ?_⟩
    · have hnet : ∀ u : State, (u.extWrite a rest).net = u.net := fun u => Within.refl.extWrite.same .net (by decide)
      rw [hframe, inferenceInput_writes (s := s.setNet (inputNet p.val f.sender s)) hwhole hrange hd]
      refine ⟨extWrite_setNet_mem a rest, congrArg Net.lastInf (hnet _), ?_⟩
      rw [netPort_congr (hnet _)]
      exact congrArg Port.peerInf (Table.get_set ..)
    · rw [hframe, inferenceInput_drops (s := s.setNet (inputNet p.val f.sender s)) hwhole hd]
      refine ⟨rfl, ?_⟩
      rw [modPort_netPort]
      rw [show (s.setNet (inputNet p.val f.sender s)).netPort p.val = _ from Table.get_set ..]
  · refine gives_of_exec (exec_portLinkLoss p s) ?_
    rw [modPort_netPort]
    exact linkLoss_down _
  · refine gives_of_exec (exec_portLinkUp p s) ?_
    rw [show linkUp p.val s = _ from if_neg hm, modPort_netPort]
    exact ⟨rfl, rfl⟩
  · refine gives_of_exec (exec_mkaExchange p cak s) ?_
    rw [show mkaEnd p.val cak s = _ from if_pos hu]
    refine ⟨?_, rfl⟩
    rw [show ∀ (u : State) (o : Out) (k : Nat), (u.emit o).netPort k = u.netPort k from fun _ _ _ => rfl, modPort_netPort]
  · intro own
    exact ⟨fun hu ht => congrArg Host.Outcome.next (if_pos ⟨hu, ht⟩), fun ht => congrArg Host.Outcome.next (if_neg fun h => ht h.2)⟩

end Sys2Proof.Machine
end
